-- ==== Sys2Proof/Word.lean ====
section
/-!
DEFINITION. Sys2Proof/Word.lean: the widths the manual gives its values (R2, R5), little-endian throughout.
-/

namespace Sys2Proof

/-- A scalar register, an address or a system register (R50). -/
abbrev Word := BitVec 64

/-- A byte of memory. -/
abbrev Byte := BitVec 8

/-- A vector register or a 64-byte line (R9, R50). -/
abbrev Line := BitVec 512

/-- An accumulator tile slot of 16 x 16 f32 (R50). -/
abbrev Tile := BitVec 8192

/-- A signature of four banks of 256 bits (R108). -/
abbrev Sig := BitVec 1024

end Sys2Proof
end

