-- ==== Sys2Proof/Syntax.lean ====
section
/-!
DEFINITION. Sys2Proof/Syntax.lean: the steps of the Cipiath C2, one constructor per row of spec/opcode_table.json.

The first group are the Birpa instructions: a constructor holds exactly the fields its entry's encoding gives it, each at
the width in which the entry admits values (a field that names a v register has 5 bits, a mask 3, a span 2, a tile 4),
so a value the entry refuses by its register file (R46) cannot be written down at all.
The instructions without a field stand at the end. The names of the fields: d a b c the register fields D A B C (R42), disp the displacement, p the predicate select (R47),
z a size or width code, g or sg a sign bit, t a type code (R48), rm a rounding mode (R49), w the W modifier (R76).
The second group are the steps the device, its foreman, its benches, its links and its firmware make by themselves;
their fields say where the step takes place (tid a thread, core a core, part a partition, crew a crew, b a bench core,
pkt a packet) and hold what arrives from outside.
-/

namespace Sys2Proof

/-- What the tests of a module reset and the manufacturing fuses say of a physical cluster (R440): its failing cores, the most spare rows
that one of its banks needs, whether its translation unit and its arbiter work, and whether the fuses leave it in. -/
structure ClusterTest where
  failing : List Nat
  rows : Nat
  unitOk : Bool
  arbiterOk : Bool
  fused : Bool
deriving DecidableEq, Repr

/-- What they say of a die: its clusters in physical order, and its good bench cores. -/
structure DieTest where
  clusters : List ClusterTest
  benchGood : Nat
deriving DecidableEq, Repr

/-- How the issue stage's turn comes out: whether the chunk is cut by a boundary (R103), and which slots' operands are late (R71). -/
structure IssueTurn where
  cut : Bool
  late : BitVec 16
deriving DecidableEq, Repr

/-- Where an uncorrectable error was met and of which kind it is (R376). -/
structure ErrorSite where
  va : BitVec 64
  kind : Nat
deriving DecidableEq, Repr

/-- A crew to be resumed, and the bytes of its record and images where the host holds them (R387). -/
structure ResumedCrew where
  crew : Nat
  host : List (BitVec 8)
deriving DecidableEq, Repr

/-- A peer's request number, and how many of its lower-numbered requests are still to come (R428). -/
structure PeerNumber where
  num : Nat
  coming : Nat
deriving DecidableEq, Repr

/-- A block and the energy it has drawn in its window (R432). -/
structure BlockEnergy where
  block : Nat
  energy : Nat
deriving DecidableEq, Repr

/-- The die that reached 115 °C, and the dies not below 100 °C (R435). -/
structure HotDies where
  die : Nat
  warm : List Nat
deriving DecidableEq, Repr

/-- Who consumes a line (R438): what kind of reader, and which one. -/
structure LineReader where
  who : Nat
  unit : Nat
deriving DecidableEq, Repr

/-- The line as it came, with the check value that came with it (R438). -/
structure CheckedLine where
  va : BitVec 64
  img : BitVec 512
  check : BitVec 16
deriving DecidableEq, Repr

/-- One step of the machine: a Birpa instruction, an EP instruction of a bench core, or an event. -/
inductive Instr where
  /-- J (R92): Jumps to a line-relative target PC given by a 21-bit line offset and a head index. -/
  | j (off : BitVec 21) (hi : BitVec 5)
  /-- JL (R92): Jumps to a line-relative target and writes the PC of the next head to the link register. -/
  | jl (d : BitVec 6) (off : BitVec 21) (hi : BitVec 5)
  /-- JR (R93): Jumps to the full PC held in a register. -/
  | jr (a : BitVec 6)
  /-- JLR (R93): Jumps through a register and writes the link PC. -/
  | jlr (d a : BitVec 6)
  /-- BEQ (R94): Branches when two registers are equal. -/
  | beq (d a : BitVec 6) (off : BitVec 21) (hi : BitVec 5)
  /-- BNE (R94): Branches when two registers differ. -/
  | bne (d a : BitVec 6) (off : BitVec 21) (hi : BitVec 5)
  /-- BLT (R94): Branches on signed less-than. -/
  | blt (d a : BitVec 6) (off : BitVec 21) (hi : BitVec 5)
  /-- BGE (R94): Branches on signed greater-or-equal. -/
  | bge (d a : BitVec 6) (off : BitVec 21) (hi : BitVec 5)
  /-- BLTU (R94): Branches on unsigned less-than. -/
  | bltu (d a : BitVec 6) (off : BitVec 21) (hi : BitVec 5)
  /-- BGEU (R94): Branches on unsigned greater-or-equal. -/
  | bgeu (d a : BitVec 6) (off : BitVec 21) (hi : BitVec 5)
  /-- BZ (R94): Branches when a register is zero. -/
  | bz (d : BitVec 6) (off : BitVec 21) (hi : BitVec 5)
  /-- BNZ (R94): Branches when a register is not zero. -/
  | bnz (d : BitVec 6) (off : BitVec 21) (hi : BitVec 5)
  /-- BMANY (R95): Branches when some tested mask bit is set. -/
  | bmany (d : BitVec 3) (a : BitVec 2) (off : BitVec 21) (hi : BitVec 5)
  /-- BMNONE (R95): Branches when no tested mask bit is set. -/
  | bmnone (d : BitVec 3) (a : BitVec 2) (off : BitVec 21) (hi : BitVec 5)
  /-- BMALL (R95): Branches when every tested mask bit is set. -/
  | bmall (d : BitVec 3) (a : BitVec 2) (off : BitVec 21) (hi : BitVec 5)
  /-- WAITA (R125): Stands alone, reads a word and commits when the condition holds, else abandons the chunk and sleeps. -/
  | waita (d : BitVec 6) (z : BitVec 1) (k : BitVec 2) (b a : BitVec 6) (disp : BitVec 16)
  /-- ADD (R77): Adds two registers modulo 2^w, with optional 32-bit width. -/
  | add (d : BitVec 6) (w : BitVec 1) (b a : BitVec 6)
  /-- SUB (R77): Subtracts two registers modulo 2^w. -/
  | sub (d : BitVec 6) (w : BitVec 1) (b a : BitVec 6)
  /-- ADDI (R80): Adds a sign-extended 10-bit immediate. -/
  | addi (d : BitVec 6) (i : BitVec 10) (a : BitVec 6)
  /-- MUL (R77): Multiplies two registers modulo 2^w. -/
  | mul (d : BitVec 6) (w : BitVec 1) (b a : BitVec 6)
  /-- MULH (R77): Gives the high 64 bits of the signed 128-bit product. -/
  | mulh (d b a : BitVec 6)
  /-- MULHU (R77): Gives the high 64 bits of the unsigned 128-bit product. -/
  | mulhu (d b a : BitVec 6)
  /-- DIV (R78): Signed division truncating towards zero, with defined results for zero and overflow. -/
  | div (d : BitVec 6) (w : BitVec 1) (b a : BitVec 6)
  /-- DIVU (R78): Unsigned division. -/
  | divu (d : BitVec 6) (w : BitVec 1) (b a : BitVec 6)
  /-- REM (R78): Signed remainder with the dividend's sign. -/
  | rem (d : BitVec 6) (w : BitVec 1) (b a : BitVec 6)
  /-- REMU (R78): Unsigned remainder. -/
  | remu (d : BitVec 6) (w : BitVec 1) (b a : BitVec 6)
  /-- AND (R77): Bitwise AND of two registers. -/
  | and (d b a : BitVec 6)
  /-- OR (R77): Bitwise OR of two registers. -/
  | or (d b a : BitVec 6)
  /-- XOR (R77): Bitwise XOR of two registers. -/
  | xor (d b a : BitVec 6)
  /-- ANDI (R80): Bitwise AND with a sign-extended immediate. -/
  | andi (d : BitVec 6) (i : BitVec 10) (a : BitVec 6)
  /-- ORI (R80): Bitwise OR with a sign-extended immediate. -/
  | ori (d : BitVec 6) (i : BitVec 10) (a : BitVec 6)
  /-- XORI (R80): Bitwise XOR with a sign-extended immediate. -/
  | xori (d : BitVec 6) (i : BitVec 10) (a : BitVec 6)
  /-- SHL (R79): Logical left shift by a register amount. -/
  | shl (d : BitVec 6) (w : BitVec 1) (b a : BitVec 6)
  /-- SHR (R79): Logical right shift by a register amount. -/
  | shr (d : BitVec 6) (w : BitVec 1) (b a : BitVec 6)
  /-- SHA (R79): Arithmetic right shift by a register amount. -/
  | sha (d : BitVec 6) (w : BitVec 1) (b a : BitVec 6)
  /-- SHLI (R80): Logical left shift by an immediate amount. -/
  | shli (d : BitVec 6) (w : BitVec 1) (n a : BitVec 6)
  /-- SHRI (R80): Logical right shift by an immediate amount. -/
  | shri (d : BitVec 6) (w : BitVec 1) (n a : BitVec 6)
  /-- SHAI (R80): Arithmetic right shift by an immediate amount. -/
  | shai (d : BitVec 6) (w : BitVec 1) (n a : BitVec 6)
  /-- ROL (R79): Rotates left by a register amount. -/
  | rol (d : BitVec 6) (w : BitVec 1) (b a : BitVec 6)
  /-- ROLI (R80): Rotates left by an immediate amount. -/
  | roli (d : BitVec 6) (w : BitVec 1) (n a : BitVec 6)
  /-- SLT (R77): Sets 1 on signed less-than. -/
  | slt (d b a : BitVec 6)
  /-- SLTU (R77): Sets 1 on unsigned less-than. -/
  | sltu (d b a : BitVec 6)
  /-- SLTI (R80): Sets 1 when the register is signed-less than the immediate. -/
  | slti (d : BitVec 6) (i : BitVec 10) (a : BitVec 6)
  /-- MIN (R77): Signed minimum. -/
  | min (d b a : BitVec 6)
  /-- MAX (R77): Signed maximum. -/
  | max (d b a : BitVec 6)
  /-- MINU (R77): Unsigned minimum. -/
  | minu (d b a : BitVec 6)
  /-- MAXU (R77): Unsigned maximum. -/
  | maxu (d b a : BitVec 6)
  /-- SEL (R89): Selects one of two registers by a condition on a third. -/
  | sel (d : BitVec 6) (k : BitVec 2) (b a c : BitVec 6)
  /-- LI (R81): Loads a sign-extended 42-bit immediate. -/
  | li (d : BitVec 6) (imm : BitVec 42)
  /-- LIH (R82): Replaces one 16-bit quarter of a register with an immediate. -/
  | lih (d : BitVec 6) (k : BitVec 2) (a : BitVec 6) (imm : BitVec 16)
  /-- ADDPC (R83): Adds a 42-bit immediate to the line address of its own line. -/
  | addpc (d : BitVec 6) (imm : BitVec 42)
  /-- CLZ (R84): Counts leading zeros at a chosen width. -/
  | clz (d : BitVec 6) (z : BitVec 2) (a : BitVec 6)
  /-- CTZ (R84): Counts trailing zeros at a chosen width. -/
  | ctz (d : BitVec 6) (z : BitVec 2) (a : BitVec 6)
  /-- POPC (R84): Counts set bits at a chosen width. -/
  | popc (d : BitVec 6) (z : BitVec 2) (a : BitVec 6)
  /-- BREV (R84): Reverses bits at a chosen width. -/
  | brev (d : BitVec 6) (z : BitVec 2) (a : BitVec 6)
  /-- BSWAP (R84): Reverses bytes at a chosen width. -/
  | bswap (d : BitVec 6) (z : BitVec 2) (a : BitVec 6)
  /-- ILV (R87): Interleaves bits of two or three registers into a Morton code. -/
  | ilv (d : BitVec 6) (f : BitVec 1) (b a c : BitVec 6)
  /-- DILV (R88): De-interleaves one component of a Morton code. -/
  | dilv (d : BitVec 6) (f : BitVec 1) (a : BitVec 6) (jc : BitVec 2)
  /-- EXT (R85): Extracts a bit field, zero- or sign-extended. -/
  | ext (d a : BitVec 6) (sg : BitVec 1) (len pos : BitVec 6)
  /-- INS (R86): Inserts a bit field from one register into another. -/
  | ins (d b a len pos : BitVec 6)
  /-- ADDSH (R77): Adds a register shifted left by 0-15. -/
  | addsh (d : BitVec 6) (n : BitVec 4) (b a : BitVec 6)
  /-- MADD (R90): Multiply-adds or multiply-subtracts modulo 2^64. -/
  | madd (d : BitVec 6) (f : BitVec 1) (b a c : BitVec 6)
  /-- LD (R151): Loads 1-8 bytes from base plus displacement, zero- or sign-extended. -/
  | ld (d : BitVec 6) (g : BitVec 1) (z : BitVec 2) (a : BitVec 6) (disp : BitVec 16)
  /-- ST (R151): Stores 1-8 bytes into the chunk's L1 buffer. -/
  | st (z : BitVec 2) (b a : BitVec 6) (disp : BitVec 16)
  /-- LDX (R151): Loads from base plus scaled index. -/
  | ldx (d : BitVec 6) (g : BitVec 1) (z : BitVec 2) (b a : BitVec 6)
  /-- STX (R151): Stores to base plus scaled index. -/
  | stx (z : BitVec 2) (b a c : BitVec 6)
  /-- LDP (R152): Loads a register pair as one access. -/
  | ldp (d : BitVec 6) (g : BitVec 1) (z : BitVec 2) (a : BitVec 6) (disp : BitVec 16)
  /-- STP (R152): Stores a register pair as one access. -/
  | stp (z : BitVec 2) (b a : BitVec 6) (disp : BitVec 16)
  /-- VLD (R154): Loads active vector elements from contiguous addresses. -/
  | vld (d : BitVec 5) (z : BitVec 2) (a p : BitVec 6) (disp : BitVec 16)
  /-- VST (R154): Stores active vector elements to contiguous addresses. -/
  | vst (d : BitVec 5) (z : BitVec 2) (a p : BitVec 6) (disp : BitVec 16)
  /-- VLDS (R154): Loads vector elements at a register stride. -/
  | vlds (d : BitVec 5) (z : BitVec 2) (b a p : BitVec 6) (disp : BitVec 16)
  /-- VSTS (R154): Stores vector elements at a register stride, unbuffered when R442 requires. -/
  | vsts (d : BitVec 5) (z : BitVec 2) (b a p : BitVec 6) (disp : BitVec 16)
  /-- VGATH (R154): Gathers vector elements by an index group. -/
  | vgath (d : BitVec 5) (z : BitVec 2) (a : BitVec 6) (ig : BitVec 1) (iw : BitVec 2) (p : BitVec 6) (c : BitVec 5) (disp : BitVec 16)
  /-- VSCAT (R154): Scatters vector elements by an index group, unbuffered when R442 requires. -/
  | vscat (d : BitVec 5) (z : BitVec 2) (a : BitVec 6) (ig : BitVec 1) (iw : BitVec 2) (p : BitVec 6) (c : BitVec 5) (disp : BitVec 16)
  /-- PREF (R157): Hints that a line be brought to a cache level, with no architectural effect. -/
  | pref (z : BitVec 2) (a : BitVec 6) (disp : BitVec 16)
  /-- DISCARD (R158): Stands alone and at package grant drops every cached copy of a range without write-back. -/
  | discard (b a : BitVec 6)
  /-- CLEAN (R159): Stands alone and writes a range's latest committed values to their destination. -/
  | clean (b a : BitVec 6)
  /-- BANKCFG (R146): Stands alone, returns a bank's status and at commit changes its mode or owner, clearing it. -/
  | bankcfg (d : BitVec 6) (z : BitVec 2) (a : BitVec 6) (bank : BitVec 4)
  /-- BANKQ (R147): Reads a bank's status word. -/
  | bankq (d a : BitVec 6)
  /-- FPUSH (R149): Appends an entry to a FIFO bank in the chunk's view. -/
  | fpush (d b a : BitVec 6) (disp : BitVec 16)
  /-- FPOP (R149): Removes the head entry of a FIFO bank in the chunk's view. -/
  | fpop (d b a : BitVec 6) (disp : BitVec 16)
  /-- FPEEK (R149): Reads the head entry and count of a FIFO bank. -/
  | fpeek (d b a : BitVec 6) (disp : BitVec 16)
  /-- AADD (R168): Far atomic add carried with the chunk and applied at the home after grant. -/
  | aadd (z : BitVec 1) (b a : BitVec 6) (disp : BitVec 16)
  /-- AAND (R168): Far atomic AND. -/
  | aand (z : BitVec 1) (b a : BitVec 6) (disp : BitVec 16)
  /-- AOR (R168): Far atomic OR. -/
  | aor (z : BitVec 1) (b a : BitVec 6) (disp : BitVec 16)
  /-- AXOR (R168): Far atomic XOR. -/
  | axor (z : BitVec 1) (b a : BitVec 6) (disp : BitVec 16)
  /-- AMIN (R168): Far atomic minimum, signed or unsigned. -/
  | amin (g z : BitVec 1) (b a : BitVec 6) (disp : BitVec 16)
  /-- AMAX (R168): Far atomic maximum, signed or unsigned. -/
  | amax (g z : BitVec 1) (b a : BitVec 6) (disp : BitVec 16)
  /-- AFADD (R169): Far atomic floating-point add, rounded rne at the home. -/
  | afadd (z : BitVec 1) (b a : BitVec 6) (disp : BitVec 16)
  /-- XADD (R177): Stands alone; at grant the home adds and returns the old word. -/
  | xadd (d : BitVec 6) (z : BitVec 1) (b a : BitVec 6) (disp : BitVec 16)
  /-- XCHG (R177): Stands alone; at grant the home swaps and returns the old word. -/
  | xchg (d : BitVec 6) (z : BitVec 1) (b a : BitVec 6) (disp : BitVec 16)
  /-- CAS (R177): Stands alone; at grant the home compares and swaps and returns the old word. -/
  | cas (d : BitVec 6) (z : BitVec 1) (b a c : BitVec 6) (disp : BitVec 16)
  /-- SWAIT (R179): Waits until a semaphore word reaches a count, without taking it. -/
  | swait (d : BitVec 6) (z : BitVec 1) (b a : BitVec 6) (disp : BitVec 16)
  /-- SWAIT_TAKE (R179): Waits until a semaphore word reaches a count and subtracts it at commit. -/
  | swaitTake (d : BitVec 6) (z : BitVec 1) (b a : BitVec 6) (disp : BitVec 16)
  /-- SPOST (R178): Far atomic add applied only after the thread's earlier engine commands have completed. -/
  | spost (z : BitVec 1) (b a : BitVec 6) (disp : BitVec 16)
  /-- DGUARD (R180): Records a determinism guard over a physical range at commit. -/
  | dguard (d b a : BitVec 6)
  /-- DGEND (R181): Removes the crew's guard equal to a range at commit. -/
  | dgend (b a : BitVec 6)
  /-- FCVT (R201): Converts vector elements between float formats. -/
  | fcvt (d : BitVec 5) (t u : BitVec 4) (a : BitVec 5) (sat : BitVec 1) (rm : BitVec 3) (p : BitVec 6)
  /-- FCVTI (R199): Converts float elements to integers with saturation or wrap. -/
  | fcvti (d : BitVec 5) (t u : BitVec 4) (a : BitVec 5) (sat : BitVec 1) (rm : BitVec 3) (p : BitVec 6)
  /-- ICVTF (R200): Converts integer elements to a float format. -/
  | icvtf (d : BitVec 5) (t u : BitVec 4) (a : BitVec 5) (sat : BitVec 1) (rm : BitVec 3) (p : BitVec 6)
  /-- FPACK (R207): Packs wide elements into MX blocks with shared e8m0 scales. -/
  | fpack (d : BitVec 5) (t : BitVec 4) (a : BitVec 5) (rm : BitVec 3) (p c : BitVec 5) (et : BitVec 4)
  /-- FUNPK (R208): Unpacks MX blocks into a wide float format. -/
  | funpk (d : BitVec 5) (t : BitVec 4) (a : BitVec 5) (sat : BitVec 1) (rm : BitVec 3) (p : BitVec 6) (c : BitVec 5) (et : BitVec 4)
  /-- FSCL (R204): Multiplies elements by a power of two, per element or per block. -/
  | fscl (d : BitVec 5) (t : BitVec 4) (k : BitVec 1) (a : BitVec 5) (sat : BitVec 1) (rm : BitVec 3) (p : BitVec 6) (c : BitVec 5)
  /-- FCLASS (R203): Writes the class number of each element. -/
  | fclass (d : BitVec 5) (t : BitVec 4) (a : BitVec 5) (p : BitVec 6)
  /-- FRINT (R202): Rounds elements to integral values of the same type. -/
  | frint (d : BitVec 5) (t : BitVec 4) (k : BitVec 1) (a : BitVec 5) (rm : BitVec 3) (p : BitVec 6)
  /-- REP (R221): Repeats the following head with stepped register fields, resumable through repst. -/
  | rep (a : BitVec 6) (sts : BitVec 16)
  /-- VSPAN (R225): Writes a span register with width, group length and clipped count. -/
  | vspan (d z : BitVec 2) (a : BitVec 6) (n : BitVec 3)
  /-- MMOV (R226): Copies one mask register to another. -/
  | mmov (d a : BitVec 3)
  /-- MMOV_FX (R226): Copies a scalar register into a mask register. -/
  | mmovFx (d : BitVec 3) (a : BitVec 6)
  /-- MMOV_TX (R226): Copies a mask register into a scalar register. -/
  | mmovTx (d : BitVec 6) (a : BitVec 3)
  /-- MMOV_SP (R226): Sets a mask to the first COUNT bits of a span. -/
  | mmovSp (d : BitVec 3) (a : BitVec 2)
  /-- MAND (R226): ANDs two masks, optionally inverting the second. -/
  | mand (d : BitVec 3) (n : BitVec 1) (b a : BitVec 3)
  /-- MOR (R226): ORs two masks, optionally inverting the second. -/
  | mor (d : BitVec 3) (n : BitVec 1) (b a : BitVec 3)
  /-- MXOR (R226): XORs two masks. -/
  | mxor (d b a : BitVec 3)
  /-- MNOT (R226): Complements a mask. -/
  | mnot (d a : BitVec 3)
  /-- MPOP (R226): Counts the set bits of a mask within a span. -/
  | mpop (d : BitVec 6) (b : BitVec 2) (a : BitVec 3)
  /-- MFIRST (R226): Finds the lowest set mask bit within a span. -/
  | mfirst (d : BitVec 6) (b : BitVec 2) (a : BitVec 3)
  /-- VADD (R228): Adds integer elements, wrapping or saturating. -/
  | vadd (d : BitVec 5) (t : BitVec 3) (b : BitVec 6) (a : BitVec 5) (sat vx : BitVec 1) (p : BitVec 6)
  /-- VSUB (R228): Subtracts integer elements, wrapping or saturating. -/
  | vsub (d : BitVec 5) (t : BitVec 3) (b : BitVec 6) (a : BitVec 5) (sat vx : BitVec 1) (p : BitVec 6)
  /-- VMUL (R228): Multiplies integer elements modulo 2^w. -/
  | vmul (d : BitVec 5) (t : BitVec 3) (b : BitVec 6) (a : BitVec 5) (vx : BitVec 1) (p : BitVec 6)
  /-- VMULH (R228): Gives the high half of integer element products. -/
  | vmulh (d : BitVec 5) (t : BitVec 3) (b : BitVec 6) (a : BitVec 5) (vx : BitVec 1) (p : BitVec 6)
  /-- VAND (R228): Bitwise AND of elements. -/
  | vand (d : BitVec 5) (t : BitVec 3) (b : BitVec 6) (a : BitVec 5) (vx : BitVec 1) (p : BitVec 6)
  /-- VOR (R228): Bitwise OR of elements. -/
  | vor (d : BitVec 5) (t : BitVec 3) (b : BitVec 6) (a : BitVec 5) (vx : BitVec 1) (p : BitVec 6)
  /-- VXOR (R228): Bitwise XOR of elements. -/
  | vxor (d : BitVec 5) (t : BitVec 3) (b : BitVec 6) (a : BitVec 5) (vx : BitVec 1) (p : BitVec 6)
  /-- VSHL (R228): Shifts elements left. -/
  | vshl (d : BitVec 5) (t : BitVec 3) (b : BitVec 6) (a : BitVec 5) (vx : BitVec 1) (p : BitVec 6)
  /-- VSHR (R228): Shifts elements right by type. -/
  | vshr (d : BitVec 5) (t : BitVec 3) (b : BitVec 6) (a : BitVec 5) (vx : BitVec 1) (p : BitVec 6)
  /-- VMIN (R228): Element minimum by type. -/
  | vmin (d : BitVec 5) (t : BitVec 3) (b : BitVec 6) (a : BitVec 5) (vx : BitVec 1) (p : BitVec 6)
  /-- VMAX (R228): Element maximum by type. -/
  | vmax (d : BitVec 5) (t : BitVec 3) (b : BitVec 6) (a : BitVec 5) (vx : BitVec 1) (p : BitVec 6)
  /-- VCMP (R229): Compares integer elements into a mask. -/
  | vcmp (d t : BitVec 3) (b : BitVec 6) (a : BitVec 5) (vx : BitVec 1) (p : BitVec 6) (k : BitVec 3)
  /-- VSEL (R230): Selects elements of two groups by a mask. -/
  | vsel (d : BitVec 5) (t : BitVec 4) (b a : BitVec 5) (p : BitVec 6) (c : BitVec 3)
  /-- VMOV (R230): Moves elements, or broadcasts a scalar. -/
  | vmov (d : BitVec 5) (t : BitVec 4) (b : BitVec 6) (a : BitVec 5) (vx : BitVec 1) (p : BitVec 6)
  /-- VPERM (R230): Permutes elements by an index group. -/
  | vperm (d : BitVec 5) (t : BitVec 4) (b a : BitVec 5) (p : BitVec 6)
  /-- VSLIDE (R230): Slides elements up or down by a scalar amount. -/
  | vslide (d : BitVec 5) (t : BitVec 4) (b : BitVec 6) (a : BitVec 5) (up : BitVec 1) (p : BitVec 6)
  /-- FADD (R232): Adds float elements under a rounding mode. -/
  | fadd (d : BitVec 5) (t : BitVec 2) (b a : BitVec 5) (rm : BitVec 3) (p : BitVec 6)
  /-- FSUB (R232): Subtracts float elements. -/
  | fsub (d : BitVec 5) (t : BitVec 2) (b a : BitVec 5) (rm : BitVec 3) (p : BitVec 6)
  /-- FMUL (R232): Multiplies float elements. -/
  | fmul (d : BitVec 5) (t : BitVec 2) (b a : BitVec 5) (rm : BitVec 3) (p : BitVec 6)
  /-- FMA (R232): Fused multiply-add of float elements, optionally negated. -/
  | fma (d : BitVec 5) (t : BitVec 2) (b a : BitVec 5) (neg : BitVec 1) (rm : BitVec 3) (p : BitVec 6) (c : BitVec 5)
  /-- FDIV (R232): Divides float elements in the SFU. -/
  | fdiv (d : BitVec 5) (t : BitVec 2) (b a : BitVec 5) (rm : BitVec 3) (p : BitVec 6)
  /-- FSQRT (R232): Square root of float elements in the SFU. -/
  | fsqrt (d : BitVec 5) (t : BitVec 2) (a : BitVec 5) (rm : BitVec 3) (p : BitVec 6)
  /-- FMIN (R232): Float element minimum with NaN and zero rules. -/
  | fmin (d : BitVec 5) (t : BitVec 2) (b a : BitVec 5) (p : BitVec 6)
  /-- FMAX (R232): Float element maximum with NaN and zero rules. -/
  | fmax (d : BitVec 5) (t : BitVec 2) (b a : BitVec 5) (p : BitVec 6)
  /-- FCMP (R233): Compares float elements into a mask. -/
  | fcmp (d : BitVec 3) (t : BitVec 2) (b a : BitVec 5) (p : BitVec 6) (k : BitVec 3)
  /-- FSGN (R234): Sets, negates, xors or clears float element signs. -/
  | fsgn (d : BitVec 5) (t : BitVec 2) (b a : BitVec 5) (k : BitVec 2) (p : BitVec 6)
  /-- VRED (R235): Reduces integer elements to a scalar by a pairwise tree. -/
  | vred (d : BitVec 6) (t : BitVec 3) (a : BitVec 5) (k : BitVec 3) (p : BitVec 5)
  /-- FRED (R236): Reduces float elements by a pairwise tree with rounding at each addition. -/
  | fred (d : BitVec 6) (t k : BitVec 2) (a : BitVec 5) (rm : BitVec 3) (p : BitVec 5)
  /-- FDOT (R237): Forms a dot product over a pairwise tree of exact products. -/
  | fdot (d : BitVec 6) (t : BitVec 2) (b a : BitVec 5) (rm : BitVec 3) (p : BitVec 5)
  /-- FEXP (R238): Correctly rounded e^x of elements in the SFU. -/
  | fexp (d : BitVec 5) (t : BitVec 2) (a : BitVec 5) (rm : BitVec 3) (p : BitVec 6)
  /-- FLOG (R238): Correctly rounded ln x of elements. -/
  | flog (d : BitVec 5) (t : BitVec 2) (a : BitVec 5) (rm : BitVec 3) (p : BitVec 6)
  /-- FRCP (R238): Correctly rounded reciprocal of elements. -/
  | frcp (d : BitVec 5) (t : BitVec 2) (a : BitVec 5) (rm : BitVec 3) (p : BitVec 6)
  /-- FRSQ (R238): Correctly rounded reciprocal square root of elements. -/
  | frsq (d : BitVec 5) (t : BitVec 2) (a : BitVec 5) (rm : BitVec 3) (p : BitVec 6)
  /-- FSIN (R238): Correctly rounded sine of elements. -/
  | fsin (d : BitVec 5) (t : BitVec 2) (a : BitVec 5) (rm : BitVec 3) (p : BitVec 6)
  /-- FCOS (R238): Correctly rounded cosine of elements. -/
  | fcos (d : BitVec 5) (t : BitVec 2) (a : BitVec 5) (rm : BitVec 3) (p : BitVec 6)
  /-- FTANH (R238): Correctly rounded tanh of elements. -/
  | ftanh (d : BitVec 5) (t : BitVec 2) (a : BitVec 5) (rm : BitVec 3) (p : BitVec 6)
  /-- TOPN (R241): Selects the N greatest or least active elements with their indices. -/
  | topn (d : BitVec 5) (t : BitVec 4) (a p c : BitVec 5) (lo : BitVec 1) (n : BitVec 9)
  /-- RNG (R243): Fills a group with counter-based random bits. -/
  | rng (d : BitVec 5) (b a : BitVec 6) (sp : BitVec 2) (c : BitVec 6)
  /-- VEXT (R230): Extracts one element into a scalar register. -/
  | vext (d : BitVec 6) (t : BitVec 4) (b : BitVec 6) (a p : BitVec 5)
  /-- MZERO (R258): Zeroes an accumulator tile. -/
  | mzero (d : BitVec 4) (f : BitVec 1)
  /-- MLDA (R259): Panel command that loads an A slice from memory after its chunk commits. -/
  | mlda (d : BitVec 6) (t : BitVec 4) (b a : BitVec 6) (disp : BitVec 16)
  /-- MLDB (R259): Panel command that loads a dense, transposed or compressed B operand. -/
  | mldb (d : BitVec 6) (t : BitVec 4) (b a : BitVec 6) (nc : BitVec 2) (tr : BitVec 1) (disp : BitVec 16)
  /-- MSEED (R260): Panel command that sets a panel's sparsity pattern. -/
  | mseed (d a : BitVec 6) (nc : BitVec 2)
  /-- MMA (R262): Multiplies A and B panels, dense or sparse, into an accumulator tile. -/
  | mma (d t : BitVec 4) (b a : BitVec 6) (nc ks : BitVec 2)
  /-- MSCL (R263): Scales a tile by row and column factors. -/
  | mscl (d : BitVec 4) (f : BitVec 1) (rm : BitVec 3) (c : BitVec 5) (rs cs : BitVec 1)
  /-- MDRAIN (R264): Captures a converted tile and writes it to memory in engine chunks after commit. -/
  | mdrain (d : BitVec 4) (f : BitVec 1) (b a : BitVec 6) (sat : BitVec 1) (rm : BitVec 3) (c : BitVec 5) (ot : BitVec 4) (rs cs : BitVec 1)
  /-- MWAIT (R267): Stands alone until the thread's panel commands and drains complete, returning and clearing status bits. -/
  | mwait (d : BitVec 6)
  /-- MSTAT (R268): Reads the thread's matrix command status. -/
  | mstat (d : BitVec 6)
  /-- MSTAT_P (R268): Reads a panel's state, ownership and pattern class. -/
  | mstatP (d a : BitVec 6)
  /-- MCPRS (R261): Panel command that compresses three dense B panels under a pattern. -/
  | mcprs (d : BitVec 6) (t : BitVec 4) (b a : BitVec 6) (nc : BitVec 2)
  /-- MACC (R266): Adds or sets a tile from memory rows. -/
  | macc (d : BitVec 4) (f : BitVec 1) (b a : BitVec 6) (set : BitVec 1) (rm : BitVec 3) (disp : BitVec 16)
  /-- CPY (R284): Engine command copying a byte range after its chunk's grant. -/
  | cpy (d b a c : BitVec 6)
  /-- CPYS (R285): Engine command copying strided rows. -/
  | cpys (d b a c : BitVec 6)
  /-- CPYG (R286): Engine command gathering or scattering elements by an index array. -/
  | cpyg (d : BitVec 6) (z : BitVec 2) (b a : BitVec 6) (ig : BitVec 1) (iw : BitVec 2) (c : BitVec 6) (sc : BitVec 1)
  /-- CFILL (R287): Engine command filling a range with an 8-byte pattern. -/
  | cfill (d b a c : BitVec 6)
  /-- CSTAT (R288): Reads the thread's engine command status. -/
  | cstat (d : BitVec 6)
  /-- CSTAT_W (R288): Stands alone until the thread has no outstanding engine command, clearing FAIL. -/
  | cstatW (d : BitVec 6)
  /-- RDSET (R298): Declares a reduction instance by writing its block; it opens at commit. -/
  | rdset (d : BitVec 6) (t : BitVec 4) (b a : BitVec 6) (rm : BitVec 3) (c : BitVec 6)
  /-- RDC (R299): Contributes a captured vector to a reduction instance at grant. -/
  | rdc (d : BitVec 5) (t : BitVec 4) (b a : BitVec 6) (sp : BitVec 2)
  /-- RDC_MEM (R299): Contributes a memory range to a reduction instance, read after commit. -/
  | rdcMem (t : BitVec 4) (b a c : BitVec 6)
  /-- RDQ (R300): Reads a reduction instance's live arrival bitmap. -/
  | rdq (d a : BitVec 6)
  /-- RDQ_ST (R300): Reads a reduction instance's status word. -/
  | rdqSt (d a : BitVec 6)
  /-- RDQ_W (R300): Stands alone until a reduction instance has ended, returning its status. -/
  | rdqW (d a : BitVec 6)
  /-- SPAWN (R323): Task message pushing a task record from memory onto a deque at grant. -/
  | spawn (atc : BitVec 1) (b a : BitVec 6) (disp : BitVec 16)
  /-- SPAWNR (R324): Task message pushing a record formed from registers onto the issuing core's deque. -/
  | spawnr (d b a c : BitVec 6) (pin : BitVec 1)
  /-- CNTSET (R325): Task message arming a counter entry with a count and a record. -/
  | cntset (d b a : BitVec 6)
  /-- CNTSET_CLR (R325): Task message freeing a counter entry. -/
  | cntsetClr (d : BitVec 6)
  /-- CNTDEC (R326): Task message decrementing a counter entry on a core. -/
  | cntdec (self : BitVec 1) (b a : BitVec 6) (dec idx : BitVec 8)
  /-- SEND (R327): Task message placing a payload in a member's inbox, optionally decrementing a counter. -/
  | send (d : BitVec 5) (b a : BitVec 6) (cn : BitVec 1) (idx : BitVec 8)
  /-- RECV (R328): Removes the head message of the thread's inbox view. -/
  | recv (d : BitVec 5) (b a : BitVec 6)
  /-- INBQ_N (R329): Returns the number of messages in the inbox view. -/
  | inbqN (d : BitVec 6)
  /-- INBQ_ROOM (R329): Returns the free overflow entries. -/
  | inbqRoom (d : BitVec 6)
  /-- INBQ_STRAY (R329): Returns the crew's stray decrement count on the core. -/
  | inbqStray (d : BitVec 6)
  /-- LAUNCH (R330): Task message writing a launch record into a work queue at grant, or QFULL. -/
  | launch (b a : BitVec 6) (disp : BitVec 16)
  /-- POSTR (R331): Task message setting the launch's result word. -/
  | postr (a : BitVec 6)
  /-- POSTR_OR (R331): Task message ORing into the launch's result word. -/
  | postrOr (a : BitVec 6)
  /-- TSTAMP (R332): Reads a task time-accounting stamp or total. -/
  | tstamp (d : BitVec 6) (k : BitVec 3)
  /-- BAR (R343): Ends the chunk, arrives at a barrier domain and sleeps until release. -/
  | bar (dom : BitVec 4)
  /-- BARDOM (R344): Defines a barrier domain at commit. -/
  | bardom (b a c : BitVec 6) (dom : BitVec 4)
  /-- XPH (R353): Stands alone, reads and checks a tablature and begins arming. -/
  | xph (dom : BitVec 4) (a : BitVec 6) (disp : BitVec 16)
  /-- XMIT (R354): Arms the member's run of lines for transmission at commit. -/
  | xmit (b a : BitVec 6) (rec : BitVec 16)
  /-- XSEL (R355): Arms capture of lines of an owner's run to memory. -/
  | xsel (b a : BitVec 6) (rec : BitVec 16)
  /-- XRCV (R356): Arms capture of one line into a vector register. -/
  | xrcv (d : BitVec 5) (b : BitVec 6) (rec : BitVec 16)
  /-- SSTEP (R346): Ends the task, arrives at a domain and pushes a routine list at release. -/
  | sstep (dom : BitVec 4) (b a : BitVec 6) (disp : BitVec 16)
  /-- GATE (R378): Checks a gate entry and at commit enters the service guild through a frame chunk. -/
  | gate (i : BitVec 10)
  /-- GRET_FAIL (R380): Returns from a gate call with failure, setting GF. -/
  | gretFail (a : BitVec 6)
  /-- TRAP (R369): Raises software trap cause 0x15 with its immediate. -/
  | trap (i : BitVec 10)
  /-- GETS (R371): Reads a system register. -/
  | gets (d : BitVec 6) (i : BitVec 10)
  /-- SETS (R371): Writes a system register, with its access and value checks. -/
  | sets (i : BitVec 10) (a : BitVec 6)
  /-- BRK (R389): Raises breakpoint cause 0x0F at its PC. -/
  | brk (tl : BitVec 2)
  /-- IFLUSH (R390): Ends the chunk and invalidates a code line on the issuing core. -/
  | iflush (a : BitVec 6)
  /-- IFLUSH_ALL (R390): Ends the chunk and invalidates a code line on every core of the partition. -/
  | iflushAll (a : BitVec 6)
  /-- TLBINV_PAGE (R375): Drops a guild's entries mapping an address and wakes matching parked threads. -/
  | tlbinvPage (b a : BitVec 6)
  /-- TLBINV_GUILD (R375): Drops every entry of a guild and wakes its parked threads. -/
  | tlbinvGuild (b a : BitVec 6)
  /-- TLBINV_ALL (R375): Drops every TLB entry and cached guild entry and wakes all parked threads. -/
  | tlbinvAll (b a : BitVec 6)
  /-- MARK (R395): Writes a sample record at its chunk's commit when sampling is on. -/
  | mark (i : BitVec 10)
  /-- SNAP (R388): Stands alone and starts a partition snapshot at its commit number. -/
  | snap (d a : BitVec 6)
  /-- FREEZE (R393): Freezes event recorders of the core or partition at commit. -/
  | freeze (sc : BitVec 1)
  /-- THAW (R393): Thaws event recorders of the core or partition at commit. -/
  | thaw (sc : BitVec 1)
  /-- ILLEGAL_OPCODE (R70): Executing an unassigned opcode or refused encoding faults with cause 0x02. -/
  | illegalOpcode (word : BitVec 64)
  /-- BENCH_INSTRUCTION (R396): A bench core executes one RV64IMAFDC, Zba or Zbb instruction. -/
  | benchInstruction (word : BitVec 32)
  /-- EP_WAITACT (R415): Waits for the next accepted action and copies its payload. -/
  | epWaitact (b a d : BitVec 5)
  /-- EP_PUBOBS (R416): Publishes an observation as one bench commit. -/
  | epPubobs (b a d : BitVec 5)
  /-- EP_END (R416): Publishes a terminal observation and ends the episode DONE. -/
  | epEnd (b a : BitVec 5)
  /-- EP_INFO (R417): Reads an episode parameter as of START. -/
  | epInfo (item : BitVec 3) (d : BitVec 5)
  /-- EP_VER (R418): Reads policyver. -/
  | epVer (d : BitVec 5)
  /-- EP_RAND (R419): Writes the low 64 bits of the counter-based function keyed by RKEY. -/
  | epRand (b a d : BitVec 5)
  /-- EP_RANDH (R419): Writes the high 64 bits of the counter-based function keyed by RKEY. -/
  | epRandh (b a d : BitVec 5)
  /-- START (R403): A committed START command begins an episode after checking its descriptor. -/
  | start (b : Nat)
  /-- ABORT (R403): A committed ABORT command ends a running episode ABORTED. -/
  | abort (b : Nat)
  /-- ACTION (R407): A committed write of ASEQ is checked and accepted as an action. -/
  | action (b : Nat)
  /-- VERSION_ADVANCE (R411): A committed store to VERSION advances policyver. -/
  | versionAdvance (part : Nat)
  /-- LINE_ARRIVAL (R73): A fetched code line arrives in a slot's fetch buffer and is checked on entry. -/
  | lineArrival (tid : Nat) (cached : Bool)
  /-- ISSUE (R71): Each cycle the issue stage issues the next head of the first ready slot in round-robin order. -/
  | issue (core : Nat) (turn : IssueTurn)
  /-- COMMIT_REQUEST (R111): An ended chunk requests commit once its loads, SFU entries and predecessor are done. -/
  | commitRequest (tid : Nat)
  /-- COMMIT_GRANT (R114): An arbiter grants a chunk a commit number, delivers its writes and releases its atomics and commands. -/
  | commitGrant (tid : Nat)
  /-- SIGNATURE_DELIVERY (R114): A commit's write signature reaches a holder, which squashes intersecting in-flight chunks. -/
  | signatureDelivery (pkt : Nat)
  /-- COMMIT_ACKNOWLEDGEMENT (R114): The commit is acknowledged to the core once its lines and far atomics are performed. -/
  | commitAcknowledgement (tid : Nat)
  /-- FAR_ATOMIC_APPLY (R171): A released far atomic is applied at its home in commit-number order. -/
  | farAtomicApply (i : Nat)
  /-- WIDEN_SCOPE (R112): A slice serves a holder outside a line's scope after every holder acknowledges the widening. -/
  | widenScope (line core : Nat)
  /-- FILL_REPLY (R339): A slice's fill reply reaches a core's L1 and is performed in sequence order. -/
  | fillReply (pkt : Nat)
  /-- PROBE (R339): A slice's probe reaches a core's L1 and is performed in sequence order after pending fills. -/
  | probe (pkt : Nat)
  /-- PACKET_ARRIVAL (R337): A packet reaches its destination fret and is buffered, evicts another or passes on. -/
  | packetArrival (pkt : Nat)
  /-- NACK (R337): A NACK reaches the source, which injects its copy of the dropped packet again. -/
  | nack (pkt : Nat)
  /-- DETERMINISTIC_TURN (R119): A deterministic crew's thread commits its next chunk or passes an empty turn in logical-index order. -/
  | deterministicTurn (crew : Nat)
  /-- WAITA_EVALUATION (R126): A woken WAITA or SWAIT evaluates its word again and commits or sleeps. -/
  | waitaEvaluation (tid : Nat)
  /-- POLL_INTERVAL (R126): The 1,024-cycle poll interval of a wait on an unheld word expires and the wait is evaluated again. -/
  | pollInterval (tid : Nat)
  /-- WATCHDOG (R129): The watchdog count reaches wdlimit and the thread traps precisely with cause 0x10. -/
  | watchdog (tid : Nat)
  /-- PRECISE_REEXECUTION (R366): A faulting chunk is discarded and re-executed in precise mode up to the faulting instruction. -/
  | preciseReexecution (tid : Nat)
  /-- TRAP_DELIVERY (R367): A cause of kind H is delivered to the handler, unwinds or stops the crew. -/
  | trapDelivery (tid : Nat)
  /-- PAGE_FAULT_PARK (R372): A page fault squashes the chunk, parks the thread and reports a PAGE event. -/
  | pageFaultPark (tid : Nat)
  /-- MACHINE_CHECK (R376): An uncorrectable error discards the consuming chunk, and on recurrence delivers cause 0x11. -/
  | machineCheck (tid : Nat) (site : ErrorSite)
  /-- EVENT_RECORD_WRITE (R374): The foreman writes a waiting event or fault record once its ring has room. -/
  | eventRecordWrite (part ring : Nat) (widx ridx : BitVec 64)
  /-- ENGINE_CHUNK (R273): The copy engine issues and commits one engine chunk of a tracked command, writing the completion word last. -/
  | engineChunk (core i j : Nat)
  /-- LINK_PAYLOAD_ACK (R280): The destination acknowledges every payload write of a copy beyond the edge, and the completion word is written. -/
  | linkPayloadAck (core i : Nat)
  /-- DRAIN_WRITE (R264): A captured drain is written to memory as engine chunks after its chunk commits. -/
  | drainWrite (core i j : Nat)
  /-- LOOM_COMMAND (R255): The loom performs the next compute or drain command of its queue once its panels are ready. -/
  | loomCommand (core : Nat)
  /-- PANEL_COMMAND (R248): The panel queue performs a panel command that left at its chunk's commit. -/
  | panelCommand (core : Nat)
  /-- PANEL_READY (R248): A panel reaches the ready state when the command that last wrote it completes. -/
  | panelReady (core panel : Nat)
  /-- SFU_RESULT (R217): The SFU writes a register's result 16 cycles after its last element begins. -/
  | sfuResult (core : Nat)
  /-- MATRIX_WAIT_WAKE (R267): A sleeping MWAIT commits when the thread's last panel command or drain completes. -/
  | matrixWaitWake (tid : Nat)
  /-- ENGINE_WAIT_WAKE (R288): A sleeping CSTAT.w commits when the thread's last engine command completes. -/
  | engineWaitWake (tid : Nat)
  /-- REDUCTION_WAIT_WAKE (R300): A sleeping RDQ.w commits when the instance's block leaves the OPEN state. -/
  | reductionWaitWake (tid : Nat)
  /-- CONTRIBUTION_ARRIVAL (R294): A contribution or child result reaches a tree node and is added after its lower siblings. -/
  | contributionArrival (i : Nat)
  /-- REDUCTION_TIMEOUT (R295): The reduction timer expires with contributors missing and the instance ends TIMEOUT. -/
  | reductionTimeout (block : Nat)
  /-- TASK_POP (R313): A thread with no task takes its bound record or the bottom unbound record of its crew. -/
  | taskPop (tid : Nat)
  /-- STEAL_REQUEST (R313): A victim core serves a steal request with its topmost stealable record of the thief's crew or refuses. -/
  | stealRequest (tid victim : Nat)
  /-- STEAL_BACKOFF (R313): The 1,024-cycle wait after a failed sweep expires and the thread sweeps again. -/
  | stealBackoff (tid : Nat)
  /-- TASK_MESSAGE_APPLY (R315): A task message is applied at its destination after its chunk's grant. -/
  | taskMessageApply (pkt : Nat)
  /-- COUNTER_DECREMENT (R318): A decrement reaches a counter entry, lowers it or fires its record onto the deque. -/
  | counterDecrement (pkt : Nat)
  /-- DOORBELL (R304): A queue number written to the doorbell makes the foreman read its write-index word. -/
  | doorbell (part q : Nat) (widx : BitVec 64)
  /-- QUANTUM_BOUNDARY (R305): At a quantum boundary the foreman releases and reassigns resident queue slots and promotes waiting queues. -/
  | quantumBoundary (part : Nat)
  /-- SLOT_SERVICE (R305): The foreman serves a slot by taking the queue's next record and checking, skipping or starting it. -/
  | slotService (part q : Nat) (widx : BitVec 64) (rec : List (BitVec 64))
  /-- LAUNCH_PLACEMENT (R32): The foreman places a whole crew once room exists, seeding one bound record per member. -/
  | launchPlacement (part q : Nat)
  /-- CREW_END (R33): A crew with all members idle and no outstanding work ends, releasing slots and writing its completion. -/
  | crewEnd (crew : Nat)
  /-- BARRIER_RELEASE (R341): A domain releases once every member has arrived, waking sleepers and pushing SSTEP lists. -/
  | barrierRelease (crew dom : Nat)
  /-- START_JOIN (R350): The exchange start join releases when every member's XEND chunk has committed. -/
  | startJoin (crew dom : Nat)
  /-- PHASE_START (R350): After the lead, cycle 0 of the exchange phase begins and members inject their lines. -/
  | phaseStart (crew dom : Nat)
  /-- PHASE_END (R350): The exchange phase ends after cycle E minus 1. -/
  | phaseEnd (crew dom : Nat)
  /-- EXCHANGE_CHUNK (R358): A member's captured lines commit to memory as exchange chunks after the phase. -/
  | exchangeChunk (tid : Nat)
  /-- GANG_STOP (R384): A crew is stopped at a commit cut, members stop at boundaries and their state is saved. -/
  | gangStop (crew : Nat)
  /-- STOP_RECORD_WRITE (R385): A stop record that waited for room is written once system software provides space. -/
  | stopRecordWrite (part : Nat)
  /-- RESUMPTION (R387): A stopped crew is placed again and continues from its images. -/
  | resumption (crew : ResumedCrew)
  /-- SNAPSHOT_END (R388): A snapshot finishes, writing its status word and a SNAPEND event. -/
  | snapshotEnd (part : Nat)
  /-- SNAPSHOT_RESTORE (R388): A snapshot is loaded and every crew resumes with numbering continuing from the cut. -/
  | snapshotRestore (part k : Nat)
  /-- RECORDER_FREEZE (R393): Every recorder of a partition freezes on an ECC error, page fault, watchdog or retry storm. -/
  | recorderFreeze (part reason : Nat)
  /-- WAITACT_RETURN (R415): A waiting EP.WAITACT returns after an action is accepted, or ends the episode SUPERSEDED. -/
  | waitactReturn (b : Nat)
  /-- INSTRUCTION_BUDGET (R413): A step's instruction count exceeds IBUD and the episode ends TIMEOUT. -/
  | instructionBudget (b : Nat)
  /-- TIME_BUDGET (R413): A step's time count reaches TBUD and the episode ends TIMEOUT. -/
  | timeBudget (b : Nat)
  /-- HOST_READ (R426): A host read into BAR2 is served at the home slice. -/
  | hostRead (addr len : Nat) (hold : Bool)
  /-- HOST_WRITE (R426): A host write into BAR2 is performed as edge commits line by line. -/
  | hostWrite (addr : Nat) (bytes : List (BitVec 8))
  /-- HOST_ATOMICOP (R426): A host AtomicOp into BAR2 is performed as one edge commit of the word. -/
  | hostAtomicop (op addr size : Nat) (v c : BitVec 64)
  /-- PEER_REQUEST (R428): A request from a peer module is performed as an edge access in commit-number order. -/
  | peerRequest (op src : Nat) (num : PeerNumber) (addr : Nat) (bytes : List (Nat × BitVec 8)) (v c : BitVec 64)
  /-- LINK_TIMEOUT (R425): A link request gets no completion within its limit and meets its refusal fate. -/
  | linkTimeout (id : Nat)
  /-- LINK_REFUSAL (R425): A link refuses a request, raising a machine check, losing a write or ending a command with PEER. -/
  | linkRefusal (id : Nat)
  /-- MODNUM_LEARN (R427): Imell link training reaches a switch and the module learns its number. -/
  | modnumLearn (num : BitVec 8)
  /-- STOPREQ (R430): A host write requests a gang stop of a crew. -/
  | stopreq (part serial : Nat)
  /-- RESUME (R430): A host write requests resumption of a stopped crew. -/
  | resume (part serial : Nat)
  /-- PFDENY (R373): A write of pfdeny denies a parked page fault, delivering the fault precisely. -/
  | pfdeny (part : Nat) (v : BitVec 64)
  /-- TLBCMD_PAGE (R375): A host TLBCMD performs a TLBINV.page. -/
  | tlbcmdPage (part : Nat) (guild : BitVec 16)
  /-- TLBCMD_GUILD (R375): A host TLBCMD performs a TLBINV.guild. -/
  | tlbcmdGuild (part : Nat) (guild : BitVec 16)
  /-- TLBCMD_ALL (R375): A host TLBCMD performs a TLBINV.all. -/
  | tlbcmdAll (part : Nat)
  /-- TLBINV_COMPLETE (R375): A TLB invalidation completes once every TLB, walk and engine use has finished. -/
  | tlbinvComplete (part i : Nat)
  /-- LBREL_PLACE (R392): A held launch-breakpoint head is released to be placed. -/
  | lbrelPlace (part q : Nat)
  /-- LBREL_SKIP (R392): A held launch-breakpoint head is released to be skipped with SKIPPED. -/
  | lbrelSkip (part q : Nat)
  /-- MODCFG (R17): A repartition request is carried out, refused BUSY, or refused as unaligned or mixing left-out dies. -/
  | modcfg (bits : BitVec 8)
  /-- FOREMAN_REGISTER_WRITE (R430): A write to a foreman window register without behaviour of its own stores its value. -/
  | foremanRegisterWrite (part off : Nat) (v : BitVec 64)
  /-- FIRMWARE_UPDATE (R439): Writing 1 to CTL starts writing a staged firmware image, refused while crews are placed. -/
  | firmwareUpdate (off len : Nat)
  /-- POWER_WINDOW (R432): A block's 1,000-cycle energy window ends and its hold is lifted. -/
  | powerWindow (code block : Nat)
  /-- POWER_HOLD (R432): A block's energy reaches its share and it accepts no new command for the rest of the window. -/
  | powerHold (code : Nat) (block : BlockEnergy)
  /-- DRAW_MEASUREMENT (R432): Every 100 µs the I/O die measures module draw and lowers shares above 3,600 W. -/
  | drawMeasurement (mw : Nat)
  /-- THERMAL_HOLD (R435): A die reaching 105 °C holds its blocks until it falls below 100 °C. -/
  | thermalHold (die : Nat)
  /-- THERMAL_STOP (R435): A die reaching 115 °C gang-stops every crew with cause 0x11. -/
  | thermalStop (die : HotDies)
  /-- AGEING_CHECK (R436): Every 10 minutes firmware reads path-delay monitors and raises cluster supplies. -/
  | ageingCheck (low : List Nat)
  /-- PATROL_SCRUB (R437): Patrol scrubbing reads and corrects lines, marking uncorrectable ones. -/
  | patrolScrub (line : Nat) (bad : Bool)
  /-- LINE_CHECK_MISMATCH (R438): A consumer finds a CRC mismatch and asks for the line again. -/
  | lineCheckMismatch (who : LineReader) (line : CheckedLine) (again : Bool)
  /-- MODULE_RESET (R440): A module reset tests, harvests, remaps, trains and sets the state of reset. -/
  | moduleReset (tests : List DieTest)
  /-- LINK_COMPLETION (R177): A link's completion or reply to a read, AtomicOp or write arrives from the host or a peer, returning the value or acknowledging the write at its destination. -/
  | linkCompletion (id : Nat) (bytes : List (BitVec 8))
  /-- BACK_INVALIDATE_ANSWER (R424): Under CXL HDM-DB the host answers a back-invalidate, letting the acknowledgement of a commit that wrote a host-held line proceed. -/
  | backInvalidateAnswer (line : Nat)
  /-- PAGE_WALK_END (R139): A page-table walk of the translation unit ends, serving the waiting misses or leading to a page fault, and freeing one of the 128 walk places. -/
  | pageWalkEnd (cluster i : Nat)
  /-- WRITE_BACK (R158): A slice begins writing a dirty line back towards HBM on its own account, and the write-back completes later. -/
  | writeBack (line : Nat)
  /-- SNAPSHOT_LINK_FAILURE (R429): A NAK, a queue-pair error or a port going down ends a running snapshot with status 1. -/
  | snapshotLinkFailure (part : Nat)
  /-- THERMAL_RELEASE (R435): A die's junction temperature falls below 100 °C, ending its thermal holds and, once every die is below it after a thermal stop, letting the foreman place again. -/
  | thermalRelease (die : Nat)
  /-- FIRMWARE_UPDATE_END (R439): Writing the staged firmware image to flash ends, and FWSTAT becomes done or flash failed. -/
  | firmwareUpdateEnd (result : Nat)
  /-- NOP (R96): Does nothing beyond counting as one instruction of its chunk. -/
  | nop
  /-- CUT (R123): Ends the current chunk as its last instruction. -/
  | cut
  /-- YIELD (R124): Ends the chunk, resets the watchdog count and waits for acknowledgement; a descheduling point. -/
  | yield
  /-- EXIT (R127): Ends the chunk and the thread's current task; the thread then seeks its next task. -/
  | exit
  /-- HSYNC (R160): Ends the chunk, whose acknowledgement waits for the thread's writes beyond the edge and its CLEANs. -/
  | hsync
  /-- XEND (R357): Ends arming and sleeps until the phase and its capture chunks are done. -/
  | xend
  /-- GRET (R380): Returns normally from a gate call through a return chunk. -/
  | gret
  /-- TRET (R370): Checks tstat and at commit returns from the handler. -/
  | tret
  /-- HALT (R386): Ends the chunk and gang-stops its own crew with cause 0. -/
  | halt
  /-- SHARE_RESTORE (R432): Shares are restored after the draw stays below 3,400 W for 1 ms. -/
  | shareRestore
deriving DecidableEq, Repr

end Sys2Proof
end

