-- ==== Sys2Proof/WellFormed.lean ====
section
/-!
DEFINITION. Sys2Proof/WellFormed.lean: the combinations of field values that an entry admits beyond the widths of the fields
themselves; every other combination is a reserved encoding and raises cause 0x02 (R6, R46, R48, R49, R70).
-/

namespace Sys2Proof

/-- The float list of R197: f64, f32, f16, bf16, e4m3, e5m2, e2m1. -/
def isFloat (t : BitVec 4) : Bool := 8 ≤ t && t != 15

/-- The types of R249: i8, f64, f32, f16, bf16, e4m3, e5m2, e2m1. -/
def isMatrix (t : BitVec 4) : Bool := t == 0 || (8 ≤ t && t ≤ 14)

/-- The types of R298: f64, f32, f16, bf16, i32, i64, n32, n64. -/
def isReduced (t : BitVec 4) : Bool := t == 2 || t == 3 || t == 6 || t == 7 || (8 ≤ t && t ≤ 11)

/-- The entry of the instruction admits these field values. An event has no encoding, and is always well formed. -/
def Instr.wf : Instr → Bool
  | .nop => true
  | .j _ _ => true
  | .jl _ _ _ => true
  | .jr _ => true
  | .jlr _ _ => true
  | .beq _ _ _ _ => true
  | .bne _ _ _ _ => true
  | .blt _ _ _ _ => true
  | .bge _ _ _ _ => true
  | .bltu _ _ _ _ => true
  | .bgeu _ _ _ _ => true
  | .bz _ _ _ => true
  | .bnz _ _ _ => true
  | .bmany _ _ _ _ => true
  | .bmnone _ _ _ _ => true
  | .bmall _ _ _ _ => true
  | .cut => true
  | .yield => true
  | .waita _ _ _ _ _ _ => true
  | .exit => true
  | .add _ _ _ _ => true
  | .sub _ _ _ _ => true
  | .addi _ _ _ => true
  | .mul _ _ _ _ => true
  | .mulh _ _ _ => true
  | .mulhu _ _ _ => true
  | .div _ _ _ _ => true
  | .divu _ _ _ _ => true
  | .rem _ _ _ _ => true
  | .remu _ _ _ _ => true
  | .and _ _ _ => true
  | .or _ _ _ => true
  | .xor _ _ _ => true
  | .andi _ _ _ => true
  | .ori _ _ _ => true
  | .xori _ _ _ => true
  | .shl _ _ _ _ => true
  | .shr _ _ _ _ => true
  | .sha _ _ _ _ => true
  | .shli _ w n _ => (w == 0 || n < 32)
  | .shri _ w n _ => (w == 0 || n < 32)
  | .shai _ w n _ => (w == 0 || n < 32)
  | .rol _ _ _ _ => true
  | .roli _ w n _ => (w == 0 || n < 32)
  | .slt _ _ _ => true
  | .sltu _ _ _ => true
  | .slti _ _ _ => true
  | .min _ _ _ => true
  | .max _ _ _ => true
  | .minu _ _ _ => true
  | .maxu _ _ _ => true
  | .sel _ _ _ _ _ => true
  | .li _ _ => true
  | .lih _ _ _ _ => true
  | .addpc _ _ => true
  | .clz _ _ _ => true
  | .ctz _ _ _ => true
  | .popc _ _ _ => true
  | .brev _ _ _ => true
  | .bswap _ z _ => z != 3
  | .ilv _ f _ _ c => (f == 1 || c == 0)
  | .dilv _ f _ jc => (if f == 0 then jc < 2 else jc < 3)
  | .ext _ _ _ len pos => pos.toNat + len.toNat + 1 ≤ 64
  | .ins _ _ _ len pos => pos.toNat + len.toNat + 1 ≤ 64
  | .addsh _ _ _ _ => true
  | .madd _ _ _ _ _ => true
  | .ld _ g z _ _ => !(g == 1 && z == 3)
  | .st _ _ _ _ => true
  | .ldx _ g z _ _ => !(g == 1 && z == 3)
  | .stx _ _ _ _ => true
  | .ldp d g z _ _ => !(g == 1 && z == 3) && 2 ≤ z && d.getLsbD 0 == false
  | .stp z b _ _ => 2 ≤ z && b.getLsbD 0 == false
  | .vld _ _ _ _ _ => true
  | .vst _ _ _ _ _ => true
  | .vlds _ _ _ _ _ _ => true
  | .vsts _ _ _ _ _ _ => true
  | .vgath _ _ _ _ _ _ _ _ => true
  | .vscat _ _ _ _ _ _ _ _ => true
  | .pref z _ _ => z != 3
  | .discard _ _ => true
  | .clean _ _ => true
  | .bankcfg _ z _ _ => z != 3
  | .bankq _ _ => true
  | .fpush _ _ _ _ => true
  | .fpop _ _ _ _ => true
  | .fpeek _ _ _ _ => true
  | .hsync => true
  | .aadd _ _ _ _ => true
  | .aand _ _ _ _ => true
  | .aor _ _ _ _ => true
  | .axor _ _ _ _ => true
  | .amin _ _ _ _ _ => true
  | .amax _ _ _ _ _ => true
  | .afadd _ _ _ _ => true
  | .xadd _ _ _ _ _ => true
  | .xchg _ _ _ _ _ => true
  | .cas _ _ _ _ _ _ => true
  | .swait _ _ _ _ _ => true
  | .swaitTake _ _ _ _ _ => true
  | .spost _ _ _ _ => true
  | .dguard _ _ _ => true
  | .dgend _ _ => true
  | .fcvt _ t u _ _ rm _ => rm != 7 && isFloat t && isFloat u && t != u
  | .fcvti _ t u _ _ rm _ => rm != 7 && isFloat t && u < 8
  | .icvtf _ t u _ _ rm _ => rm != 7 && t < 8 && isFloat u
  | .fpack _ t _ rm _ _ et => rm != 7 && (t == 9 || t == 10 || t == 11) && (et == 12 || et == 13 || et == 14 || et == 0)
  | .funpk _ t _ _ rm _ _ et => rm != 7 && (t == 9 || t == 10 || t == 11) && (et == 12 || et == 13 || et == 14 || et == 0)
  | .fscl _ t _ _ _ rm _ _ => rm != 7 && isFloat t
  | .fclass _ t _ _ => 8 ≤ t
  | .frint _ t _ _ rm _ => rm != 7 && isFloat t
  | .rep _ _ => true
  | .vspan _ _ _ n => 1 ≤ n && n ≤ 6
  | .mmov _ _ => true
  | .mmovFx _ _ => true
  | .mmovTx _ _ => true
  | .mmovSp _ _ => true
  | .mand _ _ _ _ => true
  | .mor _ _ _ _ => true
  | .mxor _ _ _ => true
  | .mnot _ _ => true
  | .mpop _ _ _ => true
  | .mfirst _ _ _ => true
  | .vadd _ _ b _ _ vx _ => (vx == 1 || b < 32)
  | .vsub _ _ b _ _ vx _ => (vx == 1 || b < 32)
  | .vmul _ _ b _ vx _ => (vx == 1 || b < 32)
  | .vmulh _ _ b _ vx _ => (vx == 1 || b < 32)
  | .vand _ _ b _ vx _ => (vx == 1 || b < 32)
  | .vor _ _ b _ vx _ => (vx == 1 || b < 32)
  | .vxor _ _ b _ vx _ => (vx == 1 || b < 32)
  | .vshl _ _ b _ vx _ => (vx == 1 || b < 32)
  | .vshr _ _ b _ vx _ => (vx == 1 || b < 32)
  | .vmin _ _ b _ vx _ => (vx == 1 || b < 32)
  | .vmax _ _ b _ vx _ => (vx == 1 || b < 32)
  | .vcmp _ _ b _ vx _ k => (vx == 1 || b < 32) && k ≤ 5
  | .vsel _ t _ _ _ _ => t != 14
  | .vmov _ t b a vx _ => t != 14 && (if vx == 1 then a == 0 else b == 0)
  | .vperm _ t _ _ _ => t != 14
  | .vslide _ t _ _ _ _ => t != 14
  | .fadd _ _ _ _ rm _ => rm != 7
  | .fsub _ _ _ _ rm _ => rm != 7
  | .fmul _ _ _ _ rm _ => rm != 7
  | .fma _ _ _ _ _ rm _ _ => rm != 7
  | .fdiv _ _ _ _ rm _ => rm != 7
  | .fsqrt _ _ _ rm _ => rm != 7
  | .fmin _ _ _ _ _ => true
  | .fmax _ _ _ _ _ => true
  | .fcmp _ _ _ _ _ _ => true
  | .fsgn _ _ b _ k _ => (k != 3 || b == 0)
  | .vred _ _ _ k _ => k ≤ 5
  | .fred _ _ k _ rm _ => rm != 7 && k ≤ 2
  | .fdot _ _ _ _ rm _ => rm != 7
  | .fexp _ t _ rm _ => rm != 7 && t != 0
  | .flog _ t _ rm _ => rm != 7 && t != 0
  | .frcp _ t _ rm _ => rm != 7 && t != 0
  | .frsq _ t _ rm _ => rm != 7 && t != 0
  | .fsin _ t _ rm _ => rm != 7 && t != 0
  | .fcos _ t _ rm _ => rm != 7 && t != 0
  | .ftanh _ t _ rm _ => rm != 7 && t != 0
  | .topn _ t _ _ _ _ n => t < 12 && 1 ≤ n && n ≤ 384
  | .rng _ _ _ _ _ => true
  | .vext _ t _ _ _ => t != 14
  | .mzero _ _ => true
  | .mlda _ t _ _ _ => isMatrix t
  | .mldb d t _ _ nc tr _ => isMatrix t && (nc == 0 || (tr == 0 && t != 8 && t != 9)) && !(tr == 1 && t == 14) && (nc != 3 || d ≤ 62)
  | .mseed _ _ nc => nc != 0
  | .mma _ t b a nc ks => isMatrix t && ks != 0 && (nc == 0 || (ks == 3 && t != 8 && t != 9)) && a.toNat + ks.toNat ≤ 64 && b.toNat + (if nc == 0 then ks.toNat else if nc == 3 then 2 else 1) ≤ 64
  | .mscl _ _ rm _ rs cs => rm != 7 && (rs == 1 || cs == 1)
  | .mdrain _ _ _ _ _ rm c ot rs cs => rm != 7 && (rs == 1 || cs == 1 || c == 0) && 8 ≤ ot && ot ≤ 13
  | .mwait _ => true
  | .mstat _ => true
  | .mstatP _ _ => true
  | .mcprs d t _ a nc => isMatrix t && t != 8 && t != 9 && nc != 0 && a ≤ 61 && (nc != 3 || d ≤ 62) && (d.toNat + (if nc == 3 then 1 else 0) < a.toNat || a.toNat + 2 < d.toNat)
  | .macc _ _ _ _ _ rm _ => rm != 7
  | .cpy _ _ _ c => !c.getLsbD 0
  | .cpys _ b _ c => !c.getLsbD 0 && !b.getLsbD 0
  | .cpyg _ _ b _ _ _ c _ => !c.getLsbD 0 && !b.getLsbD 0
  | .cfill _ _ _ c => !c.getLsbD 0
  | .cstat _ => true
  | .cstatW _ => true
  | .rdset _ t _ _ rm c => !c.getLsbD 0 && isReduced t && rm ≤ 4 && (8 ≤ t || rm == 0)
  | .rdc _ t _ _ _ => isReduced t
  | .rdcMem t _ _ _ => isReduced t
  | .rdq _ _ => true
  | .rdqSt _ _ => true
  | .rdqW _ _ => true
  | .spawn atc b _ _ => (atc == 1 || b == 0)
  | .spawnr _ _ _ _ _ => true
  | .cntset _ _ _ => true
  | .cntsetClr _ => true
  | .cntdec self b a dec _ => (dec == 0 || b == 0) && (self == 0 || a == 0)
  | .send _ _ _ cn idx => (cn == 1 || idx == 0)
  | .recv _ _ _ => true
  | .inbqN _ => true
  | .inbqRoom _ => true
  | .inbqStray _ => true
  | .launch _ _ _ => true
  | .postr _ => true
  | .postrOr _ => true
  | .tstamp _ k => k ≤ 6
  | .bar _ => true
  | .bardom _ _ _ _ => true
  | .xph _ _ _ => true
  | .xmit _ _ _ => true
  | .xsel _ _ _ => true
  | .xrcv _ _ _ => true
  | .xend => true
  | .sstep _ _ _ _ => true
  | .gate _ => true
  | .gret => true
  | .gretFail _ => true
  | .trap _ => true
  | .tret => true
  | .gets _ _ => true
  | .sets _ _ => true
  | .brk _ => true
  | .iflush _ => true
  | .iflushAll _ => true
  | .tlbinvPage _ _ => true
  | .tlbinvGuild _ _ => true
  | .tlbinvAll _ _ => true
  | .halt => true
  | .mark _ => true
  | .snap _ _ => true
  | .freeze _ => true
  | .thaw _ => true
  | .illegalOpcode _ => true
  | .lineArrival _ _ => true
  | .issue _ _ => true
  | .commitRequest _ => true
  | .commitGrant _ => true
  | .signatureDelivery _ => true
  | .commitAcknowledgement _ => true
  | .farAtomicApply _ => true
  | .widenScope _ _ => true
  | .fillReply _ => true
  | .probe _ => true
  | .packetArrival _ => true
  | .nack _ => true
  | .deterministicTurn _ => true
  | .waitaEvaluation _ => true
  | .pollInterval _ => true
  | .watchdog _ => true
  | .preciseReexecution _ => true
  | .trapDelivery _ => true
  | .pageFaultPark _ => true
  | .machineCheck _ _ => true
  | .eventRecordWrite _ _ _ _ => true
  | .engineChunk _ _ _ => true
  | .linkPayloadAck _ _ => true
  | .drainWrite _ _ _ => true
  | .loomCommand _ => true
  | .panelCommand _ => true
  | .panelReady _ _ => true
  | .sfuResult _ => true
  | .matrixWaitWake _ => true
  | .engineWaitWake _ => true
  | .reductionWaitWake _ => true
  | .contributionArrival _ => true
  | .reductionTimeout _ => true
  | .taskPop _ => true
  | .stealRequest _ _ => true
  | .stealBackoff _ => true
  | .taskMessageApply _ => true
  | .counterDecrement _ => true
  | .doorbell _ _ _ => true
  | .quantumBoundary _ => true
  | .slotService _ _ _ _ => true
  | .launchPlacement _ _ => true
  | .crewEnd _ => true
  | .barrierRelease _ _ => true
  | .startJoin _ _ => true
  | .phaseStart _ _ => true
  | .phaseEnd _ _ => true
  | .exchangeChunk _ => true
  | .gangStop _ => true
  | .stopRecordWrite _ => true
  | .resumption _ => true
  | .snapshotEnd _ => true
  | .snapshotRestore _ _ => true
  | .recorderFreeze _ _ => true
  | .start _ => true
  | .abort _ => true
  | .action _ => true
  | .versionAdvance _ => true
  | .benchInstruction _ => true
  | .epWaitact _ _ _ => true
  | .waitactReturn _ => true
  | .epPubobs _ _ _ => true
  | .epEnd _ _ => true
  | .epInfo _ _ => true
  | .epVer _ => true
  | .epRand _ _ _ => true
  | .epRandh _ _ _ => true
  | .instructionBudget _ => true
  | .timeBudget _ => true
  | .hostRead _ _ _ => true
  | .hostWrite _ _ => true
  | .hostAtomicop _ _ _ _ _ => true
  | .peerRequest _ _ _ _ _ _ _ => true
  | .linkTimeout _ => true
  | .linkRefusal _ => true
  | .modnumLearn _ => true
  | .stopreq _ _ => true
  | .resume _ _ => true
  | .pfdeny _ _ => true
  | .tlbcmdPage _ _ => true
  | .tlbcmdGuild _ _ => true
  | .tlbcmdAll _ => true
  | .tlbinvComplete _ _ => true
  | .lbrelPlace _ _ => true
  | .lbrelSkip _ _ => true
  | .modcfg _ => true
  | .foremanRegisterWrite _ _ _ => true
  | .firmwareUpdate _ _ => true
  | .powerWindow _ _ => true
  | .powerHold _ _ => true
  | .drawMeasurement _ => true
  | .shareRestore => true
  | .thermalHold _ => true
  | .thermalStop _ => true
  | .ageingCheck _ => true
  | .patrolScrub _ _ => true
  | .lineCheckMismatch _ _ _ => true
  | .moduleReset _ => true
  | .linkCompletion _ _ => true
  | .backInvalidateAnswer _ => true
  | .pageWalkEnd _ _ => true
  | .writeBack _ => true
  | .snapshotLinkFailure _ => true
  | .thermalRelease _ => true
  | .firmwareUpdateEnd _ => true

end Sys2Proof
end

