-- ==== Sys2Proof/Decode.lean ====
section
/-!
DEFINITION. Sys2Proof/Decode.lean: from the halfwords of a head and its tail to an instruction, and back (R36, R42, R45, R69).

A head and its tail are one 64-bit word laid out as the tval of R70: the head in bits [15:0], t0 in [31:16], t1 in [47:32]
and t2 in [63:48], halfwords that the head's TL does not select being zero. Decoding takes each field from its place, and
accepts the instruction when its fields are admitted (Instr.wf) and encode gives the very same word back, so that every
field without meaning must be zero (R6) and TL must match the form (R45); every other word is an illegal encoding, by name.
The instructions of a bench core are 32-bit words of RISC-V (R396, R414).
-/

namespace Sys2Proof

/-- A field put at its place in the word of a head and its tail. -/
def putF {n : Nat} (lo : Nat) (v : BitVec n) : Nat := v.toNat * 2 ^ lo

/-- A field taken from its place. -/
def getF (w lo n : Nat) : BitVec n := BitVec.ofNat n (w / 2 ^ lo)

/-- The OFF field of form B: bits [9:0] in t0 and bits [20:10] in t1 (R42). -/
def putOff (v : BitVec 21) : Nat := v.toNat % 1024 * 2 ^ 22 + v.toNat / 1024 * 2 ^ 37

def getOff (w : Nat) : BitVec 21 := BitVec.ofNat 21 (w / 2 ^ 22 % 1024 + w / 2 ^ 37 % 2048 * 1024)

/-- The word of an instruction as a number: its opcode, the TL of its form, the bits its name fixes, and its fields. An event
has no encoding. -/
def Instr.bits : Instr → Nat
  | .nop => 0x1
  | .j off hi => 0x202 + putOff off + putF 32 hi
  | .jl d off hi => 0x203 + putF 10 d + putOff off + putF 32 hi
  | .jr a => 0x104 + putF 16 a
  | .jlr d a => 0x105 + putF 10 d + putF 16 a
  | .beq d a off hi => 0x206 + putF 10 d + putF 16 a + putOff off + putF 32 hi
  | .bne d a off hi => 0x207 + putF 10 d + putF 16 a + putOff off + putF 32 hi
  | .blt d a off hi => 0x208 + putF 10 d + putF 16 a + putOff off + putF 32 hi
  | .bge d a off hi => 0x209 + putF 10 d + putF 16 a + putOff off + putF 32 hi
  | .bltu d a off hi => 0x20a + putF 10 d + putF 16 a + putOff off + putF 32 hi
  | .bgeu d a off hi => 0x20b + putF 10 d + putF 16 a + putOff off + putF 32 hi
  | .bz d off hi => 0x20c + putF 10 d + putOff off + putF 32 hi
  | .bnz d off hi => 0x20d + putF 10 d + putOff off + putF 32 hi
  | .bmany d a off hi => 0x20e + putF 10 d + putF 16 a + putOff off + putF 32 hi
  | .bmnone d a off hi => 0x20f + putF 10 d + putF 16 a + putOff off + putF 32 hi
  | .bmall d a off hi => 0x210 + putF 10 d + putF 16 a + putOff off + putF 32 hi
  | .cut => 0x11
  | .yield => 0x12
  | .waita d z k b a disp => 0x213 + putF 10 d + putF 31 z + putF 28 k + putF 22 b + putF 16 a + putF 32 disp
  | .exit => 0x14
  | .add d w b a => 0x120 + putF 10 d + putF 28 w + putF 22 b + putF 16 a
  | .sub d w b a => 0x121 + putF 10 d + putF 28 w + putF 22 b + putF 16 a
  | .addi d i a => 0x122 + putF 10 d + putF 22 i + putF 16 a
  | .mul d w b a => 0x123 + putF 10 d + putF 28 w + putF 22 b + putF 16 a
  | .mulh d b a => 0x124 + putF 10 d + putF 22 b + putF 16 a
  | .mulhu d b a => 0x125 + putF 10 d + putF 22 b + putF 16 a
  | .div d w b a => 0x126 + putF 10 d + putF 28 w + putF 22 b + putF 16 a
  | .divu d w b a => 0x127 + putF 10 d + putF 28 w + putF 22 b + putF 16 a
  | .rem d w b a => 0x128 + putF 10 d + putF 28 w + putF 22 b + putF 16 a
  | .remu d w b a => 0x129 + putF 10 d + putF 28 w + putF 22 b + putF 16 a
  | .and d b a => 0x12a + putF 10 d + putF 22 b + putF 16 a
  | .or d b a => 0x12b + putF 10 d + putF 22 b + putF 16 a
  | .xor d b a => 0x12c + putF 10 d + putF 22 b + putF 16 a
  | .andi d i a => 0x12d + putF 10 d + putF 22 i + putF 16 a
  | .ori d i a => 0x12e + putF 10 d + putF 22 i + putF 16 a
  | .xori d i a => 0x12f + putF 10 d + putF 22 i + putF 16 a
  | .shl d w b a => 0x130 + putF 10 d + putF 28 w + putF 22 b + putF 16 a
  | .shr d w b a => 0x131 + putF 10 d + putF 28 w + putF 22 b + putF 16 a
  | .sha d w b a => 0x132 + putF 10 d + putF 28 w + putF 22 b + putF 16 a
  | .shli d w n a => 0x133 + putF 10 d + putF 28 w + putF 22 n + putF 16 a
  | .shri d w n a => 0x134 + putF 10 d + putF 28 w + putF 22 n + putF 16 a
  | .shai d w n a => 0x135 + putF 10 d + putF 28 w + putF 22 n + putF 16 a
  | .rol d w b a => 0x136 + putF 10 d + putF 28 w + putF 22 b + putF 16 a
  | .roli d w n a => 0x137 + putF 10 d + putF 28 w + putF 22 n + putF 16 a
  | .slt d b a => 0x138 + putF 10 d + putF 22 b + putF 16 a
  | .sltu d b a => 0x139 + putF 10 d + putF 22 b + putF 16 a
  | .slti d i a => 0x13a + putF 10 d + putF 22 i + putF 16 a
  | .min d b a => 0x13b + putF 10 d + putF 22 b + putF 16 a
  | .max d b a => 0x13c + putF 10 d + putF 22 b + putF 16 a
  | .minu d b a => 0x13d + putF 10 d + putF 22 b + putF 16 a
  | .maxu d b a => 0x13e + putF 10 d + putF 22 b + putF 16 a
  | .sel d k b a c => 0x23f + putF 10 d + putF 28 k + putF 22 b + putF 16 a + putF 32 c
  | .li d imm => 0x340 + putF 10 d + putF 22 imm
  | .lih d k a imm => 0x241 + putF 10 d + putF 28 k + putF 16 a + putF 32 imm
  | .addpc d imm => 0x342 + putF 10 d + putF 22 imm
  | .clz d z a => 0x143 + putF 10 d + putF 28 z + putF 16 a
  | .ctz d z a => 0x144 + putF 10 d + putF 28 z + putF 16 a
  | .popc d z a => 0x145 + putF 10 d + putF 28 z + putF 16 a
  | .brev d z a => 0x146 + putF 10 d + putF 28 z + putF 16 a
  | .bswap d z a => 0x147 + putF 10 d + putF 28 z + putF 16 a
  | .ilv d f b a c => 0x248 + putF 10 d + putF 28 f + putF 22 b + putF 16 a + putF 32 c
  | .dilv d f a jc => 0x249 + putF 10 d + putF 28 f + putF 16 a + putF 44 jc
  | .ext d a sg len pos => 0x24a + putF 10 d + putF 16 a + putF 44 sg + putF 38 len + putF 32 pos
  | .ins d b a len pos => 0x24b + putF 10 d + putF 22 b + putF 16 a + putF 38 len + putF 32 pos
  | .addsh d n b a => 0x14c + putF 10 d + putF 28 n + putF 22 b + putF 16 a
  | .madd d f b a c => 0x24d + putF 10 d + putF 28 f + putF 22 b + putF 16 a + putF 32 c
  | .ld d g z a disp => 0x250 + putF 10 d + putF 30 g + putF 28 z + putF 16 a + putF 32 disp
  | .st z b a disp => 0x251 + putF 28 z + putF 22 b + putF 16 a + putF 32 disp
  | .ldx d g z b a => 0x152 + putF 10 d + putF 30 g + putF 28 z + putF 22 b + putF 16 a
  | .stx z b a c => 0x253 + putF 28 z + putF 22 b + putF 16 a + putF 32 c
  | .ldp d g z a disp => 0x254 + putF 10 d + putF 30 g + putF 28 z + putF 16 a + putF 32 disp
  | .stp z b a disp => 0x255 + putF 28 z + putF 22 b + putF 16 a + putF 32 disp
  | .vld d z a p disp => 0x356 + putF 10 d + putF 28 z + putF 16 a + putF 38 p + putF 48 disp
  | .vst d z a p disp => 0x357 + putF 10 d + putF 28 z + putF 16 a + putF 38 p + putF 48 disp
  | .vlds d z b a p disp => 0x358 + putF 10 d + putF 28 z + putF 22 b + putF 16 a + putF 38 p + putF 48 disp
  | .vsts d z b a p disp => 0x359 + putF 10 d + putF 28 z + putF 22 b + putF 16 a + putF 38 p + putF 48 disp
  | .vgath d z a ig iw p c disp => 0x35a + putF 10 d + putF 28 z + putF 16 a + putF 46 ig + putF 44 iw + putF 38 p + putF 32 c + putF 48 disp
  | .vscat d z a ig iw p c disp => 0x35b + putF 10 d + putF 28 z + putF 16 a + putF 46 ig + putF 44 iw + putF 38 p + putF 32 c + putF 48 disp
  | .pref z a disp => 0x25c + putF 28 z + putF 16 a + putF 32 disp
  | .discard b a => 0x15d + putF 22 b + putF 16 a
  | .clean b a => 0x15e + putF 22 b + putF 16 a
  | .bankcfg d z a bank => 0x25f + putF 10 d + putF 28 z + putF 16 a + putF 32 bank
  | .bankq d a => 0x160 + putF 10 d + putF 16 a
  | .fpush d b a disp => 0x261 + putF 10 d + putF 22 b + putF 16 a + putF 32 disp
  | .fpop d b a disp => 0x262 + putF 10 d + putF 22 b + putF 16 a + putF 32 disp
  | .fpeek d b a disp => 0x263 + putF 10 d + putF 22 b + putF 16 a + putF 32 disp
  | .hsync => 0x64
  | .aadd z b a disp => 0x20000270 + putF 28 z + putF 22 b + putF 16 a + putF 32 disp
  | .aand z b a disp => 0x20000271 + putF 28 z + putF 22 b + putF 16 a + putF 32 disp
  | .aor z b a disp => 0x20000272 + putF 28 z + putF 22 b + putF 16 a + putF 32 disp
  | .axor z b a disp => 0x20000273 + putF 28 z + putF 22 b + putF 16 a + putF 32 disp
  | .amin g z b a disp => 0x20000274 + putF 30 g + putF 28 z + putF 22 b + putF 16 a + putF 32 disp
  | .amax g z b a disp => 0x20000275 + putF 30 g + putF 28 z + putF 22 b + putF 16 a + putF 32 disp
  | .afadd z b a disp => 0x20000276 + putF 28 z + putF 22 b + putF 16 a + putF 32 disp
  | .xadd d z b a disp => 0x20000277 + putF 10 d + putF 28 z + putF 22 b + putF 16 a + putF 32 disp
  | .xchg d z b a disp => 0x20000278 + putF 10 d + putF 28 z + putF 22 b + putF 16 a + putF 32 disp
  | .cas d z b a c disp => 0x20000379 + putF 10 d + putF 28 z + putF 22 b + putF 16 a + putF 32 c + putF 48 disp
  | .swait d z b a disp => 0x2000027a + putF 10 d + putF 28 z + putF 22 b + putF 16 a + putF 32 disp
  | .swaitTake d z b a disp => 0x6000027a + putF 10 d + putF 28 z + putF 22 b + putF 16 a + putF 32 disp
  | .spost z b a disp => 0x2000027b + putF 28 z + putF 22 b + putF 16 a + putF 32 disp
  | .dguard d b a => 0x17c + putF 10 d + putF 22 b + putF 16 a
  | .dgend b a => 0x17d + putF 22 b + putF 16 a
  | .fcvt d t u a sat rm p => 0x280 + putF 10 d + putF 28 t + putF 22 u + putF 16 a + putF 47 sat + putF 44 rm + putF 38 p
  | .fcvti d t u a sat rm p => 0x281 + putF 10 d + putF 28 t + putF 22 u + putF 16 a + putF 47 sat + putF 44 rm + putF 38 p
  | .icvtf d t u a sat rm p => 0x282 + putF 10 d + putF 28 t + putF 22 u + putF 16 a + putF 47 sat + putF 44 rm + putF 38 p
  | .fpack d t a rm p c et => 0x383 + putF 10 d + putF 28 t + putF 16 a + putF 44 rm + putF 38 p + putF 32 c + putF 48 et
  | .funpk d t a sat rm p c et => 0x384 + putF 10 d + putF 28 t + putF 16 a + putF 47 sat + putF 44 rm + putF 38 p + putF 32 c + putF 48 et
  | .fscl d t k a sat rm p c => 0x285 + putF 10 d + putF 28 t + putF 22 k + putF 16 a + putF 47 sat + putF 44 rm + putF 38 p + putF 32 c
  | .fclass d t a p => 0x286 + putF 10 d + putF 28 t + putF 16 a + putF 38 p
  | .frint d t k a rm p => 0x287 + putF 10 d + putF 28 t + putF 22 k + putF 16 a + putF 44 rm + putF 38 p
  | .rep a sts => 0x290 + putF 16 a + putF 32 sts
  | .vspan d z a n => 0x291 + putF 10 d + putF 28 z + putF 16 a + putF 32 n
  | .mmov d a => 0x192 + putF 10 d + putF 16 a
  | .mmovFx d a => 0x10000192 + putF 10 d + putF 16 a
  | .mmovTx d a => 0x20000192 + putF 10 d + putF 16 a
  | .mmovSp d a => 0x30000192 + putF 10 d + putF 16 a
  | .mand d n b a => 0x193 + putF 10 d + putF 28 n + putF 22 b + putF 16 a
  | .mor d n b a => 0x194 + putF 10 d + putF 28 n + putF 22 b + putF 16 a
  | .mxor d b a => 0x195 + putF 10 d + putF 22 b + putF 16 a
  | .mnot d a => 0x196 + putF 10 d + putF 16 a
  | .mpop d b a => 0x197 + putF 10 d + putF 22 b + putF 16 a
  | .mfirst d b a => 0x198 + putF 10 d + putF 22 b + putF 16 a
  | .vadd d t b a sat vx p => 0x299 + putF 10 d + putF 28 t + putF 22 b + putF 16 a + putF 47 sat + putF 44 vx + putF 38 p
  | .vsub d t b a sat vx p => 0x29a + putF 10 d + putF 28 t + putF 22 b + putF 16 a + putF 47 sat + putF 44 vx + putF 38 p
  | .vmul d t b a vx p => 0x29b + putF 10 d + putF 28 t + putF 22 b + putF 16 a + putF 44 vx + putF 38 p
  | .vmulh d t b a vx p => 0x29c + putF 10 d + putF 28 t + putF 22 b + putF 16 a + putF 44 vx + putF 38 p
  | .vand d t b a vx p => 0x29d + putF 10 d + putF 28 t + putF 22 b + putF 16 a + putF 44 vx + putF 38 p
  | .vor d t b a vx p => 0x29e + putF 10 d + putF 28 t + putF 22 b + putF 16 a + putF 44 vx + putF 38 p
  | .vxor d t b a vx p => 0x29f + putF 10 d + putF 28 t + putF 22 b + putF 16 a + putF 44 vx + putF 38 p
  | .vshl d t b a vx p => 0x2a0 + putF 10 d + putF 28 t + putF 22 b + putF 16 a + putF 44 vx + putF 38 p
  | .vshr d t b a vx p => 0x2a1 + putF 10 d + putF 28 t + putF 22 b + putF 16 a + putF 44 vx + putF 38 p
  | .vmin d t b a vx p => 0x2a2 + putF 10 d + putF 28 t + putF 22 b + putF 16 a + putF 44 vx + putF 38 p
  | .vmax d t b a vx p => 0x2a3 + putF 10 d + putF 28 t + putF 22 b + putF 16 a + putF 44 vx + putF 38 p
  | .vcmp d t b a vx p k => 0x2a4 + putF 10 d + putF 28 t + putF 22 b + putF 16 a + putF 44 vx + putF 38 p + putF 32 k
  | .vsel d t b a p c => 0x2a5 + putF 10 d + putF 28 t + putF 22 b + putF 16 a + putF 38 p + putF 32 c
  | .vmov d t b a vx p => 0x2a6 + putF 10 d + putF 28 t + putF 22 b + putF 16 a + putF 44 vx + putF 38 p
  | .vperm d t b a p => 0x2a7 + putF 10 d + putF 28 t + putF 22 b + putF 16 a + putF 38 p
  | .vslide d t b a up p => 0x2a8 + putF 10 d + putF 28 t + putF 22 b + putF 16 a + putF 44 up + putF 38 p
  | .fadd d t b a rm p => 0x800002a9 + putF 10 d + putF 28 t + putF 22 b + putF 16 a + putF 44 rm + putF 38 p
  | .fsub d t b a rm p => 0x800002aa + putF 10 d + putF 28 t + putF 22 b + putF 16 a + putF 44 rm + putF 38 p
  | .fmul d t b a rm p => 0x800002ab + putF 10 d + putF 28 t + putF 22 b + putF 16 a + putF 44 rm + putF 38 p
  | .fma d t b a neg rm p c => 0x800002ac + putF 10 d + putF 28 t + putF 22 b + putF 16 a + putF 47 neg + putF 44 rm + putF 38 p + putF 32 c
  | .fdiv d t b a rm p => 0x800002ad + putF 10 d + putF 28 t + putF 22 b + putF 16 a + putF 44 rm + putF 38 p
  | .fsqrt d t a rm p => 0x800002ae + putF 10 d + putF 28 t + putF 16 a + putF 44 rm + putF 38 p
  | .fmin d t b a p => 0x800002af + putF 10 d + putF 28 t + putF 22 b + putF 16 a + putF 38 p
  | .fmax d t b a p => 0x800002b0 + putF 10 d + putF 28 t + putF 22 b + putF 16 a + putF 38 p
  | .fcmp d t b a p k => 0x800002b1 + putF 10 d + putF 28 t + putF 22 b + putF 16 a + putF 38 p + putF 32 k
  | .fsgn d t b a k p => 0x800002b2 + putF 10 d + putF 28 t + putF 22 b + putF 16 a + putF 44 k + putF 38 p
  | .vred d t a k p => 0x2b3 + putF 10 d + putF 28 t + putF 16 a + putF 44 k + putF 38 p
  | .fred d t k a rm p => 0x800002b4 + putF 10 d + putF 28 t + putF 22 k + putF 16 a + putF 44 rm + putF 38 p
  | .fdot d t b a rm p => 0x800002b5 + putF 10 d + putF 28 t + putF 22 b + putF 16 a + putF 44 rm + putF 38 p
  | .fexp d t a rm p => 0x800002b6 + putF 10 d + putF 28 t + putF 16 a + putF 44 rm + putF 38 p
  | .flog d t a rm p => 0x800002b7 + putF 10 d + putF 28 t + putF 16 a + putF 44 rm + putF 38 p
  | .frcp d t a rm p => 0x800002b8 + putF 10 d + putF 28 t + putF 16 a + putF 44 rm + putF 38 p
  | .frsq d t a rm p => 0x800002b9 + putF 10 d + putF 28 t + putF 16 a + putF 44 rm + putF 38 p
  | .fsin d t a rm p => 0x800002ba + putF 10 d + putF 28 t + putF 16 a + putF 44 rm + putF 38 p
  | .fcos d t a rm p => 0x800002bb + putF 10 d + putF 28 t + putF 16 a + putF 44 rm + putF 38 p
  | .ftanh d t a rm p => 0x800002bc + putF 10 d + putF 28 t + putF 16 a + putF 44 rm + putF 38 p
  | .topn d t a p c lo n => 0x3bd + putF 10 d + putF 28 t + putF 16 a + putF 38 p + putF 32 c + putF 57 lo + putF 48 n
  | .rng d b a sp c => 0x2be + putF 10 d + putF 22 b + putF 16 a + putF 38 sp + putF 32 c
  | .vext d t b a p => 0x2bf + putF 10 d + putF 28 t + putF 22 b + putF 16 a + putF 38 p
  | .mzero d f => 0x800003c0 + putF 10 d + putF 28 f
  | .mlda d t b a disp => 0x3c1 + putF 10 d + putF 28 t + putF 22 b + putF 16 a + putF 48 disp
  | .mldb d t b a nc tr disp => 0x3c2 + putF 10 d + putF 28 t + putF 22 b + putF 16 a + putF 45 nc + putF 44 tr + putF 48 disp
  | .mseed d a nc => 0x3c3 + putF 10 d + putF 16 a + putF 46 nc
  | .mma d t b a nc ks => 0x3c4 + putF 10 d + putF 28 t + putF 22 b + putF 16 a + putF 46 nc + putF 44 ks
  | .mscl d f rm c rs cs => 0x800003c5 + putF 10 d + putF 28 f + putF 44 rm + putF 32 c + putF 59 rs + putF 58 cs
  | .mdrain d f b a sat rm c ot rs cs => 0x800003c6 + putF 10 d + putF 28 f + putF 22 b + putF 16 a + putF 47 sat + putF 44 rm + putF 32 c + putF 60 ot + putF 59 rs + putF 58 cs
  | .mwait d => 0x3c7 + putF 10 d
  | .mstat d => 0x3c8 + putF 10 d
  | .mstatP d a => 0x100003c8 + putF 10 d + putF 16 a
  | .mcprs d t b a nc => 0x3c9 + putF 10 d + putF 28 t + putF 22 b + putF 16 a + putF 46 nc
  | .macc d f b a set rm disp => 0x800003ca + putF 10 d + putF 28 f + putF 22 b + putF 16 a + putF 47 set + putF 44 rm + putF 48 disp
  | .cpy d b a c => 0x3d0 + putF 10 d + putF 22 b + putF 16 a + putF 32 c
  | .cpys d b a c => 0x3d1 + putF 10 d + putF 22 b + putF 16 a + putF 32 c
  | .cpyg d z b a ig iw c sc => 0x3d2 + putF 10 d + putF 28 z + putF 22 b + putF 16 a + putF 46 ig + putF 44 iw + putF 32 c + putF 48 sc
  | .cfill d b a c => 0x3d3 + putF 10 d + putF 22 b + putF 16 a + putF 32 c
  | .cstat d => 0x3d4 + putF 10 d
  | .cstatW d => 0x100003d4 + putF 10 d
  | .rdset d t b a rm c => 0x3d5 + putF 10 d + putF 28 t + putF 22 b + putF 16 a + putF 44 rm + putF 32 c
  | .rdc d t b a sp => 0x3d6 + putF 10 d + putF 28 t + putF 22 b + putF 16 a + putF 38 sp
  | .rdcMem t b a c => 0x1000000003d6 + putF 28 t + putF 22 b + putF 16 a + putF 32 c
  | .rdq d a => 0x3d7 + putF 10 d + putF 16 a
  | .rdqSt d a => 0x100003d7 + putF 10 d + putF 16 a
  | .rdqW d a => 0x200003d7 + putF 10 d + putF 16 a
  | .spawn atc b a disp => 0x2d8 + putF 28 atc + putF 22 b + putF 16 a + putF 32 disp
  | .spawnr d b a c pin => 0x3d9 + putF 10 d + putF 22 b + putF 16 a + putF 32 c + putF 48 pin
  | .cntset d b a => 0x3da + putF 10 d + putF 22 b + putF 16 a
  | .cntsetClr d => 0x10000000003da + putF 10 d
  | .cntdec self b a dec idx => 0x2db + putF 28 self + putF 22 b + putF 16 a + putF 40 dec + putF 32 idx
  | .send d b a cn idx => 0x3dc + putF 10 d + putF 22 b + putF 16 a + putF 56 cn + putF 48 idx
  | .recv d b a => 0x1dd + putF 10 d + putF 22 b + putF 16 a
  | .inbqN d => 0x1de + putF 10 d
  | .inbqRoom d => 0x100001de + putF 10 d
  | .inbqStray d => 0x200001de + putF 10 d
  | .launch b a disp => 0x2df + putF 22 b + putF 16 a + putF 32 disp
  | .postr a => 0x1e0 + putF 16 a
  | .postrOr a => 0x100001e0 + putF 16 a
  | .tstamp d k => 0x1e1 + putF 10 d + putF 28 k
  | .bar dom => 0x1e4 + putF 22 dom
  | .bardom b a c dom => 0x3e5 + putF 22 b + putF 16 a + putF 32 c + putF 48 dom
  | .xph dom a disp => 0x2e6 + putF 28 dom + putF 16 a + putF 32 disp
  | .xmit b a rec => 0x2e7 + putF 22 b + putF 16 a + putF 32 rec
  | .xsel b a rec => 0x2e8 + putF 22 b + putF 16 a + putF 32 rec
  | .xrcv d b rec => 0x2e9 + putF 10 d + putF 22 b + putF 32 rec
  | .xend => 0xea
  | .sstep dom b a disp => 0x2eb + putF 28 dom + putF 22 b + putF 16 a + putF 32 disp
  | .gate i => 0x1ec + putF 22 i
  | .gret => 0x1ed
  | .gretFail a => 0x100001ed + putF 16 a
  | .trap i => 0x1ee + putF 22 i
  | .tret => 0xef
  | .gets d i => 0x1f0 + putF 10 d + putF 22 i
  | .sets i a => 0x1f1 + putF 22 i + putF 16 a
  | .brk tl => 0xF2 + putF 8 tl
  | .iflush a => 0x1f3 + putF 16 a
  | .iflushAll a => 0x100001f3 + putF 16 a
  | .tlbinvPage b a => 0x1f4 + putF 22 b + putF 16 a
  | .tlbinvGuild b a => 0x100001f4 + putF 22 b + putF 16 a
  | .tlbinvAll b a => 0x200001f4 + putF 22 b + putF 16 a
  | .halt => 0xf5
  | .mark i => 0x1f6 + putF 22 i
  | .snap d a => 0x1f7 + putF 10 d + putF 16 a
  | .freeze sc => 0x4001f8 + putF 23 sc
  | .thaw sc => 0x1f8 + putF 23 sc
  | .illegalOpcode word => word.toNat
  | .lineArrival _ _ => 0
  | .issue _ _ => 0
  | .commitRequest _ => 0
  | .commitGrant _ => 0
  | .signatureDelivery _ => 0
  | .commitAcknowledgement _ => 0
  | .farAtomicApply _ => 0
  | .widenScope _ _ => 0
  | .fillReply _ => 0
  | .probe _ => 0
  | .packetArrival _ => 0
  | .nack _ => 0
  | .deterministicTurn _ => 0
  | .waitaEvaluation _ => 0
  | .pollInterval _ => 0
  | .watchdog _ => 0
  | .preciseReexecution _ => 0
  | .trapDelivery _ => 0
  | .pageFaultPark _ => 0
  | .machineCheck _ _ => 0
  | .eventRecordWrite _ _ _ _ => 0
  | .engineChunk _ _ _ => 0
  | .linkPayloadAck _ _ => 0
  | .drainWrite _ _ _ => 0
  | .loomCommand _ => 0
  | .panelCommand _ => 0
  | .panelReady _ _ => 0
  | .sfuResult _ => 0
  | .matrixWaitWake _ => 0
  | .engineWaitWake _ => 0
  | .reductionWaitWake _ => 0
  | .contributionArrival _ => 0
  | .reductionTimeout _ => 0
  | .taskPop _ => 0
  | .stealRequest _ _ => 0
  | .stealBackoff _ => 0
  | .taskMessageApply _ => 0
  | .counterDecrement _ => 0
  | .doorbell _ _ _ => 0
  | .quantumBoundary _ => 0
  | .slotService _ _ _ _ => 0
  | .launchPlacement _ _ => 0
  | .crewEnd _ => 0
  | .barrierRelease _ _ => 0
  | .startJoin _ _ => 0
  | .phaseStart _ _ => 0
  | .phaseEnd _ _ => 0
  | .exchangeChunk _ => 0
  | .gangStop _ => 0
  | .stopRecordWrite _ => 0
  | .resumption _ => 0
  | .snapshotEnd _ => 0
  | .snapshotRestore _ _ => 0
  | .recorderFreeze _ _ => 0
  | .start _ => 0
  | .abort _ => 0
  | .action _ => 0
  | .versionAdvance _ => 0
  | .benchInstruction _ => 0
  | .epWaitact _ _ _ => 0
  | .waitactReturn _ => 0
  | .epPubobs _ _ _ => 0
  | .epEnd _ _ => 0
  | .epInfo _ _ => 0
  | .epVer _ => 0
  | .epRand _ _ _ => 0
  | .epRandh _ _ _ => 0
  | .instructionBudget _ => 0
  | .timeBudget _ => 0
  | .hostRead _ _ _ => 0
  | .hostWrite _ _ => 0
  | .hostAtomicop _ _ _ _ _ => 0
  | .peerRequest _ _ _ _ _ _ _ => 0
  | .linkTimeout _ => 0
  | .linkRefusal _ => 0
  | .modnumLearn _ => 0
  | .stopreq _ _ => 0
  | .resume _ _ => 0
  | .pfdeny _ _ => 0
  | .tlbcmdPage _ _ => 0
  | .tlbcmdGuild _ _ => 0
  | .tlbcmdAll _ => 0
  | .tlbinvComplete _ _ => 0
  | .lbrelPlace _ _ => 0
  | .lbrelSkip _ _ => 0
  | .modcfg _ => 0
  | .foremanRegisterWrite _ _ _ => 0
  | .firmwareUpdate _ _ => 0
  | .powerWindow _ _ => 0
  | .powerHold _ _ => 0
  | .drawMeasurement _ => 0
  | .shareRestore => 0
  | .thermalHold _ => 0
  | .thermalStop _ => 0
  | .ageingCheck _ => 0
  | .patrolScrub _ _ => 0
  | .lineCheckMismatch _ _ _ => 0
  | .moduleReset _ => 0
  | .linkCompletion _ _ => 0
  | .backInvalidateAnswer _ => 0
  | .pageWalkEnd _ _ => 0
  | .writeBack _ => 0
  | .snapshotLinkFailure _ => 0
  | .thermalRelease _ => 0
  | .firmwareUpdateEnd _ => 0

/-- The words of an instruction: head, t0, t1 and t2 in one. -/
def encode (i : Instr) : BitVec 64 := BitVec.ofNat 64 i.bits

/-- Opcodes 0x00-0x0F: the instruction that an opcode, and the bits that tell two instructions of one opcode apart,
select (R69). -/
def candidate0 (op w : Nat) : Option Instr :=
  match op with
  | 0x1 => some (.nop)
  | 0x2 => some (.j (getOff w) (getF w 32 5))
  | 0x3 => some (.jl (getF w 10 6) (getOff w) (getF w 32 5))
  | 0x4 => some (.jr (getF w 16 6))
  | 0x5 => some (.jlr (getF w 10 6) (getF w 16 6))
  | 0x6 => some (.beq (getF w 10 6) (getF w 16 6) (getOff w) (getF w 32 5))
  | 0x7 => some (.bne (getF w 10 6) (getF w 16 6) (getOff w) (getF w 32 5))
  | 0x8 => some (.blt (getF w 10 6) (getF w 16 6) (getOff w) (getF w 32 5))
  | 0x9 => some (.bge (getF w 10 6) (getF w 16 6) (getOff w) (getF w 32 5))
  | 0xa => some (.bltu (getF w 10 6) (getF w 16 6) (getOff w) (getF w 32 5))
  | 0xb => some (.bgeu (getF w 10 6) (getF w 16 6) (getOff w) (getF w 32 5))
  | 0xc => some (.bz (getF w 10 6) (getOff w) (getF w 32 5))
  | 0xd => some (.bnz (getF w 10 6) (getOff w) (getF w 32 5))
  | 0xe => some (.bmany (getF w 10 3) (getF w 16 2) (getOff w) (getF w 32 5))
  | 0xf => some (.bmnone (getF w 10 3) (getF w 16 2) (getOff w) (getF w 32 5))
  | _ => none

/-- Opcodes 0x10-0x1F: the instruction that an opcode, and the bits that tell two instructions of one opcode apart,
select (R69). -/
def candidate1 (op w : Nat) : Option Instr :=
  match op with
  | 0x10 => some (.bmall (getF w 10 3) (getF w 16 2) (getOff w) (getF w 32 5))
  | 0x11 => some (.cut)
  | 0x12 => some (.yield)
  | 0x13 => some (.waita (getF w 10 6) (getF w 31 1) (getF w 28 2) (getF w 22 6) (getF w 16 6) (getF w 32 16))
  | 0x14 => some (.exit)
  | _ => none

/-- Opcodes 0x20-0x2F: the instruction that an opcode, and the bits that tell two instructions of one opcode apart,
select (R69). -/
def candidate2 (op w : Nat) : Option Instr :=
  match op with
  | 0x20 => some (.add (getF w 10 6) (getF w 28 1) (getF w 22 6) (getF w 16 6))
  | 0x21 => some (.sub (getF w 10 6) (getF w 28 1) (getF w 22 6) (getF w 16 6))
  | 0x22 => some (.addi (getF w 10 6) (getF w 22 10) (getF w 16 6))
  | 0x23 => some (.mul (getF w 10 6) (getF w 28 1) (getF w 22 6) (getF w 16 6))
  | 0x24 => some (.mulh (getF w 10 6) (getF w 22 6) (getF w 16 6))
  | 0x25 => some (.mulhu (getF w 10 6) (getF w 22 6) (getF w 16 6))
  | 0x26 => some (.div (getF w 10 6) (getF w 28 1) (getF w 22 6) (getF w 16 6))
  | 0x27 => some (.divu (getF w 10 6) (getF w 28 1) (getF w 22 6) (getF w 16 6))
  | 0x28 => some (.rem (getF w 10 6) (getF w 28 1) (getF w 22 6) (getF w 16 6))
  | 0x29 => some (.remu (getF w 10 6) (getF w 28 1) (getF w 22 6) (getF w 16 6))
  | 0x2a => some (.and (getF w 10 6) (getF w 22 6) (getF w 16 6))
  | 0x2b => some (.or (getF w 10 6) (getF w 22 6) (getF w 16 6))
  | 0x2c => some (.xor (getF w 10 6) (getF w 22 6) (getF w 16 6))
  | 0x2d => some (.andi (getF w 10 6) (getF w 22 10) (getF w 16 6))
  | 0x2e => some (.ori (getF w 10 6) (getF w 22 10) (getF w 16 6))
  | 0x2f => some (.xori (getF w 10 6) (getF w 22 10) (getF w 16 6))
  | _ => none

/-- Opcodes 0x30-0x3F: the instruction that an opcode, and the bits that tell two instructions of one opcode apart,
select (R69). -/
def candidate3 (op w : Nat) : Option Instr :=
  match op with
  | 0x30 => some (.shl (getF w 10 6) (getF w 28 1) (getF w 22 6) (getF w 16 6))
  | 0x31 => some (.shr (getF w 10 6) (getF w 28 1) (getF w 22 6) (getF w 16 6))
  | 0x32 => some (.sha (getF w 10 6) (getF w 28 1) (getF w 22 6) (getF w 16 6))
  | 0x33 => some (.shli (getF w 10 6) (getF w 28 1) (getF w 22 6) (getF w 16 6))
  | 0x34 => some (.shri (getF w 10 6) (getF w 28 1) (getF w 22 6) (getF w 16 6))
  | 0x35 => some (.shai (getF w 10 6) (getF w 28 1) (getF w 22 6) (getF w 16 6))
  | 0x36 => some (.rol (getF w 10 6) (getF w 28 1) (getF w 22 6) (getF w 16 6))
  | 0x37 => some (.roli (getF w 10 6) (getF w 28 1) (getF w 22 6) (getF w 16 6))
  | 0x38 => some (.slt (getF w 10 6) (getF w 22 6) (getF w 16 6))
  | 0x39 => some (.sltu (getF w 10 6) (getF w 22 6) (getF w 16 6))
  | 0x3a => some (.slti (getF w 10 6) (getF w 22 10) (getF w 16 6))
  | 0x3b => some (.min (getF w 10 6) (getF w 22 6) (getF w 16 6))
  | 0x3c => some (.max (getF w 10 6) (getF w 22 6) (getF w 16 6))
  | 0x3d => some (.minu (getF w 10 6) (getF w 22 6) (getF w 16 6))
  | 0x3e => some (.maxu (getF w 10 6) (getF w 22 6) (getF w 16 6))
  | 0x3f => some (.sel (getF w 10 6) (getF w 28 2) (getF w 22 6) (getF w 16 6) (getF w 32 6))
  | _ => none

/-- Opcodes 0x40-0x4F: the instruction that an opcode, and the bits that tell two instructions of one opcode apart,
select (R69). -/
def candidate4 (op w : Nat) : Option Instr :=
  match op with
  | 0x40 => some (.li (getF w 10 6) (getF w 22 42))
  | 0x41 => some (.lih (getF w 10 6) (getF w 28 2) (getF w 16 6) (getF w 32 16))
  | 0x42 => some (.addpc (getF w 10 6) (getF w 22 42))
  | 0x43 => some (.clz (getF w 10 6) (getF w 28 2) (getF w 16 6))
  | 0x44 => some (.ctz (getF w 10 6) (getF w 28 2) (getF w 16 6))
  | 0x45 => some (.popc (getF w 10 6) (getF w 28 2) (getF w 16 6))
  | 0x46 => some (.brev (getF w 10 6) (getF w 28 2) (getF w 16 6))
  | 0x47 => some (.bswap (getF w 10 6) (getF w 28 2) (getF w 16 6))
  | 0x48 => some (.ilv (getF w 10 6) (getF w 28 1) (getF w 22 6) (getF w 16 6) (getF w 32 6))
  | 0x49 => some (.dilv (getF w 10 6) (getF w 28 1) (getF w 16 6) (getF w 44 2))
  | 0x4a => some (.ext (getF w 10 6) (getF w 16 6) (getF w 44 1) (getF w 38 6) (getF w 32 6))
  | 0x4b => some (.ins (getF w 10 6) (getF w 22 6) (getF w 16 6) (getF w 38 6) (getF w 32 6))
  | 0x4c => some (.addsh (getF w 10 6) (getF w 28 4) (getF w 22 6) (getF w 16 6))
  | 0x4d => some (.madd (getF w 10 6) (getF w 28 1) (getF w 22 6) (getF w 16 6) (getF w 32 6))
  | _ => none

/-- Opcodes 0x50-0x5F: the instruction that an opcode, and the bits that tell two instructions of one opcode apart,
select (R69). -/
def candidate5 (op w : Nat) : Option Instr :=
  match op with
  | 0x50 => some (.ld (getF w 10 6) (getF w 30 1) (getF w 28 2) (getF w 16 6) (getF w 32 16))
  | 0x51 => some (.st (getF w 28 2) (getF w 22 6) (getF w 16 6) (getF w 32 16))
  | 0x52 => some (.ldx (getF w 10 6) (getF w 30 1) (getF w 28 2) (getF w 22 6) (getF w 16 6))
  | 0x53 => some (.stx (getF w 28 2) (getF w 22 6) (getF w 16 6) (getF w 32 6))
  | 0x54 => some (.ldp (getF w 10 6) (getF w 30 1) (getF w 28 2) (getF w 16 6) (getF w 32 16))
  | 0x55 => some (.stp (getF w 28 2) (getF w 22 6) (getF w 16 6) (getF w 32 16))
  | 0x56 => some (.vld (getF w 10 5) (getF w 28 2) (getF w 16 6) (getF w 38 6) (getF w 48 16))
  | 0x57 => some (.vst (getF w 10 5) (getF w 28 2) (getF w 16 6) (getF w 38 6) (getF w 48 16))
  | 0x58 => some (.vlds (getF w 10 5) (getF w 28 2) (getF w 22 6) (getF w 16 6) (getF w 38 6) (getF w 48 16))
  | 0x59 => some (.vsts (getF w 10 5) (getF w 28 2) (getF w 22 6) (getF w 16 6) (getF w 38 6) (getF w 48 16))
  | 0x5a => some (.vgath (getF w 10 5) (getF w 28 2) (getF w 16 6) (getF w 46 1) (getF w 44 2) (getF w 38 6) (getF w 32 5) (getF w 48 16))
  | 0x5b => some (.vscat (getF w 10 5) (getF w 28 2) (getF w 16 6) (getF w 46 1) (getF w 44 2) (getF w 38 6) (getF w 32 5) (getF w 48 16))
  | 0x5c => some (.pref (getF w 28 2) (getF w 16 6) (getF w 32 16))
  | 0x5d => some (.discard (getF w 22 6) (getF w 16 6))
  | 0x5e => some (.clean (getF w 22 6) (getF w 16 6))
  | 0x5f => some (.bankcfg (getF w 10 6) (getF w 28 2) (getF w 16 6) (getF w 32 4))
  | _ => none

/-- Opcodes 0x60-0x6F: the instruction that an opcode, and the bits that tell two instructions of one opcode apart,
select (R69). -/
def candidate6 (op w : Nat) : Option Instr :=
  match op with
  | 0x60 => some (.bankq (getF w 10 6) (getF w 16 6))
  | 0x61 => some (.fpush (getF w 10 6) (getF w 22 6) (getF w 16 6) (getF w 32 16))
  | 0x62 => some (.fpop (getF w 10 6) (getF w 22 6) (getF w 16 6) (getF w 32 16))
  | 0x63 => some (.fpeek (getF w 10 6) (getF w 22 6) (getF w 16 6) (getF w 32 16))
  | 0x64 => some (.hsync)
  | _ => none

/-- Opcodes 0x70-0x7F: the instruction that an opcode, and the bits that tell two instructions of one opcode apart,
select (R69). -/
def candidate7 (op w : Nat) : Option Instr :=
  match op with
  | 0x70 => some (.aadd (getF w 28 1) (getF w 22 6) (getF w 16 6) (getF w 32 16))
  | 0x71 => some (.aand (getF w 28 1) (getF w 22 6) (getF w 16 6) (getF w 32 16))
  | 0x72 => some (.aor (getF w 28 1) (getF w 22 6) (getF w 16 6) (getF w 32 16))
  | 0x73 => some (.axor (getF w 28 1) (getF w 22 6) (getF w 16 6) (getF w 32 16))
  | 0x74 => some (.amin (getF w 30 1) (getF w 28 1) (getF w 22 6) (getF w 16 6) (getF w 32 16))
  | 0x75 => some (.amax (getF w 30 1) (getF w 28 1) (getF w 22 6) (getF w 16 6) (getF w 32 16))
  | 0x76 => some (.afadd (getF w 28 1) (getF w 22 6) (getF w 16 6) (getF w 32 16))
  | 0x77 => some (.xadd (getF w 10 6) (getF w 28 1) (getF w 22 6) (getF w 16 6) (getF w 32 16))
  | 0x78 => some (.xchg (getF w 10 6) (getF w 28 1) (getF w 22 6) (getF w 16 6) (getF w 32 16))
  | 0x79 => some (.cas (getF w 10 6) (getF w 28 1) (getF w 22 6) (getF w 16 6) (getF w 32 6) (getF w 48 16))
  | 0x7a =>
    match w / 2 ^ 30 % 2 with
    | 0 => some (.swait (getF w 10 6) (getF w 28 1) (getF w 22 6) (getF w 16 6) (getF w 32 16))
    | 1 => some (.swaitTake (getF w 10 6) (getF w 28 1) (getF w 22 6) (getF w 16 6) (getF w 32 16))
    | _ => none
  | 0x7b => some (.spost (getF w 28 1) (getF w 22 6) (getF w 16 6) (getF w 32 16))
  | 0x7c => some (.dguard (getF w 10 6) (getF w 22 6) (getF w 16 6))
  | 0x7d => some (.dgend (getF w 22 6) (getF w 16 6))
  | _ => none

/-- Opcodes 0x80-0x8F: the instruction that an opcode, and the bits that tell two instructions of one opcode apart,
select (R69). -/
def candidate8 (op w : Nat) : Option Instr :=
  match op with
  | 0x80 => some (.fcvt (getF w 10 5) (getF w 28 4) (getF w 22 4) (getF w 16 5) (getF w 47 1) (getF w 44 3) (getF w 38 6))
  | 0x81 => some (.fcvti (getF w 10 5) (getF w 28 4) (getF w 22 4) (getF w 16 5) (getF w 47 1) (getF w 44 3) (getF w 38 6))
  | 0x82 => some (.icvtf (getF w 10 5) (getF w 28 4) (getF w 22 4) (getF w 16 5) (getF w 47 1) (getF w 44 3) (getF w 38 6))
  | 0x83 => some (.fpack (getF w 10 5) (getF w 28 4) (getF w 16 5) (getF w 44 3) (getF w 38 5) (getF w 32 5) (getF w 48 4))
  | 0x84 => some (.funpk (getF w 10 5) (getF w 28 4) (getF w 16 5) (getF w 47 1) (getF w 44 3) (getF w 38 6) (getF w 32 5) (getF w 48 4))
  | 0x85 => some (.fscl (getF w 10 5) (getF w 28 4) (getF w 22 1) (getF w 16 5) (getF w 47 1) (getF w 44 3) (getF w 38 6) (getF w 32 5))
  | 0x86 => some (.fclass (getF w 10 5) (getF w 28 4) (getF w 16 5) (getF w 38 6))
  | 0x87 => some (.frint (getF w 10 5) (getF w 28 4) (getF w 22 1) (getF w 16 5) (getF w 44 3) (getF w 38 6))
  | _ => none

/-- Opcodes 0x90-0x9F: the instruction that an opcode, and the bits that tell two instructions of one opcode apart,
select (R69). -/
def candidate9 (op w : Nat) : Option Instr :=
  match op with
  | 0x90 => some (.rep (getF w 16 6) (getF w 32 16))
  | 0x91 => some (.vspan (getF w 10 2) (getF w 28 2) (getF w 16 6) (getF w 32 3))
  | 0x92 =>
    match w / 2 ^ 28 % 16 with
    | 0 => some (.mmov (getF w 10 3) (getF w 16 3))
    | 1 => some (.mmovFx (getF w 10 3) (getF w 16 6))
    | 2 => some (.mmovTx (getF w 10 6) (getF w 16 3))
    | 3 => some (.mmovSp (getF w 10 3) (getF w 16 2))
    | _ => none
  | 0x93 => some (.mand (getF w 10 3) (getF w 28 1) (getF w 22 3) (getF w 16 3))
  | 0x94 => some (.mor (getF w 10 3) (getF w 28 1) (getF w 22 3) (getF w 16 3))
  | 0x95 => some (.mxor (getF w 10 3) (getF w 22 3) (getF w 16 3))
  | 0x96 => some (.mnot (getF w 10 3) (getF w 16 3))
  | 0x97 => some (.mpop (getF w 10 6) (getF w 22 2) (getF w 16 3))
  | 0x98 => some (.mfirst (getF w 10 6) (getF w 22 2) (getF w 16 3))
  | 0x99 => some (.vadd (getF w 10 5) (getF w 28 3) (getF w 22 6) (getF w 16 5) (getF w 47 1) (getF w 44 1) (getF w 38 6))
  | 0x9a => some (.vsub (getF w 10 5) (getF w 28 3) (getF w 22 6) (getF w 16 5) (getF w 47 1) (getF w 44 1) (getF w 38 6))
  | 0x9b => some (.vmul (getF w 10 5) (getF w 28 3) (getF w 22 6) (getF w 16 5) (getF w 44 1) (getF w 38 6))
  | 0x9c => some (.vmulh (getF w 10 5) (getF w 28 3) (getF w 22 6) (getF w 16 5) (getF w 44 1) (getF w 38 6))
  | 0x9d => some (.vand (getF w 10 5) (getF w 28 3) (getF w 22 6) (getF w 16 5) (getF w 44 1) (getF w 38 6))
  | 0x9e => some (.vor (getF w 10 5) (getF w 28 3) (getF w 22 6) (getF w 16 5) (getF w 44 1) (getF w 38 6))
  | 0x9f => some (.vxor (getF w 10 5) (getF w 28 3) (getF w 22 6) (getF w 16 5) (getF w 44 1) (getF w 38 6))
  | _ => none

/-- Opcodes 0xA0-0xAF: the instruction that an opcode, and the bits that tell two instructions of one opcode apart,
select (R69). -/
def candidateA (op w : Nat) : Option Instr :=
  match op with
  | 0xa0 => some (.vshl (getF w 10 5) (getF w 28 3) (getF w 22 6) (getF w 16 5) (getF w 44 1) (getF w 38 6))
  | 0xa1 => some (.vshr (getF w 10 5) (getF w 28 3) (getF w 22 6) (getF w 16 5) (getF w 44 1) (getF w 38 6))
  | 0xa2 => some (.vmin (getF w 10 5) (getF w 28 3) (getF w 22 6) (getF w 16 5) (getF w 44 1) (getF w 38 6))
  | 0xa3 => some (.vmax (getF w 10 5) (getF w 28 3) (getF w 22 6) (getF w 16 5) (getF w 44 1) (getF w 38 6))
  | 0xa4 => some (.vcmp (getF w 10 3) (getF w 28 3) (getF w 22 6) (getF w 16 5) (getF w 44 1) (getF w 38 6) (getF w 32 3))
  | 0xa5 => some (.vsel (getF w 10 5) (getF w 28 4) (getF w 22 5) (getF w 16 5) (getF w 38 6) (getF w 32 3))
  | 0xa6 => some (.vmov (getF w 10 5) (getF w 28 4) (getF w 22 6) (getF w 16 5) (getF w 44 1) (getF w 38 6))
  | 0xa7 => some (.vperm (getF w 10 5) (getF w 28 4) (getF w 22 5) (getF w 16 5) (getF w 38 6))
  | 0xa8 => some (.vslide (getF w 10 5) (getF w 28 4) (getF w 22 6) (getF w 16 5) (getF w 44 1) (getF w 38 6))
  | 0xa9 => some (.fadd (getF w 10 5) (getF w 28 2) (getF w 22 5) (getF w 16 5) (getF w 44 3) (getF w 38 6))
  | 0xaa => some (.fsub (getF w 10 5) (getF w 28 2) (getF w 22 5) (getF w 16 5) (getF w 44 3) (getF w 38 6))
  | 0xab => some (.fmul (getF w 10 5) (getF w 28 2) (getF w 22 5) (getF w 16 5) (getF w 44 3) (getF w 38 6))
  | 0xac => some (.fma (getF w 10 5) (getF w 28 2) (getF w 22 5) (getF w 16 5) (getF w 47 1) (getF w 44 3) (getF w 38 6) (getF w 32 5))
  | 0xad => some (.fdiv (getF w 10 5) (getF w 28 2) (getF w 22 5) (getF w 16 5) (getF w 44 3) (getF w 38 6))
  | 0xae => some (.fsqrt (getF w 10 5) (getF w 28 2) (getF w 16 5) (getF w 44 3) (getF w 38 6))
  | 0xaf => some (.fmin (getF w 10 5) (getF w 28 2) (getF w 22 5) (getF w 16 5) (getF w 38 6))
  | _ => none

/-- Opcodes 0xB0-0xBF: the instruction that an opcode, and the bits that tell two instructions of one opcode apart,
select (R69). -/
def candidateB (op w : Nat) : Option Instr :=
  match op with
  | 0xb0 => some (.fmax (getF w 10 5) (getF w 28 2) (getF w 22 5) (getF w 16 5) (getF w 38 6))
  | 0xb1 => some (.fcmp (getF w 10 3) (getF w 28 2) (getF w 22 5) (getF w 16 5) (getF w 38 6) (getF w 32 3))
  | 0xb2 => some (.fsgn (getF w 10 5) (getF w 28 2) (getF w 22 5) (getF w 16 5) (getF w 44 2) (getF w 38 6))
  | 0xb3 => some (.vred (getF w 10 6) (getF w 28 3) (getF w 16 5) (getF w 44 3) (getF w 38 5))
  | 0xb4 => some (.fred (getF w 10 6) (getF w 28 2) (getF w 22 2) (getF w 16 5) (getF w 44 3) (getF w 38 5))
  | 0xb5 => some (.fdot (getF w 10 6) (getF w 28 2) (getF w 22 5) (getF w 16 5) (getF w 44 3) (getF w 38 5))
  | 0xb6 => some (.fexp (getF w 10 5) (getF w 28 2) (getF w 16 5) (getF w 44 3) (getF w 38 6))
  | 0xb7 => some (.flog (getF w 10 5) (getF w 28 2) (getF w 16 5) (getF w 44 3) (getF w 38 6))
  | 0xb8 => some (.frcp (getF w 10 5) (getF w 28 2) (getF w 16 5) (getF w 44 3) (getF w 38 6))
  | 0xb9 => some (.frsq (getF w 10 5) (getF w 28 2) (getF w 16 5) (getF w 44 3) (getF w 38 6))
  | 0xba => some (.fsin (getF w 10 5) (getF w 28 2) (getF w 16 5) (getF w 44 3) (getF w 38 6))
  | 0xbb => some (.fcos (getF w 10 5) (getF w 28 2) (getF w 16 5) (getF w 44 3) (getF w 38 6))
  | 0xbc => some (.ftanh (getF w 10 5) (getF w 28 2) (getF w 16 5) (getF w 44 3) (getF w 38 6))
  | 0xbd => some (.topn (getF w 10 5) (getF w 28 4) (getF w 16 5) (getF w 38 5) (getF w 32 5) (getF w 57 1) (getF w 48 9))
  | 0xbe => some (.rng (getF w 10 5) (getF w 22 6) (getF w 16 6) (getF w 38 2) (getF w 32 6))
  | 0xbf => some (.vext (getF w 10 6) (getF w 28 4) (getF w 22 6) (getF w 16 5) (getF w 38 5))
  | _ => none

/-- Opcodes 0xC0-0xCF: the instruction that an opcode, and the bits that tell two instructions of one opcode apart,
select (R69). -/
def candidateC (op w : Nat) : Option Instr :=
  match op with
  | 0xc0 => some (.mzero (getF w 10 4) (getF w 28 1))
  | 0xc1 => some (.mlda (getF w 10 6) (getF w 28 4) (getF w 22 6) (getF w 16 6) (getF w 48 16))
  | 0xc2 => some (.mldb (getF w 10 6) (getF w 28 4) (getF w 22 6) (getF w 16 6) (getF w 45 2) (getF w 44 1) (getF w 48 16))
  | 0xc3 => some (.mseed (getF w 10 6) (getF w 16 6) (getF w 46 2))
  | 0xc4 => some (.mma (getF w 10 4) (getF w 28 4) (getF w 22 6) (getF w 16 6) (getF w 46 2) (getF w 44 2))
  | 0xc5 => some (.mscl (getF w 10 4) (getF w 28 1) (getF w 44 3) (getF w 32 5) (getF w 59 1) (getF w 58 1))
  | 0xc6 => some (.mdrain (getF w 10 4) (getF w 28 1) (getF w 22 6) (getF w 16 6) (getF w 47 1) (getF w 44 3) (getF w 32 5) (getF w 60 4) (getF w 59 1) (getF w 58 1))
  | 0xc7 => some (.mwait (getF w 10 6))
  | 0xc8 =>
    match w / 2 ^ 28 % 16 with
    | 0 => some (.mstat (getF w 10 6))
    | 1 => some (.mstatP (getF w 10 6) (getF w 16 6))
    | _ => none
  | 0xc9 => some (.mcprs (getF w 10 6) (getF w 28 4) (getF w 22 6) (getF w 16 6) (getF w 46 2))
  | 0xca => some (.macc (getF w 10 4) (getF w 28 1) (getF w 22 6) (getF w 16 6) (getF w 47 1) (getF w 44 3) (getF w 48 16))
  | _ => none

/-- Opcodes 0xD0-0xDF: the instruction that an opcode, and the bits that tell two instructions of one opcode apart,
select (R69). -/
def candidateD (op w : Nat) : Option Instr :=
  match op with
  | 0xd0 => some (.cpy (getF w 10 6) (getF w 22 6) (getF w 16 6) (getF w 32 6))
  | 0xd1 => some (.cpys (getF w 10 6) (getF w 22 6) (getF w 16 6) (getF w 32 6))
  | 0xd2 => some (.cpyg (getF w 10 6) (getF w 28 2) (getF w 22 6) (getF w 16 6) (getF w 46 1) (getF w 44 2) (getF w 32 6) (getF w 48 1))
  | 0xd3 => some (.cfill (getF w 10 6) (getF w 22 6) (getF w 16 6) (getF w 32 6))
  | 0xd4 =>
    match w / 2 ^ 28 % 16 with
    | 0 => some (.cstat (getF w 10 6))
    | 1 => some (.cstatW (getF w 10 6))
    | _ => none
  | 0xd5 => some (.rdset (getF w 10 6) (getF w 28 4) (getF w 22 6) (getF w 16 6) (getF w 44 3) (getF w 32 6))
  | 0xd6 =>
    match w / 2 ^ 44 % 2 with
    | 0 => some (.rdc (getF w 10 5) (getF w 28 4) (getF w 22 6) (getF w 16 6) (getF w 38 2))
    | 1 => some (.rdcMem (getF w 28 4) (getF w 22 6) (getF w 16 6) (getF w 32 6))
    | _ => none
  | 0xd7 =>
    match w / 2 ^ 28 % 16 with
    | 0 => some (.rdq (getF w 10 6) (getF w 16 6))
    | 1 => some (.rdqSt (getF w 10 6) (getF w 16 6))
    | 2 => some (.rdqW (getF w 10 6) (getF w 16 6))
    | _ => none
  | 0xd8 => some (.spawn (getF w 28 1) (getF w 22 6) (getF w 16 6) (getF w 32 16))
  | 0xd9 => some (.spawnr (getF w 10 6) (getF w 22 6) (getF w 16 6) (getF w 32 6) (getF w 48 1))
  | 0xda =>
    match w / 2 ^ 48 % 2 with
    | 0 => some (.cntset (getF w 10 6) (getF w 22 6) (getF w 16 6))
    | 1 => some (.cntsetClr (getF w 10 6))
    | _ => none
  | 0xdb => some (.cntdec (getF w 28 1) (getF w 22 6) (getF w 16 6) (getF w 40 8) (getF w 32 8))
  | 0xdc => some (.send (getF w 10 5) (getF w 22 6) (getF w 16 6) (getF w 56 1) (getF w 48 8))
  | 0xdd => some (.recv (getF w 10 5) (getF w 22 6) (getF w 16 6))
  | 0xde =>
    match w / 2 ^ 28 % 16 with
    | 0 => some (.inbqN (getF w 10 6))
    | 1 => some (.inbqRoom (getF w 10 6))
    | 2 => some (.inbqStray (getF w 10 6))
    | _ => none
  | 0xdf => some (.launch (getF w 22 6) (getF w 16 6) (getF w 32 16))
  | _ => none

/-- Opcodes 0xE0-0xEF: the instruction that an opcode, and the bits that tell two instructions of one opcode apart,
select (R69). -/
def candidateE (op w : Nat) : Option Instr :=
  match op with
  | 0xe0 =>
    match w / 2 ^ 28 % 16 with
    | 0 => some (.postr (getF w 16 6))
    | 1 => some (.postrOr (getF w 16 6))
    | _ => none
  | 0xe1 => some (.tstamp (getF w 10 6) (getF w 28 3))
  | 0xe4 => some (.bar (getF w 22 4))
  | 0xe5 => some (.bardom (getF w 22 6) (getF w 16 6) (getF w 32 6) (getF w 48 4))
  | 0xe6 => some (.xph (getF w 28 4) (getF w 16 6) (getF w 32 16))
  | 0xe7 => some (.xmit (getF w 22 6) (getF w 16 6) (getF w 32 16))
  | 0xe8 => some (.xsel (getF w 22 6) (getF w 16 6) (getF w 32 16))
  | 0xe9 => some (.xrcv (getF w 10 5) (getF w 22 6) (getF w 32 16))
  | 0xea => some (.xend)
  | 0xeb => some (.sstep (getF w 28 4) (getF w 22 6) (getF w 16 6) (getF w 32 16))
  | 0xec => some (.gate (getF w 22 10))
  | 0xed =>
    match w / 2 ^ 28 % 16 with
    | 0 => some (.gret)
    | 1 => some (.gretFail (getF w 16 6))
    | _ => none
  | 0xee => some (.trap (getF w 22 10))
  | 0xef => some (.tret)
  | _ => none

/-- Opcodes 0xF0-0xFF: the instruction that an opcode, and the bits that tell two instructions of one opcode apart,
select (R69). -/
def candidateF (op w : Nat) : Option Instr :=
  match op with
  | 0xf0 => some (.gets (getF w 10 6) (getF w 22 10))
  | 0xf1 => some (.sets (getF w 22 10) (getF w 16 6))
  | 0xf2 => some (.brk (getF w 8 2))
  | 0xf3 =>
    match w / 2 ^ 28 % 16 with
    | 0 => some (.iflush (getF w 16 6))
    | 1 => some (.iflushAll (getF w 16 6))
    | _ => none
  | 0xf4 =>
    match w / 2 ^ 28 % 16 with
    | 0 => some (.tlbinvPage (getF w 22 6) (getF w 16 6))
    | 1 => some (.tlbinvGuild (getF w 22 6) (getF w 16 6))
    | 2 => some (.tlbinvAll (getF w 22 6) (getF w 16 6))
    | _ => none
  | 0xf5 => some (.halt)
  | 0xf6 => some (.mark (getF w 22 10))
  | 0xf7 => some (.snap (getF w 10 6) (getF w 16 6))
  | 0xf8 =>
    match w / 2 ^ 22 % 2 with
    | 1 => some (.freeze (getF w 23 1))
    | 0 => some (.thaw (getF w 23 1))
    | _ => none
  | _ => none

/-- The instruction that an opcode selects, by its upper four bits. -/
def candidateOf (op w : Nat) : Option Instr :=
  match op / 16 with
  | 0 => candidate0 op w
  | 1 => candidate1 op w
  | 2 => candidate2 op w
  | 3 => candidate3 op w
  | 4 => candidate4 op w
  | 5 => candidate5 op w
  | 6 => candidate6 op w
  | 7 => candidate7 op w
  | 8 => candidate8 op w
  | 9 => candidate9 op w
  | 10 => candidateA op w
  | 11 => candidateB op w
  | 12 => candidateC op w
  | 13 => candidateD op w
  | 14 => candidateE op w
  | 15 => candidateF op w
  | _ => none

/-- The instruction that a head's opcode selects. -/
def candidate (w : Nat) : Option Instr := candidateOf (w % 256) w

/-- The instruction of a head and its tail. BRK accepts any TL and ignores its D field and its tail (R45, R389). -/
def decode (w : BitVec 64) : Instr :=
  if w.toNat % 256 = 0xF2 then .brk (getF w.toNat 8 2)
  else
    match candidate w.toNat with
    | some i => if i.wf && decide (encode i = w) then i else .illegalOpcode w
    | none => .illegalOpcode w

/-- The EP instructions of a bench core (R414); every other 32-bit word is one of RISC-V, or illegal there. -/
def decodeRv (w : BitVec 32) : Instr :=
  let n := w.toNat
  let rd := getF n 7 5
  let rs1 := getF n 15 5
  let rs2 := getF n 20 5
  let f3 := n / 2 ^ 12 % 8
  let f7 := n / 2 ^ 25
  if n % 128 = 0x0B then
    if f3 = 0 ∧ f7 = 0 then .epWaitact rs2 rs1 rd
    else if f3 = 1 ∧ f7 = 0 then .epPubobs rs2 rs1 rd
    else if f3 = 1 ∧ f7 = 1 ∧ rd = 0 then .epEnd rs2 rs1
    else if f3 = 2 ∧ n / 2 ^ 20 < 8 ∧ rs1 = 0 then .epInfo (getF n 20 3) rd
    else if f3 = 3 ∧ n / 2 ^ 15 % 32 = 0 ∧ n / 2 ^ 20 = 0 then .epVer rd
    else .benchInstruction w
  else if n % 128 = 0x2B then
    if f3 = 0 ∧ f7 = 0 then .epRand rs2 rs1 rd
    else if f3 = 0 ∧ f7 = 1 then .epRandh rs2 rs1 rd
    else .benchInstruction w
  else .benchInstruction w

/-- The word of an EP instruction (R414). -/
def encodeRv : Instr → Option (BitVec 32)
  | .epWaitact b a d => some (BitVec.ofNat 32 (0x0B + putF 7 d + putF 15 a + putF 20 b))
  | .epPubobs b a d => some (BitVec.ofNat 32 (0x0B + 2 ^ 12 + putF 7 d + putF 15 a + putF 20 b))
  | .epEnd b a => some (BitVec.ofNat 32 (0x0B + 2 ^ 12 + putF 15 a + putF 20 b + 2 ^ 25))
  | .epInfo item d => some (BitVec.ofNat 32 (0x0B + 2 * 2 ^ 12 + putF 7 d + putF 20 item))
  | .epVer d => some (BitVec.ofNat 32 (0x0B + 3 * 2 ^ 12 + putF 7 d))
  | .epRand b a d => some (BitVec.ofNat 32 (0x2B + putF 7 d + putF 15 a + putF 20 b))
  | .epRandh b a d => some (BitVec.ofNat 32 (0x2B + putF 7 d + putF 15 a + putF 20 b + 2 ^ 25))
  | _ => none

/-- The instruction is one of a bench core's EP instructions. -/
def isEp : Instr → Bool
  | .epWaitact _ _ _ => true
  | .epPubobs _ _ _ => true
  | .epEnd _ _ => true
  | .epInfo _ _ => true
  | .epVer _ => true
  | .epRand _ _ _ => true
  | .epRandh _ _ _ => true
  | _ => false

/-- The instruction is an illegal encoding. -/
def isIllegal : Instr → Bool
  | .illegalOpcode _ => true
  | _ => false

/-- The word of R70 for bits numbered as spec/opcode_table.json numbers them: the head in the highest of the halfwords, t0 in
the next lower one, and so on. -/
def tableHalves (nbits w : Nat) : BitVec 64 :=
  let h := w / 2 ^ (nbits - 16) % 65536
  let t0 := if 32 ≤ nbits then w / 2 ^ (nbits - 32) % 65536 else 0
  let t1 := if 48 ≤ nbits then w / 2 ^ (nbits - 48) % 65536 else 0
  let t2 := if 64 ≤ nbits then w / 2 ^ (nbits - 64) % 65536 else 0
  BitVec.ofNat 64 (h + t0 * 2 ^ 16 + t1 * 2 ^ 32 + t2 * 2 ^ 48)

/-- What the decoder reads from the bits of a row of the opcode table: a head and its tail, or a word of a bench core. -/
def decodeTableWord (nbits w : Nat) : Option Instr :=
  let i := decode (tableHalves nbits w)
  if (tableHalves nbits w).toNat / 256 % 4 * 16 + 16 = nbits && !isIllegal i then some i
  else if nbits = 32 && isEp (decodeRv (BitVec.ofNat 32 w)) then some (decodeRv (BitVec.ofNat 32 w))
  else none

end Sys2Proof
end

