-- ==== Sys2Proof/Machine/Bits.lean ====
section
/-!
DEFINITION. Sys2Proof/Machine/Bits.lean: bit fields, extensions and byte order (R2, R5, R43, R76).
-/

namespace Sys2Proof.Machine

/-- Bits [lo + len - 1 : lo] of a word, as a number. -/
def field (w : Word) (lo len : Nat) : Nat := w.toNat / 2 ^ lo % 2 ^ len

/-- Bits [lo + len - 1 : lo] of a word replaced by the low bits of v. -/
def setField (w : Word) (lo len v : Nat) : Word :=
  let mask : Word := BitVec.ofNat 64 ((2 ^ len - 1) * 2 ^ lo)
  (w &&& ~~~mask) ||| (BitVec.ofNat 64 (v % 2 ^ len * 2 ^ lo))

/-- sext(v, n): the low n bits of v, sign-extended to 64 (R76). -/
def sextN (v : Word) (n : Nat) : Word := (v.setWidth n).signExtend 64

/-- zext(v, n): the low n bits of v, zero-extended to 64 (R76). -/
def zextN (v : Word) (n : Nat) : Word := (v.setWidth n).setWidth 64

/-- A signed field of any width, extended to 64 bits (R43). -/
def sx {n : Nat} (v : BitVec n) : Word := v.signExtend 64

/-- The n bytes at the low end of a value, lowest first (R2). -/
def bytesOf (n v : Nat) : List Byte :=
  match n with
  | 0 => []
  | k + 1 => BitVec.ofNat 8 v :: bytesOf k (v / 256)

/-- The value of a run of bytes, lowest first (R2). -/
def ofBytes : List Byte → Nat
  | [] => 0
  | b :: bs => b.toNat + 256 * ofBytes bs

/-- The signed reading of an n-bit pattern. -/
def signedOf (n v : Nat) : Int := if v % 2 ^ n < 2 ^ (n - 1) then (v % 2 ^ n : Nat) else (v % 2 ^ n : Nat) - (2 ^ n : Nat)

/-- The n-bit pattern of an integer, modulo 2^n. -/
def patternOf (n : Nat) (i : Int) : Nat := (i % (2 ^ n : Nat)).toNat

/-- Lowest-first replacement of a value in a list of pairs kept in rising key order; a new key is put in its place. -/
def assocSet {β : Type} (k : Nat) (v : β) : List (Nat × β) → List (Nat × β)
  | [] => [(k, v)]
  | (j, w) :: l => if k < j then (k, v) :: (j, w) :: l else if k = j then (k, v) :: l else (j, w) :: assocSet k v l

/-- The value at a key of a list of pairs. -/
def assocGet? {β : Type} (k : Nat) : List (Nat × β) → Option β
  | [] => none
  | (j, w) :: l => if k = j then some w else assocGet? k l

/-- The pair at a key dropped. -/
def assocDrop {β : Type} (k : Nat) : List (Nat × β) → List (Nat × β)
  | [] => []
  | (j, w) :: l => if k = j then l else (j, w) :: assocDrop k l

/-- The value at a key, or a given value where the key is not listed. -/
def assocGetD {β : Type} (k : Nat) (d : β) (l : List (Nat × β)) : β := (assocGet? k l).getD d

end Sys2Proof.Machine
end

