-- ==== Sys2Proof/Config.lean ====
section
/-!
DEFINITION. Sys2Proof/Config.lean: what the manual fixes once for the module (R1, R9, R22), and the values it leaves open.
-/

namespace Sys2Proof.Config

/-- Compute dies of the module (R1). -/
def dies : Nat := 8
/-- Enabled clusters of a die (R1). -/
def clusters : Nat := 100
/-- Enabled cores of a cluster (R1). -/
def cores : Nat := 32
/-- Thread slots of a core (R1). -/
def slots : Nat := 16
/-- Bench cores of a die (R1). -/
def benches : Nat := 64
/-- Bytes of one HBM stack (R135): 64 x 10^9. -/
def stackBytes : Nat := 0xEE6B28000
/-- The longest dynamic chunk, in instructions (R25, R99). -/
def maxChunk : Nat := 4096
/-- Default of wdlimit (R32): 2^28. -/
def wdDefault : Nat := 0x10000000
/-- Words the manual leaves open where it states no value for them (notes/assumptions/4.md): one for each value of the
state's counter of such words. -/
opaque freeWord : Nat → BitVec 64

/-- Base of the local window (R134). -/
def windowBase : Nat := 0xFFFFFFFFFFE00000

end Sys2Proof.Config
end

