-- ==== Sys2Proof/Machine/State.lean ====
section
/-!
DEFINITION. Sys2Proof/Machine/State.lean: everything the manual gives the machine, as plain data.

Units are named by numbers. A die is its physical number 0-7; a core is (100 die + cluster) 32 + core with the virtual
cluster and core (R12, the remap of R15 being the identity on virtual numbers); a thread is 16 core + slot; a bench core is
64 die + e; a crew is 2^32 partition + serial (R20). Tables of units list, in rising order of their numbers, the units that
something has touched since reset; every other unit is in its state at reset.
-/

namespace Sys2Proof.Machine

/-- Memory: (physical address, byte) pairs with strictly rising addresses, none equal to what an unlisted address reads as. -/
abbrev Memory := List Host.Cell

/-! ### Threads, chunks and what a chunk carries -/

/-- One entry of a thread's gate link stack (R379). -/
structure GateLink where
  retPc : Word
  gatePc : Word
  guild : BitVec 16
  tvec : Word
  gtb : Word
  vpol : Bool
  nres : Nat
  fb : Word
deriving DecidableEq, Repr

/-- A request of an arming member (R353-R356). -/
inductive XReq where
  | xmit (record : Nat) (lines : List Line)
  | xsel (record off first count : Nat) (dst : Word) (pas : List Nat)
  | xrcv (record off first : Nat) (v : BitVec 5)
deriving DecidableEq, Repr

/-- A member's arming (R350, R351): the domain, the tablature's virtual address, the PC of the XPH and the head after it, the
tablature as read, the requests made so far, and whether XEND has ended the arming. -/
structure Arming where
  dom : Nat
  va : Word
  xphPc : Word
  xphNext : Word
  tab : List Line
  reqs : List XReq
  ended : Bool
deriving DecidableEq, Repr

/-- The registers of a thread that belong to a chunk's checkpoint (R50, R55, R56, R362), with the watchdog count (R115),
the gate link stack (R379) and the member's arming of an exchange phase (R351). -/
structure Arch where
  x : Vector Word 64
  v : Vector Line 32
  m : Vector Word 8
  s : Vector Word 4
  a : Vector Tile 16
  pc : Word
  status : Word
  fps : Word
  srkey : Word
  srctr : Word
  repst : Word
  tvec : Word
  tcause : Word
  tpc : Word
  tstat : Word
  tval : Word
  hscratch : Word
  trepst : Word
  tnpc : Word
  gtb : Word
  wdlimit : Word
  wdcount : Nat
  links : List GateLink
  arming : Option Arming
deriving DecidableEq, Repr

/-- A task record of 32 bytes (R301): dword 0, with PIN in bit 63 and BND in bit 62, and the three argument words. -/
structure TaskRec where
  w0 : Word
  arg0 : Word
  arg1 : Word
  arg2 : Word
deriving DecidableEq, Repr

/-- The operation of a far atomic (R169). AFADD names its format by its size. -/
inductive FarOp where
  | add | and | or | xor | minS | minU | maxS | maxU | fadd | post
deriving DecidableEq, Repr

/-- A far atomic held by a chunk or waiting at its home (R171): the word's physical address, its bytes, the operation, the
operand, and the virtual address the instruction formed. -/
structure Far where
  pa : Nat
  n : Nat
  op : FarOp
  v : Word
  va : Word
deriving DecidableEq, Repr

/-- What the home performs at the grant of a chunk that stands alone (R177, R179). -/
inductive AtomOp where
  | add (v : Word) | swap (v : Word) | cas (old new : Word) | take (c : Word)
deriving DecidableEq, Repr

/-- A value-returning atomic: the word, its bytes, the operation, and the register that receives the old word. -/
structure Atom where
  pa : Nat
  va : Word
  n : Nat
  op : AtomOp
  d : BitVec 6
deriving DecidableEq, Repr

/-- A guard (R180): the crew that holds it, and the range as translated (base before the swizzle, code, length). -/
structure Guard where
  crew : Nat
  base : Nat
  swz : Nat
  len : Nat
deriving DecidableEq, Repr

/-- A domain of a crew (R340): the logical indices first + i stride for i below count. -/
structure Domain where
  first : Nat
  count : Nat
  stride : Nat
deriving DecidableEq, Repr

/-- A task message of a chunk (R315). A push names the core, a counter message its core and index, a SEND the member
thread (and the counter of its core under CN). -/
inductive TaskMsg where
  | push (core : Nat) (t : TaskRec)
  | cntSet (core idx count : Nat) (t : TaskRec)
  | cntClr (core idx : Nat)
  | dec (core idx d : Nat)
  | send (dest : Nat) (payload : Line) (tag : Word) (sender : Word) (cn : Option Nat)
  | launch (queue : Nat) (record : List Word) (guild : BitVec 16)
  | post (or : Bool) (v : Word)
deriving DecidableEq, Repr

/-- The kinds of engine commands (R271, R282): a copy of a run, of rows, by indices, a fill, and a contribution of elements of
a type to a reduction (R299), captured or still to be read. -/
inductive CopyKind where
  | linear
  | strided (rows rowLen : Nat) (sPitch dPitch : Word)
  | gather (w : Nat) (iw : Nat) (signed : Bool) (scatter : Bool) (idx : Word)
  | fill (pattern : Word)
  | contrib (block index ty : Nat) (values : Option (List Nat))
deriving DecidableEq, Repr

/-- An engine command with its parameters (R282-R287, R299): what it does, its source, destination, length in bytes or
elements, whether it goes by blocks of its source (R280), the completion word's address and value, and the thread, crew and
guild it belongs to. -/
structure CopyCmd where
  kind : CopyKind
  src : Word
  dst : Word
  len : Nat
  bySrc : Bool
  cw : Option Word
  cval : Word
  tid : Nat
  crew : Nat
  guild : BitVec 16
deriving DecidableEq, Repr

/-- How an engine command ended (R275-R277, R295). -/
inductive EngStatus where
  | done | fault | guard | peer | timeout
deriving DecidableEq, Repr

/-- A command in the copy engine (R271-R277): its number, the command, the engine chunks it has performed, the source lines it
has asked a link for and the answers by physical address, its link writes not yet acknowledged, how it ended, and whether its
completion word, or its contribution, has been sent. -/
structure EngEntry where
  id : Nat
  cmd : CopyCmd
  done : List Nat
  asked : List Nat
  reads : List Host.Cell
  unacked : Nat
  status : EngStatus
  value : Nat
  sent : Bool
deriving DecidableEq, Repr

/-- A panel (R245): the crew that owns it, its state (0 empty, 1 loading, 2 ready), its 512 bytes and its pattern of
(seed, N). -/
structure Panel where
  owner : Option Nat
  state : Nat
  data : BitVec 4096
  pattern : Option (Word × Nat)
deriving DecidableEq, Repr

/-- What a panel command does (R259-R261): a load of type ty with its rows as (virtual, physical) addresses of their dwords,
n being N of a compressed operand and 0 for a dense one; a pattern set; a dense operand at panel pa compressed. -/
inductive PanelOp where
  | load (ty : Nat) (tr : Bool) (n : Nat) (rows : List (List (Nat × Nat)))
  | seed (seed : Word) (n : Nat)
  | compress (ty : Nat) (pa : Nat) (seed : Word) (n : Nat)
deriving DecidableEq, Repr

/-- An operation on a FIFO bank (R149); a push into a full FIFO and a pop of an empty one change nothing, as a peek. -/
inductive FifoOp where
  | push (w : Word) | pop | peek
deriving DecidableEq, Repr

/-- A release of something that a chunk did at its commit, in program order (R114 step 3, R145, R158, R159, R180, R181,
R344, R373, R375, R390, R393, R395, R406). -/
inductive Effect where
  | task (m : TaskMsg)
  | copy (c : CopyCmd)
  | panel (p : Nat) (op : PanelOp)
  | drain (id : Nat)
  | matrixSeen
  | failSeen (d : BitVec 6)
  | rdset (block : Nat) (words : List Word) (target : List Nat) (record : Option Nat)
  | guardAdd (g : Guard)
  | guardDel (g : Guard)
  | bank (b : Nat) (mode : Nat) (owner : BitVec 16)
  | discard (lines : List Nat)
  | clean (lines : List Nat)
  | bardom (k : Nat) (d : Domain)
  | pfdeny (v : Word)
  | tlbinv (k : Nat) (va : Word) (guild : BitVec 16)
  | iflush (all : Bool) (line : Nat)
  | freeze (on : Bool) (all : Bool)
  | mark (n : Nat)
  | snap (d : BitVec 6) (desc : List Word)
  | fifo (b : Nat) (op : FifoOp)
  | recv
deriving DecidableEq, Repr

/-- How a chunk ended, where that decides what follows its commit (R99, R101 and the entries of the instructions). -/
inductive Finish where
  | cut
  | yield
  | exit
  | bar (dom : Nat)
  | sstep (dom : Nat) (recs : List TaskRec)
  | hsync
  | gate (i : Nat) (entry : List Word)
  | frame (i : Nat) (entry : List Word)
  | gret (fail : Option Word)
  | unwind (code : Word)
  | ret (fail : Option Word) (code : Option Word)
  | tret
  | xend
  | halt
  | waita
  | alone
deriving DecidableEq, Repr

/-- Where a chunk stands on its way to its commit (R103, R111-R114). -/
inductive Stage where
  | executing | ended | requested | granted (no : Nat)
deriving DecidableEq, Repr

/-- A chunk in flight (R25, R102, R108-R115): its checkpoint, the instructions it has executed and may execute, when its
first execution began and how often it has been squashed, its signatures (read, plain write, atomic), the lines it touched, the uncommitted lines as (set,
physical line, way), its uncommitted bytes by physical address, its stores to banks in program order from its first to a control block
on, its stores with the instructions before each, its far atomics, whether
it is unbuffered (R442), its value-returning atomic, its other effects with the instructions before each, the sticky flags it
raised, whether it wrote in the local window, whether it began in precise mode (R366), how it ended and where it stands. -/
structure Chunk where
  start : Arch
  count : Nat
  limit : Nat
  born : Nat
  squashed : Nat
  rsig : Sig
  wsig : Sig
  asig : Sig
  lines : List Nat
  held : List (Nat × Nat × Nat)
  buf : List Host.Cell
  banked : List (Nat × List Byte)
  stores : List (Nat × Nat × Word)
  fars : List Far
  unbuffered : Bool
  atom : Option Atom
  effects : List Effect
  epos : List Nat
  flags : BitVec 5
  window : Bool
  prec : Bool
  fin : Finish
  stage : Stage
deriving DecidableEq, Repr

/-- A wait of WAITA or SWAIT (R125, R179): the word's virtual and physical address, its bytes, the condition, the comparand
and the register that receives the word; take is SWAIT.take; polls holds for a word no directory watches (R126). -/
structure Watch where
  va : Word
  pa : Nat
  n : Nat
  cond : Nat
  c : Word
  d : BitVec 6
  take : Bool
  polls : Bool
  due : Nat
deriving DecidableEq, Repr

/-- What a thread is doing (R72): idle with no task, backing off after a failed sweep (R313), running, asleep at a watch (and
whether it has been woken), at a barrier (with the SSTEP list, if any), released from an SSTEP whose records its turn is still to push, in XEND,
with exchange chunks still to commit (from a round on) and registers to write, in MWAIT, CSTAT.w or RDQ.w (and whether that has been
woken, whether no directory watches its block, and when it then polls next), waiting for a
link's answer, parked on a page fault, or stopped with its crew. -/
inductive Run where
  | none
  | idle (due : Nat)
  | running
  | watch (w : Watch) (woken : Bool)
  | bar (dom : Nat) (recs : Option (List TaskRec))
  | pushing (recs : List TaskRec)
  | xend
  | captured (round : Nat) (writes : List (List Host.Cell)) (regs : List (BitVec 5 × Line))
  | matrix (d : BitVec 6)
  | engine (d : BitVec 6)
  | reduction (d : BitVec 6) (block : Nat) (woken polls : Bool) (due : Nat)
  | link (id : Nat)
  | parked (cause : Nat) (va : Word)
  | stopped
deriving DecidableEq, Repr

/-- A fault of a thread that has been met and is still to be acted on: a trap to deliver once older chunks are acknowledged
(R366 step 6), in a deterministic crew at the thread's turn (R119, R366); that turn, at which the head executes again; a page
fault to park on (R372); a refusal at commit that re-executes the chunk precisely (R366). -/
inductive Pending where
  | trap (cause : Nat) (tval : Word)
  | turn
  | page (cause : Nat) (va : Word)
  | precise (k : Nat)
deriving DecidableEq, Repr

/-- A message of an inbox (R319). -/
structure Message where
  payload : Line
  tag : Word
  sender : Word
deriving DecidableEq, Repr

/-- A thread of a placed crew (R13, R19, R32): its crew and L, its registers as of its next instruction, what it is doing, its
chunks in flight (oldest first), the limit of its next chunk (R100), how often that has been squashed and when it was first begun
(R117), the same of the chunk after that, where both were squashed, the instructions of a precise re-execution (R366), the address a denied page fault retries (R373), the page whose walk ended without
a leaf (R139), a fault still to be acted on, a frame or return chunk to run (R379, R380), its fetch buffer (R73) and whether that is to be dropped
at the next entry (R41), `commitno`, the
bits OWNED and GUARD (R267), FAIL (R277), its inbox and overflow region (R319), the totals of R322, its steal sweep (R313), the counts
of R345, the answers of links that its head has received, and the lines whose data it has found in error once (R376). -/
structure Thread where
  crew : Nat
  l : Nat
  arch : Arch
  run : Run
  chunks : List Chunk
  limit : Nat
  squashes : Nat
  born : Option Nat
  later : Option (Nat × Nat × Nat)
  precise : Option Nat
  denied : Option Word
  absent : Option (BitVec 16 × Nat)
  pending : Option Pending
  micro : Option Finish
  fetch : Option (Nat × Line)
  stale : Bool
  commitno : Nat
  owned : Bool
  guard : Bool
  fail : Bool
  inbox : List Message
  overflow : List Message
  enq : Nat
  deq : Nat
  lastEnd : Nat
  waitTotal : Nat
  searchTotal : Nat
  runTotal : Nat
  failSteals : Nat
  tasks : Nat
  sweep : Nat
  ltx : Nat
  msent : Nat
  lrx : Nat
  mrecv : Nat
  replies : List (Nat × List Byte)
  checked : List Nat
deriving DecidableEq, Repr

/-! ### Cores and clusters -/

/-- An entry of a deque (R312): the record, its crew, the member it is bound to, and the device time of its push. -/
structure DequeEntry where
  record : TaskRec
  crew : Nat
  bound : Option Nat
  stamp : Nat
deriving DecidableEq, Repr

/-- An entry of a TLB (R137, R139): guild, first virtual address and size of the page, frame, swizzle, and X, W, R. -/
structure TlbEntry where
  guild : BitVec 16
  va : Nat
  size : Nat
  frame : Nat
  swz : Nat
  x : Bool
  w : Bool
  r : Bool
deriving DecidableEq, Repr

/-- What waits for a walk (R137, R139): a thread, the cause of an absent entry, and the address to report. -/
structure WalkWaiter where
  tid : Nat
  cause : Nat
  va : Word
deriving DecidableEq, Repr

/-- A running walk (R139), one for each guild and 64 KiB page. -/
structure Walk where
  guild : BitVec 16
  page : Nat
  waiters : List WalkWaiter
deriving DecidableEq, Repr

/-- An SFU entry (R217): the number of its instruction, the thread (whose one executing chunk it belongs to), the register it writes
and the value. -/
structure SfuEntry where
  id : Nat
  tid : Nat
  v : BitVec 5
  value : Line
deriving DecidableEq, Repr

/-- What the loom does with a tile (R258, R262, R263, R264, R266). Factors and elements are as read when the instruction
executed; no factors stand for factors of 1. The rows of a drain are (virtual, physical) addresses of dwords. -/
inductive LoomOp where
  | zero (t : Nat) (f64 : Bool)
  | mma (ty t pa pb nc ks : Nat)
  | scale (t : Nat) (f64 : Bool) (rm : Nat) (rho gamma : List Nat)
  | acc (t : Nat) (f64 : Bool) (set : Bool) (rm : Nat) (vals : List Nat)
  | drain (t : Nat) (f64 : Bool) (rm : Nat) (sat : Bool) (ot : Nat) (rho gamma : List Nat)
      (rows : List (List (Nat × Nat)))
deriving DecidableEq, Repr

/-- A command of the loom's queue (R255): its number, its thread, and fps, srkey and srctr as the instruction found them. -/
structure LoomCmd where
  id : Nat
  tid : Nat
  op : LoomOp
  fps : Word
  srkey : Word
  srctr : Word
deriving DecidableEq, Repr

/-- A captured drain (R264, R265): the number of its command, its thread, crew and guild, its dwords still to be written as
(virtual address, physical address, value), and whether its chunk has committed. -/
structure Drain where
  id : Nat
  tid : Nat
  crew : Nat
  guild : BitVec 16
  dwords : List (Nat × Nat × Nat)
  committed : Bool
deriving DecidableEq, Repr

/-- A panel command in the panel queue (R248): its thread, crew and guild, the first panel it writes, what it does, the queued
commands of the loom that it must wait for (R255), whether the queue has taken it with its claim, and whether it has been
performed. -/
structure PanelCmd where
  tid : Nat
  crew : Nat
  guild : BitVec 16
  panel : Nat
  op : PanelOp
  before : List Nat
  claimed : Bool
  performed : Bool
deriving DecidableEq, Repr

/-- A counter entry of a crew on a core (R317): armed with a count and a record. -/
structure Counter where
  crew : Nat
  idx : Nat
  count : Nat
  record : TaskRec
deriving DecidableEq, Repr

/-- A committed line that an L1 holds (R102, R106, R107): its number, its set and its way. -/
structure L1Line where
  line : Nat
  set : Nat
  way : Nat
deriving DecidableEq, Repr

/-- A fill that an L1 waits for (R132, R339): the line, its set, and the number of the fill in its series once the slice has sent
it. -/
structure Fill where
  line : Nat
  set : Nat
  seq : Option Nat
deriving DecidableEq, Repr

/-- A core (R9, R71, R72): the slot that issued last, and the one before it for a head that its unit turns out not to accept, its deque (bottom first) and the records in its spill region, counters and
stray counts, the committed lines its L1 holds, the fills pending and the probes held for it, the code images in its L1 instruction
cache (the one used last first), its L1 TLB, its SFU queue, the loom's queue, panel queue, panels and drains, the copy engine's
commands and the one that had its turn last (R272), its event recorder, and its sample buffer. -/
structure Core where
  rr : Nat
  rrWas : Nat
  deque : List DequeEntry
  spill : List DequeEntry
  counters : List Counter
  stray : List (Nat × Nat)
  l1 : List L1Line
  fills : List Fill
  probes : List (Nat × Nat)
  icache : List (Nat × Line)
  tlb : List TlbEntry
  sfu : List SfuEntry
  loom : List LoomCmd
  panelQ : List PanelCmd
  panels : List (Nat × Panel)
  drains : List Drain
  engine : List EngEntry
  engLast : Option Nat
  recorder : List (Nat × Word)
  frozen : Option Bool
  sampBase : Word
  sampCtl : Word
  sampPos : Nat
  sampDone : Bool
deriving DecidableEq, Repr

/-- A bank of a cluster (R142, R144, R148). -/
structure Bank where
  mode : Nat
  owner : BitVec 16
  fifo : List Word
  repair : Vector Word 4
  inj : Word
  spares : Vector Line 4
deriving DecidableEq, Repr

/-- A cluster (R9, R139, R142, R436): its banks that differ from reset, the code images in its instruction line cache (the one
used last first), its TLB, its walks, its supply step in units of 5 mV and whether it is marked for harvest. -/
structure Cluster where
  banks : List (Nat × Bank)
  icache : List (Nat × Line)
  tlb : List TlbEntry
  walks : List Walk
  supply : Nat
  harvest : Bool
deriving DecidableEq, Repr

/-! ### The order of memory -/

/-- What a commit has still to do (R114): its partition and number, the thread that sent it (none for another source), its write
signature and exact lines, the cores that have not yet received it, the far atomics and task messages not yet applied, and the
link acknowledgements it waits for. -/
structure Commit where
  part : Nat
  no : Nat
  tid : Option Nat
  sig : Sig
  lines : List Nat
  cores : List Nat
  fars : Nat
  msgs : Nat
  acks : Nat
deriving DecidableEq, Repr

/-- A far atomic released by a grant and not yet applied (R171). -/
structure FarPending where
  part : Nat
  no : Nat
  tid : Nat
  far : Far
deriving DecidableEq, Repr

/-- The directory's record of a line (R110, R112): its holders, the scope granted (0 cluster, 1 die, 2 package), and the cores
outside that scope that wait to be served. -/
structure Dir where
  holders : List Nat
  scope : Nat
  asking : List Nat
deriving DecidableEq, Repr

/-- What a packet carries (R111, R313, R336, R337, R339): a commit's signature; a chunk's request for its grant, and a line that an engine writes; a core's request for a line, the slice's fill and a probe; a
task message or decrement; a thread's steal request and the victim's answer to it; and the acknowledgement or NACK of a packet. -/
inductive Payload where
  | sig (part no : Nat)
  | want (core line : Nat)
  | fill (line seq : Nat)
  | probe (line seq : Nat)
  | task (part no crew : Nat) (m : TaskMsg)
  | dec (crew core idx d : Nat) (part no : Nat)
  | steal (tid crew : Nat)
  | stolen (tid crew : Nat) (e : Option DequeEntry)
  | request (tid : Nat)
  | bulk (line : Nat)
  | ack (pkt : Nat)
  | nack (pkt : Nat)
deriving DecidableEq, Repr

/-- Where a packet is (R336, R337, R350): waiting at its source to be injected, behind those of a lower number; riding a string, with the times it has passed its
destination; in a transit buffer of its destination; in its destination's ejection buffer, in the order of its arrival, and whether
an entry was pressed free for it; dropped, with a NACK under way; or taken by its unit, with the acknowledgement under way. -/
inductive Ride where
  | waiting (order : Nat)
  | riding (str passes : Nat)
  | transit (passes : Nat)
  | buffered (order : Nat) (pressed : Bool)
  | nacked
  | taken
deriving DecidableEq, Repr

/-- A packet and the copy its source keeps (R336, R337): its class, the frets of its source and its destination (R333), the core it is
for, its contents, and where it is. -/
structure Packet where
  cls : Nat
  src : Nat
  fret : Nat
  dest : Nat
  load : Payload
  ride : Ride
deriving DecidableEq, Repr

/-- A request that has left over a link (R165, R177, R425, R428): a thread's read or value-returning atomic, a write, an
atomic add, an engine's read or write for one of its commands, and a contribution to a peer's reduction. -/
inductive LinkKind where
  | read (tid : Nat) (pa n : Nat) (va : Word) (atomic : Option AtomOp)
  | write (tid : Option Nat) (pa : Nat) (bytes : List (Nat × Byte))
  | add (tid : Nat) (pa n : Nat) (v : Word)
  | fetch (core id pa n : Nat) (va : Word)
  | payload (core id : Nat) (va : Word) (bytes : List (Nat × Byte))
  | contrib (core id pa index : Nat) (values : List Nat)
deriving DecidableEq, Repr

/-- A link request (R425): what it asks, the crew it is sent for, the commit it belongs to, the time it was sent, and its requester's
guild tag. -/
structure LinkReq where
  kind : LinkKind
  crew : Option Nat
  part : Nat
  no : Nat
  sent : Nat
  guild : BitVec 16
deriving DecidableEq, Repr

/-! ### Crews, queues and partitions -/

/-- A launch record as taken (R308), its sixteen dwords. -/
abbrev LaunchRec := List Word

/-- A phase of a domain (R350): the tablature, the cycle of its cycle 0, and whether it has started. -/
structure Phase where
  dom : Nat
  tab : List Line
  zero : Nat
  started : Bool
deriving DecidableEq, Repr

/-- A reduction instance (R290-R295): the physical address of its block's STATE, the crew, thread and guild that declared it, whether it
still waits for room among the open instances of its die, dwords 0-3
of the block as declared, the addresses of the target's elements and of the record, when it was opened, the contributions
that have arrived by index, and what the nodes of its tree have been sent (R292, R294), as (level, index, elements). -/
structure Reduction where
  block : Nat
  crew : Nat
  tid : Nat
  guild : BitVec 16
  waits : Bool
  words : List Word
  target : List Nat
  record : Option Nat
  opened : Nat
  arrived : List (Nat × List Nat)
  nodes : List (Nat × Nat × List Nat)
deriving DecidableEq, Repr

/-- A contribution, or the result of a node, on its way to its node (R294): its block, the level and index of the value (level 0 the
contributions), its elements, and the core and command it came from, none for a peer's and for a node's. -/
structure Contribution where
  block : Nat
  level : Nat
  index : Nat
  values : List Nat
  source : Option (Nat × Nat)
deriving DecidableEq, Repr

/-- A stopped crew (R345, R383-R385): the cause and the raising member's L, the cut, the address of its record once it is
written; of each member its STATE and what it was doing; and, from then on, what has left the crew's cores: threads, deque
entries, counters, stray counts, panels, engine commands and drains, each with its core (a thread by its own number), and the crew's
reduction instances with what is on its way to their nodes (R279). -/
structure Stopped where
  cause : Nat
  raiser : Option Nat
  cut : Nat
  recordAt : Option Nat
  halts : List (Nat × Nat × Run)
  members : List (Nat × Thread)
  deques : List (Nat × List DequeEntry)
  counters : List (Nat × Counter)
  stray : List (Nat × Nat)
  panels : List (Nat × Nat × Panel)
  engine : List (Nat × EngEntry)
  drains : List (Nat × Drain)
  reductions : List Reduction
  contributions : List Contribution
deriving DecidableEq, Repr

/-- A crew (R18-R24): its shape, mode, allotments and guild, its launch (queue, record, result word), its members by logical
index, its turn and round (R119) and whether a prefix has been granted at the turn whose fault is still to be taken in it (R352, R366), domains (R340), the rounds of releases still to come (R342), phases, the
highest commit number that its engine chunks, drains and exchange chunks have received (R383), and its stop. -/
structure Crew where
  dd : Nat
  c : Nat
  k : Nat
  t : Nat
  s : Nat
  det : Bool
  dcode : Nat
  vregs : Nat
  tiles : Nat
  guild : BitVec 16
  cnt : Nat
  ovf : Nat
  queue : Nat
  record : LaunchRec
  result : Word
  members : List (Nat × Nat)
  turn : Nat
  round : Nat
  spent : Bool
  domains : List (Nat × Domain)
  releaseAt : List (Nat × Nat)
  phases : List Phase
  lastNo : Nat
  stopping : Option (Nat × Option Nat)
  stopped : Option Stopped
  resume : Bool
deriving DecidableEq, Repr

/-- A work queue (R303-R309): its descriptor (base, control, write-index address, read index, and
the dwords that are to be zero), the write index last read, since when it holds a slot, the quantum boundaries since it last
had a slot or no work, its promotions, the head record as read, since when it waits for placement, records still to be skipped,
the previous launch, its result and whether it has completed, and whether a breakpoint holds its head or has released it. -/
structure Queue where
  base : Word
  ctl : Word
  waddr : Word
  rindex : Word
  windex : Word
  rest : List Word
  slot : Option Nat
  starved : Nat
  boost : Nat
  head : Option LaunchRec
  waiting : Option Nat
  skip : Nat
  prev : Option Nat
  prevResult : Word
  prevDone : Bool
  held : Bool
  passed : Bool
deriving DecidableEq, Repr

/-- What is known of a buffer handle (R310): its last writer and the launches that have read it since. -/
structure Handle where
  writer : Option Nat
  readers : List Nat
deriving DecidableEq, Repr

/-- A record waiting for an event or fault ring (R374): the ring (none the partition's, some a guild's), and its dwords. -/
structure EventRec where
  ring : Option (BitVec 16)
  words : List Word
deriving DecidableEq, Repr

/-- An invalidation in progress (R375): its kind, address and guild, the thread's chunk that waits for it (none for TLBCMD). -/
structure Inval where
  k : Nat
  va : Word
  guild : BitVec 16
  tid : Option Nat
  no : Nat
deriving DecidableEq, Repr

/-- A running snapshot (R388): its cut, descriptor, status word address. -/
structure Snapping where
  cut : Nat
  tid : Nat
  desc : List Word
deriving DecidableEq, Repr

/-- A partition (R16, R26): its commit number, the next crew's serial (R20), guards (R180), the foreman's registers (R430) with the
next offset of the stop area and the pages of the overflow pool in use, when the last quantum began and which queues were last
served and given a slot (R305), the queue descriptors (R303), buffer handles (R310), reports that wait for a ring (R374),
invalidations (R375), cached guild entries (R363), NACKs by fret with their times, whether its recorders are frozen, freezes still to
come by reason (R393), the version of VERSION that a grant is to advance to (R411), and the foreman's writes that wait for an SPOST or an
aged chunk, oldest first (R117, R171), and the mark of the last TLBCMD (R430). -/
structure Part where
  commitNo : Nat
  serial : Nat
  guards : List Guard
  guildTab : Word
  handleTab : Word
  evRing : List Word
  stopBase : Word
  stopSize : Word
  stopNext : Nat
  quantum : Nat
  lastQuantum : Nat
  lastServed : List (Nat × Nat)
  lastGiven : List (Nat × Nat)
  tlbAddr : Word
  lbrk : List Word
  recSel : Word
  sampSel : Word
  spillBase : Word
  ovfBase : Word
  ovfPages : Word
  ovfUsed : List (Nat × Nat × Nat)
  queues : List (Nat × Queue)
  handles : List (Nat × Handle)
  events : List EventRec
  invals : List Inval
  guildCache : List (BitVec 16 × List Word)
  nacks : List (Nat × Nat)
  frozen : Bool
  freezes : List Nat
  version : Option Nat
  fwrites : List (Nat × List Byte)
  lastCmd : Nat
deriving DecidableEq, Repr

/-! ### Benches -/

/-- An accepted action as recorded (R407, R412): ASEQ, AVER, the payload bytes, the commit number, whether AVER differed from
LAVER, and whether the action supersedes the episode. -/
structure Action where
  aseq : Word
  aver : Nat
  payload : List Byte
  no : Nat
  vsw : Bool
  superseded : Bool
deriving DecidableEq, Repr

/-- A bench core and its episode (R396-R413): whether it executes (a terminal publication ends that) and still has its image
to load, its registers, private SRAM and the descriptor as of its START, VSW of the next answer (R407), whether PINLIM has made
it CUT, the recorded action (R412), whether an action has been taken since the last publication, the register and range of a
waiting EP.WAITACT, eplast, publications made, instructions and device time counted in the step and when the time count last
moved, instructions retired in all, when it started, the line reserved in its SRAM or in memory, the status and payload with
which it is to end, whether it is suspended (R422), its crew, and the crew and commit number of the last commit that acted on
the slot, and its own commits not yet acknowledged, as (number, of a publication). -/
structure Bench where
  running : Bool
  loading : Bool
  x : Vector Word 32
  f : Vector Word 32
  fcsr : BitVec 8
  pc : Word
  sram : List Host.Cell
  desc : List Word
  vsw : Bool
  asCut : Bool
  action : Option Action
  taken : Bool
  waiting : Option (BitVec 5 × Nat × Nat)
  eplast : Word
  pubs : Nat
  steps : Nat
  stepNs : Nat
  seen : Nat
  retired : Nat
  started : Nat
  resv : Option (Bool × Nat)
  ending : Option (Nat × List Byte)
  suspended : Bool
  crew : Nat
  caller : Nat × Nat
  unacked : List (Nat × Bool)
deriving DecidableEq, Repr

/-! ### Module -/

/-- A virtual cluster's place (R15, R440): its physical cluster, and the core of it that the remap table passes over, if one fails. -/
structure ClusterPlace where
  phys : Nat
  bad : Option Nat
deriving DecidableEq, Repr

/-- Power, temperature, ageing and firmware (R432-R436, R439, R440): blocks held for their energy by (code, block, since when), the shares
in millionths of the reset shares, the time the draw last stood at or above 3,400 W, dies held for heat (8 the I/O die) since when and
until when, the windows of a block already sampled, dies not below 100 degrees since a thermal stop, the remap table where it is not the
identity, the ageing record in flash by physical cluster in steps of 5 mV with the clusters marked for harvest, the registers of the
update capability, the image being written, the image in flash, whether it has come by an update, and whether only the boot ROM runs. -/
structure Upkeep where
  holds : List (Nat × Nat × Nat)
  share : Nat
  drawHigh : Nat
  heat : List (Nat × Nat × Option Nat)
  sampled : List (Nat × Nat × Nat)
  stopHot : List Nat
  remap : List (Nat × ClusterPlace)
  ageing : List (Nat × Nat)
  toHarvest : List Nat
  fwOff : Nat
  fwLen : Nat
  fwStat : Nat
  fwBuf : List Byte
  fwImage : List Byte
  fwNew : Bool
  romOnly : Bool
deriving DecidableEq, Repr

/-- Which unit executes the instruction that the next step runs. -/
inductive Agent where
  | thread (tid : Nat)
  | bench (b : Nat)
deriving DecidableEq, Repr

/-- What the free schedule of the module does next: an event of the opcode table; one instruction of a bench core; the loss of an
entry that a cache or a TLB may drop at any time, and a line that a cluster's instruction cache takes (R41, R139); the eviction notice
of a core for a line (R110); a packet that its source injects, or that the unit at its destination takes where no event of the table
does so (R336, R337); a read of the foreman window, and BAR2 resized, by the host (R424, R430); the foreman's waiting writes, and a
peer's held requests, tried again (R171, R428). -/
inductive Act where
  | event (i : Instr)
  | bench (b : Nat)
  | dropTlb (core i : Nat)
  | dropClusterTlb (cluster i : Nat)
  | dropCode (core line : Nat)
  | dropLine (core line : Nat)
  | dropClusterCode (cluster line : Nat)
  | takeClusterCode (cluster line : Nat)
  | notice (core line : Nat)
  | inject (pkt : Nat)
  | take (pkt : Nat)
  | readWindow (off size : Nat)
  | resizeBar (size : Nat)
  | foreman (part : Nat)
  | peers
deriving DecidableEq, Repr

/-- A numbered request of a peer that is held (R428): what peerRequest says it asks, its source partition and number, and how many of the
source's requests of a lower number are still to arrive. -/
structure PeerReq where
  op : Nat
  src : Nat
  num : Nat
  coming : Nat
  addr : Nat
  cells : List Host.Cell
  v : Word
  c : Word
deriving DecidableEq, Repr

/-- Why a step stops. -/
inductive Fault where
  /-- Raised by the meaning of an instruction when no thread (or, for an instruction of the bench, no bench core) is issuing
  one: `exec` was asked for an instruction that nobody executes. Safe: no step of the machine reaches it. -/
  | noAgent
deriving DecidableEq, Repr

/-- Why a step has no meaning. -/
inductive Refusal where
  /-- Raised by an arm of `exec` whose instruction has no meaning yet. Safe: nothing can be proved of it. -/
  | notModelled (mnemonic : String)
deriving DecidableEq, Repr

/-- What a snapshot holds of a partition (R388), as of its cut: its memory with the changes not yet in HBM, its clusters, its
foreman's tables, crews, threads, cores, episodes and reductions, and what its commits up to the cut still have under way.
ok says that its copy has ended without a failure. -/
structure SnapImage where
  part : Nat
  cut : Nat
  ok : Bool
  mem : Memory
  dirty : List (Nat × Line)
  clusters : List (Nat × Cluster)
  partState : Part
  crews : List (Nat × Crew)
  threads : List (Nat × Thread)
  cores : List (Nat × Core)
  benches : List (Nat × Bench)
  reductions : List Reduction
  contributions : List Contribution
  commits : List Commit
  fars : List FarPending
  net : List (Nat × Packet)
  links : List (Nat × LinkReq)
deriving DecidableEq, Repr

/-- The machine. -/
structure State where
  time : Nat
  mem : Memory
  dirty : List (Nat × Line)
  modcfg : BitVec 8
  present : BitVec 8
  modStatus : Nat
  modnum : Option (BitVec 8)
  parts : List (Nat × Part)
  crews : List (Nat × Crew)
  threads : List (Nat × Thread)
  cores : List (Nat × Core)
  clusters : List (Nat × Cluster)
  dir : List (Nat × Dir)
  seqs : List (Nat × Nat)
  commits : List Commit
  fars : List FarPending
  net : List (Nat × Packet)
  nextId : Nat
  links : List (Nat × LinkReq)
  answers : List (Nat × List Byte)
  hostHeld : List Nat
  peerHeld : List PeerReq
  bar2 : Nat
  backInv : List (Nat × Nat × Nat)
  marked : List Nat
  reductions : List Reduction
  contributions : List Contribution
  benches : List (Nat × Bench)
  snapping : Option (Nat × Snapping)
  snaps : List SnapImage
  upkeep : Upkeep
  issuing : Option Agent
  cutNow : Bool
  due : List Instr
  agenda : List (Nat × Act)
  free : Nat
deriving DecidableEq, Repr

/-! ### The state of reset (R440) -/

/-- The registers of a member before the foreman sets them (R32): zero; wdlimit at its default. (DESIGN CHOICE: notes/assumptions/5.md.) -/
def Arch.reset : Arch where
  x := Vector.replicate 64 0
  v := Vector.replicate 32 0
  m := Vector.replicate 8 0
  s := Vector.replicate 4 0
  a := Vector.replicate 16 0
  pc := 0
  status := 0
  fps := 0
  srkey := 0
  srctr := 0
  repst := 0
  tvec := 0
  tcause := 0
  tpc := 0
  tstat := 0
  tval := 0
  hscratch := 0
  trepst := 0
  tnpc := 0
  gtb := 0
  wdlimit := BitVec.ofNat 64 Config.wdDefault
  wdcount := 0
  links := []
  arming := none

/-- A thread slot with nothing in it. -/
def Thread.reset : Thread where
  crew := 0
  l := 0
  arch := Arch.reset
  run := .none
  chunks := []
  limit := Config.maxChunk
  squashes := 0
  born := none
  later := none
  precise := none
  denied := none
  absent := none
  pending := none
  micro := none
  fetch := none
  stale := false
  commitno := 0
  owned := false
  guard := false
  fail := false
  inbox := []
  overflow := []
  enq := 0
  deq := 0
  lastEnd := 0
  waitTotal := 0
  searchTotal := 0
  runTotal := 0
  failSteals := 0
  tasks := 0
  sweep := 0
  ltx := 0
  msent := 0
  lrx := 0
  mrecv := 0
  replies := []
  checked := []

/-- A core at reset: slot 0 is examined first (R71), panels empty (R245), recorder empty (R440). -/
def Core.reset : Core where
  rr := 15
  rrWas := 15
  deque := []
  spill := []
  counters := []
  stray := []
  l1 := []
  fills := []
  probes := []
  icache := []
  tlb := []
  sfu := []
  loom := []
  panelQ := []
  panels := []
  drains := []
  engine := []
  engLast := none
  recorder := []
  frozen := none
  sampBase := 0
  sampCtl := 0
  sampPos := 0
  sampDone := false

/-- A bank at reset: cache mode (R142). -/
def Bank.reset : Bank where
  mode := 0
  owner := 0
  fifo := []
  repair := Vector.replicate 4 0
  inj := 0
  spares := Vector.replicate 4 0

/-- A cluster at reset: every bank in cache mode (R142). -/
def Cluster.reset : Cluster where
  banks := []
  icache := []
  tlb := []
  walks := []
  supply := 0
  harvest := false

/-- A partition at reset (R440): commit number 0, empty queues, event rings and recorders; the quantum at its default of
2 ms (R305). (DESIGN CHOICE: notes/assumptions/5.md.) -/
def Part.reset : Part where
  commitNo := 0
  serial := 0
  guards := []
  guildTab := 0
  handleTab := 0
  evRing := [0, 0, 0, 0]
  stopBase := 0
  stopSize := 0
  stopNext := 0
  quantum := 2000
  lastQuantum := 0
  lastServed := []
  lastGiven := []
  tlbAddr := 0
  lbrk := List.replicate 16 0
  recSel := 0
  sampSel := 0
  spillBase := 0
  ovfBase := 0
  ovfPages := 0
  ovfUsed := []
  queues := []
  handles := []
  events := []
  invals := []
  guildCache := []
  nacks := []
  frozen := false
  freezes := []
  version := none
  fwrites := []
  lastCmd := 0

/-- A bench core whose slot is FREE (R440). (DESIGN CHOICE: notes/assumptions/5.md.) -/
def Bench.reset : Bench where
  running := false
  loading := false
  x := Vector.replicate 32 0
  f := Vector.replicate 32 0
  fcsr := 0
  pc := 0
  sram := []
  desc := []
  vsw := false
  asCut := false
  action := none
  taken := false
  waiting := none
  eplast := BitVec.allOnes 64
  pubs := 0
  steps := 0
  stepNs := 0
  seen := 0
  retired := 0
  started := 0
  resv := none
  ending := none
  suspended := false
  crew := 0
  caller := (0, 0)
  unacked := []

/-- Power shares at their values of R432; firmware idle (R439). -/
def Upkeep.reset : Upkeep where
  holds := []
  share := 1000000
  drawHigh := 0
  heat := []
  sampled := []
  stopHot := []
  remap := []
  ageing := []
  toHarvest := []
  fwOff := 0
  fwLen := 0
  fwStat := 0
  fwBuf := []
  fwImage := []
  fwNew := false
  romOnly := false

/-- The machine right after a module reset with every die present (R440): one partition of eight dies, commit number 0,
HBM zeroed, nothing placed, and nothing scheduled. -/
def State.reset : State where
  time := 0
  mem := []
  dirty := []
  modcfg := 1
  present := 0xFF
  modStatus := 0
  modnum := none
  parts := [(0, Part.reset)]
  crews := []
  threads := []
  cores := []
  clusters := []
  dir := []
  seqs := []
  commits := []
  fars := []
  net := []
  nextId := 0
  links := []
  answers := []
  hostHeld := []
  peerHeld := []
  bar2 := 2 ^ 39
  backInv := []
  marked := []
  reductions := []
  contributions := []
  benches := []
  snapping := none
  snaps := []
  upkeep := Upkeep.reset
  issuing := none
  cutNow := false
  due := []
  agenda := []
  free := 0

end Sys2Proof.Machine
end

