-- ==== Sys2Proof/Machine/Ops.lean ====
section
/-!
DEFINITION. Sys2Proof/Machine/Ops.lean: the named operations over memory, units, registers and chunks, taking a trap (R367)
and what becomes of one issued head (R98-R101, R366).
-/

namespace Sys2Proof.Machine

/-! ### Memory: one byte, runs of bytes, and the canonical form -/

/-- One byte; an unlisted address reads as 0 (R440 zeroes HBM). (DESIGN CHOICE: notes/assumptions/6.md.) -/
def Memory.read (m : Memory) (a : Nat) : Byte := assocGetD a 0 m

/-- One byte written; writing 0 removes the entry. -/
def Memory.write (m : Memory) (a : Nat) (b : Byte) : Memory := if b = 0 then assocDrop a m else assocSet a b m

/-- A run of bytes, lowest address first. -/
def Memory.readRun (m : Memory) (a : Nat) : Nat → List Byte
  | 0 => []
  | n + 1 => m.read a :: Memory.readRun m (a + 1) n

/-- A run of bytes written from its lowest address up. -/
def Memory.writeRun (m : Memory) (a : Nat) : List Byte → Memory
  | [] => m
  | b :: bs => Memory.writeRun (m.write a b) (a + 1) bs

/-- No entry reads as an unlisted address, and every address lies above the one before it and above lo. -/
def Memory.wfFrom (lo : Nat) : Memory → Bool
  | [] => true
  | (a, b) :: m => decide (lo ≤ a) && decide (b ≠ 0) && Memory.wfFrom (a + 1) m

/-- The canonical form: addresses strictly rising, no entry equal to what an unlisted address reads as. -/
def Memory.wf (m : Memory) : Bool := Memory.wfFrom 0 m

/-! ### Numbers of units -/

def coreOf (tid : Nat) : Nat := tid / 16
def slotOf (tid : Nat) : Nat := tid % 16
def clusterOf (core : Nat) : Nat := core / 32
def dieOf (core : Nat) : Nat := core / 3200
/-- Frets of a die (R333); a fret of the module is named by 137 die + n. -/
def dieFrets : Nat := 137
/-- The fret of a core's cluster (R333). -/
def coreFret (core : Nat) : Nat := dieFrets * dieOf core + core / 32 % 100
/-- The fret of slice s of a die. -/
def sliceFret (die s : Nat) : Nat := dieFrets * die + 100 + s
/-- The fret of a die's bench. -/
def benchFret (die : Nat) : Nat := dieFrets * die + 132
/-- The fret of a die's arbiter; the package's is that of physical die 0. -/
def arbiterFret (die : Nat) : Nat := dieFrets * die + 100
/-- The crew's partition (R20). -/
def crewPart (crew : Nat) : Nat := crew / 2 ^ 32

namespace State

def core (s : State) (c : Nat) : Core := assocGetD c Core.reset s.cores
def setCore (s : State) (c : Nat) (v : Core) : State := { s with cores := assocSet c v s.cores }
def cluster (s : State) (c : Nat) : Cluster := assocGetD c Cluster.reset s.clusters
def setCluster (s : State) (c : Nat) (v : Cluster) : State := { s with clusters := assocSet c v s.clusters }
def part (s : State) (p : Nat) : Part := assocGetD p Part.reset s.parts
def setPart (s : State) (p : Nat) (v : Part) : State := { s with parts := assocSet p v s.parts }
def crew (s : State) (c : Nat) : Option Crew := assocGet? c s.crews
def setCrew (s : State) (c : Nat) (v : Crew) : State := { s with crews := assocSet c v s.crews }
def thread (s : State) (t : Nat) : Option Thread := assocGet? t s.threads
def setThread (s : State) (t : Nat) (v : Thread) : State := { s with threads := assocSet t v s.threads }
def bench (s : State) (b : Nat) : Bench := assocGetD b Bench.reset s.benches
def setBench (s : State) (b : Nat) (v : Bench) : State := { s with benches := assocSet b v s.benches }
def bank (s : State) (cl b : Nat) : Bank := assocGetD b Bank.reset (s.cluster cl).banks
def setBank (s : State) (cl b : Nat) (v : Bank) : State :=
  s.setCluster cl { s.cluster cl with banks := assocSet b v (s.cluster cl).banks }

/-- The lowest die of the range that holds a die (R16, R430): the partition index. -/
def partOf (s : State) (die : Nat) : Nat :=
  ((List.range (die + 1)).filter fun d => s.modcfg.getLsbD d || d = 0).getLastD 0

/-- The dies of a partition's range (R16, R430). -/
def partDies (s : State) (p : Nat) : Nat :=
  (((List.range Config.dies).filter fun d => decide (p < d) && s.modcfg.getLsbD d).headD Config.dies) - p

/-- The VCN of a core (R12): the die within the partition, the cluster, the core. -/
def vcnOf (s : State) (core : Nat) : Nat :=
  (dieOf core - s.partOf (dieOf core)) * 4096 + core / 32 % 100 * 32 + core % 32

/-- The system register vcn of a thread (R13). -/
def vcnReg (s : State) (tid : Nat) : Nat :=
  s.partOf (dieOf (coreOf tid)) * 2 ^ 19 + s.vcnOf (coreOf tid) * 16 + slotOf tid

/-- The core a VCN names in a partition, if it names one (R14). -/
def coreOfVcn (s : State) (p vcn : Nat) : Option Nat :=
  if vcn / 4096 < s.partDies p ∧ vcn / 32 % 128 < 100 ∧ vcn < 2 ^ 15 then
    some (((p + vcn / 4096) * 100 + vcn / 32 % 128) * 32 + vcn % 32)
  else none

/-- The thread a value of vcn's layout names (R13). -/
def threadOfVcn (s : State) (v : Nat) : Option Nat :=
  (s.coreOfVcn (v / 2 ^ 19 % 8) (v / 16 % 2 ^ 15)).map fun c => c * 16 + v % 16

/-- A word the manual leaves open, and the counter moved on. (DESIGN CHOICE: notes/assumptions/4.md.) -/
def fresh (s : State) : Word × State := (Config.freeWord s.free, { s with free := s.free + 1 })

end State

/-! ### Physical bytes: banks, bench SRAM, everything else -/

/-- PA[56:52] (R135). -/
def regionOf (pa : Nat) : Nat := pa / 2 ^ 52
/-- The line of a physical address. -/
def lineOf (pa : Nat) : Nat := pa / 64
/-- The home die of a physical address in the package (R134, R135, R401); 8 of any other. -/
def homeDie (pa : Nat) : Nat :=
  match regionOf pa with
  | 0 => pa / 2 ^ 36 % 8
  | 3 => (pa - 0x0030000000000000) / 0x800000 % 8
  | 0x1F => pa / 2 ^ 40 % 16
  | _ => 8
/-- The home slice of a line on its die. (DESIGN CHOICE: notes/assumptions/49.md.) -/
def sliceOf (line : Nat) : Nat := line % 32
/-- Lines that a slice of 2 MiB holds (R9). -/
def sliceLines : Nat := 32768
/-- The fret of a line's home: its slice, the bench of its die, or the cluster of its bank (R333); a control line without an address
is the package arbiter's. -/
def lineFret (line : Nat) : Nat :=
  match regionOf (line * 64) with
  | 0 => sliceFret (homeDie (line * 64)) (sliceOf line)
  | 3 => benchFret (homeDie (line * 64))
  | 0x1F => dieFrets * homeDie (line * 64) + line * 64 / 2 ^ 24 % 128
  | _ => arbiterFret 0
/-- The physical address of a scratch byte (R134): die, cluster of the die, bank, offset. -/
def scratchPa (cluster b o : Nat) : Nat :=
  0x1F * 2 ^ 52 + cluster / 100 * 2 ^ 40 + cluster % 100 * 2 ^ 24 + b * 2 ^ 16 + o
/-- The cluster of a scratch address. -/
def scratchCluster (pa : Nat) : Nat := pa / 2 ^ 40 % 16 * 100 + pa / 2 ^ 24 % 128
/-- The physical address of a control-block byte (R134): bit 23 set. -/
def controlPa (cluster b c : Nat) : Nat := scratchPa cluster b c + 2 ^ 23
/-- The physical address of the VERSION word of a partition (R401): the bench SRAM of its virtual die 0. -/
def versionPa (p : Nat) : Nat := 0x0030000000000000 + 0x800000 * p + 0x4000

/-- The repair entry that applies to a row, the lowest-numbered valid one (R144). -/
def Bank.spareOf (b : Bank) (row : Nat) : Option (Fin 4) :=
  (List.finRange 4).find? fun i => (b.repair.get i).getLsbD 63 && decide (field (b.repair.get i) 0 10 = row)

/-- A byte of a row as the bank serves it (R144): through a spare row, or from the physical row with the injected bit. -/
def Bank.readByte (b : Bank) (stored : Byte) (o : Nat) : Byte :=
  match b.spareOf (o / 64) with
  | some i => BitVec.ofNat 8 ((b.spares.get i).toNat / 2 ^ (8 * (o % 64)))
  | none =>
    if b.inj.getLsbD 63 ∧ field b.inj 0 10 = o / 64 ∧ field b.inj 10 3 * 8 + field b.inj 13 6 / 8 = o % 64 then
      let bit : Byte := BitVec.ofNat 8 (2 ^ (field b.inj 13 6 % 8))
      if b.inj.getLsbD 19 then stored ||| bit else stored &&& ~~~bit
    else stored

/-- The status word of a bank (R142). -/
def Bank.status (b : Bank) : Word :=
  BitVec.ofNat 64 (b.mode + (if b.mode = 0 then 0 else b.owner.toNat * 2 ^ 16)
    + (if b.mode = 2 then b.fifo.length * 2 ^ 32 else 0))

/-- The register at an offset of a bank's control block (R144); reserved offsets read as zero. -/
def Bank.control (b : Bank) (off : Nat) : Word :=
  match off / 8 with
  | 0 => b.status
  | 1 => b.inj
  | 2 => b.repair[0]
  | 3 => b.repair[1]
  | 4 => b.repair[2]
  | 5 => b.repair[3]
  | _ => 0

/-- The bits that a store to a register of the control block keeps; none where it is ignored (R144). -/
def controlMask (off : Nat) : Word :=
  match off / 8 with
  | 1 => 0x80000000000FFFFF
  | 2 => 0x80000000000003FF
  | 3 => 0x80000000000003FF
  | 4 => 0x80000000000003FF
  | 5 => 0x80000000000003FF
  | _ => 0

/-- A repair entry stored (R144): its spare row is cleared where the entry ends valid and its value changes. -/
def Bank.setRepair (b : Bank) (i : Fin 4) (v : Word) : Bank :=
  { b with repair := b.repair.set i.val v i.isLt,
           spares := if v.getLsbD 63 ∧ v ≠ b.repair.get i then b.spares.set i.val 0 i.isLt else b.spares }

/-- A register of the control block stored. -/
def Bank.setControl (b : Bank) (off : Nat) (v : Word) : Bank :=
  match off / 8 with
  | 1 => { b with inj := v &&& controlMask off }
  | 2 => b.setRepair 0 (v &&& controlMask off)
  | 3 => b.setRepair 1 (v &&& controlMask off)
  | 4 => b.setRepair 2 (v &&& controlMask off)
  | 5 => b.setRepair 3 (v &&& controlMask off)
  | _ => b

/-- The address is of a control block (R134). -/
def isControl (pa : Nat) : Bool := decide (regionOf pa = 0x1F) && decide (pa / 2 ^ 23 % 2 = 1)

/-- A byte of a line replaced. -/
def lineSetByte (l : Line) (i : Nat) (v : Byte) : Line :=
  (l &&& ~~~(BitVec.ofNat 512 (255 * 2 ^ (8 * i)))) ||| BitVec.ofNat 512 (v.toNat * 2 ^ (8 * i))

namespace State

/-- A committed byte at a physical address. -/
def readByte (s : State) (pa : Nat) : Byte :=
  if isControl pa then
    BitVec.ofNat 8 (((s.bank (scratchCluster pa) (pa / 2 ^ 16 % 16)).control (pa % 2 ^ 16)).toNat / 2 ^ (8 * (pa % 8)))
  else if regionOf pa = 0x1F then (s.bank (scratchCluster pa) (pa / 2 ^ 16 % 16)).readByte (s.mem.read pa) (pa % 2 ^ 16)
  else s.mem.read pa

/-- A run of committed bytes. -/
def readRun (s : State) (pa : Nat) : Nat → List Byte
  | 0 => []
  | n + 1 => s.readByte pa :: readRun s (pa + 1) n

/-- A committed value of n bytes. -/
def readVal (s : State) (pa n : Nat) : Nat := ofBytes (s.readRun pa n)

/-- A committed dword. -/
def readWord (s : State) (pa : Nat) : Word := BitVec.ofNat 64 (s.readVal pa 8)

/-- A committed byte written. A control block takes no bytes this way: its registers are written whole. -/
def writeByte (s : State) (pa : Nat) (v : Byte) : State :=
  if isControl pa then s
  else if regionOf pa = 0x1F then
    let cl := scratchCluster pa
    let b := pa / 2 ^ 16 % 16
    match (s.bank cl b).spareOf (pa % 2 ^ 16 / 64) with
    | some i => s.setBank cl b { s.bank cl b with
        spares := (s.bank cl b).spares.set i.val (lineSetByte ((s.bank cl b).spares.get i) (pa % 64) v) i.isLt }
    | none => { s with mem := s.mem.write pa v }
  else { s with mem := s.mem.write pa v }

/-- A run of committed bytes written. -/
def writeRun (s : State) (pa : Nat) : List Byte → State
  | [] => s
  | b :: bs => writeRun (s.writeByte pa b) (pa + 1) bs

/-- The 64 bytes of a line. -/
def readLine (s : State) (line : Nat) : Line := BitVec.ofNat 512 (s.readVal (line * 64) 64)

/-- The changed lines that a line's home slice holds. -/
def sliceDirty (s : State) (line : Nat) : List (Nat × Line) :=
  s.dirty.filter fun e => decide (homeDie (e.1 * 64) = homeDie (line * 64)) && decide (sliceOf e.1 = sliceOf line)

/-- An HBM line noted as changed since its image in HBM (R158), with that image, at the first change. A slice that holds only
such lines writes its lowest back to HBM for it (R9). (DESIGN CHOICE: notes/assumptions/49.md.) -/
def noteDirty (s : State) (line : Nat) : State :=
  if regionOf (line * 64) = 0 ∧ assocGet? line s.dirty = none then
    let d := s.sliceDirty line
    let kept := match d with
      | e :: _ => if sliceLines ≤ d.length then assocDrop e.1 s.dirty else s.dirty
      | [] => s.dirty
    { s with dirty := assocSet line (s.readLine line) kept }
  else s

end State

/-! ### Signatures (R108) -/

/-- h_k(n) of R108. -/
def sigHash (k n : Nat) : Nat :=
  (n * [0x9E3779B97F4A7C15, 0xC2B2AE3D27D4EB4F, 0x165667B19E3779F9, 0xD6E8FEB86659FD93].getD k 0) % 2 ^ 64 / 2 ^ 56

/-- The four bits that a line sets (R108). -/
def sigOf (line : Nat) : Sig :=
  BitVec.ofNat 1024 (2 ^ sigHash 0 line + 2 ^ (256 + sigHash 1 line) + 2 ^ (512 + sigHash 2 line)
    + 2 ^ (768 + sigHash 3 line))

/-- Two signatures intersect when every bank has a set bit in common (R108). -/
def sigMeet (a b : Sig) : Bool :=
  (List.range 4).all fun k => decide (((a &&& b).extractLsb' (256 * k) 256) ≠ 0)

/-! ### Guild entries (R363) -/

namespace State

/-- The eight dwords of a guild's entry: the cached copy where there is one, else as memory holds it. -/
def guildEntry (s : State) (p : Nat) (g : BitVec 16) : List Word :=
  match (s.part p).guildCache.find? fun e => e.1 = g with
  | some e => e.2
  | none => (List.range 8).map fun i => s.readWord ((s.part p).guildTab.toNat + 64 * g.toNat + 8 * i)

/-- Entry g exists: V set, every reserved bit clear, not entry 0 (R363). -/
def guildValid (s : State) (p : Nat) (g : BitVec 16) : Bool :=
  let e := s.guildEntry p g
  decide (g ≠ 0) && (e.getD 0 0).getLsbD 63 && decide (field (e.getD 0 0) 57 3 = 0) && decide (field (e.getD 0 0) 0 12 = 0)
    && decide (field (e.getD 4 0) 5 59 = 0) && decide (e.getD 7 0 = 0)

/-- The system privilege of a guild (R360). -/
def guildSys (s : State) (p : Nat) (g : BitVec 16) : Bool := ((s.guildEntry p g).getD 0 0).getLsbD 62

/-- A core reads a guild's entry and keeps a copy (R363). -/
def cacheGuild (s : State) (p : Nat) (g : BitVec 16) : State :=
  if (s.part p).guildCache.any fun e => e.1 = g then s
  else s.setPart p { s.part p with guildCache := (s.part p).guildCache ++ [(g, s.guildEntry p g)] }

end State

/-! ### Registers (R50, R51) -/

namespace Arch

/-- X[i]: x0 reads as zero. -/
def getX (a : Arch) (r : BitVec 6) : Word := if r = 0 then 0 else a.x.get r.toFin
/-- X[i] written; a write to x0 is discarded. -/
def setX (a : Arch) (r : BitVec 6) (v : Word) : Arch := if r = 0 then a else { a with x := a.x.set r.toNat v r.isLt }
/-- V[i]. -/
def getV (a : Arch) (r : BitVec 5) : Line := a.v.get r.toFin
def setV (a : Arch) (r : BitVec 5) (v : Line) : Arch := { a with v := a.v.set r.toNat v r.isLt }
/-- m0 reads as all ones. -/
def getM (a : Arch) (r : BitVec 3) : Word := if r = 0 then BitVec.allOnes 64 else a.m.get r.toFin
def setM (a : Arch) (r : BitVec 3) (v : Word) : Arch := if r = 0 then a else { a with m := a.m.set r.toNat v r.isLt }
/-- A span register other than s0. -/
def getS (a : Arch) (r : BitVec 2) : Word := a.s.get r.toFin
def setS (a : Arch) (r : BitVec 2) (v : Word) : Arch := if r = 0 then a else { a with s := a.s.set r.toNat v r.isLt }
def getA (a : Arch) (r : BitVec 4) : Tile := a.a.get r.toFin
def setA (a : Arch) (r : BitVec 4) (v : Tile) : Arch := { a with a := a.a.set r.toNat v r.isLt }

/-- The current guild tag (R361). -/
def guild (a : Arch) : BitVec 16 := a.status.extractLsb' 16 16
/-- The gate depth (R361). -/
def depth (a : Arch) : Nat := field a.status 4 4
/-- Handler level (R361). -/
def level (a : Arch) : Bool := a.status.getLsbD 0
/-- A crew in deterministic mode (R361). -/
def det (a : Arch) : Bool := a.status.getLsbD 1
/-- The status word with its level. -/
def setLevel (a : Arch) (b : Bool) : Arch := { a with status := setField a.status 0 1 b.toNat }

end Arch

/-- The PC of the next head in a line of h heads (R39). -/
def nextPc (pc : Word) (h : Nat) : Word :=
  if pc.toNat % 64 + 1 < h then pc + 1 else BitVec.ofNat 64 (pc.toNat / 64 * 64 + 64)

/-- H of a line image (R35). -/
def lineHeads (l : Line) : Nat := l.toNat % 32

/-! ### The machine while one thread executes one head -/

/-- Why a head did not complete: a fault of the kinds of R365, a page fault, a cut before it (R99), or a wait in which nothing
but the run state changes. -/
inductive Stop where
  | fault (cause : Nat) (tval : Word)
  | page (cause : Nat) (va : Word)
  | before
  | wait
  | sleep (r : Run)
deriving DecidableEq, Repr

/-- What a head works on: the machine, its thread and executing chunk taken out of it, the live registers, the PC that
follows, how the head ends its chunk (if it does), and what it counts toward the chunk (R98). -/
structure Mach where
  st : State
  tid : Nat
  th : Thread
  ch : Chunk
  ar : Arch
  npc : Word
  fin : Option Finish
  counts : Nat
deriving DecidableEq, Repr

/-- A computation of one head. -/
abbrev M := EStateM Stop Mach

namespace Mach

def part (m : Mach) : Nat := crewPart m.th.crew
def core (m : Mach) : Nat := coreOf m.tid
def cluster (m : Mach) : Nat := clusterOf (coreOf m.tid)
def crew (m : Mach) : Option Crew := m.st.crew m.th.crew
def sys (m : Mach) : Bool := m.st.guildSys m.part m.ar.guild
def setSt (m : Mach) (s : State) : Mach := { m with st := s }

end Mach

/-- X[D] ← v. -/
def setX (d : BitVec 6) (v : Word) : M Unit := modify fun m => { m with ar := m.ar.setX d v }
/-- A change of the live registers. -/
def onArch (f : Arch → Arch) : M Unit := modify fun m => { m with ar := f m.ar }
/-- A change of the executing chunk. -/
def onChunk (f : Chunk → Chunk) : M Unit := modify fun m => { m with ch := f m.ch }
/-- A change of the machine around the thread. -/
def onState (f : State → State) : M Unit := modify fun m => { m with st := f m.st }
/-- A change of the thread. -/
def onThread (f : Thread → Thread) : M Unit := modify fun m => { m with th := f m.th }
/-- The head ends its chunk as the last instruction (R99). -/
def endWith (f : Finish) : M Unit := modify fun m => { m with fin := some f }
/-- The instruction is to stand alone: the chunk ends before it unless it is its first (R99). -/
def standAlone : M Unit := do
  let m ← get
  if 0 < m.ch.count then throw .before else endWith .alone
/-- An effect that leaves with the chunk's commit. -/
def emit (e : Effect) : M Unit := onChunk fun c => { c with effects := c.effects ++ [e], epos := c.epos ++ [c.count] }
/-- A check: the fault applies unless the condition holds. -/
def need (b : Bool) (cause : Nat) (tval : Word) : M Unit := if b then pure () else throw (.fault cause tval)
/-- Fault(cause) where a condition holds. -/
def faultIf (b : Bool) (cause : Nat) (tval : Word) : M Unit := if b then throw (.fault cause tval) else pure ()

/-! ### Power (R432) -/

/-- Cycles of a window, and the most of one for which a block is held (R432). -/
def windowCycles : Nat := 1000
def holdCycles : Nat := 750

/-- The die of a block (R432): of a core's block, of a cluster, of a slice (numbered 32 to a die), of a stack; the I/O die and the
bench together are the I/O die's, 8. (DEDUCED: notes/assumptions/42.md.) -/
def blockDie (code block : Nat) : Nat :=
  match code with
  | 0 => dieOf block
  | 1 => dieOf block
  | 2 => dieOf block
  | 3 => block / 100
  | 4 => block / 32
  | 5 => block
  | _ => 8

/-- The part of [a, b) that lies in [lo, hi), in cycles. -/
def clipped (a b lo hi : Nat) : Nat := min b hi - max a lo

/-- A block's hold for its energy that began in a window (R432). -/
def Upkeep.holdIn (u : Upkeep) (code block window : Nat) : Option Nat :=
  (u.holds.find? fun h => decide (h.1 = code) && decide (h.2.1 = block) && decide (h.2.2 / windowCycles = window)).map fun h => h.2.2

/-- Cycles of a window, up to a time, in which a block has a cause to be held: its energy from when that reached its share, or the heat
of its die (R432, R435). -/
def Upkeep.causeCycles (u : Upkeep) (code block window till : Nat) : Nat :=
  let e := min ((u.holdIn code block window).getD till) till
  let hot := (u.heat.filter fun h => h.1 = blockDie code block).map fun h => clipped h.2.1 (h.2.2.getD till) (window * windowCycles) e
  (till - e) + hot.sum

/-- A cause to hold a block stands. -/
def Upkeep.cause (u : Upkeep) (code block window : Nat) : Bool :=
  (u.holdIn code block window).isSome || u.heat.any fun h => decide (h.1 = blockDie code block) && h.2.2.isNone

/-- A block accepts no new command: its share of a window is used up, until the window ends, or its die is too hot; never for more than
750 cycles of one window (R432, R435). (DEDUCED: notes/assumptions/42.md.) -/
def State.held (s : State) (code block : Nat) : Bool :=
  s.upkeep.cause code block (s.time / windowCycles) &&
    decide (s.upkeep.causeCycles code block (s.time / windowCycles) s.time < holdCycles)

/-- The block that is a line's home is held: a slice, or the stack of a line that the slice does not hold changed; a cluster's banks; the
bench; the I/O die of a line beyond the module (R432). -/
def State.homeHeld (s : State) (line : Nat) : Bool :=
  match regionOf (line * 64) with
  | 0 => s.held 4 (32 * homeDie (line * 64) + sliceOf line) ||
      (s.held 5 (homeDie (line * 64)) && (assocGet? line s.dirty).isNone)
  | 0x1F => s.held 3 (scratchCluster (line * 64))
  | 0x1E => false
  | _ => s.held 6 0

/-- A request to a block waits while that is held (R432). -/
def needBlock (code block : Nat) : M Unit := do
  let m ← get
  if m.st.held code block then throw .wait

/-! ### Translation (R133-R141) -/

/-- Bits [63:57] all equal bit 56 (R133). -/
def canonical (va : Word) : Bool := decide (va.toNat < 2 ^ 56) || decide (2 ^ 64 - 2 ^ 56 ≤ va.toNat)

/-- The kind of an access: what an absent entry raises and what the leaf must grant. -/
inductive Access where
  | load | store | fetch | update
deriving DecidableEq, Repr

/-- The cause of an absent entry (R137). -/
def Access.cause : Access → Nat
  | .load => 0x05
  | .store => 0x06
  | .fetch => 0x05
  | .update => 0x06

/-- The leaf grants the access (R138). -/
def TlbEntry.grants (e : TlbEntry) : Access → Bool
  | .load => e.r
  | .store => e.w
  | .fetch => e.x
  | .update => e.w && e.r

/-- The bits [lo + w - 1 : lo] of an address xor-ed with the field of the same width at hi (R140). -/
def xorField (pa lo hi w : Nat) : Nat := pa ^^^ (pa / 2 ^ hi % 2 ^ w * 2 ^ lo)

/-- The fields of k bits at g and at 36 exchanged (R141). -/
def swapField (pa g k : Nat) : Nat :=
  let a := pa / 2 ^ g % 2 ^ k
  let b := pa / 2 ^ 36 % 2 ^ k
  pa - a * 2 ^ g - b * 2 ^ 36 + b * 2 ^ g + a * 2 ^ 36

/-- The swizzle of R140 and R141. -/
def swizzle (code pa : Nat) : Nat :=
  match code with
  | 1 => xorField pa 4 6 2
  | 2 => xorField pa 4 7 3
  | 3 => xorField pa 4 8 3
  | 4 => xorField pa 4 9 3
  | 5 => xorField pa 5 7 2
  | 6 => xorField pa 5 8 3
  | 7 => xorField pa 5 9 3
  | 9 => if regionOf pa = 0 then swapField pa 8 1 else pa
  | 10 => if regionOf pa = 0 then swapField pa 8 2 else pa
  | 11 => if regionOf pa = 0 then swapField pa 8 3 else pa
  | 12 => if regionOf pa = 0 then swapField pa 12 1 else pa
  | 13 => if regionOf pa = 0 then swapField pa 12 2 else pa
  | 14 => if regionOf pa = 0 then swapField pa 12 3 else pa
  | 15 => if regionOf pa = 0 then swapField pa 16 3 else pa
  | _ => pa

/-- A table entry's reserved bits are clear and it may be used (R137): V set; a pointer with nothing but its table; a leaf
with [63:57], [15:10] and [5] zero, aligned on its size, not W without R. -/
def pteOk (e : Word) (leafBits : Nat) : Bool :=
  e.getLsbD 0 && decide (field e 57 7 = 0) &&
    (if e.getLsbD 1 then
      decide (field e 10 6 = 0) && !e.getLsbD 5 && (!e.getLsbD 3 || e.getLsbD 2)
        && decide (0 < leafBits) && decide (field e 16 (leafBits - 16) = 0)
    else decide (field e 2 10 = 0))

/-- The leaf of an address (R136, R137): the levels still to walk as (lowest VA bit, bits of index, bits a leaf maps or 0). -/
def walkFrom (s : State) (g : BitVec 16) (va : Nat) (table : Nat) : List (Nat × Nat × Nat) → Option TlbEntry
  | [] => none
  | (lo, w, leaf) :: rest =>
    let e := s.readWord (table + 8 * (va / 2 ^ lo % 2 ^ w))
    if pteOk e leaf then
      if e.getLsbD 1 then
        some { guild := g, va := va / 2 ^ leaf * 2 ^ leaf, size := 2 ^ leaf, frame := field e 16 41 * 2 ^ 16,
               swz := field e 6 4, x := e.getLsbD 4, w := e.getLsbD 3, r := e.getLsbD 2 }
      else walkFrom s g va (field e 12 45 * 4096) rest
    else none

/-- The five levels of R136. -/
def walkLevels : List (Nat × Nat × Nat) := [(48, 9, 0), (39, 9, 0), (30, 9, 30), (21, 9, 21), (16, 5, 16)]

/-- A page-table walk of a guild's address space (R136). -/
def walk (s : State) (p : Nat) (g : BitVec 16) (va : Nat) : Option TlbEntry :=
  walkFrom s g (va % 2 ^ 57) (field ((s.guildEntry p g).getD 0 0) 12 45 * 4096) walkLevels

/-- The entry of a TLB that maps a guild's address. -/
def tlbFind (l : List TlbEntry) (g : BitVec 16) (va : Nat) : Option TlbEntry :=
  l.find? fun e => decide (e.guild = g) && decide (e.va ≤ va % 2 ^ 57) && decide (va % 2 ^ 57 < e.va + e.size)

/-- An entry taken into a TLB of a size; the entry longest in it goes. -/
def tlbPut (l : List TlbEntry) (n : Nat) (e : TlbEntry) : List TlbEntry := (e :: l).take n

/-- What an access reaches (R134, R135, R441). -/
inductive Place where
  | hbm | scratch (b : Nat) | control (b off : Nat) | host | peer | bench (die off : Nat) | remote
deriving DecidableEq, Repr

/-- Beyond the package edge (R165, R441). -/
def Place.beyond : Place → Bool
  | .host => true
  | .peer => true
  | .remote => true
  | _ => false

/-- A located byte: the address its line enters signatures with and by which it is stored, what it is, and the set of its line
in an L1 (R102): bits [11:6] of the address as the program formed it. -/
structure Loc where
  pa : Nat
  place : Place
  set : Nat := pa / 64 % 64
deriving DecidableEq, Repr

/-- The set of a line in L1 (R102): bits [11:6] of the address as the program formed it. -/
def setOf (va : Word) : Nat := va.toNat / 64 % 64

/-- Where a physical address leads for a partition, if anywhere (R135, R401, R427, R440, R441). Bench SRAM of the virtual
die d is stored as that of its physical die, and every VERSION offset names the word of virtual die 0. -/
def placeOf (s : State) (p : Nat) (pa : Nat) : Option Loc :=
  match regionOf pa with
  | 0 =>
    let st := pa / 2 ^ 36
    if st < 8 ∧ pa % 2 ^ 36 < Config.stackBytes ∧ s.present.getLsbD st then
      some { pa, place := if s.partOf st = p then .hbm else .remote }
    else none
  | 1 => some { pa, place := .host }
  | 2 =>
    match s.modnum with
    | none => none
    | some n =>
      if pa / 2 ^ 44 % 256 < 192 ∧ pa / 2 ^ 44 % 256 ≠ n.toNat ∧ pa / 2 ^ 39 % 32 = 0 then some { pa, place := .peer }
      else none
  | 3 =>
    let o := pa - 0x0030000000000000
    if o / 2 ^ 23 < s.partDies p then
      if o % 2 ^ 23 / 8 = 0x800 then some { pa := versionPa p + o % 8, place := .bench (o / 2 ^ 23) (o % 2 ^ 23) }
      else some { pa := pa + 0x800000 * p, place := .bench (o / 2 ^ 23) (o % 2 ^ 23) }
    else none
  | _ => none

/-- The translation of an address by a TLB, with the core's copy refreshed; none on a miss of both TLBs (R139). -/
def tlbLookup (s : State) (core : Nat) (g : BitVec 16) (va : Nat) : Option (TlbEntry × State) :=
  match tlbFind (s.core core).tlb g va with
  | some e => some (e, s)
  | none =>
    match tlbFind (s.cluster (clusterOf core)).tlb g va with
    | some e => some (e, s.setCore core { s.core core with tlb := tlbPut (s.core core).tlb 64 e })
    | none => none

/-- A miss of both TLBs (R139): it joins the walk of its page, or starts one where fewer than 128 run. -/
def startWalk (s : State) (tid : Nat) (g : BitVec 16) (va : Nat) (cause : Nat) (tval : Word) : State :=
  let cl := clusterOf (coreOf tid)
  let page := va % 2 ^ 57 / 2 ^ 16
  let w : WalkWaiter := { tid, cause, va := tval }
  let c := s.cluster cl
  if c.walks.any fun k => decide (k.guild = g) && decide (k.page = page) then
    s.setCluster cl { c with walks := c.walks.map fun k =>
      if k.guild = g ∧ k.page = page ∧ w ∉ k.waiters then { k with waiters := k.waiters ++ [w] } else k }
  else if c.walks.length < 128 then
    s.setCluster cl { c with walks := c.walks ++ [{ guild := g, page, waiters := [w] }] }
  else s

/-- The leaf that maps an address for the executing thread; a miss waits for a walk, which meets an absent entry with the
cause and address given (R137, R139); a walk that has found none is not made again for the same head. -/
def leafOf (va : Word) (cause : Nat) (tval : Word) : M TlbEntry := do
  let m ← get
  if (tlbFind (m.st.core m.core).tlb m.ar.guild va.toNat).isNone then needBlock 3 m.cluster
  match tlbLookup m.st m.core m.ar.guild va.toNat with
  | some (e, s) => set (m.setSt s); pure e
  | none =>
    if m.th.absent = some (m.ar.guild, va.toNat % 2 ^ 57 / 2 ^ 16) then throw (.page cause tval)
    set (m.setSt (startWalk m.st m.tid m.ar.guild va.toNat cause tval)); throw .wait

/-- The physical address of an address under a leaf, after the swizzle (R140, R141). -/
def TlbEntry.pa (e : TlbEntry) (va : Nat) : Nat := swizzle e.swz (e.frame + va % 2 ^ 57 % e.size)

/-- The bank's owner, or the system privilege (R143). -/
def ownsBank (m : Mach) (b : Nat) : Bool :=
  decide ((m.st.bank m.cluster b).owner = m.ar.guild) || m.sys

/-- An access through the local window (R134, R143): scratch under its owner; the control blocks are reached by LD.d and ST.d
alone, which ask for them before; everything else there faults. -/
def locateWindow (va : Word) : M Loc := do
  let m ← get
  let o := va.toNat - Config.windowBase
  let b := o / 2 ^ 16
  needBlock 3 m.cluster
  if b < 16 ∧ (m.st.bank m.cluster b).mode = 1 ∧ ownsBank m b then
    pure { pa := scratchPa m.cluster b (o % 2 ^ 16), place := .scratch b }
  else throw (.fault 0x07 va)

/-- An access that is served at a denied address ends its denial (R373). (DEDUCED: notes/assumptions/51.md.) -/
def Thread.served (t : Thread) (va : Word) : Thread := if t.denied = some va then { t with denied := none } else t

/-- The place of an access of a kind at an address, with every check of R133-R138 and R143; tval is what an absent entry
and a refusal report. -/
def locateAs (k : Access) (cause : Nat) (va tval : Word) : M Loc := do
  if !canonical va then throw (.page cause tval)
  if Config.windowBase ≤ va.toNat then locateWindow va
  else
    let e ← leafOf va cause tval
    if !e.grants k then throw (.fault 0x07 tval)
    let m ← get
    match placeOf m.st m.part (e.pa va.toNat) with
    | some l =>
      modify fun m => { m with th := m.th.served tval }
      pure { l with set := setOf va }
    | none => throw (.fault 0x07 tval)

/-- The place of an access, its own address reported. -/
def locate (k : Access) (va : Word) : M Loc := locateAs k k.cause va va

/-! ### Holders and scope (R110, R112) -/

/-- The narrowest unit that contains the holders of a line: 0 cluster, 1 die, 2 package (R112). -/
def scopeOf (holders : List Nat) : Nat :=
  match holders with
  | [] => 0
  | h :: t =>
    if t.all fun c => clusterOf c = clusterOf h then 0 else if t.all fun c => dieOf c = dieOf h then 1 else 2

/-- The core is inside the scope that a line has (R112). -/
def inScope (d : Dir) (core : Nat) : Bool := decide (scopeOf (core :: d.holders) ≤ d.scope)

/-- The sequence-number series of a core and a home slice (R339). -/
def seqKey (core line : Nat) : Nat := (core * 8 + homeDie (line * 64)) * 32 + sliceOf line

/-- A packet put before its source fret for a core or unit at another (R336): it waits there to be injected. -/
def State.send (s : State) (cls src fret dest : Nat) (load : Payload) : State :=
  { s with net := s.net ++ [(s.nextId, { cls, src, fret, dest, load, ride := .waiting s.nextId })], nextId := s.nextId + 1 }

/-- A line is in a core's L1, or on its way there. -/
def Core.holdsLine (c : Core) (line : Nat) : Bool :=
  c.l1.any (fun x => decide (x.line = line)) || c.fills.any fun f => decide (f.line = line)

/-- The core is registered as a holder of a line (R110): the scope that was granted stays, or begins at the core's cluster. -/
def State.register (s : State) (core line : Nat) : State :=
  let d : Dir := assocGetD line ⟨[], 0, []⟩ s.dir
  if d.holders.contains core then s
  else { s with dir := assocSet line { holders := d.holders ++ [core], scope := max d.scope (scopeOf (core :: d.holders)),
                                       asking := d.asking.erase core } s.dir }

/-- The core is registered as a holder of a line; one that its L1 lacks is asked of its home (R110, R130, R336, R339). -/
def State.hold (s : State) (core set line : Nat) : State :=
  let s := s.register core line
  let c := s.core core
  if c.holdsLine line || regionOf (line * 64) = 0x1F then s
  else (s.setCore core { c with fills := c.fills ++ [⟨line, set, none⟩] }).send 5 (coreFret core) (lineFret line) core (.want core line)

/-- A core outside a line's scope asks to be served, and waits until every holder has acknowledged the widening (R112). -/
def askWiden (line : Nat) : M Unit := do
  modify fun m => m.setSt { m.st with dir := match assocGet? line m.st.dir with
    | some d => if d.asking.contains m.core then m.st.dir else assocSet line { d with asking := d.asking ++ [m.core] } m.st.dir
    | none => m.st.dir }
  throw .wait

/-- The core may be served a line: it lies inside the line's scope, or nobody holds the line (R112). -/
def needScope (line : Nat) : M Unit := do
  let m ← get
  match assocGet? line m.st.dir with
  | some d => if d.holders = [] || inScope d m.core then pure () else askWiden line
  | none => pure ()

/-- A line read is held by its core (R110, R112). -/
def takeLine (set line : Nat) : M Unit := do
  needScope line
  modify fun m => m.setSt (m.st.hold m.core set line)

/-! ### Reads and writes of a chunk (R5, R102-R109, R171, R173) -/

/-- The address of a line in signatures: bench SRAM by its virtual die (R401). -/
def sigLine (p pa : Nat) : Nat := if regionOf pa = 3 then (pa - 0x800000 * p) / 64 else pa / 64

/-- A line enters the read signature (R109). -/
def noteRead (l : Loc) : M Unit := do
  let m ← get
  if !l.place.beyond then takeLine l.set (lineOf l.pa)
  onChunk fun c => { c with rsig := c.rsig ||| sigOf (sigLine m.part l.pa),
                            lines := if c.lines.contains (lineOf l.pa) then c.lines else c.lines ++ [lineOf l.pa],
                            window := c.window || decide (regionOf l.pa = 0x1F) }

/-- Two runs of bytes meet. -/
def runsMeet (a n b k : Nat) : Bool := decide (a < b + k) && decide (b < a + n)

/-- Chunks of the thread that have not been granted hold their bytes still (R103). -/
def Chunk.ungranted (c : Chunk) : Bool := match c.stage with | .granted _ => false | _ => true

/-- A byte as the executing chunk sees it: its own, its predecessor's until that is acknowledged, or the committed one (R5, R103,
R131). -/
def seenByte (m : Mach) (committed : Byte) (pa : Nat) : Byte :=
  match assocGet? pa m.ch.buf with
  | some b => b
  | none =>
    match m.th.chunks.reverse.findSome? fun c => assocGet? pa c.buf with
    | some b => b
    | none => committed

/-- The run of bytes as the executing chunk sees it, over the committed bytes given. -/
def seenRun (m : Mach) (pa : Nat) : List Byte → List Byte
  | [] => []
  | b :: bs => seenByte m b pa :: seenRun m (pa + 1) bs

/-- A far atomic's new word (R169), but for AFADD, whose result is in its family. -/
def farInt (op : FarOp) (n w v : Nat) : Nat :=
  match op with
  | .add => (w + v) % 2 ^ (8 * n)
  | .post => (w + v) % 2 ^ (8 * n)
  | .and => w &&& v
  | .or => w ||| v
  | .xor => w ^^^ v
  | .minU => min w v
  | .maxU => max w v
  | .minS => if signedOf (8 * n) w ≤ signedOf (8 * n) v then w else v
  | .maxS => if signedOf (8 * n) w ≤ signedOf (8 * n) v then v else w
  | .fadd => w

/-! ### Recorders and event rings (R374, R393) -/

namespace State

/-- A core's recorder is frozen: by itself, or with its partition's. -/
def frozen (s : State) (core : Nat) : Bool := (s.core core).frozen.getD (s.part (s.partOf (dieOf core))).frozen

/-- An entry of a core's recorder, unless it is frozen: kind, thread, detail, low commit number (R393). -/
def record (s : State) (core kind slot detail no : Nat) : State :=
  let c := s.core core
  if s.frozen core then s
  else s.setCore core { c with recorder := ((s.time,
    BitVec.ofNat 64 (kind * 2 ^ 56 + slot * 2 ^ 52 + detail % 2 ^ 20 * 2 ^ 32 + no % 2 ^ 32)) :: c.recorder).take 512 }

/-- A partition's recorders are to freeze for a reason (R393). -/
def askFreeze (s : State) (p reason : Nat) : State :=
  let q := s.part p
  s.setPart p { q with freezes := if q.freezes.contains reason then q.freezes else q.freezes ++ [reason] }

/-- A report for the partition's event ring or a guild's fault ring (R374), in its dwords' layout. -/
def report (s : State) (p : Nat) (ring : Option (BitVec 16)) (kind cause vcn l guild crew : Nat) (d2 : Word) : State :=
  let q := s.part p
  s.setPart p { q with events := q.events ++ [{ ring, words :=
    [BitVec.ofNat 64 (kind * 2 ^ 56 + cause * 2 ^ 48 + vcn * 2 ^ 19 + l),
     BitVec.ofNat 64 (guild * 2 ^ 48 + p * 2 ^ 32 + crew % 2 ^ 32), d2, BitVec.ofNat 64 s.time] }] }

/-- An error in data that another unit than a thread consumes, a crew's engine, panel queue or bench core: its MCHECK event (R376, R393,
R437). (DESIGN CHOICE: notes/assumptions/71.md.) -/
def unitCheck (s : State) (p guild crew : Nat) (va : Word) : State := (s.askFreeze p 1).report p none 5 0x11 0 0 guild crew va

end State

/-! ### Squashing (R100, R115) -/

/-- The length limit of a chunk after one squash more (R100). -/
def halfLimit (n : Nat) : Nat := max 64 (n / 2)

/-- The drains of some effects. -/
def drainIds (es : List Effect) : List Nat := es.filterMap fun e => match e with
  | .drain id => some id
  | _ => none

/-- What a squash or a discard of some chunks of a thread drops beside them: the thread's SFU entries and loom commands, which
belong to its last chunk, those chunks' captured drains, and no other thread's (R115, R218, R256). -/
def State.dropUnits (s : State) (tid : Nat) (cs : List Chunk) : State :=
  let c := s.core (coreOf tid)
  let ids := cs.flatMap fun ch => drainIds ch.effects
  s.setCore (coreOf tid) { c with sfu := c.sfu.filter fun e => e.tid ≠ tid, loom := c.loom.filter fun e => e.tid ≠ tid,
                                  drains := c.drains.filter fun e => e.tid ≠ tid || !ids.contains e.id }

/-- What a thread does next after its chunk is dropped: a frame or return chunk is run again (R379, R380). -/
def Finish.again : Finish → Option Finish
  | .frame i e => some (.gate i e)
  | .ret f none => some (.gret f)
  | .ret _ (some c) => some (.unwind c)
  | _ => none

/-- What is kept of the chunk after chunk i, which is dropped with it: when it was first begun, how often it has then been squashed,
and its limit halved (R100, R117). A chunk that was still to begin keeps what was known of it. -/
def Thread.laterOf (t : Thread) (i : Nat) : Option (Nat × Nat × Nat) :=
  match t.chunks[i + 1]? with
  | some d => some (d.born, d.squashed + 1, halfLimit d.limit)
  | none =>
    match t.born with
    | some b => some (b, t.squashes, t.limit)
    | none => t.later

/-- The thread back at the start of chunk i: its checkpoint restored, that chunk and the later one dropped. A dynamic chunk that ran
in precise mode runs in it again (R366). -/
def Thread.rewind (t : Thread) (i : Nat) : Thread :=
  match t.chunks[i]? with
  | none => t
  | some c => { t with arch := c.start, chunks := t.chunks.take i, run := .running, pending := none, micro := c.fin.again,
                       fetch := none, stale := false, born := some c.born, squashes := c.squashed, later := t.laterOf i,
                       precise := if c.prec && !t.arch.det then some c.limit else none, absent := none, replies := [] }

/-- A squash by a commit (R115): chunk i and the later one re-execute, each with half its length limit in dynamic mode (R100). -/
def State.squash (s : State) (tid i : Nat) : State :=
  match s.thread tid with
  | none => s
  | some t =>
    match t.chunks[i]? with
    | none => s
    | some c =>
      let t' := t.rewind i
      ((s.dropUnits tid (t.chunks.drop i)).setThread tid
        { t' with limit := if t.arch.det || c.prec then t.limit else halfLimit c.limit, squashes := c.squashed + 1 }).record (coreOf tid) 2 (slotOf tid) 0 t.commitno

/-! ### Stops and traps (R366-R368, R380) -/

/-- A crew is to stop, with the cause and the member that raised it, if one did (R368, R382). -/
def State.stopCrew (s : State) (crew cause : Nat) (raiser : Option Nat) : State :=
  match s.crew crew with
  | none => s
  | some c => s.setCrew crew { c with stopping := if c.stopping.isSome then c.stopping else some (cause, raiser) }

/-- A line as an address space sees it whose first byte lies at a physical address: its 16-byte parts may be exchanged
(R140). -/
def lineView (pa : Nat) (img : Line) : Line :=
  BitVec.ofNat 512 (packLanes 64 fun i => img.toNat / 2 ^ (8 * (i ^^^ pa % 64)) % 256)
where
  /-- n bytes side by side. -/
  packLanes : Nat → (Nat → Nat) → Nat
    | 0, _ => 0
    | n + 1, f => packLanes n f + f n % 256 * 2 ^ (8 * n)

/-- The image that an instruction cache holds of a line. -/
def imageOf (line : Nat) (l : List (Nat × Line)) : Option Line := (l.find? fun e => decide (e.1 = line)).map Prod.snd

/-- An image taken into an instruction cache of n lines; the one used longest ago goes. -/
def imagePut (n line : Nat) (img : Line) (l : List (Nat × Line)) : List (Nat × Line) :=
  ((line, img) :: l.filter fun e => decide (e.1 ≠ line)).take n

/-- The image of the line of a thread's PC: that of its fetch buffer, or the one that its core has used.
(DESIGN CHOICE: notes/assumptions/10.md.) -/
def codeImage (s : State) (tid : Nat) (t : Thread) : Option Line :=
  let line := t.arch.pc.toNat / 64
  match t.fetch.filter fun f => f.1 = line with
  | some f => some f.2
  | none => (walk s (crewPart t.crew) t.arch.guild (line * 64)).bind fun e =>
      let pa := e.pa (line * 64)
      (imageOf (lineOf pa) (s.core (coreOf tid)).icache).map (lineView pa)

/-- The head after the thread's PC (R39), where the line it stands in is known; the manual states no value where it is not.
(DESIGN CHOICE: notes/assumptions/4.md.) -/
def nextOf (s : State) (tid : Nat) (t : Thread) : Word × State :=
  match codeImage s tid t with
  | some img => (nextPc t.arch.pc (lineHeads img), s)
  | none => s.fresh

/-- The trap registers that name a trap (R367, R368). -/
def Arch.trapRegs (a : Arch) (p next : Word) (cause : Nat) (tval : Word) : Arch :=
  { a with tcause := BitVec.ofNat 64 cause, tpc := p, tnpc := next, tval := tval }

/-- Entry to the handler (R367): the status word and repst saved, repst cleared, handler level, PC at tvec; the watchdog count
cleared for cause 0x10. -/
def Arch.enterTrap (a : Arch) (next : Word) (cause : Nat) (tval : Word) : Arch :=
  { (a.trapRegs a.pc next cause tval).setLevel true with
    tstat := a.status, trepst := a.repst, repst := 0, pc := a.tvec,
    wdcount := if cause = 0x10 then 0 else a.wdcount }

/-- The unwind code (R380): the cause, 0x0E and the depth of the callee. -/
def unwindCode (cause depth : Nat) : Word := BitVec.ofNat 64 (cause + 0x0E * 2 ^ 8 + depth * 2 ^ 16)

/-- What becomes of a cause of kind H (R367). -/
inductive TrapFate where
  | stop | unwind | enter
deriving DecidableEq, Repr

/-- The choice of R367; DBG is that of the current guild. -/
def trapFate (a : Arch) (cause : Nat) (dbg : Bool) : TrapFate :=
  if a.level then (if a.depth = 0 then .stop else .unwind)
  else if cause = 0x0F ∧ dbg then .stop
  else if a.tvec = 0 then (if 0 < a.depth then .unwind else .stop)
  else .enter

/-- Causes 0x0B and 0x14 always stop the crew (R365). -/
def alwaysStops (cause : Nat) : Bool := decide (cause = 0x0B) || decide (cause = 0x14)

/-- Taking a trap: cause and value at the thread's PC, with no chunk of the thread in flight (R366 step 6, R367, R368). Of these
causes 0x14 is that of a refused TRET alone, which sets no trap register. Cause 0x11 is reported where it is an error of data
(R376), and not where a link has refused a read (R425). -/
def takeTrap (s : State) (tid : Nat) (t : Thread) (cause : Nat) (tval : Word) : State :=
  let n := nextOf s tid t
  let p := crewPart t.crew
  let s := if cause = 0x10 then n.2.askFreeze p 3 else n.2
  let far := ((walk s p t.arch.guild tval.toNat).bind fun e => placeOf s p (e.pa tval.toNat)).any fun l => l.place.beyond
  let s := if cause = 0x11 ∧ !far then
      (s.report p none 5 cause (s.vcnReg tid) t.l t.arch.guild.toNat t.crew tval).record (coreOf tid) 7 (slotOf tid) 0 t.commitno
    else s
  let s := s.record (coreOf tid) 3 (slotOf tid) cause t.commitno
  let t := { t with pending := none, precise := none, denied := none, absent := none, born := none, squashes := 0, later := none,
                    run := .running, replies := [] }
  let dbg := ((s.guildEntry p t.arch.guild).getD 0 0).getLsbD 61
  match if alwaysStops cause then .stop else trapFate t.arch cause dbg with
  | .stop => (s.setThread tid { t with
      arch := if cause = 0x14 then t.arch else t.arch.trapRegs t.arch.pc n.1 cause tval }).stopCrew t.crew cause (some t.l)
  | .unwind => s.setThread tid { t with micro := some (.unwind (unwindCode cause t.arch.depth)), fetch := none }
  | .enter => s.setThread tid { t with arch := t.arch.enterTrap n.1 cause tval, fetch := none }

end Sys2Proof.Machine
end

