-- ==== Sys2Proof/Machine/Flags.lean ====
section
/-!
DEFINITION. Sys2Proof/Machine/Flags.lean: the number formats, the one rounding procedure, the sticky flags (R183-R195), the
counter-based function (R242), and the arithmetic of floats that every family shares.
-/

namespace Sys2Proof.Machine

/-! ### Sticky flags (R58, R190) -/

def flagNX : BitVec 5 := 1
def flagUF : BitVec 5 := 2
def flagOF : BitVec 5 := 4
def flagDZ : BitVec 5 := 8
def flagNV : BitVec 5 := 16

/-- fps.RM (R58). -/
def Arch.rmDyn (a : Arch) : Nat := field a.fps 5 3
/-- fps.FTZ (R58). -/
def Arch.ftz (a : Arch) : Bool := a.fps.getLsbD 8

/-! ### Formats (R183) -/

/-- A floating-point format: its type code (R48), width, exponent bits, mantissa bits, bias. -/
structure Fmt where
  code : Nat
  bits : Nat
  eb : Nat
  p : Nat
  bias : Nat
deriving DecidableEq, Repr

def f64 : Fmt := ⟨8, 64, 11, 52, 1023⟩
def f32 : Fmt := ⟨9, 32, 8, 23, 127⟩
def f16 : Fmt := ⟨10, 16, 5, 10, 15⟩
def bf16 : Fmt := ⟨11, 16, 8, 7, 127⟩
def e4m3 : Fmt := ⟨12, 8, 4, 3, 7⟩
def e5m2 : Fmt := ⟨13, 8, 5, 2, 15⟩
def e2m1 : Fmt := ⟨14, 4, 2, 1, 1⟩

/-- The format of a float type code (R48). -/
def fmtOf (code : Nat) : Fmt :=
  match code with
  | 8 => f64
  | 9 => f32
  | 10 => f16
  | 11 => bf16
  | 12 => e4m3
  | 13 => e5m2
  | _ => e2m1

/-- The format has infinities (R183). -/
def Fmt.hasInf (f : Fmt) : Bool := decide (f.code ≠ 12) && decide (f.code ≠ 14)
/-- FTZ flushes results of the format (R186 step 5). -/
def Fmt.flushes (f : Fmt) : Bool := decide (f.code < 12)
/-- MAXF as mantissa and exponent (R183). -/
def Fmt.maxMant (f : Fmt) : Nat := if f.code = 12 then 14 else 2 ^ (f.p + 1) - 1
def Fmt.maxExp (f : Fmt) : Int :=
  if f.code = 12 then 5 else if f.code = 14 then 1 else (f.bias : Int) - f.p
/-- The encoding of +MAXF. -/
def Fmt.maxEnc (f : Fmt) : Nat :=
  if f.hasInf then (2 ^ f.eb - 1) * 2 ^ f.p - 1 else if f.code = 12 then 0x7E else 7
/-- The encoding of +infinity. -/
def Fmt.infEnc (f : Fmt) : Nat := (2 ^ f.eb - 1) * 2 ^ f.p
/-- The canonical NaN (R185); e2m1 has none and takes +0 (R198). -/
def Fmt.nanEnc (f : Fmt) : Nat :=
  if f.code = 12 then 0x7F else if f.code = 14 then 0 else f.infEnc + 2 ^ (f.p - 1)
/-- An encoding with its sign. -/
def Fmt.withSign (f : Fmt) (neg : Bool) (e : Nat) : Nat := if neg then e + 2 ^ (f.bits - 1) else e

/-! ### Values (R184) -/

/-- What an encoding stands for: a NaN (signalling or not), an infinity, or a number of a sign and a magnitude num / den. -/
inductive FVal where
  | nan (sig : Bool)
  | inf (neg : Bool)
  | num (neg : Bool) (n d : Nat)
deriving DecidableEq, Repr

/-- m · 2^e as a fraction. -/
def scaled (m : Nat) (e : Int) : Nat × Nat := (m * 2 ^ e.toNat, 2 ^ (-e).toNat)

/-- The value of an encoding (R184); subnormal sources flushed where asked (R186). -/
def unpack (f : Fmt) (flush : Bool) (w : Nat) : FVal :=
  let neg := decide (w / 2 ^ (f.bits - 1) % 2 = 1)
  let e := w / 2 ^ f.p % 2 ^ f.eb
  let m := w % 2 ^ f.p
  if e = 2 ^ f.eb - 1 ∧ f.hasInf then
    if m = 0 then .inf neg else .nan (decide (m / 2 ^ (f.p - 1) % 2 = 0))
  else if f.code = 12 ∧ e = 15 ∧ m = 7 then .nan false
  else if e = 0 then
    if flush ∧ f.flushes then .num neg 0 1
    else .num neg (scaled m (1 - (f.bias : Int) - f.p)).1 (scaled m (1 - (f.bias : Int) - f.p)).2
  else .num neg (scaled (2 ^ f.p + m) ((e : Int) - f.bias - f.p)).1 (scaled (2 ^ f.p + m) ((e : Int) - f.bias - f.p)).2

/-- A zero of a sign. -/
def FVal.zero (neg : Bool) : FVal := .num neg 0 1

/-- The operand is a signalling NaN (R185). -/
def FVal.isSig : FVal → Bool
  | .nan s => s
  | _ => false
def FVal.isNan : FVal → Bool
  | .nan _ => true
  | _ => false
/-- A zero of either sign. -/
def FVal.isZero : FVal → Bool
  | .num _ n _ => decide (n = 0)
  | _ => false
def FVal.isNeg : FVal → Bool
  | .nan _ => false
  | .inf s => s
  | .num s _ _ => s
def FVal.neg : FVal → FVal
  | .nan s => .nan s
  | .inf s => .inf (!s)
  | .num s n d => .num (!s) n d

/-- NV where one of the operands is a signalling NaN. -/
def nvOf (l : List FVal) : BitVec 5 := if l.any FVal.isSig then flagNV else 0

/-! ### Rounding (R186-R188) -/

/-- How one result is rounded: the mode 0-5 (R49), saturation (G[3]), FTZ, and the 32 random bits of sr (R188). -/
structure Rnd where
  rm : Nat
  sat : Bool
  ftz : Bool
  rb : Nat
deriving DecidableEq, Repr

/-- Whether a remainder r / b of the quotient q of a magnitude moves it to the next value away from zero. -/
def roundsUp (rm : Nat) (rb : Nat) (neg : Bool) (q r b : Nat) : Bool :=
  match rm with
  | 0 => decide (b < 2 * r) || (decide (2 * r = b) && decide (q % 2 = 1))
  | 1 => false
  | 2 => neg && decide (r ≠ 0)
  | 3 => !neg && decide (r ≠ 0)
  | 4 => decide (b ≤ 2 * r)
  | _ => decide (rb < r * 2 ^ 32 / b)

/-- ⌊log2 (n / d)⌋ of a positive fraction. -/
def log2Frac (n d : Nat) : Int :=
  let e : Int := (Nat.log2 n : Int) - Nat.log2 d
  if d * 2 ^ e.toNat ≤ n * 2 ^ (-e).toNat then e else e - 1

/-- n / d divided by 2^q: quotient, remainder and divisor. -/
def quoAt (n d : Nat) (q : Int) : Nat × Nat × Nat :=
  let a := n * 2 ^ (-q).toNat
  let b := d * 2 ^ q.toNat
  (a / b, a % b, b)

/-- A magnitude rounded to a multiple of 2^q. -/
def roundAt (rm rb : Nat) (neg : Bool) (n d : Nat) (q : Int) : Nat × Bool :=
  let t := quoAt n d q
  (if roundsUp rm rb neg t.1 t.2.1 t.2.2 then t.1 + 1 else t.1, decide (t.2.1 ≠ 0))

/-- m · 2^q exceeds MAXF. -/
def Fmt.exceeds (f : Fmt) (n d : Nat) : Bool :=
  decide (f.maxMant * 2 ^ f.maxExp.toNat * d < n * 2 ^ (-f.maxExp).toNat)

/-- The result of an overflow (R187). -/
def Fmt.overflow (f : Fmt) (r : Rnd) (neg : Bool) : Nat :=
  if r.sat then f.withSign neg f.maxEnc
  else if f.code = 14 then f.withSign neg 7
  else
    let away : Bool := match r.rm with
      | 1 => false
      | 2 => neg
      | 3 => !neg
      | _ => true
    if away then (if f.code = 12 then f.nanEnc else f.withSign neg f.infEnc) else f.withSign neg f.maxEnc

/-- Round(fmt, x, rm) of a non-zero magnitude n / d of a sign, with the flags it raises (R186, R187). FTZ flushes a subnormal result
where the operation is a conversion too, e5m2 to f16 among them, which R201 calls exact. (DESIGN CHOICE: notes/assumptions/61.md.) -/
def roundMag (f : Fmt) (r : Rnd) (neg : Bool) (n d : Nat) : Nat × BitVec 5 :=
  let e := log2Frac n d
  let rm := if r.rm = 5 ∧ f.exceeds n d then 0 else r.rm
  let qmin : Int := 1 - (f.bias : Int) - f.p
  let q : Int := max (e - f.p) qmin
  let m := roundAt rm r.rb neg n d q
  if f.exceeds (scaled m.1 q).1 (scaled m.1 q).2 then (f.overflow r neg, flagOF ||| flagNX)
  else
    let trm := if r.rm = 5 then 0 else r.rm
    let tiny := decide (e < 1 - (f.bias : Int)) &&
      !(decide (e = -(f.bias : Int)) && decide ((roundAt trm 0 neg n d (e - f.p)).1 = 2 ^ (f.p + 1)))
    let fl : BitVec 5 := if m.2 then (if tiny then flagUF ||| flagNX else flagNX) else 0
    let enc := (q - qmin).toNat * 2 ^ f.p + m.1
    if r.ftz ∧ f.flushes ∧ 0 < enc ∧ enc < 2 ^ f.p then (f.withSign neg 0, fl ||| flagUF ||| flagNX)
    else (f.withSign neg enc, fl)

/-- Round of a number, a zero keeping its sign (R186 step 1, R193). -/
def roundNum (f : Fmt) (r : Rnd) (neg : Bool) (n d : Nat) : Nat × BitVec 5 :=
  if n = 0 then (f.withSign neg 0, 0) else roundMag f r neg n d

/-- A value that is not a finite number taken into a format (R198); finite ones by Round. -/
def convert (f : Fmt) (r : Rnd) (x : FVal) : Nat × BitVec 5 :=
  match x with
  | .nan s => (f.nanEnc, if s ∨ f.code = 14 then flagNV else 0)
  | .inf neg =>
    if f.hasInf then (f.withSign neg f.infEnc, 0)
    else if f.code = 14 then (f.withSign neg 7, flagNV)
    else (if r.sat then f.withSign neg f.maxEnc else f.nanEnc, flagNV)
  | .num neg n d => roundNum f r neg n d

/-- A magnitude rounded to an integer, and whether it changed. -/
def roundInt (r : Rnd) (neg : Bool) (n d : Nat) : Nat × Bool := roundAt r.rm r.rb neg n d 0

/-! ### Arithmetic of two and three operands (R191-R193, R232) -/

/-- The canonical NaN with flags. -/
def nanWith (f : Fmt) (fl : BitVec 5) : Nat × BitVec 5 := (f.nanEnc, fl)

/-- The sum of two numbers of signs and magnitudes: sign, magnitude, with the zero rule of R191. -/
def sumNum (rm : Nat) (s1 : Bool) (n1 d1 : Nat) (s2 : Bool) (n2 d2 : Nat) : Bool × Nat × Nat :=
  let a := n1 * d2
  let b := n2 * d1
  let d := d1 * d2
  if a = 0 ∧ b = 0 then (if s1 = s2 then s1 else decide (rm = 2), 0, d)
  else if s1 = s2 then (s1, a + b, d)
  else if a = b then (decide (rm = 2), 0, d)
  else if b < a then (s1, a - b, d) else (s2, b - a, d)

/-- Round(t, a + b, rm) with NaNs, infinities, zeros and flags. -/
def addVal (f : Fmt) (r : Rnd) (a b : FVal) : Nat × BitVec 5 :=
  match a, b with
  | .nan x, y => nanWith f (nvOf [.nan x, y])
  | x, .nan y => nanWith f (nvOf [x, .nan y])
  | .inf s, .inf t => if s = t then (f.withSign s f.infEnc, 0) else nanWith f flagNV
  | .inf s, .num _ _ _ => (f.withSign s f.infEnc, 0)
  | .num _ _ _, .inf t => (f.withSign t f.infEnc, 0)
  | .num s n d, .num t m e =>
    let x := sumNum r.rm s n d t m e
    roundNum f r x.1 x.2.1 x.2.2

/-- The exact product of two values that are not NaNs; none for 0 · ∞. -/
def mulExact (a b : FVal) : Option FVal :=
  match a, b with
  | .inf s, .inf t => some (.inf (s != t))
  | .inf s, .num t n _ => if n = 0 then none else some (.inf (s != t))
  | .num s n _, .inf t => if n = 0 then none else some (.inf (s != t))
  | .num s n d, .num t m e => some (.num (s != t) (n * m) (d * e))
  | x, _ => some x

/-- Round(t, a · b, rm). -/
def mulVal (f : Fmt) (r : Rnd) (a b : FVal) : Nat × BitVec 5 :=
  if a.isNan || b.isNan then nanWith f (nvOf [a, b])
  else
    match mulExact a b with
    | none => nanWith f flagNV
    | some (.inf s) => (f.withSign s f.infEnc, 0)
    | some (.num s n d) => roundNum f r s n d
    | some (.nan _) => nanWith f 0

/-- Round(t, ± a · b + c, rm), rounded once (R232). -/
def fmaVal (f : Fmt) (r : Rnd) (neg : Bool) (a b c : FVal) : Nat × BitVec 5 :=
  if a.isNan || b.isNan then nanWith f (nvOf [a, b, c])
  else
    match mulExact a b with
    | none => nanWith f (nvOf [c] ||| flagNV)
    | some p => if c.isNan then nanWith f (nvOf [c]) else addVal f r (if neg then p.neg else p) c

/-- Round(t, a / b, rm). -/
def divVal (f : Fmt) (r : Rnd) (a b : FVal) : Nat × BitVec 5 :=
  if a.isNan || b.isNan then nanWith f (nvOf [a, b])
  else
    match a, b with
    | .inf _, .inf _ => nanWith f flagNV
    | .inf s, .num t _ _ => (f.withSign (s != t) f.infEnc, 0)
    | .num s _ _, .inf t => (f.withSign (s != t) 0, 0)
    | .num s n d, .num t m e =>
      if m = 0 then
        if n = 0 then nanWith f flagNV else (f.withSign (s != t) f.infEnc, flagDZ)
      else roundNum f r (s != t) (n * e) (d * m)
    | _, _ => nanWith f 0

/-- The square root of a positive fraction as a fraction between two neighbours of a grid of 2^-k steps: exact where the root
lies on the grid, else halfway to the next step, so that every rounding of a coarser result comes out as of the root itself. -/
def sqrtFrac (n d k : Nat) : Nat × Nat :=
  let t := n * d * 4 ^ k
  let q := Nat.sqrt t
  if q * q = t then (q, d * 2 ^ k) else (2 * q + 1, d * 2 ^ (k + 1))

/-- Round(t, √a, rm) (R232). -/
def sqrtVal (f : Fmt) (r : Rnd) (a : FVal) : Nat × BitVec 5 :=
  match a with
  | .nan s => nanWith f (if s then flagNV else 0)
  | .inf neg => if neg then nanWith f flagNV else (f.infEnc, 0)
  | .num neg n d =>
    if n = 0 then (f.withSign neg 0, 0)
    else if neg then nanWith f flagNV
    else
      let k := (Nat.log2 d + 1) + 128
      roundNum f r false (sqrtFrac n d k).1 (sqrtFrac n d k).2

/-- a < b of two values that are not NaNs. -/
def ltVal (a b : FVal) : Bool :=
  match a, b with
  | .inf s, .inf t => s && !t
  | .inf s, .num _ _ _ => s
  | .num _ _ _, .inf t => !t
  | .num s n d, .num t m e =>
    if n = 0 ∧ m = 0 then false
    else match s, t with
      | true, false => true
      | false, true => false
      | false, false => decide (n * e < m * d)
      | true, true => decide (m * d < n * e)
  | _, _ => false

/-- a = b of two values that are not NaNs; the zeros compare equal. -/
def eqVal (a b : FVal) : Bool :=
  match a, b with
  | .inf s, .inf t => s == t
  | .num s n d, .num t m e => (decide (n = 0) && decide (m = 0)) || (s == t && decide (n * e = m * d))
  | _, _ => false

/-! ### The counter-based function (R242) -/

/-- rotl of a 32-bit word. -/
def rotl32 (x : BitVec 32) (n : Nat) : BitVec 32 := x.rotateLeft n

/-- The key words of R242. -/
def phiKey (key : Word) (i : Nat) : BitVec 32 :=
  let k0 : BitVec 32 := key.extractLsb' 0 32
  let k1 : BitVec 32 := key.extractLsb' 32 32
  match i % 3 with
  | 0 => k0
  | 1 => k1
  | _ => rotl32 k0 8 ^^^ k1 ^^^ 0x6A09E667

/-- The four counter words on their way. -/
structure PhiState where
  w0 : BitVec 32
  w1 : BitVec 32
  w2 : BitVec 32
  w3 : BitVec 32
deriving DecidableEq, Repr

/-- Inject(j) of R242. -/
def phiInject (key : Word) (j : Nat) (w : PhiState) : PhiState :=
  ⟨w.w0 + phiKey key j, w.w1 ^^^ phiKey key (j + 1), w.w2 + phiKey key (j + 2),
   w.w3 ^^^ (phiKey key j + BitVec.ofNat 32 j)⟩

/-- One round of R242 with its rotation amounts. -/
def phiRound (ra rb : Nat) (w : PhiState) : PhiState :=
  let w0 := w.w0 + w.w3
  let w1 := w.w1 ^^^ rotl32 w0 ra
  let w2 := w.w2 + w1
  let w3 := w.w3 ^^^ rotl32 w2 rb
  ⟨w1, w2, w3, w0⟩

/-- The rotation constants RA and RB of R242. -/
def phiRot : List (Nat × Nat) :=
  [(7, 21), (19, 12), (11, 26), (28, 6), (5, 18), (22, 29), (14, 4), (9, 15), (25, 10), (3, 23), (17, 8), (30, 13)]

/-- The rounds from r on, with the injection after every fourth. -/
def phiRounds (key : Word) (r : Nat) (w : PhiState) : List (Nat × Nat) → PhiState
  | [] => w
  | (ra, rb) :: l =>
    let w' := phiRound ra rb w
    phiRounds key (r + 1) (if r % 4 = 3 then phiInject key ((r + 1) / 4) w' else w') l

/-- Φ(key, ctr) (R242): the four output words. -/
def phi (key : Word) (c0 c1 c2 c3 : BitVec 32) : PhiState := phiRounds key 0 (phiInject key 0 ⟨c0, c1, c2, c3⟩) phiRot

/-- The 128 output bits of Φ, w0 lowest. -/
def phiBits (key : Word) (c0 c1 c2 c3 : BitVec 32) : Nat :=
  let o := phi key c0 c1 c2 c3
  o.w0.toNat + 2 ^ 32 * o.w1.toNat + 2 ^ 64 * o.w2.toNat + 2 ^ 96 * o.w3.toNat

/-- The 32 random bits of a rounding with counter word w2 (R188). -/
def srBits (a : Arch) (w2 : Nat) : Nat :=
  (phi a.srkey (a.srctr.extractLsb' 0 32) (a.srctr.extractLsb' 32 32) (BitVec.ofNat 32 w2) 0).w0.toNat

/-- The mode of an instruction with dyn replaced by fps.RM (R49, R186). -/
def Arch.mode (a : Arch) (rm : Nat) : Nat := if rm = 6 then a.rmDyn else rm

/-- The rounding of element k of an instruction (R186-R188). -/
def Arch.rnd (a : Arch) (rm : Nat) (sat : Bool) (k : Nat) : Rnd :=
  { rm := a.mode rm, sat, ftz := a.ftz, rb := if a.mode rm = 5 then srBits a k else 0 }

/-- srctr after an instruction with a rounding field (R189). -/
def Arch.stepSr (a : Arch) (rm : Nat) : Arch := if a.mode rm = 5 then { a with srctr := a.srctr + 1 } else a

/-- Sticky flags raised in the executing chunk (R55, R190). -/
def raise (f : BitVec 5) : M Unit := onChunk fun c => { c with flags := c.flags ||| f }

/-! ### Far atomics (R169) -/

/-- AFADD: Round(fmt, w + v, rne), subnormals kept, no flag in fps, canonical NaNs (R169). -/
def farAdd (n w v : Nat) : Nat :=
  let f := if n = 4 then f32 else f64
  (addVal f { rm := 0, sat := false, ftz := false, rb := 0 } (unpack f false w) (unpack f false v)).1

/-- A far atomic's new word. -/
def farResult (op : FarOp) (n w v : Nat) : Nat := if op = .fadd then farAdd n w v else farInt op n w v

end Sys2Proof.Machine
end

