-- ==== Sys2Proof/Machine/Chunk.lean ====
section
/-!
DEFINITION. Sys2Proof/Machine/Chunk.lean: what a head reads and writes within its chunk (R5, R102-R109, R171-R173), and what
becomes of the chunk when the head completes, faults or waits (R98-R101, R366).
-/

namespace Sys2Proof.Machine

/-! ### Opening a chunk -/

/-- D of a deterministic crew (R24). -/
def dLength (code : Nat) : Nat := 256 * 2 ^ code

/-- The length limit of the next chunk: k in precise mode (R366), D in deterministic mode (R101), else that of R100. -/
def Thread.nextLimit (s : State) (t : Thread) : Nat :=
  match t.precise with
  | some k => k
  | none =>
    match s.crew t.crew with
    | some c => if c.det then dLength c.dcode else t.limit
    | none => t.limit

/-- A chunk that begins at the thread's registers. -/
def Chunk.fresh (s : State) (t : Thread) : Chunk where
  start := t.arch
  count := 0
  limit := t.nextLimit s
  born := t.born.getD s.time
  squashed := t.squashes
  rsig := 0
  wsig := 0
  asig := 0
  lines := []
  held := []
  buf := []
  banked := []
  stores := []
  fars := []
  unbuffered := false
  atom := none
  effects := []
  epos := []
  flags := 0
  window := false
  prec := t.precise.isSome
  fin := .cut
  stage := .executing

/-- The chunk that executes, if one does (R103). -/
def Thread.executing (t : Thread) : Option Chunk :=
  match t.chunks.getLast? with
  | some c => if c.stage = .executing then some c else none
  | none => none

/-- The chunks before the executing one. -/
def Thread.older (t : Thread) : List Chunk := if t.executing.isSome then t.chunks.dropLast else t.chunks

/-- The chunk a head belongs to. -/
def Thread.current (s : State) (t : Thread) : Chunk := t.executing.getD (Chunk.fresh s t)

/-! ### Reads -/

/-- The word that holds a far atomic meets a run of bytes. -/
def Far.meets (f : Far) (pa n : Nat) : Bool := runsMeet f.pa f.n pa n

/-- A released far atomic still to be applied to a word of the run: the word is served once it is (R162, R171). -/
def farsWait (s : State) (pa n : Nat) : Bool := s.fars.any fun f => f.far.meets pa n

/-- The bytes of a run put among a chunk's uncommitted bytes. -/
def bufPut (buf : List Host.Cell) (pa : Nat) : List Byte → List Host.Cell
  | [] => buf
  | b :: bs => bufPut (assocSet pa b buf) (pa + 1) bs

/-- The scratch bytes among some uncommitted bytes, one store each. -/
def bankRuns (buf : List Host.Cell) : List (Nat × List Byte) :=
  (buf.filter fun x => decide (regionOf x.1 = 0x1F)).map fun x => (x.1, [x.2])

/-- A chunk takes a store into its uncommitted bytes. From its first store to a control block on it keeps the stores to banks in program
order as well, since what each of them reaches depends on the ones before (R144). -/
def Chunk.put (c : Chunk) (pa : Nat) (bs : List Byte) : Chunk :=
  { c with buf := bufPut c.buf pa bs
           banked := if regionOf pa = 0x1F ∧ (isControl pa ∨ c.banked ≠ []) then
             (if c.banked = [] then bankRuns c.buf else c.banked) ++ [(pa, bs)] else c.banked }

/-- The words of far atomics that a run of bytes meets, with the words that these meet in turn: those to be folded. -/
def foldSet (fars : List Far) (pa n : Nat) : List Far :=
  let first := fars.filter fun f => f.meets pa n
  fars.filter fun f => first.any fun g => f.meets g.pa g.n

/-- The crew's or the predecessor's work that a run must wait for before it is read or folded: a far atomic of the thread's
earlier chunk, or a released one not yet applied. -/
def waitFars (pa n : Nat) : M Unit := do
  let m ← get
  if m.th.chunks.any fun c => c.fars.any fun f => f.meets pa n then throw .wait
  if farsWait m.st pa n then throw .wait

/-- The whole words of some far atomics must wait so before they are folded (R171, R173). -/
def waitEach : List Far → M Unit
  | [] => pure ()
  | f :: fs => do
    waitFars f.pa f.n
    waitEach fs

/-- A link's answer to a read of a run of bytes, where it has come. -/
def replyOf (t : Thread) (pa n : Nat) : Option (List Byte) :=
  (t.replies.find? fun r => decide (r.1 = pa) && decide (r.2.length = n)).map Prod.snd

/-- A request over a link is sent and the thread waits for its answer (R165). -/
def askLink (pa n : Nat) (va : Word) : M Unit := do
  let m ← get
  let id := m.st.nextId
  set (m.setSt { m.st with nextId := id + 1, links := m.st.links ++ [(id,
    { kind := .read m.tid pa n va none, crew := some m.th.crew, part := m.part, no := 0, sent := m.st.time, guild := m.ar.guild })] })
  throw (.sleep (.link id))

/-- A read beyond the package edge: performed at its destination when it executes (R165). -/
def readLink (pa n : Nat) (va : Word) : M (List Byte) := do
  let m ← get
  match replyOf m.th pa n with
  | some w => pure w
  | none =>
    askLink pa n va
    pure []

/-- The bytes that lie under a chunk's own: the committed ones, or those a link answers with. -/
def baseRun (pl : Place) (pa n : Nat) (va : Word) : M (List Byte) := do
  if pl.beyond then readLink pa n va
  else
    let m ← get
    pure (m.st.readRun pa n)

/-- Pending far atomics of the chunk applied, in order, to the bytes the chunk sees (R173). -/
def foldEach (pl : Place) : List Far → M Unit
  | [] => pure ()
  | f :: fs => do
    let base ← baseRun pl f.pa f.n f.va
    modify fun m =>
      let w := ofBytes (seenRun m f.pa base)
      { m with ch := m.ch.put f.pa (bytesOf f.n (farResult f.op f.n w f.v.toNat)) }
    foldEach pl fs

/-- Folding (R173): the chunk reads the word, applies its pending operations in program order and holds it as plain bytes from
then on. A pending SPOST is never folded: the instruction begins the next chunk. -/
def foldFars (l : Loc) (n : Nat) : M Unit := do
  let m ← get
  let fs := foldSet m.ch.fars l.pa n
  if fs = [] then pure ()
  else if fs.any fun f => f.op = .post then throw .before
  else
    noteRead l
    waitEach fs
    foldEach l.place fs
    onChunk fun c => { c with fars := c.fars.filter fun f => !fs.contains f,
                              wsig := c.wsig ||| sigOf (sigLine m.part l.pa) }

/-- A line that the core's L1 lacks is served by its home, which delays what it serves while its block is held (R433). -/
def needHome (l : Loc) : M Unit := do
  let m ← get
  if !((m.st.core m.core).l1.any fun x => decide (x.line = lineOf l.pa)) && m.st.homeHeld (lineOf l.pa) then throw .wait

/-- Mem[a, n] at a located address, within one line: the chunk's own and its predecessor's bytes over the committed ones;
the line enters the read signature (R5, R103, R109). A line marked by a scrub is a machine check (R437). -/
def readAt (l : Loc) (va : Word) (n : Nat) : M (List Byte) := do
  let m ← get
  if m.st.marked.contains (lineOf l.pa) then throw (.fault 0x11 va)
  needHome l
  noteRead l
  waitFars l.pa n
  foldFars l n
  let base ← baseRun l.place l.pa n va
  let m ← get
  pure (seenRun m l.pa base)

/-- Mem[va, n] as a value. -/
def readMem (va : Word) (n : Nat) : M Nat := do
  let l ← locate .load va
  pure (ofBytes (← readAt l va n))

/-- The place of the address o bytes on in the same line: a swizzle exchanges the 16-byte parts of a line by an exclusive or
of address bits [5:4] (R140). -/
def Loc.within (l : Loc) (va : Word) (o : Nat) : Loc :=
  let v := va.toNat % 64
  { l with pa := l.pa / 64 * 64 + ((v + o) ^^^ (l.pa % 64 ^^^ v)) }

/-- k dwords of the line of an address, from the dword o bytes on. -/
def readWords (l : Loc) (va : Word) (o : Nat) : Nat → M (List Word)
  | 0 => pure []
  | k + 1 => do
    let b ← readAt (l.within va o) (va + BitVec.ofNat 64 o) 8
    let r ← readWords l va (o + 8) k
    pure (BitVec.ofNat 64 (ofBytes b) :: r)

/-- A run of bytes read 8 at a time or one at a time at its ends, each byte's page located by itself. -/
def readBytes (k : Access) (va : Word) : Nat → M (List Byte)
  | 0 => pure []
  | n + 1 => do
    let l ← locate k va
    let b ← readAt l va 1
    let r ← readBytes k (va + 1) n
    pure (b ++ r)

/-! ### Writes -/

/-- Ways of a set of L1 (R102). -/
def l1Ways : Nat := 16

/-- A slot of a core holds a thread of a deterministic crew: its way is reserved in every set (R105, R107). -/
def detSlot (s : State) (core k : Nat) : Bool := (s.thread (core * 16 + k)).any fun t => t.arch.det

/-- Deterministic threads placed on a core (R104, R107). -/
def detSlots (s : State) (core : Nat) : Nat := ((List.range 16).filter (detSlot s core)).length

/-- Ld of R104. -/
def limitLd (s : State) (core : Nat) : Nat :=
  if detSlots s core = 0 then 12 else min 12 (16 - detSlots s core)

/-- The ways that the uncommitted lines of some chunks take in a set. -/
def heldWays (set : Nat) (cs : List Chunk) : List Nat :=
  cs.flatMap fun c => (c.held.filter fun h => h.1 = set).map fun h => h.2.2

/-- The ways of a set of a core's L1 that uncommitted lines of threads other than one take. -/
def waysTaken (s : State) (core tid set : Nat) : List Nat :=
  (List.range 16).flatMap fun k =>
    if core * 16 + k = tid then [] else ((s.thread (core * 16 + k)).map fun t => heldWays set t.chunks).getD []

/-- Uncommitted lines of dynamic chunks of other threads of the core in a set (R104). -/
def dynHeld (s : State) (core tid set : Nat) : Nat :=
  ((List.range 16).map fun k =>
    if core * 16 + k = tid then 0
    else match s.thread (core * 16 + k) with
      | some t => if t.arch.det then 0
          else (t.chunks.map fun c => (c.held.filter fun h => h.1 = set).length).sum
      | none => 0).sum

/-- The first way of a set that no uncommitted line takes and no deterministic slot reserves (R107). -/
def freeWay (s : State) (core : Nat) (taken : List Nat) : Option Nat :=
  (List.range l1Ways).find? fun w => !taken.contains w && !detSlot s core w

/-- The committed line in a way of a set leaves L1 (R107). -/
def Core.evictWay (c : Core) (set way : Nat) : Core :=
  { c with l1 := c.l1.filter fun x => decide (x.set ≠ set) || decide (x.way ≠ way) }

/-- Place for an uncommitted line in a set (R104, R105, R107): held already; else the slot's own way in deterministic mode, or the
first free way. Where there is none the chunk ends before the head, or, as the first head of a chunk, waits. A deterministic head
waits where another chunk's line stands in its way. -/
def holdLine (va : Word) (line : Nat) : M Unit := do
  let m ← get
  let st := setOf va
  if m.ch.held.any fun h => decide (h.1 = st) && decide (h.2.1 = line) then pure ()
  else
    let taken := waysTaken m.st m.core m.tid st ++ heldWays st m.th.chunks
    let way ← if m.ar.det then do
        if m.ch.held.any fun h => h.1 = st then (if 0 < m.ch.count then throw .before else throw .wait)
        if taken.contains (slotOf m.tid) then throw .wait
        pure (slotOf m.tid)
      else do
        let own := (m.ch.held.filter fun h => h.1 = st).length
          + (m.th.chunks.map fun c => (c.held.filter fun h => h.1 = st).length).sum
        if limitLd m.st m.core ≤ own + dynHeld m.st m.core m.tid st then
          (if 0 < m.ch.count then throw .before else throw .wait)
        match freeWay m.st m.core (taken ++ heldWays st [m.ch]) with
        | some w => pure w
        | none => if 0 < m.ch.count then throw .before else throw .wait
    onState fun s => s.setCore m.core ((s.core m.core).evictWay st way)
    onChunk fun c => { c with held := c.held ++ [(st, line, way)] }

/-- A line enters the write signature, its core becoming a holder (R109, R110); buffering waits for no fill (R132). -/
def noteWrite (l : Loc) : M Unit := do
  let m ← get
  if !l.place.beyond then
    needScope (lineOf l.pa)
    onState fun s => s.register m.core (lineOf l.pa)
  onChunk fun c => { c with wsig := c.wsig ||| sigOf (sigLine m.part l.pa),
                            lines := if c.lines.contains (lineOf l.pa) then c.lines else c.lines ++ [lineOf l.pa],
                            window := c.window || decide (regionOf l.pa = 0x1F) }

/-- Mem[a, n] ← bytes at a located address, within one line (R102, R109, R173). -/
def writeAt (l : Loc) (va : Word) (bs : List Byte) : M Unit := do
  waitFars l.pa bs.length
  foldFars l bs.length
  holdLine va (lineOf l.pa)
  noteWrite l
  modify fun m => { m with ch := { m.ch.put l.pa bs with stores := m.ch.stores ++ [(m.ch.count, l.pa, va)] } }

/-- Some dwords written to the line of an address, from the dword o bytes on. -/
def writeWords (l : Loc) (va : Word) (o : Nat) : List Word → M Unit
  | [] => pure ()
  | w :: ws => do
    writeAt (l.within va o) (va + BitVec.ofNat 64 o) (bytesOf 8 w.toNat)
    writeWords l va (o + 8) ws

/-- Stores into bench SRAM (R401): descriptors need the system privilege and end at 0xBF, VERSION takes ST.w and ST.d with
it, action slots and free bench SRAM are open, everything else faults. -/
def benchStoreOk (off n : Nat) (st sys : Bool) : Bool :=
  if off < 0x4000 then decide (off % 0x100 + n ≤ 0xC0) && sys
  else if off < 0x4008 then st && sys && decide (4 ≤ n)
  else if off < 0x10000 then false
  else if off < 0x90000 then decide ((off - 0x10000) % 0x2000 < 0x1000)
  else true

/-- The place of a store of n bytes, with the rules of bench SRAM; st says that the instruction is ST (R401). -/
def locateStore (va : Word) (n : Nat) (st : Bool) : M Loc := do
  let l ← locate .store va
  let m ← get
  match l.place with
  | .bench _ off => if benchStoreOk off n st m.sys then pure l else throw (.fault 0x07 va)
  | _ => pure l

/-- Mem[va, n] ← v. -/
def writeMem (va : Word) (n v : Nat) (st : Bool) : M Unit := do
  let l ← locateStore va n st
  writeAt l va (bytesOf n v)

/-! ### Checks that belong to a head (R351, R379) -/

/-- The register groups of a head as R7 and R379 see them: whether the entry grants vector state. -/
def vecAllowed (a : Arch) : Bool :=
  match a.links.getLast? with
  | some l => l.vpol
  | none => true

/-- The head and tail words of the head at the thread's PC, as R70 lays them out: the value of a fault whose entry names
none (R365). -/
def headWord (img : Line) (i : Nat) : Word :=
  let half := fun o : Nat => img.toNat / 2 ^ (8 * o) % 65536
  let tl := fun k : Nat => half (2 + 2 * k) / 256 % 4
  let sum := ((List.range i).map tl).sum
  let tail := fun t : Nat => if t < tl i then half (64 - 2 * sum - 2 * (t + 1)) * 2 ^ (16 * (t + 1)) else 0
  BitVec.ofNat 64 (half (2 + 2 * i) + tail 0 + tail 1 + tail 2)

/-- The head that the thread is executing, as R70 lays it out. -/
def Thread.headBits (t : Thread) : Word :=
  match t.fetch with
  | some (_, img) => headWord img (t.arch.pc.toNat % 64)
  | none => 0

/-- Vector, mask and span use inside a gate call of VPOL 0 (R379). (DEDUCED: notes/assumptions/14.md.) -/
def needVec : M Unit := do
  let m ← get
  faultIf (!vecAllowed m.ar) 0x07 m.th.headBits

/-- Between XPH and XEND only opcodes 0x01-0x10, 0x20-0x4D and 0xE7-0xEA may execute (R351): the first of a head's operand checks,
behind the causes 0x02, 0x03 and 0x17 that R7 puts before them. (DESIGN CHOICE: notes/assumptions/53.md.) -/
def notArming : M Unit := do
  let m ← get
  faultIf m.ar.arming.isSome 0x0B 2

/-! ### What becomes of a head -/

/-- A chunk that ends. -/
def Chunk.close (c : Chunk) (f : Finish) : Chunk := { c with fin := f, stage := .ended }

/-- The sticky flags of a chunk in fps (R55, R114 step 5). -/
def Arch.mergeFlags (a : Arch) (f : BitVec 5) : Arch := { a with fps := a.fps ||| f.setWidth 64 }

/-- A thread between two chunks: what is known of the next, where it was squashed with the one before, begins to count (R100,
R117). -/
def Thread.nextChunk (t : Thread) : Thread :=
  match t.later with
  | some (b, q, l) => { t with born := some b, squashes := q, limit := l, later := none }
  | none => { t with born := none, squashes := 0 }

/-- The thread with its executing chunk ended before the next head. -/
def Thread.endChunk (t : Thread) (older : List Chunk) (c : Chunk) : Thread :=
  { t.nextChunk with chunks := older ++ [c.close .cut], precise := none }

/-- The chunk reaches its limit, or the hardware cuts a dynamic chunk here, never in precise mode (R99, R101, R366, R373).
(DESIGN CHOICE: notes/assumptions/11.md.) -/
def cutsHere (t : Thread) (c : Chunk) (cut : Bool) : Bool :=
  decide (c.limit ≤ c.count) || (cut && !t.arch.det && !c.prec && t.denied.isNone)

/-- A chunk end that resets the watchdog count (R128): YIELD and WAITA. -/
def Finish.resetsCount : Finish → Bool
  | .yield => true
  | .waita => true
  | _ => false

/-- The watchdog count after a completed head (R128). -/
def wdAfter (n counts : Nat) (fin : Option Finish) : Nat := if fin.any Finish.resetsCount then 0 else n + counts

/-- A completed head (R98): counted, the PC moved on, its chunk ended where the head or a limit ends it. -/
def Mach.retire (m : Mach) (cut : Bool) : State :=
  let c := { m.ch with count := m.ch.count + m.counts }
  let a := { m.ar with pc := m.npc, wdcount := wdAfter m.ar.wdcount m.counts m.fin }
  let t := { m.th with arch := a, born := none, squashes := 0, precise := none, absent := none, replies := [] }
  match m.fin with
  | some f => m.st.setThread m.tid { t.nextChunk with chunks := m.th.chunks ++ [c.close f] }
  | none =>
    if cutsHere t c cut then m.st.setThread m.tid (t.endChunk m.th.chunks c)
    else m.st.setThread m.tid { t with chunks := m.th.chunks ++ [c] }

/-- A fault at the head of an executing chunk of k instructions (R366): with nothing before it and no chunk in flight it is
taken at once; with an older chunk in flight it waits for that chunk; else the chunk is discarded and re-executes precisely. -/
def faultAt (s : State) (tid : Nat) (t : Thread) (c : Chunk) (cause : Nat) (tval : Word) : State :=
  if 0 < c.count then
    let t := { t with chunks := t.older ++ [c] }
    (s.dropUnits tid [c]).setThread tid { t.rewind t.older.length with precise := some c.count }
  else if t.older = [] then takeTrap s tid { t with chunks := [] } cause tval
  else s.setThread tid { t with chunks := t.older, pending := some (.trap cause tval) }

/-- The thread takes the fault of a first head at once: it does not run in deterministic mode, or its turn has come (R366). -/
def Thread.atTurn (t : Thread) : Bool := !t.arch.det || decide (t.pending = some .turn)

/-- A fault of a head. In deterministic mode every step of R366 takes the thread's turn (R119): off it the chunk stays as it is, and
the fault is looked at again at the turn. (DEDUCED: notes/assumptions/15.md.) -/
def headFault (s : State) (tid : Nat) (t : Thread) (c : Chunk) (cause : Nat) (tval : Word) : State :=
  if t.atTurn then faultAt s tid t c cause tval
  else s.setThread tid { t with chunks := (if 0 < c.count then t.older ++ [c] else t.older), pending := some (.trap cause tval) }

/-- The link answers that a thread keeps when it falls asleep: those its head has had, where it waits for another (R165); a wait
reads its word afresh (R126). -/
def repliesAsleep (t : Thread) (r : Run) : List (Nat × List Byte) :=
  match r with
  | .link _ => t.replies
  | _ => []

/-- A head that waits for a link's answer at its thread's turn keeps the turn (R366). -/
def pendingAsleep (t : Thread) (r : Run) : Option Pending :=
  match r with
  | .link _ => t.pending
  | _ => none

/-- A wait that a head evaluated at its thread's turn and that goes on leaves the turn empty (R120, R126). -/
def State.waitedAt (s : State) (t : Thread) (r : Run) : State :=
  match r, s.crew t.crew with
  | .watch _ _, some w => if t.pending = some .turn then s.setCrew t.crew { w with spent := true } else s
  | _, _ => s

/-- What a stop of a head does to the machine, beside what the head did to the tables of translation and links. -/
def stopped (s : State) (tid : Nat) (t : Thread) (c : Chunk) (e : Stop) : State :=
  match e with
  | .fault cause tval => headFault s tid t c cause tval
  | .page cause va =>
    if t.denied = some va then headFault s tid t c cause va
    else s.setThread tid { t with chunks := t.older ++ [c], pending := some (.page cause va) }
  | .before => if 0 < c.count then s.setThread tid (t.endChunk t.older c) else s
  | .wait => s
  | .sleep r =>
    let cs := if 0 < c.count then t.older ++ [c] else t.older
    (s.waitedAt t r).setThread tid { t with chunks := cs, run := r, pending := pendingAsleep t r, replies := repliesAsleep t r }

/-- The watchdog limit is reached, or stands below the count, and a further instruction would execute (R129).
(DESIGN CHOICE: notes/assumptions/50.md.) -/
def wdFires (a : Arch) : Bool := decide (a.wdlimit ≠ 0) && decide (a.wdlimit.toNat ≤ a.wdcount)

/-- The head after the thread's PC in the line of its fetch buffer (R39). -/
def Thread.nextHead (t : Thread) : Word :=
  match t.fetch with
  | some (_, img) => nextPc t.arch.pc (lineHeads img)
  | none => nextPc t.arch.pc 32

/-- The machine as a head finds it. -/
def Mach.start (s : State) (tid : Nat) (t : Thread) : Mach where
  st := s
  tid := tid
  th := { t with chunks := t.older, pending := none }
  ch := t.current s
  ar := t.arch
  npc := t.nextHead
  fin := none
  counts := 1

/-- repst once a head other than REP begins to execute (R224). -/
def Thread.clearRep (t : Thread) : Thread :=
  if t.arch.repst.getLsbD 48 then { t with arch := { t.arch with repst := 0 } } else t

/-- A head that its unit cannot accept has not issued: the starting point of the search for a slot stays where it was (R71, R72). -/
def State.unissue (s : State) (tid : Nat) (e : Stop) : State :=
  if e = .wait then s.setCore (coreOf tid) { s.core (coreOf tid) with rr := (s.core (coreOf tid)).rrWas } else s

/-- What a head does once it begins to execute; of a head that stops, repst stays as R221 leaves it. -/
def runOp (s : State) (cut : Bool) (tid : Nat) (t : Thread) (op : M Unit) : State :=
  match op.run (Mach.start s tid t) with
  | .ok _ m => m.retire cut
  | .error e m => (stopped m.st tid { t with arch := { t.arch with repst := m.ar.repst } } (t.current s) e).unissue tid e

/-- One head of a thread: the watchdog first (R129), then its effect; a head other than REP clears repst first (R224). -/
def headStep (s : State) (cut : Bool) (tid : Nat) (t : Thread) (rep : Bool) (op : M Unit) : State :=
  if wdFires t.arch then
    if 0 < (t.current s).count then s.setThread tid (t.endChunk t.older (t.current s))
    else headFault s tid t (t.current s) 0x10 t.arch.wdlimit
  else runOp s cut tid (if rep then t else t.clearRep) op

/-- The head that the issuing thread executes (R71); rep holds for a REP. -/
def runHeadAs (s : State) (rep : Bool) (op : M Unit) : Host.Outcome State Fault Refusal :=
  match s.issuing with
  | some (.thread tid) =>
    match s.thread tid with
    | some t => .next (headStep { s with issuing := none, cutNow := false } s.cutNow tid t rep op)
    | none => .fault .noAgent
  | _ => .fault .noAgent

/-- The head that the issuing thread executes, other than a REP. -/
def runHead (s : State) (op : M Unit) : Host.Outcome State Fault Refusal := runHeadAs s false op

end Sys2Proof.Machine
end

