-- ==== Sys2Proof/Machine/Front.lean ====
section
/-!
DEFINITION. Sys2Proof/Machine/Front.lean: fetching a code line and checking it (R35-R41).
-/

namespace Sys2Proof.Machine

/-- TL of head i of a line (R36). -/
def headTail (img : Line) (i : Nat) : Nat := img.toNat / 2 ^ (8 * (2 + 2 * i) + 8) % 4

/-- S(H) of a line (R37). -/
def tailSum (img : Line) : Nat := ((List.range (lineHeads img)).map (headTail img)).sum

/-- The reason for which a line fails its check on entry at a head index, 0 where it passes (R38). -/
def lineReason (img : Line) (i : Nat) : Nat :=
  let pre := img.toNat % 65536
  if pre / 128 ≠ 0 then 1
  else if pre / 32 % 4 ≠ 0 then 2
  else if lineHeads img = 0 then 3
  else if 64 < 2 + 2 * lineHeads img + 2 * tailSum img then 4
  else if lineHeads img ≤ i then 5
  else 0

/-- The check of R38. -/
def needLine (img : Line) (i : Nat) : M Unit :=
  if lineReason img i = 0 then pure () else throw (.fault 0x01 (BitVec.ofNat 64 (lineReason img i)))

/-- The address of the line that a PC lies in (R39). -/
def lineAddr (pc : Word) : Word := BitVec.ofNat 64 (pc.toNat / 64 * 64)

/-- Lines of a core's L1 instruction cache, and of a cluster's instruction line cache (R9). -/
def coreImages : Nat := 512
def clusterImages : Nat := 4096

/-- A code image enters a core's instruction cache. -/
def State.keepImage (s : State) (core line : Nat) (img : Line) : State :=
  s.setCore core { s.core core with icache := imagePut coreImages line img (s.core core).icache }

/-- A code image enters a cluster's line cache. -/
def State.keepClusterImage (s : State) (cl line : Nat) (img : Line) : State :=
  s.setCluster cl { s.cluster cl with icache := imagePut clusterImages line img (s.cluster cl).icache }

/-- The fetch buffers of a core's slots that hold a line are dropped at their next entry, but for those that hold the image which the
core uses from now on: the core never goes back to an older one (R41). What they have had, or still await, of the line from beyond the
edge is discarded: they ask for it again (R390). -/
def State.outdate (s : State) (p core line : Nat) (img : Option Line) : State :=
  let old := fun t : Thread => t.fetch.any fun f =>
    match walk s p t.arch.guild (f.1 * 64) with
    | some x => decide (lineOf (x.pa (f.1 * 64)) = line) && decide (img.map (lineView (x.pa (f.1 * 64))) ≠ some f.2)
    | none => img.isNone
  let reads := fun x : Nat × LinkReq => match x.2.kind with
    | .read tid pa n _ none => decide (coreOf tid = core) && decide (n = 64) && decide (lineOf pa = line)
    | _ => false
  let again := fun t : Thread =>
    { t with replies := t.replies.filter fun r => decide (r.2.length ≠ 64) || decide (lineOf r.1 ≠ line)
             run := match t.run with
               | .link id => if s.links.any fun x => decide (x.1 = id) && reads x then .running else t.run
               | r => r }
  { s with threads := s.threads.map fun e =>
             if coreOf e.1 = core then (e.1, { again e.2 with stale := e.2.stale || old e.2 }) else e
           links := s.links.filter fun x => !reads x }

/-- The bytes of a code line as of every commit numbered so far, far atomics among them (R41), or those that a link answers with. -/
def codeRun (pl : Place) (pa : Nat) (va : Word) : M (List Byte) := do
  let m ← get
  if pl.beyond then readLink pa 64 va
  else if farsWait m.st pa 64 || m.st.homeHeld (lineOf pa) then throw .wait
  else pure (m.st.readRun pa 64)

/-- The image of a code line for the executing thread's core (R9, R40, R41): the one in its L1 instruction cache; else the one in
its cluster's line cache; else as the last commit left the line, which both keep from then on. -/
def fetchLine (va : Word) : M Line := do
  let l ← locateAs .fetch 0x05 va va
  let m ← get
  let line := lineOf l.pa
  match imageOf line (m.st.core m.core).icache with
  | some img =>
    onState fun s => s.keepImage m.core line img
    pure (lineView l.pa img)
  | none =>
    needBlock 3 m.cluster
    match imageOf line (m.st.cluster m.cluster).icache with
    | some img =>
      onState fun s => ((s.keepImage m.core line img).keepClusterImage m.cluster line img).outdate m.part m.core line (some img)
      pure (lineView l.pa img)
    | none =>
      if m.st.marked.contains line then throw (.fault 0x11 va)
      let b ← codeRun l.place (l.pa / 64 * 64) va
      let img : Line := BitVec.ofNat 512 (ofBytes b)
      onState fun s => ((s.keepImage m.core line img).keepClusterImage m.cluster line img).outdate m.part m.core line (some img)
      pure (lineView l.pa img)

end Sys2Proof.Machine
end

