-- ==== Sys2Proof/Machine/Integer.lean ====
section
/-!
DEFINITION. Sys2Proof/Machine/Integer.lean: opcodes 0x20-0x4D, the scalar integer, address and bit instructions (R75-R90).
-/

namespace Sys2Proof.Machine

/-! ### Widths and bit patterns -/

/-- An operation at width 64, or at width 32 with its result sign-extended (R76). -/
def atWidth (w : BitVec 1) (f : {n : Nat} → BitVec n → BitVec n → BitVec n) (a b : Word) : Word :=
  if w = 1 then (f (a.setWidth 32) (b.setWidth 32)).signExtend 64 else f a b

/-- The number whose bit i, for i below n, is f i. -/
def pickBits (f : Nat → Bool) : Nat → Nat
  | 0 => 0
  | n + 1 => pickBits f n + if f n then 2 ^ n else 0

/-- A truth value as a register's content. -/
def ofBool (b : Bool) : Word := if b then 1 else 0

/-- X[D] receives a function of X[A] and X[B], both read before the write (R75). -/
def opBinary (d b a : BitVec 6) (f : Word → Word → Word) : M Unit := do
  let m ← get
  setX d (f (m.ar.getX a) (m.ar.getX b))

/-- X[D] receives a function of X[A]. -/
def opUnary (d a : BitVec 6) (f : Word → Word) : M Unit := do
  let m ← get
  setX d (f (m.ar.getX a))

/-- X[D] receives a function of X[A], X[B] and X[C]. -/
def opTernary (d b a c : BitVec 6) (f : Word → Word → Word → Word) : M Unit := do
  let m ← get
  setX d (f (m.ar.getX a) (m.ar.getX b) (m.ar.getX c))

/-! ### Results of R77-R79 -/

/-- Bits [127:64] of a signed product. -/
def mulHigh (a b : Word) : Word := ((a.signExtend 128 * b.signExtend 128) >>> 64).setWidth 64
/-- Bits [127:64] of an unsigned product. -/
def mulHighU (a b : Word) : Word := ((a.setWidth 128 * b.setWidth 128) >>> 64).setWidth 64
/-- DIV (R78). -/
def divS {n : Nat} (a b : BitVec n) : BitVec n := if b = 0 then BitVec.allOnes n else a.sdiv b
/-- DIVU (R78). -/
def divU {n : Nat} (a b : BitVec n) : BitVec n := if b = 0 then BitVec.allOnes n else a / b
/-- REM (R78). -/
def remS {n : Nat} (a b : BitVec n) : BitVec n := if b = 0 then a else a.srem b
/-- REMU (R78). -/
def remU {n : Nat} (a b : BitVec n) : BitVec n := if b = 0 then a else a % b
/-- SHL by u(b) mod w (R79). -/
def shiftL {n : Nat} (a b : BitVec n) : BitVec n := a <<< (b.toNat % n)
/-- SHR (R79). -/
def shiftR {n : Nat} (a b : BitVec n) : BitVec n := a >>> (b.toNat % n)
/-- SHA (R79). -/
def shiftA {n : Nat} (a b : BitVec n) : BitVec n := a.sshiftRight (b.toNat % n)
/-- ROL (R79). -/
def rotL {n : Nat} (a b : BitVec n) : BitVec n := a.rotateLeft (b.toNat % n)

def execAdd (d : BitVec 6) (w : BitVec 1) (b a : BitVec 6) (s : State) := runHead s (opBinary d b a (atWidth w (· + ·)))
def execSub (d : BitVec 6) (w : BitVec 1) (b a : BitVec 6) (s : State) := runHead s (opBinary d b a (atWidth w (· - ·)))
def execMul (d : BitVec 6) (w : BitVec 1) (b a : BitVec 6) (s : State) := runHead s (opBinary d b a (atWidth w (· * ·)))
def execMulh (d b a : BitVec 6) (s : State) := runHead s (opBinary d b a mulHigh)
def execMulhu (d b a : BitVec 6) (s : State) := runHead s (opBinary d b a mulHighU)
def execDiv (d : BitVec 6) (w : BitVec 1) (b a : BitVec 6) (s : State) := runHead s (opBinary d b a (atWidth w divS))
def execDivu (d : BitVec 6) (w : BitVec 1) (b a : BitVec 6) (s : State) := runHead s (opBinary d b a (atWidth w divU))
def execRem (d : BitVec 6) (w : BitVec 1) (b a : BitVec 6) (s : State) := runHead s (opBinary d b a (atWidth w remS))
def execRemu (d : BitVec 6) (w : BitVec 1) (b a : BitVec 6) (s : State) := runHead s (opBinary d b a (atWidth w remU))
def execAnd (d b a : BitVec 6) (s : State) := runHead s (opBinary d b a (· &&& ·))
def execOr (d b a : BitVec 6) (s : State) := runHead s (opBinary d b a (· ||| ·))
def execXor (d b a : BitVec 6) (s : State) := runHead s (opBinary d b a (· ^^^ ·))
def execShl (d : BitVec 6) (w : BitVec 1) (b a : BitVec 6) (s : State) := runHead s (opBinary d b a (atWidth w shiftL))
def execShr (d : BitVec 6) (w : BitVec 1) (b a : BitVec 6) (s : State) := runHead s (opBinary d b a (atWidth w shiftR))
def execSha (d : BitVec 6) (w : BitVec 1) (b a : BitVec 6) (s : State) := runHead s (opBinary d b a (atWidth w shiftA))
def execRol (d : BitVec 6) (w : BitVec 1) (b a : BitVec 6) (s : State) := runHead s (opBinary d b a (atWidth w rotL))
def execSlt (d b a : BitVec 6) (s : State) := runHead s (opBinary d b a fun x y => ofBool (x.slt y))
def execSltu (d b a : BitVec 6) (s : State) := runHead s (opBinary d b a fun x y => ofBool (x.ult y))
def execMin (d b a : BitVec 6) (s : State) := runHead s (opBinary d b a fun x y => if x.slt y then x else y)
def execMax (d b a : BitVec 6) (s : State) := runHead s (opBinary d b a fun x y => if x.slt y then y else x)
def execMinu (d b a : BitVec 6) (s : State) := runHead s (opBinary d b a fun x y => if x.ult y then x else y)
def execMaxu (d b a : BitVec 6) (s : State) := runHead s (opBinary d b a fun x y => if x.ult y then y else x)
/-- ADDSH: X[A] + X[B] 2^F (R77). -/
def execAddsh (d : BitVec 6) (n : BitVec 4) (b a : BitVec 6) (s : State) :=
  runHead s (opBinary d b a fun x y => x + y <<< n.toNat)

/-! ### Immediates (R80-R83) -/

def execAddi (d : BitVec 6) (i : BitVec 10) (a : BitVec 6) (s : State) := runHead s (opUnary d a (· + sx i))
def execAndi (d : BitVec 6) (i : BitVec 10) (a : BitVec 6) (s : State) := runHead s (opUnary d a (· &&& sx i))
def execOri (d : BitVec 6) (i : BitVec 10) (a : BitVec 6) (s : State) := runHead s (opUnary d a (· ||| sx i))
def execXori (d : BitVec 6) (i : BitVec 10) (a : BitVec 6) (s : State) := runHead s (opUnary d a (· ^^^ sx i))
def execSlti (d : BitVec 6) (i : BitVec 10) (a : BitVec 6) (s : State) := runHead s (opUnary d a fun x => ofBool (x.slt (sx i)))
def execShli (d : BitVec 6) (w : BitVec 1) (n a : BitVec 6) (s : State) := runHead s (opUnary d a (atWidth w shiftL · (n.setWidth 64)))
def execShri (d : BitVec 6) (w : BitVec 1) (n a : BitVec 6) (s : State) := runHead s (opUnary d a (atWidth w shiftR · (n.setWidth 64)))
def execShai (d : BitVec 6) (w : BitVec 1) (n a : BitVec 6) (s : State) := runHead s (opUnary d a (atWidth w shiftA · (n.setWidth 64)))
def execRoli (d : BitVec 6) (w : BitVec 1) (n a : BitVec 6) (s : State) := runHead s (opUnary d a (atWidth w rotL · (n.setWidth 64)))
/-- LI (R81). -/
def execLi (d : BitVec 6) (imm : BitVec 42) (s : State) := runHead s (setX d (sx imm))
/-- LIH: bits [16K + 15 : 16K] replaced (R82). -/
def execLih (d : BitVec 6) (k : BitVec 2) (a : BitVec 6) (imm : BitVec 16) (s : State) :=
  runHead s (opUnary d a fun x => setField x (16 * k.toNat) 16 imm.toNat)
/-- ADDPC: the line's address and the immediate (R83). -/
def execAddpc (d : BitVec 6) (imm : BitVec 42) (s : State) :=
  runHead s (do let m ← get; setX d (lineAddr m.ar.pc + sx imm))

/-! ### Bit counts and permutations (R84-R88) -/

/-- The width of a width code of R84. -/
def countWidth (z : BitVec 2) : Nat := 64 / 2 ^ z.toNat
/-- The operand of R84. -/
def countArg (z : BitVec 2) (x : Word) : Nat := x.toNat % 2 ^ countWidth z
/-- CLZ of a w-bit value. -/
def clzOf (w a : Nat) : Nat := if a = 0 then w else w - 1 - Nat.log2 a
/-- CTZ of a w-bit value. -/
def ctzOf (w a : Nat) : Nat := ((List.range w).find? a.testBit).getD w
/-- The set bits of a w-bit value. -/
def popcOf (w a : Nat) : Nat := (List.range w).countP a.testBit
/-- BREV of a w-bit value. -/
def brevOf (w a : Nat) : Nat := pickBits (fun i => a.testBit (w - 1 - i)) w
/-- BSWAP of a w-bit value. -/
def bswapOf (w a : Nat) : Nat := ofBytes (bytesOf (w / 8) a).reverse

/-- An instruction of R84: its result zero-extended. -/
def opCount (d : BitVec 6) (z : BitVec 2) (a : BitVec 6) (f : Nat → Nat → Nat) : M Unit :=
  opUnary d a fun x => BitVec.ofNat 64 (f (countWidth z) (countArg z x))

def execClz (d : BitVec 6) (z : BitVec 2) (a : BitVec 6) (s : State) := runHead s (opCount d z a clzOf)
def execCtz (d : BitVec 6) (z : BitVec 2) (a : BitVec 6) (s : State) := runHead s (opCount d z a ctzOf)
def execPopc (d : BitVec 6) (z : BitVec 2) (a : BitVec 6) (s : State) := runHead s (opCount d z a popcOf)
def execBrev (d : BitVec 6) (z : BitVec 2) (a : BitVec 6) (s : State) := runHead s (opCount d z a brevOf)
def execBswap (d : BitVec 6) (z : BitVec 2) (a : BitVec 6) (s : State) := runHead s (opCount d z a bswapOf)

/-- EXT: len bits from pos, extended (R85); the field holds len - 1. -/
def execExt (d a : BitVec 6) (sg : BitVec 1) (len pos : BitVec 6) (s : State) :=
  runHead s (opUnary d a fun x =>
    if sg = 1 then sextN (x >>> pos.toNat) (len.toNat + 1) else zextN (x >>> pos.toNat) (len.toNat + 1))
/-- INS: len bits of X[B] placed at pos of X[A] (R86). -/
def execIns (d b a len pos : BitVec 6) (s : State) :=
  runHead s (opBinary d b a fun x y => setField x pos.toNat (len.toNat + 1) y.toNat)

/-- ILV (R87). -/
def interleave (f : BitVec 1) (a b c : Word) : Word :=
  if f = 0 then BitVec.ofNat 64 (pickBits (fun j => if j % 2 = 0 then a.getLsbD (j / 2) else b.getLsbD (j / 2)) 64)
  else BitVec.ofNat 64 (pickBits (fun j =>
    if j % 3 = 0 then a.getLsbD (j / 3) else if j % 3 = 1 then b.getLsbD (j / 3) else c.getLsbD (j / 3)) 63)
/-- DILV (R88). -/
def deinterleave (f : BitVec 1) (j : Nat) (a : Word) : Word :=
  if f = 0 then BitVec.ofNat 64 (pickBits (fun i => a.getLsbD (2 * i + j)) 32)
  else BitVec.ofNat 64 (pickBits (fun i => a.getLsbD (3 * i + j)) 21)
def execIlv (d : BitVec 6) (f : BitVec 1) (b a c : BitVec 6) (s : State) := runHead s (opTernary d b a c (interleave f))
def execDilv (d : BitVec 6) (f : BitVec 1) (a : BitVec 6) (jc : BitVec 2) (s : State) :=
  runHead s (opUnary d a (deinterleave f jc.toNat))

/-! ### Select and multiply-add (R89, R90) -/

/-- The condition of SEL (R89). -/
def selHolds (k : BitVec 2) (a : Word) : Bool :=
  if k = 0 then decide (a ≠ 0) else if k = 1 then decide (a = 0) else if k = 2 then a.msb else !a.msb
def execSel (d : BitVec 6) (k : BitVec 2) (b a c : BitVec 6) (s : State) :=
  runHead s (opTernary d b a c fun x y z => if selHolds k x then y else z)
def execMadd (d : BitVec 6) (f : BitVec 1) (b a c : BitVec 6) (s : State) :=
  runHead s (opTernary d b a c fun x y z => if f = 1 then z - x * y else z + x * y)

end Sys2Proof.Machine
end

