-- ==== Sys2Proof/Machine/Control.lean ====
section
/-!
DEFINITION. Sys2Proof/Machine/Control.lean: opcodes 0x01-0x14, transfers of control and the chunk instructions (R91-R97,
R123-R127).
-/

namespace Sys2Proof.Machine

/-! ### Transfers of control (R91-R96) -/

/-- The target of form B: lines counted from the branch's own line, and the head index (R44, R92). -/
def branchTarget (pc : Word) (off : BitVec 21) (hi : BitVec 5) : Word :=
  (lineAddr pc + sx off <<< 6) ||| hi.setWidth 64

/-- A thread that enters a line by a transfer: a buffered image that an IFLUSH has outdated is dropped, any other stays for the check
of R38 without a fetch (R41, R97). -/
def Thread.enterLine (t : Thread) : Thread := if t.stale then { t with fetch := none, stale := false } else t

/-- PC ← v. -/
def jumpTo (v : Word) : M Unit := modify fun m => { m with npc := v, th := m.th.enterLine }

/-- J and JL: the link is the PC of the next head (R92). -/
def opJump (d : BitVec 6) (off : BitVec 21) (hi : BitVec 5) : M Unit := do
  let m ← get
  setX d m.npc
  jumpTo (branchTarget m.ar.pc off hi)

/-- JR and JLR: the target is read before the link is written (R93). -/
def opJumpReg (d a : BitVec 6) : M Unit := do
  let m ← get
  setX d m.npc
  jumpTo (m.ar.getX a)

/-- A compare branch (R94). -/
def opBranch (d a : BitVec 6) (off : BitVec 21) (hi : BitVec 5) (c : Word → Word → Bool) : M Unit := do
  let m ← get
  if c (m.ar.getX d) (m.ar.getX a) then jumpTo (branchTarget m.ar.pc off hi) else pure ()

/-- The bits of T: all 64 under s0, else those that govern the elements below COUNT (R95, R211). -/
def testedCount (ar : Arch) (j : BitVec 2) : Nat := if j = 0 then 64 else min (field (ar.getS j) 0 9) 64
/-- T of a mask under a span (R95), as the bits of the mask within it. -/
def testedBits (ar : Arch) (k : BitVec 3) (j : BitVec 2) : Nat := (ar.getM k).toNat % 2 ^ testedCount ar j

/-- A mask test (R95); c is asked of T's bits and its size. -/
def opMaskBranch (d : BitVec 3) (a : BitVec 2) (off : BitVec 21) (hi : BitVec 5) (c : Nat → Nat → Bool) : M Unit := do
  if d ≠ 0 || a ≠ 0 then needVec
  let m ← get
  if c (testedBits m.ar d a) (testedCount m.ar a) then jumpTo (branchTarget m.ar.pc off hi) else pure ()

/-- A head whose opcode is unassigned or whose encoding R70 refuses: cause 0x02 with the head and its tail. -/
def execIllegalOpcode (word : BitVec 64) (s : State) := runHead s (throw (.fault 0x02 word))
/-- NOP has no effect (R96). -/
def execNop (s : State) := runHead s (pure ())
def execJ (off : BitVec 21) (hi : BitVec 5) (s : State) := runHead s (opJump 0 off hi)
def execJl (d : BitVec 6) (off : BitVec 21) (hi : BitVec 5) (s : State) := runHead s (opJump d off hi)
def execJr (a : BitVec 6) (s : State) := runHead s (opJumpReg 0 a)
def execJlr (d a : BitVec 6) (s : State) := runHead s (opJumpReg d a)
def execBeq (d a : BitVec 6) (off : BitVec 21) (hi : BitVec 5) (s : State) := runHead s (opBranch d a off hi (· == ·))
def execBne (d a : BitVec 6) (off : BitVec 21) (hi : BitVec 5) (s : State) := runHead s (opBranch d a off hi (· != ·))
def execBlt (d a : BitVec 6) (off : BitVec 21) (hi : BitVec 5) (s : State) := runHead s (opBranch d a off hi BitVec.slt)
def execBge (d a : BitVec 6) (off : BitVec 21) (hi : BitVec 5) (s : State) := runHead s (opBranch d a off hi fun x y => !x.slt y)
def execBltu (d a : BitVec 6) (off : BitVec 21) (hi : BitVec 5) (s : State) := runHead s (opBranch d a off hi BitVec.ult)
def execBgeu (d a : BitVec 6) (off : BitVec 21) (hi : BitVec 5) (s : State) := runHead s (opBranch d a off hi fun x y => !x.ult y)
def execBz (d : BitVec 6) (off : BitVec 21) (hi : BitVec 5) (s : State) := runHead s (opBranch d 0 off hi (· == ·))
def execBnz (d : BitVec 6) (off : BitVec 21) (hi : BitVec 5) (s : State) := runHead s (opBranch d 0 off hi (· != ·))
def execBmany (d : BitVec 3) (a : BitVec 2) (off : BitVec 21) (hi : BitVec 5) (s : State) :=
  runHead s (opMaskBranch d a off hi fun t _ => t != 0)
def execBmnone (d : BitVec 3) (a : BitVec 2) (off : BitVec 21) (hi : BitVec 5) (s : State) :=
  runHead s (opMaskBranch d a off hi fun t _ => t == 0)
def execBmall (d : BitVec 3) (a : BitVec 2) (off : BitVec 21) (hi : BitVec 5) (s : State) :=
  runHead s (opMaskBranch d a off hi fun t n => t + 1 == 2 ^ n)

/-! ### The chunk instructions (R123-R127) -/

/-- The condition of WAITA and of SWAIT's sleep, on words of n bytes (R125). -/
def waitHolds (k n v c : Nat) : Bool :=
  match k with
  | 0 => decide (v ≠ c)
  | 1 => decide (v = c)
  | 2 => decide (c ≤ v)
  | _ => decide (signedOf (8 * n) c ≤ signedOf (8 * n) v)

/-- X[A] + disp16, the address of form M. -/
def memAddr (m : Mach) (a : BitVec 6) (disp : BitVec 16) : Word := m.ar.getX a + sx disp

/-- a mod n = 0, or cause 0x04 with the address (R147). -/
def needAligned (va : Word) (n : Nat) : M Unit := faultIf (decide (va.toNat % n ≠ 0)) 0x04 va

/-- A word that no directory watches is evaluated again at an interval (R126). -/
def pollCycles : Nat := 1024

/-- WAITA (R125): alone in its chunk, it completes where the condition holds, else its chunk is abandoned and the thread
sleeps. -/
def opWaita (d : BitVec 6) (z : BitVec 1) (k : BitVec 2) (b a : BitVec 6) (disp : BitVec 16) : M Unit := do
  notArming
  let m ← get
  let n := if z = 0 then 8 else 4
  let va := memAddr m a disp
  let c := (m.ar.getX b).toNat % 2 ^ (8 * n)
  standAlone
  needAligned va n
  let l ← locate .load va
  let v := ofBytes (← readAt l va n)
  let m ← get
  if waitHolds k.toNat n v c then
    setX d (BitVec.ofNat 64 v)
    endWith .waita
  else
    throw (.sleep (.watch { va, pa := l.pa, n, cond := k.toNat, c := BitVec.ofNat 64 c, d, take := false,
                            polls := l.place.beyond, due := m.st.time + pollCycles } false))

def execWaita (d : BitVec 6) (z : BitVec 1) (k : BitVec 2) (b a : BitVec 6) (disp : BitVec 16) (s : State) :=
  runHead s (opWaita d z k b a disp)
/-- CUT (R123). -/
def execCut (s : State) := runHead s (do notArming; endWith .cut)
/-- YIELD (R124). -/
def execYield (s : State) := runHead s (do notArming; endWith .yield)
/-- EXIT (R127): refused inside a gate. -/
def execExit (s : State) := runHead s (do
  notArming
  let m ← get
  faultIf (decide (m.ar.depth ≠ 0)) 0x07 m.th.headBits
  endWith .exit)

end Sys2Proof.Machine
end

