-- ==== Sys2Proof/Machine/Operands.lean ====
section
/-!
DEFINITION. Sys2Proof/Machine/Operands.lean: the operand forms of the vector class: element types, groups, spans, predicates
and lanes (R47, R48, R52, R53, R196, R210-R214), and addresses of form M.
-/

namespace Sys2Proof.Machine

/-! ### Element types (R48) -/

/-- The width in bits of an element type. -/
def typeBits (t : Nat) : Nat :=
  match t with
  | 8 => 64
  | 9 => 32
  | 10 => 16
  | 11 => 16
  | 12 => 8
  | 13 => 8
  | 14 => 4
  | 15 => 8
  | k => 8 * 2 ^ (k % 4)

/-- The type is a signed integer. -/
def typeSigned (t : Nat) : Bool := decide (t < 4)

/-- An element of an integer type as a number. -/
def intOf (t v : Nat) : Int := if typeSigned t then signedOf (typeBits t) v else (v % 2 ^ typeBits t : Nat)

/-- The least and the greatest number of an integer type. -/
def intMin (t : Nat) : Int := if typeSigned t then -(2 ^ (typeBits t - 1) : Nat) else 0
def intMax (t : Nat) : Int := if typeSigned t then (2 ^ (typeBits t - 1) : Nat) - 1 else (2 ^ typeBits t : Nat) - 1

/-! ### Lanes of a group (R5, R196) -/

/-- A vector register by number; there is none beyond v31. -/
def Arch.vreg (a : Arch) (i : Nat) : Line := if h : i < 32 then a.v[i] else 0
/-- A vector register by number written. -/
def Arch.setVreg (a : Arch) (i : Nat) (l : Line) : Arch := if h : i < 32 then { a with v := a.v.set i l h } else a

/-- Element k, of w bits, of the group that begins at register v; an e2m1 element is a nibble. -/
def Arch.lane (a : Arch) (v w k : Nat) : Nat := (a.vreg (v + k * w / 512)).toNat / 2 ^ (k * w % 512) % 2 ^ w

/-- Elements of w bits laid side by side, the first lowest. -/
def packElems (w : Nat) : List Nat → Nat
  | [] => 0
  | e :: l => e % 2 ^ w + 2 ^ w * packElems w l

/-- n registers from register v on written with elements of w bits. -/
def Arch.putElems (a : Arch) (v w : Nat) (l : List Nat) : Nat → Arch
  | 0 => a
  | n + 1 => (a.setVreg v (BitVec.ofNat 512 (packElems w (l.take (512 / w))))).putElems (v + 1) w (l.drop (512 / w)) n

/-! ### Spans and predicates (R47, R51, R53, R210-R212) -/

/-- What a span and a predicate select of elements of w bits: the registers of a group, the element count, the mask, and
whether the rest is zeroed. -/
structure Shape where
  nreg : Nat
  n : Nat
  mask : Word
  zero : Bool
deriving DecidableEq, Repr

/-- NREG of the span named by a predicate. -/
def spanRegs (a : Arch) (j : BitVec 2) : Nat := if j = 0 then 1 else field (a.getS j) 11 3 + 1
/-- COUNT of the span, for elements of w bits. -/
def spanCount (a : Arch) (j : BitVec 2) (w : Nat) : Nat := if j = 0 then 512 / w else field (a.getS j) 0 9

/-- The selection of predicate p for elements of w bits (R210, R211). -/
def shapeOf (a : Arch) (p : BitVec 6) (w : Nat) : Shape where
  nreg := spanRegs a (p.extractLsb' 0 2)
  n := min (spanCount a (p.extractLsb' 0 2) w) (spanRegs a (p.extractLsb' 0 2) * 512 / w)
  mask := a.getM (p.extractLsb' 2 3)
  zero := p.getLsbD 5

/-- Element k is active (R211). -/
def Shape.active (g : Shape) (k : Nat) : Bool := decide (k < g.n) && g.mask.getLsbD (k % 64)

/-- What a destination position keeps where its element is not active (R212). -/
def Shape.rest (g : Shape) (a : Arch) (v w k : Nat) : Nat := if g.zero then 0 else a.lane v w k

/-- The results of the active elements among the positions of count registers (R212, R214). -/
def Shape.results (g : Shape) (w count : Nat) (f : Nat → Nat × BitVec 5) : List (Option (Nat × BitVec 5)) :=
  (List.range (count * 512 / w)).map fun k => if g.active k then some (f k) else none

/-- The elements of a destination from its results. -/
def Shape.merge (g : Shape) (a : Arch) (v w : Nat) (rs : List (Option (Nat × BitVec 5))) : List Nat :=
  rs.zipIdx.map fun r => match r.1 with
    | some x => x.1
    | none => g.rest a v w r.2

/-- The flags that active elements raise (R190). -/
def flagsOf (rs : List (Option (Nat × BitVec 5))) : BitVec 5 :=
  rs.foldl (fun acc r => match r with
    | some x => acc ||| x.2
    | none => acc) 0

/-- A vector group of count registers written with the results of its active elements, their flags raised. -/
def putGroup (v : BitVec 5) (g : Shape) (w count : Nat) (f : Nat → Nat × BitVec 5) : M Unit := do
  let m ← get
  let rs := g.results w count f
  onArch fun a => a.putElems v.toNat w (g.merge m.ar v.toNat w rs) count
  raise (flagsOf rs)

/-- A mask register written with the results of elements 0 to min(n, 64) - 1 that are active (R213). -/
def putMask (d : BitVec 3) (g : Shape) (f : Nat → Nat × BitVec 5) : M Unit := do
  let m ← get
  let rs := (List.range 64).map fun k => if g.active k then some (f k) else none
  let old : Nat := if g.zero then 0 else (m.ar.getM d).toNat
  let bits := rs.zipIdx.map fun r => match r.1 with
    | some x => x.1 % 2
    | none => old / 2 ^ r.2 % 2
  onArch fun a => a.setM d (BitVec.ofNat 64 (packElems 1 bits))
  raise (flagsOf rs)

/-! ### Checks of the class (R7, R52, R351, R379) -/

/-- Vector registers of the thread's allotment (R18). -/
def Mach.vregs (m : Mach) : Nat := (m.crew.map Crew.vregs).getD 32
/-- Tiles of the thread's allotment. -/
def Mach.tiles (m : Mach) : Nat := (m.crew.map Crew.tiles).getD 16

/-- A group of n registers lies within the allotment, else cause 0x03 with the first register outside (R52, R365). -/
def needGroup (v : BitVec 5) (n : Nat) : M Unit := do
  let m ← get
  faultIf (decide (m.vregs < v.toNat + n)) 0x03 (BitVec.ofNat 64 (max v.toNat m.vregs))

/-- Groups checked one after the other, in the order given: sources, destination, others. (DESIGN CHOICE: notes/assumptions/75.md.) -/
def needGroups : List (BitVec 5 × Nat) → M Unit
  | [] => pure ()
  | (v, n) :: l => do
    needGroup v n
    needGroups l

/-- The checks of a vector instruction with its groups, in the order of R7. -/
def vecChecks (groups : List (BitVec 5 × Nat)) : M Unit := do
  needGroups groups
  notArming
  needVec

/-- An element instruction of sources and a destination of one width: every source read before the destination is written
(R210-R214). -/
def opLanes (w : Nat) (p : BitVec 6) (d : BitVec 5) (srcs : List (BitVec 5)) (f : Arch → Shape → Nat → Nat × BitVec 5) :
    M Unit := do
  let m ← get
  let g := shapeOf m.ar p w
  vecChecks ((srcs ++ [d]).map fun v => (v, g.nreg))
  putGroup d g w g.nreg (f m.ar g)

/-- An element instruction that writes a mask register (R213). -/
def opMaskLanes (w : Nat) (p : BitVec 6) (d : BitVec 3) (srcs : List (BitVec 5)) (f : Arch → Shape → Nat → Nat × BitVec 5) :
    M Unit := do
  let m ← get
  let g := shapeOf m.ar p w
  vecChecks (srcs.map fun v => (v, g.nreg))
  putMask d g (f m.ar g)

/-- A vector instruction with a scalar destination: the register written whole and flags raised (R214). -/
def opScalarLanes (w : Nat) (p : BitVec 6) (d : BitVec 6) (srcs : List (BitVec 5)) (f : Arch → Shape → Word × BitVec 5) :
    M Unit := do
  let m ← get
  let g := shapeOf m.ar p w
  vecChecks (srcs.map fun v => (v, g.nreg))
  setX d (f m.ar g).1
  raise (f m.ar g).2

/-- A line of eight open words. -/
def State.freshLine (s : State) : Line × State :=
  let w := fun i : Nat => (Config.freeWord (s.free + i)).toNat * 2 ^ (64 * i)
  (BitVec.ofNat 512 (w 0 + w 1 + w 2 + w 3 + w 4 + w 5 + w 6 + w 7), { s with free := s.free + 8 })

/-- n registers from v on take open values. (DESIGN CHOICE: notes/assumptions/4.md.) -/
def freeRegs (v : Nat) : Nat → M Unit
  | 0 => pure ()
  | n + 1 => do
    modify fun m => { m with ar := m.ar.setVreg v m.st.freshLine.1, st := m.st.freshLine.2 }
    freeRegs (v + 1) n

/-- The registers common to two destination groups of one instruction: the manual states no content for them. -/
def freeOverlap (v n u k : Nat) : M Unit := freeRegs (max v u) (min (v + n) (u + k) - max v u)

/-- The low five bits of a register field that names a vector register. -/
def asV (b : BitVec 6) : BitVec 5 := b.setWidth 5

end Sys2Proof.Machine
end

