-- ==== Sys2Proof/Machine/Memory.lean ====
section
/-!
DEFINITION. Sys2Proof/Machine/Memory.lean: opcodes 0x50-0x64: scalar and vector loads and stores, cache and range control, and
the banks (R142-R160, R442).
-/

namespace Sys2Proof.Machine

/-! ### Scalar loads and stores (R150-R152) -/

/-- The control blocks of the window (R134): the address of the first, and the bytes they take. -/
def controlBase : Nat := 0xFFFFFFFFFFF00000
/-- The address lies in the control blocks. -/
def inControl (va : Word) : Bool := decide (controlBase ≤ va.toNat) && decide (va.toNat < controlBase + 0x1000)

/-- A register of a control block, for LD.d and ST.d with the system privilege (R144). -/
def locateControl (va : Word) : M Loc := do
  let m ← get
  let o := va.toNat - controlBase
  needBlock 3 m.cluster
  if m.sys then pure { pa := controlPa m.cluster (o / 256) (o % 256), place := .control (o / 256) (o % 256) }
  else throw (.fault 0x07 va)

/-- The bytes of a size code. -/
def sizeOf2 (z : BitVec 2) : Nat := 2 ^ z.toNat

/-- A loaded value of n bytes extended to 64 bits (R150). -/
def extend (sg : BitVec 1) (n v : Nat) : Word :=
  if sg = 1 then sextN (BitVec.ofNat 64 v) (8 * n) else BitVec.ofNat 64 v

/-- The place of a scalar load; ctl holds for LD.d. -/
def locateLoad (va : Word) (ctl : Bool) : M Loc := if ctl && inControl va then locateControl va else locate .load va

/-- A scalar load of n bytes. -/
def loadScalar (va : Word) (n : Nat) (ctl : Bool) : M Nat := do
  notArming
  needAligned va n
  let l ← locateLoad va ctl
  let bs ← readAt l va n
  pure (ofBytes bs)

/-- A register load: X[D] ← ext(Mem[va, n]). -/
def opLoad (d : BitVec 6) (sg : BitVec 1) (n : Nat) (va : Mach → Word) (ctl : Bool) : M Unit := do
  let m ← get
  let v ← loadScalar (va m) n ctl
  setX d (extend sg n v)

/-- A store to a register of a control block (R144); a store that is ignored holds no byte. -/
def storeControl (va : Word) (v : Nat) : M Unit := do
  let l ← locateControl va
  if controlMask (l.pa % 256) = 0 then noteWrite l
  else writeAt l va (bytesOf 8 ((BitVec.ofNat 64 v &&& controlMask (l.pa % 256)).toNat))

/-- A scalar store of n bytes; st holds for ST. -/
def storeScalar (va : Word) (n v : Nat) (st : Bool) : M Unit := do
  notArming
  needAligned va n
  if st && decide (n = 8) && inControl va then storeControl va v
  else writeMem va n v st

/-- The address of an indexed access: X[A] + X[B] n. -/
def indexAddr (m : Mach) (a b : BitVec 6) (n : Nat) : Word := m.ar.getX a + m.ar.getX b * BitVec.ofNat 64 n

def opLd (d : BitVec 6) (g : BitVec 1) (z : BitVec 2) (a : BitVec 6) (disp : BitVec 16) : M Unit :=
  opLoad d g (sizeOf2 z) (fun m => memAddr m a disp) (z == 3)
def opSt (z : BitVec 2) (b a : BitVec 6) (disp : BitVec 16) : M Unit := do
  let m ← get
  storeScalar (memAddr m a disp) (sizeOf2 z) (m.ar.getX b).toNat true
def opLdx (d : BitVec 6) (g : BitVec 1) (z : BitVec 2) (b a : BitVec 6) : M Unit :=
  opLoad d g (sizeOf2 z) (fun m => indexAddr m a b (sizeOf2 z)) false
def opStx (z : BitVec 2) (b a c : BitVec 6) : M Unit := do
  let m ← get
  storeScalar (indexAddr m a b (sizeOf2 z)) (sizeOf2 z) (m.ar.getX c).toNat false
/-- LDP: the lower half to D, the upper to D + 1 (R152). -/
def opLdp (d : BitVec 6) (g : BitVec 1) (z : BitVec 2) (a : BitVec 6) (disp : BitVec 16) : M Unit := do
  let m ← get
  let n := sizeOf2 z
  let v ← loadScalar (memAddr m a disp) (2 * n) false
  setX d (extend g n (v % 2 ^ (8 * n)))
  setX (d + 1) (extend g n (v / 2 ^ (8 * n)))
/-- STP: one access of two registers (R152). -/
def opStp (z : BitVec 2) (b a : BitVec 6) (disp : BitVec 16) : M Unit := do
  let m ← get
  let n := sizeOf2 z
  storeScalar (memAddr m a disp) (2 * n)
    ((m.ar.getX b).toNat % 2 ^ (8 * n) + 2 ^ (8 * n) * ((m.ar.getX (b + 1)).toNat % 2 ^ (8 * n))) false

/-! ### Vector loads and stores (R153-R155, R442) -/

/-- The element width in bytes: the span's, or that of F under s0 (R153). -/
def memElem (a : Arch) (p : BitVec 6) (z : BitVec 2) : Nat :=
  let j := p.extractLsb' 0 2
  if j = 0 then sizeOf2 z else 2 ^ field (a.getS j) 9 2

/-- The active elements of a vector access with their addresses, in increasing k. -/
def elemAddrs (g : Shape) (addr : Nat → Word) : List (Nat × Word) :=
  (List.range g.n).filterMap fun k => if g.active k then some (k, addr k) else none

/-- The lowest misaligned address of a vector access faults (R155). -/
def needElemsAligned (es : List (Nat × Word)) (ew : Nat) : M Unit :=
  match (es.filter fun e => e.2.toNat % ew ≠ 0).map fun e => e.2.toNat with
  | [] => pure ()
  | a :: l => throw (.fault 0x04 (BitVec.ofNat 64 (l.foldl min a)))

/-- The places of the active elements; the first that faults decides (R155). -/
def locateElems (f : Word → M Loc) : List (Nat × Word) → M (List (Nat × Word × Loc))
  | [] => pure []
  | (k, va) :: es => do
    let l ← f va
    let r ← locateElems f es
    pure ((k, va, l) :: r)

/-- Each element read in increasing k. -/
def readElems (ew : Nat) : List (Nat × Word × Loc) → M (List (Nat × Nat))
  | [] => pure []
  | (k, va, l) :: es => do
    let b ← readAt l va ew
    let r ← readElems ew es
    pure ((k, ofBytes b) :: r)

/-- Each element written in increasing k, so that the higher k prevails (R154). -/
def writeElems (ew : Nat) (v : Nat → Nat) : List (Nat × Word × Loc) → M Unit
  | [] => pure ()
  | (k, va, l) :: es => do
    writeAt l va (bytesOf ew (v k))
    writeElems ew v es

/-- The checks of a vector access, in the order of R7, and its element addresses. -/
def vecAddrs (p : BitVec 6) (z : BitVec 2) (groups : Shape → Nat → List (BitVec 5 × Nat)) (addr : Arch → Nat → Nat → Word) :
    M (List (Nat × Word)) := do
  let m ← get
  let ew := memElem m.ar p z
  let g := shapeOf m.ar p (8 * ew)
  needGroups (groups g ew)
  notArming
  let es := elemAddrs g (addr m.ar ew)
  needElemsAligned es ew
  needVec
  pure es

/-- A vector load (R154, R155). -/
def opVecLoad (d : BitVec 5) (p : BitVec 6) (z : BitVec 2) (groups : Shape → Nat → List (BitVec 5 × Nat))
    (addr : Arch → Nat → Nat → Word) : M Unit := do
  let es ← vecAddrs p z (fun g ew => (d, g.nreg) :: groups g ew) addr
  let m ← get
  let ew := memElem m.ar p z
  let g := shapeOf m.ar p (8 * ew)
  let ls ← locateElems (locate .load) es
  let vs ← readElems ew ls
  putGroup d g (8 * ew) g.nreg fun k => (assocGetD k 0 vs, 0)

/-- The distinct lines that an instruction needs in the set of an address. -/
def linesInSet (ls : List (Nat × Word × Loc)) (set : Nat) : Nat :=
  ((ls.filter fun e => setOf e.2.1 = set).map fun e => lineOf e.2.2.pa).dedup.length

/-- The lines that one set admits of one instruction's chunk (R104, R105). -/
def setLimit (m : Mach) : Nat := if m.ar.det then 1 else limitLd m.st m.core

/-- Elements of an unbuffered instruction taken into the chunk without a line of L1 (R442). -/
def captureElems (ew : Nat) (v : Nat → Nat) : List (Nat × Word × Loc) → M Unit
  | [] => pure ()
  | (k, va, l) :: es => do
    waitFars l.pa ew
    foldFars l ew
    noteWrite l
    modify fun m => { m with ch := { m.ch.put l.pa (bytesOf ew (v k)) with stores := m.ch.stores ++ [(m.ch.count, l.pa, va)] } }
    captureElems ew v es

/-- A vector store (R154, R155). The first of its chunk that needs more lines of one set than there may be is performed
unbuffered, a chunk of its own (R442). -/
def opVecStore (d : BitVec 5) (p : BitVec 6) (z : BitVec 2) (groups : Shape → Nat → List (BitVec 5 × Nat))
    (addr : Arch → Nat → Nat → Word) : M Unit := do
  let es ← vecAddrs p z (fun g ew => (d, g.nreg) :: groups g ew) addr
  let m ← get
  let ew := memElem m.ar p z
  let ls ← locateElems (fun va => locateStore va ew false) es
  let v := fun k => m.ar.lane d.toNat (8 * ew) k
  if ls.any fun e => setLimit m < linesInSet ls (setOf e.2.1) then
    if 0 < m.ch.count then throw .before
    captureElems ew v ls
    onChunk fun c => { c with unbuffered := true }
    endWith .alone
  else writeElems ew v ls

/-- base + k ew (R154). -/
def unitAddr (a : BitVec 6) (disp : BitVec 16) (off : Word) (ar : Arch) (ew k : Nat) : Word :=
  ar.getX a + sx disp + off + BitVec.ofNat 64 (k * ew)
/-- base + k s(X[B]). -/
def strideAddr (a b : BitVec 6) (disp : BitVec 16) (off : Word) (ar : Arch) (_ew k : Nat) : Word :=
  ar.getX a + sx disp + off + ar.getX b * BitVec.ofNat 64 k
/-- base + idx_k ew. -/
def gatherAddr (a : BitVec 6) (ig : BitVec 1) (iw : BitVec 2) (c : BitVec 5) (disp : BitVec 16) (off : Word) (ar : Arch)
    (ew k : Nat) : Word :=
  let x := ar.lane c.toNat (8 * sizeOf2 iw) k
  let i : Int := if ig = 1 then signedOf (8 * sizeOf2 iw) x else x
  ar.getX a + sx disp + off + BitVec.ofInt 64 (i * ew)
/-- The index group of R154. -/
def indexGroup (iw : BitVec 2) (c : BitVec 5) (g : Shape) (ew : Nat) : List (BitVec 5 × Nat) :=
  [(c, (g.nreg * sizeOf2 iw + ew - 1) / ew)]

/-- VLD; off is what REP adds to the address (R220). -/
def opVld (d : BitVec 5) (z : BitVec 2) (a p : BitVec 6) (disp : BitVec 16) (off : Word) : M Unit :=
  opVecLoad d p z (fun _ _ => []) (unitAddr a disp off)
def opVst (d : BitVec 5) (z : BitVec 2) (a p : BitVec 6) (disp : BitVec 16) (off : Word) : M Unit :=
  opVecStore d p z (fun _ _ => []) (unitAddr a disp off)
def opVlds (d : BitVec 5) (z : BitVec 2) (b a p : BitVec 6) (disp : BitVec 16) (off : Word) : M Unit :=
  opVecLoad d p z (fun _ _ => []) (strideAddr a b disp off)
def opVsts (d : BitVec 5) (z : BitVec 2) (b a p : BitVec 6) (disp : BitVec 16) (off : Word) : M Unit :=
  opVecStore d p z (fun _ _ => []) (strideAddr a b disp off)
def opVgath (d : BitVec 5) (z : BitVec 2) (a : BitVec 6) (ig : BitVec 1) (iw : BitVec 2) (p : BitVec 6) (c : BitVec 5)
    (disp : BitVec 16) (off : Word) : M Unit :=
  opVecLoad d p z (indexGroup iw c) (gatherAddr a ig iw c disp off)
def opVscat (d : BitVec 5) (z : BitVec 2) (a : BitVec 6) (ig : BitVec 1) (iw : BitVec 2) (p : BitVec 6) (c : BitVec 5)
    (disp : BitVec 16) (off : Word) : M Unit :=
  opVecStore d p z (indexGroup iw c) (gatherAddr a ig iw c disp off)

/-! ### Cache and range control (R157-R160) -/

/-- The first address of a range at which it leaves canonical space or wraps, if it does (R158). -/
def rangeBreak (a n : Nat) : Option Nat :=
  if 2 ^ 56 ≤ a ∧ a < 2 ^ 64 - 2 ^ 56 then some a
  else if a < 2 ^ 56 ∧ 2 ^ 56 < a + n then some (2 ^ 56)
  else if 2 ^ 64 < a + n then some 0
  else none

/-- Some part of a range, or its first address, lies in the local window. -/
def rangeInWindow (a n : Nat) : Bool := decide (Config.windowBase < max (a + n) (a + 1))

/-- The checks of R158 before its pages. -/
def needRange (cause : Nat) (a n : Word) : M Unit := do
  if a.toNat % 64 ≠ 0 ∨ n.toNat % 64 ≠ 0 then throw (.fault 0x04 a)
  match rangeBreak a.toNat n.toNat with
  | some v => throw (.page cause (BitVec.ofNat 64 v))
  | none => pure ()
  if rangeInWindow a.toNat n.toNat then throw (.fault 0x07 a)

/-- The pieces of a range by 64 KiB of virtual space: first address and bytes of each. -/
def rangePieces (a n : Nat) : Nat → List (Nat × Nat)
  | 0 => []
  | fuel + 1 =>
    if n = 0 then []
    else
      let k := min n (0x10000 - a % 0x10000)
      (a, k) :: rangePieces (a + k) (n - k) fuel

/-- The address of the page of a size that holds an address. -/
def pageAddr (a size : Nat) : Word := BitVec.ofNat 64 (a / size * size)

/-- The leaf of a piece of a range (R137, R138, R158): an absent page or one without the permission is reported by the page's address,
and a byte that reaches nothing by its own (R135). Swizzles move 16 bytes at a time (R140). The page of an absent leaf is the one of
64 KiB. (DESIGN CHOICE: notes/assumptions/74.md.) -/
def pieceLeaf (k : Access) (cause : Nat) (a n : Nat) : M TlbEntry := do
  let e ← leafOf (BitVec.ofNat 64 a) cause (pageAddr a 0x10000)
  onThread fun t => t.served (pageAddr a 0x10000)
  if !e.grants k then throw (.fault 0x07 (pageAddr a e.size))
  let m ← get
  match (List.range (n / 16)).find? fun i => (placeOf m.st m.part (e.pa (a + 16 * i))).isNone with
  | some i => throw (.fault 0x07 (BitVec.ofNat 64 (a + 16 * i)))
  | none => pure e

/-- The lines that a piece of a range translates to. -/
def pieceLines (e : TlbEntry) (a n : Nat) : List Nat :=
  ((List.range (n / 16)).map fun i => lineOf (e.pa (a + 16 * i))).dedup

/-- The lines of some pieces of a range, in rising order: the lowest faulting address decides (R138). -/
def piecesLines (k : Access) (cause : Nat) : List (Nat × Nat) → M (List Nat)
  | [] => pure []
  | (a, n) :: ps => do
    let e ← pieceLeaf k cause a n
    let r ← piecesLines k cause ps
    pure (pieceLines e a n ++ r)

/-- The lines of a range, after the checks of its pages. -/
def rangeLines (k : Access) (cause : Nat) (a n : Word) : M (List Nat) := do
  let ls ← piecesLines k cause (rangePieces a.toNat n.toNat (n.toNat / 0x10000 + 2))
  pure ls.dedup

/-- DISCARD (R158): alone, its lines dropped at its grant. The lines count as touched, for the scope of its request. -/
def opDiscard (b a : BitVec 6) : M Unit := do
  notArming
  standAlone
  let m ← get
  needRange 0x06 (m.ar.getX a) (m.ar.getX b)
  let ls ← rangeLines .store 0x06 (m.ar.getX a) (m.ar.getX b)
  if ls ≠ [] then
    onChunk fun c => { c with stores := c.stores ++ ls.map fun l => (0, l * 64, m.ar.getX a) }
    emit (.discard ls)

/-- CLEAN (R159). -/
def opClean (b a : BitVec 6) : M Unit := do
  notArming
  standAlone
  let m ← get
  needRange 0x05 (m.ar.getX a) (m.ar.getX b)
  let ls ← rangeLines .load 0x05 (m.ar.getX a) (m.ar.getX b)
  if ls ≠ [] then emit (.clean ls)

/-! ### Banks (R142-R149) -/

/-- The head in [15:0], the value of cause 0x17 (R365). -/
def Mach.headOnly (m : Mach) : Word := zextN m.th.headBits 16

/-- The line of a bank's control block that BANKQ reads (R147). -/
def bankLine (cluster b : Nat) : Loc := { pa := controlPa cluster b 0, place := .control b 0 }

/-- BANKCFG (R146): alone; its change comes with its commit. -/
def opBankcfg (d : BitVec 6) (z : BitVec 2) (a : BitVec 6) (bank : BitVec 4) : M Unit := do
  standAlone
  let m ← get
  let b := m.st.bank m.cluster bank.toNat
  need (m.sys || (decide (b.mode ≠ 0) && decide (b.owner = m.ar.guild))) 0x17 m.headOnly
  notArming
  needBlock 3 m.cluster
  noteRead (bankLine m.cluster bank.toNat)
  noteWrite (bankLine m.cluster bank.toNat)
  setX d b.status
  emit (.bank bank.toNat z.toNat ((m.ar.getX a).setWidth 16))

/-- BANKQ (R147): the status word as committed. (DESIGN CHOICE: notes/assumptions/57.md.) -/
def opBankq (d a : BitVec 6) : M Unit := do
  notArming
  let m ← get
  let b := (m.ar.getX a).toNat % 16
  needBlock 3 m.cluster
  noteRead (bankLine m.cluster b)
  setX d (m.st.bank m.cluster b).status

/-- A FIFO's entries after some operations. -/
def fifoAfter (b : Nat) (l : List Word) : List Effect → List Word
  | [] => l
  | .fifo c (.push w) :: es => fifoAfter b (if c = b then l ++ [w] else l) es
  | .fifo c .pop :: es => fifoAfter b (if c = b then l.tail else l) es
  | _ :: es => fifoAfter b l es

/-- The FIFO as the chunk sees it (R148). -/
def fifoView (m : Mach) (b : Nat) : List Word :=
  let before := (m.th.chunks.filter Chunk.ungranted).flatMap Chunk.effects
  fifoAfter b (m.st.bank m.cluster b).fifo (before ++ m.ch.effects)

/-- FIFO operations of a chunk. -/
def fifoCount (es : List Effect) : Nat := es.countP fun e => match e with
  | .fifo _ _ => true
  | _ => false

/-- The head and tail lines of a FIFO bank: the second and third line of its control block. -/
def fifoHead (cluster b : Nat) : Loc := { pa := controlPa cluster b 64, place := .control b 64 }
def fifoTail (cluster b : Nat) : Loc := { pa := controlPa cluster b 128, place := .control b 128 }

/-- The bank that a FIFO instruction names, with its checks (R143, R149), the 65th operation of a chunk beginning another
(R148), and its reads. -/
def fifoBank (a : BitVec 6) (disp : BitVec 16) : M Nat := do
  notArming
  let m ← get
  let va := memAddr m a disp
  let b := (va.toNat - Config.windowBase) / 2 ^ 16
  need (decide (Config.windowBase ≤ va.toNat) && decide (b < 16) && decide ((m.st.bank m.cluster b).mode = 2)
    && ownsBank m b) 0x07 va
  if 64 ≤ fifoCount m.ch.effects then throw .before
  needBlock 3 m.cluster
  noteRead (fifoHead m.cluster b)
  noteRead (fifoTail m.cluster b)
  pure b

/-- The entries that a FIFO holds at most. -/
def fifoSize : Nat := 8192

def opFpush (d b a : BitVec 6) (disp : BitVec 16) : M Unit := do
  let k ← fifoBank a disp
  let m ← get
  let full := decide (fifoSize ≤ (fifoView m k).length)
  noteWrite (fifoTail m.cluster k)
  emit (.fifo k (if full then .peek else .push (m.ar.getX b)))
  setX d (ofBool !full)

def opFpop (d b a : BitVec 6) (disp : BitVec 16) : M Unit := do
  let k ← fifoBank a disp
  let m ← get
  noteWrite (fifoHead m.cluster k)
  match fifoView m k with
  | [] =>
    emit (.fifo k .peek)
    setX d 0
    setX b 0
  | w :: _ =>
    emit (.fifo k .pop)
    setX d w
    setX b 1

def opFpeek (d b a : BitVec 6) (disp : BitVec 16) : M Unit := do
  let k ← fifoBank a disp
  let m ← get
  emit (.fifo k .peek)
  setX d ((fifoView m k).headD 0)
  setX b (BitVec.ofNat 64 (fifoView m k).length)

/-! ### Meanings -/

def execLd (d : BitVec 6) (g : BitVec 1) (z : BitVec 2) (a : BitVec 6) (disp : BitVec 16) (s : State) :=
  runHead s (opLd d g z a disp)
def execSt (z : BitVec 2) (b a : BitVec 6) (disp : BitVec 16) (s : State) := runHead s (opSt z b a disp)
def execLdx (d : BitVec 6) (g : BitVec 1) (z : BitVec 2) (b a : BitVec 6) (s : State) := runHead s (opLdx d g z b a)
def execStx (z : BitVec 2) (b a c : BitVec 6) (s : State) := runHead s (opStx z b a c)
def execLdp (d : BitVec 6) (g : BitVec 1) (z : BitVec 2) (a : BitVec 6) (disp : BitVec 16) (s : State) :=
  runHead s (opLdp d g z a disp)
def execStp (z : BitVec 2) (b a : BitVec 6) (disp : BitVec 16) (s : State) := runHead s (opStp z b a disp)
def execVld (d : BitVec 5) (z : BitVec 2) (a p : BitVec 6) (disp : BitVec 16) (s : State) := runHead s (opVld d z a p disp 0)
def execVst (d : BitVec 5) (z : BitVec 2) (a p : BitVec 6) (disp : BitVec 16) (s : State) := runHead s (opVst d z a p disp 0)
def execVlds (d : BitVec 5) (z : BitVec 2) (b a p : BitVec 6) (disp : BitVec 16) (s : State) :=
  runHead s (opVlds d z b a p disp 0)
def execVsts (d : BitVec 5) (z : BitVec 2) (b a p : BitVec 6) (disp : BitVec 16) (s : State) :=
  runHead s (opVsts d z b a p disp 0)
def execVgath (d : BitVec 5) (z : BitVec 2) (a : BitVec 6) (ig : BitVec 1) (iw : BitVec 2) (p : BitVec 6) (c : BitVec 5)
    (disp : BitVec 16) (s : State) := runHead s (opVgath d z a ig iw p c disp 0)
def execVscat (d : BitVec 5) (z : BitVec 2) (a : BitVec 6) (ig : BitVec 1) (iw : BitVec 2) (p : BitVec 6) (c : BitVec 5)
    (disp : BitVec 16) (s : State) := runHead s (opVscat d z a ig iw p c disp 0)
/-- PREF raises no fault, enters no signature and changes no state (R157). -/
def execPref (_z : BitVec 2) (_a : BitVec 6) (_disp : BitVec 16) (s : State) := runHead s notArming
def execDiscard (b a : BitVec 6) (s : State) := runHead s (opDiscard b a)
def execClean (b a : BitVec 6) (s : State) := runHead s (opClean b a)
def execBankcfg (d : BitVec 6) (z : BitVec 2) (a : BitVec 6) (bank : BitVec 4) (s : State) := runHead s (opBankcfg d z a bank)
def execBankq (d a : BitVec 6) (s : State) := runHead s (opBankq d a)
def execFpush (d b a : BitVec 6) (disp : BitVec 16) (s : State) := runHead s (opFpush d b a disp)
def execFpop (d b a : BitVec 6) (disp : BitVec 16) (s : State) := runHead s (opFpop d b a disp)
def execFpeek (d b a : BitVec 6) (disp : BitVec 16) (s : State) := runHead s (opFpeek d b a disp)
/-- HSYNC ends its chunk as the last instruction (R160). -/
def execHsync (s : State) := runHead s (do notArming; endWith .hsync)

end Sys2Proof.Machine
end

