-- ==== Sys2Proof/Machine/Atomics.lean ====
section
/-!
DEFINITION. Sys2Proof/Machine/Atomics.lean: opcodes 0x70-0x7D: far atomics, value-returning atomics, semaphores and guards
(R168-R182).
-/

namespace Sys2Proof.Machine

/-! ### Far atomics (R168-R173) -/

/-- The bytes of a far atomic's or an atomic's word: size code 2 or 3. -/
def atomSize (z : BitVec 1) : Nat := if z = 0 then 4 else 8

/-- A destination of R170: HBM, scratch, or beyond the edge for the operations that the links carry there. -/
def atomPlaceOk (pl : Place) (edge : Bool) : Bool :=
  match pl with
  | .hbm => true
  | .scratch _ => true
  | .control _ _ => false
  | .bench _ _ => false
  | _ => edge

/-- The place of an atomic's word, with the destinations of R170. -/
def locateAtom (k : Access) (va : Word) (edge : Bool) : M Loc := do
  let l ← locate k va
  if atomPlaceOk l.place edge then pure l else throw (.fault 0x07 va)

/-- A line enters the atomic part of the write signature (R172), its core becoming a holder (R110). -/
def noteAtomic (l : Loc) : M Unit := do
  let m ← get
  if !l.place.beyond then
    needScope (lineOf l.pa)
    onState fun s => s.register m.core (lineOf l.pa)
  onChunk fun c => { c with asig := c.asig ||| sigOf (sigLine m.part l.pa),
                            lines := if c.lines.contains (lineOf l.pa) then c.lines else c.lines ++ [lineOf l.pa],
                            window := c.window || decide (regionOf l.pa = 0x1F) }

/-- Two far atomics of one chunk on one word combine (R173): the same word, size, operation and signedness, AFADD never. -/
def Far.combines (f g : Far) : Bool :=
  decide (f.pa = g.pa) && decide (f.n = g.n) && decide (f.op = g.op) && decide (f.op ≠ .fadd)

/-- The operand of two combined (R173): each operation is associative. -/
def Far.combine (f g : Far) : Far := { f with v := BitVec.ofNat 64 (farInt f.op f.n f.v.toNat g.v.toNat) }

/-- A far atomic into the list of those pending: combined with one on its word, or behind them. -/
def farPut (g : Far) : List Far → List Far
  | [] => [g]
  | f :: fs => if f.combines g then f.combine g :: fs else f :: farPut g fs

/-- A far atomic held by its chunk (R171, R173). -/
def opFar (op : FarOp) (n : Nat) (b a : BitVec 6) (disp : BitVec 16) : M Unit := do
  notArming
  let m ← get
  let va := memAddr m a disp
  faultIf (decide (op = .fadd) && m.ar.det) 0x08 0
  needAligned va n
  let l ← locateAtom .store va (decide (op = .add) || decide (op = .post))
  let g : Far := { pa := l.pa, n, op, v := BitVec.ofNat 64 ((m.ar.getX b).toNat % 2 ^ (8 * n)), va }
  if !(m.ch.fars.filter fun f => f.meets l.pa n).all fun f => f.combines g then
    waitFars l.pa n
    foldFars l n
  holdLine va (lineOf l.pa)
  noteAtomic l
  modify fun m => { m with ch := { m.ch with
    fars := farPut g m.ch.fars, stores := m.ch.stores ++ [(m.ch.count, l.pa, va)] } }

/-! ### Value-returning atomics (R175-R177) -/

/-- XADD, XCHG and CAS: alone, performed at the home at the grant; X[D] comes with the acknowledgement. -/
def opAtomic (d : BitVec 6) (n : Nat) (va : Mach → Word) (op : Mach → AtomOp) : M Unit := do
  notArming
  standAlone
  let m ← get
  faultIf m.ar.det 0x08 0
  needAligned (va m) n
  let l ← locateAtom .store (va m) true
  noteRead l
  noteWrite l
  onChunk fun c => { c with atom := some { pa := l.pa, va := va m, n, op := op m, d },
                            stores := c.stores ++ [(c.count, l.pa, va m)] }

/-- The low n bytes of a register. -/
def lowBytes (m : Mach) (r : BitVec 6) (n : Nat) : Word := BitVec.ofNat 64 ((m.ar.getX r).toNat % 2 ^ (8 * n))

/-! ### SWAIT (R179) -/

/-- SWAIT.ge takes WAITA's place in every rule that names it. -/
def opSwait (d : BitVec 6) (z : BitVec 1) (b a : BitVec 6) (disp : BitVec 16) : M Unit := do
  notArming
  standAlone
  let m ← get
  let n := atomSize z
  let va := memAddr m a disp
  let c := lowBytes m b n
  needAligned va n
  let l ← locate .load va
  let v := ofBytes (← readAt l va n)
  let m ← get
  if c.toNat ≤ v then
    setX d (BitVec.ofNat 64 v)
    endWith .waita
  else
    throw (.sleep (.watch { va, pa := l.pa, n, cond := 2, c, d, take := false, polls := l.place.beyond,
                            due := m.st.time + pollCycles } false))

/-- SWAIT.take: a value-returning atomic that takes c from the word. -/
def opSwaitTake (d : BitVec 6) (z : BitVec 1) (b a : BitVec 6) (disp : BitVec 16) : M Unit := do
  notArming
  standAlone
  let m ← get
  let n := atomSize z
  let va := memAddr m a disp
  let c := lowBytes m b n
  faultIf m.ar.det 0x08 0
  needAligned va n
  let l ← locateAtom .update va false
  let v := ofBytes (← readAt l va n)
  let m ← get
  if c.toNat ≤ v then
    noteWrite l
    onChunk fun ch => { ch with atom := some { pa := l.pa, va, n, op := .take c, d },
                                stores := ch.stores ++ [(ch.count, l.pa, va)] }
    endWith .waita
  else
    throw (.sleep (.watch { va, pa := l.pa, n, cond := 2, c, d, take := true, polls := false,
                            due := m.st.time + pollCycles } false))

/-! ### Guards (R180, R181) -/

/-- The control line of a partition's guard table, of package scope; the manual gives it no address, and region 0x1E is
empty. -/
def guardTablePa (p : Nat) : Nat := 0x1E * 2 ^ 52 + 64 * p

/-- The guard table's line enters a signature, its scope the package's. (DESIGN CHOICE: notes/assumptions/28.md.) -/
def noteGuardTable (write : Bool) : M Unit := do
  let m ← get
  let pa := guardTablePa m.part
  onState fun s =>
    let d : Dir := assocGetD (lineOf pa) ⟨[], 2, []⟩ s.dir
    { s with dir := assocSet (lineOf pa) { d with holders := (d.holders ++ [m.core]).dedup, scope := 2 } s.dir }
  onChunk fun c => { c with rsig := c.rsig ||| sigOf (lineOf pa), wsig := if write then c.wsig ||| sigOf (lineOf pa) else c.wsig,
                            lines := if c.lines.contains (lineOf pa) then c.lines else c.lines ++ [lineOf pa] }

/-- The byte at a physical address belongs to a guard: every swizzle is its own inverse. -/
def Guard.has (g : Guard) (pa : Nat) : Bool :=
  decide (g.base ≤ swizzle g.swz pa) && decide (swizzle g.swz pa < g.base + g.len)

/-- Two guards overlap: some granule of 16 bytes of the one belongs to the other. -/
def Guard.meets (g h : Guard) : Bool := (List.range (g.len / 16)).any fun i => h.has (swizzle g.swz (g.base + 16 * i))

/-- Two guards have the same set of bytes. -/
def Guard.same (g h : Guard) : Bool :=
  decide (g.len = h.len) && (List.range (g.len / 16)).all fun i => h.has (swizzle g.swz (g.base + 16 * i))

/-- Some byte of a line is guarded. -/
def Guard.hasLine (g : Guard) (line : Nat) : Bool := (List.range 4).any fun i => g.has (line * 64 + 16 * i)

/-- A list of guards without the first of a crew that has the same bytes as another. -/
def guardDrop (g : Guard) : List Guard → List Guard
  | [] => []
  | h :: l => if h.crew = g.crew ∧ h.same g then l else h :: guardDrop g l

/-- The guard table after some effects of a chunk. -/
def guardsAfter (l : List Guard) : List Effect → List Guard
  | [] => l
  | .guardAdd g :: es => guardsAfter (l ++ [g]) es
  | .guardDel g :: es => guardsAfter (guardDrop g l) es
  | _ :: es => guardsAfter l es

/-- The checks of R180 and the guard that a range stands for. -/
def guardRange (b a : BitVec 6) : M Guard := do
  notArming
  let m ← get
  let x := m.ar.getX a
  let n := m.ar.getX b
  faultIf (!m.ar.det) 0x08 0
  if x.toNat % 64 ≠ 0 ∨ n.toNat % 64 ≠ 0 ∨ n = 0 then throw (.fault 0x04 x)
  if (rangeBreak x.toNat n.toNat).isSome || rangeInWindow x.toNat n.toNat then throw (.fault 0x07 x)
  let ps := rangePieces x.toNat n.toNat (n.toNat / 0x10000 + 2)
  let es ← leavesAt x ps
  match es with
  | [] => throw (.fault 0x07 x)
  | e :: _ =>
    let v := x.toNat % 2 ^ 57
    if v + n.toNat ≤ e.va + e.size ∧ e.w ∧ regionOf (e.pa v) = 0 then
      pure { crew := m.th.crew, base := e.frame + v % e.size, swz := e.swz, len := n.toNat }
    else throw (.fault 0x07 x)
where
  /-- The leaves of a range's pieces; an absent page is reported with the base of the range. -/
  leavesAt (x : Word) : List (Nat × Nat) → M (List TlbEntry)
    | [] => pure []
    | (a, _) :: ps => do
      let e ← leafOf (BitVec.ofNat 64 a) 0x06 x
      let r ← leavesAt x ps
      pure (e :: r)

/-- Guards that a partition's table holds, and that one crew holds (R180). -/
def guardMax : Nat := 256
def guardCrewMax : Nat := 16

/-- The guard table as the chunk sees it. -/
def guardView (m : Mach) : List Guard :=
  let before := (m.th.chunks.filter Chunk.ungranted).flatMap Chunk.effects
  guardsAfter (m.st.part m.part).guards (before ++ m.ch.effects)

/-- DGUARD (R180): 1 where the guard is recorded, 0 where there is no room, 2 where it overlaps another crew's; 0 where both hold.
(DESIGN CHOICE: notes/assumptions/58.md.) -/
def opDguard (d b a : BitVec 6) : M Unit := do
  let g ← guardRange b a
  let m ← get
  let l := guardView m
  let st : Nat :=
    if guardMax ≤ l.length || guardCrewMax ≤ (l.filter fun h => h.crew = g.crew).length then 0
    else if l.any fun h => h.crew ≠ g.crew && g.meets h then 2 else 1
  noteGuardTable (decide (st = 1))
  if st = 1 then emit (.guardAdd g)
  setX d (BitVec.ofNat 64 st)

/-- DGEND (R181). -/
def opDgend (b a : BitVec 6) : M Unit := do
  let g ← guardRange b a
  noteGuardTable true
  emit (.guardDel g)

/-! ### Meanings -/

def execAadd (z : BitVec 1) (b a : BitVec 6) (disp : BitVec 16) (s : State) := runHead s (opFar .add (atomSize z) b a disp)
def execAand (z : BitVec 1) (b a : BitVec 6) (disp : BitVec 16) (s : State) := runHead s (opFar .and (atomSize z) b a disp)
def execAor (z : BitVec 1) (b a : BitVec 6) (disp : BitVec 16) (s : State) := runHead s (opFar .or (atomSize z) b a disp)
def execAxor (z : BitVec 1) (b a : BitVec 6) (disp : BitVec 16) (s : State) := runHead s (opFar .xor (atomSize z) b a disp)
def execAmin (g z : BitVec 1) (b a : BitVec 6) (disp : BitVec 16) (s : State) :=
  runHead s (opFar (if g = 1 then .minS else .minU) (atomSize z) b a disp)
def execAmax (g z : BitVec 1) (b a : BitVec 6) (disp : BitVec 16) (s : State) :=
  runHead s (opFar (if g = 1 then .maxS else .maxU) (atomSize z) b a disp)
def execAfadd (z : BitVec 1) (b a : BitVec 6) (disp : BitVec 16) (s : State) := runHead s (opFar .fadd (atomSize z) b a disp)
/-- SPOST: the far add with the release rule of R178. -/
def execSpost (z : BitVec 1) (b a : BitVec 6) (disp : BitVec 16) (s : State) := runHead s (opFar .post (atomSize z) b a disp)
def execXadd (d : BitVec 6) (z : BitVec 1) (b a : BitVec 6) (disp : BitVec 16) (s : State) :=
  runHead s (opAtomic d (atomSize z) (fun m => memAddr m a disp) fun m => .add (lowBytes m b (atomSize z)))
def execXchg (d : BitVec 6) (z : BitVec 1) (b a : BitVec 6) (disp : BitVec 16) (s : State) :=
  runHead s (opAtomic d (atomSize z) (fun m => memAddr m a disp) fun m => .swap (lowBytes m b (atomSize z)))
def execCas (d : BitVec 6) (z : BitVec 1) (b a c : BitVec 6) (disp : BitVec 16) (s : State) :=
  runHead s (opAtomic d (atomSize z) (fun m => memAddr m a disp) fun m =>
    .cas (lowBytes m b (atomSize z)) (lowBytes m c (atomSize z)))
def execSwait (d : BitVec 6) (z : BitVec 1) (b a : BitVec 6) (disp : BitVec 16) (s : State) := runHead s (opSwait d z b a disp)
def execSwaitTake (d : BitVec 6) (z : BitVec 1) (b a : BitVec 6) (disp : BitVec 16) (s : State) :=
  runHead s (opSwaitTake d z b a disp)
def execDguard (d b a : BitVec 6) (s : State) := runHead s (opDguard d b a)
def execDgend (b a : BitVec 6) (s : State) := runHead s (opDgend b a)

end Sys2Proof.Machine
end

