-- ==== Sys2Proof/Machine/Strings.lean ====
section
/-!
DEFINITION. Sys2Proof/Machine/Strings.lean: frets, strings and hops, the slot records of a tablature, and the strings that exchange
phases take (R294, R333-R335, R347, R350). A fret of the module is 137 die + n.
-/

namespace Sys2Proof.Machine

/-! ### Strings (R333-R335) -/

/-- Strings of R334. -/
def stringCount : Nat := 36
/-- Frets that a package string passes. -/
def packageFrets : Nat := 1096

/-- The multipliers K of the long strings (R334). -/
def stringMul (j : Nat) : Nat := [1, 12, 37, 60].getD (j % 4) 1

/-- The order σ of the dies on the package strings (R334). -/
def dieOrder (d : Nat) : Nat := [0, 1, 2, 3, 7, 6, 5, 4].getD d 0

/-- The slice on its side beside row or column w, which is not 4 or 9 (R333). -/
def besideSlice (w : Nat) : Nat := if w < 4 then w else w - 1

/-- The slices at the end of row or column w: of the side it visits first, then of the other (R334). -/
def endSlices (first other w : Nat) : List Nat :=
  if w = 4 ∨ w = 9 then [] else [100 + first + besideSlice w, 100 + other + besideSlice w]

/-- The frets of a row or column string in the order visited (R334): slices 0-7 lie west, 8-15 east, 16-23 north, 24-31 south. -/
def lineFrets (k : Nat) : List Nat :=
  if k < 18 then (List.range 10).map (fun i => 10 * (k - 8) + i) ++ endSlices 8 0 (k - 8)
  else (List.range 10).map (fun i => k - 18 + 10 * i) ++ endSlices 24 16 (k - 18)

/-- The number of frets that a string passes (R335). -/
def stringLen (k : Nat) : Nat :=
  if k < 8 then dieFrets
  else if k < 28 then (lineFrets k).length
  else packageFrets

/-- The position of fret n of a die in the increasing order of a string, where the string passes it (R334). -/
def stringPos (k d n : Nat) : Option Nat :=
  if k < 8 then some (stringMul k * n % dieFrets)
  else if k < 28 then (lineFrets k).idxOf? n
  else some (dieFrets * dieOrder d + stringMul k * n % dieFrets)

/-- A string visits its frets in decreasing order (R334). -/
def stringDown (k : Nat) : Bool := (decide (4 ≤ k) && decide (k < 8)) || decide (32 ≤ k)

/-- String k of a die, or package string k, passes a fret of the module (R334). -/
def stringPasses (k die p : Nat) : Bool :=
  (decide (28 ≤ k) || decide (p / dieFrets = die)) && (stringPos k (p / dieFrets) (p % dieFrets)).isSome

/-- The hop count from one fret of the module to another on a string, where it passes both (R335). -/
def hops (k p q : Nat) : Option Nat :=
  if stringPasses k (p / dieFrets) p && stringPasses k (p / dieFrets) q then
    match stringPos k (p / dieFrets) (p % dieFrets), stringPos k (q / dieFrets) (q % dieFrets) with
    | some a, some b =>
      some (if stringDown k then (a + stringLen k - b) % stringLen k else (b + stringLen k - a) % stringLen k)
    | _, _ => none
  else none

/-- Of two strings with their hop counts, the one with the fewer hops, or of as many the lower (R335). -/
def fewerHops (a b : Option (Nat × Nat)) : Option (Nat × Nat) :=
  match a, b with
  | none, b => b
  | a, none => a
  | some x, some y => if y.2 < x.2 then some y else some x

/-- The string that a packet from one fret to another takes among those that may be used, and its hop count (R335). -/
def bestString (free : Nat → Bool) (p q : Nat) : Option (Nat × Nat) :=
  ((List.range stringCount).map fun k => if free k then (hops k p q).map fun h => (k, h) else none).foldl fewerHops none

/-- The slice of node (l, m) of the reduction tree of a block (R294). -/
def nodeSlice (block l m : Nat) : Nat := (sliceOf (lineOf block) + 5 * l + m) % 32

/-! ### Tablatures (R347) -/

/-- A slot record. -/
structure Slot where
  str : Nat
  start : Nat
  n : Nat
  m : Nat
  own : Nat
deriving DecidableEq, Repr

/-- Byte i of a line. -/
def lineByte (l : Line) (i : Nat) : Nat := l.toNat / 2 ^ (8 * i) % 256
/-- Bytes [i, i + n) of a line as a number. -/
def lineField (l : Line) (i n : Nat) : Nat := l.toNat / 2 ^ (8 * i) % 2 ^ (8 * n)

/-- A record from its dword. -/
def slotOfWord (w : Word) : Slot := ⟨field w 58 6, field w 42 16, field w 34 8 + 1, field w 28 6 + 1, field w 0 19⟩

/-- Record r of a tablature, numbered 7 l + i. -/
def slotAt (tab : List Line) (r : Nat) : Slot := slotOfWord (BitVec.ofNat 64 (lineField (tab.getD (r / 7) 0) (8 + 8 * (r % 7)) 8))

/-- Records that a tablature holds. -/
def slotCount (tab : List Line) : Nat := 7 * (tab.length - 1) + lineHeads (tab.getLastD 0)

/-- The records of a tablature. -/
def slots (tab : List Line) : List Slot := (List.range (slotCount tab)).map (slotAt tab)

/-- The die of a member. -/
def Crew.memberDie (w : Crew) (l : Nat) : Nat := ((assocGet? l w.members).map fun t => dieOf (coreOf t)).getD 0

/-- The strings that a record names, each with the die whose string it is; 0 for a package string (R347). -/
def Slot.strings (x : Slot) (w : Crew) : List (Nat × Nat) :=
  if 28 ≤ x.str then [(x.str, 0)] else ((List.range x.m).map fun j => (x.str, w.memberDie (x.own + j))).dedup

/-- The strings that a tablature of a crew names. -/
def tabStrings (w : Crew) (tab : List Line) : List (Nat × Nat) := ((slots tab).flatMap fun x => x.strings w).dedup

/-! ### Phases (R350) -/

/-- Two crews' phases need a common string. -/
def stringsMeet (w v : Crew) (a b : List Line) : Bool := (tabStrings w a).any fun k => (tabStrings v b).contains k

/-- A string of a die, or a package string, takes no class traffic: a phase names it whose start join has released (R350). -/
def State.closed (s : State) (k die : Nat) : Bool :=
  s.crews.any fun e => e.2.phases.any fun p => (tabStrings e.2 p.tab).contains (k, if 28 ≤ k then 0 else die)

/-- Packets that ride strings which a phase takes go to the transit buffers of their destinations (R350). -/
def State.clearStrings (s : State) : State :=
  { s with net := s.net.map fun e => match e.2.ride with
      | .riding k n => if s.closed k (e.2.src / dieFrets) then (e.1, { e.2 with ride := .transit n }) else e
      | _ => e }

end Sys2Proof.Machine
end

