-- ==== Sys2Proof/Machine/Commit.lean ====
section
/-!
DEFINITION. Sys2Proof/Machine/Commit.lean: what every commit does, whatever its source (R26, R28, R110, R114, R115, R126,
R161, R165, R182).
-/

namespace Sys2Proof.Machine

/-! ### Message classes (R336) -/

def clsCommit : Nat := 1
def clsSteal : Nat := 2
def clsProbe : Nat := 3
def clsReply : Nat := 4
def clsBulk : Nat := 5

/-! ### Committed bytes -/

/-- A register of a control block that a commit writes whole, at its first byte; the other bytes go with it (R144). -/
def State.putControl (s : State) (cells : List Host.Cell) (pa : Nat) : State :=
  if pa % 8 = 0 then
    let cl := scratchCluster pa
    let b := pa / 2 ^ 16 % 16
    let v := BitVec.ofNat 64 (ofBytes ((List.range 8).map fun i => assocGetD (pa + i) 0 cells))
    s.setBank cl b ((s.bank cl b).setControl (pa % 2 ^ 16) v)
  else s

/-- One byte of a commit; a line of HBM notes its image before its first change (R158). -/
def State.putCell (s : State) (cells : List Host.Cell) (c : Host.Cell) : State :=
  if isControl c.1 then s.putControl cells c.1 else (s.noteDirty (lineOf c.1)).writeByte c.1 c.2

/-- The bytes of a commit inside the package. -/
def State.putCells (s : State) (cells : List Host.Cell) : State := cells.foldl (fun s c => s.putCell cells c) s

/-- A granted chunk's bytes that another commit has written since are its thread's next chunk's view no longer (R5, R103, R131). -/
def Thread.outdated (t : Thread) (addrs : List Nat) : Thread :=
  { t with chunks := t.chunks.map fun c => if c.ungranted then c else { c with buf := c.buf.filter fun x => !addrs.contains x.1 } }

/-- Every thread but one sees some bytes as committed from then on. -/
def State.outdateOthers (s : State) (own : Option Nat) (addrs : List Nat) : State :=
  { s with threads := s.threads.map fun e => if own = some e.1 then e else (e.1, e.2.outdated addrs) }

/-- The bytes of a commit of another source than a thread's chunk, inside the package. -/
def State.perform (s : State) (cells : List Host.Cell) : State := (s.putCells cells).outdateOthers none (cells.map Prod.fst)

/-- A store of a commit to a bank, or to a register of its control block, in program order (R144). (DEDUCED:
notes/assumptions/68.md.) -/
def State.putBanked (s : State) (x : Nat × List Byte) : State :=
  if isControl x.1 then
    s.setBank (scratchCluster x.1) (x.1 / 2 ^ 16 % 16)
      ((s.bank (scratchCluster x.1) (x.1 / 2 ^ 16 % 16)).setControl (x.1 % 2 ^ 16) (BitVec.ofNat 64 (ofBytes x.2)))
  else s.writeRun x.1 x.2

/-- A run of bytes committed by another source. -/
def runCells (pa : Nat) (bs : List Byte) : List Host.Cell := bs.zipIdx.map fun e => (pa + e.2, e.1)

/-- The distinct lines of some bytes, in rising order of the bytes. -/
def cellLines (cells : List Host.Cell) : List Nat := (cells.map fun c => lineOf c.1).dedup

/-- The signature of some lines in a partition. -/
def sigOfLines (p : Nat) (lines : List Nat) : Sig := lines.foldl (fun g l => g ||| sigOf (sigLine p (l * 64))) 0

/-! ### The commit number and its delivery (R26, R114) -/

/-- The cores registered as holders of some lines (R110). -/
def State.holdersOf (s : State) (lines : List Nat) : List Nat :=
  (lines.flatMap fun l => ((assocGet? l s.dir).map Dir.holders).getD []).dedup

/-- The slices of some written lines send probes to the other cores whose L1 holds them, or has a fill of them on its way (R339). -/
def State.sendProbes (s : State) (writer : Option Nat) (lines : List Nat) : State :=
  lines.foldl (fun s l =>
    let hs := (((assocGet? l s.dir).map Dir.holders).getD []).filter fun k => decide (some k ≠ writer) &&
      ((s.core k).l1.any (fun x => decide (x.line = l)) || (s.core k).fills.any fun f => decide (f.line = l) && f.seq.isSome)
    hs.foldl (fun s k =>
      let q := assocGetD (seqKey k l) 0 s.seqs
      { s with seqs := assocSet (seqKey k l) (q + 1) s.seqs }.send clsProbe (lineFret l) (coreFret k) k (.probe l q)) s) s

/-- A commit that writes a line ends the reservations that bench cores hold on it (R399). -/
def State.breakReservations (s : State) (lines : List Nat) : State :=
  { s with benches := s.benches.map fun e =>
      if lines.any fun l => decide (e.2.resv = some (true, l)) then (e.1, { e.2 with resv := none }) else e }

/-- The widest scope among some lines (R112). -/
def State.widest (s : State) (lines : List Nat) : Nat :=
  (lines.map fun l => ((assocGet? l s.dir).map Dir.scope).getD 0).foldl max 0

/-- The fret that sends a commit's signature: of the arbiter that granted a thread's chunk, else of the home of its first line.
(DESIGN CHOICE: notes/assumptions/47.md.) -/
def State.sigFret (s : State) (tid : Option Nat) (lines : List Nat) : Nat :=
  match tid, s.widest lines with
  | some t, 0 => coreFret (coreOf t)
  | some t, 1 => arbiterFret (dieOf (coreOf t))
  | some _, _ => arbiterFret 0
  | none, _ => (lines.head?.map lineFret).getD (arbiterFret 0)

/-- What a numbered commit wrote is sent as its signature to every holder of the lines (R114 step 1). What the commit of a thread
still waits for is kept until its acknowledgement. -/
def State.announce (s : State) (p no : Nat) (tid : Option Nat) (sig : Sig) (lines : List Nat) (fars msgs acks : Nat) : State :=
  let s := s.breakReservations lines
  let cores := s.holdersOf lines
  let s := if tid.isSome || !cores.isEmpty then
      { s with commits := s.commits ++ [{ part := p, no, tid, sig, lines, cores, fars, msgs, acks }] }
    else s
  (cores.foldl (fun s core => s.send clsCommit (s.sigFret tid lines) (coreFret core) core (.sig p no)) s).sendProbes
    (tid.map coreOf) lines

/-- A commit takes the next number of its partition (R26). -/
def State.newCommit (s : State) (p : Nat) (tid : Option Nat) (sig : Sig) (lines : List Nat) (fars msgs acks : Nat) : State :=
  let no := (s.part p).commitNo + 1
  (s.setPart p { s.part p with commitNo := no }).announce p no tid sig lines fars msgs acks

/-! ### Released far atomics (R126, R162, R171, R178, R179) -/

/-- Everything that an SPOST waits for of its thread is done: its engine commands and its drains (R178, R264). -/
def State.postReady (s : State) (tid : Nat) : Bool :=
  let c := s.core (coreOf tid)
  !(c.engine.any fun e => decide (e.cmd.tid = tid)) && !(c.drains.any fun d => decide (d.tid = tid) && d.committed)

/-- A released far atomic may be applied: an SPOST once its thread's commands are done (R178). -/
def State.farReady (s : State) (f : FarPending) : Bool := decide (f.far.op ≠ .post) || s.postReady f.tid

/-- The threads that sleep on a word in a core are woken (R126, R179). -/
def State.wakeWord (s : State) (p pa : Nat) : State :=
  { s with threads := s.threads.map fun e =>
      match e.2.run with
      | .watch w false => if crewPart e.2.crew = p ∧ lineOf w.pa = lineOf pa then (e.1, { e.2 with run := .watch w true }) else e
      | _ => e }

/-- A home applies a released far atomic to its word (R169, R171). -/
def State.performFar (s : State) (i : Nat) (f : FarPending) : State :=
  let w := s.readVal f.far.pa f.far.n
  let cells := runCells f.far.pa (bytesOf f.far.n (farResult f.far.op f.far.n w f.far.v.toNat))
  let count := fun c : Commit => if c.part = f.part ∧ c.no = f.no ∧ c.tid.isSome then { c with fars := c.fars - 1 } else c
  let s : State := { s with fars := s.fars.eraseIdx i, commits := s.commits.map count }
  let s := (s.perform cells).breakReservations [lineOf f.far.pa]
  (if f.far.op = .post then s.announce f.part f.no none (sigOfLines f.part [lineOf f.far.pa]) [lineOf f.far.pa] 0 0 0
   else s).wakeWord f.part f.far.pa

/-- The far atomic at a place comes before every other on its word: those of lower commits, and of its own chunk those before it
(R171). -/
def State.farFirst (s : State) (i : Nat) (f : FarPending) : Bool :=
  s.fars.zipIdx.all fun g => decide (g.1.part ≠ f.part) || !(g.1.far.meets f.far.pa f.far.n) ||
    decide (f.no < g.1.no) || (decide (f.no = g.1.no) && decide (i ≤ g.2))

/-- A far atomic lies in a dword of some. -/
def FarPending.on (f : FarPending) (dwords : List Nat) : Bool := dwords.contains (f.far.pa / 8)

/-- The far atomics released for some dwords are applied, in their order, before what a later commit does to them (R116, R171). An
SPOST that has to wait holds those behind it. -/
def State.settle (s : State) (dwords : List Nat) : Nat → State
  | 0 => s
  | n + 1 =>
    match s.fars.zipIdx.find? fun g => g.1.on dwords && s.farFirst g.2 g.1 && s.farReady g.1 with
    | some g => (s.performFar g.2 g.1).settle dwords n
    | none => s

/-- The dwords of a run of bytes, and of some bytes. -/
def runDwords (pa n : Nat) : List Nat := (List.range ((pa % 8 + n + 7) / 8)).map fun i => pa / 8 + i
def cellDwords (cells : List Host.Cell) : List Nat := (cells.map fun c => c.1 / 8).dedup

/-- The far atomics released for some dwords applied. -/
def State.settled (s : State) (dwords : List Nat) : State := if s.fars = [] then s else s.settle dwords s.fars.length

/-- A released SPOST on one of some dwords still waits for its thread's commands: what a later commit or a read of another numbered
source does there waits with it, but for those commands themselves (R162, R171, R178). (DEDUCED: notes/assumptions/65.md.) -/
def State.postHeld (s : State) (own : Option Nat) (dwords : List Nat) : Bool :=
  s.fars.any fun f => f.on dwords && !s.farReady f && decide (own ≠ some f.tid)

/-- Every far atomic that may be is applied. -/
def State.settleAll (s : State) : State := s.settled (s.fars.map fun f => f.far.pa / 8)

/-- A committed value as of every commit numbered so far (R162). -/
def State.settledVal (s : State) (pa n : Nat) : Nat := (s.settled (runDwords pa n)).readVal pa n

/-- Some of the lines are held by the host (R424). -/
def State.hostHolds (s : State) (lines : List Nat) : Bool := lines.any fun l => s.hostHeld.contains l

/-- The host is asked to give up lines before they are written, where it holds them (R424). (DESIGN CHOICE: notes/assumptions/70.md.) -/
def State.askFirst (s : State) (p : Nat) (lines : List Nat) : State :=
  let new := lines.filter fun l => s.hostHeld.contains l && !(s.backInv.any fun b => decide (b.1 = l))
  { s with backInv := s.backInv ++ new.map fun l => (l, p, 0) }

/-- The host has still to answer for a commit's lines (R424). -/
def State.hostOwes (s : State) (p no : Nat) : Bool := s.backInv.any fun b => decide (b.2.1 = p) && decide (b.2.2 = no)

/-- Under HDM-DB a commit that writes a line the host holds is acknowledged once the host has answered (R424). -/
def State.askHost (s : State) (p : Nat) (lines : List Nat) : State :=
  let held := lines.filter fun l => s.hostHeld.contains l
  { s with backInv := s.backInv ++ held.map fun l => (l, p, (s.part p).commitNo) }

/-- A commit of another source than a thread's chunk: an engine chunk, a bench commit, an edge commit, an exchange chunk or a
foreman commit (R161). -/
def State.commitCells (s : State) (p : Nat) (cells : List Host.Cell) : State :=
  let lines := cellLines cells
  (((s.settled (cellDwords cells)).perform cells).newCommit p none (sigOfLines p lines) lines 0 0 0).askHost p lines

/-- Bytes that are an effect of a numbered commit and take no number of their own (R161). -/
def State.effectCells (s : State) (p no : Nat) (cells : List Host.Cell) : State :=
  ((s.settled (cellDwords cells)).perform cells).announce p no none (sigOfLines p (cellLines cells)) (cellLines cells) 0 0 0

/-- The number just given to one of a crew's engine chunks, drains or exchange chunks (R383). -/
def State.noteNo (s : State) (crew : Nat) : State :=
  match s.crew crew with
  | some w => s.setCrew crew { w with lastNo := (s.part (crewPart crew)).commitNo }
  | none => s

/-- A dword committed by the foreman or a link (R161). -/
def State.commitWord (s : State) (p pa : Nat) (v : Word) : State := s.commitCells p (runCells pa (bytesOf 8 v.toNat))

/-! ### Aged chunks (R117) -/

/-- The chunk of a thread that has asked for its grant. -/
def Thread.waiting (t : Thread) : Option Chunk := t.chunks.find? fun c => decide (c.stage = .requested)

/-- A chunk squashed 8 times. -/
def Chunk.aged (c : Chunk) : Bool := decide (8 ≤ c.squashed)

/-- Everything a chunk has touched. -/
def Chunk.touched (c : Chunk) : Sig := c.rsig ||| c.wsig ||| c.asig

/-- The write signature as others see it (R172). -/
def Chunk.writes (c : Chunk) : Sig := c.wsig ||| c.asig

/-- A thread's aged chunk gives way to another thread of its own deterministic crew, whose turn comes first (R119).
(DEDUCED: notes/assumptions/67.md.) -/
def State.givesWay (s : State) (t : Thread) (own : Option Nat) : Bool :=
  t.arch.det && (own.bind s.thread).any fun u => decide (u.crew = t.crew)

/-- An aged chunk of the partition born before a time awaits its grant, or is still to ask for it, and meets the write signature of a
younger chunk (R117, R118). (DEDUCED: notes/assumptions/67.md.) -/
def State.agedMeets (s : State) (p born tid : Nat) (sig : Sig) : Bool :=
  s.threads.any fun e => decide (crewPart e.2.crew = p) && decide (e.1 ≠ tid) && !s.givesWay e.2 (some tid) &&
    e.2.chunks.any fun c => c.ungranted && c.aged && decide (c.born < born) && sigMeet sig c.touched

/-- The lines that an effect of a commit reads or changes whole (R158, R159). -/
def Effect.wholeLines (e : Effect) : List Nat :=
  match e with
  | .discard ls => ls
  | .clean ls => ls
  | _ => []

/-- A change of a bank's mode or owner (R146). -/
def Effect.isBank (e : Effect) : Bool :=
  match e with
  | .bank _ _ _ => true
  | _ => false

/-- The dwords that a chunk's commit writes, or reads for a value-returning atomic, or whose lines it discards or cleans, or whose bank
it configures. -/
def Chunk.dwords (c : Chunk) : List Nat :=
  cellDwords c.buf ++ (c.atom.map fun a => runDwords a.pa a.n).getD [] ++
    (c.effects.flatMap Effect.wholeLines).flatMap (fun l => runDwords (l * 64) 64) ++
    if c.effects.any Effect.isBank then (c.lines.filter fun l => isControl (l * 64)).flatMap fun l => runDwords (l * 64 - 2 ^ 23) 65536
    else []

/-- An aged chunk of the partition awaits its grant and meets a commit of another source than a thread's (R117); a chunk that itself
waits for an SPOST does not hold up the commands that this waits for. -/
def State.agedBlocks (s : State) (p : Nat) (own : Option Nat) (lines : List Nat) : Bool :=
  s.threads.any fun e => decide (crewPart e.2.crew = p) && decide (some e.1 ≠ own) && !s.givesWay e.2 own &&
    e.2.waiting.any fun c => c.aged && decide (c.born < s.time) && sigMeet (sigOfLines p lines) c.touched && !s.postHeld none c.dwords

/-! ### Packets taken (R337) -/

/-- A packet that has reached its destination's buffer. -/
def State.arrivedPacket (s : State) (pkt : Nat) : Option Packet :=
  (assocGet? pkt s.net).filter fun k => match k.ride with
    | .buffered _ _ => true
    | _ => false

/-- A packet's place changed. -/
def State.setRide (s : State) (pkt : Nat) (r : Ride) : State :=
  { s with net := s.net.map fun e => if e.1 = pkt then (e.1, { e.2 with ride := r }) else e }

/-- A packet is gone, with its source's copy. -/
def State.dropPacket (s : State) (pkt : Nat) : State := { s with net := s.net.filter fun e => e.1 ≠ pkt }

/-- A packet taken by its unit, which acknowledges it in class 1 (R337). -/
def State.takePacket (s : State) (pkt : Nat) : State :=
  match assocGet? pkt s.net with
  | some k => (s.setRide pkt .taken).send clsCommit k.fret k.src 0 (.ack pkt)
  | none => s

/-- The packet has still to be taken. -/
def Packet.out (k : Packet) : Bool := decide (k.ride ≠ .taken)

/-! ### Delivery (R114 step 2, R115, R126) -/

/-- The first chunk of a thread that a delivered signature squashes: ungranted, its read signature or plain part met (R172). -/
def Thread.hit (t : Thread) (sig : Sig) : Option Nat :=
  t.chunks.findIdx? fun c => c.ungranted && sigMeet sig (c.rsig ||| c.wsig)

/-- A sleeping WAITA, SWAIT or RDQ.w on a line of the signature is woken (R126, R300). -/
def Thread.wakeBy (t : Thread) (sig : Sig) (p : Nat) : Thread :=
  match t.run with
  | .watch w false => if sigMeet sig (sigOf (sigLine p w.pa)) then { t with run := .watch w true } else t
  | .reduction d block false polls due =>
    if sigMeet sig (sigOf (sigLine p block)) then { t with run := .reduction d block true polls due } else t
  | _ => t

/-- A commit's signature tested against one thread of a core; its own thread's is only woken. -/
def State.testThread (s : State) (c : Commit) (tid : Nat) : State :=
  match s.thread tid with
  | none => s
  | some t =>
    if crewPart t.crew ≠ c.part then s
    else if c.tid = some tid then s.setThread tid (t.wakeBy c.sig c.part)
    else
      match t.hit c.sig with
      | some i => s.squash tid i
      | none => s.setThread tid (t.wakeBy c.sig c.part)

/-- A commit's signature tested on a core. -/
def State.deliver (s : State) (c : Commit) (core : Nat) : State :=
  (List.range 16).foldl (fun s k => s.testThread c (core * 16 + k)) s

/-! ### Guards (R182) -/

/-- Another crew than the given one guards a byte. -/
def State.guarded (s : State) (p : Nat) (crew : Option Nat) (pa : Nat) : Bool :=
  (s.part p).guards.any fun g => decide (some g.crew ≠ crew) && g.has pa

/-! ### Beyond the edge (R165, R425) -/

/-- Bytes in contiguous runs, as the host is sent them. -/
def splitRuns : List Host.Cell → List (List Host.Cell)
  | [] => []
  | c :: cs =>
    match splitRuns cs with
    | (d :: r) :: rs => if c.1 + 1 = d.1 ∧ lineOf c.1 = lineOf d.1 then (c :: d :: r) :: rs else [c] :: (d :: r) :: rs
    | rs => [c] :: rs

/-- Bytes by line, as a peer or another partition is sent them. -/
def splitLines (cells : List Host.Cell) : List (List Host.Cell) :=
  (cellLines cells).map fun l => cells.filter fun c => lineOf c.1 = l

/-- The writes of the link that some bytes become. -/
def linkRuns (cells : List Host.Cell) : List (List Host.Cell) :=
  splitRuns (cells.filter fun c => regionOf c.1 = 1) ++ splitLines (cells.filter fun c => regionOf c.1 ≠ 1)

/-- A request sent over a link for a crew, if for one (R425). -/
def State.sendLink (s : State) (k : LinkKind) (crew : Option Nat) (p no : Nat) (g : BitVec 16) : State :=
  { s with links := s.links ++ [(s.nextId, { kind := k, crew, part := p, no, sent := s.time, guild := g })], nextId := s.nextId + 1 }

/-- The link writes of some bytes beyond the edge. -/
def State.sendWrites (s : State) (tid crew : Option Nat) (p no : Nat) (g : BitVec 16) (cells : List Host.Cell) : State :=
  (linkRuns cells).foldl (fun s r => s.sendLink (.write tid ((r.map Prod.fst).headD 0) r) crew p no g) s

/-- A physical address lies beyond the edge for a partition. -/
def State.beyond (s : State) (p pa : Nat) : Bool := ((placeOf s p pa).map fun l => l.place.beyond).getD false

/-- The bytes of a chunk that lie beyond the edge. -/
def State.farCells (s : State) (p : Nat) (c : Chunk) : List Host.Cell := c.buf.filter fun x => s.beyond p x.1
def State.farAdds (s : State) (p : Nat) (c : Chunk) : List Far := c.fars.filter fun f => s.beyond p f.pa

/-- Where a request goes: the host, a peer, or another partition. -/
def State.linkDest (s : State) (pa : Nat) : Nat :=
  match regionOf pa with
  | 1 => 0
  | 2 => 16 + pa / 2 ^ 44 % 256
  | _ => 1 + s.partOf (pa / 2 ^ 36)

/-- The address of a request. -/
def LinkKind.pa (k : LinkKind) : Nat :=
  match k with
  | .read _ pa _ _ _ => pa
  | .write _ pa _ => pa
  | .add _ pa _ _ => pa
  | .fetch _ _ pa _ _ => pa
  | .payload _ _ _ bytes => (bytes.headD (0, 0)).1
  | .contrib _ _ pa _ _ => pa

/-- Requests that each destination performs in commit-number order (R165). -/
def LinkKind.ordered (k : LinkKind) : Bool :=
  match k with
  | .read _ _ _ _ a => a.isSome
  | .write _ _ _ => true
  | .add _ _ _ _ => true
  | _ => false

/-- A granted chunk of a partition has writes for a destination that have not been sent, below a number. -/
def State.unsentBelow (s : State) (p dest no : Nat) : Bool :=
  s.threads.any fun e => decide (crewPart e.2.crew = p) && e.2.chunks.any fun c =>
    match c.stage with
    | .granted n => decide (n < no) && ((s.farCells p c).any (fun x => decide (s.linkDest x.1 = dest)) ||
        (s.farAdds p c).any fun f => decide (s.linkDest f.pa = dest))
    | _ => false

/-- Every write of a partition to a destination has been performed there (R165). -/
def State.destQuiet (s : State) (p dest : Nat) : Bool :=
  !s.unsentBelow p dest ((s.part p).commitNo + 1) &&
    s.links.all fun e => decide (e.2.part ≠ p) || !e.2.kind.ordered || decide (s.linkDest e.2.kind.pa ≠ dest)

/-- A write of a line is under way over a link, that of a value-returning atomic or of a copy among them. -/
def State.linkWrites (s : State) (line : Nat) : Bool :=
  s.links.any fun e => match e.2.kind with
    | .write _ pa _ => decide (lineOf pa = line)
    | .add _ pa _ _ => decide (lineOf pa = line)
    | .read _ pa _ _ a => a.isSome && decide (lineOf pa = line)
    | .payload _ _ _ cells => cells.any fun c => decide (lineOf c.1 = line)
    | _ => false

/-- A commit of another source than a thread's waits: an older aged chunk meets it, a released SPOST is still to be applied to its words,
or a block that is home to one of its lines is held (R117, R178, R432). -/
def State.commitHeld (s : State) (p : Nat) (own : Option Nat) (cells : List Host.Cell) : Bool :=
  s.agedBlocks p own (cellLines cells) || s.postHeld own (cellDwords cells) || (cellLines cells).any s.homeHeld

/-- A write that the foreman makes now. -/
def State.foremanNow (s : State) (p pa : Nat) (bs : List Byte) : State :=
  if regionOf pa = 1 then s.sendWrites none none p (s.part p).commitNo 0 (runCells pa bs)
  else s.commitCells p (runCells pa bs)

/-- A foreman write of bytes: a commit in module memory, a link write in region 0x01 (R161). One that has to wait holds those behind
it. -/
def State.foremanWrite (s : State) (p pa : Nat) (bs : List Byte) : State :=
  if (s.part p).fwrites.isEmpty && !s.commitHeld p none (runCells pa bs) then s.foremanNow p pa bs
  else s.setPart p { s.part p with fwrites := (s.part p).fwrites ++ [(pa, bs)] }

/-- The oldest of the foreman's waiting writes is made, once nothing holds it. -/
def foremanGoesOn (s : State) (p : Nat) : State :=
  match (s.part p).fwrites with
  | [] => s
  | w :: ws => if s.commitHeld p none (runCells w.1 w.2) then s else (s.setPart p { s.part p with fwrites := ws }).foremanNow p w.1 w.2

/-! ### Recorders (R393) -/

/-- A core's recorder, or every recorder of a partition, frozen or thawed. -/
def State.setFrozen (s : State) (p core : Nat) (all on : Bool) : State :=
  if all then
    { s.setPart p { s.part p with frozen := on } with
      cores := s.cores.map fun e => if s.partOf (dieOf e.1) = p then (e.1, { e.2 with frozen := none }) else e }
  else s.setCore core { s.core core with frozen := some on }

end Sys2Proof.Machine
end

