-- ==== Sys2Proof/Machine/Mailbox.lean ====
section
/-!
DEFINITION. Sys2Proof/Machine/Mailbox.lean: the words of bench SRAM and the checks of a commit that writes an action, a command or
the policy version (R401-R406).
-/

namespace Sys2Proof.Machine

/-! ### Bench SRAM (R401, R402, R405) -/

/-- The first byte of a physical die's bench SRAM, as it is stored. -/
def benchBase (die : Nat) : Nat := 0x0030000000000000 + 0x800000 * die
/-- A byte of the descriptor of a slot; a bench core is numbered 64 die + e. -/
def descPa (b off : Nat) : Nat := benchBase (b / 64) + 0x100 * (b % 64) + off
/-- A byte of the action slot. -/
def actionPa (b off : Nat) : Nat := benchBase (b / 64) + 0x10000 + 0x2000 * (b % 64) + off
/-- A byte of the observation slot. -/
def obsPa (b off : Nat) : Nat := actionPa b (0x1000 + off)
/-- The partition of a bench core. -/
def State.benchPart (s : State) (b : Nat) : Nat := s.partOf (b / 64)

/-- PHASE, PEND, SVER, LAVER of a slot, and policyver (R402, R411). -/
def State.phase (s : State) (b : Nat) : Nat := field (s.readWord (descPa b 0xC0)) 0 2
def State.pend (s : State) (b : Nat) : Bool := (s.readWord (descPa b 0xD0)).getLsbD 0
def State.sver (s : State) (b : Nat) : Nat := field (s.readWord (descPa b 0xC0)) 32 32
def State.laver (s : State) (b : Nat) : Nat := field (s.readWord (descPa b 0xD0)) 32 32
def State.policyver (s : State) (p : Nat) : Nat := field (s.readWord (versionPa p)) 0 32

/-- RULE of the episode in a slot, as of its START: 0 PIN, 1 FOLLOW, 2 CUT (R402); PINLIM. -/
def Bench.rule (b : Bench) : Nat := field (b.desc.getD 0 0) 3 2
def Bench.pinlim (b : Bench) : Nat := field (b.desc.getD 5 0) 0 32

/-- The episode is treated as CUT from the first action whose commit finds the version too far ahead (R412). -/
def State.episodeCut (s : State) (b : Nat) : Bool :=
  let e := s.bench b
  e.asCut || (decide (e.rule = 0) && decide (e.pinlim ≠ 0) && decide (e.pinlim < s.policyver (s.benchPart b) - s.sver b))

/-- RULE as an action is checked under it (R406, R412). -/
def State.ruleNow (s : State) (b : Nat) : Nat := if s.episodeCut b then 2 else (s.bench b).rule

/-! ### Words that a grant checks (R406) -/

/-- A checked word: a descriptor's dword 0, an ASEQ, the VERSION word. -/
inductive MailWord where
  | cmd (b : Nat) | aseq (b : Nat) | version
deriving DecidableEq, Repr

/-- The checked word in which a byte of bench SRAM lies. -/
def mailWord (pa : Nat) : Option MailWord :=
  if regionOf pa ≠ 3 then none
  else
    let o := pa - 0x0030000000000000
    let die := o / 0x800000
    let off := o % 0x800000
    if off < 0x4000 then (if off % 0x100 < 8 then some (.cmd (64 * die + off / 0x100)) else none)
    else if off < 0x4008 then some .version
    else if 0x10000 ≤ off ∧ off < 0x90000 ∧ (off - 0x10000) % 0x2000 < 8 then some (.aseq (64 * die + (off - 0x10000) / 0x2000))
    else none

/-- Where a checked word lies. -/
def MailWord.pa (w : MailWord) (p : Nat) : Nat :=
  match w with
  | .cmd b => descPa b 0
  | .aseq b => actionPa b 0
  | .version => versionPa p

/-- A dword as a chunk's commit leaves it. -/
def State.wordAfter (s : State) (buf : List Host.Cell) (pa : Nat) : Word :=
  BitVec.ofNat 64 (ofBytes ((List.range 8).map fun i => (assocGet? (pa + i) buf).getD (s.readByte (pa + i))))

/-- The first check that the word fails: its reason and bits [63:32] of the value. -/
def State.mailCheck (s : State) (p : Nat) (buf : List Host.Cell) (w : MailWord) : Option (Nat × Nat) :=
  let v := s.wordAfter buf (w.pa p)
  let pv := s.policyver p
  match w with
  | .aseq b =>
    let e := s.bench b
    let oseq := s.readWord (obsPa b 0)
    let aver := field (s.wordAfter buf (actionPa b 8)) 0 32
    if s.phase b ≠ 1 ∨ s.pend b ∨ e.eplast = BitVec.allOnes 64 then some (1, 0)
    else if v ≠ oseq + 1 then some (2, field (oseq + 1) 0 32)
    else if pv < aver ∨ (s.ruleNow b = 1 ∧ aver < s.laver b) ∨ (s.ruleNow b = 2 ∧ aver < s.sver b) then some (3, pv)
    else if s.ruleNow b = 0 ∧ aver ≠ s.sver b then some (4, pv)
    else none
  | .cmd b =>
    if field v 0 2 = 1 ∧ s.phase b = 1 then some (5, 0)
    else if field v 0 2 = 3 ∨ field v 3 2 = 3 ∨ v.getLsbD 2 ∨ field v 5 59 ≠ 0 then some (7, 0)
    else none
  | .version => if v.toNat ≤ pv ∨ 2 ^ 32 ≤ v.toNat then some (6, pv) else none

/-- The slot and virtual die in a refusal's value. -/
def MailWord.place (w : MailWord) (p : Nat) : Nat :=
  match w with
  | .cmd b => b % 64 * 2 ^ 4 + (b / 64 - p) * 2 ^ 10
  | .aseq b => b % 64 * 2 ^ 4 + (b / 64 - p) * 2 ^ 10
  | .version => 0

/-- The checked words that a chunk writes. -/
def Chunk.mailWords (c : Chunk) : List MailWord := (c.buf.filterMap fun x => mailWord x.1).dedup

/-- The instructions before the last store of the chunk that wrote a word. -/
def Chunk.lastStore (c : Chunk) (p : Nat) (w : MailWord) : Nat :=
  ((c.stores.filter fun e => decide (e.2.1 / 8 = w.pa p / 8)).getLast?.map fun e => e.1).getD 0

/-- The refusals of a chunk by R406: the instructions before the store, and the value of cause 0x18. -/
def State.mailRefusals (s : State) (p : Nat) (c : Chunk) : List (Nat × Word) :=
  c.mailWords.filterMap fun w => (s.mailCheck p c.buf w).map fun r =>
    (c.lastStore p w, BitVec.ofNat 64 (r.1 + w.place p + r.2 * 2 ^ 32))

/-- The slots whose CMD a commit leaves at a value (R403). -/
def State.commanded (s : State) (c : Chunk) (cmd : Nat) : List Nat :=
  c.mailWords.filterMap fun w => match w with
    | .cmd b => if field (s.wordAfter c.buf (descPa b 0)) 0 2 = cmd then some b else none
    | _ => none

/-- What an accepted commit brings about at once (R403, R407, R411): the acceptance of actions and the starts, as of the version
of its number, then the version above it, then the aborts. (DEDUCED: notes/assumptions/21.md.) -/
def State.mailEvents (s : State) (p : Nat) (c : Chunk) : List Instr :=
  (c.mailWords.filterMap fun w => match w with
    | .aseq b => some (.action b)
    | _ => none) ++
  (s.commanded c 1).map Instr.start ++ (if c.mailWords.contains .version then [.versionAdvance p] else []) ++
  (s.commanded c 2).map Instr.abort

/-- The slots that those events concern learn the crew and the number of the commit. -/
def State.nameCaller (s : State) (crew no : Nat) (c : Chunk) : State :=
  c.mailWords.foldl (fun s w => match w with
    | .aseq b => s.setBench b { s.bench b with caller := (crew, no) }
    | .cmd b => s.setBench b { s.bench b with caller := (crew, no) }
    | .version => s) s

end Sys2Proof.Machine
end

