-- ==== Sys2Proof/Machine/Episode.lean ====
section
/-!
DEFINITION. Sys2Proof/Machine/Episode.lean: episodes: their start, actions, publications, budgets and ends, and the EP
instructions (R396-R423).
-/

namespace Sys2Proof.Machine

/-! ### The registers of a bench core (R396) -/

namespace Bench

/-- x[i]: x0 reads as zero. -/
def getX (e : Bench) (r : BitVec 5) : Word := if r = 0 then 0 else e.x.get r.toFin
/-- x[i] written; a write to x0 is discarded. -/
def setX (e : Bench) (r : BitVec 5) (v : Word) : Bench := if r = 0 then e else { e with x := e.x.set r.toNat v r.isLt }

/-- A dword of the descriptor as of the START (R402). -/
def dword (e : Bench) (off : Nat) : Word := e.desc.getD (off / 8) 0
def ibud (e : Bench) : Nat := field (e.dword 0x18) 0 40
def tbud (e : Bench) : Nat := field (e.dword 0x20) 0 40

/-- The core executes instructions: its image is loaded, no EP.WAITACT waits, nothing has stopped it. -/
def executes (e : Bench) : Bool := e.running && e.waiting.isNone && !e.suspended && e.ending.isNone

/-- The time count runs in device nanoseconds while the core executes (R413). -/
def tick (e : Bench) (now : Nat) : Bench :=
  if e.executes then { e with stepNs := e.stepNs + (now - e.seen), seen := now } else { e with seen := now }

/-- Private SRAM is 64 KiB (R398). -/
def sramSize : Nat := 65536

/-- A range leaves private SRAM. -/
def leavesSram (a : Word) (n : Nat) : Bool := decide (sramSize < a.toNat + n)

end Bench

/-! ### Where the bench writes (R398, R401, R402) -/

/-- Free bench SRAM of one die, as offsets (R401). -/
def freeSram (off : Nat) : Bool := decide (0x90000 ≤ off) && decide (off < 0x800000)

/-- A range lies in region 0x00, or in free bench SRAM of one die of the partition (R402). -/
def State.benchRange (s : State) (p : Nat) (base n : Nat) : Bool :=
  let last := base + (n - 1)
  (decide (regionOf base = 0) && decide (regionOf last = 0)) ||
    (match placeOf s p base, placeOf s p last with
      | some { place := .bench d o, .. }, some { place := .bench d' o', .. } => decide (d = d') && freeSram o && freeSram o'
      | _, _ => false)

/-- The stored address of a byte of a window, a ring or an image, where HBM or bench SRAM stands behind it: that of another partition
is reached over the edge (R165, R441). (DEDUCED: notes/assumptions/20.md.) -/
def State.benchPa (s : State) (p pa : Nat) : Option Nat :=
  match placeOf s p pa with
  | some { pa := a, place := .hbm, .. } => some a
  | some { pa := a, place := .remote, .. } => some a
  | some { pa := a, place := .bench _ _, .. } => some a
  | _ => none

/-- Bytes of a bench commit wait: an older aged chunk meets them, a released SPOST that is still to be applied, or a home that is held (R117,
R178, R432). -/
def State.benchBlocked (s : State) (p : Nat) (cells : List Host.Cell) : Bool := s.commitHeld p none cells

/-- A bench commit (R161, R399): its bytes in the partition, and those of another partition sent over the edge (R165). -/
def State.benchWrite (s : State) (p : Nat) (cells : List Host.Cell) : State :=
  let s := s.commitCells p (cells.filter fun c => !s.beyond p c.1)
  s.sendWrites none none p (s.part p).commitNo 0 (cells.filter fun c => s.beyond p c.1)

/-- The trajectory ring passes its checks: alignment, place and count (R402, R403, R409). -/
def State.ringOk (s : State) (p : Nat) (e : Bench) : Bool :=
  let trj := (e.dword 0x48).toNat
  decide (trj ≠ 0) && decide (trj % 32 = 0) && decide (field (e.dword 0x50) 0 16 ≠ 0) &&
    s.benchRange p trj (32 * field (e.dword 0x50) 0 16)

/-! ### Publications (R404, R408, R409) -/

/-- OHDR (R405). -/
def ohdr (laver status : Nat) (term vsw : Bool) : Word :=
  BitVec.ofNat 64 (laver * 2 ^ 32 + term.toNat * 2 ^ 9 + vsw.toNat * 2 ^ 8 + status)

/-- OSEQ of the next publication. -/
def Bench.nextOseq (e : Bench) : Word := e.eplast + 1

/-- VSW of the next publication (R407): that of the action which it answers, delivered or, for a terminal one, still to be taken. -/
def Bench.answerVsw (e : Bench) : Bool :=
  match e.action with
  | some a => if a.aseq = e.nextOseq then a.vsw else e.vsw
  | none => e.vsw

/-- The bytes that a publication writes: the observation slot, the trajectory record, and of a terminal one the descriptor's
STATUS and PHASE. -/
def State.publication (s : State) (b : Nat) (status : Nat) (orew : Word) (ocnt : Nat) (payload : List Byte) : List Host.Cell :=
  let e := s.bench b
  let p := s.benchPart b
  let words := [e.nextOseq, ohdr (s.laver b) status (decide (status ≠ 0)) e.answerVsw, orew, BitVec.ofNat 64 ocnt]
  let head := words.flatMap fun w => bytesOf 8 w.toNat
  let ring := if s.ringOk p e then
      let at' := (e.dword 0x48).toNat + 32 * (e.pubs % field (e.dword 0x50) 0 16)
      (runCells at' head).filterMap fun c => (s.benchPa p c.1).map fun a => (a, c.2)
    else []
  runCells (obsPa b 0) head ++ runCells (obsPa b 0x20) payload ++ ring ++
    (if status = 0 then []
     else runCells (descPa b 0xC0) (bytesOf 8 (s.sver b * 2 ^ 32 + status * 2 ^ 8 + 2)))

/-- A bench core after a publication: the step begins again; a terminal one stops it (R404, R413). -/
def Bench.published (e : Bench) (now : Nat) (term : Bool) : Bench :=
  let e := { e with eplast := e.nextOseq, pubs := e.pubs + 1, steps := 0, stepNs := 0, seen := now, taken := false, vsw := false }
  if term then { e with running := false, loading := false, action := none, waiting := none, resv := none, ending := none, unacked := [] } else e

/-- PEND cleared, as the bench writes it. -/
def State.pendCells (s : State) (b : Nat) : List Host.Cell := runCells (descPa b 0xD0) (bytesOf 8 (s.laver b * 2 ^ 32))

/-- The terminal observation of an episode that the bench ends (R409), unless an older aged chunk comes first. -/
def State.tryEnd (s : State) (b : Nat) : State :=
  let e := s.bench b
  match e.ending with
  | none => s
  | some (status, payload) =>
    let p := s.benchPart b
    let cells := s.publication b status (BitVec.ofNat 64 payload.length) e.steps payload ++ s.pendCells b
    if s.benchBlocked p cells then s
    else (s.setBench b (e.published s.time true)).benchWrite p cells

/-- An episode ends with a status (R404). -/
def State.endEpisode (s : State) (b : Nat) (status : Nat) (payload : List Byte) : State :=
  let e := (s.bench b).tick s.time
  (s.setBench b { e with ending := some (status, payload), waiting := none }).tryEnd b

/-- The end of an episode by an exception (R397): the code, the PC and the address or instruction. -/
def State.faultEpisode (s : State) (b : Nat) (code : Nat) (v : Word) : State :=
  s.endEpisode b 4 (bytesOf 8 code ++ bytesOf 8 (s.bench b).pc.toNat ++ bytesOf 8 v.toNat)

/-- Every RUNNING episode of a crew that ends is ABORTED (R421). -/
def State.abortEpisodes (s : State) (crew : Nat) : State :=
  s.benches.foldl (fun s e => if e.2.crew = crew ∧ s.phase e.1 = 1 then s.endEpisode e.1 5 [] else s) s

/-- The episodes of a crew are suspended, or go on (R422). -/
def State.suspendEpisodes (s : State) (crew : Nat) (on : Bool) : State :=
  { s with benches := s.benches.map fun e =>
      if e.2.crew = crew then (e.1, { e.2.tick s.time with suspended := on }) else e }

/-! ### The descriptor's checks and the image (R402, R403) -/

/-- A window in use: its base, size in bytes, R and W. -/
structure Window where
  base : Nat
  size : Nat
  r : Bool
  w : Bool
deriving DecidableEq, Repr

/-- Window w of an episode; none where it is unused. -/
def Bench.window (e : Bench) (w : Nat) : Option Window :=
  let a := e.dword (0x88 + 16 * w)
  if field a 0 25 = 0 then none
  else some ⟨(e.dword (0x80 + 16 * w)).toNat, 64 * field a 0 25, a.getLsbD 63, a.getLsbD 62⟩

/-- The windows in use. -/
def Bench.windows (e : Bench) : List Window := (List.range 4).filterMap e.window

/-- Reserved bits of a descriptor are clear. -/
def Bench.reservedOk (e : Bench) : Bool :=
  decide (field (e.dword 0) 5 59 = 0) && decide (field (e.dword 0) 3 2 < 3) && !(e.dword 0).getLsbD 2 &&
    decide (field (e.dword 0x10) 48 16 = 0) && decide (field (e.dword 0x10) 16 16 = 0) && decide (field (e.dword 0x18) 40 24 = 0) &&
    decide (field (e.dword 0x20) 40 24 = 0) && decide (field (e.dword 0x28) 32 32 = 0) && decide (field (e.dword 0x50) 16 48 = 0) &&
    ((List.range 5).all fun i => decide (e.dword (0x58 + 8 * i) = 0)) &&
    (List.range 4).all fun w => decide (field (e.dword (0x88 + 16 * w)) 25 37 = 0)

/-- Bytes of an episode's image. -/
def Bench.imageSize (e : Bench) : Nat := 64 * field (e.dword 0x10) 32 16

/-- The image and its entry (R402). -/
def State.imageOk (s : State) (p : Nat) (e : Bench) : Bool :=
  let img := (e.dword 8).toNat
  let entry := field (e.dword 0x10) 0 16
  decide (img % 64 = 0) && decide (regionOf img = 0) && decide (64 ≤ e.imageSize) && decide (e.imageSize ≤ Bench.sramSize) &&
    decide (entry % 2 = 0) && decide (entry < e.imageSize) && (s.benchPa p img).isSome && (s.benchPa p (img + e.imageSize - 1)).isSome

/-- A window of an episode (R402, R403). -/
def State.windowOk (s : State) (p : Nat) (w : Window) : Bool :=
  decide (w.base % 64 = 0) && decide (w.size ≤ 2 ^ 30) && (w.r || !w.w) && s.benchRange p w.base w.size

/-- The descriptor passes the checks of BADDESC. -/
def State.descOk (s : State) (p : Nat) (e : Bench) : Bool :=
  e.reservedOk && s.imageOk p e && (decide (e.dword 0x48 = 0) || s.ringOk p e) && e.windows.all (s.windowOk p)

/-- Two windows overlap where one of them has W. -/
def Window.clash (a b : Window) : Bool :=
  (a.w || b.w) && decide (a.base < b.base + b.size) && decide (b.base < a.base + a.size)

/-- A window of a new episode overlaps one of another RUNNING episode of the partition. -/
def State.overlaps (s : State) (b : Nat) (e : Bench) : Bool :=
  s.benches.any fun f => decide (f.1 ≠ b) && decide (s.benchPart f.1 = s.benchPart b) && decide (s.phase f.1 = 1) &&
    e.windows.any fun w => f.2.windows.any w.clash

/-! ### START, ABORT, ACTION, VERSION_ADVANCE (R403, R407, R411, R412) -/

/-- START at a commit, as of which the bench checks the descriptor (R403). -/
def startEpisode (s : State) (b : Nat) : State :=
  let p := s.benchPart b
  let (crew, no) := (s.bench b).caller
  let pv := s.policyver p
  let serial := s.readWord (descPa b 0xC8) + 1
  let s := s.effectCells p no (runCells (descPa b 0xC0) (bytesOf 8 (pv * 2 ^ 32 + 1) ++ bytesOf 8 serial.toNat ++
    bytesOf 8 (pv * 2 ^ 32) ++ bytesOf 8 (p * 2 ^ 32 + crew % 2 ^ 32)) ++
    runCells (obsPa b 0) (bytesOf 8 (2 ^ 64 - 1) ++ List.replicate 24 0))
  let e := { Bench.reset with desc := (List.range 32).map fun i => s.readWord (descPa b (8 * i)),
                              started := s.time, seen := s.time, crew, caller := (crew, no) }
  let bad := if !s.descOk p e then some 6 else if s.overlaps b e then some 7 else none
  s.setBench b (match bad with
    | some status => { e with ending := some (status, []) }
    | none => { e with loading := true })

/-- ABORT at a commit: without effect on an episode that does not run (R403). Its terminal observation is a bench commit with a number
of its own. (DESIGN CHOICE: notes/assumptions/60.md.) -/
def abortEpisode (s : State) (b : Nat) : State := if s.phase b = 1 then s.endEpisode b 5 [] else s

/-- An accepted action (R407, R412). -/
def acceptAction (s : State) (b : Nat) : State :=
  let e := s.bench b
  let no := e.caller.2
  let aver := field (s.readWord (actionPa b 8)) 0 32
  let a : Action := { aseq := s.readWord (actionPa b 0), aver, payload := s.readRun (actionPa b 0x10) 4080, no,
                      vsw := decide (aver ≠ s.laver b),
                      superseded := decide (s.ruleNow b = 2) && decide (s.sver b < s.policyver (s.benchPart b)) }
  let s := s.setBench b { e with action := some a, asCut := s.episodeCut b }
  s.effectCells (s.benchPart b) no (runCells (descPa b 0xD0) (bytesOf 8 (aver * 2 ^ 32 + 1)))

/-- The value of VERSION stands for every commit numbered above its own (R411). Its line was delivered with its commit. -/
def advanceVersion (s : State) (p : Nat) : State :=
  match (s.part p).version with
  | some v => (s.setPart p { s.part p with version := none }).putCells (runCells (versionPa p) (bytesOf 8 v))
  | none => s

/-! ### The image (R403) -/

/-- The bench loads the image into private SRAM. A line of it that a scrub has marked ends the episode as an access fault does (R376,
R437). (DESIGN CHOICE: notes/assumptions/71.md.) -/
def State.loadEpisode (s : State) (b : Nat) : State :=
  let e := s.bench b
  let img := (e.dword 8).toNat
  if s.postHeld none (runDwords img e.imageSize) ∨ (List.range (e.imageSize / 64)).any fun i => s.homeHeld (img / 64 + i) then s
  else if let some i := (List.range (e.imageSize / 64)).find? fun i => s.marked.contains (img / 64 + i) then
    (s.report (s.benchPart b) none 5 0x11 0 0 0 e.crew (BitVec.ofNat 64 (img + 64 * i))).faultEpisode b 5 (BitVec.ofNat 64 (img + 64 * i))
  else
    let bytes := ((s.settled (runDwords img e.imageSize)).readRun img e.imageSize).zipIdx
    s.setBench b { e with loading := false, running := true, pc := BitVec.ofNat 64 (field (e.dword 0x10) 0 16), seen := s.time,
                          sram := bytes.filterMap fun c => if c.1 = 0 then none else some (c.2, c.1) }

/-! ### Commits of a bench core under way (R399, R416) -/

/-- Commits that a bench core may have unacknowledged. -/
def benchWindow : Nat := 16

/-- The core's commits whose lines' holders have still to receive them. -/
def State.benchUnacked (s : State) (b : Nat) : List (Nat × Bool) :=
  (s.bench b).unacked.filter fun u => s.hostOwes (s.benchPart b) u.1 ||
    s.commits.any fun c => decide (c.part = s.benchPart b) && decide (c.no = u.1) && c.tid.isNone

/-- The core goes on: its last publication is acknowledged, and fewer than 16 of its commits are not. -/
def State.benchGoes (s : State) (b : Nat) : Bool :=
  decide ((s.benchUnacked b).length < benchWindow) && (s.benchUnacked b).all fun u => !u.2

/-! ### Budgets (R413) -/

/-- The next instruction would pass the step's instruction budget. -/
def Bench.overCount (e : Bench) : Bool := decide (e.ibud ≠ 0) && decide (e.ibud ≤ e.steps)
/-- The step's time count has reached its budget. -/
def Bench.overTime (e : Bench) (now : Nat) : Bool := decide (e.tbud ≠ 0) && decide (e.tbud ≤ (e.tick now).stepNs)

/-- An instruction that would pass IBUD does not execute; the episode ends TIMEOUT. -/
def instructionBudget (s : State) (b : Nat) : State :=
  if (s.bench b).executes && (s.bench b).overCount then s.endEpisode b 2 [] else s

/-- The time count has reached TBUD; the core stops before its next instruction and the episode ends TIMEOUT. -/
def timeBudget (s : State) (b : Nat) : State :=
  if (s.bench b).executes && (s.bench b).overTime s.time then s.endEpisode b 2 [] else s

/-- What a bench core does next: the end of its episode, the load of its image, a budget's end, or its next instruction, which its block
may hold up (R432). -/
def benchAct (s : State) (b : Nat) : State :=
  let e := s.bench b
  if e.ending.isSome then s.tryEnd b
  else if e.loading && !e.suspended then s.loadEpisode b
  else if e.executes then
    if e.overCount then instructionBudget s b
    else if e.overTime s.time then timeBudget s b
    else if s.benchGoes b && !s.held 6 0 then
      { s.setBench b { e.tick s.time with unacked := s.benchUnacked b } with issuing := some (.bench b) }
    else s
  else s

/-! ### One instruction of a bench core -/

/-- Why an instruction of a bench core does not retire: an exception (R397), an older aged chunk before its commit, or an uncorrectable
line that it reads, which is reported and ends the episode as an access fault does (R376, R437).
(DESIGN CHOICE: notes/assumptions/71.md.) -/
inductive BStop where
  | fault (code : Nat) (v : Word)
  | wait
  | check (line : Word)
deriving DecidableEq, Repr

/-- What an instruction works on: the machine, the core's number, its registers and episode, and the PC that follows. -/
structure BMach where
  st : State
  b : Nat
  e : Bench
  npc : Word
deriving DecidableEq, Repr

/-- A computation of one instruction of a bench core. -/
abbrev BM := EStateM BStop BMach

def setRd (d : BitVec 5) (v : Word) : BM Unit := modify fun m => { m with e := m.e.setX d v }
def bneed (c : Bool) (code : Nat) (v : Word) : BM Unit := if c then pure () else throw (.fault code v)

/-- Bytes committed by the bench as one commit (R161, R399). -/
def benchCommit (cells : List Host.Cell) : BM Unit := do
  let m ← get
  let p := m.st.benchPart m.b
  if m.st.benchBlocked p cells then throw .wait
  let st := m.st.benchWrite p cells
  set { m with st, e := { m.e with resv := (st.bench m.b).resv, unacked := m.e.unacked ++ [((st.part p).commitNo, false)] } }

/-- A retired instruction is counted (R413). -/
def Bench.retire (e : Bench) (pc : Word) : Bench := { e with pc := pc, steps := e.steps + 1, retired := e.retired + 1 }

/-- A retired instruction that ended its step with a publication, which counted it (R413). -/
def Bench.retirePub (e : Bench) (pc : Word) : Bench := { e with pc := pc, retired := e.retired + 1 }

/-- What an instruction of n bytes leaves: an exception ends the episode (R397). -/
def runBench (s : State) (n : Nat) (retire : Bench → Word → Bench) (op : BM Unit) : Host.Outcome State Fault Refusal :=
  match s.issuing with
  | some (.bench b) =>
    let e := s.bench b
    let s := { s with issuing := none }
    if Bench.leavesSram e.pc 2 then .next (s.faultEpisode b 1 e.pc)
    else if Bench.leavesSram e.pc n then .next (s.faultEpisode b 1 (e.pc + 2))
    else .next (match op.run { st := s, b, e, npc := e.pc + BitVec.ofNat 64 n } with
      | .ok _ m => m.st.setBench b (retire m.e m.npc)
      | .error (.fault code v) _ => s.faultEpisode b code v
      | .error .wait _ => s
      | .error (.check l) _ => (s.unitCheck (s.benchPart b) 0 e.crew l).faultEpisode b 5 l)
  | _ => .fault .noAgent

/-- The instruction that the core executes, as the value of an exception: two bytes of a compressed one, else four. -/
def sramWord (e : Bench) : Word :=
  let w := ofBytes (Memory.readRun e.sram e.pc.toNat 4)
  BitVec.ofNat 64 (if w % 4 = 3 then w else w % 65536)

/-- Code 2 with the instruction (R397). -/
def illegalIf (c : Bool) : BM Unit := do
  let m ← get
  if c then throw (.fault 2 (sramWord m.e))

/-! ### EP.WAITACT (R415) -/

/-- A waiting EP.WAITACT takes the recorded action, or ends the episode SUPERSEDED. -/
def waitactReturn (s : State) (b : Nat) : State :=
  let e := s.bench b
  match e.waiting, e.action with
  | some (d, dst, n), some a =>
    if e.suspended || e.ending.isSome then s
    else if a.superseded then s.endEpisode b 3 []
    else
      let p := s.benchPart b
      let cells := s.pendCells b
      if s.benchBlocked p cells then s
      else
        let e := { e with sram := Memory.writeRun e.sram dst (a.payload.take n), action := none, waiting := none, taken := true,
                          vsw := a.vsw, seen := s.time }
        (s.setBench b ((e.setX d a.aseq).retire (e.pc + 4))).commitCells p cells
  | _, _ => s

/-- EP.WAITACT: its checks, then the wait, which ends at once where an action awaits (R415). -/
def epWaitact (s : State) (b : Nat) (rs2 rs1 d : BitVec 5) : State :=
  let e := s.bench b
  let n := min (e.getX rs2).toNat 4080
  if Bench.leavesSram e.pc 4 then s.faultEpisode b 1 (if Bench.leavesSram e.pc 2 then e.pc else e.pc + 2)
  else if e.eplast = BitVec.allOnes 64 ∨ e.taken then s.faultEpisode b 2 (sramWord e)
  else if 0 < n ∧ Bench.leavesSram (e.getX rs1) n then s.faultEpisode b 7 (e.getX rs1)
  else waitactReturn (s.setBench b { e.tick s.time with waiting := some (d, (e.getX rs1).toNat, n) }) b

/-- EP.WAITACT. -/
def execEpWaitact (b a d : BitVec 5) (s : State) : Host.Outcome State Fault Refusal :=
  match s.issuing with
  | some (.bench k) => .next (epWaitact { s with issuing := none } k b a d)
  | _ => .fault .noAgent

/-! ### EP.PUBOBS, EP.END and the rest (R416-R419) -/

/-- What EP.PUBOBS and EP.END publish, checked (R416). -/
def opPublish (rs2 rs1 : BitVec 5) (term : Bool) : BM Unit := do
  let m ← get
  let ctl := m.e.getX rs2
  let n := field ctl 0 12
  illegalIf (decide (field ctl 12 20 ≠ 0) || decide (4064 < n))
  bneed (decide (n = 0) || !Bench.leavesSram (m.e.getX rs1) n) 5 (m.e.getX rs1)
  illegalIf (!term && decide (m.e.eplast ≠ BitVec.allOnes 64) && !m.e.taken)
  benchCommit (m.st.publication m.b (if term then 1 else 0) ctl (m.e.steps + 1) (Memory.readRun m.e.sram (m.e.getX rs1).toNat n))

/-- EP.PUBOBS: the publishing instruction belongs to the step that it ends. -/
def opPubobs (rs2 rs1 d : BitVec 5) : BM Unit := do
  opPublish rs2 rs1 false
  modify fun m => { m with e := { (m.e.published m.st.time false).setX d m.e.nextOseq with
    unacked := m.e.unacked.map fun u => (u.1, u.2 || decide (u.1 = (m.st.part (m.st.benchPart m.b)).commitNo)) } }

/-- EP.END. (DEDUCED: notes/assumptions/19.md.) -/
def opEnd (rs2 rs1 : BitVec 5) : BM Unit := do
  opPublish rs2 rs1 true
  modify fun m => { m with e := m.e.published m.st.time true }

/-- EP.INFO (R417). -/
def opInfo (item : BitVec 3) (d : BitVec 5) : BM Unit := do
  let m ← get
  let e := m.e
  setRd d (match item.toNat with
    | 0 => e.dword 0x30
    | 1 => e.dword 0x38
    | 2 => BitVec.ofNat 64 e.rule
    | 3 => BitVec.ofNat 64 (field (e.dword 0xC0) 32 32)
    | 4 => e.dword 0xC8
    | 5 => BitVec.ofNat 64 e.ibud
    | 6 => BitVec.ofNat 64 e.tbud
    | _ => BitVec.ofNat 64 (((List.range 4).map fun w => if (e.window w).isSome then 2 ^ w else 0).sum))

/-- The 128 bits of EP.RAND and EP.RANDH (R419). -/
def epRandom (e : Bench) (rs2 rs1 : BitVec 5) : Nat :=
  phiBits (e.dword 0x40) ((e.getX rs1).extractLsb' 0 32) ((e.getX rs1).extractLsb' 32 32) ((e.getX rs2).extractLsb' 0 32)
    ((e.getX rs2).extractLsb' 32 32)

end Sys2Proof.Machine
end

