-- ==== Sys2Proof/Machine/Bench.lean ====
section
/-!
DEFINITION. Sys2Proof/Machine/Bench.lean: the RISC-V instructions of a bench core, RV64IMAFDC with Zicsr, Zicntr, Zba and Zbb
(R396-R400), and the meanings of the events of benches.
-/

namespace Sys2Proof.Machine

/-! ### Compressed forms, as the 32-bit words they stand for (R396) -/

/-- Bits [lo + n - 1 : lo] of an instruction. -/
def rb (w lo n : Nat) : Nat := w / 2 ^ lo % 2 ^ n
/-- A signed value of n bits, modulo 2^k. -/
def rsx (n k v : Nat) : Nat := if v % 2 ^ n < 2 ^ (n - 1) then v % 2 ^ n else 2 ^ k - 2 ^ n + v % 2 ^ n

/-- Words of the formats R, I, S, B, U and J. -/
def rWord (op rd f3 rs1 rs2 f7 : Nat) : Nat := op + rd * 2 ^ 7 + f3 * 2 ^ 12 + rs1 * 2 ^ 15 + rs2 * 2 ^ 20 + f7 * 2 ^ 25
def iWord (op rd f3 rs1 imm : Nat) : Nat := op + rd * 2 ^ 7 + f3 * 2 ^ 12 + rs1 * 2 ^ 15 + imm % 4096 * 2 ^ 20
def sWord (op f3 rs1 rs2 imm : Nat) : Nat :=
  op + rb imm 0 5 * 2 ^ 7 + f3 * 2 ^ 12 + rs1 * 2 ^ 15 + rs2 * 2 ^ 20 + rb imm 5 7 * 2 ^ 25
def bWord (f3 rs1 rs2 imm : Nat) : Nat :=
  0x63 + rb imm 11 1 * 2 ^ 7 + rb imm 1 4 * 2 ^ 8 + f3 * 2 ^ 12 + rs1 * 2 ^ 15 + rs2 * 2 ^ 20 + rb imm 5 6 * 2 ^ 25 +
    rb imm 12 1 * 2 ^ 31
def jWord (rd imm : Nat) : Nat :=
  0x6F + rd * 2 ^ 7 + rb imm 12 8 * 2 ^ 12 + rb imm 11 1 * 2 ^ 20 + rb imm 1 10 * 2 ^ 21 + rb imm 20 1 * 2 ^ 31

/-- The compressed forms of quadrant 0; none where they are reserved. -/
def expand0 (c : Nat) : Option Nat :=
  let rd := 8 + rb c 2 3
  let rs := 8 + rb c 7 3
  let d := rb c 10 3 * 8 + rb c 5 2 * 64
  let w := rb c 10 3 * 8 + rb c 6 1 * 4 + rb c 5 1 * 64
  match rb c 13 3 with
  | 0 =>
    let imm := rb c 11 2 * 16 + rb c 7 4 * 64 + rb c 6 1 * 4 + rb c 5 1 * 8
    if imm = 0 then none else some (iWord 0x13 rd 0 2 imm)
  | 1 => some (iWord 0x07 rd 3 rs d)
  | 2 => some (iWord 0x03 rd 2 rs w)
  | 3 => some (iWord 0x03 rd 3 rs d)
  | 5 => some (sWord 0x27 3 rs rd d)
  | 6 => some (sWord 0x23 2 rs rd w)
  | 7 => some (sWord 0x23 3 rs rd d)
  | _ => none

/-- The arithmetic of quadrant 1 on the registers x8-x15. -/
def expandAlu (c : Nat) : Option Nat :=
  let rd := 8 + rb c 7 3
  let rs := 8 + rb c 2 3
  let sh := rb c 12 1 * 32 + rb c 2 5
  match rb c 10 2, rb c 12 1, rb c 5 2 with
  | 0, _, _ => some (iWord 0x13 rd 5 rd sh)
  | 1, _, _ => some (iWord 0x13 rd 5 rd (0x400 + sh))
  | 2, _, _ => some (iWord 0x13 rd 7 rd (rsx 6 12 sh))
  | _, 0, 0 => some (rWord 0x33 rd 0 rd rs 0x20)
  | _, 0, 1 => some (rWord 0x33 rd 4 rd rs 0)
  | _, 0, 2 => some (rWord 0x33 rd 6 rd rs 0)
  | _, 0, _ => some (rWord 0x33 rd 7 rd rs 0)
  | _, _, 0 => some (rWord 0x3B rd 0 rd rs 0x20)
  | _, _, 1 => some (rWord 0x3B rd 0 rd rs 0)
  | _, _, _ => none

/-- The compressed forms of quadrant 1. -/
def expand1 (c : Nat) : Option Nat :=
  let rd := rb c 7 5
  let imm := rsx 6 12 (rb c 12 1 * 32 + rb c 2 5)
  let b := rb c 12 1 * 256 + rb c 10 2 * 8 + rb c 5 2 * 64 + rb c 3 2 * 2 + rb c 2 1 * 32
  match rb c 13 3 with
  | 0 => some (iWord 0x13 rd 0 rd imm)
  | 1 => if rd = 0 then none else some (iWord 0x1B rd 0 rd imm)
  | 2 => some (iWord 0x13 rd 0 0 imm)
  | 3 =>
    if rb c 12 1 * 32 + rb c 2 5 = 0 then none
    else if rd = 2 then
      some (iWord 0x13 2 0 2 (rsx 10 12 (rb c 12 1 * 512 + rb c 6 1 * 16 + rb c 5 1 * 64 + rb c 3 2 * 128 + rb c 2 1 * 32)))
    else some (0x37 + rd * 2 ^ 7 + rsx 6 20 (rb c 12 1 * 32 + rb c 2 5) * 2 ^ 12)
  | 4 => expandAlu c
  | 5 =>
    some (jWord 0 (rsx 12 21 (rb c 12 1 * 2048 + rb c 11 1 * 16 + rb c 9 2 * 256 + rb c 8 1 * 1024 + rb c 7 1 * 64 +
      rb c 6 1 * 128 + rb c 3 3 * 2 + rb c 2 1 * 32)))
  | 6 => some (bWord 0 (8 + rb c 7 3) 0 (rsx 9 13 b))
  | _ => some (bWord 1 (8 + rb c 7 3) 0 (rsx 9 13 b))

/-- The compressed forms of quadrant 2. -/
def expand2 (c : Nat) : Option Nat :=
  let rd := rb c 7 5
  let rs := rb c 2 5
  let ld := rb c 12 1 * 32 + rb c 5 2 * 8 + rb c 2 3 * 64
  let lw := rb c 12 1 * 32 + rb c 4 3 * 4 + rb c 2 2 * 64
  let sd := rb c 10 3 * 8 + rb c 7 3 * 64
  let sw := rb c 9 4 * 4 + rb c 7 2 * 64
  match rb c 13 3 with
  | 0 => some (iWord 0x13 rd 1 rd (rb c 12 1 * 32 + rs))
  | 1 => some (iWord 0x07 rd 3 2 ld)
  | 2 => if rd = 0 then none else some (iWord 0x03 rd 2 2 lw)
  | 3 => if rd = 0 then none else some (iWord 0x03 rd 3 2 ld)
  | 4 =>
    if rb c 12 1 = 0 then
      if rs = 0 then (if rd = 0 then none else some (iWord 0x67 0 0 rd 0)) else some (rWord 0x33 rd 0 0 rs 0)
    else if rs = 0 then (if rd = 0 then some 0x00100073 else some (iWord 0x67 1 0 rd 0))
    else some (rWord 0x33 rd 0 rd rs 0)
  | 5 => some (sWord 0x27 3 2 rs sd)
  | 6 => some (sWord 0x23 2 2 rs sw)
  | _ => some (sWord 0x23 3 2 rs sd)

/-- The 32-bit word of a compressed form. (PRESUMED: notes/assumptions/16.md.) -/
def expandC (c : Nat) : Option Nat :=
  match c % 4 with
  | 0 => expand0 c
  | 1 => expand1 c
  | 2 => expand2 c
  | _ => none

/-! ### The address map (R398, R399) -/

/-- What an address of a bench core reaches: its SRAM, or a window's place as memory stores it. -/
inductive BPlace where
  | sram (off : Nat)
  | mem (pa : Nat)
deriving DecidableEq, Repr

/-- The place of an access of n bytes; store asks a window for W, else for R. -/
def BMach.place (m : BMach) (a : Word) (n : Nat) (store : Bool) : Option BPlace :=
  if !Bench.leavesSram a n then some (.sram a.toNat)
  else
    let k := a.toNat / 2 ^ 32
    if k = 0 ∨ 4 < k then none
    else
      (m.e.window (k - 1)).bind fun w =>
        if a.toNat % 2 ^ 32 + n ≤ w.size ∧ (if store then w.w else w.r) then
          (m.st.benchPa (m.st.benchPart m.b) (w.base + a.toNat % 2 ^ 32)).map BPlace.mem
        else none

/-- The place of an access, aligned; the codes are those of misalignment and of an access. (DEDUCED: notes/assumptions/17.md.) -/
def bplace (a : Word) (n mis acc : Nat) (store : Bool) : BM BPlace := do
  bneed (decide (a.toNat % n = 0)) mis a
  match (← get).place a n store with
  | some p => pure p
  | none => throw (.fault acc a)

/-- The bytes at a place: a window's with every commit numbered so far, and with the core's own earlier writes over the edge (R162,
R399). -/
def bread (p : BPlace) (n : Nat) : BM Nat := do
  let m ← get
  match p with
  | .sram o => pure (ofBytes (Memory.readRun m.e.sram o n))
  | .mem pa =>
    if m.st.postHeld none (runDwords pa n) || m.st.homeHeld (lineOf pa) ||
        (m.st.beyond (m.st.benchPart m.b) pa && m.st.linkWrites (lineOf pa)) then throw .wait
    if m.st.marked.contains (lineOf pa) then throw (.check (BitVec.ofNat 64 (lineOf pa * 64)))
    pure (m.st.settledVal pa n)

/-- The bytes at a place written: a window's as one bench commit, which a guard of any crew turns away (R399). -/
def bwrite (p : BPlace) (a : Word) (n v : Nat) : BM Unit := do
  let m ← get
  match p with
  | .sram o => set { m with e := { m.e with sram := Memory.writeRun m.e.sram o (bytesOf n v) } }
  | .mem pa =>
    bneed (!((m.st.part (m.st.benchPart m.b)).guards.any fun g => g.hasLine (lineOf pa))) 7 a
    benchCommit (runCells pa (bytesOf n v))

/-- The line of a place, as a reservation names it. -/
def BPlace.line : BPlace → Bool × Nat
  | .sram o => (false, o / 64)
  | .mem pa => (true, lineOf pa)

/-! ### Integers -/

/-- A 32-bit result sign-extended. -/
def w32 (v : BitVec 32) : Word := v.signExtend 64
def lo32 (v : Word) : BitVec 32 := v.setWidth 32

/-- Zeros above the highest set bit of n bits. -/
def lzCount (n v : Nat) : Nat := if v = 0 then n else n - 1 - Nat.log2 v
/-- Zeros below the lowest set bit of n bits. -/
def tzCount (n v : Nat) : Nat := ((List.range n).find? fun i => v.testBit i).getD n
/-- Set bits of n bits. -/
def oneCount (n v : Nat) : Nat := (List.range n).countP fun i => v.testBit i

/-- The bytes of a dword mapped, lowest first. -/
def byteMap (f : Nat → Nat → Nat) (v : Word) : Word :=
  BitVec.ofNat 64 (((List.range 8).map fun i => f i (v.toNat / 2 ^ (8 * i) % 256) * 2 ^ (8 * i)).sum)

/-- OR-combine and byte reversal. -/
def orcB (v : Word) : Word := byteMap (fun _ x => if x = 0 then 0 else 255) v
def rev8 (v : Word) : Word := byteMap (fun i _ => v.toNat / 2 ^ (8 * (7 - i)) % 256) v

/-- Operations of two 64-bit registers: opcode 0x33 by funct7 and funct3. -/
def alu64 (f7 f3 : Nat) (a b : Word) : Option Word :=
  let sh := b.toNat % 64
  match f7, f3 with
  | 0, 0 => some (a + b)
  | 0, 1 => some (a <<< sh)
  | 0, 2 => some (if a.slt b then 1 else 0)
  | 0, 3 => some (if a.ult b then 1 else 0)
  | 0, 4 => some (a ^^^ b)
  | 0, 5 => some (a >>> sh)
  | 0, 6 => some (a ||| b)
  | 0, 7 => some (a &&& b)
  | 0x20, 0 => some (a - b)
  | 0x20, 4 => some (a ^^^ ~~~b)
  | 0x20, 5 => some (a.sshiftRight sh)
  | 0x20, 6 => some (a ||| ~~~b)
  | 0x20, 7 => some (a &&& ~~~b)
  | 1, 0 => some (a * b)
  | 1, 1 => some (BitVec.ofInt 64 (a.toInt * b.toInt / 2 ^ 64))
  | 1, 2 => some (BitVec.ofInt 64 (a.toInt * b.toNat / 2 ^ 64))
  | 1, 3 => some (BitVec.ofNat 64 (a.toNat * b.toNat / 2 ^ 64))
  | 1, 4 => some (divS a b)
  | 1, 5 => some (divU a b)
  | 1, 6 => some (remS a b)
  | 1, 7 => some (remU a b)
  | 5, 4 => some (if a.slt b then a else b)
  | 5, 5 => some (if a.ult b then a else b)
  | 5, 6 => some (if a.slt b then b else a)
  | 5, 7 => some (if a.ult b then b else a)
  | 0x10, 2 => some (a * 2 + b)
  | 0x10, 4 => some (a * 4 + b)
  | 0x10, 6 => some (a * 8 + b)
  | 0x30, 1 => some (a.rotateLeft sh)
  | 0x30, 5 => some (a.rotateRight sh)
  | _, _ => none

/-- Operations of two registers on 32 bits: opcode 0x3B by funct7, funct3 and rs2's number. -/
def alu32 (f7 f3 rs2 : Nat) (a b : Word) : Option Word :=
  let x := lo32 a
  let y := lo32 b
  let u := zextN a 32
  let sh := b.toNat % 32
  match f7, f3 with
  | 0, 0 => some (w32 (x + y))
  | 0, 1 => some (w32 (x <<< sh))
  | 0, 5 => some (w32 (x >>> sh))
  | 0x20, 0 => some (w32 (x - y))
  | 0x20, 5 => some (w32 (x.sshiftRight sh))
  | 1, 0 => some (w32 (x * y))
  | 1, 4 => some (w32 (divS x y))
  | 1, 5 => some (w32 (divU x y))
  | 1, 6 => some (w32 (remS x y))
  | 1, 7 => some (w32 (remU x y))
  | 4, 0 => some (u + b)
  | 4, 4 => if rs2 = 0 then some (zextN a 16) else none
  | 0x10, 2 => some (u * 2 + b)
  | 0x10, 4 => some (u * 4 + b)
  | 0x10, 6 => some (u * 8 + b)
  | 0x30, 1 => some (w32 (x.rotateLeft sh))
  | 0x30, 5 => some (w32 (x.rotateRight sh))
  | _, _ => none

/-- Operations of a register and an immediate: opcode 0x13. -/
def imm64 (w : Nat) (a : Word) : Option Word :=
  let i := BitVec.ofNat 64 (rsx 12 64 (rb w 20 12))
  let sh := rb w 20 6
  match rb w 12 3 with
  | 0 => some (a + i)
  | 2 => some (if a.slt i then 1 else 0)
  | 3 => some (if a.ult i then 1 else 0)
  | 4 => some (a ^^^ i)
  | 6 => some (a ||| i)
  | 7 => some (a &&& i)
  | 1 =>
    match rb w 20 12 with
    | 0x600 => some (BitVec.ofNat 64 (lzCount 64 a.toNat))
    | 0x601 => some (BitVec.ofNat 64 (tzCount 64 a.toNat))
    | 0x602 => some (BitVec.ofNat 64 (oneCount 64 a.toNat))
    | 0x604 => some (sextN a 8)
    | 0x605 => some (sextN a 16)
    | _ => if rb w 26 6 = 0 then some (a <<< sh) else none
  | _ =>
    match rb w 20 12 with
    | 0x287 => some (orcB a)
    | 0x6B8 => some (rev8 a)
    | _ =>
      match rb w 26 6 with
      | 0 => some (a >>> sh)
      | 0x10 => some (a.sshiftRight sh)
      | 0x18 => some (a.rotateRight sh)
      | _ => none

/-- Operations of a register and an immediate on 32 bits: opcode 0x1B. -/
def imm32 (w : Nat) (a : Word) : Option Word :=
  let x := lo32 a
  let sh := rb w 20 5
  match rb w 12 3 with
  | 0 => some (w32 (x + BitVec.ofNat 32 (rsx 12 32 (rb w 20 12))))
  | 1 =>
    match rb w 20 12 with
    | 0x600 => some (BitVec.ofNat 64 (lzCount 32 x.toNat))
    | 0x601 => some (BitVec.ofNat 64 (tzCount 32 x.toNat))
    | 0x602 => some (BitVec.ofNat 64 (oneCount 32 x.toNat))
    | _ =>
      if rb w 26 6 = 2 then some (zextN a 32 <<< rb w 20 6)
      else if rb w 25 7 = 0 then some (w32 (x <<< sh)) else none
  | 5 =>
    match rb w 25 7 with
    | 0 => some (w32 (x >>> sh))
    | 0x20 => some (w32 (x.sshiftRight sh))
    | 0x30 => some (w32 (x.rotateRight sh))
    | _ => none
  | _ => none

/-- A branch is taken, by funct3; 2 and 3 are none. -/
def branchTaken (f3 : Nat) (a b : Word) : Option Bool :=
  match f3 with
  | 0 => some (decide (a = b))
  | 1 => some (decide (a ≠ b))
  | 4 => some (a.slt b)
  | 5 => some (!a.slt b)
  | 6 => some (a.ult b)
  | 7 => some (!a.ult b)
  | _ => none

/-! ### Atomics (R399) -/

/-- The new value of an AMO on n bits, by funct5. -/
def amoNew (f5 n old v : Nat) : Option Nat :=
  match f5 with
  | 0 => some ((old + v) % 2 ^ n)
  | 1 => some (v % 2 ^ n)
  | 4 => some (old ^^^ v)
  | 8 => some (old ||| v)
  | 0xC => some (old &&& v)
  | 0x10 => some (if signedOf n v < signedOf n old then v else old)
  | 0x14 => some (if signedOf n old < signedOf n v then v else old)
  | 0x18 => some (min old v)
  | 0x1C => some (max old v)
  | _ => none

/-- What is written by one instruction that has read or reserved the place: in another partition at once, with no write of this one
under way there (R165, R177). -/
def bupdate (p : BPlace) (a : Word) (n v : Nat) : BM Unit := do
  let m ← get
  match p with
  | .sram _ => bwrite p a n v
  | .mem pa =>
    let q := m.st.benchPart m.b
    if !m.st.beyond q pa then bwrite p a n v
    else
      bneed (!((m.st.part q).guards.any fun g => g.hasLine (lineOf pa))) 7 a
      let home := m.st.partOf (homeDie pa)
      if !m.st.destQuiet q (m.st.linkDest pa) || m.st.benchBlocked home (runCells pa (bytesOf n v)) then throw .wait
      benchCommit []
      modify fun m => { m with st := m.st.commitCells home (runCells pa (bytesOf n v)) }
      modify fun m => { m with e := { m.e with resv := (m.st.bench m.b).resv } }

/-- Every far atomic released for a place's line is applied (R116, R399). -/
def settleLine (p : BPlace) : BM Unit := do
  let m ← get
  match p with
  | .sram _ => pure ()
  | .mem pa =>
    let ds := runDwords (lineOf pa * 64) 64
    if m.st.postHeld none ds then throw .wait
    let st := m.st.settled ds
    set { m with st, e := { m.e with resv := (st.bench m.b).resv } }

/-- LR, SC and the AMOs: opcode 0x2F. (DEDUCED: notes/assumptions/20.md.) -/
def opAmo (w : Nat) : BM Unit := do
  let m ← get
  let rd : BitVec 5 := BitVec.ofNat 5 (rb w 7 5)
  let a := m.e.getX (BitVec.ofNat 5 (rb w 15 5))
  let n := if rb w 12 3 = 3 then 8 else 4
  let v := (m.e.getX (BitVec.ofNat 5 (rb w 20 5))).toNat % 2 ^ (8 * n)
  let f5 := rb w 27 5
  illegalIf (decide (rb w 12 3 ≠ 2) && decide (rb w 12 3 ≠ 3))
  if f5 = 2 then
    illegalIf (decide (rb w 20 5 ≠ 0))
    let p ← bplace a n 4 5 false
    settleLine p
    let old ← bread p n
    setRd rd (sextN (BitVec.ofNat 64 old) (8 * n))
    modify fun m => { m with e := { m.e with resv := some p.line } }
  else if f5 = 3 then
    let p ← bplace a n 6 7 true
    settleLine p
    if (← get).e.resv = some p.line then
      bupdate p a n v
      setRd rd 0
    else setRd rd 1
    modify fun m => { m with e := { m.e with resv := none } }
  else
    illegalIf (amoNew f5 (8 * n) 0 v).isNone
    let p ← bplace a n 6 7 true
    let old ← bread p n
    match amoNew f5 (8 * n) old v with
    | some x =>
      bupdate p a n x
      setRd rd (sextN (BitVec.ofNat 64 old) (8 * n))
    | none => pure ()

/-! ### CSRs (R400) -/

/-- The value of a CSR; none where the number names none. -/
def BMach.csr (m : BMach) (n : Nat) : Option Word :=
  match n with
  | 0x001 => some (BitVec.ofNat 64 (m.e.fcsr.toNat % 32))
  | 0x002 => some (BitVec.ofNat 64 (m.e.fcsr.toNat / 32))
  | 0x003 => some (m.e.fcsr.setWidth 64)
  | 0xC00 => some (BitVec.ofNat 64 (2 * (m.st.time - m.e.started)))
  | 0xC01 => some (BitVec.ofNat 64 m.st.time)
  | 0xC02 => some (BitVec.ofNat 64 m.e.retired)
  | 0xCC0 => some (BitVec.ofNat 64 ((m.b / 64 - m.st.benchPart m.b) * 2 ^ 6 + m.b % 64))
  | 0xCC1 => some (BitVec.ofNat 64 m.e.steps)
  | 0xCC2 => some (BitVec.ofNat 64 m.e.stepNs)
  | 0xCC3 => some m.e.eplast
  | _ => none

/-- A CSR of the floating-point unit written. -/
def Bench.setCsr (e : Bench) (n : Nat) (v : Word) : Bench :=
  match n with
  | 0x001 => { e with fcsr := BitVec.ofNat 8 (e.fcsr.toNat / 32 * 32 + field v 0 5) }
  | 0x002 => { e with fcsr := BitVec.ofNat 8 (field v 0 3 * 32 + e.fcsr.toNat % 32) }
  | _ => { e with fcsr := BitVec.ofNat 8 (field v 0 8) }

/-- CSRRW, CSRRS, CSRRC and their immediate forms; a write to a read-only CSR is illegal (R397). -/
def opCsr (w : Nat) : BM Unit := do
  let m ← get
  let n := rb w 20 12
  let f3 := rb w 12 3
  let src := rb w 15 5
  let v := if 4 ≤ f3 then BitVec.ofNat 64 src else m.e.getX (BitVec.ofNat 5 src)
  let writes := decide (f3 % 4 = 1) || decide (src ≠ 0)
  match m.csr n with
  | none => illegalIf true
  | some old =>
    illegalIf (writes && decide (0xC00 ≤ n))
    let new := if f3 % 4 = 1 then v else if f3 % 4 = 2 then old ||| v else old &&& ~~~v
    if writes then modify fun m => { m with e := m.e.setCsr n new }
    setRd (BitVec.ofNat 5 (rb w 7 5)) old

/-! ### Floating point (R396) -/

/-- f[i] as a value of a format: a single that is not boxed reads as the canonical NaN. -/
def Bench.getF (e : Bench) (f : Fmt) (r : Nat) : Nat :=
  let v := (e.f.get (Fin.ofNat 32 r)).toNat
  if f.bits = 64 then v else if v / 2 ^ 32 = 2 ^ 32 - 1 then v % 2 ^ 32 else f32.nanEnc

/-- f[i] written; a single is boxed. -/
def Bench.setF (e : Bench) (f : Fmt) (r : Nat) (v : Nat) : Bench :=
  let x : Word := if f.bits = 64 then BitVec.ofNat 64 v else BitVec.ofNat 64 ((2 ^ 32 - 1) * 2 ^ 32 + v % 2 ^ 32)
  { e with f := Vector.ofFn fun k : Fin 32 => if k.val = r then x else e.f.get k }

/-- Flags accrued in fcsr. -/
def bflags (fl : BitVec 5) : BM Unit := modify fun m => { m with e := { m.e with fcsr := m.e.fcsr ||| fl.setWidth 8 } }

/-- The rounding of an instruction: its field, or frm where that is 7; a reserved mode is illegal. -/
def brnd (w : Nat) : BM Rnd := do
  let m ← get
  let f := rb w 12 3
  let rm := if f = 7 then m.e.fcsr.toNat / 32 else f
  illegalIf (decide (4 < rm))
  pure { rm, sat := false, ftz := false, rb := 0 }

/-- The format of an instruction by its fmt field; none for another than S and D. -/
def fmtField (w : Nat) : Option Fmt :=
  match rb w 25 2 with
  | 0 => some f32
  | 1 => some f64
  | _ => none

/-- The smaller, or the larger, of two values: a NaN gives way to a number, and -0 lies below +0. -/
def minmax (f : Fmt) (larger : Bool) (x y : Nat) : Nat × BitVec 5 :=
  let a := unpack f false x
  let b := unpack f false y
  let fl := nvOf [a, b]
  if a.isNan && b.isNan then (f.nanEnc, fl)
  else if a.isNan then (y, fl)
  else if b.isNan then (x, fl)
  else
    let below := ltVal a b || (eqVal a b && a.isNeg && !b.isNeg)
    ((if below != larger then x else y), fl)

/-- FEQ, FLT and FLE by funct3: the result and its flags. -/
def fcompare (f3 : Nat) (a b : FVal) : Bool × BitVec 5 :=
  if a.isNan || b.isNan then (false, if f3 = 2 then nvOf [a, b] else flagNV)
  else
    match f3 with
    | 2 => (eqVal a b, 0)
    | 1 => (ltVal a b, 0)
    | _ => (ltVal a b || eqVal a b, 0)

/-- FCLASS. -/
def rvClass (f : Fmt) (x : Nat) : Nat :=
  let sub := decide (x / 2 ^ f.p % 2 ^ f.eb = 0)
  match unpack f false x with
  | .inf neg => if neg then 0 else 7
  | .nan sig => if sig then 8 else 9
  | .num neg n _ =>
    if n = 0 then (if neg then 3 else 4) else if sub then (if neg then 2 else 5) else (if neg then 1 else 6)

/-- A float converted to an integer of n bits: saturated, with NV, where it does not fit. -/
def rvToInt (r : Rnd) (n : Nat) (signed : Bool) (x : FVal) : Int × BitVec 5 :=
  let hi : Int := if signed then 2 ^ (n - 1) - 1 else 2 ^ n - 1
  let lo : Int := if signed then -(2 ^ (n - 1)) else 0
  match x with
  | .nan _ => (hi, flagNV)
  | .inf neg => (if neg then lo else hi, flagNV)
  | .num neg m d =>
    let q := roundInt r neg m d
    let v : Int := if neg then -(q.1 : Int) else q.1
    if v < lo then (lo, flagNV) else if hi < v then (hi, flagNV) else (v, if q.2 then flagNX else 0)

/-- An integer register as a sign and a magnitude, by rs2 of a conversion: W, WU, L, LU. -/
def intValue (k : Nat) (v : Word) : Int :=
  match k with
  | 0 => (lo32 v).toInt
  | 1 => (lo32 v).toNat
  | 2 => v.toInt
  | _ => v.toNat

/-- OP-FP: opcode 0x53. -/
def opFp (w : Nat) : BM Unit := do
  let m ← get
  let rd := rb w 7 5
  let rs1 := rb w 15 5
  let rs2 := rb w 20 5
  let f3 := rb w 12 3
  match fmtField w with
  | none => illegalIf true
  | some f =>
    let a := m.e.getF f rs1
    let b := m.e.getF f rs2
    let va := unpack f false a
    let vb := unpack f false b
    let putf : Nat × BitVec 5 → BM Unit := fun r => do
      bflags r.2
      modify fun m => { m with e := m.e.setF f rd r.1 }
    let putx : Word → BM Unit := fun v => setRd (BitVec.ofNat 5 rd) v
    let sgn := 2 ^ (f.bits - 1)
    match rb w 27 5 with
    | 0 => putf (addVal f (← brnd w) va vb)
    | 1 => putf (addVal f (← brnd w) va vb.neg)
    | 2 => putf (mulVal f (← brnd w) va vb)
    | 3 => putf (divVal f (← brnd w) va vb)
    | 0x0B =>
      illegalIf (decide (rs2 ≠ 0))
      putf (sqrtVal f (← brnd w) va)
    | 4 =>
      illegalIf (decide (2 < f3))
      let s := if f3 = 0 then b / sgn % 2 else if f3 = 1 then 1 - b / sgn % 2 else (a / sgn + b / sgn) % 2
      putf (a % sgn + s * sgn, 0)
    | 5 =>
      illegalIf (decide (1 < f3))
      putf (minmax f (decide (f3 = 1)) a b)
    | 8 =>
      match rb w 25 2, rs2 with
      | 0, 1 =>
        let r ← brnd w
        putf (convert f32 r (unpack f64 false (m.e.getF f64 rs1)))
      | 1, 0 =>
        let r ← brnd w
        putf (convert f64 r (unpack f32 false (m.e.getF f32 rs1)))
      | _, _ => illegalIf true
    | 0x14 =>
      illegalIf (decide (2 < f3))
      let r := fcompare f3 va vb
      bflags r.2
      putx (if r.1 then 1 else 0)
    | 0x18 =>
      illegalIf (decide (3 < rs2))
      let r := rvToInt (← brnd w) (if rs2 < 2 then 32 else 64) (decide (rs2 % 2 = 0)) va
      bflags r.2
      putx (if rs2 < 2 then w32 (BitVec.ofInt 32 r.1) else BitVec.ofInt 64 r.1)
    | 0x1A =>
      illegalIf (decide (3 < rs2))
      let x := intValue rs2 (m.e.getX (BitVec.ofNat 5 rs1))
      putf (roundNum f (← brnd w) (decide (x < 0)) x.natAbs 1)
    | 0x1C =>
      illegalIf (decide (rs2 ≠ 0) || decide (1 < f3))
      let raw := m.e.f.get (Fin.ofNat 32 rs1)
      putx (if f3 = 1 then BitVec.ofNat 64 (2 ^ rvClass f a) else if f.bits = 64 then raw else w32 (lo32 raw))
    | 0x1E =>
      illegalIf (decide (rs2 ≠ 0) || decide (f3 ≠ 0))
      putf ((m.e.getX (BitVec.ofNat 5 rs1)).toNat % 2 ^ f.bits, 0)
    | _ => illegalIf true

/-- FMADD, FMSUB, FNMSUB and FNMADD, by opcode bits [3:2]. -/
def opRvFma (w : Nat) : BM Unit := do
  let m ← get
  match fmtField w with
  | none => illegalIf true
  | some f =>
    let r ← brnd w
    let v := fun k => unpack f false (m.e.getF f k)
    let k := rb w 2 2
    let c := v (rb w 27 5)
    let x := fmaVal f r (decide (2 ≤ k)) (v (rb w 15 5)) (v (rb w 20 5)) (if k = 1 ∨ k = 3 then c.neg else c)
    bflags x.2
    modify fun m => { m with e := m.e.setF f (rb w 7 5) x.1 }

/-! ### Loads, stores and control -/

/-- Loads: opcodes 0x03 and 0x07. -/
def rvLoad (w : Nat) (fp : Bool) : BM Unit := do
  let m ← get
  let f3 := rb w 12 3
  illegalIf (if fp then decide (f3 ≠ 2) && decide (f3 ≠ 3) else decide (f3 = 7))
  let n := 2 ^ (f3 % 4)
  let a := m.e.getX (BitVec.ofNat 5 (rb w 15 5)) + BitVec.ofNat 64 (rsx 12 64 (rb w 20 12))
  let p ← bplace a n 4 5 false
  let v ← bread p n
  if fp then modify fun m => { m with e := m.e.setF (if n = 8 then f64 else f32) (rb w 7 5) v }
  else setRd (BitVec.ofNat 5 (rb w 7 5)) (if 4 ≤ f3 then BitVec.ofNat 64 v else sextN (BitVec.ofNat 64 v) (8 * n))

/-- Stores: opcodes 0x23 and 0x27. -/
def rvStore (w : Nat) (fp : Bool) : BM Unit := do
  let m ← get
  let f3 := rb w 12 3
  illegalIf (decide (3 < f3) || (fp && decide (f3 < 2)))
  let n := 2 ^ f3
  let a := m.e.getX (BitVec.ofNat 5 (rb w 15 5)) + BitVec.ofNat 64 (rsx 12 64 (rb w 7 5 + rb w 25 7 * 32))
  let v := if fp then m.e.f.get (Fin.ofNat 32 (rb w 20 5)) else m.e.getX (BitVec.ofNat 5 (rb w 20 5))
  let p ← bplace a n 6 7 true
  bwrite p a n (v.toNat % 2 ^ (8 * n))

/-- ECALL, EBREAK and the CSR instructions: opcode 0x73. (DEDUCED: notes/assumptions/18.md.) -/
def opSystem (w : Nat) : BM Unit := do
  let m ← get
  if rb w 12 3 = 0 then
    if w = 0x00000073 then throw (.fault 8 (sramWord m.e))
    else if w = 0x00100073 then throw (.fault 3 (sramWord m.e))
    else illegalIf true
  else if rb w 12 3 = 4 then illegalIf true
  else opCsr w

/-- A result, or an illegal encoding. -/
def putOr (w : Nat) (v : Option Word) : BM Unit :=
  match v with
  | some x => setRd (BitVec.ofNat 5 (rb w 7 5)) x
  | none => illegalIf true

/-- One instruction of 32 bits. (PRESUMED: notes/assumptions/16.md.) -/
def opRv (w : Nat) : BM Unit := do
  let m ← get
  let a := m.e.getX (BitVec.ofNat 5 (rb w 15 5))
  let b := m.e.getX (BitVec.ofNat 5 (rb w 20 5))
  let rd : BitVec 5 := BitVec.ofNat 5 (rb w 7 5)
  let upper := sextN (BitVec.ofNat 64 (rb w 12 20 * 4096)) 32
  match w % 128 with
  | 0x37 => setRd rd upper
  | 0x17 => setRd rd (m.e.pc + upper)
  | 0x6F =>
    let off := rsx 21 64 (rb w 31 1 * 2 ^ 20 + rb w 12 8 * 2 ^ 12 + rb w 20 1 * 2 ^ 11 + rb w 21 10 * 2)
    setRd rd m.npc
    set { (← get) with npc := m.e.pc + BitVec.ofNat 64 off }
  | 0x67 =>
    illegalIf (decide (rb w 12 3 ≠ 0))
    setRd rd m.npc
    set { (← get) with npc := (a + BitVec.ofNat 64 (rsx 12 64 (rb w 20 12))) &&& ~~~1 }
  | 0x63 =>
    let off := rsx 13 64 (rb w 31 1 * 2 ^ 12 + rb w 7 1 * 2 ^ 11 + rb w 25 6 * 2 ^ 5 + rb w 8 4 * 2)
    match branchTaken (rb w 12 3) a b with
    | none => illegalIf true
    | some t => if t then set { m with npc := m.e.pc + BitVec.ofNat 64 off }
  | 0x03 => rvLoad w false
  | 0x07 => rvLoad w true
  | 0x23 => rvStore w false
  | 0x27 => rvStore w true
  | 0x13 => putOr w (imm64 w a)
  | 0x1B => putOr w (imm32 w a)
  | 0x33 => putOr w (alu64 (rb w 25 7) (rb w 12 3) a b)
  | 0x3B => putOr w (alu32 (rb w 25 7) (rb w 12 3) (rb w 20 5) a b)
  | 0x0F => illegalIf (decide (1 < rb w 12 3))
  | 0x73 => opSystem w
  | 0x2F => opAmo w
  | 0x43 => opRvFma w
  | 0x47 => opRvFma w
  | 0x4B => opRvFma w
  | 0x4F => opRvFma w
  | 0x53 => opFp w
  | _ => illegalIf true

/-- One RISC-V instruction, compressed or not (R396). -/
def benchInstruction (s : State) (w : Nat) : Host.Outcome State Fault Refusal :=
  if w % 4 = 3 then runBench s 4 Bench.retire (opRv w)
  else
    runBench s 2 Bench.retire (match expandC (w % 65536) with
      | some x => opRv x
      | none => illegalIf true)

/-! ### Meanings -/

/-- BENCH_INSTRUCTION (R396). -/
def execBenchInstruction (word : BitVec 32) (s : State) : Host.Outcome State Fault Refusal := benchInstruction s word.toNat
/-- EP.PUBOBS (R416). -/
def execEpPubobs (b a d : BitVec 5) (s : State) : Host.Outcome State Fault Refusal := runBench s 4 Bench.retirePub (opPubobs b a d)
/-- EP.END (R416). -/
def execEpEnd (b a : BitVec 5) (s : State) : Host.Outcome State Fault Refusal := runBench s 4 Bench.retirePub (opEnd b a)
/-- EP.INFO (R417). -/
def execEpInfo (item : BitVec 3) (d : BitVec 5) (s : State) : Host.Outcome State Fault Refusal :=
  runBench s 4 Bench.retire (opInfo item d)
/-- EP.VER (R418). -/
def execEpVer (d : BitVec 5) (s : State) : Host.Outcome State Fault Refusal :=
  runBench s 4 Bench.retire (do
    let m ← get
    setRd d (BitVec.ofNat 64 (m.st.policyver (m.st.benchPart m.b))))
/-- EP.RAND (R419). -/
def execEpRand (b a d : BitVec 5) (s : State) : Host.Outcome State Fault Refusal :=
  runBench s 4 Bench.retire (do
    let m ← get
    setRd d (BitVec.ofNat 64 (epRandom m.e b a)))
/-- EP.RANDH (R419). -/
def execEpRandh (b a d : BitVec 5) (s : State) : Host.Outcome State Fault Refusal :=
  runBench s 4 Bench.retire (do
    let m ← get
    setRd d (BitVec.ofNat 64 (epRandom m.e b a / 2 ^ 64)))
/-- START (R403). -/
def execStart (b : Nat) (s : State) : Host.Outcome State Fault Refusal := .next (startEpisode s b)
/-- ABORT (R403). -/
def execAbort (b : Nat) (s : State) : Host.Outcome State Fault Refusal := .next (abortEpisode s b)
/-- ACTION (R407). -/
def execAction (b : Nat) (s : State) : Host.Outcome State Fault Refusal := .next (acceptAction s b)
/-- VERSION_ADVANCE (R411). -/
def execVersionAdvance (part : Nat) (s : State) : Host.Outcome State Fault Refusal := .next (advanceVersion s part)
/-- WAITACT_RETURN (R415). -/
def execWaitactReturn (b : Nat) (s : State) : Host.Outcome State Fault Refusal := .next (waitactReturn s b)
/-- INSTRUCTION_BUDGET (R413). -/
def execInstructionBudget (b : Nat) (s : State) : Host.Outcome State Fault Refusal := .next (instructionBudget s b)
/-- TIME_BUDGET (R413). -/
def execTimeBudget (b : Nat) (s : State) : Host.Outcome State Fault Refusal := .next (timeBudget s b)

end Sys2Proof.Machine
end

