-- ==== Sys2Proof/Machine/Copy.lean ====
section
/-!
DEFINITION. Sys2Proof/Machine/Copy.lean: opcodes 0xD0-0xD4 and the copy engine (R271-R288).
-/

namespace Sys2Proof.Machine

/-! ### Issuing an engine command (R271, R282-R287) -/

/-- Engine commands that a chunk holds at most. -/
def engineMax : Nat := 8

/-- Engine commands among some effects. -/
def copyCount (es : List Effect) : Nat := es.countP fun e => match e with
  | .copy _ => true
  | _ => false

/-- A ninth engine command ends the chunk before it (R271). -/
def roomForCopy : M Unit := do
  let m ← get
  if engineMax ≤ copyCount m.ch.effects then throw .before

/-- A place that copies, fills and completion words may name (R283). -/
def copyPlace (pl : Place) : Bool :=
  match pl with
  | .control _ _ => false
  | .bench _ _ => false
  | _ => true

/-- A place that CPYG may name (R283). -/
def gatherPlace (pl : Place) : Bool :=
  match pl with
  | .hbm => true
  | .scratch _ => true
  | .remote => true
  | _ => false

/-- The places of the first bytes of some ranges, each translated before any region is checked (R283). -/
def locateFirsts : List (Access × Word) → M (List (Word × Loc))
  | [] => pure []
  | (k, va) :: es => do
    let l ← locate k va
    let r ← locateFirsts es
    pure ((va, l) :: r)

/-- The region checks of R283, in order. -/
def needPlaces (ok : Place → Bool) : List (Word × Loc) → M Unit
  | [] => pure ()
  | (va, l) :: es => do
    faultIf (!ok l.place) 0x07 va
    needPlaces ok es

/-- The completion word of C: its address, where there is one, and its value (R275). -/
def completion (m : Mach) (c : BitVec 6) : Option Word × Word :=
  if c = 0 then (none, 0) else (some (m.ar.getX c), m.ar.getX (c + 1))

/-- The value of a completion word leaves [63:48] clear (R283). -/
def needCompletion (m : Mach) (c : BitVec 6) : M Unit :=
  if c = 0 then pure () else faultIf (decide (field (m.ar.getX (c + 1)) 48 16 ≠ 0)) 0x0A (m.ar.getX (c + 1))

/-- A completion word is aligned on 8 (R283). -/
def alignedCompletion (m : Mach) (c : BitVec 6) : M Unit :=
  if c = 0 then pure () else needAligned (m.ar.getX c) 8

/-- The completion word among the ranges to be translated. -/
def completionRange (m : Mach) (c : BitVec 6) : List (Access × Word) := if c = 0 then [] else [(.store, m.ar.getX c)]

/-- A range's first byte, where it has one. -/
def firstByte (n : Nat) (k : Access) (va : Word) : List (Access × Word) := if n = 0 then [] else [(k, va)]

/-- Position 7 of R283 for a source and a destination, and whether the copy goes by blocks of its source (R280), for which the first byte
of its destination decides; where both lie beyond the edge the destination is reported (R281). (DESIGN CHOICE: notes/assumptions/76.md.) -/
def copyRanges (n : Nat) (src dst : List (Access × Word)) (c : BitVec 6) : M Bool := do
  let m ← get
  let ls ← locateFirsts (src ++ dst ++ completionRange m c)
  needPlaces copyPlace ls
  let beyond := fun va : Word => ls.any fun e => decide (e.1 = va) && e.2.place.beyond
  let out := decide (n ≠ 0) && dst.any fun e => beyond e.2
  match dst with
  | (_, va) :: _ => faultIf (out && src.any fun e => beyond e.2) 0x07 va
  | [] => pure ()
  pure out

/-- The command is carried with its chunk (R271). -/
def emitCopy (kind : CopyKind) (src dst : Word) (len : Nat) (bySrc : Bool) (c : BitVec 6) : M Unit := do
  let m ← get
  emit (.copy { kind, src, dst, len, bySrc, cw := (completion m c).1, cval := (completion m c).2, tid := m.tid, crew := m.th.crew,
                guild := m.ar.guild })

/-- The longest copy (R284). -/
def copyLimit : Nat := 2 ^ 40

/-- Two virtual ranges of n bytes overlap. -/
def overlap (d a : Word) (n : Nat) : Bool := decide ((d - a).toNat < n) || decide ((a - d).toNat < n)

def opCpy (d b a c : BitVec 6) : M Unit := do
  notArming
  roomForCopy
  let m ← get
  let dst := m.ar.getX d
  let src := m.ar.getX a
  let n := (m.ar.getX b).toNat
  faultIf (decide (copyLimit < n)) 0x0A (m.ar.getX b)
  faultIf (overlap dst src n) 0x0A dst
  needCompletion m c
  alignedCompletion m c
  let out ← copyRanges n (firstByte n .load src) (firstByte n .store dst) c
  emitCopy .linear src dst n out c

/-- The magnitude of a signed 32-bit stride. -/
def strideAbs (v : Nat) : Nat := (signedOf 32 v).natAbs

def opCpys (d b a c : BitVec 6) : M Unit := do
  notArming
  roomForCopy
  let m ← get
  let dst := m.ar.getX d
  let src := m.ar.getX a
  let p := m.ar.getX b
  let q := m.ar.getX (b + 1)
  let len := field p 0 32
  let rows := field p 32 16
  faultIf (decide (field p 48 16 ≠ 0)) 0x0A p
  faultIf (decide (copyLimit < len * rows)) 0x0A p
  faultIf (decide (1 < rows) && decide (strideAbs (field q 32 32) < len)) 0x0A q
  needCompletion m c
  alignedCompletion m c
  let out ← copyRanges (len * rows) (firstByte (len * rows) .load src) (firstByte (len * rows) .store dst) c
  emitCopy (.strided rows len (sextN q 32) (sextN (q >>> 32) 32)) src dst (len * rows) out c

/-- A signed or unsigned index of n bytes as an offset of elements of e bytes. -/
def indexOff (signed : Bool) (n e v : Nat) : Word := BitVec.ofInt 64 ((if signed then signedOf (8 * n) v else (v : Int)) * e)

def opCpyg (d : BitVec 6) (z : BitVec 2) (b a : BitVec 6) (ig : BitVec 1) (iw : BitVec 2) (c : BitVec 6) (sc : BitVec 1) :
    M Unit := do
  notArming
  roomForCopy
  let m ← get
  let dst := m.ar.getX d
  let src := m.ar.getX a
  let idx := m.ar.getX b
  let q := m.ar.getX (b + 1)
  let e := sizeOf2 z
  let w := sizeOf2 iw
  let n := field q 0 32
  faultIf (decide (field q 32 32 ≠ 0)) 0x0A q
  needCompletion m c
  alignedCompletion m c
  needAligned dst e
  needAligned src e
  needAligned idx w
  let li ← locateFirsts (firstByte n .load idx)
  let side := if sc = 1 then firstByte n .load src else firstByte n .store dst
  let ls ← locateFirsts side
  let first ← match li with
    | [] => pure []
    | (va, l) :: _ => do
      let bs ← readAt l va w
      let off := indexOff (ig == 1) w e (ofBytes bs)
      pure (if sc = 1 then [(Access.store, dst + off)] else [(Access.load, src + off)])
  let lf ← locateFirsts first
  let lc ← locateFirsts (completionRange m c)
  needPlaces gatherPlace (li ++ ls ++ lf)
  needPlaces copyPlace lc
  emitCopy (.gather e w (ig == 1) (sc == 1) idx) src dst n false c

/-- CFILL (R287): a length that is no multiple of 8 is reported as cause 0x04's value. (DESIGN CHOICE: notes/assumptions/77.md.) -/
def opCfill (d b a c : BitVec 6) : M Unit := do
  notArming
  roomForCopy
  let m ← get
  let dst := m.ar.getX d
  let n := (m.ar.getX b).toNat
  faultIf (decide (copyLimit < n)) 0x0A (m.ar.getX b)
  needCompletion m c
  alignedCompletion m c
  needAligned dst 8
  needAligned (m.ar.getX b) 8
  let out ← copyRanges n [] (firstByte n .store dst) c
  emitCopy (.fill (m.ar.getX a)) 0 dst n out c

/-! ### CSTAT (R288) -/

/-- Commands that the tracker holds, and that the front queue holds before it (R272). -/
def trackerSize : Nat := 1024
def frontSize : Nat := 2

/-- The thread's engine commands that have left and not completed. -/
def engineOut (s : State) (tid : Nat) : Nat := ((s.core (coreOf tid)).engine.filter fun e => e.cmd.tid = tid).length

/-- The word of CSTAT. -/
def engineWord (s : State) (tid : Nat) (fail : Bool) : Word :=
  BitVec.ofNat 64 (engineOut s tid % 2 ^ 16 + min (s.core (coreOf tid)).engine.length trackerSize * 2 ^ 16 + fail.toNat * 2 ^ 27)

def opCstat (d : BitVec 6) : M Unit := do
  notArming
  let m ← get
  setX d (engineWord m.st m.tid m.th.fail)

/-- CSTAT.w: alone, once its thread's earlier chunks have been acknowledged; it sleeps while a command is out. FAIL is read again, and
cleared, at its commit. -/
def opCstatW (d : BitVec 6) : M Unit := do
  notArming
  standAlone
  let m ← get
  if m.th.chunks ≠ [] then throw .wait
  if engineOut m.st m.tid ≠ 0 then throw (.sleep (.engine d))
  setX d (engineWord m.st m.tid m.th.fail)
  emit (.failSeen d)

/-! ### What an engine reaches (R278, R143) -/

/-- Why an engine chunk is not performed: a failed check, at an address of the source or the destination; a guard; a source line
that a link has still to answer with, at a physical and a virtual address; an SPOST that is still to be applied there, or a home that is
held; an uncorrectable source line. -/
inductive EngStop where
  | fault (dest : Bool) (va : Word)
  | guard (va : Word)
  | ask (pa : Nat) (va : Word)
  | held
  | check (va : Word)
deriving DecidableEq, Repr

/-- The leaf that maps an address for an engine: the cluster's TLB, or a walk. -/
def engLeaf (s : State) (core p : Nat) (g : BitVec 16) (va : Word) : Option TlbEntry :=
  match tlbFind (s.cluster (clusterOf core)).tlb g va.toNat with
  | some e => some e
  | none => walk s p g va.toNat

/-- The places that a command's sources and destinations may name (R283), also at the engine's own access: a memory-form source that has
been mapped elsewhere since is read there (R299). (DESIGN CHOICE: notes/assumptions/78.md.) -/
def CopyCmd.places (c : CopyCmd) : Place → Bool :=
  match c.kind with
  | .gather _ _ _ _ _ => gatherPlace
  | _ => copyPlace

/-- The place of an engine's access under its command's guild, if every check passes (R278, R283). -/
def engLoc (s : State) (core : Nat) (c : CopyCmd) (ok : Place → Bool) (k : Access) (va : Word) : Option Loc :=
  let p := crewPart c.crew
  if !canonical va then none
  else if Config.windowBase ≤ va.toNat then
    let o := va.toNat - Config.windowBase
    let b := s.bank (clusterOf core) (o / 2 ^ 16)
    if o / 2 ^ 16 < 16 ∧ b.mode = 1 ∧ (b.owner = c.guild ∨ s.guildSys p c.guild) then
      some { pa := scratchPa (clusterOf core) (o / 2 ^ 16) (o % 2 ^ 16), place := .scratch (o / 2 ^ 16) }
    else none
  else
    match engLeaf s core p c.guild va with
    | none => none
    | some e =>
      if e.grants k then (placeOf s p (e.pa va.toNat)).filter fun l => ok l.place else none

/-- A source byte (R273, R281): committed, or as the link has answered. A line that a scrub has marked cannot be read (R437). -/
def engByte (s : State) (core : Nat) (e : EngEntry) (va : Word) : Except EngStop Byte :=
  match engLoc s core e.cmd e.cmd.places .load va with
  | none => .error (.fault false va)
  | some l =>
    if l.place.beyond then
      match assocGet? l.pa e.reads with
      | some b => .ok b
      | none => .error (.ask (l.pa / 64 * 64) va)
    else if s.marked.contains (lineOf l.pa) then .error (.check va)
    else if s.postHeld (some e.cmd.tid) [l.pa / 8] || s.homeHeld (lineOf l.pa) then .error .held
    else .ok (s.readByte l.pa)

/-- A byte that an engine writes, which no other crew may guard (R182). -/
def engPut (s : State) (core : Nat) (e : EngEntry) (ok : Place → Bool) (va : Word) : Except EngStop Nat :=
  match engLoc s core e.cmd ok .store va with
  | none => .error (.fault true va)
  | some l =>
    if s.guarded (crewPart e.cmd.crew) (some e.cmd.crew) l.pa then .error (.guard va)
    else if s.postHeld (some e.cmd.tid) [l.pa / 8] || s.homeHeld (lineOf l.pa) then .error .held
    else .ok l.pa

/-- A destination byte; reading beyond the edge and writing there is refused (R281). -/
def engDest (s : State) (core : Nat) (e : EngEntry) (va : Word) : Except EngStop Nat := engPut s core e e.cmd.places va

/-- A byte that an engine writes: its virtual address, its physical address and its value. -/
abbrev EngCell := Word × Host.Cell

/-- One byte copied. -/
def engMove (s : State) (core : Nat) (e : EngEntry) (src dst : Word) : Except EngStop EngCell := do
  let b ← engByte s core e src
  let pa ← engDest s core e dst
  let far := (engLoc s core e.cmd e.cmd.places .load src).any fun l => l.place.beyond
  if far && s.beyond (crewPart e.cmd.crew) pa then .error (.fault true dst) else pure (dst, pa, b)

/-- The offsets of block j of a run of n bytes at an address, cut at 4 KiB (R273). -/
def blockOf (va : Word) (n j : Nat) : Nat × Nat :=
  let first := 4096 - va.toNat % 4096
  let lo := if j = 0 then 0 else first + 4096 * (j - 1)
  (min lo n, min (first + 4096 * j) n)

/-- The blocks of a run. -/
def blockCount (va : Word) (n : Nat) : Nat := if n = 0 then 0 else (va.toNat % 4096 + n + 4095) / 4096

/-- A run of bytes copied. -/
def engRun (s : State) (core : Nat) (e : EngEntry) (src dst : Word) (lo hi : Nat) : Except EngStop (List EngCell) :=
  (List.range (hi - lo)).mapM fun i => engMove s core e (src + BitVec.ofNat 64 (lo + i)) (dst + BitVec.ofNat 64 (lo + i))

/-- Elements of a gather or scatter in one engine chunk (R273). -/
def gatherMax : Nat := 64

/-- Element k of CPYG (R286). -/
def engElem (s : State) (core : Nat) (e : EngEntry) (w iw : Nat) (signed scatter : Bool) (idx : Word) (k : Nat) :
    Except EngStop (List EngCell) := do
  let ib ← (List.range iw).mapM fun i => engByte s core e (idx + BitVec.ofNat 64 (k * iw + i))
  let off := indexOff signed iw w (ofBytes ib)
  let at' := BitVec.ofNat 64 (k * w)
  if scatter then engRun s core e (e.cmd.src + at') (e.cmd.dst + off) 0 w
  else engRun s core e (e.cmd.src + off) (e.cmd.dst + at') 0 w

/-- A list in an order that some words choose; every order is chosen by some words. -/
def shuffle (f : Nat → Word) : Nat → List Nat → List Nat
  | 0, l => l
  | n + 1, l =>
    let i := (f n).toNat % max l.length 1
    (l[i]?).toList ++ shuffle f n (l.eraseIdx i)

/-- The bytes that engine chunk j of a command writes (R273, R284-R287). A chunk of CPYS is numbered row 2^21 + block. Where a
scatter repeats an index the manual does not fix which element prevails: its elements are written in an open order.
(DESIGN CHOICE: notes/assumptions/4.md.) -/
def engCells (s : State) (core : Nat) (e : EngEntry) (j : Nat) : Except EngStop (List EngCell) :=
  let c := e.cmd
  match c.kind with
  | .linear =>
    let r := blockOf (if c.bySrc then c.src else c.dst) c.len j
    engRun s core e c.src c.dst r.1 r.2
  | .strided _ len ss ds =>
    let i := BitVec.ofNat 64 (j / 2 ^ 21)
    let src := c.src + i * ss
    let dst := c.dst + i * ds
    let r := blockOf (if c.bySrc then src else dst) len (j % 2 ^ 21)
    engRun s core e src dst r.1 r.2
  | .fill v =>
    let r := blockOf c.dst c.len j
    (List.range (r.2 - r.1)).mapM fun i => do
      let o := r.1 + i
      let pa ← engDest s core e (c.dst + BitVec.ofNat 64 o)
      pure (c.dst + BitVec.ofNat 64 o, pa, BitVec.ofNat 8 (v.toNat / 2 ^ (8 * (o % 8))))
  | .gather w iw sg sc idx => do
    let n := min gatherMax (c.len - gatherMax * j)
    let ks := if sc then shuffle (fun i => Config.freeWord (s.free + i)) n (List.range n) else List.range n
    let cs ← ks.mapM fun i => engElem s core e w iw sg sc idx (gatherMax * j + i)
    pure cs.flatten
  | .contrib _ _ _ _ => .ok []

/-- The blocks of a row of CPYS. -/
def CopyCmd.rowBlocks (c : CopyCmd) (i : Nat) : Nat :=
  match c.kind with
  | .strided _ len ss ds => blockCount (if c.bySrc then c.src + BitVec.ofNat 64 i * ss else c.dst + BitVec.ofNat 64 i * ds) len
  | _ => 0

/-- The engine chunks of a command's payload. -/
def CopyCmd.chunks (c : CopyCmd) : Nat :=
  match c.kind with
  | .linear => blockCount (if c.bySrc then c.src else c.dst) c.len
  | .strided rows _ _ _ => ((List.range rows).map c.rowBlocks).sum
  | .fill _ => blockCount c.dst c.len
  | .gather _ _ _ _ _ => (c.len + gatherMax - 1) / gatherMax
  | .contrib _ _ _ _ => 0

/-- j numbers an engine chunk of a command. -/
def CopyCmd.hasChunk (c : CopyCmd) (j : Nat) : Bool :=
  match c.kind with
  | .strided rows _ _ _ => decide (j / 2 ^ 21 < rows) && decide (j % 2 ^ 21 < c.rowBlocks (j / 2 ^ 21))
  | _ => decide (j < c.chunks)

/-! ### What an engine does (R272-R281) -/

/-- A status of R275. -/
def EngStatus.code (s : EngStatus) : Nat :=
  match s with
  | .done => 0
  | .fault => 1
  | .guard => 2
  | .peer => 3
  | .timeout => 4

/-- VALUE of a failure: [47] a destination, [46:0] of the address (R275). -/
def failValue (dest : Bool) (va : Word) : Nat := dest.toNat * 2 ^ 47 + va.toNat % 2 ^ 47

/-- An entry of a core's engine replaced. -/
def State.setEngine (s : State) (core : Nat) (e : EngEntry) : State :=
  let c := s.core core
  s.setCore core { c with engine := c.engine.map fun x => if x.id = e.id then e else x }

/-- A command in a core's engine. -/
def State.engineOf (s : State) (core id : Nat) : Option EngEntry := (s.core core).engine.find? fun e => e.id = id

/-- The FAIL bit of a crew's thread set (R277), also where the crew is stopped. -/
def State.setFail (s : State) (crew tid : Nat) : State :=
  match (s.thread tid).filter fun t => t.crew = crew with
  | some t => s.setThread tid { t with fail := true }
  | none =>
    match s.crew crew with
    | some w => s.setCrew crew { w with stopped := w.stopped.map fun x =>
        { x with members := x.members.map fun e => if e.1 = tid then (e.1, { e.2 with fail := true }) else e } }
    | none => s

/-- A command completes and leaves the tracker (R272, R277); lost holds where its status reaches no completion word. -/
def State.endEngine (s : State) (core : Nat) (e : EngEntry) (lost : Bool) : State :=
  let c := s.core core
  let s := s.setCore core { c with engine := c.engine.filter fun x => x.id ≠ e.id }
  if lost then s.setFail e.cmd.crew e.cmd.tid else s

/-- A command that ends in failure (R276). -/
def EngEntry.fail (e : EngEntry) (st : EngStatus) (v : Nat) : EngEntry :=
  if e.status = .done then { e with status := st, value := v } else e

/-- A command whose payload has all been performed, or that has failed, with nothing beyond the edge unacknowledged. -/
def EngEntry.over (e : EngEntry) : Bool :=
  decide (e.unacked = 0) && (decide (e.status ≠ .done) || decide (e.cmd.chunks ≤ e.done.length))

/-- A command goes on with what has become of it; one without a completion word completes with its last engine chunk, or at its
failure (R277). -/
def State.engineNow (s : State) (core : Nat) (e : EngEntry) : State :=
  if e.over && e.cmd.cw.isNone then s.endEngine core e (decide (e.status ≠ .done)) else s.setEngine core e

/-- Engine chunks of a crew that is being stopped, or whose signature meets an older aged chunk, are not granted (R117, R383). -/
def State.engineHeld (s : State) (c : CopyCmd) (lines : List Nat) : Bool :=
  (s.crew c.crew).any (fun w => w.stopping.isSome) || s.agedBlocks (crewPart c.crew) (some c.tid) lines

/-- The lines of an engine chunk ride the strings to their homes, in class 5 (R336). -/
def State.sendBulk (s : State) (core : Nat) (lines : List Nat) : State :=
  lines.foldl (fun s l => s.send clsBulk (coreFret core) (lineFret l) core (.bulk l)) s

/-- The bytes of one engine chunk: those inside the package commit as one, those beyond the edge leave line by line (R280); and whether
it was granted. The host gives up what it holds first (R424). -/
def State.engineWrite (s : State) (core : Nat) (e : EngEntry) (cells : List EngCell) (j : Nat) : State × Bool :=
  let p := crewPart e.cmd.crew
  let near := (cells.map Prod.snd).filter fun c => !s.beyond p c.1
  let far := linkRuns ((cells.map Prod.snd).filter fun c => s.beyond p c.1)
  let va := fun r : List Host.Cell => ((cells.find? fun c => c.2.1 = (r.headD (0, 0)).1).map Prod.fst).getD 0
  if !near.isEmpty && s.engineHeld e.cmd (cellLines near) then (s, false)
  else if s.hostHolds (cellLines near) then (s.askFirst p (cellLines near), false)
  else
    let s := if near.isEmpty then s else ((s.commitCells p near).noteNo e.cmd.crew).sendBulk core (cellLines near)
    let s := far.foldl (fun s r =>
      s.sendLink (.payload core e.id (va r) r) (some e.cmd.crew) p (s.part p).commitNo e.cmd.guild) s
    (s.engineNow core { e with done := e.done ++ [j], unacked := e.unacked + far.length }, true)

/-- What becomes of a command whose engine chunk has stopped, and whether that was its turn (R276, R281): a failed check or a guard ends
it; a source line beyond the edge is asked for once; a chunk that is held waits. An uncorrectable source line is reported and ends it as
a failed check does (R376, R437). (DESIGN CHOICE: notes/assumptions/71.md.) -/
def State.engineStopped (s : State) (core : Nat) (e : EngEntry) (x : EngStop) : State × Bool :=
  match x with
  | .fault d va => (s.engineNow core (e.fail .fault (failValue d va)), true)
  | .guard va => (s.engineNow core (e.fail .guard (failValue true (BitVec.ofNat 64 (va.toNat / 64 * 64)))), true)
  | .check va => ((s.unitCheck (crewPart e.cmd.crew) e.cmd.guild.toNat e.cmd.crew va).engineNow core
      (e.fail .fault (failValue false va)), true)
  | .ask pa va =>
    if e.asked.contains pa then (s, false)
    else ((s.sendLink (.fetch core e.id pa 64 va) (some e.cmd.crew) (crewPart e.cmd.crew) 0 e.cmd.guild).setEngine core
      { e with asked := e.asked ++ [pa] }, false)
  | .held => (s, false)

/-- One payload chunk (R273, R276), and whether it has been the command's turn. -/
def State.enginePayload (s : State) (core : Nat) (e : EngEntry) (j : Nat) : State × Bool :=
  let s := s.settleAll
  match engCells s core e j with
  | .ok cells => { s with free := s.free + gatherMax }.engineWrite core e cells j
  | .error x => s.engineStopped core e x

/-- The completion word (R275). -/
def EngEntry.word (e : EngEntry) : Word :=
  BitVec.ofNat 64 (e.status.code * 2 ^ 48 + (if e.status = .done then field e.cmd.cval 0 48 else e.value))

/-- The last engine chunk: the completion word, where there is one, once every payload write has been acknowledged (R275-R277,
R280), and whether it has been the command's turn. A completion word that cannot be written, for a guard or for a failed check, leaves its
status to the thread's FAIL bit. (DESIGN CHOICE: notes/assumptions/72.md.) -/
def State.engineFinal (s : State) (core : Nat) (e : EngEntry) : State × Bool :=
  if e.unacked ≠ 0 ∨ e.sent then (s, false)
  else
    match e.cmd.cw with
    | none => (s.endEngine core e (decide (e.status ≠ .done)), true)
    | some va =>
      match engPut s core e copyPlace va with
      | .error .held => (s, false)
      | .error _ => (s.endEngine core e true, true)
      | .ok pa =>
        let p := crewPart e.cmd.crew
        if s.beyond p pa then
          ((s.sendLink (.payload core e.id va (runCells pa (bytesOf 8 e.word.toNat))) (some e.cmd.crew) p (s.part p).commitNo
            e.cmd.guild).setEngine core { e with sent := true, unacked := 1 }, true)
        else if s.engineHeld e.cmd [lineOf pa] then (s, false)
        else if s.hostHolds [lineOf pa] then (s.askFirst p [lineOf pa], false)
        else ((((s.commitWord p pa e.word).noteNo e.cmd.crew).sendBulk core [lineOf pa]).endEngine core e false, true)

/-- A payload write, or a completion word, has been acknowledged (R280). -/
def State.ackPayload (s : State) (core id : Nat) : State :=
  match s.engineOf core id with
  | none => s
  | some e =>
    if e.sent && decide (e.unacked = 1) then s.endEngine core e false
    else s.engineNow core { e with unacked := e.unacked - 1 }

/-- The commands of its tracker that the engine works on (R272). -/
def engineWindow : Nat := 16

/-- The lines that a command has asked a link for and not had. -/
def EngEntry.awaits (e : EngEntry) : Bool := e.asked.any fun pa => (assocGet? pa e.reads).isNone

/-- A command has had its turn. -/
def State.engineTook (s : State) (core id : Nat) : State := s.setCore core { s.core core with engLast := some id }

/-- A sleeping CSTAT.w runs again once nothing of its thread is out (R288). -/
def engineWake (s : State) (tid : Nat) : State :=
  match s.thread tid with
  | some t =>
    match t.run with
    | .engine _ => if engineOut s tid = 0 then s.setThread tid { t with run := .running } else s
    | _ => s
  | none => s

/-! ### Meanings -/

def execCpy (d b a c : BitVec 6) (s : State) := runHead s (opCpy d b a c)
def execCpys (d b a c : BitVec 6) (s : State) := runHead s (opCpys d b a c)
def execCpyg (d : BitVec 6) (z : BitVec 2) (b a : BitVec 6) (ig : BitVec 1) (iw : BitVec 2) (c : BitVec 6) (sc : BitVec 1)
    (s : State) := runHead s (opCpyg d z b a ig iw c sc)
def execCfill (d b a c : BitVec 6) (s : State) := runHead s (opCfill d b a c)
def execCstat (d : BitVec 6) (s : State) := runHead s (opCstat d)
def execCstatW (d : BitVec 6) (s : State) := runHead s (opCstatW d)

/-- ENGINE_WAIT_WAKE (R288). -/
def execEngineWaitWake (tid : Nat) (s : State) : Host.Outcome State Fault Refusal := .next (engineWake s tid)

end Sys2Proof.Machine
end

