-- ==== Sys2Proof/Machine/Vector.lean ====
section
/-!
DEFINITION. Sys2Proof/Machine/Vector.lean: spans and masks, integer, movement and floating-point element instructions,
reductions, TOPN and RNG (opcodes 0x91-0xB5, 0xBD-0xBF; R225-R243). Each instruction is an operation `op…`, which REP also
runs (R221), and its meaning `exec…`.
-/

namespace Sys2Proof.Machine

/-! ### Spans and masks (R225, R226) -/

/-- VSPAN (R225). -/
def opVspan (d z : BitVec 2) (a : BitVec 6) (n : BitVec 3) : M Unit := do
  notArming
  needVec
  let m ← get
  let cnt := min (m.ar.getX a).toNat (n.toNat * 64 / 2 ^ z.toNat)
  onArch fun ar => ar.setS d (BitVec.ofNat 64 ((n.toNat - 1) * 2 ^ 11 + z.toNat * 2 ^ 9 + cnt))

/-- A mask register receives a value formed from the registers (R226). -/
def opMask (d : BitVec 3) (f : Arch → Word) : M Unit := do
  notArming
  needVec
  onArch fun ar => ar.setM d (f ar)

/-- A scalar register receives a value formed from masks and spans (R226). -/
def opMaskTo (d : BitVec 6) (f : Arch → Word) : M Unit := do
  notArming
  needVec
  let m ← get
  setX d (f m.ar)

/-- The index of the lowest set bit of T, or the number of its bits (R226). -/
def firstOf (t n : Nat) : Nat := ((List.range n).find? t.testBit).getD n

def execVspan (d z : BitVec 2) (a : BitVec 6) (n : BitVec 3) (s : State) := runHead s (opVspan d z a n)
def execMmov (d a : BitVec 3) (s : State) := runHead s (opMask d fun ar => ar.getM a)
def execMmovFx (d : BitVec 3) (a : BitVec 6) (s : State) := runHead s (opMask d fun ar => ar.getX a)
def execMmovTx (d : BitVec 6) (a : BitVec 3) (s : State) := runHead s (opMaskTo d fun ar => ar.getM a)
def execMmovSp (d : BitVec 3) (a : BitVec 2) (s : State) :=
  runHead s (opMask d fun ar => BitVec.ofNat 64 (2 ^ testedCount ar a - 1))
def execMand (d : BitVec 3) (n : BitVec 1) (b a : BitVec 3) (s : State) :=
  runHead s (opMask d fun ar => ar.getM a &&& (if n = 1 then ~~~ar.getM b else ar.getM b))
def execMor (d : BitVec 3) (n : BitVec 1) (b a : BitVec 3) (s : State) :=
  runHead s (opMask d fun ar => ar.getM a ||| (if n = 1 then ~~~ar.getM b else ar.getM b))
def execMxor (d b a : BitVec 3) (s : State) := runHead s (opMask d fun ar => ar.getM a ^^^ ar.getM b)
def execMnot (d a : BitVec 3) (s : State) := runHead s (opMask d fun ar => ~~~ar.getM a)
def execMpop (d : BitVec 6) (b : BitVec 2) (a : BitVec 3) (s : State) :=
  runHead s (opMaskTo d fun ar => BitVec.ofNat 64 (popcOf 64 (testedBits ar a b)))
def execMfirst (d : BitVec 6) (b : BitVec 2) (a : BitVec 3) (s : State) :=
  runHead s (opMaskTo d fun ar => BitVec.ofNat 64 (firstOf (testedBits ar a b) (testedCount ar b)))

/-! ### Integer element instructions (R227-R229) -/

/-- The second operand of element k: a lane of vb, or the scalar under .vx (R227). -/
def secondOf (ar : Arch) (vx : BitVec 1) (b : BitVec 6) (w k : Nat) : Nat :=
  if vx = 1 then (ar.getX b).toNat % 2 ^ w else ar.lane b.toNat w k

/-- The vector sources of the integer mould. -/
def intSrcs (a : BitVec 5) (vx : BitVec 1) (b : BitVec 6) : List (BitVec 5) := if vx = 1 then [a] else [a, asV b]

/-- An instruction of the integer mould: f of the type and the two elements (R228). -/
def opInt (d : BitVec 5) (t : BitVec 3) (b : BitVec 6) (a : BitVec 5) (vx : BitVec 1) (p : BitVec 6)
    (f : Nat → Nat → Nat → Nat) : M Unit :=
  opLanes (typeBits t.toNat) p d (intSrcs a vx b) fun ar _ k =>
    (f t.toNat (ar.lane a.toNat (typeBits t.toNat) k) (secondOf ar vx b (typeBits t.toNat) k), 0)

/-- An exact result wrapped, or clamped to the type's range under .sat (R228). -/
def wrapOr (sat : BitVec 1) (t : Nat) (x : Int) : Nat :=
  patternOf (typeBits t) (if sat = 1 then max (intMin t) (min (intMax t) x) else x)

def opVadd (d : BitVec 5) (t : BitVec 3) (b : BitVec 6) (a : BitVec 5) (sat vx : BitVec 1) (p : BitVec 6) : M Unit :=
  opInt d t b a vx p fun t x y => wrapOr sat t (intOf t x + intOf t y)
def opVsub (d : BitVec 5) (t : BitVec 3) (b : BitVec 6) (a : BitVec 5) (sat vx : BitVec 1) (p : BitVec 6) : M Unit :=
  opInt d t b a vx p fun t x y => wrapOr sat t (intOf t x - intOf t y)
def opVmul (d : BitVec 5) (t : BitVec 3) (b : BitVec 6) (a : BitVec 5) (vx : BitVec 1) (p : BitVec 6) : M Unit :=
  opInt d t b a vx p fun t x y => x * y % 2 ^ typeBits t
def opVmulh (d : BitVec 5) (t : BitVec 3) (b : BitVec 6) (a : BitVec 5) (vx : BitVec 1) (p : BitVec 6) : M Unit :=
  opInt d t b a vx p fun t x y => patternOf (2 * typeBits t) (intOf t x * intOf t y) / 2 ^ typeBits t
def opVand (d : BitVec 5) (t : BitVec 3) (b : BitVec 6) (a : BitVec 5) (vx : BitVec 1) (p : BitVec 6) : M Unit :=
  opInt d t b a vx p fun _ x y => x &&& y
def opVor (d : BitVec 5) (t : BitVec 3) (b : BitVec 6) (a : BitVec 5) (vx : BitVec 1) (p : BitVec 6) : M Unit :=
  opInt d t b a vx p fun _ x y => x ||| y
def opVxor (d : BitVec 5) (t : BitVec 3) (b : BitVec 6) (a : BitVec 5) (vx : BitVec 1) (p : BitVec 6) : M Unit :=
  opInt d t b a vx p fun _ x y => x ^^^ y
def opVshl (d : BitVec 5) (t : BitVec 3) (b : BitVec 6) (a : BitVec 5) (vx : BitVec 1) (p : BitVec 6) : M Unit :=
  opInt d t b a vx p fun t x y => x * 2 ^ (y % typeBits t) % 2 ^ typeBits t
/-- VSHR: the floor of the element, read by its type, over 2^m (R228). -/
def opVshr (d : BitVec 5) (t : BitVec 3) (b : BitVec 6) (a : BitVec 5) (vx : BitVec 1) (p : BitVec 6) : M Unit :=
  opInt d t b a vx p fun t x y => patternOf (typeBits t) (intOf t x / (2 ^ (y % typeBits t) : Nat))
def opVmin (d : BitVec 5) (t : BitVec 3) (b : BitVec 6) (a : BitVec 5) (vx : BitVec 1) (p : BitVec 6) : M Unit :=
  opInt d t b a vx p fun t x y => if intOf t x ≤ intOf t y then x else y
def opVmax (d : BitVec 5) (t : BitVec 3) (b : BitVec 6) (a : BitVec 5) (vx : BitVec 1) (p : BitVec 6) : M Unit :=
  opInt d t b a vx p fun t x y => if intOf t x ≤ intOf t y then y else x

/-- The condition of VCMP (R229). -/
def cmpHolds (k : Nat) (x y : Int) : Bool :=
  match k with
  | 0 => decide (x = y)
  | 1 => decide (x ≠ y)
  | 2 => decide (x < y)
  | 3 => decide (x ≤ y)
  | 4 => decide (y < x)
  | _ => decide (y ≤ x)

def opVcmp (d t : BitVec 3) (b : BitVec 6) (a : BitVec 5) (vx : BitVec 1) (p : BitVec 6) (k : BitVec 3) : M Unit :=
  let w := typeBits t.toNat
  opMaskLanes w p d (intSrcs a vx b) fun ar _ i =>
    ((cmpHolds k.toNat (intOf t.toNat (ar.lane a.toNat w i)) (intOf t.toNat (secondOf ar vx b w i))).toNat, 0)

/-! ### Movement (R230) -/

def opVsel (d : BitVec 5) (t : BitVec 4) (b a : BitVec 5) (p : BitVec 6) (c : BitVec 3) : M Unit :=
  let w := typeBits t.toNat
  opLanes w p d [a, b] fun ar _ k => (if (ar.getM c).getLsbD (k % 64) then ar.lane a.toNat w k else ar.lane b.toNat w k, 0)
def opVmov (d : BitVec 5) (t : BitVec 4) (b : BitVec 6) (a : BitVec 5) (vx : BitVec 1) (p : BitVec 6) : M Unit :=
  let w := typeBits t.toNat
  opLanes w p d (if vx = 1 then [] else [a]) fun ar _ k =>
    (if vx = 1 then (ar.getX b).toNat % 2 ^ w else ar.lane a.toNat w k, 0)
def opVperm (d : BitVec 5) (t : BitVec 4) (b a : BitVec 5) (p : BitVec 6) : M Unit :=
  let w := typeBits t.toNat
  opLanes w p d [a, b] fun ar g k =>
    (if ar.lane b.toNat w k < g.n then ar.lane a.toNat w (ar.lane b.toNat w k) else 0, 0)
def opVslide (d : BitVec 5) (t : BitVec 4) (b : BitVec 6) (a : BitVec 5) (up : BitVec 1) (p : BitVec 6) : M Unit :=
  let w := typeBits t.toNat
  opLanes w p d [a] fun ar g k =>
    let sh := (ar.getX b).toNat
    (if up = 1 then (if sh ≤ k ∧ k - sh < g.n then ar.lane a.toNat w (k - sh) else 0)
     else (if k + sh < g.n then ar.lane a.toNat w (k + sh) else 0), 0)
def opVext (d : BitVec 6) (t : BitVec 4) (b : BitVec 6) (a p : BitVec 5) : M Unit :=
  let w := typeBits t.toNat
  opScalarLanes w (p.setWidth 6) d [a] fun ar g =>
    let i := (ar.getX b).toNat
    (if g.active i then
       (if typeSigned t.toNat then BitVec.ofInt 64 (signedOf w (ar.lane a.toNat w i))
        else BitVec.ofNat 64 (ar.lane a.toNat w i))
     else 0, 0)

/-! ### Floating-point element instructions (R231-R234) -/

/-- The format of the float mould (R231). -/
def fltOf (t : BitVec 2) : Fmt := fmtOf (8 + t.toNat)

/-- Element k of a group, flushed where FTZ is set (R186, R231). -/
def Arch.fval (ar : Arch) (f : Fmt) (v : BitVec 5) (k : Nat) : FVal := unpack f ar.ftz (ar.lane v.toNat f.bits k)

/-- An instruction of the float mould that rounds: srctr steps under sr (R189). -/
def opFlt (f : Fmt) (p : BitVec 6) (rm : BitVec 3) (d : BitVec 5) (srcs : List (BitVec 5))
    (op : Arch → Rnd → Nat → Nat × BitVec 5) : M Unit := do
  opLanes f.bits p d srcs fun ar _ k => op ar (ar.rnd rm.toNat false k) k
  onArch fun ar => ar.stepSr rm.toNat

def opFadd (d : BitVec 5) (t : BitVec 2) (b a : BitVec 5) (rm : BitVec 3) (p : BitVec 6) : M Unit :=
  opFlt (fltOf t) p rm d [a, b] fun ar r k => addVal (fltOf t) r (ar.fval (fltOf t) a k) (ar.fval (fltOf t) b k)
def opFsub (d : BitVec 5) (t : BitVec 2) (b a : BitVec 5) (rm : BitVec 3) (p : BitVec 6) : M Unit :=
  opFlt (fltOf t) p rm d [a, b] fun ar r k => addVal (fltOf t) r (ar.fval (fltOf t) a k) (ar.fval (fltOf t) b k).neg
def opFmul (d : BitVec 5) (t : BitVec 2) (b a : BitVec 5) (rm : BitVec 3) (p : BitVec 6) : M Unit :=
  opFlt (fltOf t) p rm d [a, b] fun ar r k => mulVal (fltOf t) r (ar.fval (fltOf t) a k) (ar.fval (fltOf t) b k)
def opFma (d : BitVec 5) (t : BitVec 2) (b a : BitVec 5) (neg : BitVec 1) (rm : BitVec 3) (p : BitVec 6) (c : BitVec 5) :
    M Unit :=
  opFlt (fltOf t) p rm d [a, b, c] fun ar r k =>
    fmaVal (fltOf t) r (neg == 1) (ar.fval (fltOf t) a k) (ar.fval (fltOf t) b k) (ar.fval (fltOf t) c k)

/-- An encoding as an instruction reads it: a subnormal flushed where FTZ is set (R186). -/
def readEnc (f : Fmt) (flush : Bool) (w : Nat) : Nat :=
  match unpack f flush w with
  | .num neg n _ => if n = 0 then f.withSign neg 0 else w
  | _ => w

/-- FMIN and FMAX of two encodings (R232): max where hi. -/
def minMax (f : Fmt) (flush hi : Bool) (x y : Nat) : Nat × BitVec 5 :=
  let a := unpack f flush x
  let b := unpack f flush y
  let fl := nvOf [a, b]
  if a.isNan && b.isNan then (f.nanEnc, fl)
  else if a.isNan then (readEnc f flush y, fl)
  else if b.isNan then (readEnc f flush x, fl)
  else
    let less := ltVal a b || (eqVal a b && a.isNeg)
    (if less = hi then readEnc f flush y else readEnc f flush x, fl)

def opFmin (d : BitVec 5) (t : BitVec 2) (b a : BitVec 5) (p : BitVec 6) : M Unit :=
  opLanes (fltOf t).bits p d [a, b] fun ar _ k =>
    minMax (fltOf t) ar.ftz false (ar.lane a.toNat (fltOf t).bits k) (ar.lane b.toNat (fltOf t).bits k)
def opFmax (d : BitVec 5) (t : BitVec 2) (b a : BitVec 5) (p : BitVec 6) : M Unit :=
  opLanes (fltOf t).bits p d [a, b] fun ar _ k =>
    minMax (fltOf t) ar.ftz true (ar.lane a.toNat (fltOf t).bits k) (ar.lane b.toNat (fltOf t).bits k)

/-- A comparison of R233, and whether it raises NV. -/
def fcmpOf (k : Nat) (a b : FVal) : Bool × BitVec 5 :=
  let nan := a.isNan || b.isNan
  let quiet := nvOf [a, b]
  let loud := if nan then flagNV else 0
  match k with
  | 0 => (!nan && eqVal a b, quiet)
  | 1 => (nan || !eqVal a b, quiet)
  | 2 => (!nan && ltVal a b, loud)
  | 3 => (!nan && (ltVal a b || eqVal a b), loud)
  | 4 => (!nan && ltVal b a, loud)
  | 5 => (!nan && (ltVal b a || eqVal a b), loud)
  | 6 => (nan, quiet)
  | _ => (!nan, quiet)

def opFcmp (d : BitVec 3) (t : BitVec 2) (b a : BitVec 5) (p : BitVec 6) (k : BitVec 3) : M Unit :=
  opMaskLanes (fltOf t).bits p d [a, b] fun ar _ i =>
    let r := fcmpOf k.toNat (ar.fval (fltOf t) a i) (ar.fval (fltOf t) b i)
    (r.1.toNat, r.2)

/-- FSGN of two encodings (R234). -/
def signOp (f : Fmt) (k x y : Nat) : Nat × BitVec 5 :=
  let a := unpack f false x
  let b := unpack f false y
  let top := 2 ^ (f.bits - 1)
  let mag := x % top
  let sx := x / top % 2
  let sy := y / top % 2
  let fl := nvOf (if k = 3 then [a] else [a, b])
  if a.isNan then (f.nanEnc, fl)
  else
    let s := match k with
      | 0 => sy
      | 1 => 1 - sy
      | 2 => (sx + sy) % 2
      | _ => 0
    (mag + top * s, fl)

def opFsgn (d : BitVec 5) (t : BitVec 2) (b a : BitVec 5) (k : BitVec 2) (p : BitVec 6) : M Unit :=
  opLanes (fltOf t).bits p d (if k = 3 then [a] else [a, b]) fun ar _ i =>
    signOp (fltOf t) k.toNat (ar.lane a.toNat (fltOf t).bits i) (ar.lane b.toNat (fltOf t).bits i)

/-! ### Reductions (R192, R194, R235-R237) -/

/-- The elements of a group as leaves: an inactive element is padding (R194). -/
def Shape.leaves (g : Shape) {α : Type} (f : Nat → α) : List (Option α) :=
  (List.range g.n).map fun k => if g.active k then some (f k) else none

/-- One level of the tree: pair j of the level combined by c j, padding passing the other through (R192, R194). -/
def treeLevel {α : Type} (c : Nat → α → α → α × BitVec 5) (j : Nat) : List (Option α) → List (Option α) × BitVec 5
  | [] => ([], 0)
  | [x] => ([x], 0)
  | some x :: some y :: l =>
    let r := c j x y
    let q := treeLevel c (j + 1) l
    (some r.1 :: q.1, r.2 ||| q.2)
  | some x :: none :: l =>
    let q := treeLevel c (j + 1) l
    (some x :: q.1, q.2)
  | none :: y :: l =>
    let q := treeLevel c (j + 1) l
    (y :: q.1, q.2)

/-- The tree of R194 over at most 2^levels values, the level counted from l. -/
def treeOf {α : Type} (c : Nat → Nat → α → α → α × BitVec 5) (l : Nat) : Nat → List (Option α) → Option α × BitVec 5
  | 0, v => (v.headD none, 0)
  | levels + 1, v =>
    if v.length ≤ 1 then (v.headD none, 0)
    else
      let a := treeLevel (c l) 0 v
      let b := treeOf c (l + 1) levels a.1
      (b.1, a.2 ||| b.2)

/-- The identity of a VRED operation at 64 bits (R235). -/
def redIdentity (t k : Nat) : Int :=
  match k with
  | 1 => intMax t
  | 2 => intMin t
  | 3 => if typeSigned t then -1 else intMax t
  | _ => 0

/-- A VRED operation on elements extended to 64 bits (R235). -/
def redOp (k : Nat) (x y : Int) : Int :=
  match k with
  | 0 => x + y
  | 1 => min x y
  | 2 => max x y
  | 3 => patternOf 64 x &&& patternOf 64 y
  | 4 => patternOf 64 x ||| patternOf 64 y
  | _ => patternOf 64 x ^^^ patternOf 64 y

/-- VRED (R235). -/
def opVred (d : BitVec 6) (t : BitVec 3) (a : BitVec 5) (k : BitVec 3) (p : BitVec 5) : M Unit :=
  let w := typeBits t.toNat
  opScalarLanes w (p.setWidth 6) d [a] fun ar g =>
    let r := (treeOf (fun _ _ x y => (redOp k.toNat x y, 0)) 1 10 (g.leaves fun i => intOf t.toNat (ar.lane a.toNat w i))).1
    (BitVec.ofInt 64 (r.getD (redIdentity t.toNat k.toNat)), 0)

/-- A source of a float reduction as it is read: flushed, a NaN canonical; NV for a signalling one (R185, R186). -/
def leafEnc (f : Fmt) (flush : Bool) (w : Nat) : Nat × BitVec 5 :=
  match unpack f flush w with
  | .nan s => (f.nanEnc, if s then flagNV else 0)
  | _ => (readEnc f flush w, 0)

/-- The empty sum (R192). -/
def emptySum (f : Fmt) (rm : Nat) : Nat := f.withSign (rm == 2) 0

/-- FRED (R236), on encodings; the addition that forms e_j at level l draws with w2 = 512 l + j (R188). -/
def fredOf (ar : Arch) (g : Shape) (f : Fmt) (k rm : Nat) (a : BitVec 5) : Nat × BitVec 5 :=
  let ls := g.leaves fun i => leafEnc f ar.ftz (ar.lane a.toNat f.bits i)
  let fl := flagsOf ls
  let r := treeOf (fun l j x y =>
    match k with
    | 0 => addVal f (ar.rnd rm false (512 * l + j)) (unpack f ar.ftz x) (unpack f ar.ftz y)
    | 1 => minMax f ar.ftz false x y
    | _ => minMax f ar.ftz true x y) 1 10 (ls.map (Option.map Prod.fst))
  (r.1.getD (if k = 0 then emptySum f (ar.mode rm) else f.nanEnc), fl ||| r.2)

def opFred (d : BitVec 6) (t k : BitVec 2) (a : BitVec 5) (rm : BitVec 3) (p : BitVec 5) : M Unit := do
  opScalarLanes (fltOf t).bits (p.setWidth 6) d [a] fun ar g =>
    let r := fredOf ar g (fltOf t) k.toNat rm.toNat a
    (BitVec.ofNat 64 r.1, r.2)
  onArch fun ar => ar.stepSr rm.toNat

/-- The exact product of a leaf of FDOT, with NV for a signalling NaN or 0 and infinity (R237). -/
def dotLeaf (a b : FVal) : FVal × BitVec 5 :=
  if a.isNan || b.isNan then (.nan false, nvOf [a, b])
  else
    match mulExact a b with
    | some p => (p, 0)
    | none => (.nan false, flagNV)

/-- A value of the tree of FDOT: exact, and rounded once it has been added. -/
abbrev DotVal := FVal × Option Nat

/-- FDOT (R237): the result's format is f64 for f64 and f32 for the others. -/
def fdotOf (ar : Arch) (g : Shape) (f : Fmt) (rm : Nat) (b a : BitVec 5) : Nat × BitVec 5 :=
  let rf := if f.code = 8 then f64 else f32
  let ls := g.leaves fun i => dotLeaf (ar.fval f a i) (ar.fval f b i)
  let fl := ls.foldl (fun acc x => acc ||| (x.map Prod.snd).getD 0) 0
  let r := treeOf (fun l j (x y : DotVal) =>
    let e := addVal rf (ar.rnd rm false (512 * l + j)) x.1 y.1
    ((unpack rf false e.1, some e.1), e.2)) 1 10 (ls.map (Option.map fun x => (x.1, none)))
  match r.1 with
  | none => (emptySum rf (ar.mode rm), fl)
  | some (_, some e) => (e, fl ||| r.2)
  | some (x, none) =>
    let e := convert rf (ar.rnd rm false 0) x
    (e.1, fl ||| e.2)

def opFdot (d : BitVec 6) (t : BitVec 2) (b a : BitVec 5) (rm : BitVec 3) (p : BitVec 5) : M Unit := do
  opScalarLanes (fltOf t).bits (p.setWidth 6) d [a, b] fun ar g =>
    let r := fdotOf ar g (fltOf t) rm.toNat b a
    (BitVec.ofNat 64 r.1, r.2)
  onArch fun ar => ar.stepSr rm.toNat

/-! ### TOPN and RNG (R240, R241, R243) -/

/-- An element as TOPN ranks it: its number (none for a NaN), its sign where it is a zero, its encoding and its index. -/
structure Ranked where
  key : Option (FVal × Int)
  enc : Nat
  idx : Nat
deriving DecidableEq, Repr

/-- The value of an element for ranking (R241). -/
def rankOf (t v k : Nat) : Ranked :=
  if t < 8 then { key := some (.zero false, intOf t v), enc := v, idx := k }
  else
    let x := unpack (fmtOf t) false v
    if x.isNan then { key := none, enc := (fmtOf t).nanEnc, idx := k } else { key := some (x, 0), enc := v, idx := k }

/-- x stands strictly below y, with -0 below +0. -/
def belowKey (x y : FVal × Int) : Bool :=
  decide (x.2 < y.2) || (decide (x.2 = y.2) && (ltVal x.1 y.1 || (x.1.isZero && y.1.isZero && x.1.isNeg && !y.1.isNeg)))

/-- x ranks before y, x being the one of the lower index (R241). -/
def ranksFirst (lo : Bool) (x y : Ranked) : Bool :=
  match x.key, y.key with
  | some a, some b => if lo then !belowKey b a else !belowKey a b
  | some _, none => true
  | none, some _ => false
  | none, none => true

/-- An element put into its place behind every one that ranks before it. -/
def rankInsert (lo : Bool) (y : Ranked) : List Ranked → List Ranked
  | [] => [y]
  | x :: l => if ranksFirst lo x y then x :: rankInsert lo y l else y :: x :: l

/-- The active elements in rank order. -/
def ranked (lo : Bool) (l : List Ranked) : List Ranked := l.foldl (fun acc y => rankInsert lo y acc) []

/-- TOPN (R240, R241). -/
def opTopn (d : BitVec 5) (t : BitVec 4) (a p c : BitVec 5) (lo : BitVec 1) (n : BitVec 9) : M Unit := do
  let m ← get
  let w := typeBits t.toNat
  let g := shapeOf m.ar (p.setWidth 6) w
  let dn := (n.toNat * w + 511) / 512
  let cn := (n.toNat + 31) / 32
  vecChecks [(a, g.nreg), (d, dn), (c, cn)]
  let r := (ranked (lo == 1) ((List.range g.n).filterMap fun k =>
    if g.active k then some (rankOf t.toNat (m.ar.lane a.toNat w k) k) else none)).take n.toNat
  let rest := n.toNat - r.length
  onArch fun ar => (ar.putElems d.toNat w (r.map Ranked.enc) dn).putElems c.toNat 16
    (r.map Ranked.idx ++ List.replicate rest 0xFFFF) cn
  freeOverlap d.toNat dn c.toNat cn

/-- The bytes of RNG's group: block j from the counter c + j (R243). -/
def rngBlock (key ctr c : Word) (j : Nat) : Nat :=
  let cj := c + BitVec.ofNat 64 j
  phiBits key (ctr.extractLsb' 0 32) (ctr.extractLsb' 32 32) (cj.extractLsb' 0 32) (cj.extractLsb' 32 32)

/-- RNG (R243): only the span of its predicate is used. -/
def opRng (d : BitVec 5) (b a : BitVec 6) (sp : BitVec 2) (c : BitVec 6) : M Unit := do
  let m ← get
  let nreg := spanRegs m.ar sp
  vecChecks [(d, nreg)]
  onArch fun ar => ar.putElems d.toNat 128
    ((List.range (4 * nreg)).map (rngBlock (m.ar.getX a) (m.ar.getX b) (m.ar.getX c))) nreg

/-! ### Meanings -/

def execVadd (d : BitVec 5) (t : BitVec 3) (b : BitVec 6) (a : BitVec 5) (sat vx : BitVec 1) (p : BitVec 6) (s : State) :=
  runHead s (opVadd d t b a sat vx p)
def execVsub (d : BitVec 5) (t : BitVec 3) (b : BitVec 6) (a : BitVec 5) (sat vx : BitVec 1) (p : BitVec 6) (s : State) :=
  runHead s (opVsub d t b a sat vx p)
def execVmul (d : BitVec 5) (t : BitVec 3) (b : BitVec 6) (a : BitVec 5) (vx : BitVec 1) (p : BitVec 6) (s : State) :=
  runHead s (opVmul d t b a vx p)
def execVmulh (d : BitVec 5) (t : BitVec 3) (b : BitVec 6) (a : BitVec 5) (vx : BitVec 1) (p : BitVec 6) (s : State) :=
  runHead s (opVmulh d t b a vx p)
def execVand (d : BitVec 5) (t : BitVec 3) (b : BitVec 6) (a : BitVec 5) (vx : BitVec 1) (p : BitVec 6) (s : State) :=
  runHead s (opVand d t b a vx p)
def execVor (d : BitVec 5) (t : BitVec 3) (b : BitVec 6) (a : BitVec 5) (vx : BitVec 1) (p : BitVec 6) (s : State) :=
  runHead s (opVor d t b a vx p)
def execVxor (d : BitVec 5) (t : BitVec 3) (b : BitVec 6) (a : BitVec 5) (vx : BitVec 1) (p : BitVec 6) (s : State) :=
  runHead s (opVxor d t b a vx p)
def execVshl (d : BitVec 5) (t : BitVec 3) (b : BitVec 6) (a : BitVec 5) (vx : BitVec 1) (p : BitVec 6) (s : State) :=
  runHead s (opVshl d t b a vx p)
def execVshr (d : BitVec 5) (t : BitVec 3) (b : BitVec 6) (a : BitVec 5) (vx : BitVec 1) (p : BitVec 6) (s : State) :=
  runHead s (opVshr d t b a vx p)
def execVmin (d : BitVec 5) (t : BitVec 3) (b : BitVec 6) (a : BitVec 5) (vx : BitVec 1) (p : BitVec 6) (s : State) :=
  runHead s (opVmin d t b a vx p)
def execVmax (d : BitVec 5) (t : BitVec 3) (b : BitVec 6) (a : BitVec 5) (vx : BitVec 1) (p : BitVec 6) (s : State) :=
  runHead s (opVmax d t b a vx p)
def execVcmp (d t : BitVec 3) (b : BitVec 6) (a : BitVec 5) (vx : BitVec 1) (p : BitVec 6) (k : BitVec 3) (s : State) :=
  runHead s (opVcmp d t b a vx p k)
def execVsel (d : BitVec 5) (t : BitVec 4) (b a : BitVec 5) (p : BitVec 6) (c : BitVec 3) (s : State) :=
  runHead s (opVsel d t b a p c)
def execVmov (d : BitVec 5) (t : BitVec 4) (b : BitVec 6) (a : BitVec 5) (vx : BitVec 1) (p : BitVec 6) (s : State) :=
  runHead s (opVmov d t b a vx p)
def execVperm (d : BitVec 5) (t : BitVec 4) (b a : BitVec 5) (p : BitVec 6) (s : State) := runHead s (opVperm d t b a p)
def execVslide (d : BitVec 5) (t : BitVec 4) (b : BitVec 6) (a : BitVec 5) (up : BitVec 1) (p : BitVec 6) (s : State) :=
  runHead s (opVslide d t b a up p)
def execVext (d : BitVec 6) (t : BitVec 4) (b : BitVec 6) (a p : BitVec 5) (s : State) := runHead s (opVext d t b a p)
def execFadd (d : BitVec 5) (t : BitVec 2) (b a : BitVec 5) (rm : BitVec 3) (p : BitVec 6) (s : State) :=
  runHead s (opFadd d t b a rm p)
def execFsub (d : BitVec 5) (t : BitVec 2) (b a : BitVec 5) (rm : BitVec 3) (p : BitVec 6) (s : State) :=
  runHead s (opFsub d t b a rm p)
def execFmul (d : BitVec 5) (t : BitVec 2) (b a : BitVec 5) (rm : BitVec 3) (p : BitVec 6) (s : State) :=
  runHead s (opFmul d t b a rm p)
def execFma (d : BitVec 5) (t : BitVec 2) (b a : BitVec 5) (neg : BitVec 1) (rm : BitVec 3) (p : BitVec 6) (c : BitVec 5)
    (s : State) := runHead s (opFma d t b a neg rm p c)
def execFmin (d : BitVec 5) (t : BitVec 2) (b a : BitVec 5) (p : BitVec 6) (s : State) := runHead s (opFmin d t b a p)
def execFmax (d : BitVec 5) (t : BitVec 2) (b a : BitVec 5) (p : BitVec 6) (s : State) := runHead s (opFmax d t b a p)
def execFcmp (d : BitVec 3) (t : BitVec 2) (b a : BitVec 5) (p : BitVec 6) (k : BitVec 3) (s : State) :=
  runHead s (opFcmp d t b a p k)
def execFsgn (d : BitVec 5) (t : BitVec 2) (b a : BitVec 5) (k : BitVec 2) (p : BitVec 6) (s : State) :=
  runHead s (opFsgn d t b a k p)
def execVred (d : BitVec 6) (t : BitVec 3) (a : BitVec 5) (k : BitVec 3) (p : BitVec 5) (s : State) :=
  runHead s (opVred d t a k p)
def execFred (d : BitVec 6) (t k : BitVec 2) (a : BitVec 5) (rm : BitVec 3) (p : BitVec 5) (s : State) :=
  runHead s (opFred d t k a rm p)
def execFdot (d : BitVec 6) (t : BitVec 2) (b a : BitVec 5) (rm : BitVec 3) (p : BitVec 5) (s : State) :=
  runHead s (opFdot d t b a rm p)
def execTopn (d : BitVec 5) (t : BitVec 4) (a p c : BitVec 5) (lo : BitVec 1) (n : BitVec 9) (s : State) :=
  runHead s (opTopn d t a p c lo n)
def execRng (d : BitVec 5) (b a : BitVec 6) (sp : BitVec 2) (c : BitVec 6) (s : State) := runHead s (opRng d b a sp c)

end Sys2Proof.Machine
end

