-- ==== Sys2Proof/Machine/Reduce.lean ====
section
/-!
DEFINITION. Sys2Proof/Machine/Reduce.lean: opcodes 0xD5-0xD7, the combining reductions, and the engine chunk (R272-R277,
R290-R300).
-/

namespace Sys2Proof.Machine

/-! ### The block (R290) -/

/-- Fields of DECL. -/
def declCount (w : Word) : Nat := field w 0 13
def declNcon (w : Word) : Nat := field w 16 7
def declFan (w : Word) : Nat := 2 ^ (field w 24 2 + 1)
def declOp (w : Word) : Nat := field w 26 3
def declTimeout (w : Word) : Nat := field w 32 16
def declType (w : Word) : Nat := field w 48 4
def declRm (w : Word) : Nat := field w 52 3

/-- The type is a float. -/
def floatType (t : Nat) : Bool := decide (8 ≤ t)

/-- Bytes of an element of a type. -/
def typeBytes (t : Nat) : Nat := typeBits t / 8

/-- The parameters of RDSET are as R290 and R298 allow them. -/
def declOk (w : Word) (t : Nat) : Bool :=
  decide (field w 48 16 = 0) && decide (field w 29 3 = 0) && !w.getLsbD 23 && decide (field w 13 3 = 0) &&
    decide (1 ≤ declCount w) && decide (declCount w ≤ 4096) && decide (1 ≤ declNcon w) && decide (declNcon w ≤ 64) &&
    decide (declOp w < 6) && !(floatType t && decide (3 ≤ declOp w))

/-- The places of n elements of e bytes from an address on. -/
def locateRun (k : Access) (va : Word) (e : Nat) : Nat → M (List Loc)
  | 0 => pure []
  | n + 1 => do
    let l ← locate k va
    let r ← locateRun k (va + BitVec.ofNat 64 e) e n
    pure (l :: r)

/-- Every place satisfies a condition, or cause 0x07 with the first address that does not. -/
def needAll (ok : Loc → Bool) (va : Word) (e : Nat) : List Loc → M Unit
  | [] => pure ()
  | l :: ls => do
    faultIf (!ok l) 0x07 va
    needAll ok (va + BitVec.ofNat 64 e) e ls

/-- Physical region 0x00. -/
def inHbm (l : Loc) : Bool := decide (regionOf l.pa = 0)

/-- RDSET (R298). -/
def opRdset (d : BitVec 6) (t : BitVec 4) (b a : BitVec 6) (rm : BitVec 3) (c : BitVec 6) : M Unit := do
  notArming
  let m ← get
  let par := m.ar.getX d
  let blk := m.ar.getX a
  let tgt := m.ar.getX b
  let w := typeBytes t.toNat
  faultIf (!declOk par t.toNat) 0x0A par
  needCompletion m c
  needAligned blk 64
  let l ← locate .store blk
  faultIf (!inHbm l) 0x07 blk
  let st ← readAt (l.within blk 0x20) (blk + 0x20) 8
  faultIf (decide (ofBytes st % 4 = 1)) 0x0A blk
  needAligned tgt w
  if c ≠ 0 then needAligned (m.ar.getX c) 16
  let ts ← locateRun .store tgt w (declCount par)
  let rs ← locateFirsts (completionRange m c)
  needAll inHbm tgt w ts
  needPlaces (fun pl => decide (pl = .hbm) || decide (pl = .remote) || decide (pl = .host)) rs
  let decl := par + BitVec.ofNat 64 (t.toNat * 2 ^ 48 + rm.toNat * 2 ^ 52)
  let cw := completion m c
  let words : List Word := [decl, tgt, cw.1.getD 0, cw.2]
  writeWords l blk 0 (words ++ [1, 0, 0, 0])
  emit (.rdset (l.within blk 0x20).pa words (ts.map Loc.pa) ((rs.map fun r => r.2.pa).head?))

/-- The place of a block that RDC and RDQ name (R299). -/
def locateBlock (va : Word) : M Loc := do
  needAligned va 64
  let l ← locate .load va
  faultIf (decide (regionOf l.pa ≠ 0) && decide (regionOf l.pa ≠ 2)) 0x07 va
  pure l

/-- A dword of a block. -/
def blockWord (l : Loc) (va : Word) (o : Nat) : M Word := do
  let bs ← readAt (l.within va o) (va + BitVec.ofNat 64 o) 8
  pure (BitVec.ofNat 64 (ofBytes bs))

/-- Bytes of the capture buffer of a core (R299). -/
def captureSize : Nat := 8192

/-- Bytes that a contribution in vector form takes of it. -/
def CopyCmd.captured (c : CopyCmd) : Nat :=
  match c.kind with
  | .contrib _ _ t (some v) => v.length * typeBytes t
  | _ => 0

/-- Bytes of the capture buffer that the effects of a chunk take. -/
def capturedBy (es : List Effect) : Nat := (es.map fun e => match e with
  | .copy c => c.captured
  | _ => 0).sum

/-- Bytes of the capture buffer that are taken. -/
def captureUsed (m : Mach) : Nat :=
  ((m.st.core m.core).engine.map fun e => e.cmd.captured).sum + capturedBy m.ch.effects +
    ((m.th.chunks.filter Chunk.ungranted).map fun c => capturedBy c.effects).sum +
    ((List.range 16).map fun k =>
      if m.core * 16 + k = m.tid then 0
      else match m.st.thread (m.core * 16 + k) with
        | some t => ((t.chunks.filter Chunk.ungranted).map fun c => capturedBy c.effects).sum
        | none => 0).sum

/-- RDC (R299): in vector form with regs registers of the group from d, else in memory form. -/
def opRdc (t : BitVec 4) (b a : BitVec 6) (vec : Option (BitVec 5 × Nat)) (src : Mach → Word) : M Unit := do
  roomForCopy
  match vec with
  | some (d, n) => needGroup d n
  | none => pure ()
  notArming
  let m ← get
  let blk := m.ar.getX a
  let w := typeBytes t.toNat
  let l ← locateBlock blk
  let st ← blockWord l blk 0x20
  let decl ← blockWord l blk 0
  let n := declCount decl
  let tooLong := match vec with
    | some (_, r) => decide (r * 64 / w < n)
    | none => false
  let k := st.toNat % 4
  faultIf (decide (k = 0) || decide (k = 2) || decide (t.toNat ≠ declType decl) ||
    decide (declNcon decl ≤ (m.ar.getX b).toNat) || tooLong) 0x0A blk
  faultIf (decide (k = 3)) 0x12 blk
  match vec with
  | some (d, _) =>
    needVec
    let m ← get
    if captureSize < captureUsed m + n * w then throw .wait
    let vs := (List.range n).map fun i => m.ar.lane d.toNat (8 * w) i
    emitCopy (.contrib (l.within blk 0x20).pa (m.ar.getX b).toNat t.toNat (some vs)) 0 0 n false 0
  | none =>
    needAligned (src m) w
    let ls ← locateRun .load (src m) w n
    needAll (fun l => inHbm l || (match l.place with
      | .scratch _ => true
      | _ => false)) (src m) w ls
    emitCopy (.contrib (l.within blk 0x20).pa (m.ar.getX b).toNat t.toNat none) (src m) 0 n false 0

/-! ### The tree (R292, R293) -/

/-- Op on one element. -/
def combineElem (t op rm x y : Nat) : Nat :=
  if floatType t then
    let f := fmtOf t
    match op with
    | 0 => (addVal f ⟨rm, false, false, 0⟩ (unpack f false x) (unpack f false y)).1
    | 1 => (minMax f false false x y).1
    | _ => (minMax f false true x y).1
  else
    match op with
    | 0 => (x + y) % 2 ^ typeBits t
    | 1 => if intOf t x ≤ intOf t y then x else y
    | 2 => if intOf t x ≤ intOf t y then y else x
    | 3 => x &&& y
    | 4 => x ||| y
    | _ => x ^^^ y

/-- Op on contributions, element by element. -/
def combineVec (t op rm : Nat) (a b : List Nat) : List Nat := a.zipWith (combineElem t op rm) b

/-- The values of a level of the tree: c contributions, then by fanout f (R292). -/
def levelCount (f c : Nat) : Nat → Nat
  | 0 => c
  | l + 1 => (levelCount f c l + f - 1) / f

/-- A NaN made canonical. -/
def canonElem (t x : Nat) : Nat := if floatType t && (unpack (fmtOf t) false x).isNan then (fmtOf t).nanEnc else x

/-- A value that has arrived at its node: val[l][i] of R292. -/
def Reduction.value (r : Reduction) (l i : Nat) : Option (List Nat) :=
  if l = 0 then assocGet? i r.arrived
  else (r.nodes.find? fun e => decide (e.1 = l) && decide (e.2.1 = i)).map fun e => e.2.2

/-- The children of node (l + 1, m), once all have arrived, in increasing order (R292, R294). -/
def Reduction.children (r : Reduction) (l m : Nat) : Option (List (List Nat)) :=
  let f := declFan (r.words.headD 0)
  let n := levelCount f (declNcon (r.words.headD 0)) l
  (List.range (min f (n - f * m))).mapM fun j => r.value l (f * m + j)

/-- What node (l + 1, m) sends on once its children have arrived: each added after its lower-indexed siblings (R292, R294). -/
def Reduction.nodeValue (r : Reduction) (l m : Nat) : Option (List Nat) :=
  let w := r.words.headD 0
  match r.children l m with
  | some (x :: xs) => some (xs.foldl (combineVec (declType w) (declOp w) (declRm w)) x)
  | _ => none

/-! ### The end of an instance (R294, R295) -/

/-- The arrival bitmap, and that of the missing. -/
def Reduction.bitmap (r : Reduction) : Nat := (r.arrived.map fun e => 2 ^ e.1).sum
def Reduction.missing (r : Reduction) : Nat := 2 ^ declNcon (r.words.headD 0) - 1 - r.bitmap

/-- Bytes written by a unit of the device for a crew: those inside the package as one commit, those beyond the edge over
links. -/
def State.unitWrite (s : State) (p crew : Nat) (g : BitVec 16) (cells : List Host.Cell) : State :=
  let near := cells.filter fun c => !s.beyond p c.1
  let far := cells.filter fun c => s.beyond p c.1
  let s := if near.isEmpty then s else (s.commitCells p near).noteNo crew
  s.sendWrites none (some crew) p (s.part p).commitNo g far

/-- OPEN instances of a die at most (R294). -/
def openMax : Nat := 1024

/-- The OPEN instances that the slices of a die hold. -/
def State.openOn (s : State) (die : Nat) : Nat := (s.reductions.filter fun r => decide (homeDie r.block = die) && !r.waits).length

/-- An instance that has waited for room on a die opens, the first of them (R294). -/
def State.openNext (s : State) (die : Nat) : State :=
  match s.reductions.findIdx? fun r => r.waits && decide (homeDie r.block = die) with
  | some i =>
    if s.openOn die < openMax then
      { s with reductions := s.reductions.modify i fun r => { r with waits := false, opened := s.time } }
    else s
  | none => s

/-- The final engine chunk: STATE and the arrival bitmap, and the record; what another crew guards stays as it is, and the
declaring thread's FAIL bit is set. The nodes drop what they hold (R295). -/
def State.endReduction (s : State) (r : Reduction) (st : EngStatus) (value missing : Nat) : State :=
  let p := crewPart r.crew
  let s := { s with reductions := s.reductions.filter fun x => x.block ≠ r.block,
                    contributions := s.contributions.filter fun x => decide (x.block ≠ r.block) || decide (x.level = 0) }
  let blk := runCells r.block (bytesOf 8 (if st = .done then 2 else 3) ++ bytesOf 8 r.bitmap)
  let rec' := match r.record with
    | some pa => runCells pa (bytesOf 8 (st.code * 2 ^ 48 + (if st = .done then field (r.words.getD 3 0) 0 48 else value)) ++
        bytesOf 8 missing)
    | none => []
  let bad := fun cells : List Host.Cell => cells.any fun c => s.guarded p (some r.crew) c.1
  let cells := (if bad blk then [] else blk) ++ (if bad rec' then [] else rec')
  let s := (s.unitWrite p r.crew r.guild cells).openNext (homeDie r.block)
  if bad blk || bad rec' then s.setFail r.crew r.tid else s

/-- The target's elements written, one engine chunk for each 4 KiB of its addresses; a guarded chunk ends the instance
(R294, R295). -/
def State.writeTarget (s : State) (r : Reduction) (w : Nat) : Nat → Nat → List Nat → State
  | 0, _, _ => s.endReduction r .done 0 0
  | fuel + 1, i, vs =>
    if vs.isEmpty then s.endReduction r .done 0 0
    else
      let va := (r.words.getD 1 0).toNat + i * w
      let n := (4096 - va % 4096) / w
      let cells := ((vs.take n).zip ((r.target.drop i).take n)).flatMap fun e => runCells e.2 (bytesOf w e.1)
      match cells.find? fun c => s.guarded (crewPart r.crew) (some r.crew) c.1 with
      | some c =>
        let k := ((r.target.drop i).take n).findIdx fun pa => decide (pa ≤ c.1) && decide (c.1 < pa + w)
        s.endReduction r .guard (failValue true (BitVec.ofNat 64 ((va + k * w) / 64 * 64))) 0
      | none => (s.unitWrite (crewPart r.crew) r.crew r.guild cells).writeTarget r w fuel (i + n) (vs.drop n)

/-- The root has its value: it writes the target and ends the instance. -/
def State.finishReduction (s : State) (r : Reduction) (v : List Nat) : State :=
  let t := declType (r.words.headD 0)
  s.writeTarget r (typeBytes t) 16 0 (v.map (canonElem t))

/-- The addresses of the words that the end of an instance writes. -/
def Reduction.places (r : Reduction) : List Nat := r.target ++ [r.block, r.block + 8] ++ (r.record.map fun pa => [pa, pa + 8]).getD []

/-- The root's engine chunks wait: for an older aged chunk, an SPOST, or a home that is held (R117, R178, R432). -/
def State.rootHeld (s : State) (r : Reduction) (own : Option Nat) : Bool :=
  let near := r.places.filter fun pa => !s.beyond (crewPart r.crew) pa
  s.agedBlocks (crewPart r.crew) own (near.map lineOf).dedup || s.postHeld own (near.map fun pa => pa / 8) || near.any fun pa => s.homeHeld (lineOf pa)

/-- A command of a stopped crew completes (R277, R279). -/
def Stopped.endCommand (x : Stopped) (id : Nat) (lost : Bool) : Stopped :=
  match x.engine.find? fun k => k.2.id = id with
  | none => x
  | some k =>
    { x with engine := x.engine.filter fun y => decide (y.2.id ≠ id),
             members := x.members.map fun y => if lost ∧ y.1 = k.2.cmd.tid then (y.1, { y.2 with fail := true }) else y }

/-- A command of one of the stopped crews completes. -/
def State.endSaved (s : State) (id : Nat) (lost : Bool) : State :=
  { s with crews := s.crews.map fun e => (e.1, { e.2 with stopped := e.2.stopped.map fun x => x.endCommand id lost }) }

/-- A command whose contribution has been accepted or discarded completes (R277). -/
def State.contributed (s : State) (source : Option (Nat × Nat)) (lost : Bool) : State :=
  match source with
  | none => s
  | some (core, id) =>
    match s.engineOf core id with
    | some e => s.endEngine core e lost
    | none => s.endSaved id lost

/-- A contribution accepted or discarded: its command completes, or the peer that sent it is answered (R277, R428). -/
def State.contributionDone (s : State) (c : Contribution) (lost : Bool) : State :=
  if c.source = none ∧ c.level = 0 then { s with answers := s.answers ++ [(c.block, [if lost then 1 else 0])] }
  else s.contributed c.source lost

/-- The time by which the contributions of an instance have to arrive has passed (R295). -/
def Reduction.late (r : Reduction) (now : Nat) : Bool :=
  decide (declTimeout (r.words.headD 0) ≠ 0) && decide (r.opened + 1000 * declTimeout (r.words.headD 0) < now)

/-- A contribution that its node discards: of an index that has arrived or that there is none of, or late (R295). -/
def Reduction.discards (r : Reduction) (c : Contribution) (now : Nat) : Bool :=
  decide (c.level = 0) && (r.late now || (r.arrived.any fun e => e.1 = c.index) || decide (declNcon (r.words.headD 0) ≤ c.index))

/-- An instance with a value accepted. -/
def Reduction.accept (r : Reduction) (c : Contribution) : Reduction :=
  if c.level = 0 then { r with arrived := assocSet c.index c.values r.arrived }
  else { r with nodes := r.nodes ++ [(c.level, c.index, c.values)] }

/-- A node that has all its children sends its result to its parent, or, as the root, ends the instance (R294). -/
def State.nodeDone (s : State) (r : Reduction) (l i : Nat) : State :=
  let f := declFan (r.words.headD 0)
  let n := levelCount f (declNcon (r.words.headD 0))
  if n l = 1 then
    match r.value l 0 with
    | some v => s.finishReduction r v
    | none => s
  else
    match r.nodeValue l (i / f) with
    | none => s
    | some v =>
      if n (l + 1) = 1 then s.finishReduction r v
      else { s with contributions := s.contributions ++ [⟨r.block, l + 1, i / f, v, none⟩] }

/-- The block of power that a node's slice is: that of node (l, m) of a block's tree (R294, R432). -/
def nodeBlock (block l m : Nat) : Nat := 32 * homeDie block + nodeSlice block l m

/-- A stopped crew keeps an instance, with what is on its way to it (R279). -/
def State.savedInstance (s : State) (block : Nat) : Option Reduction :=
  s.crews.findSome? fun e => e.2.stopped.bind fun x => x.reductions.find? fun r => r.block = block

/-- A contribution, or a node's result, arrives at its node (R294, R295). That of an instance whose crew is stopped, or to be, waits
for its resumption (R279). -/
def contributionArrives (s : State) (i : Nat) : State :=
  match s.contributions[i]? with
  | none => s
  | some c =>
    let gone : State := { s with contributions := s.contributions.eraseIdx i }
    match s.reductions.find? fun r => r.block = c.block with
    | none => if (s.savedInstance c.block).isSome then s else gone.contributionDone c true
    | some r =>
      let own := (c.source.bind fun x => s.engineOf x.1 x.2).map fun e => e.cmd.tid
      if (s.crew r.crew).any (fun w => w.stopping.isSome) || s.held 4 (nodeBlock c.block (c.level + 1) (c.index / declFan (r.words.headD 0)))
          || s.rootHeld r own || r.waits then s
      else if r.discards c s.time then gone.contributionDone c true
      else
        let r' := r.accept c
        (State.contributionDone { gone with reductions := gone.reductions.map fun x => if x.block = r.block then r' else x }
          c false).nodeDone r' c.level c.index

/-- An instance whose time has run out ends (R295); one of a stopped crew waits with it (R279). (DEDUCED: notes/assumptions/40.md.) -/
def reductionTimesOut (s : State) (block : Nat) : State :=
  match s.reductions.find? fun r => r.block = block with
  | none => s
  | some r =>
    let us := declTimeout (r.words.headD 0)
    if (s.crew r.crew).any (fun w => w.stopping.isSome) || s.rootHeld r (some r.tid) || r.waits then s
    else if us ≠ 0 ∧ r.opened + 1000 * us ≤ s.time ∧ r.arrived.length < declNcon (r.words.headD 0) then
      s.endReduction r .timeout (declNcon (r.words.headD 0) - r.arrived.length) r.missing
    else s

/-! ### RDQ (R300) -/

/-- What RDQ learns of a block: whether the root holds an instance open, and its arrival bitmap, its arrived number and the
microseconds left. The live values of a peer's instance come with no access that the manual gives: they are left open. -/
structure RdView where
  isOpen : Bool
  bitmap : Nat
  count : Nat
  left : Nat

/-- Set bits of a number below 2^64. -/
def setBits (n : Nat) : Nat := ((List.range 64).map fun i => n / 2 ^ i % 2).sum

/-- The view of a block whose STATE and arrival bitmap read as given. -/
def rdView (s : State) (pa st bits : Nat) : RdView × State :=
  match (s.reductions.find? fun r => decide (r.block = pa) && !r.waits).or (s.savedInstance pa) with
  | some r =>
    let us := declTimeout (r.words.headD 0)
    ({ isOpen := true, bitmap := r.bitmap, count := r.arrived.length,
       left := if us = 0 then 0 else (r.opened + 1000 * us - s.time) / 1000 }, s)
  | none =>
    if regionOf pa = 2 ∧ st = 1 then
      let w := s.fresh
      ({ isOpen := w.1.getLsbD 63, bitmap := w.1.toNat, count := setBits w.1.toNat % 65, left := w.1.toNat / 2 ^ 8 % 2 ^ 16 }, w.2)
    else ({ isOpen := false, bitmap := if st = 0 then 0 else bits, count := if st = 0 then 0 else setBits bits, left := 0 }, s)

/-- The block of RDQ, its STATE as memory holds it, and the view. -/
def rdBlock (a : BitVec 6) : M (Nat × RdView) := do
  notArming
  let m ← get
  let blk := m.ar.getX a
  let l ← locateBlock blk
  let st ← blockWord l blk 0x20
  let bits ← blockWord l blk 0x28
  let m ← get
  let v := rdView m.st (l.within blk 0x20).pa (st.toNat % 4) bits.toNat
  set (m.setSt v.2)
  pure (st.toNat % 4, v.1)

/-- The status word of RDQ. -/
def rdWord (st : Nat) (v : RdView) : Word :=
  BitVec.ofNat 64 ((if v.isOpen then 1 else st) + v.count * 2 ^ 16 + v.left % 2 ^ 16 * 2 ^ 32)

def opRdq (d a : BitVec 6) : M Unit := do
  let v ← rdBlock a
  setX d (BitVec.ofNat 64 v.2.bitmap)

def opRdqSt (d a : BitVec 6) : M Unit := do
  let v ← rdBlock a
  setX d (rdWord v.1 v.2)

/-- RDQ.w: alone; it sleeps while the block's STATE reads 1 and the root holds its instance. -/
def opRdqW (d a : BitVec 6) : M Unit := do
  notArming
  standAlone
  let v ← rdBlock a
  let m ← get
  if v.1 = 1 ∧ v.2.isOpen then
    let l ← locateBlock (m.ar.getX a)
    throw (.sleep (.reduction d (l.within (m.ar.getX a) 0x20).pa false l.place.beyond (m.st.time + pollCycles)))
  setX d (rdWord v.1 v.2)

/-- A sleeping RDQ.w is evaluated again once a commit to its block has woken it or the instance has ended, and where no directory watches
the block, in another partition's memory or a peer's, at the end of each interval (R126, R300, R441). -/
def reductionWake (s : State) (tid : Nat) : State :=
  match s.thread tid with
  | some t =>
    match t.run with
    | .reduction _ block woken polls due =>
      if woken || (polls && decide (due ≤ s.time)) ||
          (!polls && !((s.reductions.any fun r => r.block = block) || (s.savedInstance block).isSome)) then
        s.setThread tid { t with run := .running }
      else s
    | _ => s
  | none => s

/-! ### The engine chunk (R272, R273) -/

/-- A contribution leaves for its node, with its elements as captured or as the engine reads them (R294, R296, R297), and whether that has
been the command's turn. -/
def State.engineContrib (s : State) (core : Nat) (e : EngEntry) (block index ty : Nat) (vals : Option (List Nat)) : State × Bool :=
  if e.sent then (s, false)
  else if e.status ≠ .done then s.engineFinal core e
  else
    let s := s.settleAll
    let w := typeBytes ty
    let vs : Except EngStop (List Nat) := match vals with
      | some v => .ok v
      | none => (List.range e.cmd.len).mapM fun k => do
        let bs ← (List.range w).mapM fun i => engByte s core e (e.cmd.src + BitVec.ofNat 64 (k * w + i))
        pure (ofBytes bs)
    match vs with
    | .ok v =>
      if regionOf block = 2 then
        ((s.sendLink (.contrib core e.id block index v) (some e.cmd.crew) (crewPart e.cmd.crew) 0 e.cmd.guild).setEngine core { e with sent := true }, true)
      else
        (State.setEngine { s with contributions := s.contributions ++ [⟨block, 0, index, v, some (core, e.id)⟩] } core
          { e with sent := true }, true)
    | .error x => s.engineStopped core e x

/-- One engine chunk of a command: chunk j of its payload, or, where every payload chunk has committed or the command has failed, its
last (R273, R276); and whether the command has had its turn with it. -/
def State.engineChunk (s : State) (core : Nat) (e : EngEntry) (j : Nat) : State × Bool :=
  match e.cmd.kind with
  | .contrib block index ty vals => s.engineContrib core e block index ty vals
  | _ =>
    if e.status = .done ∧ e.done.length < e.cmd.chunks then
      if e.cmd.hasChunk j && !e.done.contains j then s.enginePayload core e j else (s, false)
    else s.engineFinal core e

/-- The first chunk of a command's payload that is still to be performed. -/
def EngEntry.nextChunk (e : EngEntry) : Nat :=
  let js := match e.cmd.kind with
    | .strided rows _ _ _ => (List.range rows).flatMap fun i => (List.range (e.cmd.rowBlocks i)).map fun b => i * 2 ^ 21 + b
    | _ => List.range (e.done.length + 1)
  (js.find? fun j => e.cmd.hasChunk j && !e.done.contains j).getD 0

/-- The engine may pass a command's turn: its crew is being stopped, or its next engine chunk waits, for a link, an aged chunk, an SPOST, a
home that is held or the host (R117, R178, R272, R383, R424, R432). -/
def State.enginePasses (s : State) (core : Nat) (e : EngEntry) : Bool :=
  (s.crew e.cmd.crew).any (fun w => w.stopping.isSome) || !(s.engineChunk core e e.nextChunk).2

/-- How far a command's turn lies behind that of the one that had its turn last: the turns go by their numbers (R272). -/
def State.engineGap (s : State) (core id : Nat) : Nat :=
  match (s.core core).engLast with
  | some l => if l < id then id - l else id + s.nextId - l
  | none => id

/-- It is a command's turn: the engine takes one engine chunk of each of the commands that it works on in turn (R272). -/
def State.engineTurn (s : State) (core : Nat) (e : EngEntry) : Bool :=
  ((s.core core).engine.take engineWindow).all fun x =>
    decide (s.engineGap core e.id ≤ s.engineGap core x.id) || s.enginePasses core x

/-- The engine of a core performs an engine chunk of the i-th of the commands that it works on, in its turn (R272); while its block is
held it begins none (R432). -/
def engineStep (s : State) (core i j : Nat) : State :=
  if engineWindow ≤ i ∨ s.held 2 core then s
  else
    match (s.core core).engine[i]? with
    | none => s
    | some e =>
      if (s.crew e.cmd.crew).any (fun w => w.stopping.isSome) || !s.engineTurn core e then s
      else
        let r := s.engineChunk core e j
        if r.2 then r.1.engineTook core e.id else r.1

/-- A write to another partition's memory is an edge commit of that partition (R441). -/
def State.remoteCommit (s : State) (pa : Nat) (bytes : List Host.Cell) : State :=
  if regionOf pa = 0 then s.commitCells (s.partOf (pa / 2 ^ 36)) bytes else s

/-- A write to another partition's memory waits there for an older aged chunk, or for a released SPOST (R117, R178). -/
def State.remoteHeld (s : State) (bytes : List Host.Cell) : Bool :=
  match bytes with
  | [] => false
  | b :: _ => decide (regionOf b.1 = 0) &&
      (s.agedBlocks (s.partOf (b.1 / 2 ^ 36)) none (cellLines bytes) || s.postHeld none (cellDwords bytes))

/-- A payload write of the i-th command of a core is acknowledged at its destination (R280): the oldest one. -/
def payloadAck (s : State) (core i : Nat) : State :=
  match (s.core core).engine[i]? with
  | none => s
  | some e =>
    match s.links.find? fun l => match l.2.kind with
      | .payload c id _ _ => decide (c = core) && decide (id = e.id)
      | _ => false with
    | none => s
    | some l =>
      let out := { s with links := s.links.filter fun x => x.1 ≠ l.1 }
      match l.2.kind with
      | .payload _ _ _ bytes => if s.remoteHeld bytes then s else ((bytes.head?.map fun b => out.remoteCommit b.1 bytes).getD out).ackPayload core e.id
      | _ => out

/-! ### Meanings -/

def execRdset (d : BitVec 6) (t : BitVec 4) (b a : BitVec 6) (rm : BitVec 3) (c : BitVec 6) (s : State) :=
  runHead s (opRdset d t b a rm c)
def execRdc (d : BitVec 5) (t : BitVec 4) (b a : BitVec 6) (sp : BitVec 2) (s : State) := runHead s (do
  let m ← get
  opRdc t b a (some (d, spanRegs m.ar sp)) fun _ => 0)
def execRdcMem (t : BitVec 4) (b a c : BitVec 6) (s : State) := runHead s (opRdc t b a none fun m => m.ar.getX c)
def execRdq (d a : BitVec 6) (s : State) := runHead s (opRdq d a)
def execRdqSt (d a : BitVec 6) (s : State) := runHead s (opRdqSt d a)
def execRdqW (d a : BitVec 6) (s : State) := runHead s (opRdqW d a)

/-- ENGINE_CHUNK (R273). -/
def execEngineChunk (core i j : Nat) (s : State) : Host.Outcome State Fault Refusal := .next (engineStep s core i j)
/-- LINK_PAYLOAD_ACK (R280). -/
def execLinkPayloadAck (core i : Nat) (s : State) : Host.Outcome State Fault Refusal := .next (payloadAck s core i)
/-- CONTRIBUTION_ARRIVAL (R294). -/
def execContributionArrival (i : Nat) (s : State) : Host.Outcome State Fault Refusal := .next (contributionArrives s i)
/-- REDUCTION_TIMEOUT (R295). -/
def execReductionTimeout (block : Nat) (s : State) : Host.Outcome State Fault Refusal := .next (reductionTimesOut s block)
/-- REDUCTION_WAIT_WAKE (R300). -/
def execReductionWaitWake (tid : Nat) (s : State) : Host.Outcome State Fault Refusal := .next (reductionWake s tid)

end Sys2Proof.Machine
end

