-- ==== Sys2Proof/Machine/Tasks.lean ====
section
/-!
DEFINITION. Sys2Proof/Machine/Tasks.lean: opcodes 0xD8-0xE1: task, counter and message instructions, deques, stealing, counters
and inboxes (R301, R302, R312-R332).
-/

namespace Sys2Proof.Machine

/-! ### Task messages of a chunk (R315) -/

/-- Task messages that a chunk carries at most. -/
def messageMax : Nat := 16

/-- Task messages among some effects. -/
def messageCount (es : List Effect) : Nat := es.countP fun e => match e with
  | .task _ => true
  | _ => false

/-- A seventeenth task message ends the chunk before it. -/
def roomForMessage : M Unit := do
  let m ← get
  if messageMax ≤ messageCount m.ch.effects then throw .before

/-- A fault whose value the manual does not state. (DESIGN CHOICE: notes/assumptions/4.md.) -/
def faultOpen (b : Bool) (cause : Nat) : M Unit := do
  if b then
    let m ← get
    set (m.setSt m.st.fresh.2)
    throw (.fault cause m.st.fresh.1)

/-- An index of the crew's counters, or cause 0x0A, whose value the manual does not state (R325-R327). -/
def needIndex (i : Nat) : M Unit := do
  let m ← get
  faultOpen (decide ((m.crew.map Crew.cnt).getD 0 ≤ i)) 0x0A

/-- A crew has members on a core. -/
def Crew.onCore (w : Crew) (core : Nat) : Bool := w.members.any fun e => decide (coreOf e.2 = core)

/-- A register names, in [14:0], a core on which the crew has members (R323). -/
def crewCore (m : Mach) (v : Word) : Option Nat :=
  if v.toNat / 2 ^ 15 ≠ 0 then none
  else (m.st.coreOfVcn m.part v.toNat).filter fun c => m.crew.any fun w => w.onCore c

/-- A place that task records may lie in (R323). -/
def taskPlace (l : Loc) : Bool :=
  inHbm l || match l.place with
    | .scratch _ => true
    | _ => false

/-- Bits of dword 0 that a record of a program leaves clear (R301). -/
def taskBad (w : Word) : Bool := w.getLsbD 62 || decide (field w 57 5 ≠ 0)

/-- A record from its four dwords. -/
def taskOf (ws : List Word) : TaskRec := ⟨ws.getD 0 0, ws.getD 1 0, ws.getD 2 0, ws.getD 3 0⟩

/-- n bytes of a record where each can be read: as a load, in a place that records may lie in. -/
def recordBytes (va : Word) : Nat → M (List Byte)
  | 0 => pure []
  | n + 1 => do
    let l ← locate .load va
    faultIf (!taskPlace l) 0x07 va
    let b ← readAt l va 1
    let r ← recordBytes (va + 1) n
    pure (b ++ r)

/-- Dword 0 of the record at an address, wherever that is, if it can be read; what stops the reading is left to the checks of
alignment and translation, which R7 puts behind the record's own. -/
def peekTask (va : Word) : M (Option Word) :=
  tryCatch (do
      let bs ← recordBytes va 8
      pure (some (BitVec.ofNat 64 (ofBytes bs)))) fun e => do
    match e with
    | .fault _ _ => pure none
    | .page _ _ => pure none
    | _ => throw e

/-- Alignment, translation and place of a record, and its dwords (R323). -/
def loadTask (va : Word) : M TaskRec := do
  needAligned va 32
  let l ← locate .load va
  faultIf (!taskPlace l) 0x07 va
  let ws ← readWords l va 0 4
  pure (taskOf ws)

/-- The record at an address, read and checked as SPAWN does: its reserved bits first, then the target of AT (bad is the value that is
refused, if it is), then alignment and translation (R7, R323). -/
def readTask (va : Word) (bad : Option Word) : M TaskRec := do
  let w ← peekTask va
  faultIf (w.any taskBad) 0x0A va
  match bad with
  | some v => throw (.fault 0x07 v)
  | none => loadTask va

/-! ### Instructions (R323-R332) -/

def opSpawn (atc : BitVec 1) (b a : BitVec 6) (disp : BitVec 16) : M Unit := do
  notArming
  roomForMessage
  let m ← get
  let dest := if atc = 1 then crewCore m (m.ar.getX b) else some m.core
  let t ← readTask (memAddr m a disp) (if dest.isNone then some (m.ar.getX b) else none)
  match dest with
  | some c => emit (.task (.push c t))
  | none => pure ()

def opSpawnr (d b a c : BitVec 6) (pin : BitVec 1) : M Unit := do
  notArming
  roomForMessage
  let m ← get
  let w0 := BitVec.ofNat 64 (field (m.ar.getX a) 0 57 + pin.toNat * 2 ^ 63)
  emit (.task (.push m.core ⟨w0, m.ar.getX b, m.ar.getX c, m.ar.getX d⟩))

def opCntset (d b a : BitVec 6) : M Unit := do
  notArming
  roomForMessage
  let m ← get
  let n := (m.ar.getX b).toNat
  needIndex (m.ar.getX d).toNat
  faultOpen (decide (n = 0) || decide (2 ^ 32 ≤ n)) 0x0A
  let t ← readTask (m.ar.getX a) none
  emit (.task (.cntSet m.core (m.ar.getX d).toNat n t))

def opCntsetClr (d : BitVec 6) : M Unit := do
  notArming
  roomForMessage
  let m ← get
  needIndex (m.ar.getX d).toNat
  emit (.task (.cntClr m.core (m.ar.getX d).toNat))

def opCntdec (self : BitVec 1) (b a : BitVec 6) (dec idx : BitVec 8) : M Unit := do
  notArming
  roomForMessage
  let m ← get
  needIndex idx.toNat
  let n := if dec = 0 then field (m.ar.getX b) 0 32 else dec.toNat
  match if self = 1 then some m.core else crewCore m (m.ar.getX a) with
  | some c => emit (.task (.dec c idx.toNat n))
  | none => throw (.fault 0x07 (m.ar.getX a))

/-- The control line of a thread's inbox, of die scope; the manual gives it no address, and region 0x1E is empty.
(DESIGN CHOICE: notes/assumptions/28.md.) -/
def inboxPa (tid : Nat) : Nat := 0x1E * 2 ^ 52 + 2 ^ 30 + 64 * tid

/-- An inbox's line enters a signature, its scope at least the die's (R321, R328). -/
def noteInbox (tid : Nat) (write : Bool) : M Unit := do
  let m ← get
  let line := lineOf (inboxPa tid)
  onState fun s =>
    let d : Dir := assocGetD line ⟨[], 1, []⟩ s.dir
    let hs := (d.holders ++ [m.core]).dedup
    { s with dir := assocSet line { d with holders := hs, scope := max d.scope (scopeOf hs) } s.dir }
  onChunk fun c => { c with
    rsig := if write then c.rsig else c.rsig ||| sigOf line, wsig := if write then c.wsig ||| sigOf line else c.wsig,
    lines := if c.lines.contains line then c.lines else c.lines ++ [line] }

/-- The member of the crew that a register names in the layout of R327. -/
def crewThread (m : Mach) (v : Word) : Option Nat :=
  if v.toNat / 2 ^ 19 ≠ 0 then none
  else ((m.st.coreOfVcn m.part (v.toNat / 16)).map fun c => c * 16 + v.toNat % 16).filter fun t =>
    m.crew.any fun w => w.members.any fun e => decide (e.2 = t)

def opSend (d : BitVec 5) (b a : BitVec 6) (cn : BitVec 1) (idx : BitVec 8) : M Unit := do
  roomForMessage
  needGroup d 1
  notArming
  let m ← get
  match crewThread m (m.ar.getX a) with
  | none => throw (.fault 0x07 (m.ar.getX a))
  | some t =>
    if cn = 1 then needIndex idx.toNat
    needVec
    noteInbox t true
    let m ← get
    let from' := BitVec.ofNat 64 (2 ^ 63 + m.st.vcnReg m.tid)
    emit (.task (.send t (m.ar.getV d) (m.ar.getX b) from' (if cn = 1 then some idx.toNat else none)))

/-- Messages that a chunk has removed from the inbox. -/
def recvCount (es : List Effect) : Nat := es.countP fun e => match e with
  | .recv => true
  | _ => false

/-- Messages of an inbox, and of one page of an overflow region (R319). -/
def inboxSize : Nat := 32
def pageSize : Nat := 32

/-- The address of entry j of a member's overflow region (R319, R320). (DESIGN CHOICE: notes/assumptions/31.md.) -/
def State.overflowPa (s : State) (t : Thread) (j : Nat) : Nat :=
  let q := s.part (crewPart t.crew)
  let first := (((q.ovfUsed.filter fun u => decide (u.1 = t.crew))[t.l]?).map fun u => u.2.1).getD 0
  q.ovfBase.toNat + 4096 * first + 128 * j

/-- A message as it stands in an overflow region: payload, tag and sender word. -/
def Message.bytes (x : Message) : List Byte := bytesOf 64 x.payload.toNat ++ bytesOf 8 x.tag.toNat ++ bytesOf 8 x.sender.toNat

/-- The messages of a member's overflow region, oldest first, as memory holds them. -/
def State.overflowOf (s : State) (t : Thread) : List Message :=
  (List.range t.overflow.length).map fun j =>
    let pa := s.overflowPa t j
    ⟨BitVec.ofNat 512 (s.readVal pa 64), s.readWord (pa + 64), s.readWord (pa + 72)⟩

/-- A member's thread, its overflow region written to memory. -/
def State.setOverflow (s : State) (tid : Nat) (t : Thread) : State :=
  (s.setThread tid t).putCells (t.overflow.zipIdx.flatMap fun x => runCells (s.overflowPa t x.2) x.1.bytes)

/-- The messages of the thread as the chunk sees them (R328). -/
def inboxView (m : Mach) : List Message :=
  let taken := recvCount m.ch.effects + ((m.th.chunks.filter Chunk.ungranted).map fun c => recvCount c.effects).sum
  (m.th.inbox ++ m.st.overflowOf m.th).drop taken

def opRecv (d : BitVec 5) (b a : BitVec 6) : M Unit := do
  needGroup d 1
  notArming
  needVec
  let m ← get
  noteInbox m.tid false
  match inboxView m with
  | [] =>
    setX a 0
    setX b 0
  | x :: _ =>
    emit .recv
    onArch fun ar => ar.setV d x.payload
    setX a x.tag
    setX b x.sender

def opInbqN (d : BitVec 6) : M Unit := do
  notArming
  let m ← get
  noteInbox m.tid false
  setX d (BitVec.ofNat 64 (inboxView m).length)

def opInbqRoom (d : BitVec 6) : M Unit := do
  notArming
  let m ← get
  setX d (BitVec.ofNat 64 (pageSize * (m.crew.map Crew.ovf).getD 0 - ((inboxView m).length - inboxSize)))

def opInbqStray (d : BitVec 6) : M Unit := do
  notArming
  let m ← get
  setX d (BitVec.ofNat 64 (assocGetD m.th.crew 0 (m.st.core m.core).stray))

/-- Fields of a queue descriptor's control dword (R303). -/
def queueGuild (w : Word) : BitVec 16 := w.extractLsb' 16 16
def queueEn (w : Word) : Bool := w.getLsbD 11
def queueDev (w : Word) : Bool := w.getLsbD 10
def queueLevel (w : Word) : Nat := field w 8 2
def queueExp (w : Word) : Nat := field w 0 5

/-- A queue of a partition that nobody has described. -/
def Queue.none : Queue where
  base := 0
  ctl := 0
  waddr := 0
  rindex := 0
  windex := 0
  rest := [0, 0, 0, 0]
  slot := .none
  starved := 0
  boost := 0
  head := .none
  waiting := .none
  skip := 0
  prev := .none
  prevResult := 0
  prevDone := true
  held := false
  passed := false

def State.queue (s : State) (p q : Nat) : Queue := assocGetD q Queue.none (s.part p).queues
def State.setQueue (s : State) (p q : Nat) (v : Queue) : State :=
  s.setPart p { s.part p with queues := assocSet q v (s.part p).queues }

/-- The queue has work, as its write index was last read (R303). -/
def Queue.hasWork (q : Queue) : Bool := queueEn q.ctl && decide (q.rindex.toNat < q.windex.toNat)

/-- A queue whose work has run out returns to its own level (R306). -/
def Queue.rested (q : Queue) : Queue := if q.hasWork then q else { q with boost := 0, starved := 0 }

/-- The descriptor of a queue is valid, its guild with an entry (R303, R363). -/
def State.queueOk (s : State) (p : Nat) (d : Queue) : Bool :=
  decide (field d.ctl 32 32 = 0) && decide (field d.ctl 12 4 = 0) && decide (field d.ctl 5 3 = 0) && d.rest.all (fun w => decide (w = 0)) &&
    decide (4 ≤ queueExp d.ctl) && decide (queueExp d.ctl ≤ 16) && decide (regionOf d.base.toNat ≤ 1) &&
    decide (d.base.toNat % 128 = 0) && decide (regionOf d.waddr.toNat ≤ 1) && decide (d.waddr.toNat % 8 = 0) &&
    s.guildValid p (queueGuild d.ctl)

/-- A QUEUE event: the ring base of a disabled queue, or the address of a record refused without a completion word (R374). -/
def State.queueEvent (s : State) (p q : Nat) (v : Word) : State :=
  s.report p none 3 0 0 0 (queueGuild (s.queue p q).ctl).toNat q v

/-- The foreman disables a queue and reports it (R303). -/
def State.disable (s : State) (p q : Nat) : State :=
  let d := s.queue p q
  (s.queueEvent p q d.base).setQueue p q
    (Queue.rested { d with ctl := setField d.ctl 11 1 0, head := .none, waiting := .none, held := false, passed := false })

/-- An index word as the foreman reads it: a committed word of the module's memory, or what the host's word holds. -/
def State.indexWord (s : State) (a : Word) (host : Word) : Nat :=
  if regionOf a.toNat = 0 then (s.readWord a.toNat).toNat else host.toNat

/-- The foreman reads the write-index word of an enabled queue, widx being what the host's word holds (R303, R304). -/
def State.readQueue (s : State) (p q : Nat) (widx : Word) : State :=
  let d := s.queue p q
  if !queueEn d.ctl then s
  else if !s.queueOk p d then s.disable p q
  else
    let w := s.indexWord d.waddr widx
    if w < d.rindex.toNat ∨ d.rindex.toNat + 2 ^ queueExp d.ctl < w then s.disable p q
    else s.setQueue p q (Queue.rested { d with windex := BitVec.ofNat 64 w })

def opLaunch (b a : BitVec 6) (disp : BitVec 16) : M Unit := do
  notArming
  roomForMessage
  let m ← get
  let q := m.ar.getX b
  let va := memAddr m a disp
  let c := (m.st.queue m.part q.toNat).ctl
  faultIf (decide (1024 ≤ q.toNat) || !queueDev c || !queueEn c) 0x07 q
  faultIf (decide (queueGuild c ≠ m.ar.guild) && !m.sys) 0x07 q
  needAligned va 64
  let l0 ← locate .load va
  let l1 ← locateAs .load 0x05 (va + 64) va
  faultIf (!inHbm l0) 0x07 va
  faultIf (!inHbm l1) 0x07 va
  let r0 ← readWords l0 va 0 8
  let r1 ← readWords l1 (va + 64) 0 8
  emit (.task (.launch q.toNat (r0 ++ r1) m.ar.guild))

def opPostr (a : BitVec 6) (or : Bool) : M Unit := do
  notArming
  roomForMessage
  let m ← get
  emit (.task (.post or (m.ar.getX a)))

/-- TSTAMP (R332). -/
def opTstamp (d : BitVec 6) (k : BitVec 3) : M Unit := do
  notArming
  let m ← get
  let t := m.th
  setX d (BitVec.ofNat 64 (match k.toNat with
    | 0 => t.enq
    | 1 => t.deq
    | 2 => t.waitTotal
    | 3 => t.searchTotal
    | 4 => t.runTotal
    | 5 => t.failSteals
    | _ => t.tasks))

/-! ### Deques (R312) -/

/-- Entries of a deque on its core, in its spill region, and moved at once. -/
def dequeSize : Nat := 64
def spillSize : Nat := 2048
def spillStep : Nat := 32
def refillMark : Nat := 8

/-- A push onto the bottom; a full deque first moves its topmost entries to the bottom of the spill region. -/
def Core.push (c : Core) (e : DequeEntry) : Core :=
  if dequeSize ≤ c.deque.length then
    let k := c.deque.length - min spillStep (spillSize - c.spill.length)
    { c with deque := e :: c.deque.take k, spill := c.deque.drop k ++ c.spill }
  else { c with deque := e :: c.deque }

/-- Entries brought back once those on the core have fallen to the mark. -/
def Core.refill (c : Core) : Core :=
  if c.deque.length ≤ refillMark then
    { c with deque := c.deque ++ c.spill.take spillStep, spill := c.spill.drop spillStep }
  else c

/-- The entry at a place of the whole deque, bottom first, removed. -/
def Core.takeAt (c : Core) (i : Nat) : Option (DequeEntry × Core) :=
  match (c.deque ++ c.spill)[i]? with
  | none => none
  | some e =>
    some (e, if i < c.deque.length then Core.refill { c with deque := c.deque.eraseIdx i }
             else { c with spill := c.spill.eraseIdx (i - c.deque.length) })

/-- A thread's next record on its own core: its bound one, else the bottommost unbound one of its crew (R313). -/
def Core.popFor (c : Core) (tid crew : Nat) : Option (DequeEntry × Core) :=
  let all := c.deque ++ c.spill
  match all.findIdx? fun e => decide (e.bound = some tid) && decide (e.crew = crew) with
  | some i => c.takeAt i
  | none => (all.findIdx? fun e => decide (e.bound = none) && decide (e.crew = crew)).bind c.takeAt

/-- What a victim gives a thief of a crew: the topmost record neither bound nor pinned (R313). -/
def Core.stealFor (c : Core) (crew : Nat) : Option (DequeEntry × Core) :=
  let all := c.deque ++ c.spill
  let ok := fun e : DequeEntry => decide (e.bound = none) && decide (e.crew = crew) && !e.record.w0.getLsbD 63
  ((List.range all.length).reverse.find? fun i => (all[i]?).any ok).bind c.takeAt

/-- The address of record j of a core's spill region (R312, R320). (DESIGN CHOICE: notes/assumptions/31.md.) -/
def State.spillPa (s : State) (core j : Nat) : Nat :=
  let p := s.partOf (dieOf core)
  (s.part p).spillBase.toNat + 2 ^ 16 * (core - 3200 * p) + 32 * j

/-- A record as memory holds it (R301). -/
def State.recordAt (s : State) (pa : Nat) : TaskRec :=
  ⟨s.readWord pa, s.readWord (pa + 8), s.readWord (pa + 16), s.readWord (pa + 24)⟩

/-- The bytes of a record (R301). -/
def TaskRec.bytes (t : TaskRec) : List Byte := [t.w0, t.arg0, t.arg1, t.arg2].flatMap fun w => bytesOf 8 w.toNat

/-- A core with the records of its spill region as memory holds them. -/
def State.dequeCore (s : State) (core : Nat) : Core :=
  let c := s.core core
  { c with spill := c.spill.zipIdx.map fun e => { e.1 with record := s.recordAt (s.spillPa core e.2) } }

/-- A core's deque changed: the records of its spill region are written to memory. -/
def State.setDeque (s : State) (core : Nat) (c : Core) : State :=
  (s.setCore core c).putCells (c.spill.zipIdx.flatMap fun e => runCells (s.spillPa core e.2) e.1.record.bytes)

/-- A push that a message, the foreman or a counter performs: idle threads of the cluster seek again (R313). -/
def State.push (s : State) (core : Nat) (e : DequeEntry) : State :=
  let s := s.setDeque core ((s.dequeCore core).push e)
  { s with threads := s.threads.map fun x =>
      if clusterOf (coreOf x.1) = clusterOf core then
        match x.2.run with
        | .idle _ => (x.1, { x.2 with run := .none, sweep := 0 })
        | _ => x
      else x }

/-- A record pushed unbound for a crew. -/
def State.pushTask (s : State) (core crew : Nat) (t : TaskRec) : State :=
  s.push core { record := t, crew, bound := none, stamp := s.time }

/-- Deque places of a core held by messages that have asked for their commit or have left (R315). -/
def TaskMsg.placeOn (m : TaskMsg) (core : Nat) : Bool :=
  match m with
  | .push c _ => decide (c = core)
  | .cntSet c _ _ _ => decide (c = core)
  | _ => false

/-- The task messages of a chunk. -/
def Chunk.messages (c : Chunk) : List TaskMsg := c.effects.filterMap fun e => match e with
  | .task m => some m
  | _ => none

/-- Task messages that hold a reservation: those of chunks that have asked for their commit, and those on their way. A deterministic
chunk reserves at its turn (R316). -/
def State.reservedMsgs (s : State) : List TaskMsg :=
  (s.threads.flatMap fun e =>
      (e.2.chunks.filter fun c => decide (c.stage = .requested) && !e.2.arch.det).flatMap Chunk.messages) ++
    (s.net.filter fun e => e.2.out).filterMap fun e => match e.2.load with
      | .task _ _ _ m => some m
      | _ => none

/-- Places of a core's deque and spill region that are taken or held. -/
def State.placesUsed (s : State) (core : Nat) : Nat :=
  let c := s.core core
  c.deque.length + c.spill.length + c.counters.length + (s.reservedMsgs.filter fun m => m.placeOn core).length

/-- A place can be reserved for one message more, by the messages reserved before it in its chunk (R315, R321). -/
def State.canReserve (s : State) (before : List TaskMsg) (m : TaskMsg) : Bool :=
  match m with
  | .push core _ => decide (s.placesUsed core + (before.filter fun x => x.placeOn core).length < dequeSize + spillSize)
  | .cntSet core _ _ _ => decide (s.placesUsed core + (before.filter fun x => x.placeOn core).length < dequeSize + spillSize)
  | .send dest _ _ _ _ =>
    let sent := fun l : List TaskMsg => l.countP fun x => match x with
      | .send d _ _ _ _ => decide (d = dest)
      | _ => false
    match s.thread dest with
    | some t => decide (t.inbox.length + t.overflow.length + sent s.reservedMsgs + sent before <
        inboxSize + pageSize * ((s.crew t.crew).map Crew.ovf).getD 0)
    | none => false
  | _ => true

/-- The value of cause 0x0C: the destination's VCN and thread in the layout of R13 (R315). -/
def State.inboxVal (s : State) (tid : Nat) (m : TaskMsg) : Word :=
  BitVec.ofNat 64 (match m with
    | .push core _ => s.vcnReg (core * 16)
    | .cntSet core _ _ _ => s.vcnReg (core * 16)
    | .send dest _ _ _ _ => s.vcnReg dest
    | .launch q _ _ => q
    | _ => s.vcnReg tid)

/-- The first message of a chunk that finds no place, with its place among them. -/
def State.refusedMsg (s : State) (before : List TaskMsg) : List TaskMsg → Option (Nat × TaskMsg)
  | [] => none
  | m :: ms => if s.canReserve before m then s.refusedMsg (before ++ [m]) ms else some (before.length, m)

/-! ### The start of a task (R302, R313, R322) -/

/-- The registers at the start of a task in a guild with the given vector and gate table. -/
def Arch.startTask (a : Arch) (t : TaskRec) (guild : BitVec 16) (det : Bool) (tvec gtb : Word) : Arch :=
  { Arch.reset with
    x := ((Arch.reset.x.set 8 t.arg0).set 9 t.arg1).set 10 t.arg2
    pc := sextN t.w0 57
    status := BitVec.ofNat 64 (guild.toNat * 2 ^ 16 + det.toNat * 2)
    fps := a.fps
    srkey := a.srkey
    srctr := a.srctr
    wdlimit := a.wdlimit
    tvec := tvec
    gtb := gtb }

/-- A thread takes a record and starts its task. -/
def State.startTask (s : State) (tid : Nat) (e : DequeEntry) : State :=
  match s.thread tid, s.crew e.crew with
  | some t, some w =>
    let p := crewPart e.crew
    let s := s.cacheGuild p w.guild
    let g := s.guildEntry p w.guild
    s.setThread tid { t with
      run := .running, arch := t.arch.startTask e.record w.guild w.det (g.getD 1 0) (g.getD 2 0), enq := e.stamp, deq := s.time,
      sweep := 0, fetch := none, micro := none, born := none, later := none }
  | _, _ => s

/-- A task completes at the commit of its end (R322). -/
def Thread.taskDone (t : Thread) (now : Nat) : Thread :=
  { t with run := .none, sweep := 0, tasks := t.tasks + 1, waitTotal := t.waitTotal + (t.deq - t.enq),
           runTotal := t.runTotal + (now - t.deq), searchTotal := t.searchTotal + (t.deq - t.lastEnd), lastEnd := now }

/-- A thread has no task and may seek one: no chunk of it is in flight and its crew is not stopping. -/
def State.mayFetch (s : State) (t : Thread) : Bool :=
  decide (t.run = .none) && t.chunks.isEmpty && (s.crew t.crew).any fun w => w.stopping.isNone && w.stopped.isNone

/-- A thread pops its own core's deque, if it offers it a record. -/
def State.popTask (s : State) (tid : Nat) : Option State :=
  match s.thread tid with
  | none => none
  | some t =>
    ((s.dequeCore (coreOf tid)).popFor tid t.crew).map fun r => (s.setDeque (coreOf tid) r.2).startTask tid r.1

/-- The cores that a thread asks, in order (R313). -/
def State.victims (s : State) (tid crew : Nat) : List Nat :=
  let core := coreOf tid
  let cl := clusterOf core
  let own := (List.range 31).map fun i => cl * 32 + (core + 1 + i) % 32
  let others := (List.range 99).flatMap fun i =>
    let c := dieOf core * 100 + (cl + 1 + i) % 100
    (List.range 32).map fun k => c * 32 + k
  (own ++ others).filter fun c => (s.crew crew).any fun w => w.onCore c

/-- A sweep in which every request has failed ends in a wait of 1,024 cycles. -/
def stealWait : Nat := 1024

/-- A thread sends the steal request that its sweep has come to, in the steal and barrier class; after the last it waits (R313). -/
def State.askSteal (s : State) (tid : Nat) (t : Thread) : State :=
  match (s.victims tid t.crew)[t.sweep - 1]? with
  | some v => (s.setThread tid t).send clsSteal (coreFret (coreOf tid)) (coreFret v) v (.steal tid t.crew)
  | none => s.setThread tid { t with run := .idle (s.time + stealWait), sweep := 0 }

/-- A thread without a task seeks one (R313). Where its deque offers none, a dynamic thread begins a sweep of steal requests; in
deterministic mode it seeks at its turns only (R316). -/
def taskPop (s : State) (tid : Nat) : State :=
  match s.thread tid with
  | none => s
  | some t =>
    if s.mayFetch t && decide (t.sweep = 0) && !((s.crew t.crew).any Crew.det) then
      match s.popTask tid with
      | some s' => s'
      | none => s.askSteal tid { t with sweep := 1 }
    else s

/-- A steal request of a thread of a crew that has reached a victim core. -/
def State.stealArrived (s : State) (tid victim : Nat) : Option (Nat × Nat) :=
  s.net.findSome? fun e =>
    match e.2.load, (s.arrivedPacket e.1).isSome && decide (e.2.dest = victim) with
    | .steal t crew, true => if t = tid then some (e.1, crew) else none
    | _, _ => none

/-- A victim core serves a thread's steal request: it gives a record or refuses, and answers (R313). -/
def stealRequest (s : State) (tid victim : Nat) : State :=
  match s.stealArrived tid victim with
  | none => s
  | some r =>
    let answer := fun (s : State) (e : Option DequeEntry) =>
      s.send clsSteal (coreFret victim) (coreFret (coreOf tid)) (coreOf tid) (.stolen tid r.2 e)
    let s := s.takePacket r.1
    match (s.dequeCore victim).stealFor r.2 with
    | some g => answer (s.setDeque victim g.2) (some g.1)
    | none => answer s none

/-- The victim's answer reaches the thief: it starts the task, or asks the next core of its sweep (R313, R322). -/
def State.stealAnswer (s : State) (tid crew : Nat) (e : Option DequeEntry) : State :=
  match (s.thread tid).filter fun t => decide (t.crew = crew) with
  | none => s
  | some t =>
    match e with
    | some e => (s.record (coreOf tid) 5 (slotOf tid) 0 t.commitno).startTask tid e
    | none => s.askSteal tid { t with failSteals := t.failSteals + 1, sweep := t.sweep + 1 }

/-- A packet of a thread's steal. -/
def Packet.stealOf (k : Packet) (tid : Nat) : Bool :=
  match k.load with
  | .steal t _ => decide (t = tid) && k.out
  | .stolen t _ _ => decide (t = tid) && k.out
  | _ => false

/-- The wait after a failed sweep ends (R313). -/
def stealBackoff (s : State) (tid : Nat) : State :=
  match s.thread tid with
  | some t =>
    match t.run with
    | .idle due => if due ≤ s.time then s.setThread tid { t with run := .none, sweep := 0 } else s
    | _ => s
  | none => s

/-! ### Task messages at their destinations (R315, R317-R319, R321, R330, R331) -/

/-- A message of a commit has been applied. -/
def State.appliedMsg (s : State) (p no : Nat) : State :=
  { s with commits := s.commits.map fun c => if c.part = p ∧ c.no = no then { c with msgs := c.msgs - 1 } else c }

/-- A decrement of a crew's counter on a core (R318); one of 0 changes nothing (R326). -/
def State.decrement (s : State) (crew core idx d : Nat) : State :=
  if d = 0 then s
  else
  let c := s.core core
  match c.counters.find? fun k => decide (k.crew = crew) && decide (k.idx = idx) with
  | none => s.setCore core { c with stray := assocSet crew (assocGetD crew 0 c.stray + 1) c.stray }
  | some k =>
    if d < k.count then
      s.setCore core { c with counters := c.counters.map fun x => if x = k then { k with count := k.count - d } else x }
    else (s.setCore core { c with counters := c.counters.filter fun x => x ≠ k }).pushTask core crew k.record

/-- A message placed in a member's inbox, or behind its overflow (R319). -/
def Thread.place (t : Thread) (x : Message) : Thread :=
  if t.overflow.isEmpty ∧ t.inbox.length < inboxSize then { t with inbox := t.inbox ++ [x], mrecv := t.mrecv + 1 }
  else { t with overflow := t.overflow ++ [x], mrecv := t.mrecv + 1 }

/-- The first message removed; the overflow moves up. -/
def Thread.remove (t : Thread) : Thread :=
  { t with inbox := t.inbox.drop 1 ++ t.overflow.take 1, overflow := t.overflow.drop 1 }

/-- A member's first n messages removed, those of its overflow region as memory holds them. -/
def State.removeMessages (s : State) (tid n : Nat) : State :=
  match s.thread tid with
  | none => s
  | some t => if n = 0 then s else s.setOverflow tid (Nat.repeat Thread.remove n { t with overflow := s.overflowOf t })

/-- A message placed in a member's inbox: a write to the inbox's line, which squashes a chunk that has read it before (R321, R328). -/
def State.placeMessage (s : State) (tid : Nat) (t : Thread) (x : Message) : State :=
  let s := s.setOverflow tid ({ t with overflow := s.overflowOf t }.place x)
  match t.chunks.findIdx? fun c => c.ungranted && sigMeet (sigOf (lineOf (inboxPa tid))) c.rsig with
  | some i => s.squash tid i
  | none => s

/-- Bytes that the foreman writes as an effect of a crew's commit: in memory without a number, in region 0x01 over the link for the guild
that issued it (R161, R425). -/
def State.foremanEffect (s : State) (p no crew : Nat) (g : BitVec 16) (pa : Nat) (bs : List Byte) : State :=
  if regionOf pa = 1 then s.sendWrites none (some crew) p no g (runCells pa bs) else s.effectCells p no (runCells pa bs)

/-- A completion word that the foreman may write (R308, R311). -/
def completionOk (va : Word) : Bool :=
  decide (va ≠ 0) && decide (va.toNat % 8 = 0) && decide (regionOf va.toNat ≤ 1)

/-- What the foreman reads in a queue's write-index word for a LAUNCH: of a word in the host's memory, which no event of the manual
brings here, a free value. (DESIGN CHOICE: notes/assumptions/63.md.) -/
def State.launchIndex (s : State) (p q : Nat) : Word × State :=
  if regionOf (s.queue p q).waddr.toNat = 1 then s.fresh else (0, s)

/-- A LAUNCH's record reaches its queue, whose write-index word is read first (R304, R330). -/
def State.applyLaunch (s : State) (p no crew q : Nat) (g : BitVec 16) (r : List Word) : State :=
  let f := s.launchIndex p q
  let s := f.2.readQueue p q f.1
  let d := s.queue p q
  if !queueEn d.ctl then s
  else if d.windex.toNat < d.rindex.toNat + 2 ^ queueExp d.ctl then
    let pa := d.base.toNat + 128 * (d.windex.toNat % 2 ^ queueExp d.ctl)
    let s := s.foremanEffect p no crew g pa (r.flatMap fun x => bytesOf 8 x.toNat)
    let s := s.foremanEffect p no crew g d.waddr.toNat (bytesOf 8 (d.windex.toNat + 1))
    s.setQueue p q { d with windex := d.windex + 1 }
  else if completionOk (r.getD 7 0) then s.foremanWrite p (r.getD 7 0).toNat (bytesOf 8 (0x0105 * 2 ^ 48))
  else s

/-- One task message takes effect. -/
def State.applyMsg (s : State) (p no crew : Nat) (m : TaskMsg) : State :=
  match m with
  | .push core t => s.pushTask core crew t
  | .cntSet core idx n t =>
    let c := s.core core
    s.setCore core { c with counters := (c.counters.filter fun k => decide (k.crew ≠ crew) || decide (k.idx ≠ idx)) ++
      [{ crew, idx, count := n, record := t }] }
  | .cntClr core idx =>
    let c := s.core core
    s.setCore core { c with counters := c.counters.filter fun k => decide (k.crew ≠ crew) || decide (k.idx ≠ idx) }
  | .dec core idx d => s.decrement crew core idx d
  | .send dest payload tag sender cn =>
    match s.thread dest with
    | none => s
    | some t =>
      let s := s.placeMessage dest t ⟨payload, tag, sender⟩
      match cn with
      | some idx => s.decrement crew (coreOf dest) idx 1
      | none => s
  | .launch q r g => s.applyLaunch p no crew q g r
  | .post or v =>
    match s.crew crew with
    | some w => s.setCrew crew { w with result := if or then w.result ||| v else v }
    | none => s

/-- A message that must be applied before another that left later: of one chunk to one core, to one inbox, or to one launch's
result word (R321, R331). -/
def msgBefore (p no dest crew : Nat) (m : TaskMsg) (k : Packet) : Bool :=
  match k.load with
  | .task p' no' t' m' =>
    (decide (p' = p) && decide (no' = no) && decide (k.dest = dest)) ||
      (match m, m' with
        | .send d _ _ _ _, .send e _ _ _ _ => decide (d = e)
        | .post _ _, .post _ _ => decide (t' = crew)
        | .launch a _ _, .launch b _ _ => decide (a = b)
        | _, _ => false)
  | .dec _ _ _ _ p' no' => decide (p' = p) && decide (no' = no) && decide (k.dest = dest)
  | _ => false

/-- No packet that left earlier has to be applied first. -/
def State.msgTurn (s : State) (pkt p no dest crew : Nat) (m : TaskMsg) : Bool :=
  s.net.all fun e => decide (pkt ≤ e.1) || !e.2.out || !msgBefore p no dest crew m e.2

/-- A LAUNCH's record waits where an older aged chunk, a released SPOST or a held home holds up what it writes (R117, R171, R432). -/
def State.messageHeld (s : State) (p : Nat) (m : TaskMsg) : Bool :=
  match m with
  | .launch q _ _ =>
    let d := s.queue p q
    let cells := runCells (d.base.toNat + 128 * (d.windex.toNat % 2 ^ queueExp d.ctl)) (List.replicate 128 0) ++
      runCells d.waddr.toNat (List.replicate 8 0)
    s.commitHeld p none (cells.filter fun c => regionOf c.1 ≠ 1)
  | _ => false

/-- A task message is applied (R315). Its packet names the crew that sent it. -/
def taskMessageApply (s : State) (pkt : Nat) : State :=
  match s.arrivedPacket pkt with
  | some k =>
    match k.load with
    | .task p no crew m =>
      if s.msgTurn pkt p no k.dest crew m && !s.messageHeld p m then ((s.takePacket pkt).applyMsg p no crew m).appliedMsg p no else s
    | _ => s
  | none => s

/-- A decrement reaches its core (R318, R326). -/
def counterDecrement (s : State) (pkt : Nat) : State :=
  match s.arrivedPacket pkt with
  | some k =>
    match k.load with
    | .dec crew core idx d p no =>
      if s.msgTurn pkt p no k.dest crew (.dec core idx d) then
        ((s.takePacket pkt).decrement crew core idx d).appliedMsg p no
      else s
    | _ => s
  | none => s

/-! ### Meanings -/

def execSpawn (atc : BitVec 1) (b a : BitVec 6) (disp : BitVec 16) (s : State) := runHead s (opSpawn atc b a disp)
def execSpawnr (d b a c : BitVec 6) (pin : BitVec 1) (s : State) := runHead s (opSpawnr d b a c pin)
def execCntset (d b a : BitVec 6) (s : State) := runHead s (opCntset d b a)
def execCntsetClr (d : BitVec 6) (s : State) := runHead s (opCntsetClr d)
def execCntdec (self : BitVec 1) (b a : BitVec 6) (dec idx : BitVec 8) (s : State) := runHead s (opCntdec self b a dec idx)
def execSend (d : BitVec 5) (b a : BitVec 6) (cn : BitVec 1) (idx : BitVec 8) (s : State) := runHead s (opSend d b a cn idx)
def execRecv (d : BitVec 5) (b a : BitVec 6) (s : State) := runHead s (opRecv d b a)
def execInbqN (d : BitVec 6) (s : State) := runHead s (opInbqN d)
def execInbqRoom (d : BitVec 6) (s : State) := runHead s (opInbqRoom d)
def execInbqStray (d : BitVec 6) (s : State) := runHead s (opInbqStray d)
def execLaunch (b a : BitVec 6) (disp : BitVec 16) (s : State) := runHead s (opLaunch b a disp)
def execPostr (a : BitVec 6) (s : State) := runHead s (opPostr a false)
def execPostrOr (a : BitVec 6) (s : State) := runHead s (opPostr a true)
def execTstamp (d : BitVec 6) (k : BitVec 3) (s : State) := runHead s (opTstamp d k)

/-- TASK_POP (R313). -/
def execTaskPop (tid : Nat) (s : State) : Host.Outcome State Fault Refusal := .next (taskPop s tid)
/-- STEAL_REQUEST (R313). -/
def execStealRequest (tid victim : Nat) (s : State) : Host.Outcome State Fault Refusal := .next (stealRequest s tid victim)
/-- STEAL_BACKOFF (R313). -/
def execStealBackoff (tid : Nat) (s : State) : Host.Outcome State Fault Refusal := .next (stealBackoff s tid)
/-- TASK_MESSAGE_APPLY (R315). -/
def execTaskMessageApply (pkt : Nat) (s : State) : Host.Outcome State Fault Refusal := .next (taskMessageApply s pkt)
/-- COUNTER_DECREMENT (R318). -/
def execCounterDecrement (pkt : Nat) (s : State) : Host.Outcome State Fault Refusal := .next (counterDecrement s pkt)

end Sys2Proof.Machine
end

