-- ==== Sys2Proof/Machine/Exchange.lean ====
section
/-!
DEFINITION. Sys2Proof/Machine/Exchange.lean: opcodes 0xE4-0xEB: barriers, supersteps and exchange phases (R333-R335, R340-R359).
-/

namespace Sys2Proof.Machine

/-! ### Domains (R340, R343, R344) -/

/-- The domain that a crew has under a number: domain 0 is every member. -/
def Crew.domain (w : Crew) (k : Nat) : Option Domain :=
  if k = 0 then some ⟨0, w.members.length, 1⟩ else assocGet? k w.domains

/-- A member of a domain. -/
def Domain.has (d : Domain) (l : Nat) : Bool := (List.range d.count).any fun i => decide (d.first + i * d.stride = l)

/-- The threads of a domain's members. -/
def Crew.domainThreads (w : Crew) (k : Nat) : List Nat :=
  match w.domain k with
  | none => []
  | some d => (w.members.filter fun e => d.has e.1).map Prod.snd

/-- Reasons 1-3 of R343. -/
def needDomain (k : Nat) : M Unit := do
  let m ← get
  match m.crew.bind fun w => w.domain k with
  | none => throw (.fault 0x16 1)
  | some d =>
    faultIf (!d.has m.th.l) 0x16 2
    faultIf (decide (m.ar.depth ≠ 0)) 0x16 3

/-- BAR ends its chunk; the member arrives with its commit (R341, R343). -/
def opBar (dom : Nat) : M Unit := do
  notArming
  needDomain dom
  endWith (.bar dom)

/-- BARDOM (R344). -/
def opBardom (b a c : BitVec 6) (dom : BitVec 4) : M Unit := do
  notArming
  let m ← get
  let first := (m.ar.getX a).toNat
  let n := (m.ar.getX b).toNat
  let stride := (m.ar.getX c).toNat
  let size := (m.crew.map fun w => w.members.length).getD 0
  faultIf (decide (m.ar.depth ≠ 0)) 0x16 3
  faultIf (decide (dom = 0)) 0x16 4
  faultIf (decide (n ≠ 0) && (decide (stride = 0) || decide (size ≤ first + (n - 1) * stride))) 0x16 5
  emit (.bardom dom.toNat ⟨first, n, stride⟩)

/-- A definition as the crew holds it: a count of 0 makes the domain undefined. -/
def Domain.stored (d : Domain) : Option Domain := if d.count = 0 then none else some d

/-- A thread sleeps at a barrier of a domain. -/
def Thread.sleepsAt (t : Thread) (k : Nat) : Bool := match t.run with
  | .bar d _ => decide (d = k)
  | _ => false

/-- A definition that R344 refuses at its commit: it differs from the one in force, and some member sleeps at the domain. -/
def State.bardomRefused (s : State) (crew k : Nat) (d : Domain) : Bool :=
  match s.crew crew with
  | none => false
  | some w => decide (w.domain k ≠ d.stored) && w.members.any fun e => (s.thread e.2).any fun t => t.sleepsAt k

/-- The definition takes effect. -/
def State.defineDomain (s : State) (crew k : Nat) (d : Domain) : State :=
  match s.crew crew with
  | none => s
  | some w => s.setCrew crew { w with domains := match d.stored with
      | some v => assocSet k v w.domains
      | none => assocDrop k w.domains }

/-! ### Supersteps (R346) -/

/-- Records of an SSTEP at most. -/
def stepMax : Nat := 32

/-- The reserved bits of the records of a routine list, as far as they can be read in order. -/
def checkRoutines (va : Word) : Nat → M Unit
  | 0 => pure ()
  | n + 1 => do
    match ← peekTask va with
    | some w =>
      faultIf (taskBad w) 0x0A va
      checkRoutines (va + 32) n
    | none => pure ()

/-- The routine list: of each record the alignment, the translation and the dwords. -/
def loadRoutines (va : Word) : Nat → M (List TaskRec)
  | 0 => pure []
  | n + 1 => do
    let t ← loadTask va
    faultIf (taskBad t.w0) 0x0A va
    let r ← loadRoutines (va + 32) n
    pure (t :: r)

/-- SSTEP. -/
def opSstep (dom : BitVec 4) (b a : BitVec 6) (disp : BitVec 16) : M Unit := do
  notArming
  needDomain dom.toNat
  let m ← get
  let va := memAddr m a disp
  let n := m.ar.getX b
  faultIf (decide (stepMax < n.toNat)) 0x0A n
  checkRoutines va n.toNat
  needAligned va 32
  let rs ← loadRoutines va n.toNat
  endWith (.sstep dom.toNat rs)

/-! ### Tablatures (R347) -/

/-- The phase length E. -/
def phaseLen (tab : List Line) : Nat := lineField (tab.headD 0) 4 4

/-- Cycles that a record occupies its string: first and last. -/
def Slot.from (x : Slot) : Nat := x.start
def Slot.to (x : Slot) : Nat := x.start + x.n * x.m - 1 + (stringLen x.str - 1)

/-- The layout of one line: its prefix, its zeros, and the reserved bits of its records. -/
def tabLineOk (l : Line) (first last : Bool) (nl : Nat) : Bool :=
  let h := lineHeads l
  let pre := lineField l 0 2
  decide (pre / 32 = 1) && decide (1 ≤ h) && decide (h ≤ 7) && (last || decide (h = 7)) &&
    decide (lineField l 2 2 = if first then nl else 0) &&
    (if first then decide (1 ≤ lineField l 4 4) && decide (lineField l 4 4 ≤ 1048576) else decide (lineField l 4 4 = 0)) &&
    decide (lineField l (8 + 8 * h) (56 - 8 * h) = 0) &&
    (List.range h).all fun i => decide (lineField l (8 + 8 * i) 8 / 2 ^ 19 % 2 ^ 9 = 0)

/-- A tablature is valid for a crew of a size. -/
def tabOk (tab : List Line) (size : Nat) : Bool :=
  let n := tab.length
  let xs := slots tab
  (tab.zipIdx.all fun e => tabLineOk e.1 (e.2 == 0) (e.2 + 1 == n) n) &&
    (xs.all fun x => decide (x.str ≤ 35) && decide (x.own + x.m ≤ size) && decide (x.to < phaseLen tab)) &&
    xs.zipIdx.all fun e => (xs.drop (e.2 + 1)).all fun y =>
      decide (e.1.str ≠ y.str) || decide (e.1.to < y.from) || decide (y.to < e.1.from)

/-- A whole line read in the chunk. -/
def readLineAt (l : Loc) (va : Word) : M Line := do
  let ws ← readWords l va 0 8
  pure (BitVec.ofNat 512 (packElems 64 (ws.map BitVec.toNat)))

/-- Lines from an address on, in places that a check admits. -/
def readLines (ok : Loc → Bool) (va : Word) : Nat → M (List Line)
  | 0 => pure []
  | n + 1 => do
    let l ← locate .load va
    faultIf (!ok l) 0x07 va
    let x ← readLineAt l va
    let r ← readLines ok (va + 64) n
    pure (x :: r)

/-! ### Arming (R350-R357) -/

/-- Cause 0x0B with a reason and a record number (R352). -/
def slotFault {α : Type} (reason rec' : Nat) : M α := throw (.fault 0x0B (BitVec.ofNat 64 (reason + rec' % 512 * 2 ^ 16)))

/-- XPH (R353). -/
def opXph (dom : BitVec 4) (a : BitVec 6) (disp : BitVec 16) : M Unit := do
  standAlone
  needDomain dom.toNat
  let m ← get
  if m.ar.arming.isSome then slotFault 5 0
  let va := memAddr m a disp
  needAligned va 64
  let l ← locate .load va
  faultIf (!inHbm l) 0x07 va
  let x ← readLineAt l va
  let nl := lineField x 2 2
  if nl = 0 ∨ 64 < nl then slotFault 3 0
  let rest ← readLines inHbm (va + 64) (nl - 1)
  let size := (m.crew.map fun w => w.members.length).getD 0
  if !tabOk (x :: rest) size then slotFault 3 0
  onArch fun ar => { ar with arming := some ⟨dom.toNat, va, ar.pc, m.npc, x :: rest, [], false⟩ }

/-- The member's arming, or reason 5. -/
def needArming : M Arming := do
  let m ← get
  match m.ar.arming with
  | some g => if g.ended then slotFault 5 0 else pure g
  | none => slotFault 5 0

/-- A record number, or reason 4. -/
def needSlot (g : Arming) (r : Nat) (bad : Bool) : M Slot :=
  if bad || decide (slotCount g.tab ≤ r) then slotFault 4 r else pure (slotAt g.tab r)

/-- Every owner's cluster stands on the record's string, each on that of its own die, and the member's on that of the owner that it names, or
reason 8 (R347). -/
def needPasses (x : Slot) (r ownerDie : Nat) : M Unit := do
  let m ← get
  let owners := (List.range x.m).all fun j => (m.crew.bind fun w => assocGet? (x.own + j) w.members).all fun t =>
    stringPasses x.str (dieOf (coreOf t)) (coreFret (coreOf t))
  if !owners || !stringPasses x.str ownerDie (coreFret m.core) then slotFault 8 r

/-- A request joins the arming. -/
def arm (q : XReq) : M Unit :=
  onArch fun ar => { ar with arming := ar.arming.map fun g => { g with reqs := g.reqs ++ [q] } }

/-- Limits of R351: lines sent, lines captured, capture requests. -/
def sendMax : Nat := 128
def captureMax : Nat := 256
def requestMax : Nat := 32

/-- Lines sent and captured by some requests, and capture requests among them. -/
def sentLines (l : List XReq) : Nat := (l.map fun q => match q with
  | .xmit _ ls => ls.length
  | _ => 0).sum
def capturedLines (l : List XReq) : Nat := (l.map fun q => match q with
  | .xsel _ _ _ n _ _ => n
  | .xrcv _ _ _ _ => 1
  | _ => 0).sum
def captureRequests (l : List XReq) : Nat := l.countP fun q => match q with
  | .xmit _ _ => false
  | _ => true

/-- The place of task records and exchange lines (R354, R355). -/
def exchangePlace : Loc → Bool := taskPlace

/-- XMIT (R354). -/
def opXmit (b a : BitVec 6) (rec' : BitVec 16) : M Unit := do
  let g ← needArming
  let m ← get
  let sel := m.ar.getX b
  let r := rec'.toNat + field sel 0 9
  let x ← needSlot g r (decide (field sel 9 55 ≠ 0))
  if m.th.l < x.own ∨ x.own + x.m ≤ m.th.l then slotFault 1 r
  if sendMax < sentLines g.reqs + x.n then slotFault 4 r
  if g.reqs.any fun q => match q with
    | .xmit k _ => decide (k = r)
    | _ => false then slotFault 6 r
  needPasses x r (dieOf m.core)
  let va := m.ar.getX a
  needAligned va 64
  let ls ← readLines exchangePlace va x.n
  arm (.xmit r ls)

/-- What X[B] selects (R355): the record, its owner offset, the first line and their number, with the checks of reason 4. -/
def selection (g : Arming) (rec' : BitVec 16) (sel : Word) (one : Bool) : M (Nat × Slot × Nat × Nat × Nat) := do
  let r := rec'.toNat + field sel 23 9
  let off := field sel 17 6
  let n := field sel 8 9
  let first := field sel 0 8
  let x ← needSlot g r (decide (field sel 32 32 ≠ 0))
  if n = 0 ∨ captureMax < n ∨ x.n < first + n ∨ x.m ≤ off ∨ (one ∧ n ≠ 1) then slotFault 4 r
  if captureMax < capturedLines g.reqs + n ∨ requestMax ≤ captureRequests g.reqs then slotFault 4 r
  let m ← get
  needPasses x r ((m.crew.map fun w => w.memberDie (x.own + off)).getD 0)
  pure (r, x, off, first, n)

/-- XSEL (R355): every destination line is translated as a store. -/
def opXsel (b a : BitVec 6) (rec' : BitVec 16) : M Unit := do
  let g ← needArming
  let m ← get
  let q ← selection g rec' (m.ar.getX b) false
  let va := m.ar.getX a
  needAligned va 64
  let ls ← locateRun .store va 64 q.2.2.2.2
  needAll exchangePlace va 64 ls
  arm (.xsel q.1 q.2.2.1 q.2.2.2.1 q.2.2.2.2 va (ls.map Loc.pa))

/-- XRCV (R356). -/
def opXrcv (d : BitVec 5) (b : BitVec 6) (rec' : BitVec 16) : M Unit := do
  needGroup d 1
  let g ← needArming
  let m ← get
  let q ← selection g rec' (m.ar.getX b) true
  needVec
  arm (.xrcv q.1 q.2.2.1 q.2.2.2.1 d)

/-- XEND (R357). -/
def opXend : M Unit := do
  let _ ← needArming
  onArch fun ar => { ar with arming := ar.arming.map fun g => { g with ended := true } }
  endWith .xend

/-! ### Releases (R341, R342) -/

/-- A member that counts as arrived at a barrier without sleeping at it: idle, and its core offers it no record. -/
def State.isIdle (s : State) (tid : Nat) (t : Thread) : Bool :=
  (match t.run with
    | .none => true
    | .idle _ => true
    | _ => false) && ((s.core (coreOf tid)).popFor tid t.crew).isNone

/-- Every member of a domain has arrived, and one of them sleeps there. -/
def State.allArrived (s : State) (w : Crew) (k : Nat) : Bool :=
  let ts := (w.domainThreads k).filterMap fun x => (s.thread x).map fun t => (x, t)
  (ts.any fun e => e.2.sleepsAt k) && ts.all fun e => e.2.sleepsAt k || s.isIdle e.1 e.2

/-- A member released: it runs again with its watchdog count reset; an SSTEP's records go onto its core's deque, record 0 to be
popped first, at once or at its turn in deterministic mode, and it seeks its next task (R128, R341, R346). -/
def State.releaseMember (s : State) (k : Nat) (det : Bool) (tid : Nat) : State :=
  match s.thread tid with
  | none => s
  | some t =>
    match t.run with
    | .bar d r =>
      if d ≠ k then s
      else
        match r with
        | none => s.setThread tid { t with run := .running, arch := { t.arch with wdcount := 0 } }
        | some rs =>
          let t := { t with arch := { t.arch with wdcount := 0 } }
          if det then s.setThread tid { t with run := .pushing rs }
          else pushAll (s.setThread tid { t with run := .none, sweep := 0 }) tid t.crew rs.reverse
    | _ => s
where
  /-- The records pushed one after the other, pinned. -/
  pushAll (s : State) (tid crew : Nat) : List TaskRec → State
    | [] => s
    | r :: rs => pushAll (s.pushTask (coreOf tid) crew { r with w0 := r.w0 ||| 0x8000000000000000 }) tid crew rs

/-- The key under which a crew notes the round in which something is released: a barrier of domain k, or its start join. -/
def barKey (k : Nat) : Nat := k
def joinKey (k : Nat) : Nat := 16 + k

/-- A deterministic crew releases at turn 0 of a round noted before; a dynamic one at once (R341, R342). -/
def Crew.mayRelease (w : Crew) (key : Nat) : Bool :=
  !w.det || (decide (w.turn = 0) && match assocGet? key w.releaseAt with
    | some r => decide (r ≤ w.round)
    | none => false)

/-- A barrier releases: in dynamic mode once every member has arrived, in deterministic mode as noted when they had. -/
def barrierRelease (s : State) (crew dom : Nat) : State :=
  match s.crew crew with
  | none => s
  | some w =>
    if (w.det || s.allArrived w dom) && w.mayRelease (barKey dom) && w.stopping.isNone then
      (w.domainThreads dom).foldl (fun s t => s.releaseMember dom w.det t)
        (s.setCrew crew { w with releaseAt := assocDrop (barKey dom) w.releaseAt })
    else s

/-! ### The phase (R350, R352, R358) -/

/-- The arming that a thread sleeps in XEND with. -/
def Thread.armed (t : Thread) (k : Nat) : Option Arming :=
  match t.run with
  | .xend => t.arch.arming.filter fun g => decide (g.dom = k) && g.ended
  | _ => none

/-- The members of a domain by logical index, where all of them sleep in XEND. -/
def State.joined (s : State) (w : Crew) (k : Nat) : Option (List (Nat × Nat × Arming)) :=
  match w.domain k with
  | none => none
  | some d => (w.members.filter fun e => d.has e.1).mapM fun e => ((s.thread e.2).bind fun t => t.armed k).map fun g => (e.1, e.2, g)

/-- The start join releases, and the strings of the phase take no class traffic from then on; members that named different tablature addresses stop the crew with reason 7, charged to the
lowest of them that differs from the lowest member (R350, R352). -/
def startJoin (s : State) (crew dom : Nat) : State :=
  match s.crew crew with
  | none => s
  | some w =>
    match s.joined w dom with
    | some ((l, t0, g) :: rest) =>
      if w.mayRelease (joinKey dom) && w.stopping.isNone && !(w.phases.any fun p => decide (p.dom = dom)) then
        match ((l, t0, g) :: rest).find? fun e => e.2.2.va ≠ g.va with
        | some e =>
          match s.thread e.2.1 with
          | some t =>
            (s.setThread e.2.1 { t with arch := t.arch.trapRegs e.2.2.xphPc e.2.2.xphNext 0x0B 7 }).stopCrew crew 0x0B (some e.1)
          | none => s
        | none =>
          (s.setCrew crew { w with releaseAt := assocDrop (joinKey dom) w.releaseAt,
                                   phases := w.phases ++ [⟨dom, g.tab, 0, false⟩] }).clearStrings
      else s
    | _ => s

/-- A phase's strings are free: no running phase needs one, nor one that waits in a crew of a lower serial (R350). -/
def State.stringsFree (s : State) (crew : Nat) (w : Crew) (tab : List Line) (dom : Nat) : Bool :=
  s.crews.all fun e => e.2.phases.all fun q =>
    (decide (e.1 = crew) && decide (q.dom = dom)) || !stringsMeet w e.2 tab q.tab || (!q.started && decide (crew ≤ e.1))

/-- Cycles from the release of the start join to cycle 0 (R350). -/
def phaseLead (tab : List Line) : Nat := if (slots tab).any fun x => decide (28 ≤ x.str) then 2192 else 274

/-- A phase begins its lead (R350). -/
def phaseStart (s : State) (crew dom : Nat) : State :=
  match s.crew crew with
  | none => s
  | some w =>
    match w.phases.find? fun p => decide (p.dom = dom) && !p.started with
    | some p =>
      if s.stringsFree crew w p.tab dom then
        s.setCrew crew { w with phases := w.phases.map fun q =>
          if q.dom = dom then { q with started := true, zero := s.time + phaseLead p.tab } else q }
      else s
    | none => s

/-- Line i of the run that owner j of a record sends in a domain's phase: what the member armed, or zeros (R354). -/
def State.sentLine (s : State) (w : Crew) (dom : Nat) (tab : List Line) (r j i : Nat) : Line :=
  match (assocGet? ((slotAt tab r).own + j) w.members).bind s.thread with
  | some t =>
    match t.armed dom with
    | some g =>
      (g.reqs.findSome? fun q => match q with
        | .xmit k ls => if k = r then some (ls.getD i 0) else none
        | _ => none).getD 0
    | none => 0
  | none => 0

/-- The cycle of the phase in which line i of owner j passes fret q, the owner's cluster standing at fret p (R349). -/
def Slot.cycleAt (x : Slot) (j i p q : Nat) : Option Nat := (hops x.str p q).map fun c => x.start + j * x.n + i + c

/-- The line of owner j that a member captures, where its string carries it past the member's fret before the phase ends (R349). -/
def State.captured (s : State) (w : Crew) (g : Arming) (tid r j i : Nat) : Option Line :=
  let x := slotAt g.tab r
  let owner := ((assocGet? (x.own + j) w.members).map fun t => coreFret (coreOf t)).getD 0
  if (x.cycleAt j i owner (coreFret (coreOf tid))).any fun c => decide (c < phaseLen g.tab) then
    some (s.sentLine w g.dom g.tab r j i)
  else none

/-- A line's bytes as cells, its 16-byte parts where the first byte's address puts them (R140). -/
def lineCells (pa : Nat) (l : Line) : List Host.Cell :=
  (List.range 64).map fun i => (pa / 64 * 64 + (i ^^^ pa % 64), BitVec.ofNat 8 (lineByte l i))

/-- What a member's captures write, as (virtual address, cells) line by line, and the registers of its XRCVs (R355, R356). -/
def State.captures (s : State) (w : Crew) (g : Arming) (tid : Nat) : List (Nat × List Host.Cell) × List (BitVec 5 × Line) :=
  (g.reqs.flatMap fun q => match q with
    | .xsel r off first n dst pas => (List.range n).filterMap fun k =>
        (s.captured w g tid r off (first + k)).map fun l => ((dst + BitVec.ofNat 64 (64 * k)).toNat, lineCells (pas.getD k 0) l)
    | _ => [],
   g.reqs.filterMap fun q => match q with
    | .xrcv r off first v => (s.captured w g tid r off first).map fun l => (v, l)
    | _ => none)

/-- Lines put in order of their addresses; of two for one address the later stays behind. -/
def insertLine (e : Nat × List Host.Cell) : List (Nat × List Host.Cell) → List (Nat × List Host.Cell)
  | [] => [e]
  | f :: l => if e.1 < f.1 then e :: f :: l else f :: insertLine e l

/-- Captured lines as exchange chunks: one for each 4 KiB block, in increasing order of address (R358). -/
def exchangeChunks (l : List (Nat × List Host.Cell)) : List (List Host.Cell) :=
  let o := l.foldl (fun acc e => insertLine e acc) []
  ((o.map fun e => e.1 / 4096).dedup).map fun b => (o.filter fun e => e.1 / 4096 = b).flatMap Prod.snd

/-- Lines that a member sends in a phase: those of every record it owns. -/
def ownedLines (tab : List Line) (l : Nat) : Nat :=
  ((List.range (slotCount tab)).map fun r =>
    let x := slotAt tab r
    if x.own ≤ l ∧ l < x.own + x.m then x.n else 0).sum

/-- A phase ends after its last cycle: each member holds its captured lines (R350, R358). -/
def phaseEnd (s : State) (crew dom : Nat) : State :=
  match s.crew crew with
  | none => s
  | some w =>
    match w.phases.find? fun p => decide (p.dom = dom) && p.started with
    | some p =>
      if p.zero + phaseLen p.tab ≤ s.time then
        let s0 := s
        (w.members.foldl (fun s e =>
          match s.thread e.2 with
          | some t =>
            match t.armed dom with
            | some g =>
              let c := s0.captures w g e.2
              s.setThread e.2 { t with run := .captured (w.round + 1) (exchangeChunks c.1) c.2, ltx := t.ltx + ownedLines p.tab e.1,
                                       lrx := t.lrx + capturedLines g.reqs }
            | none => s
          | none => s) s).setCrew crew { w with phases := w.phases.filter fun q => q.dom ≠ dom }
      else s
    | none => s

/-- A member whose exchange chunks have all committed resumes with the registers of its XRCVs, armed no more (R358). -/
def Thread.resumeExchange (t : Thread) (regs : List (BitVec 5 × Line)) : Thread :=
  let a := regs.foldl (fun a e => a.setV e.1 e.2) t.arch
  { t with run := .running, arch := { a with arming := none } }

/-- Nothing holds up an exchange chunk: no aged chunk, and no SPOST that waits on a word of it (R117, R178). -/
def State.exchangeFree (s : State) (tid p : Nat) (c : List Host.Cell) : Bool :=
  !s.agedBlocks p (some tid) (cellLines c) && !s.postHeld none (cellDwords c) && !(cellLines c).any s.homeHeld

/-- The next exchange chunk of a member commits; one that a guard refuses is dropped, and the GUARD bit set (R358). -/
def State.exchangeNext (s : State) (tid : Nat) : State :=
  match s.thread tid with
  | none => s
  | some t =>
    match t.run with
    | .captured r (c :: cs) regs =>
      let p := crewPart t.crew
      if c.any fun x => s.guarded p (some t.crew) x.1 then
        s.setThread tid { t with guard := true, run := .captured r cs regs }
      else if s.exchangeFree tid p c then
        if s.hostHolds (cellLines c) then s.askFirst p (cellLines c)
        else (s.unitWrite p t.crew t.arch.guild c).setThread tid { t with run := .captured r cs regs }
      else s
    | .captured _ [] regs => s.setThread tid (t.resumeExchange regs)
    | _ => s

/-- The exchange chunks of a deterministic member, all at its turn, and its resumption (R358). -/
def State.exchangeTurn (s : State) (tid : Nat) : State :=
  match (s.thread tid).map Thread.run with
  | some (.captured _ cs _) => Nat.repeat (fun s => s.exchangeNext tid) (cs.length + 1) s
  | _ => s

/-- An exchange chunk outside the turns of a deterministic crew (R358). -/
def exchangeChunk (s : State) (tid : Nat) : State :=
  match s.thread tid with
  | none => s
  | some t => if (s.crew t.crew).any Crew.det then s else s.exchangeNext tid

/-! ### Meanings -/

def execBar (dom : BitVec 4) (s : State) := runHead s (opBar dom.toNat)
def execBardom (b a c : BitVec 6) (dom : BitVec 4) (s : State) := runHead s (opBardom b a c dom)
def execXph (dom : BitVec 4) (a : BitVec 6) (disp : BitVec 16) (s : State) := runHead s (opXph dom a disp)
def execXmit (b a : BitVec 6) (rec' : BitVec 16) (s : State) := runHead s (opXmit b a rec')
def execXsel (b a : BitVec 6) (rec' : BitVec 16) (s : State) := runHead s (opXsel b a rec')
def execXrcv (d : BitVec 5) (b : BitVec 6) (rec' : BitVec 16) (s : State) := runHead s (opXrcv d b rec')
def execXend (s : State) := runHead s opXend
def execSstep (dom : BitVec 4) (b a : BitVec 6) (disp : BitVec 16) (s : State) := runHead s (opSstep dom b a disp)

/-- BARRIER_RELEASE (R341). -/
def execBarrierRelease (crew dom : Nat) (s : State) : Host.Outcome State Fault Refusal := .next (barrierRelease s crew dom)
/-- START_JOIN (R350). -/
def execStartJoin (crew dom : Nat) (s : State) : Host.Outcome State Fault Refusal := .next (startJoin s crew dom)
/-- PHASE_START (R350). -/
def execPhaseStart (crew dom : Nat) (s : State) : Host.Outcome State Fault Refusal := .next (phaseStart s crew dom)
/-- PHASE_END (R350). -/
def execPhaseEnd (crew dom : Nat) (s : State) : Host.Outcome State Fault Refusal := .next (phaseEnd s crew dom)
/-- EXCHANGE_CHUNK (R358). -/
def execExchangeChunk (tid : Nat) (s : State) : Host.Outcome State Fault Refusal := .next (exchangeChunk s tid)

end Sys2Proof.Machine
end

