-- ==== Sys2Proof/Machine/Formats.lean ====
section
/-!
DEFINITION. Sys2Proof/Machine/Formats.lean: opcodes 0x80-0x87: conversions, scaling, classification, rounding to integers,
and the block formats (R196-R208).
-/

namespace Sys2Proof.Machine

/-- Registers that elements of w bits take where a group of n registers holds elements of ww bits (R196). -/
def narrowRegs (n w ww : Nat) : Nat := (n * w + ww - 1) / ww

/-- A conversion of elements from type t to type u under the group rule of R196; more is checked for further groups, behind
the source's and the destination's. (DESIGN CHOICE: notes/assumptions/75.md.) -/
def opConv (t u : Nat) (p : BitVec 6) (d a : BitVec 5) (more : Shape → List (BitVec 5 × Nat))
    (f : Arch → Nat → Nat → Nat × BitVec 5) : M Unit := do
  let m ← get
  let ww := max (typeBits t) (typeBits u)
  let g := shapeOf m.ar p ww
  vecChecks ((a, narrowRegs g.nreg (typeBits t) ww) :: (d, narrowRegs g.nreg (typeBits u) ww) :: more g)
  putGroup d g (typeBits u) (narrowRegs g.nreg (typeBits u) ww) fun k => f m.ar k (m.ar.lane a.toNat (typeBits t) k)

/-- The same for an instruction that rounds (R189). -/
def opConvRnd (t u : Nat) (rm : BitVec 3) (sat : BitVec 1) (p : BitVec 6) (d a : BitVec 5)
    (more : Shape → List (BitVec 5 × Nat)) (f : Arch → Rnd → Nat → Nat → Nat × BitVec 5) : M Unit := do
  opConv t u p d a more fun ar k x => f ar (ar.rnd rm.toNat (sat == 1) k) k x
  onArch fun ar => ar.stepSr rm.toNat

/-- FCVT (R198, R201). -/
def opFcvt (d : BitVec 5) (t u : BitVec 4) (a : BitVec 5) (sat : BitVec 1) (rm : BitVec 3) (p : BitVec 6) : M Unit :=
  opConvRnd t.toNat u.toNat rm sat p d a (fun _ => []) fun ar r _ x =>
    convert (fmtOf u.toNat) r (unpack (fmtOf t.toNat) ar.ftz x)

/-- A value into an integer type (R199). -/
def toInteger (t : Nat) (r : Rnd) (x : FVal) : Nat × BitVec 5 :=
  let w := typeBits t
  match x with
  | .nan _ => (if r.sat then 0 else 2 ^ (w - 1), flagNV)
  | .inf neg => (if r.sat then patternOf w (if neg then intMin t else intMax t) else 2 ^ (w - 1), flagNV)
  | .num neg n d =>
    let q := roundInt r neg n d
    let i : Int := if neg then -(q.1 : Int) else q.1
    if i < intMin t ∨ intMax t < i then
      (patternOf w (if r.sat then (if neg then intMin t else intMax t) else i), flagNV)
    else (patternOf w i, if q.2 then flagNX else 0)

/-- FCVTI (R199). -/
def opFcvti (d : BitVec 5) (t u : BitVec 4) (a : BitVec 5) (sat : BitVec 1) (rm : BitVec 3) (p : BitVec 6) : M Unit :=
  opConvRnd t.toNat u.toNat rm sat p d a (fun _ => []) fun ar r _ x =>
    toInteger u.toNat r (unpack (fmtOf t.toNat) ar.ftz x)

/-- ICVTF (R200). -/
def opIcvtf (d : BitVec 5) (t u : BitVec 4) (a : BitVec 5) (sat : BitVec 1) (rm : BitVec 3) (p : BitVec 6) : M Unit :=
  opConvRnd t.toNat u.toNat rm sat p d a (fun _ => []) fun _ r _ x =>
    roundNum (fmtOf u.toNat) r (decide (intOf t.toNat x < 0)) (intOf t.toNat x).natAbs 1

/-- FRINT (R202); x holds under .x. -/
def rintVal (f : Fmt) (r : Rnd) (exact : Bool) (v : FVal) : Nat × BitVec 5 :=
  match v with
  | .nan s => (f.nanEnc, if s then flagNV else 0)
  | .inf neg => (f.withSign neg f.infEnc, 0)
  | .num neg n d =>
    let q := roundInt r neg n d
    ((roundNum f { rm := 0, sat := false, ftz := false, rb := 0 } neg q.1 1).1, if exact && q.2 then flagNX else 0)

def opFrint (d : BitVec 5) (t : BitVec 4) (k : BitVec 1) (a : BitVec 5) (rm : BitVec 3) (p : BitVec 6) : M Unit :=
  opConvRnd t.toNat t.toNat rm 0 p d a (fun _ => []) fun ar r _ x =>
    rintVal (fmtOf t.toNat) r (k == 1) (unpack (fmtOf t.toNat) ar.ftz x)

/-- The class of an encoding (R203). -/
def classOf (t x : Nat) : Nat :=
  if t = 15 then (if x = 0xFF then 9 else 6)
  else
    let f := fmtOf t
    match unpack f false x with
    | .nan s => if s then 8 else 9
    | .inf neg => if neg then 0 else 7
    | .num neg n _ =>
      if n = 0 then (if neg then 3 else 4)
      else if x / 2 ^ f.p % 2 ^ f.eb = 0 then (if neg then 2 else 5)
      else (if neg then 1 else 6)

/-- FCLASS (R203). -/
def opFclass (d : BitVec 5) (t : BitVec 4) (a : BitVec 5) (p : BitVec 6) : M Unit :=
  opConv t.toNat t.toNat p d a (fun _ => []) fun _ _ x => (classOf t.toNat x, 0)

/-- A number times 2^e; an exponent beyond 5,000 either way lies beyond every format's range. -/
def scaleVal (x : FVal) (e : Int) : FVal :=
  match x with
  | .num neg n d =>
    let c := max (-5000) (min 5000 e)
    .num neg (n * 2 ^ c.toNat) (d * 2 ^ (-c).toNat)
  | v => v

/-- A value under an e8m0 scale, whose NaN byte gives the canonical NaN and raises nothing but as R198 has it for e2m1. -/
def blockScaled (f : Fmt) (r : Rnd) (sc : Nat) (x : FVal) : Nat × BitVec 5 :=
  if sc = 0xFF then (f.nanEnc, if f.code = 14 then flagNV else 0) else convert f r (scaleVal x ((sc : Int) - 127))

/-- FSCL (R204). -/
def opFscl (d : BitVec 5) (t : BitVec 4) (k : BitVec 1) (a : BitVec 5) (sat : BitVec 1) (rm : BitVec 3) (p : BitVec 6)
    (c : BitVec 5) : M Unit :=
  let f := fmtOf t.toNat
  opConvRnd t.toNat t.toNat rm sat p d a (fun g => [(c, if k = 1 then 1 else g.nreg)]) fun ar r i x =>
    if k = 1 then blockScaled f r (ar.lane c.toNat 8 (i / 32)) (unpack f ar.ftz x)
    else convert f r (scaleVal (unpack f ar.ftz x) (signedOf f.bits (ar.lane c.toNat f.bits i)))

/-! ### Block formats (R205-R208) -/

/-- NB of R206. -/
def scaleBlocks (nreg ww : Nat) : Nat := (nreg * 512 / ww + 31) / 32
/-- Registers of the packed group (R206). -/
def packedRegs (nb we : Nat) : Nat := (nb * 32 * we + 511) / 512
/-- emax of an element type (R207). -/
def emaxOf (et : Nat) : Int :=
  match et with
  | 12 => 8
  | 13 => 15
  | 14 => 2
  | _ => 0

/-- A magnitude strictly below another, as fractions. -/
def fracLt (a b : Nat × Nat) : Bool := decide (a.1 * b.2 < b.1 * a.2)

/-- The largest magnitude among values, 0 where there is none. -/
def largestMag (l : List FVal) : Nat × Nat :=
  l.foldl (fun acc x => match x with
    | .num _ n d => if fracLt acc (n, d) then (n, d) else acc
    | _ => acc) (0, 1)

/-- X of a block (R207). -/
def blockExp (et : Nat) (l : List FVal) : Int :=
  let a := largestMag l
  if a.1 = 0 then -127 else max (-127) (log2Frac a.1 a.2 - emaxOf et)

/-- An element of a block under its exponent (R207). -/
def packElem (et : Nat) (r : Rnd) (x : Int) (v : FVal) : Nat × BitVec 5 :=
  if et = 0 then
    match scaleVal v (6 - x) with
    | .num neg n d =>
      let q := roundInt r neg n d
      let i : Int := if neg then -((min q.1 127 : Nat) : Int) else (min q.1 127 : Nat)
      (patternOf 8 i, if q.2 ∨ 127 < q.1 then flagNX else 0)
    | _ => (0, 0)
  else
    match scaleVal v (-x) with
    | .num neg n d =>
      let e := roundNum (fmtOf et) { r with sat := true } neg n d
      (e.1, e.2 &&& ~~~flagOF)
    | _ => (0, 0)

/-- Block b of FPACK (R207): its scale, its elements and the flags. vs gives element k of the source where it is active. -/
def packBlock (et : Nat) (rnd : Nat → Rnd) (vs : Nat → Option FVal) (b : Nat) : Nat × List Nat × BitVec 5 :=
  let ks := (List.range 32).map fun i => 32 * b + i
  let act := ks.filterMap vs
  if act.any fun v => v.isNan || (match v with
    | .inf _ => true
    | _ => false) then
    (0xFF, List.replicate 32 0, if act.any fun v => v.isSig || (match v with
      | .inf _ => true
      | _ => false) then flagNV else 0)
  else
    let x := blockExp et act
    let es := ks.map fun k => match vs k with
      | some v => packElem et (rnd k) x v
      | none => (0, 0)
    ((x + 127).toNat, es.map Prod.fst, es.foldl (fun acc e => acc ||| e.2) 0)

/-- FPACK (R206, R207). -/
def opFpack (d : BitVec 5) (t : BitVec 4) (a : BitVec 5) (rm : BitVec 3) (p c : BitVec 5) (et : BitVec 4) : M Unit := do
  let m ← get
  let f := fmtOf t.toNat
  let g := shapeOf m.ar (p.setWidth 6) f.bits
  let we := typeBits et.toNat
  let nb := scaleBlocks g.nreg f.bits
  vecChecks [(a, g.nreg), (d, packedRegs nb we), (c, 1)]
  let bs := (List.range nb).map (packBlock et.toNat (m.ar.rnd rm.toNat false) fun k =>
    if g.active k then some (m.ar.fval f a k) else none)
  onArch fun ar => ((ar.putElems d.toNat we (bs.flatMap fun b => b.2.1) (packedRegs nb we)).putElems c.toNat 8
    (bs.map Prod.fst) 1).stepSr rm.toNat
  raise (bs.foldl (fun acc b => acc ||| b.2.2) 0)
  freeOverlap d.toNat (packedRegs nb we) c.toNat 1

/-- An element of a block as a number (R205, R208). -/
def unpackElem (et x : Nat) : FVal :=
  if et = 0 then .num (decide (signedOf 8 x < 0)) (signedOf 8 x).natAbs 64 else unpack (fmtOf et) false x

/-- FUNPK (R206, R208). -/
def opFunpk (d : BitVec 5) (t : BitVec 4) (a : BitVec 5) (sat : BitVec 1) (rm : BitVec 3) (p : BitVec 6) (c : BitVec 5)
    (et : BitVec 4) : M Unit := do
  let m ← get
  let f := fmtOf t.toNat
  let g := shapeOf m.ar p f.bits
  let we := typeBits et.toNat
  vecChecks [(a, packedRegs (scaleBlocks g.nreg f.bits) we), (d, g.nreg), (c, 1)]
  putGroup d g f.bits g.nreg fun k =>
    blockScaled f (m.ar.rnd rm.toNat (sat == 1) k) (m.ar.lane c.toNat 8 (k / 32)) (unpackElem et.toNat (m.ar.lane a.toNat we k))
  onArch fun ar => ar.stepSr rm.toNat

def execFcvt (d : BitVec 5) (t u : BitVec 4) (a : BitVec 5) (sat : BitVec 1) (rm : BitVec 3) (p : BitVec 6) (s : State) :=
  runHead s (opFcvt d t u a sat rm p)
def execFcvti (d : BitVec 5) (t u : BitVec 4) (a : BitVec 5) (sat : BitVec 1) (rm : BitVec 3) (p : BitVec 6) (s : State) :=
  runHead s (opFcvti d t u a sat rm p)
def execIcvtf (d : BitVec 5) (t u : BitVec 4) (a : BitVec 5) (sat : BitVec 1) (rm : BitVec 3) (p : BitVec 6) (s : State) :=
  runHead s (opIcvtf d t u a sat rm p)
def execFpack (d : BitVec 5) (t : BitVec 4) (a : BitVec 5) (rm : BitVec 3) (p c : BitVec 5) (et : BitVec 4) (s : State) :=
  runHead s (opFpack d t a rm p c et)
def execFunpk (d : BitVec 5) (t : BitVec 4) (a : BitVec 5) (sat : BitVec 1) (rm : BitVec 3) (p : BitVec 6) (c : BitVec 5)
    (et : BitVec 4) (s : State) := runHead s (opFunpk d t a sat rm p c et)
def execFscl (d : BitVec 5) (t : BitVec 4) (k : BitVec 1) (a : BitVec 5) (sat : BitVec 1) (rm : BitVec 3) (p : BitVec 6)
    (c : BitVec 5) (s : State) := runHead s (opFscl d t k a sat rm p c)
def execFclass (d : BitVec 5) (t : BitVec 4) (a : BitVec 5) (p : BitVec 6) (s : State) := runHead s (opFclass d t a p)
def execFrint (d : BitVec 5) (t : BitVec 4) (k : BitVec 1) (a : BitVec 5) (rm : BitVec 3) (p : BitVec 6) (s : State) :=
  runHead s (opFrint d t k a rm p)

end Sys2Proof.Machine
end

