-- ==== Sys2Proof/Machine/Matrix.lean ====
section
/-!
DEFINITION. Sys2Proof/Machine/Matrix.lean: opcodes 0xC0-0xCA: accumulator tiles, creel panels, the heddle and the loom
(R244-R270), and the events by which the loom performs its commands.
-/

namespace Sys2Proof.Machine

/-! ### Geometry (R249, R250) -/

/-- The slice depth, the bytes of a row of A and of B, and the element width in bits, of a type of the loom. -/
structure Geo where
  ks : Nat
  aRow : Nat
  bRow : Nat
  bits : Nat
deriving DecidableEq, Repr

def geoOf (ty : Nat) : Geo :=
  match ty with
  | 8 => ⟨2, 16, 128, 64⟩
  | 9 => ⟨4, 16, 64, 32⟩
  | 10 => ⟨16, 32, 32, 16⟩
  | 11 => ⟨16, 32, 32, 16⟩
  | 14 => ⟨64, 32, 8, 4⟩
  | _ => ⟨32, 32, 16, 8⟩

/-- N of the field NC; 0 for a dense operand. -/
def sparseN (nc : Nat) : Nat :=
  match nc with
  | 1 => 12
  | 2 => 16
  | 3 => 24
  | _ => 0

/-- NC of N (R268). -/
def ncOf (n : Nat) : Nat :=
  match n with
  | 12 => 1
  | 16 => 2
  | 24 => 3
  | _ => 0

/-- Panels of a compressed operand (R252), or the slices of a dense one. -/
def bPanels (n ks : Nat) : Nat := if n = 0 then ks else (32 * n + 511) / 512

/-- The element of w bits at a bit offset of some panels laid end to end. -/
def panelBits (ps : List (BitVec 4096)) (off w : Nat) : Nat :=
  ((ps.getD (off / 4096) 0).toNat / 2 ^ (off % 4096)) % 2 ^ w

/-- A(i, k) of R250 as its bits. -/
def aElem (g : Geo) (ps : List (BitVec 4096)) (i k : Nat) : Nat :=
  panelBits ps (4096 * (k / g.ks) + 8 * g.aRow * i + g.bits * (k % g.ks)) g.bits

/-- B(k, j) of a dense operand (R250). -/
def bElem (g : Geo) (ps : List (BitVec 4096)) (k j : Nat) : Nat :=
  panelBits ps (4096 * (k / g.ks) + 8 * g.bRow * (k % g.ks) + g.bits * j) g.bits

/-- The value in compressed row r of column j (R252). -/
def bSparse (g : Geo) (ps : List (BitVec 4096)) (r j : Nat) : Nat := panelBits ps (8 * g.bRow * r + g.bits * j) g.bits

/-! ### The heddle (R251) -/

/-- Two places of a list exchanged. -/
def swapAt (l : List Nat) (a b : Nat) : List Nat := (l.set a (l.getD b 0)).set b (l.getD a 0)

/-- The exchanges for q, q + 1, ... of R251. -/
def heddleSteps (seed : Word) (g j : Nat) (perm : List Nat) (q : Nat) : Nat → List Nat
  | 0 => perm
  | n + 1 =>
    let out := phiBits seed (BitVec.ofNat 32 (16 * g + j)) (BitVec.ofNat 32 (q / 4)) 0x48454444 0
    let w := out / 2 ^ (32 * (q % 4)) % 2 ^ 32
    heddleSteps seed g j (swapAt perm q (q + w * (48 - q) / 2 ^ 32)) (q + 1) n

/-- Pattern(seed, N, g, j): the kept positions in increasing order. -/
def pattern (seed : Word) (n g j : Nat) : List Nat :=
  let kept := (heddleSteps seed g j (List.range 48) 0 n).take n
  (List.range 48).filter fun k => kept.contains k

/-- The positions k that a compressed B holds for column j, with their rows (R252). -/
def keptRows (seed : Word) (n groups j : Nat) : List (Nat × Nat) :=
  (List.range groups).flatMap fun g => (pattern seed n g j).zipIdx.map fun p => (48 * g + p.1, g * n + p.2)

/-! ### Tiles (R54, R244) -/

/-- A tile slot by number. -/
def Arch.tile (a : Arch) (k : Nat) : Tile := a.getA (BitVec.ofNat 4 k)

/-- Element (i, j) of a tile. -/
def Arch.tileElem (a : Arch) (t : Nat) (f64 : Bool) (i j : Nat) : Nat :=
  if f64 then (a.tile (t + i / 8)).toNat / 2 ^ (1024 * (i % 8) + 64 * j) % 2 ^ 64
  else (a.tile t).toNat / 2 ^ (512 * i + 32 * j) % 2 ^ 32

/-- A tile written with its 256 elements, row by row. -/
def Arch.putTile (a : Arch) (t : Nat) (f64 : Bool) (l : List Nat) : Arch :=
  if f64 then
    (a.setA (BitVec.ofNat 4 t) (BitVec.ofNat 8192 (packElems 64 (l.take 128)))).setA (BitVec.ofNat 4 (t + 1))
      (BitVec.ofNat 8192 (packElems 64 (l.drop 128)))
  else a.setA (BitVec.ofNat 4 t) (BitVec.ofNat 8192 (packElems 32 l))

/-- The format of a tile's elements. -/
def tileFmt (f64 : Bool) : Fmt := if f64 then Machine.f64 else Machine.f32

/-- The 256 places of a tile, row by row. -/
def places : List (Nat × Nat) := (List.range 256).map fun k => (k / 16, k % 16)

/-- The tile number at which a tile operand fails, if it does: odd for f64, or beyond the allotment (R54). -/
def tileBreach (tiles t : Nat) (f64 : Bool) : Option Nat :=
  if f64 && decide (t % 2 = 1) then some t
  else if tiles ≤ t then some t
  else if f64 && decide (tiles ≤ t + 1) then some (t + 1)
  else none

/-- The value of cause 0x03 for a tile (R365). -/
def tileVal (k : Nat) : Word := BitVec.ofNat 64 (0x100 + k)

/-- A tile operand is even where it is f64 and lies within the allotment, else cause 0x03 (R54, R365). -/
def needTile (t : Nat) (f64 : Bool) : M Unit := do
  let m ← get
  match tileBreach m.tiles t f64 with
  | some k => throw (.fault 0x03 (tileVal k))
  | none => pure ()

/-! ### Arithmetic (R253, R254, R263, R266) -/

/-- The value of an operand of the loom: i8 as an integer. -/
def loomVal (ty : Nat) (ftz : Bool) (e : Nat) : FVal :=
  if ty = 0 then .num (decide (128 ≤ e)) (signedOf 8 e).natAbs 1 else unpack (fmtOf ty) ftz e

/-- The sum of two signed fractions whose denominators are powers of two. -/
def addDyadic (x y : Int × Nat) : Int × Nat :=
  let d := max x.2 y.2
  (x.1 * (d / x.2 : Nat) + y.1 * (d / y.2 : Nat), d)

/-- A value as a signed fraction; what is not a number adds nothing. -/
def FVal.dyadic : FVal → Int × Nat
  | .num s n d => (if s then -(n : Int) else n, d)
  | _ => (0, 1)

/-- The special cases of R253 in their order, else the exact sum rounded once with rne. -/
def macSum (ftz : Bool) (old : FVal) (terms : List (FVal × FVal)) : Nat × BitVec 5 :=
  let nans := old.isNan || terms.any fun t => t.1.isNan || t.2.isNan
  let prods : List (Option FVal) := terms.map fun t => if t.1.isNan || t.2.isNan then some (.nan false) else mulExact t.1 t.2
  let bad := prods.any Option.isNone
  let vals := old :: prods.filterMap id
  let pos := vals.any fun v => decide (v = .inf false)
  let neg := vals.any fun v => decide (v = .inf true)
  let fl := nvOf (old :: terms.flatMap fun t => [t.1, t.2]) ||| (if bad || (pos && neg) then flagNV else 0)
  if nans || bad || (pos && neg) then (f32.nanEnc, fl)
  else if pos || neg then (f32.withSign neg f32.infEnc, fl)
  else
    let sum := (vals.map FVal.dyadic).foldl addDyadic (0, 1)
    if sum.1 = 0 then (f32.withSign (vals.all fun v => v.isZero && v.isNeg) 0, fl)
    else roundMag f32 { rm := 0, sat := false, ftz, rb := 0 } (decide (sum.1 < 0)) sum.1.natAbs sum.2

/-- The chain of R254: fused multiply-adds in increasing k. -/
def macChain (ftz : Bool) (acc : Nat × BitVec 5) : List (Nat × Nat) → Nat × BitVec 5
  | [] => acc
  | (a, b) :: l =>
    let r := fmaVal f64 { rm := 0, sat := false, ftz, rb := 0 } false (unpack f64 ftz a) (unpack f64 ftz b)
      (unpack f64 ftz acc.1)
    macChain ftz (r.1, acc.2 ||| r.2) l

/-- acc · ρ · γ rounded once into a format (R263, R264): a NaN among them first, then 0 · ∞, then an infinity by R198. -/
def tripleVal (f : Fmt) (r : Rnd) (x p q : FVal) : Nat × BitVec 5 :=
  let vs := [x, p, q]
  if vs.any FVal.isNan then nanWith f (nvOf vs)
  else
    match (mulExact x p).bind fun y => mulExact y q with
    | none => nanWith f flagNV
    | some v =>
      if vs.any FVal.isZero && vs.any (fun y => decide (y = .inf false) || decide (y = .inf true)) then nanWith f flagNV
      else convert f r v

/-- Results of the 256 elements, with every flag raised. -/
def tileMap (f : Nat → Nat → Nat × BitVec 5) : List Nat × BitVec 5 :=
  let rs := places.map fun p => f p.1 p.2
  (rs.map Prod.fst, rs.foldl (fun acc r => acc ||| r.2) 0)

/-- Factor i of some factors, 1 where there are none. -/
def factor (f64 ftz : Bool) (l : List Nat) (i : Nat) : FVal :=
  if l = [] then .num false 1 1 else unpack (tileFmt f64) ftz (l.getD i 0)

/-! ### Panels and queues (R245, R246, R248, R255) -/

/-- A panel in its state at reset; the manual gives its bytes none. (DESIGN CHOICE: notes/assumptions/5.md.) -/
def Panel.reset : Panel := { owner := none, state := 0, data := 0, pattern := none }

def Core.panel (c : Core) (p : Nat) : Panel := assocGetD p Panel.reset c.panels
def Core.setPanel (c : Core) (p : Nat) (v : Panel) : Core := { c with panels := assocSet p v c.panels }

/-- The panels that a panel command writes. -/
def PanelCmd.writes (c : PanelCmd) : List Nat :=
  let n := match c.op with
    | .load _ _ n _ => n
    | .seed _ _ => 0
    | .compress _ _ _ n => n
  (List.range (bPanels n 1)).map fun i => c.panel + i

/-- The panels that a queued command of the loom names. -/
def LoomOp.panels : LoomOp → List Nat
  | .mma _ _ pa pb nc ks =>
    (List.range ks).map (fun i => pa + i) ++ (List.range (bPanels (sparseN nc) ks)).map fun i => pb + i
  | _ => []

/-- The commands that a core's queue holds at most (R255), and its panel queue (R248). -/
def loomDepth : Nat := 2
def panelDepth : Nat := 16
/-- The bytes of the drain buffer (R264). -/
def drainBytes : Nat := 8192

/-- Bytes that a drain of a command takes. -/
def LoomOp.captured : LoomOp → Nat
  | .drain _ _ _ _ _ _ _ rows => 8 * (rows.map List.length).sum
  | _ => 0

/-- Bytes taken in the drain buffer: drains captured, and those that queued commands will capture. -/
def Core.drainUsed (c : Core) : Nat :=
  (c.drains.map fun d => 8 * d.dwords.length).sum + (c.loom.map fun l => l.op.captured).sum

/-- A compute or drain instruction enters the queue, or waits for an entry (R255). -/
def enqueue (op : LoomOp) : M Unit := do
  let m ← get
  let c := m.st.core m.core
  let id := m.st.nextId
  let cmd : LoomCmd := { id, tid := m.tid, op, fps := m.ar.fps, srkey := m.ar.srkey, srctr := m.ar.srctr }
  if loomDepth ≤ c.loom.length then throw .wait
  set (m.setSt { m.st.setCore m.core { c with loom := c.loom ++ [cmd] } with nextId := id + 1 })

/-- The crew owns a panel, else cause 0x0A with its number. -/
def needPanel (p : Nat) : M Unit := do
  let m ← get
  faultIf (decide (((m.st.core m.core).panel p).owner ≠ some m.th.crew)) 0x0A (BitVec.ofNat 64 p)

def needPanels : List Nat → M Unit
  | [] => pure ()
  | p :: ps => do
    needPanel p
    needPanels ps

/-- A panel command ends its chunk as the last instruction and leaves at its commit (R248). -/
def leavePanel (p : Nat) (op : PanelOp) : M Unit := do
  emit (.panel p op)
  endWith .cut

/-! ### Rows of memory (R259, R264, R266) -/

/-- The dwords of a row of n bytes: each is one access, since rows begin at multiples of 8 and have whole dwords. -/
def rowWords (va : Word) (n : Nat) : List Word := (List.range (n / 8)).map fun i => va + BitVec.ofNat 64 (8 * i)

/-- The rows of an operand: base, stride, count and length. -/
def rowsOf (a s : Word) (count n : Nat) : List (List Word) :=
  (List.range count).map fun r => rowWords (a + s * BitVec.ofNat 64 r) n

/-- A row translated. -/
def locateRow (k : Access) : List Word → M (List (Word × Loc))
  | [] => pure []
  | va :: l => do
    let p ← locate k va
    let r ← locateRow k l
    pure ((va, p) :: r)

/-- Every row translated, the lowest faulting row deciding the cause. -/
def locateRows (k : Access) : List (List Word) → M (List (List (Word × Loc)))
  | [] => pure []
  | r :: rs => do
    let x ← locateRow k r
    let y ← locateRows k rs
    pure (x :: y)

/-- Region 0x00 or the scratch part of the window. -/
def loomPlace (p : Place) : Bool :=
  match p with
  | .hbm => true
  | .remote => true
  | .scratch _ => true
  | _ => false

/-- The rows of an operand after the checks of R259: multiples of 8, translations in the order of the rows, places. -/
def needRows (k : Access) (a s : Word) (count n : Nat) : M (List (List (Word × Loc))) := do
  if a.toNat % 8 ≠ 0 ∨ s.toNat % 8 ≠ 0 then throw (.fault 0x04 a)
  needVec
  let rs ← locateRows k (rowsOf a s count n)
  match rs.flatten.find? fun e => !loomPlace e.2.place with
  | some e => throw (.fault 0x07 e.1)
  | none => pure rs

/-- Some dwords translated with their places' check, each by itself. -/
def locateWords (k : Access) : List Word → M (List (Word × Loc))
  | [] => pure []
  | va :: l => do
    let p ← locate k va
    faultIf (!loomPlace p.place) 0x07 va
    let r ← locateWords k l
    pure ((va, p) :: r)

/-- The place of a dword among some. -/
def placeAmong (es : List (Word × Loc)) (va : Word) : Loc := ((es.find? fun e => e.1 = va).map Prod.snd).getD { pa := 0, place := .hbm }

/-- The rows of a drain or an accumulation after the checks of R264 and R266: the lowest address that faults decides (R138). -/
def needRowsLowest (k : Access) (a s : Word) (count n : Nat) : M (List (List (Word × Loc))) := do
  if a.toNat % 8 ≠ 0 ∨ s.toNat % 8 ≠ 0 then throw (.fault 0x04 a)
  needVec
  let rows := rowsOf a s count n
  let es ← locateWords k (rows.flatten.insertionSort fun x y => x.toNat ≤ y.toNat)
  pure (rows.map fun r => r.map fun va => (va, placeAmong es va))

/-- Virtual and physical addresses of rows. -/
def rowAddrs (rs : List (List (Word × Loc))) : List (List (Nat × Nat)) := rs.map fun r => r.map fun e => (e.1.toNat, e.2.pa)

/-! ### Instructions -/

/-- MZERO (R258). -/
def opMzero (d : BitVec 4) (f : BitVec 1) : M Unit := do
  needTile d.toNat (f == 0)
  notArming
  needVec
  enqueue (.zero d.toNat (f == 0))

/-- The rows that a load of the creel reads: their count and length (R259). -/
def loadShape (g : Geo) (b : Bool) (n : Nat) (tr : Bool) : Nat × Nat :=
  if !b then (16, g.aRow)
  else if tr then (16, g.ks * g.bits / 8)
  else if n = 0 then (g.ks, g.bRow)
  else (32 * n / g.bRow, g.bRow)

/-- MLDA and MLDB (R259). -/
def opLoadPanel (isB : Bool) (d : BitVec 6) (t : BitVec 4) (b a : BitVec 6) (nc : BitVec 2) (tr : BitVec 1) (disp : BitVec 16) :
    M Unit := do
  notArming
  let m ← get
  let n := sparseN nc.toNat
  let sh := loadShape (geoOf t.toNat) isB n (tr == 1)
  let rs ← needRows .load (memAddr m a disp) (if b = 0 then BitVec.ofNat 64 sh.2 else m.ar.getX b) sh.1 sh.2
  leavePanel d.toNat (.load t.toNat (tr == 1) n (rowAddrs rs))

/-- MSEED (R260). -/
def opMseed (d a : BitVec 6) (nc : BitVec 2) : M Unit := do
  notArming
  needVec
  let m ← get
  leavePanel d.toNat (.seed (m.ar.getX a) (sparseN nc.toNat))

/-- MCPRS (R261). -/
def opMcprs (d : BitVec 6) (t : BitVec 4) (b a : BitVec 6) (nc : BitVec 2) : M Unit := do
  notArming
  needPanels [a.toNat, a.toNat + 1, a.toNat + 2]
  needVec
  let m ← get
  leavePanel d.toNat (.compress t.toNat a.toNat (m.ar.getX b) (sparseN nc.toNat))

/-- MMA (R262). -/
def opMma (d t : BitVec 4) (b a : BitVec 6) (nc ks : BitVec 2) : M Unit := do
  needTile d.toNat (t == 8)
  notArming
  let op : LoomOp := .mma t.toNat d.toNat a.toNat b.toNat nc.toNat ks.toNat
  needPanels op.panels
  let m ← get
  let pat := ((m.st.core m.core).panel b.toNat).pattern
  faultIf (nc != 0 && decide (pat.map Prod.snd ≠ some (sparseN nc.toNat))) 0x0A (b.setWidth 64)
  needVec
  enqueue op

/-- The scale factors of a row or a column from register v on, in tile format (R263). -/
def factorsOf (a : Arch) (f64 : Bool) (v : Nat) : List Nat :=
  (List.range 16).map fun i => a.lane v (tileFmt f64).bits i

/-- The registers of the scales, and the factors of rows and columns (R263). -/
def scaleRegs (f64 : Bool) (rs cs : BitVec 1) : Nat := (if f64 then 2 else 1) * (rs.toNat + cs.toNat)
def rowFactors (a : Arch) (f64 : Bool) (c : BitVec 5) (rs : BitVec 1) : List Nat :=
  if rs = 1 then factorsOf a f64 c.toNat else []
def colFactors (a : Arch) (f64 : Bool) (c : BitVec 5) (rs cs : BitVec 1) : List Nat :=
  if cs = 1 then factorsOf a f64 (c.toNat + (if f64 then 2 else 1) * rs.toNat) else []

/-- srctr stepped by an instruction with a rounding field (R189). -/
def stepRounding (rm : Nat) : M Unit := onArch fun a => a.stepSr rm

/-- MSCL (R263). -/
def opMscl (d : BitVec 4) (f : BitVec 1) (rm : BitVec 3) (c : BitVec 5) (rs cs : BitVec 1) : M Unit := do
  needTile d.toNat (f == 0)
  needGroup c (scaleRegs (f == 0) rs cs)
  notArming
  needVec
  let m ← get
  enqueue (.scale d.toNat (f == 0) rm.toNat (rowFactors m.ar (f == 0) c rs) (colFactors m.ar (f == 0) c rs cs))
  stepRounding rm.toNat

/-- MDRAIN (R264). -/
def opMdrain (d : BitVec 4) (f : BitVec 1) (b a : BitVec 6) (sat : BitVec 1) (rm : BitVec 3) (c : BitVec 5) (ot : BitVec 4)
    (rs cs : BitVec 1) : M Unit := do
  needTile d.toNat (f == 0)
  if rs = 1 ∨ cs = 1 then needGroup c (scaleRegs (f == 0) rs cs)
  notArming
  let m ← get
  let len := 2 * (fmtOf ot.toNat).bits
  let rows ← needRowsLowest .store (m.ar.getX a) (if b = 0 then BitVec.ofNat 64 len else m.ar.getX b) 16 len
  let m ← get
  let op : LoomOp := .drain d.toNat (f == 0) rm.toNat (sat == 1) ot.toNat (rowFactors m.ar (f == 0) c rs)
    (colFactors m.ar (f == 0) c rs cs) (rowAddrs rows)
  if drainBytes < (m.st.core m.core).drainUsed + op.captured then throw .wait
  let id := m.st.nextId
  enqueue op
  emit (.drain id)
  stepRounding rm.toNat

/-- The dwords of some rows read in the chunk (R266). -/
def readDwords : List (Word × Loc) → M (List Nat)
  | [] => pure []
  | (va, l) :: es => do
    let b ← readAt l va 8
    let r ← readDwords es
    pure (ofBytes b :: r)

/-- The elements of w bits in some dwords. -/
def splitDwords (w : Nat) (l : List Nat) : List Nat :=
  l.flatMap fun x => (List.range (64 / w)).map fun i => x / 2 ^ (w * i) % 2 ^ w

/-- MACC (R266). -/
def opMacc (d : BitVec 4) (f : BitVec 1) (b a : BitVec 6) (set : BitVec 1) (rm : BitVec 3) (disp : BitVec 16) : M Unit := do
  needTile d.toNat (f == 0)
  notArming
  let m ← get
  let w := (tileFmt (f == 0)).bits
  let rows ← needRowsLowest .load (memAddr m a disp) (if b = 0 then BitVec.ofNat 64 (2 * w) else m.ar.getX b) 16 (2 * w)
  let vs ← readDwords rows.flatten
  enqueue (.acc d.toNat (f == 0) (set == 1) rm.toNat (splitDwords w vs))
  stepRounding rm.toNat

/-- The thread's panel commands and drains that have left and not completed (R267, R268). -/
def matrixOut (s : State) (tid : Nat) : Nat :=
  let c := s.core (coreOf tid)
  (c.panelQ.filter fun p => p.tid = tid).length + (c.drains.filter fun d => d.tid = tid && d.committed).length

/-- MWAIT (R267): alone, once its thread's earlier chunks have been acknowledged; it sleeps while a command is out. -/
def opMwait (d : BitVec 6) : M Unit := do
  notArming
  needVec
  standAlone
  let m ← get
  if m.th.chunks ≠ [] then throw .wait
  if matrixOut m.st m.tid ≠ 0 then throw (.sleep (.matrix d))
  setX d (BitVec.ofNat 64 (m.th.owned.toNat + 2 * m.th.guard.toNat))
  emit .matrixSeen

/-- MSTAT (R268). -/
def opMstat (d : BitVec 6) : M Unit := do
  notArming
  needVec
  let m ← get
  let busy := (m.st.core m.core).loom.any fun c => c.tid = m.tid
  setX d (BitVec.ofNat 64 (matrixOut m.st m.tid % 2 ^ 16 + busy.toNat * 2 ^ 16 + m.th.owned.toNat * 2 ^ 17
    + m.th.guard.toNat * 2 ^ 18))

/-- MSTAT.p (R268). -/
def opMstatP (d a : BitVec 6) : M Unit := do
  notArming
  needVec
  let m ← get
  let p := (m.st.core m.core).panel a.toNat
  setX d (BitVec.ofNat 64 (p.state + (decide (p.owner = some m.th.crew)).toNat * 4
    + ncOf ((p.pattern.map Prod.snd).getD 0) * 8))

/-! ### What the loom performs -/

/-- The rounding state that an instruction found. -/
def LoomCmd.arch (c : LoomCmd) : Arch := { Arch.reset with fps := c.fps, srkey := c.srkey, srctr := c.srctr }

/-- The tile after a compute command, with the flags raised; none for a drain. Element (i, j) is element 16 i + j of the instruction for
R188. (DESIGN CHOICE: notes/assumptions/69.md.) -/
def loomTile (c : Core) (seed : Word) (a : Arch) (k : LoomCmd) : Option (Nat × Bool × List Nat × BitVec 5) :=
  let ftz := k.arch.ftz
  match k.op with
  | .zero t w => some (t, w, List.replicate 256 0, 0)
  | .mma ty t pa pb nc ks =>
    let g := geoOf ty
    let n := sparseN nc
    let as := (List.range ks).map fun i => (c.panel (pa + i)).data
    let bs := (List.range (bPanels n ks)).map fun i => (c.panel (pb + i)).data
    let w := decide (ty = 8)
    let col := fun j : Nat =>
      if n = 0 then (List.range (ks * g.ks)).map fun k => (k, bElem g bs k j)
      else (keptRows seed n (ks * g.ks / 48) j).map fun p => (p.1, bSparse g bs p.2 j)
    let r := tileMap fun i j =>
      let old := a.tileElem t w i j
      if w then macChain ftz (old, 0) ((col j).map fun p => (aElem g as i p.1, p.2))
      else macSum ftz (unpack f32 ftz old) ((col j).map fun p => (loomVal ty ftz (aElem g as i p.1), loomVal ty ftz p.2))
    some (t, w, r.1, r.2)
  | .scale t w rm rho gamma =>
    let r := tileMap fun i j => tripleVal (tileFmt w) (k.arch.rnd rm false (16 * i + j))
      (unpack (tileFmt w) ftz (a.tileElem t w i j)) (factor w ftz rho i) (factor w ftz gamma j)
    some (t, w, r.1, r.2)
  | .acc t w set rm vals =>
    let r := tileMap fun i j =>
      let v := vals.getD (16 * i + j) 0
      if set then (v, 0)
      else addVal (tileFmt w) (k.arch.rnd rm false (16 * i + j)) (unpack (tileFmt w) ftz (a.tileElem t w i j))
        (unpack (tileFmt w) ftz v)
    some (t, w, r.1, r.2)
  | .drain _ _ _ _ _ _ _ _ => none

/-- The dwords that a drain captures, with the flags raised (R264); its elements numbered as those of a tile. (DESIGN CHOICE:
notes/assumptions/69.md.) -/
def loomDrain (a : Arch) (k : LoomCmd) : Option (List (Nat × Nat × Nat) × BitVec 5) :=
  match k.op with
  | .drain t w rm sat ot rho gamma rows =>
    let ftz := k.arch.ftz
    let f := fmtOf ot
    let r := tileMap fun i j => tripleVal f (k.arch.rnd rm sat (16 * i + j))
      (unpack (tileFmt w) ftz (a.tileElem t w i j)) (factor w ftz rho i) (factor w ftz gamma j)
    let bytes := packElems f.bits r.1
    some (rows.flatten.zipIdx.map fun e => (e.1.1, e.1.2, bytes / 2 ^ (64 * e.2) % 2 ^ 64), r.2)
  | _ => none

/-- Sticky flags that a unit raises for the thread's last chunk, which may have ended (R55, R190, R217). -/
def Thread.raiseLast (t : Thread) (f : BitVec 5) : Thread :=
  match t.chunks.getLast? with
  | none => t
  | some c =>
    { t with chunks := t.chunks.dropLast ++ [{ c with flags := c.flags ||| f }] }

/-- The seed of a sparse operand; a panel that has lost its pattern since has none that the manual states. -/
def sparseSeed (s : State) (c : Core) (op : LoomOp) : Word × State :=
  match op with
  | .mma _ _ _ pb nc _ =>
    if nc = 0 then (0, s)
    else match (c.panel pb).pattern with
      | some p => (p.1, s)
      | none => s.fresh
  | _ => (0, s)

/-- One command performed for its thread. -/
def State.performLoom (s : State) (core : Nat) (k : LoomCmd) : State :=
  match s.thread k.tid with
  | none => s
  | some t =>
    let c := s.core core
    let sd := sparseSeed s c k.op
    match loomTile c sd.1 t.arch k with
    | some r => sd.2.setThread k.tid ({ t with arch := t.arch.putTile r.1 r.2.1 r.2.2.1 }.raiseLast r.2.2.2)
    | none =>
      match loomDrain t.arch k with
      | some r =>
        let d : Drain := ⟨k.id, k.tid, t.crew, t.arch.guild, r.1, false⟩
        (s.setCore core { c with drains := c.drains ++ [d] }).setThread k.tid (t.raiseLast r.2)
      | none => s

/-- A panel of a queued command is being loaded: claimed by a panel command that does not itself wait for the queued one (R255).
(DEDUCED: notes/assumptions/64.md.) -/
def Core.loading (c : Core) (id p : Nat) : Bool :=
  decide ((c.panel p).state = 1) && c.panelQ.any fun q => q.claimed && q.writes.contains p && !q.before.contains id

/-- The loom performs the command at the head of its queue once no panel that it names is loading (R255). -/
def loomStep (s : State) (core : Nat) : State :=
  match (s.core core).loom with
  | [] => s
  | k :: ks =>
    if k.op.panels.any fun p => (s.core core).loading k.id p then s
    else (s.setCore core { s.core core with loom := ks }).performLoom core k

/-- 512 bytes as bits, the first lowest. -/
def panelOf (l : List Byte) : BitVec 4096 := BitVec.ofNat 4096 (ofBytes l)

/-- The low n bytes of a panel replaced. -/
def panelPut (old : BitVec 4096) (v n : Nat) : BitVec 4096 :=
  BitVec.ofNat 4096 (old.toNat / 2 ^ (8 * n) * 2 ^ (8 * n) + v % 2 ^ (8 * n))

/-- A region of n bytes written from byte 0 of a panel on (R252). -/
def Core.putRegion (c : Core) (p v n : Nat) : Core :=
  let c1 := c.setPanel p { c.panel p with data := panelPut (c.panel p).data v (min n 512) }
  if 512 < n then c1.setPanel (p + 1) { c1.panel (p + 1) with data := panelPut (c1.panel (p + 1)).data (v / 2 ^ 4096) (n - 512) }
  else c1

/-- The dwords of some rows in memory. -/
def rowDwords (rows : List (List (Nat × Nat))) : List Nat := rows.flatten.flatMap fun e => runDwords e.2 8

/-- The bytes of the rows of a load as every commit numbered so far has left them (R162, R259). The manual states none where a scrub has
marked a line (R437). (DESIGN CHOICE: notes/assumptions/71.md.) -/
def State.rowBytes (s : State) (rows : List (List (Nat × Nat))) : List Byte :=
  rows.flatten.zipIdx.flatMap fun e =>
    if s.marked.contains (lineOf e.1.2) then bytesOf 8 (Config.freeWord (s.free + e.2)).toNat
    else (s.settled (rowDwords rows)).readRun e.1.2 8

/-- The lines that a panel command reads. -/
def PanelOp.dwords (o : PanelOp) : List Nat :=
  match o with
  | .load _ _ _ rows => rowDwords rows
  | _ => []

/-- The slice that a transposed load places: element k of row j at (k, j) (R259). -/
def transposed (g : Geo) (l : List Byte) : Nat :=
  let v := ofBytes l
  packElems g.bits ((List.range (g.ks * 16)).map fun e => v / 2 ^ (g.bits * (e % 16 * g.ks + e / 16)) % 2 ^ g.bits)

/-- The compressed form of R252 of a dense operand. -/
def compressed (g : Geo) (ps : List (BitVec 4096)) (seed : Word) (n : Nat) : Nat :=
  packElems g.bits ((List.range (3 * g.ks / 48 * n * 16)).map fun e =>
    let r := e / 16
    bElem g ps (48 * (r / n) + (pattern seed n (r / n) (e % 16)).getD (r % n) 0) (e % 16))

/-- A panel command reads a line that a scrub has marked: a machine check for each (R376, R437). -/
def State.panelChecks (s : State) (core : Nat) (k : PanelCmd) : State :=
  let bad := (k.op.dwords.map fun d => d / 8).dedup.filter fun l => s.marked.contains l
  if bad = [] then s
  else bad.foldl (fun s l => s.unitCheck (s.partOf (dieOf core)) k.guild.toNat k.crew (BitVec.ofNat 64 (l * 64)))
    { s with free := s.free + k.op.dwords.length }

/-- What a panel command writes (R259-R261). -/
def Core.performPanel (s : State) (c : Core) (k : PanelCmd) : Core :=
  match k.op with
  | .load ty tr n rows =>
    let bs := s.rowBytes rows
    if n ≠ 0 then c.putRegion k.panel (ofBytes bs) (32 * n)
    else c.setPanel k.panel { c.panel k.panel with
      data := if tr then BitVec.ofNat 4096 (transposed (geoOf ty) bs) else panelOf bs, pattern := none }
  | .seed v n => c.setPanel k.panel { c.panel k.panel with pattern := some (v, n) }
  | .compress ty pa seed n =>
    let ps := (List.range 3).map fun i => (c.panel (pa + i)).data
    k.writes.foldl (fun c p => c.setPanel p { c.panel p with pattern := some (seed, n) })
      (c.putRegion k.panel (compressed (geoOf ty) ps seed n) (32 * n))

/-- The panel queue performs the command at its head, once it is claimed and every command of the loom that it must wait for
has finished (R248, R255). A pattern alone completes at once. -/
def panelStep (s : State) (core : Nat) : State :=
  let c := s.core core
  match c.panelQ with
  | [] => s
  | k :: ks =>
    if !k.claimed || k.performed || (c.loom.any fun l => k.before.contains l.id) || s.postHeld none k.op.dwords ||
        (k.op.dwords.any fun d => s.homeHeld (d / 8)) then s
    else
      let c := Core.performPanel s c k
      let s := s.panelChecks core k
      match k.op with
      | .seed _ _ => s.setCore core { c with panelQ := ks }
      | _ => s.setCore core { c with panelQ := { k with performed := true } :: ks }

/-- The command at the head of the panel queue completes: its panels reach the ready state, but for those that a later command
is to write (R248). -/
def panelReadyStep (s : State) (core panel : Nat) : State :=
  let c := s.core core
  match c.panelQ with
  | [] => s
  | k :: ks =>
    if k.performed && k.writes.contains panel then
      let later := (ks.filter fun q => match q.op with
        | .seed _ _ => false
        | _ => q.claimed).flatMap PanelCmd.writes
      let ready := k.writes.filter fun p => !later.contains p
      s.setCore core { ready.foldl (fun c p => c.setPanel p { c.panel p with state := 2 }) c with panelQ := ks }
    else s

/-- A panel command leaves with its chunk's commit (R248): it enters the panel queue behind those that left before. -/
def State.leavePanel (s : State) (tid p : Nat) (op : PanelOp) : State :=
  match s.thread tid with
  | none => s
  | some t =>
    let c := s.core (coreOf tid)
    let k : PanelCmd := { tid, crew := t.crew, guild := t.arch.guild, panel := p, op, before := [], claimed := false,
                          performed := false }
    let ids := (c.loom.filter fun l => l.op.panels.any fun q => k.writes.contains q).map LoomCmd.id
    s.setCore (coreOf tid) { c with panelQ := c.panelQ ++ [{ k with before := ids }] }

/-- The thread's panel command that the panel queue has still to take. -/
def Core.unclaimed (c : Core) (tid : Nat) : Option Nat := c.panelQ.findIdx? fun k => k.tid = tid && !k.claimed

/-- The panel queue may take the command at a place: the queue has room and the commands before it are taken. -/
def Core.mayClaim (c : Core) (i : Nat) : Bool := decide (i < panelDepth) && (c.panelQ.take i).all PanelCmd.claimed

/-- A claim (R246): the panels become the crew's, loading but for a pattern alone; or the command is refused as a whole, with
OWNED set. -/
def State.claimPanels (s : State) (core i : Nat) : State :=
  let c := s.core core
  match c.panelQ[i]? with
  | none => s
  | some k =>
    if k.writes.any fun p => (c.panel p).owner.any fun o => decide (o ≠ k.crew) then
      let s := s.setCore core { c with panelQ := c.panelQ.eraseIdx i }
      match s.thread k.tid with
      | some t => s.setThread k.tid { t with owned := true }
      | none => s
    else
      let load := match k.op with
        | .seed _ _ => false
        | _ => true
      let c := k.writes.foldl (fun c p => c.setPanel p { c.panel p with
        owner := some k.crew, state := if load then 1 else (c.panel p).state }) c
      s.setCore core { c with panelQ := c.panelQ.set i { k with claimed := true } }

/-- A sleeping MWAIT runs again once nothing of its thread is out (R267). -/
def matrixWake (s : State) (tid : Nat) : State :=
  match s.thread tid with
  | some t =>
    match t.run with
    | .matrix _ => if matrixOut s tid = 0 then s.setThread tid { t with run := .running } else s
    | _ => s
  | none => s

/-! ### Meanings -/

def execMzero (d : BitVec 4) (f : BitVec 1) (s : State) := runHead s (opMzero d f)
def execMlda (d : BitVec 6) (t : BitVec 4) (b a : BitVec 6) (disp : BitVec 16) (s : State) :=
  runHead s (opLoadPanel false d t b a 0 0 disp)
def execMldb (d : BitVec 6) (t : BitVec 4) (b a : BitVec 6) (nc : BitVec 2) (tr : BitVec 1) (disp : BitVec 16) (s : State) :=
  runHead s (opLoadPanel true d t b a nc tr disp)
def execMseed (d a : BitVec 6) (nc : BitVec 2) (s : State) := runHead s (opMseed d a nc)
def execMma (d t : BitVec 4) (b a : BitVec 6) (nc ks : BitVec 2) (s : State) := runHead s (opMma d t b a nc ks)
def execMscl (d : BitVec 4) (f : BitVec 1) (rm : BitVec 3) (c : BitVec 5) (rs cs : BitVec 1) (s : State) :=
  runHead s (opMscl d f rm c rs cs)
def execMdrain (d : BitVec 4) (f : BitVec 1) (b a : BitVec 6) (sat : BitVec 1) (rm : BitVec 3) (c : BitVec 5) (ot : BitVec 4)
    (rs cs : BitVec 1) (s : State) := runHead s (opMdrain d f b a sat rm c ot rs cs)
def execMwait (d : BitVec 6) (s : State) := runHead s (opMwait d)
def execMstat (d : BitVec 6) (s : State) := runHead s (opMstat d)
def execMstatP (d a : BitVec 6) (s : State) := runHead s (opMstatP d a)
def execMcprs (d : BitVec 6) (t : BitVec 4) (b a : BitVec 6) (nc : BitVec 2) (s : State) := runHead s (opMcprs d t b a nc)
def execMacc (d : BitVec 4) (f : BitVec 1) (b a : BitVec 6) (set : BitVec 1) (rm : BitVec 3) (disp : BitVec 16) (s : State) :=
  runHead s (opMacc d f b a set rm disp)

/-- LOOM_COMMAND (R255). -/
def execLoomCommand (core : Nat) (s : State) : Host.Outcome State Fault Refusal := .next (loomStep s core)
/-- PANEL_COMMAND (R248). -/
def execPanelCommand (core : Nat) (s : State) : Host.Outcome State Fault Refusal := .next (panelStep s core)
/-- PANEL_READY (R248). -/
def execPanelReady (core panel : Nat) (s : State) : Host.Outcome State Fault Refusal := .next (panelReadyStep s core panel)
/-- MATRIX_WAIT_WAKE (R267). -/
def execMatrixWaitWake (tid : Nat) (s : State) : Host.Outcome State Fault Refusal := .next (matrixWake s tid)

end Sys2Proof.Machine
end

