-- ==== Sys2Proof/Machine/Special.lean ====
section
/-!
DEFINITION. Sys2Proof/Machine/Special.lean: the special-function unit: FDIV, FSQRT and opcodes 0xB6-0xBC (R217, R232, R238,
R239). Functions whose values are irrational are computed to more than 600 bits, far beyond what any rounding of these
formats distinguishes (notes/assumptions/12.md).
-/

namespace Sys2Proof.Machine

/-! ### Fixed point -/

/-- Fraction bits of the fixed-point work. -/
def fxBits : Nat := 768
/-- 1 in fixed point. -/
def fxOne : Nat := 2 ^ fxBits
/-- ⌊ln 2 · 2^768⌋. -/
def fxLn2 : Nat := 0xB17217F7D1CF79ABC9E3B39803F2F6AF40F343267298B62D8A0D175B8BAAFA2BE7B876206DEBAC98559552FB4AFA1B10ED2EAE35C138214427573B291169B8253E96CA16224AE8C51ACBDA11317C387EB9EA9BC3B136603B256FA0EC7657F74B
/-- ⌊π/2 · 2^1024⌋. -/
def fxHalfPi : Nat := 0x1921FB54442D18469898CC51701B839A252049C1114CF98E804177D4C76273644A29410F31C6809BBDF2A33679A748636605614DBE4BE286E9FC26ADADAA3848BC90B6AECC4BCFD8DE89885D34C6FDAD617FEB96DE80D6FDBDC70D7F6B5133F4B5D3E4822F8963FCC9250CCA3D9C8B67B8400F97142C77E0B31B4906C38ABA734

/-- The terms of e^r from the given one on: the i-th is the one before it times r / i. -/
def expSum (r : Nat) (term i : Nat) : Nat → Nat
  | 0 => 0
  | n + 1 => term + expSum r (term * r / (i * fxOne)) (i + 1) n

/-- e^x of a fixed-point number: a mantissa in [1, 2) in fixed point and a binary exponent. -/
def fxExp (x : Int) : Nat × Int :=
  let k := x / (fxLn2 : Int)
  let r := (x - k * (fxLn2 : Int)).toNat
  (expSum r fxOne 1 160, k)

/-- m · 2^k of a fixed-point mantissa, as a fraction. -/
def fxFrac (m : Nat) (k : Int) : Nat × Nat := (m * 2 ^ k.toNat, fxOne * 2 ^ (-k).toNat)

/-- A fraction of a sign in fixed point. -/
def toFx (neg : Bool) (n d : Nat) : Int := if neg then -((n * fxOne / d : Nat) : Int) else (n * fxOne / d : Nat)

/-- e^x of a fraction other than 0; beyond 2^10 a number on the same side of every rounding. -/
def expVal (neg : Bool) (n d : Nat) : Nat × Nat :=
  if 1024 * d < n then (if neg then (1, 2 ^ 1000) else (2 ^ 1000, 1))
  else fxFrac (fxExp (toFx neg n d)).1 (fxExp (toFx neg n d)).2

/-- The terms of z + z^3/3 + z^5/5 + ... of a fixed-point z, from the power given on. -/
def atanhSum (z2 : Int) (pow : Int) (i : Nat) : Nat → Int
  | 0 => 0
  | n + 1 => pow / (i : Int) + atanhSum z2 (pow * z2 / (fxOne : Int)) (i + 2) n

/-- ln of a positive fraction in fixed point. -/
def fxLn (n d : Nat) : Int :=
  let e0 := log2Frac n d
  let a0 := n * 2 ^ (-e0).toNat
  let b0 := d * 2 ^ e0.toNat
  let big := decide (4 * b0 < 3 * a0)
  let e := if big then e0 + 1 else e0
  let b := if big then 2 * b0 else b0
  let z := ((a0 : Int) - b) * fxOne / ((a0 : Int) + b)
  2 * atanhSum (z * z / (fxOne : Int)) z 1 180 + e * (fxLn2 : Int)

/-- The alternating sum of sin (from the term r, i = 1) or cos (from the term 1, i = 0). -/
def trigSum (r2 : Nat) (term i : Nat) (plus : Bool) : Nat → Int
  | 0 => 0
  | n + 1 => (if plus then (term : Int) else -(term : Int))
      + trigSum r2 (term * r2 / ((i + 1) * (i + 2) * fxOne)) (i + 2) (!plus) n

/-- sin (or cos) of a positive fraction: quadrant and remainder by the long π/2. -/
def fxTrig (cos : Bool) (n d : Nat) : Int :=
  let x := n * 2 ^ (fxBits + 256) / d
  let q := x / fxHalfPi
  let r := (x - q * fxHalfPi) / 2 ^ 256
  let r2 := r * r / fxOne
  let q := if cos then q + 1 else q
  let v := if q % 2 = 0 then trigSum r2 r 1 true 130 else trigSum r2 fxOne 0 true 130
  if q % 4 < 2 then v else -v

/-- tanh of a positive fraction. -/
def tanhVal (n d : Nat) : Nat × Nat :=
  if 256 * d < n then (2 ^ 600 - 1, 2 ^ 600)
  else
    let e := fxExp (toFx true (2 * n) d)
    let u := e.1 / 2 ^ (-e.2).toNat
    (fxOne - u, fxOne + u)

/-- A fixed-point number rounded. -/
def roundFx (f : Fmt) (r : Rnd) (v : Int) : Nat × BitVec 5 := roundNum f r (decide (v < 0)) v.natAbs fxOne

/-! ### The functions of R238 and R239 -/

/-- The functions of opcodes 0xB6-0xBC. -/
inductive SpecialFn where
  | exp | log | rcp | rsq | sin | cos | tanh
deriving DecidableEq, Repr

/-- +1 or -1 in a format. -/
def oneEnc (f : Fmt) (neg : Bool) : Nat := f.withSign neg (f.bias * 2 ^ f.p)

/-- Round(t, f(x), rm) with the special cases of R239. (DESIGN CHOICE: notes/assumptions/12.md.) -/
def specialVal (fn : SpecialFn) (f : Fmt) (r : Rnd) (x : FVal) : Nat × BitVec 5 :=
  match x with
  | .nan s => nanWith f (if s then flagNV else 0)
  | .inf neg =>
    match fn with
    | .exp => (if neg then 0 else f.infEnc, 0)
    | .log => if neg then nanWith f flagNV else (f.infEnc, 0)
    | .rcp => (f.withSign neg 0, 0)
    | .rsq => if neg then nanWith f flagNV else (0, 0)
    | .sin => nanWith f flagNV
    | .cos => nanWith f flagNV
    | .tanh => (oneEnc f neg, 0)
  | .num neg n d =>
    match fn with
    | .exp =>
      if n = 0 then (oneEnc f false, 0) else roundNum f r false (expVal neg n d).1 (expVal neg n d).2
    | .log =>
      if n = 0 then (f.withSign true f.infEnc, flagDZ)
      else if neg then nanWith f flagNV
      else if n = d then (0, 0)
      else roundFx f r (fxLn n d)
    | .rcp => if n = 0 then (f.withSign neg f.infEnc, flagDZ) else roundNum f r neg d n
    | .rsq =>
      if n = 0 then (f.withSign neg f.infEnc, flagDZ)
      else if neg then nanWith f flagNV
      else
        let q := sqrtFrac d n (Nat.log2 n + 129)
        roundNum f r false q.1 q.2
    | .sin =>
      if n = 0 then (f.withSign neg 0, 0)
      else roundFx f r (if neg then -fxTrig false n d else fxTrig false n d)
    | .cos => if n = 0 then (oneEnc f false, 0) else roundFx f r (fxTrig true n d)
    | .tanh => if n = 0 then (f.withSign neg 0, 0) else roundNum f r neg (tanhVal n d).1 (tanhVal n d).2

/-! ### The unit (R217, R218) -/

/-- Entries of the unit's queue. -/
def sfuSize : Nat := 32

/-- A special-function head takes one entry for each register of its group; it waits while they have no room. The values
reach the registers when the entries are served (SFU_RESULT). -/
def opSfu (w : Nat) (p : BitVec 6) (rm : BitVec 3) (d : BitVec 5) (srcs : List (BitVec 5))
    (f : Arch → Rnd → Nat → Nat × BitVec 5) : M Unit := do
  let m ← get
  let g := shapeOf m.ar p w
  vecChecks ((srcs ++ [d]).map fun v => (v, g.nreg))
  let c := m.st.core m.core
  if sfuSize < c.sfu.length + g.nreg then throw .wait
  let rs := g.results w g.nreg fun k => f m.ar (m.ar.rnd rm.toNat false k) k
  let a := m.ar.putElems d.toNat w (g.merge m.ar d.toNat w rs) g.nreg
  onState fun s => { s.setCore m.core { c with sfu := c.sfu ++ (List.range g.nreg).map fun i =>
    { id := m.st.nextId, tid := m.tid, v := BitVec.ofNat 5 (d.toNat + i), value := a.vreg (d.toNat + i) } } with nextId := m.st.nextId + 1 }
  raise (flagsOf rs)
  onArch fun ar => ar.stepSr rm.toNat

def opFdiv (d : BitVec 5) (t : BitVec 2) (b a : BitVec 5) (rm : BitVec 3) (p : BitVec 6) : M Unit :=
  opSfu (fltOf t).bits p rm d [a, b] fun ar r k => divVal (fltOf t) r (ar.fval (fltOf t) a k) (ar.fval (fltOf t) b k)
def opFsqrt (d : BitVec 5) (t : BitVec 2) (a : BitVec 5) (rm : BitVec 3) (p : BitVec 6) : M Unit :=
  opSfu (fltOf t).bits p rm d [a] fun ar r k => sqrtVal (fltOf t) r (ar.fval (fltOf t) a k)

/-- An instruction of R238. -/
def opSpecial (fn : SpecialFn) (d : BitVec 5) (t : BitVec 2) (a : BitVec 5) (rm : BitVec 3) (p : BitVec 6) : M Unit :=
  opSfu (fltOf t).bits p rm d [a] fun ar r k => specialVal fn (fltOf t) r (ar.fval (fltOf t) a k)

def execFdiv (d : BitVec 5) (t : BitVec 2) (b a : BitVec 5) (rm : BitVec 3) (p : BitVec 6) (s : State) :=
  runHead s (opFdiv d t b a rm p)
def execFsqrt (d : BitVec 5) (t : BitVec 2) (a : BitVec 5) (rm : BitVec 3) (p : BitVec 6) (s : State) :=
  runHead s (opFsqrt d t a rm p)
def execFexp (d : BitVec 5) (t : BitVec 2) (a : BitVec 5) (rm : BitVec 3) (p : BitVec 6) (s : State) :=
  runHead s (opSpecial .exp d t a rm p)
def execFlog (d : BitVec 5) (t : BitVec 2) (a : BitVec 5) (rm : BitVec 3) (p : BitVec 6) (s : State) :=
  runHead s (opSpecial .log d t a rm p)
def execFrcp (d : BitVec 5) (t : BitVec 2) (a : BitVec 5) (rm : BitVec 3) (p : BitVec 6) (s : State) :=
  runHead s (opSpecial .rcp d t a rm p)
def execFrsq (d : BitVec 5) (t : BitVec 2) (a : BitVec 5) (rm : BitVec 3) (p : BitVec 6) (s : State) :=
  runHead s (opSpecial .rsq d t a rm p)
def execFsin (d : BitVec 5) (t : BitVec 2) (a : BitVec 5) (rm : BitVec 3) (p : BitVec 6) (s : State) :=
  runHead s (opSpecial .sin d t a rm p)
def execFcos (d : BitVec 5) (t : BitVec 2) (a : BitVec 5) (rm : BitVec 3) (p : BitVec 6) (s : State) :=
  runHead s (opSpecial .cos d t a rm p)
def execFtanh (d : BitVec 5) (t : BitVec 2) (a : BitVec 5) (rm : BitVec 3) (p : BitVec 6) (s : State) :=
  runHead s (opSpecial .tanh d t a rm p)

end Sys2Proof.Machine
end

