-- ==== Sys2Proof/Machine/Repeat.lean ====
section
/-!
DEFINITION. Sys2Proof/Machine/Repeat.lean: REP, opcode 0x90 (R219-R224, R270).
-/

namespace Sys2Proof.Machine

/-- What a stepped field names: a vector group, a tile, or panels. -/
inductive RepKind where
  | vec | tile (f64 : Bool) | panel
deriving DecidableEq, Repr

/-- A field of a target that a stride may act on: its place (0 D, 1 A, 2 B, 3 C), what it names, its number and the registers
or panels of its group. -/
structure RepField where
  place : Nat
  kind : RepKind
  base : Nat
  size : Nat
deriving DecidableEq, Repr

/-- A vector group of a target. -/
def vecField (place base size : Nat) : RepField := ⟨place, .vec, base, size⟩

/-- The registers of a group under a predicate. -/
def predRegs (ar : Arch) (p : BitVec 6) : Nat := spanRegs ar (p.extractLsb' 0 2)

/-- Groups of one size in D and A, and in B or C where given. -/
def daFields (n : Nat) (d a : BitVec 5) (more : List (Nat × Nat)) : List RepField :=
  vecField 0 d.toNat n :: vecField 1 a.toNat n :: more.map fun e => vecField e.1 e.2 n

/-- The fields of the integer mould: B names a vector register unless it is scalar. -/
def intFields (ar : Arch) (p : BitVec 6) (d a : BitVec 5) (b : BitVec 6) (vx : BitVec 1) : List RepField :=
  daFields (predRegs ar p) d a (if vx = 1 then [] else [(2, (asV b).toNat)])

/-- The fields of a float instruction of two sources. -/
def fltFields (ar : Arch) (p : BitVec 6) (d a b : BitVec 5) : List RepField := daFields (predRegs ar p) d a [(2, b.toNat)]

/-- The fields of a conversion (R196). -/
def convFields (ar : Arch) (p : BitVec 6) (t u : BitVec 4) (d a : BitVec 5) : List RepField :=
  let ww := max (typeBits t.toNat) (typeBits u.toNat)
  [vecField 0 d.toNat (narrowRegs (predRegs ar p) (typeBits u.toNat) ww),
   vecField 1 a.toNat (narrowRegs (predRegs ar p) (typeBits t.toNat) ww)]

/-- The index group of a gather or scatter. -/
def indexField (ar : Arch) (p : BitVec 6) (z iw : BitVec 2) (c : BitVec 5) : List RepField :=
  (indexGroup iw c (shapeOf ar p (8 * memElem ar p z)) (memElem ar p z)).map fun g => vecField 3 g.1.toNat g.2

/-- The fields of a target that name vector registers, tiles or panels, for the targets that R220 and R270 admit. -/
def repFields (ar : Arch) (i : Instr) : Option (List RepField) :=
  match i with
  | .vld d _ _ p _ => some [vecField 0 d.toNat (predRegs ar p)]
  | .vst d _ _ p _ => some [vecField 0 d.toNat (predRegs ar p)]
  | .vlds d _ _ _ p _ => some [vecField 0 d.toNat (predRegs ar p)]
  | .vsts d _ _ _ p _ => some [vecField 0 d.toNat (predRegs ar p)]
  | .vgath d z _ _ iw p c _ => some (vecField 0 d.toNat (predRegs ar p) :: indexField ar p z iw c)
  | .vscat d z _ _ iw p c _ => some (vecField 0 d.toNat (predRegs ar p) :: indexField ar p z iw c)
  | .fcvt d t u a _ _ p => some (convFields ar p t u d a)
  | .fcvti d t u a _ _ p => some (convFields ar p t u d a)
  | .icvtf d t u a _ _ p => some (convFields ar p t u d a)
  | .fpack d t a _ p c et =>
    let n := predRegs ar (p.setWidth 6)
    some [vecField 0 d.toNat (packedRegs (scaleBlocks n (fmtOf t.toNat).bits) (typeBits et.toNat)), vecField 1 a.toNat n,
          vecField 3 c.toNat 1]
  | .funpk d t a _ _ p c et =>
    let n := predRegs ar p
    some [vecField 0 d.toNat n, vecField 1 a.toNat (packedRegs (scaleBlocks n (fmtOf t.toNat).bits) (typeBits et.toNat)),
          vecField 3 c.toNat 1]
  | .fscl d _ k a _ _ p c =>
    let n := predRegs ar p
    some [vecField 0 d.toNat n, vecField 1 a.toNat n, vecField 3 c.toNat (if k = 1 then 1 else n)]
  | .fclass d _ a p => some (daFields (predRegs ar p) d a [])
  | .frint d _ _ a _ p => some (daFields (predRegs ar p) d a [])
  | .vadd d _ b a _ vx p => some (intFields ar p d a b vx)
  | .vsub d _ b a _ vx p => some (intFields ar p d a b vx)
  | .vmul d _ b a vx p => some (intFields ar p d a b vx)
  | .vmulh d _ b a vx p => some (intFields ar p d a b vx)
  | .vand d _ b a vx p => some (intFields ar p d a b vx)
  | .vor d _ b a vx p => some (intFields ar p d a b vx)
  | .vxor d _ b a vx p => some (intFields ar p d a b vx)
  | .vshl d _ b a vx p => some (intFields ar p d a b vx)
  | .vshr d _ b a vx p => some (intFields ar p d a b vx)
  | .vmin d _ b a vx p => some (intFields ar p d a b vx)
  | .vmax d _ b a vx p => some (intFields ar p d a b vx)
  | .vcmp _ _ b a vx p _ =>
    some (vecField 1 a.toNat (predRegs ar p) :: if vx = 1 then [] else [vecField 2 (asV b).toNat (predRegs ar p)])
  | .vsel d _ b a p _ => some (fltFields ar p d a b)
  | .vmov d _ _ a vx p =>
    some (if vx = 1 then [vecField 0 d.toNat (predRegs ar p)] else daFields (predRegs ar p) d a [])
  | .vperm d _ b a p => some (fltFields ar p d a b)
  | .vslide d _ _ a _ p => some (daFields (predRegs ar p) d a [])
  | .fadd d _ b a _ p => some (fltFields ar p d a b)
  | .fsub d _ b a _ p => some (fltFields ar p d a b)
  | .fmul d _ b a _ p => some (fltFields ar p d a b)
  | .fma d _ b a _ _ p c => some (daFields (predRegs ar p) d a [(2, b.toNat), (3, c.toNat)])
  | .fdiv d _ b a _ p => some (fltFields ar p d a b)
  | .fsqrt d _ a _ p => some (daFields (predRegs ar p) d a [])
  | .fmin d _ b a p => some (fltFields ar p d a b)
  | .fmax d _ b a p => some (fltFields ar p d a b)
  | .fcmp _ _ b a p _ => some [vecField 1 a.toNat (predRegs ar p), vecField 2 b.toNat (predRegs ar p)]
  | .fsgn d _ b a k p => some (daFields (predRegs ar p) d a (if k = 3 then [] else [(2, b.toNat)]))
  | .vred _ _ a _ p => some [vecField 1 a.toNat (predRegs ar (p.setWidth 6))]
  | .fred _ _ _ a _ p => some [vecField 1 a.toNat (predRegs ar (p.setWidth 6))]
  | .fdot _ _ b a _ p =>
    some [vecField 1 a.toNat (predRegs ar (p.setWidth 6)), vecField 2 b.toNat (predRegs ar (p.setWidth 6))]
  | .fexp d _ a _ p => some (daFields (predRegs ar p) d a [])
  | .flog d _ a _ p => some (daFields (predRegs ar p) d a [])
  | .frcp d _ a _ p => some (daFields (predRegs ar p) d a [])
  | .frsq d _ a _ p => some (daFields (predRegs ar p) d a [])
  | .fsin d _ a _ p => some (daFields (predRegs ar p) d a [])
  | .fcos d _ a _ p => some (daFields (predRegs ar p) d a [])
  | .ftanh d _ a _ p => some (daFields (predRegs ar p) d a [])
  | .topn d t a p c _ n =>
    some [vecField 0 d.toNat ((n.toNat * typeBits t.toNat + 511) / 512), vecField 1 a.toNat (predRegs ar (p.setWidth 6)),
          vecField 3 c.toNat ((n.toNat + 31) / 32)]
  | .rng d _ _ sp _ => some [vecField 0 d.toNat (spanRegs ar sp)]
  | .vext _ _ _ a p => some [vecField 1 a.toNat (predRegs ar (p.setWidth 6))]
  | .mzero d f => some [⟨0, .tile (f == 0), d.toNat, 1⟩]
  | .mma d t b a nc ks =>
    some [⟨0, .tile (t == 8), d.toNat, 1⟩, ⟨1, .panel, a.toNat, ks.toNat⟩,
          ⟨2, .panel, b.toNat, bPanels (sparseN nc.toNat) ks.toNat⟩]
  | _ => none

/-- What a target does in one iteration; off is what AS adds to the address of a memory target. -/
def repOp (i : Instr) (off : Word) : M Unit :=
  match i with
  | .vld d z a p disp => opVld d z a p disp off
  | .vst d z a p disp => opVst d z a p disp off
  | .vlds d z b a p disp => opVlds d z b a p disp off
  | .vsts d z b a p disp => opVsts d z b a p disp off
  | .vgath d z a ig iw p c disp => opVgath d z a ig iw p c disp off
  | .vscat d z a ig iw p c disp => opVscat d z a ig iw p c disp off
  | .fcvt d t u a sat rm p => opFcvt d t u a sat rm p
  | .fcvti d t u a sat rm p => opFcvti d t u a sat rm p
  | .icvtf d t u a sat rm p => opIcvtf d t u a sat rm p
  | .fpack d t a rm p c et => opFpack d t a rm p c et
  | .funpk d t a sat rm p c et => opFunpk d t a sat rm p c et
  | .fscl d t k a sat rm p c => opFscl d t k a sat rm p c
  | .fclass d t a p => opFclass d t a p
  | .frint d t k a rm p => opFrint d t k a rm p
  | .vadd d t b a sat vx p => opVadd d t b a sat vx p
  | .vsub d t b a sat vx p => opVsub d t b a sat vx p
  | .vmul d t b a vx p => opVmul d t b a vx p
  | .vmulh d t b a vx p => opVmulh d t b a vx p
  | .vand d t b a vx p => opVand d t b a vx p
  | .vor d t b a vx p => opVor d t b a vx p
  | .vxor d t b a vx p => opVxor d t b a vx p
  | .vshl d t b a vx p => opVshl d t b a vx p
  | .vshr d t b a vx p => opVshr d t b a vx p
  | .vmin d t b a vx p => opVmin d t b a vx p
  | .vmax d t b a vx p => opVmax d t b a vx p
  | .vcmp d t b a vx p k => opVcmp d t b a vx p k
  | .vsel d t b a p c => opVsel d t b a p c
  | .vmov d t b a vx p => opVmov d t b a vx p
  | .vperm d t b a p => opVperm d t b a p
  | .vslide d t b a up p => opVslide d t b a up p
  | .fadd d t b a rm p => opFadd d t b a rm p
  | .fsub d t b a rm p => opFsub d t b a rm p
  | .fmul d t b a rm p => opFmul d t b a rm p
  | .fma d t b a neg rm p c => opFma d t b a neg rm p c
  | .fdiv d t b a rm p => opFdiv d t b a rm p
  | .fsqrt d t a rm p => opFsqrt d t a rm p
  | .fmin d t b a p => opFmin d t b a p
  | .fmax d t b a p => opFmax d t b a p
  | .fcmp d t b a p k => opFcmp d t b a p k
  | .fsgn d t b a k p => opFsgn d t b a k p
  | .vred d t a k p => opVred d t a k p
  | .fred d t k a rm p => opFred d t k a rm p
  | .fdot d t b a rm p => opFdot d t b a rm p
  | .fexp d t a rm p => opSpecial .exp d t a rm p
  | .flog d t a rm p => opSpecial .log d t a rm p
  | .frcp d t a rm p => opSpecial .rcp d t a rm p
  | .frsq d t a rm p => opSpecial .rsq d t a rm p
  | .fsin d t a rm p => opSpecial .sin d t a rm p
  | .fcos d t a rm p => opSpecial .cos d t a rm p
  | .ftanh d t a rm p => opSpecial .tanh d t a rm p
  | .topn d t a p c lo n => opTopn d t a p c lo n
  | .rng d b a sp c => opRng d b a sp c
  | .vext d t b a p => opVext d t b a p
  | .mzero d f => opMzero d f
  | .mma d t b a nc ks => opMma d t b a nc ks
  | _ => pure ()

/-- A vector load or store, whose AS steps the address (R220). -/
def repMemory (i : Instr) : Bool :=
  match i with
  | .vld _ _ _ _ _ => true
  | .vst _ _ _ _ _ => true
  | .vlds _ _ _ _ _ _ => true
  | .vsts _ _ _ _ _ _ => true
  | .vgath _ _ _ _ _ _ _ _ => true
  | .vscat _ _ _ _ _ _ _ _ => true
  | _ => false

/-- The stride of a place in STRIDES (R219, R222). -/
def strideOf (st : BitVec 16) (place : Nat) : Nat := st.toNat / 2 ^ (4 * place) % 16

/-- The pair check of R220: every stride that is not zero acts on a field that admits it. -/
def pairOk (i : Instr) (fs : List RepField) (st : BitVec 16) : Bool :=
  (List.range 4).all fun k =>
    decide (strideOf st k = 0) || (fs.any fun f => decide (f.place = k)) || (repMemory i && decide (k = 1))

/-- The value of cause 0x03 for a stepped field, if it breaks the range check (R221, R270, R365). -/
def RepField.breach (f : RepField) (vregs tiles n : Nat) : Option Word :=
  match f.kind with
  | .vec => if vregs < n + f.size then some (BitVec.ofNat 64 (max n vregs)) else none
  | .tile w => (tileBreach tiles n w).map tileVal
  | .panel => if 64 < n + f.size then some (BitVec.ofNat 64 (0x200 + max n 64 * 2 ^ 16)) else none

/-- The first breach in iterations i to c - 1 (R221). A stepped field grows with each, so it breaks within 65 or not at all. -/
def rangeBreach (fs : List RepField) (st : BitVec 16) (vregs tiles i c : Nat) : Option Word :=
  let stepped := (List.range 4).flatMap fun k => fs.filter fun f => decide (f.place = k) && decide (strideOf st k ≠ 0)
  (List.range (min (c - i) 65)).findSome? fun j =>
    stepped.findSome? fun f => f.breach vregs tiles (f.base + (i + j) * strideOf st f.place)

/-- The head that a REP governs, in its line or the next (R219, R220): its bits, and the PC of the head after it.
(DEDUCED: notes/assumptions/13.md.) -/
def repTarget : M (Word × Word) := do
  let m ← get
  match m.th.fetch with
  | some (_, img) =>
    let k := m.ar.pc.toNat % 64 + 1
    if k < lineHeads img then pure (headWord img k, nextPc (m.ar.pc + 1) (lineHeads img))
    else
      let va := lineAddr m.ar.pc + 64
      let next ← fetchLine va
      needLine next 0
      pure (headWord next 0, nextPc va (lineHeads next))
  | none => throw .wait

/-- The layout of repst (R222): I in its 16 bits, from 0 again behind 2^16 - 1. (DEDUCED: notes/assumptions/62.md.) -/
def repWord (i : Nat) (st : BitVec 16) (rem : Nat) : Word :=
  BitVec.ofNat 64 (2 ^ 48 + i % 2 ^ 16 * 2 ^ 32 + st.toNat * 2 ^ 16 + rem)

/-- REP: one iteration of its target, or the whole of an empty repetition (R219-R224); inside a call of VPOL 0 either faults (R379).
(DEDUCED: notes/assumptions/62.md.) -/
def opRep (a : BitVec 6) (sts : BitVec 16) : M Unit := do
  let tg ← repTarget
  let m ← get
  let active := m.ar.repst.getLsbD 48
  let i := if active then field m.ar.repst 32 16 else 0
  let c := if active then i + field m.ar.repst 0 16 else field (m.ar.getX a) 0 16
  let st : BitVec 16 := if active then m.ar.repst.extractLsb' 16 16 else sts
  let target := decode tg.1
  match repFields m.ar target with
  | none => throw (.fault 0x02 tg.1)
  | some fs =>
    faultIf (!pairOk target fs st) 0x02 tg.1
    if c ≤ i then
      notArming
      needVec
      modify fun m => { m with ar := { m.ar with repst := 0 }, npc := tg.2, counts := 2 }
    else
      match rangeBreach fs st m.vregs m.tiles i c with
      | some v => throw (.fault 0x03 v)
      | none => pure ()
      notArming
      needVec
      onArch fun ar => { ar with repst := repWord i st (c - i) }
      let mem := repMemory target
      let w := tg.1.toNat + i * (strideOf st 0 * 2 ^ 10 + (if mem then 0 else strideOf st 1 * 2 ^ 16)
        + strideOf st 2 * 2 ^ 22 + strideOf st 3 * 2 ^ 32)
      repOp (decode (BitVec.ofNat 64 w)) (BitVec.ofNat 64 (if mem then 64 * i * strideOf st 1 else 0))
      if i + 1 < c then
        modify fun m => { m with ar := { m.ar with repst := repWord (i + 1) st (c - i - 1) }, npc := m.ar.pc }
      else modify fun m => { m with ar := { m.ar with repst := 0 }, npc := tg.2 }

def execRep (a : BitVec 6) (sts : BitVec 16) (s : State) := runHeadAs s true (opRep a sts)

end Sys2Proof.Machine
end

