-- ==== Sys2Proof/Machine/System.lean ====
section
/-!
DEFINITION. Sys2Proof/Machine/System.lean: opcodes 0xEC-0xF8, system registers, gate calls and the frame and return chunks
(R56-R58, R360-R395).
-/

namespace Sys2Proof.Machine

/-! ### System registers (R56, R57, R362) -/

/-- The access classes of R57. -/
inductive SrClass where
  | r | rw | t | p
deriving DecidableEq, Repr

/-- The class of a system register; none for a number that names none (R56, R57, R362). -/
def srClass (n : Nat) : Option SrClass :=
  if n = 0x006 ∨ n = 0x008 ∨ n = 0x00A ∨ n = 0x00B then some .rw
  else if n ≤ 0x009 then some .r
  else if 0x010 ≤ n ∧ n ≤ 0x016 then some .t
  else if n = 0x017 ∨ n = 0x021 ∨ n = 0x030 ∨ n = 0x041 ∨ n = 0x050 then some .r
  else if n = 0x020 ∨ n = 0x040 ∨ n = 0x042 then some .p
  else none

/-- crewpos of the member with a logical index (R18, R20). -/
def crewPos (w : Crew) (l : Nat) : Nat :=
  let core := l / w.t
  let cl := core / w.k
  let die := cl / w.c
  die / w.dd * 2 ^ 20 + die % w.dd * 2 ^ 16 + cl % w.c * 2 ^ 9 + core % w.k * 2 ^ 4 + l % w.t

/-- mode (R24): in dynamic mode bits [3:1] read 4. -/
def modeReg (w : Crew) : Nat := if w.det then 1 + 2 * w.dcode else 8

/-- The system registers that a chunk's checkpoint or the thread holds, and those that name the machine (R56, R362). pfdeny
reads zero. -/
def srRead (m : Mach) (n : Nat) : Word :=
  match n with
  | 0x000 => BitVec.ofNat 64 (m.st.vcnReg m.tid)
  | 0x001 => BitVec.ofNat 64 (m.part * 2 ^ 32 + m.th.crew % 2 ^ 32)
  | 0x002 => m.ar.guild.setWidth 64
  | 0x003 => BitVec.ofNat 64 ((m.crew.map modeReg).getD 8)
  | 0x004 => BitVec.ofNat 64 m.ch.count
  | 0x005 => BitVec.ofNat 64 m.th.commitno
  | 0x006 => m.ar.repst
  | 0x007 => BitVec.ofNat 64 ((m.crew.map fun w => crewPos w m.th.l).getD 0)
  | 0x008 => m.ar.fps
  | 0x009 => m.ar.status
  | 0x00A => m.ar.srkey
  | 0x00B => m.ar.srctr
  | 0x010 => m.ar.tvec
  | 0x011 => m.ar.tcause
  | 0x012 => m.ar.tpc
  | 0x013 => m.ar.tstat
  | 0x014 => m.ar.tval
  | 0x015 => m.ar.hscratch
  | 0x016 => m.ar.trepst
  | 0x017 => m.ar.tnpc
  | 0x020 => m.ar.gtb
  | 0x021 => BitVec.ofNat 64 m.ar.depth
  | 0x040 => m.ar.wdlimit
  | 0x041 => BitVec.ofNat 64 m.ar.wdcount
  | 0x050 => BitVec.ofNat 64 m.st.time
  | _ => 0

/-- Whether a class may be accessed (R57). -/
def srMay (m : Mach) (c : SrClass) : Bool :=
  match c with
  | .r => true
  | .rw => true
  | .t => m.ar.level || m.sys
  | .p => m.sys

/-- Cause 0x02 with the head and its tail (R70). -/
def illegal : M Unit := do
  let m ← get
  throw (.fault 0x02 m.th.headBits)

/-- The word that policyver reads (R401): VERSION of the thread's partition, whose line enters the read signature. -/
def readVersion : M Nat := do
  let m ← get
  pure (ofBytes (← readAt { pa := versionPa m.part, place := .bench 0 0x4000 } 0 4))

/-- fps takes the flags of the thread's earlier chunks at their commits (R55, R114): a head that reads or writes it waits for those that
have any. -/
def needFlags (i : Nat) : M Unit := do
  let m ← get
  if i = 0x008 ∧ m.th.chunks.any fun c => c.flags ≠ 0 then throw .wait

/-- GETS (R57, R371). -/
def opGets (d : BitVec 6) (i : BitVec 10) : M Unit := do
  match srClass i.toNat with
  | none => illegal
  | some c =>
    let m ← get
    need (srMay m c) 0x17 m.headOnly
    notArming
    needFlags i.toNat
    if i.toNat = 0x030 then
      let v ← readVersion
      setX d (BitVec.ofNat 64 v)
    else setX d (srRead m i.toNat)

/-- Values that a system register admits (R58, R128, R222, R364). -/
def srAdmits (n : Nat) (v : Word) : Bool :=
  match n with
  | 0x006 => decide (field v 49 15 = 0)
  | 0x008 => decide (field v 9 55 = 0) && decide (field v 5 3 < 6)
  | 0x020 => decide (field v 57 7 = 0) && decide (field v 10 2 = 0)
  | 0x040 => decide (field v 48 16 = 0)
  | _ => true

/-- A system register of the checkpoint written; tcause keeps its six bits (R56). -/
def Arch.srWrite (a : Arch) (n : Nat) (v : Word) : Arch :=
  match n with
  | 0x006 => { a with repst := v }
  | 0x008 => { a with fps := v }
  | 0x00A => { a with srkey := v }
  | 0x00B => { a with srctr := v }
  | 0x010 => { a with tvec := v }
  | 0x011 => { a with tcause := zextN v 6 }
  | 0x012 => { a with tpc := v }
  | 0x013 => { a with tstat := v }
  | 0x014 => { a with tval := v }
  | 0x015 => { a with hscratch := v }
  | 0x016 => { a with trepst := v }
  | 0x020 => { a with gtb := v }
  | 0x040 => { a with wdlimit := v }
  | _ => a

/-- SETS (R57, R371): a value that the register does not admit comes before the right to the register; pfdeny acts at the commit (R373).
(DESIGN CHOICE: notes/assumptions/26.md.) -/
def opSets (i : BitVec 10) (a : BitVec 6) : M Unit := do
  let m ← get
  let v := m.ar.getX a
  match srClass i.toNat with
  | none => illegal
  | some .r => illegal
  | some c =>
    if !srAdmits i.toNat v then illegal
    need (srMay m c) 0x17 m.headOnly
    notArming
    needFlags i.toNat
    if i.toNat = 0x042 then emit (.pfdeny v) else onArch fun ar => ar.srWrite i.toNat v

/-! ### Gate calls (R377-R381) -/

/-- A gate entry's reserved bits, MAXD, VPOL, NARGS and NRES (R377). -/
def gateEntryOk (e : List Word) : Bool :=
  let w := e.getD 0 0
  w.getLsbD 63 && decide (field w 29 34 = 0) && decide (1 ≤ field w 26 3) && decide (field w 26 3 ≤ 4)
    && decide (field w 24 2 ≤ 1) && decide (field w 20 4 ≤ 8) && decide (field w 16 4 ≤ 8)
    && decide (field (e.getD 2 0) 32 32 = 0) && decide (field (e.getD 4 0) 32 32 = 0)
    && decide (e.getD 6 0 = 0) && decide (e.getD 7 0 = 0)

/-- FS (R379). -/
def frameSize (vpol : Bool) (w : Crew) : Nat := if vpol then 0x400 + 64 * w.vregs + 1024 * w.tiles else 0x400

/-- FB (R379), an address of 64 bits. -/
def frameBase (sb : Word) (stride t d fs : Nat) : Word := BitVec.ofNat 64 (sb.toNat + (4 * t + d - 1) * stride + stride - fs)

/-- The eight dwords at a physical address, as an access of the chunk (R378); none where the address reaches nothing.
(DEDUCED: notes/assumptions/27.md.) -/
def readEntry (pa : Nat) : Nat → M (Option (List Word))
  | 0 => pure (some [])
  | k + 1 => do
    let m ← get
    match placeOf m.st m.part pa with
    | none => pure none
    | some l =>
      let b ← readAt l 0 8
      let r ← readEntry (pa + 8) k
      pure (r.map fun ws => BitVec.ofNat 64 (ofBytes b) :: ws)

/-- The crew of the executing thread, or a crew of one with no allotment where it has none. -/
def allotments (m : Mach) : Nat × Nat := (m.crew.map fun w => (w.vregs, w.tiles)).getD (0, 0)

/-- FS for the executing thread. -/
def Mach.frameSize (m : Mach) (vpol : Bool) : Nat :=
  if vpol then 0x400 + 64 * (allotments m).1 + 1024 * (allotments m).2 else 0x400

/-- GATE (R378, R379): the entry read in the chunk, the reasons in order; the link entry belongs to the checkpoint, and the
frame chunk follows the commit. -/
def opGate (i : BitVec 10) : M Unit := do
  notArming
  let m ← get
  let deny := fun r : Nat => (BitVec.ofNat 64 (r + i.toNat * 2 ^ 16) : Word)
  let base := field m.ar.gtb 12 45 * 4096
  faultIf (decide (base = 0) || decide (field m.ar.gtb 0 10 < i.toNat)) 0x0D (deny 1)
  match ← readEntry (base + 64 * i.toNat) 8 with
  | none => throw (.fault 0x0D (deny 2))
  | some e =>
    let m ← get
    let w := e.getD 0 0
    let target : BitVec 16 := w.setWidth 16
    let vpol := (w.getLsbD 24 : Bool)
    onState fun s => s.cacheGuild m.part target
    faultIf (!gateEntryOk e || !m.st.guildValid m.part target) 0x0D (deny 2)
    faultIf (decide (m.ar.guild.toNat &&& field (e.getD 2 0) 16 16 ≠ field (e.getD 2 0) 0 16)) 0x0D (deny 3)
    faultIf (decide (field w 26 3 ≤ m.ar.depth)) 0x0D (deny 4)
    faultIf m.ar.level 0x0D (deny 5)
    let sb := e.getD 3 0
    let stride := field (e.getD 4 0) 0 32
    let fs := m.frameSize vpol
    faultIf (decide (sb.toNat % 64 ≠ 0) || decide (stride % 64 ≠ 0) || decide (stride < fs)) 0x0D (deny 6)
    let fb := frameBase sb stride (m.st.vcnReg m.tid % 2 ^ 19) (m.ar.depth + 1) fs
    onArch fun a => { a with links := a.links ++ [{ retPc := m.npc, gatePc := a.pc, guild := a.guild, tvec := a.tvec,
                                                    gtb := a.gtb, vpol, nres := field w 20 4, fb }] }
    endWith (.gate i.toNat e)

/-- GRET: at depth 0 refused (R380). -/
def opGret (fail : Option (BitVec 6)) : M Unit := do
  notArming
  let m ← get
  faultIf (decide (m.ar.depth = 0)) 0x07 m.th.headBits
  endWith (.gret (fail.map m.ar.getX))

/-- Place in L1 for a line of a frame (R102), for which the frame chunk waits; a frame that needs more lines of one set than a chunk may
hold there is written unbuffered beyond them, as a store of R442 is. (DEDUCED: notes/assumptions/66.md.) -/
def holdFrame (va : Word) (line : Nat) : M Unit := do
  let m ← get
  if m.ch.held.any (fun h => decide (h.1 = setOf va) && decide (h.2.1 = line)) then pure ()
  else if setLimit m ≤ (m.ch.held.filter fun h => h.1 = setOf va).length then onChunk fun c => { c with unbuffered := true }
  else holdLine va line

/-- A dword of the frame written (R379). -/
def framePut (va v : Word) : M Unit := do
  let l ← locateStore va 8 false
  waitFars l.pa 8
  holdFrame va (lineOf l.pa)
  noteWrite l
  modify fun m => { m with ch := { m.ch.put l.pa (bytesOf 8 v.toNat) with stores := m.ch.stores ++ [(0, l.pa, va)] } }

/-- Some dwords of the frame from an offset up. -/
def framePuts (fb : Word) (o : Nat) : List Word → M Unit
  | [] => pure ()
  | w :: ws => do
    framePut (fb + BitVec.ofNat 64 o) w
    framePuts fb (o + 8) ws

/-- n dwords of a value, lowest first. -/
def dwordsOf (n v : Nat) : List Word :=
  match n with
  | 0 => []
  | k + 1 => BitVec.ofNat 64 v :: dwordsOf k (v / 2 ^ 64)

/-- Dwords joined, lowest first. -/
def joinDwords : List Word → Nat
  | [] => 0
  | w :: ws => w.toNat + 2 ^ 64 * joinDwords ws

/-- The vector registers and tiles of a thread's allotments as dwords. -/
def vectorDwords (a : Arch) (nv nt : Nat) : List Word :=
  ((List.finRange 32).filter fun k => decide (k.val < nv)).flatMap (fun k => dwordsOf 8 (a.v.get k).toNat) ++
    ((List.finRange 16).filter fun k => decide (k.val < nt)).flatMap fun k => dwordsOf 128 (a.a.get k).toNat

/-- The registers that a gate call passes: those of the arguments, the frame base, the caller's guild and the entry's number. -/
def Arch.calleeX (a : Arch) (nargs : Nat) (fb guild i : Word) : Vector Word 64 :=
  (((Vector.ofFn fun k : Fin 64 => if 8 ≤ k.val ∧ k.val < 8 + nargs then a.x.get k else 0).set 3 fb).set 4 guild).set 5 i

/-- GUILD, DEPTH and INGATE of a status word (R361). -/
def inGate (st : Word) (guild : BitVec 16) (d : Nat) : Word :=
  setField (setField (setField st 16 16 guild.toNat) 4 4 d) 3 1 (if d = 0 then 0 else 1)

/-- The registers that every gate entry and return clears (R379, R380). -/
def Arch.clearTraps (a : Arch) : Arch :=
  { a with tcause := 0, tpc := 0, tval := 0, tstat := 0, tnpc := 0, trepst := 0, hscratch := 0 }

/-- The vector state of the allotments cleared (R379). -/
def Arch.clearVec (a : Arch) (nv nt : Nat) : Arch :=
  { a with v := Vector.ofFn fun k : Fin 32 => if k.val < nv then 0 else a.v.get k
           m := Vector.replicate 8 0
           s := Vector.replicate 4 0
           a := Vector.ofFn fun k : Fin 16 => if k.val < nt then 0 else a.a.get k }

/-- The frame chunk (R379). -/
def frameOp (i : Nat) (e : List Word) : M Unit := do
  let m ← get
  let w := e.getD 0 0
  let target : BitVec 16 := w.setWidth 16
  match m.ar.links.getLast? with
  | none => throw .wait
  | some l =>
    let a := m.ar
    let d := a.depth + 1
    onArch fun a => { a with status := inGate a.status target d }
    framePuts l.fb 8 ((List.range 63).map fun k => a.getX (BitVec.ofNat 6 (k + 1)))
    framePuts l.fb 0x200 [a.fps, a.srkey, a.srctr]
    let (nv, nt) := allotments m
    if l.vpol then
      framePuts l.fb 0x218 ((List.range 7).map fun k => a.getM (BitVec.ofNat 3 (k + 1)))
      framePuts l.fb 0x250 ((List.range 3).map fun k => a.getS (BitVec.ofNat 2 (k + 1)))
      framePuts l.fb 0x400 (vectorDwords a nv nt)
    let gtb := (m.st.guildEntry m.part target).getD 2 0
    onArch fun b =>
      let c := { b.clearTraps with
        x := a.calleeX (field w 16 4) l.fb (a.guild.setWidth 64) (BitVec.ofNat 64 i)
        fps := 0, srkey := 0, srctr := 0, gtb := gtb, tvec := e.getD 5 0 }
      if l.vpol then c.clearVec nv nt else c
    modify fun m => { m with npc := e.getD 1 0, counts := 0 }
    endWith (.frame i e)

/-- n dwords of the frame, read under the service guild. -/
def frameGets (fb : Word) (o : Nat) : Nat → M (List Word)
  | 0 => pure []
  | n + 1 => do
    let v ← readMem (fb + BitVec.ofNat 64 o) 8
    let r ← frameGets fb (o + 8) n
    pure (BitVec.ofNat 64 v :: r)

/-- A span admits a value (R53). -/
def spanOk (w : Word) : Bool :=
  decide (field w 14 50 = 0) && decide (field w 11 3 < 6) && decide (field w 0 9 ≤ (field w 11 3 + 1) * 64 / 2 ^ field w 9 2)

/-- A span formed from any word. -/
def spanFrom (w : Word) : Word :=
  let n := field w 11 3 % 6
  let z := field w 9 2
  BitVec.ofNat 64 (n * 2 ^ 11 + z * 2 ^ 9 + field w 0 9 % ((n + 1) * 64 / 2 ^ z + 1))

/-- What a span holds after a dword of an edited frame or image is put into it: the dword, or an open value among those that a span
admits, formed from an open word (R53). (DESIGN CHOICE: notes/assumptions/55.md.) -/
def spanPut (w open' : Word) : Word := if spanOk w then w else spanFrom open'

/-- The vector state restored from the dwords of a frame; from open words where the frame's spans are none. -/
def Arch.restoreVec (a : Arch) (nv nt : Nat) (ms ss open' vs : List Word) : Arch :=
  { a with m := Vector.ofFn fun k : Fin 8 => if k.val = 0 then 0 else ms.getD (k.val - 1) 0
           s := Vector.ofFn fun k : Fin 4 => if k.val = 0 then 0 else spanPut (ss.getD (k.val - 1) 0) (open'.getD (k.val - 1) 0)
           v := Vector.ofFn fun k : Fin 32 =>
             if k.val < nv then BitVec.ofNat 512 (joinDwords ((vs.drop (8 * k.val)).take 8)) else a.v.get k
           a := Vector.ofFn fun k : Fin 16 =>
             if k.val < nt then BitVec.ofNat 8192 (joinDwords ((vs.drop (8 * nv + 128 * k.val)).take 128)) else a.a.get k }

/-- Three words the manual leaves open. -/
def State.fresh3 (s : State) : List Word × State :=
  ((List.range 3).map fun i => Config.freeWord (s.free + i), { s with free := s.free + 3 })

/-- The caller's registers as its frame holds them (R380); fps is restored as the frame holds it. (DESIGN CHOICE: notes/assumptions/55.md.) A call whose frame chunk met a fault has its caller's registers
still: its depth is below its link stack's (R379). -/
def restoreFrame (l : GateLink) (nv nt : Nat) : M Unit := do
  let m ← get
  if m.ar.links.length ≤ m.ar.depth then
    let xs ← frameGets l.fb 8 63
    let fs ← frameGets l.fb 0x200 3
    onArch fun a => { a with x := Vector.ofFn fun k : Fin 64 => if k.val = 0 then 0 else xs.getD (k.val - 1) 0
                             fps := fs.getD 0 0, srkey := fs.getD 1 0, srctr := fs.getD 2 0 }
    if l.vpol then
      let ms ← frameGets l.fb 0x218 7
      let ss ← frameGets l.fb 0x250 3
      let vs ← frameGets l.fb 0x400 (8 * nv + 128 * nt)
      let m ← get
      let o := m.st.fresh3
      if !ss.all spanOk then set (m.setSt o.2)
      onArch fun a => a.restoreVec nv nt ms ss o.1 vs

/-- What the return chunk leaves in x8 upward (R380): the results, the value of GRET.fail, or the unwind code. -/
def Arch.results (a old : Arch) (nres : Nat) (fail code : Option Word) : Arch :=
  match code, fail with
  | some c, _ => a.setX 8 c
  | none, some v => a.setX 8 v
  | none, none => { a with x := Vector.ofFn fun k : Fin 64 => if 8 ≤ k.val ∧ k.val < 8 + nres then old.x.get k else a.x.get k }

/-- The return chunk (R380), of a GRET or of unwinding. -/
def returnOp (fail code : Option Word) : M Unit := do
  let m ← get
  match m.ar.links.getLast? with
  | none => throw .wait
  | some l =>
    let (nv, nt) := allotments m
    restoreFrame l nv nt
    let d := m.ar.links.length - 1
    onState fun s => s.cacheGuild m.part l.guild
    onArch fun a =>
      let b := (a.results m.ar l.nres fail code).clearTraps
      let st := setField (inGate b.status l.guild d) 2 1 (if fail.isSome || code.isSome then 1 else 0)
      { b with status := setField st 0 1 0, tvec := l.tvec, gtb := l.gtb, links := m.ar.links.dropLast,
               tcause := if code.isSome then 0x0E else 0, tpc := if code.isSome then l.gatePc else 0, tval := code.getD 0 }
    modify fun m => { m with npc := l.retPc, counts := 0 }
    endWith (.ret fail code)

/-- The chunk of no instructions that a thread is to run. -/
def microOp (f : Finish) : M Unit :=
  match f with
  | .gate i e => frameOp i e
  | .gret fail => returnOp fail none
  | .unwind code => returnOp none (some code)
  | _ => throw .wait

/-- The guild under whose tables a thread's next access is translated: that of the entry for a frame chunk still to run (R379). -/
def Thread.accessGuild (t : Thread) : BitVec 16 :=
  match t.micro with
  | some (.gate _ e) => (e.getD 0 0).setWidth 16
  | _ => t.arch.guild

/-- A fault of a frame chunk unwinds at once; one of a return chunk stops the crew with cause 0x14 and the address (R379,
R380). -/
def microFault (s : State) (tid : Nat) (t : Thread) (f : Finish) (cause : Nat) (tval : Word) : State :=
  match f with
  | .gate _ _ => s.setThread tid { t with micro := some (.unwind (unwindCode cause (t.arch.depth + 1))), denied := none, replies := [] }
  | _ =>
    let n := nextOf s tid t
    ((n.2.record (coreOf tid) 3 (slotOf tid) 0x14 t.commitno).setThread tid
      { t with arch := t.arch.trapRegs t.arch.pc n.1 0x14 tval, denied := none, run := .stopped, replies := [] }).stopCrew t.crew 0x14 (some t.l)

/-- Cause 0x11 at an address is an error of data, not a link's refusal (R376, R425). -/
def State.dataError (s : State) (t : Thread) (tval : Word) : Bool :=
  !(((walk s (crewPart t.crew) t.accessGuild tval.toNat).bind fun e => placeOf s (crewPart t.crew) (e.pa tval.toNat)).any
    fun l => l.place.beyond)

/-- The MCHECK event of an error in data that a thread consumes, and its entry in the recorder (R376, R393). -/
def State.reportCheck (s : State) (tid : Nat) (t : Thread) (va : Word) : State :=
  ((s.askFreeze (crewPart t.crew) 1).report (crewPart t.crew) none 5 0x11 (s.vcnReg tid) t.l t.accessGuild.toNat t.crew va).record
    (coreOf tid) 7 (slotOf tid) 0 t.commitno

/-- A fault met by such a chunk. An error in data discards it, and it runs again first (R376). -/
def microStop (s : State) (tid : Nat) (t : Thread) (f : Finish) (cause : Nat) (tval : Word) : State :=
  if cause = 0x11 ∧ s.dataError t tval then
    if t.checked.contains (tval.toNat / 64) then microFault (s.reportCheck tid t tval) tid t f cause tval
    else (s.reportCheck tid t tval).setThread tid { t with checked := t.checked ++ [tval.toNat / 64] }
  else microFault s tid t f cause tval

/-- A fault that such a chunk meets of itself: a line that a scrub has marked needs no second error (R437). -/
def microMarked (s : State) (tid : Nat) (t : Thread) (f : Finish) (cause : Nat) (tval : Word) : State :=
  microFault (if cause = 0x11 ∧ s.dataError t tval then s.reportCheck tid t tval else s) tid t f cause tval

/-- A thread with such a chunk to run runs the whole of it (R379, R380); a page fault parks it unless it was denied (R373). The line
that it goes on in is another guild's: none stands in the fetch buffer then. -/
def runMicro (s : State) (tid : Nat) (t : Thread) (f : Finish) : State :=
  match (microOp f).run (Mach.start s tid { t with micro := none }) with
  | .ok _ m => Mach.retire { m with th := { m.th with fetch := none, stale := false } } false
  | .error e m =>
    match e with
    | .fault cause tval => microMarked m.st tid t f cause tval
    | .page cause va =>
      if t.denied = some va then microFault m.st tid t f cause va
      else m.st.setThread tid { t with pending := some (.page cause va) }
    | .sleep r => m.st.setThread tid { t with run := r }
    | .before => m.st
    | .wait => m.st.unissue tid e

/-! ### Traps and returns (R369, R370, R389) -/

/-- The saved status words that TRET refuses (R370). -/
def tstatOk (a : Arch) (det : Bool) : Bool :=
  decide (field a.tstat 32 32 = 0) && decide (field a.tstat 8 8 = 0) && !a.tstat.getLsbD 0 && (a.tstat.getLsbD 1 == det)
    && decide (field a.tstat 16 16 = field a.status 16 16) && decide (field a.tstat 3 5 = field a.status 3 5)

/-- TRET (R370); the registers that it restores belong to the checkpoint of the chunk that it ends. -/
def opTret : M Unit := do
  notArming
  let m ← get
  faultIf (!m.ar.level) 0x13 0
  faultIf (!tstatOk m.ar ((m.crew.map Crew.det).getD false)) 0x14 m.ar.tstat
  onArch fun a => { a with status := a.tstat, repst := a.trepst, trepst := 0 }
  jumpTo m.ar.tpc
  endWith .tret

/-! ### Code lines, TLBs, snapshots, recorders (R375, R386-R395) -/

/-- IFLUSH (R390): the line translated as a fetch. -/
def opIflush (all : Bool) (a : BitVec 6) : M Unit := do
  notArming
  let m ← get
  let l ← locateAs .fetch 0x05 (m.ar.getX a) (m.ar.getX a)
  emit (.iflush all (lineOf l.pa))
  endWith .cut

/-- TLBINV (R375). -/
def opTlbinv (k : Nat) (b a : BitVec 6) : M Unit := do
  let m ← get
  need m.sys 0x17 m.headOnly
  notArming
  faultIf (decide (field (m.ar.getX b) 16 48 ≠ 0)) 0x0A (m.ar.getX b)
  emit (.tlbinv k (m.ar.getX a) ((m.ar.getX b).setWidth 16))
  endWith .cut

/-- A descriptor's reserved fields, and its port mask (R388, R429). -/
def snapDescOk (e : List Word) : Bool :=
  decide (field (e.getD 0 0) 4 60 = 0) && decide (e.getD 0 0 ≠ 0) && decide (field (e.getD 1 0) 24 40 = 0)
    && decide (field (e.getD 3 0) 32 32 = 0) && decide (e.getD 5 0 = 0) && decide (e.getD 6 0 = 0) && decide (e.getD 7 0 = 0)

/-- SNAP (R388): alone; the value of cause 0x0A is not stated. -/
def opSnap (d a : BitVec 6) : M Unit := do
  standAlone
  let m ← get
  need m.sys 0x17 m.headOnly
  notArming
  let va := m.ar.getX a
  needAligned va 64
  let l ← locate .load va
  faultIf (decide (regionOf l.pa ≠ 0)) 0x07 va
  let e ← readWords l va 0 8
  if !snapDescOk e then
    let m ← get
    let v := m.st.fresh
    set (m.setSt v.2)
    throw (.fault 0x0A v.1)
  let at' := e.getD 4 0
  needAligned at' 8
  let m ← get
  let ok := (placeOf m.st m.part at'.toNat).any fun p => decide (regionOf p.pa ≤ 1)
  faultIf (!ok) 0x07 at'
  emit (.snap d e)

/-- FREEZE (R393). -/
def opFreeze (on : Bool) (all : BitVec 1) : M Unit := do
  let m ← get
  need m.sys 0x17 m.headOnly
  notArming
  emit (.freeze on (all = 1))

def execGate (i : BitVec 10) (s : State) := runHead s (opGate i)
def execGret (s : State) := runHead s (opGret none)
def execGretFail (a : BitVec 6) (s : State) := runHead s (opGret (some a))
/-- TRAP (R369). -/
def execTrap (i : BitVec 10) (s : State) := runHead s (do notArming; throw (.fault 0x15 (i.setWidth 64)))
def execTret (s : State) := runHead s opTret
def execGets (d : BitVec 6) (i : BitVec 10) (s : State) := runHead s (opGets d i)
def execSets (i : BitVec 10) (a : BitVec 6) (s : State) := runHead s (opSets i a)
/-- BRK (R389): its TL is ignored. -/
def execBrk (_tl : BitVec 2) (s : State) := runHead s (do notArming; throw (.fault 0x0F 0))
def execIflush (a : BitVec 6) (s : State) := runHead s (opIflush false a)
def execIflushAll (a : BitVec 6) (s : State) := runHead s (opIflush true a)
def execTlbinvPage (b a : BitVec 6) (s : State) := runHead s (opTlbinv 0 b a)
def execTlbinvGuild (b a : BitVec 6) (s : State) := runHead s (opTlbinv 1 b a)
def execTlbinvAll (b a : BitVec 6) (s : State) := runHead s (opTlbinv 2 b a)
/-- HALT (R386). -/
def execHalt (s : State) := runHead s (do notArming; endWith .halt)
/-- MARK (R395). -/
def execMark (i : BitVec 10) (s : State) := runHead s (do notArming; emit (.mark i.toNat))
def execSnap (d a : BitVec 6) (s : State) := runHead s (opSnap d a)
def execFreeze (sc : BitVec 1) (s : State) := runHead s (opFreeze true sc)
def execThaw (sc : BitVec 1) (s : State) := runHead s (opFreeze false sc)

end Sys2Proof.Machine
end

