-- ==== Sys2Proof/Machine/Issue.lean ====
section
/-!
DEFINITION. Sys2Proof/Machine/Issue.lean: what brings a thread's next head to execution: code lines, issue, page-table walks,
the end of waits, traps, page faults, machine checks (R38, R71-R73, R126, R129, R139, R217, R366-R376).
-/

namespace Sys2Proof.Machine

/-! ### Issue (R71, R72, R103) -/

/-- Work of an ended chunk that its thread's next chunk waits for: a boundary other than a cut, a value-returning atomic, and
what leaves with its commit (R99, R103, R178, R315). (DESIGN CHOICE: notes/assumptions/52.md.) -/
def Chunk.blocks (c : Chunk) : Bool :=
  decide (c.fin ≠ .cut) || c.atom.isSome || !c.effects.isEmpty || c.fars.any fun f => decide (f.op = .post)

/-- A thread holds an entry of the SFU or of the loom's queue. -/
def Core.busy (c : Core) (tid : Nat) : Bool := c.sfu.any (fun e => decide (e.tid = tid)) || c.loom.any fun e => decide (e.tid = tid)

/-- The thread's next head may belong to a chunk: the one that executes, or a new one behind at most one in flight (R103); in
deterministic mode what follows a precise prefix takes a later turn (R366). It waits while an ended chunk of its thread has entries in the
SFU or commands in the loom's queue (R256). (DESIGN CHOICE: notes/assumptions/52.md.) -/
def State.mayBegin (s : State) (tid : Nat) (t : Thread) : Bool :=
  t.executing.isSome ||
    (decide (t.chunks.length ≤ 1) && !(t.chunks.any Chunk.blocks) && !(s.core (coreOf tid)).busy tid &&
      !(t.arch.det && t.chunks.any Chunk.prec))

/-- A frame or return chunk (R379, R380). -/
def Chunk.isMicro (c : Chunk) : Bool :=
  match c.fin with
  | .frame _ _ => true
  | .ret _ _ => true
  | _ => false

/-- A thread has a frame or return chunk to run, or to have granted, and is not parked: a stop waits for it (R381). -/
def Thread.microOut (t : Thread) : Bool :=
  (t.micro.isSome || t.chunks.any fun c => c.ungranted && c.isMicro) && (match t.run with
    | .parked _ _ => false
    | .stopped => false
    | _ => true)

/-- A member of a crew has such a chunk. -/
def State.microOut (s : State) (w : Crew) : Bool := w.members.any fun e => (s.thread e.2).any Thread.microOut

/-- An exchange phase of a crew is under way, or a member has exchange chunks to commit: a stop waits for it (R359). -/
def State.exchangeOut (s : State) (w : Crew) : Bool :=
  !w.phases.isEmpty || w.members.any fun e => (s.thread e.2).any fun t => match t.run with
    | .captured _ _ _ => true
    | _ => false

/-- The turns of a deterministic crew that is to stop go on while a frame or return chunk or an exchange phase is out (R119,
R359, R381). -/
def State.turnsOn (s : State) (w : Crew) : Bool := w.det && (s.microOut w || s.exchangeOut w)

/-- A thread has met no fault that is still to be acted on, but for one whose turn has come (R366). -/
def Thread.clear (t : Thread) : Bool := t.pending.isNone || decide (t.pending = some .turn)

/-- A thread runs, and its crew is not being stopped; while a stop waits for a frame or return chunk, that chunk runs, and a
deterministic crew's other members with it (R119, R359, R381). -/
def State.runs (s : State) (t : Thread) : Bool :=
  decide (t.run = .running) && t.clear &&
    (s.crew t.crew).any fun w => w.stopped.isNone && (w.stopping.isNone || t.microOut || s.turnsOn w)

/-- A chunk of the thread has been refused at its grant. -/
def Thread.refused (t : Thread) : Bool :=
  match t.pending with
  | some (.precise _) => true
  | _ => false

/-- The line of the thread's next head stands in its fetch buffer and has passed its check (R38, R72). -/
def Thread.lineReady (t : Thread) : Bool :=
  match t.fetch with
  | some (l, img) => decide (l = t.arch.pc.toNat / 64) && decide (lineReason img (t.arch.pc.toNat % 64) = 0)
  | none => false

/-- A special-function head (R217). -/
def isSfu (i : Instr) : Bool :=
  match i with
  | .fdiv .. => true
  | .fsqrt .. => true
  | .fexp .. => true
  | .flog .. => true
  | .frcp .. => true
  | .frsq .. => true
  | .fsin .. => true
  | .fcos .. => true
  | .ftanh .. => true
  | _ => false

/-- The vector groups that a head names, as (first register, registers); none of the heads that wait for every result of their
thread's special functions. -/
def headGroups (ar : Arch) (i : Instr) : Option (List (Nat × Nat)) :=
  match i with
  | .rep .. => none
  | .mscl .. => none
  | .mdrain .. => none
  | .rdc .. => none
  | .send .. => none
  | .recv .. => none
  | .xrcv .. => none
  | _ => some (((repFields ar i).getD []).filterMap fun f => match f.kind with
    | .vec => some (f.base, f.size)
    | _ => none)

/-- The registers of a head are free of results that the SFU has still to write for its thread (R72). -/
def Core.sfuFree (c : Core) (tid : Nat) (ar : Arch) (i : Instr) : Bool :=
  let mine := c.sfu.filter fun e => decide (e.tid = tid)
  mine.isEmpty || (headGroups ar i).any fun l =>
    mine.all fun e => l.all fun g => decide (e.v.toNat < g.1) || decide (g.1 + g.2 ≤ e.v.toNat)

/-- Entries of the vector sequencer (R215). -/
def sequencerSize : Nat := 16

/-- A head takes an entry of the vector sequencer (R215). -/
def sequenced (op : Nat) : Bool :=
  decide (0x56 ≤ op ∧ op ≤ 0x5B) || decide (0x80 ≤ op ∧ op ≤ 0x87) || decide (0x99 ≤ op ∧ op ≤ 0xBF) || decide (op = 0x90)

/-- The units of a core can accept a head (R72): the sequencer, whose entries last until their results are written, the SFU's queue
(R215, R217), the loom's queue and the drain buffer (R255, R264). -/
def Core.accepts (c : Core) (ar : Arch) (i : Instr) (op : Nat) : Bool :=
  (!sequenced op || decide (((c.sfu.map SfuEntry.id).dedup).length < sequencerSize)) &&
  (!isSfu i || decide (c.sfu.length + (((repFields ar i).getD []).map RepField.size).headD 0 ≤ sfuSize)) &&
  match i with
  | .mzero .. => decide (c.loom.length < loomDepth)
  | .mma .. => decide (c.loom.length < loomDepth)
  | .mscl .. => decide (c.loom.length < loomDepth)
  | .macc .. => decide (c.loom.length < loomDepth)
  | .mdrain _ _ _ _ _ _ _ ot _ _ => decide (c.loom.length < loomDepth) && decide (c.drainUsed + 32 * (fmtOf ot.toNat).bits ≤ drainBytes)
  | _ => true

/-- A thread's next head can be taken by the unit that it needs, its registers available (R72). -/
def State.unitReady (s : State) (tid : Nat) (t : Thread) : Bool :=
  let c := s.core (coreOf tid)
  (c.sfu.isEmpty && c.loom.isEmpty && c.drains.isEmpty) ||
    (c.sfuFree tid t.arch (decode t.headBits) && c.accepts t.arch (decode t.headBits) (t.headBits.toNat % 256))

/-- The block that a head is a command of is held: 0 the loom for the heads of the matrix instructions, 1 the vector unit and the
SFU (R432). -/
def State.headHeld (s : State) (core : Nat) (op : Nat) : Bool :=
  (decide (0xC0 ≤ op ∧ op ≤ 0xCA) && s.held 0 core) || (decide (0x80 ≤ op ∧ op ≤ 0xBF) && s.held 1 core)

/-- A slot is ready (R72), or has a frame or return chunk to run (R379, R380). -/
def State.ready (s : State) (tid : Nat) : Bool :=
  match s.thread tid with
  | none => false
  | some t =>
    s.runs t && (match t.micro with
      | some _ => t.chunks.isEmpty && !(s.core (coreOf tid)).busy tid
      | none => t.lineReady && s.mayBegin tid t && !s.headHeld (coreOf tid) (t.headBits.toNat % 256) && s.unitReady tid t)

/-- The first ready slot of a core, from the one after the slot that issued last (R71), but for those whose next head still waits for a
result or a unit by the latencies of R73 and R74, as the schedule says. (DESIGN CHOICE: notes/assumptions/9.md.) -/
def State.nextSlot (s : State) (core : Nat) (late : BitVec 16) : Option Nat :=
  ((List.range 16).map fun k => ((s.core core).rr + 1 + k) % 16).find? fun k => s.ready (core * 16 + k) && !late.getLsbD k

/-- The issue stage of a core: the next head of the first ready slot is the next instruction of the machine; the hardware may
cut a dynamic chunk behind it (R71, R99). A frame or return chunk runs whole in its slot's turn. (DESIGN CHOICE:
notes/assumptions/56.md.) -/
def issue (s : State) (core : Nat) (cut : Bool) (late : BitVec 16) : State :=
  match s.nextSlot core late with
  | none => s
  | some k =>
    let tid := core * 16 + k
    let s := s.setCore core { s.core core with rr := k, rrWas := (s.core core).rr }
    match s.thread tid with
    | none => s
    | some t =>
      match t.micro with
      | some f => runMicro s tid t f
      | none => { s with issuing := some (.thread tid), cutNow := cut }

/-! ### Code lines (R38-R41, R73) -/

/-- What a thread does with the image of the line of its PC: it goes on in it, or faults by the check of R38. -/
def enterImage (s : State) (tid : Nat) (t : Thread) (img : Line) : State :=
  let t := { t with fetch := some (t.arch.pc.toNat / 64, img), stale := false, absent := none, replies := [] }
  let r := lineReason img (t.arch.pc.toNat % 64)
  if r = 0 then s.setThread tid t else stopped s tid t (t.current s) (.fault 0x01 (BitVec.ofNat 64 r))

/-- The fetch of a thread's line; without the core's cached image where the core has dropped that since (R41). -/
def fetchOp (cached : Bool) (va : Word) : M Line := do
  if !cached then
    let m ← get
    match tlbLookup m.st m.core m.ar.guild va.toNat with
    | some (e, _) => onState fun s => s.setCore m.core { s.core m.core with
        icache := assocDrop (lineOf (e.pa va.toNat)) (s.core m.core).icache }
    | none => pure ()
  fetchLine va

/-- A thread's next head waits for its line. -/
def State.fetching (s : State) (tid : Nat) (t : Thread) : Bool := s.runs t && t.micro.isNone && !t.lineReady && s.mayBegin tid t

/-- Control enters the line of a thread's PC: its image is taken and checked (R38, R41, R73); an index beyond the heads of the line
that stands in the buffer is found there, without a fetch (R97). -/
def lineArrival (s : State) (tid : Nat) (cached : Bool) : State :=
  match s.thread tid with
  | none => s
  | some t =>
    if s.fetching tid t then
      match t.fetch.filter fun f => decide (f.1 = t.arch.pc.toNat / 64) with
      | some f => enterImage s tid t f.2
      | none =>
        match (fetchOp cached (lineAddr t.arch.pc)).run (Mach.start s tid t) with
        | .ok img m => enterImage m.st tid { t with denied := m.th.denied } img
        | .error e m => stopped m.st tid t (t.current s) e
    else s

/-! ### Walks (R139) -/

/-- The dwords of the entries that a walk reads (R136). -/
def walkDwordsFrom (s : State) (va table : Nat) : List (Nat × Nat × Nat) → List Nat
  | [] => []
  | (lo, w, leaf) :: rest =>
    let pa := table + 8 * (va / 2 ^ lo % 2 ^ w)
    let e := s.readWord pa
    pa / 8 :: if pteOk e leaf && !e.getLsbD 1 then walkDwordsFrom s va (field e 12 45 * 4096) rest else []
def walkDwords (s : State) (p : Nat) (g : BitVec 16) (va : Nat) : List Nat :=
  walkDwordsFrom s (va % 2 ^ 57) (field ((s.guildEntry p g).getD 0 0) 12 45 * 4096) walkLevels

/-- A walk ends: it has read the tables as committed, every released far atomic among their words applied; its entry is taken into the
cluster's TLB, or the misses that wait for it have found none. -/
def pageWalkEnd (s : State) (cluster i : Nat) : State :=
  let c := s.cluster cluster
  match c.walks[i]? with
  | none => s
  | some w =>
    if s.postHeld none (walkDwords s.settleAll (s.partOf (cluster / 100)) w.guild (w.page * 2 ^ 16)) then s
    else
    let now := s.settleAll
    let s := s.setCluster cluster { c with walks := c.walks.eraseIdx i }
    match walk now (s.partOf (cluster / 100)) w.guild (w.page * 2 ^ 16) with
    | some e => s.setCluster cluster { s.cluster cluster with tlb := tlbPut c.tlb 4096 e }
    | none => w.waiters.foldl (fun s x =>
        match s.thread x.tid with
        | some t => s.setThread x.tid { t with absent := some (w.guild, w.page) }
        | none => s) s

/-! ### Waits (R126, R217) -/

/-- A woken WAITA or SWAIT evaluates its word again, by executing again (R125, R126). -/
def waitaEvaluation (s : State) (tid : Nat) : State :=
  match s.thread tid with
  | some t =>
    match t.run with
    | .watch _ true => if (s.crew t.crew).any Crew.det then s else s.setThread tid { t with run := .running }
    | _ => s
  | none => s

/-- The interval of a wait on a word that no directory watches ends (R126). -/
def pollInterval (s : State) (tid : Nat) : State :=
  match s.thread tid with
  | some t =>
    match t.run with
    | .watch w _ =>
      if w.polls && decide (w.due ≤ s.time) && !((s.crew t.crew).any Crew.det) then s.setThread tid { t with run := .running }
      else s
    | _ => s
  | none => s

/-- The SFU writes the result at the head of its queue (R217). -/
def sfuResult (s : State) (core : Nat) : State :=
  match (s.core core).sfu with
  | [] => s
  | e :: es =>
    let s := s.setCore core { s.core core with sfu := es }
    match s.thread e.tid with
    | some t => s.setThread e.tid { t with arch := t.arch.setV e.v e.value }
    | none => s

/-! ### Traps, page faults, machine checks (R129, R366-R376) -/

/-- The watchdog fires at a thread's next head (R129). -/
def watchdog (s : State) (tid : Nat) : State :=
  match s.thread tid with
  | some t => if s.ready tid && t.micro.isNone && wdFires t.arch then headStep s false tid t false (pure ()) else s
  | none => s

/-- A chunk refused at its grant is discarded and re-executes in precise mode up to the instruction at count k (R366). -/
def preciseReexecution (s : State) (tid : Nat) : State :=
  match s.thread tid with
  | some t =>
    match t.pending with
    | some (.precise k) => (s.dropUnits tid t.chunks).setThread tid { t.rewind 0 with precise := some k }
    | _ => s
  | none => s

/-- With every older chunk acknowledged, a head that has met a fault executes as the first of a new chunk, and its fault is
delivered there (R366 step 6); in deterministic mode that takes the thread's turn (R119, R366). -/
def trapDelivery (s : State) (tid : Nat) : State :=
  match s.thread tid with
  | some t =>
    match t.pending with
    | some (.trap _ _) => if t.chunks.isEmpty && !t.arch.det then s.setThread tid { t with pending := none } else s
    | _ => s
  | none => s

/-- A page fault squashes the executing chunk and parks its thread; the foreman is to report it (R115, R372). A frame chunk runs under
the guild that it enters (R379). -/
def pageFaultPark (s : State) (tid : Nat) : State :=
  match s.thread tid with
  | some t =>
    match t.pending with
    | some (.page cause va) =>
      let p := crewPart t.crew
      let s := if t.executing.isSome then s.squash tid t.older.length else s
      let s := (s.record (coreOf tid) 4 (slotOf tid) cause t.commitno).askFreeze p 2
      let ring := if ((s.guildEntry p t.accessGuild).getD 0 0).getLsbD 60 then some t.accessGuild else none
      let s := s.report p ring 1 cause (s.vcnReg tid) t.l t.accessGuild.toNat t.crew va
      match s.thread tid with
      | some u => s.setThread tid { u with run := .parked cause va, pending := none, absent := none, micro := t.micro }
      | none => s
    | _ => s
  | none => s

/-- An error in data that a chunk consumes, code among it, discards the chunk; on a line where it recurs, cause 0x11 is raised at the
consuming head (R376). A frame or return chunk is such a chunk. -/
def State.dataCheck (s : State) (tid : Nat) (va : Word) : State :=
  match s.thread tid with
  | some t =>
    if !s.ready tid && !s.fetching tid t then s
    else
      match t.micro with
      | some f => microStop s tid t f 0x11 va
      | none =>
        let line := va.toNat / 64
        if t.checked.contains line then headFault s tid t (t.current s) 0x11 va
        else
          let s := s.reportCheck tid t va
          match t.executing with
          | some c => (s.dropUnits tid [c]).setThread tid { t.rewind t.older.length with checked := t.checked ++ [line] }
          | none => s.setThread tid { t with checked := t.checked ++ [line] }
  | none => s

/-- A parity error in what the i-th chunk of a thread holds: the chunk re-executes, and nothing is told of it (R376, R437). -/
def State.parityCheck (s : State) (tid i : Nat) : State :=
  match s.thread tid with
  | some t =>
    match t.chunks[i]? with
    | some c => if c.ungranted then (s.dropUnits tid (t.chunks.drop i)).setThread tid (t.rewind i) else s
    | none => s
  | none => s

/-- MACHINE_CHECK: 0 an uncorrectable error in data at a virtual address; 1 a parity error in the chunk of that index; else an error that
ECC has corrected, which freezes the recorders alone (R376, R393, R437). -/
def machineCheck (s : State) (tid : Nat) (va : Word) (kind : Nat) : State :=
  match kind with
  | 0 => s.dataCheck tid va
  | 1 => s.parityCheck tid va.toNat
  | _ => s.askFreeze (s.partOf (dieOf (coreOf tid))) 1

/-! ### Meanings -/

/-- ISSUE (R71). -/
def execIssue (core : Nat) (turn : IssueTurn) (s : State) : Host.Outcome State Fault Refusal := .next (issue s core turn.cut turn.late)
/-- LINE_ARRIVAL (R73). -/
def execLineArrival (tid : Nat) (cached : Bool) (s : State) : Host.Outcome State Fault Refusal := .next (lineArrival s tid cached)
/-- PAGE_WALK_END (R139). -/
def execPageWalkEnd (cluster i : Nat) (s : State) : Host.Outcome State Fault Refusal := .next (pageWalkEnd s cluster i)
/-- WAITA_EVALUATION (R126). -/
def execWaitaEvaluation (tid : Nat) (s : State) : Host.Outcome State Fault Refusal := .next (waitaEvaluation s tid)
/-- POLL_INTERVAL (R126). -/
def execPollInterval (tid : Nat) (s : State) : Host.Outcome State Fault Refusal := .next (pollInterval s tid)
/-- SFU_RESULT (R217). -/
def execSfuResult (core : Nat) (s : State) : Host.Outcome State Fault Refusal := .next (sfuResult s core)
/-- WATCHDOG (R129). -/
def execWatchdog (tid : Nat) (s : State) : Host.Outcome State Fault Refusal := .next (watchdog s tid)
/-- PRECISE_REEXECUTION (R366). -/
def execPreciseReexecution (tid : Nat) (s : State) : Host.Outcome State Fault Refusal := .next (preciseReexecution s tid)
/-- TRAP_DELIVERY (R367). -/
def execTrapDelivery (tid : Nat) (s : State) : Host.Outcome State Fault Refusal := .next (trapDelivery s tid)
/-- PAGE_FAULT_PARK (R372). -/
def execPageFaultPark (tid : Nat) (s : State) : Host.Outcome State Fault Refusal := .next (pageFaultPark s tid)
/-- MACHINE_CHECK (R376). -/
def execMachineCheck (tid : Nat) (site : ErrorSite) (s : State) : Host.Outcome State Fault Refusal :=
  .next (machineCheck s tid site.va site.kind)

end Sys2Proof.Machine
end

