-- ==== Sys2Proof/Machine/Grant.lean ====
section
/-!
DEFINITION. Sys2Proof/Machine/Grant.lean: how a chunk commits: its request, its grant and what leaves with it, deterministic
turns, the delivery of signatures, far atomics, drains and the acknowledgement (R103, R111-R122, R145, R158, R171-R182, R256,
R264, R366, R393-R395, R406).
-/

namespace Sys2Proof.Machine

/-! ### Requests (R103, R111, R315) -/

/-- The arbiters grant a chunk of a crew: none once it is to stop, but for frame and return chunks, and the turns of a
deterministic crew that one of these, or an exchange phase, still waits for (R359, R381, R383). -/
def State.mayGrant (s : State) (t : Thread) (c : Chunk) : Bool :=
  (s.crew t.crew).any fun w => w.stopped.isNone && (w.stopping.isNone || c.isMicro || s.turnsOn w)

/-- A refusal of a chunk at count k: the prefix commits first, if there is one; the instruction itself faults as the first of
a chunk (R366). A frame chunk unwinds (R379). -/
def State.refuse (s : State) (tid : Nat) (t : Thread) (c : Chunk) (k cause : Nat) (tval : Word) : State :=
  match c.fin with
  | .frame i e => microFault (s.dropUnits tid t.chunks) tid { t.rewind 0 with micro := none } (.gate i e) cause tval
  | _ =>
    if k = 0 then takeTrap (s.dropUnits tid t.chunks) tid (t.rewind 0) cause tval
    else s.setThread tid { t with chunks := { c with stage := .ended } :: t.chunks.drop 1, pending := some (.precise k) }

/-- The instructions before the n-th task message of a chunk. -/
def Chunk.messageAt (c : Chunk) (n : Nat) : Nat :=
  (((c.effects.zip c.epos).filter fun e => match e.1 with
    | .task _ => true
    | _ => false)[n]?.map Prod.snd).getD 0

/-- The chunk is a DISCARD, which asks the package arbiter for its grant (R158). -/
def Chunk.discards (c : Chunk) : Bool := c.effects.any fun e => match e with
  | .discard _ => true
  | _ => false

/-- The arbiter of a chunk: cluster, die or package, by the widest scope among its lines (R112). -/
def State.arbiter (s : State) (core : Nat) (c : Chunk) : Nat × Nat :=
  match if c.discards then 2 else s.widest c.lines with
  | 0 => (0, clusterOf core)
  | 1 => (1, dieOf core)
  | _ => (2, 0)

/-- The fret of a chunk's arbiter (R112, R333). -/
def State.arbiterOf (s : State) (core : Nat) (c : Chunk) : Nat :=
  match s.arbiter core c with
  | (0, _) => coreFret core
  | (1, d) => arbiterFret d
  | _ => arbiterFret 0

/-- A thread's request is on its way to its arbiter (R336). -/
def State.requestOut (s : State) (tid : Nat) : Bool := s.net.any fun e => decide (e.2.load = .request tid) && e.2.out

/-- An ended chunk requests commit: its predecessor is acknowledged, its fills, its SFU entries and its loom commands are done
and its task messages have their places (R103, R111, R256, R315); in deterministic mode those are looked for at its turn (R316). -/
def commitRequest (s : State) (tid : Nat) : State :=
  match s.thread tid with
  | none => s
  | some t =>
    match t.chunks with
    | [] => s
    | c :: rest =>
      let core := s.core (coreOf tid)
      if decide (c.stage = .ended) && !t.refused && s.mayGrant t c && (!rest.isEmpty || !core.busy tid)
          && !(core.fills.any fun f => c.lines.contains f.line) then
        match if t.arch.det then none else s.refusedMsg [] c.messages with
        | none => (s.setThread tid { t with chunks := { c with stage := .requested } :: rest }).send clsCommit (coreFret (coreOf tid))
            (s.arbiterOf (coreOf tid) c) (coreOf tid) (.request tid)
        | some m => s.refuse tid t c (c.messageAt m.1) 0x0C (s.inboxVal tid m.2)
      else s

/-! ### Refusals at the grant (R182, R344, R366, R406) -/

/-- The stores of a chunk that another crew guards, a CAS among them before it compares; a DISCARD stands for its whole lines.
(DESIGN CHOICE: notes/assumptions/59.md.) -/
def State.guardRefusals (s : State) (p : Nat) (crew : Nat) (c : Chunk) : List (Nat × Nat × Word) :=
  let whole := c.effects.any fun e => match e with
    | .discard _ => true
    | _ => false
  (c.stores.filter fun e => if whole then (s.part p).guards.any fun g => decide (g.crew ≠ crew) && g.hasLine (lineOf e.2.1)
    else s.guarded p (some crew) e.2.1).map fun e => (e.1, 0x09, e.2.2)

/-- The BARDOMs of a chunk that change a domain at which a member sleeps. -/
def State.bardomRefusals (s : State) (crew : Nat) (c : Chunk) : List (Nat × Nat × Word) :=
  (c.effects.zip c.epos).filterMap fun e => match e.1 with
    | .bardom k d => if s.bardomRefused crew k d then some (e.2, 0x16, 6) else none
    | _ => none

/-- The first of some refusals in program order. -/
def firstRefusal : List (Nat × Nat × Word) → Option (Nat × Nat × Word)
  | [] => none
  | e :: l =>
    match firstRefusal l with
    | some f => if f.1 < e.1 then some f else some e
    | none => some e

/-- Why a chunk does not commit, if it does not. -/
def State.refusal (s : State) (p : Nat) (t : Thread) (c : Chunk) : Option (Nat × Nat × Word) :=
  firstRefusal (s.guardRefusals p t.crew c ++ ((s.mailRefusals p c).map fun e => (e.1, 0x18, e.2)) ++ s.bardomRefusals t.crew c)

/-! ### The order of grants (R112, R114, R117) -/

/-- The releases of a deterministic crew's round that stand before its turn 0 (R342); none is made of a crew that is to stop (R359). -/
def Crew.releaseDue (w : Crew) : Bool := w.stopping.isNone && decide (w.turn = 0) && w.releaseAt.any fun e => decide (e.2 ≤ w.round)

/-- Task messages of a crew's last commits are still to be applied (R316). -/
def State.messagesOut (s : State) (w : Crew) : Bool :=
  s.commits.any fun m => decide (0 < m.msgs) && m.tid.any fun x => w.members.any fun e => decide (e.2 = x)

/-- The turns of a deterministic crew go on: the task messages of the turn before are applied (R316), and where it is to stop, a frame or
return chunk or an exchange phase is out (R359, R381). -/
def State.turnOpen (s : State) (w : Crew) : Bool :=
  w.det && w.stopped.isNone && !s.messagesOut w && (w.stopping.isNone || s.turnsOn w)

/-- A request that its arbiter has and could grant now: of a deterministic crew only that of the turn (R119), and none that touches a word
on which an SPOST still waits (R178). -/
def State.grantable (s : State) (tid : Nat) (t : Thread) (c : Chunk) : Bool :=
  s.mayGrant t c && !s.postHeld none c.dwords && !s.requestOut tid &&
    (s.crew t.crew).all fun w => !w.det || (s.turnOpen w && !w.releaseDue && decide (assocGet? w.turn w.members = some tid))

/-- One request comes before another at their arbiter (R117): aged ones first, then the older, then by VCN and thread. -/
def earlier (c : Chunk) (tid : Nat) (d : Chunk) (tid' : Nat) : Bool :=
  if c.aged ≠ d.aged then c.aged
  else if c.born ≠ d.born then decide (c.born < d.born)
  else decide (tid < tid')

/-- No other request at the chunk's arbiter in its partition comes first. -/
def State.isFirst (s : State) (tid : Nat) (t : Thread) (c : Chunk) : Bool :=
  s.threads.all fun e => decide (e.1 = tid) || decide (crewPart e.2.crew ≠ crewPart t.crew) ||
    (match e.2.waiting with
      | some d => !s.grantable e.1 e.2 d || decide (s.arbiter (coreOf e.1) d ≠ s.arbiter (coreOf tid) c) || earlier c tid d e.1
      | none => true)

/-- A granted commit whose delivery to the core is not confirmed meets the chunk (R114, R172), or one whose message is still to be placed
in an inbox that the chunk has read (R328). -/
def State.undelivered (s : State) (core : Nat) (p : Nat) (c : Chunk) : Bool :=
  (s.commits.any fun m => decide (m.part = p) && m.cores.contains core && sigMeet m.sig (c.rsig ||| c.wsig)) ||
    s.net.any fun e => match e.2.load with
      | .task q _ _ (.send d _ _ _ _) => decide (q = p) && e.2.out && sigMeet (sigOf (lineOf (inboxPa d))) c.rsig
      | _ => false

/-! ### Squashes that a grant brings about -/

/-- The ungranted chunks of some threads that satisfy a condition are squashed, with the later ones. -/
def State.squashWhere (s : State) (who : Nat → Thread → Bool) (what : Chunk → Bool) : State :=
  s.threads.foldl (fun s e =>
    match s.thread e.1 with
    | some t =>
      if who e.1 t then
        match t.chunks.findIdx? fun c => c.ungranted && what c with
        | some i => s.squash e.1 i
        | none => s
      else s
    | none => s) s

/-- A change of a bank squashes every in-flight chunk of the cluster that has accessed the window (R145). -/
def State.squashWindow (s : State) (cl : Nat) : State :=
  s.squashWhere (fun tid _ => decide (clusterOf (coreOf tid) = cl)) Chunk.window

/-! ### Recorders and samples (R393-R395) -/

/-- Halfwords as bytes. -/
def halfBytes (l : List Nat) : List Byte := l.flatMap fun h => bytesOf 2 h

/-- A record of a sample buffer with its check: the sum of all halfwords is 0 modulo 2^16 (R394). -/
def sampleRecord (kind : Nat) (payload : List Nat) : List Nat :=
  let body := [0xA5C3, payload.length + 4, kind] ++ payload
  body ++ [(65536 - body.sum % 65536) % 65536]

/-- Bytes written at once, outside commit order, at a buffer's place. -/
def State.sampleWrite (s : State) (p : Nat) (pa : Nat) (l : List Nat) : State :=
  if regionOf pa = 1 then s.sendWrites none none p (s.part p).commitNo 0 (runCells pa (halfBytes l))
  else s.putCells (runCells pa (halfBytes l))

/-- A record written to a core's buffer, behind a wrap marker where it would pass the end (R394). -/
def State.sample (s : State) (p core kind : Nat) (payload : List Nat) : State :=
  let c := s.core core
  let r := sampleRecord kind payload
  let n := 2 * r.length
  let size := field c.sampCtl 0 32
  if !c.sampCtl.getLsbD 63 || c.sampDone then s
  else if c.sampPos + n ≤ size then
    (s.sampleWrite p (c.sampBase.toNat + c.sampPos) r).setCore core { c with sampPos := c.sampPos + n }
  else
    let s := if c.sampPos + 6 ≤ size then s.sampleWrite p (c.sampBase.toNat + c.sampPos) [0xA5C3, 3, 0x5A3A] else s
    if c.sampCtl.getLsbD 62 ∧ n ≤ size then
      (s.sampleWrite p c.sampBase.toNat r).setCore core { c with sampPos := n }
    else s.setCore core { c with sampDone := true }

/-! ### Snapshots (R388) -/

/-- A physical address is of a partition's memory. -/
def State.inPart (s : State) (p pa : Nat) : Bool := decide (homeDie pa < 8) && decide (s.partOf (homeDie pa) = p)

/-- A thread as of its last commit: what has not been granted is dropped. -/
def Thread.settled (t : Thread) : Thread :=
  match t.chunks.findIdx? Chunk.ungranted with
  | some i => t.rewind i
  | none => t

/-- A core as of its threads' last commits: the entries of the SFU and of the loom's queue and the drains of ungranted chunks are
dropped with those (R218, R256). -/
def Core.settled (c : Core) : Core := { c with sfu := [], loom := [], drains := c.drains.filter fun d => d.committed }

/-- An episode as of a time, its clocks counted from there (R423). -/
def Bench.frozenAt (e : Bench) (now : Nat) : Bench := { e.tick now with started := now - e.started, seen := 0 }

/-- What a snapshot captures of a partition. (DESIGN CHOICE: notes/assumptions/29.md.) -/
def State.capture (s : State) (p cut : Nat) : SnapImage where
  part := p
  cut := cut
  ok := false
  mem := s.mem.filter fun c => s.inPart p c.1
  dirty := s.dirty.filter fun c => s.inPart p (c.1 * 64)
  clusters := s.clusters.filter fun e => s.partOf (e.1 / 100) = p
  partState := s.part p
  crews := s.crews.filter fun e => crewPart e.1 = p
  threads := (s.threads.filter fun e => crewPart e.2.crew = p).map fun e => (e.1, e.2.settled)
  cores := (s.cores.filter fun e => s.partOf (dieOf e.1) = p).map fun e => (e.1, e.2.settled)
  benches := (s.benches.filter fun e => s.benchPart e.1 = p).map fun e => (e.1, e.2.frozenAt s.time)
  reductions := s.reductions.filter fun r => crewPart r.crew = p
  contributions := s.contributions.filter fun c => s.inPart p c.block
  commits := s.commits.filter fun c => c.part = p
  fars := s.fars.filter fun f => f.part = p
  net := s.net.filter fun e => s.partOf (e.2.fret / dieFrets) = p
  links := s.links.filter fun e => e.2.part = p

/-- SNAP's commit: unless a snapshot runs, its number is the cut, as of which everything is captured. -/
def State.startSnap (s : State) (tid p no : Nat) (desc : List Word) : State :=
  if s.snapping.isSome then s
  else { s with snapping := some (p, { cut := no, tid, desc }), snaps := s.snaps ++ [s.capture p no] }

/-! ### Page-fault denials and invalidations (R373, R375) -/

/-- A denial: the parked thread that the value names re-executes and meets its fault (R373). -/
def State.denyFault (s : State) (p : Nat) (v : Word) : State :=
  match if v.toNat / 2 ^ 22 ≠ 0 ∨ field v 19 3 ≠ p then none else s.threadOfVcn v.toNat with
  | none => s
  | some tid =>
    match s.thread tid with
    | some t =>
      match t.run with
      | .parked _ va => s.setThread tid { t with run := .running, denied := some va }
      | _ => s
    | none => s

/-- An invalidation begins (R375). -/
def State.invalidate (s : State) (p k : Nat) (va : Word) (guild : BitVec 16) (tid : Option Nat) (no : Nat) : State :=
  s.setPart p { s.part p with invals := (s.part p).invals ++ [{ k, va, guild, tid, no }] }

/-! ### What leaves with a commit -/

/-- The core to which a task message goes. -/
def TaskMsg.dest (m : TaskMsg) (core : Nat) : Nat :=
  match m with
  | .push c _ => c
  | .cntSet c _ _ _ => c
  | .cntClr c _ => c
  | .dec c _ _ => c
  | .send d _ _ _ _ => coreOf d
  | .launch _ _ _ => core
  | .post _ _ => core

/-- A bank takes a mode and an owner (R146): it ends empty, and a scratch bank reads as zero. -/
def State.configBank (s : State) (cl b mode : Nat) (owner : BitVec 16) : State :=
  let k := s.bank cl b
  if k.mode = mode ∧ (mode = 0 ∨ k.owner = owner) then s
  else
    let lo := scratchPa cl b 0
    let s := { s with mem := s.mem.filter fun c => decide (c.1 < lo) || decide (lo + 2 ^ 16 ≤ c.1) }
    (s.setBank cl b { k with mode := mode, owner := if mode = 0 then 0 else owner, fifo := [], spares := Vector.replicate 4 0 }).squashWindow cl

/-- A line of HBM returns to its image in HBM (R158). -/
def State.discardLine (s : State) (line : Nat) : State :=
  match assocGet? line s.dirty with
  | some img => { s.writeRun (line * 64) (bytesOf 64 img.toNat) with dirty := assocDrop line s.dirty }
  | none => s

/-- Every cached copy of some lines is dropped, and a granted chunk's bytes of them are its thread's next chunk's view no longer, but for
those that are still to be sent beyond the edge (R158, R165). -/
def State.dropCopies (s : State) (lines : List Nat) : State :=
  let near := lines.filter fun l => !([1, 2].contains (regionOf (l * 64)))
  { s with cores := s.cores.map fun e => (e.1, { e.2 with l1 := e.2.l1.filter fun x => !lines.contains x.line })
           threads := s.threads.map fun e => (e.1, e.2.outdated
             ((near.filter fun l => !s.beyond (crewPart e.2.crew) (l * 64)).flatMap fun l => (List.range 64).map fun i => l * 64 + i)) }

/-- An operation on a FIFO bank takes effect (R149). -/
def Bank.fifoOp (k : Bank) (op : FifoOp) : Bank :=
  match op with
  | .push w => { k with fifo := k.fifo ++ [w] }
  | .pop => { k with fifo := k.fifo.tail }
  | .peek => k

/-- A code line leaves a core's instruction cache and its cluster's line cache, and at their next entry the fetch buffers of its slots,
for an entry runs from one image (R41, R390). -/
def State.flushCode (s : State) (p core line : Nat) : State :=
  let s := s.setCore core { s.core core with icache := assocDrop line (s.core core).icache }
  let cl := clusterOf core
  let s := s.setCluster cl { s.cluster cl with icache := assocDrop line (s.cluster cl).icache }
  s.outdate p core line none

/-- A code line leaves the line caches of a partition's clusters (R390). -/
def State.flushClusters (s : State) (p line : Nat) : State :=
  { s with clusters := s.clusters.map fun e =>
      if s.partOf (e.1 / 100) = p then (e.1, { e.2 with icache := assocDrop line e.2.icache }) else e }

/-- The cores of a partition that hold anything. -/
def State.coresOf (s : State) (p : Nat) : List Nat :=
  ((s.cores.map Prod.fst) ++ s.threads.map fun e => coreOf e.1).dedup.filter fun c => s.partOf (dieOf c) = p

/-- CSTAT's word with FAIL as it stands (R288). -/
def failWord (v : Word) (fail : Bool) : Word := setField v 27 1 fail.toNat

/-- One effect of a commit is released. A block that already has an instance open may get another, where a program has rewritten its STATE
(R291). (DESIGN CHOICE: notes/assumptions/40.md.) -/
def State.release (s : State) (tid p no crew : Nat) (e : Effect) : State :=
  let core := coreOf tid
  let onThread := fun f : Thread → Thread => match s.thread tid with
    | some t => s.setThread tid (f t)
    | none => s
  match e with
  | .task m =>
    let s := onThread fun t => { t with msent := t.msent + 1 }
    s.send clsBulk (coreFret core) (coreFret (m.dest core)) (m.dest core) (match m with
      | .dec c i d => .dec crew c i d p no
      | _ => .task p no crew m)
  | .copy c =>
    let k := s.core core
    let e : EngEntry := { id := s.nextId, cmd := c, done := [], asked := [], reads := [], unacked := 0, status := .done, value := 0, sent := false }
    { s.setCore core { k with engine := k.engine ++ [e] } with nextId := s.nextId + 1 }
  | .panel q op => s.leavePanel tid q op
  | .drain id =>
    let k := s.core core
    s.setCore core { k with drains := k.drains.map fun d => if d.id = id ∧ d.tid = tid then { d with committed := true } else d }
  | .matrixSeen => onThread fun t => { t with owned := false, guard := false }
  | .failSeen d => onThread fun t => { t with fail := false, arch := t.arch.setX d (failWord (t.arch.getX d) t.fail) }
  | .rdset block words target record =>
    { s with reductions := s.reductions ++ [{ block, crew, tid, guild := ((s.thread tid).map fun t => t.arch.guild).getD 0,
                                                waits := decide (openMax ≤ s.openOn (homeDie block)), words, target, record,
                                                opened := s.time, arrived := [], nodes := [] }] }
  | .guardAdd g =>
    (s.setPart p { s.part p with guards := (s.part p).guards ++ [g] }).squashWhere
      (fun _ t => decide (crewPart t.crew = p) && decide (t.crew ≠ crew)) fun c => c.stores.any fun x => g.hasLine (lineOf x.2.1)
  | .guardDel g => s.setPart p { s.part p with guards := guardDrop g (s.part p).guards }
  | .bank b mode owner => s.configBank (clusterOf core) b mode owner
  | .discard lines => ((lines.foldl State.discardLine s).dropCopies lines).squashWhere (fun x _ => decide (x ≠ tid))
      fun c => lines.any fun l => c.lines.contains l
  | .clean lines => { s with dirty := s.dirty.filter fun d => !lines.contains d.1 }
  | .bardom k d => s.defineDomain crew k d
  | .pfdeny v => s.denyFault p v
  | .tlbinv k va guild => s.invalidate p k va guild (some tid) no
  | .iflush all line => if all then (s.coresOf p).foldl (fun s c => s.flushCode p c line) (s.flushClusters p line) else s.flushCode p core line
  | .freeze on all =>
    let s := s.setFrozen p core all on
    if on then s.report p none 7 5 0 0 0 0 0 else s
  | .mark n =>
    let v := s.vcnReg tid
    s.sample p core 1 ([n, v % 65536, v / 65536] ++ ((List.range 4).map fun k => s.time / 2 ^ (16 * k) % 65536) ++
      (List.range 4).map fun k => no / 2 ^ (16 * k) % 65536)
  | .snap _ desc => s.startSnap tid p no desc
  | .fifo b op => s.setBank (clusterOf core) b ((s.bank (clusterOf core) b).fifoOp op)
  | .recv => s.removeMessages tid 1

/-- How the end of a chunk goes on at its commit (R127, R341, R346, R357, R379, R380, R386). -/
def Thread.finish (t : Thread) (now : Nat) (f : Finish) : Thread :=
  match f with
  | .exit => t.taskDone now
  | .bar d => { t with run := .bar d none }
  | .sstep d rs => { t.taskDone now with run := .bar d (some rs) }
  | .xend => { t with run := .xend }
  | .gate i e => { t with micro := some (.gate i e) }
  | .gret fail => { t with micro := some (.gret fail) }
  | _ => t

/-! ### The grant (R114) -/

/-- The new word of a value-returning atomic, where it writes one (R177, R179). -/
def AtomOp.newWord (op : AtomOp) (n w : Nat) : Option Nat :=
  match op with
  | .add v => some ((w + v.toNat) % 2 ^ (8 * n))
  | .swap v => some (v.toNat % 2 ^ (8 * n))
  | .cas old new => if w = old.toNat then some (new.toNat % 2 ^ (8 * n)) else none
  | .take c => some ((w - c.toNat) % 2 ^ (8 * n))

/-- What a value-returning atomic inside the package writes. -/
def State.atomCells (s : State) (p : Nat) (c : Chunk) : List Host.Cell :=
  match c.atom with
  | some a =>
    if s.beyond p a.pa then []
    else match a.op.newWord a.n (s.readVal a.pa a.n) with
      | some v => runCells a.pa (bytesOf a.n v)
      | none => []
  | none => []

/-- The bytes that a commit performs inside the package, but for VERSION's, and for banks' where their order matters. (DEDUCED: notes/assumptions/22.md.) -/
def State.nearCells (s : State) (p : Nat) (c : Chunk) : List Host.Cell :=
  (c.buf.filter fun x => !s.beyond p x.1 && decide (mailWord x.1 ≠ some .version) && (decide (c.banked = []) || decide (regionOf x.1 ≠ 0x1F)))
    ++ s.atomCells p c

/-- The lines that a commit writes: those of its bytes and far atomics, and the control lines of its plain part. -/
def State.writtenLines (s : State) (p : Nat) (c : Chunk) : List Nat :=
  ((cellLines (c.buf.filter fun x => !s.beyond p x.1)) ++ cellLines (s.atomCells p c)
    ++ ((c.fars.filter fun f => !s.beyond p f.pa).map fun f => lineOf f.pa)
    ++ c.lines.filter fun l => (decide (regionOf (l * 64) = 0x1E) || isControl (l * 64)) &&
        decide (sigOf (sigLine p (l * 64)) &&& c.wsig = sigOf (sigLine p (l * 64)))).dedup

/-- The value that a chunk's commit leaves in VERSION, where it writes it (R411). -/
def State.nextVersion (s : State) (p : Nat) (c : Chunk) : Option Nat :=
  if c.mailWords.contains .version then some (s.wordAfter c.buf (versionPa p)).toNat else none

/-- The reply of a value-returning atomic that the home performs at the grant; one beyond the edge is sent over its link. -/
def State.performAtom (s : State) (before : State) (tid p no : Nat) (t : Thread) (c : Chunk) : State :=
  match c.atom with
  | none => s
  | some a =>
    if s.beyond p a.pa then s.sendLink (.read tid a.pa a.n a.va (some a.op)) (some t.crew) p no t.arch.guild
    else match s.thread tid with
      | some t => s.setThread tid { t with replies := [(a.pa, bytesOf a.n (before.readVal a.pa a.n))] }
      | none => s

/-- What of a bank squashes the chunks that have used the window when a commit changes it (R145). -/
def Bank.setting (b : Bank) : Nat × BitVec 16 × Vector Word 4 × Word := (b.mode, b.owner, b.repair, b.inj)

/-- A cluster's settings of its banks. -/
def Cluster.settings (c : Cluster) : List (Nat × BitVec 16 × Vector Word 4 × Word) :=
  (List.range 16).map fun b => (assocGetD b Bank.reset c.banks).setting

/-- The grant of a chunk (R114), once the far atomics of lower commits on its words are applied (R116): its number; its bytes at their homes; its signature on its way; its far atomics and its other
effects released; and what follows the commit at once. -/
def State.grant (s : State) (tid : Nat) (t : Thread) (c : Chunk) : State :=
  let s := s.settled c.dwords
  let p := crewPart t.crew
  let no := (s.part p).commitNo + 1
  let cells := s.nearCells p c
  let lines := s.writtenLines p c
  let fars := c.fars.filter fun f => !s.beyond p f.pa
  let cl := clusterOf (coreOf tid)
  let before := s
  let t := { t with chunks := { c with stage := .granted no } :: t.chunks.drop 1 }
  let s := (s.setThread tid (t.finish s.time c.fin)).nameCaller t.crew no c
  let s := (c.banked.foldl State.putBanked (s.putCells cells)).outdateOthers (some tid) (c.buf.map Prod.fst ++ cells.map Prod.fst)
  let s := s.newCommit p (some tid) c.writes lines fars.length (messageCount c.effects) 0
  let s := s.askHost p lines
  let s := s.setPart p { s.part p with version := (before.nextVersion p c).or (s.part p).version }
  let s : State := { s with due := s.due ++ before.mailEvents p c, fars := s.fars ++ fars.map fun f => (⟨p, no, tid, f⟩ : FarPending) }
  let s : State := s.performAtom before tid p no t c
  let s := if (s.cluster cl).settings = (before.cluster cl).settings then s else s.squashWindow cl
  let s := c.effects.foldl (fun s e => s.release tid p no t.crew e) s
  let s := s.record (coreOf tid) 1 (slotOf tid) 0 no
  if c.fin = .halt then s.stopCrew t.crew 0 (some t.l) else s

/-- A request at its arbiter: refused and squashed where it meets a commit still to be delivered to it or an older aged chunk,
refused where a check of the commit fails, else granted (R114, R117, R182, R366, R406). -/
def State.arbitrate (s : State) (tid : Nat) (t : Thread) (c : Chunk) : State :=
  let p := crewPart t.crew
  if s.undelivered (coreOf tid) p c || s.agedMeets p c.born tid c.writes then s.squash tid 0
  else
    match s.refusal p t c with
    | some (k, cause, v) => s.refuse tid t c k cause v
    | none => s.grant tid t c

/-- An arbiter grants a request of a dynamic crew (R114, R117). -/
def commitGrant (s : State) (tid : Nat) : State :=
  match s.thread tid with
  | none => s
  | some t =>
    match t.waiting with
    | some c =>
      if s.grantable tid t c && !((s.crew t.crew).any Crew.det) && s.isFirst tid t c then s.arbitrate tid t c else s
    | none => s

/-! ### Deterministic turns (R119-R122, R316, R342, R358) -/

/-- The round in which each barrier, and each start join, whose last member arrived at the turn before is released: the one after that
turn's (R342). -/
def State.noteArrivals (s : State) (crew : Nat) : State :=
  (List.range 16).foldl (fun s k =>
    match s.crew crew with
    | none => s
    | some w =>
      let at' := if w.turn = 0 then w.round else w.round + 1
      let note := fun (w : Crew) (key : Nat) (b : Bool) =>
        if b ∧ assocGet? key w.releaseAt = none then { w with releaseAt := assocSet key at' w.releaseAt } else w
      let w1 := note w (barKey k) (s.allArrived w k)
      s.setCrew crew (note w1 (joinKey k) (!(w.phases.any fun q => decide (q.dom = k)) && match s.joined w k with
        | some (_ :: _) => true
        | _ => false))) s

/-- The turn passes to the next member (R119). -/
def State.nextTurn (s : State) (crew : Nat) : State :=
  match s.crew crew with
  | none => s
  | some w =>
    if w.turn + 1 < w.members.length then s.setCrew crew { w with turn := w.turn + 1, spent := false }
    else s.setCrew crew { w with turn := 0, round := w.round + 1, spent := false }

/-- A released SSTEP's records are pushed at its member's turn (R346). -/
def State.pushRoutines (s : State) (tid : Nat) (t : Thread) (rs : List TaskRec) : State :=
  State.releaseMember.pushAll (s.setThread tid { t with run := .none, sweep := 0 }) tid t.crew rs.reverse

/-- A member with no task pops at its turn, or passes an empty one (R120, R316). -/
def State.popTurn (s : State) (tid crew : Nat) : State := ((s.popTask tid).getD s).nextTurn crew

/-- A thread has met a fault that waits for older chunks or for its turn (R366). -/
def Thread.faulted (t : Thread) : Bool :=
  match t.pending with
  | some (.trap _ _) => true
  | _ => false

/-- The chunk is the prefix of a fault, all of it (R366 step 5). -/
def Chunk.isPrefix (c : Chunk) : Bool := c.prec && decide (c.fin = .cut) && decide (c.limit ≤ c.count)

/-- The turn of a member whose oldest chunk has ended: once it requests its grant, it is granted or refused. After the prefix of a fault
the head itself executes in the same turn (R366). -/
def State.grantTurn (s : State) (crew : Nat) (w : Crew) (tid : Nat) (t : Thread) (c : Chunk) : State :=
  if c.stage = .requested ∧ s.grantable tid t c ∧ s.isFirst tid t c then
    match s.refusedMsg [] c.messages with
    | some m => s.refuse tid t c (c.messageAt m.1) 0x0C (s.inboxVal tid m.2)
    | none =>
      let s := s.arbitrate tid t c
      match s.thread tid with
      | some u =>
        match u.chunks.head?.map Chunk.stage with
        | some (.granted _) =>
          if c.isPrefix then
            (s.setThread tid { u with pending := some .turn }).setCrew crew { (s.crew crew).getD w with spent := true }
          else s.nextTurn crew
        | _ => s
      | none => s
  else s

/-- A fault met off its thread's turn is looked at again at it, with no older chunk in flight (R119, R366): behind k instructions the
chunk re-executes up to there, unless an earlier turn's commit squashes it; the first head of a chunk executes again. -/
def State.faultTurn (s : State) (tid : Nat) (t : Thread) : State :=
  match t.executing with
  | some c =>
    if s.undelivered (coreOf tid) (crewPart t.crew) c then s.squash tid 0
    else (s.dropUnits tid [c]).setThread tid { t.rewind 0 with precise := some c.count }
  | none => s.setThread tid { t with pending := some .turn }

/-- The turn of a member with no chunk to grant (R119, R120). A wait on a word that no directory watches is evaluated at it, by executing
its head, which passes the turn where the condition does not hold (R126). -/
def State.waitTurn (s : State) (crew : Nat) (w : Crew) (tid : Nat) (t : Thread) : State :=
  match t.run with
  | .none => if t.chunks.isEmpty then s.popTurn tid crew else s
  | .idle _ => s.popTurn tid crew
  | .pushing rs => if t.chunks.isEmpty then (s.pushRoutines tid t rs).popTurn tid crew else s
  | .bar _ _ => s.nextTurn crew
  | .xend => s.nextTurn crew
  | .captured r _ _ => if r ≤ w.round then s.exchangeTurn tid else s.nextTurn crew
  | .watch x _ =>
    if x.polls then s.setThread tid { t with run := .running, pending := some .turn }
    else if s.postHeld none (runDwords x.pa x.n) then s
    else if waitHolds x.cond x.n (s.settledVal x.pa x.n) x.c.toNat then s.setThread tid { t with run := .running }
    else s.nextTurn crew
  | _ => if t.faulted && t.older = [] then s.faultTurn tid t else s

/-- A member's turn (R119, R120): its oldest chunk, ended and not granted, goes first, whatever the thread waits for behind it. A head that
has met a fault executes again at the turn, which goes on with what follows; after a prefix it executes in the prefix's turn, which
passes once it has (R366). (DEDUCED: notes/assumptions/15.md.) -/
def State.takeTurn (s : State) (crew : Nat) (w : Crew) (tid : Nat) (t : Thread) : State :=
  if w.spent then (if t.pending = some .turn then s else s.nextTurn crew)
  else
    match t.chunks.head?.filter fun c => c.ungranted && decide (c.stage ≠ .executing) with
    | some c => s.grantTurn crew w tid t c
    | none => s.waitTurn crew w tid t

/-- The turn of a deterministic crew is taken, once the task messages of the turn before and the releases of its round are done (R119,
R316, R342). -/
def deterministicTurn (s : State) (crew : Nat) : State :=
  match s.crew crew with
  | none => s
  | some w =>
    if !s.turnOpen w then s
    else
      let s := if w.stopping.isSome then s else s.noteArrivals crew
      match s.crew crew with
      | none => s
      | some w =>
        if w.releaseDue then s
        else
          match assocGet? w.turn w.members with
          | some tid =>
            match s.thread tid with
            | some t => s.takeTurn crew w tid t
            | none => s
          | none => s

/-! ### Delivery and far atomics (R114, R115, R171, R178) -/

/-- A commit that waits for nothing more and that no thread waits for is forgotten. -/
def Commit.over (c : Commit) : Bool := c.tid.isNone && c.cores.isEmpty

/-- A signature reaches a holder (R114 step 2). -/
def signatureDelivery (s : State) (pkt : Nat) : State :=
  match s.arrivedPacket pkt with
  | some k =>
    match k.load with
    | .sig p no =>
      let s := s.takePacket pkt
      let done := fun s : State => { s with commits := (s.commits.map fun c : Commit =>
        if c.part = p ∧ c.no = no then { c with cores := c.cores.filter fun x => x ≠ k.dest } else c).filter fun c : Commit => !c.over }
      match s.commits.find? fun c => decide (c.part = p) && decide (c.no = no) && c.cores.contains k.dest with
      | some c => done (s.deliver c k.dest)
      | none => s
    | _ => s
  | none => s

/-- A home applies a released far atomic: those of lower commits on the word come first, and of its own chunk those before it
(R171). -/
def farAtomicApply (s : State) (i : Nat) : State :=
  match s.fars[i]? with
  | none => s
  | some f => if s.farFirst i f && s.farReady f && !s.homeHeld (lineOf f.far.pa) then s.performFar i f else s

/-- Drained rows are written as an engine chunk: those in the 4 KiB block of destination addresses with index j of the
committed drain at place i; a guarded chunk ends the drain (R264, R265). -/
def drainWrite (s : State) (core i j : Nat) : State :=
  let c := s.core core
  match c.drains[i]? with
  | none => s
  | some d =>
    match (d.dwords.map fun x => x.1 / 4096).dedup[j]? with
    | none => s
    | some b =>
      if d.committed && (s.crew d.crew).any fun w => w.stopping.isNone then
        let now := d.dwords.filter fun x => x.1 / 4096 = b
        let rest := d.dwords.filter fun x => x.1 / 4096 ≠ b
        let cells := now.flatMap fun x => runCells x.2.1 (bytesOf 8 x.2.2)
        let p := crewPart d.crew
        let drop := fun s : State => s.setCore core { s.core core with drains := (s.core core).drains.filter fun e => e.id ≠ d.id }
        if cells.any fun x => s.guarded p (some d.crew) x.1 then
          match (drop s).thread d.tid with
          | some t => (drop s).setThread d.tid { t with guard := true }
          | none => drop s
        else if s.commitHeld p (some d.tid) cells then s
        else if s.hostHolds (cellLines cells) then s.askFirst p (cellLines cells)
        else
          let s := (s.unitWrite p d.crew d.guild cells).sendBulk core (cellLines cells)
          if rest.isEmpty then drop s
          else s.setCore core { s.core core with drains := (s.core core).drains.map fun e =>
            if e.id = d.id then { e with dwords := rest } else e }
      else s

/-- A slice writes a dirty line back towards HBM on its own account (R158), unless its stack takes no request (R432). -/
def writeBack (s : State) (line : Nat) : State :=
  if s.held 5 (homeDie (line * 64)) then s else { s with dirty := assocDrop line s.dirty }

/-! ### The acknowledgement (R114 steps 4 and 5) -/

/-- The panel queue takes the panel commands of a thread that it has room for (R248). -/
def State.claimAll (s : State) (tid : Nat) : Nat → State
  | 0 => s
  | n + 1 =>
    match (s.core (coreOf tid)).unclaimed tid with
    | some i => if (s.core (coreOf tid)).mayClaim i then (s.claimPanels (coreOf tid) i).claimAll tid n else s
    | none => s

/-- A link request carries writes of a thread. -/
def LinkReq.writesOf (r : LinkReq) (tid : Nat) : Bool :=
  match r.kind with
  | .write t _ _ => decide (t = some tid)
  | .add t _ _ _ => decide (t = tid)
  | _ => false

/-- A chunk's writes beyond the edge are sent (R165). -/
def State.sendOut (s : State) (tid crew p no : Nat) (g : BitVec 16) (c : Chunk) : State :=
  (s.farAdds p c).foldl (fun s f => s.sendLink (.add tid f.pa f.n f.v) (some crew) p no g)
    (s.sendWrites (some tid) (some crew) p no g (s.farCells p c))

/-- A chunk's SPOSTs beyond the edge wait for the thread's commands (R178). -/
def State.postsOut (s : State) (tid p : Nat) (c : Chunk) : Bool :=
  (s.farAdds p c).any fun f => decide (f.op = .post) && !s.postReady tid

/-- A write of the link to the host or to a peer. -/
def LinkReq.outward (r : LinkReq) : Bool :=
  match r.kind with
  | .write _ pa _ => decide (regionOf pa = 1 ∨ regionOf pa = 2)
  | .add _ pa _ _ => decide (regionOf pa = 1 ∨ regionOf pa = 2)
  | .read _ pa _ _ a => a.isSome && decide (regionOf pa = 1 ∨ regionOf pa = 2)
  | .payload _ _ _ cells => cells.any fun c => decide (regionOf c.1 = 1 ∨ regionOf c.1 = 2)
  | _ => false

/-- A write to region 0x01 or 0x02 numbered at or below a number has still to be performed at its destination (R165). -/
def State.outwardBelow (s : State) (p no : Nat) : Bool :=
  (s.links.any fun e => e.2.outward && decide (e.2.part = p) && decide (e.2.no ≤ no)) ||
  s.threads.any fun e => decide (crewPart e.2.crew = p) && e.2.chunks.any fun c => match c.stage with
    | .granted n => decide (n ≤ no) && (c.buf.any (fun x => decide (regionOf x.1 = 1 ∨ regionOf x.1 = 2)) ||
        c.fars.any fun f => decide (regionOf f.pa = 1 ∨ regionOf f.pa = 2))
    | _ => false

/-- A line beyond the edge still has a committed write that has not reached its destination (R159). -/
def State.lineOut (s : State) (line : Nat) : Bool :=
  s.linkWrites line || s.threads.any fun e => s.beyond (crewPart e.2.crew) (line * 64) &&
    e.2.chunks.any fun c => !c.ungranted && (c.buf.any (fun x => decide (lineOf x.1 = line)) ||
      c.fars.any fun f => decide (lineOf f.pa = line))

/-- What an effect still holds up the acknowledgement for (R159, R272, R295, R375). -/
def State.effectDone (s : State) (tid p no : Nat) (e : Effect) : Bool :=
  match e with
  | .copy _ => ((s.core (coreOf tid)).engine.drop (trackerSize + frontSize)).all fun x => x.cmd.tid ≠ tid
  | .rdset block _ _ _ =>
    s.reductions.all fun r => decide (r.block ≠ block) || decide (r.tid ≠ tid) || !r.waits
  | .tlbinv _ _ _ => (s.part p).invals.all fun x => decide (x.tid ≠ some tid) || decide (x.no ≠ no)
  | .clean lines => lines.all fun l => !s.lineOut l
  | _ => true

/-- The value that the acknowledgement of a chunk brings its thread's register: that of an atomic, or SNAP's cut. -/
def State.ackValue (s : State) (p no : Nat) (t : Thread) (c : Chunk) : Arch :=
  match c.atom with
  | some a => t.arch.setX a.d (BitVec.ofNat 64 (ofBytes ((replyOf t a.pa a.n).getD [])))
  | none =>
    c.effects.foldl (fun ar e => match e with
      | .snap d _ => ar.setX d (if s.snaps.any fun k => decide (k.part = p) && decide (k.cut = no) then BitVec.ofNat 64 no else 0)
      | _ => ar) t.arch

/-- The lines that a chunk holds become ordinary lines of its core's L1, but for lines of scratch and beyond the edge (R114 step 5). -/
def Core.keepLines (c : Core) (s : State) (p : Nat) (held : List (Nat × Nat × Nat)) : Core :=
  let l := held.filter fun h => !(decide (regionOf (h.2.1 * 64) = 0x1F) || s.beyond p (h.2.1 * 64))
  { c with l1 := (c.l1.filter fun x => !(l.any fun h => decide (h.2.1 = x.line))) ++ l.map fun h => ⟨h.2.1, h.1, h.2.2⟩ }

/-- The flags of an acknowledged chunk enter fps, in the checkpoint of the chunk that follows as in the live register (R55). -/
def Chunk.flagged (c : Chunk) (f : BitVec 5) : Chunk := { c with start := c.start.mergeFlags f }

/-- A granted chunk is acknowledged once everything it waits for is done; its lines become ordinary lines, its thread's
`commitno` takes its number, and its writes beyond the edge are sent, before the acknowledgement under HSYNC (R114, R160, R165). -/
def commitAcknowledgement (s0 : State) (tid : Nat) : State :=
  let s := s0.claimAll tid 16
  match s.thread tid with
  | none => s
  | some t =>
    match t.chunks with
    | [] => s
    | c :: rest =>
      match c.stage with
      | .granted no =>
        let p := crewPart t.crew
        let delivered := s.commits.any fun m => decide (m.part = p) && decide (m.no = no) && decide (m.tid = some tid) &&
          m.cores.isEmpty && decide (m.fars = 0) && decide (m.msgs = 0)
        let hosts := !s.hostOwes p no && !(cellLines c.buf).any s.homeHeld
        let replied := c.atom.all fun a => (replyOf t a.pa a.n).isSome
        if delivered && hosts && replied && ((s.core (coreOf tid)).unclaimed tid).isNone && !s.postsOut tid p c &&
            c.effects.all fun e => s.effectDone tid p no e
        then
          let s := s.sendOut tid t.crew p no t.arch.guild c
          let k := { c with buf := c.buf.filter fun x => !s.beyond p x.1, fars := c.fars.filter fun f => !s.beyond p f.pa }
          if c.fin = .hsync ∧ (s.setThread tid { t with chunks := k :: rest }).outwardBelow p no then
            s.setThread tid { t with chunks := k :: rest }
          else
            let a := (s.ackValue p no t c).mergeFlags c.flags
            let s := s.setCore (coreOf tid) ((s.core (coreOf tid)).keepLines s p c.held)
            { s.setThread tid { t with chunks := rest.map fun d => d.flagged c.flags, arch := a, commitno := no, replies := [], checked := [],
                                       limit := if t.squashes = 0 ∧ t.later = none then Config.maxChunk else t.limit } with
              commits := s.commits.filter fun m => !(decide (m.part = p) && decide (m.no = no) && decide (m.tid = some tid)) }
        else s
      | _ => s

/-! ### Meanings -/

/-- COMMIT_REQUEST (R111). -/
def execCommitRequest (tid : Nat) (s : State) : Host.Outcome State Fault Refusal := .next (commitRequest s tid)
/-- COMMIT_GRANT (R114). -/
def execCommitGrant (tid : Nat) (s : State) : Host.Outcome State Fault Refusal := .next (commitGrant s tid)
/-- DETERMINISTIC_TURN (R119). -/
def execDeterministicTurn (crew : Nat) (s : State) : Host.Outcome State Fault Refusal := .next (deterministicTurn s crew)
/-- SIGNATURE_DELIVERY (R114). -/
def execSignatureDelivery (pkt : Nat) (s : State) : Host.Outcome State Fault Refusal := .next (signatureDelivery s pkt)
/-- COMMIT_ACKNOWLEDGEMENT (R114). -/
def execCommitAcknowledgement (tid : Nat) (s : State) : Host.Outcome State Fault Refusal := .next (commitAcknowledgement s tid)
/-- FAR_ATOMIC_APPLY (R171). -/
def execFarAtomicApply (i : Nat) (s : State) : Host.Outcome State Fault Refusal := .next (farAtomicApply s i)
/-- DRAIN_WRITE (R264). -/
def execDrainWrite (core i j : Nat) (s : State) : Host.Outcome State Fault Refusal := .next (drainWrite s core i j)
/-- WRITE_BACK (R158). -/
def execWriteBack (line : Nat) (s : State) : Host.Outcome State Fault Refusal := .next (writeBack s line)

end Sys2Proof.Machine
end

