-- ==== Sys2Proof/Machine/Network.lean ====
section
/-!
DEFINITION. Sys2Proof/Machine/Network.lean: scopes, fills and probes, packets on the strings, recorders and event rings (R106, R110,
R112, R335-R339, R350, R374, R393).
-/

namespace Sys2Proof.Machine

/-! ### Scopes and eviction notices (R110, R112) -/

/-- A line's scope is widened to take in a core that waits to be served, once every holder has acknowledged it; the core is served and
is a holder from then on (R112). -/
def widenScope (s : State) (line core : Nat) : State :=
  match assocGet? line s.dir with
  | some d => if d.asking.contains core then s.register core line else s
  | none => s

/-- A thread's chunks in flight have touched a line, or it sleeps on the line (R110, R126, R300). -/
def Thread.touches (t : Thread) (line : Nat) : Bool :=
  (t.chunks.any fun c => c.lines.contains line) || (match t.run with
    | .watch w _ => decide (lineOf w.pa = line)
    | .reduction _ block _ _ _ => decide (lineOf block = line)
    | _ => false)

/-- A core may send its eviction notice for a line: its L1 has dropped it, and every chunk that touched it has ended or been squashed
(R110). The control lines stay with their holders. (DEDUCED: notes/assumptions/30.md.) -/
def State.mayNotice (s : State) (core line : Nat) : Bool :=
  !(s.core core).holdsLine line && decide (regionOf (line * 64) ≠ 0x1E) &&
    s.threads.all fun e => decide (coreOf e.1 ≠ core) || !e.2.touches line

/-- A core's eviction notice reaches a line's home: it is a holder no more, and the scope is that of the holders left (R110, R112). -/
def evictionNotice (s : State) (core line : Nat) : State :=
  match assocGet? line s.dir with
  | some d =>
    if s.mayNotice core line then
      let l := d.holders.erase core
      if l.isEmpty && d.asking.isEmpty then { s with dir := assocDrop line s.dir }
      else { s with dir := assocSet line { d with holders := l, scope := scopeOf l } s.dir }
    else s
  | none => s

/-! ### Fills and probes (R106, R339) -/

/-- One sequence number lies before another, modulo 256 (R339). -/
def seqBefore (a b : Nat) : Bool := decide (a % 256 ≠ b % 256) && decide ((b % 256 + 256 - a % 256) % 256 < 128)

/-- A probe of a line waits for a fill that its slice sent before it. -/
def Core.fillBefore (c : Core) (line q : Nat) : Bool :=
  c.fills.any fun f => decide (f.line = line) && f.seq.any fun n => seqBefore n q

/-- The probes held for a line are performed once no fill before them is pending. -/
def Core.heldProbes (c : Core) (line : Nat) : Core :=
  if c.probes.any fun p => decide (p.1 = line) && !c.fillBefore line p.2 then
    { c with l1 := c.l1.filter fun x => x.line ≠ line
             probes := c.probes.filter fun p => decide (p.1 ≠ line) || c.fillBefore line p.2 }
  else c

/-- The way of a set that a filled line takes: a free one, else that of a committed line; none where uncommitted lines hold every way
(R106, R107). (DESIGN CHOICE: notes/assumptions/48.md.) -/
def fillWay (s : State) (core set : Nat) : Option Nat :=
  let taken := waysTaken s core (core * 16 + 16) set
  let kept := (s.core core).l1.filter fun x => x.set = set
  match (List.range l1Ways).find? fun w => !taken.contains w && !(kept.any fun x => decide (x.way = w)) with
  | some w => some w
  | none => (kept.find? fun x => !taken.contains x.way).map L1Line.way

/-- A fill performed: the line stands in L1, if a way of its set takes it. -/
def State.performFill (s : State) (core : Nat) (f : Fill) : State :=
  let c := s.core core
  let c' := { c with fills := c.fills.erase f }
  s.setCore core (Core.heldProbes (match fillWay s core f.set with
    | some w => { c'.evictWay f.set w with l1 := (c'.evictWay f.set w).l1 ++ [⟨f.line, f.set, w⟩] }
    | none => c') f.line)

/-- A probe of a line that its slice sent a core before a fill is still under way. -/
def State.probeBefore (s : State) (core line q : Nat) : Bool :=
  s.net.any fun e => match e.2.load with
    | .probe l n => decide (l = line) && decide (e.2.dest = core) && e.2.out && seqBefore n q
    | _ => false

/-- A fill reaches a core's L1, which performs what concerns a line in sequence order (R339). -/
def fillReply (s : State) (pkt : Nat) : State :=
  match s.arrivedPacket pkt with
  | some k =>
    match k.load with
    | .fill line q =>
      if s.probeBefore k.dest line q then s
      else
        let s := s.takePacket pkt
        match (s.core k.dest).fills.find? fun f => decide (f.line = line) && decide (f.seq = some q) with
        | some f => s.performFill k.dest f
        | none => s
    | _ => s
  | none => s

/-- A probe reaches a core's L1: it is held while a fill before it is pending (R339). -/
def probe (s : State) (pkt : Nat) : State :=
  match s.arrivedPacket pkt with
  | some k =>
    match k.load with
    | .probe line q =>
      let s := s.takePacket pkt
      let c := s.core k.dest
      s.setCore k.dest (Core.heldProbes { c with probes := c.probes ++ [(line, q)] } line)
    | _ => s
  | none => s

/-! ### Packets (R336, R337, R350) -/

/-- Entries of a fret's ejection buffer, and the passes after which a packet is pressing. -/
def ejectSize : Nat := 32
def pressAfter : Nat := 4

/-- Messages that a slice may have unacknowledged to one core (R339). -/
def seriesWindow : Nat := 128

/-- The series of a fill or a probe, and its number in it. -/
def Packet.series (k : Packet) : Option (Nat × Nat) :=
  match k.load with
  | .fill line q => some (seqKey k.dest line, q)
  | .probe line q => some (seqKey k.dest line, q)
  | _ => none

/-- A packet's place in its series lies within the 128 that may be unacknowledged. -/
def State.seriesOpen (s : State) (k : Packet) : Bool :=
  k.series.all fun a => s.net.all fun e => e.2.series.all fun b => decide (b.1 ≠ a.1) || decide (a.2 < b.2 + seriesWindow)

/-- No packet that waits at the same fret goes first: by class, then in order of arrival (R336). -/
def State.injectFirst (s : State) (k : Packet) (order : Nat) : Bool :=
  s.net.all fun e => match e.2.ride with
    | .waiting o => decide (e.2.src ≠ k.src) || decide (k.cls < e.2.cls) || (decide (k.cls = e.2.cls) && decide (order ≤ o)) ||
        !s.seriesOpen e.2
    | _ => true

/-- A source fret injects a packet on the string of the fewest hops that takes class traffic (R335, R336, R350); one for the fret itself
rides none. -/
def injectPacket (s : State) (pkt : Nat) : State :=
  match assocGet? pkt s.net with
  | some k =>
    match k.ride with
    | .waiting order =>
      if s.seriesOpen k && s.injectFirst k order then
        if k.src = k.fret then s.setRide pkt (.transit 0)
        else
          match bestString (fun x => !s.closed x (k.src / dieFrets)) k.src k.fret with
          | some (x, _) => s.setRide pkt (.riding x 0)
          | none => s
      else s
    | _ => s
  | none => s

/-- The packets in the ejection buffer of a fret. -/
def State.ejected (s : State) (fret : Nat) : List (Nat × Packet) :=
  s.net.filter fun e => decide (e.2.fret = fret) && (match e.2.ride with
    | .buffered _ _ => true
    | _ => false)

/-- The times that a packet under way has passed its destination. -/
def Ride.passes (r : Ride) : Option Nat :=
  match r with
  | .riding _ n => some n
  | .transit n => some n
  | _ => none

/-- Other packets for which a fret holds its next free entries. -/
def State.pressing (s : State) (fret pkt : Nat) : Nat :=
  (s.net.filter fun e => decide (e.1 ≠ pkt) && decide (e.2.fret = fret) && e.2.ride.passes.any fun n => decide (pressAfter ≤ n)).length

/-- The packet that an arriving one evicts: of the least urgent class behind its own, the most recently arrived that was not
pressing. -/
def evicted (l : List (Nat × Packet)) (cls : Nat) : Option Nat :=
  let order := fun k : Packet => match k.ride with
    | .buffered o _ => o
    | _ => 0
  let free := l.filter fun e => decide (cls < e.2.cls) && (match e.2.ride with
    | .buffered _ p => !p
    | _ => false)
  let worst := (free.map fun e => e.2.cls).foldl max 0
  let last : Nat := ((free.filter fun e : Nat × Packet => decide (e.2.cls = worst)).map fun e => order e.2).foldl max 0
  (free.find? fun e : Nat × Packet => e.2.cls == worst && order e.2 == last).map Prod.fst

/-- A packet passes its destination once more; one in a transit buffer stays there. -/
def Ride.again (r : Ride) : Ride :=
  match r with
  | .riding x n => .riding x (n + 1)
  | r => r

/-- A packet reaches its destination fret (R337): it is buffered, perhaps in place of a less urgent one, for which a NACK goes to its
source in class 1; else it tries again. -/
def packetArrival (s : State) (pkt : Nat) : State :=
  match assocGet? pkt s.net with
  | none => s
  | some k =>
    match k.ride.passes with
    | some n =>
      let l := s.ejected k.fret
      let press := decide (pressAfter ≤ n)
      let enter := fun s : State => { s.setRide pkt (.buffered s.nextId press) with nextId := s.nextId + 1 }
      if l.length + (if press then 0 else s.pressing k.fret pkt) < ejectSize then enter s
      else
        match if l.length < ejectSize then none else evicted l k.cls with
        | some v => enter ((s.setRide v .nacked).send clsCommit k.fret (((assocGet? v s.net).map Packet.src).getD 0) 0 (.nack v))
        | none => s.setRide pkt k.ride.again
    | none => s

/-- Resends at one fret within 10 µs that make a retry storm (R393). -/
def stormCount : Nat := 256
def stormTime : Nat := 10000

/-- The core whose recorder counts the resends of a fret: the first of its cluster, or of its die. (DESIGN CHOICE:
notes/assumptions/47.md.) -/
def fretCore (fret : Nat) : Nat :=
  if fret % dieFrets < 100 then (fret / dieFrets * 100 + fret % dieFrets) * 32 else fret / dieFrets * 3200

/-- The NACK for a packet that has arrived at its source. -/
def State.nackArrived (s : State) (pkt : Nat) : Option Nat :=
  (s.net.find? fun e => decide (e.2.load = .nack pkt) && (s.arrivedPacket e.1).isSome).map Prod.fst

/-- A NACK reaches the source of a dropped packet, which injects its copy again as a new packet; resends are counted at that fret
(R337, R393). -/
def nack (s : State) (pkt : Nat) : State :=
  match assocGet? pkt s.net, s.nackArrived pkt with
  | some k, some n =>
    let p := s.partOf (k.src / dieFrets)
    let s := (s.dropPacket n).setRide pkt (.waiting s.nextId)
    let l := ((s.part p).nacks.filter fun e => decide (s.time < e.2 + stormTime)) ++ [(k.src, s.time)]
    let s := { s.setPart p { s.part p with nacks := l } with nextId := s.nextId + 1 }
    let s := s.record (fretCore k.src) 6 0 k.src 0
    if stormCount < (l.filter fun e => e.1 = k.src).length then s.askFreeze p 4 else s
  | _, _ => s

/-- A slice serves a core's request for a line: the fill is sent with the next number of its series (R336, R339), unless the slice takes
no request (R432). -/
def State.serveLine (s : State) (pkt core line : Nat) : State :=
  if s.homeHeld line then s
  else
    let s := s.takePacket pkt
    let c := s.core core
    if c.fills.any fun f => decide (f.line = line) && f.seq.isNone then
      let q := assocGetD (seqKey core line) 0 s.seqs
      let s := s.setCore core { c with fills := c.fills.map fun f => if f.line = line then { f with seq := some q } else f }
      { s with seqs := assocSet (seqKey core line) (q + 1) s.seqs }.send clsReply (lineFret line) (coreFret core) core (.fill line q)
    else s

/-- The unit at its destination takes a packet whose taking is no event of its own: a request for a line, an acknowledgement, which ends
its source's copy, a chunk's request at its arbiter, a line of an engine at its home, or the answer to a steal request (R111, R313,
R336, R337). -/
def unitTakes (s : State) (pkt : Nat) : State :=
  match s.arrivedPacket pkt with
  | some k =>
    match k.load with
    | .want core line => s.serveLine pkt core line
    | .ack p => (s.dropPacket p).dropPacket pkt
    | .request _ => s.takePacket pkt
    | .bulk _ => s.takePacket pkt
    | .stolen tid crew e => (s.takePacket pkt).stealAnswer tid crew e
    | _ => s
  | none => s

/-! ### Code images of a cluster (R41) -/

/-- A cluster's instruction line cache takes the image that a line of its partition's HBM has now. (DESIGN CHOICE:
notes/assumptions/10.md.) -/
def takeClusterCode (s : State) (cl line : Nat) : State :=
  match placeOf s (s.partOf (cl / 100)) (line * 64) with
  | some l =>
    if l.place = .hbm ∧ line ∉ s.marked ∧ !s.postHeld none (runDwords (line * 64) 64) then s.keepClusterImage cl line ((s.settled (runDwords (line * 64) 64)).readLine line) else s
  | none => s

/-- A cluster's instruction line cache drops a line. -/
def dropClusterCode (s : State) (cl line : Nat) : State :=
  s.setCluster cl { s.cluster cl with icache := assocDrop line (s.cluster cl).icache }

/-! ### Recorders (R393) -/

/-- Every recorder of a partition freezes for a reason that has arisen, and the FROZEN event is reported. -/
def recorderFreeze (s : State) (p reason : Nat) : State :=
  let q := s.part p
  if q.freezes.contains reason then
    ((s.setPart p { q with freezes := q.freezes.erase reason }).setFrozen p 0 true true).report p none 7 reason 0 0 0 0 0
  else s

/-! ### Event and fault rings (R363, R374) -/

/-- A ring: base, E, and the addresses of its write-index and read-index words. Ring 0 is the partition's, g that of guild g. -/
def State.ring (s : State) (p ring : Nat) : Word × Nat × Word × Word :=
  if ring = 0 then
    let e := (s.part p).evRing
    (e.getD 0 0, field (e.getD 1 0) 0 5, e.getD 2 0, e.getD 3 0)
  else
    let e := s.guildEntry p (BitVec.ofNat 16 ring)
    (e.getD 3 0, field (e.getD 4 0) 0 5, e.getD 5 0, e.getD 6 0)

/-- A ring that system software has set up. -/
def ringUsable (r : Word × Nat × Word × Word) : Bool :=
  decide (r.1 ≠ 0) && decide (4 ≤ r.2.1) && decide (r.2.1 ≤ 16) && decide (regionOf r.2.2.1.toNat ≤ 1) && decide (regionOf r.2.2.2.toNat ≤ 1)

/-- The foreman writes the oldest report of a ring once the ring has room; widx and ridx are what index words in the host's
memory hold (R374). -/
def eventRecordWrite (s : State) (p ring : Nat) (widx ridx : Word) : State :=
  let tag : Option (BitVec 16) := if ring = 0 then none else some (BitVec.ofNat 16 ring)
  let evs := (s.part p).events
  match evs.findIdx? fun e => decide (e.ring = tag) with
  | none => s
  | some i =>
    let r := s.ring p ring
    let w := s.indexWord r.2.2.1 widx
    let d := s.indexWord r.2.2.2 ridx
    if ringUsable r && decide (w < d + 2 ^ r.2.1) && (s.part p).fwrites.isEmpty then
      let pa := r.1.toNat + 32 * (w % 2 ^ r.2.1)
      let s := s.setPart p { s.part p with events := evs.eraseIdx i }
      let s := s.foremanWrite p pa (((evs[i]?).map EventRec.words).getD [] |>.flatMap fun x => bytesOf 8 x.toNat)
      s.foremanWrite p r.2.2.1.toNat (bytesOf 8 (w + 1))
    else s

/-! ### Meanings -/

/-- WIDEN_SCOPE (R112). -/
def execWidenScope (line core : Nat) (s : State) : Host.Outcome State Fault Refusal := .next (widenScope s line core)
/-- FILL_REPLY (R339). -/
def execFillReply (pkt : Nat) (s : State) : Host.Outcome State Fault Refusal := .next (fillReply s pkt)
/-- PROBE (R339). -/
def execProbe (pkt : Nat) (s : State) : Host.Outcome State Fault Refusal := .next (probe s pkt)
/-- PACKET_ARRIVAL (R337). -/
def execPacketArrival (pkt : Nat) (s : State) : Host.Outcome State Fault Refusal := .next (packetArrival s pkt)
/-- NACK (R337). -/
def execNack (pkt : Nat) (s : State) : Host.Outcome State Fault Refusal := .next (nack s pkt)
/-- RECORDER_FREEZE (R393). -/
def execRecorderFreeze (part reason : Nat) (s : State) : Host.Outcome State Fault Refusal := .next (recorderFreeze s part reason)
/-- EVENT_RECORD_WRITE (R374). -/
def execEventRecordWrite (part ring : Nat) (widx ridx : Word) (s : State) : Host.Outcome State Fault Refusal :=
  .next (eventRecordWrite s part ring widx ridx)

end Sys2Proof.Machine
end

