-- ==== Sys2Proof/Machine/Foreman.lean ====
section
/-!
DEFINITION. Sys2Proof/Machine/Foreman.lean: work queues, launches and their placement, the end of a crew, and the foreman window
(R16-R24, R32, R33, R303-R311, R317, R320-R322, R372-R375, R392, R430, R431).
-/

namespace Sys2Proof.Machine

/-! ### Queues (R303, R304, R306, R307) -/

/-- The levels, queues and resident slots of a partition (R303, R305). -/
def queueMax : Nat := 1024
def slotMax : Nat := 64

/-- The effective level of a queue (R306). -/
def Queue.level (q : Queue) : Nat := min 3 (queueLevel q.ctl + q.boost)
/-- Records of the queue can be taken (R305). -/
def Queue.resident (q : Queue) : Bool := queueEn q.ctl && q.slot.isSome
/-- Device time of a quantum, in nanoseconds (R305). -/
def Part.quantumNs (p : Part) : Nat := p.quantum * 1000

/-- A head launch that has waited for placement for one whole quantum (R307). -/
def State.pressingHead (s : State) (p : Nat) (q : Queue) : Bool :=
  q.waiting.any fun t => decide (t + (s.part p).quantumNs ≤ s.time)

/-- DOORBELL (R304). -/
def doorbell (s : State) (p q : Nat) (widx : Word) : State := if q < queueMax then s.readQueue p q widx else s

/-! ### Resident slots (R305, R306) -/

/-- The queues of a partition that wait for a slot. -/
def Queue.hungry (q : Queue) : Bool := q.hasWork && q.slot.isNone

/-- A queue that has had work and no slot for 8 consecutive quanta is promoted; one without work stands at its level (R306).
(DEDUCED: notes/assumptions/24.md.) -/
def Queue.promote (q : Queue) : Queue :=
  if !q.hasWork then q.rested
  else if q.slot.isNone ∧ 8 ≤ q.starved then { q with boost := q.boost + 1, starved := 0 }
  else q

/-- Places from one number up to another, wrapping, as a search that starts after the first meets them. -/
def after (last n : Nat) : Nat := (n + queueMax - last - 1) % queueMax

/-- The queue that gets the next free slot: the highest level, then the first number after the last served at that level. -/
def nextHungry (last : List (Nat × Nat)) (l : List (Nat × Queue)) : Option (Nat × Nat) :=
  let h := l.filter fun e => e.2.hungry
  let lv := (h.map fun e => e.2.level).foldl max 0
  let c := h.filter fun e => e.2.level = lv
  let best := c.foldl (fun b e => min b (after (assocGetD lv 1023 last) e.1)) queueMax
  (c.find? fun e => after (assocGetD lv 1023 last) e.1 = best).map fun e => (e.1, lv)

/-- Free slots given out, at most n. -/
def giveSlots (now : Nat) : Nat → List (Nat × Nat) → List (Nat × Queue) → List (Nat × Nat) × List (Nat × Queue)
  | 0, last, l => (last, l)
  | n + 1, last, l =>
    match nextHungry last l with
    | some (q, lv) =>
      giveSlots now n (assocSet lv q last) (l.map fun e => if e.1 = q then (q, { e.2 with slot := some now, starved := 0 }) else e)
    | none => (last, l)

/-- A quantum boundary (R305, R306). -/
def quantumBoundary (s : State) (p : Nat) : State :=
  let pt := s.part p
  if s.time < pt.lastQuantum + pt.quantumNs then s
  else
    let l := pt.queues.map fun e => (e.1, e.2.promote)
    let wanted := fun lv : Nat => l.any fun e => e.2.hungry && decide (lv ≤ e.2.level)
    let l := l.map fun e =>
      match e.2.slot with
      | some t =>
        if !e.2.hasWork || (decide (t + pt.quantumNs ≤ s.time) && wanted e.2.level) then (e.1, { e.2 with slot := none, starved := 0 })
        else e
      | none => e
    let used := (l.filter fun e => e.2.slot.isSome).length
    let r := giveSlots s.time (slotMax - used) pt.lastGiven l
    s.setPart p { pt with lastQuantum := s.time, lastGiven := r.1,
                          queues := r.2.map fun e => if e.2.hungry then (e.1, { e.2 with starved := e.2.starved + 1 }) else e }

/-! ### Launch records (R308, R309) -/

/-- The address of a queue's head record in its ring (R303). -/
def Queue.recordAt (d : Queue) : Nat := d.base.toNat + 128 * (d.rindex.toNat % 2 ^ queueExp d.ctl)

/-- The record at the head of a ring, in one read; rec is what the host's memory holds (R431). -/
def State.readRecord (s : State) (d : Queue) (rec' : List Word) : LaunchRec :=
  (List.range 16).map fun i =>
    if regionOf d.base.toNat = 0 then s.readWord (d.recordAt + 8 * i) else rec'.getD i 0

/-- The shape of a launch and its allotments (R18, R22, R308). -/
structure LaunchShape where
  dd : Nat
  c : Nat
  k : Nat
  t : Nat
  s : Nat
  det : Bool
  dcode : Nat
  vregs : Nat
  tiles : Nat
  cnt : Nat
  ovf : Nat
deriving DecidableEq, Repr

/-- Tile slots of an allotment code. -/
def tileCode (n : Nat) : Nat := [0, 1, 2, 4, 8, 16].getD n 0

/-- The shape that a record asks for. -/
def launchShape (r : LaunchRec) : LaunchShape :=
  let w := r.getD 4 0
  { dd := field w 0 3 + 1, c := field w 3 7 + 1, k := field w 10 5 + 1, t := field w 15 4 + 1, s := field w 19 4 + 1,
    det := w.getLsbD 23, dcode := field w 24 3, vregs := 8 * 2 ^ field w 27 2, tiles := tileCode (field w 29 3),
    cnt := field w 32 8, ovf := field w 40 8 }

/-- Members of a launch (R18). -/
def LaunchShape.size (h : LaunchShape) : Nat := h.dd * h.c * h.k * h.t * h.s

/-- An address that the foreman may write to, or none: aligned, in region 0x00 or 0x01 (R308). -/
def foremanAddr (v : Word) (align : Nat) : Bool := decide (v = 0) || (decide (v.toNat % align = 0) && decide (regionOf v.toNat ≤ 1))

/-- The checks of R308 by the offset of their field. (DEDUCED: notes/assumptions/25.md.) -/
def formatChecks (r : LaunchRec) : List (Nat × Bool) :=
  let w := fun i => r.getD i 0
  [(0x20, decide (field (w 4) 48 16 ≠ 0) || decide (5 < field (w 4) 29 3) || decide (field (w 4) 27 2 = 3)),
   (0x28, decide (field (w 5) 16 48 ≠ 0) || decide (field (w 5) 3 5 ≠ 0) || decide (4 < field (w 5) 0 3)),
   (0x38, !foremanAddr (w 7) 8),
   (0x40, decide (field (w 8) 48 16 ≠ 0)),
   (0x48, decide (field (w 9) 11 53 ≠ 0)),
   (0x50, !foremanAddr (w 10) 32)] ++
  ((List.range 4).map fun h => (0x58 + 2 * h, decide (field (w 11) (16 * h + 10) 6 ≠ 0))) ++
  [(0x60, (List.range 4).any fun i => decide (w (12 + i) ≠ 0))]

/-- The first offending field of a record (R308), or that no spill area is set up (R320). -/
def State.formatFault (s : State) (p : Nat) (r : LaunchRec) : Option Nat :=
  match (formatChecks r).find? fun e => e.2 with
  | some e => some e.1
  | none => if (s.part p).spillBase = 0 then some 0 else none

/-- The launch breaks a limit of R18, R22, R24 or R320. -/
def State.shapeFault (s : State) (p : Nat) (h : LaunchShape) : Bool :=
  decide (4 < h.dcode) || decide (s.partDies p < h.dd) || decide (100 < h.c * h.s) || decide (512 < h.t * h.vregs) ||
    decide (16 < h.t * h.tiles) || decide (256 < h.cnt) || decide (field (s.part p).ovfPages 0 32 < h.ovf * h.size)

/-- The condition of a record holds for a result word (R308). -/
def condHolds (r : LaunchRec) (result : Word) : Bool :=
  let v := r.getD 6 0
  match field (r.getD 5 0) 0 3 with
  | 0 => true
  | 1 => decide (result = v)
  | 2 => decide (result ≠ v)
  | 3 => v.ule result
  | _ => result.ult v

/-- The handles that a record names, as (number, written) (R308). -/
def handlesOf (r : LaunchRec) : List (Nat × Bool) :=
  (List.range 4).filterMap fun h =>
    let w := r.getD 11 0
    if w.getLsbD (16 * h + 9) then some (field w (16 * h) 8, w.getLsbD (16 * h + 8)) else none

/-- A handle's state; nothing is known of one that no launch has named. -/
def Part.handle (p : Part) (h : Nat) : Handle := assocGetD h ⟨none, []⟩ p.handles

/-- The launches that a record's handles wait for have completed (R310). -/
def State.handlesFree (s : State) (p : Nat) (r : LaunchRec) : Bool :=
  let gone := fun c : Nat => (s.crew c).isNone
  (handlesOf r).all fun e =>
    let h := (s.part p).handle e.1
    h.writer.all gone && (!e.2 || h.readers.all gone)

/-- A launch is noted with its handles (R310). -/
def Part.noteHandles (p : Part) (crew : Nat) (l : List (Nat × Bool)) : Part :=
  l.foldl (fun p e =>
    let h := p.handle e.1
    { p with handles := assocSet e.1 (if e.2 then ⟨some crew, []⟩ else { h with readers := h.readers ++ [crew] }) p.handles }) p

/-! ### Room (R22, R32, R308, R311, R320) -/

/-- The crews with threads on a core, and those threads. -/
def State.onCore (s : State) (core : Nat) : List (Nat × Thread) :=
  (List.range 16).filterMap fun k => (s.thread (core * 16 + k)).map fun t => (k, t)

/-- A core has room for a launch's members (R22, R308, R312). -/
def State.roomOn (s : State) (h : LaunchShape) (core : Nat) : Bool :=
  let l := s.onCore core
  let sum := fun f : Crew → Nat => (l.map fun e => ((s.crew e.2.crew).map f).getD 0).sum
  let cnt := ((l.map fun e => e.2.crew).dedup.map fun c => ((s.crew c).map Crew.cnt).getD 0).sum
  decide (l.length + h.t ≤ 16) && decide (sum Crew.vregs + h.t * h.vregs ≤ 512) && decide (sum Crew.tiles + h.t * h.tiles ≤ 16) &&
    decide (cnt + h.cnt ≤ 256) && decide (s.placesUsed core + h.t ≤ dequeSize + spillSize)

/-- The first n places of a list where something is found. -/
def takeFound {α β : Type} (f : α → Option β) : Nat → List α → List β
  | 0, _ => []
  | _, [] => []
  | n + 1, a :: l =>
    match f a with
    | some b => b :: takeFound f n l
    | none => takeFound f (n + 1) l

/-- The cores of a cluster for a launch, the lowest with room. -/
def State.roomInCluster (s : State) (h : LaunchShape) (cl : Nat) : Option (Nat × List Nat) :=
  let l := takeFound (fun c => if s.roomOn h c then some c else none) h.k ((List.range 32).map fun i => cl * 32 + i)
  if l.length = h.k then some (cl, l) else none

/-- Pairs in rising order of their first parts. -/
def sortPairs {β : Type} (l : List (Nat × β)) : List (Nat × β) := l.foldl (fun r e => assocSet e.1 e.2 r) []

/-- The clusters of a die for a launch, the search beginning at a cluster (R311). -/
def State.roomOnDie (s : State) (h : LaunchShape) (start : Nat) (die : Nat) : Option (Nat × List (Nat × List Nat)) :=
  let order := ((List.range 100).filter fun c => start ≤ c) ++ (List.range 100).filter fun c => c < start
  let l := takeFound (s.roomInCluster h) (h.c * h.s) (order.map fun c => die * 100 + c)
  if l.length = h.c * h.s then some (die, sortPairs l) else none

/-- The place of a launch: its dies, clusters and cores in rising order (R32, R311). (DEDUCED: notes/assumptions/24.md.) -/
def State.findRoom (s : State) (p : Nat) (h : LaunchShape) (hint : Word) : Option (List (Nat × List (Nat × List Nat))) :=
  let n := s.partDies p
  let hd := field hint 0 3
  let hinted := hint.getLsbD 10 && decide (hd < n)
  let order := if hinted then hd :: (List.range n).filter fun d => d ≠ hd else List.range n
  let l := takeFound (fun d => s.roomOnDie h (if hinted ∧ d = hd then field hint 3 7 else 0) (p + d)) h.dd order
  if l.length = h.dd then some (sortPairs l) else none

/-- The lowest run of free pages of the overflow pool (R320). -/
def freePages (used : List (Nat × Nat × Nat)) (n total : Nat) : Option Nat :=
  let ok := fun f : Nat => decide (f + n ≤ total) && used.all fun u => decide (f + n ≤ u.2.1) || decide (u.2.1 + u.2.2 ≤ f)
  let l := (0 :: used.map fun u => u.2.1 + u.2.2).filter ok
  match l with
  | [] => none
  | f :: r => some (r.foldl min f)

/-- n consecutive pages for each of some members. (DESIGN CHOICE: notes/assumptions/31.md.) -/
def allotPages (crew n total : Nat) : Nat → List (Nat × Nat × Nat) → Option (List (Nat × Nat × Nat))
  | 0, used => some used
  | k + 1, used =>
    if n = 0 then some used
    else match freePages used n total with
      | some f => allotPages crew n total k (used ++ [(crew, f, n)])
      | none => none

/-! ### Placement (R19, R32) -/

/-- The n lowest free slots of a core. -/
def State.freeSlots (s : State) (core n : Nat) : List Nat :=
  takeFound (fun k => if (s.thread (core * 16 + k)).isNone then some (core * 16 + k) else none) n (List.range 16)

/-- The members of a launch in its place, as (logical index, thread) (R19, R32 step 3). -/
def State.membersOf (s : State) (h : LaunchShape) (place : List (Nat × List (Nat × List Nat))) : List (Nat × Nat) :=
  sortPairs (place.zipIdx.flatMap fun d => d.1.2.zipIdx.flatMap fun cl => cl.1.2.zipIdx.flatMap fun core =>
    (s.freeSlots core.1 h.t).zipIdx.map fun th =>
      (th.2 + h.t * (core.2 + h.k * (cl.2 % h.c + h.c * (d.2 + h.dd * (cl.2 / h.c)))), th.1))

/-- A launch breaks a rule of order: while a pressing launch of its level or a higher one waits, no other is placed; of two
pressing ones at one level the earlier goes first (R307). -/
def State.pressedOut (s : State) (p q : Nat) : Bool :=
  let d := s.queue p q
  (s.part p).queues.any fun e => decide (e.1 ≠ q) && s.pressingHead p e.2 && decide (d.level ≤ e.2.level) &&
    !(s.pressingHead p d && decide (e.2.level = d.level) &&
      (decide (d.waiting.getD 0 < e.2.waiting.getD 0) || (decide (d.waiting = e.2.waiting) && decide (q < e.1))))

/-- A crew as its launch makes it (R18, R20, R340). -/
def newCrew (h : LaunchShape) (guild : BitVec 16) (q : Nat) (r : LaunchRec) (members : List (Nat × Nat)) : Crew where
  dd := h.dd
  c := h.c
  k := h.k
  t := h.t
  s := h.s
  det := h.det
  dcode := h.dcode
  vregs := h.vregs
  tiles := h.tiles
  guild := guild
  cnt := h.cnt
  ovf := h.ovf
  queue := q
  record := r
  result := 0
  members := members
  turn := 0
  round := 0
  spent := false
  domains := []
  releaseAt := []
  phases := []
  lastNo := 0
  stopping := none
  stopped := none
  resume := false

/-- A member's slot with its registers as R32 step 5 leaves them, and its bound record on the core's deque. -/
def State.seedMember (s : State) (crew : Nat) (guild : BitVec 16) (det : Bool) (r : LaunchRec) (l tid : Nat) : State :=
  let first := (s.onCore (coreOf tid)).all fun e => e.2.crew ≠ crew
  let s := if first then s.setCore (coreOf tid) { s.core (coreOf tid) with rr := 15 } else s
  let st := BitVec.ofNat 64 (guild.toNat * 2 ^ 16 + det.toNat * 2)
  let s := s.setThread tid { Thread.reset with crew, l, arch := { Arch.reset with status := st }, lastEnd := s.time }
  let rec' : TaskRec := ⟨BitVec.ofNat 64 (field (r.getD 0 0) 0 57 + 2 ^ 62), r.getD 1 0, r.getD 2 0, r.getD 3 0⟩
  s.push (coreOf tid) { record := rec', crew, bound := some tid, stamp := s.time }

/-- The whole crew of a queue's head placed at once, if there is room (R32). -/
def State.placeLaunch (s : State) (p q : Nat) (r : LaunchRec) : Option State :=
  let h := launchShape r
  let pt := s.part p
  let crew := p * 2 ^ 32 + (pt.serial + 1) % 2 ^ 32
  match s.findRoom p h (r.getD 9 0), allotPages crew h.ovf (field pt.ovfPages 0 32) h.size pt.ovfUsed with
  | some place, some used =>
    let d := s.queue p q
    let guild := queueGuild d.ctl
    let members := s.membersOf h place
    let s := s.setPart p ({ pt with serial := pt.serial + 1, ovfUsed := used }.noteHandles crew (handlesOf r))
    let s := s.setCrew crew (newCrew h guild q r members)
    let s := s.setQueue p q { d with prev := some crew, prevResult := 0, prevDone := false }
    some (members.foldl (fun s m => s.seedMember crew guild h.det r m.1 m.2) s)
  | _, _ => none

/-! ### The head of a queue (R305, R308-R311, R392) -/

/-- The head leaves its queue. -/
def State.takeHead (s : State) (p q : Nat) : State :=
  let d := s.queue p q
  s.setQueue p q (Queue.rested { d with rindex := d.rindex + 1, head := none, waiting := none, held := false, passed := false })

/-- A completion word, where its address may be written (R311). -/
def State.complete (s : State) (p : Nat) (addr : Word) (status value : Nat) : State :=
  if completionOk addr then s.foremanWrite p addr.toNat (bytesOf 8 (status * 2 ^ 48 + value % 2 ^ 48)) else s

/-- A head refused: a faulty completion address is reported instead (R308). -/
def State.refuseHead (s : State) (p q : Nat) (r : LaunchRec) (status value : Nat) : State :=
  let at' := (s.queue p q).recordAt
  let s := s.takeHead p q
  if foremanAddr (r.getD 7 0) 8 then s.complete p (r.getD 7 0) status value else s.queueEvent p q (BitVec.ofNat 64 at')

/-- A head skipped, with n records after it still to be skipped (R309). -/
def State.skipHead (s : State) (p q n : Nat) (r : LaunchRec) : State :=
  let s := s.takeHead p q
  (s.setQueue p q { s.queue p q with skip := n }).complete p (r.getD 7 0) 0x0103 0

/-- A launch breakpoint matches a record (R392). -/
def Part.breaks (p : Part) (q : Nat) (r : LaunchRec) : Bool :=
  (List.range 8).any fun b =>
    let w := p.lbrk.getD (2 * b) 0
    w.getLsbD 63 && (!w.getLsbD 62 || decide (field w 0 10 = q)) && (!w.getLsbD 61 || decide (p.lbrk.getD (2 * b + 1) 0 = r.getD 0 0))

/-- What becomes of a head when it is served: something happens, it has no room, or it waits for something else. -/
inductive HeadFate where
  | acts (s : State)
  | noRoom
  | waits
deriving DecidableEq, Repr

/-- The head of a queue checked, skipped, held or started (R32, R305, R308-R310, R392); nothing is placed after a thermal stop
until every die is below 100 degrees (R435). -/
def State.serveHead (s : State) (p q : Nat) : HeadFate :=
  let d := s.queue p q
  match d.head with
  | none => .waits
  | some r =>
    if 0 < d.skip then .acts (s.skipHead p q (d.skip - 1) r)
    else
      match s.formatFault p r with
      | some v => .acts (s.refuseHead p q r 0x0102 v)
      | none =>
        if s.shapeFault p (launchShape r) then .acts (s.refuseHead p q r 0x0101 0)
        else if field (r.getD 5 0) 0 3 ≠ 0 ∧ !d.prevDone then .waits
        else if !condHolds r d.prevResult then .acts (s.skipHead p q (field (r.getD 5 0) 8 8) r)
        else if d.held then .waits
        else if !d.passed && (s.part p).breaks q r then
          .acts ((s.setQueue p q { d with held := true }).report p none 4 0 0 0 (queueGuild d.ctl).toNat q (BitVec.ofNat 64 d.recordAt))
        else if !s.handlesFree p r then .waits
        else if s.pressedOut p q || !s.upkeep.stopHot.isEmpty then .noRoom
        else
          match s.placeLaunch p q r with
          | some s' => .acts (s'.takeHead p q)
          | none => .noRoom

/-- A queue whose head cannot start yields its turn (R305). -/
def State.yields (s : State) (p q : Nat) : Bool :=
  let d := s.queue p q
  !d.hasWork || (d.head.isSome && match s.serveHead p q with
    | .acts _ => false
    | _ => true)

/-- One slot is served before another: by effective level, then by number after the last one served at that level (R305). -/
def servedBefore (last : List (Nat × Nat)) (a b : Nat × Queue) : Bool :=
  decide (b.2.level < a.2.level) ||
    (decide (a.2.level = b.2.level) && decide (after (assocGetD b.2.level 1023 last) a.1 < after (assocGetD b.2.level 1023 last) b.1))

/-- No slot that comes before a queue's has something to do. -/
def State.isTurn (s : State) (p q : Nat) : Bool :=
  (s.part p).queues.all fun e => decide (e.1 = q) || !e.2.resident || !servedBefore (s.part p).lastServed e (q, s.queue p q) ||
    s.yields p e.1

/-- The head served, or noted as waiting for placement (R307). -/
def State.tryHead (s : State) (p q : Nat) : State :=
  match s.serveHead p q with
  | .acts s' => s'
  | .noRoom => s.setQueue p q { s.queue p q with waiting := (s.queue p q).waiting.or (some s.time) }
  | .waits => s

/-- A slot is served (R305): the write-index word is read again, the next record is taken and checked, and started or left. -/
def slotService (s : State) (p q : Nat) (widx : Word) (rec' : List Word) : State :=
  if !(s.queue p q).resident || !s.isTurn p q then s
  else
    let pt := s.part p
    let s := s.setPart p { pt with lastServed := assocSet (s.queue p q).level q pt.lastServed }
    let s := s.readQueue p q widx
    let d := s.queue p q
    if !d.hasWork then s
    else (s.setQueue p q { d with head := d.head.or (some (s.readRecord d rec')) }).tryHead p q

/-- A head that waits for placement is placed once room exists; a pressing one whether or not its queue holds a slot (R307). -/
def launchPlacement (s : State) (p q : Nat) : State :=
  let d := s.queue p q
  if queueEn d.ctl && d.waiting.isSome && (s.pressingHead p d || (d.resident && s.isTurn p q)) then s.tryHead p q else s

/-! ### The end of a crew (R33, R310, R311, R321, R322) -/

/-- A member is idle with no task: no chunk of it is in flight, and no frame or return chunk to come. -/
def Thread.isIdle (t : Thread) : Bool :=
  t.chunks.isEmpty && t.micro.isNone && t.pending.isNone && (match t.run with
    | .none => true
    | .idle _ => true
    | _ => false)

/-- A packet carries a task message of a crew, or a stolen record of it. -/
def Packet.taskOf (k : Packet) (crew : Nat) : Bool :=
  k.out && match k.load with
  | .task _ _ c _ => decide (c = crew)
  | .dec c _ _ _ _ _ => decide (c = crew)
  | .stolen _ c (some _) => decide (c = crew)
  | _ => false

/-- The engine commands, drains and panel commands of a crew on a core. -/
def Core.worksFor (c : Core) (crew : Nat) : Bool :=
  (c.engine.any fun e => decide (e.cmd.crew = crew)) || (c.drains.any fun d => decide (d.crew = crew)) ||
    c.panelQ.any fun k => decide (k.crew = crew)

/-- A far atomic add of a crew is on its way over a link. -/
def LinkReq.addOf (r : LinkReq) (crew : Nat) : Bool :=
  decide (r.crew = some crew) && match r.kind with
  | .add _ _ _ _ => true
  | _ => false

/-- A crew has ended (R33): its members are idle, no record or task message of it is left, and its engine commands, far atomics,
contributions and open reduction instances (R291) are done. -/
def State.crewOver (s : State) (crew : Nat) (w : Crew) : Bool :=
  w.stopping.isNone && (w.members.all fun m => (s.thread m.2).all Thread.isIdle) &&
    (s.cores.all fun c => !((c.2.deque ++ c.2.spill).any fun e => decide (e.crew = crew)) && !c.2.worksFor crew) &&
    (s.net.all fun k => !k.2.taskOf crew) && (s.fars.all fun f => w.members.all fun m => decide (m.2 ≠ f.tid)) &&
    (s.links.all fun e => !e.2.addOf crew) && s.reductions.all fun r => decide (r.crew ≠ crew)

/-- A launch wrote a HOST handle (R310). -/
def State.wroteHost (s : State) (p : Nat) (r : LaunchRec) : Bool :=
  (handlesOf r).any fun e => e.2 && (s.readWord ((s.part p).handleTab.toNat + 16 * e.1 + 8)).getLsbD 63

/-- A write of a crew's chunks or commands to region 0x01 or 0x02 is still unacknowledged at its destination (R310). -/
def State.writesOut (s : State) (crew : Nat) : Bool :=
  s.links.any fun e => decide (e.2.crew = some crew) && match e.2.kind with
    | .write _ pa _ => decide (regionOf pa = 1 ∨ regionOf pa = 2)
    | .add _ pa _ _ => decide (regionOf pa = 1 ∨ regionOf pa = 2)
    | .payload _ _ _ bytes => bytes.any fun x => decide (regionOf x.1 = 1 ∨ regionOf x.1 = 2)
    | _ => false

/-- What a crew leaves on a core when no thread of it is placed there any more (R246, R317, R321). -/
def Core.forget (c : Core) (crew : Nat) : Core :=
  { c with deque := c.deque.filter fun e => e.crew ≠ crew, spill := c.spill.filter fun e => e.crew ≠ crew,
           counters := c.counters.filter fun k => k.crew ≠ crew, stray := assocDrop crew c.stray,
           panels := c.panels.filter fun p => p.2.owner ≠ some crew }

/-- A core without what a crew leaves there, its deque filled again from its spill region where that has grown short (R312). -/
def State.forgetOn (s : State) (crew core : Nat) : State :=
  let mine := fun e : DequeEntry => decide (e.crew = crew)
  let c := s.core core
  if c.deque.any mine || c.spill.any mine then s.setDeque core ((s.dequeCore core).forget crew).refill
  else s.setCore core (c.forget crew)

/-- What a crew leaves on the cores is dropped. -/
def State.forgetCrew (s : State) (crew : Nat) : State := s.cores.foldl (fun s c => s.forgetOn crew c.1) s

/-- The totals of an accounting record: queue wait, search, run, failed steals (R311, R322). -/
def State.totals (s : State) (w : Crew) : List Nat :=
  let l := w.members.filterMap fun m => s.thread m.2
  [(l.map Thread.waitTotal).sum, (l.map Thread.searchTotal).sum, (l.map Thread.runTotal).sum, (l.map Thread.failSteals).sum]

/-- The words that the end of a launch writes: the accounting record first, then the completion word (R311). -/
def State.finishLaunch (s : State) (p : Nat) (w : Crew) (totals : List Nat) (status value : Nat) : State :=
  let acc := w.record.getD 10 0
  let s := if acc ≠ 0 ∧ foremanAddr acc 32 then s.foremanWrite p acc.toNat (totals.flatMap fun v => bytesOf 8 v) else s
  s.complete p (w.record.getD 7 0) status value

/-- A crew ends: its slots and allotments are released, what it left is dropped, and its completion is written. -/
def State.endCrew (s : State) (crew : Nat) (w : Crew) (status value : Nat) : State :=
  let p := crewPart crew
  let totals := s.totals w
  let s := State.forgetCrew { s with threads := s.threads.filter fun e => e.2.crew ≠ crew } crew
  let s := s.setPart p { s.part p with guards := (s.part p).guards.filter fun g => g.crew ≠ crew,
                                       ovfUsed := (s.part p).ovfUsed.filter fun u => u.1 ≠ crew }
  let s := s.abortEpisodes crew
  let d := s.queue p w.queue
  let s := if d.prev = some crew then s.setQueue p w.queue { d with prevResult := w.result, prevDone := true } else s
  let s : State := { s with crews := assocDrop crew s.crews }
  s.finishLaunch p w totals status value

/-- CREW_END (R33). -/
def crewEnd (s : State) (crew : Nat) : State :=
  match s.crew crew with
  | some w =>
    if w.stopped.isNone && s.crewOver crew w && !(s.wroteHost (crewPart crew) w.record && s.writesOut crew) then
      s.endCrew crew w 0 (field (w.record.getD 8 0) 0 48)
    else s
  | none => s

/-! ### The foreman window (R430) -/

/-- Released launch breakpoints (R392). -/
def lbrelPlace (s : State) (p q : Nat) : State :=
  let d := s.queue p q
  if d.held then s.setQueue p q { d with held := false, passed := true } else s

def lbrelSkip (s : State) (p q : Nat) : State :=
  let d := s.queue p q
  match d.held, d.head with
  | true, some r => s.skipHead p q 0 r
  | _, _ => s

/-- A dword of a queue descriptor written; a queue that becomes enabled has no previous launch (R303, R309). -/
def Queue.setDword (d : Queue) (i : Nat) (v : Word) : Queue :=
  match i with
  | 0 => { d with base := v }
  | 1 => if queueEn v ∧ !queueEn d.ctl then { d with ctl := v, prev := .none, prevResult := 0, prevDone := true } else { d with ctl := v }
  | 2 => { d with waddr := v }
  | 3 => d
  | _ => { d with rest := d.rest.set (i - 4) v }

/-- No crew of the partition is placed (R320). -/
def State.noCrew (s : State) (p : Nat) : Bool := s.threads.all fun e => decide (crewPart e.2.crew ≠ p)

/-- An address with its k lowest bits zero, as SPILLBASE and OVFBASE hold one (R320). (DESIGN CHOICE: notes/assumptions/31.md.) -/
def alignDown (v : Word) (k : Nat) : Word := BitVec.ofNat 64 (v.toNat / 2 ^ k * 2 ^ k)

/-- The registers of the window below the recorders that hold what is written (R430). -/
def State.setRegister (s : State) (p off : Nat) (v : Word) : State :=
  let q := s.part p
  let samp := s.coreOfVcn p (field q.sampSel 0 15)
  match off with
  | 0x08 => s.setPart p { q with guildTab := v }
  | 0x10 => s.setPart p { q with handleTab := v }
  | 0x18 => s.setPart p { q with evRing := q.evRing.set 0 v }
  | 0x20 => s.setPart p { q with evRing := q.evRing.set 1 v }
  | 0x28 => s.setPart p { q with evRing := q.evRing.set 2 v }
  | 0x30 => s.setPart p { q with evRing := q.evRing.set 3 v }
  | 0x38 => s.setPart p { q with stopBase := v, stopNext := 0 }
  | 0x40 => s.setPart p { q with stopSize := v }
  | 0x48 => if 100 ≤ v.toNat ∧ v.toNat ≤ 100000 then s.setPart p { q with quantum := v.toNat } else s
  | 0x68 => s.setPart p { q with tlbAddr := v }
  | 0x108 => s.setPart p { q with recSel := zextN v 15 }
  | 0x110 => s.setPart p { q with sampSel := zextN v 15 }
  | 0x118 => match samp with
    | some c => s.setCore c { s.core c with sampBase := v, sampPos := 0, sampDone := false }
    | none => s
  | 0x120 => match samp with
    | some c => s.setCore c { s.core c with sampCtl := v &&& 0xC0000000FFFFFFFF, sampPos := 0, sampDone := false }
    | none => s
  | 0x128 => if s.noCrew p then s.setPart p { q with spillBase := alignDown v 16 } else s
  | 0x130 => if s.noCrew p then s.setPart p { q with ovfBase := alignDown v 12 } else s
  | 0x138 => if s.noCrew p then s.setPart p { q with ovfPages := zextN v 32 } else s
  | _ => if 0x80 ≤ off ∧ off < 0x100 then s.setPart p { q with lbrk := q.lbrk.set ((off - 0x80) / 8) v } else s

/-- A write of 8 bytes to the window, but for the registers that act; a reserved offset ignores it, as every offset does a write of another
size, which is therefore no event. A bad descriptor of an enabled queue disables it (R303, R430). -/
def foremanRegisterWrite (s : State) (p off : Nat) (v : Word) : State :=
  if off % 8 ≠ 0 then s
  else if 0x10000 ≤ off ∧ off < 0x20000 then
    let q := (off - 0x10000) / 64
    let s := s.setQueue p q ((s.queue p q).setDword (off % 64 / 8) v)
    if queueEn (s.queue p q).ctl && !s.queueOk p (s.queue p q) then s.disable p q else s
  else s.setRegister p off v

/-! ### Reads of the window (R430) -/

/-- TLBSTAT: the last TLBCMD is in progress. -/
def State.tlbBusy (s : State) (p : Nat) : Bool := (s.part p).invals.any fun v => decide (v.tid = none) && decide (v.no = (s.part p).lastCmd)

/-- The recorder's entries as REC shows them, the oldest first, dword i. (DESIGN CHOICE: notes/assumptions/73.md.) -/
def State.recDword (s : State) (p i : Nat) : Word :=
  match s.coreOfVcn p (field (s.part p).recSel 0 15) with
  | some c => (((s.core c).recorder.reverse[i / 2]?).map fun e => if i % 2 = 0 then BitVec.ofNat 64 e.1 else e.2).getD 0
  | none => 0

/-- A dword of a queue descriptor (R303). -/
def Queue.getDword (d : Queue) (i : Nat) : Word :=
  match i with
  | 0 => d.base
  | 1 => d.ctl
  | 2 => d.waddr
  | 3 => d.rindex
  | _ => d.rest.getD (i - 4) 0

/-- A register of a partition's window; one that is only written, and a reserved offset, reads as zero. -/
def State.getRegister (s : State) (p off : Nat) : Word :=
  let q := s.part p
  let samp := (s.coreOfVcn p (field q.sampSel 0 15)).map s.core
  match off with
  | 0x08 => q.guildTab
  | 0x10 => q.handleTab
  | 0x18 => q.evRing.getD 0 0
  | 0x20 => q.evRing.getD 1 0
  | 0x28 => q.evRing.getD 2 0
  | 0x30 => q.evRing.getD 3 0
  | 0x38 => q.stopBase
  | 0x40 => q.stopSize
  | 0x48 => BitVec.ofNat 64 q.quantum
  | 0x68 => q.tlbAddr
  | 0x78 => BitVec.ofNat 64 (s.tlbBusy p).toNat
  | 0x108 => q.recSel
  | 0x110 => q.sampSel
  | 0x118 => (samp.map Core.sampBase).getD 0
  | 0x120 => (samp.map Core.sampCtl).getD 0
  | 0x128 => q.spillBase
  | 0x130 => q.ovfBase
  | 0x138 => q.ovfPages
  | _ =>
    if 0x80 ≤ off ∧ off < 0x100 then q.lbrk.getD ((off - 0x80) / 8) 0
    else if 0x2000 ≤ off ∧ off < 0x4000 then s.recDword p ((off - 0x2000) / 8)
    else if 0x10000 ≤ off ∧ off < 0x20000 then (s.queue p ((off - 0x10000) / 64)).getDword (off % 64 / 8)
    else 0

/-- MODCFG and MODNUM as they read (R427, R430, R440). -/
def State.modcfgWord (s : State) : Word := BitVec.ofNat 64 ((s.modcfg ||| 1).toNat + s.modStatus * 2 ^ 8 + s.present.toNat * 2 ^ 16)
def State.modnumWord (s : State) : Word := (s.modnum.map fun n => BitVec.ofNat 64 (n.toNat + 2 ^ 8)).getD 0

/-- A dword of BAR0. -/
def State.windowWord (s : State) (off : Nat) : Word :=
  if off = 0xF00000 then s.modcfgWord
  else if off = 0xF00008 then s.modnumWord
  else if off < 0xF00000 ∧ off / 0x200000 < 8 ∧ s.partOf (off / 0x200000) = off / 0x200000 then s.getRegister (off / 0x200000) (off % 0x200000)
  else 0

/-- Where the answers of BAR0 are told from those of BAR2, which lie below. -/
def bar0Answers : Nat := 2 ^ 60

/-- The host reads the foreman window: 8 bytes of a register; an access of another size, or of no whole register, reads as zero. -/
def readWindow (s : State) (off size : Nat) : State :=
  { s with answers := s.answers ++ [(bar0Answers + off, bytesOf size (if size = 8 ∧ off % 8 = 0 then (s.windowWord off).toNat else 0))] }

/-- STOPREQ: a request stops the crew with cause 0 (R382, R384). -/
def stopreq (s : State) (p serial : Nat) : State := s.stopCrew (p * 2 ^ 32 + serial) 0 none

/-- RESUME: system software asks for a stopped crew's resumption (R387). -/
def resumeRequest (s : State) (p serial : Nat) : State :=
  match s.crew (p * 2 ^ 32 + serial) with
  | some w => if w.stopping.isSome then s.setCrew (p * 2 ^ 32 + serial) { w with resume := true } else s
  | none => s

/-- The invalidation of a TLBCMD, which TLBSTAT goes by (R375, R430). -/
def tlbCommand (s : State) (p k : Nat) (guild : BitVec 16) : State :=
  let s := s.invalidate p k (s.part p).tlbAddr guild none s.nextId
  { s.setPart p { s.part p with lastCmd := s.nextId } with nextId := s.nextId + 1 }

/-! ### Invalidations (R373, R375) -/

/-- An entry goes with an invalidation. -/
def Inval.drops (v : Inval) (e : TlbEntry) : Bool :=
  match v.k with
  | 0 => decide (e.guild = v.guild) && decide (e.va ≤ v.va.toNat % 2 ^ 57) && decide (v.va.toNat % 2 ^ 57 < e.va + e.size)
  | 1 => decide (e.guild = v.guild)
  | _ => true

/-- The invalidation concerns a guild. -/
def Inval.hits (v : Inval) (g : BitVec 16) : Bool := decide (2 ≤ v.k) || decide (g = v.guild)

/-- A parked thread that an invalidation wakes. -/
def Inval.wakes (v : Inval) (t : Thread) : Bool :=
  match t.run with
  | .parked _ va => v.hits t.accessGuild && (decide (v.k ≠ 0) || decide (va.toNat / 2 ^ 30 = v.va.toNat / 2 ^ 30))
  | _ => false

/-- A thread's chunks or queued drains hold translations that an invalidation concerns: the panel loads of its ungranted chunks, and the
MDRAINs in the loom's queue (R259, R264). -/
def Inval.heldBy (v : Inval) (t : Thread) (cmds : List LoomCmd) : Bool :=
  (v.hits t.arch.guild && cmds.any fun l => match l.op with
    | .drain _ _ _ _ _ _ _ _ => true
    | _ => false) ||
  t.chunks.any fun c => c.ungranted && v.hits c.start.guild && c.effects.any fun e => match e with
    | .panel _ (.load _ _ _ _) => true
    | _ => false

/-- The loom's work of a partition that may hold translations of an invalidation has ended (R259, R264). -/
def State.quietFor (s : State) (p : Nat) (v : Inval) : Bool :=
  (s.cores.all fun c => decide (s.partOf (dieOf c.1) ≠ p) ||
    ((c.2.panelQ.all fun k => !v.hits k.guild) && c.2.drains.all fun d => !v.hits d.guild)) &&
  (s.crews.all fun w => decide (crewPart w.1 ≠ p) || w.2.stopped.all fun k => k.drains.all fun d => !v.hits d.2.guild) &&
  s.threads.all fun e => decide (crewPart e.2.crew ≠ p) ||
    !v.heldBy e.2 ((s.core (coreOf e.1)).loom.filter fun l => decide (l.tid = e.1))

/-- An invalidation is complete (R375): every TLB has dropped the entries, and the parked threads that it covers retry. -/
def tlbinvComplete (s : State) (p i : Nat) : State :=
  let q := s.part p
  match q.invals[i]? with
  | none => s
  | some v =>
    if !s.quietFor p v then s
    else
      let s := s.setPart p { q with invals := q.invals.eraseIdx i, guildCache := if 2 ≤ v.k then [] else q.guildCache }
      { s with
        cores := s.cores.map fun c => if s.partOf (dieOf c.1) = p then (c.1, { c.2 with tlb := c.2.tlb.filter fun e => !v.drops e }) else c
        clusters := s.clusters.map fun c =>
          if s.partOf (c.1 / 100) = p then (c.1, { c.2 with tlb := c.2.tlb.filter fun e => !v.drops e }) else c
        threads := s.threads.map fun e =>
          if crewPart e.2.crew ≠ p then e
          else if v.wakes e.2 then (e.1, { e.2 with run := .running, absent := none })
          else (e.1, { e.2 with absent := none }) }

/-! ### MODCFG (R16, R17, R430, R440) -/

/-- The start and the end of the range of a die under some MODCFG bits. -/
def rangeStart (bits : BitVec 8) (die : Nat) : Nat := ((List.range (die + 1)).filter fun d => bits.getLsbD d || d = 0).getLastD 0
def rangeEnd (bits : BitVec 8) (die : Nat) : Nat :=
  (((List.range 8).filter fun d => decide (die < d) && bits.getLsbD d).headD 8)

/-- Every range is aligned on its size (R16). -/
def rangesAligned (bits : BitVec 8) : Bool :=
  (List.range 8).all fun d =>
    let n := rangeEnd bits d - rangeStart bits d
    [1, 2, 4, 8].contains n && decide (rangeStart bits d % n = 0)

/-- No range holds both a present and a left-out die. -/
def rangesPure (bits present : BitVec 8) : Bool :=
  (List.range 8).all fun d => present.getLsbD d == present.getLsbD (rangeStart bits d)

/-- A die's partition is another set of dies under the new bits (R17). -/
def rangeChanges (old new : BitVec 8) (die : Nat) : Bool :=
  decide (rangeStart old die ≠ rangeStart new die) || decide (rangeEnd old die ≠ rangeEnd new die)

/-- A repartition request is carried out, or refused as a whole (R17, R430). (DEDUCED: notes/assumptions/23.md.) -/
def modcfgRequest (s : State) (bits : BitVec 8) : State :=
  let new := bits ||| 1
  if !rangesAligned new then { s with modStatus := 2 }
  else if !rangesPure new s.present then { s with modStatus := 3 }
  else if s.threads.any fun e => rangeChanges s.modcfg new (dieOf (coreOf e.1)) then { s with modStatus := 1 }
  else { s with modcfg := new, modStatus := 0 }

/-! ### Meanings -/

/-- DOORBELL (R304). -/
def execDoorbell (part q : Nat) (widx : Word) (s : State) : Host.Outcome State Fault Refusal := .next (doorbell s part q widx)
/-- QUANTUM_BOUNDARY (R305). -/
def execQuantumBoundary (part : Nat) (s : State) : Host.Outcome State Fault Refusal := .next (quantumBoundary s part)
/-- SLOT_SERVICE (R305). -/
def execSlotService (part q : Nat) (widx : Word) (rec' : List Word) (s : State) : Host.Outcome State Fault Refusal :=
  .next (slotService s part q widx rec')
/-- LAUNCH_PLACEMENT (R32). -/
def execLaunchPlacement (part q : Nat) (s : State) : Host.Outcome State Fault Refusal := .next (launchPlacement s part q)
/-- CREW_END (R33). -/
def execCrewEnd (crew : Nat) (s : State) : Host.Outcome State Fault Refusal := .next (crewEnd s crew)
/-- LBREL, place (R392). -/
def execLbrelPlace (part q : Nat) (s : State) : Host.Outcome State Fault Refusal := .next (lbrelPlace s part q)
/-- LBREL, skip (R392). -/
def execLbrelSkip (part q : Nat) (s : State) : Host.Outcome State Fault Refusal := .next (lbrelSkip s part q)
/-- FOREMAN_REGISTER_WRITE (R430). -/
def execForemanRegisterWrite (part off : Nat) (v : Word) (s : State) : Host.Outcome State Fault Refusal :=
  .next (foremanRegisterWrite s part off v)
/-- STOPREQ (R430). -/
def execStopreq (part serial : Nat) (s : State) : Host.Outcome State Fault Refusal := .next (stopreq s part serial)
/-- RESUME (R430). -/
def execResume (part serial : Nat) (s : State) : Host.Outcome State Fault Refusal := .next (resumeRequest s part serial)
/-- PFDENY (R373). -/
def execPfdeny (part : Nat) (v : Word) (s : State) : Host.Outcome State Fault Refusal := .next (s.denyFault part v)
/-- TLBCMD as TLBINV.page (R375). -/
def execTlbcmdPage (part : Nat) (guild : BitVec 16) (s : State) : Host.Outcome State Fault Refusal := .next (tlbCommand s part 0 guild)
/-- TLBCMD as TLBINV.guild (R375). -/
def execTlbcmdGuild (part : Nat) (guild : BitVec 16) (s : State) : Host.Outcome State Fault Refusal := .next (tlbCommand s part 1 guild)
/-- TLBCMD as TLBINV.all (R375). -/
def execTlbcmdAll (part : Nat) (s : State) : Host.Outcome State Fault Refusal := .next (tlbCommand s part 2 0)
/-- TLBINV_COMPLETE (R375). -/
def execTlbinvComplete (part i : Nat) (s : State) : Host.Outcome State Fault Refusal := .next (tlbinvComplete s part i)
/-- MODCFG (R17). -/
def execModcfg (bits : BitVec 8) (s : State) : Host.Outcome State Fault Refusal := .next (modcfgRequest s bits)

end Sys2Proof.Machine
end

