-- ==== Sys2Proof/Machine/Links.lean ====
section
/-!
DEFINITION. Sys2Proof/Machine/Links.lean: host, peer and scale-out links: requests that arrive, and answers, refusals and losses
of requests that have left (R165, R166, R177, R280, R424-R428, R441).
-/

namespace Sys2Proof.Machine

/-! ### Edge accesses of module memory (R162, R166, R426, R427) -/

/-- The partition that holds an address of region 0x00, where HBM stands behind it (R135, R440). -/
def State.homePart (s : State) (pa : Nat) : Option Nat :=
  if pa / 2 ^ 36 < 8 ∧ pa % 2 ^ 36 < Config.stackBytes ∧ s.present.getLsbD (pa / 2 ^ 36) then some (s.partOf (pa / 2 ^ 36)) else none

/-- The first partition of the module. -/
def State.firstPart (s : State) : Nat := (((List.range 8).find? fun d => s.present.getLsbD d).map s.partOf).getD 0

/-- A MCHECK event with a cause and an address (R374). (DEDUCED: notes/assumptions/33.md.) -/
def State.mcheck (s : State) (p cause : Nat) (addr : Word) : State := s.report p none 5 cause 0 0 0 0 addr

/-- An edge commit of bytes of one line (R166). The host holds no copy of a line that it writes itself. -/
def State.edgeCommit (s : State) (p : Nat) (cells : List Host.Cell) (byHost : Bool) : State :=
  (if byHost then { s with hostHeld := s.hostHeld.filter fun l => !(cellLines cells).contains l } else s).commitCells p cells

/-- An answer leaves over a link. -/
def State.answer (s : State) (addr : Nat) (bs : List Byte) : State := { s with answers := s.answers ++ [(addr, bs)] }

/-- The host resizes BAR2, to a power of two from 1 GiB to 512 GiB (R424). -/
def resizeBar (s : State) (size : Nat) : State :=
  if 2 ^ 30 ≤ size ∧ size ≤ 2 ^ 39 ∧ size = 2 ^ Nat.log2 size then { s with bar2 := size } else s

/-- A block that is home to one of the lines of a run is held (R432). -/
def State.homesHeld (s : State) (pa n : Nat) : Bool := (((List.range n).map fun i => lineOf (pa + i)).dedup).any s.homeHeld

/-- A host read (R426): a byte without HBM makes it complete as unsupported, which is an answer of no bytes. Under HDM-DB the
host may go on holding the lines (R424). -/
def hostRead (s : State) (addr len : Nat) (hold : Bool) : State :=
  if s.bar2 < addr + len ∨ s.held 6 0 ∨ s.postHeld none (runDwords addr len) ∨ s.homesHeld addr len then s
  else
    let all := (List.range len).all fun i => (s.homePart (addr + i)).isSome
    let lines := ((List.range len).map fun i => lineOf (addr + i)).dedup
    let s := if all && hold then { s with hostHeld := s.hostHeld ++ lines.filter fun l => !s.hostHeld.contains l } else s
    s.answer addr (if all then (s.settled (runDwords addr len)).readRun addr len else [])

/-- One line of a host write (R426). -/
def State.hostLine (s : State) (cells : List Host.Cell) : State :=
  match cells with
  | [] => s
  | c :: _ =>
    match s.homePart c.1 with
    | some p => s.edgeCommit p cells true
    | none => s.mcheck (s.firstPart) 0 (BitVec.ofNat 64 c.1)

/-- The access meets no older aged chunk, no word at which a released SPOST is still to be applied, and no home that is held (R117, R178,
R432). -/
def State.edgeFree (s : State) (cells : List Host.Cell) : Bool :=
  !s.postHeld none (cellDwords cells) && !(cellLines cells).any s.homeHeld &&
    cells.all fun c => (s.homePart c.1).all fun p => !s.agedBlocks p none [lineOf c.1]

/-- A host write: an edge commit of each line in ascending order (R166, R426). (DEDUCED: notes/assumptions/34.md.) -/
def hostWrite (s : State) (addr : Nat) (bytes : List Byte) : State :=
  let cells := runCells addr bytes
  if s.bar2 < addr + bytes.length ∨ s.held 6 0 ∨ !s.edgeFree cells then s else (splitLines cells).foldl State.hostLine s

/-- The operations of an AtomicOp (R425, R426). -/
def linkOp (op : Nat) (v c : Word) : Option AtomOp :=
  match op with
  | 0 => some (.add v)
  | 1 => some (.swap v)
  | 2 => some (.cas c v)
  | _ => none

/-- An atomic of a word performed at its home slice as one edge commit; its old bytes are the answer. (DEDUCED: notes/assumptions/32.md.) -/
def State.edgeAtomic (s : State) (p pa n : Nat) (op : AtomOp) (byHost : Bool) : State × List Byte :=
  let w := s.settledVal pa n
  let cells := match op.newWord n w with
    | some v => runCells pa (bytesOf n v)
    | none => []
  (s.edgeCommit p cells byHost, bytesOf n w)

/-- A host AtomicOp of 32 or 64 bits (R426); any other, a misaligned one and one without HBM complete as unsupported. -/
def hostAtomic (s : State) (op addr size : Nat) (v c : Word) : State :=
  if s.bar2 < addr + size ∨ s.held 6 0 then s
  else
    match s.homePart addr, linkOp op v c with
    | some p, some o =>
      if size ≠ 4 ∧ size ≠ 8 ∨ addr % size ≠ 0 then s.answer addr []
      else if s.agedBlocks p none [lineOf addr] || s.postHeld none (runDwords addr size) || s.homeHeld (lineOf addr) then s
      else
        let r := s.edgeAtomic p addr size o true
        r.1.answer addr r.2
    | _, _ => s.answer addr []

/-! ### Requests of peer modules (R427, R428) -/

/-- Values of w bytes each from a run of bytes. -/
def elemsOf (w : Nat) (n : Nat) (bs : List Byte) : List Nat := (List.range n).map fun k => ofBytes ((bs.drop (k * w)).take w)

/-- A contribution of a peer arrives; its elements are of the type that its instance declares (R294). -/
def State.peerContrib (s : State) (block index : Nat) (bs : List Byte) : State :=
  let w := (((s.reductions.find? fun r => r.block = block).or (s.savedInstance block)).map fun r => typeBytes (declType (r.words.headD 0))).getD 1
  { s with contributions := s.contributions ++ [⟨block, 0, index, elemsOf w (bs.length / w) bs, none⟩] }

/-- Writes, far atomics and value-returning atomics carry their source partition's commit number; reads, copy payloads and
contributions do not (R428). -/
def numbered (op : Nat) : Bool := decide (1 ≤ op) && decide (op ≤ 5)

/-- The edge access of a peer's request, in the partition that holds the line: 0 a read and 1 a write of the listed bytes, 2 an
atomic add without an answer, 3, 4 and 5 fetch-and-add, swap and compare-and-swap of a word of as many bytes as are listed, 6 a
copy payload. -/
def State.peerAccess (s : State) (op p addr : Nat) (cells : List Host.Cell) (v c : Word) : State :=
  match op with
  | 0 => s.answer addr ((s.settled (runDwords addr cells.length)).readRun addr cells.length)
  | 1 => ((splitLines cells).foldl (fun s l => s.edgeCommit p l false) s).answer addr []
  | 2 => ((s.edgeAtomic p addr cells.length (.add v) false).1).answer addr []
  | 6 => ((splitLines cells).foldl (fun s l => s.edgeCommit p l false) s).answer addr []
  | _ =>
    match linkOp (op - 3) v c with
    | some o =>
      let r := s.edgeAtomic p addr cells.length o false
      r.1.answer addr r.2
    | none => s

/-- A peer's request is performed; op 7 is a contribution to the block at its address. -/
def State.peerPerform (s : State) (r : PeerReq) : State :=
  if r.op = 7 then s.peerContrib r.addr r.v.toNat (r.cells.map Prod.snd)
  else
    match s.homePart r.addr with
    | some p => s.peerAccess r.op p r.addr r.cells r.v r.c
    | none => if r.op = 1 ∨ r.op = 2 ∨ r.op = 6 then s.mcheck (s.firstPart) 0 (BitVec.ofNat 64 r.addr) else s.answer r.addr []

/-- The words of a peer's request. -/
def PeerReq.dwords (r : PeerReq) : List Nat := runDwords r.addr r.cells.length

/-- Something in the module holds a peer's request up (R117, R178, R432). -/
def State.peerHeldUp (s : State) (r : PeerReq) : Bool :=
  s.held 6 0 || !s.edgeFree r.cells || (decide (r.op ≤ 6) && s.postHeld none r.dwords) || (decide (r.op = 0) && s.homesHeld r.addr r.cells.length)

/-- A request writes module memory. -/
def PeerReq.writes (r : PeerReq) : Bool := decide (1 ≤ r.op) && decide (r.op ≤ 6)

/-- Every numbered request of its source with a lower number has been performed (R428). -/
def State.peerFirst (s : State) (r : PeerReq) : Bool :=
  decide (r.coming = 0) && s.peerHeld.all fun x => decide (x.src ≠ r.src) || decide (r.num ≤ x.num)

/-- The held requests that may be performed are, in their order. -/
def State.servePeers (s : State) : Nat → State
  | 0 => s
  | n + 1 =>
    match s.peerHeld.findIdx? fun r => s.peerFirst r && !s.peerHeldUp r && !s.hostHolds (cellLines r.cells) with
    | some i =>
      match s.peerHeld[i]? with
      | some r => ({ s with peerHeld := s.peerHeld.eraseIdx i }.peerPerform r).servePeers n
      | none => s
    | none => s

/-- A numbered request of a source has come, or is lost: those held behind it wait for one fewer (R428). -/
def State.peerCame (s : State) (src num : Nat) : State :=
  { s with peerHeld := s.peerHeld.map fun r => if r.src = src ∧ num < r.num then { r with coming := r.coming - 1 } else r }

/-- What the host holds of the lines of a peer's requests is asked for (R424). -/
def State.peersAsk (s : State) : State :=
  s.peerHeld.foldl (fun s r => if s.peerFirst r then (cellLines r.cells).foldl (fun s l => (s.homePart (l * 64)).elim s fun p => s.askFirst p [l]) s else s) s

/-- The held requests are looked at. -/
def peersGoOn (s : State) : State := s.peersAsk.servePeers s.peerHeld.length

/-- A peer's request (R427, R428). One source partition's numbered requests are performed in the order of their numbers: coming says how
many of its requests of a lower number are still on their way, and one that is reported lost, op 8, is waited for no longer.
(DEDUCED: notes/assumptions/34.md.) -/
def peerRequest (s : State) (op src num coming addr : Nat) (cells : List Host.Cell) (v c : Word) : State :=
  let r : PeerReq := ⟨op, src, num, coming, addr, cells, v, c⟩
  if op = 8 then peersGoOn (s.peerCame src num)
  else if 8 < op then s
  else if numbered op then
    let s := s.peerCame src num
    peersGoOn { s with peerHeld := s.peerHeld ++ [r] }
  else if s.peerHeldUp r then s
  else if r.writes && s.hostHolds (cellLines cells) then (s.homePart addr).elim s fun p => s.askFirst p (cellLines cells)
  else s.peerPerform r

/-! ### Requests that have left (R165, R425, R428) -/

/-- No request to the same destination comes before this one (R165). -/
def State.linkFirst (s : State) (id : Nat) (r : LinkReq) : Bool :=
  !r.kind.ordered ||
    (!s.unsentBelow r.part (s.linkDest r.kind.pa) r.no &&
      s.links.all fun e => decide (e.2.part ≠ r.part) || !e.2.kind.ordered || decide (s.linkDest e.2.kind.pa ≠ s.linkDest r.kind.pa) ||
        decide (r.no < e.2.no) || (decide (r.no = e.2.no) && decide (id ≤ e.1)))

/-- A thread's read, or atomic, has its answer. -/
def State.giveReply (s : State) (tid id pa : Nat) (atomic : Bool) (bs : List Byte) : State :=
  match s.thread tid with
  | none => s
  | some t =>
    if atomic then s.setThread tid { t with replies := [(pa, bs)] }
    else if t.run = .link id then s.setThread tid { t with run := .running, replies := t.replies ++ [(pa, bs)] }
    else s

/-- A request is performed at its destination and answered; memory of another partition is in this module, the rest answers with
the bytes given (R165, R177, R441). -/
def State.performLink (s : State) (id : Nat) (k : LinkKind) (bytes : List Byte) : State :=
  let near := regionOf k.pa = 0
  match k with
  | .read tid pa n _ none => s.giveReply tid id pa false (if near then (s.settled (runDwords pa n)).readRun pa n else bytes)
  | .read tid pa n _ (some op) =>
    if near then
      let r := s.edgeAtomic (s.partOf (pa / 2 ^ 36)) pa n op false
      r.1.giveReply tid id pa true r.2
    else s.giveReply tid id pa true bytes
  | .write _ pa cells => s.remoteCommit pa cells
  | .add _ pa n v => if near then (s.edgeAtomic (s.partOf (pa / 2 ^ 36)) pa n (.add v) false).1 else s
  | .fetch core e pa n _ =>
    match s.engineOf core e with
    | some x => s.setEngine core { x with reads := x.reads ++ runCells pa (if near then (s.settled (runDwords pa n)).readRun pa n else bytes) }
    | none => s
  | .payload core e _ cells => (s.remoteCommit k.pa cells).ackPayload core e
  | .contrib core e _ _ _ => s.contributed (some (core, e)) (decide (bytes.headD 0 ≠ 0))

/-- Bytes that the answer of a request brings; that of a contribution says whether the peer has discarded it. -/
def LinkKind.answerSize (k : LinkKind) : Nat :=
  match k with
  | .read _ _ n _ _ => n
  | .fetch _ _ _ n _ => n
  | .contrib _ _ _ _ _ => 1
  | _ => 0

/-- The lines of module memory that a request to another partition writes. -/
def LinkKind.nearLines (k : LinkKind) : List Nat :=
  match k with
  | .read _ pa _ _ (some _) => [lineOf pa]
  | .write _ _ cells => cellLines cells
  | .add _ pa _ _ => [lineOf pa]
  | .payload _ _ _ cells => cellLines cells
  | _ => []

/-- The dwords of module memory that a request to another partition reads or writes. -/
def LinkKind.nearDwords (k : LinkKind) : List Nat :=
  match k with
  | .read _ pa n _ _ => runDwords pa n
  | .write _ _ cells => cellDwords cells
  | .add _ pa n _ => runDwords pa n
  | .fetch _ _ pa n _ => runDwords pa n
  | .payload _ _ _ cells => cellDwords cells
  | .contrib _ _ _ _ _ => []

/-- LINK_COMPLETION: a request is performed and its completion arrives. What it writes in this module the host gives up first (R424). -/
def linkCompletion (s : State) (id : Nat) (bytes : List Byte) : State :=
  match assocGet? id s.links with
  | none => s
  | some r =>
    let near := decide (regionOf r.kind.pa = 0)
    let lines := (r.kind.nearDwords.map fun d => d / 8).dedup
    let held := if near then
        s.agedBlocks (s.partOf (r.kind.pa / 2 ^ 36)) none r.kind.nearLines || s.postHeld none r.kind.nearDwords || lines.any s.homeHeld
      else s.held 6 0
    if s.linkFirst id r && !held && (near || decide (bytes.length = r.kind.answerSize)) then
      if near && s.hostHolds r.kind.nearLines then s.askFirst (s.partOf (r.kind.pa / 2 ^ 36)) r.kind.nearLines
      else { s with links := assocDrop id s.links }.performLink id r.kind bytes
    else s

/-- A read that a link has refused or lost raises cause 0x11 at its head, at its turn in deterministic mode (R366, R425). (DEDUCED: notes/assumptions/33.md.) -/
def State.readLost (s : State) (tid id : Nat) (va : Word) : State :=
  match s.thread tid with
  | some t =>
    if t.run = .link id then
      let t := { t with run := .running }
      headFault s tid t (t.current s) 0x11 va
    else s
  | none => s

/-- An atomic that a link has refused or lost: its chunk leaves no effect, and cause 0x11 is raised at its head. -/
def State.atomicLost (s : State) (tid no : Nat) (va : Word) : State :=
  match s.thread tid with
  | some t =>
    if t.chunks.any fun c => decide (c.stage = .granted no) then
      let p := crewPart t.crew
      let s := { s with commits := (s.commits.map fun m : Commit =>
        if m.part = p ∧ m.no = no ∧ m.tid = some tid then { m with tid := none } else m).filter fun m : Commit => !m.over }
      takeTrap s tid { t.rewind 0 with chunks := [] } 0x11 va
    else s
  | none => s

/-- An engine command ends with PEER (R275, R276). -/
def State.peerFail (s : State) (core id : Nat) (dest : Bool) (va : Word) : State :=
  match s.engineOf core id with
  | none => s
  | some e =>
    if e.sent then s.endEngine core e true
    else s.engineNow core { e.fail .peer (failValue dest va) with unacked := e.unacked - dest.toNat }

/-- What becomes of a request that is refused or lost (R425). -/
def State.loseLink (s : State) (id : Nat) (r : LinkReq) : State :=
  let s := { s with links := assocDrop id s.links }
  match r.kind with
  | .read tid _ _ va none => s.readLost tid id va
  | .read tid _ _ va (some _) => s.atomicLost tid r.no va
  | .write _ pa _ => s.mcheck r.part 0x11 (BitVec.ofNat 64 pa)
  | .add _ pa _ _ => s.mcheck r.part 0x11 (BitVec.ofNat 64 pa)
  | .fetch core e _ _ va => s.peerFail core e false va
  | .payload core e va _ => s.peerFail core e true va
  | .contrib core e _ _ _ => if (s.engineOf core e).isSome then s.peerFail core e true 0 else s.endSaved e true

/-- How long a request to a region may stay unanswered, in nanoseconds: 50 ms to the host, 1 ms to a peer (R425, R428). -/
def linkLimit (region : Nat) : Nat := if region = 1 then 50000000 else 1000000

/-- LINK_TIMEOUT. -/
def linkTimeout (s : State) (id : Nat) : State :=
  match assocGet? id s.links with
  | some r =>
    let g := regionOf r.kind.pa
    if (g = 1 ∨ g = 2) ∧ r.sent + linkLimit g ≤ s.time then s.loseLink id r else s
  | none => s

/-- LINK_REFUSAL. -/
def linkRefusal (s : State) (id : Nat) : State :=
  match assocGet? id s.links with
  | some r => if regionOf r.kind.pa = 1 ∨ regionOf r.kind.pa = 2 then s.loseLink id r else s
  | none => s

/-- MODNUM_LEARN: the links reach a switch and the module learns its port number (R427). -/
def modnumLearn (s : State) (num : BitVec 8) : State :=
  if s.modnum = none ∧ num.toNat < 192 then { s with modnum := some num } else s

/-- BACK_INVALIDATE_ANSWER: the host gives up a line (R424). -/
def backInvalidateAnswer (s : State) (line : Nat) : State :=
  { s with backInv := s.backInv.filter fun b => b.1 ≠ line, hostHeld := s.hostHeld.filter fun l => l ≠ line }

/-! ### Meanings -/

/-- HOST_READ (R426). -/
def execHostRead (addr len : Nat) (hold : Bool) (s : State) : Host.Outcome State Fault Refusal := .next (hostRead s addr len hold)
/-- HOST_WRITE (R426). -/
def execHostWrite (addr : Nat) (bytes : List Byte) (s : State) : Host.Outcome State Fault Refusal := .next (hostWrite s addr bytes)
/-- HOST_ATOMICOP (R426). -/
def execHostAtomicop (op addr size : Nat) (v c : Word) (s : State) : Host.Outcome State Fault Refusal :=
  .next (hostAtomic s op addr size v c)
/-- PEER_REQUEST (R428). -/
def execPeerRequest (op src : Nat) (num : PeerNumber) (addr : Nat) (bytes : List Host.Cell) (v c : Word) (s : State) :
    Host.Outcome State Fault Refusal := .next (peerRequest s op src num.num num.coming addr bytes v c)
/-- LINK_TIMEOUT (R425). -/
def execLinkTimeout (id : Nat) (s : State) : Host.Outcome State Fault Refusal := .next (linkTimeout s id)
/-- LINK_REFUSAL (R425). -/
def execLinkRefusal (id : Nat) (s : State) : Host.Outcome State Fault Refusal := .next (linkRefusal s id)
/-- LINK_COMPLETION (R177). -/
def execLinkCompletion (id : Nat) (bytes : List Byte) (s : State) : Host.Outcome State Fault Refusal :=
  .next (linkCompletion s id bytes)
/-- MODNUM_LEARN (R427). -/
def execModnumLearn (num : BitVec 8) (s : State) : Host.Outcome State Fault Refusal := .next (modnumLearn s num)
/-- BACK_INVALIDATE_ANSWER (R424). -/
def execBackInvalidateAnswer (line : Nat) (s : State) : Host.Outcome State Fault Refusal := .next (backInvalidateAnswer s line)

end Sys2Proof.Machine
end

