-- ==== Sys2Proof/Machine/Stops.lean ====
section
/-!
DEFINITION. Sys2Proof/Machine/Stops.lean: gang stops, stop records, resumption and the ends of snapshots (R344, R345, R359,
R368, R381-R388, R422, R429).
-/

namespace Sys2Proof.Machine

/-! ### Halting the members (R345, R383, R384 steps 1 and 2) -/

/-- A member has a granted chunk that is not yet acknowledged. -/
def Thread.granted (t : Thread) : Bool := t.chunks.any fun c => !c.ungranted

/-- A command sends a contribution. -/
def CopyKind.isContrib (k : CopyKind) : Bool :=
  match k with
  | .contrib _ _ _ _ => true
  | _ => false

/-- A core still carries out something of a crew that was granted or sent before the stop: a panel command, or a request or
completion word of an engine command (R246, R279). A contribution that has been sent is waited for by its command. -/
def Core.committing (c : Core) (crew : Nat) : Bool :=
  (c.panelQ.any fun k => decide (k.crew = crew)) ||
    c.engine.any fun e => decide (e.cmd.crew = crew) && (decide (e.unacked ≠ 0) || (e.sent && !e.cmd.kind.isContrib))

/-- A steal request of one of a crew's members, or its answer, is under way (R313). -/
def State.stealOut (s : State) (w : Crew) : Bool := s.net.any fun e => w.members.any fun m => e.2.stealOf m.2

/-- A bench core of a crew's episodes has commits that are not yet acknowledged (R422). -/
def State.benchOut (s : State) (crew : Nat) : Bool := s.benches.any fun e => decide (e.2.crew = crew) && !(s.benchUnacked e.1).isEmpty

/-- Everything that a stop waits for is done (R359, R381, R383, R384, R422). (DEDUCED: notes/assumptions/36.md.) -/
def State.mayHalt (s : State) (crew : Nat) (w : Crew) : Bool :=
  w.stopping.isSome && w.stopped.isNone && !s.microOut w && !s.exchangeOut w &&
    (w.members.all fun m => (s.thread m.2).all fun t => !t.granted) && !s.stealOut w && !s.benchOut crew && s.cores.all fun c => !c.2.committing crew

/-- STATE of a halt record (R345): what the member was doing when it stopped. -/
def haltState (t : Thread) (fault : Bool) : Nat :=
  if fault then 4
  else match t.run with
    | .stopped => 4
    | .bar _ _ => 1
    | .pushing _ => 1
    | .xend => 3
    | .none => 5
    | .idle _ => 5
    | .parked _ _ => 7
    | .watch _ _ => 6
    | .matrix _ => 6
    | .engine _ => 6
    | .reduction _ _ _ _ _ => 6
    | .link _ => 6
    | .captured _ _ _ => 3
    | .running => if t.settled.arch.arming.isSome then 2 else 0

/-- What a member goes on with after its resumption: a wait whose head has not completed, and a chunk that met a page fault,
execute again (R387). -/
def Run.resumed (r : Run) : Run :=
  match r with
  | .watch _ _ => .running
  | .link _ => .running
  | .matrix _ => .running
  | .engine _ => .running
  | .reduction _ _ _ _ _ => .running
  | .parked _ _ => .running
  | .stopped => .running
  | _ => r

/-- A member as it stops: its registers are those of its last committed chunk (R384); a fault that its turn has come to is looked at
again in that turn (R366, R387). -/
def Thread.halted (t : Thread) : Thread :=
  { t.settled with run := .stopped, pending := t.pending.filter fun p => p = .turn, fetch := none, replies := [], checked := [], absent := none, denied := none }

/-- A member's record of its halt: its STATE and what it goes on with. -/
def Thread.haltNote (t : Thread) (fault : Bool) : Nat × Run :=
  (haltState t fault, t.run.resumed)

/-- Walks no longer wait for a thread. -/
def Cluster.forgetWaiter (c : Cluster) (tid : Nat) : Cluster :=
  { c with walks := c.walks.map fun k => { k with waiters := k.waiters.filter fun x => x.tid ≠ tid } }

/-- One member stops: its ungranted chunks are discarded. -/
def State.haltMember (s : State) (tid : Nat) : State :=
  match s.thread tid with
  | none => s
  | some t =>
    let s := (s.dropUnits tid (t.chunks.filter Chunk.ungranted)).setThread tid t.halted
    { s with clusters := s.clusters.map fun c => (c.1, c.2.forgetWaiter tid) }

/-! ### The stop record (R345, R385) -/

/-- The size of a frame and of an image under VPOL 1 (R379, R385). -/
def imageSize (w : Crew) : Nat := 0x400 + 64 * w.vregs + 1024 * w.tiles

/-- The dwords of an image at 0x200 (R385). -/
def Arch.imageWords (a : Arch) : List Word :=
  [a.pc, a.status, a.fps, a.srkey, a.srctr, a.repst, a.tvec, a.tcause, a.tpc, a.tstat, a.tval, a.hscratch, a.gtb, a.trepst,
   BitVec.ofNat 64 a.wdcount, a.wdlimit]

/-- An image of a member (R385). -/
def Arch.image (a : Arch) (w : Crew) : List Byte :=
  ((List.range 64).flatMap fun i => bytesOf 8 (a.getX (BitVec.ofNat 6 i)).toNat) ++
  (a.imageWords.flatMap fun v => bytesOf 8 v.toNat) ++
  ((List.range 8).flatMap fun i => bytesOf 8 (a.getM (BitVec.ofNat 3 i)).toNat) ++
  ((List.range 4).flatMap fun i => bytesOf 8 (a.getS (BitVec.ofNat 2 i)).toNat) ++
  List.replicate 0x120 0 ++
  ((List.range w.vregs).flatMap fun i => bytesOf 64 (a.getV (BitVec.ofNat 5 i)).toNat) ++
  (List.range w.tiles).flatMap fun i => bytesOf 1024 (a.getA (BitVec.ofNat 4 i)).toNat

/-- A halt record of 32 bytes (R345). -/
def haltRecord (s : State) (k : Stopped) (l tid : Nat) (t : Thread) : List Byte :=
  let st := ((assocGet? l k.halts).map Prod.fst).getD 0
  let cause := if k.raiser = some l then k.cause else 0
  bytesOf 8 (cause * 2 ^ 56 + st * 2 ^ 48 + s.vcnReg tid * 2 ^ 19 + l) ++ bytesOf 8 t.commitno ++
    bytesOf 8 (t.ltx % 2 ^ 32 * 2 ^ 32 + t.msent % 2 ^ 32) ++ bytesOf 8 (t.lrx % 2 ^ 32 * 2 ^ 32 + t.mrecv % 2 ^ 32)

/-- The members of a crew with their threads, in order of L. -/
def State.memberThreads (s : State) (w : Crew) : List (Nat × Nat × Thread) :=
  w.members.filterMap fun m => (s.thread m.2).map fun t => (m.1, m.2, t)

/-- The bytes of a stop record whose opaque remainder is given (R385). -/
def stopRecord (s : State) (crew : Nat) (w : Crew) (k : Stopped) (rest : List Byte) : List Byte :=
  let ms := s.memberThreads w
  let halts := ms.flatMap fun m => haltRecord s k m.1 m.2.1 m.2.2
  let images := ms.flatMap fun m => m.2.2.arch.image w
  let size := 64 + halts.length + images.length + rest.length
  (bytesOf 8 (crew % 2 ^ 32) ++ bytesOf 8 k.cut ++ bytesOf 8 w.members.length ++
    bytesOf 8 (k.cause + k.raiser.getD 0 * 2 ^ 8) ++ bytesOf 8 size ++ List.replicate 24 0) ++ halts ++ images ++ rest

/-- The opaque remainder of a record: its length, which memory can hold, and its bytes are left open.
(DESIGN CHOICE: notes/assumptions/4.md.) -/
def State.remainder (s : State) : Nat := (Config.freeWord s.free).toNat % 2 ^ 48

/-- The size of a stop record without its remainder. -/
def recordSize (w : Crew) : Nat := 64 + (32 + imageSize w) * w.members.length

/-- Where a record of some size goes, if it fits in the stop area (R385). (DEDUCED: notes/assumptions/38.md.) -/
def Part.recordPlace (q : Part) (size : Nat) : Option Nat :=
  let at' := (q.stopBase.toNat + q.stopNext + 63) / 64 * 64
  if q.stopBase ≠ 0 ∧ regionOf q.stopBase.toNat ≤ 1 ∧ at' + size ≤ q.stopBase.toNat + q.stopSize.toNat then some at' else none

/-- A crew's engine commands and drains are taken off its cores, with what else it left there. -/
def State.dropWork (s : State) (crew : Nat) : State :=
  State.forgetCrew { s with cores := s.cores.map fun c => (c.1, { c.2 with
    engine := c.2.engine.filter fun e => e.cmd.crew ≠ crew, drains := c.2.drains.filter fun d => d.crew ≠ crew }) } crew

/-- What a crew leaves on its cores is saved with its state, with its reduction instances, and its slots and allotments are released
(R246, R279, R384 step 4). R33 lets a pre-empted crew release nothing until it ends, and R384 releases these at the stop: the model
follows R384 for them; its pages of the overflow pool stay its own until it ends (R320). (DESIGN CHOICE: notes/assumptions/54.md.) -/
def State.saveCrew (s : State) (crew : Nat) (w : Crew) (k : Stopped) (pa : Nat) : State :=
  let mine := fun e : DequeEntry => decide (e.crew = crew)
  let instances := s.reductions.filter fun r => r.crew = crew
  let ofThem := fun c : Contribution => instances.any fun r => decide (r.block = c.block)
  let k := { k with
    recordAt := some pa
    members := (s.memberThreads w).map fun m => (m.2.1, { m.2.2 with overflow := s.overflowOf m.2.2 })
    deques := s.cores.filterMap fun c =>
      let l := ((s.dequeCore c.1).deque ++ (s.dequeCore c.1).spill).filter mine
      if l.isEmpty then none else some (c.1, l)
    counters := s.cores.flatMap fun c => (c.2.counters.filter fun x => x.crew = crew).map fun x => (c.1, x)
    stray := s.cores.filterMap fun c => (assocGet? crew c.2.stray).map fun n => (c.1, n)
    panels := s.cores.flatMap fun c => (c.2.panels.filter fun p => p.2.owner = some crew).map fun p => (c.1, p.1, p.2)
    engine := s.cores.flatMap fun c => (c.2.engine.filter fun e => e.cmd.crew = crew).map fun e => (c.1, e)
    drains := s.cores.flatMap fun c => (c.2.drains.filter fun d => d.crew = crew).map fun d => (c.1, d)
    reductions := instances
    contributions := s.contributions.filter ofThem }
  let s := State.dropWork { s with
    threads := s.threads.filter fun e => e.2.crew ≠ crew
    reductions := s.reductions.filter fun r => r.crew ≠ crew
    contributions := s.contributions.filter fun c => !ofThem c } crew
  s.setCrew crew { w with stopped := some k }

/-- A crew stopped by an exchange fault ends with STOPPED (R352); what it had under way goes with it. (DEDUCED: notes/assumptions/39.md.) -/
def State.endStopped (s : State) (crew : Nat) (w : Crew) : State :=
  let s := s.dropWork crew
  State.endCrew { s with reductions := s.reductions.filter fun r => r.crew ≠ crew } crew w 0x0104 0

/-- The record of a stopped crew is written, if it fits: its slots are released and the STOP event is written (R384 steps 3-5,
R385). The end of one that stops for good waits for its writes where a HOST handle asks for that (R310). -/
def State.writeRecord (s : State) (crew : Nat) (w : Crew) (k : Stopped) : Option State :=
  let p := crewPart crew
  let r := s.remainder
  if k.cause = 0x0B ∧ s.wroteHost p w.record ∧ s.writesOut crew then none
  else (((s.part p).recordPlace (recordSize w + r)).map fun pa =>
    let bs := stopRecord s crew w k ((List.range r).map fun i => (Config.freeWord (s.free + 1 + i)).setWidth 8)
    let vcn := ((k.raiser.bind fun l => assocGet? l w.members).map s.vcnReg).getD 0
    let s := { s with free := s.free + 1 + r }.foremanWrite p pa bs
    let q := s.part p
    let s := s.setPart p { q with stopNext := pa + bs.length - q.stopBase.toNat }
    let s := if k.cause = 0x0B then s.endStopped crew w else s.saveCrew crew w k pa
    s.report p none 2 k.cause vcn (k.raiser.getD 0) w.guild.toNat crew (BitVec.ofNat 64 pa))

/-- GANG_STOP (R384): once nothing holds the stop, every member stops, and the record is written if it has room. -/
def gangStop (s : State) (crew : Nat) : State :=
  match s.crew crew with
  | none => s
  | some w =>
    if s.mayHalt crew w then
      let (cause, raiser) := w.stopping.getD (0, none)
      let ms := s.memberThreads w
      let k : Stopped :=
        { cause, raiser, cut := (ms.map fun m => m.2.2.commitno).foldl max w.lastNo, recordAt := none,
          halts := ms.map fun m => (m.1, m.2.2.haltNote (decide (raiser = some m.1 ∧ cause ≠ 0))),
          members := [], deques := [], counters := [], stray := [], panels := [], engine := [], drains := [],
          reductions := [], contributions := [] }
      let w := { w with stopped := some k, resume := false }
      let s := (ms.foldl (fun s m => s.haltMember m.2.1) (s.setCrew crew w)).suspendEpisodes crew true
      (s.writeRecord crew w k).getD s
    else s

/-- STOP_RECORD_WRITE (R385): the first stopped crew of a partition whose record waited and now fits. -/
def stopRecordWrite (s : State) (p : Nat) : State :=
  (s.crews.findSome? fun e =>
    match e.2.stopped with
    | some k => if crewPart e.1 = p ∧ k.recordAt = none then s.writeRecord e.1 e.2 k else none
    | none => none).getD s

/-! ### Resumption (R385, R387) -/

/-- Dword i of an image. -/
def imageWord (img : List Byte) (i : Nat) : Word := BitVec.ofNat 64 (ofBytes ((img.drop (8 * i)).take 8))

/-- The spans of an image are such as a span register holds (R53). -/
def spansOk (img : List Byte) : Bool := (List.range 3).all fun i => spanOk (imageWord img (89 + i))

/-- A member's registers as its image holds them, its fps as the dword stands; spans that no instruction can place become open ones.
(DESIGN CHOICE: notes/assumptions/55.md.) -/
def Arch.ofImage (a : Arch) (w : Crew) (img : List Byte) (open' : List Word) : Arch :=
  let d := fun i => imageWord img (64 + i)
  let a := (List.range 64).foldl (fun a i => a.setX (BitVec.ofNat 6 i) (imageWord img i)) a
  let a := (List.range 8).foldl (fun a i => a.setM (BitVec.ofNat 3 i) (imageWord img (80 + i))) a
  let a := (List.range 3).foldl (fun a i =>
    a.setS (BitVec.ofNat 2 (i + 1)) (spanPut (imageWord img (89 + i)) (open'.getD i 0))) a
  let a := (List.range w.vregs).foldl (fun a i =>
    a.setV (BitVec.ofNat 5 i) (BitVec.ofNat 512 (ofBytes ((img.drop (0x400 + 64 * i)).take 64)))) a
  let a := (List.range w.tiles).foldl (fun a i =>
    a.setA (BitVec.ofNat 4 i) (BitVec.ofNat 8192 (ofBytes ((img.drop (0x400 + 64 * w.vregs + 1024 * i)).take 1024)))) a
  { a with pc := d 0, status := d 1, fps := d 2, srkey := d 3, srctr := d 4, repst := d 5, tvec := d 6, tcause := d 7,
           tpc := d 8, tstat := d 9, tval := d 10, hscratch := d 11, gtb := d 12, trepst := d 13, wdcount := (d 14).toNat,
           wdlimit := d 15 }

/-- The address of the image of the n-th member of a record. -/
def imageAt (w : Crew) (pa n : Nat) : Nat := pa + 64 + 32 * w.members.length + imageSize w * n

/-- The image of the n-th member of a record, as memory holds it; host is what the host's memory holds of a record in region 0x01, which
the foreman reads over the link (R385). (DEDUCED: notes/assumptions/38.md.) -/
def State.image (s : State) (w : Crew) (pa : Nat) (host : List Byte) (n : Nat) : List Byte :=
  if regionOf pa = 1 then (host.drop (imageAt w pa n - pa)).take (imageSize w) else s.settleAll.readRun (imageAt w pa n) (imageSize w)

/-- An image's status word passes the checks of TRET against the status word that was saved (R370, R385).
(DEDUCED: notes/assumptions/37.md.) -/
def statusOk (w : Crew) (saved : Arch) (v : Word) : Bool := tstatOk { saved with tstat := v } w.det

/-- The cores of a crew. -/
def Crew.cores (w : Crew) : List Nat := (w.members.map fun m => coreOf m.2).dedup

/-- The shape of a crew's part on one core, as far as room goes. -/
def Crew.shapeOn (w : Crew) (core : Nat) : LaunchShape :=
  { dd := w.dd, c := w.c, k := w.k, t := (w.members.filter fun m => coreOf m.2 = core).length, s := w.s, det := w.det,
    dcode := w.dcode, vregs := w.vregs, tiles := w.tiles, cnt := w.cnt, ovf := w.ovf }

/-- Saved instances whose slices have room for them (R294). -/
def State.roomForInstances (s : State) (l : List Reduction) : Bool :=
  (List.range 8).all fun die => decide (s.openOn die + (l.filter fun r => decide (homeDie r.block = die) && !r.waits).length ≤ openMax)

/-- The units that a stopped crew is placed on again have room, the panel numbers that it owned being free (R22, R32, R246, R294);
nothing is placed after a thermal stop until every die is below 100 degrees (R435). -/
def State.roomAgain (s : State) (w : Crew) (k : Stopped) : Bool :=
  s.upkeep.stopHot.isEmpty && (w.cores.all fun c => s.roomOn (w.shapeOn c) c) && s.roomForInstances k.reductions &&
    (k.deques.all fun d => decide (s.placesUsed d.1 + d.2.length ≤ dequeSize + spillSize)) &&
    k.panels.all fun x => ((assocGet? x.2.1 (s.core x.1).panels).bind Panel.owner).isNone

/-- Where the members of a stopped crew are placed again: each by its old slot, on its core (its VCN stays), the lowest free slots in order
of L (R32 step 3, R387). (DEDUCED: notes/assumptions/37.md.) -/
def State.seats (s : State) (w : Crew) : List (Nat × Nat) :=
  w.cores.flatMap fun c =>
    let l := (w.members.filter fun m => coreOf m.2 = c).map Prod.snd
    l.zip (s.freeSlots c l.length)

/-- The new slot of an old one. -/
def seatOf (l : List (Nat × Nat)) (tid : Nat) : Nat := ((l.find? fun e => e.1 = tid).map Prod.snd).getD tid

/-- What a stopped crew keeps, its members in their new slots. -/
def Stopped.seated (k : Stopped) (l : List (Nat × Nat)) : Stopped :=
  { k with members := k.members.map fun m => (seatOf l m.1, m.2)
           deques := k.deques.map fun d => (d.1, d.2.map fun e => { e with bound := e.bound.map (seatOf l) })
           engine := k.engine.map fun e => (e.1, { e.2 with cmd := { e.2.cmd with tid := seatOf l e.2.cmd.tid } })
           drains := k.drains.map fun d => (d.1, { d.2 with tid := seatOf l d.2.tid })
           reductions := k.reductions.map fun r => { r with tid := seatOf l r.tid } }

/-- The core's part of a resumed crew: panels, engine work and reduction instances before any thread (R279, R387). -/
def State.restoreUnits (s : State) (crew : Nat) (k : Stopped) : State :=
  let s := k.panels.foldl (fun s x => s.setCore x.1 { s.core x.1 with panels := assocSet x.2.1 x.2.2 (s.core x.1).panels }) s
  let s := k.engine.foldl (fun s x =>
    let e := { x.2 with asked := x.2.asked.filter fun pa => x.2.reads.any fun c => c.1 = pa }
    s.setCore x.1 { s.core x.1 with engine := (s.core x.1).engine ++ [e] }) s
  let s : State := { s with reductions := s.reductions ++ k.reductions, contributions := s.contributions ++ k.contributions }
  let s := k.drains.foldl (fun s x => s.setCore x.1 { s.core x.1 with drains := (s.core x.1).drains ++ [x.2] }) s
  let s := k.counters.foldl (fun s x => s.setCore x.1 { s.core x.1 with counters := (s.core x.1).counters ++ [x.2] }) s
  let s := k.stray.foldl (fun s x => s.setCore x.1 { s.core x.1 with stray := assocSet crew x.2 (s.core x.1).stray }) s
  k.deques.foldl (fun s d => d.2.reverse.foldl (fun s e => s.push d.1 e) s) s

/-- The threads of a resumed crew, from their images, with their inboxes (R387). -/
def State.restoreThreads (s : State) (w : Crew) (k : Stopped) (imgs : List (List Byte)) : State :=
  (k.members.zip imgs).foldl (fun s m =>
    let t := m.1.2
    let run := ((assocGet? t.l k.halts).map Prod.snd).getD .running
    let o := s.fresh3
    (if spansOk m.2 then s else o.2).setOverflow m.1.1 { t with arch := t.arch.ofImage w m.2 o.1, run := run }) s

/-- The images of a record. -/
def State.images (s : State) (w : Crew) (k : Stopped) (pa : Nat) (host : List Byte) : List (List Byte) :=
  (List.range k.members.length).map (s.image w pa host)

/-- Every image's status word passes its check (R385). -/
def imagesOk (w : Crew) (k : Stopped) (imgs : List (List Byte)) : Bool :=
  (k.members.zip imgs).all fun m => statusOk w m.1.2.arch (imageWord m.2 65)

/-- RESUMPTION (R387): a stopped crew that is to be resumed is placed again, its episodes go on, and it runs; an image whose
status word fails its check refuses the resumption (R385). -/
def resumption (s : State) (crew : Nat) (host : List Byte) : State :=
  match s.crew crew with
  | none => s
  | some w =>
    match w.stopped with
    | none => s
    | some k =>
      match k.recordAt with
      | none => s
      | some pa =>
        let imgs := s.images w k pa host
        if !w.resume then s
        else if !imagesOk w k imgs then s.setCrew crew { w with resume := false }
        else if s.roomAgain w k then
          let l := s.seats w
          let k := k.seated l
          let s := s.setCrew crew { w with stopping := none, stopped := none, resume := false,
                                           members := w.members.map fun m => (m.1, seatOf l m.2) }
          ((s.restoreUnits crew k).suspendEpisodes crew false).restoreThreads w k imgs
        else s

/-! ### Snapshots (R388, R429) -/

/-- The SNAP that began the running snapshot has been acknowledged. -/
def State.snapSettled (s : State) (n : Snapping) : Bool :=
  (s.thread n.tid).all fun t => t.chunks.all fun c => decide (c.stage ≠ .granted n.cut)

/-- The running snapshot ends with a status: its status word is written and the SNAPEND event follows; the MiB sent are left
open. (DEDUCED: notes/assumptions/41.md.) -/
def State.endSnapshot (s : State) (p : Nat) (status : Nat) : State :=
  match s.snapping with
  | some (q, n) =>
    if q = p ∧ s.snapSettled n then
      let (v, s) := s.fresh
      let word := status * 2 ^ 48 + v.toNat % 2 ^ 48
      let s := { s with snapping := none, snaps := s.snaps.map fun k : SnapImage =>
        if k.part = p ∧ k.cut = n.cut then { k with ok := decide (status = 0) } else k }
      (s.foremanWrite p (n.desc.getD 4 0).toNat (bytesOf 8 word)).report p none 6 0 0 0 0 0 (BitVec.ofNat 64 word)
    else s
  | none => s

/-- A link carries a write, or an atomic, rather than a read. -/
def LinkKind.isWrite (k : LinkKind) : Bool :=
  match k with
  | .read _ _ _ _ a => a.isSome
  | .fetch _ _ _ _ _ => false
  | _ => true

/-- A thread of a snapshot as it goes on: as one of a resumed crew, but for the members of a crew that is stopped (R387, R388). -/
def Thread.restored (t : Thread) : Thread :=
  { t with fetch := none, absent := none, run := if t.run = .stopped then t.run else t.run.resumed }

/-- A bench core of a snapshot as it goes on: its clocks go on from the boundary (R423). -/
def Bench.restored (e : Bench) (now : Nat) : Bench := { e with started := now - e.started, seen := now }

/-- A core of a snapshot as it goes on: nothing is cached (R388). -/
def Core.restored (c : Core) : Core :=
  { c with l1 := [], fills := [], probes := [], icache := [], tlb := [],
           engine := c.engine.map fun e => { e with asked := e.asked.filter fun pa => e.reads.any fun x => x.1 = pa } }

/-- A cluster of a snapshot as it goes on: nothing is cached, and its supply and its mark for harvest are those of now (R388, R436). -/
def Cluster.restored (c now : Cluster) : Cluster :=
  { c with icache := [], tlb := [], walks := [], supply := now.supply, harvest := now.harvest }

/-- A packet moves a line to or from an L1. -/
def Packet.ofL1 (k : Packet) : Bool :=
  match k.load with
  | .want _ _ => true
  | .fill _ _ => true
  | .probe _ _ => true
  | _ => false

/-- Entries of a table that satisfy a condition replaced by others. -/
def replaceWhere {β : Type} (mine : Nat × β → Bool) (new old : List (Nat × β)) : List (Nat × β) :=
  new.foldl (fun l e => assocSet e.1 e.2 l) (old.filter fun e => !mine e)

/-- SNAPSHOT_RESTORE (R388): a finished snapshot is loaded into its partition, and every crew goes on; commit numbering continues
after the cut. (DESIGN CHOICE: notes/assumptions/29.md.) -/
def snapshotRestore (s : State) (p k : Nat) : State :=
  match s.snaps[k]? with
  | none => s
  | some i =>
    if i.ok ∧ i.part = p ∧ s.snapping = none then
      { s with
        mem := i.mem.foldl (fun m c => m.write c.1 c.2) (s.mem.filter fun c => !s.inPart p c.1)
        dirty := replaceWhere (fun c => s.inPart p (c.1 * 64)) i.dirty s.dirty
        parts := assocSet p { i.partState with commitNo := i.cut } s.parts
        crews := replaceWhere (fun e => decide (crewPart e.1 = p)) i.crews s.crews
        threads := replaceWhere (fun e => decide (crewPart e.2.crew = p)) (i.threads.map fun e => (e.1, e.2.restored)) s.threads
        cores := replaceWhere (fun e => decide (s.partOf (dieOf e.1) = p)) (i.cores.map fun c => (c.1, c.2.restored)) s.cores
        clusters := i.clusters.foldl (fun l c => assocSet c.1 (Cluster.restored c.2 (s.cluster c.1)) l)
          (s.clusters.map fun e => if s.partOf (e.1 / 100) = p then (e.1, Cluster.restored Cluster.reset e.2) else e)
        benches := replaceWhere (fun e => decide (s.benchPart e.1 = p))
          (i.benches.map fun e => (e.1, e.2.restored s.time)) s.benches
        commits := s.commits.filter (fun c => c.part ≠ p) ++ i.commits
        fars := s.fars.filter (fun f => f.part ≠ p) ++ i.fars
        net := s.net.filter (fun e => s.partOf (e.2.fret / dieFrets) ≠ p) ++ i.net.filter fun e => !e.2.ofL1
        links := s.links.filter (fun e => e.2.part ≠ p) ++ i.links.filter fun e => e.2.kind.isWrite
        reductions := s.reductions.filter (fun r => crewPart r.crew ≠ p) ++ i.reductions
        contributions := s.contributions.filter (fun c => !s.inPart p c.block) ++ i.contributions }
    else s

/-! ### Meanings -/

/-- GANG_STOP (R384). -/
def execGangStop (crew : Nat) (s : State) : Host.Outcome State Fault Refusal := .next (gangStop s crew)
/-- STOP_RECORD_WRITE (R385). -/
def execStopRecordWrite (part : Nat) (s : State) : Host.Outcome State Fault Refusal := .next (stopRecordWrite s part)
/-- RESUMPTION (R387). -/
def execResumption (crew : ResumedCrew) (s : State) : Host.Outcome State Fault Refusal := .next (resumption s crew.crew crew.host)
/-- SNAPSHOT_END (R388). -/
def execSnapshotEnd (part : Nat) (s : State) : Host.Outcome State Fault Refusal := .next (s.endSnapshot part 0)
/-- SNAPSHOT_RESTORE (R388). -/
def execSnapshotRestore (part k : Nat) (s : State) : Host.Outcome State Fault Refusal := .next (snapshotRestore s part k)
/-- SNAPSHOT_LINK_FAILURE (R429). -/
def execSnapshotLinkFailure (part : Nat) (s : State) : Host.Outcome State Fault Refusal := .next (s.endSnapshot part 1)

end Sys2Proof.Machine
end

