-- ==== Sys2Proof/Machine/Upkeep.lean ====
section
/-!
DEFINITION. Sys2Proof/Machine/Upkeep.lean: power, temperature, ageing, integrity, firmware and the module reset (R432-R440).
-/

namespace Sys2Proof.Machine

/-! ### Power (R432, R434) -/

/-- The core whose sample buffer a block writes to (R434): a core's block to its own; a cluster's to its core 0; a slice's, a
stack's and the I/O die's to core 0 of cluster 0 of their die. Slices are numbered 32 to a die. (DEDUCED: notes/assumptions/42.md.) -/
def sampleCore (code block : Nat) : Nat :=
  match code with
  | 3 => block * 32
  | 4 => block / 32 * 3200
  | 5 => block * 3200
  | 6 => 0
  | _ => block

/-- A block's share at reset, as its energy in a window of 1,000 cycles, in picojoules (R432). -/
def shareEnergy (code : Nat) : Nat := [62500, 23400, 3900, 800000, 620000, 45000000, 140000000].getD code 0

/-- The energy at which a block has used up its share of a window. -/
def State.energyLimit (s : State) (code : Nat) : Nat := shareEnergy code * s.upkeep.share / 1000000

/-- POWER_HOLD: a block has measured its energy of a window so far, in picojoules: once that reaches its share it is held for the rest of
the window. -/
def powerHold (s : State) (code block energy : Nat) : State :=
  if 6 < code ∨ energy < s.energyLimit code ∨ (s.upkeep.holdIn code block (s.time / windowCycles)).isSome then s
  else { s with upkeep := { s.upkeep with holds := s.upkeep.holds ++ [(code, block, s.time)] } }

/-- The sample of a window in which a block has been held (R434). -/
def State.powerSample (s : State) (code block till cycles : Nat) : State :=
  let core := sampleCore code block
  s.sample (s.partOf (dieOf core)) core 2 ([code] ++ ((List.range 4).map fun k => till / 2 ^ (16 * k) % 65536) ++ [cycles])

/-- Cycles of a window in which a block has been held, for its energy or for heat, at most 750 (R432, R435). -/
def State.heldCycles (s : State) (code block window : Nat) : Nat :=
  min holdCycles (s.upkeep.causeCycles code block window ((window + 1) * windowCycles))

/-- A block's window is noted as sampled, and its holds for energy up to there are forgotten. -/
def Upkeep.windowDone (u : Upkeep) (code block window : Nat) : Upkeep :=
  let mine := fun h : Nat × Nat × Nat => decide (h.1 = code) && decide (h.2.1 = block)
  { u with holds := u.holds.filter fun h => !mine h || decide (window < h.2.2 / windowCycles)
           sampled := (u.sampled.filter fun h => !mine h) ++ [(code, block, window)] }

/-- POWER_WINDOW: a block's window has ended; if the block has been held in it, that is sampled, once (R434). (DEDUCED:
notes/assumptions/42.md.) -/
def powerWindow (s : State) (code block : Nat) : State :=
  let now := s.time / windowCycles
  if 6 < code ∨ now = 0 ∨ s.upkeep.sampled.contains (code, block, now - 1) then s
  else
    let n := s.heldCycles code block (now - 1)
    let s' : State := { s with upkeep := s.upkeep.windowDone code block (now - 1) }
    if n = 0 then s' else s'.powerSample code block (now * windowCycles) n

/-- Shares at reset, in millionths of themselves; the module's power and the draw below which shares return, in milliwatts. -/
def shareFull : Nat := 1000000
def powerMax : Nat := 3600000
def powerLow : Nat := 3400000

/-- DRAW_MEASUREMENT: the draw in milliwatts; above the module's power every share is lowered in proportion. -/
def drawMeasurement (s : State) (mw : Nat) : State :=
  let u := s.upkeep
  let u := if powerLow ≤ mw then { u with drawHigh := s.time } else u
  { s with upkeep := if powerMax < mw then { u with share := u.share * powerMax / mw } else u }

/-- SHARE_RESTORE: the draw has stayed below 3,400 W for 1 ms. -/
def shareRestore (s : State) : State :=
  if s.upkeep.drawHigh + 1000000 ≤ s.time then { s with upkeep := { s.upkeep with share := shareFull } } else s

/-! ### Temperature (R435) -/

/-- A number joins a list of numbers. -/
def joinList (n : Nat) (l : List Nat) : List Nat := if l.contains n then l else l ++ [n]

/-- A die is hot from a time on; what it had cooled from before the last window is forgotten. The I/O die is die 8. -/
def Upkeep.heats (u : Upkeep) (die now : Nat) : Upkeep :=
  if u.heat.any fun h => decide (h.1 = die) && h.2.2.isNone then u
  else { u with heat := (u.heat.filter fun h => h.2.2.all fun t => decide (now < t + 2 * windowCycles)) ++ [(die, now, none)] }

/-- THERMAL_HOLD: a die reaches 105 degrees. (DEDUCED: notes/assumptions/43.md.) -/
def thermalHold (s : State) (die : Nat) : State :=
  let u := s.upkeep
  if die ≤ 8 then
    { s with upkeep := { u.heats die s.time with stopHot := if u.stopHot.isEmpty then [] else joinList die u.stopHot } }
  else s

/-- The dies that are hot. -/
def Upkeep.hot (u : Upkeep) : List Nat := (u.heat.filter fun h => h.2.2.isNone).map Prod.fst

/-- THERMAL_STOP: a die reaches 115 degrees, while the dies listed, with those that are hot, are not below 100. (DEDUCED:
notes/assumptions/43.md.) -/
def thermalStop (s : State) (die : Nat) (warm : List Nat) : State :=
  if die ≤ 8 then
    let u := s.upkeep.heats die s.time
    let s : State := { s with upkeep := { u with stopHot := ((warm.filter fun d => d ≤ 8) ++ u.hot).foldl (fun l d => joinList d l) u.stopHot } }
    s.crews.foldl (fun s e =>
      if e.2.stopped.isNone then
        (s.stopCrew e.1 0x11 none).report (crewPart e.1) none 5 0x11 0 0 e.2.guild.toNat e.1 0
      else s) s
  else s

/-- THERMAL_RELEASE: a die falls below 100 degrees. -/
def thermalRelease (s : State) (die : Nat) : State :=
  let u := s.upkeep
  { s with upkeep := { u with heat := u.heat.map fun h => if h.1 = die ∧ h.2.2.isNone then (die, h.2.1, some s.time) else h
                              stopHot := u.stopHot.filter fun d => d ≠ die } }

/-! ### Ageing and integrity (R436-R438) -/

/-- Steps of 5 mV that firmware may add to a cluster's supply. -/
def supplyMax : Nat := 10

/-- The physical cluster of a virtual one, 256 to a die (R15, R440). (DESIGN CHOICE: notes/assumptions/45.md.) -/
def Upkeep.physOf (u : Upkeep) (cl : Nat) : Nat := ((assocGet? cl u.remap).map ClusterPlace.phys).getD (256 * (cl / 100) + cl % 100)

/-- A cluster's margin has fallen below its target: one step more, or the mark for harvest with its event; nothing more for one that is
marked. -/
def State.raiseSupply (s : State) (cl : Nat) : State :=
  let c := s.cluster cl
  let u := s.upkeep
  if c.harvest then s
  else if c.supply < supplyMax then
    { s.setCluster cl { c with supply := c.supply + 1 } with upkeep := { u with ageing := assocSet (u.physOf cl) (c.supply + 1) u.ageing } }
  else
    State.report { s.setCluster cl { c with harvest := true } with upkeep := { u with toHarvest := joinList (u.physOf cl) u.toHarvest } }
      (s.partOf (cl / 100)) none 5 0 (s.vcnReg (cl * 512)) 0 0 0 0

/-- AGEING_CHECK: the clusters whose margin is below its target, each as often as it takes a step. -/
def ageingCheck (s : State) (low : List Nat) : State := low.foldl State.raiseSupply s

/-- PATROL_SCRUB: a scrub that has found an error in a line, which it has corrected, or which it marks as uncorrectable; every
such error freezes the recorders of the line's partition (R393). (DEDUCED: notes/assumptions/43.md.) -/
def patrolScrub (s : State) (line : Nat) (bad : Bool) : State :=
  let s := if bad then { s with marked := joinList line s.marked } else s
  if homeDie (line * 64) < 8 then s.askFreeze (s.partOf (homeDie (line * 64))) 1 else s

/-- CRC-16 (R438), one bit: the register shifts left, and 0x1021 enters where its top bit differs from the bit fed. -/
def crcBit (c : BitVec 16) (b : Bool) : BitVec 16 := if c.msb != b then (c <<< 1) ^^^ 0x1021 else c <<< 1
/-- One byte, its most significant bit first. -/
def crcByte (c : BitVec 16) (b : Byte) : BitVec 16 :=
  [7, 6, 5, 4, 3, 2, 1, 0].foldl (fun c i => crcBit c (b.getLsbD i)) c
/-- The check value of a line at a physical address (R438). -/
def lineCheck (pa : Nat) (l : Line) : BitVec 16 := (bytesOf 7 (pa / 64) ++ bytesOf 64 l.toNat).foldl crcByte 0xFFFF

/-- The physical address of a line that a thread consumes. -/
def State.consumed (s : State) (tid : Nat) (va : Word) : Option Nat :=
  (s.thread tid).bind fun t => (walk s (crewPart t.crew) t.accessGuild va.toNat).map fun e => e.pa va.toNat

/-- The crew and guild for which a unit other than a thread works: a core's engine, its panel queue, a bench core. -/
def State.unitWork (s : State) (who unit : Nat) : Nat × Nat × Nat :=
  match who with
  | 2 => (s.partOf (dieOf unit), ((s.core unit).engine.head?.map fun e => (e.cmd.guild.toNat, e.cmd.crew)).getD (0, 0))
  | 3 => (s.partOf (dieOf unit), ((s.core unit).panelQ.head?.map fun k => (k.guild.toNat, k.crew)).getD (0, 0))
  | _ => (s.benchPart unit, 0, (s.bench unit).crew)

/-- LINE_CHECK_MISMATCH: a line arrives at its consumer with its check value: 0 a thread's data and 1 its code, at a virtual address; 2 a
core's engine, 3 its panel queue and 4 a bench core, at a physical one. Where the check does not fit the consumer asks for the line once
more; a second mismatch is a machine check, after which a unit other than a thread begins its access anew. (DESIGN CHOICE:
notes/assumptions/71.md.) -/
def lineCheckMismatch (s : State) (who unit : Nat) (va : Word) (img : Line) (check : BitVec 16) (again : Bool) : State :=
  match if who ≤ 1 then s.consumed unit va else some va.toNat with
  | none => s
  | some pa =>
    if lineCheck pa img = check ∨ !again then s
    else if who ≤ 1 then
      (if (s.thread unit).any fun t => s.fetching unit t == decide (who = 1) then s.dataCheck unit va else s)
    else
      let w := s.unitWork who unit
      s.unitCheck w.1 w.2.1 w.2.2 va

/-! ### Firmware (R439) -/

/-- The largest image. -/
def imageMax : Nat := 2 ^ 24

/-- Some crew is placed. -/
def State.anyPlaced (s : State) : Bool := s.threads.any fun e => (s.crew e.2.crew).isSome

/-- FIRMWARE_UPDATE: IMGOFF and IMGLEN are set and CTL starts an update, which writes over the image in place; one while a crew is
placed, or of more than 16 MiB, is refused, and one that is being written goes on. (DEDUCED: notes/assumptions/44.md.) -/
def firmwareUpdate (s : State) (off len : Nat) : State :=
  let u := s.upkeep
  if u.fwStat = 1 then s
  else if imageMax < len ∨ s.bar2 < off + len ∨ s.anyPlaced then
    { s with upkeep := { u with fwOff := off, fwLen := len, fwStat := 3 } }
  else { s with upkeep := { u with fwOff := off, fwLen := len, fwStat := 1, fwBuf := s.settleAll.readRun off len, fwNew := true } }

/-- The flash while an image is being written: the manual does not say how much of it is. (DESIGN CHOICE: notes/assumptions/44.md.) -/
def Upkeep.torn (u : Upkeep) (written : Nat) : List Byte :=
  u.fwBuf.take (written % (u.fwLen + 1)) ++ u.fwImage.drop (written % (u.fwLen + 1))

/-- FIRMWARE_UPDATE_END: the image is written, or the flash has failed. -/
def firmwareUpdateEnd (s : State) (result : Nat) : State :=
  let u := s.upkeep
  if u.fwStat ≠ 1 then s
  else if result = 0 then { s with upkeep := { u with fwStat := 2, fwImage := u.fwBuf, fwBuf := [] } }
  else
    let r := s.fresh
    { r.2 with upkeep := { u with fwStat := 4, fwImage := u.torn r.1.toNat, fwBuf := [] } }

/-! ### The module reset (R440) -/

/-- The dies of a range of 2^k dies from a start satisfy a condition. -/
def rangeAll (f : Nat → Bool) (start k : Nat) : Bool := (List.range (2 ^ k)).all fun i => f (start + i)

/-- The largest aligned ranges of a range that hold no left-out die, or only such dies, by their first dies (R440). -/
def resetRanges (present : BitVec 8) (start : Nat) : Nat → List Nat
  | 0 => [start]
  | k + 1 =>
    if rangeAll present.getLsbD start (k + 1) || rangeAll (fun d => !present.getLsbD d) start (k + 1) then [start]
    else resetRanges present start k ++ resetRanges present (start + 2 ^ k) k

/-- The dies that are present. -/
def presentOf (absent : List Nat) : BitVec 8 :=
  BitVec.ofNat 8 (((List.range 8).filter fun d => !absent.contains d).foldl (fun n d => n + 2 ^ d) 0)

/-- MODCFG at reset. -/
def resetModcfg (absent : List Nat) : BitVec 8 :=
  BitVec.ofNat 8 ((resetRanges (presentOf absent) 0 3).foldl (fun n d => n + 2 ^ d) 0)

/-- A cluster is kept: its fuses, its tests and the ageing record allow it (R440). -/
def clusterGood (c : ClusterTest) (marked : Bool) : Bool :=
  c.fused && decide (c.failing.length < 2) && decide (c.rows ≤ 4) && c.unitOk && c.arbiterOk && !marked

/-- The clusters of a die that are kept, in increasing physical order. -/
def dieKept (t : DieTest) (die : Nat) (marked : List Nat) : List ClusterPlace :=
  t.clusters.zipIdx.filterMap fun c =>
    if clusterGood c.1 (marked.contains (256 * die + c.2)) then some ⟨256 * die + c.2, c.1.failing.head?⟩ else none

/-- A die of which nothing is listed has passed every test: as many clusters as a die numbers, and bench cores. (DESIGN CHOICE:
notes/assumptions/45.md.) -/
def diePassed : DieTest := ⟨List.replicate 100 ⟨[], 0, true, true, true⟩, 64⟩

/-- The tests of a die. -/
def testOf (tests : List DieTest) (die : Nat) : DieTest := tests.getD die diePassed

/-- A die is left out: it has too few good clusters, or too few good bench cores (R440). -/
def leftOut (tests : List DieTest) (marked : List Nat) (die : Nat) : Bool :=
  decide ((dieKept (testOf tests die) die marked).length < 100) || decide ((testOf tests die).benchGood < 64)

/-- The remap table, where it is not the identity (R15, R440). -/
def resetRemap (tests : List DieTest) (marked : List Nat) (dies : List Nat) : List (Nat × ClusterPlace) :=
  dies.flatMap fun d => ((dieKept (testOf tests d) d marked).take 100).zipIdx.filterMap fun c =>
    if c.1 = ⟨256 * d + c.2, none⟩ then none else some (100 * d + c.2, c.1)

/-- The upkeep that outlives a reset: the ageing record and the firmware image in flash, and the draw and heat that are
physical; ok is the boot ROM's check of an image that has come by an update, which may have been cut short. -/
def Upkeep.afterReset (u : Upkeep) (remap : List (Nat × ClusterPlace)) (ok : Bool) (written : Nat) : Upkeep :=
  { Upkeep.reset with
    drawHigh := u.drawHigh, heat := u.heat, remap := remap, ageing := u.ageing, toHarvest := u.toHarvest
    fwImage := if u.fwStat = 1 then u.torn written else u.fwImage
    fwNew := u.fwNew && !ok, romOnly := u.fwNew && !ok }

/-- The clusters as firmware sets their supplies from the ageing record (R436). -/
def Upkeep.supplied (u : Upkeep) : List (Nat × Cluster) :=
  if u.ageing = [] then []
  else (List.range 800).filterMap fun cl => (assocGet? (u.physOf cl) u.ageing).map fun k => (cl, { Cluster.reset with supply := k })

/-- MODULE_RESET: the state of reset, as the dies' tests, the fuses and the ageing record leave the module. What lies outside it, and in
its flash, stays. (DEDUCED: notes/assumptions/45.md.) -/
def moduleReset (s : State) (tests : List DieTest) : State :=
  let absent := (List.range 8).filter (leftOut tests s.upkeep.toHarvest)
  let dies := (List.range 8).filter fun d => !absent.contains d
  let u := s.upkeep.afterReset (resetRemap tests s.upkeep.toHarvest dies) ((Config.freeWord s.free).getLsbD 0)
    (Config.freeWord (s.free + 1)).toNat
  let present := presentOf absent
  let bits := resetModcfg absent
  let r : State := { State.reset with
    time := s.time, free := s.free + 2, nextId := s.nextId, agenda := s.agenda, snaps := s.snaps, answers := s.answers
    present := present, modcfg := bits, upkeep := u
    parts := ((resetRanges present 0 3).filter present.getLsbD).map fun d => (d, Part.reset)
    clusters := u.supplied }
  absent.foldl (fun r d => r.mcheck r.firstPart 0 (BitVec.ofNat 64 d)) r

/-! ### Meanings -/

/-- POWER_WINDOW (R432). -/
def execPowerWindow (code block : Nat) (s : State) : Host.Outcome State Fault Refusal := .next (powerWindow s code block)
/-- POWER_HOLD (R432). -/
def execPowerHold (code : Nat) (block : BlockEnergy) (s : State) : Host.Outcome State Fault Refusal :=
  .next (powerHold s code block.block block.energy)
/-- DRAW_MEASUREMENT (R432). -/
def execDrawMeasurement (mw : Nat) (s : State) : Host.Outcome State Fault Refusal := .next (drawMeasurement s mw)
/-- SHARE_RESTORE (R432). -/
def execShareRestore (s : State) : Host.Outcome State Fault Refusal := .next (shareRestore s)
/-- THERMAL_HOLD (R435). -/
def execThermalHold (die : Nat) (s : State) : Host.Outcome State Fault Refusal := .next (thermalHold s die)
/-- THERMAL_STOP (R435). -/
def execThermalStop (die : HotDies) (s : State) : Host.Outcome State Fault Refusal := .next (thermalStop s die.die die.warm)
/-- THERMAL_RELEASE (R435). -/
def execThermalRelease (die : Nat) (s : State) : Host.Outcome State Fault Refusal := .next (thermalRelease s die)
/-- AGEING_CHECK (R436). -/
def execAgeingCheck (low : List Nat) (s : State) : Host.Outcome State Fault Refusal := .next (ageingCheck s low)
/-- PATROL_SCRUB (R437). -/
def execPatrolScrub (line : Nat) (bad : Bool) (s : State) : Host.Outcome State Fault Refusal := .next (patrolScrub s line bad)
/-- LINE_CHECK_MISMATCH (R438). -/
def execLineCheckMismatch (who : LineReader) (line : CheckedLine) (again : Bool) (s : State) : Host.Outcome State Fault Refusal :=
  .next (lineCheckMismatch s who.who who.unit line.va line.img line.check again)
/-- FIRMWARE_UPDATE (R439). -/
def execFirmwareUpdate (off len : Nat) (s : State) : Host.Outcome State Fault Refusal := .next (firmwareUpdate s off len)
/-- FIRMWARE_UPDATE_END (R439). -/
def execFirmwareUpdateEnd (result : Nat) (s : State) : Host.Outcome State Fault Refusal := .next (firmwareUpdateEnd s result)
/-- MODULE_RESET (R440). -/
def execModuleReset (tests : List DieTest) (s : State) : Host.Outcome State Fault Refusal := .next (moduleReset s tests)

end Sys2Proof.Machine
end

