-- ==== Sys2Proof/Machine/Dispatch.lean ====
section
/-!
DEFINITION. Sys2Proof/Machine/Dispatch.lean: one arm per step of the opcode table, each a call of its meaning.
-/

namespace Sys2Proof.Machine

def exec (i : Instr) (s : State) : Host.Outcome State Fault Refusal :=
  match i with
  | .j off hi => Sys2Proof.Machine.execJ off hi s
  | .jl d off hi => Sys2Proof.Machine.execJl d off hi s
  | .jr a => Sys2Proof.Machine.execJr a s
  | .jlr d a => Sys2Proof.Machine.execJlr d a s
  | .beq d a off hi => Sys2Proof.Machine.execBeq d a off hi s
  | .bne d a off hi => Sys2Proof.Machine.execBne d a off hi s
  | .blt d a off hi => Sys2Proof.Machine.execBlt d a off hi s
  | .bge d a off hi => Sys2Proof.Machine.execBge d a off hi s
  | .bltu d a off hi => Sys2Proof.Machine.execBltu d a off hi s
  | .bgeu d a off hi => Sys2Proof.Machine.execBgeu d a off hi s
  | .bz d off hi => Sys2Proof.Machine.execBz d off hi s
  | .bnz d off hi => Sys2Proof.Machine.execBnz d off hi s
  | .bmany d a off hi => Sys2Proof.Machine.execBmany d a off hi s
  | .bmnone d a off hi => Sys2Proof.Machine.execBmnone d a off hi s
  | .bmall d a off hi => Sys2Proof.Machine.execBmall d a off hi s
  | .waita d z k b a disp => Sys2Proof.Machine.execWaita d z k b a disp s
  | .add d w b a => Sys2Proof.Machine.execAdd d w b a s
  | .sub d w b a => Sys2Proof.Machine.execSub d w b a s
  | .addi d n a => Sys2Proof.Machine.execAddi d n a s
  | .mul d w b a => Sys2Proof.Machine.execMul d w b a s
  | .mulh d b a => Sys2Proof.Machine.execMulh d b a s
  | .mulhu d b a => Sys2Proof.Machine.execMulhu d b a s
  | .div d w b a => Sys2Proof.Machine.execDiv d w b a s
  | .divu d w b a => Sys2Proof.Machine.execDivu d w b a s
  | .rem d w b a => Sys2Proof.Machine.execRem d w b a s
  | .remu d w b a => Sys2Proof.Machine.execRemu d w b a s
  | .and d b a => Sys2Proof.Machine.execAnd d b a s
  | .or d b a => Sys2Proof.Machine.execOr d b a s
  | .xor d b a => Sys2Proof.Machine.execXor d b a s
  | .andi d n a => Sys2Proof.Machine.execAndi d n a s
  | .ori d n a => Sys2Proof.Machine.execOri d n a s
  | .xori d n a => Sys2Proof.Machine.execXori d n a s
  | .shl d w b a => Sys2Proof.Machine.execShl d w b a s
  | .shr d w b a => Sys2Proof.Machine.execShr d w b a s
  | .sha d w b a => Sys2Proof.Machine.execSha d w b a s
  | .shli d w n a => Sys2Proof.Machine.execShli d w n a s
  | .shri d w n a => Sys2Proof.Machine.execShri d w n a s
  | .shai d w n a => Sys2Proof.Machine.execShai d w n a s
  | .rol d w b a => Sys2Proof.Machine.execRol d w b a s
  | .roli d w n a => Sys2Proof.Machine.execRoli d w n a s
  | .slt d b a => Sys2Proof.Machine.execSlt d b a s
  | .sltu d b a => Sys2Proof.Machine.execSltu d b a s
  | .slti d n a => Sys2Proof.Machine.execSlti d n a s
  | .min d b a => Sys2Proof.Machine.execMin d b a s
  | .max d b a => Sys2Proof.Machine.execMax d b a s
  | .minu d b a => Sys2Proof.Machine.execMinu d b a s
  | .maxu d b a => Sys2Proof.Machine.execMaxu d b a s
  | .sel d k b a c => Sys2Proof.Machine.execSel d k b a c s
  | .li d imm => Sys2Proof.Machine.execLi d imm s
  | .lih d k a imm => Sys2Proof.Machine.execLih d k a imm s
  | .addpc d imm => Sys2Proof.Machine.execAddpc d imm s
  | .clz d z a => Sys2Proof.Machine.execClz d z a s
  | .ctz d z a => Sys2Proof.Machine.execCtz d z a s
  | .popc d z a => Sys2Proof.Machine.execPopc d z a s
  | .brev d z a => Sys2Proof.Machine.execBrev d z a s
  | .bswap d z a => Sys2Proof.Machine.execBswap d z a s
  | .ilv d f b a c => Sys2Proof.Machine.execIlv d f b a c s
  | .dilv d f a jc => Sys2Proof.Machine.execDilv d f a jc s
  | .ext d a sg len pos => Sys2Proof.Machine.execExt d a sg len pos s
  | .ins d b a len pos => Sys2Proof.Machine.execIns d b a len pos s
  | .addsh d n b a => Sys2Proof.Machine.execAddsh d n b a s
  | .madd d f b a c => Sys2Proof.Machine.execMadd d f b a c s
  | .ld d g z a disp => Sys2Proof.Machine.execLd d g z a disp s
  | .st z b a disp => Sys2Proof.Machine.execSt z b a disp s
  | .ldx d g z b a => Sys2Proof.Machine.execLdx d g z b a s
  | .stx z b a c => Sys2Proof.Machine.execStx z b a c s
  | .ldp d g z a disp => Sys2Proof.Machine.execLdp d g z a disp s
  | .stp z b a disp => Sys2Proof.Machine.execStp z b a disp s
  | .vld d z a p disp => Sys2Proof.Machine.execVld d z a p disp s
  | .vst d z a p disp => Sys2Proof.Machine.execVst d z a p disp s
  | .vlds d z b a p disp => Sys2Proof.Machine.execVlds d z b a p disp s
  | .vsts d z b a p disp => Sys2Proof.Machine.execVsts d z b a p disp s
  | .vgath d z a ig iw p c disp => Sys2Proof.Machine.execVgath d z a ig iw p c disp s
  | .vscat d z a ig iw p c disp => Sys2Proof.Machine.execVscat d z a ig iw p c disp s
  | .pref z a disp => Sys2Proof.Machine.execPref z a disp s
  | .discard b a => Sys2Proof.Machine.execDiscard b a s
  | .clean b a => Sys2Proof.Machine.execClean b a s
  | .bankcfg d z a bank => Sys2Proof.Machine.execBankcfg d z a bank s
  | .bankq d a => Sys2Proof.Machine.execBankq d a s
  | .fpush d b a disp => Sys2Proof.Machine.execFpush d b a disp s
  | .fpop d b a disp => Sys2Proof.Machine.execFpop d b a disp s
  | .fpeek d b a disp => Sys2Proof.Machine.execFpeek d b a disp s
  | .aadd z b a disp => Sys2Proof.Machine.execAadd z b a disp s
  | .aand z b a disp => Sys2Proof.Machine.execAand z b a disp s
  | .aor z b a disp => Sys2Proof.Machine.execAor z b a disp s
  | .axor z b a disp => Sys2Proof.Machine.execAxor z b a disp s
  | .amin g z b a disp => Sys2Proof.Machine.execAmin g z b a disp s
  | .amax g z b a disp => Sys2Proof.Machine.execAmax g z b a disp s
  | .afadd z b a disp => Sys2Proof.Machine.execAfadd z b a disp s
  | .xadd d z b a disp => Sys2Proof.Machine.execXadd d z b a disp s
  | .xchg d z b a disp => Sys2Proof.Machine.execXchg d z b a disp s
  | .cas d z b a c disp => Sys2Proof.Machine.execCas d z b a c disp s
  | .swait d z b a disp => Sys2Proof.Machine.execSwait d z b a disp s
  | .swaitTake d z b a disp => Sys2Proof.Machine.execSwaitTake d z b a disp s
  | .spost z b a disp => Sys2Proof.Machine.execSpost z b a disp s
  | .dguard d b a => Sys2Proof.Machine.execDguard d b a s
  | .dgend b a => Sys2Proof.Machine.execDgend b a s
  | .fcvt d t u a sat rm p => Sys2Proof.Machine.execFcvt d t u a sat rm p s
  | .fcvti d t u a sat rm p => Sys2Proof.Machine.execFcvti d t u a sat rm p s
  | .icvtf d t u a sat rm p => Sys2Proof.Machine.execIcvtf d t u a sat rm p s
  | .fpack d t a rm p c et => Sys2Proof.Machine.execFpack d t a rm p c et s
  | .funpk d t a sat rm p c et => Sys2Proof.Machine.execFunpk d t a sat rm p c et s
  | .fscl d t k a sat rm p c => Sys2Proof.Machine.execFscl d t k a sat rm p c s
  | .fclass d t a p => Sys2Proof.Machine.execFclass d t a p s
  | .frint d t k a rm p => Sys2Proof.Machine.execFrint d t k a rm p s
  | .rep a sts => Sys2Proof.Machine.execRep a sts s
  | .vspan d z a n => Sys2Proof.Machine.execVspan d z a n s
  | .mmov d a => Sys2Proof.Machine.execMmov d a s
  | .mmovFx d a => Sys2Proof.Machine.execMmovFx d a s
  | .mmovTx d a => Sys2Proof.Machine.execMmovTx d a s
  | .mmovSp d a => Sys2Proof.Machine.execMmovSp d a s
  | .mand d n b a => Sys2Proof.Machine.execMand d n b a s
  | .mor d n b a => Sys2Proof.Machine.execMor d n b a s
  | .mxor d b a => Sys2Proof.Machine.execMxor d b a s
  | .mnot d a => Sys2Proof.Machine.execMnot d a s
  | .mpop d b a => Sys2Proof.Machine.execMpop d b a s
  | .mfirst d b a => Sys2Proof.Machine.execMfirst d b a s
  | .vadd d t b a sat vx p => Sys2Proof.Machine.execVadd d t b a sat vx p s
  | .vsub d t b a sat vx p => Sys2Proof.Machine.execVsub d t b a sat vx p s
  | .vmul d t b a vx p => Sys2Proof.Machine.execVmul d t b a vx p s
  | .vmulh d t b a vx p => Sys2Proof.Machine.execVmulh d t b a vx p s
  | .vand d t b a vx p => Sys2Proof.Machine.execVand d t b a vx p s
  | .vor d t b a vx p => Sys2Proof.Machine.execVor d t b a vx p s
  | .vxor d t b a vx p => Sys2Proof.Machine.execVxor d t b a vx p s
  | .vshl d t b a vx p => Sys2Proof.Machine.execVshl d t b a vx p s
  | .vshr d t b a vx p => Sys2Proof.Machine.execVshr d t b a vx p s
  | .vmin d t b a vx p => Sys2Proof.Machine.execVmin d t b a vx p s
  | .vmax d t b a vx p => Sys2Proof.Machine.execVmax d t b a vx p s
  | .vcmp d t b a vx p k => Sys2Proof.Machine.execVcmp d t b a vx p k s
  | .vsel d t b a p c => Sys2Proof.Machine.execVsel d t b a p c s
  | .vmov d t b a vx p => Sys2Proof.Machine.execVmov d t b a vx p s
  | .vperm d t b a p => Sys2Proof.Machine.execVperm d t b a p s
  | .vslide d t b a up p => Sys2Proof.Machine.execVslide d t b a up p s
  | .fadd d t b a rm p => Sys2Proof.Machine.execFadd d t b a rm p s
  | .fsub d t b a rm p => Sys2Proof.Machine.execFsub d t b a rm p s
  | .fmul d t b a rm p => Sys2Proof.Machine.execFmul d t b a rm p s
  | .fma d t b a neg rm p c => Sys2Proof.Machine.execFma d t b a neg rm p c s
  | .fdiv d t b a rm p => Sys2Proof.Machine.execFdiv d t b a rm p s
  | .fsqrt d t a rm p => Sys2Proof.Machine.execFsqrt d t a rm p s
  | .fmin d t b a p => Sys2Proof.Machine.execFmin d t b a p s
  | .fmax d t b a p => Sys2Proof.Machine.execFmax d t b a p s
  | .fcmp d t b a p k => Sys2Proof.Machine.execFcmp d t b a p k s
  | .fsgn d t b a k p => Sys2Proof.Machine.execFsgn d t b a k p s
  | .vred d t a k p => Sys2Proof.Machine.execVred d t a k p s
  | .fred d t k a rm p => Sys2Proof.Machine.execFred d t k a rm p s
  | .fdot d t b a rm p => Sys2Proof.Machine.execFdot d t b a rm p s
  | .fexp d t a rm p => Sys2Proof.Machine.execFexp d t a rm p s
  | .flog d t a rm p => Sys2Proof.Machine.execFlog d t a rm p s
  | .frcp d t a rm p => Sys2Proof.Machine.execFrcp d t a rm p s
  | .frsq d t a rm p => Sys2Proof.Machine.execFrsq d t a rm p s
  | .fsin d t a rm p => Sys2Proof.Machine.execFsin d t a rm p s
  | .fcos d t a rm p => Sys2Proof.Machine.execFcos d t a rm p s
  | .ftanh d t a rm p => Sys2Proof.Machine.execFtanh d t a rm p s
  | .topn d t a p c lo n => Sys2Proof.Machine.execTopn d t a p c lo n s
  | .rng d b a sp c => Sys2Proof.Machine.execRng d b a sp c s
  | .vext d t b a p => Sys2Proof.Machine.execVext d t b a p s
  | .mzero d f => Sys2Proof.Machine.execMzero d f s
  | .mlda d t b a disp => Sys2Proof.Machine.execMlda d t b a disp s
  | .mldb d t b a nc tr disp => Sys2Proof.Machine.execMldb d t b a nc tr disp s
  | .mseed d a nc => Sys2Proof.Machine.execMseed d a nc s
  | .mma d t b a nc ks => Sys2Proof.Machine.execMma d t b a nc ks s
  | .mscl d f rm c rs cs => Sys2Proof.Machine.execMscl d f rm c rs cs s
  | .mdrain d f b a sat rm c ot rs cs => Sys2Proof.Machine.execMdrain d f b a sat rm c ot rs cs s
  | .mwait d => Sys2Proof.Machine.execMwait d s
  | .mstat d => Sys2Proof.Machine.execMstat d s
  | .mstatP d a => Sys2Proof.Machine.execMstatP d a s
  | .mcprs d t b a nc => Sys2Proof.Machine.execMcprs d t b a nc s
  | .macc d f b a set rm disp => Sys2Proof.Machine.execMacc d f b a set rm disp s
  | .cpy d b a c => Sys2Proof.Machine.execCpy d b a c s
  | .cpys d b a c => Sys2Proof.Machine.execCpys d b a c s
  | .cpyg d z b a ig iw c sc => Sys2Proof.Machine.execCpyg d z b a ig iw c sc s
  | .cfill d b a c => Sys2Proof.Machine.execCfill d b a c s
  | .cstat d => Sys2Proof.Machine.execCstat d s
  | .cstatW d => Sys2Proof.Machine.execCstatW d s
  | .rdset d t b a rm c => Sys2Proof.Machine.execRdset d t b a rm c s
  | .rdc d t b a sp => Sys2Proof.Machine.execRdc d t b a sp s
  | .rdcMem t b a c => Sys2Proof.Machine.execRdcMem t b a c s
  | .rdq d a => Sys2Proof.Machine.execRdq d a s
  | .rdqSt d a => Sys2Proof.Machine.execRdqSt d a s
  | .rdqW d a => Sys2Proof.Machine.execRdqW d a s
  | .spawn atc b a disp => Sys2Proof.Machine.execSpawn atc b a disp s
  | .spawnr d b a c pin => Sys2Proof.Machine.execSpawnr d b a c pin s
  | .cntset d b a => Sys2Proof.Machine.execCntset d b a s
  | .cntsetClr d => Sys2Proof.Machine.execCntsetClr d s
  | .cntdec self b a dec idx => Sys2Proof.Machine.execCntdec self b a dec idx s
  | .send d b a cn idx => Sys2Proof.Machine.execSend d b a cn idx s
  | .recv d b a => Sys2Proof.Machine.execRecv d b a s
  | .inbqN d => Sys2Proof.Machine.execInbqN d s
  | .inbqRoom d => Sys2Proof.Machine.execInbqRoom d s
  | .inbqStray d => Sys2Proof.Machine.execInbqStray d s
  | .launch b a disp => Sys2Proof.Machine.execLaunch b a disp s
  | .postr a => Sys2Proof.Machine.execPostr a s
  | .postrOr a => Sys2Proof.Machine.execPostrOr a s
  | .tstamp d k => Sys2Proof.Machine.execTstamp d k s
  | .bar dom => Sys2Proof.Machine.execBar dom s
  | .bardom b a c dom => Sys2Proof.Machine.execBardom b a c dom s
  | .xph dom a disp => Sys2Proof.Machine.execXph dom a disp s
  | .xmit b a rec => Sys2Proof.Machine.execXmit b a rec s
  | .xsel b a rec => Sys2Proof.Machine.execXsel b a rec s
  | .xrcv d b rec => Sys2Proof.Machine.execXrcv d b rec s
  | .sstep dom b a disp => Sys2Proof.Machine.execSstep dom b a disp s
  | .gate n => Sys2Proof.Machine.execGate n s
  | .gretFail a => Sys2Proof.Machine.execGretFail a s
  | .trap n => Sys2Proof.Machine.execTrap n s
  | .gets d n => Sys2Proof.Machine.execGets d n s
  | .sets n a => Sys2Proof.Machine.execSets n a s
  | .brk tl => Sys2Proof.Machine.execBrk tl s
  | .iflush a => Sys2Proof.Machine.execIflush a s
  | .iflushAll a => Sys2Proof.Machine.execIflushAll a s
  | .tlbinvPage b a => Sys2Proof.Machine.execTlbinvPage b a s
  | .tlbinvGuild b a => Sys2Proof.Machine.execTlbinvGuild b a s
  | .tlbinvAll b a => Sys2Proof.Machine.execTlbinvAll b a s
  | .mark n => Sys2Proof.Machine.execMark n s
  | .snap d a => Sys2Proof.Machine.execSnap d a s
  | .freeze sc => Sys2Proof.Machine.execFreeze sc s
  | .thaw sc => Sys2Proof.Machine.execThaw sc s
  | .illegalOpcode word => Sys2Proof.Machine.execIllegalOpcode word s
  | .benchInstruction word => Sys2Proof.Machine.execBenchInstruction word s
  | .epWaitact b a d => Sys2Proof.Machine.execEpWaitact b a d s
  | .epPubobs b a d => Sys2Proof.Machine.execEpPubobs b a d s
  | .epEnd b a => Sys2Proof.Machine.execEpEnd b a s
  | .epInfo item d => Sys2Proof.Machine.execEpInfo item d s
  | .epVer d => Sys2Proof.Machine.execEpVer d s
  | .epRand b a d => Sys2Proof.Machine.execEpRand b a d s
  | .epRandh b a d => Sys2Proof.Machine.execEpRandh b a d s
  | .start b => Sys2Proof.Machine.execStart b s
  | .abort b => Sys2Proof.Machine.execAbort b s
  | .action b => Sys2Proof.Machine.execAction b s
  | .versionAdvance part => Sys2Proof.Machine.execVersionAdvance part s
  | .lineArrival tid cached => Sys2Proof.Machine.execLineArrival tid cached s
  | .issue core turn => Sys2Proof.Machine.execIssue core turn s
  | .commitRequest tid => Sys2Proof.Machine.execCommitRequest tid s
  | .commitGrant tid => Sys2Proof.Machine.execCommitGrant tid s
  | .signatureDelivery pkt => Sys2Proof.Machine.execSignatureDelivery pkt s
  | .commitAcknowledgement tid => Sys2Proof.Machine.execCommitAcknowledgement tid s
  | .farAtomicApply n => Sys2Proof.Machine.execFarAtomicApply n s
  | .widenScope line core => Sys2Proof.Machine.execWidenScope line core s
  | .fillReply pkt => Sys2Proof.Machine.execFillReply pkt s
  | .probe pkt => Sys2Proof.Machine.execProbe pkt s
  | .packetArrival pkt => Sys2Proof.Machine.execPacketArrival pkt s
  | .nack pkt => Sys2Proof.Machine.execNack pkt s
  | .deterministicTurn crew => Sys2Proof.Machine.execDeterministicTurn crew s
  | .waitaEvaluation tid => Sys2Proof.Machine.execWaitaEvaluation tid s
  | .pollInterval tid => Sys2Proof.Machine.execPollInterval tid s
  | .watchdog tid => Sys2Proof.Machine.execWatchdog tid s
  | .preciseReexecution tid => Sys2Proof.Machine.execPreciseReexecution tid s
  | .trapDelivery tid => Sys2Proof.Machine.execTrapDelivery tid s
  | .pageFaultPark tid => Sys2Proof.Machine.execPageFaultPark tid s
  | .machineCheck tid site => Sys2Proof.Machine.execMachineCheck tid site s
  | .eventRecordWrite part ring widx ridx => Sys2Proof.Machine.execEventRecordWrite part ring widx ridx s
  | .engineChunk core n j => Sys2Proof.Machine.execEngineChunk core n j s
  | .linkPayloadAck core n => Sys2Proof.Machine.execLinkPayloadAck core n s
  | .drainWrite core n j => Sys2Proof.Machine.execDrainWrite core n j s
  | .loomCommand core => Sys2Proof.Machine.execLoomCommand core s
  | .panelCommand core => Sys2Proof.Machine.execPanelCommand core s
  | .panelReady core panel => Sys2Proof.Machine.execPanelReady core panel s
  | .sfuResult core => Sys2Proof.Machine.execSfuResult core s
  | .matrixWaitWake tid => Sys2Proof.Machine.execMatrixWaitWake tid s
  | .engineWaitWake tid => Sys2Proof.Machine.execEngineWaitWake tid s
  | .reductionWaitWake tid => Sys2Proof.Machine.execReductionWaitWake tid s
  | .contributionArrival n => Sys2Proof.Machine.execContributionArrival n s
  | .reductionTimeout block => Sys2Proof.Machine.execReductionTimeout block s
  | .taskPop tid => Sys2Proof.Machine.execTaskPop tid s
  | .stealRequest tid victim => Sys2Proof.Machine.execStealRequest tid victim s
  | .stealBackoff tid => Sys2Proof.Machine.execStealBackoff tid s
  | .taskMessageApply pkt => Sys2Proof.Machine.execTaskMessageApply pkt s
  | .counterDecrement pkt => Sys2Proof.Machine.execCounterDecrement pkt s
  | .doorbell part q widx => Sys2Proof.Machine.execDoorbell part q widx s
  | .quantumBoundary part => Sys2Proof.Machine.execQuantumBoundary part s
  | .slotService part q widx rec => Sys2Proof.Machine.execSlotService part q widx rec s
  | .launchPlacement part q => Sys2Proof.Machine.execLaunchPlacement part q s
  | .crewEnd crew => Sys2Proof.Machine.execCrewEnd crew s
  | .barrierRelease crew dom => Sys2Proof.Machine.execBarrierRelease crew dom s
  | .startJoin crew dom => Sys2Proof.Machine.execStartJoin crew dom s
  | .phaseStart crew dom => Sys2Proof.Machine.execPhaseStart crew dom s
  | .phaseEnd crew dom => Sys2Proof.Machine.execPhaseEnd crew dom s
  | .exchangeChunk tid => Sys2Proof.Machine.execExchangeChunk tid s
  | .gangStop crew => Sys2Proof.Machine.execGangStop crew s
  | .stopRecordWrite part => Sys2Proof.Machine.execStopRecordWrite part s
  | .resumption crew => Sys2Proof.Machine.execResumption crew s
  | .snapshotEnd part => Sys2Proof.Machine.execSnapshotEnd part s
  | .snapshotRestore part k => Sys2Proof.Machine.execSnapshotRestore part k s
  | .recorderFreeze part reason => Sys2Proof.Machine.execRecorderFreeze part reason s
  | .waitactReturn b => Sys2Proof.Machine.execWaitactReturn b s
  | .instructionBudget b => Sys2Proof.Machine.execInstructionBudget b s
  | .timeBudget b => Sys2Proof.Machine.execTimeBudget b s
  | .hostRead addr len hold => Sys2Proof.Machine.execHostRead addr len hold s
  | .hostWrite addr bytes => Sys2Proof.Machine.execHostWrite addr bytes s
  | .hostAtomicop op addr size v c => Sys2Proof.Machine.execHostAtomicop op addr size v c s
  | .peerRequest op src num addr bytes v c => Sys2Proof.Machine.execPeerRequest op src num addr bytes v c s
  | .linkTimeout id => Sys2Proof.Machine.execLinkTimeout id s
  | .linkRefusal id => Sys2Proof.Machine.execLinkRefusal id s
  | .modnumLearn num => Sys2Proof.Machine.execModnumLearn num s
  | .stopreq part serial => Sys2Proof.Machine.execStopreq part serial s
  | .resume part serial => Sys2Proof.Machine.execResume part serial s
  | .pfdeny part v => Sys2Proof.Machine.execPfdeny part v s
  | .tlbcmdPage part guild => Sys2Proof.Machine.execTlbcmdPage part guild s
  | .tlbcmdGuild part guild => Sys2Proof.Machine.execTlbcmdGuild part guild s
  | .tlbcmdAll part => Sys2Proof.Machine.execTlbcmdAll part s
  | .tlbinvComplete part n => Sys2Proof.Machine.execTlbinvComplete part n s
  | .lbrelPlace part q => Sys2Proof.Machine.execLbrelPlace part q s
  | .lbrelSkip part q => Sys2Proof.Machine.execLbrelSkip part q s
  | .modcfg bits => Sys2Proof.Machine.execModcfg bits s
  | .foremanRegisterWrite part off v => Sys2Proof.Machine.execForemanRegisterWrite part off v s
  | .firmwareUpdate off len => Sys2Proof.Machine.execFirmwareUpdate off len s
  | .powerWindow code block => Sys2Proof.Machine.execPowerWindow code block s
  | .powerHold code block => Sys2Proof.Machine.execPowerHold code block s
  | .drawMeasurement mw => Sys2Proof.Machine.execDrawMeasurement mw s
  | .thermalHold die => Sys2Proof.Machine.execThermalHold die s
  | .thermalStop die => Sys2Proof.Machine.execThermalStop die s
  | .ageingCheck low => Sys2Proof.Machine.execAgeingCheck low s
  | .patrolScrub line bad => Sys2Proof.Machine.execPatrolScrub line bad s
  | .lineCheckMismatch who line again => Sys2Proof.Machine.execLineCheckMismatch who line again s
  | .moduleReset tests => Sys2Proof.Machine.execModuleReset tests s
  | .linkCompletion id bytes => Sys2Proof.Machine.execLinkCompletion id bytes s
  | .backInvalidateAnswer line => Sys2Proof.Machine.execBackInvalidateAnswer line s
  | .pageWalkEnd cluster n => Sys2Proof.Machine.execPageWalkEnd cluster n s
  | .writeBack line => Sys2Proof.Machine.execWriteBack line s
  | .snapshotLinkFailure part => Sys2Proof.Machine.execSnapshotLinkFailure part s
  | .thermalRelease die => Sys2Proof.Machine.execThermalRelease die s
  | .firmwareUpdateEnd result => Sys2Proof.Machine.execFirmwareUpdateEnd result s
  | .nop => Sys2Proof.Machine.execNop s
  | .cut => Sys2Proof.Machine.execCut s
  | .yield => Sys2Proof.Machine.execYield s
  | .exit => Sys2Proof.Machine.execExit s
  | .hsync => Sys2Proof.Machine.execHsync s
  | .xend => Sys2Proof.Machine.execXend s
  | .gret => Sys2Proof.Machine.execGret s
  | .tret => Sys2Proof.Machine.execTret s
  | .halt => Sys2Proof.Machine.execHalt s
  | .shareRestore => Sys2Proof.Machine.execShareRestore s

end Sys2Proof.Machine
end

