-- ==== Sys2Proof/Machine/Fetch.lean ====
section
/-!
DEFINITION. Sys2Proof/Machine/Fetch.lean: the instruction that an issuing thread or bench core executes (R36, R37, R396).
-/

namespace Sys2Proof.Machine

/-- The instruction at a thread's PC, read from the line in its fetch buffer (R36, R37, R70). -/
def threadInstr (s : State) (tid : Nat) : Instr :=
  match s.thread tid with
  | some t => decode t.headBits
  | none => .illegalOpcode 0

/-- The four bytes at a bench core's PC in its private SRAM (R398). -/
def benchWord (b : Bench) : BitVec 32 := BitVec.ofNat 32 (ofBytes (Memory.readRun b.sram b.pc.toNat 4))

/-- The instruction at a bench core's PC. -/
def benchInstr (s : State) (b : Nat) : Instr := decodeRv (benchWord (s.bench b))

/-- Events that a commit brings about at once, and nothing else does (R403, R407, R411). -/
def isDue : Instr → Bool
  | .start _ => true
  | .abort _ => true
  | .action _ => true
  | .versionAdvance _ => true
  | _ => false

/-- The rows of the opcode table that are no instruction of a thread or a bench core, and that happen of themselves. -/
def isEvent (i : Instr) : Bool := i.bits = 0 && !isEp i && !isIllegal i && !isDue i && match i with
  | .benchInstruction _ => false
  | _ => true

/-- While only the boot ROM runs, the module takes new images and resets, and the host reaches its memory (R439). -/
def State.allows (s : State) (i : Instr) : Bool := !s.upkeep.romOnly || match i with
  | .hostRead _ _ _ => true
  | .hostWrite _ _ => true
  | .hostAtomicop _ _ _ _ _ => true
  | .firmwareUpdate _ _ => true
  | .firmwareUpdateEnd _ => true
  | .moduleReset _ => true
  | _ => false

end Sys2Proof.Machine
end

