-- ==== Sys2Proof/Machine/Step.lean ====
section
/-!
DEFINITION. Sys2Proof/Machine/Step.lean: one step of the machine.

What a commit brings about at once comes first; then the head (or the bench instruction) that has been issued is executed;
otherwise the free schedule of the module says what happens next and how much device time has passed. A module with an empty
schedule lets a nanosecond pass.
-/

namespace Sys2Proof.Machine

/-- What a step that the free schedule names does: an event by its meaning; an instruction of a running bench core; the loss
of an entry of a cache or a TLB, or what an instruction cache takes; an eviction notice; a packet injected, or taken by its unit. A schedule names events only: an instruction has no meaning without a unit that issues it.
(DESIGN CHOICE: notes/assumptions/1.md.) -/
def runAct (s : State) (a : Act) : Host.Outcome State Fault Refusal :=
  match a with
  | .event i => if isEvent i && s.allows i then exec i s else .next s
  | .bench b => .next (benchAct s b)
  | .dropTlb core i => .next (s.setCore core { s.core core with tlb := (s.core core).tlb.eraseIdx i })
  | .dropClusterTlb cl i => .next (s.setCluster cl { s.cluster cl with tlb := (s.cluster cl).tlb.eraseIdx i })
  | .dropCode core line => .next (s.setCore core { s.core core with icache := assocDrop line (s.core core).icache })
  | .dropLine core line => .next (s.setCore core { s.core core with l1 := (s.core core).l1.filter fun x => x.line ≠ line })
  | .dropClusterCode cl line => .next (dropClusterCode s cl line)
  | .takeClusterCode cl line => .next (takeClusterCode s cl line)
  | .notice core line => .next (evictionNotice s core line)
  | .inject pkt => .next (injectPacket s pkt)
  | .take pkt => .next (unitTakes s pkt)
  | .readWindow off size => .next (readWindow s off size)
  | .resizeBar size => .next (resizeBar s size)
  | .foreman part => .next (foremanGoesOn s part)
  | .peers => .next (peersGoOn s)

/-- One step. (DEDUCED: notes/assumptions/3.md.) -/
def step (s : State) : Host.Outcome State Fault Refusal :=
  match s.due with
  | i :: rest => exec i { s with due := rest }
  | [] =>
    match s.issuing with
    | some (.thread tid) => exec (threadInstr s tid) s
    | some (.bench b) => exec (benchInstr s b) s
    | none =>
      match s.agenda with
      | [] => .next { s with time := s.time + 1 }
      | (dt, a) :: rest => runAct { s with time := s.time + dt, agenda := rest } a

/-- The line that holds one head with its tail, as R35-R37 lay it out. -/
def oneHeadLine (w : BitVec 64) : Line :=
  let half := fun k : Nat => w.toNat / 2 ^ (16 * k) % 65536
  BitVec.ofNat 512 (1 + half 0 * 2 ^ 16 + half 1 * 2 ^ (16 * 31) + half 2 * 2 ^ (16 * 30) + half 3 * 2 ^ (16 * 29))

/-- A dynamic crew of one member, thread 0 of core 0 of partition 0, in guild 1 with every vector register and tile. -/
def soleCrew : Crew where
  dd := 1
  c := 1
  k := 1
  t := 1
  s := 1
  det := false
  dcode := 4
  vregs := 32
  tiles := 16
  guild := 1
  cnt := 1
  ovf := 0
  queue := 0
  record := []
  result := 0
  members := [(0, 0)]
  turn := 0
  round := 0
  spent := false
  domains := []
  releaseAt := []
  phases := []
  lastNo := 0
  stopping := none
  stopped := none
  resume := false

/-- Its member, running at PC 0 with a line in its fetch buffer. -/
def soleThread (img : Line) : Thread :=
  { Thread.reset with run := .running, fetch := some (0, img), arch := { Arch.reset with status := 0x10000 } }

/-- The state with an instruction placed where the next step fetches it: a head and its tail in the fetch buffer of a thread
that has been issued, or a word of a bench core at the PC of an episode that runs. (DESIGN CHOICE: notes/assumptions/1.md.) -/
def State.withFetchWord (s : State) (nbits w : Nat) : State :=
  match decodeTableWord nbits w with
  | some i =>
    if isEp i then
      let b := s.bench 0
      { s.setBench 0 { b with running := true, pc := 0, sram := Memory.writeRun b.sram 0 (bytesOf 4 w) } with
        due := [], issuing := some (.bench 0) }
    else
      { (s.setCrew 0 soleCrew).setThread 0 (soleThread (oneHeadLine (tableHalves nbits w))) with
        due := [], issuing := some (.thread 0) }
  | none =>
    { (s.setCrew 0 soleCrew).setThread 0 (soleThread (oneHeadLine (tableHalves nbits w))) with
      due := [], issuing := some (.thread 0) }

end Sys2Proof.Machine
end

