-- ==== Sys2Proof/Laws/State.lean ====
section
/-!
SUPPORT. Sys2Proof/Laws/State.lean: what each update of one unit of the machine leaves alone, and what is read back after it.
-/

namespace Sys2Proof.Machine.State

@[simp] theorem setCore_time (s : State) (c : Nat) (v : Core) : (s.setCore c v).time = s.time := rfl
@[simp] theorem setCore_mem (s : State) (c : Nat) (v : Core) : (s.setCore c v).mem = s.mem := rfl
@[simp] theorem setCore_dirty (s : State) (c : Nat) (v : Core) : (s.setCore c v).dirty = s.dirty := rfl
@[simp] theorem setCore_modcfg (s : State) (c : Nat) (v : Core) : (s.setCore c v).modcfg = s.modcfg := rfl
@[simp] theorem setCore_present (s : State) (c : Nat) (v : Core) : (s.setCore c v).present = s.present := rfl
@[simp] theorem setCore_modStatus (s : State) (c : Nat) (v : Core) : (s.setCore c v).modStatus = s.modStatus := rfl
@[simp] theorem setCore_modnum (s : State) (c : Nat) (v : Core) : (s.setCore c v).modnum = s.modnum := rfl
@[simp] theorem setCore_parts (s : State) (c : Nat) (v : Core) : (s.setCore c v).parts = s.parts := rfl
@[simp] theorem setCore_crews (s : State) (c : Nat) (v : Core) : (s.setCore c v).crews = s.crews := rfl
@[simp] theorem setCore_threads (s : State) (c : Nat) (v : Core) : (s.setCore c v).threads = s.threads := rfl
@[simp] theorem setCore_clusters (s : State) (c : Nat) (v : Core) : (s.setCore c v).clusters = s.clusters := rfl
@[simp] theorem setCore_dir (s : State) (c : Nat) (v : Core) : (s.setCore c v).dir = s.dir := rfl
@[simp] theorem setCore_seqs (s : State) (c : Nat) (v : Core) : (s.setCore c v).seqs = s.seqs := rfl
@[simp] theorem setCore_commits (s : State) (c : Nat) (v : Core) : (s.setCore c v).commits = s.commits := rfl
@[simp] theorem setCore_fars (s : State) (c : Nat) (v : Core) : (s.setCore c v).fars = s.fars := rfl
@[simp] theorem setCore_net (s : State) (c : Nat) (v : Core) : (s.setCore c v).net = s.net := rfl
@[simp] theorem setCore_nextId (s : State) (c : Nat) (v : Core) : (s.setCore c v).nextId = s.nextId := rfl
@[simp] theorem setCore_links (s : State) (c : Nat) (v : Core) : (s.setCore c v).links = s.links := rfl
@[simp] theorem setCore_answers (s : State) (c : Nat) (v : Core) : (s.setCore c v).answers = s.answers := rfl
@[simp] theorem setCore_hostHeld (s : State) (c : Nat) (v : Core) : (s.setCore c v).hostHeld = s.hostHeld := rfl
@[simp] theorem setCore_peerHeld (s : State) (c : Nat) (v : Core) : (s.setCore c v).peerHeld = s.peerHeld := rfl
@[simp] theorem setCore_bar2 (s : State) (c : Nat) (v : Core) : (s.setCore c v).bar2 = s.bar2 := rfl
@[simp] theorem setCore_backInv (s : State) (c : Nat) (v : Core) : (s.setCore c v).backInv = s.backInv := rfl
@[simp] theorem setCore_marked (s : State) (c : Nat) (v : Core) : (s.setCore c v).marked = s.marked := rfl
@[simp] theorem setCore_reductions (s : State) (c : Nat) (v : Core) : (s.setCore c v).reductions = s.reductions := rfl
@[simp] theorem setCore_contributions (s : State) (c : Nat) (v : Core) : (s.setCore c v).contributions = s.contributions := rfl
@[simp] theorem setCore_benches (s : State) (c : Nat) (v : Core) : (s.setCore c v).benches = s.benches := rfl
@[simp] theorem setCore_snapping (s : State) (c : Nat) (v : Core) : (s.setCore c v).snapping = s.snapping := rfl
@[simp] theorem setCore_snaps (s : State) (c : Nat) (v : Core) : (s.setCore c v).snaps = s.snaps := rfl
@[simp] theorem setCore_upkeep (s : State) (c : Nat) (v : Core) : (s.setCore c v).upkeep = s.upkeep := rfl
@[simp] theorem setCore_issuing (s : State) (c : Nat) (v : Core) : (s.setCore c v).issuing = s.issuing := rfl
@[simp] theorem setCore_cutNow (s : State) (c : Nat) (v : Core) : (s.setCore c v).cutNow = s.cutNow := rfl
@[simp] theorem setCore_due (s : State) (c : Nat) (v : Core) : (s.setCore c v).due = s.due := rfl
@[simp] theorem setCore_agenda (s : State) (c : Nat) (v : Core) : (s.setCore c v).agenda = s.agenda := rfl
@[simp] theorem setCore_free (s : State) (c : Nat) (v : Core) : (s.setCore c v).free = s.free := rfl

@[simp] theorem setCluster_time (s : State) (c : Nat) (v : Cluster) : (s.setCluster c v).time = s.time := rfl
@[simp] theorem setCluster_mem (s : State) (c : Nat) (v : Cluster) : (s.setCluster c v).mem = s.mem := rfl
@[simp] theorem setCluster_dirty (s : State) (c : Nat) (v : Cluster) : (s.setCluster c v).dirty = s.dirty := rfl
@[simp] theorem setCluster_modcfg (s : State) (c : Nat) (v : Cluster) : (s.setCluster c v).modcfg = s.modcfg := rfl
@[simp] theorem setCluster_present (s : State) (c : Nat) (v : Cluster) : (s.setCluster c v).present = s.present := rfl
@[simp] theorem setCluster_modStatus (s : State) (c : Nat) (v : Cluster) : (s.setCluster c v).modStatus = s.modStatus := rfl
@[simp] theorem setCluster_modnum (s : State) (c : Nat) (v : Cluster) : (s.setCluster c v).modnum = s.modnum := rfl
@[simp] theorem setCluster_parts (s : State) (c : Nat) (v : Cluster) : (s.setCluster c v).parts = s.parts := rfl
@[simp] theorem setCluster_crews (s : State) (c : Nat) (v : Cluster) : (s.setCluster c v).crews = s.crews := rfl
@[simp] theorem setCluster_threads (s : State) (c : Nat) (v : Cluster) : (s.setCluster c v).threads = s.threads := rfl
@[simp] theorem setCluster_cores (s : State) (c : Nat) (v : Cluster) : (s.setCluster c v).cores = s.cores := rfl
@[simp] theorem setCluster_dir (s : State) (c : Nat) (v : Cluster) : (s.setCluster c v).dir = s.dir := rfl
@[simp] theorem setCluster_seqs (s : State) (c : Nat) (v : Cluster) : (s.setCluster c v).seqs = s.seqs := rfl
@[simp] theorem setCluster_commits (s : State) (c : Nat) (v : Cluster) : (s.setCluster c v).commits = s.commits := rfl
@[simp] theorem setCluster_fars (s : State) (c : Nat) (v : Cluster) : (s.setCluster c v).fars = s.fars := rfl
@[simp] theorem setCluster_net (s : State) (c : Nat) (v : Cluster) : (s.setCluster c v).net = s.net := rfl
@[simp] theorem setCluster_nextId (s : State) (c : Nat) (v : Cluster) : (s.setCluster c v).nextId = s.nextId := rfl
@[simp] theorem setCluster_links (s : State) (c : Nat) (v : Cluster) : (s.setCluster c v).links = s.links := rfl
@[simp] theorem setCluster_answers (s : State) (c : Nat) (v : Cluster) : (s.setCluster c v).answers = s.answers := rfl
@[simp] theorem setCluster_hostHeld (s : State) (c : Nat) (v : Cluster) : (s.setCluster c v).hostHeld = s.hostHeld := rfl
@[simp] theorem setCluster_peerHeld (s : State) (c : Nat) (v : Cluster) : (s.setCluster c v).peerHeld = s.peerHeld := rfl
@[simp] theorem setCluster_bar2 (s : State) (c : Nat) (v : Cluster) : (s.setCluster c v).bar2 = s.bar2 := rfl
@[simp] theorem setCluster_backInv (s : State) (c : Nat) (v : Cluster) : (s.setCluster c v).backInv = s.backInv := rfl
@[simp] theorem setCluster_marked (s : State) (c : Nat) (v : Cluster) : (s.setCluster c v).marked = s.marked := rfl
@[simp] theorem setCluster_reductions (s : State) (c : Nat) (v : Cluster) : (s.setCluster c v).reductions = s.reductions := rfl
@[simp] theorem setCluster_contributions (s : State) (c : Nat) (v : Cluster) : (s.setCluster c v).contributions = s.contributions := rfl
@[simp] theorem setCluster_benches (s : State) (c : Nat) (v : Cluster) : (s.setCluster c v).benches = s.benches := rfl
@[simp] theorem setCluster_snapping (s : State) (c : Nat) (v : Cluster) : (s.setCluster c v).snapping = s.snapping := rfl
@[simp] theorem setCluster_snaps (s : State) (c : Nat) (v : Cluster) : (s.setCluster c v).snaps = s.snaps := rfl
@[simp] theorem setCluster_upkeep (s : State) (c : Nat) (v : Cluster) : (s.setCluster c v).upkeep = s.upkeep := rfl
@[simp] theorem setCluster_issuing (s : State) (c : Nat) (v : Cluster) : (s.setCluster c v).issuing = s.issuing := rfl
@[simp] theorem setCluster_cutNow (s : State) (c : Nat) (v : Cluster) : (s.setCluster c v).cutNow = s.cutNow := rfl
@[simp] theorem setCluster_due (s : State) (c : Nat) (v : Cluster) : (s.setCluster c v).due = s.due := rfl
@[simp] theorem setCluster_agenda (s : State) (c : Nat) (v : Cluster) : (s.setCluster c v).agenda = s.agenda := rfl
@[simp] theorem setCluster_free (s : State) (c : Nat) (v : Cluster) : (s.setCluster c v).free = s.free := rfl

@[simp] theorem setPart_time (s : State) (p : Nat) (v : Part) : (s.setPart p v).time = s.time := rfl
@[simp] theorem setPart_mem (s : State) (p : Nat) (v : Part) : (s.setPart p v).mem = s.mem := rfl
@[simp] theorem setPart_dirty (s : State) (p : Nat) (v : Part) : (s.setPart p v).dirty = s.dirty := rfl
@[simp] theorem setPart_modcfg (s : State) (p : Nat) (v : Part) : (s.setPart p v).modcfg = s.modcfg := rfl
@[simp] theorem setPart_present (s : State) (p : Nat) (v : Part) : (s.setPart p v).present = s.present := rfl
@[simp] theorem setPart_modStatus (s : State) (p : Nat) (v : Part) : (s.setPart p v).modStatus = s.modStatus := rfl
@[simp] theorem setPart_modnum (s : State) (p : Nat) (v : Part) : (s.setPart p v).modnum = s.modnum := rfl
@[simp] theorem setPart_crews (s : State) (p : Nat) (v : Part) : (s.setPart p v).crews = s.crews := rfl
@[simp] theorem setPart_threads (s : State) (p : Nat) (v : Part) : (s.setPart p v).threads = s.threads := rfl
@[simp] theorem setPart_cores (s : State) (p : Nat) (v : Part) : (s.setPart p v).cores = s.cores := rfl
@[simp] theorem setPart_clusters (s : State) (p : Nat) (v : Part) : (s.setPart p v).clusters = s.clusters := rfl
@[simp] theorem setPart_dir (s : State) (p : Nat) (v : Part) : (s.setPart p v).dir = s.dir := rfl
@[simp] theorem setPart_seqs (s : State) (p : Nat) (v : Part) : (s.setPart p v).seqs = s.seqs := rfl
@[simp] theorem setPart_commits (s : State) (p : Nat) (v : Part) : (s.setPart p v).commits = s.commits := rfl
@[simp] theorem setPart_fars (s : State) (p : Nat) (v : Part) : (s.setPart p v).fars = s.fars := rfl
@[simp] theorem setPart_net (s : State) (p : Nat) (v : Part) : (s.setPart p v).net = s.net := rfl
@[simp] theorem setPart_nextId (s : State) (p : Nat) (v : Part) : (s.setPart p v).nextId = s.nextId := rfl
@[simp] theorem setPart_links (s : State) (p : Nat) (v : Part) : (s.setPart p v).links = s.links := rfl
@[simp] theorem setPart_answers (s : State) (p : Nat) (v : Part) : (s.setPart p v).answers = s.answers := rfl
@[simp] theorem setPart_hostHeld (s : State) (p : Nat) (v : Part) : (s.setPart p v).hostHeld = s.hostHeld := rfl
@[simp] theorem setPart_peerHeld (s : State) (p : Nat) (v : Part) : (s.setPart p v).peerHeld = s.peerHeld := rfl
@[simp] theorem setPart_bar2 (s : State) (p : Nat) (v : Part) : (s.setPart p v).bar2 = s.bar2 := rfl
@[simp] theorem setPart_backInv (s : State) (p : Nat) (v : Part) : (s.setPart p v).backInv = s.backInv := rfl
@[simp] theorem setPart_marked (s : State) (p : Nat) (v : Part) : (s.setPart p v).marked = s.marked := rfl
@[simp] theorem setPart_reductions (s : State) (p : Nat) (v : Part) : (s.setPart p v).reductions = s.reductions := rfl
@[simp] theorem setPart_contributions (s : State) (p : Nat) (v : Part) : (s.setPart p v).contributions = s.contributions := rfl
@[simp] theorem setPart_benches (s : State) (p : Nat) (v : Part) : (s.setPart p v).benches = s.benches := rfl
@[simp] theorem setPart_snapping (s : State) (p : Nat) (v : Part) : (s.setPart p v).snapping = s.snapping := rfl
@[simp] theorem setPart_snaps (s : State) (p : Nat) (v : Part) : (s.setPart p v).snaps = s.snaps := rfl
@[simp] theorem setPart_upkeep (s : State) (p : Nat) (v : Part) : (s.setPart p v).upkeep = s.upkeep := rfl
@[simp] theorem setPart_issuing (s : State) (p : Nat) (v : Part) : (s.setPart p v).issuing = s.issuing := rfl
@[simp] theorem setPart_cutNow (s : State) (p : Nat) (v : Part) : (s.setPart p v).cutNow = s.cutNow := rfl
@[simp] theorem setPart_due (s : State) (p : Nat) (v : Part) : (s.setPart p v).due = s.due := rfl
@[simp] theorem setPart_agenda (s : State) (p : Nat) (v : Part) : (s.setPart p v).agenda = s.agenda := rfl
@[simp] theorem setPart_free (s : State) (p : Nat) (v : Part) : (s.setPart p v).free = s.free := rfl

@[simp] theorem setCrew_time (s : State) (c : Nat) (v : Crew) : (s.setCrew c v).time = s.time := rfl
@[simp] theorem setCrew_mem (s : State) (c : Nat) (v : Crew) : (s.setCrew c v).mem = s.mem := rfl
@[simp] theorem setCrew_dirty (s : State) (c : Nat) (v : Crew) : (s.setCrew c v).dirty = s.dirty := rfl
@[simp] theorem setCrew_modcfg (s : State) (c : Nat) (v : Crew) : (s.setCrew c v).modcfg = s.modcfg := rfl
@[simp] theorem setCrew_present (s : State) (c : Nat) (v : Crew) : (s.setCrew c v).present = s.present := rfl
@[simp] theorem setCrew_modStatus (s : State) (c : Nat) (v : Crew) : (s.setCrew c v).modStatus = s.modStatus := rfl
@[simp] theorem setCrew_modnum (s : State) (c : Nat) (v : Crew) : (s.setCrew c v).modnum = s.modnum := rfl
@[simp] theorem setCrew_parts (s : State) (c : Nat) (v : Crew) : (s.setCrew c v).parts = s.parts := rfl
@[simp] theorem setCrew_threads (s : State) (c : Nat) (v : Crew) : (s.setCrew c v).threads = s.threads := rfl
@[simp] theorem setCrew_cores (s : State) (c : Nat) (v : Crew) : (s.setCrew c v).cores = s.cores := rfl
@[simp] theorem setCrew_clusters (s : State) (c : Nat) (v : Crew) : (s.setCrew c v).clusters = s.clusters := rfl
@[simp] theorem setCrew_dir (s : State) (c : Nat) (v : Crew) : (s.setCrew c v).dir = s.dir := rfl
@[simp] theorem setCrew_seqs (s : State) (c : Nat) (v : Crew) : (s.setCrew c v).seqs = s.seqs := rfl
@[simp] theorem setCrew_commits (s : State) (c : Nat) (v : Crew) : (s.setCrew c v).commits = s.commits := rfl
@[simp] theorem setCrew_fars (s : State) (c : Nat) (v : Crew) : (s.setCrew c v).fars = s.fars := rfl
@[simp] theorem setCrew_net (s : State) (c : Nat) (v : Crew) : (s.setCrew c v).net = s.net := rfl
@[simp] theorem setCrew_nextId (s : State) (c : Nat) (v : Crew) : (s.setCrew c v).nextId = s.nextId := rfl
@[simp] theorem setCrew_links (s : State) (c : Nat) (v : Crew) : (s.setCrew c v).links = s.links := rfl
@[simp] theorem setCrew_answers (s : State) (c : Nat) (v : Crew) : (s.setCrew c v).answers = s.answers := rfl
@[simp] theorem setCrew_hostHeld (s : State) (c : Nat) (v : Crew) : (s.setCrew c v).hostHeld = s.hostHeld := rfl
@[simp] theorem setCrew_peerHeld (s : State) (c : Nat) (v : Crew) : (s.setCrew c v).peerHeld = s.peerHeld := rfl
@[simp] theorem setCrew_bar2 (s : State) (c : Nat) (v : Crew) : (s.setCrew c v).bar2 = s.bar2 := rfl
@[simp] theorem setCrew_backInv (s : State) (c : Nat) (v : Crew) : (s.setCrew c v).backInv = s.backInv := rfl
@[simp] theorem setCrew_marked (s : State) (c : Nat) (v : Crew) : (s.setCrew c v).marked = s.marked := rfl
@[simp] theorem setCrew_reductions (s : State) (c : Nat) (v : Crew) : (s.setCrew c v).reductions = s.reductions := rfl
@[simp] theorem setCrew_contributions (s : State) (c : Nat) (v : Crew) : (s.setCrew c v).contributions = s.contributions := rfl
@[simp] theorem setCrew_benches (s : State) (c : Nat) (v : Crew) : (s.setCrew c v).benches = s.benches := rfl
@[simp] theorem setCrew_snapping (s : State) (c : Nat) (v : Crew) : (s.setCrew c v).snapping = s.snapping := rfl
@[simp] theorem setCrew_snaps (s : State) (c : Nat) (v : Crew) : (s.setCrew c v).snaps = s.snaps := rfl
@[simp] theorem setCrew_upkeep (s : State) (c : Nat) (v : Crew) : (s.setCrew c v).upkeep = s.upkeep := rfl
@[simp] theorem setCrew_issuing (s : State) (c : Nat) (v : Crew) : (s.setCrew c v).issuing = s.issuing := rfl
@[simp] theorem setCrew_cutNow (s : State) (c : Nat) (v : Crew) : (s.setCrew c v).cutNow = s.cutNow := rfl
@[simp] theorem setCrew_due (s : State) (c : Nat) (v : Crew) : (s.setCrew c v).due = s.due := rfl
@[simp] theorem setCrew_agenda (s : State) (c : Nat) (v : Crew) : (s.setCrew c v).agenda = s.agenda := rfl
@[simp] theorem setCrew_free (s : State) (c : Nat) (v : Crew) : (s.setCrew c v).free = s.free := rfl

@[simp] theorem setThread_time (s : State) (t : Nat) (v : Thread) : (s.setThread t v).time = s.time := rfl
@[simp] theorem setThread_mem (s : State) (t : Nat) (v : Thread) : (s.setThread t v).mem = s.mem := rfl
@[simp] theorem setThread_dirty (s : State) (t : Nat) (v : Thread) : (s.setThread t v).dirty = s.dirty := rfl
@[simp] theorem setThread_modcfg (s : State) (t : Nat) (v : Thread) : (s.setThread t v).modcfg = s.modcfg := rfl
@[simp] theorem setThread_present (s : State) (t : Nat) (v : Thread) : (s.setThread t v).present = s.present := rfl
@[simp] theorem setThread_modStatus (s : State) (t : Nat) (v : Thread) : (s.setThread t v).modStatus = s.modStatus := rfl
@[simp] theorem setThread_modnum (s : State) (t : Nat) (v : Thread) : (s.setThread t v).modnum = s.modnum := rfl
@[simp] theorem setThread_parts (s : State) (t : Nat) (v : Thread) : (s.setThread t v).parts = s.parts := rfl
@[simp] theorem setThread_crews (s : State) (t : Nat) (v : Thread) : (s.setThread t v).crews = s.crews := rfl
@[simp] theorem setThread_cores (s : State) (t : Nat) (v : Thread) : (s.setThread t v).cores = s.cores := rfl
@[simp] theorem setThread_clusters (s : State) (t : Nat) (v : Thread) : (s.setThread t v).clusters = s.clusters := rfl
@[simp] theorem setThread_dir (s : State) (t : Nat) (v : Thread) : (s.setThread t v).dir = s.dir := rfl
@[simp] theorem setThread_seqs (s : State) (t : Nat) (v : Thread) : (s.setThread t v).seqs = s.seqs := rfl
@[simp] theorem setThread_commits (s : State) (t : Nat) (v : Thread) : (s.setThread t v).commits = s.commits := rfl
@[simp] theorem setThread_fars (s : State) (t : Nat) (v : Thread) : (s.setThread t v).fars = s.fars := rfl
@[simp] theorem setThread_net (s : State) (t : Nat) (v : Thread) : (s.setThread t v).net = s.net := rfl
@[simp] theorem setThread_nextId (s : State) (t : Nat) (v : Thread) : (s.setThread t v).nextId = s.nextId := rfl
@[simp] theorem setThread_links (s : State) (t : Nat) (v : Thread) : (s.setThread t v).links = s.links := rfl
@[simp] theorem setThread_answers (s : State) (t : Nat) (v : Thread) : (s.setThread t v).answers = s.answers := rfl
@[simp] theorem setThread_hostHeld (s : State) (t : Nat) (v : Thread) : (s.setThread t v).hostHeld = s.hostHeld := rfl
@[simp] theorem setThread_peerHeld (s : State) (t : Nat) (v : Thread) : (s.setThread t v).peerHeld = s.peerHeld := rfl
@[simp] theorem setThread_bar2 (s : State) (t : Nat) (v : Thread) : (s.setThread t v).bar2 = s.bar2 := rfl
@[simp] theorem setThread_backInv (s : State) (t : Nat) (v : Thread) : (s.setThread t v).backInv = s.backInv := rfl
@[simp] theorem setThread_marked (s : State) (t : Nat) (v : Thread) : (s.setThread t v).marked = s.marked := rfl
@[simp] theorem setThread_reductions (s : State) (t : Nat) (v : Thread) : (s.setThread t v).reductions = s.reductions := rfl
@[simp] theorem setThread_contributions (s : State) (t : Nat) (v : Thread) : (s.setThread t v).contributions = s.contributions := rfl
@[simp] theorem setThread_benches (s : State) (t : Nat) (v : Thread) : (s.setThread t v).benches = s.benches := rfl
@[simp] theorem setThread_snapping (s : State) (t : Nat) (v : Thread) : (s.setThread t v).snapping = s.snapping := rfl
@[simp] theorem setThread_snaps (s : State) (t : Nat) (v : Thread) : (s.setThread t v).snaps = s.snaps := rfl
@[simp] theorem setThread_upkeep (s : State) (t : Nat) (v : Thread) : (s.setThread t v).upkeep = s.upkeep := rfl
@[simp] theorem setThread_issuing (s : State) (t : Nat) (v : Thread) : (s.setThread t v).issuing = s.issuing := rfl
@[simp] theorem setThread_cutNow (s : State) (t : Nat) (v : Thread) : (s.setThread t v).cutNow = s.cutNow := rfl
@[simp] theorem setThread_due (s : State) (t : Nat) (v : Thread) : (s.setThread t v).due = s.due := rfl
@[simp] theorem setThread_agenda (s : State) (t : Nat) (v : Thread) : (s.setThread t v).agenda = s.agenda := rfl
@[simp] theorem setThread_free (s : State) (t : Nat) (v : Thread) : (s.setThread t v).free = s.free := rfl

@[simp] theorem setBench_time (s : State) (b : Nat) (v : Bench) : (s.setBench b v).time = s.time := rfl
@[simp] theorem setBench_mem (s : State) (b : Nat) (v : Bench) : (s.setBench b v).mem = s.mem := rfl
@[simp] theorem setBench_dirty (s : State) (b : Nat) (v : Bench) : (s.setBench b v).dirty = s.dirty := rfl
@[simp] theorem setBench_modcfg (s : State) (b : Nat) (v : Bench) : (s.setBench b v).modcfg = s.modcfg := rfl
@[simp] theorem setBench_present (s : State) (b : Nat) (v : Bench) : (s.setBench b v).present = s.present := rfl
@[simp] theorem setBench_modStatus (s : State) (b : Nat) (v : Bench) : (s.setBench b v).modStatus = s.modStatus := rfl
@[simp] theorem setBench_modnum (s : State) (b : Nat) (v : Bench) : (s.setBench b v).modnum = s.modnum := rfl
@[simp] theorem setBench_parts (s : State) (b : Nat) (v : Bench) : (s.setBench b v).parts = s.parts := rfl
@[simp] theorem setBench_crews (s : State) (b : Nat) (v : Bench) : (s.setBench b v).crews = s.crews := rfl
@[simp] theorem setBench_threads (s : State) (b : Nat) (v : Bench) : (s.setBench b v).threads = s.threads := rfl
@[simp] theorem setBench_cores (s : State) (b : Nat) (v : Bench) : (s.setBench b v).cores = s.cores := rfl
@[simp] theorem setBench_clusters (s : State) (b : Nat) (v : Bench) : (s.setBench b v).clusters = s.clusters := rfl
@[simp] theorem setBench_dir (s : State) (b : Nat) (v : Bench) : (s.setBench b v).dir = s.dir := rfl
@[simp] theorem setBench_seqs (s : State) (b : Nat) (v : Bench) : (s.setBench b v).seqs = s.seqs := rfl
@[simp] theorem setBench_commits (s : State) (b : Nat) (v : Bench) : (s.setBench b v).commits = s.commits := rfl
@[simp] theorem setBench_fars (s : State) (b : Nat) (v : Bench) : (s.setBench b v).fars = s.fars := rfl
@[simp] theorem setBench_net (s : State) (b : Nat) (v : Bench) : (s.setBench b v).net = s.net := rfl
@[simp] theorem setBench_nextId (s : State) (b : Nat) (v : Bench) : (s.setBench b v).nextId = s.nextId := rfl
@[simp] theorem setBench_links (s : State) (b : Nat) (v : Bench) : (s.setBench b v).links = s.links := rfl
@[simp] theorem setBench_answers (s : State) (b : Nat) (v : Bench) : (s.setBench b v).answers = s.answers := rfl
@[simp] theorem setBench_hostHeld (s : State) (b : Nat) (v : Bench) : (s.setBench b v).hostHeld = s.hostHeld := rfl
@[simp] theorem setBench_peerHeld (s : State) (b : Nat) (v : Bench) : (s.setBench b v).peerHeld = s.peerHeld := rfl
@[simp] theorem setBench_bar2 (s : State) (b : Nat) (v : Bench) : (s.setBench b v).bar2 = s.bar2 := rfl
@[simp] theorem setBench_backInv (s : State) (b : Nat) (v : Bench) : (s.setBench b v).backInv = s.backInv := rfl
@[simp] theorem setBench_marked (s : State) (b : Nat) (v : Bench) : (s.setBench b v).marked = s.marked := rfl
@[simp] theorem setBench_reductions (s : State) (b : Nat) (v : Bench) : (s.setBench b v).reductions = s.reductions := rfl
@[simp] theorem setBench_contributions (s : State) (b : Nat) (v : Bench) : (s.setBench b v).contributions = s.contributions := rfl
@[simp] theorem setBench_snapping (s : State) (b : Nat) (v : Bench) : (s.setBench b v).snapping = s.snapping := rfl
@[simp] theorem setBench_snaps (s : State) (b : Nat) (v : Bench) : (s.setBench b v).snaps = s.snaps := rfl
@[simp] theorem setBench_upkeep (s : State) (b : Nat) (v : Bench) : (s.setBench b v).upkeep = s.upkeep := rfl
@[simp] theorem setBench_issuing (s : State) (b : Nat) (v : Bench) : (s.setBench b v).issuing = s.issuing := rfl
@[simp] theorem setBench_cutNow (s : State) (b : Nat) (v : Bench) : (s.setBench b v).cutNow = s.cutNow := rfl
@[simp] theorem setBench_due (s : State) (b : Nat) (v : Bench) : (s.setBench b v).due = s.due := rfl
@[simp] theorem setBench_agenda (s : State) (b : Nat) (v : Bench) : (s.setBench b v).agenda = s.agenda := rfl
@[simp] theorem setBench_free (s : State) (b : Nat) (v : Bench) : (s.setBench b v).free = s.free := rfl

@[simp] theorem setBank_time (s : State) (c b : Nat) (v : Bank) : (s.setBank c b v).time = s.time := rfl
@[simp] theorem setBank_mem (s : State) (c b : Nat) (v : Bank) : (s.setBank c b v).mem = s.mem := rfl
@[simp] theorem setBank_dirty (s : State) (c b : Nat) (v : Bank) : (s.setBank c b v).dirty = s.dirty := rfl
@[simp] theorem setBank_modcfg (s : State) (c b : Nat) (v : Bank) : (s.setBank c b v).modcfg = s.modcfg := rfl
@[simp] theorem setBank_present (s : State) (c b : Nat) (v : Bank) : (s.setBank c b v).present = s.present := rfl
@[simp] theorem setBank_modStatus (s : State) (c b : Nat) (v : Bank) : (s.setBank c b v).modStatus = s.modStatus := rfl
@[simp] theorem setBank_modnum (s : State) (c b : Nat) (v : Bank) : (s.setBank c b v).modnum = s.modnum := rfl
@[simp] theorem setBank_parts (s : State) (c b : Nat) (v : Bank) : (s.setBank c b v).parts = s.parts := rfl
@[simp] theorem setBank_crews (s : State) (c b : Nat) (v : Bank) : (s.setBank c b v).crews = s.crews := rfl
@[simp] theorem setBank_threads (s : State) (c b : Nat) (v : Bank) : (s.setBank c b v).threads = s.threads := rfl
@[simp] theorem setBank_cores (s : State) (c b : Nat) (v : Bank) : (s.setBank c b v).cores = s.cores := rfl
@[simp] theorem setBank_dir (s : State) (c b : Nat) (v : Bank) : (s.setBank c b v).dir = s.dir := rfl
@[simp] theorem setBank_seqs (s : State) (c b : Nat) (v : Bank) : (s.setBank c b v).seqs = s.seqs := rfl
@[simp] theorem setBank_commits (s : State) (c b : Nat) (v : Bank) : (s.setBank c b v).commits = s.commits := rfl
@[simp] theorem setBank_fars (s : State) (c b : Nat) (v : Bank) : (s.setBank c b v).fars = s.fars := rfl
@[simp] theorem setBank_net (s : State) (c b : Nat) (v : Bank) : (s.setBank c b v).net = s.net := rfl
@[simp] theorem setBank_nextId (s : State) (c b : Nat) (v : Bank) : (s.setBank c b v).nextId = s.nextId := rfl
@[simp] theorem setBank_links (s : State) (c b : Nat) (v : Bank) : (s.setBank c b v).links = s.links := rfl
@[simp] theorem setBank_answers (s : State) (c b : Nat) (v : Bank) : (s.setBank c b v).answers = s.answers := rfl
@[simp] theorem setBank_hostHeld (s : State) (c b : Nat) (v : Bank) : (s.setBank c b v).hostHeld = s.hostHeld := rfl
@[simp] theorem setBank_peerHeld (s : State) (c b : Nat) (v : Bank) : (s.setBank c b v).peerHeld = s.peerHeld := rfl
@[simp] theorem setBank_bar2 (s : State) (c b : Nat) (v : Bank) : (s.setBank c b v).bar2 = s.bar2 := rfl
@[simp] theorem setBank_backInv (s : State) (c b : Nat) (v : Bank) : (s.setBank c b v).backInv = s.backInv := rfl
@[simp] theorem setBank_marked (s : State) (c b : Nat) (v : Bank) : (s.setBank c b v).marked = s.marked := rfl
@[simp] theorem setBank_reductions (s : State) (c b : Nat) (v : Bank) : (s.setBank c b v).reductions = s.reductions := rfl
@[simp] theorem setBank_contributions (s : State) (c b : Nat) (v : Bank) : (s.setBank c b v).contributions = s.contributions := rfl
@[simp] theorem setBank_benches (s : State) (c b : Nat) (v : Bank) : (s.setBank c b v).benches = s.benches := rfl
@[simp] theorem setBank_snapping (s : State) (c b : Nat) (v : Bank) : (s.setBank c b v).snapping = s.snapping := rfl
@[simp] theorem setBank_snaps (s : State) (c b : Nat) (v : Bank) : (s.setBank c b v).snaps = s.snaps := rfl
@[simp] theorem setBank_upkeep (s : State) (c b : Nat) (v : Bank) : (s.setBank c b v).upkeep = s.upkeep := rfl
@[simp] theorem setBank_issuing (s : State) (c b : Nat) (v : Bank) : (s.setBank c b v).issuing = s.issuing := rfl
@[simp] theorem setBank_cutNow (s : State) (c b : Nat) (v : Bank) : (s.setBank c b v).cutNow = s.cutNow := rfl
@[simp] theorem setBank_due (s : State) (c b : Nat) (v : Bank) : (s.setBank c b v).due = s.due := rfl
@[simp] theorem setBank_agenda (s : State) (c b : Nat) (v : Bank) : (s.setBank c b v).agenda = s.agenda := rfl
@[simp] theorem setBank_free (s : State) (c b : Nat) (v : Bank) : (s.setBank c b v).free = s.free := rfl

@[simp] theorem send_time (s : State) (cls src fret dest : Nat) (x : Payload) : (s.send cls src fret dest x).time = s.time := rfl
@[simp] theorem send_mem (s : State) (cls src fret dest : Nat) (x : Payload) : (s.send cls src fret dest x).mem = s.mem := rfl
@[simp] theorem send_dirty (s : State) (cls src fret dest : Nat) (x : Payload) : (s.send cls src fret dest x).dirty = s.dirty := rfl
@[simp] theorem send_modcfg (s : State) (cls src fret dest : Nat) (x : Payload) : (s.send cls src fret dest x).modcfg = s.modcfg := rfl
@[simp] theorem send_present (s : State) (cls src fret dest : Nat) (x : Payload) : (s.send cls src fret dest x).present = s.present := rfl
@[simp] theorem send_modStatus (s : State) (cls src fret dest : Nat) (x : Payload) : (s.send cls src fret dest x).modStatus = s.modStatus := rfl
@[simp] theorem send_modnum (s : State) (cls src fret dest : Nat) (x : Payload) : (s.send cls src fret dest x).modnum = s.modnum := rfl
@[simp] theorem send_parts (s : State) (cls src fret dest : Nat) (x : Payload) : (s.send cls src fret dest x).parts = s.parts := rfl
@[simp] theorem send_crews (s : State) (cls src fret dest : Nat) (x : Payload) : (s.send cls src fret dest x).crews = s.crews := rfl
@[simp] theorem send_threads (s : State) (cls src fret dest : Nat) (x : Payload) : (s.send cls src fret dest x).threads = s.threads := rfl
@[simp] theorem send_cores (s : State) (cls src fret dest : Nat) (x : Payload) : (s.send cls src fret dest x).cores = s.cores := rfl
@[simp] theorem send_clusters (s : State) (cls src fret dest : Nat) (x : Payload) : (s.send cls src fret dest x).clusters = s.clusters := rfl
@[simp] theorem send_dir (s : State) (cls src fret dest : Nat) (x : Payload) : (s.send cls src fret dest x).dir = s.dir := rfl
@[simp] theorem send_seqs (s : State) (cls src fret dest : Nat) (x : Payload) : (s.send cls src fret dest x).seqs = s.seqs := rfl
@[simp] theorem send_commits (s : State) (cls src fret dest : Nat) (x : Payload) : (s.send cls src fret dest x).commits = s.commits := rfl
@[simp] theorem send_fars (s : State) (cls src fret dest : Nat) (x : Payload) : (s.send cls src fret dest x).fars = s.fars := rfl
@[simp] theorem send_links (s : State) (cls src fret dest : Nat) (x : Payload) : (s.send cls src fret dest x).links = s.links := rfl
@[simp] theorem send_answers (s : State) (cls src fret dest : Nat) (x : Payload) : (s.send cls src fret dest x).answers = s.answers := rfl
@[simp] theorem send_hostHeld (s : State) (cls src fret dest : Nat) (x : Payload) : (s.send cls src fret dest x).hostHeld = s.hostHeld := rfl
@[simp] theorem send_peerHeld (s : State) (cls src fret dest : Nat) (x : Payload) : (s.send cls src fret dest x).peerHeld = s.peerHeld := rfl
@[simp] theorem send_bar2 (s : State) (cls src fret dest : Nat) (x : Payload) : (s.send cls src fret dest x).bar2 = s.bar2 := rfl
@[simp] theorem send_backInv (s : State) (cls src fret dest : Nat) (x : Payload) : (s.send cls src fret dest x).backInv = s.backInv := rfl
@[simp] theorem send_marked (s : State) (cls src fret dest : Nat) (x : Payload) : (s.send cls src fret dest x).marked = s.marked := rfl
@[simp] theorem send_reductions (s : State) (cls src fret dest : Nat) (x : Payload) : (s.send cls src fret dest x).reductions = s.reductions := rfl
@[simp] theorem send_contributions (s : State) (cls src fret dest : Nat) (x : Payload) : (s.send cls src fret dest x).contributions = s.contributions := rfl
@[simp] theorem send_benches (s : State) (cls src fret dest : Nat) (x : Payload) : (s.send cls src fret dest x).benches = s.benches := rfl
@[simp] theorem send_snapping (s : State) (cls src fret dest : Nat) (x : Payload) : (s.send cls src fret dest x).snapping = s.snapping := rfl
@[simp] theorem send_snaps (s : State) (cls src fret dest : Nat) (x : Payload) : (s.send cls src fret dest x).snaps = s.snaps := rfl
@[simp] theorem send_upkeep (s : State) (cls src fret dest : Nat) (x : Payload) : (s.send cls src fret dest x).upkeep = s.upkeep := rfl
@[simp] theorem send_issuing (s : State) (cls src fret dest : Nat) (x : Payload) : (s.send cls src fret dest x).issuing = s.issuing := rfl
@[simp] theorem send_cutNow (s : State) (cls src fret dest : Nat) (x : Payload) : (s.send cls src fret dest x).cutNow = s.cutNow := rfl
@[simp] theorem send_due (s : State) (cls src fret dest : Nat) (x : Payload) : (s.send cls src fret dest x).due = s.due := rfl
@[simp] theorem send_agenda (s : State) (cls src fret dest : Nat) (x : Payload) : (s.send cls src fret dest x).agenda = s.agenda := rfl
@[simp] theorem send_free (s : State) (cls src fret dest : Nat) (x : Payload) : (s.send cls src fret dest x).free = s.free := rfl
@[simp] theorem send_nextId (s : State) (cls src fret dest : Nat) (x : Payload) : (s.send cls src fret dest x).nextId = s.nextId + 1 := rfl
@[simp] theorem send_net (s : State) (cls src fret dest : Nat) (x : Payload) :
    (s.send cls src fret dest x).net = s.net ++ [(s.nextId, ⟨cls, src, fret, dest, x, .waiting s.nextId⟩)] := rfl

end Sys2Proof.Machine.State
end

