-- ==== Sys2Proof/Laws/Head.lean ====
section
/-!
SUPPORT. Sys2Proof/Laws/Head.lean: what becomes of one issued head, from what its operation answers; and how the operations of
a head run one after the other.
-/

namespace Sys2Proof.Machine

/-! ### The parts of an operation -/

@[simp] theorem run_pure {α : Type} (x : α) (m : Mach) : (pure x : M α).run m = .ok x m := rfl

theorem run_bind {α β : Type} (p : M α) (f : α → M β) (m : Mach) :
    (p >>= f).run m = match p.run m with
      | .ok x m' => (f x).run m'
      | .error e m' => .error e m' := by
  show EStateM.bind p f m = _
  unfold EStateM.bind EStateM.run
  cases p m <;> rfl

/-- A part that answers is followed by the rest. -/
theorem run_bind_ok {α β : Type} {p : M α} {f : α → M β} {m m' : Mach} {x : α} (h : p.run m = .ok x m') :
    (p >>= f).run m = (f x).run m' := by rw [run_bind, h]

/-- A part that stops stops the whole. -/
theorem run_bind_error {α β : Type} {p : M α} {f : α → M β} {m m' : Mach} {e : Stop} (h : p.run m = .error e m') :
    (p >>= f).run m = .error e m' := by rw [run_bind, h]

/-- What an operation that answers has run through. -/
theorem bind_ok {α β : Type} {p : M α} {f : α → M β} {m m' : Mach} {y : β} (h : (p >>= f).run m = .ok y m') :
    ∃ x m1, p.run m = .ok x m1 ∧ (f x).run m1 = .ok y m' := by
  rw [run_bind] at h
  cases hp : p.run m with
  | ok x m1 => rw [hp] at h; exact ⟨x, m1, rfl, h⟩
  | error e m1 => rw [hp] at h; cases h

@[simp] theorem run_get (m : Mach) : (get : M Mach).run m = .ok m m := rfl
@[simp] theorem run_set (m m' : Mach) : (set m' : M PUnit).run m = .ok ⟨⟩ m' := rfl
@[simp] theorem run_modify (f : Mach → Mach) (m : Mach) : (modify f : M PUnit).run m = .ok ⟨⟩ (f m) := rfl
@[simp] theorem run_throw {α : Type} (e : Stop) (m : Mach) : (throw e : M α).run m = .error e m := rfl
@[simp] theorem run_setX (d : BitVec 6) (v : Word) (m : Mach) : (setX d v).run m = .ok ⟨⟩ { m with ar := m.ar.setX d v } := rfl
@[simp] theorem run_onArch (f : Arch → Arch) (m : Mach) : (onArch f).run m = .ok ⟨⟩ { m with ar := f m.ar } := rfl
@[simp] theorem run_onChunk (f : Chunk → Chunk) (m : Mach) : (onChunk f).run m = .ok ⟨⟩ { m with ch := f m.ch } := rfl
@[simp] theorem run_onState (f : State → State) (m : Mach) : (onState f).run m = .ok ⟨⟩ { m with st := f m.st } := rfl
@[simp] theorem run_onThread (f : Thread → Thread) (m : Mach) : (onThread f).run m = .ok ⟨⟩ { m with th := f m.th } := rfl
@[simp] theorem run_endWith (f : Finish) (m : Mach) : (endWith f).run m = .ok ⟨⟩ { m with fin := some f } := rfl
@[simp] theorem run_emit (e : Effect) (m : Mach) : (emit e).run m =
    .ok ⟨⟩ { m with ch := { m.ch with effects := m.ch.effects ++ [e], epos := m.ch.epos ++ [m.ch.count] } } := rfl

theorem run_ite {α : Type} (c : Prop) [Decidable c] (p q : M α) (m : Mach) :
    (if c then p else q).run m = if c then p.run m else q.run m := by split <;> rfl

@[simp] theorem run_faultIf_false (c : Nat) (v : Word) (m : Mach) : (faultIf false c v).run m = .ok ⟨⟩ m := rfl
@[simp] theorem run_faultIf_true (c : Nat) (v : Word) (m : Mach) : (faultIf true c v).run m = .error (.fault c v) m := rfl
@[simp] theorem run_need_true (c : Nat) (v : Word) (m : Mach) : (need true c v).run m = .ok ⟨⟩ m := rfl
@[simp] theorem run_need_false (c : Nat) (v : Word) (m : Mach) : (need false c v).run m = .error (.fault c v) m := rfl

/-- A member that is not arming passes the check of R351. -/
theorem run_notArming {m : Mach} (h : m.ar.arming = none) : notArming.run m = .ok ⟨⟩ m := by
  simp [notArming, h]

/-- Vector state that the entry grants passes the check of R379. -/
theorem run_needVec {m : Mach} (h : vecAllowed m.ar = true) : needVec.run m = .ok ⟨⟩ m := by
  simp [needVec, h]

/-- The first instruction of a chunk may stand alone (R99). -/
theorem run_standAlone {m : Mach} (h : m.ch.count = 0) : standAlone.run m = .ok ⟨⟩ { m with fin := some .alone } := by
  simp [standAlone, h]

/-! ### The head as a whole -/

/-- repst cleared changes nothing that the watchdog looks at. -/
theorem wdFires_clearRep (t : Thread) : wdFires t.clearRep.arch = wdFires t.arch := by
  unfold Thread.clearRep
  split <;> rfl

/-- A head whose operation answers retires what it leaves. -/
theorem runHead_ok {s : State} {tid : Nat} {t : Thread} {op : M Unit} {m : Mach} (hi : s.issuing = some (.thread tid))
    (ht : s.thread tid = some t) (hw : wdFires t.arch = false)
    (h : op.run (Mach.start { s with issuing := none, cutNow := false } tid t.clearRep) = .ok () m) :
    runHead s op = .next (m.retire s.cutNow) := by
  simp [runHead, runHeadAs, hi, ht, headStep, hw, runOp, h]

/-- A head whose operation stops leaves what the stop brings. -/
theorem runHead_error {s : State} {tid : Nat} {t : Thread} {op : M Unit} {m : Mach} {e : Stop}
    (hi : s.issuing = some (.thread tid)) (ht : s.thread tid = some t) (hw : wdFires t.arch = false)
    (h : op.run (Mach.start { s with issuing := none, cutNow := false } tid t.clearRep) = .error e m) :
    runHead s op = .next ((stopped m.st tid { t.clearRep with arch := { t.clearRep.arch with repst := m.ar.repst } }
      (t.clearRep.current { s with issuing := none, cutNow := false }) e).unissue tid e) := by
  simp [runHead, runHeadAs, hi, ht, headStep, hw, runOp, h]

/-- Only a head that waits for its unit is taken back. -/
theorem unissue_of_ne {s : State} {tid : Nat} {e : Stop} (h : e ≠ .wait) : s.unissue tid e = s := by
  simp [State.unissue, h]

end Sys2Proof.Machine
end

