-- ==== Sys2Proof/Laws/Memory.lean ====
section
/-!
SUPPORT. Sys2Proof/Laws/Memory.lean: tables kept by key, and the canonical form of memory.
-/

namespace Sys2Proof.Machine

/-! ### Tables -/

theorem assocGet?_assocSet {β : Type} (k j : Nat) (v : β) (l : List (Nat × β)) :
    assocGet? j (assocSet k v l) = if j = k then some v else assocGet? j l := by
  induction l with
  | nil => by_cases h : j = k <;> simp [assocSet, assocGet?, h]
  | cons e l ih =>
    obtain ⟨i, w⟩ := e
    by_cases h1 : k < i
    · by_cases h : j = k <;> simp [assocSet, assocGet?, h1, h]
    · by_cases h2 : k = i
      · subst h2
        by_cases h : j = k <;> simp [assocSet, assocGet?, h]
      · by_cases h : j = i
        · subst h
          simp [assocSet, assocGet?, h1, h2]
          intro h3
          exact absurd h3.symm h2
        · simp [assocSet, assocGet?, h1, h2, h, ih]

@[simp] theorem assocGet?_assocSet_self {β : Type} (k : Nat) (v : β) (l : List (Nat × β)) :
    assocGet? k (assocSet k v l) = some v := by simp [assocGet?_assocSet]

theorem assocGet?_assocSet_ne {β : Type} {k j : Nat} (h : j ≠ k) (v : β) (l : List (Nat × β)) :
    assocGet? j (assocSet k v l) = assocGet? j l := by simp [assocGet?_assocSet, h]

/-! ### Units read back -/

namespace State

@[simp] theorem core_setCore_self (s : State) (c : Nat) (v : Core) : (s.setCore c v).core c = v := by
  simp [core, setCore, assocGetD]
theorem core_setCore_ne (s : State) {c d : Nat} (h : d ≠ c) (v : Core) : (s.setCore c v).core d = s.core d := by
  simp [core, setCore, assocGetD, assocGet?_assocSet_ne h]
@[simp] theorem cluster_setCluster_self (s : State) (c : Nat) (v : Cluster) : (s.setCluster c v).cluster c = v := by
  simp [cluster, setCluster, assocGetD]
@[simp] theorem part_setPart_self (s : State) (p : Nat) (v : Part) : (s.setPart p v).part p = v := by
  simp [part, setPart, assocGetD]
theorem part_setPart_ne (s : State) {p q : Nat} (h : q ≠ p) (v : Part) : (s.setPart p v).part q = s.part q := by
  simp [part, setPart, assocGetD, assocGet?_assocSet_ne h]
@[simp] theorem crew_setCrew_self (s : State) (c : Nat) (v : Crew) : (s.setCrew c v).crew c = some v := by
  simp [crew, setCrew]
theorem crew_setCrew_ne (s : State) {c d : Nat} (h : d ≠ c) (v : Crew) : (s.setCrew c v).crew d = s.crew d := by
  simp [crew, setCrew, assocGet?_assocSet_ne h]
@[simp] theorem thread_setThread_self (s : State) (t : Nat) (v : Thread) : (s.setThread t v).thread t = some v := by
  simp [thread, setThread]
theorem thread_setThread_ne (s : State) {t u : Nat} (h : u ≠ t) (v : Thread) : (s.setThread t v).thread u = s.thread u := by
  simp [thread, setThread, assocGet?_assocSet_ne h]
@[simp] theorem bench_setBench_self (s : State) (b : Nat) (v : Bench) : (s.setBench b v).bench b = v := by
  simp [bench, setBench, assocGetD]
theorem bench_setBench_ne (s : State) {b e : Nat} (h : e ≠ b) (v : Bench) : (s.setBench b v).bench e = s.bench e := by
  simp [bench, setBench, assocGetD, assocGet?_assocSet_ne h]

end State

/-! ### The canonical form -/

/-- A canonical memory, from an address on, whose cells all lie at or above it. -/
theorem Memory.wfFrom_mono {lo hi : Nat} (h : lo ≤ hi) : ∀ m : Memory, Memory.wfFrom hi m = true → Memory.wfFrom lo m = true
  | [], _ => rfl
  | (a, b) :: m, w => by
    simp only [Memory.wfFrom, Bool.and_eq_true, decide_eq_true_eq] at w ⊢
    exact ⟨⟨by omega, w.1.2⟩, w.2⟩

theorem Memory.wfFrom_assocSet {b : Byte} (hb : b ≠ 0) : ∀ (m : Memory) (lo a : Nat), lo ≤ a →
    Memory.wfFrom lo m = true → Memory.wfFrom lo (assocSet a b m) = true
  | [], lo, a, h, _ => by simpa [assocSet, Memory.wfFrom, h] using hb
  | (c, d) :: m, lo, a, h, w => by
    simp only [Memory.wfFrom, Bool.and_eq_true, decide_eq_true_eq] at w
    unfold assocSet
    split
    · simp only [Memory.wfFrom, Bool.and_eq_true, decide_eq_true_eq]
      exact ⟨⟨h, hb⟩, ⟨⟨by omega, w.1.2⟩, w.2⟩⟩
    · split
      · rename_i h1 h2
        subst h2
        simp only [Memory.wfFrom, Bool.and_eq_true, decide_eq_true_eq]
        exact ⟨⟨h, hb⟩, w.2⟩
      · simp only [Memory.wfFrom, Bool.and_eq_true, decide_eq_true_eq]
        exact ⟨w.1, Memory.wfFrom_assocSet hb m (c + 1) a (by omega) w.2⟩

theorem Memory.wfFrom_assocDrop : ∀ (m : Memory) (lo a : Nat),
    Memory.wfFrom lo m = true → Memory.wfFrom lo (assocDrop a m) = true
  | [], _, _, _ => rfl
  | (c, d) :: m, lo, a, w => by
    simp only [Memory.wfFrom, Bool.and_eq_true, decide_eq_true_eq] at w
    unfold assocDrop
    split
    · exact Memory.wfFrom_mono (by omega) m w.2
    · simp only [Memory.wfFrom, Bool.and_eq_true, decide_eq_true_eq]
      exact ⟨w.1, Memory.wfFrom_assocDrop m (c + 1) a w.2⟩

theorem Memory.wfFrom_filter (p : Host.Cell → Bool) : ∀ (m : Memory) (lo : Nat),
    Memory.wfFrom lo m = true → Memory.wfFrom lo (m.filter p) = true
  | [], _, _ => rfl
  | (c, d) :: m, lo, w => by
    simp only [Memory.wfFrom, Bool.and_eq_true, decide_eq_true_eq] at w
    have ih := Memory.wfFrom_filter p m (c + 1) w.2
    unfold List.filter
    split
    · simp only [Memory.wfFrom, Bool.and_eq_true, decide_eq_true_eq]
      exact ⟨w.1, ih⟩
    · exact Memory.wfFrom_mono (by omega) _ ih

/-- A write keeps the canonical form. -/
theorem Memory.wf_write (m : Memory) (a : Nat) (b : Byte) (h : m.wf = true) : (m.write a b).wf = true := by
  unfold Memory.write
  split
  · exact Memory.wfFrom_assocDrop m 0 a h
  · rename_i hb
    exact Memory.wfFrom_assocSet hb m 0 a (Nat.zero_le a) h

/-- Writes of a run keep the canonical form. -/
theorem Memory.wf_writeRun : ∀ (bs : List Byte) (m : Memory) (a : Nat), m.wf = true → (m.writeRun a bs).wf = true
  | [], _, _, h => h
  | b :: bs, m, a, h => by
    unfold Memory.writeRun
    exact Memory.wf_writeRun bs _ _ (Memory.wf_write m a b h)

/-- Leaving out cells keeps the canonical form. -/
theorem Memory.wf_filter (m : Memory) (p : Host.Cell → Bool) (h : m.wf = true) : Memory.wf (m.filter p) = true :=
  Memory.wfFrom_filter p m 0 h

/-- Cells written one after the other keep the canonical form. -/
theorem Memory.wf_foldl_write (cs : List Host.Cell) : ∀ m : Memory, m.wf = true →
    Memory.wf (cs.foldl (fun m c => m.write c.1 c.2) m) = true := by
  induction cs with
  | nil => exact fun _ h => h
  | cons c cs ih => exact fun m h => ih _ (Memory.wf_write m c.1 c.2 h)

/-- Every listed address of a canonical memory lies at or above the start of its form. -/
theorem Memory.get?_below {x : Nat} : ∀ (m : Memory) (lo : Nat), Memory.wfFrom lo m = true → x < lo → assocGet? x m = none
  | [], _, _, _ => rfl
  | (c, d) :: m, lo, w, hx => by
    simp only [Memory.wfFrom, Bool.and_eq_true, decide_eq_true_eq] at w
    have hc : x ≠ c := by omega
    have ih := Memory.get?_below (x := x) m (c + 1) w.2 (by omega)
    simp [assocGet?, hc, ih]

theorem Memory.get?_assocDrop {x a : Nat} : ∀ (m : Memory) (lo : Nat), Memory.wfFrom lo m = true →
    assocGet? x (assocDrop a m) = if x = a then none else assocGet? x m
  | [], _, _ => by simp [assocDrop, assocGet?]
  | (c, d) :: m, lo, w => by
    simp only [Memory.wfFrom, Bool.and_eq_true, decide_eq_true_eq] at w
    unfold assocDrop
    by_cases h : a = c
    · subst h
      simp only [if_true]
      by_cases hx : x = a
      · subst hx
        have ih := Memory.get?_below (x := x) m (x + 1) w.2 (by omega)
        simp [ih]
      · simp [assocGet?, hx]
    · simp only [h, if_false, assocGet?]
      by_cases hx : x = c
      · have : x ≠ a := by omega
        simp [hx, Ne.symm h]
      · simp [hx, Memory.get?_assocDrop m (c + 1) w.2]

/-- A byte read after a write: the written one at its address, the old one elsewhere. -/
theorem Memory.read_write (m : Memory) (a x : Nat) (b : Byte) (h : m.wf = true) :
    (m.write a b).read x = if x = a then b else m.read x := by
  unfold Memory.write Memory.read assocGetD
  split
  · rename_i hb
    rw [Memory.get?_assocDrop m 0 h]
    by_cases hx : x = a <;> simp [hx, hb]
  · rw [assocGet?_assocSet]
    by_cases hx : x = a <;> simp [hx]

end Sys2Proof.Machine
end

