-- ==== Sys2Proof/Safety.lean ====
section
/-!
DEFINITION. Sys2Proof/Safety.lean: what counts as a safe state: the forms that every step is to keep.
-/

namespace Sys2Proof

open Machine

/-- The memory is in its canonical form: addresses strictly rising, no byte equal to what an unlisted address reads as. -/
def MemCanonical (s : State) : Prop := s.mem.wf = true

end Sys2Proof
end

