-- ==== Sys2Proof/Certificates/Slice0/Obligations.lean ====
section
/-!
DEFINITION. Sys2Proof/Certificates/Slice0/Obligations.lean: the statements about the model, from the rules of spec/. What they
take from the model's own choices is named in their docstrings and in notes/assumptions.
-/

namespace Sys2Proof.Claims

open Sys2Proof.Machine

/-! ### One head of a thread -/

/-- The machine once an issue has been taken up. -/
def here (s : State) : State := { s with issuing := none, cutNow := false }

/-- Thread tid has been issued and its watchdog lets a head execute (R129); t is the thread as every head other than REP finds
it, an unfinished repetition forgotten (R224). -/
def Begins (s : State) (tid : Nat) (t : Thread) : Prop :=
  s.issuing = some (.thread tid) ∧ ∃ t0, s.thread tid = some t0 ∧ wdFires t0.arch = false ∧ t = t0.clearRep

/-- What the head finds: the machine, its thread, its chunk, its registers and the PC of the next head. -/
def found (s : State) (tid : Nat) (t : Thread) : Mach := Mach.start (here s) tid t

/-- The head completes: what it found is changed by f, and by nothing else, when it retires (R98). -/
def Completes (i : Instr) (s : State) (tid : Nat) (t : Thread) (f : Mach → Mach) : Prop :=
  exec i s = .next ((f (found s tid t)).retire s.cutNow)

/-- The registers alone change. -/
def onAr (f : Arch → Arch) (m : Mach) : Mach := { m with ar := f m.ar }

/-! ### Opcodes 0x20-0x4D (R76-R90), as the manual's tables write them -/

/-- A result modulo 2^w, sign-extended under W (R76). -/
def atW (w : BitVec 1) (x : Int) : Word := if w = 1 then (BitVec.ofInt 32 x).signExtend 64 else BitVec.ofInt 64 x

/-- u(a) at the width of W. -/
def uAt (w : BitVec 1) (a : Word) : Nat := if w = 1 then a.toNat % 2 ^ 32 else a.toNat

/-- s(a) at the width of W. -/
def sAt (w : BitVec 1) (a : Word) : Int := if w = 1 then (a.setWidth 32).toInt else a.toInt

/-- The width w. -/
def wBits (w : BitVec 1) : Nat := if w = 1 then 32 else 64

/-- A truth value as 1 or 0. -/
def bit (p : Bool) : Word := if p then 1 else 0

/-- ROL of R79. -/
def rolOf (w : BitVec 1) (a : Word) (n : Nat) : Int :=
  if n = 0 then uAt w a else (uAt w a * 2 ^ n + uAt w a / 2 ^ (wBits w - n) : Nat)

/-- The destination and the result of an integer instruction, opcodes 0x20-0x42, 0x4C and 0x4D. -/
def intResult (a : Arch) : Instr → Option (BitVec 6 × Word)
  | .add d w rb ra => some (d, atW w (uAt w (a.getX ra) + uAt w (a.getX rb)))
  | .sub d w rb ra => some (d, atW w (uAt w (a.getX ra) - uAt w (a.getX rb)))
  | .mul d w rb ra => some (d, atW w (uAt w (a.getX ra) * uAt w (a.getX rb)))
  | .mulh d rb ra => some (d, BitVec.ofInt 64 ((a.getX ra).toInt * (a.getX rb).toInt / 2 ^ 64))
  | .mulhu d rb ra => some (d, BitVec.ofNat 64 ((a.getX ra).toNat * (a.getX rb).toNat / 2 ^ 64))
  | .div d w rb ra => some (d, atW w (if sAt w (a.getX rb) = 0 then -1 else (sAt w (a.getX ra)).tdiv (sAt w (a.getX rb))))
  | .divu d w rb ra => some (d, atW w (if uAt w (a.getX rb) = 0 then -1 else (uAt w (a.getX ra) / uAt w (a.getX rb) : Nat)))
  | .rem d w rb ra => some (d, atW w
      (if sAt w (a.getX rb) = 0 then sAt w (a.getX ra)
       else sAt w (a.getX ra) - sAt w (a.getX rb) * (sAt w (a.getX ra)).tdiv (sAt w (a.getX rb))))
  | .remu d w rb ra => some (d, atW w (uAt w (a.getX ra) % uAt w (a.getX rb) : Nat))
  | .and d rb ra => some (d, a.getX ra &&& a.getX rb)
  | .or d rb ra => some (d, a.getX ra ||| a.getX rb)
  | .xor d rb ra => some (d, a.getX ra ^^^ a.getX rb)
  | .shl d w rb ra => some (d, atW w (uAt w (a.getX ra) * 2 ^ (uAt w (a.getX rb) % wBits w) : Nat))
  | .shr d w rb ra => some (d, atW w (uAt w (a.getX ra) / 2 ^ (uAt w (a.getX rb) % wBits w) : Nat))
  | .sha d w rb ra => some (d, atW w (sAt w (a.getX ra) / 2 ^ (uAt w (a.getX rb) % wBits w)))
  | .rol d w rb ra => some (d, atW w (rolOf w (a.getX ra) (uAt w (a.getX rb) % wBits w)))
  | .slt d rb ra => some (d, bit (decide ((a.getX ra).toInt < (a.getX rb).toInt)))
  | .sltu d rb ra => some (d, bit (decide ((a.getX ra).toNat < (a.getX rb).toNat)))
  | .min d rb ra => some (d, BitVec.ofInt 64 (min (a.getX ra).toInt (a.getX rb).toInt))
  | .max d rb ra => some (d, BitVec.ofInt 64 (max (a.getX ra).toInt (a.getX rb).toInt))
  | .minu d rb ra => some (d, BitVec.ofNat 64 (min (a.getX ra).toNat (a.getX rb).toNat))
  | .maxu d rb ra => some (d, BitVec.ofNat 64 (max (a.getX ra).toNat (a.getX rb).toNat))
  | .addsh d n rb ra => some (d, BitVec.ofNat 64 ((a.getX ra).toNat + (a.getX rb).toNat * 2 ^ n.toNat))
  | .addi d k ra => some (d, BitVec.ofInt 64 ((a.getX ra).toNat + k.toInt))
  | .andi d k ra => some (d, a.getX ra &&& BitVec.ofInt 64 k.toInt)
  | .ori d k ra => some (d, a.getX ra ||| BitVec.ofInt 64 k.toInt)
  | .xori d k ra => some (d, a.getX ra ^^^ BitVec.ofInt 64 k.toInt)
  | .slti d k ra => some (d, bit (decide ((a.getX ra).toInt < k.toInt)))
  | .shli d w n ra => some (d, atW w (uAt w (a.getX ra) * 2 ^ (n.toNat % wBits w) : Nat))
  | .shri d w n ra => some (d, atW w (uAt w (a.getX ra) / 2 ^ (n.toNat % wBits w) : Nat))
  | .shai d w n ra => some (d, atW w (sAt w (a.getX ra) / 2 ^ (n.toNat % wBits w)))
  | .roli d w n ra => some (d, atW w (rolOf w (a.getX ra) (n.toNat % wBits w)))
  | .li d k => some (d, BitVec.ofInt 64 k.toInt)
  | .lih d k ra imm => some (d, BitVec.ofNat 64 ((a.getX ra).toNat - (a.getX ra).toNat / 2 ^ (16 * k.toNat) % 2 ^ 16 * 2 ^ (16 * k.toNat)
      + imm.toNat * 2 ^ (16 * k.toNat)))
  | .addpc d k => some (d, BitVec.ofInt 64 ((a.pc.toNat / 64 * 64 : Nat) + k.toInt))
  | .sel d k rb ra rc =>
    let x := (a.getX ra).toInt
    some (d, if (if k = 0 then x ≠ 0 else if k = 1 then x = 0 else if k = 2 then x < 0 else 0 ≤ x) then a.getX rb else a.getX rc)
  | .madd d f rb ra rc =>
    let q : Int := (a.getX ra).toNat * (a.getX rb).toNat
    some (d, BitVec.ofInt 64 (if f = 1 then (a.getX rc).toNat - q else (a.getX rc).toNat + q))
  | _ => none

/-! ### Opcodes 0x43-0x4B (R84-R88): bit i of the result -/

/-- The bits of a size code of R84: 64, 32, 16 or 8. -/
def codeBits (z : BitVec 2) : Nat := 64 / 2 ^ z.toNat

/-- The number of the steps i = 0, 1, ... below n before the first at which f holds. -/
def stepsUntil (n : Nat) (f : Nat → Bool) : Nat := ((List.range n).takeWhile fun i => !f i).length

/-- The destination and, for each bit number below 64, the bit of the result (R84-R88). -/
def bitResult (a : Arch) : Instr → Option (BitVec 6 × (Nat → Bool))
  | .clz d z ra => some (d, (stepsUntil (codeBits z) fun i => (a.getX ra).getLsbD (codeBits z - 1 - i)).testBit)
  | .ctz d z ra => some (d, (stepsUntil (codeBits z) fun i => (a.getX ra).getLsbD i).testBit)
  | .popc d z ra => some (d, ((List.range (codeBits z)).countP fun i => (a.getX ra).getLsbD i).testBit)
  | .brev d z ra => some (d, fun i => decide (i < codeBits z) && (a.getX ra).getLsbD (codeBits z - 1 - i))
  | .bswap d z ra => some (d, fun i => decide (i < codeBits z) && (a.getX ra).getLsbD (8 * (codeBits z / 8 - 1 - i / 8) + i % 8))
  | .ext d ra sg len pos => some (d, fun i =>
      if i ≤ len.toNat then (a.getX ra).getLsbD (pos.toNat + i) else sg == 1 && (a.getX ra).getLsbD (pos.toNat + len.toNat))
  | .ins d rb ra len pos => some (d, fun i =>
      if pos.toNat ≤ i ∧ i ≤ pos.toNat + len.toNat then (a.getX rb).getLsbD (i - pos.toNat) else (a.getX ra).getLsbD i)
  | .ilv d f rb ra rc => some (d, fun i =>
      if f = 0 then (if i % 2 = 0 then a.getX ra else a.getX rb).getLsbD (i / 2)
      else decide (i < 63) && (if i % 3 = 0 then a.getX ra else if i % 3 = 1 then a.getX rb else a.getX rc).getLsbD (i / 3))
  | .dilv d f ra j => some (d, fun i =>
      if f = 0 then decide (i < 32) && (a.getX ra).getLsbD (2 * i + j.toNat)
      else decide (i < 21) && (a.getX ra).getLsbD (3 * i + j.toNat))
  | _ => none

/-! ### Opcodes 0x01-0x10 (R91-R96) -/

/-- The target of form B (R44). -/
def targetB (pc : Word) (off : BitVec 21) (hi : BitVec 5) : Word :=
  BitVec.ofInt 64 ((pc.toNat / 64 * 64 : Nat) + 64 * off.toInt) ||| BitVec.ofNat 64 hi.toNat

/-- Bit k of mask d (R95). -/
def tested (ar : Arch) (d : BitVec 3) (k : Nat) : Bool := (ar.getM d).getLsbD k

/-- The bits that a test under span a looks at: those below its count, or all 64 under s0 (R95). -/
def testedNum (ar : Arch) (a : BitVec 2) : Nat := if a = 0 then 64 else min ((ar.getS a).toNat % 512) 64

/-- What a transfer of control or a NOP links, and where it goes where it does not fall through: the register, the link and the
target. -/
def transfer (ar : Arch) (next : Word) : Instr → Option (BitVec 6 × Word × Option Word)
  | .nop => some (0, 0, none)
  | .j off hi => some (0, 0, some (targetB ar.pc off hi))
  | .jl d off hi => some (d, next, some (targetB ar.pc off hi))
  | .jr a => some (0, 0, some (ar.getX a))
  | .jlr d a => some (d, next, some (ar.getX a))
  | .beq d a off hi => some (0, 0, if ar.getX d = ar.getX a then some (targetB ar.pc off hi) else none)
  | .bne d a off hi => some (0, 0, if ar.getX d ≠ ar.getX a then some (targetB ar.pc off hi) else none)
  | .blt d a off hi => some (0, 0, if (ar.getX d).toInt < (ar.getX a).toInt then some (targetB ar.pc off hi) else none)
  | .bge d a off hi => some (0, 0, if (ar.getX a).toInt ≤ (ar.getX d).toInt then some (targetB ar.pc off hi) else none)
  | .bltu d a off hi => some (0, 0, if (ar.getX d).toNat < (ar.getX a).toNat then some (targetB ar.pc off hi) else none)
  | .bgeu d a off hi => some (0, 0, if (ar.getX a).toNat ≤ (ar.getX d).toNat then some (targetB ar.pc off hi) else none)
  | .bz d off hi => some (0, 0, if ar.getX d = 0 then some (targetB ar.pc off hi) else none)
  | .bnz d off hi => some (0, 0, if ar.getX d ≠ 0 then some (targetB ar.pc off hi) else none)
  | .bmany d a off hi => some (0, 0, if (List.range (testedNum ar a)).any (tested ar d) then some (targetB ar.pc off hi) else none)
  | .bmnone d a off hi =>
    some (0, 0, if (List.range (testedNum ar a)).all fun k => !tested ar d k then some (targetB ar.pc off hi) else none)
  | .bmall d a off hi => some (0, 0, if (List.range (testedNum ar a)).all (tested ar d) then some (targetB ar.pc off hi) else none)
  | _ => none

/-- A mask test that names a mask or a span is vector state to a gate's callee (R379). -/
def testsVector : Instr → Bool
  | .bmany d a _ _ => d ≠ 0 || a ≠ 0
  | .bmnone d a _ _ => d ≠ 0 || a ≠ 0
  | .bmall d a _ _ => d ≠ 0 || a ≠ 0
  | _ => false

end Sys2Proof.Claims

open Sys2Proof Sys2Proof.Machine Sys2Proof.Claims

/-- R75-R83, R89, R90: every integer instruction of opcodes 0x20-0x42, 0x4C and 0x4D writes its result to its destination,
from operands read before the write; nothing else of the machine changes but what retiring a head changes. A destination x0
discards the result (R51). -/
def Obligations.IntegerResults : Prop :=
  ∀ (s : State) (tid : Nat) (t : Thread) (i : Instr) (d : BitVec 6) (v : Word),
    Begins s tid t → intResult t.arch i = some (d, v) → Completes i s tid t (onAr fun a => a.setX d v)

/-- R84-R88: each bit of the result of the count, permutation and field instructions. -/
def Obligations.BitResults : Prop :=
  ∀ (s : State) (tid : Nat) (t : Thread) (i : Instr) (d : BitVec 6) (f : Nat → Bool),
    Begins s tid t → i.wf = true → bitResult t.arch i = some (d, f) →
      ∃ v : Word, (∀ k, k < 64 → v.getLsbD k = f k) ∧ Completes i s tid t (onAr fun a => a.setX d v)

/-- R91-R96: where NOP, the jumps, the branches and the mask tests go, and what a jump links; a thread that takes a transfer leaves a
buffered line that an IFLUSH has outdated (R41); nothing else changes. -/
def Obligations.TransferResults : Prop :=
  ∀ (s : State) (tid : Nat) (t : Thread) (i : Instr) (d : BitVec 6) (link : Word) (target : Option Word),
    Begins s tid t → transfer t.arch t.nextHead i = some (d, link, target) → (testsVector i = true → vecAllowed t.arch = true) →
      Completes i s tid t fun m => { onAr (fun a => a.setX d link) m with
        npc := target.getD t.nextHead, th := if target.isSome ∧ t.stale = true then { m.th with fetch := none, stale := false } else m.th }

namespace Sys2Proof.Claims

open Sys2Proof.Machine

/-- An operation answers x, and leaves the machine as m'. -/
def Gives {α : Type} (p : M α) (m : Mach) (x : α) (m' : Mach) : Prop := p.run m = .ok x m'

/-- The head completes, leaving m when it retires (R98). -/
def Retires (i : Instr) (s : State) (m : Mach) : Prop := exec i s = .next (m.retire s.cutNow)

/-- X[D] ← v. -/
def putX (d : BitVec 6) (v : Word) (m : Mach) : Mach := { m with ar := m.ar.setX d v }

/-- An effect carried with the chunk, at the instructions before it. -/
def carry (e : Effect) (m : Mach) : Mach :=
  { m with ch := { m.ch with effects := m.ch.effects ++ [e], epos := m.ch.epos ++ [m.ch.count] } }

/-- The head ends its chunk as the last instruction. -/
def endsAs (f : Finish) (m : Mach) : Mach := { m with fin := some f }

/-- The head may be executed at all outside an arming (R351). -/
def Free (t : Thread) : Prop := t.arch.arming = none

/-- The head is the first of its chunk, as one that stands alone must be (R99). -/
def First (s : State) (t : Thread) : Prop := (t.current (here s)).count = 0

/-- The fault of such a head, with no chunk in flight, is taken at once: the thread runs in dynamic mode, or has its turn (R119,
R366). -/
def TakesNow (t : Thread) : Prop := t.arch.det = false ∨ t.pending = some .turn

/-- X[A] plus the displacement of form M or RI. -/
def addrM (a : Arch) (ra : BitVec 6) (disp : BitVec 16) : Word := BitVec.ofInt 64 ((a.getX ra).toNat + disp.toInt)

/-! ### Scalar memory -/

/-- A load of n bytes at va answers v: it is aligned, translated and read, in that order (R150, R155). -/
def Loads (m : Mach) (va : Word) (n : Nat) (ctl : Bool) (v : Nat) (m' : Mach) : Prop :=
  va.toNat % n = 0 ∧ ∃ l m1 bs, Gives (locateLoad va ctl) m l m1 ∧ Gives (readAt l va n) m1 bs m' ∧ v = ofBytes bs

/-- A store of the n low bytes of v at va is taken: aligned, translated, buffered. -/
def Stores (m : Mach) (va : Word) (n v : Nat) (st : Bool) (m' : Mach) : Prop :=
  va.toNat % n = 0 ∧ ∃ l m1, Gives (locateStore va n st) m l m1 ∧ Gives (writeAt l va (bytesOf n v)) m1 () m'

/-- A loaded value of n bytes in a register: its sign or zeros above it. -/
def loaded (sg : BitVec 1) (n v : Nat) : Word :=
  if sg = 1 ∧ 2 ^ (8 * n - 1) ≤ v then BitVec.ofInt 64 ((v : Int) - (2 ^ (8 * n) : Nat)) else BitVec.ofNat 64 v

/-! ### Vector memory -/

/-- A vector load or store: its group, size code, predicate, further groups and the address of element k. -/
structure VecAccess where
  load : Bool
  d : BitVec 5
  z : BitVec 2
  p : BitVec 6
  more : Shape → Nat → List (BitVec 5 × Nat)
  addr : Nat → Nat → Word

/-- The index of element k of a gather or scatter (R154). -/
def indexOf (a : Arch) (ig : BitVec 1) (iw : BitVec 2) (c : BitVec 5) (k : Nat) : Int :=
  if ig = 1 then signedOf (8 * 2 ^ iw.toNat) (a.lane c.toNat (8 * 2 ^ iw.toNat) k) else a.lane c.toNat (8 * 2 ^ iw.toNat) k

/-- The vector loads and stores (R154). -/
def vecAccess (a : Arch) : Instr → Option VecAccess
  | .vld d z ra p disp => some ⟨true, d, z, p, fun _ _ => [], fun ew k => addrM a ra disp + BitVec.ofNat 64 (k * ew)⟩
  | .vst d z ra p disp => some ⟨false, d, z, p, fun _ _ => [], fun ew k => addrM a ra disp + BitVec.ofNat 64 (k * ew)⟩
  | .vlds d z rb ra p disp => some ⟨true, d, z, p, fun _ _ => [], fun _ k => addrM a ra disp + a.getX rb * BitVec.ofNat 64 k⟩
  | .vsts d z rb ra p disp => some ⟨false, d, z, p, fun _ _ => [], fun _ k => addrM a ra disp + a.getX rb * BitVec.ofNat 64 k⟩
  | .vgath d z ra ig iw p c disp =>
    some ⟨true, d, z, p, indexGroup iw c, fun ew k => addrM a ra disp + BitVec.ofInt 64 (indexOf a ig iw c k * ew)⟩
  | .vscat d z ra ig iw p c disp =>
    some ⟨false, d, z, p, indexGroup iw c, fun ew k => addrM a ra disp + BitVec.ofInt 64 (indexOf a ig iw c k * ew)⟩
  | _ => none

/-- The groups lie within the thread's allotment (R52). -/
def Fit (s : State) (t : Thread) (groups : List (BitVec 5 × Nat)) : Prop :=
  ∀ g ∈ groups, g.1.toNat + g.2 ≤ ((s.crew t.crew).map Crew.vregs).getD 32

/-- A group of count registers from d on, its active elements of w bits given by f; every other element keeps its content, or is
zero where the predicate says so (R212). -/
def groupWith (a : Arch) (g : Shape) (d : BitVec 5) (w count : Nat) (f : Nat → Nat) : Arch :=
  a.putElems d.toNat w
    ((List.range (count * 512 / w)).map fun k => if g.active k then f k else if g.zero then 0 else a.lane d.toNat w k) count

/-- The active elements of a vector access with their addresses, k increasing (R211). -/
def actives (g : Shape) (addr : Nat → Word) : List (Nat × Word) :=
  ((List.range g.n).filter fun k => g.mask.getLsbD (k % 64)).map fun k => (k, addr k)

end Sys2Proof.Claims

/-- R123, R124, R127, R160, R386: CUT, YIELD, HSYNC and HALT end their chunk as the last instruction and change nothing else;
so does EXIT outside a gate. -/
def Obligations.ChunkEndResults : Prop :=
  ∀ (s : State) (tid : Nat) (t : Thread), Begins s tid t → Free t →
    Completes .cut s tid t (endsAs .cut) ∧ Completes .yield s tid t (endsAs .yield) ∧
    Completes .hsync s tid t (endsAs .hsync) ∧ Completes .halt s tid t (endsAs .halt) ∧
    (t.arch.depth = 0 → Completes .exit s tid t (endsAs .exit))

/-- R125, R179: WAITA, SWAIT.ge and SWAIT.take, each the first instruction of its chunk, whose condition holds on the word as the
chunk reads it: WAITA and SWAIT.ge put the word into xd and end the chunk; SWAIT.take leaves the word to be decremented at the
grant. -/
def Sys2Proof.Claims.WaitSatisfied : Prop :=
  ∀ (s : State) (tid : Nat) (t : Thread) (d rb ra : BitVec 6) (z : BitVec 1) (k : BitVec 2) (disp : BitVec 16),
    Begins s tid t → Free t → First s t →
    let n := if z = 0 then 8 else 4
    let n2 := if z = 0 then 4 else 8
    let va := addrM t.arch ra disp
    let m := endsAs .alone (found s tid t)
    (∀ l m1 bs m2, va.toNat % n = 0 → Gives (locate .load va) m l m1 → Gives (readAt l va n) m1 bs m2 →
      waitHolds k.toNat n (ofBytes bs) ((t.arch.getX rb).toNat % 2 ^ (8 * n)) = true →
        Retires (.waita d z k rb ra disp) s (endsAs .waita (putX d (BitVec.ofNat 64 (ofBytes bs)) m2))) ∧
    (∀ l m1 bs m2, va.toNat % n2 = 0 → Gives (locate .load va) m l m1 → Gives (readAt l va n2) m1 bs m2 →
      (t.arch.getX rb).toNat % 2 ^ (8 * n2) ≤ ofBytes bs →
        Retires (.swait d z rb ra disp) s (endsAs .waita (putX d (BitVec.ofNat 64 (ofBytes bs)) m2))) ∧
    (∀ l m1 bs m2 m3, va.toNat % n2 = 0 → t.arch.det = false → Gives (locateAtom .update va false) m l m1 →
      Gives (readAt l va n2) m1 bs m2 → (t.arch.getX rb).toNat % 2 ^ (8 * n2) ≤ ofBytes bs → Gives (noteWrite l) m2 () m3 →
        Retires (.swaitTake d z rb ra disp) s (endsAs .waita { m3 with ch := { m3.ch with
          atom := some { pa := l.pa, va, n := n2, op := .take (BitVec.ofNat 64 ((t.arch.getX rb).toNat % 2 ^ (8 * n2))), d },
          stores := m3.ch.stores ++ [(m3.ch.count, l.pa, va)] } }))

/-- The head leaves its thread asleep at a word of n bytes, decremented on waking where take says so; its chunk is dropped, no
earlier chunk changes, and every register stays as the head found it (R125, R126). -/
def SleepsAt (i : Instr) (s : State) (tid : Nat) (t : Thread) (va : Word) (pa n : Nat) (take : Bool) : Prop :=
  ∃ s' t' w, exec i s = .next s' ∧ s'.thread tid = some t' ∧ t'.run = .watch w false ∧
    w.va = va ∧ w.pa = pa ∧ w.n = n ∧ w.take = take ∧ t'.chunks = t.older ∧ t'.arch = t.arch

/-- R125, R126, R179: where the condition of WAITA, SWAIT.ge or SWAIT.take does not hold on the word as the chunk reads it, the
thread sleeps at the word and its chunk is abandoned. -/
def Sys2Proof.Claims.WaitSleeps : Prop :=
  ∀ (s : State) (tid : Nat) (t : Thread) (d rb ra : BitVec 6) (z : BitVec 1) (k : BitVec 2) (disp : BitVec 16),
    Begins s tid t → Free t → First s t →
    let n := if z = 0 then 8 else 4
    let n2 := if z = 0 then 4 else 8
    let va := addrM t.arch ra disp
    let m := endsAs .alone (found s tid t)
    (∀ l m1 bs m2, va.toNat % n = 0 → Gives (locate .load va) m l m1 → Gives (readAt l va n) m1 bs m2 →
      waitHolds k.toNat n (ofBytes bs) ((t.arch.getX rb).toNat % 2 ^ (8 * n)) = false →
        SleepsAt (.waita d z k rb ra disp) s tid t va l.pa n false) ∧
    (∀ l m1 bs m2, va.toNat % n2 = 0 → Gives (locate .load va) m l m1 → Gives (readAt l va n2) m1 bs m2 →
      ofBytes bs < (t.arch.getX rb).toNat % 2 ^ (8 * n2) → SleepsAt (.swait d z rb ra disp) s tid t va l.pa n2 false) ∧
    (∀ l m1 bs m2, va.toNat % n2 = 0 → t.arch.det = false → Gives (locateAtom .update va false) m l m1 →
      Gives (readAt l va n2) m1 bs m2 → ofBytes bs < (t.arch.getX rb).toNat % 2 ^ (8 * n2) →
        SleepsAt (.swaitTake d z rb ra disp) s tid t va l.pa n2 true)

/-- R150-R152: the scalar loads write the bytes read, extended to 64 bits; LDP writes the lower half to xd and the upper half to
the register after it. -/
def Sys2Proof.Claims.ScalarLoads : Prop :=
  ∀ (s : State) (tid : Nat) (t : Thread) (d rb ra : BitVec 6) (sg : BitVec 1) (z : BitVec 2) (disp : BitVec 16) (v : Nat) (m : Mach),
    Begins s tid t → Free t →
    let n := 2 ^ z.toNat
    (Loads (found s tid t) (addrM t.arch ra disp) n (z == 3) v m → Retires (.ld d sg z ra disp) s (putX d (loaded sg n v) m)) ∧
    (Loads (found s tid t) (t.arch.getX ra + t.arch.getX rb * BitVec.ofNat 64 n) n false v m →
      Retires (.ldx d sg z rb ra) s (putX d (loaded sg n v) m)) ∧
    (Loads (found s tid t) (addrM t.arch ra disp) (2 * n) false v m →
      Retires (.ldp d sg z ra disp) s
        (putX (d + 1) (loaded sg n (v / 2 ^ (8 * n))) (putX d (loaded sg n (v % 2 ^ (8 * n))) m)))

/-- R144, R150-R152: the scalar stores buffer the low bytes of their registers; outside the control blocks for ST.d. -/
def Sys2Proof.Claims.ScalarStores : Prop :=
  ∀ (s : State) (tid : Nat) (t : Thread) (rb ra rc : BitVec 6) (z : BitVec 2) (disp : BitVec 16) (m : Mach),
    Begins s tid t → Free t →
    let n := 2 ^ z.toNat
    (z ≠ 3 ∨ inControl (addrM t.arch ra disp) = false →
      Stores (found s tid t) (addrM t.arch ra disp) n (t.arch.getX rb).toNat true m → Retires (.st z rb ra disp) s m) ∧
    (Stores (found s tid t) (t.arch.getX ra + t.arch.getX rb * BitVec.ofNat 64 n) n (t.arch.getX rc).toNat false m →
      Retires (.stx z rb ra rc) s m) ∧
    (Stores (found s tid t) (addrM t.arch ra disp) (2 * n)
        ((t.arch.getX rb).toNat % 2 ^ (8 * n) + 2 ^ (8 * n) * ((t.arch.getX (rb + 1)).toNat % 2 ^ (8 * n))) false m →
      Retires (.stp z rb ra disp) s m)

/-- R5, R102, R109, R173: what a read of a chunk answers and changes, where no far atomic of its own or a released one meets the
bytes: the chunk's own bytes and its predecessor's over the committed ones; the line enters the read signature; no register, no
committed byte and no byte of the chunk changes. -/
def Sys2Proof.Claims.ReadBytes : Prop :=
  ∀ (m m' : Mach) (l : Loc) (va : Word) (n : Nat) (bs : List Byte),
    Gives (readAt l va n) m bs m' → l.place.beyond = false → (m.ch.fars.all fun f => !runsMeet f.pa f.n l.pa n) = true →
      bs = seenRun m l.pa (m.st.readRun l.pa n) ∧ m'.ar = m.ar ∧ m'.th = m.th ∧ m'.st.mem = m.st.mem ∧
        (∀ a, m'.st.readByte a = m.st.readByte a) ∧ m'.ch.buf = m.ch.buf ∧ m'.ch.effects = m.ch.effects ∧
        m'.ch.rsig = m.ch.rsig ||| sigOf (sigLine m.part l.pa) ∧ m'.ch.wsig = m.ch.wsig

/-- R5, R102, R109: what a write of a chunk changes, where no far atomic of its own meets the bytes: afterwards the chunk sees the
bytes written where they were written and at every other address what it saw before; the line enters the write signature; no
register and no committed byte changes. -/
def Sys2Proof.Claims.WrittenBytes : Prop :=
  ∀ (m m' : Mach) (l : Loc) (va : Word) (bs : List Byte),
    Gives (writeAt l va bs) m () m' → (m.ch.fars.all fun f => !runsMeet f.pa f.n l.pa bs.length) = true →
      (∀ b a, (a < l.pa ∨ l.pa + bs.length ≤ a) → seenByte m' b a = seenByte m b a) ∧
        (∀ b k, k < bs.length → bs[k]? = some (seenByte m' b (l.pa + k))) ∧
        m'.ar = m.ar ∧ m'.th = m.th ∧ (∀ a, m'.st.readByte a = m.st.readByte a) ∧ m'.ch.effects = m.ch.effects ∧
        m'.ch.wsig = m.ch.wsig ||| sigOf (sigLine m.part l.pa) ∧ m'.ch.rsig = m.ch.rsig

/-- R153-R155, R211, R212: a vector load writes its active elements from their addresses, in increasing k, and a vector store that
needs no unbuffered commit (R442) writes its active elements to theirs, in increasing k. -/
def Obligations.VectorMemoryResults : Prop :=
  ∀ (s : State) (tid : Nat) (t : Thread) (i : Instr) (x : VecAccess),
    Begins s tid t → Free t → vecAllowed t.arch = true → vecAccess t.arch i = some x →
    let ew := memElem t.arch x.p x.z
    let g := shapeOf t.arch x.p (8 * ew)
    let es := actives g (x.addr ew)
    Fit s t ((x.d, g.nreg) :: x.more g ew) → (∀ e ∈ es, e.2.toNat % ew = 0) →
    (x.load = true → ∀ ls m1 vs m2, Gives (locateElems (locate .load) es) (found s tid t) ls m1 → Gives (readElems ew ls) m1 vs m2 →
      Retires i s (onAr (fun a => groupWith a g x.d (8 * ew) g.nreg fun k => assocGetD k 0 vs) m2)) ∧
    (x.load = false → ∀ ls m1 m2, Gives (locateElems (fun va => locateStore va ew false) es) (found s tid t) ls m1 →
      (∀ e ∈ ls, linesInSet ls (setOf e.2.1) ≤ setLimit (found s tid t)) →
      Gives (writeElems ew (fun k => t.arch.lane x.d.toNat (8 * ew) k) ls) m1 () m2 → Retires i s m2)

/-- R5, R102, R109, R150-R152, R173: the scalar loads, and what a read of a chunk answers and changes. -/
def Obligations.LoadResults : Prop := Claims.ScalarLoads ∧ Claims.ReadBytes

/-- R5, R102, R109, R144, R150-R152: the scalar stores, and what a write of a chunk changes. -/
def Obligations.StoreResults : Prop := Claims.ScalarStores ∧ Claims.WrittenBytes

/-- R125, R126, R179: WAITA, SWAIT.ge and SWAIT.take, where the condition holds and where the thread sleeps. -/
def Obligations.WaitResults : Prop := Claims.WaitSatisfied ∧ Claims.WaitSleeps

namespace Sys2Proof.Claims

open Sys2Proof.Machine

/-- The far atomics: operation, bytes of the word, operand register, base register and displacement (R168, R169, R178). -/
def farForm : Instr → Option (FarOp × Nat × BitVec 6 × BitVec 6 × BitVec 16)
  | .aadd z b a disp => some (.add, if z = 0 then 4 else 8, b, a, disp)
  | .aand z b a disp => some (.and, if z = 0 then 4 else 8, b, a, disp)
  | .aor z b a disp => some (.or, if z = 0 then 4 else 8, b, a, disp)
  | .axor z b a disp => some (.xor, if z = 0 then 4 else 8, b, a, disp)
  | .amin g z b a disp => some (if g = 1 then .minS else .minU, if z = 0 then 4 else 8, b, a, disp)
  | .amax g z b a disp => some (if g = 1 then .maxS else .maxU, if z = 0 then 4 else 8, b, a, disp)
  | .afadd z b a disp => some (.fadd, if z = 0 then 4 else 8, b, a, disp)
  | .spost z b a disp => some (.post, if z = 0 then 4 else 8, b, a, disp)
  | _ => none

/-- The low n bytes of a register as a word. -/
def lowOf (a : Arch) (r : BitVec 6) (n : Nat) : Word := BitVec.ofNat 64 ((a.getX r).toNat % 2 ^ (8 * n))

/-- The value-returning atomics: destination, bytes, base, displacement and what the home performs (R175, R176). -/
def atomForm (ar : Arch) : Instr → Option (BitVec 6 × Nat × BitVec 6 × BitVec 16 × AtomOp)
  | .xadd d z b a disp => let n := if z = 0 then 4 else 8; some (d, n, a, disp, .add (lowOf ar b n))
  | .xchg d z b a disp => let n := if z = 0 then 4 else 8; some (d, n, a, disp, .swap (lowOf ar b n))
  | .cas d z b a c disp => let n := if z = 0 then 4 else 8; some (d, n, a, disp, .cas (lowOf ar b n) (lowOf ar c n))
  | _ => none

/-- The word at an address after some far atomics of a chunk, in order (R169). -/
def wordAfter (pa n : Nat) (fs : List Far) (w : Nat) : Nat :=
  fs.foldl (fun w f => if f.pa = pa ∧ f.n = n then farInt f.op n w f.v.toNat else w) w

/-- The operand fits the word, and the operation is not AFADD. -/
def FarFits (f : Far) : Prop := f.v.toNat < 2 ^ (8 * f.n) ∧ f.op ≠ .fadd ∧ (f.n = 4 ∨ f.n = 8)

end Sys2Proof.Claims

/-- R157-R159: PREF changes nothing; DISCARD and CLEAN, alone in their chunk, carry the lines of their range. -/
def Sys2Proof.Claims.CacheControlResults : Prop :=
  ∀ (s : State) (tid : Nat) (t : Thread) (z : BitVec 2) (ra rb : BitVec 6) (disp : BitVec 16),
    Begins s tid t → Free t →
    let a := t.arch.getX ra
    let n := t.arch.getX rb
    let m := endsAs .alone (found s tid t)
    Completes (.pref z ra disp) s tid t id ∧
    (First s t → a.toNat % 64 = 0 → n.toNat % 64 = 0 → rangeBreak a.toNat n.toNat = none → rangeInWindow a.toNat n.toNat = false →
      (∀ ls m1, Gives (rangeLines .store 0x06 a n) m ls m1 →
        Retires (.discard rb ra) s (if ls = [] then m1 else
          carry (.discard ls) { m1 with ch := { m1.ch with stores := m1.ch.stores ++ ls.map fun l => (0, l * 64, a) } })) ∧
      (∀ ls m1, Gives (rangeLines .load 0x05 a n) m ls m1 →
        Retires (.clean rb ra) s (if ls = [] then m1 else carry (.clean ls) m1)))

/-- R146-R149, R432: while the cluster's banks are not held, BANKCFG returns a bank's status and carries its change; BANKQ reads the status; FPUSH, FPOP and FPEEK work on the
FIFO as the chunk sees it and answer 1 or 0, the oldest entry and 1 or zeros, the oldest entry and the length. -/
def Sys2Proof.Claims.BankResults : Prop :=
  ∀ (s : State) (tid : Nat) (t : Thread) (d rb ra : BitVec 6) (z : BitVec 2) (k : BitVec 4) (disp : BitVec 16),
    Begins s tid t → Free t →
    let m := found s tid t
    let b := s.bank (clusterOf (coreOf tid)) k.toNat
    let q := (t.arch.getX ra).toNat % 16
    (First s t → (m.sys = true ∨ b.mode ≠ 0 ∧ b.owner = t.arch.guild) → s.held 3 m.cluster = false →
      ∀ m1 m2, Gives (noteRead (bankLine m.cluster k.toNat)) (endsAs .alone m) () m1 →
        Gives (noteWrite (bankLine m.cluster k.toNat)) m1 () m2 →
          Retires (.bankcfg d z ra k) s (carry (.bank k.toNat z.toNat ((t.arch.getX ra).setWidth 16)) (putX d b.status m2))) ∧
    (s.held 3 m.cluster = false → ∀ m1, Gives (noteRead (bankLine m.cluster q)) m () m1 →
      Retires (.bankq d ra) s (putX d (s.bank (clusterOf (coreOf tid)) q).status m1)) ∧
    (∀ j m1, Gives (fifoBank ra disp) m j m1 →
      (∀ m2, Gives (noteWrite (fifoTail m1.cluster j)) m1 () m2 →
        Retires (.fpush d rb ra disp) s
          (if 8192 ≤ (fifoView m1 j).length then putX d 0 (carry (.fifo j .peek) m2)
           else putX d 1 (carry (.fifo j (.push (t.arch.getX rb))) m2))) ∧
      (∀ m2, Gives (noteWrite (fifoHead m1.cluster j)) m1 () m2 →
        Retires (.fpop d rb ra disp) s
          (match fifoView m1 j with
           | [] => putX rb 0 (putX d 0 (carry (.fifo j .peek) m2))
           | w :: _ => putX rb 1 (putX d w (carry (.fifo j .pop) m2)))) ∧
      Retires (.fpeek d rb ra disp) s
        (putX rb (BitVec.ofNat 64 (fifoView m1 j).length) (putX d ((fifoView m1 j).headD 0) (carry (.fifo j .peek) m1))))

/-- R168-R173, R178: a far atomic joins those its chunk holds, combined with one on its word or behind them, once pending ones of
another kind on that word are folded, and earlier ones on it applied (R173); its line enters the atomic part of the write signature. -/
def Sys2Proof.Claims.FarAtomicResults : Prop :=
  ∀ (s : State) (tid : Nat) (t : Thread) (i : Instr) (op : FarOp) (n : Nat) (rb ra : BitVec 6) (disp : BitVec 16),
    Begins s tid t → Free t → farForm i = some (op, n, rb, ra, disp) → (op = .fadd → t.arch.det = false) →
    let va := addrM t.arch ra disp
    va.toNat % n = 0 →
      ∀ l m1 m2 m3 m4, Gives (locateAtom .store va (decide (op = .add) || decide (op = .post))) (found s tid t) l m1 →
        let g : Far := { pa := l.pa, n, op, v := lowOf t.arch rb n, va }
        (if ((found s tid t).ch.fars.filter fun f => f.meets l.pa n).all fun f => f.combines g then m2 = m1
         else Gives (do waitFars l.pa n; foldFars l n) m1 () m2) →
        Gives (holdLine va (lineOf l.pa)) m2 () m3 → Gives (noteAtomic l) m3 () m4 →
          Retires i s { m4 with ch := { m4.ch with fars := farPut g m4.ch.fars, stores := m4.ch.stores ++ [(m4.ch.count, l.pa, va)] } }

/-- R169, R173: combining loses nothing: where every held operation that meets the word combines with the new one, the word after
the combined list is the word after the old list and then the new operation. -/
def Sys2Proof.Claims.FarCombining : Prop :=
  ∀ (fs : List Far) (g : Far) (w : Nat), (∀ f ∈ fs, FarFits f ∧ (f.meets g.pa g.n = true → f.combines g = true)) → FarFits g →
    w < 2 ^ (8 * g.n) → wordAfter g.pa g.n (farPut g fs) w = farInt g.op g.n (wordAfter g.pa g.n fs w) g.v.toNat

/-- R175-R177: XADD, XCHG and CAS of a dynamic thread, alone in their chunk, leave their word to the home. -/
def Sys2Proof.Claims.ValueAtomicResults : Prop :=
  ∀ (s : State) (tid : Nat) (t : Thread) (i : Instr) (d : BitVec 6) (n : Nat) (ra : BitVec 6) (disp : BitVec 16) (op : AtomOp),
    Begins s tid t → Free t → First s t → t.arch.det = false → atomForm t.arch i = some (d, n, ra, disp, op) →
    let va := addrM t.arch ra disp
    va.toNat % n = 0 →
      ∀ l m1 m2 m3, Gives (locateAtom .store va true) (endsAs .alone (found s tid t)) l m1 → Gives (noteRead l) m1 () m2 →
        Gives (noteWrite l) m2 () m3 →
          Retires i s { m3 with ch := { m3.ch with atom := some { pa := l.pa, va, n, op, d },
                                                   stores := m3.ch.stores ++ [(m3.ch.count, l.pa, va)] } }

/-- R119, R168, R175, R366: AFADD and the value-returning atomics of a deterministic thread fault with cause 0x08: the first head of a
chunk with no older chunk in flight takes that trap at the thread's turn, and waits for it before. -/
def Sys2Proof.Claims.DeterministicRefusals : Prop :=
  ∀ (s : State) (tid : Nat) (t : Thread) (i : Instr), Begins s tid t → Free t → First s t → t.older = [] → t.arch.det = true →
    ((∃ n rb ra disp, farForm i = some (.fadd, n, rb, ra, disp)) ∨ (atomForm t.arch i).isSome = true) →
      exec i s = .next (if t.pending = some .turn then takeTrap (here s) tid { t with chunks := [] } 0x08 0
        else (here s).setThread tid { t with chunks := [], pending := some (.trap 0x08 0) })

/-- R180, R181: DGUARD answers whether its guard is recorded, refused for room, or refused for another crew's, and carries it where
it is recorded; DGEND carries the release. -/
def Sys2Proof.Claims.GuardCommands : Prop :=
  ∀ (s : State) (tid : Nat) (t : Thread) (d rb ra : BitVec 6) (g : Guard) (m : Mach),
    Begins s tid t → Gives (guardRange rb ra) (found s tid t) g m →
    let l := guardView m
    let full := 256 ≤ l.length ∨ 16 ≤ (l.filter fun h => h.crew = g.crew).length
    let other := ∃ h ∈ l, h.crew ≠ g.crew ∧ g.meets h = true
    (∀ m1, ¬ full → ¬ other → Gives (noteGuardTable true) m () m1 →
      Retires (.dguard d rb ra) s (putX d 1 (carry (.guardAdd g) m1))) ∧
    (∀ m1, full → Gives (noteGuardTable false) m () m1 → Retires (.dguard d rb ra) s (putX d 0 m1)) ∧
    (∀ m1, ¬ full → other → Gives (noteGuardTable false) m () m1 → Retires (.dguard d rb ra) s (putX d 2 m1)) ∧
    (∀ m1, Gives (noteGuardTable true) m () m1 → Retires (.dgend rb ra) s (carry (.guardDel g) m1))

/-- R146-R149, R157-R159: the cache-control, bank and FIFO instructions.
Model choices it rests on: entries 28 (pseudo-lines), 74 (the page of an absent leaf) and 57 (the FIFO count that BANKQ shows). (notes/assumptions.) -/
def Obligations.CacheAndBankResults : Prop := Claims.CacheControlResults ∧ Claims.BankResults

/-- R168-R178: the far atomics, what combining them keeps, and the value-returning atomics. -/
def Obligations.AtomicResults : Prop := Claims.FarAtomicResults ∧ Claims.FarCombining ∧ Claims.ValueAtomicResults

/-- R168, R175, R180, R181: what a deterministic thread may not execute, and DGUARD and DGEND.
Model choices it rests on: entries 15 (turns), 28 (pseudo-lines) and 58 (DGUARD on a full table). (notes/assumptions.) -/
def Obligations.GuardResults : Prop := Claims.DeterministicRefusals ∧ Claims.GuardCommands

namespace Sys2Proof.Claims

open Sys2Proof.Machine

/-! ### Spans and masks (R225, R226) -/

/-- What a mask instruction writes into a mask register. -/
def maskResult (a : Arch) : Instr → Option (BitVec 3 × Word)
  | .mmov d m => some (d, a.getM m)
  | .mmovFx d x => some (d, a.getX x)
  | .mmovSp d j => some (d, BitVec.ofNat 64 (2 ^ testedNum a j - 1))
  | .mand d n b m => some (d, a.getM m &&& if n = 1 then ~~~a.getM b else a.getM b)
  | .mor d n b m => some (d, a.getM m ||| if n = 1 then ~~~a.getM b else a.getM b)
  | .mxor d b m => some (d, a.getM m ^^^ a.getM b)
  | .mnot d m => some (d, ~~~a.getM m)
  | _ => none

/-- What a mask instruction writes into a scalar register. -/
def maskScalar (a : Arch) : Instr → Option (BitVec 6 × Word)
  | .mmovTx d m => some (d, a.getM m)
  | .mpop d j m => some (d, BitVec.ofNat 64 ((List.range (testedNum a j)).countP (tested a m)))
  | .mfirst d j m => some (d, BitVec.ofNat 64 (stepsUntil (testedNum a j) (tested a m)))
  | _ => none

/-! ### Elements -/

/-- An element instruction: the width of its elements, its predicate, its destination and sources, the result of each active
element with the flags it raises, and its rounding field. -/
structure LaneOp where
  w : Nat
  p : BitVec 6
  d : BitVec 5
  srcs : List (BitVec 5)
  val : Shape → Nat → Nat × BitVec 5
  rm : Option (BitVec 3)

/-- The second element of the integer mould: a lane, or the scalar under .vx (R227). -/
def second (a : Arch) (vx : BitVec 1) (b : BitVec 6) (w k : Nat) : Nat :=
  if vx = 1 then (a.getX b).toNat % 2 ^ w else a.lane b.toNat w k

/-- An instruction of the integer mould (R227, R228). -/
def intLane (a : Arch) (d : BitVec 5) (t : BitVec 3) (b : BitVec 6) (ra : BitVec 5) (vx : BitVec 1) (p : BitVec 6)
    (f : Nat → Nat → Nat) : Option LaneOp :=
  let w := 8 * 2 ^ (t.toNat % 4)
  some ⟨w, p, d, if vx = 1 then [ra] else [ra, b.setWidth 5], fun _ k => (f (a.lane ra.toNat w k) (second a vx b w k), 0), none⟩

/-- A result modulo 2^w, or clamped to the type's range (R228). -/
def clampTo (sat : BitVec 1) (t : Nat) (x : Int) : Nat :=
  let w := 8 * 2 ^ (t % 4)
  let lo : Int := if t < 4 then -(2 ^ (w - 1) : Nat) else 0
  let hi : Int := if t < 4 then (2 ^ (w - 1) : Nat) - 1 else (2 ^ w : Nat) - 1
  ((if sat = 1 then max lo (min hi x) else x) % (2 ^ w : Nat)).toNat

/-- A float instruction whose result is rounded (R231, R232). -/
def fltLane (a : Arch) (d : BitVec 5) (t : BitVec 2) (srcs : List (BitVec 5)) (rm : BitVec 3) (p : BitVec 6)
    (f : Fmt → Rnd → Nat → Nat × BitVec 5) : Option LaneOp :=
  some ⟨(fltOf t).bits, p, d, srcs, fun _ k => f (fltOf t) (a.rnd rm.toNat false k) k, some rm⟩

/-- The element instructions with a vector destination (R228, R230-R234, R198-R204). -/
def laneOp (a : Arch) : Instr → Option LaneOp
  | .vadd d t b ra sat vx p => intLane a d t b ra vx p fun x y => clampTo sat t.toNat (intOf t.toNat x + intOf t.toNat y)
  | .vsub d t b ra sat vx p => intLane a d t b ra vx p fun x y => clampTo sat t.toNat (intOf t.toNat x - intOf t.toNat y)
  | .vmul d t b ra vx p => intLane a d t b ra vx p fun x y => x * y % 2 ^ (8 * 2 ^ (t.toNat % 4))
  | .vmulh d t b ra vx p => intLane a d t b ra vx p fun x y =>
      (intOf t.toNat x * intOf t.toNat y / (2 ^ (8 * 2 ^ (t.toNat % 4)) : Nat) % (2 ^ (8 * 2 ^ (t.toNat % 4)) : Nat)).toNat
  | .vand d t b ra vx p => intLane a d t b ra vx p (· &&& ·)
  | .vor d t b ra vx p => intLane a d t b ra vx p (· ||| ·)
  | .vxor d t b ra vx p => intLane a d t b ra vx p (· ^^^ ·)
  | .vshl d t b ra vx p => intLane a d t b ra vx p fun x y =>
      x * 2 ^ (y % (8 * 2 ^ (t.toNat % 4))) % 2 ^ (8 * 2 ^ (t.toNat % 4))
  | .vshr d t b ra vx p => intLane a d t b ra vx p fun x y =>
      clampTo 0 t.toNat (intOf t.toNat x / (2 ^ (y % (8 * 2 ^ (t.toNat % 4))) : Nat))
  | .vmin d t b ra vx p => intLane a d t b ra vx p fun x y => if intOf t.toNat x ≤ intOf t.toNat y then x else y
  | .vmax d t b ra vx p => intLane a d t b ra vx p fun x y => if intOf t.toNat x ≤ intOf t.toNat y then y else x
  | .vsel d t b ra p c => some ⟨typeBits t.toNat, p, d, [ra, b], fun _ k =>
      (a.lane (if (a.getM c).getLsbD (k % 64) then ra else b).toNat (typeBits t.toNat) k, 0), none⟩
  | .vmov d t b ra vx p => some ⟨typeBits t.toNat, p, d, if vx = 1 then [] else [ra], fun _ k =>
      (if vx = 1 then (a.getX b).toNat % 2 ^ typeBits t.toNat else a.lane ra.toNat (typeBits t.toNat) k, 0), none⟩
  | .vperm d t b ra p => some ⟨typeBits t.toNat, p, d, [ra, b], fun g k =>
      (let j := a.lane b.toNat (typeBits t.toNat) k; if j < g.n then a.lane ra.toNat (typeBits t.toNat) j else 0, 0), none⟩
  | .vslide d t b ra up p => some ⟨typeBits t.toNat, p, d, [ra], fun g k =>
      (let j : Int := if up = 1 then (k : Int) - (a.getX b).toNat else k + (a.getX b).toNat
       if 0 ≤ j ∧ j < g.n then a.lane ra.toNat (typeBits t.toNat) j.toNat else 0, 0), none⟩
  | .fadd d t b ra rm p => fltLane a d t [ra, b] rm p fun f r k => addVal f r (a.fval f ra k) (a.fval f b k)
  | .fsub d t b ra rm p => fltLane a d t [ra, b] rm p fun f r k => addVal f r (a.fval f ra k) (a.fval f b k).neg
  | .fmul d t b ra rm p => fltLane a d t [ra, b] rm p fun f r k => mulVal f r (a.fval f ra k) (a.fval f b k)
  | .fma d t b ra ng rm p c => fltLane a d t [ra, b, c] rm p fun f r k =>
      fmaVal f r (ng == 1) (a.fval f ra k) (a.fval f b k) (a.fval f c k)
  | .fmin d t b ra p => some ⟨(fltOf t).bits, p, d, [ra, b], fun _ k =>
      minMax (fltOf t) a.ftz false (a.lane ra.toNat (fltOf t).bits k) (a.lane b.toNat (fltOf t).bits k), none⟩
  | .fmax d t b ra p => some ⟨(fltOf t).bits, p, d, [ra, b], fun _ k =>
      minMax (fltOf t) a.ftz true (a.lane ra.toNat (fltOf t).bits k) (a.lane b.toNat (fltOf t).bits k), none⟩
  | .fsgn d t b ra k p => some ⟨(fltOf t).bits, p, d, if k = 3 then [ra] else [ra, b], fun _ i =>
      signOp (fltOf t) k.toNat (a.lane ra.toNat (fltOf t).bits i) (a.lane b.toNat (fltOf t).bits i), none⟩
  | _ => none

/-- The flags that the active elements of a group raise (R190). -/
def flagsRaised (g : Shape) (n : Nat) (val : Nat → Nat × BitVec 5) : BitVec 5 :=
  ((List.range n).filter g.active).foldl (fun acc k => acc ||| (val k).2) 0

/-- Sticky flags raised in the chunk. -/
def raising (f : BitVec 5) (m : Mach) : Mach := { m with ch := { m.ch with flags := m.ch.flags ||| f } }

/-- srctr stepped by an instruction whose rounding mode is sr (R188, R189). -/
def steppedSr (rm : BitVec 3) (a : Arch) : Arch :=
  if (if rm = 6 then field a.fps 5 3 else rm.toNat) = 5 then { a with srctr := a.srctr + 1 } else a

/-- The conversions (R196-R204): source type, destination type, predicate, registers, the scale group of FSCL, the result of
element k with the flags it raises, and the rounding field. -/
structure ConvOp where
  t : Nat
  u : Nat
  p : BitVec 6
  d : BitVec 5
  a : BitVec 5
  more : Shape → List (BitVec 5 × Nat)
  val : Nat → Nat × BitVec 5
  rm : Option (BitVec 3)

def convOp (a : Arch) : Instr → Option ConvOp
  | .fcvt d t u ra sat rm p => some ⟨t.toNat, u.toNat, p, d, ra, fun _ => [], fun k =>
      convert (fmtOf u.toNat) (a.rnd rm.toNat (sat == 1) k) (unpack (fmtOf t.toNat) a.ftz (a.lane ra.toNat (typeBits t.toNat) k)), some rm⟩
  | .fcvti d t u ra sat rm p => some ⟨t.toNat, u.toNat, p, d, ra, fun _ => [], fun k =>
      toInteger u.toNat (a.rnd rm.toNat (sat == 1) k) (unpack (fmtOf t.toNat) a.ftz (a.lane ra.toNat (typeBits t.toNat) k)), some rm⟩
  | .icvtf d t u ra sat rm p => some ⟨t.toNat, u.toNat, p, d, ra, fun _ => [], fun k =>
      let x := intOf t.toNat (a.lane ra.toNat (typeBits t.toNat) k)
      roundNum (fmtOf u.toNat) (a.rnd rm.toNat (sat == 1) k) (decide (x < 0)) x.natAbs 1, some rm⟩
  | .frint d t x ra rm p => some ⟨t.toNat, t.toNat, p, d, ra, fun _ => [], fun k =>
      rintVal (fmtOf t.toNat) (a.rnd rm.toNat false k) (x == 1) (unpack (fmtOf t.toNat) a.ftz (a.lane ra.toNat (typeBits t.toNat) k)), some rm⟩
  | .fclass d t ra p => some ⟨t.toNat, t.toNat, p, d, ra, fun _ => [], fun k =>
      (classOf t.toNat (a.lane ra.toNat (typeBits t.toNat) k), 0), none⟩
  | .fscl d t x ra sat rm p c => some ⟨t.toNat, t.toNat, p, d, ra, fun g => [(c, if x = 1 then 1 else g.nreg)], fun k =>
      let v := unpack (fmtOf t.toNat) a.ftz (a.lane ra.toNat (typeBits t.toNat) k)
      let r := a.rnd rm.toNat (sat == 1) k
      if x = 1 then blockScaled (fmtOf t.toNat) r (a.lane c.toNat 8 (k / 32)) v
      else convert (fmtOf t.toNat) r (scaleVal v (signedOf (fmtOf t.toNat).bits (a.lane c.toNat (fmtOf t.toNat).bits k))), some rm⟩
  | _ => none

/-! ### Masks, scalars and the special-function unit -/

/-- The comparisons that write a mask: width, predicate, mask, sources, truth and flags of element k (R229, R233). -/
def compareOp (a : Arch) : Instr → Option (Nat × BitVec 6 × BitVec 3 × List (BitVec 5) × (Nat → Bool × BitVec 5))
  | .vcmp d t b ra vx p k =>
    let w := 8 * 2 ^ (t.toNat % 4)
    some (w, p, d, if vx = 1 then [ra] else [ra, b.setWidth 5], fun i =>
      let x := intOf t.toNat (a.lane ra.toNat w i)
      let y := intOf t.toNat (second a vx b w i)
      (if k = 0 then x = y else if k = 1 then x ≠ y else if k = 2 then x < y else if k = 3 then x ≤ y
       else if k = 4 then y < x else y ≤ x, 0))
  | .fcmp d t b ra p k =>
    some ((fltOf t).bits, p, d, [ra, b], fun i => fcmpOf k.toNat (a.fval (fltOf t) ra i) (a.fval (fltOf t) b i))
  | _ => none

/-- The instructions with a scalar destination: width, predicate, register, sources, result, flags and rounding field (R230,
R235-R237). -/
def scalarOp (a : Arch) : Instr → Option (Nat × BitVec 6 × BitVec 6 × List (BitVec 5) × (Shape → Word × BitVec 5) × Option (BitVec 3))
  | .vext d t b ra p => some (typeBits t.toNat, p.setWidth 6, d, [ra], fun g =>
      let i := (a.getX b).toNat
      (if g.active i then BitVec.ofInt 64 (if t.toNat < 4 then signedOf (typeBits t.toNat) (a.lane ra.toNat (typeBits t.toNat) i)
        else a.lane ra.toNat (typeBits t.toNat) i) else 0, 0), none)
  | .vred d t ra k p => some (8 * 2 ^ (t.toNat % 4), p.setWidth 6, d, [ra], fun g =>
      let xs := ((List.range g.n).filter g.active).map fun i => intOf t.toNat (a.lane ra.toNat (8 * 2 ^ (t.toNat % 4)) i)
      (match xs with
       | [] => BitVec.ofInt 64 (redIdentity t.toNat k.toNat)
       | x :: l => BitVec.ofInt 64 (l.foldl (redOp k.toNat) x), 0), none)
  | .fred d t k ra rm p => some ((fltOf t).bits, p.setWidth 6, d, [ra], fun g =>
      (BitVec.ofNat 64 (fredOf a g (fltOf t) k.toNat rm.toNat ra).1, (fredOf a g (fltOf t) k.toNat rm.toNat ra).2), some rm)
  | .fdot d t b ra rm p => some ((fltOf t).bits, p.setWidth 6, d, [ra, b], fun g =>
      (BitVec.ofNat 64 (fdotOf a g (fltOf t) rm.toNat b ra).1, (fdotOf a g (fltOf t) rm.toNat b ra).2), some rm)
  | _ => none

/-- The instructions of the special-function unit (R217, R232, R238). -/
def sfuOp (a : Arch) : Instr → Option LaneOp
  | .fdiv d t b ra rm p => fltLane a d t [ra, b] rm p fun f r k => divVal f r (a.fval f ra k) (a.fval f b k)
  | .fsqrt d t ra rm p => fltLane a d t [ra] rm p fun f r k => sqrtVal f r (a.fval f ra k)
  | .fexp d t ra rm p => fltLane a d t [ra] rm p fun f r k => specialVal .exp f r (a.fval f ra k)
  | .flog d t ra rm p => fltLane a d t [ra] rm p fun f r k => specialVal .log f r (a.fval f ra k)
  | .frcp d t ra rm p => fltLane a d t [ra] rm p fun f r k => specialVal .rcp f r (a.fval f ra k)
  | .frsq d t ra rm p => fltLane a d t [ra] rm p fun f r k => specialVal .rsq f r (a.fval f ra k)
  | .fsin d t ra rm p => fltLane a d t [ra] rm p fun f r k => specialVal .sin f r (a.fval f ra k)
  | .fcos d t ra rm p => fltLane a d t [ra] rm p fun f r k => specialVal .cos f r (a.fval f ra k)
  | .ftanh d t ra rm p => fltLane a d t [ra] rm p fun f r k => specialVal .tanh f r (a.fval f ra k)
  | _ => none

/-- Vector state may be used: no arming, and no gate whose entry forbids it (R351, R379). -/
def VecFree (t : Thread) : Prop := t.arch.arming = none ∧ vecAllowed t.arch = true

/-! ### Rounding (R183-R191) -/

/-- The formats of R183. -/
def formats : List Fmt := [f64, f32, f16, bf16, e4m3, e5m2, e2m1]

/-- The magnitude of the encoding e without its sign (R184); beyond the format's last, what its next encodings would stand for with
the exponent unbounded above. -/
def magOf (f : Fmt) (e : Nat) : ℚ :=
  if e < 2 ^ f.p then e * 2 ^ (1 - (f.bias : ℤ) - f.p)
  else (2 ^ f.p + e % 2 ^ f.p : ℕ) * 2 ^ (((e / 2 ^ f.p : ℕ) : ℤ) - f.bias - f.p)

/-- x, from lo on and below hi, moves to hi under a mode; k is the encoding of lo (R49, R186 step 2, R187, R188). -/
def MovesUp (f : Fmt) (r : Rnd) (neg : Bool) (k : Nat) (lo x hi : ℝ) : Prop :=
  lo < x ∧
    ((r.rm = 0 ∨ r.rm = 5 ∧ (magOf f f.maxEnc : ℝ) < x) ∧ (hi - x < x - lo ∨ hi - x = x - lo ∧ k % 2 = 1) ∨
     r.rm = 2 ∧ neg = true ∨ r.rm = 3 ∧ neg = false ∨ r.rm = 4 ∧ hi - x ≤ x - lo ∨
     r.rm = 5 ∧ x ≤ (magOf f f.maxEnc : ℝ) ∧ (r.rb : ℤ) < ⌊(x - lo) / (hi - lo) * 2 ^ 32⌋)

/-- The operation is tiny: x, rounded to the precision of the format with the exponent unbounded below too, lies below the smallest
normal. Just below that one, such values are half a subnormal apart (R186 step 4). -/
def Tiny (f : Fmt) (r : Rnd) (neg : Bool) (x : ℝ) : Prop :=
  let least : ℝ := magOf f (2 ^ f.p)
  let step : ℝ := (magOf f 1 : ℝ) / 2
  x < least ∧ ¬((r.rm = 0 ∨ r.rm = 4 ∨ r.rm = 5) ∧ least - step / 2 ≤ x ∨
    (r.rm = 2 ∧ neg = true ∨ r.rm = 3 ∧ neg = false) ∧ least - step < x)

/-- The table of R187. -/
def overflowOf (f : Fmt) (r : Rnd) (neg : Bool) : Nat :=
  if r.sat = true ∨ f = e2m1 then f.withSign neg f.maxEnc
  else if r.rm = 0 ∨ r.rm = 4 ∨ r.rm = 5 ∨ r.rm = 2 ∧ neg = true ∨ r.rm = 3 ∧ neg = false then
    if f = e4m3 then 0x7F else f.withSign neg (f.maxEnc + 1)
  else f.withSign neg f.maxEnc

/-- out is Round(f, ±x, rm) of a positive x, with its flags (R186-R188, R190). -/
def IsRounded (f : Fmt) (r : Rnd) (neg : Bool) (x : ℝ) (out : Nat × BitVec 5) : Prop :=
  ∀ k y : Nat, (magOf f k : ℝ) ≤ x → x < (magOf f (k + 1) : ℝ) →
    (MovesUp f r neg k (magOf f k) x (magOf f (k + 1)) → y = k + 1) →
    (¬MovesUp f r neg k (magOf f k) x (magOf f (k + 1)) → y = k) →
    (f.maxEnc < y → out = (overflowOf f r neg, flagOF ||| flagNX)) ∧
    (y ≤ f.maxEnc → r.ftz = true → f.flushes = true → 0 < y → y < 2 ^ f.p → out = (f.withSign neg 0, flagUF ||| flagNX)) ∧
    (y ≤ f.maxEnc → ¬(r.ftz = true ∧ f.flushes = true ∧ 0 < y ∧ y < 2 ^ f.p) → out.1 = f.withSign neg y ∧
      (x = (magOf f y : ℝ) → out.2 = 0) ∧ (x ≠ (magOf f y : ℝ) → Tiny f r neg x → out.2 = flagUF ||| flagNX) ∧
      (x ≠ (magOf f y : ℝ) → ¬Tiny f r neg x → out.2 = flagNX))

/-- The number that a finite value is. -/
def numOf : FVal → Option ℚ
  | .num neg n d => if d = 0 then none else some (if neg then -(n / d : ℚ) else n / d)
  | _ => none

/-- out is the rounding of an exact result, not zero. -/
def ResultOf (f : Fmt) (r : Rnd) (q : ℚ) (out : Nat × BitVec 5) : Prop := IsRounded f r (decide (q < 0)) ((|q| : ℚ) : ℝ) out

/-- A mask register after a comparison: elements 0 to min(n, 64) - 1 that are active answer, and every other bit is kept, or is
zero where the predicate says so (R213). -/
def maskWith (a : Arch) (g : Shape) (d : BitVec 3) (f : Nat → Bool) : Arch :=
  a.setM d (BitVec.ofNat 64 (packElems 1 ((List.range 64).map fun k =>
    if g.active k then (f k).toNat else if g.zero then 0 else ((a.getM d).getLsbD k).toNat)))

end Sys2Proof.Claims

/-- R225, R226: VSPAN sets a span register to a length, width code and count; the mask instructions write a mask register, or a
scalar register, from masks as they were; m0 stays all ones and x0 zero. -/
def Sys2Proof.Claims.MaskResults : Prop :=
  ∀ (s : State) (tid : Nat) (t : Thread), Begins s tid t → VecFree t →
    (∀ i d v, maskResult t.arch i = some (d, v) → Completes i s tid t (onAr fun a => a.setM d v)) ∧
    (∀ i d v, maskScalar t.arch i = some (d, v) → Completes i s tid t (putX d v)) ∧
    (∀ (d z : BitVec 2) (ra : BitVec 6) (n : BitVec 3), Completes (.vspan d z ra n) s tid t
      (onAr fun a => a.setS d (BitVec.ofNat 64
        ((n.toNat - 1) * 2048 + z.toNat * 512 + min (t.arch.getX ra).toNat (512 * n.toNat / (8 * 2 ^ z.toNat))))))

/-- R210-R212, R214, R227-R234: the element instructions with a vector destination write the result of each active element to its
place and keep or zero the others; the flags that active elements raise become sticky, and srctr steps under sr (R189). -/
def Sys2Proof.Claims.VectorElements : Prop :=
  ∀ (s : State) (tid : Nat) (t : Thread) (i : Instr) (x : LaneOp),
    Begins s tid t → VecFree t → laneOp t.arch i = some x →
    let g := shapeOf t.arch x.p x.w
    Fit s t ((x.srcs ++ [x.d]).map fun v => (v, g.nreg)) →
      Completes i s tid t fun m => raising (flagsRaised g (g.nreg * 512 / x.w) (x.val g))
        (onAr (fun a => (x.rm.elim id steppedSr) (groupWith a g x.d x.w g.nreg fun k => (x.val g k).1)) m)

/-- R196, R198-R204: the conversions, under the group rule of R196: the wider element type fixes the count, and the narrower group
takes the registers that its elements fill. -/
def Sys2Proof.Claims.ConversionResults : Prop :=
  ∀ (s : State) (tid : Nat) (t : Thread) (i : Instr) (x : ConvOp),
    Begins s tid t → VecFree t → convOp t.arch i = some x →
    let ww := max (typeBits x.t) (typeBits x.u)
    let g := shapeOf t.arch x.p ww
    let na := (g.nreg * typeBits x.t + ww - 1) / ww
    let nd := (g.nreg * typeBits x.u + ww - 1) / ww
    Fit s t ((x.a, na) :: (x.d, nd) :: x.more g) →
      Completes i s tid t fun m => raising (flagsRaised g (nd * 512 / typeBits x.u) x.val)
        (onAr (fun a => (x.rm.elim id steppedSr) (groupWith a g x.d (typeBits x.u) nd fun k => (x.val k).1)) m)

/-- R213, R229, R233: VCMP and FCMP write the truth of each active element to its bit of a mask. -/
def Sys2Proof.Claims.CompareResults : Prop :=
  ∀ (s : State) (tid : Nat) (t : Thread) (i : Instr) (w : Nat) (p : BitVec 6) (d : BitVec 3) (srcs : List (BitVec 5))
    (f : Nat → Bool × BitVec 5),
    Begins s tid t → VecFree t → compareOp t.arch i = some (w, p, d, srcs, f) →
    let g := shapeOf t.arch p w
    Fit s t (srcs.map fun v => (v, g.nreg)) →
      Completes i s tid t fun m => raising (((List.range 64).filter g.active).foldl (fun acc k => acc ||| (f k).2) 0)
        (onAr (fun a => maskWith a g d fun k => (f k).1) m)

/-- R214, R230, R235-R237: VEXT, VRED, FRED and FDOT write one scalar register whole. VRED is the operation over the active
elements in order, its identity where there is none. -/
def Obligations.ScalarResults : Prop :=
  ∀ (s : State) (tid : Nat) (t : Thread) (i : Instr) (w : Nat) (p d : BitVec 6) (srcs : List (BitVec 5))
    (f : Shape → Word × BitVec 5) (rm : Option (BitVec 3)),
    Begins s tid t → VecFree t → i.wf = true → scalarOp t.arch i = some (w, p, d, srcs, f, rm) →
    let g := shapeOf t.arch p w
    Fit s t (srcs.map fun v => (v, g.nreg)) →
      Completes i s tid t fun m => raising (f g).2 (onAr (fun a => (rm.elim id steppedSr) (a.setX d (f g).1)) m)

/-- R217, R218, R238: an instruction of the special-function unit takes one entry of its core's queue for each register of its
group, with the values that the registers are to receive and the tag of the instruction; the registers themselves do not change yet.
Model choices it rests on: entry 12 (fixed-point evaluation). (notes/assumptions.) -/
def Obligations.SpecialResults : Prop :=
  ∀ (s : State) (tid : Nat) (t : Thread) (i : Instr) (x : LaneOp) (rm : BitVec 3),
    Begins s tid t → VecFree t → sfuOp t.arch i = some x → x.rm = some rm →
    let g := shapeOf t.arch x.p x.w
    let c := s.core (coreOf tid)
    Fit s t ((x.srcs ++ [x.d]).map fun v => (v, g.nreg)) → c.sfu.length + g.nreg ≤ 32 →
      Completes i s tid t fun m => raising (flagsRaised g (g.nreg * 512 / x.w) (x.val g)) (onAr (steppedSr rm)
        { m with st := { (here s).setCore (coreOf tid) { c with sfu := c.sfu ++ (List.range g.nreg).map fun j =>
            { id := s.nextId, tid, v := BitVec.ofNat 5 (x.d.toNat + j),
              value := (groupWith t.arch g x.d x.w g.nreg fun k => (x.val g k).1).vreg (x.d.toNat + j) } } with
          nextId := s.nextId + 1 } })

/-- R196, R211, R212, R214: the elements of a written group, read back: an active element is the result (its low bits), any other is
zero or keeps its content; no register outside the group changes. -/
def Sys2Proof.Claims.GroupPlaces : Prop :=
  ∀ (a : Arch) (g : Shape) (d : BitVec 5) (w n : Nat) (f : Nat → Nat), w ∣ 512 → 0 < w → d.toNat + n ≤ 32 →
    (∀ k, k < n * 512 / w → (groupWith a g d w n f).lane d.toNat w k =
      if g.active k then f k % 2 ^ w else if g.zero then 0 else a.lane d.toNat w k) ∧
    (∀ v : BitVec 5, (v.toNat < d.toNat ∨ d.toNat + n ≤ v.toNat) → (groupWith a g d w n f).getV v = a.getV v) ∧
    (groupWith a g d w n f).x = a.x ∧ (groupWith a g d w n f).m = a.m ∧ (groupWith a g d w n f).fps = a.fps

/-- R183-R193, R232: the numbers that the encodings stand for; Round, for every format, mode and magnitude, with overflow, flush and
flags; and a sum, a product, a quotient, a fused multiply-add and a square root as the rounding of the exact result, with the zeros of
R191 and the canonical NaN. -/
def Sys2Proof.Claims.RoundedResults : Prop :=
  ∀ (f : Fmt) (r : Rnd), f ∈ formats → r.rm ≤ 5 → r.rb < 2 ^ 32 →
    (∀ neg e, e ≤ f.maxEnc → ∃ n d, unpack f false (f.withSign neg e) = .num neg n d ∧ 0 < d ∧ (n / d : ℚ) = magOf f e) ∧
    (∀ neg (n d : Nat), 0 < n → 0 < d → IsRounded f r neg ((n : ℝ) / d) (roundNum f r neg n d)) ∧
    (∀ neg d, roundNum f r neg 0 d = (f.withSign neg 0, 0)) ∧
    (∀ a b p q, numOf a = some p → numOf b = some q →
      (p + q ≠ 0 → ResultOf f r (p + q) (addVal f r a b)) ∧
      (p + q = 0 → addVal f r a b = (f.withSign (if p = 0 ∧ a.isNeg = b.isNeg then a.isNeg else decide (r.rm = 2)) 0, 0)) ∧
      (p * q ≠ 0 → ResultOf f r (p * q) (mulVal f r a b)) ∧
      (p * q = 0 → mulVal f r a b = (f.withSign (a.isNeg != b.isNeg) 0, 0)) ∧
      (q ≠ 0 → p ≠ 0 → ResultOf f r (p / q) (divVal f r a b)) ∧
      (f.hasInf = true → q = 0 → p ≠ 0 → divVal f r a b = (f.withSign (a.isNeg != b.isNeg) f.infEnc, flagDZ)) ∧
      (∀ ng c z, numOf c = some z → (if ng then -(p * q) else p * q) + z ≠ 0 →
        ResultOf f r ((if ng then -(p * q) else p * q) + z) (fmaVal f r ng a b c))) ∧
    (∀ n d : Nat, 0 < n → 0 < d → IsRounded f r false (Real.sqrt ((n : ℝ) / d)) (sqrtVal f r (.num false n d))) ∧
    (∀ a b, a.isNan = true ∨ b.isNan = true →
      let out := (f.nanEnc, if a.isSig = true ∨ b.isSig = true then flagNV else 0)
      addVal f r a b = out ∧ mulVal f r a b = out ∧ divVal f r a b = out)

/-- R183-R193, R196, R211, R212, R214, R232: the elements of a written group, and what rounding gives them. -/
def Obligations.GroupElements : Prop := Claims.GroupPlaces ∧ Claims.RoundedResults

/-- R213, R225, R226, R229, R233: VSPAN, the mask instructions and the compares. -/
def Obligations.MaskAndCompareResults : Prop := Claims.MaskResults ∧ Claims.CompareResults

/-- R189, R196, R198-R204, R210-R212, R214, R227-R234: the element instructions with a vector destination, and the conversions.
Model choices it rests on: entries 61 (e5m2 under FTZ) and 75 (which group is reported). (notes/assumptions.) -/
def Obligations.ElementResults : Prop := Claims.VectorElements ∧ Claims.ConversionResults

namespace Sys2Proof.Claims

open Sys2Proof.Machine

/-- A thread has been issued at a REP, with its watchdog still letting a head execute: repst stays as it is (R224). -/
def BeginsRep (s : State) (tid : Nat) (t : Thread) : Prop :=
  s.issuing = some (.thread tid) ∧ s.thread tid = some t ∧ wdFires t.arch = false

/-- The registers of a field of repst: ACTIVE, the iteration, the count that ends the repetition and the strides, as a REP finds
or makes them (R221, R222). -/
def repStart (a : Arch) (ra : BitVec 6) (sts : BitVec 16) : Nat × Nat × BitVec 16 :=
  if a.repst.getLsbD 48 then
    (a.repst.toNat / 2 ^ 32 % 2 ^ 16, a.repst.toNat / 2 ^ 32 % 2 ^ 16 + a.repst.toNat % 2 ^ 16, a.repst.extractLsb' 16 16)
  else (0, (a.getX ra).toNat % 2 ^ 16, sts)

/-- The target of iteration i, its fields stepped by the strides; a memory target's A is not a vector register (R220). -/
def repStepped (bits : Word) (i : Nat) (st : BitVec 16) (mem : Bool) : Word :=
  BitVec.ofNat 64 (bits.toNat + i * (st.toNat % 16 * 2 ^ 10 + (if mem then 0 else st.toNat / 16 % 16 * 2 ^ 16)
    + st.toNat / 256 % 16 * 2 ^ 22 + st.toNat / 4096 * 2 ^ 32))

/-- A command put at the end of the loom's queue with the rounding state of the thread (R255). -/
def queued (op : LoomOp) (m : Mach) : Mach :=
  { m with st := { m.st.setCore m.core { m.st.core m.core with loom := (m.st.core m.core).loom ++
      [{ id := m.st.nextId, tid := m.tid, op, fps := m.ar.fps, srkey := m.ar.srkey, srctr := m.ar.srctr }] } with
    nextId := m.st.nextId + 1 } }

/-- A tile operand within the allotment, even where it is f64 (R54). -/
def TileOk (s : State) (t : Thread) (k : Nat) (f64 : Bool) : Prop :=
  let n := ((s.crew t.crew).map Crew.tiles).getD 16
  if f64 then k % 2 = 0 ∧ k + 1 < n else k < n

/-- The loom's queue has a place (R255). -/
def LoomFree (s : State) (tid : Nat) : Prop := (s.core (coreOf tid)).loom.length < 2

/-- The crew owns some panels of its core (R246). -/
def OwnsPanels (s : State) (tid : Nat) (t : Thread) (ps : List Nat) : Prop :=
  ∀ p ∈ ps, ((s.core (coreOf tid)).panel p).owner = some t.crew

/-- The factors of a tile's rows or columns from vector register v on (R263). -/
def factorsAt (a : Arch) (f64 : Bool) (v : Nat) : List Nat := (List.range 16).map fun i => a.lane v (if f64 then 64 else 32) i

/-- Bits of DECL of RDSET, with the type and the rounding mode put in (R290, R298). -/
def declWord (par : Word) (t : BitVec 4) (rm : BitVec 3) : Word := par + BitVec.ofNat 64 (t.toNat * 2 ^ 48 + rm.toNat * 2 ^ 52)

/-- The completion word of field C: its address, where there is one, and its value (R275). -/
def cwOf (a : Arch) (c : BitVec 6) : Option Word × Word := if c = 0 then (none, 0) else (some (a.getX c), a.getX (c + 1))

/-- The completion word is as R283 asks: its value leaves [63:48] clear, its address is a multiple of 8. -/
def CwOk (a : Arch) (c : BitVec 6) : Prop := c = 0 ∨ (a.getX (c + 1)).toNat < 2 ^ 48 ∧ (a.getX c).toNat % 8 = 0

/-- The chunk has room for an engine command (R271). -/
def CopyRoom (s : State) (t : Thread) : Prop := copyCount (t.current (here s)).effects < 8

/-- A copy engine command carried with its chunk (R271). -/
def carryCopy (kind : CopyKind) (src dst : Word) (len : Nat) (bySrc : Bool) (cw : Option Word × Word) (m : Mach) : Mach :=
  carry (.copy { kind, src, dst, len, bySrc, cw := cw.1, cval := cw.2, tid := m.tid, crew := m.th.crew, guild := m.ar.guild }) m

end Sys2Proof.Claims

/-- R240, R241, R243: TOPN writes the encodings and the indices of the first elements in rank order, the places left over as zeros
and 0xFFFF; RNG writes blocks of Φ. Registers that the two groups of TOPN share take open values (notes/assumptions/4.md). -/
def Sys2Proof.Claims.SelectAndRandom : Prop :=
  ∀ (s : State) (tid : Nat) (t : Thread) (d : BitVec 5) (ty : BitVec 4) (a p c : BitVec 5) (lo : BitVec 1) (n : BitVec 9)
    (rb ra rc : BitVec 6) (sp : BitVec 2),
    Begins s tid t → VecFree t →
    let w := typeBits ty.toNat
    let g := shapeOf t.arch (p.setWidth 6) w
    let dn := (n.toNat * w + 511) / 512
    let cn := (n.toNat + 31) / 32
    let best := (ranked (lo == 1) (((List.range g.n).filter g.active).map fun k =>
      rankOf ty.toNat (t.arch.lane a.toNat w k) k)).take n.toNat
    (Fit s t [(a, g.nreg), (d, dn), (c, cn)] → ∀ m, Gives (freeOverlap d.toNat dn c.toNat cn)
        (onAr (fun ar => (ar.putElems d.toNat w (best.map Ranked.enc) dn).putElems c.toNat 16
          (best.map Ranked.idx ++ List.replicate (n.toNat - best.length) 0xFFFF) cn) (found s tid t)) () m →
      Retires (.topn d ty a p c lo n) s m) ∧
    (Fit s t [(d, spanRegs t.arch sp)] →
      Completes (.rng d rb ra sp rc) s tid t (onAr fun ar => ar.putElems d.toNat 128 ((List.range (4 * spanRegs t.arch sp)).map fun j =>
        let cj := t.arch.getX rc + BitVec.ofNat 64 j
        phiBits (t.arch.getX ra) ((t.arch.getX rb).setWidth 32) ((t.arch.getX rb >>> 32).setWidth 32) (cj.setWidth 32)
          ((cj >>> 32).setWidth 32)) (spanRegs t.arch sp)))

/-- R241: the rank order of the elements of a vector is a permutation of them in which no element stands before one that ranks
before it. -/
def Sys2Proof.Claims.RankOrder : Prop :=
  ∀ (lo : Bool) (ty : Nat) (l : List (Nat × Nat)), (l.map Prod.snd).Pairwise (· < ·) →
    let r := ranked lo (l.map fun e => rankOf ty e.1 e.2)
    r.Perm (l.map fun e => rankOf ty e.1 e.2) ∧
      r.Pairwise fun x y => if x.idx < y.idx then ranksFirst lo x y = true else ranksFirst lo y x = false

/-- R205-R208: FPACK writes the elements of its blocks and their scales; FUNPK writes each element under its block's scale.
Model choices it rests on: entry 4 (free values where groups overlap). (notes/assumptions.) -/
def Obligations.BlockFormatResults : Prop :=
  ∀ (s : State) (tid : Nat) (t : Thread) (d : BitVec 5) (ty : BitVec 4) (a : BitVec 5) (sat : BitVec 1) (rm : BitVec 3)
    (p5 c : BitVec 5) (p : BitVec 6) (et : BitVec 4),
    Begins s tid t → VecFree t →
    let f := fmtOf ty.toNat
    let we := typeBits et.toNat
    (let g := shapeOf t.arch (p5.setWidth 6) f.bits
     let nb := scaleBlocks g.nreg f.bits
     let bs := (List.range nb).map (packBlock et.toNat (t.arch.rnd rm.toNat false) fun k =>
       if g.active k then some (t.arch.fval f a k) else none)
     Fit s t [(a, g.nreg), (d, packedRegs nb we), (c, 1)] → ∀ m, Gives (freeOverlap d.toNat (packedRegs nb we) c.toNat 1)
        (raising (bs.foldl (fun acc b => acc ||| b.2.2) 0) (onAr (fun ar => steppedSr rm
          ((ar.putElems d.toNat we (bs.flatMap fun b => b.2.1) (packedRegs nb we)).putElems c.toNat 8 (bs.map Prod.fst) 1))
          (found s tid t))) () m → Retires (.fpack d ty a rm p5 c et) s m) ∧
    (let g := shapeOf t.arch p f.bits
     let val := fun k => blockScaled f (t.arch.rnd rm.toNat (sat == 1) k) (t.arch.lane c.toNat 8 (k / 32))
       (unpackElem et.toNat (t.arch.lane a.toNat we k))
     Fit s t [(a, packedRegs (scaleBlocks g.nreg f.bits) we), (d, g.nreg), (c, 1)] →
       Completes (.funpk d ty a sat rm p c et) s tid t fun m => raising (flagsRaised g (g.nreg * 512 / f.bits) val)
         (onAr (fun ar => steppedSr rm (groupWith ar g d f.bits g.nreg fun k => (val k).1)) m))

/-- R219-R224: a REP performs one iteration of its target, stepped by its strides, and leaves in repst what remains; the last one
leaves repst clear and goes on behind the target; a repetition of nothing goes on at once and counts as two instructions.
Model choices it rests on: entries 13 (the refusal of an ill-formed target) and 62 (no iteration under VPOL 0, and I at 2^16). (notes/assumptions.) -/
def Obligations.RepeatResults : Prop :=
  ∀ (s : State) (tid : Nat) (t : Thread) (ra : BitVec 6) (sts : BitVec 16) (bits npc : Word) (m1 : Mach) (fs : List RepField),
    BeginsRep s tid t → Free t → Gives repTarget (found s tid t) (bits, npc) m1 → repFields t.arch (decode bits) = some fs →
    let i := (repStart t.arch ra sts).1
    let c := (repStart t.arch ra sts).2.1
    let st := (repStart t.arch ra sts).2.2
    let mem := repMemory (decode bits)
    pairOk (decode bits) fs st = true → vecAllowed t.arch = true →
      (c ≤ i → Retires (.rep ra sts) s { onAr (fun a => { a with repst := 0 }) m1 with npc := npc, counts := 2 }) ∧
      (i < c → rangeBreach fs st m1.vregs m1.tiles i c = none →
        ∀ m2, Gives (repOp (decode (repStepped bits i st mem)) (BitVec.ofNat 64 (if mem then 64 * i * (st.toNat / 16 % 16) else 0)))
            (onAr (fun a => { a with repst := repWord i st (c - i) }) m1) () m2 →
          Retires (.rep ra sts) s
            (if i + 1 < c then { onAr (fun a => { a with repst := repWord (i + 1) st (c - i - 1) }) m2 with npc := m2.ar.pc }
             else { onAr (fun a => { a with repst := 0 }) m2 with npc := npc }))

/-- R255, R258, R262, R263, R266: the compute instructions of the loom enter its queue with the operands that they read. -/
def Obligations.LoomQueueResults : Prop :=
  ∀ (s : State) (tid : Nat) (t : Thread) (d ty : BitVec 4) (f set : BitVec 1) (rb ra : BitVec 6) (nc ks : BitVec 2) (rm : BitVec 3)
    (c : BitVec 5) (rs cs : BitVec 1) (disp : BitVec 16),
    Begins s tid t → VecFree t → LoomFree s tid →
    let w := (f == 0)
    let per := if w then 2 else 1
    (TileOk s t d.toNat w → Completes (.mzero d f) s tid t (queued (.zero d.toNat w))) ∧
    (let op : LoomOp := .mma ty.toNat d.toNat ra.toNat rb.toNat nc.toNat ks.toNat
     TileOk s t d.toNat (ty == 8) → OwnsPanels s tid t op.panels →
     (nc ≠ 0 → (((s.core (coreOf tid)).panel rb.toNat).pattern.map Prod.snd) = some (sparseN nc.toNat)) →
       Completes (.mma d ty rb ra nc ks) s tid t (queued op)) ∧
    (TileOk s t d.toNat w → Fit s t [(c, per * (rs.toNat + cs.toNat))] →
       Completes (.mscl d f rm c rs cs) s tid t fun m => onAr (steppedSr rm) (queued (.scale d.toNat w rm.toNat
         (if rs = 1 then factorsAt t.arch w c.toNat else [])
         (if cs = 1 then factorsAt t.arch w (c.toNat + per * rs.toNat) else [])) m)) ∧
    (TileOk s t d.toNat w → ∀ rows m1 vs m2,
      Gives (needRowsLowest .load (addrM t.arch ra disp) (if rb = 0 then (if w then 128 else 64) else t.arch.getX rb) 16
        (if w then 128 else 64)) (found s tid t) rows m1 → Gives (readDwords rows.flatten) m1 vs m2 →
      (m2.st.core m2.core).loom.length < 2 →
        Retires (.macc d f rb ra set rm disp) s (onAr (steppedSr rm)
          (queued (.acc d.toNat w (set == 1) rm.toNat (splitDwords (if w then 64 else 32) vs)) m2)))

/-- R248, R259-R261, R264: the panel commands end their chunk and leave with it; MDRAIN enters the loom's queue with its rows and is
carried with the chunk. -/
def Sys2Proof.Claims.PanelAndDrainResults : Prop :=
  ∀ (s : State) (tid : Nat) (t : Thread) (d : BitVec 6) (ty ot dt : BitVec 4) (rb ra : BitVec 6) (nc : BitVec 2) (tr f sat : BitVec 1)
    (rm : BitVec 3) (c : BitVec 5) (rs cs : BitVec 1) (disp : BitVec 16),
    Begins s tid t → VecFree t →
    (∀ n rows m1, n = (loadShape (geoOf ty.toNat) false 0 false).2 →
      Gives (needRows .load (addrM t.arch ra disp) (if rb = 0 then BitVec.ofNat 64 n else t.arch.getX rb) 16 n) (found s tid t) rows m1 →
        Retires (.mlda d ty rb ra disp) s (endsAs .cut (carry (.panel d.toNat (.load ty.toNat false 0 (rowAddrs rows))) m1))) ∧
    (∀ sh rows m1, sh = loadShape (geoOf ty.toNat) true (sparseN nc.toNat) (tr == 1) →
      Gives (needRows .load (addrM t.arch ra disp) (if rb = 0 then BitVec.ofNat 64 sh.2 else t.arch.getX rb) sh.1 sh.2)
        (found s tid t) rows m1 →
          Retires (.mldb d ty rb ra nc tr disp) s
            (endsAs .cut (carry (.panel d.toNat (.load ty.toNat (tr == 1) (sparseN nc.toNat) (rowAddrs rows))) m1))) ∧
    Completes (.mseed d ra nc) s tid t
      (fun m => endsAs .cut (carry (.panel d.toNat (.seed (t.arch.getX ra) (sparseN nc.toNat))) m)) ∧
    (OwnsPanels s tid t [ra.toNat, ra.toNat + 1, ra.toNat + 2] →
      Completes (.mcprs d ty rb ra nc) s tid t (fun m =>
        endsAs .cut (carry (.panel d.toNat (.compress ty.toNat ra.toNat (t.arch.getX rb) (sparseN nc.toNat))) m))) ∧
    (let w := (f == 0)
     let per := if w then 2 else 1
     let len := 2 * (fmtOf ot.toNat).bits
     TileOk s t dt.toNat w → (rs = 1 ∨ cs = 1 → Fit s t [(c, per * (rs.toNat + cs.toNat))]) → ∀ rows m1,
       Gives (needRowsLowest .store (t.arch.getX ra) (if rb = 0 then BitVec.ofNat 64 len else t.arch.getX rb) 16 len)
         (found s tid t) rows m1 →
       let op : LoomOp := .drain dt.toNat w rm.toNat (sat == 1) ot.toNat (if rs = 1 then factorsAt t.arch w c.toNat else [])
         (if cs = 1 then factorsAt t.arch w (c.toNat + per * rs.toNat) else []) (rowAddrs rows)
       (m1.st.core m1.core).drainUsed + op.captured ≤ 8192 → (m1.st.core m1.core).loom.length < 2 →
         Retires (.mdrain dt f rb ra sat rm c ot rs cs) s
           (onAr (steppedSr rm) (carry (.drain m1.st.nextId) (queued op m1))))

/-- R267, R268: MSTAT, MSTAT.p and MWAIT read what the thread has out, its sticky OWNED and GUARD bits, and a panel's state. MWAIT
sleeps while a command is out. -/
def Sys2Proof.Claims.MatrixStatusResults : Prop :=
  ∀ (s : State) (tid : Nat) (t : Thread) (d ra : BitVec 6), Begins s tid t → VecFree t →
    let busy := (s.core (coreOf tid)).loom.any fun c => c.tid = tid
    let p := (s.core (coreOf tid)).panel (ra.toNat)
    Completes (.mstat d) s tid t (putX d (BitVec.ofNat 64
      (matrixOut s tid % 65536 + busy.toNat * 65536 + t.owned.toNat * 131072 + t.guard.toNat * 262144))) ∧
    Completes (.mstatP d ra) s tid t (putX d (BitVec.ofNat 64
      (p.state + (decide (p.owner = some t.crew)).toNat * 4 + ncOf ((p.pattern.map Prod.snd).getD 0) * 8))) ∧
    (First s t → t.older = [] → matrixOut s tid = 0 →
      Completes (.mwait d) s tid t fun m =>
        carry .matrixSeen (putX d (BitVec.ofNat 64 (t.owned.toNat + 2 * t.guard.toNat)) (endsAs .alone m))) ∧
    (First s t → t.older = [] → matrixOut s tid ≠ 0 →
      exec (.mwait d) s = .next ((here s).setThread tid { t with chunks := [], run := .matrix d, pending := none, replies := [] }))

/-- R271, R275, R282-R287: the copy instructions carry their command with their chunk, with the parameters that their registers
hold. -/
def Sys2Proof.Claims.CopyCommands : Prop :=
  ∀ (s : State) (tid : Nat) (t : Thread) (d rb ra c : BitVec 6), Begins s tid t → Free t → CopyRoom s t → CwOk t.arch c →
    let dst := t.arch.getX d
    let src := t.arch.getX ra
    let x := t.arch.getX rb
    let q := t.arch.getX (rb + 1)
    let m := found s tid t
    (x.toNat ≤ 2 ^ 40 → overlap dst src x.toNat = false →
      ∀ out m1, Gives (copyRanges x.toNat (firstByte x.toNat .load src) (firstByte x.toNat .store dst) c) m out m1 →
        Retires (.cpy d rb ra c) s (carryCopy .linear src dst x.toNat out (cwOf t.arch c) m1)) ∧
    (let len := x.toNat % 2 ^ 32
     let rows := x.toNat / 2 ^ 32 % 2 ^ 16
     x.toNat < 2 ^ 48 → len * rows ≤ 2 ^ 40 → (1 < rows → len ≤ ((q >>> 32).setWidth 32).toInt.natAbs) →
      ∀ out m1, Gives (copyRanges (len * rows) (firstByte (len * rows) .load src) (firstByte (len * rows) .store dst) c) m out m1 →
        Retires (.cpys d rb ra c) s (carryCopy (.strided rows len ((q.setWidth 32).signExtend 64)
          (((q >>> 32).setWidth 32).signExtend 64)) src dst (len * rows) out (cwOf t.arch c) m1)) ∧
    (x.toNat ≤ 2 ^ 40 → dst.toNat % 8 = 0 → x.toNat % 8 = 0 →
      ∀ out m1, Gives (copyRanges x.toNat [] (firstByte x.toNat .store dst) c) m out m1 →
        Retires (.cfill d rb ra c) s (carryCopy (.fill src) 0 dst x.toNat out (cwOf t.arch c) m1))

/-- R286: CPYG carries a gather or scatter, here of no element or of elements whose first index has been read. -/
def Sys2Proof.Claims.GatherCopyResults : Prop :=
  ∀ (s : State) (tid : Nat) (t : Thread) (d rb ra c : BitVec 6) (z iw : BitVec 2) (ig sc : BitVec 1),
    Begins s tid t → Free t → CopyRoom s t → CwOk t.arch c →
    let dst := t.arch.getX d
    let src := t.arch.getX ra
    let idx := t.arch.getX rb
    let q := t.arch.getX (rb + 1)
    let e := 2 ^ z.toNat
    let w := 2 ^ iw.toNat
    q.toNat < 2 ^ 32 → dst.toNat % e = 0 → src.toNat % e = 0 → idx.toNat % w = 0 →
    let cmd := carryCopy (.gather e w (ig == 1) (sc == 1) idx) src dst q.toNat false (cwOf t.arch c)
    (q.toNat = 0 → ∀ lc m1, Gives (locateFirsts (completionRange (found s tid t) c)) (found s tid t) lc m1 →
      (∀ x ∈ lc, copyPlace x.2.place = true) → Retires (.cpyg d z rb ra ig iw c sc) s (cmd m1)) ∧
    (q.toNat ≠ 0 → ∀ li m1 ls m2 bs m3 lf m4 lc m5, Gives (locate .load idx) (found s tid t) li m1 →
      Gives (locate (if sc = 1 then .load else .store) (if sc = 1 then src else dst)) m1 ls m2 →
      Gives (readAt li idx w) m2 bs m3 →
      Gives (locate (if sc = 1 then .store else .load) ((if sc = 1 then dst else src) + indexOff (ig == 1) w e (ofBytes bs))) m3 lf m4 →
      Gives (locateFirsts (completionRange (found s tid t) c)) m4 lc m5 →
      gatherPlace li.place = true → gatherPlace ls.place = true → gatherPlace lf.place = true →
      (∀ x ∈ lc, copyPlace x.2.place = true) → Retires (.cpyg d z rb ra ig iw c sc) s (cmd m5))

/-- R288: CSTAT reads the thread's commands out, its core's and its FAIL bit; CSTAT.w sleeps while a command is out, and carries to its
commit the reading and clearing of FAIL. -/
def Sys2Proof.Claims.EngineStatusResults : Prop :=
  ∀ (s : State) (tid : Nat) (t : Thread) (d : BitVec 6), Begins s tid t → Free t →
    let own := ((s.core (coreOf tid)).engine.filter fun e => e.cmd.tid = tid).length
    let word : Word := BitVec.ofNat 64 (own % 65536 + min (s.core (coreOf tid)).engine.length 1024 * 65536 + t.fail.toNat * 2 ^ 27)
    Completes (.cstat d) s tid t (putX d word) ∧
    (First s t → t.older = [] → own = 0 →
      Completes (.cstatW d) s tid t fun m => carry (.failSeen d) (putX d word (endsAs .alone m))) ∧
    (First s t → t.older = [] → own ≠ 0 →
      exec (.cstatW d) s = .next ((here s).setThread tid { t with chunks := [], run := .engine d, pending := none, replies := [] }))

/-- R290, R298: RDSET writes its block and carries the declaration. -/
def Sys2Proof.Claims.ReductionDeclareResults : Prop :=
  ∀ (s : State) (tid : Nat) (t : Thread) (d : BitVec 6) (ty : BitVec 4) (rb ra : BitVec 6) (rm : BitVec 3) (c : BitVec 6),
    Begins s tid t → Free t →
    let par := t.arch.getX d
    let blk := t.arch.getX ra
    let tgt := t.arch.getX rb
    let w := typeBits ty.toNat / 8
    let words : List Word := [declWord par ty rm, tgt, (cwOf t.arch c).1.getD 0, (cwOf t.arch c).2]
    declOk par ty.toNat = true → (c = 0 ∨ (t.arch.getX (c + 1)).toNat < 2 ^ 48 ∧ (t.arch.getX c).toNat % 16 = 0) →
    blk.toNat % 64 = 0 → tgt.toNat % w = 0 →
    ∀ l m1 st m2 ts m3 cs m4 m5, Gives (locate .store blk) (found s tid t) l m1 → regionOf l.pa = 0 →
      Gives (readAt (l.within blk 0x20) (blk + 0x20) 8) m1 st m2 → ofBytes st % 4 ≠ 1 →
      Gives (locateRun .store tgt w (par.toNat % 2 ^ 13)) m2 ts m3 → (∀ x ∈ ts, regionOf x.pa = 0) →
      Gives (locateFirsts (completionRange (found s tid t) c)) m3 cs m4 →
      (∀ x ∈ cs, x.2.place = .hbm ∨ x.2.place = .remote ∨ x.2.place = .host) →
      Gives (writeWords l blk 0 (words ++ [1, 0, 0, 0])) m4 () m5 →
        Retires (.rdset d ty rb ra rm c) s
          (carry (.rdset (l.within blk 0x20).pa words (ts.map Loc.pa) ((cs.map fun r => r.2.pa).head?)) m5)

/-- R299: RDC carries a contribution to an open block: the elements of its group, or those at an address. -/
def Sys2Proof.Claims.ContributionResults : Prop :=
  ∀ (s : State) (tid : Nat) (t : Thread) (d : BitVec 5) (ty : BitVec 4) (rb ra rc : BitVec 6) (sp : BitVec 2),
    Begins s tid t → Free t → CopyRoom s t →
    let blk := t.arch.getX ra
    let w := typeBits ty.toNat / 8
    let r := spanRegs t.arch sp
    ∀ l m1 st m2 decl m3, Gives (locateBlock blk) (found s tid t) l m1 → Gives (blockWord l blk 0x20) m1 st m2 →
      Gives (blockWord l blk 0) m2 decl m3 → st.toNat % 4 = 1 → declType decl = ty.toNat →
      (t.arch.getX rb).toNat < declNcon decl →
      let n := declCount decl
      let cmd := fun v src => carryCopy (.contrib (l.within blk 0x20).pa (t.arch.getX rb).toNat ty.toNat v) src 0 n false (none, 0)
      (Fit s t [(d, r)] → n ≤ r * 64 / w → vecAllowed t.arch = true → captureUsed m3 + n * w ≤ 8192 →
        Retires (.rdc d ty rb ra sp) s (cmd (some ((List.range n).map fun i => t.arch.lane d.toNat (8 * w) i)) 0 m3)) ∧
      ((t.arch.getX rc).toNat % w = 0 → ∀ ls m4, Gives (locateRun .load (t.arch.getX rc) w n) m3 ls m4 →
        (∀ x ∈ ls, regionOf x.pa = 0 ∨ ∃ b, x.place = .scratch b) →
          Retires (.rdcMem ty rb ra rc) s (cmd none (t.arch.getX rc) m4))

/-- R300: RDQ reads the arrival bitmap, RDQ.st the status word; RDQ.w reads it once the instance has ended. -/
def Sys2Proof.Claims.ReductionQueryResults : Prop :=
  ∀ (s : State) (tid : Nat) (t : Thread) (d ra : BitVec 6) (st : Nat) (v : RdView) (m1 : Mach),
    Begins s tid t → Free t →
    let word : Word := BitVec.ofNat 64 ((if v.isOpen then 1 else st) + v.count * 65536 + v.left % 65536 * 2 ^ 32)
    (Gives (rdBlock ra) (found s tid t) (st, v) m1 →
      Retires (.rdq d ra) s (putX d (BitVec.ofNat 64 v.bitmap) m1) ∧ Retires (.rdqSt d ra) s (putX d word m1)) ∧
    (First s t → Gives (rdBlock ra) (endsAs .alone (found s tid t)) (st, v) m1 → (st ≠ 1 ∨ v.isOpen = false) →
      Retires (.rdqW d ra) s (putX d word m1))

/-- R240, R241, R243: TOPN with its rank order, and RNG.
Model choices it rests on: entry 4 (free values where groups overlap). (notes/assumptions.) -/
def Obligations.SelectAndRandomResults : Prop := Claims.SelectAndRandom ∧ Claims.RankOrder

/-- R248, R259-R261, R264, R267, R268: the panel commands, MDRAIN, and the status of the matrix unit. -/
def Obligations.PanelResults : Prop := Claims.PanelAndDrainResults ∧ Claims.MatrixStatusResults

/-- R271, R275, R282-R288: the copy instructions, CPYG and CSTAT.
Model choices it rests on: entries 4 (repeated scatter addresses), 76 (copies beyond the edge) and 77 (tval of CFILL). (notes/assumptions.) -/
def Obligations.CopyResults : Prop := Claims.CopyCommands ∧ Claims.GatherCopyResults ∧ Claims.EngineStatusResults

/-- R290, R298-R300: RDSET, RDC and RDQ.
Model choices it rests on: entries 4 (a peer's block) and 40 (a block opened twice). (notes/assumptions.) -/
def Obligations.ReductionResults : Prop := Claims.ReductionDeclareResults ∧ Claims.ContributionResults ∧ Claims.ReductionQueryResults

namespace Sys2Proof.Claims

open Sys2Proof.Machine

/-- The chunk has room for a task message (R315). -/
def MessageRoom (s : State) (t : Thread) : Prop := messageCount (t.current (here s)).effects < 16

/-- An index of the crew's counters (R317). -/
def CounterIndex (s : State) (t : Thread) (i : Nat) : Prop := i < ((s.crew t.crew).map Crew.cnt).getD 0

/-- A record as its registers give it (R324): bits [56:0] of its entry, PIN in bit 63, and three arguments. -/
def recordOf (entry : Word) (pin : BitVec 1) (x y z : Word) : TaskRec :=
  ⟨BitVec.ofNat 64 (entry.toNat % 2 ^ 57 + pin.toNat * 2 ^ 63), x, y, z⟩

/-- A member of a domain outside any gate may arrive at it (R343). -/
def MayArrive (s : State) (t : Thread) (k : Nat) : Prop :=
  t.arch.depth = 0 ∧ ∃ d, ((s.crew t.crew).bind fun w => w.domain k) = some d ∧ d.has t.l = true

/-- The crew's members. -/
def crewSize (s : State) (t : Thread) : Nat := ((s.crew t.crew).map fun w => w.members.length).getD 0

/-- A request added to a member's arming (R350). -/
def armed (q : XReq) (a : Arch) : Arch := { a with arming := a.arming.map fun g => { g with reqs := g.reqs ++ [q] } }

/-- Every owner of a record stands on its string, each on that of its own die (R347). -/
def OwnersOn (s : State) (t : Thread) (x : Slot) : Prop :=
  ∀ j o, j < x.m → ((s.crew t.crew).bind fun w => assocGet? (x.own + j) w.members) = some o →
    stringPasses x.str (dieOf (coreOf o)) (coreFret (coreOf o)) = true

/-- The head waits: nothing is done, and the search for a slot starts again where it had started (R71, R72). -/
def notIssued (s : State) (tid : Nat) : State :=
  (here s).setCore (coreOf tid) { s.core (coreOf tid) with rr := (s.core (coreOf tid)).rrWas }

/-- The member is arming and XEND has not ended it. -/
def Arms (t : Thread) (g : Arming) : Prop := t.arch.arming = some g ∧ g.ended = false

/-- The guild of the thread has the system privilege (R360). -/
def SysGuild (s : State) (t : Thread) : Prop := s.guildSys (crewPart t.crew) t.arch.guild = true

/-- What GETS reads of each system register that has a place in the checkpoint or names the machine (R56, R362). -/
def srValue (s : State) (tid : Nat) (t : Thread) (n : Nat) : Word :=
  if n = 0x000 then BitVec.ofNat 64 (s.vcnReg tid)
  else if n = 0x001 then BitVec.ofNat 64 (crewPart t.crew * 2 ^ 32 + t.crew % 2 ^ 32)
  else if n = 0x002 then BitVec.ofNat 64 (t.arch.status.toNat / 2 ^ 16 % 2 ^ 16)
  else if n = 0x003 then BitVec.ofNat 64 (((s.crew t.crew).map fun w => if w.det then 1 + 2 * w.dcode else 8).getD 8)
  else if n = 0x004 then BitVec.ofNat 64 (t.current (here s)).count
  else if n = 0x005 then BitVec.ofNat 64 t.commitno
  else if n = 0x006 then t.arch.repst
  else if n = 0x007 then BitVec.ofNat 64 (((s.crew t.crew).map fun w => crewPos w t.l).getD 0)
  else if n = 0x008 then t.arch.fps
  else if n = 0x009 then t.arch.status
  else if n = 0x00A then t.arch.srkey
  else if n = 0x00B then t.arch.srctr
  else if n = 0x010 then t.arch.tvec
  else if n = 0x011 then t.arch.tcause
  else if n = 0x012 then t.arch.tpc
  else if n = 0x013 then t.arch.tstat
  else if n = 0x014 then t.arch.tval
  else if n = 0x015 then t.arch.hscratch
  else if n = 0x016 then t.arch.trepst
  else if n = 0x017 then t.arch.tnpc
  else if n = 0x020 then t.arch.gtb
  else if n = 0x021 then BitVec.ofNat 64 (t.arch.status.toNat / 2 ^ 4 % 2 ^ 4)
  else if n = 0x040 then t.arch.wdlimit
  else if n = 0x041 then BitVec.ofNat 64 t.arch.wdcount
  else BitVec.ofNat 64 s.time

/-- The registers that every program may read; those of handler level; those of the system (R57). -/
def openRegs : List Nat := [0x000, 0x001, 0x002, 0x003, 0x004, 0x005, 0x006, 0x007, 0x008, 0x009, 0x00A, 0x00B, 0x017, 0x021, 0x041, 0x050]
def trapRegNos : List Nat := [0x010, 0x011, 0x012, 0x013, 0x014, 0x015, 0x016]
def systemRegs : List Nat := [0x020, 0x040]

/-- The thread may read a system register (R57, R371). -/
def MayRead (s : State) (t : Thread) (n : Nat) : Prop :=
  n ∈ openRegs ∨ n ∈ trapRegNos ∧ (t.arch.status.getLsbD 0 = true ∨ SysGuild s t) ∨ n ∈ systemRegs ∧ SysGuild s t

/-- What SETS makes of the registers (R57, R371): the values that are refused are those with a bit that must be zero. -/
def srSet (a : Arch) (n : Nat) (v : Word) : Option Arch :=
  if n = 0x006 then (if v.toNat < 2 ^ 49 then some { a with repst := v } else none)
  else if n = 0x008 then (if v.toNat < 2 ^ 9 ∧ v.toNat / 32 % 8 < 6 then some { a with fps := v } else none)
  else if n = 0x00A then some { a with srkey := v }
  else if n = 0x00B then some { a with srctr := v }
  else if n = 0x010 then some { a with tvec := v }
  else if n = 0x011 then some { a with tcause := BitVec.ofNat 64 (v.toNat % 64) }
  else if n = 0x012 then some { a with tpc := v }
  else if n = 0x013 then some { a with tstat := v }
  else if n = 0x014 then some { a with tval := v }
  else if n = 0x015 then some { a with hscratch := v }
  else if n = 0x016 then some { a with trepst := v }
  else if n = 0x020 then (if v.toNat < 2 ^ 57 ∧ v.toNat / 2 ^ 10 % 4 = 0 then some { a with gtb := v } else none)
  else if n = 0x040 then (if v.toNat < 2 ^ 48 then some { a with wdlimit := v } else none)
  else none

/-- The thread may write a system register. -/
def MayWrite (s : State) (t : Thread) (n : Nat) : Prop :=
  n ∈ [0x006, 0x008, 0x00A, 0x00B] ∨ n ∈ trapRegNos ∧ (t.arch.status.getLsbD 0 = true ∨ SysGuild s t) ∨
    n ∈ [0x020, 0x040] ∧ SysGuild s t

/-- Every flag that the thread's older chunks have raised is in fps, which register 0x008 is (R55). -/
def FlagsIn (t : Thread) (n : Nat) : Prop := n = 0x008 → ∀ c ∈ t.older, c.flags = 0

/-- The head and its tail at the thread's PC. -/
def headAt (t : Thread) : Word := t.headBits

end Sys2Proof.Claims

/-- R301, R315, R323-R326, R331: the task and counter messages are carried with their chunk. -/
def Sys2Proof.Claims.TaskMessages : Prop :=
  ∀ (s : State) (tid : Nat) (t : Thread) (d rb ra rc : BitVec 6) (pin self : BitVec 1) (dec idx : BitVec 8) (disp : BitVec 16),
    Begins s tid t → Free t → MessageRoom s t →
    let m := found s tid t
    (∀ r m1, Gives (readTask (addrM t.arch ra disp) none) m r m1 →
      Retires (.spawn 0 rb ra disp) s (carry (.task (.push (coreOf tid) r)) m1) ∧
      (∀ core, crewCore m (t.arch.getX rb) = some core → Retires (.spawn 1 rb ra disp) s (carry (.task (.push core r)) m1))) ∧
    Completes (.spawnr d rb ra rc pin) s tid t (carry (.task (.push (coreOf tid)
      (recordOf (t.arch.getX ra) pin (t.arch.getX rb) (t.arch.getX rc) (t.arch.getX d))))) ∧
    (CounterIndex s t (t.arch.getX d).toNat → 0 < (t.arch.getX rb).toNat → (t.arch.getX rb).toNat < 2 ^ 32 →
      ∀ r m1, Gives (readTask (t.arch.getX ra) none) m r m1 →
        Retires (.cntset d rb ra) s (carry (.task (.cntSet (coreOf tid) (t.arch.getX d).toNat (t.arch.getX rb).toNat r)) m1)) ∧
    (CounterIndex s t (t.arch.getX d).toNat →
      Completes (.cntsetClr d) s tid t (carry (.task (.cntClr (coreOf tid) (t.arch.getX d).toNat)))) ∧
    (CounterIndex s t idx.toNat → ∀ core, (if self = 1 then some (coreOf tid) else crewCore m (t.arch.getX ra)) = some core →
      Completes (.cntdec self rb ra dec idx) s tid t (carry (.task (.dec core idx.toNat
        (if dec = 0 then (t.arch.getX rb).toNat % 2 ^ 32 else dec.toNat))))) ∧
    Completes (.postr ra) s tid t (carry (.task (.post false (t.arch.getX ra)))) ∧
    Completes (.postrOr ra) s tid t (carry (.task (.post true (t.arch.getX ra))))

/-- R319, R327-R329, R332: SEND carries its message; RECV takes the first message that the chunk sees, or zeros; INBQ and TSTAMP read
their counts and stamps.
Model choices it rests on: entry 28 (pseudo-lines). (notes/assumptions.) -/
def Obligations.MessageResults : Prop :=
  ∀ (s : State) (tid : Nat) (t : Thread) (d : BitVec 5) (x rb ra : BitVec 6) (cn : BitVec 1) (idx : BitVec 8) (k : BitVec 3),
    Begins s tid t → Free t →
    let m := found s tid t
    (MessageRoom s t → vecAllowed t.arch = true → Fit s t [(d, 1)] → (cn = 1 → CounterIndex s t idx.toNat) →
      ∀ dest m1, crewThread m (t.arch.getX ra) = some dest → Gives (noteInbox dest true) m () m1 →
        Retires (.send d rb ra cn idx) s (carry (.task (.send dest (t.arch.getV d) (t.arch.getX rb)
          (BitVec.ofNat 64 (2 ^ 63 + m1.st.vcnReg tid)) (if cn = 1 then some idx.toNat else none))) m1)) ∧
    (vecAllowed t.arch = true → Fit s t [(d, 1)] → ∀ m1, Gives (noteInbox tid false) m () m1 →
      Retires (.recv d rb ra) s (match inboxView m with
        | [] => putX rb 0 (putX ra 0 m1)
        | y :: _ => putX rb y.sender (putX ra y.tag (onAr (fun a => a.setV d y.payload) (carry .recv m1))))) ∧
    (∀ m1, Gives (noteInbox tid false) m () m1 →
      Retires (.inbqN x) s (putX x (BitVec.ofNat 64 (inboxView m).length) m1)) ∧
    Completes (.inbqRoom x) s tid t (putX x (BitVec.ofNat 64
      (32 * ((s.crew t.crew).map Crew.ovf).getD 0 - ((inboxView m).length - 32)))) ∧
    Completes (.inbqStray x) s tid t (putX x (BitVec.ofNat 64 (assocGetD t.crew 0 (s.core (coreOf tid)).stray))) ∧
    Completes (.tstamp x k) s tid t (putX x (BitVec.ofNat 64
      (if k = 0 then t.enq else if k = 1 then t.deq else if k = 2 then t.waitTotal else if k = 3 then t.searchTotal
       else if k = 4 then t.runTotal else if k = 5 then t.failSteals else t.tasks)))

/-- R330: LAUNCH carries the sixteen dwords of its record to a device queue that its guild may use. -/
def Sys2Proof.Claims.LaunchResults : Prop :=
  ∀ (s : State) (tid : Nat) (t : Thread) (rb ra : BitVec 6) (disp : BitVec 16),
    Begins s tid t → Free t → MessageRoom s t →
    let q := (t.arch.getX rb).toNat
    let va := addrM t.arch ra disp
    let ctl := (s.queue (crewPart t.crew) q).ctl
    q < 1024 → ctl.getLsbD 10 = true → ctl.getLsbD 11 = true → (ctl.extractLsb' 16 16 = t.arch.guild ∨ SysGuild s t) →
    va.toNat % 64 = 0 →
    ∀ l0 m1 l1 m2 r0 m3 r1 m4, Gives (locate .load va) (found s tid t) l0 m1 → Gives (locateAs .load 0x05 (va + 64) va) m1 l1 m2 →
      regionOf l0.pa = 0 → regionOf l1.pa = 0 → Gives (readWords l0 va 0 8) m2 r0 m3 → Gives (readWords l1 (va + 64) 0 8) m3 r1 m4 →
        Retires (.launch rb ra disp) s (carry (.task (.launch q (r0 ++ r1) t.arch.guild)) m4)

/-- R343, R344, R346: BAR and SSTEP end their chunk at a domain of their member; BARDOM carries a definition; and SSTEP its routines. -/
def Sys2Proof.Claims.BarrierResults : Prop :=
  ∀ (s : State) (tid : Nat) (t : Thread) (rb ra rc : BitVec 6) (dom : BitVec 4) (disp : BitVec 16),
    Begins s tid t → Free t →
    (MayArrive s t dom.toNat → Completes (.bar dom) s tid t (endsAs (.bar dom.toNat))) ∧
    (t.arch.depth = 0 → dom ≠ 0 →
      ((t.arch.getX rb).toNat = 0 ∨ (t.arch.getX rc).toNat ≠ 0 ∧
        (t.arch.getX ra).toNat + ((t.arch.getX rb).toNat - 1) * (t.arch.getX rc).toNat < crewSize s t) →
      Completes (.bardom rb ra rc dom) s tid t
        (carry (.bardom dom.toNat ⟨(t.arch.getX ra).toNat, (t.arch.getX rb).toNat, (t.arch.getX rc).toNat⟩))) ∧
    (MayArrive s t dom.toNat → (t.arch.getX rb).toNat ≤ 32 → (addrM t.arch ra disp).toNat % 32 = 0 →
      ∀ m1 rs m2, Gives (checkRoutines (addrM t.arch ra disp) (t.arch.getX rb).toNat) (found s tid t) () m1 →
        Gives (loadRoutines (addrM t.arch ra disp) (t.arch.getX rb).toNat) m1 rs m2 →
        Retires (.sstep dom rb ra disp) s (endsAs (.sstep dom.toNat rs) m2))

/-- R350-R357: XPH begins an arming with a valid tablature; XMIT, XSEL and XRCV add a request to it; XEND ends it and its chunk. -/
def Sys2Proof.Claims.ExchangeResults : Prop :=
  ∀ (s : State) (tid : Nat) (t : Thread) (d : BitVec 5) (rb ra : BitVec 6) (dom : BitVec 4) (rec' disp : BitVec 16),
    Begins s tid t →
    let va := addrM t.arch ra disp
    let a := t.arch.getX ra
    let m := found s tid t
    (Free t → First s t → MayArrive s t dom.toNat → va.toNat % 64 = 0 →
      ∀ l m1 x m2 rest m3, Gives (locate .load va) (endsAs .alone m) l m1 → regionOf l.pa = 0 → Gives (readLineAt l va) m1 x m2 →
        1 ≤ lineField x 2 2 → lineField x 2 2 ≤ 64 → Gives (readLines inHbm (va + 64) (lineField x 2 2 - 1)) m2 rest m3 →
        tabOk (x :: rest) (crewSize s t) = true →
          Retires (.xph dom ra disp) s
            (onAr (fun b => { b with arming := some ⟨dom.toNat, va, t.arch.pc, t.nextHead, x :: rest, [], false⟩ }) m3)) ∧
    (∀ g, Arms t g →
      (let r := rec'.toNat + (t.arch.getX rb).toNat
       let x := slotAt g.tab r
       (t.arch.getX rb).toNat < 512 → r < slotCount g.tab → x.own ≤ t.l → t.l < x.own + x.m → sentLines g.reqs + x.n ≤ 128 →
       (∀ k ls, XReq.xmit k ls ∈ g.reqs → k ≠ r) → OwnersOn s t x → stringPasses x.str (dieOf (coreOf tid)) (coreFret (coreOf tid)) = true →
       a.toNat % 64 = 0 →
         ∀ ls m1, Gives (readLines exchangePlace a x.n) m ls m1 →
           Retires (.xmit rb ra rec') s (onAr (armed (.xmit r ls)) m1)) ∧
      (∀ q m1, Gives (selection g rec' (t.arch.getX rb) false) m q m1 → a.toNat % 64 = 0 →
        ∀ ls m2, Gives (locateRun .store a 64 q.2.2.2.2) m1 ls m2 → (∀ l ∈ ls, exchangePlace l = true) →
          Retires (.xsel rb ra rec') s (onAr (armed (.xsel q.1 q.2.2.1 q.2.2.2.1 q.2.2.2.2 a (ls.map Loc.pa))) m2)) ∧
      (Fit s t [(d, 1)] → vecAllowed t.arch = true → ∀ q m1, Gives (selection g rec' (t.arch.getX rb) true) m q m1 →
        Retires (.xrcv d rb rec') s (onAr (armed (.xrcv q.1 q.2.2.1 q.2.2.2.1 d)) m1)) ∧
      Completes .xend s tid t fun m => endsAs .xend (onAr (fun b => { b with arming := some { g with ended := true } }) m))

/-- R55-R58, R371: GETS reads a register that its thread may read; SETS writes one that its thread may write with a value that the
register admits; fps is read and written once the thread's older chunks have put their flags into it, and the head waits until then;
pfdeny acts with its commit (R373), and policyver is read from memory (R401, R411). -/
def Sys2Proof.Claims.SystemRegisterAccess : Prop :=
  ∀ (s : State) (tid : Nat) (t : Thread) (d ra : BitVec 6) (n : BitVec 10), Begins s tid t → Free t →
    (MayRead s t n.toNat → FlagsIn t n.toNat → Completes (.gets d n) s tid t (putX d (srValue s tid t n.toNat))) ∧
    (∀ bs m1, Gives (readAt { pa := versionPa (crewPart t.crew), place := .bench 0 0x4000 } 0 4) (found s tid t) bs m1 →
      n = 0x030 → Retires (.gets d n) s (putX d (BitVec.ofNat 64 (ofBytes bs)) m1)) ∧
    (SysGuild s t → n = 0x042 → Completes (.gets d n) s tid t (putX d 0)) ∧
    (∀ a', MayWrite s t n.toNat → FlagsIn t n.toNat → srSet t.arch n.toNat (t.arch.getX ra) = some a' →
      Completes (.sets n ra) s tid t (onAr fun _ => a')) ∧
    (¬ FlagsIn t n.toNat → exec (.gets d n) s = .next (notIssued s tid) ∧
      ((srSet t.arch n.toNat (t.arch.getX ra)).isSome = true → exec (.sets n ra) s = .next (notIssued s tid))) ∧
    (SysGuild s t → n = 0x042 → Completes (.sets n ra) s tid t (carry (.pfdeny (t.arch.getX ra))))

/-- R7, R57, R58, R371: GETS or SETS of a handler's or the system's register without the right to it faults with cause 0x17 and the head;
a number that names no register, a write of a read-only one, and a value that the register does not admit, with cause 0x02 and the head
with its tail, which comes before 0x17 (R7). -/
def Sys2Proof.Claims.SystemRegisterRefusals : Prop :=
  ∀ (s : State) (tid : Nat) (t : Thread) (d ra : BitVec 6) (n : BitVec 10), Begins s tid t → First s t → t.older = [] → TakesNow t →
    let traps := fun (i : Instr) cause v => exec i s = .next (takeTrap (here s) tid { t with chunks := [] } cause v)
    (n.toNat ∈ trapRegNos ∧ t.arch.status.getLsbD 0 = false ∨ n.toNat ∈ [0x020, 0x040, 0x042] → ¬ SysGuild s t →
      traps (.gets d n) 0x17 ((headAt t).setWidth 16 |>.setWidth 64) ∧
      ((srSet t.arch n.toNat (t.arch.getX ra)).isSome = true ∨ n = 0x042 →
        traps (.sets n ra) 0x17 ((headAt t).setWidth 16 |>.setWidth 64))) ∧
    (n.toNat ∈ [0x006, 0x008, 0x020, 0x040] → srSet t.arch n.toNat (t.arch.getX ra) = none → traps (.sets n ra) 0x02 (headAt t)) ∧
    (n.toNat ∈ [0x000, 0x001, 0x002, 0x003, 0x004, 0x005, 0x007, 0x009, 0x017, 0x021, 0x030, 0x041, 0x050] →
      traps (.sets n ra) 0x02 (headAt t)) ∧
    (n.toNat ∉ openRegs ++ trapRegNos ++ [0x020, 0x030, 0x040, 0x042] → traps (.gets d n) 0x02 (headAt t) ∧ traps (.sets n ra) 0x02 (headAt t))

/-- R369, R389, R70: TRAP, BRK and an unassigned or illegal head fault with causes 0x15, 0x0F and 0x02; the first head of a chunk with
nothing older in flight takes its trap at once. -/
def Sys2Proof.Claims.FaultingHeads : Prop :=
  ∀ (s : State) (tid : Nat) (t : Thread) (n : BitVec 10) (tl : BitVec 2) (w : BitVec 64),
    Begins s tid t → First s t → t.older = [] → TakesNow t →
    let traps := fun (i : Instr) cause v => exec i s = .next (takeTrap (here s) tid { t with chunks := [] } cause v)
    (Free t → traps (.trap n) 0x15 (BitVec.ofNat 64 n.toNat) ∧ traps (.brk tl) 0x0F 0) ∧ traps (.illegalOpcode w) 0x02 w

/-- R370: TRET at handler level with an admissible saved status ends its chunk; status, repst and PC return, and a buffered
line that an IFLUSH has outdated is left (R41). -/
def Sys2Proof.Claims.TretResults : Prop :=
  ∀ (s : State) (tid : Nat) (t : Thread), Begins s tid t → Free t → t.arch.status.getLsbD 0 = true →
    tstatOk t.arch (((s.crew t.crew).map Crew.det).getD false) = true →
      Completes .tret s tid t fun m => endsAs .tret
        { onAr (fun a => { a with status := a.tstat, repst := a.trepst, trepst := 0 }) m with
          npc := t.arch.tpc, th := if t.stale = true then { m.th with fetch := none, stale := false } else m.th }

/-- R377-R380: a GATE that passes its checks pushes a link entry and ends its chunk; GRET and GRET.fail inside a gate end theirs.
Model choices it rests on: entries 27 (the entry read physically) and 55 (an edited frame). (notes/assumptions.) -/
def Obligations.GateResults : Prop :=
  ∀ (s : State) (tid : Nat) (t : Thread) (k : BitVec 10) (ra : BitVec 6), Begins s tid t → Free t →
    let base := t.arch.gtb.toNat / 2 ^ 12 % 2 ^ 45 * 4096
    let p := crewPart t.crew
    (base ≠ 0 → k.toNat ≤ t.arch.gtb.toNat % 2 ^ 10 → ∀ e m1, Gives (readEntry (base + 64 * k.toNat) 8) (found s tid t) (some e) m1 →
      let w := e.getD 0 0
      let stride := (e.getD 4 0).toNat % 2 ^ 32
      let fs := m1.frameSize (w.getLsbD 24)
      gateEntryOk e = true → m1.st.guildValid p (w.setWidth 16) = true →
      t.arch.guild.toNat &&& ((e.getD 2 0).toNat / 2 ^ 16 % 2 ^ 16) = (e.getD 2 0).toNat % 2 ^ 16 →
      t.arch.depth < w.toNat / 2 ^ 26 % 8 → t.arch.level = false →
      (e.getD 3 0).toNat % 64 = 0 → stride % 64 = 0 → fs ≤ stride →
        Retires (.gate k) s (endsAs (.gate k.toNat e) (onAr (fun a => { a with links := a.links ++
          [{ retPc := t.nextHead, gatePc := t.arch.pc, guild := t.arch.guild, tvec := t.arch.tvec, gtb := t.arch.gtb,
             vpol := w.getLsbD 24, nres := w.toNat / 2 ^ 20 % 16,
             fb := frameBase (e.getD 3 0) stride (m1.st.vcnReg tid % 2 ^ 19) (t.arch.depth + 1) fs }] })
          { m1 with st := m1.st.cacheGuild p (w.setWidth 16) }))) ∧
    (t.arch.depth ≠ 0 → Completes .gret s tid t (endsAs (.gret none)) ∧
      Completes (.gretFail ra) s tid t (endsAs (.gret (some (t.arch.getX ra)))))

/-- R375, R390, R393, R395: the code-line, TLB, recorder and marker instructions carry their effect; the privileged ones in a guild
with the system privilege. -/
def Sys2Proof.Claims.MaintenanceCommands : Prop :=
  ∀ (s : State) (tid : Nat) (t : Thread) (rb ra : BitVec 6) (n : BitVec 10) (sc : BitVec 1), Begins s tid t → Free t →
    let va := t.arch.getX ra
    let g := t.arch.getX rb
    (∀ l m1, Gives (locateAs .fetch 0x05 va va) (found s tid t) l m1 →
      Retires (.iflush ra) s (endsAs .cut (carry (.iflush false (l.pa / 64)) m1)) ∧
      Retires (.iflushAll ra) s (endsAs .cut (carry (.iflush true (l.pa / 64)) m1))) ∧
    Completes (.mark n) s tid t (carry (.mark n.toNat)) ∧
    (SysGuild s t → g.toNat < 2 ^ 16 →
      Completes (.tlbinvPage rb ra) s tid t (fun m => endsAs .cut (carry (.tlbinv 0 va (g.setWidth 16)) m)) ∧
      Completes (.tlbinvGuild rb ra) s tid t (fun m => endsAs .cut (carry (.tlbinv 1 va (g.setWidth 16)) m)) ∧
      Completes (.tlbinvAll rb ra) s tid t (fun m => endsAs .cut (carry (.tlbinv 2 va (g.setWidth 16)) m))) ∧
    (SysGuild s t → Completes (.freeze sc) s tid t (carry (.freeze true (sc == 1))) ∧
      Completes (.thaw sc) s tid t (carry (.freeze false (sc == 1))))

/-- R388: SNAP, alone in its chunk and in a guild with the system privilege, carries its descriptor to the grant. -/
def Sys2Proof.Claims.SnapshotRequestResults : Prop :=
  ∀ (s : State) (tid : Nat) (t : Thread) (d ra : BitVec 6), Begins s tid t → Free t → First s t → SysGuild s t →
    let va := t.arch.getX ra
    va.toNat % 64 = 0 → ∀ l m1 e m2 p, Gives (locate .load va) (endsAs .alone (found s tid t)) l m1 → regionOf l.pa = 0 →
      Gives (readWords l va 0 8) m1 e m2 → snapDescOk e = true → (e.getD 4 0).toNat % 8 = 0 →
      placeOf m2.st (crewPart t.crew) (e.getD 4 0).toNat = some p → regionOf p.pa ≤ 1 →
        Retires (.snap d ra) s (carry (.snap d e) m2)

/-- R301, R315, R323-R326, R330, R331: the task and counter messages, and LAUNCH.
Model choices it rests on: entry 4 (the value of cause 0x0A). (notes/assumptions.) -/
def Obligations.TaskMessageResults : Prop := Claims.TaskMessages ∧ Claims.LaunchResults

/-- R56-R58, R371: GETS and SETS, where they complete and where they fault.
Model choices it rests on: entries 15 (turns), 26 (0x02 before 0x17) and 53 (cause 0x0B of an armed thread). (notes/assumptions.) -/
def Obligations.SystemRegisterResults : Prop := Claims.SystemRegisterAccess ∧ Claims.SystemRegisterRefusals

/-- R70, R369, R370, R389: TRAP, BRK and illegal heads, and TRET.
Model choices it rests on: entries 4 (tnpc of an unknown line) and 15 (turns). (notes/assumptions.) -/
def Obligations.TrapResults : Prop := Claims.FaultingHeads ∧ Claims.TretResults

/-- R343, R344, R346, R350-R357: BAR, SSTEP and BARDOM, and the instructions of an exchange.
Model choices it rests on: entry 53 (cause 0x0B of an armed thread). (notes/assumptions.) -/
def Obligations.BarrierAndExchangeResults : Prop := Claims.BarrierResults ∧ Claims.ExchangeResults

/-- R375, R388, R390, R393, R395: the code-line, TLB, recorder and marker instructions, and SNAP.
Model choices it rests on: entries 27 (cached guild entries) and 29 (what a snapshot captures). (notes/assumptions.) -/
def Obligations.MaintenanceResults : Prop := Claims.MaintenanceCommands ∧ Claims.SnapshotRequestResults

namespace Sys2Proof.Claims

open Sys2Proof.Machine

/-- Halfword o of a line of 64 bytes (R36). -/
def halfAt (img : Line) (o : Nat) : Nat := img.toNat / 2 ^ (16 * o) % 65536

/-- The tail halfwords of the heads before head i (R37). -/
def tailsBefore (img : Line) : Nat → Nat
  | 0 => 0
  | i + 1 => tailsBefore img i + halfAt img (1 + i) / 256 % 4

/-- The instructions of a thread: what a code line can hold. -/
def OfThread (i : Instr) : Prop := i.bits ≠ 0 ∨ isIllegal i = true

/-- Every byte of memory reads as before. -/
def SameBytes (s s' : State) : Prop := ∀ pa, s'.readByte pa = s.readByte pa

/-- A canonical address, as its numbers (R133). -/
def isCanonical (va : Word) : Prop := va.toNat < 2 ^ 56 ∨ 2 ^ 64 - 2 ^ 56 ≤ va.toNat

/-- The first address of the local window (R134). -/
def windowStart : Nat := 0xFFFFFFFFFFE00000

/-- Entry k of a page table as memory holds it (R136). -/
def pte (s : State) (table k : Nat) : Word := s.readWord (table + 8 * k)

/-- A pointer entry (R137): V alone of bits [11:0], bits [63:57] zero; and the table it names. -/
def isPointer (e : Word) : Prop := e.toNat % 2 ^ 12 = 1 ∧ e.toNat < 2 ^ 57
def pointee (e : Word) : Nat := e.toNat / 2 ^ 12 * 2 ^ 12

/-- A leaf entry that maps 2^n bytes (R137): V and the leaf bit, bits [63:57], [15:10] and 5 zero, its frame aligned, and not W
without R. -/
def isLeaf (n : Nat) (e : Word) : Prop :=
  e.toNat % 4 = 3 ∧ e.toNat < 2 ^ 57 ∧ e.toNat / 2 ^ 10 % 2 ^ 6 = 0 ∧ e.toNat / 2 ^ 5 % 2 = 0 ∧ e.toNat / 2 ^ 16 % 2 ^ (n - 16) = 0 ∧
    (e.toNat / 2 ^ 3 % 2 = 1 → e.toNat / 2 ^ 2 % 2 = 1)

/-- What a leaf maps for a guild. -/
def leafEntry (g : BitVec 16) (va n : Nat) (e : Word) : TlbEntry where
  guild := g
  va := va / 2 ^ n * 2 ^ n
  size := 2 ^ n
  frame := e.toNat / 2 ^ 16 % 2 ^ 41 * 2 ^ 16
  swz := e.toNat / 2 ^ 6 % 2 ^ 4
  x := e.getLsbD 4
  w := e.getLsbD 3
  r := e.getLsbD 2

/-- The fault of an instruction that does nothing else (R70, R369, R389); outside an arming TRAP and BRK are such. -/
def faultOf (t : Thread) : Instr → Option (Nat × Word)
  | .trap n => if t.arch.arming = none then some (0x15, BitVec.ofNat 64 n.toNat) else none
  | .brk _ => if t.arch.arming = none then some (0x0F, 0) else none
  | .illegalOpcode w => some (0x02, w)
  | _ => none

/-- The registers on entry to a handler (R367), with the PC of the head after. -/
def inHandler (a : Arch) (next : Word) (cause : Nat) (v : Word) : Arch :=
  { a with tstat := a.status, tpc := a.pc, tnpc := next, tcause := BitVec.ofNat 64 cause, tval := v, trepst := a.repst,
           repst := 0, status := a.status ||| 1, pc := a.tvec, wdcount := if cause = 0x10 then 0 else a.wdcount }

/-- The registers that name a trap which is not entered (R368). -/
def named (a : Arch) (next : Word) (cause : Nat) (v : Word) : Arch :=
  { a with tpc := a.pc, tnpc := next, tcause := BitVec.ofNat 64 cause, tval := v }

/-- DBG of the thread's guild (R363). -/
def debugged (s : State) (t : Thread) : Bool := ((s.guildEntry (crewPart t.crew) t.arch.guild).getD 0 0).getLsbD 61

end Sys2Proof.Claims

/-- A step runs the decoded instruction: of an issued thread the head and tail that its line holds at its PC (R36, R37), of an
issued bench core the word at its PC (R396), what a commit brings about at once before anything else, and an event of the schedule
at its time; with nothing scheduled a nanosecond passes.
Model choices it rests on: entries 1 and 3 (the schedule and the order of a step). (notes/assumptions.) -/
def Obligations.StepRunsDecoded : Prop :=
  ∀ (s : State) (i : Instr),
    (∀ rest, s.due = i :: rest → step s = exec i { s with due := rest }) ∧
    (∀ tid t, s.due = [] → s.issuing = some (.thread tid) → s.thread tid = some t → decode t.headBits = i → step s = exec i s) ∧
    (∀ b, s.due = [] → s.issuing = some (.bench b) → decodeRv (benchWord (s.bench b)) = i → step s = exec i s) ∧
    (∀ dt rest, s.due = [] → s.issuing = none → s.agenda = (dt, .event i) :: rest → isEvent i = true → s.upkeep.romOnly = false →
      step s = exec i { s with time := s.time + dt, agenda := rest }) ∧
    (s.due = [] → s.issuing = none → s.agenda = [] → step s = .next { s with time := s.time + 1 })

/-- R36, R37, R70: the word that a thread decodes: the head at byte 2 + 2i of the line, i the head index of its PC, in bits [15:0], and
above it the halfwords of its tail, TL of them, from byte 64 - 2 S(i) - 2 downwards.
Model choices it rests on: entry 1 (the fetch buffer of State.withFetchWord). (notes/assumptions.) -/
def Obligations.HeadAndTail : Prop :=
  ∀ (t : Thread) (n : Nat) (img : Line), t.fetch = some (n, img) →
    let i := t.arch.pc.toNat % 64
    let tl := halfAt img (1 + i) / 256 % 4
    i < 31 → tailsBefore img i + tl ≤ 30 - i →
      t.headBits.toNat % 65536 = halfAt img (1 + i) ∧
      ∀ k, k < 3 → t.headBits.toNat / 2 ^ (16 * (k + 1)) % 65536 =
        if k < tl then halfAt img (31 - tailsBefore img i - k) else 0

/-- Words written out from the manual's own examples decode to the instructions they stand for (R87, R343, R371, R414), with a word
of each of some other families written from its encoding table (R77, R81, R93, R151). -/
def Obligations.DecodeWords : Prop :=
  decode 0x0000000611445248 = .ilv 20 1 5 4 6 ∧ decode 0x00000000004001E4 = .bar 1 ∧ decode 0x00000000024015F0 = .gets 5 9 ∧
  decode 0x0000000000000001 = .nop ∧ decode 0x0000000001C61520 = .add 5 0 7 6 ∧ decode 0x0000000000050505 = .jlr 1 5 ∧
  decode 0xFFFFFFFFFFC01740 = .li 5 (-1) ∧ decode 0x0000FFF860081650 = .ld 5 1 2 8 (-8) ∧
  decodeRv 0x00B4050B = .epWaitact 11 8 10 ∧ decodeRv 0x00C2900B = .epPubobs 12 5 0 ∧ decodeRv 0x02C2900B = .epEnd 12 5 ∧
  decodeRv 0x0000298B = .epInfo 0 19 ∧ decodeRv 0x00050E2B = .epRand 0 10 28 ∧ decodeRv 0x02050E2B = .epRandh 0 10 28

/-- Decode and encode agree: every well-formed instruction of a thread decodes back from its encoding, and so does every word of a bench
core (R36-R49, R396, R414). -/
def Obligations.EncodingRoundTrip : Prop :=
  ∀ i : Instr, (isIllegal i = false → i.bits ≠ 0 → i.wf = true → decode (encode i) = i) ∧
    ∀ w, encodeRv i = some w → decodeRv w = i

/-- R440: after a reset with every die present: one partition of eight dies, commit number 0, `policyver` 0, HBM zero, every bank in cache
mode, every episode slot FREE, and no crew, queue, event record or recorder entry.
Model choices it rests on: entry 5 (values that R440 does not give). (notes/assumptions.) -/
def Obligations.ResetState : Prop :=
  State.reset.modcfg = 1 ∧ (∀ d, d < 8 → State.reset.partOf d = 0) ∧ State.reset.partDies 0 = 8 ∧
    (State.reset.part 0).commitNo = 0 ∧ State.reset.policyver 0 = 0 ∧ (∀ pa, pa < 2 ^ 52 → State.reset.readByte pa = 0) ∧
    (∀ cl b, (State.reset.bank cl b).mode = 0) ∧ (∀ b, State.reset.phase b = 0) ∧ (∀ tid, State.reset.thread tid = none) ∧
    (∀ c, State.reset.crew c = none) ∧ (State.reset.part 0).queues = [] ∧ (State.reset.part 0).events = [] ∧
    ∀ c, (State.reset.core c).recorder = []

/-- Memory is in its canonical form at reset.
Model choices it rests on: entry 7: the form is the model's own. (notes/assumptions.) -/
def Obligations.MemCanonicalReset : Prop := MemCanonical State.reset

/-- Every step keeps memory in its canonical form.
Model choices it rests on: entry 7: the form is the model's own. (notes/assumptions.) -/
def Obligations.MemCanonicalStep : Prop := ∀ s s' : State, MemCanonical s → step s = .next s' → MemCanonical s'

/-- R25, R102: no instruction of a thread changes a committed byte: what it stores stays in its chunk until the grant. -/
def Obligations.ThreadsWriteNoMemory : Prop :=
  ∀ (i : Instr) (s s' : State), OfThread i → exec i s = .next s' → SameBytes s s'

/-- R98, R99, R101: a completed head leaves the rest of the machine as the head has left it; counts for its chunk and its watchdog;
moves the PC on; and ends the chunk where the head ends it, where the chunk reaches its limit, or, of a dynamic thread that neither
re-executes precisely nor returns to a denied access, where the hardware cuts. No other register changes: the sticky flags that the
chunk has raised stay with it until it commits (R55).
Model choices it rests on: entry 11 (the schedule chooses the cuts). (notes/assumptions.) -/
def Obligations.RetireFrame : Prop :=
  ∀ (m : Mach) (cut : Bool),
    let s' := m.retire cut
    let n := m.ch.count + m.counts
    let ends := decide (m.ch.limit ≤ n) || (cut && !m.ar.det && !m.ch.prec && m.th.denied.isNone)
    { s' with threads := m.st.threads } = m.st ∧ (∀ x, x ≠ m.tid → s'.thread x = m.st.thread x) ∧
    ∃ t' c', s'.thread m.tid = some t' ∧ t'.chunks = m.th.chunks ++ [c'] ∧ t'.run = m.th.run ∧
      t'.arch = { m.ar with
        pc := m.npc
        wdcount := if m.fin = some .yield ∨ m.fin = some .waita then 0 else m.ar.wdcount + m.counts } ∧
      c' = { m.ch with
        count := n
        fin := match m.fin with
          | some f => f
          | none => if ends then .cut else m.ch.fin
        stage := if m.fin.isSome || ends then .ended else m.ch.stage }

/-- R129: once the count has reached `wdlimit`, the next head, whichever instruction it is, does not execute: its chunk ends before it, or, as the first of its chunk
with nothing older in flight, cause 0x10 is taken with `wdlimit` as its value. -/
def Sys2Proof.Claims.WatchdogResults : Prop :=
  ∀ (s : State) (tid : Nat) (t : Thread), s.issuing = some (.thread tid) → s.thread tid = some t →
    t.arch.wdlimit ≠ 0 → t.arch.wdlimit.toNat ≤ t.arch.wdcount → ∀ i : Instr, OfThread i →
      (0 < (t.current (here s)).count →
        exec i s = .next ((here s).setThread tid (t.endChunk t.older (t.current (here s))))) ∧
      ((t.current (here s)).count = 0 → t.older = [] → TakesNow t →
        exec i s = .next (takeTrap (here s) tid { t with chunks := [] } 0x10 t.arch.wdlimit))

/-- R366: a fault at an instruction that k > 0 others precede in its chunk discards the chunk and lets the thread execute it again, in
precise mode, up to the k-th instruction; a first head behind an older chunk in flight waits for that chunk; and a fault of a
deterministic thread at either place waits for the thread's turn. In precise mode a chunk
ends after k instructions at most, and the hardware cuts none. -/
def Sys2Proof.Claims.PreciseFaults : Prop :=
  ∀ (s : State) (tid : Nat) (t : Thread) (i : Instr) (cause : Nat) (v : Word), Begins s tid t →
    faultOf t i = some (cause, v) →
    (∀ c, t.executing = some c → 0 < c.count → ¬ TakesNow t →
      exec i s = .next ((here s).setThread tid { t with chunks := t.older ++ [c], pending := some (.trap cause v) })) ∧
    (∀ c, t.executing = some c → 0 < c.count → TakesNow t → ∃ s' t', exec i s = .next s' ∧ s'.thread tid = some t' ∧ t'.arch = c.start ∧
      t'.chunks = t.older ∧ t'.precise = some c.count ∧ t'.run = .running ∧ (∀ x, x ≠ tid → s'.thread x = s.thread x) ∧
      s'.mem = s.mem) ∧
    (First s t → t.older ≠ [] → exec i s = .next ((here s).setThread tid { t with
      chunks := t.older, pending := some (.trap cause v) })) ∧
    (First s t → t.older = [] → (t.arch.det = false ∨ t.pending = some .turn →
        exec i s = .next (takeTrap (here s) tid { t with chunks := [] } cause v)) ∧
      (t.arch.det = true → t.pending ≠ some .turn →
        exec i s = .next ((here s).setThread tid { t with chunks := [], pending := some (.trap cause v) }))) ∧
    (∀ k, t.precise = some k → t.executing = none → (t.current s).limit = k ∧ (t.current s).prec = true) ∧
    ∀ c cut, (c : Chunk).prec = true → cutsHere t c cut = decide (c.limit ≤ c.count)

/-- R367, R368, R380: taking a trap. Below handler level and with a handler in `tvec`, the handler is entered with the registers saved; at handler
level outside a gate, on a breakpoint in a guild that is debugged, and with no handler outside a gate, the crew is to stop, its trap registers
naming the trap; inside a gate, at handler level or with no handler, the call is to unwind with its code (R380).
Model choices it rests on: entry 4 (tnpc of an unknown line). (notes/assumptions.) -/
def Obligations.TrapEntry : Prop :=
  ∀ (s : State) (tid : Nat) (t : Thread) (cause : Nat) (v : Word), cause ≠ 0x0B → cause ≠ 0x14 →
    let next := (nextOf s tid t).1
    let s' := takeTrap s tid t cause v
    let dbg := cause = 0x0F ∧ debugged s t = true
    (t.arch.level = false → ¬ dbg → t.arch.tvec ≠ 0 →
      ∃ t', s'.thread tid = some t' ∧ t'.arch = inHandler t.arch next cause v ∧ t'.run = .running) ∧
    ((t.arch.level = true ∧ t.arch.depth = 0) ∨ (t.arch.level = false ∧ (dbg ∨ t.arch.tvec = 0 ∧ t.arch.depth = 0)) →
      (∃ t', s'.thread tid = some t' ∧ t'.arch = named t.arch next cause v) ∧
      ∀ w, s.crew t.crew = some w → ∃ w', s'.crew t.crew = some w' ∧ w'.stopping = (w.stopping).or (some (cause, some t.l))) ∧
    (0 < t.arch.depth → (t.arch.level = true ∨ (t.arch.level = false ∧ ¬ dbg ∧ t.arch.tvec = 0)) →
      ∃ t', s'.thread tid = some t' ∧ t'.arch = t.arch ∧
        t'.micro = some (.unwind (BitVec.ofNat 64 (cause + 0x0E * 2 ^ 8 + t.arch.depth * 2 ^ 16)))) ∧
    SameBytes s s'

/-- R133, R134, R138, R139, R143: where an access goes. A non-canonical address is a page fault; the local window reaches a scratch bank
of its owner, once the cluster accepts commands (R432); a hit of the core's TLB gives the frame's address after its swizzle (R140) if
the leaf grants the access and something stands there, and faults with cause 0x07 otherwise. The set of the line in L1 is that of
the program's address (R102), and an access served ends its denial. -/
def Sys2Proof.Claims.AccessTranslation : Prop :=
  ∀ (m : Mach) (k : Access) (va : Word),
    (¬ isCanonical va → (locate k va).run m = .error (.page k.cause va) m) ∧
    (windowStart ≤ va.toNat →
      let b := (va.toNat - windowStart) / 2 ^ 16
      let o := (va.toNat - windowStart) % 2 ^ 16
      let bank := m.st.bank m.cluster b
      let held := m.st.held 3 m.cluster
      (held = true → (locate k va).run m = .error .wait m) ∧
      (held = false → b < 16 → bank.mode = 1 → bank.owner = m.ar.guild ∨ m.sys = true → (locate k va).run m = .ok
        { pa := 0x1F * 2 ^ 52 + m.cluster / 100 * 2 ^ 40 + m.cluster % 100 * 2 ^ 24 + b * 2 ^ 16 + o, place := .scratch b } m) ∧
      (held = false → 16 ≤ b ∨ bank.mode ≠ 1 ∨ bank.owner ≠ m.ar.guild ∧ m.sys = false → (locate k va).run m = .error (.fault 0x07 va) m)) ∧
    (isCanonical va → va.toNat < windowStart → ∀ e, tlbFind (m.st.core m.core).tlb m.ar.guild va.toNat = some e →
      let pa := swizzle e.swz (e.frame + va.toNat % 2 ^ 57 % e.size)
      (∀ l, e.grants k = true → placeOf m.st m.part pa = some l →
        (locate k va).run m = .ok { l with set := va.toNat / 2 ^ 6 % 2 ^ 6 } { m with th := m.th.served va }) ∧
      (e.grants k = false ∨ placeOf m.st m.part pa = none → (locate k va).run m = .error (.fault 0x07 va) m)) ∧
    (∀ e, (e : TlbEntry).grants .load = e.r ∧ e.grants .store = e.w ∧ e.grants .fetch = e.x)

/-- R136, R137: a page-table walk: five levels from the guild's root, leaves at the last three, none where an entry is neither a pointer
nor a leaf that its level allows. -/
def Sys2Proof.Claims.WalkResults : Prop :=
  ∀ (s : State) (p : Nat) (g : BitVec 16) (addr : Nat),
    let va := addr % 2 ^ 57
    let root := ((s.guildEntry p g).getD 0 0).toNat / 2 ^ 12 % 2 ^ 45 * 2 ^ 12
    let e0 := pte s root (va / 2 ^ 48 % 512)
    let e1 := pte s (pointee e0) (va / 2 ^ 39 % 512)
    let e2 := pte s (pointee e1) (va / 2 ^ 30 % 512)
    let e3 := pte s (pointee e2) (va / 2 ^ 21 % 512)
    let e4 := pte s (pointee e3) (va / 2 ^ 16 % 32)
    (isPointer e0 → isPointer e1 → isLeaf 30 e2 → walk s p g addr = some (leafEntry g va 30 e2)) ∧
    (isPointer e0 → isPointer e1 → isPointer e2 → isLeaf 21 e3 → walk s p g addr = some (leafEntry g va 21 e3)) ∧
    (isPointer e0 → isPointer e1 → isPointer e2 → isPointer e3 → isLeaf 16 e4 → walk s p g addr = some (leafEntry g va 16 e4)) ∧
    (¬ isPointer e0 ∨ isPointer e0 ∧ ¬ isPointer e1 ∨ isPointer e0 ∧ isPointer e1 ∧ ¬ isPointer e2 ∧ ¬ isLeaf 30 e2 ∨
      isPointer e0 ∧ isPointer e1 ∧ isPointer e2 ∧ ¬ isPointer e3 ∧ ¬ isLeaf 21 e3 ∨
      isPointer e0 ∧ isPointer e1 ∧ isPointer e2 ∧ isPointer e3 ∧ ¬ isLeaf 16 e4 → walk s p g addr = none)

/-- R129, R366: the watchdog's trap, and faults inside a chunk.
Model choices it rests on: entries 15 (turns) and 50 (a count above the limit). (notes/assumptions.) -/
def Obligations.FaultsArePrecise : Prop := Claims.WatchdogResults ∧ Claims.PreciseFaults

/-- R133, R134, R136-R140, R143: where an access goes, and the page-table walk.
Model choices it rests on: entry 27 (cached guild entries). (notes/assumptions.) -/
def Obligations.TranslationResults : Prop := Claims.AccessTranslation ∧ Claims.WalkResults

namespace Sys2Proof.Claims

open Sys2Proof.Machine

/-- Bench core b has been issued, and its next n bytes lie in its SRAM (R396, R398). -/
def BenchBegins (s : State) (b n : Nat) (e : Bench) : Prop :=
  s.issuing = some (.bench b) ∧ e = s.bench b ∧ e.pc.toNat + n ≤ 65536

/-- The machine once the issue of a bench core has been taken up. -/
def hereB (s : State) : State := { s with issuing := none }

/-- The instruction of n bytes retires, leaving the episode e but for its PC and its counts (R413). -/
def RetiresB (i : Instr) (s : State) (b : Nat) (e : Bench) (pc : Word) : Prop :=
  exec i s = .next ((hereB s).setBench b { e with pc := pc, steps := e.steps + 1, retired := e.retired + 1 })

/-- A field of an instruction. -/
def rvField (w : BitVec 32) (lo n : Nat) : Nat := w.toNat / 2 ^ lo % 2 ^ n
def rvReg (w : BitVec 32) (lo : Nat) : BitVec 5 := BitVec.ofNat 5 (rvField w lo 5)
/-- The immediates of formats I, S, B, U and J. -/
def immI (w : BitVec 32) : Int := (w.extractLsb' 20 12).toInt
def immS (w : BitVec 32) : Int := ((w.extractLsb' 25 7) ++ (w.extractLsb' 7 5)).toInt
def immB (w : BitVec 32) : Int := 2 * ((w.extractLsb' 31 1) ++ (w.extractLsb' 7 1) ++ (w.extractLsb' 25 6) ++ (w.extractLsb' 8 4)).toInt
def immU (w : BitVec 32) : Int := 4096 * (w.extractLsb' 12 20).toInt
def immJ (w : BitVec 32) : Int :=
  2 * ((w.extractLsb' 31 1) ++ (w.extractLsb' 12 8) ++ (w.extractLsb' 20 1) ++ (w.extractLsb' 21 10)).toInt

/-- A result of 32 bits, sign-extended. -/
def low32 (x : Int) : Word := (BitVec.ofInt 32 x).signExtend 64
/-- The signed reading of the low 32 bits. -/
def s32 (a : Word) : Int := (a.setWidth 32).toInt
def u32 (a : Word) : Nat := a.toNat % 2 ^ 32
/-- A quotient and a remainder toward zero; of a division by zero all ones and the dividend (R396). -/
def quot (a b : Int) : Int := if b = 0 then -1 else a.tdiv b
def rest (a b : Int) : Int := if b = 0 then a else a - b * a.tdiv b

/-- OP of RV64IM with Zba and the comparisons and negations of Zbb: opcode 0x33 by funct7 and funct3. -/
def rvOp (f7 f3 : Nat) (a b : Word) : Option Word :=
  let sh := b.toNat % 64
  match f7, f3 with
  | 0, 0 => some (BitVec.ofInt 64 (a.toInt + b.toInt))
  | 0x20, 0 => some (BitVec.ofInt 64 (a.toInt - b.toInt))
  | 0, 1 => some (BitVec.ofNat 64 (a.toNat * 2 ^ sh))
  | 0, 2 => some (bit (decide (a.toInt < b.toInt)))
  | 0, 3 => some (bit (decide (a.toNat < b.toNat)))
  | 0, 4 => some (a ^^^ b)
  | 0, 5 => some (BitVec.ofNat 64 (a.toNat / 2 ^ sh))
  | 0x20, 5 => some (BitVec.ofInt 64 (a.toInt / 2 ^ sh))
  | 0, 6 => some (a ||| b)
  | 0, 7 => some (a &&& b)
  | 1, 0 => some (BitVec.ofNat 64 (a.toNat * b.toNat))
  | 1, 1 => some (BitVec.ofInt 64 (a.toInt * b.toInt / 2 ^ 64))
  | 1, 2 => some (BitVec.ofInt 64 (a.toInt * b.toNat / 2 ^ 64))
  | 1, 3 => some (BitVec.ofNat 64 (a.toNat * b.toNat / 2 ^ 64))
  | 1, 4 => some (BitVec.ofInt 64 (quot a.toInt b.toInt))
  | 1, 5 => some (BitVec.ofInt 64 (quot a.toNat b.toNat))
  | 1, 6 => some (BitVec.ofInt 64 (rest a.toInt b.toInt))
  | 1, 7 => some (BitVec.ofInt 64 (rest a.toNat b.toNat))
  | 0x10, 2 => some (BitVec.ofNat 64 (a.toNat * 2 + b.toNat))
  | 0x10, 4 => some (BitVec.ofNat 64 (a.toNat * 4 + b.toNat))
  | 0x10, 6 => some (BitVec.ofNat 64 (a.toNat * 8 + b.toNat))
  | 5, 4 => some (BitVec.ofInt 64 (min a.toInt b.toInt))
  | 5, 5 => some (BitVec.ofNat 64 (min a.toNat b.toNat))
  | 5, 6 => some (BitVec.ofInt 64 (max a.toInt b.toInt))
  | 5, 7 => some (BitVec.ofNat 64 (max a.toNat b.toNat))
  | 0x20, 4 => some (a ^^^ BitVec.ofInt 64 (-1 - b.toInt))
  | 0x20, 6 => some (a ||| BitVec.ofInt 64 (-1 - b.toInt))
  | 0x20, 7 => some (a &&& BitVec.ofInt 64 (-1 - b.toInt))
  | _, _ => none

/-- OP-32: opcode 0x3B. -/
def rvOpW (f7 f3 : Nat) (a b : Word) : Option Word :=
  let sh := b.toNat % 32
  match f7, f3 with
  | 0, 0 => some (low32 (s32 a + s32 b))
  | 0x20, 0 => some (low32 (s32 a - s32 b))
  | 0, 1 => some (low32 (u32 a * 2 ^ sh : Nat))
  | 0, 5 => some (low32 (u32 a / 2 ^ sh : Nat))
  | 0x20, 5 => some (low32 (s32 a / 2 ^ sh))
  | 1, 0 => some (low32 (s32 a * s32 b))
  | 1, 4 => some (low32 (quot (s32 a) (s32 b)))
  | 1, 5 => some (low32 (quot (u32 a) (u32 b)))
  | 1, 6 => some (low32 (rest (s32 a) (s32 b)))
  | 1, 7 => some (low32 (rest (u32 a) (u32 b)))
  | 4, 0 => some (BitVec.ofNat 64 (u32 a + b.toNat))
  | _, _ => none

/-- OP-IMM and OP-IMM-32 on an immediate. -/
def rvImm (f3 : Nat) (a : Word) (k : Int) : Option Word :=
  match f3 with
  | 0 => some (BitVec.ofInt 64 (a.toInt + k))
  | 2 => some (bit (decide (a.toInt < k)))
  | 3 => some (bit (decide (a.toNat < (BitVec.ofInt 64 k).toNat)))
  | 4 => some (a ^^^ BitVec.ofInt 64 k)
  | 6 => some (a ||| BitVec.ofInt 64 k)
  | 7 => some (a &&& BitVec.ofInt 64 k)
  | _ => none

/-- The register result of an integer instruction of 32 bits that neither transfers control nor reaches memory. -/
def rvResult (w : BitVec 32) (pc a b : Word) : Option Word :=
  match rvField w 0 7 with
  | 0x37 => some (BitVec.ofInt 64 (immU w))
  | 0x17 => some (BitVec.ofInt 64 (pc.toInt + immU w))
  | 0x33 => rvOp (rvField w 25 7) (rvField w 12 3) a b
  | 0x3B => rvOpW (rvField w 25 7) (rvField w 12 3) a b
  | 0x13 =>
    match rvField w 12 3, rvField w 26 6 with
    | 1, 0 => some (BitVec.ofNat 64 (a.toNat * 2 ^ rvField w 20 6))
    | 5, 0 => some (BitVec.ofNat 64 (a.toNat / 2 ^ rvField w 20 6))
    | 5, 0x10 => some (BitVec.ofInt 64 (a.toInt / 2 ^ rvField w 20 6))
    | f3, _ => rvImm f3 a (immI w)
  | 0x1B =>
    match rvField w 12 3, rvField w 25 7 with
    | 0, _ => some (low32 (s32 a + immI w))
    | 1, 0 => some (low32 (u32 a * 2 ^ rvField w 20 5 : Nat))
    | 5, 0 => some (low32 (u32 a / 2 ^ rvField w 20 5 : Nat))
    | 5, 0x20 => some (low32 (s32 a / 2 ^ rvField w 20 5))
    | _, _ => none
  | _ => none

/-- A branch is taken. -/
def rvBranch (f3 : Nat) (a b : Word) : Option Bool :=
  match f3 with
  | 0 => some (decide (a = b))
  | 1 => some (decide (a ≠ b))
  | 4 => some (decide (a.toInt < b.toInt))
  | 5 => some (decide (b.toInt ≤ a.toInt))
  | 6 => some (decide (a.toNat < b.toNat))
  | 7 => some (decide (b.toNat ≤ a.toNat))
  | _ => none

/-- What EP.INFO reads (R417), from the descriptor as of the START. -/
def infoItem (e : Bench) (item : Nat) : Word :=
  let d := fun off : Nat => e.desc.getD (off / 8) 0
  if item = 0 then d 0x30
  else if item = 1 then d 0x38
  else if item = 2 then BitVec.ofNat 64 ((d 0).toNat / 8 % 4)
  else if item = 3 then BitVec.ofNat 64 ((d 0xC0).toNat / 2 ^ 32)
  else if item = 4 then d 0xC8
  else if item = 5 then BitVec.ofNat 64 ((d 0x18).toNat % 2 ^ 40)
  else if item = 6 then BitVec.ofNat 64 ((d 0x20).toNat % 2 ^ 40)
  else BitVec.ofNat 64 (((List.range 4).filter fun w => decide ((d (0x88 + 16 * w)).toNat % 2 ^ 25 ≠ 0)).map fun w => 2 ^ w).sum

/-- The control word of EP.PUBOBS and EP.END is admissible, and its payload lies in private SRAM (R416). -/
def PublishOk (e : Bench) (rs1 rs2 : BitVec 5) : Prop :=
  let ctl := e.getX rs2
  ctl.toNat / 2 ^ 12 % 2 ^ 20 = 0 ∧ ctl.toNat % 2 ^ 12 ≤ 4064 ∧
    (ctl.toNat % 2 ^ 12 = 0 ∨ (e.getX rs1).toNat + ctl.toNat % 2 ^ 12 ≤ 65536)

/-- What they publish (R408, R416). -/
def published (s : State) (b : Nat) (e : Bench) (rs1 rs2 : BitVec 5) (status : Nat) : List Host.Cell :=
  s.publication b status (e.getX rs2) (e.steps + 1) (Memory.readRun e.sram (e.getX rs1).toNat ((e.getX rs2).toNat % 2 ^ 12))

end Sys2Proof.Claims

/-- R396, R398, R413: integer instructions of a bench core: RV64IM on registers and immediates, the additions of Zba on 64 bits and some of
Zbb, LUI and AUIPC, jumps and branches, FENCE, loads and stores in its private SRAM, and C.ADDI, C.LI, C.MV and C.ADD. Nothing
else changes. -/
def Sys2Proof.Claims.BenchIntegerResults : Prop :=
  (∀ (s : State) (b : Nat) (e : Bench) (w : BitVec 32), BenchBegins s b 2 e →
    let rd := rvReg w 7
    let next := e.pc + 2
    let k := ((w.extractLsb' 12 1) ++ (w.extractLsb' 2 5)).toInt
    (w.toNat % 4 = 1 → rvField w 13 3 = 0 → RetiresB (.benchInstruction w) s b (e.setX rd (BitVec.ofInt 64 ((e.getX rd).toInt + k))) next) ∧
    (w.toNat % 4 = 1 → rvField w 13 3 = 2 → RetiresB (.benchInstruction w) s b (e.setX rd (BitVec.ofInt 64 k)) next) ∧
    (w.toNat % 4 = 2 → rvReg w 2 ≠ 0 →
      (rvField w 12 4 = 8 → RetiresB (.benchInstruction w) s b (e.setX rd (e.getX (rvReg w 2))) next) ∧
      (rvField w 12 4 = 9 → RetiresB (.benchInstruction w) s b (e.setX rd (e.getX rd + e.getX (rvReg w 2))) next))) ∧
  ∀ (s : State) (b : Nat) (e : Bench) (w : BitVec 32), BenchBegins s b 4 e → w.toNat % 4 = 3 →
    let rd := rvReg w 7
    let x := e.getX (rvReg w 15)
    let y := e.getX (rvReg w 20)
    let f3 := rvField w 12 3
    let op := rvField w 0 7
    let next := e.pc + 4
    (∀ v, rvResult w e.pc x y = some v → RetiresB (.benchInstruction w) s b (e.setX rd v) next) ∧
    (op = 0x6F → RetiresB (.benchInstruction w) s b (e.setX rd next) (BitVec.ofInt 64 (e.pc.toInt + immJ w))) ∧
    (op = 0x67 → f3 = 0 →
      RetiresB (.benchInstruction w) s b (e.setX rd next) (BitVec.ofNat 64 ((BitVec.ofInt 64 (x.toInt + immI w)).toNat / 2 * 2))) ∧
    (∀ t, op = 0x63 → rvBranch f3 x y = some t →
      RetiresB (.benchInstruction w) s b e (if t then BitVec.ofInt 64 (e.pc.toInt + immB w) else next)) ∧
    (op = 0x0F → f3 ≤ 1 → RetiresB (.benchInstruction w) s b e next) ∧
    (let va := BitVec.ofInt 64 (x.toInt + immI w)
     let n := 2 ^ (f3 % 4)
     let v := ofBytes (Memory.readRun e.sram va.toNat n)
     op = 0x03 → f3 ≠ 7 → va.toNat % n = 0 → va.toNat + n ≤ 65536 →
       RetiresB (.benchInstruction w) s b
         (e.setX rd (if f3 < 4 ∧ 2 ^ (8 * n - 1) ≤ v then BitVec.ofInt 64 ((v : Int) - (2 ^ (8 * n) : Nat)) else BitVec.ofNat 64 v)) next) ∧
    (let va := BitVec.ofInt 64 (x.toInt + immS w)
     op = 0x23 → f3 ≤ 3 → va.toNat % 2 ^ f3 = 0 → va.toNat + 2 ^ f3 ≤ 65536 →
       RetiresB (.benchInstruction w) s b
         { e with sram := Memory.writeRun e.sram va.toNat (bytesOf (2 ^ f3) (y.toNat % 2 ^ (8 * 2 ^ f3))) } next)

/-- R397, R413: an illegal instruction of a bench core, and one whose bytes leave its SRAM, end its episode with status FAULT: the code, the
PC, and the instruction or the address. -/
def Sys2Proof.Claims.BenchFaults : Prop :=
  ∀ (s : State) (b : Nat) (w : BitVec 32), s.issuing = some (.bench b) →
    let e := s.bench b
    let ends := fun code v => exec (.benchInstruction w) s =
      .next ((hereB s).endEpisode b 4 (bytesOf 8 code ++ bytesOf 8 e.pc.toNat ++ bytesOf 8 v))
    (w.toNat % 128 = 0x77 → e.pc.toNat + 4 ≤ 65536 → ends 2 (sramWord e).toNat) ∧
    (w = 0x00000073 → e.pc.toNat + 4 ≤ 65536 → ends 8 (sramWord e).toNat) ∧
    (w = 0x00100073 → e.pc.toNat + 4 ≤ 65536 → ends 3 (sramWord e).toNat) ∧
    (65536 < e.pc.toNat + 2 → ends 1 e.pc.toNat)

/-- R417, R418: EP.INFO writes the item of the descriptor as of the START, and EP.VER `policyver`. -/
def Obligations.EpisodeInfoResults : Prop :=
  ∀ (s : State) (b : Nat) (e : Bench) (item : BitVec 3) (d : BitVec 5), BenchBegins s b 4 e →
    RetiresB (.epInfo item d) s b (e.setX d (infoItem e item.toNat)) (e.pc + 4) ∧
    RetiresB (.epVer d) s b (e.setX d (BitVec.ofNat 64 (s.policyver (s.benchPart b)))) (e.pc + 4)

/-- R415, R416, R419: the other EP instructions: EP.RAND and EP.RANDH put their value into xd; EP.PUBOBS publishes an observation as one
commit and begins the next step; EP.END publishes the last one and stops the episode; EP.WAITACT takes the recorded action, or waits.
Model choices it rests on: entry 19 (the terminal observation and PEND). (notes/assumptions.) -/
def Obligations.EpisodeInstructionResults : Prop :=
  ∀ (s : State) (b : Nat) (e : Bench) (rs2 rs1 d : BitVec 5), BenchBegins s b 4 e →
    let s1 := hereB s
    let p := s.benchPart b
    let next := e.pc + 4
    RetiresB (.epRand rs2 rs1 d) s b (e.setX d (BitVec.ofNat 64 (epRandom e rs2 rs1 % 2 ^ 64))) next ∧
    RetiresB (.epRandh rs2 rs1 d) s b (e.setX d (BitVec.ofNat 64 (epRandom e rs2 rs1 / 2 ^ 64))) next ∧
    (PublishOk e rs1 rs2 → (e.eplast = BitVec.allOnes 64 ∨ e.taken = true) →
      s.benchBlocked p (published s b e rs1 rs2 0) = false →
        let s2 := s1.benchWrite p (published s b e rs1 rs2 0)
        let no := (s2.part p).commitNo
        exec (.epPubobs rs2 rs1 d) s = .next (s2.setBench b
          { (({ e with eplast := e.eplast + 1, pubs := e.pubs + 1, steps := 0, stepNs := 0, seen := s2.time, taken := false, vsw := false,
                       resv := (s2.bench b).resv } : Bench).setX d (e.eplast + 1))
            with pc := next, retired := e.retired + 1,
                 unacked := (e.unacked.map fun u => (u.1, u.2 || decide (u.1 = no))) ++ [(no, true)] })) ∧
    (PublishOk e rs1 rs2 → s.benchBlocked p (published s b e rs1 rs2 1) = false →
      ∃ e', exec (.epEnd rs2 rs1) s = .next ((s1.benchWrite p (published s b e rs1 rs2 1)).setBench b e') ∧
        e'.running = false ∧ e'.eplast = e.eplast + 1 ∧ e'.pubs = e.pubs + 1 ∧ e'.action = none ∧ e'.x = e.x ∧ e'.sram = e.sram) ∧
    (let n := min (e.getX rs2).toNat 4080
     e.eplast ≠ BitVec.allOnes 64 → e.taken = false → (n = 0 ∨ (e.getX rs1).toNat + n ≤ 65536) →
      (e.action = none → exec (.epWaitact rs2 rs1 d) s =
        .next (s1.setBench b { e.tick s.time with waiting := some (d, (e.getX rs1).toNat, n) })) ∧
      (∀ a, e.action = some a → a.superseded = false → e.suspended = false → e.ending = none →
        s.benchBlocked p (s.pendCells b) = false →
          ∃ e' s', exec (.epWaitact rs2 rs1 d) s = .next (s'.commitCells p (s.pendCells b)) ∧ s' = s1.setBench b e' ∧
            e'.sram = Memory.writeRun e.sram (e.getX rs1).toNat (a.payload.take n) ∧ e'.getX d = (if d = 0 then 0 else a.aseq) ∧
            e'.action = none ∧ e'.taken = true ∧ e'.vsw = a.vsw ∧ e'.pc = next ∧ e'.steps = e.steps + 1))

/-- R396-R398, R413: the integer instructions of a bench core, and its exceptions.
Model choices it rests on: entries 16, 17 and 18 (RISC-V semantics, precedence and payload of exceptions). (notes/assumptions.) -/
def Obligations.BenchInstructionResults : Prop := Claims.BenchIntegerResults ∧ Claims.BenchFaults

namespace Sys2Proof.Claims

open Sys2Proof.Machine

/-- The event goes to a state. -/
def Goes (i : Instr) (s s' : State) : Prop := exec i s = .next s'

/-- The thread's crew is deterministic. -/
def isDet (s : State) (t : Thread) : Bool := (s.crew t.crew).any Crew.det

/-- A report as a ring's record holds it (R374): its ring and four dwords. -/
def reportOf (s : State) (p : Nat) (ring : Option (BitVec 16)) (kind cause vcn l guild crew : Nat) (d2 : Word) : EventRec where
  ring := ring
  words := [BitVec.ofNat 64 (kind * 2 ^ 56 + cause * 2 ^ 48 + vcn * 2 ^ 19 + l),
            BitVec.ofNat 64 (guild * 2 ^ 48 + p * 2 ^ 32 + crew % 2 ^ 32), d2, BitVec.ofNat 64 s.time]

/-- A report of a thread, under a guild, joins those of its partition. -/
def Reports (s s' : State) (tid : Nat) (t : Thread) (g : BitVec 16) (ring : Option (BitVec 16)) (kind cause : Nat) (d2 : Word) : Prop :=
  let p := crewPart t.crew
  (s'.part p).events = (s.part p).events ++ [reportOf s p ring kind cause (s.vcnReg tid) t.l g.toNat t.crew d2]

/-- The guild under which a thread's next access is made: that of the entry for a frame chunk to run (R379), else the thread's. -/
def accessesAs (t : Thread) : BitVec 16 :=
  match t.micro with
  | some (.gate _ e) => (e.getD 0 0).setWidth 16
  | _ => t.arch.guild

/-- Slot k of a core is the first ready one after the slot that issued last (R71), of those that the schedule does not let wait for a
latency (R73, R74). -/
def FirstReady (s : State) (core k : Nat) (late : BitVec 16) : Prop :=
  let may := fun k => s.ready (core * 16 + k) = true ∧ late.getLsbD k = false
  ∃ j, j < 16 ∧ k = ((s.core core).rr + 1 + j) % 16 ∧ may k ∧ ∀ i, i < j → ¬ may (((s.core core).rr + 1 + i) % 16)

/-- A core's slot marked as the last to issue, with the one before it. -/
def issuedBy (s : State) (core k : Nat) : State := s.setCore core { s.core core with rr := k, rrWas := (s.core core).rr }

/-- A packet on its way from a fret to another. -/
def sends (s : State) (cls src fret dest : Nat) (load : Payload) : State :=
  { s with net := s.net ++ [(s.nextId, { cls, src, fret, dest, load, ride := .waiting s.nextId })], nextId := s.nextId + 1 }

/-- A thread whose next head may begin, but for the line at its PC (R73). -/
def NeedsLine (s : State) (tid : Nat) (t : Thread) : Prop :=
  s.thread tid = some t ∧ s.runs t = true ∧ t.micro = none ∧ t.lineReady = false ∧ s.mayBegin tid t = true

/-- The thread with the image of the line of its PC in its fetch buffer. -/
def withLine (t : Thread) (img : Line) : Thread :=
  { t with fetch := some (t.arch.pc.toNat / 64, img), stale := false, absent := none, replies := [] }

/-- The address of the line at a PC, and the head index in it (R39). -/
def lineVa (t : Thread) : Word := BitVec.ofNat 64 (t.arch.pc.toNat / 64 * 64)
def headIndex (t : Thread) : Nat := t.arch.pc.toNat % 64

/-- The core may take a line anew: its image of it is forgotten (R41). -/
def forgets (s : State) (core pa : Nat) : State :=
  s.setCore core { s.core core with icache := assocDrop (pa / 64) (s.core core).icache }

/-- A packet taken by its unit, whose acknowledgement sets out in class 1 (R337). -/
def taken (s : State) (pkt : Nat) (k : Packet) : State :=
  { s with net := (s.net.map fun e => if e.1 = pkt then (e.1, { e.2 with ride := .taken }) else e) ++
             [(s.nextId, { cls := 1, src := k.fret, fret := k.src, dest := 0, load := .ack pkt, ride := .waiting s.nextId })],
           nextId := s.nextId + 1 }

/-- A packet elsewhere on its way. -/
def rides (s : State) (pkt : Nat) (r : Ride) : State :=
  { s with net := s.net.map fun e => if e.1 = pkt then (e.1, { e.2 with ride := r }) else e }

/-- The oldest chunk of a thread, ended and waiting for nothing of its own (R103, R111). -/
def MayRequest (s : State) (tid : Nat) (t : Thread) (c : Chunk) (more : List Chunk) : Prop :=
  s.thread tid = some t ∧ t.chunks = c :: more ∧ c.stage = .ended ∧ t.refused = false ∧ s.mayGrant t c = true ∧
    (more = [] → (s.core (coreOf tid)).busy tid = false) ∧ ∀ f ∈ (s.core (coreOf tid)).fills, f.line ∉ c.lines

/-- A request of a dynamic crew that has reached its arbiter (R336), which serves it next (R117), no word of it waiting for an SPOST
(R178). -/
def AtArbiter (s : State) (tid : Nat) (t : Thread) (c : Chunk) : Prop :=
  s.thread tid = some t ∧ t.waiting = some c ∧ s.mayGrant t c = true ∧ isDet s t = false ∧ s.isFirst tid t c = true ∧
    s.postHeld none c.dwords = false ∧ s.requestOut tid = false

/-- It meets neither a commit that has still to reach its core nor an older aged chunk (R114, R117). -/
def Unmet (s : State) (tid : Nat) (t : Thread) (c : Chunk) : Prop :=
  s.undelivered (coreOf tid) (crewPart t.crew) c = false ∧ s.agedMeets (crewPart t.crew) c.born tid c.writes = false

/-- A chunk that holds plain bytes of HBM alone. -/
def PlainBytes (s : State) (p : Nat) (c : Chunk) : Prop :=
  c.atom = none ∧ c.effects = [] ∧ c.banked = [] ∧ c.fin ≠ .halt ∧ (c.buf.map Prod.fst).Nodup ∧
    ∀ x ∈ c.buf, x.1 < 2 ^ 52 ∧ s.beyond p x.1 = false

/-- A granted chunk for which nothing is out any more, the homes of its lines not held (R114, R433). -/
def Delivered (s : State) (tid : Nat) (t : Thread) (c : Chunk) (more : List Chunk) (no : Nat) : Prop :=
  s.thread tid = some t ∧ t.chunks = c :: more ∧ c.stage = .granted no ∧ (s.core (coreOf tid)).unclaimed tid = none ∧
    (∃ m ∈ s.commits, m.part = crewPart t.crew ∧ m.no = no ∧ m.tid = some tid ∧ m.cores = [] ∧ m.fars = 0 ∧ m.msgs = 0) ∧
    (∀ b ∈ s.backInv, b.2.1 = crewPart t.crew → b.2.2 ≠ no) ∧ (∀ x ∈ c.buf, s.homeHeld (x.1 / 64) = false) ∧ (∀ a, c.atom = some a → (replyOf t a.pa a.n).isSome = true) ∧
    (∀ e ∈ c.effects, s.effectDone tid (crewPart t.crew) no e = true) ∧ s.postsOut tid (crewPart t.crew) c = false

/-- The registers with the sticky flags of a committed chunk in `fps` (R55). -/
def flagsIn (f : BitVec 5) (a : Arch) : Arch := { a with fps := a.fps ||| f.setWidth 64 }

/-- A crew whose turn may be taken (R119, R316, R342): the task messages of the turn before are applied; the arrivals that it brought are
noted, which gives the crew as w; no release stands before the turn; and its member at the turn is thread tid. -/
def TurnOf (s : State) (crew : Nat) (w : Crew) (tid : Nat) (t : Thread) : Prop :=
  (∃ w0, s.crew crew = some w0 ∧ w0.det = true ∧ w0.stopped = none ∧ w0.stopping = none ∧
    ∀ m ∈ s.commits, 0 < m.msgs → ∀ x, m.tid = some x → ∀ e ∈ w0.members, e.2 ≠ x) ∧
  (s.noteArrivals crew).crew crew = some w ∧ ¬ (w.turn = 0 ∧ ∃ e ∈ w.releaseAt, e.2 ≤ w.round) ∧ w.spent = false ∧
    assocGet? w.turn w.members = some tid ∧ s.thread tid = some t

/-- The turn of a crew passed on (R119). -/
def passOn (s : State) (crew : Nat) (w : Crew) : State :=
  s.setCrew crew (if w.turn + 1 < w.members.length then { w with turn := w.turn + 1, spent := false }
    else { w with turn := 0, round := w.round + 1, spent := false })

/-- The thread has no chunk that waits for its grant. -/
def NoneToGrant (t : Thread) : Prop := ∀ c, t.chunks.head? = some c → c.ungranted = true → c.stage = .executing

/-- The chunk of a deterministic member that asks for its grant at its turn. -/
def AtTurn (s : State) (tid : Nat) (t : Thread) (c : Chunk) : Prop :=
  t.chunks.head? = some c ∧ c.stage = .requested ∧ s.grantable tid t c = true ∧ s.isFirst tid t c = true ∧
    s.refusedMsg [] c.messages = none ∧ Unmet s tid t c ∧ s.refusal (crewPart t.crew) t c = none

/-- A directory entry with one more holder, its scope no narrower than the unit that holds them all (R112). -/
def joined (d : Dir) (core : Nat) : Dir :=
  { holders := d.holders ++ [core], scope := max d.scope (scopeOf (core :: d.holders)), asking := d.asking.erase core }

end Sys2Proof.Claims

/-- R38, R71-R73, R97, R125, R126, R139, R217, R267, R288, R300: what brings a head to execution: the issue of the first ready slot, the arrival
and check of a line, or the check of the one that stands in the buffer, the end of a walk, which reads the tables with every far atomic
that is released applied, the SFU's result, and the ends of waits.
Model choices it rests on: entries 1, 9 (slots that wait for a latency), 10, 15, 52 and 56. (notes/assumptions.) -/
def Obligations.IssueEvents : Prop :=
  ∀ (s : State) (tid core : Nat) (t : Thread),
    (∀ k cut late, FirstReady s core k late → s.thread (core * 16 + k) = some t →
      (t.micro = none → Goes (.issue core ⟨cut, late⟩) s
        { issuedBy s core k with issuing := some (.thread (core * 16 + k)), cutNow := cut }) ∧
      ∀ f, t.micro = some f → Goes (.issue core ⟨cut, late⟩) s (runMicro (issuedBy s core k) (core * 16 + k) t f)) ∧
    (NeedsLine s tid t → ∀ img cached, t.fetch = some (t.arch.pc.toNat / 64, img) → (t.current s).count = 0 → t.older = [] →
      TakesNow t → Goes (.lineArrival tid cached) s (takeTrap s tid { withLine t img with chunks := [] } 0x01
        (BitVec.ofNat 64 (lineReason img (headIndex t))))) ∧
    (NeedsLine s tid t → (∀ f, t.fetch = some f → f.1 ≠ t.arch.pc.toNat / 64) →
      (∀ img m, Gives (fetchLine (lineVa t)) (Mach.start s tid t) img m →
        (lineReason img (headIndex t) = 0 → Goes (.lineArrival tid true) s
          (m.st.setThread tid (withLine { t with denied := m.th.denied } img))) ∧
        (lineReason img (headIndex t) ≠ 0 → (t.current s).count = 0 → t.older = [] → TakesNow t →
          Goes (.lineArrival tid true) s (takeTrap m.st tid { withLine { t with denied := m.th.denied } img with chunks := [] } 0x01
            (BitVec.ofNat 64 (lineReason img (headIndex t)))))) ∧
      (∀ e s1 img m, tlbLookup s (coreOf tid) t.arch.guild (lineVa t).toNat = some (e, s1) →
        Gives (fetchLine (lineVa t)) (Mach.start (forgets s (coreOf tid) (e.pa (lineVa t).toNat)) tid t) img m →
        lineReason img (headIndex t) = 0 →
          Goes (.lineArrival tid false) s (m.st.setThread tid (withLine { t with denied := m.th.denied } img)))) ∧
    (∀ cl i w, (s.cluster cl).walks[i]? = some w → (∀ f ∈ s.fars, s.farReady f = true) →
      let s1 := s.setCluster cl { s.cluster cl with walks := (s.cluster cl).walks.eraseIdx i }
      let leaf := walk s.settleAll (s.partOf (cl / 100)) w.guild (w.page * 2 ^ 16)
      (∀ e, leaf = some e → Goes (.pageWalkEnd cl i) s
        (s1.setCluster cl { s1.cluster cl with tlb := (e :: (s.cluster cl).tlb).take 4096 })) ∧
      (leaf = none → ∃ s', Goes (.pageWalkEnd cl i) s s' ∧ SameBytes s s' ∧
        (∀ x, (∀ y ∈ w.waiters, y.tid ≠ x) → s'.thread x = s.thread x) ∧
        ∀ x u, s.thread x = some u → (∃ y ∈ w.waiters, y.tid = x) → s'.thread x = some { u with absent := some (w.guild, w.page) })) ∧
    (∀ e es, (s.core core).sfu = e :: es → s.thread e.tid = some t →
      Goes (.sfuResult core) s ((s.setCore core { s.core core with sfu := es }).setThread e.tid
        { t with arch := t.arch.setV e.v e.value })) ∧
    (s.thread tid = some t →
      (∀ w, t.run = .watch w true → isDet s t = false → Goes (.waitaEvaluation tid) s (s.setThread tid { t with run := .running })) ∧
      (∀ w b, t.run = .watch w b → w.polls = true → w.due ≤ s.time → isDet s t = false →
        Goes (.pollInterval tid) s (s.setThread tid { t with run := .running })) ∧
      (∀ d, t.run = .matrix d → matrixOut s tid = 0 → Goes (.matrixWaitWake tid) s (s.setThread tid { t with run := .running })) ∧
      (∀ d, t.run = .engine d → engineOut s tid = 0 → Goes (.engineWaitWake tid) s (s.setThread tid { t with run := .running })) ∧
      ∀ d blk woken polls due, t.run = .reduction d blk woken polls due →
        (woken = true ∨ polls = true ∧ due ≤ s.time ∨ polls = false ∧ (∀ r ∈ s.reductions, r.block ≠ blk) ∧ s.savedInstance blk = none) →
        Goes (.reductionWaitWake tid) s (s.setThread tid { t with run := .running }))

/-- R115, R129, R366, R372, R373, R376, R438: the watchdog, the precise re-execution of a chunk that its grant has refused, the delivery of
a fault that waited for an older chunk, the parking of a page fault with its report; and errors in what a head consumes, code among it: a second mismatch of a line's check value,
an uncorrectable error, a parity error, which re-executes its chunk unseen, and one that has been corrected, which freezes the recorders
alone.
Model choices it rests on: entries 15 (turns), 51 (denials) and 71 (kinds of errors and readers). (notes/assumptions.) -/
def Obligations.TrapEvents : Prop :=
  ∀ (s : State) (tid : Nat) (t : Thread), s.thread tid = some t →
    (s.ready tid = true → t.micro = none → t.arch.wdlimit ≠ 0 → t.arch.wdlimit.toNat ≤ t.arch.wdcount →
      (0 < (t.current s).count → Goes (.watchdog tid) s (s.setThread tid (t.endChunk t.older (t.current s)))) ∧
      ((t.current s).count = 0 → t.older = [] → TakesNow t →
        Goes (.watchdog tid) s (takeTrap s tid { t with chunks := [] } 0x10 t.arch.wdlimit))) ∧
    (∀ k c more, t.pending = some (.precise k) → t.chunks = c :: more → ∃ s' t', Goes (.preciseReexecution tid) s s' ∧
      s'.thread tid = some t' ∧ t'.arch = c.start ∧ t'.chunks = [] ∧ t'.precise = some k ∧ t'.pending = none ∧ t'.run = .running ∧
      SameBytes s s' ∧ ∀ x, x ≠ tid → s'.thread x = s.thread x) ∧
    (∀ cause v, t.pending = some (.trap cause v) → t.chunks = [] →
      (t.arch.det = false → Goes (.trapDelivery tid) s (s.setThread tid { t with pending := none })) ∧
      (t.arch.det = true → Goes (.trapDelivery tid) s s)) ∧
    (∀ cause va, t.pending = some (.page cause va) → ∃ s' t', Goes (.pageFaultPark tid) s s' ∧ s'.thread tid = some t' ∧
      t'.run = .parked cause va ∧ t'.pending = none ∧ t'.chunks = t.older ∧ (∀ c, t.executing = some c → t'.arch = c.start) ∧
      SameBytes s s' ∧ Reports s s' tid t (accessesAs t)
        (if ((s.guildEntry (crewPart t.crew) (accessesAs t)).getD 0 0).getLsbD 60 then some (accessesAs t) else none) 1 cause va) ∧
    (∀ va, s.ready tid = true ∨ NeedsLine s tid t → t.micro = none →
      (va.toNat / 64 ∉ t.checked → ∃ s' t', Goes (.machineCheck tid ⟨va, 0⟩) s s' ∧ s'.thread tid = some t' ∧
        t'.checked = t.checked ++ [va.toNat / 64] ∧ t'.chunks = t.older ∧ SameBytes s s' ∧
        Reports s s' tid t t.arch.guild none 5 0x11 va) ∧
      (va.toNat / 64 ∈ t.checked → (t.current s).count = 0 → t.older = [] → TakesNow t →
        Goes (.machineCheck tid ⟨va, 0⟩) s (takeTrap s tid { t with chunks := [] } 0x11 va)) ∧
      ∀ pa img check, s.consumed tid va = some pa →
        let who := if s.ready tid then 0 else 1
        Goes (.lineCheckMismatch ⟨who, tid⟩ ⟨va, img, check⟩ false) s s ∧
        (lineCheck pa img = check → Goes (.lineCheckMismatch ⟨who, tid⟩ ⟨va, img, check⟩ true) s s) ∧
        (lineCheck pa img ≠ check → exec (.lineCheckMismatch ⟨who, tid⟩ ⟨va, img, check⟩ true) s = exec (.machineCheck tid ⟨va, 0⟩) s)) ∧
    (∀ i c, t.chunks[i]? = some c → c.ungranted = true → i < 2 ^ 64 → ∃ s' t', Goes (.machineCheck tid ⟨BitVec.ofNat 64 i, 1⟩) s s' ∧
      s'.thread tid = some t' ∧ t'.arch = c.start ∧ t'.chunks = t.chunks.take i ∧ t'.run = .running ∧ SameBytes s s' ∧
      s'.parts = s.parts) ∧
    (∀ va k, 2 ≤ k → ∃ s', Goes (.machineCheck tid ⟨va, k⟩) s s' ∧ s'.threads = s.threads ∧ SameBytes s s' ∧
      1 ∈ (s'.part (s.partOf (dieOf (coreOf tid)))).freezes)

/-- R55, R103, R111, R114, R117, R158, R171, R182, R264, R315, R316, R366: requests, grants, deliveries, far atomics, acknowledgements,
drains and write-backs. A grant takes the next number of its partition and puts the chunk's bytes in memory, once the far atomics
released for its words are applied; an acknowledgement lets go of the chunk, `commitno` taking its number, `fps` its sticky flags, and an
atomic's register the old word.
Model choices it rests on: entries 2, 21, 22, 42 (held homes), 47 (packets), 49, 59, 65, 67 and 70 (lines the host holds). (notes/assumptions.) -/
def Obligations.CommitEvents : Prop :=
  ∀ (s : State) (tid : Nat) (t : Thread) (c : Chunk) (more : List Chunk),
    let p := crewPart t.crew
    (MayRequest s tid t c more →
      (t.arch.det = true ∨ s.refusedMsg [] c.messages = none →
        Goes (.commitRequest tid) s (sends (s.setThread tid { t with chunks := { c with stage := .requested } :: more }) 1
          (coreFret (coreOf tid)) (s.arbiterOf (coreOf tid) c) (coreOf tid) (.request tid))) ∧
      ∀ k m, t.arch.det = false → s.refusedMsg [] c.messages = some (k, m) → Goes (.commitRequest tid) s
        (s.refuse tid t c (c.messageAt k) 0x0C (s.inboxVal tid m))) ∧
    (AtArbiter s tid t c → Unmet s tid t c →
      (∀ k cause v, s.refusal p t c = some (k, cause, v) → Goes (.commitGrant tid) s (s.refuse tid t c k cause v)) ∧
      (s.refusal p t c = none → Goes (.commitGrant tid) s (s.grant tid t c) ∧
        (MemCanonical s → PlainBytes s p c → ((s.grant tid t c).part p).commitNo = (s.part p).commitNo + 1 ∧
          (∃ t', (s.grant tid t c).thread tid = some t' ∧
            t'.chunks = { c with stage := .granted ((s.part p).commitNo + 1) } :: t.chunks.drop 1) ∧
          ∀ pa, pa < 2 ^ 52 → (s.grant tid t c).readByte pa = (assocGet? pa c.buf).getD ((s.settled c.dwords).readByte pa)))) ∧
    (∀ ds, (∀ f ∈ s.fars, f.on ds = false) → s.settled ds = s) ∧
    (AtArbiter s tid t c → ¬ Unmet s tid t c → Goes (.commitGrant tid) s (s.squash tid 0)) ∧
    (∀ no, Delivered s tid t c more no →
      (c.fin ≠ .hsync ∨ s.outwardBelow p no = false) →
      ∃ s' t', Goes (.commitAcknowledgement tid) s s' ∧ s'.thread tid = some t' ∧
        t'.chunks = (more.map fun d => { d with start := flagsIn c.flags d.start }) ∧ t'.commitno = no ∧
        SameBytes s s' ∧ (c.atom = none → c.effects = [] → t'.arch = flagsIn c.flags t.arch) ∧
        ∀ a bs, c.atom = some a → replyOf t a.pa a.n = some bs →
          t'.arch = flagsIn c.flags (t.arch.setX a.d (BitVec.ofNat 64 (ofBytes bs)))) ∧
    (∀ i f, MemCanonical s → s.fars[i]? = some f → f.far.pa + f.far.n ≤ 2 ^ 52 → (f.far.op ≠ .post ∨ s.postReady f.tid = true) →
      s.homeHeld (f.far.pa / 64) = false → (∀ j g, s.fars[j]? = some g → g.part = f.part → g.far.meets f.far.pa f.far.n = true → f.no < g.no ∨ f.no = g.no ∧ i ≤ j) →
      ∃ s', Goes (.farAtomicApply i) s s' ∧ s'.fars = s.fars.eraseIdx i ∧
        s'.readVal f.far.pa f.far.n =
          farResult f.far.op f.far.n (s.readVal f.far.pa f.far.n) f.far.v.toNat % 2 ^ (8 * f.far.n) ∧
        ∀ a, a < 2 ^ 52 → a < f.far.pa ∨ f.far.pa + f.far.n ≤ a → s'.readByte a = s.readByte a) ∧
    (∀ core i j d b, (s.core core).drains[i]? = some d → d.committed = true → (∃ w, s.crew d.crew = some w ∧ w.stopping = none) →
      ((d.dwords.map fun x => x.1 / 4096).dedup)[j]? = some b →
      let cells := (d.dwords.filter fun x => decide (x.1 / 4096 = b)).flatMap fun x => runCells x.2.1 (bytesOf 8 x.2.2)
      let left := d.dwords.filter fun x => decide (x.1 / 4096 ≠ b)
      let s1 := (s.unitWrite (crewPart d.crew) d.crew d.guild cells).sendBulk core (cellLines cells)
      (∀ x ∈ cells, s.guarded (crewPart d.crew) (some d.crew) x.1 = false) →
      s.commitHeld (crewPart d.crew) (some d.tid) cells = false → s.hostHolds (cellLines cells) = false →
      (left = [] → Goes (.drainWrite core i j) s (s1.setCore core { s1.core core with
        drains := (s1.core core).drains.filter fun e => decide (e.id ≠ d.id) })) ∧
      (left ≠ [] → Goes (.drainWrite core i j) s (s1.setCore core { s1.core core with
        drains := (s1.core core).drains.map fun e => if e.id = d.id then { e with dwords := left } else e }))) ∧
    (∀ line, s.held 5 (homeDie (line * 64)) = false →
      ∃ s', Goes (.writeBack line) s s' ∧ s'.dirty = assocDrop line s.dirty ∧ SameBytes s s')

/-- R114, R115, R119, R120, R126, R172, R366: a delivered signature squashes the first ungranted chunk of each thread of its partition that
it meets, with the later one, and wakes the others that sleep on one of its lines; the turn of a deterministic crew passes over a
member that sleeps at a barrier or in XEND with no chunk to be granted, evaluates a wait on a word that no directory watches, lets a fault met off the turn be looked at again, and grants the
chunk of a member that has asked for it; after the prefix of a fault the head itself executes in the same turn.
Model choices it rests on: entries 9 (times), 15 (turns), 30 (holders), 47 (packets) and 67 (aged chunks). (notes/assumptions.) -/
def Obligations.OrderEvents : Prop :=
  ∀ (s : State),
    (∀ pkt k p no c, s.arrivedPacket pkt = some k → k.load = .sig p no →
      s.commits.find? (fun m => decide (m.part = p) && decide (m.no = no) && m.cores.contains k.dest) = some c →
      ∃ s', Goes (.signatureDelivery pkt) s s' ∧ s'.net = (taken s pkt k).net ∧ SameBytes s s' ∧
        (∀ x, x / 16 ≠ k.dest → s'.thread x = s.thread x) ∧
        ∀ x t, x / 16 = k.dest → s.thread x = some t → crewPart t.crew = p → c.tid ≠ some x →
          (∀ i, t.hit c.sig = some i → ∃ t', s'.thread x = some t' ∧ t'.chunks = t.chunks.take i ∧
            (t.chunks[i]?).map Chunk.start = some t'.arch) ∧
          (t.hit c.sig = none → s'.thread x = some (t.wakeBy c.sig p))) ∧
    (∀ crew w tid t, TurnOf s crew w tid t →
      let s1 := s.noteArrivals crew
      ((∃ d r, t.run = .bar d r) ∨ t.run = .xend → NoneToGrant t → Goes (.deterministicTurn crew) s (passOn s1 crew w)) ∧
      (∀ x b, t.run = .watch x b → x.polls = true → NoneToGrant t →
        Goes (.deterministicTurn crew) s (s1.setThread tid { t with run := .running, pending := some .turn })) ∧
      (∀ cause v, t.run = .running → t.pending = some (.trap cause v) → t.older = [] →
        (t.executing = none → Goes (.deterministicTurn crew) s (s1.setThread tid { t with pending := some .turn })) ∧
        ∀ c, t.executing = some c → s1.undelivered (coreOf tid) (crewPart t.crew) c = false → ∃ s' t',
          Goes (.deterministicTurn crew) s s' ∧ s'.thread tid = some t' ∧ t'.arch = c.start ∧ t'.chunks = [] ∧
          t'.precise = some c.count ∧ t'.run = .running ∧ SameBytes s s') ∧
      ∀ c u no, AtTurn s1 tid t c → (s1.grant tid t c).thread tid = some u → u.chunks.head?.map Chunk.stage = some (.granted no) →
        (c.isPrefix = false → Goes (.deterministicTurn crew) s ((s1.grant tid t c).nextTurn crew)) ∧
        (c.isPrefix = true → ∃ s', Goes (.deterministicTurn crew) s s' ∧ s'.thread tid = some { u with pending := some .turn } ∧
          s'.mem = (s1.grant tid t c).mem))

/-- R106, R112, R336-R339, R374, R393: a scope widened for a core that waits; fills and probes in sequence order; packets at their frets, with
what they evict and its NACK; and the recorders' freeze and a ring's record.
Model choices it rests on: entries 2, 30, 41, 47, 48 and 65. (notes/assumptions.) -/
def Obligations.NetworkEvents : Prop :=
  ∀ (s : State) (pkt : Nat) (k : Packet),
    (∀ line core d, assocGet? line s.dir = some d →
      (core ∉ d.asking → Goes (.widenScope line core) s s) ∧
      (core ∈ d.asking → core ∉ d.holders → Goes (.widenScope line core) s { s with dir := assocSet line (joined d core) s.dir })) ∧
    (∀ line q f, s.arrivedPacket pkt = some k → k.load = .fill line q →
      (s.probeBefore k.dest line q = true → Goes (.fillReply pkt) s s) ∧
      (s.probeBefore k.dest line q = false → (∀ x ∈ (s.core k.dest).probes, x.1 ≠ line) →
        (s.core k.dest).fills.find? (fun f => decide (f.line = line) && decide (f.seq = some q)) = some f →
        ∃ s', Goes (.fillReply pkt) s s' ∧ s'.net = (taken s pkt k).net ∧ (s'.core k.dest).fills = (s.core k.dest).fills.erase f ∧
          (fillWay s k.dest f.set = none → (s'.core k.dest).l1 = (s.core k.dest).l1) ∧
          (∀ w, fillWay s k.dest f.set = some w → (s'.core k.dest).l1 =
            ((s.core k.dest).l1.filter fun x => decide (x.set ≠ f.set) || decide (x.way ≠ w)) ++ [⟨line, f.set, w⟩]) ∧ SameBytes s s')) ∧
    (∀ line q, s.arrivedPacket pkt = some k → k.load = .probe line q →
      ((∀ f ∈ (s.core k.dest).fills, f.line ≠ line) → ∃ s', Goes (.probe pkt) s s' ∧ s'.net = (taken s pkt k).net ∧
        (s'.core k.dest).l1 = (s.core k.dest).l1.filter (fun x => x.line ≠ line) ∧ (∀ x ∈ (s'.core k.dest).probes, x.1 ≠ line)) ∧
      ((∀ x ∈ (s.core k.dest).probes ++ [(line, q)], x.1 = line →
          ∃ f ∈ (s.core k.dest).fills, f.line = line ∧ ∃ n, f.seq = some n ∧ seqBefore n x.2 = true) →
        ∃ s', Goes (.probe pkt) s s' ∧ (s'.core k.dest).l1 = (s.core k.dest).l1 ∧
          (s'.core k.dest).probes = (s.core k.dest).probes ++ [(line, q)])) ∧
    (∀ n, assocGet? pkt s.net = some k → k.ride.passes = some n →
      let there := s.ejected k.fret
      let full := ¬ there.length + (if 4 ≤ n then 0 else s.pressing k.fret pkt) < 32
      (¬ full → Goes (.packetArrival pkt) s { rides s pkt (.buffered s.nextId (decide (4 ≤ n))) with nextId := s.nextId + 1 }) ∧
      (full → there.length < 32 ∨ evicted there k.cls = none → Goes (.packetArrival pkt) s (rides s pkt
        (match k.ride with | .riding x _ => .riding x (n + 1) | r => r))) ∧
      ∀ v y, full → 32 ≤ there.length → evicted there k.cls = some v → v ≠ pkt → assocGet? v s.net = some y →
        ∃ s', Goes (.packetArrival pkt) s s' ∧ assocGet? v s'.net = some { y with ride := .nacked } ∧
          assocGet? pkt s'.net = some { k with ride := .buffered (s.nextId + 1) (decide (4 ≤ n)) } ∧
          ∃ a ∈ s'.net, a.2.load = .nack v ∧ a.2.cls = 1 ∧ a.2.src = k.fret ∧ a.2.fret = y.src) ∧
    (∀ n, assocGet? pkt s.net = some k → s.nackArrived pkt = some n → n ≠ pkt → ∃ s', Goes (.nack pkt) s s' ∧
      assocGet? pkt s'.net = some { k with ride := .waiting s.nextId } ∧ s'.threads = s.threads ∧ SameBytes s s') ∧
    (∀ p reason, reason ∈ (s.part p).freezes → ∃ s', Goes (.recorderFreeze p reason) s s' ∧
      (∀ core, s.partOf (dieOf core) = p → s'.frozen core = true) ∧
      (s'.part p).events = (s.part p).events ++ [reportOf s p none 7 reason 0 0 0 0 0]) ∧
    (∀ p ring widx ridx i ev, (s.part p).events.findIdx? (fun e => decide (e.ring = if ring = 0 then none else some (BitVec.ofNat 16 ring))) = some i →
      (s.part p).events[i]? = some ev →
      let r := s.ring p ring
      let w := s.indexWord r.2.2.1 widx
      let s1 := s.setPart p { s.part p with events := (s.part p).events.eraseIdx i }
      ringUsable r = true → (s.part p).fwrites = [] → w < s.indexWord r.2.2.2 ridx + 2 ^ r.2.1 → Goes (.eventRecordWrite p ring widx ridx) s
        ((s1.foremanWrite p (r.1.toNat + 32 * (w % 2 ^ r.2.1)) (ev.words.flatMap fun x => bytesOf 8 x.toNat)).foremanWrite p
          r.2.2.1.toNat (bytesOf 8 (w + 1))))

namespace Sys2Proof.Claims

open Sys2Proof.Machine

/-- A thread of a dynamic crew without a task that may seek one (R313). -/
def Seeks (s : State) (tid : Nat) (t : Thread) : Prop :=
  s.thread tid = some t ∧ t.run = .none ∧ t.chunks = [] ∧ isDet s t = false ∧
    ∃ w, s.crew t.crew = some w ∧ w.stopping = none ∧ w.stopped = none

/-- The registers at the start of a task (R302, R322): x8-x10 hold the arguments, the entry's PC is sign-extended from 57 bits, and
`fps`, `srkey`, `srctr` and `wdlimit` stay; every other register is zero but for the status word, `tvec` and `gtb`. -/
def taskRegs (a : Arch) (r : TaskRec) (w : Crew) (tvec gtb : Word) : Arch :=
  { Arch.reset with
    x := ((Vector.replicate 64 0).set 8 r.arg0 |>.set 9 r.arg1).set 10 r.arg2
    pc := (r.w0.setWidth 57).signExtend 64
    status := BitVec.ofNat 64 (w.guild.toNat * 2 ^ 16 + (if w.det then 2 else 0))
    fps := a.fps, srkey := a.srkey, srctr := a.srctr, wdlimit := a.wdlimit, tvec, gtb }

/-- A thread has begun a task from a record (R302, R313). -/
def Begun (s s' : State) (tid : Nat) (t : Thread) (e : DequeEntry) (w : Crew) : Prop :=
  ∃ t' tvec gtb, s'.thread tid = some t' ∧ t'.run = .running ∧ t'.arch = taskRegs t.arch e.record w tvec gtb ∧ t'.enq = e.stamp ∧
    t'.deq = s.time ∧ t'.sweep = 0

/-- A task message has reached its place and its turn (R315, R321), and nothing holds up what it writes (R117, R171, R432). -/
def MessageDue (s : State) (pkt : Nat) (k : Packet) (p no crew : Nat) (m : TaskMsg) : Prop :=
  s.arrivedPacket pkt = some k ∧ k.load = .task p no crew m ∧ s.msgTurn pkt p no k.dest crew m = true ∧ s.messageHeld p m = false

/-- The commit that a message belongs to, once the message is applied. -/
def countsOff (p no : Nat) (c : Commit) : Commit := if c.part = p ∧ c.no = no then { c with msgs := c.msgs - 1 } else c

/-- A thread asks the core that its sweep has come to for a task; behind the last it waits (R313). -/
def asks (s : State) (tid : Nat) (t : Thread) : State :=
  match (s.victims tid t.crew)[t.sweep - 1]? with
  | some v => (s.setThread tid t).send 2 (coreFret (coreOf tid)) (coreFret v) v (.steal tid t.crew)
  | none => s.setThread tid { t with run := .idle (s.time + 1024), sweep := 0 }

/-- A victim's answer sets out for a thief. -/
def answers (s : State) (victim tid crew : Nat) (e : Option DequeEntry) : State :=
  s.send 2 (coreFret victim) (coreFret (coreOf tid)) (coreOf tid) (.stolen tid crew e)

/-- A command of an engine that its core works on (R272): the i-th of the first sixteen, of a crew that runs, its block not held, and
its turn come. -/
def EngineAt (s : State) (core i : Nat) (e : EngEntry) : Prop :=
  i < 16 ∧ s.held 2 core = false ∧ (s.core core).engine[i]? = some e ∧ (∀ w, s.crew e.cmd.crew = some w → w.stopping = none) ∧
    s.engineTurn core e = true

/-- A command that has failed goes on to its last engine chunk; without a completion word it ends there once nothing of it is
unacknowledged, and the thread's FAIL bit tells (R276, R277). -/
def failed (s : State) (core : Nat) (e : EngEntry) : State :=
  if e.unacked = 0 ∧ e.cmd.cw = none then s.endEngine core e true else s.setEngine core e

/-- What an engine chunk has done, the turn having been its command's where it was (R272). -/
def took (r : State × Bool) (core : Nat) (e : EngEntry) : State := if r.2 then r.1.engineTook core e.id else r.1

/-- The crew of an instance that is open runs, its slice takes requests, and nothing holds up what its end writes (R117, R178, R432). -/
def TakesValues (s : State) (r : Reduction) (c : Contribution) : Prop :=
  (∀ w, s.crew r.crew = some w → w.stopping = none) ∧ s.rootHeld r none = false ∧ r.waits = false ∧
    s.held 4 (nodeBlock c.block 1 (c.index / declFan (r.words.headD 0))) = false

/-- A barrier, or a join, whose release is due (R341, R342). -/
def ReleaseDue (w : Crew) (key : Nat) : Prop :=
  w.stopping = none ∧ (w.det = false ∨ w.turn = 0 ∧ ∃ r, assocGet? key w.releaseAt = some r ∧ r ≤ w.round)

end Sys2Proof.Claims

/-- R248, R255, R265, R272-R280, R294-R297, R300: the loom and the panel queue perform the command at their head; the copy engine performs
its engine chunks and its last one; a link's acknowledgement, a contribution's arrival and a reduction's timeout.
Model choices it rests on: entries 4, 35, 40, 42, 64, 65, 69 (element numbers of tiles), 70, 71 and 72. (notes/assumptions.) -/
def Obligations.UnitEvents : Prop :=
  ∀ (s : State) (core : Nat),
    (∀ k ks, (s.core core).loom = k :: ks → (∀ q ∈ k.op.panels, ((s.core core).panel q).state ≠ 1) →
      Goes (.loomCommand core) s ((s.setCore core { s.core core with loom := ks }).performLoom core k) ∧
      ∀ t a, s.thread k.tid = some t → a < 16 → k.op = .zero a false → ∃ s' t', Goes (.loomCommand core) s s' ∧
        (s'.core core).loom = ks ∧ s'.thread k.tid = some t' ∧ t'.arch.getA (BitVec.ofNat 4 a) = 0 ∧
        ∀ r, r ≠ BitVec.ofNat 4 a → t'.arch.getA r = t.arch.getA r) ∧
    (∀ k ks, (s.core core).panelQ = k :: ks → k.claimed = true → k.performed = false → (∀ l ∈ (s.core core).loom, l.id ∉ k.before) →
      s.postHeld none k.op.dwords = false → (∀ d ∈ k.op.dwords, s.homeHeld (d / 8) = false) →
      (∀ v n, k.op = .seed v n → ∃ s', Goes (.panelCommand core) s s' ∧ (s'.core core).panelQ = ks ∧
        ((s'.core core).panel k.panel).pattern = some (v, n) ∧ ((s'.core core).panel k.panel).data = ((s.core core).panel k.panel).data) ∧
      ((∀ v n, k.op ≠ .seed v n) → ∃ s', Goes (.panelCommand core) s s' ∧ (s'.core core).panelQ = { k with performed := true } :: ks ∧
        SameBytes s s')) ∧
    (∀ k ks q, (s.core core).panelQ = k :: ks → k.performed = true → q ∈ k.writes → (∀ x ∈ ks, x.claimed = false) →
      ∃ s', Goes (.panelReady core q) s s' ∧ (s'.core core).panelQ = ks ∧ ∀ p ∈ k.writes, ((s'.core core).panel p).state = 2) ∧
    (∀ i j e, EngineAt s core i e → (∀ b x y v, e.cmd.kind ≠ .contrib b x y v) →
      (e.status = .done → e.done.length < e.cmd.chunks → e.cmd.hasChunk j = true → j ∉ e.done →
        let s1 := s.settleAll
        (∀ cells, engCells s1 core e j = .ok cells → Goes (.engineChunk core i j) s
          (took (State.engineWrite { s1 with free := s1.free + 64 } core e cells j) core e)) ∧
        (∀ d va, engCells s1 core e j = .error (.fault d va) → Goes (.engineChunk core i j) s
          ((failed s1 core { e with status := .fault, value := (if d then 2 ^ 47 else 0) + va.toNat % 2 ^ 47 }).engineTook core e.id))) ∧
      (e.status ≠ .done ∨ e.cmd.chunks ≤ e.done.length →
        Goes (.engineChunk core i j) s (took (s.engineFinal core e) core e))) ∧
    (∀ i j e b x y v, EngineAt s core i e → e.cmd.kind = .contrib b x y (some v) → e.sent = false → e.status = .done → regionOf b ≠ 2 →
      ∃ s', Goes (.engineChunk core i j) s s' ∧ s'.contributions = s.contributions ++ [⟨b, 0, x, v, some (core, e.id)⟩]) ∧
    (∀ i e, (s.core core).engine[i]? = some e →
      (∀ l ∈ s.links, ∀ va bytes, l.2.kind ≠ .payload core e.id va bytes) → Goes (.linkPayloadAck core i) s s) ∧
    (∀ i e id va bytes more r, (s.core core).engine[i]? = some e → s.links = (id, r) :: more → r.kind = .payload core e.id va bytes →
      (∀ x ∈ bytes, regionOf x.1 ≠ 0) → Goes (.linkPayloadAck core i) s
        (({ s with links := more.filter fun x => decide (x.1 ≠ id) } : State).ackPayload core e.id)) ∧
    (∀ i c r, s.contributions[i]? = some c → s.reductions.find? (fun x => decide (x.block = c.block)) = some r → TakesValues s r c →
      c.index < declNcon (r.words.headD 0) → (∀ e ∈ r.arrived, e.1 ≠ c.index) → declNcon (r.words.headD 0) ≠ 1 →
      (declTimeout (r.words.headD 0) = 0 ∨ s.time ≤ r.opened + 1000 * declTimeout (r.words.headD 0)) →
      c.source = none → c.level = 0 →
      let r' := { r with arrived := assocSet c.index c.values r.arrived }
      let node := c.index / declFan (r.words.headD 0)
      (r'.nodeValue 0 node = none → ∃ s', Goes (.contributionArrival i) s s' ∧ s'.contributions = s.contributions.eraseIdx i ∧
        s'.reductions.find? (fun x => decide (x.block = c.block)) = some r' ∧ s'.answers = s.answers ++ [(c.block, [0])]) ∧
      ∀ v, r'.nodeValue 0 node = some v → levelCount (declFan (r.words.headD 0)) (declNcon (r.words.headD 0)) 1 ≠ 1 →
        ∃ s', Goes (.contributionArrival i) s s' ∧ s'.contributions = s.contributions.eraseIdx i ++ [⟨c.block, 1, node, v, none⟩]) ∧
    (∀ i c, s.contributions[i]? = some c → (∀ r ∈ s.reductions, r.block ≠ c.block) → s.savedInstance c.block = none →
      c.source = none → c.level = 0 → Goes (.contributionArrival i) s
        { s with contributions := s.contributions.eraseIdx i, answers := s.answers ++ [(c.block, [1])] }) ∧
    (∀ r, s.reductions.find? (fun x => decide (x.block = r.block)) = some r → (∀ w, s.crew r.crew = some w → w.stopping = none) →
      s.rootHeld r (some r.tid) = false → r.waits = false → r.arrived.length < declNcon (r.words.headD 0) → declTimeout (r.words.headD 0) ≠ 0 → r.opened + 1000 * declTimeout (r.words.headD 0) ≤ s.time →
      Goes (.reductionTimeout r.block) s (s.endReduction r .timeout (declNcon (r.words.headD 0) - r.arrived.length) r.missing))

/-- R302, R312, R313, R315-R321, R326, R331: a thread takes its next task from its own deque, or asks other cores for one, which answer;
the wait after a failed sweep; task messages and decrements at their destinations. Each of these events completes in every state.
Model choices it rests on: entries 2, 31 (spill and overflow regions), 42, 47 (packets), 63 (LAUNCH) and 67. (notes/assumptions.) -/
def Obligations.TaskEvents : Prop :=
  ∀ (s : State) (tid : Nat) (t : Thread),
    (∀ x y, (∃ s', exec (.taskPop x) s = .next s') ∧ (∃ s', exec (.stealRequest x y) s = .next s') ∧
      (∃ s', exec (.stealBackoff x) s = .next s') ∧ (∃ s', exec (.taskMessageApply x) s = .next s') ∧
      ∃ s', exec (.counterDecrement x) s = .next s') ∧
    (Seeks s tid t → t.sweep = 0 →
      (∀ e c w, (s.dequeCore (coreOf tid)).popFor tid t.crew = some (e, c) → e.crew = t.crew → s.crew t.crew = some w →
        ∃ s', exec (.taskPop tid) s = .next s' ∧ s'.core (coreOf tid) = c ∧ Begun s s' tid t e w) ∧
      ((s.dequeCore (coreOf tid)).popFor tid t.crew = none → exec (.taskPop tid) s = .next (asks s tid { t with sweep := 1 }))) ∧
    (∀ victim pkt k crew, s.stealArrived tid victim = some (pkt, crew) → assocGet? pkt s.net = some k →
      let s1 := taken s pkt k
      (∀ e c, (s.dequeCore victim).stealFor crew = some (e, c) →
        exec (.stealRequest tid victim) s = .next (answers (s1.setDeque victim c) victim tid crew (some e))) ∧
      ((s.dequeCore victim).stealFor crew = none → exec (.stealRequest tid victim) s = .next (answers s1 victim tid crew none))) ∧
    (∀ victim, s.stealArrived tid victim = none → exec (.stealRequest tid victim) s = .next s) ∧
    (∀ pkt k e, s.arrivedPacket pkt = some k → k.load = .stolen tid t.crew e → s.thread tid = some t →
      (∀ r w, e = some r → r.crew = t.crew → s.crew t.crew = some w → Begun s (unitTakes s pkt) tid t r w) ∧
      (e = none → unitTakes s pkt = asks (taken s pkt k) tid { t with failSteals := t.failSteals + 1, sweep := t.sweep + 1 })) ∧
    (∀ due, s.thread tid = some t → t.run = .idle due → due ≤ s.time →
      exec (.stealBackoff tid) s = .next (s.setThread tid { t with run := .none, sweep := 0 })) ∧
    (∀ pkt k p no crew m, MessageDue s pkt k p no crew m → ∃ s1, exec (.taskMessageApply pkt) s = .next
        { s1 with commits := s1.commits.map (countsOff p no) } ∧
      (∀ core r, m = .push core r →
        (s1.core core) = (s.dequeCore core).push { record := r, crew, bound := none, stamp := s.time }) ∧
      (∀ core x n r, m = .cntSet core x n r → (s1.core core).counters =
        ((s.core core).counters.filter fun k => decide (k.crew ≠ crew) || decide (k.idx ≠ x)) ++ [⟨crew, x, n, r⟩]) ∧
      (∀ core x, m = .cntClr core x → (s1.core core).counters =
        (s.core core).counters.filter fun k => decide (k.crew ≠ crew) || decide (k.idx ≠ x)) ∧
      (∀ dest pl tag sender u, m = .send dest pl tag sender none → s.thread dest = some u → ∃ u', s1.thread dest = some u' ∧
        u'.inbox ++ u'.overflow = u.inbox ++ s.overflowOf u ++ [⟨pl, tag, sender⟩]) ∧
      (∀ dest pl tag sender x u, m = .send dest pl tag sender (some x) → s.thread dest = some u →
        s1 = ((taken s pkt k).placeMessage dest u ⟨pl, tag, sender⟩).decrement crew (dest / 16) x 1) ∧
      (∀ q r g, m = .launch q r g → s1 = (taken s pkt k).applyLaunch p no crew q g r) ∧
      ∀ or v w, m = .post or v → s.crew crew = some w → s1 = (taken s pkt k).setCrew crew
        { w with result := if or then w.result ||| v else v }) ∧
    (∀ pkt k crew core x d p no, s.arrivedPacket pkt = some k → k.load = .dec crew core x d p no →
      s.msgTurn pkt p no k.dest crew (.dec core x d) = true →
      let s1 := taken s pkt k
      (d = 0 → exec (.counterDecrement pkt) s = .next { s1 with commits := s.commits.map (countsOff p no) }) ∧
      (d ≠ 0 → (∀ e ∈ (s.core core).counters, ¬ (e.crew = crew ∧ e.idx = x)) → exec (.counterDecrement pkt) s = .next
        { s1.setCore core { s.core core with stray := assocSet crew (assocGetD crew 0 (s.core core).stray + 1) (s.core core).stray } with
          commits := s.commits.map (countsOff p no) }) ∧
      ∀ e, d ≠ 0 → (s.core core).counters.find? (fun e => decide (e.crew = crew) && decide (e.idx = x)) = some e →
        (d < e.count → ∃ s', exec (.counterDecrement pkt) s = .next s' ∧
          (s'.core core).counters = (s.core core).counters.map (fun y => if y = e then { e with count := e.count - d } else y) ∧
          (s'.core core).deque = (s.core core).deque) ∧
        (e.count ≤ d → ∃ s', exec (.counterDecrement pkt) s = .next s' ∧ e ∉ (s'.core core).counters ∧
          s'.core core = Core.push { s.dequeCore core with counters := (s.core core).counters.filter fun y => decide (y ≠ e) }
            { record := e.record, crew, bound := none, stamp := s.time }))

/-- R341, R342, R346, R350, R352, R358: a barrier releases its members once all have arrived, in deterministic mode as noted then; a start join begins a phase, whose strings class traffic leaves, or stops the crew
where its members name different tablatures; a phase starts when its strings are free and ends after its last cycle; exchange chunks
commit one by one, and the member then goes on.
Model choices it rests on: entries 2, 67 and 70 (lines the host holds). (notes/assumptions.) -/
def Obligations.ExchangeEvents : Prop :=
  ∀ (s : State) (crew dom : Nat) (w : Crew), s.crew crew = some w →
    (w.det = true ∨ s.allArrived w dom = true → ReleaseDue w dom → ∃ s', Goes (.barrierRelease crew dom) s s' ∧
      ∀ tid t, tid ∈ w.domainThreads dom → s.thread tid = some t → t.run = .bar dom none →
        s'.thread tid = some { t with run := .running, arch := { t.arch with wdcount := 0 } }) ∧
    (∀ l tid g more, s.joined w dom = some ((l, tid, g) :: more) → ReleaseDue w (16 + dom) → (∀ p ∈ w.phases, p.dom ≠ dom) →
      ((∀ e ∈ more, e.2.2.va = g.va) → Goes (.startJoin crew dom) s (s.setCrew crew { w with
        releaseAt := assocDrop (16 + dom) w.releaseAt, phases := w.phases ++ [⟨dom, g.tab, 0, false⟩] }).clearStrings) ∧
      ∀ e t, more.find? (fun e => decide (e.2.2.va ≠ g.va)) = some e → s.thread e.2.1 = some t →
        ∃ s' w', Goes (.startJoin crew dom) s s' ∧ s'.crew crew = some w' ∧ w'.stopping = some (0x0B, some e.1) ∧
          s'.thread e.2.1 = some { t with arch := { t.arch with
            tcause := 0x0B, tpc := e.2.2.xphPc, tnpc := e.2.2.xphNext, tval := 7 } }) ∧
    (∀ p, w.phases.find? (fun p => decide (p.dom = dom) && !p.started) = some p → s.stringsFree crew w p.tab dom = true →
      ∃ s' w', Goes (.phaseStart crew dom) s s' ∧ s'.crew crew = some w' ∧ s'.threads = s.threads ∧
        ∀ q ∈ w'.phases, q.dom = dom → q.started = true ∧ q.zero = s.time + (if (slots p.tab).any (fun x => decide (28 ≤ x.str)) then 2192 else 274)) ∧
    (∀ p, w.phases.find? (fun p => decide (p.dom = dom) && p.started) = some p → p.zero + phaseLen p.tab ≤ s.time →
      (w.members.map Prod.snd).Nodup → ∃ s' w', Goes (.phaseEnd crew dom) s s' ∧ s'.crew crew = some w' ∧
        w'.phases = w.phases.filter (fun q => q.dom ≠ dom) ∧
        ∀ e t g, e ∈ w.members → s.thread e.2 = some t → t.armed dom = some g → ∃ t', s'.thread e.2 = some t' ∧
          t'.run = .captured (w.round + 1) (exchangeChunks (s.captures w g e.2).1) (s.captures w g e.2).2 ∧
          t'.ltx = t.ltx + ownedLines p.tab e.1 ∧ t'.lrx = t.lrx + capturedLines g.reqs) ∧
    (∀ tid t r regs, s.thread tid = some t → isDet s t = false →
      (t.run = .captured r [] regs → Goes (.exchangeChunk tid) s (s.setThread tid { t with
        run := .running, arch := { regs.foldl (fun a e => a.setV e.1 e.2) t.arch with arming := none } })) ∧
      ∀ c cs, t.run = .captured r (c :: cs) regs → (∀ x ∈ c, s.guarded (crewPart t.crew) (some t.crew) x.1 = false) →
        s.exchangeFree tid (crewPart t.crew) c = true → s.hostHolds (cellLines c) = false →
        Goes (.exchangeChunk tid) s ((s.unitWrite (crewPart t.crew) t.crew t.arch.guild c).setThread tid { t with run := .captured r cs regs }))

namespace Sys2Proof.Claims

open Sys2Proof.Machine

/-- The head of a queue that is served (R305, R308): no record is to be skipped, its format and shape are admissible. -/
def HeadSound (s : State) (p q : Nat) (r : LaunchRec) : Prop :=
  (s.queue p q).head = some r ∧ (s.queue p q).skip = 0 ∧ s.formatFault p r = none ∧ s.shapeFault p (launchShape r) = false ∧
    (field (r.getD 5 0) 0 3 = 0 ∨ (s.queue p q).prevDone = true)

/-- It is held up by nothing: its condition holds, no breakpoint holds it, its handles are free, and no pressing launch or thermal stop
comes first (R307, R309, R310, R392, R435). -/
def HeadFree (s : State) (p q : Nat) (r : LaunchRec) : Prop :=
  HeadSound s p q r ∧ condHolds r (s.queue p q).prevResult = true ∧ (s.queue p q).held = false ∧
    ((s.queue p q).passed = true ∨ (s.part p).breaks q r = false) ∧ s.handlesFree p r = true ∧ s.pressedOut p q = false ∧
    s.upkeep.stopHot = []

/-- A head that waits for placement may be placed (R307). -/
def PlacementDue (s : State) (p q : Nat) : Prop :=
  queueEn (s.queue p q).ctl = true ∧ (s.queue p q).waiting.isSome = true ∧ s.pressingHead p (s.queue p q) = true

/-- The invalidations in progress of a partition with one more, by which TLBSTAT goes (R375, R430). -/
def Invalidates (s s' : State) (p k : Nat) (va : Word) (g : BitVec 16) : Prop :=
  (s'.part p).invals = (s.part p).invals ++ [{ k, va, guild := g, tid := none, no := s.nextId }] ∧ (s'.part p).lastCmd = s.nextId ∧ SameBytes s s'

/-- The entries of a TLB that an invalidation of kind 0, 1 or 2 leaves (R375). -/
def survives (v : Inval) (e : TlbEntry) : Prop :=
  v.k = 0 ∧ ¬ (e.guild = v.guild ∧ e.va ≤ v.va.toNat % 2 ^ 57 ∧ v.va.toNat % 2 ^ 57 < e.va + e.size) ∨ v.k = 1 ∧ e.guild ≠ v.guild

/-- No repartition would move the dies of a placed crew (R17). -/
def NoCrewMoves (s : State) (bits : BitVec 8) : Prop := ∀ e ∈ s.threads, rangeChanges s.modcfg bits (dieOf (coreOf e.1)) = false

/-- The members of a crew with their threads, in order of their indices. -/
def Members (s : State) (w : Crew) : Prop := ∀ m ∈ w.members, ∃ t, s.thread m.2 = some t ∧ t.l = m.1

/-- The image of the n-th member of a stop record at pa, as memory, or the host's memory, holds it (R385). -/
def recordImage (s : State) (w : Crew) (pa : Nat) (host : List Byte) (n : Nat) : List Byte :=
  let size := 0x400 + 64 * w.vregs + 1024 * w.tiles
  let off := 64 + 32 * w.members.length + size * n
  if regionOf pa = 1 then (host.drop off).take size else s.settleAll.readRun (pa + off) size

/-- Dword i of some bytes. -/
def dwordOf (img : List Byte) (i : Nat) : Word := BitVec.ofNat 64 (ofBytes ((img.drop (8 * i)).take 8))

/-- The registers are those of an image (R385). -/
def HasImage (w : Crew) (img : List Byte) (a : Arch) : Prop :=
  let d := fun i => dwordOf img (64 + i)
  (∀ r : BitVec 6, a.getX r = if r = 0 then 0 else dwordOf img r.toNat) ∧
  a.pc = d 0 ∧ a.status = d 1 ∧ a.fps = d 2 ∧ a.srkey = d 3 ∧ a.srctr = d 4 ∧ a.repst = d 5 ∧ a.tvec = d 6 ∧ a.tcause = d 7 ∧ a.tpc = d 8 ∧
  a.tstat = d 9 ∧ a.tval = d 10 ∧ a.hscratch = d 11 ∧ a.gtb = d 12 ∧ a.trepst = d 13 ∧ a.wdcount = (d 14).toNat ∧ a.wdlimit = d 15 ∧
  (∀ r : BitVec 3, r ≠ 0 → a.getM r = dwordOf img (80 + r.toNat)) ∧
  (∀ v : BitVec 5, v.toNat < w.vregs → a.getV v = BitVec.ofNat 512 (ofBytes ((img.drop (0x400 + 64 * v.toNat)).take 64))) ∧
  ∀ r : BitVec 4, r.toNat < w.tiles →
    a.getA r = BitVec.ofNat 8192 (ofBytes ((img.drop (0x400 + 64 * w.vregs + 1024 * r.toNat)).take 1024))

/-- A thread's registers lie in an image as R385 lays it out: scalar registers, PC and status word. -/
def Saves (img : List Byte) (a : Arch) : Prop :=
  (∀ r : BitVec 6, dwordOf img r.toNat = a.getX r) ∧ dwordOf img 64 = a.pc ∧ dwordOf img 65 = a.status ∧ dwordOf img 66 = a.fps

/-- Nothing holds up a write of the foreman in a partition: no aged chunk, no released far atomic, no held home, no earlier write (R117,
R171, R432). -/
def WritesFreely (s : State) (p : Nat) : Prop :=
  s.fars = [] ∧ (s.part p).fwrites = [] ∧ (∀ e ∈ s.threads, ∀ c ∈ e.2.chunks, c.aged = false) ∧ ∀ line, s.homeHeld line = false

end Sys2Proof.Claims

/-- R303-R311, R392: the write index read at a doorbell, the slots of a quantum, the service of a slot, and what becomes of the head of a
queue: skipped, refused, held, waiting for room, or placed.
Model choices it rests on: entries 24, 25 and 63. (notes/assumptions.) -/
def Obligations.QueueEvents : Prop :=
  ∀ (s : State) (p q : Nat) (widx : Word),
    (q < 1024 → queueEn (s.queue p q).ctl = true → s.queueOk p (s.queue p q) = true →
      let w := s.indexWord (s.queue p q).waddr widx
      ((s.queue p q).rindex.toNat ≤ w → w ≤ (s.queue p q).rindex.toNat + 2 ^ queueExp (s.queue p q).ctl →
        Goes (.doorbell p q widx) s (s.setQueue p q (Queue.rested { s.queue p q with windex := BitVec.ofNat 64 w }))) ∧
      (w < (s.queue p q).rindex.toNat ∨ (s.queue p q).rindex.toNat + 2 ^ queueExp (s.queue p q).ctl < w →
        ∃ s', Goes (.doorbell p q widx) s s' ∧ queueEn (s'.queue p q).ctl = false)) ∧
    ((s.part p).lastQuantum + (s.part p).quantum * 1000 ≤ s.time → ∃ s', Goes (.quantumBoundary p) s s' ∧
      (s'.part p).lastQuantum = s.time ∧ (s'.part p).queues.length = (s.part p).queues.length ∧ s'.threads = s.threads ∧ SameBytes s s') ∧
    (s.time < (s.part p).lastQuantum + (s.part p).quantum * 1000 → Goes (.quantumBoundary p) s s) ∧
    (∀ rec', (s.queue p q).resident = true → s.isTurn p q = true →
      let s1 := (s.setPart p { s.part p with lastServed := assocSet (s.queue p q).level q (s.part p).lastServed }).readQueue p q widx
      let d := s1.queue p q
      (d.hasWork = false → Goes (.slotService p q widx rec') s s1) ∧
      (d.hasWork = true → Goes (.slotService p q widx rec') s
        ((s1.setQueue p q { d with head := d.head.or (some (s1.readRecord d rec')) }).tryHead p q))) ∧
    (∀ r, PlacementDue s p q →
      (∀ n, (s.queue p q).head = some r → (s.queue p q).skip = n + 1 → Goes (.launchPlacement p q) s (s.skipHead p q n r)) ∧
      (∀ v, (s.queue p q).head = some r → (s.queue p q).skip = 0 → s.formatFault p r = some v →
        Goes (.launchPlacement p q) s (s.refuseHead p q r 0x0102 v)) ∧
      ((s.queue p q).head = some r → (s.queue p q).skip = 0 → s.formatFault p r = none → s.shapeFault p (launchShape r) = true →
        Goes (.launchPlacement p q) s (s.refuseHead p q r 0x0101 0)) ∧
      (HeadSound s p q r → condHolds r (s.queue p q).prevResult = false →
        Goes (.launchPlacement p q) s (s.skipHead p q (field (r.getD 5 0) 8 8) r)) ∧
      (HeadFree s p q r → (∀ s1, s.placeLaunch p q r = some s1 → Goes (.launchPlacement p q) s (s1.takeHead p q)) ∧
        (s.placeLaunch p q r = none → Goes (.launchPlacement p q) s (s.setQueue p q (s.queue p q))))) ∧
    (∀ r, (s.queue p q).held = true → Goes (.lbrelPlace p q) s (s.setQueue p q { s.queue p q with held := false, passed := true }) ∧
      ((s.queue p q).head = some r → Goes (.lbrelSkip p q) s (s.skipHead p q 0 r))) ∧
    (∀ n r, ((s.skipHead p q n r).queue p q).rindex = (s.queue p q).rindex + 1 ∧ ((s.skipHead p q n r).queue p q).head = none ∧
      ((s.skipHead p q n r).queue p q).skip = n)

/-- R16, R17, R33, R303, R305, R310, R320, R372-R375, R382, R387, R430: a crew's end, and what the foreman's registers do: those that hold
a value, the queue descriptors, stops, resumptions, denials, invalidations and repartitions.
Model choices it rests on: entries 8 (numbers of invalidations) and 23. (notes/assumptions.) -/
def Obligations.ForemanEvents : Prop :=
  ∀ (s : State) (p : Nat) (v : Word),
    (∀ crew w, s.crew crew = some w → w.stopped = none → s.crewOver crew w = true →
      (s.wroteHost (crewPart crew) w.record && s.writesOut crew) = false → ∃ s', Goes (.crewEnd crew) s s' ∧
        (∀ x t, s'.thread x = some t → t.crew ≠ crew) ∧ (∀ x t, s.thread x = some t → t.crew ≠ crew → ∃ t', s'.thread x = some t' ∧ t'.crew = t.crew)) ∧
    (Goes (.foremanRegisterWrite p 0x08 v) s (s.setPart p { s.part p with guildTab := v }) ∧
     Goes (.foremanRegisterWrite p 0x10 v) s (s.setPart p { s.part p with handleTab := v }) ∧
     Goes (.foremanRegisterWrite p 0x38 v) s (s.setPart p { s.part p with stopBase := v, stopNext := 0 }) ∧
     Goes (.foremanRegisterWrite p 0x40 v) s (s.setPart p { s.part p with stopSize := v }) ∧
     (100 ≤ v.toNat → v.toNat ≤ 100000 → Goes (.foremanRegisterWrite p 0x48 v) s (s.setPart p { s.part p with quantum := v.toNat })) ∧
     (v.toNat < 100 ∨ 100000 < v.toNat → Goes (.foremanRegisterWrite p 0x48 v) s s) ∧
     Goes (.foremanRegisterWrite p 0x68 v) s (s.setPart p { s.part p with tlbAddr := v }) ∧
     ((∀ e ∈ s.threads, crewPart e.2.crew ≠ p) →
       Goes (.foremanRegisterWrite p 0x128 v) s
         (s.setPart p { s.part p with spillBase := BitVec.ofNat 64 (v.toNat / 2 ^ 16 * 2 ^ 16) })) ∧
     ((∃ e ∈ s.threads, crewPart e.2.crew = p) → Goes (.foremanRegisterWrite p 0x128 v) s s) ∧
     (∀ off, off % 8 ≠ 0 ∨ 0x20000 ≤ off → Goes (.foremanRegisterWrite p off v) s s)) ∧
    (∀ serial w, s.crew (p * 2 ^ 32 + serial) = some w →
      Goes (.stopreq p serial) s (s.setCrew (p * 2 ^ 32 + serial) { w with stopping := w.stopping.or (some (0, none)) }) ∧
      (w.stopping.isSome = true → Goes (.resume p serial) s (s.setCrew (p * 2 ^ 32 + serial) { w with resume := true }))) ∧
    (∀ tid t cause va, v.toNat < 2 ^ 22 → v.toNat / 2 ^ 19 = p → s.threadOfVcn v.toNat = some tid → s.thread tid = some t →
      t.run = .parked cause va → Goes (.pfdeny p v) s (s.setThread tid { t with run := .running, denied := some va })) ∧
    (∀ g, (∃ s', Goes (.tlbcmdPage p g) s s' ∧ Invalidates s s' p 0 (s.part p).tlbAddr g) ∧
      (∃ s', Goes (.tlbcmdGuild p g) s s' ∧ Invalidates s s' p 1 (s.part p).tlbAddr g) ∧
      ∃ s', Goes (.tlbcmdAll p) s s' ∧ Invalidates s s' p 2 (s.part p).tlbAddr 0) ∧
    (∀ i x, (s.part p).invals[i]? = some x → s.quietFor p x = true → ∃ s', Goes (.tlbinvComplete p i) s s' ∧
      (s'.part p).invals = (s.part p).invals.eraseIdx i ∧
      (∀ c, s.partOf (dieOf c) = p → ∀ e ∈ (s'.core c).tlb, e ∈ (s.core c).tlb ∧ survives x e) ∧
      (∀ c, s.partOf (c / 100) = p → ∀ e ∈ (s'.cluster c).tlb, e ∈ (s.cluster c).tlb ∧ survives x e)) ∧
    (∀ bits : BitVec 8,
      (rangesAligned (bits ||| 1) = false → Goes (.modcfg bits) s { s with modStatus := 2 }) ∧
      (rangesAligned (bits ||| 1) = true → rangesPure (bits ||| 1) s.present = false → Goes (.modcfg bits) s { s with modStatus := 3 }) ∧
      (rangesAligned (bits ||| 1) = true → rangesPure (bits ||| 1) s.present = true → NoCrewMoves s (bits ||| 1) →
        Goes (.modcfg bits) s { s with modcfg := bits ||| 1, modStatus := 0 }) ∧
      (rangesAligned (bits ||| 1) = true → rangesPure (bits ||| 1) s.present = true → ¬ NoCrewMoves s (bits ||| 1) →
        Goes (.modcfg bits) s { s with modStatus := 1 }))

/-- R344, R345, R368, R381-R388, R429: a gang stop halts every member and leaves its record to be written where that does not fit; where it
fits, the record is written, the threads are released and the event follows; a resumption places the members again on their cores, with
the registers of their images; a snapshot's end, failure and restoration.
Model choices it rests on: entries 4 (the length of the remainder), 29, 36, 37 (slots after a resumption), 38, 39, 40, 54 and 55. (notes/assumptions.) -/
def Obligations.StopEvents : Prop :=
  ∀ (s : State),
    (∀ crew w, s.crew crew = some w → s.mayHalt crew w = true → Members s w → (w.members.map Prod.snd).Nodup →
      (∀ n, (s.part (crewPart crew)).recordPlace n = none) → ∃ s' w' k, Goes (.gangStop crew) s s' ∧ s'.crew crew = some w' ∧
        w'.stopped = some k ∧ k.recordAt = none ∧ (some k.cause = w.stopping.map Prod.fst) ∧ some k.raiser = w.stopping.map Prod.snd ∧
        ∀ m ∈ w.members, ∃ t t', s.thread m.2 = some t ∧ s'.thread m.2 = some t' ∧ t'.run = .stopped ∧
          (∀ c ∈ t'.chunks, c.ungranted = false) ∧ t'.arch = t.settled.arch) ∧
    (∀ crew w cause raiser pa, s.crew crew = some w → s.mayHalt crew w = true → w.stopping = some (cause, raiser) → cause ≠ 0x0B →
      Members s w → (w.members.map Prod.snd).Nodup →
      let p := crewPart crew
      let size := 64 + (32 + (0x400 + 64 * w.vregs + 1024 * w.tiles)) * w.members.length + (Config.freeWord s.free).toNat % 2 ^ 48
      let cut := (w.members.map fun m => ((s.thread m.2).map Thread.commitno).getD 0).foldl max w.lastNo
      (s.part p).recordPlace size = some pa → ∃ s' w' k, Goes (.gangStop crew) s s' ∧
        s'.crew crew = some w' ∧ w'.stopped = some k ∧ k.recordAt = some pa ∧ k.cause = cause ∧ k.raiser = raiser ∧ k.cut = cut ∧
        (∀ x t, s'.thread x = some t → t.crew ≠ crew) ∧
        (∀ m ∈ w.members, ∀ t, s.thread m.2 = some t → ∃ t', (m.2, t') ∈ k.members ∧ t'.arch = t.settled.arch) ∧
        (s'.part p).events = (s.part p).events ++ [reportOf s p none 2 cause
          ((raiser.bind fun l => (assocGet? l w.members).map s.vcnReg).getD 0) (raiser.getD 0) w.guild.toNat crew (BitVec.ofNat 64 pa)] ∧
        (WritesFreely s p → MemCanonical s → pa + size ≤ 2 ^ 52 →
          s'.readWord pa = BitVec.ofNat 64 (crew % 2 ^ 32) ∧ s'.readWord (pa + 8) = BitVec.ofNat 64 cut ∧
          s'.readWord (pa + 16) = BitVec.ofNat 64 w.members.length ∧
          s'.readWord (pa + 24) = BitVec.ofNat 64 (cause + raiser.getD 0 * 2 ^ 8) ∧ s'.readWord (pa + 32) = BitVec.ofNat 64 size ∧
          ∀ n m t, w.members[n]? = some m → s.thread m.2 = some t → Saves (recordImage s' w pa [] n) t.settled.arch)) ∧
    (∀ crew w k p, s.crew crew = some w → w.stopped = some k → k.recordAt = none → crewPart crew = p →
      (∀ e ∈ s.crews, e.1 ≠ crew → e.2.stopped = none) → (∀ e ∈ s.crews, e.1 = crew → e.2 = w) →
      (s.writeRecord crew w k = none → Goes (.stopRecordWrite p) s s) ∧
      ∀ s', s.writeRecord crew w k = some s' → Goes (.stopRecordWrite p) s s') ∧
    (∀ crew w k pa host, s.crew crew = some w → w.stopped = some k → k.recordAt = some pa → w.resume = true →
      let img := recordImage s w pa host
      let fits := ∀ n m, k.members[n]? = some m → statusOk w m.2.arch (dwordOf (img n) 65) = true
      let seat := seatOf (s.seats w)
      (¬ fits → Goes (.resumption ⟨crew, host⟩) s (s.setCrew crew { w with resume := false })) ∧
      (fits → s.roomAgain w k = true → (k.members.map fun m => seat m.1).Nodup → ∃ s' w', Goes (.resumption ⟨crew, host⟩) s s' ∧
        s'.crew crew = some w' ∧ w'.stopped = none ∧ w'.stopping = none ∧ w'.resume = false ∧
        w'.members = (w.members.map fun m => (m.1, seat m.2)) ∧ (∀ m ∈ w.members, coreOf (seat m.2) = coreOf m.2) ∧
        (∀ n m, k.members[n]? = some m → ∃ t', s'.thread (seat m.1) = some t' ∧ t'.l = m.2.l ∧ t'.chunks = m.2.chunks ∧
          t'.run = ((assocGet? m.2.l k.halts).map Prod.snd).getD .running ∧ HasImage w (img n) t'.arch) ∧
        (k.deques = [] → (∀ m ∈ k.members, m.2.overflow = []) → SameBytes s s'))) ∧
    (∀ p n st, s.snapping = some (p, n) → s.snapSettled n = true → st = 0 ∨ st = 1 → ∃ s' mib,
      Goes (if st = 0 then .snapshotEnd p else .snapshotLinkFailure p) s s' ∧ s'.snapping = none ∧
      (∀ k ∈ s'.snaps, k.part = p → k.cut = n.cut → k.ok = decide (st = 0)) ∧
      (s'.part p).events.getLast? = some (reportOf s p none 6 0 0 0 0 0 (BitVec.ofNat 64 (st * 2 ^ 48 + mib)))) ∧
    (∀ p k i, s.snaps[k]? = some i → i.ok = true → i.part = p → s.snapping = none → ∃ s', Goes (.snapshotRestore p k) s s' ∧
      (s'.part p).commitNo = i.cut ∧ s'.time = s.time ∧ (∀ q, q ≠ p → s'.part q = s.part q) ∧
      (MemCanonical s → (i.mem.map Prod.fst).Nodup → ∀ a, s'.mem.read a = (assocGet? a i.mem).getD (if s.inPart p a = true then 0 else s.mem.read a)))

namespace Sys2Proof.Claims

open Sys2Proof.Machine

/-- An episode of a bench core that runs, its end being published by the bench (R404, R409): no older aged chunk comes first, nor a
released SPOST on what it writes. -/
def MayEnd (s : State) (b status : Nat) (payload : List Byte) : Prop :=
  let e := s.bench b
  s.benchBlocked (s.benchPart b) (s.publication b status (BitVec.ofNat 64 payload.length) e.steps payload ++ s.pendCells b) = false

/-- The episode has ended with a status (R404, R409): the descriptor tells it with PHASE 2, one commit has published it, and the core
executes nothing. -/
def Ended (s s' : State) (b status : Nat) : Prop :=
  (s'.bench b).running = false ∧ (s'.bench b).ending = none ∧ (s'.bench b).waiting = none ∧
    (s'.bench b).eplast = (s.bench b).eplast + 1 ∧ (s'.part (s.benchPart b)).commitNo = (s.part (s.benchPart b)).commitNo + 1 ∧
    (MemCanonical s → b < 512 → s'.readWord (descPa b 0xC0) = BitVec.ofNat 64 (s.sver b * 2 ^ 32 + status * 2 ^ 8 + 2))

/-- The address lies in HBM that stands behind it, in partition p (R135). -/
def InHbm (s : State) (addr p : Nat) : Prop :=
  addr / 2 ^ 36 < 8 ∧ addr % 2 ^ 36 < 64 * 10 ^ 9 ∧ s.present.getLsbD (addr / 2 ^ 36) = true ∧ p = s.partOf (addr / 2 ^ 36)

/-- The bytes of a run of one line of HBM are as given, and all others of HBM as before, the far atomics already released for these words
being applied first (R171); the partition's number has moved on. -/
def EdgeWritten (s s' : State) (p addr : Nat) (bs : List Byte) : Prop :=
  (s'.part p).commitNo = (s.part p).commitNo + 1 ∧
    (∀ k, k < bs.length → s'.readByte (addr + k) = bs.getD k 0) ∧
    ∀ a, a < 2 ^ 52 → a < addr ∨ addr + bs.length ≤ a → s'.readByte a = (s.settled (cellDwords (runCells addr bs))).readByte a

/-- A thread that sleeps on a link's answer. -/
def Asks (s : State) (tid id pa n : Nat) (va : Word) (t : Thread) (r : LinkReq) : Prop :=
  assocGet? id s.links = some r ∧ r.kind = .read tid pa n va none ∧ s.thread tid = some t ∧ t.run = .link id

/-- The answer of an atomic on a word of HBM, and its new word (R177, R426). -/
def fetched (s : State) (addr n : Nat) : List Byte := bytesOf n (s.settledVal addr n)

/-- What the links ask of some bytes goes on at once: the I/O die is not held, and no older aged chunk and no released SPOST comes first
(R117, R178, R432). -/
def LinkFree (s : State) (addr : Nat) (bs : List Byte) : Prop :=
  s.held 6 0 = false ∧ s.edgeFree (runCells addr bs) = true ∧ s.postHeld none (runDwords addr bs.length) = false

end Sys2Proof.Claims

/-- R402-R404, R407, R409, R411-R413, R415: what a commit brings about at a slot: a start, an abort, an accepted action, the advance of
`policyver`; the return of a waiting EP.WAITACT; and the ends that the budgets bring.
Model choices it rests on: entries 19, 20, 21, 22, 60, 65 and 71. (notes/assumptions.) -/
def Obligations.EpisodeEvents : Prop :=
  ∀ (s : State) (b : Nat),
    let e := s.bench b
    let p := s.benchPart b
    (∃ s', Goes (.start b) s s' ∧ (s'.bench b).running = false ∧ (s'.bench b).eplast = BitVec.allOnes 64 ∧
      (s'.bench b).loading = (s'.bench b).ending.isNone ∧
      (s'.bench b).ending = (if s'.descOk p (s'.bench b) = false then some (6, []) else
        if s'.overlaps b (s'.bench b) = true then some (7, []) else none) ∧
      (s'.bench b).steps = 0 ∧ (s'.bench b).pubs = 0 ∧ (s'.bench b).started = s.time ∧ (s'.bench b).x = Vector.replicate 32 0 ∧
      (s'.part p).commitNo = (s.part p).commitNo ∧
      ∀ x t, s.thread x = some t → ∃ t', s'.thread x = some t' ∧ t'.arch = t.arch ∧ t'.chunks = t.chunks) ∧
    (s.phase b ≠ 1 → Goes (.abort b) s s) ∧
    (s.phase b = 1 → MayEnd (s.setBench b (e.tick s.time)) b 5 [] → ∃ s', Goes (.abort b) s s' ∧ Ended s s' b 5) ∧
    (∃ s' a, Goes (.action b) s s' ∧ (s'.bench b).action = some a ∧ a.aseq = s.readWord (actionPa b 0) ∧
      a.aver = (s.readWord (actionPa b 8)).toNat % 2 ^ 32 ∧ a.payload = s.readRun (actionPa b 0x10) 4080 ∧
      (a.vsw = true ↔ a.aver ≠ s.laver b) ∧ (a.superseded = true ↔ s.ruleNow b = 2 ∧ s.sver b < s.policyver p) ∧
      (s'.part p).commitNo = (s.part p).commitNo) ∧
    (∀ q v, (s.part q).version = some v → q < 8 → v < 2 ^ 32 → MemCanonical s → ∃ s', Goes (.versionAdvance q) s s' ∧
      s'.policyver q = v ∧ (s'.part q).version = none) ∧
    (∀ d dst n a, e.waiting = some (d, dst, n) → e.action = some a → e.suspended = false → e.ending = none → a.superseded = false →
      s.benchBlocked p (s.pendCells b) = false → ∃ s' e', Goes (.waitactReturn b) s s' ∧
        s' = (s.setBench b e').commitCells p (s.pendCells b) ∧ e'.waiting = none ∧ e'.action = none ∧ e'.taken = true ∧ e'.vsw = a.vsw ∧
        e'.sram = Memory.writeRun e.sram dst (a.payload.take n) ∧ e'.getX d = (if d = 0 then 0 else a.aseq) ∧ e'.pc = e.pc + 4) ∧
    (∀ d dst n a, e.waiting = some (d, dst, n) → e.action = some a → e.suspended = false → e.ending = none → a.superseded = true →
      MayEnd (s.setBench b (e.tick s.time)) b 3 [] → ∃ s', Goes (.waitactReturn b) s s' ∧ Ended s s' b 3) ∧
    (e.executes = true → (e.dword 0x18).toNat % 2 ^ 40 ≠ 0 → (e.dword 0x18).toNat % 2 ^ 40 ≤ e.steps →
      MayEnd (s.setBench b (e.tick s.time)) b 2 [] → ∃ s', Goes (.instructionBudget b) s s' ∧ Ended s s' b 2) ∧
    (e.executes = true → (e.dword 0x20).toNat % 2 ^ 40 ≠ 0 → (e.dword 0x20).toNat % 2 ^ 40 ≤ e.stepNs + (s.time - e.seen) →
      MayEnd (s.setBench b (e.tick s.time)) b 2 [] → ∃ s', Goes (.timeBudget b) s s' ∧ Ended s s' b 2)

/-- R135, R166, R424-R428: reads, writes and AtomicOps of the host, requests of a peer, the module's port number, and the host's answer to a
back-invalidation. A write of one line is one edge commit; a write to a hole is reported; unsupported reads and atomics are answered
so.
Model choices it rests on: entries 33, 34 (held requests), 42, 65, 67 and 70. (notes/assumptions.) -/
def Obligations.HostAndPeerEvents : Prop :=
  ∀ (s : State) (p addr : Nat), MemCanonical s → addr < 2 ^ 39 →
    (∀ len, s.held 6 0 = false → s.postHeld none (runDwords addr len) = false → s.homesHeld addr len = false → addr + len ≤ s.bar2 →
      (InHbm s addr p → lineOf (addr + (len - 1)) = lineOf addr → 0 < len → ∃ s', Goes (.hostRead addr len false) s s' ∧
        s'.answers = s.answers ++ [(addr, (s.settled (runDwords addr len)).readRun addr len)] ∧ SameBytes s s') ∧
      (s.homePart addr = none → 0 < len → Goes (.hostRead addr len false) s { s with answers := s.answers ++ [(addr, [])] })) ∧
    (∀ bs, bs ≠ [] → InHbm s addr p → lineOf (addr + (bs.length - 1)) = lineOf addr → addr + bs.length ≤ s.bar2 →
      LinkFree s addr bs → ∃ s', Goes (.hostWrite addr bs) s s' ∧ EdgeWritten s s' p addr bs) ∧
    (∀ v, s.homePart addr = none → LinkFree s addr [v] → addr < s.bar2 → ∃ s', Goes (.hostWrite addr [v]) s s' ∧ SameBytes s s' ∧
      (s'.part s.firstPart).events = (s.part s.firstPart).events ++ [reportOf s s.firstPart none 5 0 0 0 0 0 (BitVec.ofNat 64 addr)]) ∧
    (∀ op n v c, InHbm s addr p → n = 4 ∨ n = 8 → addr % n = 0 → addr + n ≤ s.bar2 → s.held 6 0 = false →
      s.agedBlocks p none [lineOf addr] = false → s.postHeld none (runDwords addr n) = false → s.homeHeld (lineOf addr) = false → op < 3 →
      ∃ s', Goes (.hostAtomicop op addr n v c) s s' ∧ s'.answers = s.answers ++ [(addr, fetched s addr n)] ∧
        (op = 0 → s'.settledVal addr n = (s.settledVal addr n + v.toNat) % 2 ^ (8 * n)) ∧
        (op = 1 → s'.settledVal addr n = v.toNat % 2 ^ (8 * n)) ∧
        (op = 2 → s'.settledVal addr n = if s.settledVal addr n = c.toNat then v.toNat % 2 ^ (8 * n) else s.settledVal addr n)) ∧
    (∀ op n v c, 3 ≤ op → addr + n ≤ s.bar2 → s.held 6 0 = false → Goes (.hostAtomicop op addr n v c) s { s with answers := s.answers ++ [(addr, [])] }) ∧
    (∀ src num bs v c, InHbm s addr p → s.peerHeld = [] → bs ≠ [] → lineOf (addr + (bs.length - 1)) = lineOf addr →
      LinkFree s addr bs → s.homesHeld addr bs.length = false → s.hostHolds (cellLines (runCells addr bs)) = false →
      (∃ s', Goes (.peerRequest 0 src ⟨num, 0⟩ addr (runCells addr bs) v c) s s' ∧ SameBytes s s' ∧
        s'.answers = s.answers ++ [(addr, (s.settled (runDwords addr bs.length)).readRun addr bs.length)]) ∧
      (∃ s', Goes (.peerRequest 1 src ⟨num, 0⟩ addr (runCells addr bs) v c) s s' ∧ EdgeWritten s s' p addr bs ∧
        s'.peerHeld = [] ∧ s'.answers = s.answers ++ [(addr, [])])) ∧
    (∀ op src num coming bs v c, 1 ≤ op → op ≤ 5 → s.peerHeld = [] → coming ≠ 0 → Goes (.peerRequest op src ⟨num, coming⟩ addr bs v c) s
      { s with peerHeld := [⟨op, src, num, coming, addr, bs, v, c⟩] }) ∧
    (∀ (x : PeerReq) num, s.peerHeld = [x] → x.coming = 1 → num < x.num →
      s.peerHeldUp { x with coming := 0 } = false → s.hostHolds (cellLines x.cells) = false →
      Goes (.peerRequest 8 x.src ⟨num, 0⟩ 0 [] 0 0) s (({ s with peerHeld := [] } : State).peerPerform { x with coming := 0 })) ∧
    (∀ n : BitVec 8, (s.modnum = none → n.toNat < 192 → Goes (.modnumLearn n) s { s with modnum := some n }) ∧
      (s.modnum ≠ none → Goes (.modnumLearn n) s s)) ∧
    (∀ line, ∃ s', Goes (.backInvalidateAnswer line) s s' ∧ (∀ x ∈ s'.backInv, x.1 ≠ line) ∧ line ∉ s'.hostHeld ∧ SameBytes s s')

/-- R159, R165, R177, R425, R428: a request over a link: performed and answered once nothing to the same destination comes before it; a read
that is refused, or unanswered for 50 ms from the host and 1 ms from a peer, is a machine check of its reader; a write so lost is reported.
Model choices it rests on: entries 32, 33, 42 and 65. (notes/assumptions.) -/
def Obligations.LinkEvents : Prop :=
  ∀ (s : State) (id : Nat),
    (∀ tid pa n va t r bytes, Asks s tid id pa n va t r → regionOf pa ≠ 0 → bytes.length = n → s.held 6 0 = false →
      Goes (.linkCompletion id bytes) s (({ s with links := assocDrop id s.links } : State).setThread tid
        { t with run := .running, replies := t.replies ++ [(pa, bytes)] })) ∧
    (∀ r tid pa cells, assocGet? id s.links = some r → r.kind = .write tid pa cells → regionOf pa = 1 → s.linkFirst id r = true → s.held 6 0 = false →
      Goes (.linkCompletion id []) s { s with links := assocDrop id s.links }) ∧
    (∀ r bytes, assocGet? id s.links = some r → s.linkFirst id r = false → Goes (.linkCompletion id bytes) s s) ∧
    (∀ tid pa n va t r, Asks s tid id pa n va t r → (t.current s).count = 0 → t.older = [] → TakesNow t →
      let lost := takeTrap { s with links := assocDrop id s.links } tid { t with run := .running, chunks := [] } 0x11 va
      (regionOf pa = 1 ∨ regionOf pa = 2 → Goes (.linkRefusal id) s lost) ∧
      (regionOf pa = 1 → r.sent + 50000000 ≤ s.time → Goes (.linkTimeout id) s lost) ∧
      (regionOf pa = 2 → r.sent + 1000000 ≤ s.time → Goes (.linkTimeout id) s lost) ∧
      (regionOf pa = 2 → s.time < r.sent + 1000000 → Goes (.linkTimeout id) s s)) ∧
    (∀ r tid pa cells, assocGet? id s.links = some r → r.kind = .write tid pa cells → regionOf pa = 1 ∨ regionOf pa = 2 →
      ∃ s', Goes (.linkRefusal id) s s' ∧ s'.links = assocDrop id s.links ∧ SameBytes s s' ∧
        (s'.part r.part).events = (s.part r.part).events ++ [reportOf s r.part none 5 0x11 0 0 0 0 (BitVec.ofNat 64 pa)])

/-- R432-R440: power holds and their windows, shares, temperatures, ageing, scrubs, firmware, and the module reset.
Model choices it rests on: entries 4, 42 (energies and windows), 43, 44 and 45. (notes/assumptions.) -/
def Obligations.UpkeepEvents : Prop :=
  ∀ (s : State) (die : Nat),
    let u := s.upkeep
    (∀ code, code ≤ 6 → s.energyLimit code =
      [62500, 23400, 3900, 800000, 620000, 45000000, 140000000].getD code 0 * u.share / 1000000) ∧
    (∀ code blk energy, code ≤ 6 →
      (energy < s.energyLimit code → Goes (.powerHold code ⟨blk, energy⟩) s s) ∧
      (s.energyLimit code ≤ energy → (∀ h ∈ u.holds, h.1 = code → h.2.1 = blk → h.2.2 / 1000 ≠ s.time / 1000) →
        Goes (.powerHold code ⟨blk, energy⟩) s { s with upkeep := { u with holds := u.holds ++ [(code, blk, s.time)] } })) ∧
    (∀ code blk since, u.holds = [(code, blk, since)] → since ≤ s.time → u.heat = [] →
      s.held code blk = decide (s.time / 1000 = since / 1000 ∧ s.time < since + 750)) ∧
    (∀ code blk, code ≤ 6 → 1000 ≤ s.time →
      ((code, blk, s.time / 1000 - 1) ∈ u.sampled → Goes (.powerWindow code blk) s s) ∧
      ((code, blk, s.time / 1000 - 1) ∉ u.sampled → ∃ s', Goes (.powerWindow code blk) s s' ∧
        (code, blk, s.time / 1000 - 1) ∈ s'.upkeep.sampled ∧
        (∀ x ∈ s'.upkeep.holds, x.1 = code → x.2.1 = blk → s.time / 1000 - 1 < x.2.2 / 1000) ∧
        (s.heldCycles code blk (s.time / 1000 - 1) = 0 → s'.cores = s.cores ∧ SameBytes s s'))) ∧
    (∀ mw, (3600000 < mw → Goes (.drawMeasurement mw) s { s with upkeep := { u with drawHigh := s.time, share := u.share * 3600000 / mw } }) ∧
      (3400000 ≤ mw → mw ≤ 3600000 → Goes (.drawMeasurement mw) s { s with upkeep := { u with drawHigh := s.time } }) ∧
      (mw < 3400000 → Goes (.drawMeasurement mw) s s)) ∧
    (u.drawHigh + 1000000 ≤ s.time → Goes .shareRestore s { s with upkeep := { u with share := 1000000 } }) ∧
    (s.time < u.drawHigh + 1000000 → Goes .shareRestore s s) ∧
    (die ≤ 8 → ∃ s', Goes (.thermalHold die) s s' ∧ die ∈ s'.upkeep.hot ∧ s'.crews = s.crews ∧ s'.threads = s.threads) ∧
    (∀ warm, die ≤ 8 → (s.crews.map Prod.fst).Nodup → ∃ s', Goes (.thermalStop ⟨die, warm⟩) s s' ∧ die ∈ s'.upkeep.hot ∧
      (∀ d, d = die ∨ d ∈ u.hot ∨ d ∈ warm ∧ d ≤ 8 → d ∈ s'.upkeep.stopHot) ∧
      ∀ e ∈ s.crews, e.2.stopped = none → ∃ w', s'.crew e.1 = some w' ∧ w'.stopping = e.2.stopping.or (some (0x11, none))) ∧
    (∃ s', Goes (.thermalRelease die) s s' ∧ die ∉ s'.upkeep.hot ∧ die ∉ s'.upkeep.stopHot ∧ s'.crews = s.crews) ∧
    (∀ cl, ((s.cluster cl).harvest = true → Goes (.ageingCheck [cl]) s s) ∧
      ((s.cluster cl).harvest = false → (s.cluster cl).supply < 10 → ∃ s', Goes (.ageingCheck [cl]) s s' ∧
        (s'.cluster cl).supply = (s.cluster cl).supply + 1 ∧ assocGet? (u.physOf cl) s'.upkeep.ageing = some ((s.cluster cl).supply + 1)) ∧
      ((s.cluster cl).harvest = false → 10 ≤ (s.cluster cl).supply → ∃ s', Goes (.ageingCheck [cl]) s s' ∧ (s'.cluster cl).harvest = true ∧
        (s'.cluster cl).supply = (s.cluster cl).supply ∧ u.physOf cl ∈ s'.upkeep.toHarvest)) ∧
    (∀ line, ∃ s', Goes (.patrolScrub line true) s s' ∧ line ∈ s'.marked ∧ SameBytes s s') ∧
    (∀ line, ∃ s', Goes (.patrolScrub line false) s s' ∧ s'.marked = s.marked ∧ SameBytes s s') ∧
    (∀ off len, u.fwStat ≠ 1 →
      (len ≤ 2 ^ 24 → off + len ≤ s.bar2 → s.anyPlaced = false → Goes (.firmwareUpdate off len) s
        { s with upkeep := { u with fwOff := off, fwLen := len, fwStat := 1, fwBuf := s.settleAll.readRun off len, fwNew := true } }) ∧
      (2 ^ 24 < len ∨ s.anyPlaced = true → Goes (.firmwareUpdate off len) s
        { s with upkeep := { u with fwOff := off, fwLen := len, fwStat := 3 } })) ∧
    (u.fwStat = 1 → Goes (.firmwareUpdateEnd 0) s { s with upkeep := { u with fwStat := 2, fwImage := u.fwBuf, fwBuf := [] } } ∧
      ∀ result, result ≠ 0 → ∃ s' n, Goes (.firmwareUpdateEnd result) s s' ∧ s'.upkeep =
        { u with fwStat := 4, fwImage := u.fwBuf.take n ++ u.fwImage.drop n, fwBuf := [] }) ∧
    (∀ tests, ∃ s', Goes (.moduleReset tests) s s' ∧ s'.mem = [] ∧ s'.threads = [] ∧ s'.crews = [] ∧ s'.commits = [] ∧
      (∀ p, (s'.part p).commitNo = 0) ∧ (∀ d, d < 8 → s'.present.getLsbD d =
        decide (100 ≤ (dieKept (testOf tests d) d u.toHarvest).length ∧ 64 ≤ (testOf tests d).benchGood)) ∧
      (tests = [] → u.toHarvest = [] → s'.modcfg = 1 ∧ (s'.part 0).events = []))
end

