-- ==== Sys2Proof/Laws/PerInstr.lean ====
section
/-!
SUPPORT. Sys2Proof/Laws/PerInstr.lean: per instruction, the encoding read back (R34, R70, R414): decode of encode is the
instruction, and so for the words of the bench core's EP instructions.
-/

namespace Sys2Proof.Laws

/-- A field read back. -/
theorem getF_eq {k : Nat} (n lo : Nat) (v : BitVec k) (h : n / 2 ^ lo % 2 ^ k = v.toNat) : getF n lo k = v := by
  apply BitVec.eq_of_toNat_eq
  simpa [getF] using h

/-- Values laid side by side, each in its width of bits, the first lowest. -/
def pack : List (Nat × Nat) → Nat
  | [] => 0
  | (k, v) :: l => v + 2 ^ k * pack l

/-- Every value fits its width. -/
def Fits : List (Nat × Nat) → Prop
  | [] => True
  | (k, v) :: l => v < 2 ^ k ∧ Fits l

/-- The bits of some values together. -/
def width : List (Nat × Nat) → Nat
  | [] => 0
  | (k, _) :: l => k + width l

theorem pack_lt : ∀ l, Fits l → pack l < 2 ^ width l
  | [], _ => Nat.one_pos
  | (k, v) :: l, h => by
    have ih := pack_lt l h.2
    have hv := h.1
    rw [pack, width, Nat.pow_add]
    calc v + 2 ^ k * pack l < 2 ^ k + 2 ^ k * pack l := by omega
      _ = 2 ^ k * (pack l + 1) := by rw [Nat.mul_add, Nat.mul_one, Nat.add_comm]
      _ ≤ 2 ^ k * 2 ^ width l := Nat.mul_le_mul_left _ ih

/-- A value read back from the values laid side by side. -/
theorem pack_at {m v : Nat} {post : List (Nat × Nat)} (k : Nat) : ∀ pre, Fits (pre ++ (k, v) :: post) → 2 ^ k = m →
    pack (pre ++ (k, v) :: post) / 2 ^ width pre % m = v
  | [], h, hm => by
    subst hm
    simp only [List.nil_append, width, pack, Nat.pow_zero, Nat.div_one]
    rw [Nat.add_mul_mod_self_left, Nat.mod_eq_of_lt h.1]
  | (j, u) :: pre, h, hm => by
    have ih := pack_at (m := m) k pre h.2 hm
    rw [List.cons_append, pack, width, Nat.pow_add, ← Nat.div_div_eq_div_mul, Nat.add_mul_div_left _ _ (Nat.two_pow_pos j),
      Nat.div_eq_of_lt h.1, Nat.zero_add]
    exact ih

/-- The bits of some values together, counted on. -/
def place : Nat → List (Nat × Nat) → Nat
  | n, [] => n
  | n, (k, _) :: l => place (n + k) l

theorem place_eq : ∀ n l, place n l = n + width l
  | _, [] => rfl
  | n, (k, _) :: l => by rw [place, place_eq, width, Nat.add_assoc]

/-- Sixty-four bits of values make a word. -/
theorem pack_word {n : Nat} {L : List (Nat × Nat)} (hp : n = pack L) (hf : Fits L) (h : place 0 L = 64) : n < 2 ^ 64 := by
  rw [place_eq, Nat.zero_add] at h
  rw [hp, ← h]
  exact pack_lt L hf

/-- The value at a place of the list, read back from the values laid side by side. -/
theorem seg {n : Nat} {L : List (Nat × Nat)} (hp : n = pack L) (hf : Fits L) (i : Nat) {k v lo m : Nat}
    (hv : L[i]? = some (k, v)) (hlo : place 0 (L.take i) = lo) (hm : 2 ^ k = m) : n / 2 ^ lo % m = v := by
  subst hp
  rw [place_eq, Nat.zero_add] at hlo
  subst hlo
  obtain ⟨hi, he⟩ := List.getElem?_eq_some_iff.mp hv
  have hL : L = L.take i ++ (k, v) :: L.drop (i + 1) := by
    rw [← he, List.getElem_cons_drop, List.take_append_drop]
  have h := pack_at (m := m) (v := v) (post := L.drop (i + 1)) k (L.take i) (hL ▸ hf) hm
  rwa [← hL] at h

/-- A field read back. -/
theorem field {n : Nat} {L : List (Nat × Nat)} (hp : n = pack L) (hf : Fits L) (i : Nat) {k lo : Nat} {v : BitVec k}
    (hv : L[i]? = some (k, v.toNat)) (hlo : place 0 (L.take i) = lo) : getF n lo k = v :=
  getF_eq n lo v (seg hp hf i hv hlo rfl)

/-- The low byte is the first value. -/
theorem seg_low {v : Nat} {post : List (Nat × Nat)} (hf : Fits ((8, v) :: post)) : pack ((8, v) :: post) % 256 = v := by
  have h := seg rfl hf 0 (lo := 0) (m := 256) rfl rfl rfl
  simpa using h

/-- The OFF field read back. -/
theorem getOff_eq (n : Nat) (v : BitVec 21) (h : n / 2 ^ 22 % 1024 + n / 2 ^ 37 % 2048 * 1024 = v.toNat) : getOff n = v := by
  apply BitVec.eq_of_toNat_eq
  have := v.isLt
  simp only [getOff, h, BitVec.toNat_ofNat]
  omega

/-- A well-formed instruction that the opcode and its own bits select is read back. -/
theorem decode_encode {i : Instr} (hb : i.bits < 2 ^ 64) (ho : i.bits % 256 ≠ 0xF2) (hc : candidate i.bits = some i)
    (hw : i.wf = true) : decode (encode i) = i := by
  have hn : (encode i).toNat = i.bits := by
    simp only [encode, BitVec.toNat_ofNat]
    exact Nat.mod_eq_of_lt hb
  have ho' : ¬ (i.bits % 256 = 242) := ho
  simp [decode, hn, ho', hc, hw]

end Sys2Proof.Laws

namespace Sys2Proof.Laws.RoundTrip

/-- The encoding of an instruction, where it has one, is read back. -/
def Statement (i : Instr) : Prop :=
  (isIllegal i = false → i.bits ≠ 0 → i.wf = true → decode (encode i) = i) ∧ ∀ w, encodeRv i = some w → decodeRv w = i

theorem j (off : BitVec 21) (hi : BitVec 5) : Statement (.j off hi) := by
  refine ⟨fun _ _ hw => ?_, fun _ h => nomatch h⟩
  have h_off := off.isLt
  have h_hi := hi.isLt
  have hn : Instr.bits (.j off hi) = 0x202 + putOff off + putF 32 hi := rfl
  have hf : Fits [(8, 2), (14, 2), (10, off.toNat % 1024), (5, hi.toNat), (11, off.toNat / 1024), (16, 0)] := ⟨by decide, by decide, by omega, h_hi, by omega, by decide, trivial⟩
  have hp : Instr.bits (.j off hi) = pack [(8, 2), (14, 2), (10, off.toNat % 1024), (5, hi.toNat), (11, off.toNat / 1024), (16, 0)] := by
    rw [hn]
    simp only [putF, putOff, pack]
    omega
  have ho : Instr.bits (.j off hi) % 256 = 0x2 := by
    rw [hp]
    exact seg_low hf
  refine decode_encode (pack_word hp hf rfl) (by rw [ho]; decide) ?_ hw
  rw [candidate, ho]
  show some (Instr.j (getOff (Instr.bits (.j off hi))) (getF (Instr.bits (.j off hi)) 32 5)) = _
  refine congrArg some ?_
  congr 1
  · have h1 : _ / 2 ^ 22 % 1024 = _ := seg hp hf 2 rfl rfl rfl
    have h2 : _ / 2 ^ 37 % 2048 = _ := seg hp hf 4 rfl rfl rfl
    exact getOff_eq _ off (by rw [h1, h2]; omega)
  · exact field hp hf 3 rfl rfl
theorem jl (d : BitVec 6) (off : BitVec 21) (hi : BitVec 5) : Statement (.jl d off hi) := by
  refine ⟨fun _ _ hw => ?_, fun _ h => nomatch h⟩
  have h_d := d.isLt
  have h_off := off.isLt
  have h_hi := hi.isLt
  have hn : Instr.bits (.jl d off hi) = 0x203 + putF 10 d + putOff off + putF 32 hi := rfl
  have hf : Fits [(8, 3), (2, 2), (6, d.toNat), (6, 0), (10, off.toNat % 1024), (5, hi.toNat), (11, off.toNat / 1024), (16, 0)] := ⟨by decide, by decide, h_d, by decide, by omega, h_hi, by omega, by decide, trivial⟩
  have hp : Instr.bits (.jl d off hi) = pack [(8, 3), (2, 2), (6, d.toNat), (6, 0), (10, off.toNat % 1024), (5, hi.toNat), (11, off.toNat / 1024), (16, 0)] := by
    rw [hn]
    simp only [putF, putOff, pack]
    omega
  have ho : Instr.bits (.jl d off hi) % 256 = 0x3 := by
    rw [hp]
    exact seg_low hf
  refine decode_encode (pack_word hp hf rfl) (by rw [ho]; decide) ?_ hw
  rw [candidate, ho]
  show some (Instr.jl (getF (Instr.bits (.jl d off hi)) 10 6) (getOff (Instr.bits (.jl d off hi))) (getF (Instr.bits (.jl d off hi)) 32 5)) = _
  refine congrArg some ?_
  congr 1
  · exact field hp hf 2 rfl rfl
  · have h1 : _ / 2 ^ 22 % 1024 = _ := seg hp hf 4 rfl rfl rfl
    have h2 : _ / 2 ^ 37 % 2048 = _ := seg hp hf 6 rfl rfl rfl
    exact getOff_eq _ off (by rw [h1, h2]; omega)
  · exact field hp hf 5 rfl rfl
theorem jr (a : BitVec 6) : Statement (.jr a) := by
  refine ⟨fun _ _ hw => ?_, fun _ h => nomatch h⟩
  have h_a := a.isLt
  have hn : Instr.bits (.jr a) = 0x104 + putF 16 a := rfl
  have hf : Fits [(8, 4), (8, 1), (6, a.toNat), (42, 0)] := ⟨by decide, by decide, h_a, by decide, trivial⟩
  have hp : Instr.bits (.jr a) = pack [(8, 4), (8, 1), (6, a.toNat), (42, 0)] := by
    rw [hn]
    simp only [putF, pack]
    omega
  have ho : Instr.bits (.jr a) % 256 = 0x4 := by
    rw [hp]
    exact seg_low hf
  refine decode_encode (pack_word hp hf rfl) (by rw [ho]; decide) ?_ hw
  rw [candidate, ho]
  show some (Instr.jr (getF (Instr.bits (.jr a)) 16 6)) = _
  refine congrArg some ?_
  congr 1
  · exact field hp hf 2 rfl rfl
theorem jlr (d : BitVec 6) (a : BitVec 6) : Statement (.jlr d a) := by
  refine ⟨fun _ _ hw => ?_, fun _ h => nomatch h⟩
  have h_d := d.isLt
  have h_a := a.isLt
  have hn : Instr.bits (.jlr d a) = 0x105 + putF 10 d + putF 16 a := rfl
  have hf : Fits [(8, 5), (2, 1), (6, d.toNat), (6, a.toNat), (42, 0)] := ⟨by decide, by decide, h_d, h_a, by decide, trivial⟩
  have hp : Instr.bits (.jlr d a) = pack [(8, 5), (2, 1), (6, d.toNat), (6, a.toNat), (42, 0)] := by
    rw [hn]
    simp only [putF, pack]
    omega
  have ho : Instr.bits (.jlr d a) % 256 = 0x5 := by
    rw [hp]
    exact seg_low hf
  refine decode_encode (pack_word hp hf rfl) (by rw [ho]; decide) ?_ hw
  rw [candidate, ho]
  show some (Instr.jlr (getF (Instr.bits (.jlr d a)) 10 6) (getF (Instr.bits (.jlr d a)) 16 6)) = _
  refine congrArg some ?_
  congr 1
  · exact field hp hf 2 rfl rfl
  · exact field hp hf 3 rfl rfl
theorem beq (d : BitVec 6) (a : BitVec 6) (off : BitVec 21) (hi : BitVec 5) : Statement (.beq d a off hi) := by
  refine ⟨fun _ _ hw => ?_, fun _ h => nomatch h⟩
  have h_d := d.isLt
  have h_a := a.isLt
  have h_off := off.isLt
  have h_hi := hi.isLt
  have hn : Instr.bits (.beq d a off hi) = 0x206 + putF 10 d + putF 16 a + putOff off + putF 32 hi := rfl
  have hf : Fits [(8, 6), (2, 2), (6, d.toNat), (6, a.toNat), (10, off.toNat % 1024), (5, hi.toNat), (11, off.toNat / 1024), (16, 0)] := ⟨by decide, by decide, h_d, h_a, by omega, h_hi, by omega, by decide, trivial⟩
  have hp : Instr.bits (.beq d a off hi) = pack [(8, 6), (2, 2), (6, d.toNat), (6, a.toNat), (10, off.toNat % 1024), (5, hi.toNat), (11, off.toNat / 1024), (16, 0)] := by
    rw [hn]
    simp only [putF, putOff, pack]
    omega
  have ho : Instr.bits (.beq d a off hi) % 256 = 0x6 := by
    rw [hp]
    exact seg_low hf
  refine decode_encode (pack_word hp hf rfl) (by rw [ho]; decide) ?_ hw
  rw [candidate, ho]
  show some (Instr.beq (getF (Instr.bits (.beq d a off hi)) 10 6) (getF (Instr.bits (.beq d a off hi)) 16 6) (getOff (Instr.bits (.beq d a off hi))) (getF (Instr.bits (.beq d a off hi)) 32 5)) = _
  refine congrArg some ?_
  congr 1
  · exact field hp hf 2 rfl rfl
  · exact field hp hf 3 rfl rfl
  · have h1 : _ / 2 ^ 22 % 1024 = _ := seg hp hf 4 rfl rfl rfl
    have h2 : _ / 2 ^ 37 % 2048 = _ := seg hp hf 6 rfl rfl rfl
    exact getOff_eq _ off (by rw [h1, h2]; omega)
  · exact field hp hf 5 rfl rfl
theorem bne (d : BitVec 6) (a : BitVec 6) (off : BitVec 21) (hi : BitVec 5) : Statement (.bne d a off hi) := by
  refine ⟨fun _ _ hw => ?_, fun _ h => nomatch h⟩
  have h_d := d.isLt
  have h_a := a.isLt
  have h_off := off.isLt
  have h_hi := hi.isLt
  have hn : Instr.bits (.bne d a off hi) = 0x207 + putF 10 d + putF 16 a + putOff off + putF 32 hi := rfl
  have hf : Fits [(8, 7), (2, 2), (6, d.toNat), (6, a.toNat), (10, off.toNat % 1024), (5, hi.toNat), (11, off.toNat / 1024), (16, 0)] := ⟨by decide, by decide, h_d, h_a, by omega, h_hi, by omega, by decide, trivial⟩
  have hp : Instr.bits (.bne d a off hi) = pack [(8, 7), (2, 2), (6, d.toNat), (6, a.toNat), (10, off.toNat % 1024), (5, hi.toNat), (11, off.toNat / 1024), (16, 0)] := by
    rw [hn]
    simp only [putF, putOff, pack]
    omega
  have ho : Instr.bits (.bne d a off hi) % 256 = 0x7 := by
    rw [hp]
    exact seg_low hf
  refine decode_encode (pack_word hp hf rfl) (by rw [ho]; decide) ?_ hw
  rw [candidate, ho]
  show some (Instr.bne (getF (Instr.bits (.bne d a off hi)) 10 6) (getF (Instr.bits (.bne d a off hi)) 16 6) (getOff (Instr.bits (.bne d a off hi))) (getF (Instr.bits (.bne d a off hi)) 32 5)) = _
  refine congrArg some ?_
  congr 1
  · exact field hp hf 2 rfl rfl
  · exact field hp hf 3 rfl rfl
  · have h1 : _ / 2 ^ 22 % 1024 = _ := seg hp hf 4 rfl rfl rfl
    have h2 : _ / 2 ^ 37 % 2048 = _ := seg hp hf 6 rfl rfl rfl
    exact getOff_eq _ off (by rw [h1, h2]; omega)
  · exact field hp hf 5 rfl rfl
theorem blt (d : BitVec 6) (a : BitVec 6) (off : BitVec 21) (hi : BitVec 5) : Statement (.blt d a off hi) := by
  refine ⟨fun _ _ hw => ?_, fun _ h => nomatch h⟩
  have h_d := d.isLt
  have h_a := a.isLt
  have h_off := off.isLt
  have h_hi := hi.isLt
  have hn : Instr.bits (.blt d a off hi) = 0x208 + putF 10 d + putF 16 a + putOff off + putF 32 hi := rfl
  have hf : Fits [(8, 8), (2, 2), (6, d.toNat), (6, a.toNat), (10, off.toNat % 1024), (5, hi.toNat), (11, off.toNat / 1024), (16, 0)] := ⟨by decide, by decide, h_d, h_a, by omega, h_hi, by omega, by decide, trivial⟩
  have hp : Instr.bits (.blt d a off hi) = pack [(8, 8), (2, 2), (6, d.toNat), (6, a.toNat), (10, off.toNat % 1024), (5, hi.toNat), (11, off.toNat / 1024), (16, 0)] := by
    rw [hn]
    simp only [putF, putOff, pack]
    omega
  have ho : Instr.bits (.blt d a off hi) % 256 = 0x8 := by
    rw [hp]
    exact seg_low hf
  refine decode_encode (pack_word hp hf rfl) (by rw [ho]; decide) ?_ hw
  rw [candidate, ho]
  show some (Instr.blt (getF (Instr.bits (.blt d a off hi)) 10 6) (getF (Instr.bits (.blt d a off hi)) 16 6) (getOff (Instr.bits (.blt d a off hi))) (getF (Instr.bits (.blt d a off hi)) 32 5)) = _
  refine congrArg some ?_
  congr 1
  · exact field hp hf 2 rfl rfl
  · exact field hp hf 3 rfl rfl
  · have h1 : _ / 2 ^ 22 % 1024 = _ := seg hp hf 4 rfl rfl rfl
    have h2 : _ / 2 ^ 37 % 2048 = _ := seg hp hf 6 rfl rfl rfl
    exact getOff_eq _ off (by rw [h1, h2]; omega)
  · exact field hp hf 5 rfl rfl
theorem bge (d : BitVec 6) (a : BitVec 6) (off : BitVec 21) (hi : BitVec 5) : Statement (.bge d a off hi) := by
  refine ⟨fun _ _ hw => ?_, fun _ h => nomatch h⟩
  have h_d := d.isLt
  have h_a := a.isLt
  have h_off := off.isLt
  have h_hi := hi.isLt
  have hn : Instr.bits (.bge d a off hi) = 0x209 + putF 10 d + putF 16 a + putOff off + putF 32 hi := rfl
  have hf : Fits [(8, 9), (2, 2), (6, d.toNat), (6, a.toNat), (10, off.toNat % 1024), (5, hi.toNat), (11, off.toNat / 1024), (16, 0)] := ⟨by decide, by decide, h_d, h_a, by omega, h_hi, by omega, by decide, trivial⟩
  have hp : Instr.bits (.bge d a off hi) = pack [(8, 9), (2, 2), (6, d.toNat), (6, a.toNat), (10, off.toNat % 1024), (5, hi.toNat), (11, off.toNat / 1024), (16, 0)] := by
    rw [hn]
    simp only [putF, putOff, pack]
    omega
  have ho : Instr.bits (.bge d a off hi) % 256 = 0x9 := by
    rw [hp]
    exact seg_low hf
  refine decode_encode (pack_word hp hf rfl) (by rw [ho]; decide) ?_ hw
  rw [candidate, ho]
  show some (Instr.bge (getF (Instr.bits (.bge d a off hi)) 10 6) (getF (Instr.bits (.bge d a off hi)) 16 6) (getOff (Instr.bits (.bge d a off hi))) (getF (Instr.bits (.bge d a off hi)) 32 5)) = _
  refine congrArg some ?_
  congr 1
  · exact field hp hf 2 rfl rfl
  · exact field hp hf 3 rfl rfl
  · have h1 : _ / 2 ^ 22 % 1024 = _ := seg hp hf 4 rfl rfl rfl
    have h2 : _ / 2 ^ 37 % 2048 = _ := seg hp hf 6 rfl rfl rfl
    exact getOff_eq _ off (by rw [h1, h2]; omega)
  · exact field hp hf 5 rfl rfl
theorem bltu (d : BitVec 6) (a : BitVec 6) (off : BitVec 21) (hi : BitVec 5) : Statement (.bltu d a off hi) := by
  refine ⟨fun _ _ hw => ?_, fun _ h => nomatch h⟩
  have h_d := d.isLt
  have h_a := a.isLt
  have h_off := off.isLt
  have h_hi := hi.isLt
  have hn : Instr.bits (.bltu d a off hi) = 0x20a + putF 10 d + putF 16 a + putOff off + putF 32 hi := rfl
  have hf : Fits [(8, 10), (2, 2), (6, d.toNat), (6, a.toNat), (10, off.toNat % 1024), (5, hi.toNat), (11, off.toNat / 1024), (16, 0)] := ⟨by decide, by decide, h_d, h_a, by omega, h_hi, by omega, by decide, trivial⟩
  have hp : Instr.bits (.bltu d a off hi) = pack [(8, 10), (2, 2), (6, d.toNat), (6, a.toNat), (10, off.toNat % 1024), (5, hi.toNat), (11, off.toNat / 1024), (16, 0)] := by
    rw [hn]
    simp only [putF, putOff, pack]
    omega
  have ho : Instr.bits (.bltu d a off hi) % 256 = 0xa := by
    rw [hp]
    exact seg_low hf
  refine decode_encode (pack_word hp hf rfl) (by rw [ho]; decide) ?_ hw
  rw [candidate, ho]
  show some (Instr.bltu (getF (Instr.bits (.bltu d a off hi)) 10 6) (getF (Instr.bits (.bltu d a off hi)) 16 6) (getOff (Instr.bits (.bltu d a off hi))) (getF (Instr.bits (.bltu d a off hi)) 32 5)) = _
  refine congrArg some ?_
  congr 1
  · exact field hp hf 2 rfl rfl
  · exact field hp hf 3 rfl rfl
  · have h1 : _ / 2 ^ 22 % 1024 = _ := seg hp hf 4 rfl rfl rfl
    have h2 : _ / 2 ^ 37 % 2048 = _ := seg hp hf 6 rfl rfl rfl
    exact getOff_eq _ off (by rw [h1, h2]; omega)
  · exact field hp hf 5 rfl rfl
theorem bgeu (d : BitVec 6) (a : BitVec 6) (off : BitVec 21) (hi : BitVec 5) : Statement (.bgeu d a off hi) := by
  refine ⟨fun _ _ hw => ?_, fun _ h => nomatch h⟩
  have h_d := d.isLt
  have h_a := a.isLt
  have h_off := off.isLt
  have h_hi := hi.isLt
  have hn : Instr.bits (.bgeu d a off hi) = 0x20b + putF 10 d + putF 16 a + putOff off + putF 32 hi := rfl
  have hf : Fits [(8, 11), (2, 2), (6, d.toNat), (6, a.toNat), (10, off.toNat % 1024), (5, hi.toNat), (11, off.toNat / 1024), (16, 0)] := ⟨by decide, by decide, h_d, h_a, by omega, h_hi, by omega, by decide, trivial⟩
  have hp : Instr.bits (.bgeu d a off hi) = pack [(8, 11), (2, 2), (6, d.toNat), (6, a.toNat), (10, off.toNat % 1024), (5, hi.toNat), (11, off.toNat / 1024), (16, 0)] := by
    rw [hn]
    simp only [putF, putOff, pack]
    omega
  have ho : Instr.bits (.bgeu d a off hi) % 256 = 0xb := by
    rw [hp]
    exact seg_low hf
  refine decode_encode (pack_word hp hf rfl) (by rw [ho]; decide) ?_ hw
  rw [candidate, ho]
  show some (Instr.bgeu (getF (Instr.bits (.bgeu d a off hi)) 10 6) (getF (Instr.bits (.bgeu d a off hi)) 16 6) (getOff (Instr.bits (.bgeu d a off hi))) (getF (Instr.bits (.bgeu d a off hi)) 32 5)) = _
  refine congrArg some ?_
  congr 1
  · exact field hp hf 2 rfl rfl
  · exact field hp hf 3 rfl rfl
  · have h1 : _ / 2 ^ 22 % 1024 = _ := seg hp hf 4 rfl rfl rfl
    have h2 : _ / 2 ^ 37 % 2048 = _ := seg hp hf 6 rfl rfl rfl
    exact getOff_eq _ off (by rw [h1, h2]; omega)
  · exact field hp hf 5 rfl rfl
theorem bz (d : BitVec 6) (off : BitVec 21) (hi : BitVec 5) : Statement (.bz d off hi) := by
  refine ⟨fun _ _ hw => ?_, fun _ h => nomatch h⟩
  have h_d := d.isLt
  have h_off := off.isLt
  have h_hi := hi.isLt
  have hn : Instr.bits (.bz d off hi) = 0x20c + putF 10 d + putOff off + putF 32 hi := rfl
  have hf : Fits [(8, 12), (2, 2), (6, d.toNat), (6, 0), (10, off.toNat % 1024), (5, hi.toNat), (11, off.toNat / 1024), (16, 0)] := ⟨by decide, by decide, h_d, by decide, by omega, h_hi, by omega, by decide, trivial⟩
  have hp : Instr.bits (.bz d off hi) = pack [(8, 12), (2, 2), (6, d.toNat), (6, 0), (10, off.toNat % 1024), (5, hi.toNat), (11, off.toNat / 1024), (16, 0)] := by
    rw [hn]
    simp only [putF, putOff, pack]
    omega
  have ho : Instr.bits (.bz d off hi) % 256 = 0xc := by
    rw [hp]
    exact seg_low hf
  refine decode_encode (pack_word hp hf rfl) (by rw [ho]; decide) ?_ hw
  rw [candidate, ho]
  show some (Instr.bz (getF (Instr.bits (.bz d off hi)) 10 6) (getOff (Instr.bits (.bz d off hi))) (getF (Instr.bits (.bz d off hi)) 32 5)) = _
  refine congrArg some ?_
  congr 1
  · exact field hp hf 2 rfl rfl
  · have h1 : _ / 2 ^ 22 % 1024 = _ := seg hp hf 4 rfl rfl rfl
    have h2 : _ / 2 ^ 37 % 2048 = _ := seg hp hf 6 rfl rfl rfl
    exact getOff_eq _ off (by rw [h1, h2]; omega)
  · exact field hp hf 5 rfl rfl
theorem bnz (d : BitVec 6) (off : BitVec 21) (hi : BitVec 5) : Statement (.bnz d off hi) := by
  refine ⟨fun _ _ hw => ?_, fun _ h => nomatch h⟩
  have h_d := d.isLt
  have h_off := off.isLt
  have h_hi := hi.isLt
  have hn : Instr.bits (.bnz d off hi) = 0x20d + putF 10 d + putOff off + putF 32 hi := rfl
  have hf : Fits [(8, 13), (2, 2), (6, d.toNat), (6, 0), (10, off.toNat % 1024), (5, hi.toNat), (11, off.toNat / 1024), (16, 0)] := ⟨by decide, by decide, h_d, by decide, by omega, h_hi, by omega, by decide, trivial⟩
  have hp : Instr.bits (.bnz d off hi) = pack [(8, 13), (2, 2), (6, d.toNat), (6, 0), (10, off.toNat % 1024), (5, hi.toNat), (11, off.toNat / 1024), (16, 0)] := by
    rw [hn]
    simp only [putF, putOff, pack]
    omega
  have ho : Instr.bits (.bnz d off hi) % 256 = 0xd := by
    rw [hp]
    exact seg_low hf
  refine decode_encode (pack_word hp hf rfl) (by rw [ho]; decide) ?_ hw
  rw [candidate, ho]
  show some (Instr.bnz (getF (Instr.bits (.bnz d off hi)) 10 6) (getOff (Instr.bits (.bnz d off hi))) (getF (Instr.bits (.bnz d off hi)) 32 5)) = _
  refine congrArg some ?_
  congr 1
  · exact field hp hf 2 rfl rfl
  · have h1 : _ / 2 ^ 22 % 1024 = _ := seg hp hf 4 rfl rfl rfl
    have h2 : _ / 2 ^ 37 % 2048 = _ := seg hp hf 6 rfl rfl rfl
    exact getOff_eq _ off (by rw [h1, h2]; omega)
  · exact field hp hf 5 rfl rfl
theorem bmany (d : BitVec 3) (a : BitVec 2) (off : BitVec 21) (hi : BitVec 5) : Statement (.bmany d a off hi) := by
  refine ⟨fun _ _ hw => ?_, fun _ h => nomatch h⟩
  have h_d := d.isLt
  have h_a := a.isLt
  have h_off := off.isLt
  have h_hi := hi.isLt
  have hn : Instr.bits (.bmany d a off hi) = 0x20e + putF 10 d + putF 16 a + putOff off + putF 32 hi := rfl
  have hf : Fits [(8, 14), (2, 2), (3, d.toNat), (3, 0), (2, a.toNat), (4, 0), (10, off.toNat % 1024), (5, hi.toNat), (11, off.toNat / 1024), (16, 0)] := ⟨by decide, by decide, h_d, by decide, h_a, by decide, by omega, h_hi, by omega, by decide, trivial⟩
  have hp : Instr.bits (.bmany d a off hi) = pack [(8, 14), (2, 2), (3, d.toNat), (3, 0), (2, a.toNat), (4, 0), (10, off.toNat % 1024), (5, hi.toNat), (11, off.toNat / 1024), (16, 0)] := by
    rw [hn]
    simp only [putF, putOff, pack]
    omega
  have ho : Instr.bits (.bmany d a off hi) % 256 = 0xe := by
    rw [hp]
    exact seg_low hf
  refine decode_encode (pack_word hp hf rfl) (by rw [ho]; decide) ?_ hw
  rw [candidate, ho]
  show some (Instr.bmany (getF (Instr.bits (.bmany d a off hi)) 10 3) (getF (Instr.bits (.bmany d a off hi)) 16 2) (getOff (Instr.bits (.bmany d a off hi))) (getF (Instr.bits (.bmany d a off hi)) 32 5)) = _
  refine congrArg some ?_
  congr 1
  · exact field hp hf 2 rfl rfl
  · exact field hp hf 4 rfl rfl
  · have h1 : _ / 2 ^ 22 % 1024 = _ := seg hp hf 6 rfl rfl rfl
    have h2 : _ / 2 ^ 37 % 2048 = _ := seg hp hf 8 rfl rfl rfl
    exact getOff_eq _ off (by rw [h1, h2]; omega)
  · exact field hp hf 7 rfl rfl
theorem bmnone (d : BitVec 3) (a : BitVec 2) (off : BitVec 21) (hi : BitVec 5) : Statement (.bmnone d a off hi) := by
  refine ⟨fun _ _ hw => ?_, fun _ h => nomatch h⟩
  have h_d := d.isLt
  have h_a := a.isLt
  have h_off := off.isLt
  have h_hi := hi.isLt
  have hn : Instr.bits (.bmnone d a off hi) = 0x20f + putF 10 d + putF 16 a + putOff off + putF 32 hi := rfl
  have hf : Fits [(8, 15), (2, 2), (3, d.toNat), (3, 0), (2, a.toNat), (4, 0), (10, off.toNat % 1024), (5, hi.toNat), (11, off.toNat / 1024), (16, 0)] := ⟨by decide, by decide, h_d, by decide, h_a, by decide, by omega, h_hi, by omega, by decide, trivial⟩
  have hp : Instr.bits (.bmnone d a off hi) = pack [(8, 15), (2, 2), (3, d.toNat), (3, 0), (2, a.toNat), (4, 0), (10, off.toNat % 1024), (5, hi.toNat), (11, off.toNat / 1024), (16, 0)] := by
    rw [hn]
    simp only [putF, putOff, pack]
    omega
  have ho : Instr.bits (.bmnone d a off hi) % 256 = 0xf := by
    rw [hp]
    exact seg_low hf
  refine decode_encode (pack_word hp hf rfl) (by rw [ho]; decide) ?_ hw
  rw [candidate, ho]
  show some (Instr.bmnone (getF (Instr.bits (.bmnone d a off hi)) 10 3) (getF (Instr.bits (.bmnone d a off hi)) 16 2) (getOff (Instr.bits (.bmnone d a off hi))) (getF (Instr.bits (.bmnone d a off hi)) 32 5)) = _
  refine congrArg some ?_
  congr 1
  · exact field hp hf 2 rfl rfl
  · exact field hp hf 4 rfl rfl
  · have h1 : _ / 2 ^ 22 % 1024 = _ := seg hp hf 6 rfl rfl rfl
    have h2 : _ / 2 ^ 37 % 2048 = _ := seg hp hf 8 rfl rfl rfl
    exact getOff_eq _ off (by rw [h1, h2]; omega)
  · exact field hp hf 7 rfl rfl
theorem bmall (d : BitVec 3) (a : BitVec 2) (off : BitVec 21) (hi : BitVec 5) : Statement (.bmall d a off hi) := by
  refine ⟨fun _ _ hw => ?_, fun _ h => nomatch h⟩
  have h_d := d.isLt
  have h_a := a.isLt
  have h_off := off.isLt
  have h_hi := hi.isLt
  have hn : Instr.bits (.bmall d a off hi) = 0x210 + putF 10 d + putF 16 a + putOff off + putF 32 hi := rfl
  have hf : Fits [(8, 16), (2, 2), (3, d.toNat), (3, 0), (2, a.toNat), (4, 0), (10, off.toNat % 1024), (5, hi.toNat), (11, off.toNat / 1024), (16, 0)] := ⟨by decide, by decide, h_d, by decide, h_a, by decide, by omega, h_hi, by omega, by decide, trivial⟩
  have hp : Instr.bits (.bmall d a off hi) = pack [(8, 16), (2, 2), (3, d.toNat), (3, 0), (2, a.toNat), (4, 0), (10, off.toNat % 1024), (5, hi.toNat), (11, off.toNat / 1024), (16, 0)] := by
    rw [hn]
    simp only [putF, putOff, pack]
    omega
  have ho : Instr.bits (.bmall d a off hi) % 256 = 0x10 := by
    rw [hp]
    exact seg_low hf
  refine decode_encode (pack_word hp hf rfl) (by rw [ho]; decide) ?_ hw
  rw [candidate, ho]
  show some (Instr.bmall (getF (Instr.bits (.bmall d a off hi)) 10 3) (getF (Instr.bits (.bmall d a off hi)) 16 2) (getOff (Instr.bits (.bmall d a off hi))) (getF (Instr.bits (.bmall d a off hi)) 32 5)) = _
  refine congrArg some ?_
  congr 1
  · exact field hp hf 2 rfl rfl
  · exact field hp hf 4 rfl rfl
  · have h1 : _ / 2 ^ 22 % 1024 = _ := seg hp hf 6 rfl rfl rfl
    have h2 : _ / 2 ^ 37 % 2048 = _ := seg hp hf 8 rfl rfl rfl
    exact getOff_eq _ off (by rw [h1, h2]; omega)
  · exact field hp hf 7 rfl rfl
theorem waita (d : BitVec 6) (z : BitVec 1) (k : BitVec 2) (b : BitVec 6) (a : BitVec 6) (disp : BitVec 16) : Statement (.waita d z k b a disp) := by
  refine ⟨fun _ _ hw => ?_, fun _ h => nomatch h⟩
  have h_d := d.isLt
  have h_z := z.isLt
  have h_k := k.isLt
  have h_b := b.isLt
  have h_a := a.isLt
  have h_disp := disp.isLt
  have hn : Instr.bits (.waita d z k b a disp) = 0x213 + putF 10 d + putF 31 z + putF 28 k + putF 22 b + putF 16 a + putF 32 disp := rfl
  have hf : Fits [(8, 19), (2, 2), (6, d.toNat), (6, a.toNat), (6, b.toNat), (2, k.toNat), (1, 0), (1, z.toNat), (16, disp.toNat), (16, 0)] := ⟨by decide, by decide, h_d, h_a, h_b, h_k, by decide, h_z, h_disp, by decide, trivial⟩
  have hp : Instr.bits (.waita d z k b a disp) = pack [(8, 19), (2, 2), (6, d.toNat), (6, a.toNat), (6, b.toNat), (2, k.toNat), (1, 0), (1, z.toNat), (16, disp.toNat), (16, 0)] := by
    rw [hn]
    simp only [putF, pack]
    omega
  have ho : Instr.bits (.waita d z k b a disp) % 256 = 0x13 := by
    rw [hp]
    exact seg_low hf
  refine decode_encode (pack_word hp hf rfl) (by rw [ho]; decide) ?_ hw
  rw [candidate, ho]
  show some (Instr.waita (getF (Instr.bits (.waita d z k b a disp)) 10 6) (getF (Instr.bits (.waita d z k b a disp)) 31 1) (getF (Instr.bits (.waita d z k b a disp)) 28 2) (getF (Instr.bits (.waita d z k b a disp)) 22 6) (getF (Instr.bits (.waita d z k b a disp)) 16 6) (getF (Instr.bits (.waita d z k b a disp)) 32 16)) = _
  refine congrArg some ?_
  congr 1
  · exact field hp hf 2 rfl rfl
  · exact field hp hf 7 rfl rfl
  · exact field hp hf 5 rfl rfl
  · exact field hp hf 4 rfl rfl
  · exact field hp hf 3 rfl rfl
  · exact field hp hf 8 rfl rfl
theorem add (d : BitVec 6) (w : BitVec 1) (b : BitVec 6) (a : BitVec 6) : Statement (.add d w b a) := by
  refine ⟨fun _ _ hw => ?_, fun _ h => nomatch h⟩
  have h_d := d.isLt
  have h_w := w.isLt
  have h_b := b.isLt
  have h_a := a.isLt
  have hn : Instr.bits (.add d w b a) = 0x120 + putF 10 d + putF 28 w + putF 22 b + putF 16 a := rfl
  have hf : Fits [(8, 32), (2, 1), (6, d.toNat), (6, a.toNat), (6, b.toNat), (1, w.toNat), (35, 0)] := ⟨by decide, by decide, h_d, h_a, h_b, h_w, by decide, trivial⟩
  have hp : Instr.bits (.add d w b a) = pack [(8, 32), (2, 1), (6, d.toNat), (6, a.toNat), (6, b.toNat), (1, w.toNat), (35, 0)] := by
    rw [hn]
    simp only [putF, pack]
    omega
  have ho : Instr.bits (.add d w b a) % 256 = 0x20 := by
    rw [hp]
    exact seg_low hf
  refine decode_encode (pack_word hp hf rfl) (by rw [ho]; decide) ?_ hw
  rw [candidate, ho]
  show some (Instr.add (getF (Instr.bits (.add d w b a)) 10 6) (getF (Instr.bits (.add d w b a)) 28 1) (getF (Instr.bits (.add d w b a)) 22 6) (getF (Instr.bits (.add d w b a)) 16 6)) = _
  refine congrArg some ?_
  congr 1
  · exact field hp hf 2 rfl rfl
  · exact field hp hf 5 rfl rfl
  · exact field hp hf 4 rfl rfl
  · exact field hp hf 3 rfl rfl
theorem sub (d : BitVec 6) (w : BitVec 1) (b : BitVec 6) (a : BitVec 6) : Statement (.sub d w b a) := by
  refine ⟨fun _ _ hw => ?_, fun _ h => nomatch h⟩
  have h_d := d.isLt
  have h_w := w.isLt
  have h_b := b.isLt
  have h_a := a.isLt
  have hn : Instr.bits (.sub d w b a) = 0x121 + putF 10 d + putF 28 w + putF 22 b + putF 16 a := rfl
  have hf : Fits [(8, 33), (2, 1), (6, d.toNat), (6, a.toNat), (6, b.toNat), (1, w.toNat), (35, 0)] := ⟨by decide, by decide, h_d, h_a, h_b, h_w, by decide, trivial⟩
  have hp : Instr.bits (.sub d w b a) = pack [(8, 33), (2, 1), (6, d.toNat), (6, a.toNat), (6, b.toNat), (1, w.toNat), (35, 0)] := by
    rw [hn]
    simp only [putF, pack]
    omega
  have ho : Instr.bits (.sub d w b a) % 256 = 0x21 := by
    rw [hp]
    exact seg_low hf
  refine decode_encode (pack_word hp hf rfl) (by rw [ho]; decide) ?_ hw
  rw [candidate, ho]
  show some (Instr.sub (getF (Instr.bits (.sub d w b a)) 10 6) (getF (Instr.bits (.sub d w b a)) 28 1) (getF (Instr.bits (.sub d w b a)) 22 6) (getF (Instr.bits (.sub d w b a)) 16 6)) = _
  refine congrArg some ?_
  congr 1
  · exact field hp hf 2 rfl rfl
  · exact field hp hf 5 rfl rfl
  · exact field hp hf 4 rfl rfl
  · exact field hp hf 3 rfl rfl
theorem addi (d : BitVec 6) (i : BitVec 10) (a : BitVec 6) : Statement (.addi d i a) := by
  refine ⟨fun _ _ hw => ?_, fun _ h => nomatch h⟩
  have h_d := d.isLt
  have h_i := i.isLt
  have h_a := a.isLt
  have hn : Instr.bits (.addi d i a) = 0x122 + putF 10 d + putF 22 i + putF 16 a := rfl
  have hf : Fits [(8, 34), (2, 1), (6, d.toNat), (6, a.toNat), (10, i.toNat), (32, 0)] := ⟨by decide, by decide, h_d, h_a, h_i, by decide, trivial⟩
  have hp : Instr.bits (.addi d i a) = pack [(8, 34), (2, 1), (6, d.toNat), (6, a.toNat), (10, i.toNat), (32, 0)] := by
    rw [hn]
    simp only [putF, pack]
    omega
  have ho : Instr.bits (.addi d i a) % 256 = 0x22 := by
    rw [hp]
    exact seg_low hf
  refine decode_encode (pack_word hp hf rfl) (by rw [ho]; decide) ?_ hw
  rw [candidate, ho]
  show some (Instr.addi (getF (Instr.bits (.addi d i a)) 10 6) (getF (Instr.bits (.addi d i a)) 22 10) (getF (Instr.bits (.addi d i a)) 16 6)) = _
  refine congrArg some ?_
  congr 1
  · exact field hp hf 2 rfl rfl
  · exact field hp hf 4 rfl rfl
  · exact field hp hf 3 rfl rfl
theorem mul (d : BitVec 6) (w : BitVec 1) (b : BitVec 6) (a : BitVec 6) : Statement (.mul d w b a) := by
  refine ⟨fun _ _ hw => ?_, fun _ h => nomatch h⟩
  have h_d := d.isLt
  have h_w := w.isLt
  have h_b := b.isLt
  have h_a := a.isLt
  have hn : Instr.bits (.mul d w b a) = 0x123 + putF 10 d + putF 28 w + putF 22 b + putF 16 a := rfl
  have hf : Fits [(8, 35), (2, 1), (6, d.toNat), (6, a.toNat), (6, b.toNat), (1, w.toNat), (35, 0)] := ⟨by decide, by decide, h_d, h_a, h_b, h_w, by decide, trivial⟩
  have hp : Instr.bits (.mul d w b a) = pack [(8, 35), (2, 1), (6, d.toNat), (6, a.toNat), (6, b.toNat), (1, w.toNat), (35, 0)] := by
    rw [hn]
    simp only [putF, pack]
    omega
  have ho : Instr.bits (.mul d w b a) % 256 = 0x23 := by
    rw [hp]
    exact seg_low hf
  refine decode_encode (pack_word hp hf rfl) (by rw [ho]; decide) ?_ hw
  rw [candidate, ho]
  show some (Instr.mul (getF (Instr.bits (.mul d w b a)) 10 6) (getF (Instr.bits (.mul d w b a)) 28 1) (getF (Instr.bits (.mul d w b a)) 22 6) (getF (Instr.bits (.mul d w b a)) 16 6)) = _
  refine congrArg some ?_
  congr 1
  · exact field hp hf 2 rfl rfl
  · exact field hp hf 5 rfl rfl
  · exact field hp hf 4 rfl rfl
  · exact field hp hf 3 rfl rfl
theorem mulh (d : BitVec 6) (b : BitVec 6) (a : BitVec 6) : Statement (.mulh d b a) := by
  refine ⟨fun _ _ hw => ?_, fun _ h => nomatch h⟩
  have h_d := d.isLt
  have h_b := b.isLt
  have h_a := a.isLt
  have hn : Instr.bits (.mulh d b a) = 0x124 + putF 10 d + putF 22 b + putF 16 a := rfl
  have hf : Fits [(8, 36), (2, 1), (6, d.toNat), (6, a.toNat), (6, b.toNat), (36, 0)] := ⟨by decide, by decide, h_d, h_a, h_b, by decide, trivial⟩
  have hp : Instr.bits (.mulh d b a) = pack [(8, 36), (2, 1), (6, d.toNat), (6, a.toNat), (6, b.toNat), (36, 0)] := by
    rw [hn]
    simp only [putF, pack]
    omega
  have ho : Instr.bits (.mulh d b a) % 256 = 0x24 := by
    rw [hp]
    exact seg_low hf
  refine decode_encode (pack_word hp hf rfl) (by rw [ho]; decide) ?_ hw
  rw [candidate, ho]
  show some (Instr.mulh (getF (Instr.bits (.mulh d b a)) 10 6) (getF (Instr.bits (.mulh d b a)) 22 6) (getF (Instr.bits (.mulh d b a)) 16 6)) = _
  refine congrArg some ?_
  congr 1
  · exact field hp hf 2 rfl rfl
  · exact field hp hf 4 rfl rfl
  · exact field hp hf 3 rfl rfl
theorem mulhu (d : BitVec 6) (b : BitVec 6) (a : BitVec 6) : Statement (.mulhu d b a) := by
  refine ⟨fun _ _ hw => ?_, fun _ h => nomatch h⟩
  have h_d := d.isLt
  have h_b := b.isLt
  have h_a := a.isLt
  have hn : Instr.bits (.mulhu d b a) = 0x125 + putF 10 d + putF 22 b + putF 16 a := rfl
  have hf : Fits [(8, 37), (2, 1), (6, d.toNat), (6, a.toNat), (6, b.toNat), (36, 0)] := ⟨by decide, by decide, h_d, h_a, h_b, by decide, trivial⟩
  have hp : Instr.bits (.mulhu d b a) = pack [(8, 37), (2, 1), (6, d.toNat), (6, a.toNat), (6, b.toNat), (36, 0)] := by
    rw [hn]
    simp only [putF, pack]
    omega
  have ho : Instr.bits (.mulhu d b a) % 256 = 0x25 := by
    rw [hp]
    exact seg_low hf
  refine decode_encode (pack_word hp hf rfl) (by rw [ho]; decide) ?_ hw
  rw [candidate, ho]
  show some (Instr.mulhu (getF (Instr.bits (.mulhu d b a)) 10 6) (getF (Instr.bits (.mulhu d b a)) 22 6) (getF (Instr.bits (.mulhu d b a)) 16 6)) = _
  refine congrArg some ?_
  congr 1
  · exact field hp hf 2 rfl rfl
  · exact field hp hf 4 rfl rfl
  · exact field hp hf 3 rfl rfl
theorem div (d : BitVec 6) (w : BitVec 1) (b : BitVec 6) (a : BitVec 6) : Statement (.div d w b a) := by
  refine ⟨fun _ _ hw => ?_, fun _ h => nomatch h⟩
  have h_d := d.isLt
  have h_w := w.isLt
  have h_b := b.isLt
  have h_a := a.isLt
  have hn : Instr.bits (.div d w b a) = 0x126 + putF 10 d + putF 28 w + putF 22 b + putF 16 a := rfl
  have hf : Fits [(8, 38), (2, 1), (6, d.toNat), (6, a.toNat), (6, b.toNat), (1, w.toNat), (35, 0)] := ⟨by decide, by decide, h_d, h_a, h_b, h_w, by decide, trivial⟩
  have hp : Instr.bits (.div d w b a) = pack [(8, 38), (2, 1), (6, d.toNat), (6, a.toNat), (6, b.toNat), (1, w.toNat), (35, 0)] := by
    rw [hn]
    simp only [putF, pack]
    omega
  have ho : Instr.bits (.div d w b a) % 256 = 0x26 := by
    rw [hp]
    exact seg_low hf
  refine decode_encode (pack_word hp hf rfl) (by rw [ho]; decide) ?_ hw
  rw [candidate, ho]
  show some (Instr.div (getF (Instr.bits (.div d w b a)) 10 6) (getF (Instr.bits (.div d w b a)) 28 1) (getF (Instr.bits (.div d w b a)) 22 6) (getF (Instr.bits (.div d w b a)) 16 6)) = _
  refine congrArg some ?_
  congr 1
  · exact field hp hf 2 rfl rfl
  · exact field hp hf 5 rfl rfl
  · exact field hp hf 4 rfl rfl
  · exact field hp hf 3 rfl rfl
theorem divu (d : BitVec 6) (w : BitVec 1) (b : BitVec 6) (a : BitVec 6) : Statement (.divu d w b a) := by
  refine ⟨fun _ _ hw => ?_, fun _ h => nomatch h⟩
  have h_d := d.isLt
  have h_w := w.isLt
  have h_b := b.isLt
  have h_a := a.isLt
  have hn : Instr.bits (.divu d w b a) = 0x127 + putF 10 d + putF 28 w + putF 22 b + putF 16 a := rfl
  have hf : Fits [(8, 39), (2, 1), (6, d.toNat), (6, a.toNat), (6, b.toNat), (1, w.toNat), (35, 0)] := ⟨by decide, by decide, h_d, h_a, h_b, h_w, by decide, trivial⟩
  have hp : Instr.bits (.divu d w b a) = pack [(8, 39), (2, 1), (6, d.toNat), (6, a.toNat), (6, b.toNat), (1, w.toNat), (35, 0)] := by
    rw [hn]
    simp only [putF, pack]
    omega
  have ho : Instr.bits (.divu d w b a) % 256 = 0x27 := by
    rw [hp]
    exact seg_low hf
  refine decode_encode (pack_word hp hf rfl) (by rw [ho]; decide) ?_ hw
  rw [candidate, ho]
  show some (Instr.divu (getF (Instr.bits (.divu d w b a)) 10 6) (getF (Instr.bits (.divu d w b a)) 28 1) (getF (Instr.bits (.divu d w b a)) 22 6) (getF (Instr.bits (.divu d w b a)) 16 6)) = _
  refine congrArg some ?_
  congr 1
  · exact field hp hf 2 rfl rfl
  · exact field hp hf 5 rfl rfl
  · exact field hp hf 4 rfl rfl
  · exact field hp hf 3 rfl rfl
theorem rem (d : BitVec 6) (w : BitVec 1) (b : BitVec 6) (a : BitVec 6) : Statement (.rem d w b a) := by
  refine ⟨fun _ _ hw => ?_, fun _ h => nomatch h⟩
  have h_d := d.isLt
  have h_w := w.isLt
  have h_b := b.isLt
  have h_a := a.isLt
  have hn : Instr.bits (.rem d w b a) = 0x128 + putF 10 d + putF 28 w + putF 22 b + putF 16 a := rfl
  have hf : Fits [(8, 40), (2, 1), (6, d.toNat), (6, a.toNat), (6, b.toNat), (1, w.toNat), (35, 0)] := ⟨by decide, by decide, h_d, h_a, h_b, h_w, by decide, trivial⟩
  have hp : Instr.bits (.rem d w b a) = pack [(8, 40), (2, 1), (6, d.toNat), (6, a.toNat), (6, b.toNat), (1, w.toNat), (35, 0)] := by
    rw [hn]
    simp only [putF, pack]
    omega
  have ho : Instr.bits (.rem d w b a) % 256 = 0x28 := by
    rw [hp]
    exact seg_low hf
  refine decode_encode (pack_word hp hf rfl) (by rw [ho]; decide) ?_ hw
  rw [candidate, ho]
  show some (Instr.rem (getF (Instr.bits (.rem d w b a)) 10 6) (getF (Instr.bits (.rem d w b a)) 28 1) (getF (Instr.bits (.rem d w b a)) 22 6) (getF (Instr.bits (.rem d w b a)) 16 6)) = _
  refine congrArg some ?_
  congr 1
  · exact field hp hf 2 rfl rfl
  · exact field hp hf 5 rfl rfl
  · exact field hp hf 4 rfl rfl
  · exact field hp hf 3 rfl rfl
theorem remu (d : BitVec 6) (w : BitVec 1) (b : BitVec 6) (a : BitVec 6) : Statement (.remu d w b a) := by
  refine ⟨fun _ _ hw => ?_, fun _ h => nomatch h⟩
  have h_d := d.isLt
  have h_w := w.isLt
  have h_b := b.isLt
  have h_a := a.isLt
  have hn : Instr.bits (.remu d w b a) = 0x129 + putF 10 d + putF 28 w + putF 22 b + putF 16 a := rfl
  have hf : Fits [(8, 41), (2, 1), (6, d.toNat), (6, a.toNat), (6, b.toNat), (1, w.toNat), (35, 0)] := ⟨by decide, by decide, h_d, h_a, h_b, h_w, by decide, trivial⟩
  have hp : Instr.bits (.remu d w b a) = pack [(8, 41), (2, 1), (6, d.toNat), (6, a.toNat), (6, b.toNat), (1, w.toNat), (35, 0)] := by
    rw [hn]
    simp only [putF, pack]
    omega
  have ho : Instr.bits (.remu d w b a) % 256 = 0x29 := by
    rw [hp]
    exact seg_low hf
  refine decode_encode (pack_word hp hf rfl) (by rw [ho]; decide) ?_ hw
  rw [candidate, ho]
  show some (Instr.remu (getF (Instr.bits (.remu d w b a)) 10 6) (getF (Instr.bits (.remu d w b a)) 28 1) (getF (Instr.bits (.remu d w b a)) 22 6) (getF (Instr.bits (.remu d w b a)) 16 6)) = _
  refine congrArg some ?_
  congr 1
  · exact field hp hf 2 rfl rfl
  · exact field hp hf 5 rfl rfl
  · exact field hp hf 4 rfl rfl
  · exact field hp hf 3 rfl rfl
theorem and (d : BitVec 6) (b : BitVec 6) (a : BitVec 6) : Statement (.and d b a) := by
  refine ⟨fun _ _ hw => ?_, fun _ h => nomatch h⟩
  have h_d := d.isLt
  have h_b := b.isLt
  have h_a := a.isLt
  have hn : Instr.bits (.and d b a) = 0x12a + putF 10 d + putF 22 b + putF 16 a := rfl
  have hf : Fits [(8, 42), (2, 1), (6, d.toNat), (6, a.toNat), (6, b.toNat), (36, 0)] := ⟨by decide, by decide, h_d, h_a, h_b, by decide, trivial⟩
  have hp : Instr.bits (.and d b a) = pack [(8, 42), (2, 1), (6, d.toNat), (6, a.toNat), (6, b.toNat), (36, 0)] := by
    rw [hn]
    simp only [putF, pack]
    omega
  have ho : Instr.bits (.and d b a) % 256 = 0x2a := by
    rw [hp]
    exact seg_low hf
  refine decode_encode (pack_word hp hf rfl) (by rw [ho]; decide) ?_ hw
  rw [candidate, ho]
  show some (Instr.and (getF (Instr.bits (.and d b a)) 10 6) (getF (Instr.bits (.and d b a)) 22 6) (getF (Instr.bits (.and d b a)) 16 6)) = _
  refine congrArg some ?_
  congr 1
  · exact field hp hf 2 rfl rfl
  · exact field hp hf 4 rfl rfl
  · exact field hp hf 3 rfl rfl
theorem or (d : BitVec 6) (b : BitVec 6) (a : BitVec 6) : Statement (.or d b a) := by
  refine ⟨fun _ _ hw => ?_, fun _ h => nomatch h⟩
  have h_d := d.isLt
  have h_b := b.isLt
  have h_a := a.isLt
  have hn : Instr.bits (.or d b a) = 0x12b + putF 10 d + putF 22 b + putF 16 a := rfl
  have hf : Fits [(8, 43), (2, 1), (6, d.toNat), (6, a.toNat), (6, b.toNat), (36, 0)] := ⟨by decide, by decide, h_d, h_a, h_b, by decide, trivial⟩
  have hp : Instr.bits (.or d b a) = pack [(8, 43), (2, 1), (6, d.toNat), (6, a.toNat), (6, b.toNat), (36, 0)] := by
    rw [hn]
    simp only [putF, pack]
    omega
  have ho : Instr.bits (.or d b a) % 256 = 0x2b := by
    rw [hp]
    exact seg_low hf
  refine decode_encode (pack_word hp hf rfl) (by rw [ho]; decide) ?_ hw
  rw [candidate, ho]
  show some (Instr.or (getF (Instr.bits (.or d b a)) 10 6) (getF (Instr.bits (.or d b a)) 22 6) (getF (Instr.bits (.or d b a)) 16 6)) = _
  refine congrArg some ?_
  congr 1
  · exact field hp hf 2 rfl rfl
  · exact field hp hf 4 rfl rfl
  · exact field hp hf 3 rfl rfl
theorem xor (d : BitVec 6) (b : BitVec 6) (a : BitVec 6) : Statement (.xor d b a) := by
  refine ⟨fun _ _ hw => ?_, fun _ h => nomatch h⟩
  have h_d := d.isLt
  have h_b := b.isLt
  have h_a := a.isLt
  have hn : Instr.bits (.xor d b a) = 0x12c + putF 10 d + putF 22 b + putF 16 a := rfl
  have hf : Fits [(8, 44), (2, 1), (6, d.toNat), (6, a.toNat), (6, b.toNat), (36, 0)] := ⟨by decide, by decide, h_d, h_a, h_b, by decide, trivial⟩
  have hp : Instr.bits (.xor d b a) = pack [(8, 44), (2, 1), (6, d.toNat), (6, a.toNat), (6, b.toNat), (36, 0)] := by
    rw [hn]
    simp only [putF, pack]
    omega
  have ho : Instr.bits (.xor d b a) % 256 = 0x2c := by
    rw [hp]
    exact seg_low hf
  refine decode_encode (pack_word hp hf rfl) (by rw [ho]; decide) ?_ hw
  rw [candidate, ho]
  show some (Instr.xor (getF (Instr.bits (.xor d b a)) 10 6) (getF (Instr.bits (.xor d b a)) 22 6) (getF (Instr.bits (.xor d b a)) 16 6)) = _
  refine congrArg some ?_
  congr 1
  · exact field hp hf 2 rfl rfl
  · exact field hp hf 4 rfl rfl
  · exact field hp hf 3 rfl rfl
theorem andi (d : BitVec 6) (i : BitVec 10) (a : BitVec 6) : Statement (.andi d i a) := by
  refine ⟨fun _ _ hw => ?_, fun _ h => nomatch h⟩
  have h_d := d.isLt
  have h_i := i.isLt
  have h_a := a.isLt
  have hn : Instr.bits (.andi d i a) = 0x12d + putF 10 d + putF 22 i + putF 16 a := rfl
  have hf : Fits [(8, 45), (2, 1), (6, d.toNat), (6, a.toNat), (10, i.toNat), (32, 0)] := ⟨by decide, by decide, h_d, h_a, h_i, by decide, trivial⟩
  have hp : Instr.bits (.andi d i a) = pack [(8, 45), (2, 1), (6, d.toNat), (6, a.toNat), (10, i.toNat), (32, 0)] := by
    rw [hn]
    simp only [putF, pack]
    omega
  have ho : Instr.bits (.andi d i a) % 256 = 0x2d := by
    rw [hp]
    exact seg_low hf
  refine decode_encode (pack_word hp hf rfl) (by rw [ho]; decide) ?_ hw
  rw [candidate, ho]
  show some (Instr.andi (getF (Instr.bits (.andi d i a)) 10 6) (getF (Instr.bits (.andi d i a)) 22 10) (getF (Instr.bits (.andi d i a)) 16 6)) = _
  refine congrArg some ?_
  congr 1
  · exact field hp hf 2 rfl rfl
  · exact field hp hf 4 rfl rfl
  · exact field hp hf 3 rfl rfl
theorem ori (d : BitVec 6) (i : BitVec 10) (a : BitVec 6) : Statement (.ori d i a) := by
  refine ⟨fun _ _ hw => ?_, fun _ h => nomatch h⟩
  have h_d := d.isLt
  have h_i := i.isLt
  have h_a := a.isLt
  have hn : Instr.bits (.ori d i a) = 0x12e + putF 10 d + putF 22 i + putF 16 a := rfl
  have hf : Fits [(8, 46), (2, 1), (6, d.toNat), (6, a.toNat), (10, i.toNat), (32, 0)] := ⟨by decide, by decide, h_d, h_a, h_i, by decide, trivial⟩
  have hp : Instr.bits (.ori d i a) = pack [(8, 46), (2, 1), (6, d.toNat), (6, a.toNat), (10, i.toNat), (32, 0)] := by
    rw [hn]
    simp only [putF, pack]
    omega
  have ho : Instr.bits (.ori d i a) % 256 = 0x2e := by
    rw [hp]
    exact seg_low hf
  refine decode_encode (pack_word hp hf rfl) (by rw [ho]; decide) ?_ hw
  rw [candidate, ho]
  show some (Instr.ori (getF (Instr.bits (.ori d i a)) 10 6) (getF (Instr.bits (.ori d i a)) 22 10) (getF (Instr.bits (.ori d i a)) 16 6)) = _
  refine congrArg some ?_
  congr 1
  · exact field hp hf 2 rfl rfl
  · exact field hp hf 4 rfl rfl
  · exact field hp hf 3 rfl rfl
theorem xori (d : BitVec 6) (i : BitVec 10) (a : BitVec 6) : Statement (.xori d i a) := by
  refine ⟨fun _ _ hw => ?_, fun _ h => nomatch h⟩
  have h_d := d.isLt
  have h_i := i.isLt
  have h_a := a.isLt
  have hn : Instr.bits (.xori d i a) = 0x12f + putF 10 d + putF 22 i + putF 16 a := rfl
  have hf : Fits [(8, 47), (2, 1), (6, d.toNat), (6, a.toNat), (10, i.toNat), (32, 0)] := ⟨by decide, by decide, h_d, h_a, h_i, by decide, trivial⟩
  have hp : Instr.bits (.xori d i a) = pack [(8, 47), (2, 1), (6, d.toNat), (6, a.toNat), (10, i.toNat), (32, 0)] := by
    rw [hn]
    simp only [putF, pack]
    omega
  have ho : Instr.bits (.xori d i a) % 256 = 0x2f := by
    rw [hp]
    exact seg_low hf
  refine decode_encode (pack_word hp hf rfl) (by rw [ho]; decide) ?_ hw
  rw [candidate, ho]
  show some (Instr.xori (getF (Instr.bits (.xori d i a)) 10 6) (getF (Instr.bits (.xori d i a)) 22 10) (getF (Instr.bits (.xori d i a)) 16 6)) = _
  refine congrArg some ?_
  congr 1
  · exact field hp hf 2 rfl rfl
  · exact field hp hf 4 rfl rfl
  · exact field hp hf 3 rfl rfl
theorem shl (d : BitVec 6) (w : BitVec 1) (b : BitVec 6) (a : BitVec 6) : Statement (.shl d w b a) := by
  refine ⟨fun _ _ hw => ?_, fun _ h => nomatch h⟩
  have h_d := d.isLt
  have h_w := w.isLt
  have h_b := b.isLt
  have h_a := a.isLt
  have hn : Instr.bits (.shl d w b a) = 0x130 + putF 10 d + putF 28 w + putF 22 b + putF 16 a := rfl
  have hf : Fits [(8, 48), (2, 1), (6, d.toNat), (6, a.toNat), (6, b.toNat), (1, w.toNat), (35, 0)] := ⟨by decide, by decide, h_d, h_a, h_b, h_w, by decide, trivial⟩
  have hp : Instr.bits (.shl d w b a) = pack [(8, 48), (2, 1), (6, d.toNat), (6, a.toNat), (6, b.toNat), (1, w.toNat), (35, 0)] := by
    rw [hn]
    simp only [putF, pack]
    omega
  have ho : Instr.bits (.shl d w b a) % 256 = 0x30 := by
    rw [hp]
    exact seg_low hf
  refine decode_encode (pack_word hp hf rfl) (by rw [ho]; decide) ?_ hw
  rw [candidate, ho]
  show some (Instr.shl (getF (Instr.bits (.shl d w b a)) 10 6) (getF (Instr.bits (.shl d w b a)) 28 1) (getF (Instr.bits (.shl d w b a)) 22 6) (getF (Instr.bits (.shl d w b a)) 16 6)) = _
  refine congrArg some ?_
  congr 1
  · exact field hp hf 2 rfl rfl
  · exact field hp hf 5 rfl rfl
  · exact field hp hf 4 rfl rfl
  · exact field hp hf 3 rfl rfl
theorem shr (d : BitVec 6) (w : BitVec 1) (b : BitVec 6) (a : BitVec 6) : Statement (.shr d w b a) := by
  refine ⟨fun _ _ hw => ?_, fun _ h => nomatch h⟩
  have h_d := d.isLt
  have h_w := w.isLt
  have h_b := b.isLt
  have h_a := a.isLt
  have hn : Instr.bits (.shr d w b a) = 0x131 + putF 10 d + putF 28 w + putF 22 b + putF 16 a := rfl
  have hf : Fits [(8, 49), (2, 1), (6, d.toNat), (6, a.toNat), (6, b.toNat), (1, w.toNat), (35, 0)] := ⟨by decide, by decide, h_d, h_a, h_b, h_w, by decide, trivial⟩
  have hp : Instr.bits (.shr d w b a) = pack [(8, 49), (2, 1), (6, d.toNat), (6, a.toNat), (6, b.toNat), (1, w.toNat), (35, 0)] := by
    rw [hn]
    simp only [putF, pack]
    omega
  have ho : Instr.bits (.shr d w b a) % 256 = 0x31 := by
    rw [hp]
    exact seg_low hf
  refine decode_encode (pack_word hp hf rfl) (by rw [ho]; decide) ?_ hw
  rw [candidate, ho]
  show some (Instr.shr (getF (Instr.bits (.shr d w b a)) 10 6) (getF (Instr.bits (.shr d w b a)) 28 1) (getF (Instr.bits (.shr d w b a)) 22 6) (getF (Instr.bits (.shr d w b a)) 16 6)) = _
  refine congrArg some ?_
  congr 1
  · exact field hp hf 2 rfl rfl
  · exact field hp hf 5 rfl rfl
  · exact field hp hf 4 rfl rfl
  · exact field hp hf 3 rfl rfl
theorem sha (d : BitVec 6) (w : BitVec 1) (b : BitVec 6) (a : BitVec 6) : Statement (.sha d w b a) := by
  refine ⟨fun _ _ hw => ?_, fun _ h => nomatch h⟩
  have h_d := d.isLt
  have h_w := w.isLt
  have h_b := b.isLt
  have h_a := a.isLt
  have hn : Instr.bits (.sha d w b a) = 0x132 + putF 10 d + putF 28 w + putF 22 b + putF 16 a := rfl
  have hf : Fits [(8, 50), (2, 1), (6, d.toNat), (6, a.toNat), (6, b.toNat), (1, w.toNat), (35, 0)] := ⟨by decide, by decide, h_d, h_a, h_b, h_w, by decide, trivial⟩
  have hp : Instr.bits (.sha d w b a) = pack [(8, 50), (2, 1), (6, d.toNat), (6, a.toNat), (6, b.toNat), (1, w.toNat), (35, 0)] := by
    rw [hn]
    simp only [putF, pack]
    omega
  have ho : Instr.bits (.sha d w b a) % 256 = 0x32 := by
    rw [hp]
    exact seg_low hf
  refine decode_encode (pack_word hp hf rfl) (by rw [ho]; decide) ?_ hw
  rw [candidate, ho]
  show some (Instr.sha (getF (Instr.bits (.sha d w b a)) 10 6) (getF (Instr.bits (.sha d w b a)) 28 1) (getF (Instr.bits (.sha d w b a)) 22 6) (getF (Instr.bits (.sha d w b a)) 16 6)) = _
  refine congrArg some ?_
  congr 1
  · exact field hp hf 2 rfl rfl
  · exact field hp hf 5 rfl rfl
  · exact field hp hf 4 rfl rfl
  · exact field hp hf 3 rfl rfl
theorem shli (d : BitVec 6) (w : BitVec 1) (n : BitVec 6) (a : BitVec 6) : Statement (.shli d w n a) := by
  refine ⟨fun _ _ hw => ?_, fun _ h => nomatch h⟩
  have h_d := d.isLt
  have h_w := w.isLt
  have h_n := n.isLt
  have h_a := a.isLt
  have hn : Instr.bits (.shli d w n a) = 0x133 + putF 10 d + putF 28 w + putF 22 n + putF 16 a := rfl
  have hf : Fits [(8, 51), (2, 1), (6, d.toNat), (6, a.toNat), (6, n.toNat), (1, w.toNat), (35, 0)] := ⟨by decide, by decide, h_d, h_a, h_n, h_w, by decide, trivial⟩
  have hp : Instr.bits (.shli d w n a) = pack [(8, 51), (2, 1), (6, d.toNat), (6, a.toNat), (6, n.toNat), (1, w.toNat), (35, 0)] := by
    rw [hn]
    simp only [putF, pack]
    omega
  have ho : Instr.bits (.shli d w n a) % 256 = 0x33 := by
    rw [hp]
    exact seg_low hf
  refine decode_encode (pack_word hp hf rfl) (by rw [ho]; decide) ?_ hw
  rw [candidate, ho]
  show some (Instr.shli (getF (Instr.bits (.shli d w n a)) 10 6) (getF (Instr.bits (.shli d w n a)) 28 1) (getF (Instr.bits (.shli d w n a)) 22 6) (getF (Instr.bits (.shli d w n a)) 16 6)) = _
  refine congrArg some ?_
  congr 1
  · exact field hp hf 2 rfl rfl
  · exact field hp hf 5 rfl rfl
  · exact field hp hf 4 rfl rfl
  · exact field hp hf 3 rfl rfl
theorem shri (d : BitVec 6) (w : BitVec 1) (n : BitVec 6) (a : BitVec 6) : Statement (.shri d w n a) := by
  refine ⟨fun _ _ hw => ?_, fun _ h => nomatch h⟩
  have h_d := d.isLt
  have h_w := w.isLt
  have h_n := n.isLt
  have h_a := a.isLt
  have hn : Instr.bits (.shri d w n a) = 0x134 + putF 10 d + putF 28 w + putF 22 n + putF 16 a := rfl
  have hf : Fits [(8, 52), (2, 1), (6, d.toNat), (6, a.toNat), (6, n.toNat), (1, w.toNat), (35, 0)] := ⟨by decide, by decide, h_d, h_a, h_n, h_w, by decide, trivial⟩
  have hp : Instr.bits (.shri d w n a) = pack [(8, 52), (2, 1), (6, d.toNat), (6, a.toNat), (6, n.toNat), (1, w.toNat), (35, 0)] := by
    rw [hn]
    simp only [putF, pack]
    omega
  have ho : Instr.bits (.shri d w n a) % 256 = 0x34 := by
    rw [hp]
    exact seg_low hf
  refine decode_encode (pack_word hp hf rfl) (by rw [ho]; decide) ?_ hw
  rw [candidate, ho]
  show some (Instr.shri (getF (Instr.bits (.shri d w n a)) 10 6) (getF (Instr.bits (.shri d w n a)) 28 1) (getF (Instr.bits (.shri d w n a)) 22 6) (getF (Instr.bits (.shri d w n a)) 16 6)) = _
  refine congrArg some ?_
  congr 1
  · exact field hp hf 2 rfl rfl
  · exact field hp hf 5 rfl rfl
  · exact field hp hf 4 rfl rfl
  · exact field hp hf 3 rfl rfl
theorem shai (d : BitVec 6) (w : BitVec 1) (n : BitVec 6) (a : BitVec 6) : Statement (.shai d w n a) := by
  refine ⟨fun _ _ hw => ?_, fun _ h => nomatch h⟩
  have h_d := d.isLt
  have h_w := w.isLt
  have h_n := n.isLt
  have h_a := a.isLt
  have hn : Instr.bits (.shai d w n a) = 0x135 + putF 10 d + putF 28 w + putF 22 n + putF 16 a := rfl
  have hf : Fits [(8, 53), (2, 1), (6, d.toNat), (6, a.toNat), (6, n.toNat), (1, w.toNat), (35, 0)] := ⟨by decide, by decide, h_d, h_a, h_n, h_w, by decide, trivial⟩
  have hp : Instr.bits (.shai d w n a) = pack [(8, 53), (2, 1), (6, d.toNat), (6, a.toNat), (6, n.toNat), (1, w.toNat), (35, 0)] := by
    rw [hn]
    simp only [putF, pack]
    omega
  have ho : Instr.bits (.shai d w n a) % 256 = 0x35 := by
    rw [hp]
    exact seg_low hf
  refine decode_encode (pack_word hp hf rfl) (by rw [ho]; decide) ?_ hw
  rw [candidate, ho]
  show some (Instr.shai (getF (Instr.bits (.shai d w n a)) 10 6) (getF (Instr.bits (.shai d w n a)) 28 1) (getF (Instr.bits (.shai d w n a)) 22 6) (getF (Instr.bits (.shai d w n a)) 16 6)) = _
  refine congrArg some ?_
  congr 1
  · exact field hp hf 2 rfl rfl
  · exact field hp hf 5 rfl rfl
  · exact field hp hf 4 rfl rfl
  · exact field hp hf 3 rfl rfl
theorem rol (d : BitVec 6) (w : BitVec 1) (b : BitVec 6) (a : BitVec 6) : Statement (.rol d w b a) := by
  refine ⟨fun _ _ hw => ?_, fun _ h => nomatch h⟩
  have h_d := d.isLt
  have h_w := w.isLt
  have h_b := b.isLt
  have h_a := a.isLt
  have hn : Instr.bits (.rol d w b a) = 0x136 + putF 10 d + putF 28 w + putF 22 b + putF 16 a := rfl
  have hf : Fits [(8, 54), (2, 1), (6, d.toNat), (6, a.toNat), (6, b.toNat), (1, w.toNat), (35, 0)] := ⟨by decide, by decide, h_d, h_a, h_b, h_w, by decide, trivial⟩
  have hp : Instr.bits (.rol d w b a) = pack [(8, 54), (2, 1), (6, d.toNat), (6, a.toNat), (6, b.toNat), (1, w.toNat), (35, 0)] := by
    rw [hn]
    simp only [putF, pack]
    omega
  have ho : Instr.bits (.rol d w b a) % 256 = 0x36 := by
    rw [hp]
    exact seg_low hf
  refine decode_encode (pack_word hp hf rfl) (by rw [ho]; decide) ?_ hw
  rw [candidate, ho]
  show some (Instr.rol (getF (Instr.bits (.rol d w b a)) 10 6) (getF (Instr.bits (.rol d w b a)) 28 1) (getF (Instr.bits (.rol d w b a)) 22 6) (getF (Instr.bits (.rol d w b a)) 16 6)) = _
  refine congrArg some ?_
  congr 1
  · exact field hp hf 2 rfl rfl
  · exact field hp hf 5 rfl rfl
  · exact field hp hf 4 rfl rfl
  · exact field hp hf 3 rfl rfl
theorem roli (d : BitVec 6) (w : BitVec 1) (n : BitVec 6) (a : BitVec 6) : Statement (.roli d w n a) := by
  refine ⟨fun _ _ hw => ?_, fun _ h => nomatch h⟩
  have h_d := d.isLt
  have h_w := w.isLt
  have h_n := n.isLt
  have h_a := a.isLt
  have hn : Instr.bits (.roli d w n a) = 0x137 + putF 10 d + putF 28 w + putF 22 n + putF 16 a := rfl
  have hf : Fits [(8, 55), (2, 1), (6, d.toNat), (6, a.toNat), (6, n.toNat), (1, w.toNat), (35, 0)] := ⟨by decide, by decide, h_d, h_a, h_n, h_w, by decide, trivial⟩
  have hp : Instr.bits (.roli d w n a) = pack [(8, 55), (2, 1), (6, d.toNat), (6, a.toNat), (6, n.toNat), (1, w.toNat), (35, 0)] := by
    rw [hn]
    simp only [putF, pack]
    omega
  have ho : Instr.bits (.roli d w n a) % 256 = 0x37 := by
    rw [hp]
    exact seg_low hf
  refine decode_encode (pack_word hp hf rfl) (by rw [ho]; decide) ?_ hw
  rw [candidate, ho]
  show some (Instr.roli (getF (Instr.bits (.roli d w n a)) 10 6) (getF (Instr.bits (.roli d w n a)) 28 1) (getF (Instr.bits (.roli d w n a)) 22 6) (getF (Instr.bits (.roli d w n a)) 16 6)) = _
  refine congrArg some ?_
  congr 1
  · exact field hp hf 2 rfl rfl
  · exact field hp hf 5 rfl rfl
  · exact field hp hf 4 rfl rfl
  · exact field hp hf 3 rfl rfl
theorem slt (d : BitVec 6) (b : BitVec 6) (a : BitVec 6) : Statement (.slt d b a) := by
  refine ⟨fun _ _ hw => ?_, fun _ h => nomatch h⟩
  have h_d := d.isLt
  have h_b := b.isLt
  have h_a := a.isLt
  have hn : Instr.bits (.slt d b a) = 0x138 + putF 10 d + putF 22 b + putF 16 a := rfl
  have hf : Fits [(8, 56), (2, 1), (6, d.toNat), (6, a.toNat), (6, b.toNat), (36, 0)] := ⟨by decide, by decide, h_d, h_a, h_b, by decide, trivial⟩
  have hp : Instr.bits (.slt d b a) = pack [(8, 56), (2, 1), (6, d.toNat), (6, a.toNat), (6, b.toNat), (36, 0)] := by
    rw [hn]
    simp only [putF, pack]
    omega
  have ho : Instr.bits (.slt d b a) % 256 = 0x38 := by
    rw [hp]
    exact seg_low hf
  refine decode_encode (pack_word hp hf rfl) (by rw [ho]; decide) ?_ hw
  rw [candidate, ho]
  show some (Instr.slt (getF (Instr.bits (.slt d b a)) 10 6) (getF (Instr.bits (.slt d b a)) 22 6) (getF (Instr.bits (.slt d b a)) 16 6)) = _
  refine congrArg some ?_
  congr 1
  · exact field hp hf 2 rfl rfl
  · exact field hp hf 4 rfl rfl
  · exact field hp hf 3 rfl rfl
theorem sltu (d : BitVec 6) (b : BitVec 6) (a : BitVec 6) : Statement (.sltu d b a) := by
  refine ⟨fun _ _ hw => ?_, fun _ h => nomatch h⟩
  have h_d := d.isLt
  have h_b := b.isLt
  have h_a := a.isLt
  have hn : Instr.bits (.sltu d b a) = 0x139 + putF 10 d + putF 22 b + putF 16 a := rfl
  have hf : Fits [(8, 57), (2, 1), (6, d.toNat), (6, a.toNat), (6, b.toNat), (36, 0)] := ⟨by decide, by decide, h_d, h_a, h_b, by decide, trivial⟩
  have hp : Instr.bits (.sltu d b a) = pack [(8, 57), (2, 1), (6, d.toNat), (6, a.toNat), (6, b.toNat), (36, 0)] := by
    rw [hn]
    simp only [putF, pack]
    omega
  have ho : Instr.bits (.sltu d b a) % 256 = 0x39 := by
    rw [hp]
    exact seg_low hf
  refine decode_encode (pack_word hp hf rfl) (by rw [ho]; decide) ?_ hw
  rw [candidate, ho]
  show some (Instr.sltu (getF (Instr.bits (.sltu d b a)) 10 6) (getF (Instr.bits (.sltu d b a)) 22 6) (getF (Instr.bits (.sltu d b a)) 16 6)) = _
  refine congrArg some ?_
  congr 1
  · exact field hp hf 2 rfl rfl
  · exact field hp hf 4 rfl rfl
  · exact field hp hf 3 rfl rfl
theorem slti (d : BitVec 6) (i : BitVec 10) (a : BitVec 6) : Statement (.slti d i a) := by
  refine ⟨fun _ _ hw => ?_, fun _ h => nomatch h⟩
  have h_d := d.isLt
  have h_i := i.isLt
  have h_a := a.isLt
  have hn : Instr.bits (.slti d i a) = 0x13a + putF 10 d + putF 22 i + putF 16 a := rfl
  have hf : Fits [(8, 58), (2, 1), (6, d.toNat), (6, a.toNat), (10, i.toNat), (32, 0)] := ⟨by decide, by decide, h_d, h_a, h_i, by decide, trivial⟩
  have hp : Instr.bits (.slti d i a) = pack [(8, 58), (2, 1), (6, d.toNat), (6, a.toNat), (10, i.toNat), (32, 0)] := by
    rw [hn]
    simp only [putF, pack]
    omega
  have ho : Instr.bits (.slti d i a) % 256 = 0x3a := by
    rw [hp]
    exact seg_low hf
  refine decode_encode (pack_word hp hf rfl) (by rw [ho]; decide) ?_ hw
  rw [candidate, ho]
  show some (Instr.slti (getF (Instr.bits (.slti d i a)) 10 6) (getF (Instr.bits (.slti d i a)) 22 10) (getF (Instr.bits (.slti d i a)) 16 6)) = _
  refine congrArg some ?_
  congr 1
  · exact field hp hf 2 rfl rfl
  · exact field hp hf 4 rfl rfl
  · exact field hp hf 3 rfl rfl
theorem min (d : BitVec 6) (b : BitVec 6) (a : BitVec 6) : Statement (.min d b a) := by
  refine ⟨fun _ _ hw => ?_, fun _ h => nomatch h⟩
  have h_d := d.isLt
  have h_b := b.isLt
  have h_a := a.isLt
  have hn : Instr.bits (.min d b a) = 0x13b + putF 10 d + putF 22 b + putF 16 a := rfl
  have hf : Fits [(8, 59), (2, 1), (6, d.toNat), (6, a.toNat), (6, b.toNat), (36, 0)] := ⟨by decide, by decide, h_d, h_a, h_b, by decide, trivial⟩
  have hp : Instr.bits (.min d b a) = pack [(8, 59), (2, 1), (6, d.toNat), (6, a.toNat), (6, b.toNat), (36, 0)] := by
    rw [hn]
    simp only [putF, pack]
    omega
  have ho : Instr.bits (.min d b a) % 256 = 0x3b := by
    rw [hp]
    exact seg_low hf
  refine decode_encode (pack_word hp hf rfl) (by rw [ho]; decide) ?_ hw
  rw [candidate, ho]
  show some (Instr.min (getF (Instr.bits (.min d b a)) 10 6) (getF (Instr.bits (.min d b a)) 22 6) (getF (Instr.bits (.min d b a)) 16 6)) = _
  refine congrArg some ?_
  congr 1
  · exact field hp hf 2 rfl rfl
  · exact field hp hf 4 rfl rfl
  · exact field hp hf 3 rfl rfl
theorem max (d : BitVec 6) (b : BitVec 6) (a : BitVec 6) : Statement (.max d b a) := by
  refine ⟨fun _ _ hw => ?_, fun _ h => nomatch h⟩
  have h_d := d.isLt
  have h_b := b.isLt
  have h_a := a.isLt
  have hn : Instr.bits (.max d b a) = 0x13c + putF 10 d + putF 22 b + putF 16 a := rfl
  have hf : Fits [(8, 60), (2, 1), (6, d.toNat), (6, a.toNat), (6, b.toNat), (36, 0)] := ⟨by decide, by decide, h_d, h_a, h_b, by decide, trivial⟩
  have hp : Instr.bits (.max d b a) = pack [(8, 60), (2, 1), (6, d.toNat), (6, a.toNat), (6, b.toNat), (36, 0)] := by
    rw [hn]
    simp only [putF, pack]
    omega
  have ho : Instr.bits (.max d b a) % 256 = 0x3c := by
    rw [hp]
    exact seg_low hf
  refine decode_encode (pack_word hp hf rfl) (by rw [ho]; decide) ?_ hw
  rw [candidate, ho]
  show some (Instr.max (getF (Instr.bits (.max d b a)) 10 6) (getF (Instr.bits (.max d b a)) 22 6) (getF (Instr.bits (.max d b a)) 16 6)) = _
  refine congrArg some ?_
  congr 1
  · exact field hp hf 2 rfl rfl
  · exact field hp hf 4 rfl rfl
  · exact field hp hf 3 rfl rfl
theorem minu (d : BitVec 6) (b : BitVec 6) (a : BitVec 6) : Statement (.minu d b a) := by
  refine ⟨fun _ _ hw => ?_, fun _ h => nomatch h⟩
  have h_d := d.isLt
  have h_b := b.isLt
  have h_a := a.isLt
  have hn : Instr.bits (.minu d b a) = 0x13d + putF 10 d + putF 22 b + putF 16 a := rfl
  have hf : Fits [(8, 61), (2, 1), (6, d.toNat), (6, a.toNat), (6, b.toNat), (36, 0)] := ⟨by decide, by decide, h_d, h_a, h_b, by decide, trivial⟩
  have hp : Instr.bits (.minu d b a) = pack [(8, 61), (2, 1), (6, d.toNat), (6, a.toNat), (6, b.toNat), (36, 0)] := by
    rw [hn]
    simp only [putF, pack]
    omega
  have ho : Instr.bits (.minu d b a) % 256 = 0x3d := by
    rw [hp]
    exact seg_low hf
  refine decode_encode (pack_word hp hf rfl) (by rw [ho]; decide) ?_ hw
  rw [candidate, ho]
  show some (Instr.minu (getF (Instr.bits (.minu d b a)) 10 6) (getF (Instr.bits (.minu d b a)) 22 6) (getF (Instr.bits (.minu d b a)) 16 6)) = _
  refine congrArg some ?_
  congr 1
  · exact field hp hf 2 rfl rfl
  · exact field hp hf 4 rfl rfl
  · exact field hp hf 3 rfl rfl
theorem maxu (d : BitVec 6) (b : BitVec 6) (a : BitVec 6) : Statement (.maxu d b a) := by
  refine ⟨fun _ _ hw => ?_, fun _ h => nomatch h⟩
  have h_d := d.isLt
  have h_b := b.isLt
  have h_a := a.isLt
  have hn : Instr.bits (.maxu d b a) = 0x13e + putF 10 d + putF 22 b + putF 16 a := rfl
  have hf : Fits [(8, 62), (2, 1), (6, d.toNat), (6, a.toNat), (6, b.toNat), (36, 0)] := ⟨by decide, by decide, h_d, h_a, h_b, by decide, trivial⟩
  have hp : Instr.bits (.maxu d b a) = pack [(8, 62), (2, 1), (6, d.toNat), (6, a.toNat), (6, b.toNat), (36, 0)] := by
    rw [hn]
    simp only [putF, pack]
    omega
  have ho : Instr.bits (.maxu d b a) % 256 = 0x3e := by
    rw [hp]
    exact seg_low hf
  refine decode_encode (pack_word hp hf rfl) (by rw [ho]; decide) ?_ hw
  rw [candidate, ho]
  show some (Instr.maxu (getF (Instr.bits (.maxu d b a)) 10 6) (getF (Instr.bits (.maxu d b a)) 22 6) (getF (Instr.bits (.maxu d b a)) 16 6)) = _
  refine congrArg some ?_
  congr 1
  · exact field hp hf 2 rfl rfl
  · exact field hp hf 4 rfl rfl
  · exact field hp hf 3 rfl rfl
theorem sel (d : BitVec 6) (k : BitVec 2) (b : BitVec 6) (a : BitVec 6) (c : BitVec 6) : Statement (.sel d k b a c) := by
  refine ⟨fun _ _ hw => ?_, fun _ h => nomatch h⟩
  have h_d := d.isLt
  have h_k := k.isLt
  have h_b := b.isLt
  have h_a := a.isLt
  have h_c := c.isLt
  have hn : Instr.bits (.sel d k b a c) = 0x23f + putF 10 d + putF 28 k + putF 22 b + putF 16 a + putF 32 c := rfl
  have hf : Fits [(8, 63), (2, 2), (6, d.toNat), (6, a.toNat), (6, b.toNat), (2, k.toNat), (2, 0), (6, c.toNat), (26, 0)] := ⟨by decide, by decide, h_d, h_a, h_b, h_k, by decide, h_c, by decide, trivial⟩
  have hp : Instr.bits (.sel d k b a c) = pack [(8, 63), (2, 2), (6, d.toNat), (6, a.toNat), (6, b.toNat), (2, k.toNat), (2, 0), (6, c.toNat), (26, 0)] := by
    rw [hn]
    simp only [putF, pack]
    omega
  have ho : Instr.bits (.sel d k b a c) % 256 = 0x3f := by
    rw [hp]
    exact seg_low hf
  refine decode_encode (pack_word hp hf rfl) (by rw [ho]; decide) ?_ hw
  rw [candidate, ho]
  show some (Instr.sel (getF (Instr.bits (.sel d k b a c)) 10 6) (getF (Instr.bits (.sel d k b a c)) 28 2) (getF (Instr.bits (.sel d k b a c)) 22 6) (getF (Instr.bits (.sel d k b a c)) 16 6) (getF (Instr.bits (.sel d k b a c)) 32 6)) = _
  refine congrArg some ?_
  congr 1
  · exact field hp hf 2 rfl rfl
  · exact field hp hf 5 rfl rfl
  · exact field hp hf 4 rfl rfl
  · exact field hp hf 3 rfl rfl
  · exact field hp hf 7 rfl rfl
theorem li (d : BitVec 6) (imm : BitVec 42) : Statement (.li d imm) := by
  refine ⟨fun _ _ hw => ?_, fun _ h => nomatch h⟩
  have h_d := d.isLt
  have h_imm := imm.isLt
  have hn : Instr.bits (.li d imm) = 0x340 + putF 10 d + putF 22 imm := rfl
  have hf : Fits [(8, 64), (2, 3), (6, d.toNat), (6, 0), (42, imm.toNat)] := ⟨by decide, by decide, h_d, by decide, h_imm, trivial⟩
  have hp : Instr.bits (.li d imm) = pack [(8, 64), (2, 3), (6, d.toNat), (6, 0), (42, imm.toNat)] := by
    rw [hn]
    simp only [putF, pack]
    omega
  have ho : Instr.bits (.li d imm) % 256 = 0x40 := by
    rw [hp]
    exact seg_low hf
  refine decode_encode (pack_word hp hf rfl) (by rw [ho]; decide) ?_ hw
  rw [candidate, ho]
  show some (Instr.li (getF (Instr.bits (.li d imm)) 10 6) (getF (Instr.bits (.li d imm)) 22 42)) = _
  refine congrArg some ?_
  congr 1
  · exact field hp hf 2 rfl rfl
  · exact field hp hf 4 rfl rfl
theorem lih (d : BitVec 6) (k : BitVec 2) (a : BitVec 6) (imm : BitVec 16) : Statement (.lih d k a imm) := by
  refine ⟨fun _ _ hw => ?_, fun _ h => nomatch h⟩
  have h_d := d.isLt
  have h_k := k.isLt
  have h_a := a.isLt
  have h_imm := imm.isLt
  have hn : Instr.bits (.lih d k a imm) = 0x241 + putF 10 d + putF 28 k + putF 16 a + putF 32 imm := rfl
  have hf : Fits [(8, 65), (2, 2), (6, d.toNat), (6, a.toNat), (6, 0), (2, k.toNat), (2, 0), (16, imm.toNat), (16, 0)] := ⟨by decide, by decide, h_d, h_a, by decide, h_k, by decide, h_imm, by decide, trivial⟩
  have hp : Instr.bits (.lih d k a imm) = pack [(8, 65), (2, 2), (6, d.toNat), (6, a.toNat), (6, 0), (2, k.toNat), (2, 0), (16, imm.toNat), (16, 0)] := by
    rw [hn]
    simp only [putF, pack]
    omega
  have ho : Instr.bits (.lih d k a imm) % 256 = 0x41 := by
    rw [hp]
    exact seg_low hf
  refine decode_encode (pack_word hp hf rfl) (by rw [ho]; decide) ?_ hw
  rw [candidate, ho]
  show some (Instr.lih (getF (Instr.bits (.lih d k a imm)) 10 6) (getF (Instr.bits (.lih d k a imm)) 28 2) (getF (Instr.bits (.lih d k a imm)) 16 6) (getF (Instr.bits (.lih d k a imm)) 32 16)) = _
  refine congrArg some ?_
  congr 1
  · exact field hp hf 2 rfl rfl
  · exact field hp hf 5 rfl rfl
  · exact field hp hf 3 rfl rfl
  · exact field hp hf 7 rfl rfl
theorem addpc (d : BitVec 6) (imm : BitVec 42) : Statement (.addpc d imm) := by
  refine ⟨fun _ _ hw => ?_, fun _ h => nomatch h⟩
  have h_d := d.isLt
  have h_imm := imm.isLt
  have hn : Instr.bits (.addpc d imm) = 0x342 + putF 10 d + putF 22 imm := rfl
  have hf : Fits [(8, 66), (2, 3), (6, d.toNat), (6, 0), (42, imm.toNat)] := ⟨by decide, by decide, h_d, by decide, h_imm, trivial⟩
  have hp : Instr.bits (.addpc d imm) = pack [(8, 66), (2, 3), (6, d.toNat), (6, 0), (42, imm.toNat)] := by
    rw [hn]
    simp only [putF, pack]
    omega
  have ho : Instr.bits (.addpc d imm) % 256 = 0x42 := by
    rw [hp]
    exact seg_low hf
  refine decode_encode (pack_word hp hf rfl) (by rw [ho]; decide) ?_ hw
  rw [candidate, ho]
  show some (Instr.addpc (getF (Instr.bits (.addpc d imm)) 10 6) (getF (Instr.bits (.addpc d imm)) 22 42)) = _
  refine congrArg some ?_
  congr 1
  · exact field hp hf 2 rfl rfl
  · exact field hp hf 4 rfl rfl
theorem clz (d : BitVec 6) (z : BitVec 2) (a : BitVec 6) : Statement (.clz d z a) := by
  refine ⟨fun _ _ hw => ?_, fun _ h => nomatch h⟩
  have h_d := d.isLt
  have h_z := z.isLt
  have h_a := a.isLt
  have hn : Instr.bits (.clz d z a) = 0x143 + putF 10 d + putF 28 z + putF 16 a := rfl
  have hf : Fits [(8, 67), (2, 1), (6, d.toNat), (6, a.toNat), (6, 0), (2, z.toNat), (34, 0)] := ⟨by decide, by decide, h_d, h_a, by decide, h_z, by decide, trivial⟩
  have hp : Instr.bits (.clz d z a) = pack [(8, 67), (2, 1), (6, d.toNat), (6, a.toNat), (6, 0), (2, z.toNat), (34, 0)] := by
    rw [hn]
    simp only [putF, pack]
    omega
  have ho : Instr.bits (.clz d z a) % 256 = 0x43 := by
    rw [hp]
    exact seg_low hf
  refine decode_encode (pack_word hp hf rfl) (by rw [ho]; decide) ?_ hw
  rw [candidate, ho]
  show some (Instr.clz (getF (Instr.bits (.clz d z a)) 10 6) (getF (Instr.bits (.clz d z a)) 28 2) (getF (Instr.bits (.clz d z a)) 16 6)) = _
  refine congrArg some ?_
  congr 1
  · exact field hp hf 2 rfl rfl
  · exact field hp hf 5 rfl rfl
  · exact field hp hf 3 rfl rfl
theorem ctz (d : BitVec 6) (z : BitVec 2) (a : BitVec 6) : Statement (.ctz d z a) := by
  refine ⟨fun _ _ hw => ?_, fun _ h => nomatch h⟩
  have h_d := d.isLt
  have h_z := z.isLt
  have h_a := a.isLt
  have hn : Instr.bits (.ctz d z a) = 0x144 + putF 10 d + putF 28 z + putF 16 a := rfl
  have hf : Fits [(8, 68), (2, 1), (6, d.toNat), (6, a.toNat), (6, 0), (2, z.toNat), (34, 0)] := ⟨by decide, by decide, h_d, h_a, by decide, h_z, by decide, trivial⟩
  have hp : Instr.bits (.ctz d z a) = pack [(8, 68), (2, 1), (6, d.toNat), (6, a.toNat), (6, 0), (2, z.toNat), (34, 0)] := by
    rw [hn]
    simp only [putF, pack]
    omega
  have ho : Instr.bits (.ctz d z a) % 256 = 0x44 := by
    rw [hp]
    exact seg_low hf
  refine decode_encode (pack_word hp hf rfl) (by rw [ho]; decide) ?_ hw
  rw [candidate, ho]
  show some (Instr.ctz (getF (Instr.bits (.ctz d z a)) 10 6) (getF (Instr.bits (.ctz d z a)) 28 2) (getF (Instr.bits (.ctz d z a)) 16 6)) = _
  refine congrArg some ?_
  congr 1
  · exact field hp hf 2 rfl rfl
  · exact field hp hf 5 rfl rfl
  · exact field hp hf 3 rfl rfl
theorem popc (d : BitVec 6) (z : BitVec 2) (a : BitVec 6) : Statement (.popc d z a) := by
  refine ⟨fun _ _ hw => ?_, fun _ h => nomatch h⟩
  have h_d := d.isLt
  have h_z := z.isLt
  have h_a := a.isLt
  have hn : Instr.bits (.popc d z a) = 0x145 + putF 10 d + putF 28 z + putF 16 a := rfl
  have hf : Fits [(8, 69), (2, 1), (6, d.toNat), (6, a.toNat), (6, 0), (2, z.toNat), (34, 0)] := ⟨by decide, by decide, h_d, h_a, by decide, h_z, by decide, trivial⟩
  have hp : Instr.bits (.popc d z a) = pack [(8, 69), (2, 1), (6, d.toNat), (6, a.toNat), (6, 0), (2, z.toNat), (34, 0)] := by
    rw [hn]
    simp only [putF, pack]
    omega
  have ho : Instr.bits (.popc d z a) % 256 = 0x45 := by
    rw [hp]
    exact seg_low hf
  refine decode_encode (pack_word hp hf rfl) (by rw [ho]; decide) ?_ hw
  rw [candidate, ho]
  show some (Instr.popc (getF (Instr.bits (.popc d z a)) 10 6) (getF (Instr.bits (.popc d z a)) 28 2) (getF (Instr.bits (.popc d z a)) 16 6)) = _
  refine congrArg some ?_
  congr 1
  · exact field hp hf 2 rfl rfl
  · exact field hp hf 5 rfl rfl
  · exact field hp hf 3 rfl rfl
theorem brev (d : BitVec 6) (z : BitVec 2) (a : BitVec 6) : Statement (.brev d z a) := by
  refine ⟨fun _ _ hw => ?_, fun _ h => nomatch h⟩
  have h_d := d.isLt
  have h_z := z.isLt
  have h_a := a.isLt
  have hn : Instr.bits (.brev d z a) = 0x146 + putF 10 d + putF 28 z + putF 16 a := rfl
  have hf : Fits [(8, 70), (2, 1), (6, d.toNat), (6, a.toNat), (6, 0), (2, z.toNat), (34, 0)] := ⟨by decide, by decide, h_d, h_a, by decide, h_z, by decide, trivial⟩
  have hp : Instr.bits (.brev d z a) = pack [(8, 70), (2, 1), (6, d.toNat), (6, a.toNat), (6, 0), (2, z.toNat), (34, 0)] := by
    rw [hn]
    simp only [putF, pack]
    omega
  have ho : Instr.bits (.brev d z a) % 256 = 0x46 := by
    rw [hp]
    exact seg_low hf
  refine decode_encode (pack_word hp hf rfl) (by rw [ho]; decide) ?_ hw
  rw [candidate, ho]
  show some (Instr.brev (getF (Instr.bits (.brev d z a)) 10 6) (getF (Instr.bits (.brev d z a)) 28 2) (getF (Instr.bits (.brev d z a)) 16 6)) = _
  refine congrArg some ?_
  congr 1
  · exact field hp hf 2 rfl rfl
  · exact field hp hf 5 rfl rfl
  · exact field hp hf 3 rfl rfl
theorem bswap (d : BitVec 6) (z : BitVec 2) (a : BitVec 6) : Statement (.bswap d z a) := by
  refine ⟨fun _ _ hw => ?_, fun _ h => nomatch h⟩
  have h_d := d.isLt
  have h_z := z.isLt
  have h_a := a.isLt
  have hn : Instr.bits (.bswap d z a) = 0x147 + putF 10 d + putF 28 z + putF 16 a := rfl
  have hf : Fits [(8, 71), (2, 1), (6, d.toNat), (6, a.toNat), (6, 0), (2, z.toNat), (34, 0)] := ⟨by decide, by decide, h_d, h_a, by decide, h_z, by decide, trivial⟩
  have hp : Instr.bits (.bswap d z a) = pack [(8, 71), (2, 1), (6, d.toNat), (6, a.toNat), (6, 0), (2, z.toNat), (34, 0)] := by
    rw [hn]
    simp only [putF, pack]
    omega
  have ho : Instr.bits (.bswap d z a) % 256 = 0x47 := by
    rw [hp]
    exact seg_low hf
  refine decode_encode (pack_word hp hf rfl) (by rw [ho]; decide) ?_ hw
  rw [candidate, ho]
  show some (Instr.bswap (getF (Instr.bits (.bswap d z a)) 10 6) (getF (Instr.bits (.bswap d z a)) 28 2) (getF (Instr.bits (.bswap d z a)) 16 6)) = _
  refine congrArg some ?_
  congr 1
  · exact field hp hf 2 rfl rfl
  · exact field hp hf 5 rfl rfl
  · exact field hp hf 3 rfl rfl
theorem ilv (d : BitVec 6) (f : BitVec 1) (b : BitVec 6) (a : BitVec 6) (c : BitVec 6) : Statement (.ilv d f b a c) := by
  refine ⟨fun _ _ hw => ?_, fun _ h => nomatch h⟩
  have h_d := d.isLt
  have h_f := f.isLt
  have h_b := b.isLt
  have h_a := a.isLt
  have h_c := c.isLt
  have hn : Instr.bits (.ilv d f b a c) = 0x248 + putF 10 d + putF 28 f + putF 22 b + putF 16 a + putF 32 c := rfl
  have hf : Fits [(8, 72), (2, 2), (6, d.toNat), (6, a.toNat), (6, b.toNat), (1, f.toNat), (3, 0), (6, c.toNat), (26, 0)] := ⟨by decide, by decide, h_d, h_a, h_b, h_f, by decide, h_c, by decide, trivial⟩
  have hp : Instr.bits (.ilv d f b a c) = pack [(8, 72), (2, 2), (6, d.toNat), (6, a.toNat), (6, b.toNat), (1, f.toNat), (3, 0), (6, c.toNat), (26, 0)] := by
    rw [hn]
    simp only [putF, pack]
    omega
  have ho : Instr.bits (.ilv d f b a c) % 256 = 0x48 := by
    rw [hp]
    exact seg_low hf
  refine decode_encode (pack_word hp hf rfl) (by rw [ho]; decide) ?_ hw
  rw [candidate, ho]
  show some (Instr.ilv (getF (Instr.bits (.ilv d f b a c)) 10 6) (getF (Instr.bits (.ilv d f b a c)) 28 1) (getF (Instr.bits (.ilv d f b a c)) 22 6) (getF (Instr.bits (.ilv d f b a c)) 16 6) (getF (Instr.bits (.ilv d f b a c)) 32 6)) = _
  refine congrArg some ?_
  congr 1
  · exact field hp hf 2 rfl rfl
  · exact field hp hf 5 rfl rfl
  · exact field hp hf 4 rfl rfl
  · exact field hp hf 3 rfl rfl
  · exact field hp hf 7 rfl rfl
theorem dilv (d : BitVec 6) (f : BitVec 1) (a : BitVec 6) (jc : BitVec 2) : Statement (.dilv d f a jc) := by
  refine ⟨fun _ _ hw => ?_, fun _ h => nomatch h⟩
  have h_d := d.isLt
  have h_f := f.isLt
  have h_a := a.isLt
  have h_jc := jc.isLt
  have hn : Instr.bits (.dilv d f a jc) = 0x249 + putF 10 d + putF 28 f + putF 16 a + putF 44 jc := rfl
  have hf : Fits [(8, 73), (2, 2), (6, d.toNat), (6, a.toNat), (6, 0), (1, f.toNat), (15, 0), (2, jc.toNat), (18, 0)] := ⟨by decide, by decide, h_d, h_a, by decide, h_f, by decide, h_jc, by decide, trivial⟩
  have hp : Instr.bits (.dilv d f a jc) = pack [(8, 73), (2, 2), (6, d.toNat), (6, a.toNat), (6, 0), (1, f.toNat), (15, 0), (2, jc.toNat), (18, 0)] := by
    rw [hn]
    simp only [putF, pack]
    omega
  have ho : Instr.bits (.dilv d f a jc) % 256 = 0x49 := by
    rw [hp]
    exact seg_low hf
  refine decode_encode (pack_word hp hf rfl) (by rw [ho]; decide) ?_ hw
  rw [candidate, ho]
  show some (Instr.dilv (getF (Instr.bits (.dilv d f a jc)) 10 6) (getF (Instr.bits (.dilv d f a jc)) 28 1) (getF (Instr.bits (.dilv d f a jc)) 16 6) (getF (Instr.bits (.dilv d f a jc)) 44 2)) = _
  refine congrArg some ?_
  congr 1
  · exact field hp hf 2 rfl rfl
  · exact field hp hf 5 rfl rfl
  · exact field hp hf 3 rfl rfl
  · exact field hp hf 7 rfl rfl
theorem ext (d : BitVec 6) (a : BitVec 6) (sg : BitVec 1) (len : BitVec 6) (pos : BitVec 6) : Statement (.ext d a sg len pos) := by
  refine ⟨fun _ _ hw => ?_, fun _ h => nomatch h⟩
  have h_d := d.isLt
  have h_a := a.isLt
  have h_sg := sg.isLt
  have h_len := len.isLt
  have h_pos := pos.isLt
  have hn : Instr.bits (.ext d a sg len pos) = 0x24a + putF 10 d + putF 16 a + putF 44 sg + putF 38 len + putF 32 pos := rfl
  have hf : Fits [(8, 74), (2, 2), (6, d.toNat), (6, a.toNat), (10, 0), (6, pos.toNat), (6, len.toNat), (1, sg.toNat), (19, 0)] := ⟨by decide, by decide, h_d, h_a, by decide, h_pos, h_len, h_sg, by decide, trivial⟩
  have hp : Instr.bits (.ext d a sg len pos) = pack [(8, 74), (2, 2), (6, d.toNat), (6, a.toNat), (10, 0), (6, pos.toNat), (6, len.toNat), (1, sg.toNat), (19, 0)] := by
    rw [hn]
    simp only [putF, pack]
    omega
  have ho : Instr.bits (.ext d a sg len pos) % 256 = 0x4a := by
    rw [hp]
    exact seg_low hf
  refine decode_encode (pack_word hp hf rfl) (by rw [ho]; decide) ?_ hw
  rw [candidate, ho]
  show some (Instr.ext (getF (Instr.bits (.ext d a sg len pos)) 10 6) (getF (Instr.bits (.ext d a sg len pos)) 16 6) (getF (Instr.bits (.ext d a sg len pos)) 44 1) (getF (Instr.bits (.ext d a sg len pos)) 38 6) (getF (Instr.bits (.ext d a sg len pos)) 32 6)) = _
  refine congrArg some ?_
  congr 1
  · exact field hp hf 2 rfl rfl
  · exact field hp hf 3 rfl rfl
  · exact field hp hf 7 rfl rfl
  · exact field hp hf 6 rfl rfl
  · exact field hp hf 5 rfl rfl
theorem ins (d : BitVec 6) (b : BitVec 6) (a : BitVec 6) (len : BitVec 6) (pos : BitVec 6) : Statement (.ins d b a len pos) := by
  refine ⟨fun _ _ hw => ?_, fun _ h => nomatch h⟩
  have h_d := d.isLt
  have h_b := b.isLt
  have h_a := a.isLt
  have h_len := len.isLt
  have h_pos := pos.isLt
  have hn : Instr.bits (.ins d b a len pos) = 0x24b + putF 10 d + putF 22 b + putF 16 a + putF 38 len + putF 32 pos := rfl
  have hf : Fits [(8, 75), (2, 2), (6, d.toNat), (6, a.toNat), (6, b.toNat), (4, 0), (6, pos.toNat), (6, len.toNat), (20, 0)] := ⟨by decide, by decide, h_d, h_a, h_b, by decide, h_pos, h_len, by decide, trivial⟩
  have hp : Instr.bits (.ins d b a len pos) = pack [(8, 75), (2, 2), (6, d.toNat), (6, a.toNat), (6, b.toNat), (4, 0), (6, pos.toNat), (6, len.toNat), (20, 0)] := by
    rw [hn]
    simp only [putF, pack]
    omega
  have ho : Instr.bits (.ins d b a len pos) % 256 = 0x4b := by
    rw [hp]
    exact seg_low hf
  refine decode_encode (pack_word hp hf rfl) (by rw [ho]; decide) ?_ hw
  rw [candidate, ho]
  show some (Instr.ins (getF (Instr.bits (.ins d b a len pos)) 10 6) (getF (Instr.bits (.ins d b a len pos)) 22 6) (getF (Instr.bits (.ins d b a len pos)) 16 6) (getF (Instr.bits (.ins d b a len pos)) 38 6) (getF (Instr.bits (.ins d b a len pos)) 32 6)) = _
  refine congrArg some ?_
  congr 1
  · exact field hp hf 2 rfl rfl
  · exact field hp hf 4 rfl rfl
  · exact field hp hf 3 rfl rfl
  · exact field hp hf 7 rfl rfl
  · exact field hp hf 6 rfl rfl
theorem addsh (d : BitVec 6) (n : BitVec 4) (b : BitVec 6) (a : BitVec 6) : Statement (.addsh d n b a) := by
  refine ⟨fun _ _ hw => ?_, fun _ h => nomatch h⟩
  have h_d := d.isLt
  have h_n := n.isLt
  have h_b := b.isLt
  have h_a := a.isLt
  have hn : Instr.bits (.addsh d n b a) = 0x14c + putF 10 d + putF 28 n + putF 22 b + putF 16 a := rfl
  have hf : Fits [(8, 76), (2, 1), (6, d.toNat), (6, a.toNat), (6, b.toNat), (4, n.toNat), (32, 0)] := ⟨by decide, by decide, h_d, h_a, h_b, h_n, by decide, trivial⟩
  have hp : Instr.bits (.addsh d n b a) = pack [(8, 76), (2, 1), (6, d.toNat), (6, a.toNat), (6, b.toNat), (4, n.toNat), (32, 0)] := by
    rw [hn]
    simp only [putF, pack]
    omega
  have ho : Instr.bits (.addsh d n b a) % 256 = 0x4c := by
    rw [hp]
    exact seg_low hf
  refine decode_encode (pack_word hp hf rfl) (by rw [ho]; decide) ?_ hw
  rw [candidate, ho]
  show some (Instr.addsh (getF (Instr.bits (.addsh d n b a)) 10 6) (getF (Instr.bits (.addsh d n b a)) 28 4) (getF (Instr.bits (.addsh d n b a)) 22 6) (getF (Instr.bits (.addsh d n b a)) 16 6)) = _
  refine congrArg some ?_
  congr 1
  · exact field hp hf 2 rfl rfl
  · exact field hp hf 5 rfl rfl
  · exact field hp hf 4 rfl rfl
  · exact field hp hf 3 rfl rfl
theorem madd (d : BitVec 6) (f : BitVec 1) (b : BitVec 6) (a : BitVec 6) (c : BitVec 6) : Statement (.madd d f b a c) := by
  refine ⟨fun _ _ hw => ?_, fun _ h => nomatch h⟩
  have h_d := d.isLt
  have h_f := f.isLt
  have h_b := b.isLt
  have h_a := a.isLt
  have h_c := c.isLt
  have hn : Instr.bits (.madd d f b a c) = 0x24d + putF 10 d + putF 28 f + putF 22 b + putF 16 a + putF 32 c := rfl
  have hf : Fits [(8, 77), (2, 2), (6, d.toNat), (6, a.toNat), (6, b.toNat), (1, f.toNat), (3, 0), (6, c.toNat), (26, 0)] := ⟨by decide, by decide, h_d, h_a, h_b, h_f, by decide, h_c, by decide, trivial⟩
  have hp : Instr.bits (.madd d f b a c) = pack [(8, 77), (2, 2), (6, d.toNat), (6, a.toNat), (6, b.toNat), (1, f.toNat), (3, 0), (6, c.toNat), (26, 0)] := by
    rw [hn]
    simp only [putF, pack]
    omega
  have ho : Instr.bits (.madd d f b a c) % 256 = 0x4d := by
    rw [hp]
    exact seg_low hf
  refine decode_encode (pack_word hp hf rfl) (by rw [ho]; decide) ?_ hw
  rw [candidate, ho]
  show some (Instr.madd (getF (Instr.bits (.madd d f b a c)) 10 6) (getF (Instr.bits (.madd d f b a c)) 28 1) (getF (Instr.bits (.madd d f b a c)) 22 6) (getF (Instr.bits (.madd d f b a c)) 16 6) (getF (Instr.bits (.madd d f b a c)) 32 6)) = _
  refine congrArg some ?_
  congr 1
  · exact field hp hf 2 rfl rfl
  · exact field hp hf 5 rfl rfl
  · exact field hp hf 4 rfl rfl
  · exact field hp hf 3 rfl rfl
  · exact field hp hf 7 rfl rfl
theorem ld (d : BitVec 6) (g : BitVec 1) (z : BitVec 2) (a : BitVec 6) (disp : BitVec 16) : Statement (.ld d g z a disp) := by
  refine ⟨fun _ _ hw => ?_, fun _ h => nomatch h⟩
  have h_d := d.isLt
  have h_g := g.isLt
  have h_z := z.isLt
  have h_a := a.isLt
  have h_disp := disp.isLt
  have hn : Instr.bits (.ld d g z a disp) = 0x250 + putF 10 d + putF 30 g + putF 28 z + putF 16 a + putF 32 disp := rfl
  have hf : Fits [(8, 80), (2, 2), (6, d.toNat), (6, a.toNat), (6, 0), (2, z.toNat), (1, g.toNat), (1, 0), (16, disp.toNat), (16, 0)] := ⟨by decide, by decide, h_d, h_a, by decide, h_z, h_g, by decide, h_disp, by decide, trivial⟩
  have hp : Instr.bits (.ld d g z a disp) = pack [(8, 80), (2, 2), (6, d.toNat), (6, a.toNat), (6, 0), (2, z.toNat), (1, g.toNat), (1, 0), (16, disp.toNat), (16, 0)] := by
    rw [hn]
    simp only [putF, pack]
    omega
  have ho : Instr.bits (.ld d g z a disp) % 256 = 0x50 := by
    rw [hp]
    exact seg_low hf
  refine decode_encode (pack_word hp hf rfl) (by rw [ho]; decide) ?_ hw
  rw [candidate, ho]
  show some (Instr.ld (getF (Instr.bits (.ld d g z a disp)) 10 6) (getF (Instr.bits (.ld d g z a disp)) 30 1) (getF (Instr.bits (.ld d g z a disp)) 28 2) (getF (Instr.bits (.ld d g z a disp)) 16 6) (getF (Instr.bits (.ld d g z a disp)) 32 16)) = _
  refine congrArg some ?_
  congr 1
  · exact field hp hf 2 rfl rfl
  · exact field hp hf 6 rfl rfl
  · exact field hp hf 5 rfl rfl
  · exact field hp hf 3 rfl rfl
  · exact field hp hf 8 rfl rfl
theorem st (z : BitVec 2) (b : BitVec 6) (a : BitVec 6) (disp : BitVec 16) : Statement (.st z b a disp) := by
  refine ⟨fun _ _ hw => ?_, fun _ h => nomatch h⟩
  have h_z := z.isLt
  have h_b := b.isLt
  have h_a := a.isLt
  have h_disp := disp.isLt
  have hn : Instr.bits (.st z b a disp) = 0x251 + putF 28 z + putF 22 b + putF 16 a + putF 32 disp := rfl
  have hf : Fits [(8, 81), (8, 2), (6, a.toNat), (6, b.toNat), (2, z.toNat), (2, 0), (16, disp.toNat), (16, 0)] := ⟨by decide, by decide, h_a, h_b, h_z, by decide, h_disp, by decide, trivial⟩
  have hp : Instr.bits (.st z b a disp) = pack [(8, 81), (8, 2), (6, a.toNat), (6, b.toNat), (2, z.toNat), (2, 0), (16, disp.toNat), (16, 0)] := by
    rw [hn]
    simp only [putF, pack]
    omega
  have ho : Instr.bits (.st z b a disp) % 256 = 0x51 := by
    rw [hp]
    exact seg_low hf
  refine decode_encode (pack_word hp hf rfl) (by rw [ho]; decide) ?_ hw
  rw [candidate, ho]
  show some (Instr.st (getF (Instr.bits (.st z b a disp)) 28 2) (getF (Instr.bits (.st z b a disp)) 22 6) (getF (Instr.bits (.st z b a disp)) 16 6) (getF (Instr.bits (.st z b a disp)) 32 16)) = _
  refine congrArg some ?_
  congr 1
  · exact field hp hf 4 rfl rfl
  · exact field hp hf 3 rfl rfl
  · exact field hp hf 2 rfl rfl
  · exact field hp hf 6 rfl rfl
theorem ldx (d : BitVec 6) (g : BitVec 1) (z : BitVec 2) (b : BitVec 6) (a : BitVec 6) : Statement (.ldx d g z b a) := by
  refine ⟨fun _ _ hw => ?_, fun _ h => nomatch h⟩
  have h_d := d.isLt
  have h_g := g.isLt
  have h_z := z.isLt
  have h_b := b.isLt
  have h_a := a.isLt
  have hn : Instr.bits (.ldx d g z b a) = 0x152 + putF 10 d + putF 30 g + putF 28 z + putF 22 b + putF 16 a := rfl
  have hf : Fits [(8, 82), (2, 1), (6, d.toNat), (6, a.toNat), (6, b.toNat), (2, z.toNat), (1, g.toNat), (33, 0)] := ⟨by decide, by decide, h_d, h_a, h_b, h_z, h_g, by decide, trivial⟩
  have hp : Instr.bits (.ldx d g z b a) = pack [(8, 82), (2, 1), (6, d.toNat), (6, a.toNat), (6, b.toNat), (2, z.toNat), (1, g.toNat), (33, 0)] := by
    rw [hn]
    simp only [putF, pack]
    omega
  have ho : Instr.bits (.ldx d g z b a) % 256 = 0x52 := by
    rw [hp]
    exact seg_low hf
  refine decode_encode (pack_word hp hf rfl) (by rw [ho]; decide) ?_ hw
  rw [candidate, ho]
  show some (Instr.ldx (getF (Instr.bits (.ldx d g z b a)) 10 6) (getF (Instr.bits (.ldx d g z b a)) 30 1) (getF (Instr.bits (.ldx d g z b a)) 28 2) (getF (Instr.bits (.ldx d g z b a)) 22 6) (getF (Instr.bits (.ldx d g z b a)) 16 6)) = _
  refine congrArg some ?_
  congr 1
  · exact field hp hf 2 rfl rfl
  · exact field hp hf 6 rfl rfl
  · exact field hp hf 5 rfl rfl
  · exact field hp hf 4 rfl rfl
  · exact field hp hf 3 rfl rfl
theorem stx (z : BitVec 2) (b : BitVec 6) (a : BitVec 6) (c : BitVec 6) : Statement (.stx z b a c) := by
  refine ⟨fun _ _ hw => ?_, fun _ h => nomatch h⟩
  have h_z := z.isLt
  have h_b := b.isLt
  have h_a := a.isLt
  have h_c := c.isLt
  have hn : Instr.bits (.stx z b a c) = 0x253 + putF 28 z + putF 22 b + putF 16 a + putF 32 c := rfl
  have hf : Fits [(8, 83), (8, 2), (6, a.toNat), (6, b.toNat), (2, z.toNat), (2, 0), (6, c.toNat), (26, 0)] := ⟨by decide, by decide, h_a, h_b, h_z, by decide, h_c, by decide, trivial⟩
  have hp : Instr.bits (.stx z b a c) = pack [(8, 83), (8, 2), (6, a.toNat), (6, b.toNat), (2, z.toNat), (2, 0), (6, c.toNat), (26, 0)] := by
    rw [hn]
    simp only [putF, pack]
    omega
  have ho : Instr.bits (.stx z b a c) % 256 = 0x53 := by
    rw [hp]
    exact seg_low hf
  refine decode_encode (pack_word hp hf rfl) (by rw [ho]; decide) ?_ hw
  rw [candidate, ho]
  show some (Instr.stx (getF (Instr.bits (.stx z b a c)) 28 2) (getF (Instr.bits (.stx z b a c)) 22 6) (getF (Instr.bits (.stx z b a c)) 16 6) (getF (Instr.bits (.stx z b a c)) 32 6)) = _
  refine congrArg some ?_
  congr 1
  · exact field hp hf 4 rfl rfl
  · exact field hp hf 3 rfl rfl
  · exact field hp hf 2 rfl rfl
  · exact field hp hf 6 rfl rfl
theorem ldp (d : BitVec 6) (g : BitVec 1) (z : BitVec 2) (a : BitVec 6) (disp : BitVec 16) : Statement (.ldp d g z a disp) := by
  refine ⟨fun _ _ hw => ?_, fun _ h => nomatch h⟩
  have h_d := d.isLt
  have h_g := g.isLt
  have h_z := z.isLt
  have h_a := a.isLt
  have h_disp := disp.isLt
  have hn : Instr.bits (.ldp d g z a disp) = 0x254 + putF 10 d + putF 30 g + putF 28 z + putF 16 a + putF 32 disp := rfl
  have hf : Fits [(8, 84), (2, 2), (6, d.toNat), (6, a.toNat), (6, 0), (2, z.toNat), (1, g.toNat), (1, 0), (16, disp.toNat), (16, 0)] := ⟨by decide, by decide, h_d, h_a, by decide, h_z, h_g, by decide, h_disp, by decide, trivial⟩
  have hp : Instr.bits (.ldp d g z a disp) = pack [(8, 84), (2, 2), (6, d.toNat), (6, a.toNat), (6, 0), (2, z.toNat), (1, g.toNat), (1, 0), (16, disp.toNat), (16, 0)] := by
    rw [hn]
    simp only [putF, pack]
    omega
  have ho : Instr.bits (.ldp d g z a disp) % 256 = 0x54 := by
    rw [hp]
    exact seg_low hf
  refine decode_encode (pack_word hp hf rfl) (by rw [ho]; decide) ?_ hw
  rw [candidate, ho]
  show some (Instr.ldp (getF (Instr.bits (.ldp d g z a disp)) 10 6) (getF (Instr.bits (.ldp d g z a disp)) 30 1) (getF (Instr.bits (.ldp d g z a disp)) 28 2) (getF (Instr.bits (.ldp d g z a disp)) 16 6) (getF (Instr.bits (.ldp d g z a disp)) 32 16)) = _
  refine congrArg some ?_
  congr 1
  · exact field hp hf 2 rfl rfl
  · exact field hp hf 6 rfl rfl
  · exact field hp hf 5 rfl rfl
  · exact field hp hf 3 rfl rfl
  · exact field hp hf 8 rfl rfl
theorem stp (z : BitVec 2) (b : BitVec 6) (a : BitVec 6) (disp : BitVec 16) : Statement (.stp z b a disp) := by
  refine ⟨fun _ _ hw => ?_, fun _ h => nomatch h⟩
  have h_z := z.isLt
  have h_b := b.isLt
  have h_a := a.isLt
  have h_disp := disp.isLt
  have hn : Instr.bits (.stp z b a disp) = 0x255 + putF 28 z + putF 22 b + putF 16 a + putF 32 disp := rfl
  have hf : Fits [(8, 85), (8, 2), (6, a.toNat), (6, b.toNat), (2, z.toNat), (2, 0), (16, disp.toNat), (16, 0)] := ⟨by decide, by decide, h_a, h_b, h_z, by decide, h_disp, by decide, trivial⟩
  have hp : Instr.bits (.stp z b a disp) = pack [(8, 85), (8, 2), (6, a.toNat), (6, b.toNat), (2, z.toNat), (2, 0), (16, disp.toNat), (16, 0)] := by
    rw [hn]
    simp only [putF, pack]
    omega
  have ho : Instr.bits (.stp z b a disp) % 256 = 0x55 := by
    rw [hp]
    exact seg_low hf
  refine decode_encode (pack_word hp hf rfl) (by rw [ho]; decide) ?_ hw
  rw [candidate, ho]
  show some (Instr.stp (getF (Instr.bits (.stp z b a disp)) 28 2) (getF (Instr.bits (.stp z b a disp)) 22 6) (getF (Instr.bits (.stp z b a disp)) 16 6) (getF (Instr.bits (.stp z b a disp)) 32 16)) = _
  refine congrArg some ?_
  congr 1
  · exact field hp hf 4 rfl rfl
  · exact field hp hf 3 rfl rfl
  · exact field hp hf 2 rfl rfl
  · exact field hp hf 6 rfl rfl
theorem vld (d : BitVec 5) (z : BitVec 2) (a : BitVec 6) (p : BitVec 6) (disp : BitVec 16) : Statement (.vld d z a p disp) := by
  refine ⟨fun _ _ hw => ?_, fun _ h => nomatch h⟩
  have h_d := d.isLt
  have h_z := z.isLt
  have h_a := a.isLt
  have h_p := p.isLt
  have h_disp := disp.isLt
  have hn : Instr.bits (.vld d z a p disp) = 0x356 + putF 10 d + putF 28 z + putF 16 a + putF 38 p + putF 48 disp := rfl
  have hf : Fits [(8, 86), (2, 3), (5, d.toNat), (1, 0), (6, a.toNat), (6, 0), (2, z.toNat), (8, 0), (6, p.toNat), (4, 0), (16, disp.toNat)] := ⟨by decide, by decide, h_d, by decide, h_a, by decide, h_z, by decide, h_p, by decide, h_disp, trivial⟩
  have hp : Instr.bits (.vld d z a p disp) = pack [(8, 86), (2, 3), (5, d.toNat), (1, 0), (6, a.toNat), (6, 0), (2, z.toNat), (8, 0), (6, p.toNat), (4, 0), (16, disp.toNat)] := by
    rw [hn]
    simp only [putF, pack]
    omega
  have ho : Instr.bits (.vld d z a p disp) % 256 = 0x56 := by
    rw [hp]
    exact seg_low hf
  refine decode_encode (pack_word hp hf rfl) (by rw [ho]; decide) ?_ hw
  rw [candidate, ho]
  show some (Instr.vld (getF (Instr.bits (.vld d z a p disp)) 10 5) (getF (Instr.bits (.vld d z a p disp)) 28 2) (getF (Instr.bits (.vld d z a p disp)) 16 6) (getF (Instr.bits (.vld d z a p disp)) 38 6) (getF (Instr.bits (.vld d z a p disp)) 48 16)) = _
  refine congrArg some ?_
  congr 1
  · exact field hp hf 2 rfl rfl
  · exact field hp hf 6 rfl rfl
  · exact field hp hf 4 rfl rfl
  · exact field hp hf 8 rfl rfl
  · exact field hp hf 10 rfl rfl
theorem vst (d : BitVec 5) (z : BitVec 2) (a : BitVec 6) (p : BitVec 6) (disp : BitVec 16) : Statement (.vst d z a p disp) := by
  refine ⟨fun _ _ hw => ?_, fun _ h => nomatch h⟩
  have h_d := d.isLt
  have h_z := z.isLt
  have h_a := a.isLt
  have h_p := p.isLt
  have h_disp := disp.isLt
  have hn : Instr.bits (.vst d z a p disp) = 0x357 + putF 10 d + putF 28 z + putF 16 a + putF 38 p + putF 48 disp := rfl
  have hf : Fits [(8, 87), (2, 3), (5, d.toNat), (1, 0), (6, a.toNat), (6, 0), (2, z.toNat), (8, 0), (6, p.toNat), (4, 0), (16, disp.toNat)] := ⟨by decide, by decide, h_d, by decide, h_a, by decide, h_z, by decide, h_p, by decide, h_disp, trivial⟩
  have hp : Instr.bits (.vst d z a p disp) = pack [(8, 87), (2, 3), (5, d.toNat), (1, 0), (6, a.toNat), (6, 0), (2, z.toNat), (8, 0), (6, p.toNat), (4, 0), (16, disp.toNat)] := by
    rw [hn]
    simp only [putF, pack]
    omega
  have ho : Instr.bits (.vst d z a p disp) % 256 = 0x57 := by
    rw [hp]
    exact seg_low hf
  refine decode_encode (pack_word hp hf rfl) (by rw [ho]; decide) ?_ hw
  rw [candidate, ho]
  show some (Instr.vst (getF (Instr.bits (.vst d z a p disp)) 10 5) (getF (Instr.bits (.vst d z a p disp)) 28 2) (getF (Instr.bits (.vst d z a p disp)) 16 6) (getF (Instr.bits (.vst d z a p disp)) 38 6) (getF (Instr.bits (.vst d z a p disp)) 48 16)) = _
  refine congrArg some ?_
  congr 1
  · exact field hp hf 2 rfl rfl
  · exact field hp hf 6 rfl rfl
  · exact field hp hf 4 rfl rfl
  · exact field hp hf 8 rfl rfl
  · exact field hp hf 10 rfl rfl
theorem vlds (d : BitVec 5) (z : BitVec 2) (b : BitVec 6) (a : BitVec 6) (p : BitVec 6) (disp : BitVec 16) : Statement (.vlds d z b a p disp) := by
  refine ⟨fun _ _ hw => ?_, fun _ h => nomatch h⟩
  have h_d := d.isLt
  have h_z := z.isLt
  have h_b := b.isLt
  have h_a := a.isLt
  have h_p := p.isLt
  have h_disp := disp.isLt
  have hn : Instr.bits (.vlds d z b a p disp) = 0x358 + putF 10 d + putF 28 z + putF 22 b + putF 16 a + putF 38 p + putF 48 disp := rfl
  have hf : Fits [(8, 88), (2, 3), (5, d.toNat), (1, 0), (6, a.toNat), (6, b.toNat), (2, z.toNat), (8, 0), (6, p.toNat), (4, 0), (16, disp.toNat)] := ⟨by decide, by decide, h_d, by decide, h_a, h_b, h_z, by decide, h_p, by decide, h_disp, trivial⟩
  have hp : Instr.bits (.vlds d z b a p disp) = pack [(8, 88), (2, 3), (5, d.toNat), (1, 0), (6, a.toNat), (6, b.toNat), (2, z.toNat), (8, 0), (6, p.toNat), (4, 0), (16, disp.toNat)] := by
    rw [hn]
    simp only [putF, pack]
    omega
  have ho : Instr.bits (.vlds d z b a p disp) % 256 = 0x58 := by
    rw [hp]
    exact seg_low hf
  refine decode_encode (pack_word hp hf rfl) (by rw [ho]; decide) ?_ hw
  rw [candidate, ho]
  show some (Instr.vlds (getF (Instr.bits (.vlds d z b a p disp)) 10 5) (getF (Instr.bits (.vlds d z b a p disp)) 28 2) (getF (Instr.bits (.vlds d z b a p disp)) 22 6) (getF (Instr.bits (.vlds d z b a p disp)) 16 6) (getF (Instr.bits (.vlds d z b a p disp)) 38 6) (getF (Instr.bits (.vlds d z b a p disp)) 48 16)) = _
  refine congrArg some ?_
  congr 1
  · exact field hp hf 2 rfl rfl
  · exact field hp hf 6 rfl rfl
  · exact field hp hf 5 rfl rfl
  · exact field hp hf 4 rfl rfl
  · exact field hp hf 8 rfl rfl
  · exact field hp hf 10 rfl rfl
theorem vsts (d : BitVec 5) (z : BitVec 2) (b : BitVec 6) (a : BitVec 6) (p : BitVec 6) (disp : BitVec 16) : Statement (.vsts d z b a p disp) := by
  refine ⟨fun _ _ hw => ?_, fun _ h => nomatch h⟩
  have h_d := d.isLt
  have h_z := z.isLt
  have h_b := b.isLt
  have h_a := a.isLt
  have h_p := p.isLt
  have h_disp := disp.isLt
  have hn : Instr.bits (.vsts d z b a p disp) = 0x359 + putF 10 d + putF 28 z + putF 22 b + putF 16 a + putF 38 p + putF 48 disp := rfl
  have hf : Fits [(8, 89), (2, 3), (5, d.toNat), (1, 0), (6, a.toNat), (6, b.toNat), (2, z.toNat), (8, 0), (6, p.toNat), (4, 0), (16, disp.toNat)] := ⟨by decide, by decide, h_d, by decide, h_a, h_b, h_z, by decide, h_p, by decide, h_disp, trivial⟩
  have hp : Instr.bits (.vsts d z b a p disp) = pack [(8, 89), (2, 3), (5, d.toNat), (1, 0), (6, a.toNat), (6, b.toNat), (2, z.toNat), (8, 0), (6, p.toNat), (4, 0), (16, disp.toNat)] := by
    rw [hn]
    simp only [putF, pack]
    omega
  have ho : Instr.bits (.vsts d z b a p disp) % 256 = 0x59 := by
    rw [hp]
    exact seg_low hf
  refine decode_encode (pack_word hp hf rfl) (by rw [ho]; decide) ?_ hw
  rw [candidate, ho]
  show some (Instr.vsts (getF (Instr.bits (.vsts d z b a p disp)) 10 5) (getF (Instr.bits (.vsts d z b a p disp)) 28 2) (getF (Instr.bits (.vsts d z b a p disp)) 22 6) (getF (Instr.bits (.vsts d z b a p disp)) 16 6) (getF (Instr.bits (.vsts d z b a p disp)) 38 6) (getF (Instr.bits (.vsts d z b a p disp)) 48 16)) = _
  refine congrArg some ?_
  congr 1
  · exact field hp hf 2 rfl rfl
  · exact field hp hf 6 rfl rfl
  · exact field hp hf 5 rfl rfl
  · exact field hp hf 4 rfl rfl
  · exact field hp hf 8 rfl rfl
  · exact field hp hf 10 rfl rfl
theorem vgath (d : BitVec 5) (z : BitVec 2) (a : BitVec 6) (ig : BitVec 1) (iw : BitVec 2) (p : BitVec 6) (c : BitVec 5) (disp : BitVec 16) : Statement (.vgath d z a ig iw p c disp) := by
  refine ⟨fun _ _ hw => ?_, fun _ h => nomatch h⟩
  have h_d := d.isLt
  have h_z := z.isLt
  have h_a := a.isLt
  have h_ig := ig.isLt
  have h_iw := iw.isLt
  have h_p := p.isLt
  have h_c := c.isLt
  have h_disp := disp.isLt
  have hn : Instr.bits (.vgath d z a ig iw p c disp) = 0x35a + putF 10 d + putF 28 z + putF 16 a + putF 46 ig + putF 44 iw + putF 38 p + putF 32 c + putF 48 disp := rfl
  have hf : Fits [(8, 90), (2, 3), (5, d.toNat), (1, 0), (6, a.toNat), (6, 0), (2, z.toNat), (2, 0), (5, c.toNat), (1, 0), (6, p.toNat), (2, iw.toNat), (1, ig.toNat), (1, 0), (16, disp.toNat)] := ⟨by decide, by decide, h_d, by decide, h_a, by decide, h_z, by decide, h_c, by decide, h_p, h_iw, h_ig, by decide, h_disp, trivial⟩
  have hp : Instr.bits (.vgath d z a ig iw p c disp) = pack [(8, 90), (2, 3), (5, d.toNat), (1, 0), (6, a.toNat), (6, 0), (2, z.toNat), (2, 0), (5, c.toNat), (1, 0), (6, p.toNat), (2, iw.toNat), (1, ig.toNat), (1, 0), (16, disp.toNat)] := by
    rw [hn]
    simp only [putF, pack]
    omega
  have ho : Instr.bits (.vgath d z a ig iw p c disp) % 256 = 0x5a := by
    rw [hp]
    exact seg_low hf
  refine decode_encode (pack_word hp hf rfl) (by rw [ho]; decide) ?_ hw
  rw [candidate, ho]
  show some (Instr.vgath (getF (Instr.bits (.vgath d z a ig iw p c disp)) 10 5) (getF (Instr.bits (.vgath d z a ig iw p c disp)) 28 2) (getF (Instr.bits (.vgath d z a ig iw p c disp)) 16 6) (getF (Instr.bits (.vgath d z a ig iw p c disp)) 46 1) (getF (Instr.bits (.vgath d z a ig iw p c disp)) 44 2) (getF (Instr.bits (.vgath d z a ig iw p c disp)) 38 6) (getF (Instr.bits (.vgath d z a ig iw p c disp)) 32 5) (getF (Instr.bits (.vgath d z a ig iw p c disp)) 48 16)) = _
  refine congrArg some ?_
  congr 1
  · exact field hp hf 2 rfl rfl
  · exact field hp hf 6 rfl rfl
  · exact field hp hf 4 rfl rfl
  · exact field hp hf 12 rfl rfl
  · exact field hp hf 11 rfl rfl
  · exact field hp hf 10 rfl rfl
  · exact field hp hf 8 rfl rfl
  · exact field hp hf 14 rfl rfl
theorem vscat (d : BitVec 5) (z : BitVec 2) (a : BitVec 6) (ig : BitVec 1) (iw : BitVec 2) (p : BitVec 6) (c : BitVec 5) (disp : BitVec 16) : Statement (.vscat d z a ig iw p c disp) := by
  refine ⟨fun _ _ hw => ?_, fun _ h => nomatch h⟩
  have h_d := d.isLt
  have h_z := z.isLt
  have h_a := a.isLt
  have h_ig := ig.isLt
  have h_iw := iw.isLt
  have h_p := p.isLt
  have h_c := c.isLt
  have h_disp := disp.isLt
  have hn : Instr.bits (.vscat d z a ig iw p c disp) = 0x35b + putF 10 d + putF 28 z + putF 16 a + putF 46 ig + putF 44 iw + putF 38 p + putF 32 c + putF 48 disp := rfl
  have hf : Fits [(8, 91), (2, 3), (5, d.toNat), (1, 0), (6, a.toNat), (6, 0), (2, z.toNat), (2, 0), (5, c.toNat), (1, 0), (6, p.toNat), (2, iw.toNat), (1, ig.toNat), (1, 0), (16, disp.toNat)] := ⟨by decide, by decide, h_d, by decide, h_a, by decide, h_z, by decide, h_c, by decide, h_p, h_iw, h_ig, by decide, h_disp, trivial⟩
  have hp : Instr.bits (.vscat d z a ig iw p c disp) = pack [(8, 91), (2, 3), (5, d.toNat), (1, 0), (6, a.toNat), (6, 0), (2, z.toNat), (2, 0), (5, c.toNat), (1, 0), (6, p.toNat), (2, iw.toNat), (1, ig.toNat), (1, 0), (16, disp.toNat)] := by
    rw [hn]
    simp only [putF, pack]
    omega
  have ho : Instr.bits (.vscat d z a ig iw p c disp) % 256 = 0x5b := by
    rw [hp]
    exact seg_low hf
  refine decode_encode (pack_word hp hf rfl) (by rw [ho]; decide) ?_ hw
  rw [candidate, ho]
  show some (Instr.vscat (getF (Instr.bits (.vscat d z a ig iw p c disp)) 10 5) (getF (Instr.bits (.vscat d z a ig iw p c disp)) 28 2) (getF (Instr.bits (.vscat d z a ig iw p c disp)) 16 6) (getF (Instr.bits (.vscat d z a ig iw p c disp)) 46 1) (getF (Instr.bits (.vscat d z a ig iw p c disp)) 44 2) (getF (Instr.bits (.vscat d z a ig iw p c disp)) 38 6) (getF (Instr.bits (.vscat d z a ig iw p c disp)) 32 5) (getF (Instr.bits (.vscat d z a ig iw p c disp)) 48 16)) = _
  refine congrArg some ?_
  congr 1
  · exact field hp hf 2 rfl rfl
  · exact field hp hf 6 rfl rfl
  · exact field hp hf 4 rfl rfl
  · exact field hp hf 12 rfl rfl
  · exact field hp hf 11 rfl rfl
  · exact field hp hf 10 rfl rfl
  · exact field hp hf 8 rfl rfl
  · exact field hp hf 14 rfl rfl
theorem pref (z : BitVec 2) (a : BitVec 6) (disp : BitVec 16) : Statement (.pref z a disp) := by
  refine ⟨fun _ _ hw => ?_, fun _ h => nomatch h⟩
  have h_z := z.isLt
  have h_a := a.isLt
  have h_disp := disp.isLt
  have hn : Instr.bits (.pref z a disp) = 0x25c + putF 28 z + putF 16 a + putF 32 disp := rfl
  have hf : Fits [(8, 92), (8, 2), (6, a.toNat), (6, 0), (2, z.toNat), (2, 0), (16, disp.toNat), (16, 0)] := ⟨by decide, by decide, h_a, by decide, h_z, by decide, h_disp, by decide, trivial⟩
  have hp : Instr.bits (.pref z a disp) = pack [(8, 92), (8, 2), (6, a.toNat), (6, 0), (2, z.toNat), (2, 0), (16, disp.toNat), (16, 0)] := by
    rw [hn]
    simp only [putF, pack]
    omega
  have ho : Instr.bits (.pref z a disp) % 256 = 0x5c := by
    rw [hp]
    exact seg_low hf
  refine decode_encode (pack_word hp hf rfl) (by rw [ho]; decide) ?_ hw
  rw [candidate, ho]
  show some (Instr.pref (getF (Instr.bits (.pref z a disp)) 28 2) (getF (Instr.bits (.pref z a disp)) 16 6) (getF (Instr.bits (.pref z a disp)) 32 16)) = _
  refine congrArg some ?_
  congr 1
  · exact field hp hf 4 rfl rfl
  · exact field hp hf 2 rfl rfl
  · exact field hp hf 6 rfl rfl
theorem discard (b : BitVec 6) (a : BitVec 6) : Statement (.discard b a) := by
  refine ⟨fun _ _ hw => ?_, fun _ h => nomatch h⟩
  have h_b := b.isLt
  have h_a := a.isLt
  have hn : Instr.bits (.discard b a) = 0x15d + putF 22 b + putF 16 a := rfl
  have hf : Fits [(8, 93), (8, 1), (6, a.toNat), (6, b.toNat), (36, 0)] := ⟨by decide, by decide, h_a, h_b, by decide, trivial⟩
  have hp : Instr.bits (.discard b a) = pack [(8, 93), (8, 1), (6, a.toNat), (6, b.toNat), (36, 0)] := by
    rw [hn]
    simp only [putF, pack]
    omega
  have ho : Instr.bits (.discard b a) % 256 = 0x5d := by
    rw [hp]
    exact seg_low hf
  refine decode_encode (pack_word hp hf rfl) (by rw [ho]; decide) ?_ hw
  rw [candidate, ho]
  show some (Instr.discard (getF (Instr.bits (.discard b a)) 22 6) (getF (Instr.bits (.discard b a)) 16 6)) = _
  refine congrArg some ?_
  congr 1
  · exact field hp hf 3 rfl rfl
  · exact field hp hf 2 rfl rfl
theorem clean (b : BitVec 6) (a : BitVec 6) : Statement (.clean b a) := by
  refine ⟨fun _ _ hw => ?_, fun _ h => nomatch h⟩
  have h_b := b.isLt
  have h_a := a.isLt
  have hn : Instr.bits (.clean b a) = 0x15e + putF 22 b + putF 16 a := rfl
  have hf : Fits [(8, 94), (8, 1), (6, a.toNat), (6, b.toNat), (36, 0)] := ⟨by decide, by decide, h_a, h_b, by decide, trivial⟩
  have hp : Instr.bits (.clean b a) = pack [(8, 94), (8, 1), (6, a.toNat), (6, b.toNat), (36, 0)] := by
    rw [hn]
    simp only [putF, pack]
    omega
  have ho : Instr.bits (.clean b a) % 256 = 0x5e := by
    rw [hp]
    exact seg_low hf
  refine decode_encode (pack_word hp hf rfl) (by rw [ho]; decide) ?_ hw
  rw [candidate, ho]
  show some (Instr.clean (getF (Instr.bits (.clean b a)) 22 6) (getF (Instr.bits (.clean b a)) 16 6)) = _
  refine congrArg some ?_
  congr 1
  · exact field hp hf 3 rfl rfl
  · exact field hp hf 2 rfl rfl
theorem bankcfg (d : BitVec 6) (z : BitVec 2) (a : BitVec 6) (bank : BitVec 4) : Statement (.bankcfg d z a bank) := by
  refine ⟨fun _ _ hw => ?_, fun _ h => nomatch h⟩
  have h_d := d.isLt
  have h_z := z.isLt
  have h_a := a.isLt
  have h_bank := bank.isLt
  have hn : Instr.bits (.bankcfg d z a bank) = 0x25f + putF 10 d + putF 28 z + putF 16 a + putF 32 bank := rfl
  have hf : Fits [(8, 95), (2, 2), (6, d.toNat), (6, a.toNat), (6, 0), (2, z.toNat), (2, 0), (4, bank.toNat), (28, 0)] := ⟨by decide, by decide, h_d, h_a, by decide, h_z, by decide, h_bank, by decide, trivial⟩
  have hp : Instr.bits (.bankcfg d z a bank) = pack [(8, 95), (2, 2), (6, d.toNat), (6, a.toNat), (6, 0), (2, z.toNat), (2, 0), (4, bank.toNat), (28, 0)] := by
    rw [hn]
    simp only [putF, pack]
    omega
  have ho : Instr.bits (.bankcfg d z a bank) % 256 = 0x5f := by
    rw [hp]
    exact seg_low hf
  refine decode_encode (pack_word hp hf rfl) (by rw [ho]; decide) ?_ hw
  rw [candidate, ho]
  show some (Instr.bankcfg (getF (Instr.bits (.bankcfg d z a bank)) 10 6) (getF (Instr.bits (.bankcfg d z a bank)) 28 2) (getF (Instr.bits (.bankcfg d z a bank)) 16 6) (getF (Instr.bits (.bankcfg d z a bank)) 32 4)) = _
  refine congrArg some ?_
  congr 1
  · exact field hp hf 2 rfl rfl
  · exact field hp hf 5 rfl rfl
  · exact field hp hf 3 rfl rfl
  · exact field hp hf 7 rfl rfl
theorem bankq (d : BitVec 6) (a : BitVec 6) : Statement (.bankq d a) := by
  refine ⟨fun _ _ hw => ?_, fun _ h => nomatch h⟩
  have h_d := d.isLt
  have h_a := a.isLt
  have hn : Instr.bits (.bankq d a) = 0x160 + putF 10 d + putF 16 a := rfl
  have hf : Fits [(8, 96), (2, 1), (6, d.toNat), (6, a.toNat), (42, 0)] := ⟨by decide, by decide, h_d, h_a, by decide, trivial⟩
  have hp : Instr.bits (.bankq d a) = pack [(8, 96), (2, 1), (6, d.toNat), (6, a.toNat), (42, 0)] := by
    rw [hn]
    simp only [putF, pack]
    omega
  have ho : Instr.bits (.bankq d a) % 256 = 0x60 := by
    rw [hp]
    exact seg_low hf
  refine decode_encode (pack_word hp hf rfl) (by rw [ho]; decide) ?_ hw
  rw [candidate, ho]
  show some (Instr.bankq (getF (Instr.bits (.bankq d a)) 10 6) (getF (Instr.bits (.bankq d a)) 16 6)) = _
  refine congrArg some ?_
  congr 1
  · exact field hp hf 2 rfl rfl
  · exact field hp hf 3 rfl rfl
theorem fpush (d : BitVec 6) (b : BitVec 6) (a : BitVec 6) (disp : BitVec 16) : Statement (.fpush d b a disp) := by
  refine ⟨fun _ _ hw => ?_, fun _ h => nomatch h⟩
  have h_d := d.isLt
  have h_b := b.isLt
  have h_a := a.isLt
  have h_disp := disp.isLt
  have hn : Instr.bits (.fpush d b a disp) = 0x261 + putF 10 d + putF 22 b + putF 16 a + putF 32 disp := rfl
  have hf : Fits [(8, 97), (2, 2), (6, d.toNat), (6, a.toNat), (6, b.toNat), (4, 0), (16, disp.toNat), (16, 0)] := ⟨by decide, by decide, h_d, h_a, h_b, by decide, h_disp, by decide, trivial⟩
  have hp : Instr.bits (.fpush d b a disp) = pack [(8, 97), (2, 2), (6, d.toNat), (6, a.toNat), (6, b.toNat), (4, 0), (16, disp.toNat), (16, 0)] := by
    rw [hn]
    simp only [putF, pack]
    omega
  have ho : Instr.bits (.fpush d b a disp) % 256 = 0x61 := by
    rw [hp]
    exact seg_low hf
  refine decode_encode (pack_word hp hf rfl) (by rw [ho]; decide) ?_ hw
  rw [candidate, ho]
  show some (Instr.fpush (getF (Instr.bits (.fpush d b a disp)) 10 6) (getF (Instr.bits (.fpush d b a disp)) 22 6) (getF (Instr.bits (.fpush d b a disp)) 16 6) (getF (Instr.bits (.fpush d b a disp)) 32 16)) = _
  refine congrArg some ?_
  congr 1
  · exact field hp hf 2 rfl rfl
  · exact field hp hf 4 rfl rfl
  · exact field hp hf 3 rfl rfl
  · exact field hp hf 6 rfl rfl
theorem fpop (d : BitVec 6) (b : BitVec 6) (a : BitVec 6) (disp : BitVec 16) : Statement (.fpop d b a disp) := by
  refine ⟨fun _ _ hw => ?_, fun _ h => nomatch h⟩
  have h_d := d.isLt
  have h_b := b.isLt
  have h_a := a.isLt
  have h_disp := disp.isLt
  have hn : Instr.bits (.fpop d b a disp) = 0x262 + putF 10 d + putF 22 b + putF 16 a + putF 32 disp := rfl
  have hf : Fits [(8, 98), (2, 2), (6, d.toNat), (6, a.toNat), (6, b.toNat), (4, 0), (16, disp.toNat), (16, 0)] := ⟨by decide, by decide, h_d, h_a, h_b, by decide, h_disp, by decide, trivial⟩
  have hp : Instr.bits (.fpop d b a disp) = pack [(8, 98), (2, 2), (6, d.toNat), (6, a.toNat), (6, b.toNat), (4, 0), (16, disp.toNat), (16, 0)] := by
    rw [hn]
    simp only [putF, pack]
    omega
  have ho : Instr.bits (.fpop d b a disp) % 256 = 0x62 := by
    rw [hp]
    exact seg_low hf
  refine decode_encode (pack_word hp hf rfl) (by rw [ho]; decide) ?_ hw
  rw [candidate, ho]
  show some (Instr.fpop (getF (Instr.bits (.fpop d b a disp)) 10 6) (getF (Instr.bits (.fpop d b a disp)) 22 6) (getF (Instr.bits (.fpop d b a disp)) 16 6) (getF (Instr.bits (.fpop d b a disp)) 32 16)) = _
  refine congrArg some ?_
  congr 1
  · exact field hp hf 2 rfl rfl
  · exact field hp hf 4 rfl rfl
  · exact field hp hf 3 rfl rfl
  · exact field hp hf 6 rfl rfl
theorem fpeek (d : BitVec 6) (b : BitVec 6) (a : BitVec 6) (disp : BitVec 16) : Statement (.fpeek d b a disp) := by
  refine ⟨fun _ _ hw => ?_, fun _ h => nomatch h⟩
  have h_d := d.isLt
  have h_b := b.isLt
  have h_a := a.isLt
  have h_disp := disp.isLt
  have hn : Instr.bits (.fpeek d b a disp) = 0x263 + putF 10 d + putF 22 b + putF 16 a + putF 32 disp := rfl
  have hf : Fits [(8, 99), (2, 2), (6, d.toNat), (6, a.toNat), (6, b.toNat), (4, 0), (16, disp.toNat), (16, 0)] := ⟨by decide, by decide, h_d, h_a, h_b, by decide, h_disp, by decide, trivial⟩
  have hp : Instr.bits (.fpeek d b a disp) = pack [(8, 99), (2, 2), (6, d.toNat), (6, a.toNat), (6, b.toNat), (4, 0), (16, disp.toNat), (16, 0)] := by
    rw [hn]
    simp only [putF, pack]
    omega
  have ho : Instr.bits (.fpeek d b a disp) % 256 = 0x63 := by
    rw [hp]
    exact seg_low hf
  refine decode_encode (pack_word hp hf rfl) (by rw [ho]; decide) ?_ hw
  rw [candidate, ho]
  show some (Instr.fpeek (getF (Instr.bits (.fpeek d b a disp)) 10 6) (getF (Instr.bits (.fpeek d b a disp)) 22 6) (getF (Instr.bits (.fpeek d b a disp)) 16 6) (getF (Instr.bits (.fpeek d b a disp)) 32 16)) = _
  refine congrArg some ?_
  congr 1
  · exact field hp hf 2 rfl rfl
  · exact field hp hf 4 rfl rfl
  · exact field hp hf 3 rfl rfl
  · exact field hp hf 6 rfl rfl
theorem aadd (z : BitVec 1) (b : BitVec 6) (a : BitVec 6) (disp : BitVec 16) : Statement (.aadd z b a disp) := by
  refine ⟨fun _ _ hw => ?_, fun _ h => nomatch h⟩
  have h_z := z.isLt
  have h_b := b.isLt
  have h_a := a.isLt
  have h_disp := disp.isLt
  have hn : Instr.bits (.aadd z b a disp) = 0x20000270 + putF 28 z + putF 22 b + putF 16 a + putF 32 disp := rfl
  have hf : Fits [(8, 112), (8, 2), (6, a.toNat), (6, b.toNat), (1, z.toNat), (3, 1), (16, disp.toNat), (16, 0)] := ⟨by decide, by decide, h_a, h_b, h_z, by decide, h_disp, by decide, trivial⟩
  have hp : Instr.bits (.aadd z b a disp) = pack [(8, 112), (8, 2), (6, a.toNat), (6, b.toNat), (1, z.toNat), (3, 1), (16, disp.toNat), (16, 0)] := by
    rw [hn]
    simp only [putF, pack]
    omega
  have ho : Instr.bits (.aadd z b a disp) % 256 = 0x70 := by
    rw [hp]
    exact seg_low hf
  refine decode_encode (pack_word hp hf rfl) (by rw [ho]; decide) ?_ hw
  rw [candidate, ho]
  show some (Instr.aadd (getF (Instr.bits (.aadd z b a disp)) 28 1) (getF (Instr.bits (.aadd z b a disp)) 22 6) (getF (Instr.bits (.aadd z b a disp)) 16 6) (getF (Instr.bits (.aadd z b a disp)) 32 16)) = _
  refine congrArg some ?_
  congr 1
  · exact field hp hf 4 rfl rfl
  · exact field hp hf 3 rfl rfl
  · exact field hp hf 2 rfl rfl
  · exact field hp hf 6 rfl rfl
theorem aand (z : BitVec 1) (b : BitVec 6) (a : BitVec 6) (disp : BitVec 16) : Statement (.aand z b a disp) := by
  refine ⟨fun _ _ hw => ?_, fun _ h => nomatch h⟩
  have h_z := z.isLt
  have h_b := b.isLt
  have h_a := a.isLt
  have h_disp := disp.isLt
  have hn : Instr.bits (.aand z b a disp) = 0x20000271 + putF 28 z + putF 22 b + putF 16 a + putF 32 disp := rfl
  have hf : Fits [(8, 113), (8, 2), (6, a.toNat), (6, b.toNat), (1, z.toNat), (3, 1), (16, disp.toNat), (16, 0)] := ⟨by decide, by decide, h_a, h_b, h_z, by decide, h_disp, by decide, trivial⟩
  have hp : Instr.bits (.aand z b a disp) = pack [(8, 113), (8, 2), (6, a.toNat), (6, b.toNat), (1, z.toNat), (3, 1), (16, disp.toNat), (16, 0)] := by
    rw [hn]
    simp only [putF, pack]
    omega
  have ho : Instr.bits (.aand z b a disp) % 256 = 0x71 := by
    rw [hp]
    exact seg_low hf
  refine decode_encode (pack_word hp hf rfl) (by rw [ho]; decide) ?_ hw
  rw [candidate, ho]
  show some (Instr.aand (getF (Instr.bits (.aand z b a disp)) 28 1) (getF (Instr.bits (.aand z b a disp)) 22 6) (getF (Instr.bits (.aand z b a disp)) 16 6) (getF (Instr.bits (.aand z b a disp)) 32 16)) = _
  refine congrArg some ?_
  congr 1
  · exact field hp hf 4 rfl rfl
  · exact field hp hf 3 rfl rfl
  · exact field hp hf 2 rfl rfl
  · exact field hp hf 6 rfl rfl
theorem aor (z : BitVec 1) (b : BitVec 6) (a : BitVec 6) (disp : BitVec 16) : Statement (.aor z b a disp) := by
  refine ⟨fun _ _ hw => ?_, fun _ h => nomatch h⟩
  have h_z := z.isLt
  have h_b := b.isLt
  have h_a := a.isLt
  have h_disp := disp.isLt
  have hn : Instr.bits (.aor z b a disp) = 0x20000272 + putF 28 z + putF 22 b + putF 16 a + putF 32 disp := rfl
  have hf : Fits [(8, 114), (8, 2), (6, a.toNat), (6, b.toNat), (1, z.toNat), (3, 1), (16, disp.toNat), (16, 0)] := ⟨by decide, by decide, h_a, h_b, h_z, by decide, h_disp, by decide, trivial⟩
  have hp : Instr.bits (.aor z b a disp) = pack [(8, 114), (8, 2), (6, a.toNat), (6, b.toNat), (1, z.toNat), (3, 1), (16, disp.toNat), (16, 0)] := by
    rw [hn]
    simp only [putF, pack]
    omega
  have ho : Instr.bits (.aor z b a disp) % 256 = 0x72 := by
    rw [hp]
    exact seg_low hf
  refine decode_encode (pack_word hp hf rfl) (by rw [ho]; decide) ?_ hw
  rw [candidate, ho]
  show some (Instr.aor (getF (Instr.bits (.aor z b a disp)) 28 1) (getF (Instr.bits (.aor z b a disp)) 22 6) (getF (Instr.bits (.aor z b a disp)) 16 6) (getF (Instr.bits (.aor z b a disp)) 32 16)) = _
  refine congrArg some ?_
  congr 1
  · exact field hp hf 4 rfl rfl
  · exact field hp hf 3 rfl rfl
  · exact field hp hf 2 rfl rfl
  · exact field hp hf 6 rfl rfl
theorem axor (z : BitVec 1) (b : BitVec 6) (a : BitVec 6) (disp : BitVec 16) : Statement (.axor z b a disp) := by
  refine ⟨fun _ _ hw => ?_, fun _ h => nomatch h⟩
  have h_z := z.isLt
  have h_b := b.isLt
  have h_a := a.isLt
  have h_disp := disp.isLt
  have hn : Instr.bits (.axor z b a disp) = 0x20000273 + putF 28 z + putF 22 b + putF 16 a + putF 32 disp := rfl
  have hf : Fits [(8, 115), (8, 2), (6, a.toNat), (6, b.toNat), (1, z.toNat), (3, 1), (16, disp.toNat), (16, 0)] := ⟨by decide, by decide, h_a, h_b, h_z, by decide, h_disp, by decide, trivial⟩
  have hp : Instr.bits (.axor z b a disp) = pack [(8, 115), (8, 2), (6, a.toNat), (6, b.toNat), (1, z.toNat), (3, 1), (16, disp.toNat), (16, 0)] := by
    rw [hn]
    simp only [putF, pack]
    omega
  have ho : Instr.bits (.axor z b a disp) % 256 = 0x73 := by
    rw [hp]
    exact seg_low hf
  refine decode_encode (pack_word hp hf rfl) (by rw [ho]; decide) ?_ hw
  rw [candidate, ho]
  show some (Instr.axor (getF (Instr.bits (.axor z b a disp)) 28 1) (getF (Instr.bits (.axor z b a disp)) 22 6) (getF (Instr.bits (.axor z b a disp)) 16 6) (getF (Instr.bits (.axor z b a disp)) 32 16)) = _
  refine congrArg some ?_
  congr 1
  · exact field hp hf 4 rfl rfl
  · exact field hp hf 3 rfl rfl
  · exact field hp hf 2 rfl rfl
  · exact field hp hf 6 rfl rfl
theorem amin (g : BitVec 1) (z : BitVec 1) (b : BitVec 6) (a : BitVec 6) (disp : BitVec 16) : Statement (.amin g z b a disp) := by
  refine ⟨fun _ _ hw => ?_, fun _ h => nomatch h⟩
  have h_g := g.isLt
  have h_z := z.isLt
  have h_b := b.isLt
  have h_a := a.isLt
  have h_disp := disp.isLt
  have hn : Instr.bits (.amin g z b a disp) = 0x20000274 + putF 30 g + putF 28 z + putF 22 b + putF 16 a + putF 32 disp := rfl
  have hf : Fits [(8, 116), (8, 2), (6, a.toNat), (6, b.toNat), (1, z.toNat), (1, 1), (1, g.toNat), (1, 0), (16, disp.toNat), (16, 0)] := ⟨by decide, by decide, h_a, h_b, h_z, by decide, h_g, by decide, h_disp, by decide, trivial⟩
  have hp : Instr.bits (.amin g z b a disp) = pack [(8, 116), (8, 2), (6, a.toNat), (6, b.toNat), (1, z.toNat), (1, 1), (1, g.toNat), (1, 0), (16, disp.toNat), (16, 0)] := by
    rw [hn]
    simp only [putF, pack]
    omega
  have ho : Instr.bits (.amin g z b a disp) % 256 = 0x74 := by
    rw [hp]
    exact seg_low hf
  refine decode_encode (pack_word hp hf rfl) (by rw [ho]; decide) ?_ hw
  rw [candidate, ho]
  show some (Instr.amin (getF (Instr.bits (.amin g z b a disp)) 30 1) (getF (Instr.bits (.amin g z b a disp)) 28 1) (getF (Instr.bits (.amin g z b a disp)) 22 6) (getF (Instr.bits (.amin g z b a disp)) 16 6) (getF (Instr.bits (.amin g z b a disp)) 32 16)) = _
  refine congrArg some ?_
  congr 1
  · exact field hp hf 6 rfl rfl
  · exact field hp hf 4 rfl rfl
  · exact field hp hf 3 rfl rfl
  · exact field hp hf 2 rfl rfl
  · exact field hp hf 8 rfl rfl
theorem amax (g : BitVec 1) (z : BitVec 1) (b : BitVec 6) (a : BitVec 6) (disp : BitVec 16) : Statement (.amax g z b a disp) := by
  refine ⟨fun _ _ hw => ?_, fun _ h => nomatch h⟩
  have h_g := g.isLt
  have h_z := z.isLt
  have h_b := b.isLt
  have h_a := a.isLt
  have h_disp := disp.isLt
  have hn : Instr.bits (.amax g z b a disp) = 0x20000275 + putF 30 g + putF 28 z + putF 22 b + putF 16 a + putF 32 disp := rfl
  have hf : Fits [(8, 117), (8, 2), (6, a.toNat), (6, b.toNat), (1, z.toNat), (1, 1), (1, g.toNat), (1, 0), (16, disp.toNat), (16, 0)] := ⟨by decide, by decide, h_a, h_b, h_z, by decide, h_g, by decide, h_disp, by decide, trivial⟩
  have hp : Instr.bits (.amax g z b a disp) = pack [(8, 117), (8, 2), (6, a.toNat), (6, b.toNat), (1, z.toNat), (1, 1), (1, g.toNat), (1, 0), (16, disp.toNat), (16, 0)] := by
    rw [hn]
    simp only [putF, pack]
    omega
  have ho : Instr.bits (.amax g z b a disp) % 256 = 0x75 := by
    rw [hp]
    exact seg_low hf
  refine decode_encode (pack_word hp hf rfl) (by rw [ho]; decide) ?_ hw
  rw [candidate, ho]
  show some (Instr.amax (getF (Instr.bits (.amax g z b a disp)) 30 1) (getF (Instr.bits (.amax g z b a disp)) 28 1) (getF (Instr.bits (.amax g z b a disp)) 22 6) (getF (Instr.bits (.amax g z b a disp)) 16 6) (getF (Instr.bits (.amax g z b a disp)) 32 16)) = _
  refine congrArg some ?_
  congr 1
  · exact field hp hf 6 rfl rfl
  · exact field hp hf 4 rfl rfl
  · exact field hp hf 3 rfl rfl
  · exact field hp hf 2 rfl rfl
  · exact field hp hf 8 rfl rfl
theorem afadd (z : BitVec 1) (b : BitVec 6) (a : BitVec 6) (disp : BitVec 16) : Statement (.afadd z b a disp) := by
  refine ⟨fun _ _ hw => ?_, fun _ h => nomatch h⟩
  have h_z := z.isLt
  have h_b := b.isLt
  have h_a := a.isLt
  have h_disp := disp.isLt
  have hn : Instr.bits (.afadd z b a disp) = 0x20000276 + putF 28 z + putF 22 b + putF 16 a + putF 32 disp := rfl
  have hf : Fits [(8, 118), (8, 2), (6, a.toNat), (6, b.toNat), (1, z.toNat), (3, 1), (16, disp.toNat), (16, 0)] := ⟨by decide, by decide, h_a, h_b, h_z, by decide, h_disp, by decide, trivial⟩
  have hp : Instr.bits (.afadd z b a disp) = pack [(8, 118), (8, 2), (6, a.toNat), (6, b.toNat), (1, z.toNat), (3, 1), (16, disp.toNat), (16, 0)] := by
    rw [hn]
    simp only [putF, pack]
    omega
  have ho : Instr.bits (.afadd z b a disp) % 256 = 0x76 := by
    rw [hp]
    exact seg_low hf
  refine decode_encode (pack_word hp hf rfl) (by rw [ho]; decide) ?_ hw
  rw [candidate, ho]
  show some (Instr.afadd (getF (Instr.bits (.afadd z b a disp)) 28 1) (getF (Instr.bits (.afadd z b a disp)) 22 6) (getF (Instr.bits (.afadd z b a disp)) 16 6) (getF (Instr.bits (.afadd z b a disp)) 32 16)) = _
  refine congrArg some ?_
  congr 1
  · exact field hp hf 4 rfl rfl
  · exact field hp hf 3 rfl rfl
  · exact field hp hf 2 rfl rfl
  · exact field hp hf 6 rfl rfl
theorem xadd (d : BitVec 6) (z : BitVec 1) (b : BitVec 6) (a : BitVec 6) (disp : BitVec 16) : Statement (.xadd d z b a disp) := by
  refine ⟨fun _ _ hw => ?_, fun _ h => nomatch h⟩
  have h_d := d.isLt
  have h_z := z.isLt
  have h_b := b.isLt
  have h_a := a.isLt
  have h_disp := disp.isLt
  have hn : Instr.bits (.xadd d z b a disp) = 0x20000277 + putF 10 d + putF 28 z + putF 22 b + putF 16 a + putF 32 disp := rfl
  have hf : Fits [(8, 119), (2, 2), (6, d.toNat), (6, a.toNat), (6, b.toNat), (1, z.toNat), (3, 1), (16, disp.toNat), (16, 0)] := ⟨by decide, by decide, h_d, h_a, h_b, h_z, by decide, h_disp, by decide, trivial⟩
  have hp : Instr.bits (.xadd d z b a disp) = pack [(8, 119), (2, 2), (6, d.toNat), (6, a.toNat), (6, b.toNat), (1, z.toNat), (3, 1), (16, disp.toNat), (16, 0)] := by
    rw [hn]
    simp only [putF, pack]
    omega
  have ho : Instr.bits (.xadd d z b a disp) % 256 = 0x77 := by
    rw [hp]
    exact seg_low hf
  refine decode_encode (pack_word hp hf rfl) (by rw [ho]; decide) ?_ hw
  rw [candidate, ho]
  show some (Instr.xadd (getF (Instr.bits (.xadd d z b a disp)) 10 6) (getF (Instr.bits (.xadd d z b a disp)) 28 1) (getF (Instr.bits (.xadd d z b a disp)) 22 6) (getF (Instr.bits (.xadd d z b a disp)) 16 6) (getF (Instr.bits (.xadd d z b a disp)) 32 16)) = _
  refine congrArg some ?_
  congr 1
  · exact field hp hf 2 rfl rfl
  · exact field hp hf 5 rfl rfl
  · exact field hp hf 4 rfl rfl
  · exact field hp hf 3 rfl rfl
  · exact field hp hf 7 rfl rfl
theorem xchg (d : BitVec 6) (z : BitVec 1) (b : BitVec 6) (a : BitVec 6) (disp : BitVec 16) : Statement (.xchg d z b a disp) := by
  refine ⟨fun _ _ hw => ?_, fun _ h => nomatch h⟩
  have h_d := d.isLt
  have h_z := z.isLt
  have h_b := b.isLt
  have h_a := a.isLt
  have h_disp := disp.isLt
  have hn : Instr.bits (.xchg d z b a disp) = 0x20000278 + putF 10 d + putF 28 z + putF 22 b + putF 16 a + putF 32 disp := rfl
  have hf : Fits [(8, 120), (2, 2), (6, d.toNat), (6, a.toNat), (6, b.toNat), (1, z.toNat), (3, 1), (16, disp.toNat), (16, 0)] := ⟨by decide, by decide, h_d, h_a, h_b, h_z, by decide, h_disp, by decide, trivial⟩
  have hp : Instr.bits (.xchg d z b a disp) = pack [(8, 120), (2, 2), (6, d.toNat), (6, a.toNat), (6, b.toNat), (1, z.toNat), (3, 1), (16, disp.toNat), (16, 0)] := by
    rw [hn]
    simp only [putF, pack]
    omega
  have ho : Instr.bits (.xchg d z b a disp) % 256 = 0x78 := by
    rw [hp]
    exact seg_low hf
  refine decode_encode (pack_word hp hf rfl) (by rw [ho]; decide) ?_ hw
  rw [candidate, ho]
  show some (Instr.xchg (getF (Instr.bits (.xchg d z b a disp)) 10 6) (getF (Instr.bits (.xchg d z b a disp)) 28 1) (getF (Instr.bits (.xchg d z b a disp)) 22 6) (getF (Instr.bits (.xchg d z b a disp)) 16 6) (getF (Instr.bits (.xchg d z b a disp)) 32 16)) = _
  refine congrArg some ?_
  congr 1
  · exact field hp hf 2 rfl rfl
  · exact field hp hf 5 rfl rfl
  · exact field hp hf 4 rfl rfl
  · exact field hp hf 3 rfl rfl
  · exact field hp hf 7 rfl rfl
theorem cas (d : BitVec 6) (z : BitVec 1) (b : BitVec 6) (a : BitVec 6) (c : BitVec 6) (disp : BitVec 16) : Statement (.cas d z b a c disp) := by
  refine ⟨fun _ _ hw => ?_, fun _ h => nomatch h⟩
  have h_d := d.isLt
  have h_z := z.isLt
  have h_b := b.isLt
  have h_a := a.isLt
  have h_c := c.isLt
  have h_disp := disp.isLt
  have hn : Instr.bits (.cas d z b a c disp) = 0x20000379 + putF 10 d + putF 28 z + putF 22 b + putF 16 a + putF 32 c + putF 48 disp := rfl
  have hf : Fits [(8, 121), (2, 3), (6, d.toNat), (6, a.toNat), (6, b.toNat), (1, z.toNat), (3, 1), (6, c.toNat), (10, 0), (16, disp.toNat)] := ⟨by decide, by decide, h_d, h_a, h_b, h_z, by decide, h_c, by decide, h_disp, trivial⟩
  have hp : Instr.bits (.cas d z b a c disp) = pack [(8, 121), (2, 3), (6, d.toNat), (6, a.toNat), (6, b.toNat), (1, z.toNat), (3, 1), (6, c.toNat), (10, 0), (16, disp.toNat)] := by
    rw [hn]
    simp only [putF, pack]
    omega
  have ho : Instr.bits (.cas d z b a c disp) % 256 = 0x79 := by
    rw [hp]
    exact seg_low hf
  refine decode_encode (pack_word hp hf rfl) (by rw [ho]; decide) ?_ hw
  rw [candidate, ho]
  show some (Instr.cas (getF (Instr.bits (.cas d z b a c disp)) 10 6) (getF (Instr.bits (.cas d z b a c disp)) 28 1) (getF (Instr.bits (.cas d z b a c disp)) 22 6) (getF (Instr.bits (.cas d z b a c disp)) 16 6) (getF (Instr.bits (.cas d z b a c disp)) 32 6) (getF (Instr.bits (.cas d z b a c disp)) 48 16)) = _
  refine congrArg some ?_
  congr 1
  · exact field hp hf 2 rfl rfl
  · exact field hp hf 5 rfl rfl
  · exact field hp hf 4 rfl rfl
  · exact field hp hf 3 rfl rfl
  · exact field hp hf 7 rfl rfl
  · exact field hp hf 9 rfl rfl
theorem select_swait (w : Nat) (h : w / 2 ^ 30 % 2 = 0) :
    candidateOf 0x7a w = some (Instr.swait (getF w 10 6) (getF w 28 1) (getF w 22 6) (getF w 16 6) (getF w 32 16)) := by
  simp only [candidateOf, candidate7, h]
theorem swait (d : BitVec 6) (z : BitVec 1) (b : BitVec 6) (a : BitVec 6) (disp : BitVec 16) : Statement (.swait d z b a disp) := by
  refine ⟨fun _ _ hw => ?_, fun _ h => nomatch h⟩
  have h_d := d.isLt
  have h_z := z.isLt
  have h_b := b.isLt
  have h_a := a.isLt
  have h_disp := disp.isLt
  have hn : Instr.bits (.swait d z b a disp) = 0x2000027a + putF 10 d + putF 28 z + putF 22 b + putF 16 a + putF 32 disp := rfl
  have hf : Fits [(8, 122), (2, 2), (6, d.toNat), (6, a.toNat), (6, b.toNat), (1, z.toNat), (1, 1), (1, 0), (1, 0), (16, disp.toNat), (16, 0)] := ⟨by decide, by decide, h_d, h_a, h_b, h_z, by decide, by decide, by decide, h_disp, by decide, trivial⟩
  have hp : Instr.bits (.swait d z b a disp) = pack [(8, 122), (2, 2), (6, d.toNat), (6, a.toNat), (6, b.toNat), (1, z.toNat), (1, 1), (1, 0), (1, 0), (16, disp.toNat), (16, 0)] := by
    rw [hn]
    simp only [putF, pack]
    omega
  have ho : Instr.bits (.swait d z b a disp) % 256 = 0x7a := by
    rw [hp]
    exact seg_low hf
  have hs : Instr.bits (.swait d z b a disp)  / 2 ^ 30 % 2 = 0 := seg hp hf 7 rfl rfl rfl
  refine decode_encode (pack_word hp hf rfl) (by rw [ho]; decide) ?_ hw
  rw [candidate, ho, select_swait _ hs]
  show some (Instr.swait (getF (Instr.bits (.swait d z b a disp)) 10 6) (getF (Instr.bits (.swait d z b a disp)) 28 1) (getF (Instr.bits (.swait d z b a disp)) 22 6) (getF (Instr.bits (.swait d z b a disp)) 16 6) (getF (Instr.bits (.swait d z b a disp)) 32 16)) = _
  refine congrArg some ?_
  congr 1
  · exact field hp hf 2 rfl rfl
  · exact field hp hf 5 rfl rfl
  · exact field hp hf 4 rfl rfl
  · exact field hp hf 3 rfl rfl
  · exact field hp hf 9 rfl rfl
theorem select_swaitTake (w : Nat) (h : w / 2 ^ 30 % 2 = 1) :
    candidateOf 0x7a w = some (Instr.swaitTake (getF w 10 6) (getF w 28 1) (getF w 22 6) (getF w 16 6) (getF w 32 16)) := by
  simp only [candidateOf, candidate7, h]
theorem swaitTake (d : BitVec 6) (z : BitVec 1) (b : BitVec 6) (a : BitVec 6) (disp : BitVec 16) : Statement (.swaitTake d z b a disp) := by
  refine ⟨fun _ _ hw => ?_, fun _ h => nomatch h⟩
  have h_d := d.isLt
  have h_z := z.isLt
  have h_b := b.isLt
  have h_a := a.isLt
  have h_disp := disp.isLt
  have hn : Instr.bits (.swaitTake d z b a disp) = 0x6000027a + putF 10 d + putF 28 z + putF 22 b + putF 16 a + putF 32 disp := rfl
  have hf : Fits [(8, 122), (2, 2), (6, d.toNat), (6, a.toNat), (6, b.toNat), (1, z.toNat), (1, 1), (1, 1), (1, 0), (16, disp.toNat), (16, 0)] := ⟨by decide, by decide, h_d, h_a, h_b, h_z, by decide, by decide, by decide, h_disp, by decide, trivial⟩
  have hp : Instr.bits (.swaitTake d z b a disp) = pack [(8, 122), (2, 2), (6, d.toNat), (6, a.toNat), (6, b.toNat), (1, z.toNat), (1, 1), (1, 1), (1, 0), (16, disp.toNat), (16, 0)] := by
    rw [hn]
    simp only [putF, pack]
    omega
  have ho : Instr.bits (.swaitTake d z b a disp) % 256 = 0x7a := by
    rw [hp]
    exact seg_low hf
  have hs : Instr.bits (.swaitTake d z b a disp)  / 2 ^ 30 % 2 = 1 := seg hp hf 7 rfl rfl rfl
  refine decode_encode (pack_word hp hf rfl) (by rw [ho]; decide) ?_ hw
  rw [candidate, ho, select_swaitTake _ hs]
  show some (Instr.swaitTake (getF (Instr.bits (.swaitTake d z b a disp)) 10 6) (getF (Instr.bits (.swaitTake d z b a disp)) 28 1) (getF (Instr.bits (.swaitTake d z b a disp)) 22 6) (getF (Instr.bits (.swaitTake d z b a disp)) 16 6) (getF (Instr.bits (.swaitTake d z b a disp)) 32 16)) = _
  refine congrArg some ?_
  congr 1
  · exact field hp hf 2 rfl rfl
  · exact field hp hf 5 rfl rfl
  · exact field hp hf 4 rfl rfl
  · exact field hp hf 3 rfl rfl
  · exact field hp hf 9 rfl rfl
theorem spost (z : BitVec 1) (b : BitVec 6) (a : BitVec 6) (disp : BitVec 16) : Statement (.spost z b a disp) := by
  refine ⟨fun _ _ hw => ?_, fun _ h => nomatch h⟩
  have h_z := z.isLt
  have h_b := b.isLt
  have h_a := a.isLt
  have h_disp := disp.isLt
  have hn : Instr.bits (.spost z b a disp) = 0x2000027b + putF 28 z + putF 22 b + putF 16 a + putF 32 disp := rfl
  have hf : Fits [(8, 123), (8, 2), (6, a.toNat), (6, b.toNat), (1, z.toNat), (3, 1), (16, disp.toNat), (16, 0)] := ⟨by decide, by decide, h_a, h_b, h_z, by decide, h_disp, by decide, trivial⟩
  have hp : Instr.bits (.spost z b a disp) = pack [(8, 123), (8, 2), (6, a.toNat), (6, b.toNat), (1, z.toNat), (3, 1), (16, disp.toNat), (16, 0)] := by
    rw [hn]
    simp only [putF, pack]
    omega
  have ho : Instr.bits (.spost z b a disp) % 256 = 0x7b := by
    rw [hp]
    exact seg_low hf
  refine decode_encode (pack_word hp hf rfl) (by rw [ho]; decide) ?_ hw
  rw [candidate, ho]
  show some (Instr.spost (getF (Instr.bits (.spost z b a disp)) 28 1) (getF (Instr.bits (.spost z b a disp)) 22 6) (getF (Instr.bits (.spost z b a disp)) 16 6) (getF (Instr.bits (.spost z b a disp)) 32 16)) = _
  refine congrArg some ?_
  congr 1
  · exact field hp hf 4 rfl rfl
  · exact field hp hf 3 rfl rfl
  · exact field hp hf 2 rfl rfl
  · exact field hp hf 6 rfl rfl
theorem dguard (d : BitVec 6) (b : BitVec 6) (a : BitVec 6) : Statement (.dguard d b a) := by
  refine ⟨fun _ _ hw => ?_, fun _ h => nomatch h⟩
  have h_d := d.isLt
  have h_b := b.isLt
  have h_a := a.isLt
  have hn : Instr.bits (.dguard d b a) = 0x17c + putF 10 d + putF 22 b + putF 16 a := rfl
  have hf : Fits [(8, 124), (2, 1), (6, d.toNat), (6, a.toNat), (6, b.toNat), (36, 0)] := ⟨by decide, by decide, h_d, h_a, h_b, by decide, trivial⟩
  have hp : Instr.bits (.dguard d b a) = pack [(8, 124), (2, 1), (6, d.toNat), (6, a.toNat), (6, b.toNat), (36, 0)] := by
    rw [hn]
    simp only [putF, pack]
    omega
  have ho : Instr.bits (.dguard d b a) % 256 = 0x7c := by
    rw [hp]
    exact seg_low hf
  refine decode_encode (pack_word hp hf rfl) (by rw [ho]; decide) ?_ hw
  rw [candidate, ho]
  show some (Instr.dguard (getF (Instr.bits (.dguard d b a)) 10 6) (getF (Instr.bits (.dguard d b a)) 22 6) (getF (Instr.bits (.dguard d b a)) 16 6)) = _
  refine congrArg some ?_
  congr 1
  · exact field hp hf 2 rfl rfl
  · exact field hp hf 4 rfl rfl
  · exact field hp hf 3 rfl rfl
theorem dgend (b : BitVec 6) (a : BitVec 6) : Statement (.dgend b a) := by
  refine ⟨fun _ _ hw => ?_, fun _ h => nomatch h⟩
  have h_b := b.isLt
  have h_a := a.isLt
  have hn : Instr.bits (.dgend b a) = 0x17d + putF 22 b + putF 16 a := rfl
  have hf : Fits [(8, 125), (8, 1), (6, a.toNat), (6, b.toNat), (36, 0)] := ⟨by decide, by decide, h_a, h_b, by decide, trivial⟩
  have hp : Instr.bits (.dgend b a) = pack [(8, 125), (8, 1), (6, a.toNat), (6, b.toNat), (36, 0)] := by
    rw [hn]
    simp only [putF, pack]
    omega
  have ho : Instr.bits (.dgend b a) % 256 = 0x7d := by
    rw [hp]
    exact seg_low hf
  refine decode_encode (pack_word hp hf rfl) (by rw [ho]; decide) ?_ hw
  rw [candidate, ho]
  show some (Instr.dgend (getF (Instr.bits (.dgend b a)) 22 6) (getF (Instr.bits (.dgend b a)) 16 6)) = _
  refine congrArg some ?_
  congr 1
  · exact field hp hf 3 rfl rfl
  · exact field hp hf 2 rfl rfl
theorem fcvt (d : BitVec 5) (t : BitVec 4) (u : BitVec 4) (a : BitVec 5) (sat : BitVec 1) (rm : BitVec 3) (p : BitVec 6) : Statement (.fcvt d t u a sat rm p) := by
  refine ⟨fun _ _ hw => ?_, fun _ h => nomatch h⟩
  have h_d := d.isLt
  have h_t := t.isLt
  have h_u := u.isLt
  have h_a := a.isLt
  have h_sat := sat.isLt
  have h_rm := rm.isLt
  have h_p := p.isLt
  have hn : Instr.bits (.fcvt d t u a sat rm p) = 0x280 + putF 10 d + putF 28 t + putF 22 u + putF 16 a + putF 47 sat + putF 44 rm + putF 38 p := rfl
  have hf : Fits [(8, 128), (2, 2), (5, d.toNat), (1, 0), (5, a.toNat), (1, 0), (4, u.toNat), (2, 0), (4, t.toNat), (6, 0), (6, p.toNat), (3, rm.toNat), (1, sat.toNat), (16, 0)] := ⟨by decide, by decide, h_d, by decide, h_a, by decide, h_u, by decide, h_t, by decide, h_p, h_rm, h_sat, by decide, trivial⟩
  have hp : Instr.bits (.fcvt d t u a sat rm p) = pack [(8, 128), (2, 2), (5, d.toNat), (1, 0), (5, a.toNat), (1, 0), (4, u.toNat), (2, 0), (4, t.toNat), (6, 0), (6, p.toNat), (3, rm.toNat), (1, sat.toNat), (16, 0)] := by
    rw [hn]
    simp only [putF, pack]
    omega
  have ho : Instr.bits (.fcvt d t u a sat rm p) % 256 = 0x80 := by
    rw [hp]
    exact seg_low hf
  refine decode_encode (pack_word hp hf rfl) (by rw [ho]; decide) ?_ hw
  rw [candidate, ho]
  show some (Instr.fcvt (getF (Instr.bits (.fcvt d t u a sat rm p)) 10 5) (getF (Instr.bits (.fcvt d t u a sat rm p)) 28 4) (getF (Instr.bits (.fcvt d t u a sat rm p)) 22 4) (getF (Instr.bits (.fcvt d t u a sat rm p)) 16 5) (getF (Instr.bits (.fcvt d t u a sat rm p)) 47 1) (getF (Instr.bits (.fcvt d t u a sat rm p)) 44 3) (getF (Instr.bits (.fcvt d t u a sat rm p)) 38 6)) = _
  refine congrArg some ?_
  congr 1
  · exact field hp hf 2 rfl rfl
  · exact field hp hf 8 rfl rfl
  · exact field hp hf 6 rfl rfl
  · exact field hp hf 4 rfl rfl
  · exact field hp hf 12 rfl rfl
  · exact field hp hf 11 rfl rfl
  · exact field hp hf 10 rfl rfl
theorem fcvti (d : BitVec 5) (t : BitVec 4) (u : BitVec 4) (a : BitVec 5) (sat : BitVec 1) (rm : BitVec 3) (p : BitVec 6) : Statement (.fcvti d t u a sat rm p) := by
  refine ⟨fun _ _ hw => ?_, fun _ h => nomatch h⟩
  have h_d := d.isLt
  have h_t := t.isLt
  have h_u := u.isLt
  have h_a := a.isLt
  have h_sat := sat.isLt
  have h_rm := rm.isLt
  have h_p := p.isLt
  have hn : Instr.bits (.fcvti d t u a sat rm p) = 0x281 + putF 10 d + putF 28 t + putF 22 u + putF 16 a + putF 47 sat + putF 44 rm + putF 38 p := rfl
  have hf : Fits [(8, 129), (2, 2), (5, d.toNat), (1, 0), (5, a.toNat), (1, 0), (4, u.toNat), (2, 0), (4, t.toNat), (6, 0), (6, p.toNat), (3, rm.toNat), (1, sat.toNat), (16, 0)] := ⟨by decide, by decide, h_d, by decide, h_a, by decide, h_u, by decide, h_t, by decide, h_p, h_rm, h_sat, by decide, trivial⟩
  have hp : Instr.bits (.fcvti d t u a sat rm p) = pack [(8, 129), (2, 2), (5, d.toNat), (1, 0), (5, a.toNat), (1, 0), (4, u.toNat), (2, 0), (4, t.toNat), (6, 0), (6, p.toNat), (3, rm.toNat), (1, sat.toNat), (16, 0)] := by
    rw [hn]
    simp only [putF, pack]
    omega
  have ho : Instr.bits (.fcvti d t u a sat rm p) % 256 = 0x81 := by
    rw [hp]
    exact seg_low hf
  refine decode_encode (pack_word hp hf rfl) (by rw [ho]; decide) ?_ hw
  rw [candidate, ho]
  show some (Instr.fcvti (getF (Instr.bits (.fcvti d t u a sat rm p)) 10 5) (getF (Instr.bits (.fcvti d t u a sat rm p)) 28 4) (getF (Instr.bits (.fcvti d t u a sat rm p)) 22 4) (getF (Instr.bits (.fcvti d t u a sat rm p)) 16 5) (getF (Instr.bits (.fcvti d t u a sat rm p)) 47 1) (getF (Instr.bits (.fcvti d t u a sat rm p)) 44 3) (getF (Instr.bits (.fcvti d t u a sat rm p)) 38 6)) = _
  refine congrArg some ?_
  congr 1
  · exact field hp hf 2 rfl rfl
  · exact field hp hf 8 rfl rfl
  · exact field hp hf 6 rfl rfl
  · exact field hp hf 4 rfl rfl
  · exact field hp hf 12 rfl rfl
  · exact field hp hf 11 rfl rfl
  · exact field hp hf 10 rfl rfl
theorem icvtf (d : BitVec 5) (t : BitVec 4) (u : BitVec 4) (a : BitVec 5) (sat : BitVec 1) (rm : BitVec 3) (p : BitVec 6) : Statement (.icvtf d t u a sat rm p) := by
  refine ⟨fun _ _ hw => ?_, fun _ h => nomatch h⟩
  have h_d := d.isLt
  have h_t := t.isLt
  have h_u := u.isLt
  have h_a := a.isLt
  have h_sat := sat.isLt
  have h_rm := rm.isLt
  have h_p := p.isLt
  have hn : Instr.bits (.icvtf d t u a sat rm p) = 0x282 + putF 10 d + putF 28 t + putF 22 u + putF 16 a + putF 47 sat + putF 44 rm + putF 38 p := rfl
  have hf : Fits [(8, 130), (2, 2), (5, d.toNat), (1, 0), (5, a.toNat), (1, 0), (4, u.toNat), (2, 0), (4, t.toNat), (6, 0), (6, p.toNat), (3, rm.toNat), (1, sat.toNat), (16, 0)] := ⟨by decide, by decide, h_d, by decide, h_a, by decide, h_u, by decide, h_t, by decide, h_p, h_rm, h_sat, by decide, trivial⟩
  have hp : Instr.bits (.icvtf d t u a sat rm p) = pack [(8, 130), (2, 2), (5, d.toNat), (1, 0), (5, a.toNat), (1, 0), (4, u.toNat), (2, 0), (4, t.toNat), (6, 0), (6, p.toNat), (3, rm.toNat), (1, sat.toNat), (16, 0)] := by
    rw [hn]
    simp only [putF, pack]
    omega
  have ho : Instr.bits (.icvtf d t u a sat rm p) % 256 = 0x82 := by
    rw [hp]
    exact seg_low hf
  refine decode_encode (pack_word hp hf rfl) (by rw [ho]; decide) ?_ hw
  rw [candidate, ho]
  show some (Instr.icvtf (getF (Instr.bits (.icvtf d t u a sat rm p)) 10 5) (getF (Instr.bits (.icvtf d t u a sat rm p)) 28 4) (getF (Instr.bits (.icvtf d t u a sat rm p)) 22 4) (getF (Instr.bits (.icvtf d t u a sat rm p)) 16 5) (getF (Instr.bits (.icvtf d t u a sat rm p)) 47 1) (getF (Instr.bits (.icvtf d t u a sat rm p)) 44 3) (getF (Instr.bits (.icvtf d t u a sat rm p)) 38 6)) = _
  refine congrArg some ?_
  congr 1
  · exact field hp hf 2 rfl rfl
  · exact field hp hf 8 rfl rfl
  · exact field hp hf 6 rfl rfl
  · exact field hp hf 4 rfl rfl
  · exact field hp hf 12 rfl rfl
  · exact field hp hf 11 rfl rfl
  · exact field hp hf 10 rfl rfl
theorem fpack (d : BitVec 5) (t : BitVec 4) (a : BitVec 5) (rm : BitVec 3) (p : BitVec 5) (c : BitVec 5) (et : BitVec 4) : Statement (.fpack d t a rm p c et) := by
  refine ⟨fun _ _ hw => ?_, fun _ h => nomatch h⟩
  have h_d := d.isLt
  have h_t := t.isLt
  have h_a := a.isLt
  have h_rm := rm.isLt
  have h_p := p.isLt
  have h_c := c.isLt
  have h_et := et.isLt
  have hn : Instr.bits (.fpack d t a rm p c et) = 0x383 + putF 10 d + putF 28 t + putF 16 a + putF 44 rm + putF 38 p + putF 32 c + putF 48 et := rfl
  have hf : Fits [(8, 131), (2, 3), (5, d.toNat), (1, 0), (5, a.toNat), (7, 0), (4, t.toNat), (5, c.toNat), (1, 0), (5, p.toNat), (1, 0), (3, rm.toNat), (1, 0), (4, et.toNat), (12, 0)] := ⟨by decide, by decide, h_d, by decide, h_a, by decide, h_t, h_c, by decide, h_p, by decide, h_rm, by decide, h_et, by decide, trivial⟩
  have hp : Instr.bits (.fpack d t a rm p c et) = pack [(8, 131), (2, 3), (5, d.toNat), (1, 0), (5, a.toNat), (7, 0), (4, t.toNat), (5, c.toNat), (1, 0), (5, p.toNat), (1, 0), (3, rm.toNat), (1, 0), (4, et.toNat), (12, 0)] := by
    rw [hn]
    simp only [putF, pack]
    omega
  have ho : Instr.bits (.fpack d t a rm p c et) % 256 = 0x83 := by
    rw [hp]
    exact seg_low hf
  refine decode_encode (pack_word hp hf rfl) (by rw [ho]; decide) ?_ hw
  rw [candidate, ho]
  show some (Instr.fpack (getF (Instr.bits (.fpack d t a rm p c et)) 10 5) (getF (Instr.bits (.fpack d t a rm p c et)) 28 4) (getF (Instr.bits (.fpack d t a rm p c et)) 16 5) (getF (Instr.bits (.fpack d t a rm p c et)) 44 3) (getF (Instr.bits (.fpack d t a rm p c et)) 38 5) (getF (Instr.bits (.fpack d t a rm p c et)) 32 5) (getF (Instr.bits (.fpack d t a rm p c et)) 48 4)) = _
  refine congrArg some ?_
  congr 1
  · exact field hp hf 2 rfl rfl
  · exact field hp hf 6 rfl rfl
  · exact field hp hf 4 rfl rfl
  · exact field hp hf 11 rfl rfl
  · exact field hp hf 9 rfl rfl
  · exact field hp hf 7 rfl rfl
  · exact field hp hf 13 rfl rfl
theorem funpk (d : BitVec 5) (t : BitVec 4) (a : BitVec 5) (sat : BitVec 1) (rm : BitVec 3) (p : BitVec 6) (c : BitVec 5) (et : BitVec 4) : Statement (.funpk d t a sat rm p c et) := by
  refine ⟨fun _ _ hw => ?_, fun _ h => nomatch h⟩
  have h_d := d.isLt
  have h_t := t.isLt
  have h_a := a.isLt
  have h_sat := sat.isLt
  have h_rm := rm.isLt
  have h_p := p.isLt
  have h_c := c.isLt
  have h_et := et.isLt
  have hn : Instr.bits (.funpk d t a sat rm p c et) = 0x384 + putF 10 d + putF 28 t + putF 16 a + putF 47 sat + putF 44 rm + putF 38 p + putF 32 c + putF 48 et := rfl
  have hf : Fits [(8, 132), (2, 3), (5, d.toNat), (1, 0), (5, a.toNat), (7, 0), (4, t.toNat), (5, c.toNat), (1, 0), (6, p.toNat), (3, rm.toNat), (1, sat.toNat), (4, et.toNat), (12, 0)] := ⟨by decide, by decide, h_d, by decide, h_a, by decide, h_t, h_c, by decide, h_p, h_rm, h_sat, h_et, by decide, trivial⟩
  have hp : Instr.bits (.funpk d t a sat rm p c et) = pack [(8, 132), (2, 3), (5, d.toNat), (1, 0), (5, a.toNat), (7, 0), (4, t.toNat), (5, c.toNat), (1, 0), (6, p.toNat), (3, rm.toNat), (1, sat.toNat), (4, et.toNat), (12, 0)] := by
    rw [hn]
    simp only [putF, pack]
    omega
  have ho : Instr.bits (.funpk d t a sat rm p c et) % 256 = 0x84 := by
    rw [hp]
    exact seg_low hf
  refine decode_encode (pack_word hp hf rfl) (by rw [ho]; decide) ?_ hw
  rw [candidate, ho]
  show some (Instr.funpk (getF (Instr.bits (.funpk d t a sat rm p c et)) 10 5) (getF (Instr.bits (.funpk d t a sat rm p c et)) 28 4) (getF (Instr.bits (.funpk d t a sat rm p c et)) 16 5) (getF (Instr.bits (.funpk d t a sat rm p c et)) 47 1) (getF (Instr.bits (.funpk d t a sat rm p c et)) 44 3) (getF (Instr.bits (.funpk d t a sat rm p c et)) 38 6) (getF (Instr.bits (.funpk d t a sat rm p c et)) 32 5) (getF (Instr.bits (.funpk d t a sat rm p c et)) 48 4)) = _
  refine congrArg some ?_
  congr 1
  · exact field hp hf 2 rfl rfl
  · exact field hp hf 6 rfl rfl
  · exact field hp hf 4 rfl rfl
  · exact field hp hf 11 rfl rfl
  · exact field hp hf 10 rfl rfl
  · exact field hp hf 9 rfl rfl
  · exact field hp hf 7 rfl rfl
  · exact field hp hf 12 rfl rfl
theorem fscl (d : BitVec 5) (t : BitVec 4) (k : BitVec 1) (a : BitVec 5) (sat : BitVec 1) (rm : BitVec 3) (p : BitVec 6) (c : BitVec 5) : Statement (.fscl d t k a sat rm p c) := by
  refine ⟨fun _ _ hw => ?_, fun _ h => nomatch h⟩
  have h_d := d.isLt
  have h_t := t.isLt
  have h_k := k.isLt
  have h_a := a.isLt
  have h_sat := sat.isLt
  have h_rm := rm.isLt
  have h_p := p.isLt
  have h_c := c.isLt
  have hn : Instr.bits (.fscl d t k a sat rm p c) = 0x285 + putF 10 d + putF 28 t + putF 22 k + putF 16 a + putF 47 sat + putF 44 rm + putF 38 p + putF 32 c := rfl
  have hf : Fits [(8, 133), (2, 2), (5, d.toNat), (1, 0), (5, a.toNat), (1, 0), (1, k.toNat), (5, 0), (4, t.toNat), (5, c.toNat), (1, 0), (6, p.toNat), (3, rm.toNat), (1, sat.toNat), (16, 0)] := ⟨by decide, by decide, h_d, by decide, h_a, by decide, h_k, by decide, h_t, h_c, by decide, h_p, h_rm, h_sat, by decide, trivial⟩
  have hp : Instr.bits (.fscl d t k a sat rm p c) = pack [(8, 133), (2, 2), (5, d.toNat), (1, 0), (5, a.toNat), (1, 0), (1, k.toNat), (5, 0), (4, t.toNat), (5, c.toNat), (1, 0), (6, p.toNat), (3, rm.toNat), (1, sat.toNat), (16, 0)] := by
    rw [hn]
    simp only [putF, pack]
    omega
  have ho : Instr.bits (.fscl d t k a sat rm p c) % 256 = 0x85 := by
    rw [hp]
    exact seg_low hf
  refine decode_encode (pack_word hp hf rfl) (by rw [ho]; decide) ?_ hw
  rw [candidate, ho]
  show some (Instr.fscl (getF (Instr.bits (.fscl d t k a sat rm p c)) 10 5) (getF (Instr.bits (.fscl d t k a sat rm p c)) 28 4) (getF (Instr.bits (.fscl d t k a sat rm p c)) 22 1) (getF (Instr.bits (.fscl d t k a sat rm p c)) 16 5) (getF (Instr.bits (.fscl d t k a sat rm p c)) 47 1) (getF (Instr.bits (.fscl d t k a sat rm p c)) 44 3) (getF (Instr.bits (.fscl d t k a sat rm p c)) 38 6) (getF (Instr.bits (.fscl d t k a sat rm p c)) 32 5)) = _
  refine congrArg some ?_
  congr 1
  · exact field hp hf 2 rfl rfl
  · exact field hp hf 8 rfl rfl
  · exact field hp hf 6 rfl rfl
  · exact field hp hf 4 rfl rfl
  · exact field hp hf 13 rfl rfl
  · exact field hp hf 12 rfl rfl
  · exact field hp hf 11 rfl rfl
  · exact field hp hf 9 rfl rfl
theorem fclass (d : BitVec 5) (t : BitVec 4) (a : BitVec 5) (p : BitVec 6) : Statement (.fclass d t a p) := by
  refine ⟨fun _ _ hw => ?_, fun _ h => nomatch h⟩
  have h_d := d.isLt
  have h_t := t.isLt
  have h_a := a.isLt
  have h_p := p.isLt
  have hn : Instr.bits (.fclass d t a p) = 0x286 + putF 10 d + putF 28 t + putF 16 a + putF 38 p := rfl
  have hf : Fits [(8, 134), (2, 2), (5, d.toNat), (1, 0), (5, a.toNat), (7, 0), (4, t.toNat), (6, 0), (6, p.toNat), (20, 0)] := ⟨by decide, by decide, h_d, by decide, h_a, by decide, h_t, by decide, h_p, by decide, trivial⟩
  have hp : Instr.bits (.fclass d t a p) = pack [(8, 134), (2, 2), (5, d.toNat), (1, 0), (5, a.toNat), (7, 0), (4, t.toNat), (6, 0), (6, p.toNat), (20, 0)] := by
    rw [hn]
    simp only [putF, pack]
    omega
  have ho : Instr.bits (.fclass d t a p) % 256 = 0x86 := by
    rw [hp]
    exact seg_low hf
  refine decode_encode (pack_word hp hf rfl) (by rw [ho]; decide) ?_ hw
  rw [candidate, ho]
  show some (Instr.fclass (getF (Instr.bits (.fclass d t a p)) 10 5) (getF (Instr.bits (.fclass d t a p)) 28 4) (getF (Instr.bits (.fclass d t a p)) 16 5) (getF (Instr.bits (.fclass d t a p)) 38 6)) = _
  refine congrArg some ?_
  congr 1
  · exact field hp hf 2 rfl rfl
  · exact field hp hf 6 rfl rfl
  · exact field hp hf 4 rfl rfl
  · exact field hp hf 8 rfl rfl
theorem frint (d : BitVec 5) (t : BitVec 4) (k : BitVec 1) (a : BitVec 5) (rm : BitVec 3) (p : BitVec 6) : Statement (.frint d t k a rm p) := by
  refine ⟨fun _ _ hw => ?_, fun _ h => nomatch h⟩
  have h_d := d.isLt
  have h_t := t.isLt
  have h_k := k.isLt
  have h_a := a.isLt
  have h_rm := rm.isLt
  have h_p := p.isLt
  have hn : Instr.bits (.frint d t k a rm p) = 0x287 + putF 10 d + putF 28 t + putF 22 k + putF 16 a + putF 44 rm + putF 38 p := rfl
  have hf : Fits [(8, 135), (2, 2), (5, d.toNat), (1, 0), (5, a.toNat), (1, 0), (1, k.toNat), (5, 0), (4, t.toNat), (6, 0), (6, p.toNat), (3, rm.toNat), (17, 0)] := ⟨by decide, by decide, h_d, by decide, h_a, by decide, h_k, by decide, h_t, by decide, h_p, h_rm, by decide, trivial⟩
  have hp : Instr.bits (.frint d t k a rm p) = pack [(8, 135), (2, 2), (5, d.toNat), (1, 0), (5, a.toNat), (1, 0), (1, k.toNat), (5, 0), (4, t.toNat), (6, 0), (6, p.toNat), (3, rm.toNat), (17, 0)] := by
    rw [hn]
    simp only [putF, pack]
    omega
  have ho : Instr.bits (.frint d t k a rm p) % 256 = 0x87 := by
    rw [hp]
    exact seg_low hf
  refine decode_encode (pack_word hp hf rfl) (by rw [ho]; decide) ?_ hw
  rw [candidate, ho]
  show some (Instr.frint (getF (Instr.bits (.frint d t k a rm p)) 10 5) (getF (Instr.bits (.frint d t k a rm p)) 28 4) (getF (Instr.bits (.frint d t k a rm p)) 22 1) (getF (Instr.bits (.frint d t k a rm p)) 16 5) (getF (Instr.bits (.frint d t k a rm p)) 44 3) (getF (Instr.bits (.frint d t k a rm p)) 38 6)) = _
  refine congrArg some ?_
  congr 1
  · exact field hp hf 2 rfl rfl
  · exact field hp hf 8 rfl rfl
  · exact field hp hf 6 rfl rfl
  · exact field hp hf 4 rfl rfl
  · exact field hp hf 11 rfl rfl
  · exact field hp hf 10 rfl rfl
theorem rep (a : BitVec 6) (sts : BitVec 16) : Statement (.rep a sts) := by
  refine ⟨fun _ _ hw => ?_, fun _ h => nomatch h⟩
  have h_a := a.isLt
  have h_sts := sts.isLt
  have hn : Instr.bits (.rep a sts) = 0x290 + putF 16 a + putF 32 sts := rfl
  have hf : Fits [(8, 144), (8, 2), (6, a.toNat), (10, 0), (16, sts.toNat), (16, 0)] := ⟨by decide, by decide, h_a, by decide, h_sts, by decide, trivial⟩
  have hp : Instr.bits (.rep a sts) = pack [(8, 144), (8, 2), (6, a.toNat), (10, 0), (16, sts.toNat), (16, 0)] := by
    rw [hn]
    simp only [putF, pack]
    omega
  have ho : Instr.bits (.rep a sts) % 256 = 0x90 := by
    rw [hp]
    exact seg_low hf
  refine decode_encode (pack_word hp hf rfl) (by rw [ho]; decide) ?_ hw
  rw [candidate, ho]
  show some (Instr.rep (getF (Instr.bits (.rep a sts)) 16 6) (getF (Instr.bits (.rep a sts)) 32 16)) = _
  refine congrArg some ?_
  congr 1
  · exact field hp hf 2 rfl rfl
  · exact field hp hf 4 rfl rfl
theorem vspan (d : BitVec 2) (z : BitVec 2) (a : BitVec 6) (n : BitVec 3) : Statement (.vspan d z a n) := by
  refine ⟨fun _ _ hw => ?_, fun _ h => nomatch h⟩
  have h_d := d.isLt
  have h_z := z.isLt
  have h_a := a.isLt
  have h_n := n.isLt
  have hn : Instr.bits (.vspan d z a n) = 0x291 + putF 10 d + putF 28 z + putF 16 a + putF 32 n := rfl
  have hf : Fits [(8, 145), (2, 2), (2, d.toNat), (4, 0), (6, a.toNat), (6, 0), (2, z.toNat), (2, 0), (3, n.toNat), (29, 0)] := ⟨by decide, by decide, h_d, by decide, h_a, by decide, h_z, by decide, h_n, by decide, trivial⟩
  have hp : Instr.bits (.vspan d z a n) = pack [(8, 145), (2, 2), (2, d.toNat), (4, 0), (6, a.toNat), (6, 0), (2, z.toNat), (2, 0), (3, n.toNat), (29, 0)] := by
    rw [hn]
    simp only [putF, pack]
    omega
  have ho : Instr.bits (.vspan d z a n) % 256 = 0x91 := by
    rw [hp]
    exact seg_low hf
  refine decode_encode (pack_word hp hf rfl) (by rw [ho]; decide) ?_ hw
  rw [candidate, ho]
  show some (Instr.vspan (getF (Instr.bits (.vspan d z a n)) 10 2) (getF (Instr.bits (.vspan d z a n)) 28 2) (getF (Instr.bits (.vspan d z a n)) 16 6) (getF (Instr.bits (.vspan d z a n)) 32 3)) = _
  refine congrArg some ?_
  congr 1
  · exact field hp hf 2 rfl rfl
  · exact field hp hf 6 rfl rfl
  · exact field hp hf 4 rfl rfl
  · exact field hp hf 8 rfl rfl
theorem select_mmov (w : Nat) (h : w / 2 ^ 28 % 16 = 0) :
    candidateOf 0x92 w = some (Instr.mmov (getF w 10 3) (getF w 16 3)) := by
  simp only [candidateOf, candidate9, h]
theorem mmov (d : BitVec 3) (a : BitVec 3) : Statement (.mmov d a) := by
  refine ⟨fun _ _ hw => ?_, fun _ h => nomatch h⟩
  have h_d := d.isLt
  have h_a := a.isLt
  have hn : Instr.bits (.mmov d a) = 0x192 + putF 10 d + putF 16 a := rfl
  have hf : Fits [(8, 146), (2, 1), (3, d.toNat), (3, 0), (3, a.toNat), (9, 0), (4, 0), (32, 0)] := ⟨by decide, by decide, h_d, by decide, h_a, by decide, by decide, by decide, trivial⟩
  have hp : Instr.bits (.mmov d a) = pack [(8, 146), (2, 1), (3, d.toNat), (3, 0), (3, a.toNat), (9, 0), (4, 0), (32, 0)] := by
    rw [hn]
    simp only [putF, pack]
    omega
  have ho : Instr.bits (.mmov d a) % 256 = 0x92 := by
    rw [hp]
    exact seg_low hf
  have hs : Instr.bits (.mmov d a)  / 2 ^ 28 % 16 = 0 := seg hp hf 6 rfl rfl rfl
  refine decode_encode (pack_word hp hf rfl) (by rw [ho]; decide) ?_ hw
  rw [candidate, ho, select_mmov _ hs]
  show some (Instr.mmov (getF (Instr.bits (.mmov d a)) 10 3) (getF (Instr.bits (.mmov d a)) 16 3)) = _
  refine congrArg some ?_
  congr 1
  · exact field hp hf 2 rfl rfl
  · exact field hp hf 4 rfl rfl
theorem select_mmovFx (w : Nat) (h : w / 2 ^ 28 % 16 = 1) :
    candidateOf 0x92 w = some (Instr.mmovFx (getF w 10 3) (getF w 16 6)) := by
  simp only [candidateOf, candidate9, h]
theorem mmovFx (d : BitVec 3) (a : BitVec 6) : Statement (.mmovFx d a) := by
  refine ⟨fun _ _ hw => ?_, fun _ h => nomatch h⟩
  have h_d := d.isLt
  have h_a := a.isLt
  have hn : Instr.bits (.mmovFx d a) = 0x10000192 + putF 10 d + putF 16 a := rfl
  have hf : Fits [(8, 146), (2, 1), (3, d.toNat), (3, 0), (6, a.toNat), (6, 0), (4, 1), (32, 0)] := ⟨by decide, by decide, h_d, by decide, h_a, by decide, by decide, by decide, trivial⟩
  have hp : Instr.bits (.mmovFx d a) = pack [(8, 146), (2, 1), (3, d.toNat), (3, 0), (6, a.toNat), (6, 0), (4, 1), (32, 0)] := by
    rw [hn]
    simp only [putF, pack]
    omega
  have ho : Instr.bits (.mmovFx d a) % 256 = 0x92 := by
    rw [hp]
    exact seg_low hf
  have hs : Instr.bits (.mmovFx d a)  / 2 ^ 28 % 16 = 1 := seg hp hf 6 rfl rfl rfl
  refine decode_encode (pack_word hp hf rfl) (by rw [ho]; decide) ?_ hw
  rw [candidate, ho, select_mmovFx _ hs]
  show some (Instr.mmovFx (getF (Instr.bits (.mmovFx d a)) 10 3) (getF (Instr.bits (.mmovFx d a)) 16 6)) = _
  refine congrArg some ?_
  congr 1
  · exact field hp hf 2 rfl rfl
  · exact field hp hf 4 rfl rfl
theorem select_mmovTx (w : Nat) (h : w / 2 ^ 28 % 16 = 2) :
    candidateOf 0x92 w = some (Instr.mmovTx (getF w 10 6) (getF w 16 3)) := by
  simp only [candidateOf, candidate9, h]
theorem mmovTx (d : BitVec 6) (a : BitVec 3) : Statement (.mmovTx d a) := by
  refine ⟨fun _ _ hw => ?_, fun _ h => nomatch h⟩
  have h_d := d.isLt
  have h_a := a.isLt
  have hn : Instr.bits (.mmovTx d a) = 0x20000192 + putF 10 d + putF 16 a := rfl
  have hf : Fits [(8, 146), (2, 1), (6, d.toNat), (3, a.toNat), (9, 0), (4, 2), (32, 0)] := ⟨by decide, by decide, h_d, h_a, by decide, by decide, by decide, trivial⟩
  have hp : Instr.bits (.mmovTx d a) = pack [(8, 146), (2, 1), (6, d.toNat), (3, a.toNat), (9, 0), (4, 2), (32, 0)] := by
    rw [hn]
    simp only [putF, pack]
    omega
  have ho : Instr.bits (.mmovTx d a) % 256 = 0x92 := by
    rw [hp]
    exact seg_low hf
  have hs : Instr.bits (.mmovTx d a)  / 2 ^ 28 % 16 = 2 := seg hp hf 5 rfl rfl rfl
  refine decode_encode (pack_word hp hf rfl) (by rw [ho]; decide) ?_ hw
  rw [candidate, ho, select_mmovTx _ hs]
  show some (Instr.mmovTx (getF (Instr.bits (.mmovTx d a)) 10 6) (getF (Instr.bits (.mmovTx d a)) 16 3)) = _
  refine congrArg some ?_
  congr 1
  · exact field hp hf 2 rfl rfl
  · exact field hp hf 3 rfl rfl
theorem select_mmovSp (w : Nat) (h : w / 2 ^ 28 % 16 = 3) :
    candidateOf 0x92 w = some (Instr.mmovSp (getF w 10 3) (getF w 16 2)) := by
  simp only [candidateOf, candidate9, h]
theorem mmovSp (d : BitVec 3) (a : BitVec 2) : Statement (.mmovSp d a) := by
  refine ⟨fun _ _ hw => ?_, fun _ h => nomatch h⟩
  have h_d := d.isLt
  have h_a := a.isLt
  have hn : Instr.bits (.mmovSp d a) = 0x30000192 + putF 10 d + putF 16 a := rfl
  have hf : Fits [(8, 146), (2, 1), (3, d.toNat), (3, 0), (2, a.toNat), (10, 0), (4, 3), (32, 0)] := ⟨by decide, by decide, h_d, by decide, h_a, by decide, by decide, by decide, trivial⟩
  have hp : Instr.bits (.mmovSp d a) = pack [(8, 146), (2, 1), (3, d.toNat), (3, 0), (2, a.toNat), (10, 0), (4, 3), (32, 0)] := by
    rw [hn]
    simp only [putF, pack]
    omega
  have ho : Instr.bits (.mmovSp d a) % 256 = 0x92 := by
    rw [hp]
    exact seg_low hf
  have hs : Instr.bits (.mmovSp d a)  / 2 ^ 28 % 16 = 3 := seg hp hf 6 rfl rfl rfl
  refine decode_encode (pack_word hp hf rfl) (by rw [ho]; decide) ?_ hw
  rw [candidate, ho, select_mmovSp _ hs]
  show some (Instr.mmovSp (getF (Instr.bits (.mmovSp d a)) 10 3) (getF (Instr.bits (.mmovSp d a)) 16 2)) = _
  refine congrArg some ?_
  congr 1
  · exact field hp hf 2 rfl rfl
  · exact field hp hf 4 rfl rfl
theorem mand (d : BitVec 3) (n : BitVec 1) (b : BitVec 3) (a : BitVec 3) : Statement (.mand d n b a) := by
  refine ⟨fun _ _ hw => ?_, fun _ h => nomatch h⟩
  have h_d := d.isLt
  have h_n := n.isLt
  have h_b := b.isLt
  have h_a := a.isLt
  have hn : Instr.bits (.mand d n b a) = 0x193 + putF 10 d + putF 28 n + putF 22 b + putF 16 a := rfl
  have hf : Fits [(8, 147), (2, 1), (3, d.toNat), (3, 0), (3, a.toNat), (3, 0), (3, b.toNat), (3, 0), (1, n.toNat), (35, 0)] := ⟨by decide, by decide, h_d, by decide, h_a, by decide, h_b, by decide, h_n, by decide, trivial⟩
  have hp : Instr.bits (.mand d n b a) = pack [(8, 147), (2, 1), (3, d.toNat), (3, 0), (3, a.toNat), (3, 0), (3, b.toNat), (3, 0), (1, n.toNat), (35, 0)] := by
    rw [hn]
    simp only [putF, pack]
    omega
  have ho : Instr.bits (.mand d n b a) % 256 = 0x93 := by
    rw [hp]
    exact seg_low hf
  refine decode_encode (pack_word hp hf rfl) (by rw [ho]; decide) ?_ hw
  rw [candidate, ho]
  show some (Instr.mand (getF (Instr.bits (.mand d n b a)) 10 3) (getF (Instr.bits (.mand d n b a)) 28 1) (getF (Instr.bits (.mand d n b a)) 22 3) (getF (Instr.bits (.mand d n b a)) 16 3)) = _
  refine congrArg some ?_
  congr 1
  · exact field hp hf 2 rfl rfl
  · exact field hp hf 8 rfl rfl
  · exact field hp hf 6 rfl rfl
  · exact field hp hf 4 rfl rfl
theorem mor (d : BitVec 3) (n : BitVec 1) (b : BitVec 3) (a : BitVec 3) : Statement (.mor d n b a) := by
  refine ⟨fun _ _ hw => ?_, fun _ h => nomatch h⟩
  have h_d := d.isLt
  have h_n := n.isLt
  have h_b := b.isLt
  have h_a := a.isLt
  have hn : Instr.bits (.mor d n b a) = 0x194 + putF 10 d + putF 28 n + putF 22 b + putF 16 a := rfl
  have hf : Fits [(8, 148), (2, 1), (3, d.toNat), (3, 0), (3, a.toNat), (3, 0), (3, b.toNat), (3, 0), (1, n.toNat), (35, 0)] := ⟨by decide, by decide, h_d, by decide, h_a, by decide, h_b, by decide, h_n, by decide, trivial⟩
  have hp : Instr.bits (.mor d n b a) = pack [(8, 148), (2, 1), (3, d.toNat), (3, 0), (3, a.toNat), (3, 0), (3, b.toNat), (3, 0), (1, n.toNat), (35, 0)] := by
    rw [hn]
    simp only [putF, pack]
    omega
  have ho : Instr.bits (.mor d n b a) % 256 = 0x94 := by
    rw [hp]
    exact seg_low hf
  refine decode_encode (pack_word hp hf rfl) (by rw [ho]; decide) ?_ hw
  rw [candidate, ho]
  show some (Instr.mor (getF (Instr.bits (.mor d n b a)) 10 3) (getF (Instr.bits (.mor d n b a)) 28 1) (getF (Instr.bits (.mor d n b a)) 22 3) (getF (Instr.bits (.mor d n b a)) 16 3)) = _
  refine congrArg some ?_
  congr 1
  · exact field hp hf 2 rfl rfl
  · exact field hp hf 8 rfl rfl
  · exact field hp hf 6 rfl rfl
  · exact field hp hf 4 rfl rfl
theorem mxor (d : BitVec 3) (b : BitVec 3) (a : BitVec 3) : Statement (.mxor d b a) := by
  refine ⟨fun _ _ hw => ?_, fun _ h => nomatch h⟩
  have h_d := d.isLt
  have h_b := b.isLt
  have h_a := a.isLt
  have hn : Instr.bits (.mxor d b a) = 0x195 + putF 10 d + putF 22 b + putF 16 a := rfl
  have hf : Fits [(8, 149), (2, 1), (3, d.toNat), (3, 0), (3, a.toNat), (3, 0), (3, b.toNat), (39, 0)] := ⟨by decide, by decide, h_d, by decide, h_a, by decide, h_b, by decide, trivial⟩
  have hp : Instr.bits (.mxor d b a) = pack [(8, 149), (2, 1), (3, d.toNat), (3, 0), (3, a.toNat), (3, 0), (3, b.toNat), (39, 0)] := by
    rw [hn]
    simp only [putF, pack]
    omega
  have ho : Instr.bits (.mxor d b a) % 256 = 0x95 := by
    rw [hp]
    exact seg_low hf
  refine decode_encode (pack_word hp hf rfl) (by rw [ho]; decide) ?_ hw
  rw [candidate, ho]
  show some (Instr.mxor (getF (Instr.bits (.mxor d b a)) 10 3) (getF (Instr.bits (.mxor d b a)) 22 3) (getF (Instr.bits (.mxor d b a)) 16 3)) = _
  refine congrArg some ?_
  congr 1
  · exact field hp hf 2 rfl rfl
  · exact field hp hf 6 rfl rfl
  · exact field hp hf 4 rfl rfl
theorem mnot (d : BitVec 3) (a : BitVec 3) : Statement (.mnot d a) := by
  refine ⟨fun _ _ hw => ?_, fun _ h => nomatch h⟩
  have h_d := d.isLt
  have h_a := a.isLt
  have hn : Instr.bits (.mnot d a) = 0x196 + putF 10 d + putF 16 a := rfl
  have hf : Fits [(8, 150), (2, 1), (3, d.toNat), (3, 0), (3, a.toNat), (45, 0)] := ⟨by decide, by decide, h_d, by decide, h_a, by decide, trivial⟩
  have hp : Instr.bits (.mnot d a) = pack [(8, 150), (2, 1), (3, d.toNat), (3, 0), (3, a.toNat), (45, 0)] := by
    rw [hn]
    simp only [putF, pack]
    omega
  have ho : Instr.bits (.mnot d a) % 256 = 0x96 := by
    rw [hp]
    exact seg_low hf
  refine decode_encode (pack_word hp hf rfl) (by rw [ho]; decide) ?_ hw
  rw [candidate, ho]
  show some (Instr.mnot (getF (Instr.bits (.mnot d a)) 10 3) (getF (Instr.bits (.mnot d a)) 16 3)) = _
  refine congrArg some ?_
  congr 1
  · exact field hp hf 2 rfl rfl
  · exact field hp hf 4 rfl rfl
theorem mpop (d : BitVec 6) (b : BitVec 2) (a : BitVec 3) : Statement (.mpop d b a) := by
  refine ⟨fun _ _ hw => ?_, fun _ h => nomatch h⟩
  have h_d := d.isLt
  have h_b := b.isLt
  have h_a := a.isLt
  have hn : Instr.bits (.mpop d b a) = 0x197 + putF 10 d + putF 22 b + putF 16 a := rfl
  have hf : Fits [(8, 151), (2, 1), (6, d.toNat), (3, a.toNat), (3, 0), (2, b.toNat), (40, 0)] := ⟨by decide, by decide, h_d, h_a, by decide, h_b, by decide, trivial⟩
  have hp : Instr.bits (.mpop d b a) = pack [(8, 151), (2, 1), (6, d.toNat), (3, a.toNat), (3, 0), (2, b.toNat), (40, 0)] := by
    rw [hn]
    simp only [putF, pack]
    omega
  have ho : Instr.bits (.mpop d b a) % 256 = 0x97 := by
    rw [hp]
    exact seg_low hf
  refine decode_encode (pack_word hp hf rfl) (by rw [ho]; decide) ?_ hw
  rw [candidate, ho]
  show some (Instr.mpop (getF (Instr.bits (.mpop d b a)) 10 6) (getF (Instr.bits (.mpop d b a)) 22 2) (getF (Instr.bits (.mpop d b a)) 16 3)) = _
  refine congrArg some ?_
  congr 1
  · exact field hp hf 2 rfl rfl
  · exact field hp hf 5 rfl rfl
  · exact field hp hf 3 rfl rfl
theorem mfirst (d : BitVec 6) (b : BitVec 2) (a : BitVec 3) : Statement (.mfirst d b a) := by
  refine ⟨fun _ _ hw => ?_, fun _ h => nomatch h⟩
  have h_d := d.isLt
  have h_b := b.isLt
  have h_a := a.isLt
  have hn : Instr.bits (.mfirst d b a) = 0x198 + putF 10 d + putF 22 b + putF 16 a := rfl
  have hf : Fits [(8, 152), (2, 1), (6, d.toNat), (3, a.toNat), (3, 0), (2, b.toNat), (40, 0)] := ⟨by decide, by decide, h_d, h_a, by decide, h_b, by decide, trivial⟩
  have hp : Instr.bits (.mfirst d b a) = pack [(8, 152), (2, 1), (6, d.toNat), (3, a.toNat), (3, 0), (2, b.toNat), (40, 0)] := by
    rw [hn]
    simp only [putF, pack]
    omega
  have ho : Instr.bits (.mfirst d b a) % 256 = 0x98 := by
    rw [hp]
    exact seg_low hf
  refine decode_encode (pack_word hp hf rfl) (by rw [ho]; decide) ?_ hw
  rw [candidate, ho]
  show some (Instr.mfirst (getF (Instr.bits (.mfirst d b a)) 10 6) (getF (Instr.bits (.mfirst d b a)) 22 2) (getF (Instr.bits (.mfirst d b a)) 16 3)) = _
  refine congrArg some ?_
  congr 1
  · exact field hp hf 2 rfl rfl
  · exact field hp hf 5 rfl rfl
  · exact field hp hf 3 rfl rfl
theorem vadd (d : BitVec 5) (t : BitVec 3) (b : BitVec 6) (a : BitVec 5) (sat : BitVec 1) (vx : BitVec 1) (p : BitVec 6) : Statement (.vadd d t b a sat vx p) := by
  refine ⟨fun _ _ hw => ?_, fun _ h => nomatch h⟩
  have h_d := d.isLt
  have h_t := t.isLt
  have h_b := b.isLt
  have h_a := a.isLt
  have h_sat := sat.isLt
  have h_vx := vx.isLt
  have h_p := p.isLt
  have hn : Instr.bits (.vadd d t b a sat vx p) = 0x299 + putF 10 d + putF 28 t + putF 22 b + putF 16 a + putF 47 sat + putF 44 vx + putF 38 p := rfl
  have hf : Fits [(8, 153), (2, 2), (5, d.toNat), (1, 0), (5, a.toNat), (1, 0), (6, b.toNat), (3, t.toNat), (7, 0), (6, p.toNat), (1, vx.toNat), (2, 0), (1, sat.toNat), (16, 0)] := ⟨by decide, by decide, h_d, by decide, h_a, by decide, h_b, h_t, by decide, h_p, h_vx, by decide, h_sat, by decide, trivial⟩
  have hp : Instr.bits (.vadd d t b a sat vx p) = pack [(8, 153), (2, 2), (5, d.toNat), (1, 0), (5, a.toNat), (1, 0), (6, b.toNat), (3, t.toNat), (7, 0), (6, p.toNat), (1, vx.toNat), (2, 0), (1, sat.toNat), (16, 0)] := by
    rw [hn]
    simp only [putF, pack]
    omega
  have ho : Instr.bits (.vadd d t b a sat vx p) % 256 = 0x99 := by
    rw [hp]
    exact seg_low hf
  refine decode_encode (pack_word hp hf rfl) (by rw [ho]; decide) ?_ hw
  rw [candidate, ho]
  show some (Instr.vadd (getF (Instr.bits (.vadd d t b a sat vx p)) 10 5) (getF (Instr.bits (.vadd d t b a sat vx p)) 28 3) (getF (Instr.bits (.vadd d t b a sat vx p)) 22 6) (getF (Instr.bits (.vadd d t b a sat vx p)) 16 5) (getF (Instr.bits (.vadd d t b a sat vx p)) 47 1) (getF (Instr.bits (.vadd d t b a sat vx p)) 44 1) (getF (Instr.bits (.vadd d t b a sat vx p)) 38 6)) = _
  refine congrArg some ?_
  congr 1
  · exact field hp hf 2 rfl rfl
  · exact field hp hf 7 rfl rfl
  · exact field hp hf 6 rfl rfl
  · exact field hp hf 4 rfl rfl
  · exact field hp hf 12 rfl rfl
  · exact field hp hf 10 rfl rfl
  · exact field hp hf 9 rfl rfl
theorem vsub (d : BitVec 5) (t : BitVec 3) (b : BitVec 6) (a : BitVec 5) (sat : BitVec 1) (vx : BitVec 1) (p : BitVec 6) : Statement (.vsub d t b a sat vx p) := by
  refine ⟨fun _ _ hw => ?_, fun _ h => nomatch h⟩
  have h_d := d.isLt
  have h_t := t.isLt
  have h_b := b.isLt
  have h_a := a.isLt
  have h_sat := sat.isLt
  have h_vx := vx.isLt
  have h_p := p.isLt
  have hn : Instr.bits (.vsub d t b a sat vx p) = 0x29a + putF 10 d + putF 28 t + putF 22 b + putF 16 a + putF 47 sat + putF 44 vx + putF 38 p := rfl
  have hf : Fits [(8, 154), (2, 2), (5, d.toNat), (1, 0), (5, a.toNat), (1, 0), (6, b.toNat), (3, t.toNat), (7, 0), (6, p.toNat), (1, vx.toNat), (2, 0), (1, sat.toNat), (16, 0)] := ⟨by decide, by decide, h_d, by decide, h_a, by decide, h_b, h_t, by decide, h_p, h_vx, by decide, h_sat, by decide, trivial⟩
  have hp : Instr.bits (.vsub d t b a sat vx p) = pack [(8, 154), (2, 2), (5, d.toNat), (1, 0), (5, a.toNat), (1, 0), (6, b.toNat), (3, t.toNat), (7, 0), (6, p.toNat), (1, vx.toNat), (2, 0), (1, sat.toNat), (16, 0)] := by
    rw [hn]
    simp only [putF, pack]
    omega
  have ho : Instr.bits (.vsub d t b a sat vx p) % 256 = 0x9a := by
    rw [hp]
    exact seg_low hf
  refine decode_encode (pack_word hp hf rfl) (by rw [ho]; decide) ?_ hw
  rw [candidate, ho]
  show some (Instr.vsub (getF (Instr.bits (.vsub d t b a sat vx p)) 10 5) (getF (Instr.bits (.vsub d t b a sat vx p)) 28 3) (getF (Instr.bits (.vsub d t b a sat vx p)) 22 6) (getF (Instr.bits (.vsub d t b a sat vx p)) 16 5) (getF (Instr.bits (.vsub d t b a sat vx p)) 47 1) (getF (Instr.bits (.vsub d t b a sat vx p)) 44 1) (getF (Instr.bits (.vsub d t b a sat vx p)) 38 6)) = _
  refine congrArg some ?_
  congr 1
  · exact field hp hf 2 rfl rfl
  · exact field hp hf 7 rfl rfl
  · exact field hp hf 6 rfl rfl
  · exact field hp hf 4 rfl rfl
  · exact field hp hf 12 rfl rfl
  · exact field hp hf 10 rfl rfl
  · exact field hp hf 9 rfl rfl
theorem vmul (d : BitVec 5) (t : BitVec 3) (b : BitVec 6) (a : BitVec 5) (vx : BitVec 1) (p : BitVec 6) : Statement (.vmul d t b a vx p) := by
  refine ⟨fun _ _ hw => ?_, fun _ h => nomatch h⟩
  have h_d := d.isLt
  have h_t := t.isLt
  have h_b := b.isLt
  have h_a := a.isLt
  have h_vx := vx.isLt
  have h_p := p.isLt
  have hn : Instr.bits (.vmul d t b a vx p) = 0x29b + putF 10 d + putF 28 t + putF 22 b + putF 16 a + putF 44 vx + putF 38 p := rfl
  have hf : Fits [(8, 155), (2, 2), (5, d.toNat), (1, 0), (5, a.toNat), (1, 0), (6, b.toNat), (3, t.toNat), (7, 0), (6, p.toNat), (1, vx.toNat), (19, 0)] := ⟨by decide, by decide, h_d, by decide, h_a, by decide, h_b, h_t, by decide, h_p, h_vx, by decide, trivial⟩
  have hp : Instr.bits (.vmul d t b a vx p) = pack [(8, 155), (2, 2), (5, d.toNat), (1, 0), (5, a.toNat), (1, 0), (6, b.toNat), (3, t.toNat), (7, 0), (6, p.toNat), (1, vx.toNat), (19, 0)] := by
    rw [hn]
    simp only [putF, pack]
    omega
  have ho : Instr.bits (.vmul d t b a vx p) % 256 = 0x9b := by
    rw [hp]
    exact seg_low hf
  refine decode_encode (pack_word hp hf rfl) (by rw [ho]; decide) ?_ hw
  rw [candidate, ho]
  show some (Instr.vmul (getF (Instr.bits (.vmul d t b a vx p)) 10 5) (getF (Instr.bits (.vmul d t b a vx p)) 28 3) (getF (Instr.bits (.vmul d t b a vx p)) 22 6) (getF (Instr.bits (.vmul d t b a vx p)) 16 5) (getF (Instr.bits (.vmul d t b a vx p)) 44 1) (getF (Instr.bits (.vmul d t b a vx p)) 38 6)) = _
  refine congrArg some ?_
  congr 1
  · exact field hp hf 2 rfl rfl
  · exact field hp hf 7 rfl rfl
  · exact field hp hf 6 rfl rfl
  · exact field hp hf 4 rfl rfl
  · exact field hp hf 10 rfl rfl
  · exact field hp hf 9 rfl rfl
theorem vmulh (d : BitVec 5) (t : BitVec 3) (b : BitVec 6) (a : BitVec 5) (vx : BitVec 1) (p : BitVec 6) : Statement (.vmulh d t b a vx p) := by
  refine ⟨fun _ _ hw => ?_, fun _ h => nomatch h⟩
  have h_d := d.isLt
  have h_t := t.isLt
  have h_b := b.isLt
  have h_a := a.isLt
  have h_vx := vx.isLt
  have h_p := p.isLt
  have hn : Instr.bits (.vmulh d t b a vx p) = 0x29c + putF 10 d + putF 28 t + putF 22 b + putF 16 a + putF 44 vx + putF 38 p := rfl
  have hf : Fits [(8, 156), (2, 2), (5, d.toNat), (1, 0), (5, a.toNat), (1, 0), (6, b.toNat), (3, t.toNat), (7, 0), (6, p.toNat), (1, vx.toNat), (19, 0)] := ⟨by decide, by decide, h_d, by decide, h_a, by decide, h_b, h_t, by decide, h_p, h_vx, by decide, trivial⟩
  have hp : Instr.bits (.vmulh d t b a vx p) = pack [(8, 156), (2, 2), (5, d.toNat), (1, 0), (5, a.toNat), (1, 0), (6, b.toNat), (3, t.toNat), (7, 0), (6, p.toNat), (1, vx.toNat), (19, 0)] := by
    rw [hn]
    simp only [putF, pack]
    omega
  have ho : Instr.bits (.vmulh d t b a vx p) % 256 = 0x9c := by
    rw [hp]
    exact seg_low hf
  refine decode_encode (pack_word hp hf rfl) (by rw [ho]; decide) ?_ hw
  rw [candidate, ho]
  show some (Instr.vmulh (getF (Instr.bits (.vmulh d t b a vx p)) 10 5) (getF (Instr.bits (.vmulh d t b a vx p)) 28 3) (getF (Instr.bits (.vmulh d t b a vx p)) 22 6) (getF (Instr.bits (.vmulh d t b a vx p)) 16 5) (getF (Instr.bits (.vmulh d t b a vx p)) 44 1) (getF (Instr.bits (.vmulh d t b a vx p)) 38 6)) = _
  refine congrArg some ?_
  congr 1
  · exact field hp hf 2 rfl rfl
  · exact field hp hf 7 rfl rfl
  · exact field hp hf 6 rfl rfl
  · exact field hp hf 4 rfl rfl
  · exact field hp hf 10 rfl rfl
  · exact field hp hf 9 rfl rfl
theorem vand (d : BitVec 5) (t : BitVec 3) (b : BitVec 6) (a : BitVec 5) (vx : BitVec 1) (p : BitVec 6) : Statement (.vand d t b a vx p) := by
  refine ⟨fun _ _ hw => ?_, fun _ h => nomatch h⟩
  have h_d := d.isLt
  have h_t := t.isLt
  have h_b := b.isLt
  have h_a := a.isLt
  have h_vx := vx.isLt
  have h_p := p.isLt
  have hn : Instr.bits (.vand d t b a vx p) = 0x29d + putF 10 d + putF 28 t + putF 22 b + putF 16 a + putF 44 vx + putF 38 p := rfl
  have hf : Fits [(8, 157), (2, 2), (5, d.toNat), (1, 0), (5, a.toNat), (1, 0), (6, b.toNat), (3, t.toNat), (7, 0), (6, p.toNat), (1, vx.toNat), (19, 0)] := ⟨by decide, by decide, h_d, by decide, h_a, by decide, h_b, h_t, by decide, h_p, h_vx, by decide, trivial⟩
  have hp : Instr.bits (.vand d t b a vx p) = pack [(8, 157), (2, 2), (5, d.toNat), (1, 0), (5, a.toNat), (1, 0), (6, b.toNat), (3, t.toNat), (7, 0), (6, p.toNat), (1, vx.toNat), (19, 0)] := by
    rw [hn]
    simp only [putF, pack]
    omega
  have ho : Instr.bits (.vand d t b a vx p) % 256 = 0x9d := by
    rw [hp]
    exact seg_low hf
  refine decode_encode (pack_word hp hf rfl) (by rw [ho]; decide) ?_ hw
  rw [candidate, ho]
  show some (Instr.vand (getF (Instr.bits (.vand d t b a vx p)) 10 5) (getF (Instr.bits (.vand d t b a vx p)) 28 3) (getF (Instr.bits (.vand d t b a vx p)) 22 6) (getF (Instr.bits (.vand d t b a vx p)) 16 5) (getF (Instr.bits (.vand d t b a vx p)) 44 1) (getF (Instr.bits (.vand d t b a vx p)) 38 6)) = _
  refine congrArg some ?_
  congr 1
  · exact field hp hf 2 rfl rfl
  · exact field hp hf 7 rfl rfl
  · exact field hp hf 6 rfl rfl
  · exact field hp hf 4 rfl rfl
  · exact field hp hf 10 rfl rfl
  · exact field hp hf 9 rfl rfl
theorem vor (d : BitVec 5) (t : BitVec 3) (b : BitVec 6) (a : BitVec 5) (vx : BitVec 1) (p : BitVec 6) : Statement (.vor d t b a vx p) := by
  refine ⟨fun _ _ hw => ?_, fun _ h => nomatch h⟩
  have h_d := d.isLt
  have h_t := t.isLt
  have h_b := b.isLt
  have h_a := a.isLt
  have h_vx := vx.isLt
  have h_p := p.isLt
  have hn : Instr.bits (.vor d t b a vx p) = 0x29e + putF 10 d + putF 28 t + putF 22 b + putF 16 a + putF 44 vx + putF 38 p := rfl
  have hf : Fits [(8, 158), (2, 2), (5, d.toNat), (1, 0), (5, a.toNat), (1, 0), (6, b.toNat), (3, t.toNat), (7, 0), (6, p.toNat), (1, vx.toNat), (19, 0)] := ⟨by decide, by decide, h_d, by decide, h_a, by decide, h_b, h_t, by decide, h_p, h_vx, by decide, trivial⟩
  have hp : Instr.bits (.vor d t b a vx p) = pack [(8, 158), (2, 2), (5, d.toNat), (1, 0), (5, a.toNat), (1, 0), (6, b.toNat), (3, t.toNat), (7, 0), (6, p.toNat), (1, vx.toNat), (19, 0)] := by
    rw [hn]
    simp only [putF, pack]
    omega
  have ho : Instr.bits (.vor d t b a vx p) % 256 = 0x9e := by
    rw [hp]
    exact seg_low hf
  refine decode_encode (pack_word hp hf rfl) (by rw [ho]; decide) ?_ hw
  rw [candidate, ho]
  show some (Instr.vor (getF (Instr.bits (.vor d t b a vx p)) 10 5) (getF (Instr.bits (.vor d t b a vx p)) 28 3) (getF (Instr.bits (.vor d t b a vx p)) 22 6) (getF (Instr.bits (.vor d t b a vx p)) 16 5) (getF (Instr.bits (.vor d t b a vx p)) 44 1) (getF (Instr.bits (.vor d t b a vx p)) 38 6)) = _
  refine congrArg some ?_
  congr 1
  · exact field hp hf 2 rfl rfl
  · exact field hp hf 7 rfl rfl
  · exact field hp hf 6 rfl rfl
  · exact field hp hf 4 rfl rfl
  · exact field hp hf 10 rfl rfl
  · exact field hp hf 9 rfl rfl
theorem vxor (d : BitVec 5) (t : BitVec 3) (b : BitVec 6) (a : BitVec 5) (vx : BitVec 1) (p : BitVec 6) : Statement (.vxor d t b a vx p) := by
  refine ⟨fun _ _ hw => ?_, fun _ h => nomatch h⟩
  have h_d := d.isLt
  have h_t := t.isLt
  have h_b := b.isLt
  have h_a := a.isLt
  have h_vx := vx.isLt
  have h_p := p.isLt
  have hn : Instr.bits (.vxor d t b a vx p) = 0x29f + putF 10 d + putF 28 t + putF 22 b + putF 16 a + putF 44 vx + putF 38 p := rfl
  have hf : Fits [(8, 159), (2, 2), (5, d.toNat), (1, 0), (5, a.toNat), (1, 0), (6, b.toNat), (3, t.toNat), (7, 0), (6, p.toNat), (1, vx.toNat), (19, 0)] := ⟨by decide, by decide, h_d, by decide, h_a, by decide, h_b, h_t, by decide, h_p, h_vx, by decide, trivial⟩
  have hp : Instr.bits (.vxor d t b a vx p) = pack [(8, 159), (2, 2), (5, d.toNat), (1, 0), (5, a.toNat), (1, 0), (6, b.toNat), (3, t.toNat), (7, 0), (6, p.toNat), (1, vx.toNat), (19, 0)] := by
    rw [hn]
    simp only [putF, pack]
    omega
  have ho : Instr.bits (.vxor d t b a vx p) % 256 = 0x9f := by
    rw [hp]
    exact seg_low hf
  refine decode_encode (pack_word hp hf rfl) (by rw [ho]; decide) ?_ hw
  rw [candidate, ho]
  show some (Instr.vxor (getF (Instr.bits (.vxor d t b a vx p)) 10 5) (getF (Instr.bits (.vxor d t b a vx p)) 28 3) (getF (Instr.bits (.vxor d t b a vx p)) 22 6) (getF (Instr.bits (.vxor d t b a vx p)) 16 5) (getF (Instr.bits (.vxor d t b a vx p)) 44 1) (getF (Instr.bits (.vxor d t b a vx p)) 38 6)) = _
  refine congrArg some ?_
  congr 1
  · exact field hp hf 2 rfl rfl
  · exact field hp hf 7 rfl rfl
  · exact field hp hf 6 rfl rfl
  · exact field hp hf 4 rfl rfl
  · exact field hp hf 10 rfl rfl
  · exact field hp hf 9 rfl rfl
theorem vshl (d : BitVec 5) (t : BitVec 3) (b : BitVec 6) (a : BitVec 5) (vx : BitVec 1) (p : BitVec 6) : Statement (.vshl d t b a vx p) := by
  refine ⟨fun _ _ hw => ?_, fun _ h => nomatch h⟩
  have h_d := d.isLt
  have h_t := t.isLt
  have h_b := b.isLt
  have h_a := a.isLt
  have h_vx := vx.isLt
  have h_p := p.isLt
  have hn : Instr.bits (.vshl d t b a vx p) = 0x2a0 + putF 10 d + putF 28 t + putF 22 b + putF 16 a + putF 44 vx + putF 38 p := rfl
  have hf : Fits [(8, 160), (2, 2), (5, d.toNat), (1, 0), (5, a.toNat), (1, 0), (6, b.toNat), (3, t.toNat), (7, 0), (6, p.toNat), (1, vx.toNat), (19, 0)] := ⟨by decide, by decide, h_d, by decide, h_a, by decide, h_b, h_t, by decide, h_p, h_vx, by decide, trivial⟩
  have hp : Instr.bits (.vshl d t b a vx p) = pack [(8, 160), (2, 2), (5, d.toNat), (1, 0), (5, a.toNat), (1, 0), (6, b.toNat), (3, t.toNat), (7, 0), (6, p.toNat), (1, vx.toNat), (19, 0)] := by
    rw [hn]
    simp only [putF, pack]
    omega
  have ho : Instr.bits (.vshl d t b a vx p) % 256 = 0xa0 := by
    rw [hp]
    exact seg_low hf
  refine decode_encode (pack_word hp hf rfl) (by rw [ho]; decide) ?_ hw
  rw [candidate, ho]
  show some (Instr.vshl (getF (Instr.bits (.vshl d t b a vx p)) 10 5) (getF (Instr.bits (.vshl d t b a vx p)) 28 3) (getF (Instr.bits (.vshl d t b a vx p)) 22 6) (getF (Instr.bits (.vshl d t b a vx p)) 16 5) (getF (Instr.bits (.vshl d t b a vx p)) 44 1) (getF (Instr.bits (.vshl d t b a vx p)) 38 6)) = _
  refine congrArg some ?_
  congr 1
  · exact field hp hf 2 rfl rfl
  · exact field hp hf 7 rfl rfl
  · exact field hp hf 6 rfl rfl
  · exact field hp hf 4 rfl rfl
  · exact field hp hf 10 rfl rfl
  · exact field hp hf 9 rfl rfl
theorem vshr (d : BitVec 5) (t : BitVec 3) (b : BitVec 6) (a : BitVec 5) (vx : BitVec 1) (p : BitVec 6) : Statement (.vshr d t b a vx p) := by
  refine ⟨fun _ _ hw => ?_, fun _ h => nomatch h⟩
  have h_d := d.isLt
  have h_t := t.isLt
  have h_b := b.isLt
  have h_a := a.isLt
  have h_vx := vx.isLt
  have h_p := p.isLt
  have hn : Instr.bits (.vshr d t b a vx p) = 0x2a1 + putF 10 d + putF 28 t + putF 22 b + putF 16 a + putF 44 vx + putF 38 p := rfl
  have hf : Fits [(8, 161), (2, 2), (5, d.toNat), (1, 0), (5, a.toNat), (1, 0), (6, b.toNat), (3, t.toNat), (7, 0), (6, p.toNat), (1, vx.toNat), (19, 0)] := ⟨by decide, by decide, h_d, by decide, h_a, by decide, h_b, h_t, by decide, h_p, h_vx, by decide, trivial⟩
  have hp : Instr.bits (.vshr d t b a vx p) = pack [(8, 161), (2, 2), (5, d.toNat), (1, 0), (5, a.toNat), (1, 0), (6, b.toNat), (3, t.toNat), (7, 0), (6, p.toNat), (1, vx.toNat), (19, 0)] := by
    rw [hn]
    simp only [putF, pack]
    omega
  have ho : Instr.bits (.vshr d t b a vx p) % 256 = 0xa1 := by
    rw [hp]
    exact seg_low hf
  refine decode_encode (pack_word hp hf rfl) (by rw [ho]; decide) ?_ hw
  rw [candidate, ho]
  show some (Instr.vshr (getF (Instr.bits (.vshr d t b a vx p)) 10 5) (getF (Instr.bits (.vshr d t b a vx p)) 28 3) (getF (Instr.bits (.vshr d t b a vx p)) 22 6) (getF (Instr.bits (.vshr d t b a vx p)) 16 5) (getF (Instr.bits (.vshr d t b a vx p)) 44 1) (getF (Instr.bits (.vshr d t b a vx p)) 38 6)) = _
  refine congrArg some ?_
  congr 1
  · exact field hp hf 2 rfl rfl
  · exact field hp hf 7 rfl rfl
  · exact field hp hf 6 rfl rfl
  · exact field hp hf 4 rfl rfl
  · exact field hp hf 10 rfl rfl
  · exact field hp hf 9 rfl rfl
theorem vmin (d : BitVec 5) (t : BitVec 3) (b : BitVec 6) (a : BitVec 5) (vx : BitVec 1) (p : BitVec 6) : Statement (.vmin d t b a vx p) := by
  refine ⟨fun _ _ hw => ?_, fun _ h => nomatch h⟩
  have h_d := d.isLt
  have h_t := t.isLt
  have h_b := b.isLt
  have h_a := a.isLt
  have h_vx := vx.isLt
  have h_p := p.isLt
  have hn : Instr.bits (.vmin d t b a vx p) = 0x2a2 + putF 10 d + putF 28 t + putF 22 b + putF 16 a + putF 44 vx + putF 38 p := rfl
  have hf : Fits [(8, 162), (2, 2), (5, d.toNat), (1, 0), (5, a.toNat), (1, 0), (6, b.toNat), (3, t.toNat), (7, 0), (6, p.toNat), (1, vx.toNat), (19, 0)] := ⟨by decide, by decide, h_d, by decide, h_a, by decide, h_b, h_t, by decide, h_p, h_vx, by decide, trivial⟩
  have hp : Instr.bits (.vmin d t b a vx p) = pack [(8, 162), (2, 2), (5, d.toNat), (1, 0), (5, a.toNat), (1, 0), (6, b.toNat), (3, t.toNat), (7, 0), (6, p.toNat), (1, vx.toNat), (19, 0)] := by
    rw [hn]
    simp only [putF, pack]
    omega
  have ho : Instr.bits (.vmin d t b a vx p) % 256 = 0xa2 := by
    rw [hp]
    exact seg_low hf
  refine decode_encode (pack_word hp hf rfl) (by rw [ho]; decide) ?_ hw
  rw [candidate, ho]
  show some (Instr.vmin (getF (Instr.bits (.vmin d t b a vx p)) 10 5) (getF (Instr.bits (.vmin d t b a vx p)) 28 3) (getF (Instr.bits (.vmin d t b a vx p)) 22 6) (getF (Instr.bits (.vmin d t b a vx p)) 16 5) (getF (Instr.bits (.vmin d t b a vx p)) 44 1) (getF (Instr.bits (.vmin d t b a vx p)) 38 6)) = _
  refine congrArg some ?_
  congr 1
  · exact field hp hf 2 rfl rfl
  · exact field hp hf 7 rfl rfl
  · exact field hp hf 6 rfl rfl
  · exact field hp hf 4 rfl rfl
  · exact field hp hf 10 rfl rfl
  · exact field hp hf 9 rfl rfl
theorem vmax (d : BitVec 5) (t : BitVec 3) (b : BitVec 6) (a : BitVec 5) (vx : BitVec 1) (p : BitVec 6) : Statement (.vmax d t b a vx p) := by
  refine ⟨fun _ _ hw => ?_, fun _ h => nomatch h⟩
  have h_d := d.isLt
  have h_t := t.isLt
  have h_b := b.isLt
  have h_a := a.isLt
  have h_vx := vx.isLt
  have h_p := p.isLt
  have hn : Instr.bits (.vmax d t b a vx p) = 0x2a3 + putF 10 d + putF 28 t + putF 22 b + putF 16 a + putF 44 vx + putF 38 p := rfl
  have hf : Fits [(8, 163), (2, 2), (5, d.toNat), (1, 0), (5, a.toNat), (1, 0), (6, b.toNat), (3, t.toNat), (7, 0), (6, p.toNat), (1, vx.toNat), (19, 0)] := ⟨by decide, by decide, h_d, by decide, h_a, by decide, h_b, h_t, by decide, h_p, h_vx, by decide, trivial⟩
  have hp : Instr.bits (.vmax d t b a vx p) = pack [(8, 163), (2, 2), (5, d.toNat), (1, 0), (5, a.toNat), (1, 0), (6, b.toNat), (3, t.toNat), (7, 0), (6, p.toNat), (1, vx.toNat), (19, 0)] := by
    rw [hn]
    simp only [putF, pack]
    omega
  have ho : Instr.bits (.vmax d t b a vx p) % 256 = 0xa3 := by
    rw [hp]
    exact seg_low hf
  refine decode_encode (pack_word hp hf rfl) (by rw [ho]; decide) ?_ hw
  rw [candidate, ho]
  show some (Instr.vmax (getF (Instr.bits (.vmax d t b a vx p)) 10 5) (getF (Instr.bits (.vmax d t b a vx p)) 28 3) (getF (Instr.bits (.vmax d t b a vx p)) 22 6) (getF (Instr.bits (.vmax d t b a vx p)) 16 5) (getF (Instr.bits (.vmax d t b a vx p)) 44 1) (getF (Instr.bits (.vmax d t b a vx p)) 38 6)) = _
  refine congrArg some ?_
  congr 1
  · exact field hp hf 2 rfl rfl
  · exact field hp hf 7 rfl rfl
  · exact field hp hf 6 rfl rfl
  · exact field hp hf 4 rfl rfl
  · exact field hp hf 10 rfl rfl
  · exact field hp hf 9 rfl rfl
theorem vcmp (d : BitVec 3) (t : BitVec 3) (b : BitVec 6) (a : BitVec 5) (vx : BitVec 1) (p : BitVec 6) (k : BitVec 3) : Statement (.vcmp d t b a vx p k) := by
  refine ⟨fun _ _ hw => ?_, fun _ h => nomatch h⟩
  have h_d := d.isLt
  have h_t := t.isLt
  have h_b := b.isLt
  have h_a := a.isLt
  have h_vx := vx.isLt
  have h_p := p.isLt
  have h_k := k.isLt
  have hn : Instr.bits (.vcmp d t b a vx p k) = 0x2a4 + putF 10 d + putF 28 t + putF 22 b + putF 16 a + putF 44 vx + putF 38 p + putF 32 k := rfl
  have hf : Fits [(8, 164), (2, 2), (3, d.toNat), (3, 0), (5, a.toNat), (1, 0), (6, b.toNat), (3, t.toNat), (1, 0), (3, k.toNat), (3, 0), (6, p.toNat), (1, vx.toNat), (19, 0)] := ⟨by decide, by decide, h_d, by decide, h_a, by decide, h_b, h_t, by decide, h_k, by decide, h_p, h_vx, by decide, trivial⟩
  have hp : Instr.bits (.vcmp d t b a vx p k) = pack [(8, 164), (2, 2), (3, d.toNat), (3, 0), (5, a.toNat), (1, 0), (6, b.toNat), (3, t.toNat), (1, 0), (3, k.toNat), (3, 0), (6, p.toNat), (1, vx.toNat), (19, 0)] := by
    rw [hn]
    simp only [putF, pack]
    omega
  have ho : Instr.bits (.vcmp d t b a vx p k) % 256 = 0xa4 := by
    rw [hp]
    exact seg_low hf
  refine decode_encode (pack_word hp hf rfl) (by rw [ho]; decide) ?_ hw
  rw [candidate, ho]
  show some (Instr.vcmp (getF (Instr.bits (.vcmp d t b a vx p k)) 10 3) (getF (Instr.bits (.vcmp d t b a vx p k)) 28 3) (getF (Instr.bits (.vcmp d t b a vx p k)) 22 6) (getF (Instr.bits (.vcmp d t b a vx p k)) 16 5) (getF (Instr.bits (.vcmp d t b a vx p k)) 44 1) (getF (Instr.bits (.vcmp d t b a vx p k)) 38 6) (getF (Instr.bits (.vcmp d t b a vx p k)) 32 3)) = _
  refine congrArg some ?_
  congr 1
  · exact field hp hf 2 rfl rfl
  · exact field hp hf 7 rfl rfl
  · exact field hp hf 6 rfl rfl
  · exact field hp hf 4 rfl rfl
  · exact field hp hf 12 rfl rfl
  · exact field hp hf 11 rfl rfl
  · exact field hp hf 9 rfl rfl
theorem vsel (d : BitVec 5) (t : BitVec 4) (b : BitVec 5) (a : BitVec 5) (p : BitVec 6) (c : BitVec 3) : Statement (.vsel d t b a p c) := by
  refine ⟨fun _ _ hw => ?_, fun _ h => nomatch h⟩
  have h_d := d.isLt
  have h_t := t.isLt
  have h_b := b.isLt
  have h_a := a.isLt
  have h_p := p.isLt
  have h_c := c.isLt
  have hn : Instr.bits (.vsel d t b a p c) = 0x2a5 + putF 10 d + putF 28 t + putF 22 b + putF 16 a + putF 38 p + putF 32 c := rfl
  have hf : Fits [(8, 165), (2, 2), (5, d.toNat), (1, 0), (5, a.toNat), (1, 0), (5, b.toNat), (1, 0), (4, t.toNat), (3, c.toNat), (3, 0), (6, p.toNat), (20, 0)] := ⟨by decide, by decide, h_d, by decide, h_a, by decide, h_b, by decide, h_t, h_c, by decide, h_p, by decide, trivial⟩
  have hp : Instr.bits (.vsel d t b a p c) = pack [(8, 165), (2, 2), (5, d.toNat), (1, 0), (5, a.toNat), (1, 0), (5, b.toNat), (1, 0), (4, t.toNat), (3, c.toNat), (3, 0), (6, p.toNat), (20, 0)] := by
    rw [hn]
    simp only [putF, pack]
    omega
  have ho : Instr.bits (.vsel d t b a p c) % 256 = 0xa5 := by
    rw [hp]
    exact seg_low hf
  refine decode_encode (pack_word hp hf rfl) (by rw [ho]; decide) ?_ hw
  rw [candidate, ho]
  show some (Instr.vsel (getF (Instr.bits (.vsel d t b a p c)) 10 5) (getF (Instr.bits (.vsel d t b a p c)) 28 4) (getF (Instr.bits (.vsel d t b a p c)) 22 5) (getF (Instr.bits (.vsel d t b a p c)) 16 5) (getF (Instr.bits (.vsel d t b a p c)) 38 6) (getF (Instr.bits (.vsel d t b a p c)) 32 3)) = _
  refine congrArg some ?_
  congr 1
  · exact field hp hf 2 rfl rfl
  · exact field hp hf 8 rfl rfl
  · exact field hp hf 6 rfl rfl
  · exact field hp hf 4 rfl rfl
  · exact field hp hf 11 rfl rfl
  · exact field hp hf 9 rfl rfl
theorem vmov (d : BitVec 5) (t : BitVec 4) (b : BitVec 6) (a : BitVec 5) (vx : BitVec 1) (p : BitVec 6) : Statement (.vmov d t b a vx p) := by
  refine ⟨fun _ _ hw => ?_, fun _ h => nomatch h⟩
  have h_d := d.isLt
  have h_t := t.isLt
  have h_b := b.isLt
  have h_a := a.isLt
  have h_vx := vx.isLt
  have h_p := p.isLt
  have hn : Instr.bits (.vmov d t b a vx p) = 0x2a6 + putF 10 d + putF 28 t + putF 22 b + putF 16 a + putF 44 vx + putF 38 p := rfl
  have hf : Fits [(8, 166), (2, 2), (5, d.toNat), (1, 0), (5, a.toNat), (1, 0), (6, b.toNat), (4, t.toNat), (6, 0), (6, p.toNat), (1, vx.toNat), (19, 0)] := ⟨by decide, by decide, h_d, by decide, h_a, by decide, h_b, h_t, by decide, h_p, h_vx, by decide, trivial⟩
  have hp : Instr.bits (.vmov d t b a vx p) = pack [(8, 166), (2, 2), (5, d.toNat), (1, 0), (5, a.toNat), (1, 0), (6, b.toNat), (4, t.toNat), (6, 0), (6, p.toNat), (1, vx.toNat), (19, 0)] := by
    rw [hn]
    simp only [putF, pack]
    omega
  have ho : Instr.bits (.vmov d t b a vx p) % 256 = 0xa6 := by
    rw [hp]
    exact seg_low hf
  refine decode_encode (pack_word hp hf rfl) (by rw [ho]; decide) ?_ hw
  rw [candidate, ho]
  show some (Instr.vmov (getF (Instr.bits (.vmov d t b a vx p)) 10 5) (getF (Instr.bits (.vmov d t b a vx p)) 28 4) (getF (Instr.bits (.vmov d t b a vx p)) 22 6) (getF (Instr.bits (.vmov d t b a vx p)) 16 5) (getF (Instr.bits (.vmov d t b a vx p)) 44 1) (getF (Instr.bits (.vmov d t b a vx p)) 38 6)) = _
  refine congrArg some ?_
  congr 1
  · exact field hp hf 2 rfl rfl
  · exact field hp hf 7 rfl rfl
  · exact field hp hf 6 rfl rfl
  · exact field hp hf 4 rfl rfl
  · exact field hp hf 10 rfl rfl
  · exact field hp hf 9 rfl rfl
theorem vperm (d : BitVec 5) (t : BitVec 4) (b : BitVec 5) (a : BitVec 5) (p : BitVec 6) : Statement (.vperm d t b a p) := by
  refine ⟨fun _ _ hw => ?_, fun _ h => nomatch h⟩
  have h_d := d.isLt
  have h_t := t.isLt
  have h_b := b.isLt
  have h_a := a.isLt
  have h_p := p.isLt
  have hn : Instr.bits (.vperm d t b a p) = 0x2a7 + putF 10 d + putF 28 t + putF 22 b + putF 16 a + putF 38 p := rfl
  have hf : Fits [(8, 167), (2, 2), (5, d.toNat), (1, 0), (5, a.toNat), (1, 0), (5, b.toNat), (1, 0), (4, t.toNat), (6, 0), (6, p.toNat), (20, 0)] := ⟨by decide, by decide, h_d, by decide, h_a, by decide, h_b, by decide, h_t, by decide, h_p, by decide, trivial⟩
  have hp : Instr.bits (.vperm d t b a p) = pack [(8, 167), (2, 2), (5, d.toNat), (1, 0), (5, a.toNat), (1, 0), (5, b.toNat), (1, 0), (4, t.toNat), (6, 0), (6, p.toNat), (20, 0)] := by
    rw [hn]
    simp only [putF, pack]
    omega
  have ho : Instr.bits (.vperm d t b a p) % 256 = 0xa7 := by
    rw [hp]
    exact seg_low hf
  refine decode_encode (pack_word hp hf rfl) (by rw [ho]; decide) ?_ hw
  rw [candidate, ho]
  show some (Instr.vperm (getF (Instr.bits (.vperm d t b a p)) 10 5) (getF (Instr.bits (.vperm d t b a p)) 28 4) (getF (Instr.bits (.vperm d t b a p)) 22 5) (getF (Instr.bits (.vperm d t b a p)) 16 5) (getF (Instr.bits (.vperm d t b a p)) 38 6)) = _
  refine congrArg some ?_
  congr 1
  · exact field hp hf 2 rfl rfl
  · exact field hp hf 8 rfl rfl
  · exact field hp hf 6 rfl rfl
  · exact field hp hf 4 rfl rfl
  · exact field hp hf 10 rfl rfl
theorem vslide (d : BitVec 5) (t : BitVec 4) (b : BitVec 6) (a : BitVec 5) (up : BitVec 1) (p : BitVec 6) : Statement (.vslide d t b a up p) := by
  refine ⟨fun _ _ hw => ?_, fun _ h => nomatch h⟩
  have h_d := d.isLt
  have h_t := t.isLt
  have h_b := b.isLt
  have h_a := a.isLt
  have h_up := up.isLt
  have h_p := p.isLt
  have hn : Instr.bits (.vslide d t b a up p) = 0x2a8 + putF 10 d + putF 28 t + putF 22 b + putF 16 a + putF 44 up + putF 38 p := rfl
  have hf : Fits [(8, 168), (2, 2), (5, d.toNat), (1, 0), (5, a.toNat), (1, 0), (6, b.toNat), (4, t.toNat), (6, 0), (6, p.toNat), (1, up.toNat), (19, 0)] := ⟨by decide, by decide, h_d, by decide, h_a, by decide, h_b, h_t, by decide, h_p, h_up, by decide, trivial⟩
  have hp : Instr.bits (.vslide d t b a up p) = pack [(8, 168), (2, 2), (5, d.toNat), (1, 0), (5, a.toNat), (1, 0), (6, b.toNat), (4, t.toNat), (6, 0), (6, p.toNat), (1, up.toNat), (19, 0)] := by
    rw [hn]
    simp only [putF, pack]
    omega
  have ho : Instr.bits (.vslide d t b a up p) % 256 = 0xa8 := by
    rw [hp]
    exact seg_low hf
  refine decode_encode (pack_word hp hf rfl) (by rw [ho]; decide) ?_ hw
  rw [candidate, ho]
  show some (Instr.vslide (getF (Instr.bits (.vslide d t b a up p)) 10 5) (getF (Instr.bits (.vslide d t b a up p)) 28 4) (getF (Instr.bits (.vslide d t b a up p)) 22 6) (getF (Instr.bits (.vslide d t b a up p)) 16 5) (getF (Instr.bits (.vslide d t b a up p)) 44 1) (getF (Instr.bits (.vslide d t b a up p)) 38 6)) = _
  refine congrArg some ?_
  congr 1
  · exact field hp hf 2 rfl rfl
  · exact field hp hf 7 rfl rfl
  · exact field hp hf 6 rfl rfl
  · exact field hp hf 4 rfl rfl
  · exact field hp hf 10 rfl rfl
  · exact field hp hf 9 rfl rfl
theorem fadd (d : BitVec 5) (t : BitVec 2) (b : BitVec 5) (a : BitVec 5) (rm : BitVec 3) (p : BitVec 6) : Statement (.fadd d t b a rm p) := by
  refine ⟨fun _ _ hw => ?_, fun _ h => nomatch h⟩
  have h_d := d.isLt
  have h_t := t.isLt
  have h_b := b.isLt
  have h_a := a.isLt
  have h_rm := rm.isLt
  have h_p := p.isLt
  have hn : Instr.bits (.fadd d t b a rm p) = 0x800002a9 + putF 10 d + putF 28 t + putF 22 b + putF 16 a + putF 44 rm + putF 38 p := rfl
  have hf : Fits [(8, 169), (2, 2), (5, d.toNat), (1, 0), (5, a.toNat), (1, 0), (5, b.toNat), (1, 0), (2, t.toNat), (8, 2), (6, p.toNat), (3, rm.toNat), (17, 0)] := ⟨by decide, by decide, h_d, by decide, h_a, by decide, h_b, by decide, h_t, by decide, h_p, h_rm, by decide, trivial⟩
  have hp : Instr.bits (.fadd d t b a rm p) = pack [(8, 169), (2, 2), (5, d.toNat), (1, 0), (5, a.toNat), (1, 0), (5, b.toNat), (1, 0), (2, t.toNat), (8, 2), (6, p.toNat), (3, rm.toNat), (17, 0)] := by
    rw [hn]
    simp only [putF, pack]
    omega
  have ho : Instr.bits (.fadd d t b a rm p) % 256 = 0xa9 := by
    rw [hp]
    exact seg_low hf
  refine decode_encode (pack_word hp hf rfl) (by rw [ho]; decide) ?_ hw
  rw [candidate, ho]
  show some (Instr.fadd (getF (Instr.bits (.fadd d t b a rm p)) 10 5) (getF (Instr.bits (.fadd d t b a rm p)) 28 2) (getF (Instr.bits (.fadd d t b a rm p)) 22 5) (getF (Instr.bits (.fadd d t b a rm p)) 16 5) (getF (Instr.bits (.fadd d t b a rm p)) 44 3) (getF (Instr.bits (.fadd d t b a rm p)) 38 6)) = _
  refine congrArg some ?_
  congr 1
  · exact field hp hf 2 rfl rfl
  · exact field hp hf 8 rfl rfl
  · exact field hp hf 6 rfl rfl
  · exact field hp hf 4 rfl rfl
  · exact field hp hf 11 rfl rfl
  · exact field hp hf 10 rfl rfl
theorem fsub (d : BitVec 5) (t : BitVec 2) (b : BitVec 5) (a : BitVec 5) (rm : BitVec 3) (p : BitVec 6) : Statement (.fsub d t b a rm p) := by
  refine ⟨fun _ _ hw => ?_, fun _ h => nomatch h⟩
  have h_d := d.isLt
  have h_t := t.isLt
  have h_b := b.isLt
  have h_a := a.isLt
  have h_rm := rm.isLt
  have h_p := p.isLt
  have hn : Instr.bits (.fsub d t b a rm p) = 0x800002aa + putF 10 d + putF 28 t + putF 22 b + putF 16 a + putF 44 rm + putF 38 p := rfl
  have hf : Fits [(8, 170), (2, 2), (5, d.toNat), (1, 0), (5, a.toNat), (1, 0), (5, b.toNat), (1, 0), (2, t.toNat), (8, 2), (6, p.toNat), (3, rm.toNat), (17, 0)] := ⟨by decide, by decide, h_d, by decide, h_a, by decide, h_b, by decide, h_t, by decide, h_p, h_rm, by decide, trivial⟩
  have hp : Instr.bits (.fsub d t b a rm p) = pack [(8, 170), (2, 2), (5, d.toNat), (1, 0), (5, a.toNat), (1, 0), (5, b.toNat), (1, 0), (2, t.toNat), (8, 2), (6, p.toNat), (3, rm.toNat), (17, 0)] := by
    rw [hn]
    simp only [putF, pack]
    omega
  have ho : Instr.bits (.fsub d t b a rm p) % 256 = 0xaa := by
    rw [hp]
    exact seg_low hf
  refine decode_encode (pack_word hp hf rfl) (by rw [ho]; decide) ?_ hw
  rw [candidate, ho]
  show some (Instr.fsub (getF (Instr.bits (.fsub d t b a rm p)) 10 5) (getF (Instr.bits (.fsub d t b a rm p)) 28 2) (getF (Instr.bits (.fsub d t b a rm p)) 22 5) (getF (Instr.bits (.fsub d t b a rm p)) 16 5) (getF (Instr.bits (.fsub d t b a rm p)) 44 3) (getF (Instr.bits (.fsub d t b a rm p)) 38 6)) = _
  refine congrArg some ?_
  congr 1
  · exact field hp hf 2 rfl rfl
  · exact field hp hf 8 rfl rfl
  · exact field hp hf 6 rfl rfl
  · exact field hp hf 4 rfl rfl
  · exact field hp hf 11 rfl rfl
  · exact field hp hf 10 rfl rfl
theorem fmul (d : BitVec 5) (t : BitVec 2) (b : BitVec 5) (a : BitVec 5) (rm : BitVec 3) (p : BitVec 6) : Statement (.fmul d t b a rm p) := by
  refine ⟨fun _ _ hw => ?_, fun _ h => nomatch h⟩
  have h_d := d.isLt
  have h_t := t.isLt
  have h_b := b.isLt
  have h_a := a.isLt
  have h_rm := rm.isLt
  have h_p := p.isLt
  have hn : Instr.bits (.fmul d t b a rm p) = 0x800002ab + putF 10 d + putF 28 t + putF 22 b + putF 16 a + putF 44 rm + putF 38 p := rfl
  have hf : Fits [(8, 171), (2, 2), (5, d.toNat), (1, 0), (5, a.toNat), (1, 0), (5, b.toNat), (1, 0), (2, t.toNat), (8, 2), (6, p.toNat), (3, rm.toNat), (17, 0)] := ⟨by decide, by decide, h_d, by decide, h_a, by decide, h_b, by decide, h_t, by decide, h_p, h_rm, by decide, trivial⟩
  have hp : Instr.bits (.fmul d t b a rm p) = pack [(8, 171), (2, 2), (5, d.toNat), (1, 0), (5, a.toNat), (1, 0), (5, b.toNat), (1, 0), (2, t.toNat), (8, 2), (6, p.toNat), (3, rm.toNat), (17, 0)] := by
    rw [hn]
    simp only [putF, pack]
    omega
  have ho : Instr.bits (.fmul d t b a rm p) % 256 = 0xab := by
    rw [hp]
    exact seg_low hf
  refine decode_encode (pack_word hp hf rfl) (by rw [ho]; decide) ?_ hw
  rw [candidate, ho]
  show some (Instr.fmul (getF (Instr.bits (.fmul d t b a rm p)) 10 5) (getF (Instr.bits (.fmul d t b a rm p)) 28 2) (getF (Instr.bits (.fmul d t b a rm p)) 22 5) (getF (Instr.bits (.fmul d t b a rm p)) 16 5) (getF (Instr.bits (.fmul d t b a rm p)) 44 3) (getF (Instr.bits (.fmul d t b a rm p)) 38 6)) = _
  refine congrArg some ?_
  congr 1
  · exact field hp hf 2 rfl rfl
  · exact field hp hf 8 rfl rfl
  · exact field hp hf 6 rfl rfl
  · exact field hp hf 4 rfl rfl
  · exact field hp hf 11 rfl rfl
  · exact field hp hf 10 rfl rfl
theorem fma (d : BitVec 5) (t : BitVec 2) (b : BitVec 5) (a : BitVec 5) (neg : BitVec 1) (rm : BitVec 3) (p : BitVec 6) (c : BitVec 5) : Statement (.fma d t b a neg rm p c) := by
  refine ⟨fun _ _ hw => ?_, fun _ h => nomatch h⟩
  have h_d := d.isLt
  have h_t := t.isLt
  have h_b := b.isLt
  have h_a := a.isLt
  have h_neg := neg.isLt
  have h_rm := rm.isLt
  have h_p := p.isLt
  have h_c := c.isLt
  have hn : Instr.bits (.fma d t b a neg rm p c) = 0x800002ac + putF 10 d + putF 28 t + putF 22 b + putF 16 a + putF 47 neg + putF 44 rm + putF 38 p + putF 32 c := rfl
  have hf : Fits [(8, 172), (2, 2), (5, d.toNat), (1, 0), (5, a.toNat), (1, 0), (5, b.toNat), (1, 0), (2, t.toNat), (2, 2), (5, c.toNat), (1, 0), (6, p.toNat), (3, rm.toNat), (1, neg.toNat), (16, 0)] := ⟨by decide, by decide, h_d, by decide, h_a, by decide, h_b, by decide, h_t, by decide, h_c, by decide, h_p, h_rm, h_neg, by decide, trivial⟩
  have hp : Instr.bits (.fma d t b a neg rm p c) = pack [(8, 172), (2, 2), (5, d.toNat), (1, 0), (5, a.toNat), (1, 0), (5, b.toNat), (1, 0), (2, t.toNat), (2, 2), (5, c.toNat), (1, 0), (6, p.toNat), (3, rm.toNat), (1, neg.toNat), (16, 0)] := by
    rw [hn]
    simp only [putF, pack]
    omega
  have ho : Instr.bits (.fma d t b a neg rm p c) % 256 = 0xac := by
    rw [hp]
    exact seg_low hf
  refine decode_encode (pack_word hp hf rfl) (by rw [ho]; decide) ?_ hw
  rw [candidate, ho]
  show some (Instr.fma (getF (Instr.bits (.fma d t b a neg rm p c)) 10 5) (getF (Instr.bits (.fma d t b a neg rm p c)) 28 2) (getF (Instr.bits (.fma d t b a neg rm p c)) 22 5) (getF (Instr.bits (.fma d t b a neg rm p c)) 16 5) (getF (Instr.bits (.fma d t b a neg rm p c)) 47 1) (getF (Instr.bits (.fma d t b a neg rm p c)) 44 3) (getF (Instr.bits (.fma d t b a neg rm p c)) 38 6) (getF (Instr.bits (.fma d t b a neg rm p c)) 32 5)) = _
  refine congrArg some ?_
  congr 1
  · exact field hp hf 2 rfl rfl
  · exact field hp hf 8 rfl rfl
  · exact field hp hf 6 rfl rfl
  · exact field hp hf 4 rfl rfl
  · exact field hp hf 14 rfl rfl
  · exact field hp hf 13 rfl rfl
  · exact field hp hf 12 rfl rfl
  · exact field hp hf 10 rfl rfl
theorem fdiv (d : BitVec 5) (t : BitVec 2) (b : BitVec 5) (a : BitVec 5) (rm : BitVec 3) (p : BitVec 6) : Statement (.fdiv d t b a rm p) := by
  refine ⟨fun _ _ hw => ?_, fun _ h => nomatch h⟩
  have h_d := d.isLt
  have h_t := t.isLt
  have h_b := b.isLt
  have h_a := a.isLt
  have h_rm := rm.isLt
  have h_p := p.isLt
  have hn : Instr.bits (.fdiv d t b a rm p) = 0x800002ad + putF 10 d + putF 28 t + putF 22 b + putF 16 a + putF 44 rm + putF 38 p := rfl
  have hf : Fits [(8, 173), (2, 2), (5, d.toNat), (1, 0), (5, a.toNat), (1, 0), (5, b.toNat), (1, 0), (2, t.toNat), (8, 2), (6, p.toNat), (3, rm.toNat), (17, 0)] := ⟨by decide, by decide, h_d, by decide, h_a, by decide, h_b, by decide, h_t, by decide, h_p, h_rm, by decide, trivial⟩
  have hp : Instr.bits (.fdiv d t b a rm p) = pack [(8, 173), (2, 2), (5, d.toNat), (1, 0), (5, a.toNat), (1, 0), (5, b.toNat), (1, 0), (2, t.toNat), (8, 2), (6, p.toNat), (3, rm.toNat), (17, 0)] := by
    rw [hn]
    simp only [putF, pack]
    omega
  have ho : Instr.bits (.fdiv d t b a rm p) % 256 = 0xad := by
    rw [hp]
    exact seg_low hf
  refine decode_encode (pack_word hp hf rfl) (by rw [ho]; decide) ?_ hw
  rw [candidate, ho]
  show some (Instr.fdiv (getF (Instr.bits (.fdiv d t b a rm p)) 10 5) (getF (Instr.bits (.fdiv d t b a rm p)) 28 2) (getF (Instr.bits (.fdiv d t b a rm p)) 22 5) (getF (Instr.bits (.fdiv d t b a rm p)) 16 5) (getF (Instr.bits (.fdiv d t b a rm p)) 44 3) (getF (Instr.bits (.fdiv d t b a rm p)) 38 6)) = _
  refine congrArg some ?_
  congr 1
  · exact field hp hf 2 rfl rfl
  · exact field hp hf 8 rfl rfl
  · exact field hp hf 6 rfl rfl
  · exact field hp hf 4 rfl rfl
  · exact field hp hf 11 rfl rfl
  · exact field hp hf 10 rfl rfl
theorem fsqrt (d : BitVec 5) (t : BitVec 2) (a : BitVec 5) (rm : BitVec 3) (p : BitVec 6) : Statement (.fsqrt d t a rm p) := by
  refine ⟨fun _ _ hw => ?_, fun _ h => nomatch h⟩
  have h_d := d.isLt
  have h_t := t.isLt
  have h_a := a.isLt
  have h_rm := rm.isLt
  have h_p := p.isLt
  have hn : Instr.bits (.fsqrt d t a rm p) = 0x800002ae + putF 10 d + putF 28 t + putF 16 a + putF 44 rm + putF 38 p := rfl
  have hf : Fits [(8, 174), (2, 2), (5, d.toNat), (1, 0), (5, a.toNat), (7, 0), (2, t.toNat), (8, 2), (6, p.toNat), (3, rm.toNat), (17, 0)] := ⟨by decide, by decide, h_d, by decide, h_a, by decide, h_t, by decide, h_p, h_rm, by decide, trivial⟩
  have hp : Instr.bits (.fsqrt d t a rm p) = pack [(8, 174), (2, 2), (5, d.toNat), (1, 0), (5, a.toNat), (7, 0), (2, t.toNat), (8, 2), (6, p.toNat), (3, rm.toNat), (17, 0)] := by
    rw [hn]
    simp only [putF, pack]
    omega
  have ho : Instr.bits (.fsqrt d t a rm p) % 256 = 0xae := by
    rw [hp]
    exact seg_low hf
  refine decode_encode (pack_word hp hf rfl) (by rw [ho]; decide) ?_ hw
  rw [candidate, ho]
  show some (Instr.fsqrt (getF (Instr.bits (.fsqrt d t a rm p)) 10 5) (getF (Instr.bits (.fsqrt d t a rm p)) 28 2) (getF (Instr.bits (.fsqrt d t a rm p)) 16 5) (getF (Instr.bits (.fsqrt d t a rm p)) 44 3) (getF (Instr.bits (.fsqrt d t a rm p)) 38 6)) = _
  refine congrArg some ?_
  congr 1
  · exact field hp hf 2 rfl rfl
  · exact field hp hf 6 rfl rfl
  · exact field hp hf 4 rfl rfl
  · exact field hp hf 9 rfl rfl
  · exact field hp hf 8 rfl rfl
theorem fmin (d : BitVec 5) (t : BitVec 2) (b : BitVec 5) (a : BitVec 5) (p : BitVec 6) : Statement (.fmin d t b a p) := by
  refine ⟨fun _ _ hw => ?_, fun _ h => nomatch h⟩
  have h_d := d.isLt
  have h_t := t.isLt
  have h_b := b.isLt
  have h_a := a.isLt
  have h_p := p.isLt
  have hn : Instr.bits (.fmin d t b a p) = 0x800002af + putF 10 d + putF 28 t + putF 22 b + putF 16 a + putF 38 p := rfl
  have hf : Fits [(8, 175), (2, 2), (5, d.toNat), (1, 0), (5, a.toNat), (1, 0), (5, b.toNat), (1, 0), (2, t.toNat), (8, 2), (6, p.toNat), (20, 0)] := ⟨by decide, by decide, h_d, by decide, h_a, by decide, h_b, by decide, h_t, by decide, h_p, by decide, trivial⟩
  have hp : Instr.bits (.fmin d t b a p) = pack [(8, 175), (2, 2), (5, d.toNat), (1, 0), (5, a.toNat), (1, 0), (5, b.toNat), (1, 0), (2, t.toNat), (8, 2), (6, p.toNat), (20, 0)] := by
    rw [hn]
    simp only [putF, pack]
    omega
  have ho : Instr.bits (.fmin d t b a p) % 256 = 0xaf := by
    rw [hp]
    exact seg_low hf
  refine decode_encode (pack_word hp hf rfl) (by rw [ho]; decide) ?_ hw
  rw [candidate, ho]
  show some (Instr.fmin (getF (Instr.bits (.fmin d t b a p)) 10 5) (getF (Instr.bits (.fmin d t b a p)) 28 2) (getF (Instr.bits (.fmin d t b a p)) 22 5) (getF (Instr.bits (.fmin d t b a p)) 16 5) (getF (Instr.bits (.fmin d t b a p)) 38 6)) = _
  refine congrArg some ?_
  congr 1
  · exact field hp hf 2 rfl rfl
  · exact field hp hf 8 rfl rfl
  · exact field hp hf 6 rfl rfl
  · exact field hp hf 4 rfl rfl
  · exact field hp hf 10 rfl rfl
theorem fmax (d : BitVec 5) (t : BitVec 2) (b : BitVec 5) (a : BitVec 5) (p : BitVec 6) : Statement (.fmax d t b a p) := by
  refine ⟨fun _ _ hw => ?_, fun _ h => nomatch h⟩
  have h_d := d.isLt
  have h_t := t.isLt
  have h_b := b.isLt
  have h_a := a.isLt
  have h_p := p.isLt
  have hn : Instr.bits (.fmax d t b a p) = 0x800002b0 + putF 10 d + putF 28 t + putF 22 b + putF 16 a + putF 38 p := rfl
  have hf : Fits [(8, 176), (2, 2), (5, d.toNat), (1, 0), (5, a.toNat), (1, 0), (5, b.toNat), (1, 0), (2, t.toNat), (8, 2), (6, p.toNat), (20, 0)] := ⟨by decide, by decide, h_d, by decide, h_a, by decide, h_b, by decide, h_t, by decide, h_p, by decide, trivial⟩
  have hp : Instr.bits (.fmax d t b a p) = pack [(8, 176), (2, 2), (5, d.toNat), (1, 0), (5, a.toNat), (1, 0), (5, b.toNat), (1, 0), (2, t.toNat), (8, 2), (6, p.toNat), (20, 0)] := by
    rw [hn]
    simp only [putF, pack]
    omega
  have ho : Instr.bits (.fmax d t b a p) % 256 = 0xb0 := by
    rw [hp]
    exact seg_low hf
  refine decode_encode (pack_word hp hf rfl) (by rw [ho]; decide) ?_ hw
  rw [candidate, ho]
  show some (Instr.fmax (getF (Instr.bits (.fmax d t b a p)) 10 5) (getF (Instr.bits (.fmax d t b a p)) 28 2) (getF (Instr.bits (.fmax d t b a p)) 22 5) (getF (Instr.bits (.fmax d t b a p)) 16 5) (getF (Instr.bits (.fmax d t b a p)) 38 6)) = _
  refine congrArg some ?_
  congr 1
  · exact field hp hf 2 rfl rfl
  · exact field hp hf 8 rfl rfl
  · exact field hp hf 6 rfl rfl
  · exact field hp hf 4 rfl rfl
  · exact field hp hf 10 rfl rfl
theorem fcmp (d : BitVec 3) (t : BitVec 2) (b : BitVec 5) (a : BitVec 5) (p : BitVec 6) (k : BitVec 3) : Statement (.fcmp d t b a p k) := by
  refine ⟨fun _ _ hw => ?_, fun _ h => nomatch h⟩
  have h_d := d.isLt
  have h_t := t.isLt
  have h_b := b.isLt
  have h_a := a.isLt
  have h_p := p.isLt
  have h_k := k.isLt
  have hn : Instr.bits (.fcmp d t b a p k) = 0x800002b1 + putF 10 d + putF 28 t + putF 22 b + putF 16 a + putF 38 p + putF 32 k := rfl
  have hf : Fits [(8, 177), (2, 2), (3, d.toNat), (3, 0), (5, a.toNat), (1, 0), (5, b.toNat), (1, 0), (2, t.toNat), (2, 2), (3, k.toNat), (3, 0), (6, p.toNat), (20, 0)] := ⟨by decide, by decide, h_d, by decide, h_a, by decide, h_b, by decide, h_t, by decide, h_k, by decide, h_p, by decide, trivial⟩
  have hp : Instr.bits (.fcmp d t b a p k) = pack [(8, 177), (2, 2), (3, d.toNat), (3, 0), (5, a.toNat), (1, 0), (5, b.toNat), (1, 0), (2, t.toNat), (2, 2), (3, k.toNat), (3, 0), (6, p.toNat), (20, 0)] := by
    rw [hn]
    simp only [putF, pack]
    omega
  have ho : Instr.bits (.fcmp d t b a p k) % 256 = 0xb1 := by
    rw [hp]
    exact seg_low hf
  refine decode_encode (pack_word hp hf rfl) (by rw [ho]; decide) ?_ hw
  rw [candidate, ho]
  show some (Instr.fcmp (getF (Instr.bits (.fcmp d t b a p k)) 10 3) (getF (Instr.bits (.fcmp d t b a p k)) 28 2) (getF (Instr.bits (.fcmp d t b a p k)) 22 5) (getF (Instr.bits (.fcmp d t b a p k)) 16 5) (getF (Instr.bits (.fcmp d t b a p k)) 38 6) (getF (Instr.bits (.fcmp d t b a p k)) 32 3)) = _
  refine congrArg some ?_
  congr 1
  · exact field hp hf 2 rfl rfl
  · exact field hp hf 8 rfl rfl
  · exact field hp hf 6 rfl rfl
  · exact field hp hf 4 rfl rfl
  · exact field hp hf 12 rfl rfl
  · exact field hp hf 10 rfl rfl
theorem fsgn (d : BitVec 5) (t : BitVec 2) (b : BitVec 5) (a : BitVec 5) (k : BitVec 2) (p : BitVec 6) : Statement (.fsgn d t b a k p) := by
  refine ⟨fun _ _ hw => ?_, fun _ h => nomatch h⟩
  have h_d := d.isLt
  have h_t := t.isLt
  have h_b := b.isLt
  have h_a := a.isLt
  have h_k := k.isLt
  have h_p := p.isLt
  have hn : Instr.bits (.fsgn d t b a k p) = 0x800002b2 + putF 10 d + putF 28 t + putF 22 b + putF 16 a + putF 44 k + putF 38 p := rfl
  have hf : Fits [(8, 178), (2, 2), (5, d.toNat), (1, 0), (5, a.toNat), (1, 0), (5, b.toNat), (1, 0), (2, t.toNat), (8, 2), (6, p.toNat), (2, k.toNat), (18, 0)] := ⟨by decide, by decide, h_d, by decide, h_a, by decide, h_b, by decide, h_t, by decide, h_p, h_k, by decide, trivial⟩
  have hp : Instr.bits (.fsgn d t b a k p) = pack [(8, 178), (2, 2), (5, d.toNat), (1, 0), (5, a.toNat), (1, 0), (5, b.toNat), (1, 0), (2, t.toNat), (8, 2), (6, p.toNat), (2, k.toNat), (18, 0)] := by
    rw [hn]
    simp only [putF, pack]
    omega
  have ho : Instr.bits (.fsgn d t b a k p) % 256 = 0xb2 := by
    rw [hp]
    exact seg_low hf
  refine decode_encode (pack_word hp hf rfl) (by rw [ho]; decide) ?_ hw
  rw [candidate, ho]
  show some (Instr.fsgn (getF (Instr.bits (.fsgn d t b a k p)) 10 5) (getF (Instr.bits (.fsgn d t b a k p)) 28 2) (getF (Instr.bits (.fsgn d t b a k p)) 22 5) (getF (Instr.bits (.fsgn d t b a k p)) 16 5) (getF (Instr.bits (.fsgn d t b a k p)) 44 2) (getF (Instr.bits (.fsgn d t b a k p)) 38 6)) = _
  refine congrArg some ?_
  congr 1
  · exact field hp hf 2 rfl rfl
  · exact field hp hf 8 rfl rfl
  · exact field hp hf 6 rfl rfl
  · exact field hp hf 4 rfl rfl
  · exact field hp hf 11 rfl rfl
  · exact field hp hf 10 rfl rfl
theorem vred (d : BitVec 6) (t : BitVec 3) (a : BitVec 5) (k : BitVec 3) (p : BitVec 5) : Statement (.vred d t a k p) := by
  refine ⟨fun _ _ hw => ?_, fun _ h => nomatch h⟩
  have h_d := d.isLt
  have h_t := t.isLt
  have h_a := a.isLt
  have h_k := k.isLt
  have h_p := p.isLt
  have hn : Instr.bits (.vred d t a k p) = 0x2b3 + putF 10 d + putF 28 t + putF 16 a + putF 44 k + putF 38 p := rfl
  have hf : Fits [(8, 179), (2, 2), (6, d.toNat), (5, a.toNat), (7, 0), (3, t.toNat), (7, 0), (5, p.toNat), (1, 0), (3, k.toNat), (17, 0)] := ⟨by decide, by decide, h_d, h_a, by decide, h_t, by decide, h_p, by decide, h_k, by decide, trivial⟩
  have hp : Instr.bits (.vred d t a k p) = pack [(8, 179), (2, 2), (6, d.toNat), (5, a.toNat), (7, 0), (3, t.toNat), (7, 0), (5, p.toNat), (1, 0), (3, k.toNat), (17, 0)] := by
    rw [hn]
    simp only [putF, pack]
    omega
  have ho : Instr.bits (.vred d t a k p) % 256 = 0xb3 := by
    rw [hp]
    exact seg_low hf
  refine decode_encode (pack_word hp hf rfl) (by rw [ho]; decide) ?_ hw
  rw [candidate, ho]
  show some (Instr.vred (getF (Instr.bits (.vred d t a k p)) 10 6) (getF (Instr.bits (.vred d t a k p)) 28 3) (getF (Instr.bits (.vred d t a k p)) 16 5) (getF (Instr.bits (.vred d t a k p)) 44 3) (getF (Instr.bits (.vred d t a k p)) 38 5)) = _
  refine congrArg some ?_
  congr 1
  · exact field hp hf 2 rfl rfl
  · exact field hp hf 5 rfl rfl
  · exact field hp hf 3 rfl rfl
  · exact field hp hf 9 rfl rfl
  · exact field hp hf 7 rfl rfl
theorem fred (d : BitVec 6) (t : BitVec 2) (k : BitVec 2) (a : BitVec 5) (rm : BitVec 3) (p : BitVec 5) : Statement (.fred d t k a rm p) := by
  refine ⟨fun _ _ hw => ?_, fun _ h => nomatch h⟩
  have h_d := d.isLt
  have h_t := t.isLt
  have h_k := k.isLt
  have h_a := a.isLt
  have h_rm := rm.isLt
  have h_p := p.isLt
  have hn : Instr.bits (.fred d t k a rm p) = 0x800002b4 + putF 10 d + putF 28 t + putF 22 k + putF 16 a + putF 44 rm + putF 38 p := rfl
  have hf : Fits [(8, 180), (2, 2), (6, d.toNat), (5, a.toNat), (1, 0), (2, k.toNat), (4, 0), (2, t.toNat), (8, 2), (5, p.toNat), (1, 0), (3, rm.toNat), (17, 0)] := ⟨by decide, by decide, h_d, h_a, by decide, h_k, by decide, h_t, by decide, h_p, by decide, h_rm, by decide, trivial⟩
  have hp : Instr.bits (.fred d t k a rm p) = pack [(8, 180), (2, 2), (6, d.toNat), (5, a.toNat), (1, 0), (2, k.toNat), (4, 0), (2, t.toNat), (8, 2), (5, p.toNat), (1, 0), (3, rm.toNat), (17, 0)] := by
    rw [hn]
    simp only [putF, pack]
    omega
  have ho : Instr.bits (.fred d t k a rm p) % 256 = 0xb4 := by
    rw [hp]
    exact seg_low hf
  refine decode_encode (pack_word hp hf rfl) (by rw [ho]; decide) ?_ hw
  rw [candidate, ho]
  show some (Instr.fred (getF (Instr.bits (.fred d t k a rm p)) 10 6) (getF (Instr.bits (.fred d t k a rm p)) 28 2) (getF (Instr.bits (.fred d t k a rm p)) 22 2) (getF (Instr.bits (.fred d t k a rm p)) 16 5) (getF (Instr.bits (.fred d t k a rm p)) 44 3) (getF (Instr.bits (.fred d t k a rm p)) 38 5)) = _
  refine congrArg some ?_
  congr 1
  · exact field hp hf 2 rfl rfl
  · exact field hp hf 7 rfl rfl
  · exact field hp hf 5 rfl rfl
  · exact field hp hf 3 rfl rfl
  · exact field hp hf 11 rfl rfl
  · exact field hp hf 9 rfl rfl
theorem fdot (d : BitVec 6) (t : BitVec 2) (b : BitVec 5) (a : BitVec 5) (rm : BitVec 3) (p : BitVec 5) : Statement (.fdot d t b a rm p) := by
  refine ⟨fun _ _ hw => ?_, fun _ h => nomatch h⟩
  have h_d := d.isLt
  have h_t := t.isLt
  have h_b := b.isLt
  have h_a := a.isLt
  have h_rm := rm.isLt
  have h_p := p.isLt
  have hn : Instr.bits (.fdot d t b a rm p) = 0x800002b5 + putF 10 d + putF 28 t + putF 22 b + putF 16 a + putF 44 rm + putF 38 p := rfl
  have hf : Fits [(8, 181), (2, 2), (6, d.toNat), (5, a.toNat), (1, 0), (5, b.toNat), (1, 0), (2, t.toNat), (8, 2), (5, p.toNat), (1, 0), (3, rm.toNat), (17, 0)] := ⟨by decide, by decide, h_d, h_a, by decide, h_b, by decide, h_t, by decide, h_p, by decide, h_rm, by decide, trivial⟩
  have hp : Instr.bits (.fdot d t b a rm p) = pack [(8, 181), (2, 2), (6, d.toNat), (5, a.toNat), (1, 0), (5, b.toNat), (1, 0), (2, t.toNat), (8, 2), (5, p.toNat), (1, 0), (3, rm.toNat), (17, 0)] := by
    rw [hn]
    simp only [putF, pack]
    omega
  have ho : Instr.bits (.fdot d t b a rm p) % 256 = 0xb5 := by
    rw [hp]
    exact seg_low hf
  refine decode_encode (pack_word hp hf rfl) (by rw [ho]; decide) ?_ hw
  rw [candidate, ho]
  show some (Instr.fdot (getF (Instr.bits (.fdot d t b a rm p)) 10 6) (getF (Instr.bits (.fdot d t b a rm p)) 28 2) (getF (Instr.bits (.fdot d t b a rm p)) 22 5) (getF (Instr.bits (.fdot d t b a rm p)) 16 5) (getF (Instr.bits (.fdot d t b a rm p)) 44 3) (getF (Instr.bits (.fdot d t b a rm p)) 38 5)) = _
  refine congrArg some ?_
  congr 1
  · exact field hp hf 2 rfl rfl
  · exact field hp hf 7 rfl rfl
  · exact field hp hf 5 rfl rfl
  · exact field hp hf 3 rfl rfl
  · exact field hp hf 11 rfl rfl
  · exact field hp hf 9 rfl rfl
theorem fexp (d : BitVec 5) (t : BitVec 2) (a : BitVec 5) (rm : BitVec 3) (p : BitVec 6) : Statement (.fexp d t a rm p) := by
  refine ⟨fun _ _ hw => ?_, fun _ h => nomatch h⟩
  have h_d := d.isLt
  have h_t := t.isLt
  have h_a := a.isLt
  have h_rm := rm.isLt
  have h_p := p.isLt
  have hn : Instr.bits (.fexp d t a rm p) = 0x800002b6 + putF 10 d + putF 28 t + putF 16 a + putF 44 rm + putF 38 p := rfl
  have hf : Fits [(8, 182), (2, 2), (5, d.toNat), (1, 0), (5, a.toNat), (7, 0), (2, t.toNat), (8, 2), (6, p.toNat), (3, rm.toNat), (17, 0)] := ⟨by decide, by decide, h_d, by decide, h_a, by decide, h_t, by decide, h_p, h_rm, by decide, trivial⟩
  have hp : Instr.bits (.fexp d t a rm p) = pack [(8, 182), (2, 2), (5, d.toNat), (1, 0), (5, a.toNat), (7, 0), (2, t.toNat), (8, 2), (6, p.toNat), (3, rm.toNat), (17, 0)] := by
    rw [hn]
    simp only [putF, pack]
    omega
  have ho : Instr.bits (.fexp d t a rm p) % 256 = 0xb6 := by
    rw [hp]
    exact seg_low hf
  refine decode_encode (pack_word hp hf rfl) (by rw [ho]; decide) ?_ hw
  rw [candidate, ho]
  show some (Instr.fexp (getF (Instr.bits (.fexp d t a rm p)) 10 5) (getF (Instr.bits (.fexp d t a rm p)) 28 2) (getF (Instr.bits (.fexp d t a rm p)) 16 5) (getF (Instr.bits (.fexp d t a rm p)) 44 3) (getF (Instr.bits (.fexp d t a rm p)) 38 6)) = _
  refine congrArg some ?_
  congr 1
  · exact field hp hf 2 rfl rfl
  · exact field hp hf 6 rfl rfl
  · exact field hp hf 4 rfl rfl
  · exact field hp hf 9 rfl rfl
  · exact field hp hf 8 rfl rfl
theorem flog (d : BitVec 5) (t : BitVec 2) (a : BitVec 5) (rm : BitVec 3) (p : BitVec 6) : Statement (.flog d t a rm p) := by
  refine ⟨fun _ _ hw => ?_, fun _ h => nomatch h⟩
  have h_d := d.isLt
  have h_t := t.isLt
  have h_a := a.isLt
  have h_rm := rm.isLt
  have h_p := p.isLt
  have hn : Instr.bits (.flog d t a rm p) = 0x800002b7 + putF 10 d + putF 28 t + putF 16 a + putF 44 rm + putF 38 p := rfl
  have hf : Fits [(8, 183), (2, 2), (5, d.toNat), (1, 0), (5, a.toNat), (7, 0), (2, t.toNat), (8, 2), (6, p.toNat), (3, rm.toNat), (17, 0)] := ⟨by decide, by decide, h_d, by decide, h_a, by decide, h_t, by decide, h_p, h_rm, by decide, trivial⟩
  have hp : Instr.bits (.flog d t a rm p) = pack [(8, 183), (2, 2), (5, d.toNat), (1, 0), (5, a.toNat), (7, 0), (2, t.toNat), (8, 2), (6, p.toNat), (3, rm.toNat), (17, 0)] := by
    rw [hn]
    simp only [putF, pack]
    omega
  have ho : Instr.bits (.flog d t a rm p) % 256 = 0xb7 := by
    rw [hp]
    exact seg_low hf
  refine decode_encode (pack_word hp hf rfl) (by rw [ho]; decide) ?_ hw
  rw [candidate, ho]
  show some (Instr.flog (getF (Instr.bits (.flog d t a rm p)) 10 5) (getF (Instr.bits (.flog d t a rm p)) 28 2) (getF (Instr.bits (.flog d t a rm p)) 16 5) (getF (Instr.bits (.flog d t a rm p)) 44 3) (getF (Instr.bits (.flog d t a rm p)) 38 6)) = _
  refine congrArg some ?_
  congr 1
  · exact field hp hf 2 rfl rfl
  · exact field hp hf 6 rfl rfl
  · exact field hp hf 4 rfl rfl
  · exact field hp hf 9 rfl rfl
  · exact field hp hf 8 rfl rfl
theorem frcp (d : BitVec 5) (t : BitVec 2) (a : BitVec 5) (rm : BitVec 3) (p : BitVec 6) : Statement (.frcp d t a rm p) := by
  refine ⟨fun _ _ hw => ?_, fun _ h => nomatch h⟩
  have h_d := d.isLt
  have h_t := t.isLt
  have h_a := a.isLt
  have h_rm := rm.isLt
  have h_p := p.isLt
  have hn : Instr.bits (.frcp d t a rm p) = 0x800002b8 + putF 10 d + putF 28 t + putF 16 a + putF 44 rm + putF 38 p := rfl
  have hf : Fits [(8, 184), (2, 2), (5, d.toNat), (1, 0), (5, a.toNat), (7, 0), (2, t.toNat), (8, 2), (6, p.toNat), (3, rm.toNat), (17, 0)] := ⟨by decide, by decide, h_d, by decide, h_a, by decide, h_t, by decide, h_p, h_rm, by decide, trivial⟩
  have hp : Instr.bits (.frcp d t a rm p) = pack [(8, 184), (2, 2), (5, d.toNat), (1, 0), (5, a.toNat), (7, 0), (2, t.toNat), (8, 2), (6, p.toNat), (3, rm.toNat), (17, 0)] := by
    rw [hn]
    simp only [putF, pack]
    omega
  have ho : Instr.bits (.frcp d t a rm p) % 256 = 0xb8 := by
    rw [hp]
    exact seg_low hf
  refine decode_encode (pack_word hp hf rfl) (by rw [ho]; decide) ?_ hw
  rw [candidate, ho]
  show some (Instr.frcp (getF (Instr.bits (.frcp d t a rm p)) 10 5) (getF (Instr.bits (.frcp d t a rm p)) 28 2) (getF (Instr.bits (.frcp d t a rm p)) 16 5) (getF (Instr.bits (.frcp d t a rm p)) 44 3) (getF (Instr.bits (.frcp d t a rm p)) 38 6)) = _
  refine congrArg some ?_
  congr 1
  · exact field hp hf 2 rfl rfl
  · exact field hp hf 6 rfl rfl
  · exact field hp hf 4 rfl rfl
  · exact field hp hf 9 rfl rfl
  · exact field hp hf 8 rfl rfl
theorem frsq (d : BitVec 5) (t : BitVec 2) (a : BitVec 5) (rm : BitVec 3) (p : BitVec 6) : Statement (.frsq d t a rm p) := by
  refine ⟨fun _ _ hw => ?_, fun _ h => nomatch h⟩
  have h_d := d.isLt
  have h_t := t.isLt
  have h_a := a.isLt
  have h_rm := rm.isLt
  have h_p := p.isLt
  have hn : Instr.bits (.frsq d t a rm p) = 0x800002b9 + putF 10 d + putF 28 t + putF 16 a + putF 44 rm + putF 38 p := rfl
  have hf : Fits [(8, 185), (2, 2), (5, d.toNat), (1, 0), (5, a.toNat), (7, 0), (2, t.toNat), (8, 2), (6, p.toNat), (3, rm.toNat), (17, 0)] := ⟨by decide, by decide, h_d, by decide, h_a, by decide, h_t, by decide, h_p, h_rm, by decide, trivial⟩
  have hp : Instr.bits (.frsq d t a rm p) = pack [(8, 185), (2, 2), (5, d.toNat), (1, 0), (5, a.toNat), (7, 0), (2, t.toNat), (8, 2), (6, p.toNat), (3, rm.toNat), (17, 0)] := by
    rw [hn]
    simp only [putF, pack]
    omega
  have ho : Instr.bits (.frsq d t a rm p) % 256 = 0xb9 := by
    rw [hp]
    exact seg_low hf
  refine decode_encode (pack_word hp hf rfl) (by rw [ho]; decide) ?_ hw
  rw [candidate, ho]
  show some (Instr.frsq (getF (Instr.bits (.frsq d t a rm p)) 10 5) (getF (Instr.bits (.frsq d t a rm p)) 28 2) (getF (Instr.bits (.frsq d t a rm p)) 16 5) (getF (Instr.bits (.frsq d t a rm p)) 44 3) (getF (Instr.bits (.frsq d t a rm p)) 38 6)) = _
  refine congrArg some ?_
  congr 1
  · exact field hp hf 2 rfl rfl
  · exact field hp hf 6 rfl rfl
  · exact field hp hf 4 rfl rfl
  · exact field hp hf 9 rfl rfl
  · exact field hp hf 8 rfl rfl
theorem fsin (d : BitVec 5) (t : BitVec 2) (a : BitVec 5) (rm : BitVec 3) (p : BitVec 6) : Statement (.fsin d t a rm p) := by
  refine ⟨fun _ _ hw => ?_, fun _ h => nomatch h⟩
  have h_d := d.isLt
  have h_t := t.isLt
  have h_a := a.isLt
  have h_rm := rm.isLt
  have h_p := p.isLt
  have hn : Instr.bits (.fsin d t a rm p) = 0x800002ba + putF 10 d + putF 28 t + putF 16 a + putF 44 rm + putF 38 p := rfl
  have hf : Fits [(8, 186), (2, 2), (5, d.toNat), (1, 0), (5, a.toNat), (7, 0), (2, t.toNat), (8, 2), (6, p.toNat), (3, rm.toNat), (17, 0)] := ⟨by decide, by decide, h_d, by decide, h_a, by decide, h_t, by decide, h_p, h_rm, by decide, trivial⟩
  have hp : Instr.bits (.fsin d t a rm p) = pack [(8, 186), (2, 2), (5, d.toNat), (1, 0), (5, a.toNat), (7, 0), (2, t.toNat), (8, 2), (6, p.toNat), (3, rm.toNat), (17, 0)] := by
    rw [hn]
    simp only [putF, pack]
    omega
  have ho : Instr.bits (.fsin d t a rm p) % 256 = 0xba := by
    rw [hp]
    exact seg_low hf
  refine decode_encode (pack_word hp hf rfl) (by rw [ho]; decide) ?_ hw
  rw [candidate, ho]
  show some (Instr.fsin (getF (Instr.bits (.fsin d t a rm p)) 10 5) (getF (Instr.bits (.fsin d t a rm p)) 28 2) (getF (Instr.bits (.fsin d t a rm p)) 16 5) (getF (Instr.bits (.fsin d t a rm p)) 44 3) (getF (Instr.bits (.fsin d t a rm p)) 38 6)) = _
  refine congrArg some ?_
  congr 1
  · exact field hp hf 2 rfl rfl
  · exact field hp hf 6 rfl rfl
  · exact field hp hf 4 rfl rfl
  · exact field hp hf 9 rfl rfl
  · exact field hp hf 8 rfl rfl
theorem fcos (d : BitVec 5) (t : BitVec 2) (a : BitVec 5) (rm : BitVec 3) (p : BitVec 6) : Statement (.fcos d t a rm p) := by
  refine ⟨fun _ _ hw => ?_, fun _ h => nomatch h⟩
  have h_d := d.isLt
  have h_t := t.isLt
  have h_a := a.isLt
  have h_rm := rm.isLt
  have h_p := p.isLt
  have hn : Instr.bits (.fcos d t a rm p) = 0x800002bb + putF 10 d + putF 28 t + putF 16 a + putF 44 rm + putF 38 p := rfl
  have hf : Fits [(8, 187), (2, 2), (5, d.toNat), (1, 0), (5, a.toNat), (7, 0), (2, t.toNat), (8, 2), (6, p.toNat), (3, rm.toNat), (17, 0)] := ⟨by decide, by decide, h_d, by decide, h_a, by decide, h_t, by decide, h_p, h_rm, by decide, trivial⟩
  have hp : Instr.bits (.fcos d t a rm p) = pack [(8, 187), (2, 2), (5, d.toNat), (1, 0), (5, a.toNat), (7, 0), (2, t.toNat), (8, 2), (6, p.toNat), (3, rm.toNat), (17, 0)] := by
    rw [hn]
    simp only [putF, pack]
    omega
  have ho : Instr.bits (.fcos d t a rm p) % 256 = 0xbb := by
    rw [hp]
    exact seg_low hf
  refine decode_encode (pack_word hp hf rfl) (by rw [ho]; decide) ?_ hw
  rw [candidate, ho]
  show some (Instr.fcos (getF (Instr.bits (.fcos d t a rm p)) 10 5) (getF (Instr.bits (.fcos d t a rm p)) 28 2) (getF (Instr.bits (.fcos d t a rm p)) 16 5) (getF (Instr.bits (.fcos d t a rm p)) 44 3) (getF (Instr.bits (.fcos d t a rm p)) 38 6)) = _
  refine congrArg some ?_
  congr 1
  · exact field hp hf 2 rfl rfl
  · exact field hp hf 6 rfl rfl
  · exact field hp hf 4 rfl rfl
  · exact field hp hf 9 rfl rfl
  · exact field hp hf 8 rfl rfl
theorem ftanh (d : BitVec 5) (t : BitVec 2) (a : BitVec 5) (rm : BitVec 3) (p : BitVec 6) : Statement (.ftanh d t a rm p) := by
  refine ⟨fun _ _ hw => ?_, fun _ h => nomatch h⟩
  have h_d := d.isLt
  have h_t := t.isLt
  have h_a := a.isLt
  have h_rm := rm.isLt
  have h_p := p.isLt
  have hn : Instr.bits (.ftanh d t a rm p) = 0x800002bc + putF 10 d + putF 28 t + putF 16 a + putF 44 rm + putF 38 p := rfl
  have hf : Fits [(8, 188), (2, 2), (5, d.toNat), (1, 0), (5, a.toNat), (7, 0), (2, t.toNat), (8, 2), (6, p.toNat), (3, rm.toNat), (17, 0)] := ⟨by decide, by decide, h_d, by decide, h_a, by decide, h_t, by decide, h_p, h_rm, by decide, trivial⟩
  have hp : Instr.bits (.ftanh d t a rm p) = pack [(8, 188), (2, 2), (5, d.toNat), (1, 0), (5, a.toNat), (7, 0), (2, t.toNat), (8, 2), (6, p.toNat), (3, rm.toNat), (17, 0)] := by
    rw [hn]
    simp only [putF, pack]
    omega
  have ho : Instr.bits (.ftanh d t a rm p) % 256 = 0xbc := by
    rw [hp]
    exact seg_low hf
  refine decode_encode (pack_word hp hf rfl) (by rw [ho]; decide) ?_ hw
  rw [candidate, ho]
  show some (Instr.ftanh (getF (Instr.bits (.ftanh d t a rm p)) 10 5) (getF (Instr.bits (.ftanh d t a rm p)) 28 2) (getF (Instr.bits (.ftanh d t a rm p)) 16 5) (getF (Instr.bits (.ftanh d t a rm p)) 44 3) (getF (Instr.bits (.ftanh d t a rm p)) 38 6)) = _
  refine congrArg some ?_
  congr 1
  · exact field hp hf 2 rfl rfl
  · exact field hp hf 6 rfl rfl
  · exact field hp hf 4 rfl rfl
  · exact field hp hf 9 rfl rfl
  · exact field hp hf 8 rfl rfl
theorem topn (d : BitVec 5) (t : BitVec 4) (a : BitVec 5) (p : BitVec 5) (c : BitVec 5) (lo : BitVec 1) (n : BitVec 9) : Statement (.topn d t a p c lo n) := by
  refine ⟨fun _ _ hw => ?_, fun _ h => nomatch h⟩
  have h_d := d.isLt
  have h_t := t.isLt
  have h_a := a.isLt
  have h_p := p.isLt
  have h_c := c.isLt
  have h_lo := lo.isLt
  have h_n := n.isLt
  have hn : Instr.bits (.topn d t a p c lo n) = 0x3bd + putF 10 d + putF 28 t + putF 16 a + putF 38 p + putF 32 c + putF 57 lo + putF 48 n := rfl
  have hf : Fits [(8, 189), (2, 3), (5, d.toNat), (1, 0), (5, a.toNat), (7, 0), (4, t.toNat), (5, c.toNat), (1, 0), (5, p.toNat), (5, 0), (9, n.toNat), (1, lo.toNat), (6, 0)] := ⟨by decide, by decide, h_d, by decide, h_a, by decide, h_t, h_c, by decide, h_p, by decide, h_n, h_lo, by decide, trivial⟩
  have hp : Instr.bits (.topn d t a p c lo n) = pack [(8, 189), (2, 3), (5, d.toNat), (1, 0), (5, a.toNat), (7, 0), (4, t.toNat), (5, c.toNat), (1, 0), (5, p.toNat), (5, 0), (9, n.toNat), (1, lo.toNat), (6, 0)] := by
    rw [hn]
    simp only [putF, pack]
    omega
  have ho : Instr.bits (.topn d t a p c lo n) % 256 = 0xbd := by
    rw [hp]
    exact seg_low hf
  refine decode_encode (pack_word hp hf rfl) (by rw [ho]; decide) ?_ hw
  rw [candidate, ho]
  show some (Instr.topn (getF (Instr.bits (.topn d t a p c lo n)) 10 5) (getF (Instr.bits (.topn d t a p c lo n)) 28 4) (getF (Instr.bits (.topn d t a p c lo n)) 16 5) (getF (Instr.bits (.topn d t a p c lo n)) 38 5) (getF (Instr.bits (.topn d t a p c lo n)) 32 5) (getF (Instr.bits (.topn d t a p c lo n)) 57 1) (getF (Instr.bits (.topn d t a p c lo n)) 48 9)) = _
  refine congrArg some ?_
  congr 1
  · exact field hp hf 2 rfl rfl
  · exact field hp hf 6 rfl rfl
  · exact field hp hf 4 rfl rfl
  · exact field hp hf 9 rfl rfl
  · exact field hp hf 7 rfl rfl
  · exact field hp hf 12 rfl rfl
  · exact field hp hf 11 rfl rfl
theorem rng (d : BitVec 5) (b : BitVec 6) (a : BitVec 6) (sp : BitVec 2) (c : BitVec 6) : Statement (.rng d b a sp c) := by
  refine ⟨fun _ _ hw => ?_, fun _ h => nomatch h⟩
  have h_d := d.isLt
  have h_b := b.isLt
  have h_a := a.isLt
  have h_sp := sp.isLt
  have h_c := c.isLt
  have hn : Instr.bits (.rng d b a sp c) = 0x2be + putF 10 d + putF 22 b + putF 16 a + putF 38 sp + putF 32 c := rfl
  have hf : Fits [(8, 190), (2, 2), (5, d.toNat), (1, 0), (6, a.toNat), (6, b.toNat), (4, 0), (6, c.toNat), (2, sp.toNat), (24, 0)] := ⟨by decide, by decide, h_d, by decide, h_a, h_b, by decide, h_c, h_sp, by decide, trivial⟩
  have hp : Instr.bits (.rng d b a sp c) = pack [(8, 190), (2, 2), (5, d.toNat), (1, 0), (6, a.toNat), (6, b.toNat), (4, 0), (6, c.toNat), (2, sp.toNat), (24, 0)] := by
    rw [hn]
    simp only [putF, pack]
    omega
  have ho : Instr.bits (.rng d b a sp c) % 256 = 0xbe := by
    rw [hp]
    exact seg_low hf
  refine decode_encode (pack_word hp hf rfl) (by rw [ho]; decide) ?_ hw
  rw [candidate, ho]
  show some (Instr.rng (getF (Instr.bits (.rng d b a sp c)) 10 5) (getF (Instr.bits (.rng d b a sp c)) 22 6) (getF (Instr.bits (.rng d b a sp c)) 16 6) (getF (Instr.bits (.rng d b a sp c)) 38 2) (getF (Instr.bits (.rng d b a sp c)) 32 6)) = _
  refine congrArg some ?_
  congr 1
  · exact field hp hf 2 rfl rfl
  · exact field hp hf 5 rfl rfl
  · exact field hp hf 4 rfl rfl
  · exact field hp hf 8 rfl rfl
  · exact field hp hf 7 rfl rfl
theorem vext (d : BitVec 6) (t : BitVec 4) (b : BitVec 6) (a : BitVec 5) (p : BitVec 5) : Statement (.vext d t b a p) := by
  refine ⟨fun _ _ hw => ?_, fun _ h => nomatch h⟩
  have h_d := d.isLt
  have h_t := t.isLt
  have h_b := b.isLt
  have h_a := a.isLt
  have h_p := p.isLt
  have hn : Instr.bits (.vext d t b a p) = 0x2bf + putF 10 d + putF 28 t + putF 22 b + putF 16 a + putF 38 p := rfl
  have hf : Fits [(8, 191), (2, 2), (6, d.toNat), (5, a.toNat), (1, 0), (6, b.toNat), (4, t.toNat), (6, 0), (5, p.toNat), (21, 0)] := ⟨by decide, by decide, h_d, h_a, by decide, h_b, h_t, by decide, h_p, by decide, trivial⟩
  have hp : Instr.bits (.vext d t b a p) = pack [(8, 191), (2, 2), (6, d.toNat), (5, a.toNat), (1, 0), (6, b.toNat), (4, t.toNat), (6, 0), (5, p.toNat), (21, 0)] := by
    rw [hn]
    simp only [putF, pack]
    omega
  have ho : Instr.bits (.vext d t b a p) % 256 = 0xbf := by
    rw [hp]
    exact seg_low hf
  refine decode_encode (pack_word hp hf rfl) (by rw [ho]; decide) ?_ hw
  rw [candidate, ho]
  show some (Instr.vext (getF (Instr.bits (.vext d t b a p)) 10 6) (getF (Instr.bits (.vext d t b a p)) 28 4) (getF (Instr.bits (.vext d t b a p)) 22 6) (getF (Instr.bits (.vext d t b a p)) 16 5) (getF (Instr.bits (.vext d t b a p)) 38 5)) = _
  refine congrArg some ?_
  congr 1
  · exact field hp hf 2 rfl rfl
  · exact field hp hf 6 rfl rfl
  · exact field hp hf 5 rfl rfl
  · exact field hp hf 3 rfl rfl
  · exact field hp hf 8 rfl rfl
theorem mzero (d : BitVec 4) (f : BitVec 1) : Statement (.mzero d f) := by
  refine ⟨fun _ _ hw => ?_, fun _ h => nomatch h⟩
  have h_d := d.isLt
  have h_f := f.isLt
  have hn : Instr.bits (.mzero d f) = 0x800003c0 + putF 10 d + putF 28 f := rfl
  have hf : Fits [(8, 192), (2, 3), (4, d.toNat), (14, 0), (1, f.toNat), (35, 4)] := ⟨by decide, by decide, h_d, by decide, h_f, by decide, trivial⟩
  have hp : Instr.bits (.mzero d f) = pack [(8, 192), (2, 3), (4, d.toNat), (14, 0), (1, f.toNat), (35, 4)] := by
    rw [hn]
    simp only [putF, pack]
    omega
  have ho : Instr.bits (.mzero d f) % 256 = 0xc0 := by
    rw [hp]
    exact seg_low hf
  refine decode_encode (pack_word hp hf rfl) (by rw [ho]; decide) ?_ hw
  rw [candidate, ho]
  show some (Instr.mzero (getF (Instr.bits (.mzero d f)) 10 4) (getF (Instr.bits (.mzero d f)) 28 1)) = _
  refine congrArg some ?_
  congr 1
  · exact field hp hf 2 rfl rfl
  · exact field hp hf 4 rfl rfl
theorem mlda (d : BitVec 6) (t : BitVec 4) (b : BitVec 6) (a : BitVec 6) (disp : BitVec 16) : Statement (.mlda d t b a disp) := by
  refine ⟨fun _ _ hw => ?_, fun _ h => nomatch h⟩
  have h_d := d.isLt
  have h_t := t.isLt
  have h_b := b.isLt
  have h_a := a.isLt
  have h_disp := disp.isLt
  have hn : Instr.bits (.mlda d t b a disp) = 0x3c1 + putF 10 d + putF 28 t + putF 22 b + putF 16 a + putF 48 disp := rfl
  have hf : Fits [(8, 193), (2, 3), (6, d.toNat), (6, a.toNat), (6, b.toNat), (4, t.toNat), (16, 0), (16, disp.toNat)] := ⟨by decide, by decide, h_d, h_a, h_b, h_t, by decide, h_disp, trivial⟩
  have hp : Instr.bits (.mlda d t b a disp) = pack [(8, 193), (2, 3), (6, d.toNat), (6, a.toNat), (6, b.toNat), (4, t.toNat), (16, 0), (16, disp.toNat)] := by
    rw [hn]
    simp only [putF, pack]
    omega
  have ho : Instr.bits (.mlda d t b a disp) % 256 = 0xc1 := by
    rw [hp]
    exact seg_low hf
  refine decode_encode (pack_word hp hf rfl) (by rw [ho]; decide) ?_ hw
  rw [candidate, ho]
  show some (Instr.mlda (getF (Instr.bits (.mlda d t b a disp)) 10 6) (getF (Instr.bits (.mlda d t b a disp)) 28 4) (getF (Instr.bits (.mlda d t b a disp)) 22 6) (getF (Instr.bits (.mlda d t b a disp)) 16 6) (getF (Instr.bits (.mlda d t b a disp)) 48 16)) = _
  refine congrArg some ?_
  congr 1
  · exact field hp hf 2 rfl rfl
  · exact field hp hf 5 rfl rfl
  · exact field hp hf 4 rfl rfl
  · exact field hp hf 3 rfl rfl
  · exact field hp hf 7 rfl rfl
theorem mldb (d : BitVec 6) (t : BitVec 4) (b : BitVec 6) (a : BitVec 6) (nc : BitVec 2) (tr : BitVec 1) (disp : BitVec 16) : Statement (.mldb d t b a nc tr disp) := by
  refine ⟨fun _ _ hw => ?_, fun _ h => nomatch h⟩
  have h_d := d.isLt
  have h_t := t.isLt
  have h_b := b.isLt
  have h_a := a.isLt
  have h_nc := nc.isLt
  have h_tr := tr.isLt
  have h_disp := disp.isLt
  have hn : Instr.bits (.mldb d t b a nc tr disp) = 0x3c2 + putF 10 d + putF 28 t + putF 22 b + putF 16 a + putF 45 nc + putF 44 tr + putF 48 disp := rfl
  have hf : Fits [(8, 194), (2, 3), (6, d.toNat), (6, a.toNat), (6, b.toNat), (4, t.toNat), (12, 0), (1, tr.toNat), (2, nc.toNat), (1, 0), (16, disp.toNat)] := ⟨by decide, by decide, h_d, h_a, h_b, h_t, by decide, h_tr, h_nc, by decide, h_disp, trivial⟩
  have hp : Instr.bits (.mldb d t b a nc tr disp) = pack [(8, 194), (2, 3), (6, d.toNat), (6, a.toNat), (6, b.toNat), (4, t.toNat), (12, 0), (1, tr.toNat), (2, nc.toNat), (1, 0), (16, disp.toNat)] := by
    rw [hn]
    simp only [putF, pack]
    omega
  have ho : Instr.bits (.mldb d t b a nc tr disp) % 256 = 0xc2 := by
    rw [hp]
    exact seg_low hf
  refine decode_encode (pack_word hp hf rfl) (by rw [ho]; decide) ?_ hw
  rw [candidate, ho]
  show some (Instr.mldb (getF (Instr.bits (.mldb d t b a nc tr disp)) 10 6) (getF (Instr.bits (.mldb d t b a nc tr disp)) 28 4) (getF (Instr.bits (.mldb d t b a nc tr disp)) 22 6) (getF (Instr.bits (.mldb d t b a nc tr disp)) 16 6) (getF (Instr.bits (.mldb d t b a nc tr disp)) 45 2) (getF (Instr.bits (.mldb d t b a nc tr disp)) 44 1) (getF (Instr.bits (.mldb d t b a nc tr disp)) 48 16)) = _
  refine congrArg some ?_
  congr 1
  · exact field hp hf 2 rfl rfl
  · exact field hp hf 5 rfl rfl
  · exact field hp hf 4 rfl rfl
  · exact field hp hf 3 rfl rfl
  · exact field hp hf 8 rfl rfl
  · exact field hp hf 7 rfl rfl
  · exact field hp hf 10 rfl rfl
theorem mseed (d : BitVec 6) (a : BitVec 6) (nc : BitVec 2) : Statement (.mseed d a nc) := by
  refine ⟨fun _ _ hw => ?_, fun _ h => nomatch h⟩
  have h_d := d.isLt
  have h_a := a.isLt
  have h_nc := nc.isLt
  have hn : Instr.bits (.mseed d a nc) = 0x3c3 + putF 10 d + putF 16 a + putF 46 nc := rfl
  have hf : Fits [(8, 195), (2, 3), (6, d.toNat), (6, a.toNat), (24, 0), (2, nc.toNat), (16, 0)] := ⟨by decide, by decide, h_d, h_a, by decide, h_nc, by decide, trivial⟩
  have hp : Instr.bits (.mseed d a nc) = pack [(8, 195), (2, 3), (6, d.toNat), (6, a.toNat), (24, 0), (2, nc.toNat), (16, 0)] := by
    rw [hn]
    simp only [putF, pack]
    omega
  have ho : Instr.bits (.mseed d a nc) % 256 = 0xc3 := by
    rw [hp]
    exact seg_low hf
  refine decode_encode (pack_word hp hf rfl) (by rw [ho]; decide) ?_ hw
  rw [candidate, ho]
  show some (Instr.mseed (getF (Instr.bits (.mseed d a nc)) 10 6) (getF (Instr.bits (.mseed d a nc)) 16 6) (getF (Instr.bits (.mseed d a nc)) 46 2)) = _
  refine congrArg some ?_
  congr 1
  · exact field hp hf 2 rfl rfl
  · exact field hp hf 3 rfl rfl
  · exact field hp hf 5 rfl rfl
theorem mma (d : BitVec 4) (t : BitVec 4) (b : BitVec 6) (a : BitVec 6) (nc : BitVec 2) (ks : BitVec 2) : Statement (.mma d t b a nc ks) := by
  refine ⟨fun _ _ hw => ?_, fun _ h => nomatch h⟩
  have h_d := d.isLt
  have h_t := t.isLt
  have h_b := b.isLt
  have h_a := a.isLt
  have h_nc := nc.isLt
  have h_ks := ks.isLt
  have hn : Instr.bits (.mma d t b a nc ks) = 0x3c4 + putF 10 d + putF 28 t + putF 22 b + putF 16 a + putF 46 nc + putF 44 ks := rfl
  have hf : Fits [(8, 196), (2, 3), (4, d.toNat), (2, 0), (6, a.toNat), (6, b.toNat), (4, t.toNat), (12, 0), (2, ks.toNat), (2, nc.toNat), (16, 0)] := ⟨by decide, by decide, h_d, by decide, h_a, h_b, h_t, by decide, h_ks, h_nc, by decide, trivial⟩
  have hp : Instr.bits (.mma d t b a nc ks) = pack [(8, 196), (2, 3), (4, d.toNat), (2, 0), (6, a.toNat), (6, b.toNat), (4, t.toNat), (12, 0), (2, ks.toNat), (2, nc.toNat), (16, 0)] := by
    rw [hn]
    simp only [putF, pack]
    omega
  have ho : Instr.bits (.mma d t b a nc ks) % 256 = 0xc4 := by
    rw [hp]
    exact seg_low hf
  refine decode_encode (pack_word hp hf rfl) (by rw [ho]; decide) ?_ hw
  rw [candidate, ho]
  show some (Instr.mma (getF (Instr.bits (.mma d t b a nc ks)) 10 4) (getF (Instr.bits (.mma d t b a nc ks)) 28 4) (getF (Instr.bits (.mma d t b a nc ks)) 22 6) (getF (Instr.bits (.mma d t b a nc ks)) 16 6) (getF (Instr.bits (.mma d t b a nc ks)) 46 2) (getF (Instr.bits (.mma d t b a nc ks)) 44 2)) = _
  refine congrArg some ?_
  congr 1
  · exact field hp hf 2 rfl rfl
  · exact field hp hf 6 rfl rfl
  · exact field hp hf 5 rfl rfl
  · exact field hp hf 4 rfl rfl
  · exact field hp hf 9 rfl rfl
  · exact field hp hf 8 rfl rfl
theorem mscl (d : BitVec 4) (f : BitVec 1) (rm : BitVec 3) (c : BitVec 5) (rs : BitVec 1) (cs : BitVec 1) : Statement (.mscl d f rm c rs cs) := by
  refine ⟨fun _ _ hw => ?_, fun _ h => nomatch h⟩
  have h_d := d.isLt
  have h_f := f.isLt
  have h_rm := rm.isLt
  have h_c := c.isLt
  have h_rs := rs.isLt
  have h_cs := cs.isLt
  have hn : Instr.bits (.mscl d f rm c rs cs) = 0x800003c5 + putF 10 d + putF 28 f + putF 44 rm + putF 32 c + putF 59 rs + putF 58 cs := rfl
  have hf : Fits [(8, 197), (2, 3), (4, d.toNat), (14, 0), (1, f.toNat), (3, 4), (5, c.toNat), (7, 0), (3, rm.toNat), (11, 0), (1, cs.toNat), (1, rs.toNat), (4, 0)] := ⟨by decide, by decide, h_d, by decide, h_f, by decide, h_c, by decide, h_rm, by decide, h_cs, h_rs, by decide, trivial⟩
  have hp : Instr.bits (.mscl d f rm c rs cs) = pack [(8, 197), (2, 3), (4, d.toNat), (14, 0), (1, f.toNat), (3, 4), (5, c.toNat), (7, 0), (3, rm.toNat), (11, 0), (1, cs.toNat), (1, rs.toNat), (4, 0)] := by
    rw [hn]
    simp only [putF, pack]
    omega
  have ho : Instr.bits (.mscl d f rm c rs cs) % 256 = 0xc5 := by
    rw [hp]
    exact seg_low hf
  refine decode_encode (pack_word hp hf rfl) (by rw [ho]; decide) ?_ hw
  rw [candidate, ho]
  show some (Instr.mscl (getF (Instr.bits (.mscl d f rm c rs cs)) 10 4) (getF (Instr.bits (.mscl d f rm c rs cs)) 28 1) (getF (Instr.bits (.mscl d f rm c rs cs)) 44 3) (getF (Instr.bits (.mscl d f rm c rs cs)) 32 5) (getF (Instr.bits (.mscl d f rm c rs cs)) 59 1) (getF (Instr.bits (.mscl d f rm c rs cs)) 58 1)) = _
  refine congrArg some ?_
  congr 1
  · exact field hp hf 2 rfl rfl
  · exact field hp hf 4 rfl rfl
  · exact field hp hf 8 rfl rfl
  · exact field hp hf 6 rfl rfl
  · exact field hp hf 11 rfl rfl
  · exact field hp hf 10 rfl rfl
theorem mdrain (d : BitVec 4) (f : BitVec 1) (b : BitVec 6) (a : BitVec 6) (sat : BitVec 1) (rm : BitVec 3) (c : BitVec 5) (ot : BitVec 4) (rs : BitVec 1) (cs : BitVec 1) : Statement (.mdrain d f b a sat rm c ot rs cs) := by
  refine ⟨fun _ _ hw => ?_, fun _ h => nomatch h⟩
  have h_d := d.isLt
  have h_f := f.isLt
  have h_b := b.isLt
  have h_a := a.isLt
  have h_sat := sat.isLt
  have h_rm := rm.isLt
  have h_c := c.isLt
  have h_ot := ot.isLt
  have h_rs := rs.isLt
  have h_cs := cs.isLt
  have hn : Instr.bits (.mdrain d f b a sat rm c ot rs cs) = 0x800003c6 + putF 10 d + putF 28 f + putF 22 b + putF 16 a + putF 47 sat + putF 44 rm + putF 32 c + putF 60 ot + putF 59 rs + putF 58 cs := rfl
  have hf : Fits [(8, 198), (2, 3), (4, d.toNat), (2, 0), (6, a.toNat), (6, b.toNat), (1, f.toNat), (3, 4), (5, c.toNat), (7, 0), (3, rm.toNat), (1, sat.toNat), (10, 0), (1, cs.toNat), (1, rs.toNat), (4, ot.toNat)] := ⟨by decide, by decide, h_d, by decide, h_a, h_b, h_f, by decide, h_c, by decide, h_rm, h_sat, by decide, h_cs, h_rs, h_ot, trivial⟩
  have hp : Instr.bits (.mdrain d f b a sat rm c ot rs cs) = pack [(8, 198), (2, 3), (4, d.toNat), (2, 0), (6, a.toNat), (6, b.toNat), (1, f.toNat), (3, 4), (5, c.toNat), (7, 0), (3, rm.toNat), (1, sat.toNat), (10, 0), (1, cs.toNat), (1, rs.toNat), (4, ot.toNat)] := by
    rw [hn]
    simp only [putF, pack]
    omega
  have ho : Instr.bits (.mdrain d f b a sat rm c ot rs cs) % 256 = 0xc6 := by
    rw [hp]
    exact seg_low hf
  refine decode_encode (pack_word hp hf rfl) (by rw [ho]; decide) ?_ hw
  rw [candidate, ho]
  show some (Instr.mdrain (getF (Instr.bits (.mdrain d f b a sat rm c ot rs cs)) 10 4) (getF (Instr.bits (.mdrain d f b a sat rm c ot rs cs)) 28 1) (getF (Instr.bits (.mdrain d f b a sat rm c ot rs cs)) 22 6) (getF (Instr.bits (.mdrain d f b a sat rm c ot rs cs)) 16 6) (getF (Instr.bits (.mdrain d f b a sat rm c ot rs cs)) 47 1) (getF (Instr.bits (.mdrain d f b a sat rm c ot rs cs)) 44 3) (getF (Instr.bits (.mdrain d f b a sat rm c ot rs cs)) 32 5) (getF (Instr.bits (.mdrain d f b a sat rm c ot rs cs)) 60 4) (getF (Instr.bits (.mdrain d f b a sat rm c ot rs cs)) 59 1) (getF (Instr.bits (.mdrain d f b a sat rm c ot rs cs)) 58 1)) = _
  refine congrArg some ?_
  congr 1
  · exact field hp hf 2 rfl rfl
  · exact field hp hf 6 rfl rfl
  · exact field hp hf 5 rfl rfl
  · exact field hp hf 4 rfl rfl
  · exact field hp hf 11 rfl rfl
  · exact field hp hf 10 rfl rfl
  · exact field hp hf 8 rfl rfl
  · exact field hp hf 15 rfl rfl
  · exact field hp hf 14 rfl rfl
  · exact field hp hf 13 rfl rfl
theorem mwait (d : BitVec 6) : Statement (.mwait d) := by
  refine ⟨fun _ _ hw => ?_, fun _ h => nomatch h⟩
  have h_d := d.isLt
  have hn : Instr.bits (.mwait d) = 0x3c7 + putF 10 d := rfl
  have hf : Fits [(8, 199), (2, 3), (6, d.toNat), (48, 0)] := ⟨by decide, by decide, h_d, by decide, trivial⟩
  have hp : Instr.bits (.mwait d) = pack [(8, 199), (2, 3), (6, d.toNat), (48, 0)] := by
    rw [hn]
    simp only [putF, pack]
    omega
  have ho : Instr.bits (.mwait d) % 256 = 0xc7 := by
    rw [hp]
    exact seg_low hf
  refine decode_encode (pack_word hp hf rfl) (by rw [ho]; decide) ?_ hw
  rw [candidate, ho]
  show some (Instr.mwait (getF (Instr.bits (.mwait d)) 10 6)) = _
  refine congrArg some ?_
  congr 1
  · exact field hp hf 2 rfl rfl
theorem select_mstat (w : Nat) (h : w / 2 ^ 28 % 16 = 0) :
    candidateOf 0xc8 w = some (Instr.mstat (getF w 10 6)) := by
  simp only [candidateOf, candidateC, h]
theorem mstat (d : BitVec 6) : Statement (.mstat d) := by
  refine ⟨fun _ _ hw => ?_, fun _ h => nomatch h⟩
  have h_d := d.isLt
  have hn : Instr.bits (.mstat d) = 0x3c8 + putF 10 d := rfl
  have hf : Fits [(8, 200), (2, 3), (6, d.toNat), (12, 0), (4, 0), (32, 0)] := ⟨by decide, by decide, h_d, by decide, by decide, by decide, trivial⟩
  have hp : Instr.bits (.mstat d) = pack [(8, 200), (2, 3), (6, d.toNat), (12, 0), (4, 0), (32, 0)] := by
    rw [hn]
    simp only [putF, pack]
    omega
  have ho : Instr.bits (.mstat d) % 256 = 0xc8 := by
    rw [hp]
    exact seg_low hf
  have hs : Instr.bits (.mstat d)  / 2 ^ 28 % 16 = 0 := seg hp hf 4 rfl rfl rfl
  refine decode_encode (pack_word hp hf rfl) (by rw [ho]; decide) ?_ hw
  rw [candidate, ho, select_mstat _ hs]
  show some (Instr.mstat (getF (Instr.bits (.mstat d)) 10 6)) = _
  refine congrArg some ?_
  congr 1
  · exact field hp hf 2 rfl rfl
theorem select_mstatP (w : Nat) (h : w / 2 ^ 28 % 16 = 1) :
    candidateOf 0xc8 w = some (Instr.mstatP (getF w 10 6) (getF w 16 6)) := by
  simp only [candidateOf, candidateC, h]
theorem mstatP (d : BitVec 6) (a : BitVec 6) : Statement (.mstatP d a) := by
  refine ⟨fun _ _ hw => ?_, fun _ h => nomatch h⟩
  have h_d := d.isLt
  have h_a := a.isLt
  have hn : Instr.bits (.mstatP d a) = 0x100003c8 + putF 10 d + putF 16 a := rfl
  have hf : Fits [(8, 200), (2, 3), (6, d.toNat), (6, a.toNat), (6, 0), (4, 1), (32, 0)] := ⟨by decide, by decide, h_d, h_a, by decide, by decide, by decide, trivial⟩
  have hp : Instr.bits (.mstatP d a) = pack [(8, 200), (2, 3), (6, d.toNat), (6, a.toNat), (6, 0), (4, 1), (32, 0)] := by
    rw [hn]
    simp only [putF, pack]
    omega
  have ho : Instr.bits (.mstatP d a) % 256 = 0xc8 := by
    rw [hp]
    exact seg_low hf
  have hs : Instr.bits (.mstatP d a)  / 2 ^ 28 % 16 = 1 := seg hp hf 5 rfl rfl rfl
  refine decode_encode (pack_word hp hf rfl) (by rw [ho]; decide) ?_ hw
  rw [candidate, ho, select_mstatP _ hs]
  show some (Instr.mstatP (getF (Instr.bits (.mstatP d a)) 10 6) (getF (Instr.bits (.mstatP d a)) 16 6)) = _
  refine congrArg some ?_
  congr 1
  · exact field hp hf 2 rfl rfl
  · exact field hp hf 3 rfl rfl
theorem mcprs (d : BitVec 6) (t : BitVec 4) (b : BitVec 6) (a : BitVec 6) (nc : BitVec 2) : Statement (.mcprs d t b a nc) := by
  refine ⟨fun _ _ hw => ?_, fun _ h => nomatch h⟩
  have h_d := d.isLt
  have h_t := t.isLt
  have h_b := b.isLt
  have h_a := a.isLt
  have h_nc := nc.isLt
  have hn : Instr.bits (.mcprs d t b a nc) = 0x3c9 + putF 10 d + putF 28 t + putF 22 b + putF 16 a + putF 46 nc := rfl
  have hf : Fits [(8, 201), (2, 3), (6, d.toNat), (6, a.toNat), (6, b.toNat), (4, t.toNat), (14, 0), (2, nc.toNat), (16, 0)] := ⟨by decide, by decide, h_d, h_a, h_b, h_t, by decide, h_nc, by decide, trivial⟩
  have hp : Instr.bits (.mcprs d t b a nc) = pack [(8, 201), (2, 3), (6, d.toNat), (6, a.toNat), (6, b.toNat), (4, t.toNat), (14, 0), (2, nc.toNat), (16, 0)] := by
    rw [hn]
    simp only [putF, pack]
    omega
  have ho : Instr.bits (.mcprs d t b a nc) % 256 = 0xc9 := by
    rw [hp]
    exact seg_low hf
  refine decode_encode (pack_word hp hf rfl) (by rw [ho]; decide) ?_ hw
  rw [candidate, ho]
  show some (Instr.mcprs (getF (Instr.bits (.mcprs d t b a nc)) 10 6) (getF (Instr.bits (.mcprs d t b a nc)) 28 4) (getF (Instr.bits (.mcprs d t b a nc)) 22 6) (getF (Instr.bits (.mcprs d t b a nc)) 16 6) (getF (Instr.bits (.mcprs d t b a nc)) 46 2)) = _
  refine congrArg some ?_
  congr 1
  · exact field hp hf 2 rfl rfl
  · exact field hp hf 5 rfl rfl
  · exact field hp hf 4 rfl rfl
  · exact field hp hf 3 rfl rfl
  · exact field hp hf 7 rfl rfl
theorem macc (d : BitVec 4) (f : BitVec 1) (b : BitVec 6) (a : BitVec 6) (set : BitVec 1) (rm : BitVec 3) (disp : BitVec 16) : Statement (.macc d f b a set rm disp) := by
  refine ⟨fun _ _ hw => ?_, fun _ h => nomatch h⟩
  have h_d := d.isLt
  have h_f := f.isLt
  have h_b := b.isLt
  have h_a := a.isLt
  have h_set := set.isLt
  have h_rm := rm.isLt
  have h_disp := disp.isLt
  have hn : Instr.bits (.macc d f b a set rm disp) = 0x800003ca + putF 10 d + putF 28 f + putF 22 b + putF 16 a + putF 47 set + putF 44 rm + putF 48 disp := rfl
  have hf : Fits [(8, 202), (2, 3), (4, d.toNat), (2, 0), (6, a.toNat), (6, b.toNat), (1, f.toNat), (15, 4), (3, rm.toNat), (1, set.toNat), (16, disp.toNat)] := ⟨by decide, by decide, h_d, by decide, h_a, h_b, h_f, by decide, h_rm, h_set, h_disp, trivial⟩
  have hp : Instr.bits (.macc d f b a set rm disp) = pack [(8, 202), (2, 3), (4, d.toNat), (2, 0), (6, a.toNat), (6, b.toNat), (1, f.toNat), (15, 4), (3, rm.toNat), (1, set.toNat), (16, disp.toNat)] := by
    rw [hn]
    simp only [putF, pack]
    omega
  have ho : Instr.bits (.macc d f b a set rm disp) % 256 = 0xca := by
    rw [hp]
    exact seg_low hf
  refine decode_encode (pack_word hp hf rfl) (by rw [ho]; decide) ?_ hw
  rw [candidate, ho]
  show some (Instr.macc (getF (Instr.bits (.macc d f b a set rm disp)) 10 4) (getF (Instr.bits (.macc d f b a set rm disp)) 28 1) (getF (Instr.bits (.macc d f b a set rm disp)) 22 6) (getF (Instr.bits (.macc d f b a set rm disp)) 16 6) (getF (Instr.bits (.macc d f b a set rm disp)) 47 1) (getF (Instr.bits (.macc d f b a set rm disp)) 44 3) (getF (Instr.bits (.macc d f b a set rm disp)) 48 16)) = _
  refine congrArg some ?_
  congr 1
  · exact field hp hf 2 rfl rfl
  · exact field hp hf 6 rfl rfl
  · exact field hp hf 5 rfl rfl
  · exact field hp hf 4 rfl rfl
  · exact field hp hf 9 rfl rfl
  · exact field hp hf 8 rfl rfl
  · exact field hp hf 10 rfl rfl
theorem cpy (d : BitVec 6) (b : BitVec 6) (a : BitVec 6) (c : BitVec 6) : Statement (.cpy d b a c) := by
  refine ⟨fun _ _ hw => ?_, fun _ h => nomatch h⟩
  have h_d := d.isLt
  have h_b := b.isLt
  have h_a := a.isLt
  have h_c := c.isLt
  have hn : Instr.bits (.cpy d b a c) = 0x3d0 + putF 10 d + putF 22 b + putF 16 a + putF 32 c := rfl
  have hf : Fits [(8, 208), (2, 3), (6, d.toNat), (6, a.toNat), (6, b.toNat), (4, 0), (6, c.toNat), (26, 0)] := ⟨by decide, by decide, h_d, h_a, h_b, by decide, h_c, by decide, trivial⟩
  have hp : Instr.bits (.cpy d b a c) = pack [(8, 208), (2, 3), (6, d.toNat), (6, a.toNat), (6, b.toNat), (4, 0), (6, c.toNat), (26, 0)] := by
    rw [hn]
    simp only [putF, pack]
    omega
  have ho : Instr.bits (.cpy d b a c) % 256 = 0xd0 := by
    rw [hp]
    exact seg_low hf
  refine decode_encode (pack_word hp hf rfl) (by rw [ho]; decide) ?_ hw
  rw [candidate, ho]
  show some (Instr.cpy (getF (Instr.bits (.cpy d b a c)) 10 6) (getF (Instr.bits (.cpy d b a c)) 22 6) (getF (Instr.bits (.cpy d b a c)) 16 6) (getF (Instr.bits (.cpy d b a c)) 32 6)) = _
  refine congrArg some ?_
  congr 1
  · exact field hp hf 2 rfl rfl
  · exact field hp hf 4 rfl rfl
  · exact field hp hf 3 rfl rfl
  · exact field hp hf 6 rfl rfl
theorem cpys (d : BitVec 6) (b : BitVec 6) (a : BitVec 6) (c : BitVec 6) : Statement (.cpys d b a c) := by
  refine ⟨fun _ _ hw => ?_, fun _ h => nomatch h⟩
  have h_d := d.isLt
  have h_b := b.isLt
  have h_a := a.isLt
  have h_c := c.isLt
  have hn : Instr.bits (.cpys d b a c) = 0x3d1 + putF 10 d + putF 22 b + putF 16 a + putF 32 c := rfl
  have hf : Fits [(8, 209), (2, 3), (6, d.toNat), (6, a.toNat), (6, b.toNat), (4, 0), (6, c.toNat), (26, 0)] := ⟨by decide, by decide, h_d, h_a, h_b, by decide, h_c, by decide, trivial⟩
  have hp : Instr.bits (.cpys d b a c) = pack [(8, 209), (2, 3), (6, d.toNat), (6, a.toNat), (6, b.toNat), (4, 0), (6, c.toNat), (26, 0)] := by
    rw [hn]
    simp only [putF, pack]
    omega
  have ho : Instr.bits (.cpys d b a c) % 256 = 0xd1 := by
    rw [hp]
    exact seg_low hf
  refine decode_encode (pack_word hp hf rfl) (by rw [ho]; decide) ?_ hw
  rw [candidate, ho]
  show some (Instr.cpys (getF (Instr.bits (.cpys d b a c)) 10 6) (getF (Instr.bits (.cpys d b a c)) 22 6) (getF (Instr.bits (.cpys d b a c)) 16 6) (getF (Instr.bits (.cpys d b a c)) 32 6)) = _
  refine congrArg some ?_
  congr 1
  · exact field hp hf 2 rfl rfl
  · exact field hp hf 4 rfl rfl
  · exact field hp hf 3 rfl rfl
  · exact field hp hf 6 rfl rfl
theorem cpyg (d : BitVec 6) (z : BitVec 2) (b : BitVec 6) (a : BitVec 6) (ig : BitVec 1) (iw : BitVec 2) (c : BitVec 6) (sc : BitVec 1) : Statement (.cpyg d z b a ig iw c sc) := by
  refine ⟨fun _ _ hw => ?_, fun _ h => nomatch h⟩
  have h_d := d.isLt
  have h_z := z.isLt
  have h_b := b.isLt
  have h_a := a.isLt
  have h_ig := ig.isLt
  have h_iw := iw.isLt
  have h_c := c.isLt
  have h_sc := sc.isLt
  have hn : Instr.bits (.cpyg d z b a ig iw c sc) = 0x3d2 + putF 10 d + putF 28 z + putF 22 b + putF 16 a + putF 46 ig + putF 44 iw + putF 32 c + putF 48 sc := rfl
  have hf : Fits [(8, 210), (2, 3), (6, d.toNat), (6, a.toNat), (6, b.toNat), (2, z.toNat), (2, 0), (6, c.toNat), (6, 0), (2, iw.toNat), (1, ig.toNat), (1, 0), (1, sc.toNat), (15, 0)] := ⟨by decide, by decide, h_d, h_a, h_b, h_z, by decide, h_c, by decide, h_iw, h_ig, by decide, h_sc, by decide, trivial⟩
  have hp : Instr.bits (.cpyg d z b a ig iw c sc) = pack [(8, 210), (2, 3), (6, d.toNat), (6, a.toNat), (6, b.toNat), (2, z.toNat), (2, 0), (6, c.toNat), (6, 0), (2, iw.toNat), (1, ig.toNat), (1, 0), (1, sc.toNat), (15, 0)] := by
    rw [hn]
    simp only [putF, pack]
    omega
  have ho : Instr.bits (.cpyg d z b a ig iw c sc) % 256 = 0xd2 := by
    rw [hp]
    exact seg_low hf
  refine decode_encode (pack_word hp hf rfl) (by rw [ho]; decide) ?_ hw
  rw [candidate, ho]
  show some (Instr.cpyg (getF (Instr.bits (.cpyg d z b a ig iw c sc)) 10 6) (getF (Instr.bits (.cpyg d z b a ig iw c sc)) 28 2) (getF (Instr.bits (.cpyg d z b a ig iw c sc)) 22 6) (getF (Instr.bits (.cpyg d z b a ig iw c sc)) 16 6) (getF (Instr.bits (.cpyg d z b a ig iw c sc)) 46 1) (getF (Instr.bits (.cpyg d z b a ig iw c sc)) 44 2) (getF (Instr.bits (.cpyg d z b a ig iw c sc)) 32 6) (getF (Instr.bits (.cpyg d z b a ig iw c sc)) 48 1)) = _
  refine congrArg some ?_
  congr 1
  · exact field hp hf 2 rfl rfl
  · exact field hp hf 5 rfl rfl
  · exact field hp hf 4 rfl rfl
  · exact field hp hf 3 rfl rfl
  · exact field hp hf 10 rfl rfl
  · exact field hp hf 9 rfl rfl
  · exact field hp hf 7 rfl rfl
  · exact field hp hf 12 rfl rfl
theorem cfill (d : BitVec 6) (b : BitVec 6) (a : BitVec 6) (c : BitVec 6) : Statement (.cfill d b a c) := by
  refine ⟨fun _ _ hw => ?_, fun _ h => nomatch h⟩
  have h_d := d.isLt
  have h_b := b.isLt
  have h_a := a.isLt
  have h_c := c.isLt
  have hn : Instr.bits (.cfill d b a c) = 0x3d3 + putF 10 d + putF 22 b + putF 16 a + putF 32 c := rfl
  have hf : Fits [(8, 211), (2, 3), (6, d.toNat), (6, a.toNat), (6, b.toNat), (4, 0), (6, c.toNat), (26, 0)] := ⟨by decide, by decide, h_d, h_a, h_b, by decide, h_c, by decide, trivial⟩
  have hp : Instr.bits (.cfill d b a c) = pack [(8, 211), (2, 3), (6, d.toNat), (6, a.toNat), (6, b.toNat), (4, 0), (6, c.toNat), (26, 0)] := by
    rw [hn]
    simp only [putF, pack]
    omega
  have ho : Instr.bits (.cfill d b a c) % 256 = 0xd3 := by
    rw [hp]
    exact seg_low hf
  refine decode_encode (pack_word hp hf rfl) (by rw [ho]; decide) ?_ hw
  rw [candidate, ho]
  show some (Instr.cfill (getF (Instr.bits (.cfill d b a c)) 10 6) (getF (Instr.bits (.cfill d b a c)) 22 6) (getF (Instr.bits (.cfill d b a c)) 16 6) (getF (Instr.bits (.cfill d b a c)) 32 6)) = _
  refine congrArg some ?_
  congr 1
  · exact field hp hf 2 rfl rfl
  · exact field hp hf 4 rfl rfl
  · exact field hp hf 3 rfl rfl
  · exact field hp hf 6 rfl rfl
theorem select_cstat (w : Nat) (h : w / 2 ^ 28 % 16 = 0) :
    candidateOf 0xd4 w = some (Instr.cstat (getF w 10 6)) := by
  simp only [candidateOf, candidateD, h]
theorem cstat (d : BitVec 6) : Statement (.cstat d) := by
  refine ⟨fun _ _ hw => ?_, fun _ h => nomatch h⟩
  have h_d := d.isLt
  have hn : Instr.bits (.cstat d) = 0x3d4 + putF 10 d := rfl
  have hf : Fits [(8, 212), (2, 3), (6, d.toNat), (12, 0), (4, 0), (32, 0)] := ⟨by decide, by decide, h_d, by decide, by decide, by decide, trivial⟩
  have hp : Instr.bits (.cstat d) = pack [(8, 212), (2, 3), (6, d.toNat), (12, 0), (4, 0), (32, 0)] := by
    rw [hn]
    simp only [putF, pack]
    omega
  have ho : Instr.bits (.cstat d) % 256 = 0xd4 := by
    rw [hp]
    exact seg_low hf
  have hs : Instr.bits (.cstat d)  / 2 ^ 28 % 16 = 0 := seg hp hf 4 rfl rfl rfl
  refine decode_encode (pack_word hp hf rfl) (by rw [ho]; decide) ?_ hw
  rw [candidate, ho, select_cstat _ hs]
  show some (Instr.cstat (getF (Instr.bits (.cstat d)) 10 6)) = _
  refine congrArg some ?_
  congr 1
  · exact field hp hf 2 rfl rfl
theorem select_cstatW (w : Nat) (h : w / 2 ^ 28 % 16 = 1) :
    candidateOf 0xd4 w = some (Instr.cstatW (getF w 10 6)) := by
  simp only [candidateOf, candidateD, h]
theorem cstatW (d : BitVec 6) : Statement (.cstatW d) := by
  refine ⟨fun _ _ hw => ?_, fun _ h => nomatch h⟩
  have h_d := d.isLt
  have hn : Instr.bits (.cstatW d) = 0x100003d4 + putF 10 d := rfl
  have hf : Fits [(8, 212), (2, 3), (6, d.toNat), (12, 0), (4, 1), (32, 0)] := ⟨by decide, by decide, h_d, by decide, by decide, by decide, trivial⟩
  have hp : Instr.bits (.cstatW d) = pack [(8, 212), (2, 3), (6, d.toNat), (12, 0), (4, 1), (32, 0)] := by
    rw [hn]
    simp only [putF, pack]
    omega
  have ho : Instr.bits (.cstatW d) % 256 = 0xd4 := by
    rw [hp]
    exact seg_low hf
  have hs : Instr.bits (.cstatW d)  / 2 ^ 28 % 16 = 1 := seg hp hf 4 rfl rfl rfl
  refine decode_encode (pack_word hp hf rfl) (by rw [ho]; decide) ?_ hw
  rw [candidate, ho, select_cstatW _ hs]
  show some (Instr.cstatW (getF (Instr.bits (.cstatW d)) 10 6)) = _
  refine congrArg some ?_
  congr 1
  · exact field hp hf 2 rfl rfl
theorem rdset (d : BitVec 6) (t : BitVec 4) (b : BitVec 6) (a : BitVec 6) (rm : BitVec 3) (c : BitVec 6) : Statement (.rdset d t b a rm c) := by
  refine ⟨fun _ _ hw => ?_, fun _ h => nomatch h⟩
  have h_d := d.isLt
  have h_t := t.isLt
  have h_b := b.isLt
  have h_a := a.isLt
  have h_rm := rm.isLt
  have h_c := c.isLt
  have hn : Instr.bits (.rdset d t b a rm c) = 0x3d5 + putF 10 d + putF 28 t + putF 22 b + putF 16 a + putF 44 rm + putF 32 c := rfl
  have hf : Fits [(8, 213), (2, 3), (6, d.toNat), (6, a.toNat), (6, b.toNat), (4, t.toNat), (6, c.toNat), (6, 0), (3, rm.toNat), (17, 0)] := ⟨by decide, by decide, h_d, h_a, h_b, h_t, h_c, by decide, h_rm, by decide, trivial⟩
  have hp : Instr.bits (.rdset d t b a rm c) = pack [(8, 213), (2, 3), (6, d.toNat), (6, a.toNat), (6, b.toNat), (4, t.toNat), (6, c.toNat), (6, 0), (3, rm.toNat), (17, 0)] := by
    rw [hn]
    simp only [putF, pack]
    omega
  have ho : Instr.bits (.rdset d t b a rm c) % 256 = 0xd5 := by
    rw [hp]
    exact seg_low hf
  refine decode_encode (pack_word hp hf rfl) (by rw [ho]; decide) ?_ hw
  rw [candidate, ho]
  show some (Instr.rdset (getF (Instr.bits (.rdset d t b a rm c)) 10 6) (getF (Instr.bits (.rdset d t b a rm c)) 28 4) (getF (Instr.bits (.rdset d t b a rm c)) 22 6) (getF (Instr.bits (.rdset d t b a rm c)) 16 6) (getF (Instr.bits (.rdset d t b a rm c)) 44 3) (getF (Instr.bits (.rdset d t b a rm c)) 32 6)) = _
  refine congrArg some ?_
  congr 1
  · exact field hp hf 2 rfl rfl
  · exact field hp hf 5 rfl rfl
  · exact field hp hf 4 rfl rfl
  · exact field hp hf 3 rfl rfl
  · exact field hp hf 8 rfl rfl
  · exact field hp hf 6 rfl rfl
theorem select_rdc (w : Nat) (h : w / 2 ^ 44 % 2 = 0) :
    candidateOf 0xd6 w = some (Instr.rdc (getF w 10 5) (getF w 28 4) (getF w 22 6) (getF w 16 6) (getF w 38 2)) := by
  simp only [candidateOf, candidateD, h]
theorem rdc (d : BitVec 5) (t : BitVec 4) (b : BitVec 6) (a : BitVec 6) (sp : BitVec 2) : Statement (.rdc d t b a sp) := by
  refine ⟨fun _ _ hw => ?_, fun _ h => nomatch h⟩
  have h_d := d.isLt
  have h_t := t.isLt
  have h_b := b.isLt
  have h_a := a.isLt
  have h_sp := sp.isLt
  have hn : Instr.bits (.rdc d t b a sp) = 0x3d6 + putF 10 d + putF 28 t + putF 22 b + putF 16 a + putF 38 sp := rfl
  have hf : Fits [(8, 214), (2, 3), (5, d.toNat), (1, 0), (6, a.toNat), (6, b.toNat), (4, t.toNat), (6, 0), (2, sp.toNat), (4, 0), (1, 0), (19, 0)] := ⟨by decide, by decide, h_d, by decide, h_a, h_b, h_t, by decide, h_sp, by decide, by decide, by decide, trivial⟩
  have hp : Instr.bits (.rdc d t b a sp) = pack [(8, 214), (2, 3), (5, d.toNat), (1, 0), (6, a.toNat), (6, b.toNat), (4, t.toNat), (6, 0), (2, sp.toNat), (4, 0), (1, 0), (19, 0)] := by
    rw [hn]
    simp only [putF, pack]
    omega
  have ho : Instr.bits (.rdc d t b a sp) % 256 = 0xd6 := by
    rw [hp]
    exact seg_low hf
  have hs : Instr.bits (.rdc d t b a sp)  / 2 ^ 44 % 2 = 0 := seg hp hf 10 rfl rfl rfl
  refine decode_encode (pack_word hp hf rfl) (by rw [ho]; decide) ?_ hw
  rw [candidate, ho, select_rdc _ hs]
  show some (Instr.rdc (getF (Instr.bits (.rdc d t b a sp)) 10 5) (getF (Instr.bits (.rdc d t b a sp)) 28 4) (getF (Instr.bits (.rdc d t b a sp)) 22 6) (getF (Instr.bits (.rdc d t b a sp)) 16 6) (getF (Instr.bits (.rdc d t b a sp)) 38 2)) = _
  refine congrArg some ?_
  congr 1
  · exact field hp hf 2 rfl rfl
  · exact field hp hf 6 rfl rfl
  · exact field hp hf 5 rfl rfl
  · exact field hp hf 4 rfl rfl
  · exact field hp hf 8 rfl rfl
theorem select_rdcMem (w : Nat) (h : w / 2 ^ 44 % 2 = 1) :
    candidateOf 0xd6 w = some (Instr.rdcMem (getF w 28 4) (getF w 22 6) (getF w 16 6) (getF w 32 6)) := by
  simp only [candidateOf, candidateD, h]
theorem rdcMem (t : BitVec 4) (b : BitVec 6) (a : BitVec 6) (c : BitVec 6) : Statement (.rdcMem t b a c) := by
  refine ⟨fun _ _ hw => ?_, fun _ h => nomatch h⟩
  have h_t := t.isLt
  have h_b := b.isLt
  have h_a := a.isLt
  have h_c := c.isLt
  have hn : Instr.bits (.rdcMem t b a c) = 0x1000000003d6 + putF 28 t + putF 22 b + putF 16 a + putF 32 c := rfl
  have hf : Fits [(8, 214), (8, 3), (6, a.toNat), (6, b.toNat), (4, t.toNat), (6, c.toNat), (6, 0), (1, 1), (19, 0)] := ⟨by decide, by decide, h_a, h_b, h_t, h_c, by decide, by decide, by decide, trivial⟩
  have hp : Instr.bits (.rdcMem t b a c) = pack [(8, 214), (8, 3), (6, a.toNat), (6, b.toNat), (4, t.toNat), (6, c.toNat), (6, 0), (1, 1), (19, 0)] := by
    rw [hn]
    simp only [putF, pack]
    omega
  have ho : Instr.bits (.rdcMem t b a c) % 256 = 0xd6 := by
    rw [hp]
    exact seg_low hf
  have hs : Instr.bits (.rdcMem t b a c)  / 2 ^ 44 % 2 = 1 := seg hp hf 7 rfl rfl rfl
  refine decode_encode (pack_word hp hf rfl) (by rw [ho]; decide) ?_ hw
  rw [candidate, ho, select_rdcMem _ hs]
  show some (Instr.rdcMem (getF (Instr.bits (.rdcMem t b a c)) 28 4) (getF (Instr.bits (.rdcMem t b a c)) 22 6) (getF (Instr.bits (.rdcMem t b a c)) 16 6) (getF (Instr.bits (.rdcMem t b a c)) 32 6)) = _
  refine congrArg some ?_
  congr 1
  · exact field hp hf 4 rfl rfl
  · exact field hp hf 3 rfl rfl
  · exact field hp hf 2 rfl rfl
  · exact field hp hf 5 rfl rfl
theorem select_rdq (w : Nat) (h : w / 2 ^ 28 % 16 = 0) :
    candidateOf 0xd7 w = some (Instr.rdq (getF w 10 6) (getF w 16 6)) := by
  simp only [candidateOf, candidateD, h]
theorem rdq (d : BitVec 6) (a : BitVec 6) : Statement (.rdq d a) := by
  refine ⟨fun _ _ hw => ?_, fun _ h => nomatch h⟩
  have h_d := d.isLt
  have h_a := a.isLt
  have hn : Instr.bits (.rdq d a) = 0x3d7 + putF 10 d + putF 16 a := rfl
  have hf : Fits [(8, 215), (2, 3), (6, d.toNat), (6, a.toNat), (6, 0), (4, 0), (32, 0)] := ⟨by decide, by decide, h_d, h_a, by decide, by decide, by decide, trivial⟩
  have hp : Instr.bits (.rdq d a) = pack [(8, 215), (2, 3), (6, d.toNat), (6, a.toNat), (6, 0), (4, 0), (32, 0)] := by
    rw [hn]
    simp only [putF, pack]
    omega
  have ho : Instr.bits (.rdq d a) % 256 = 0xd7 := by
    rw [hp]
    exact seg_low hf
  have hs : Instr.bits (.rdq d a)  / 2 ^ 28 % 16 = 0 := seg hp hf 5 rfl rfl rfl
  refine decode_encode (pack_word hp hf rfl) (by rw [ho]; decide) ?_ hw
  rw [candidate, ho, select_rdq _ hs]
  show some (Instr.rdq (getF (Instr.bits (.rdq d a)) 10 6) (getF (Instr.bits (.rdq d a)) 16 6)) = _
  refine congrArg some ?_
  congr 1
  · exact field hp hf 2 rfl rfl
  · exact field hp hf 3 rfl rfl
theorem select_rdqSt (w : Nat) (h : w / 2 ^ 28 % 16 = 1) :
    candidateOf 0xd7 w = some (Instr.rdqSt (getF w 10 6) (getF w 16 6)) := by
  simp only [candidateOf, candidateD, h]
theorem rdqSt (d : BitVec 6) (a : BitVec 6) : Statement (.rdqSt d a) := by
  refine ⟨fun _ _ hw => ?_, fun _ h => nomatch h⟩
  have h_d := d.isLt
  have h_a := a.isLt
  have hn : Instr.bits (.rdqSt d a) = 0x100003d7 + putF 10 d + putF 16 a := rfl
  have hf : Fits [(8, 215), (2, 3), (6, d.toNat), (6, a.toNat), (6, 0), (4, 1), (32, 0)] := ⟨by decide, by decide, h_d, h_a, by decide, by decide, by decide, trivial⟩
  have hp : Instr.bits (.rdqSt d a) = pack [(8, 215), (2, 3), (6, d.toNat), (6, a.toNat), (6, 0), (4, 1), (32, 0)] := by
    rw [hn]
    simp only [putF, pack]
    omega
  have ho : Instr.bits (.rdqSt d a) % 256 = 0xd7 := by
    rw [hp]
    exact seg_low hf
  have hs : Instr.bits (.rdqSt d a)  / 2 ^ 28 % 16 = 1 := seg hp hf 5 rfl rfl rfl
  refine decode_encode (pack_word hp hf rfl) (by rw [ho]; decide) ?_ hw
  rw [candidate, ho, select_rdqSt _ hs]
  show some (Instr.rdqSt (getF (Instr.bits (.rdqSt d a)) 10 6) (getF (Instr.bits (.rdqSt d a)) 16 6)) = _
  refine congrArg some ?_
  congr 1
  · exact field hp hf 2 rfl rfl
  · exact field hp hf 3 rfl rfl
theorem select_rdqW (w : Nat) (h : w / 2 ^ 28 % 16 = 2) :
    candidateOf 0xd7 w = some (Instr.rdqW (getF w 10 6) (getF w 16 6)) := by
  simp only [candidateOf, candidateD, h]
theorem rdqW (d : BitVec 6) (a : BitVec 6) : Statement (.rdqW d a) := by
  refine ⟨fun _ _ hw => ?_, fun _ h => nomatch h⟩
  have h_d := d.isLt
  have h_a := a.isLt
  have hn : Instr.bits (.rdqW d a) = 0x200003d7 + putF 10 d + putF 16 a := rfl
  have hf : Fits [(8, 215), (2, 3), (6, d.toNat), (6, a.toNat), (6, 0), (4, 2), (32, 0)] := ⟨by decide, by decide, h_d, h_a, by decide, by decide, by decide, trivial⟩
  have hp : Instr.bits (.rdqW d a) = pack [(8, 215), (2, 3), (6, d.toNat), (6, a.toNat), (6, 0), (4, 2), (32, 0)] := by
    rw [hn]
    simp only [putF, pack]
    omega
  have ho : Instr.bits (.rdqW d a) % 256 = 0xd7 := by
    rw [hp]
    exact seg_low hf
  have hs : Instr.bits (.rdqW d a)  / 2 ^ 28 % 16 = 2 := seg hp hf 5 rfl rfl rfl
  refine decode_encode (pack_word hp hf rfl) (by rw [ho]; decide) ?_ hw
  rw [candidate, ho, select_rdqW _ hs]
  show some (Instr.rdqW (getF (Instr.bits (.rdqW d a)) 10 6) (getF (Instr.bits (.rdqW d a)) 16 6)) = _
  refine congrArg some ?_
  congr 1
  · exact field hp hf 2 rfl rfl
  · exact field hp hf 3 rfl rfl
theorem spawn (atc : BitVec 1) (b : BitVec 6) (a : BitVec 6) (disp : BitVec 16) : Statement (.spawn atc b a disp) := by
  refine ⟨fun _ _ hw => ?_, fun _ h => nomatch h⟩
  have h_atc := atc.isLt
  have h_b := b.isLt
  have h_a := a.isLt
  have h_disp := disp.isLt
  have hn : Instr.bits (.spawn atc b a disp) = 0x2d8 + putF 28 atc + putF 22 b + putF 16 a + putF 32 disp := rfl
  have hf : Fits [(8, 216), (8, 2), (6, a.toNat), (6, b.toNat), (1, atc.toNat), (3, 0), (16, disp.toNat), (16, 0)] := ⟨by decide, by decide, h_a, h_b, h_atc, by decide, h_disp, by decide, trivial⟩
  have hp : Instr.bits (.spawn atc b a disp) = pack [(8, 216), (8, 2), (6, a.toNat), (6, b.toNat), (1, atc.toNat), (3, 0), (16, disp.toNat), (16, 0)] := by
    rw [hn]
    simp only [putF, pack]
    omega
  have ho : Instr.bits (.spawn atc b a disp) % 256 = 0xd8 := by
    rw [hp]
    exact seg_low hf
  refine decode_encode (pack_word hp hf rfl) (by rw [ho]; decide) ?_ hw
  rw [candidate, ho]
  show some (Instr.spawn (getF (Instr.bits (.spawn atc b a disp)) 28 1) (getF (Instr.bits (.spawn atc b a disp)) 22 6) (getF (Instr.bits (.spawn atc b a disp)) 16 6) (getF (Instr.bits (.spawn atc b a disp)) 32 16)) = _
  refine congrArg some ?_
  congr 1
  · exact field hp hf 4 rfl rfl
  · exact field hp hf 3 rfl rfl
  · exact field hp hf 2 rfl rfl
  · exact field hp hf 6 rfl rfl
theorem spawnr (d : BitVec 6) (b : BitVec 6) (a : BitVec 6) (c : BitVec 6) (pin : BitVec 1) : Statement (.spawnr d b a c pin) := by
  refine ⟨fun _ _ hw => ?_, fun _ h => nomatch h⟩
  have h_d := d.isLt
  have h_b := b.isLt
  have h_a := a.isLt
  have h_c := c.isLt
  have h_pin := pin.isLt
  have hn : Instr.bits (.spawnr d b a c pin) = 0x3d9 + putF 10 d + putF 22 b + putF 16 a + putF 32 c + putF 48 pin := rfl
  have hf : Fits [(8, 217), (2, 3), (6, d.toNat), (6, a.toNat), (6, b.toNat), (4, 0), (6, c.toNat), (10, 0), (1, pin.toNat), (15, 0)] := ⟨by decide, by decide, h_d, h_a, h_b, by decide, h_c, by decide, h_pin, by decide, trivial⟩
  have hp : Instr.bits (.spawnr d b a c pin) = pack [(8, 217), (2, 3), (6, d.toNat), (6, a.toNat), (6, b.toNat), (4, 0), (6, c.toNat), (10, 0), (1, pin.toNat), (15, 0)] := by
    rw [hn]
    simp only [putF, pack]
    omega
  have ho : Instr.bits (.spawnr d b a c pin) % 256 = 0xd9 := by
    rw [hp]
    exact seg_low hf
  refine decode_encode (pack_word hp hf rfl) (by rw [ho]; decide) ?_ hw
  rw [candidate, ho]
  show some (Instr.spawnr (getF (Instr.bits (.spawnr d b a c pin)) 10 6) (getF (Instr.bits (.spawnr d b a c pin)) 22 6) (getF (Instr.bits (.spawnr d b a c pin)) 16 6) (getF (Instr.bits (.spawnr d b a c pin)) 32 6) (getF (Instr.bits (.spawnr d b a c pin)) 48 1)) = _
  refine congrArg some ?_
  congr 1
  · exact field hp hf 2 rfl rfl
  · exact field hp hf 4 rfl rfl
  · exact field hp hf 3 rfl rfl
  · exact field hp hf 6 rfl rfl
  · exact field hp hf 8 rfl rfl
theorem select_cntset (w : Nat) (h : w / 2 ^ 48 % 2 = 0) :
    candidateOf 0xda w = some (Instr.cntset (getF w 10 6) (getF w 22 6) (getF w 16 6)) := by
  simp only [candidateOf, candidateD, h]
theorem cntset (d : BitVec 6) (b : BitVec 6) (a : BitVec 6) : Statement (.cntset d b a) := by
  refine ⟨fun _ _ hw => ?_, fun _ h => nomatch h⟩
  have h_d := d.isLt
  have h_b := b.isLt
  have h_a := a.isLt
  have hn : Instr.bits (.cntset d b a) = 0x3da + putF 10 d + putF 22 b + putF 16 a := rfl
  have hf : Fits [(8, 218), (2, 3), (6, d.toNat), (6, a.toNat), (6, b.toNat), (20, 0), (1, 0), (15, 0)] := ⟨by decide, by decide, h_d, h_a, h_b, by decide, by decide, by decide, trivial⟩
  have hp : Instr.bits (.cntset d b a) = pack [(8, 218), (2, 3), (6, d.toNat), (6, a.toNat), (6, b.toNat), (20, 0), (1, 0), (15, 0)] := by
    rw [hn]
    simp only [putF, pack]
    omega
  have ho : Instr.bits (.cntset d b a) % 256 = 0xda := by
    rw [hp]
    exact seg_low hf
  have hs : Instr.bits (.cntset d b a)  / 2 ^ 48 % 2 = 0 := seg hp hf 6 rfl rfl rfl
  refine decode_encode (pack_word hp hf rfl) (by rw [ho]; decide) ?_ hw
  rw [candidate, ho, select_cntset _ hs]
  show some (Instr.cntset (getF (Instr.bits (.cntset d b a)) 10 6) (getF (Instr.bits (.cntset d b a)) 22 6) (getF (Instr.bits (.cntset d b a)) 16 6)) = _
  refine congrArg some ?_
  congr 1
  · exact field hp hf 2 rfl rfl
  · exact field hp hf 4 rfl rfl
  · exact field hp hf 3 rfl rfl
theorem select_cntsetClr (w : Nat) (h : w / 2 ^ 48 % 2 = 1) :
    candidateOf 0xda w = some (Instr.cntsetClr (getF w 10 6)) := by
  simp only [candidateOf, candidateD, h]
theorem cntsetClr (d : BitVec 6) : Statement (.cntsetClr d) := by
  refine ⟨fun _ _ hw => ?_, fun _ h => nomatch h⟩
  have h_d := d.isLt
  have hn : Instr.bits (.cntsetClr d) = 0x10000000003da + putF 10 d := rfl
  have hf : Fits [(8, 218), (2, 3), (6, d.toNat), (32, 0), (1, 1), (15, 0)] := ⟨by decide, by decide, h_d, by decide, by decide, by decide, trivial⟩
  have hp : Instr.bits (.cntsetClr d) = pack [(8, 218), (2, 3), (6, d.toNat), (32, 0), (1, 1), (15, 0)] := by
    rw [hn]
    simp only [putF, pack]
    omega
  have ho : Instr.bits (.cntsetClr d) % 256 = 0xda := by
    rw [hp]
    exact seg_low hf
  have hs : Instr.bits (.cntsetClr d)  / 2 ^ 48 % 2 = 1 := seg hp hf 4 rfl rfl rfl
  refine decode_encode (pack_word hp hf rfl) (by rw [ho]; decide) ?_ hw
  rw [candidate, ho, select_cntsetClr _ hs]
  show some (Instr.cntsetClr (getF (Instr.bits (.cntsetClr d)) 10 6)) = _
  refine congrArg some ?_
  congr 1
  · exact field hp hf 2 rfl rfl
theorem cntdec (self : BitVec 1) (b : BitVec 6) (a : BitVec 6) (dec : BitVec 8) (idx : BitVec 8) : Statement (.cntdec self b a dec idx) := by
  refine ⟨fun _ _ hw => ?_, fun _ h => nomatch h⟩
  have h_self := self.isLt
  have h_b := b.isLt
  have h_a := a.isLt
  have h_dec := dec.isLt
  have h_idx := idx.isLt
  have hn : Instr.bits (.cntdec self b a dec idx) = 0x2db + putF 28 self + putF 22 b + putF 16 a + putF 40 dec + putF 32 idx := rfl
  have hf : Fits [(8, 219), (8, 2), (6, a.toNat), (6, b.toNat), (1, self.toNat), (3, 0), (8, idx.toNat), (8, dec.toNat), (16, 0)] := ⟨by decide, by decide, h_a, h_b, h_self, by decide, h_idx, h_dec, by decide, trivial⟩
  have hp : Instr.bits (.cntdec self b a dec idx) = pack [(8, 219), (8, 2), (6, a.toNat), (6, b.toNat), (1, self.toNat), (3, 0), (8, idx.toNat), (8, dec.toNat), (16, 0)] := by
    rw [hn]
    simp only [putF, pack]
    omega
  have ho : Instr.bits (.cntdec self b a dec idx) % 256 = 0xdb := by
    rw [hp]
    exact seg_low hf
  refine decode_encode (pack_word hp hf rfl) (by rw [ho]; decide) ?_ hw
  rw [candidate, ho]
  show some (Instr.cntdec (getF (Instr.bits (.cntdec self b a dec idx)) 28 1) (getF (Instr.bits (.cntdec self b a dec idx)) 22 6) (getF (Instr.bits (.cntdec self b a dec idx)) 16 6) (getF (Instr.bits (.cntdec self b a dec idx)) 40 8) (getF (Instr.bits (.cntdec self b a dec idx)) 32 8)) = _
  refine congrArg some ?_
  congr 1
  · exact field hp hf 4 rfl rfl
  · exact field hp hf 3 rfl rfl
  · exact field hp hf 2 rfl rfl
  · exact field hp hf 7 rfl rfl
  · exact field hp hf 6 rfl rfl
theorem send (d : BitVec 5) (b : BitVec 6) (a : BitVec 6) (cn : BitVec 1) (idx : BitVec 8) : Statement (.send d b a cn idx) := by
  refine ⟨fun _ _ hw => ?_, fun _ h => nomatch h⟩
  have h_d := d.isLt
  have h_b := b.isLt
  have h_a := a.isLt
  have h_cn := cn.isLt
  have h_idx := idx.isLt
  have hn : Instr.bits (.send d b a cn idx) = 0x3dc + putF 10 d + putF 22 b + putF 16 a + putF 56 cn + putF 48 idx := rfl
  have hf : Fits [(8, 220), (2, 3), (5, d.toNat), (1, 0), (6, a.toNat), (6, b.toNat), (20, 0), (8, idx.toNat), (1, cn.toNat), (7, 0)] := ⟨by decide, by decide, h_d, by decide, h_a, h_b, by decide, h_idx, h_cn, by decide, trivial⟩
  have hp : Instr.bits (.send d b a cn idx) = pack [(8, 220), (2, 3), (5, d.toNat), (1, 0), (6, a.toNat), (6, b.toNat), (20, 0), (8, idx.toNat), (1, cn.toNat), (7, 0)] := by
    rw [hn]
    simp only [putF, pack]
    omega
  have ho : Instr.bits (.send d b a cn idx) % 256 = 0xdc := by
    rw [hp]
    exact seg_low hf
  refine decode_encode (pack_word hp hf rfl) (by rw [ho]; decide) ?_ hw
  rw [candidate, ho]
  show some (Instr.send (getF (Instr.bits (.send d b a cn idx)) 10 5) (getF (Instr.bits (.send d b a cn idx)) 22 6) (getF (Instr.bits (.send d b a cn idx)) 16 6) (getF (Instr.bits (.send d b a cn idx)) 56 1) (getF (Instr.bits (.send d b a cn idx)) 48 8)) = _
  refine congrArg some ?_
  congr 1
  · exact field hp hf 2 rfl rfl
  · exact field hp hf 5 rfl rfl
  · exact field hp hf 4 rfl rfl
  · exact field hp hf 8 rfl rfl
  · exact field hp hf 7 rfl rfl
theorem recv (d : BitVec 5) (b : BitVec 6) (a : BitVec 6) : Statement (.recv d b a) := by
  refine ⟨fun _ _ hw => ?_, fun _ h => nomatch h⟩
  have h_d := d.isLt
  have h_b := b.isLt
  have h_a := a.isLt
  have hn : Instr.bits (.recv d b a) = 0x1dd + putF 10 d + putF 22 b + putF 16 a := rfl
  have hf : Fits [(8, 221), (2, 1), (5, d.toNat), (1, 0), (6, a.toNat), (6, b.toNat), (36, 0)] := ⟨by decide, by decide, h_d, by decide, h_a, h_b, by decide, trivial⟩
  have hp : Instr.bits (.recv d b a) = pack [(8, 221), (2, 1), (5, d.toNat), (1, 0), (6, a.toNat), (6, b.toNat), (36, 0)] := by
    rw [hn]
    simp only [putF, pack]
    omega
  have ho : Instr.bits (.recv d b a) % 256 = 0xdd := by
    rw [hp]
    exact seg_low hf
  refine decode_encode (pack_word hp hf rfl) (by rw [ho]; decide) ?_ hw
  rw [candidate, ho]
  show some (Instr.recv (getF (Instr.bits (.recv d b a)) 10 5) (getF (Instr.bits (.recv d b a)) 22 6) (getF (Instr.bits (.recv d b a)) 16 6)) = _
  refine congrArg some ?_
  congr 1
  · exact field hp hf 2 rfl rfl
  · exact field hp hf 5 rfl rfl
  · exact field hp hf 4 rfl rfl
theorem select_inbqN (w : Nat) (h : w / 2 ^ 28 % 16 = 0) :
    candidateOf 0xde w = some (Instr.inbqN (getF w 10 6)) := by
  simp only [candidateOf, candidateD, h]
theorem inbqN (d : BitVec 6) : Statement (.inbqN d) := by
  refine ⟨fun _ _ hw => ?_, fun _ h => nomatch h⟩
  have h_d := d.isLt
  have hn : Instr.bits (.inbqN d) = 0x1de + putF 10 d := rfl
  have hf : Fits [(8, 222), (2, 1), (6, d.toNat), (12, 0), (4, 0), (32, 0)] := ⟨by decide, by decide, h_d, by decide, by decide, by decide, trivial⟩
  have hp : Instr.bits (.inbqN d) = pack [(8, 222), (2, 1), (6, d.toNat), (12, 0), (4, 0), (32, 0)] := by
    rw [hn]
    simp only [putF, pack]
    omega
  have ho : Instr.bits (.inbqN d) % 256 = 0xde := by
    rw [hp]
    exact seg_low hf
  have hs : Instr.bits (.inbqN d)  / 2 ^ 28 % 16 = 0 := seg hp hf 4 rfl rfl rfl
  refine decode_encode (pack_word hp hf rfl) (by rw [ho]; decide) ?_ hw
  rw [candidate, ho, select_inbqN _ hs]
  show some (Instr.inbqN (getF (Instr.bits (.inbqN d)) 10 6)) = _
  refine congrArg some ?_
  congr 1
  · exact field hp hf 2 rfl rfl
theorem select_inbqRoom (w : Nat) (h : w / 2 ^ 28 % 16 = 1) :
    candidateOf 0xde w = some (Instr.inbqRoom (getF w 10 6)) := by
  simp only [candidateOf, candidateD, h]
theorem inbqRoom (d : BitVec 6) : Statement (.inbqRoom d) := by
  refine ⟨fun _ _ hw => ?_, fun _ h => nomatch h⟩
  have h_d := d.isLt
  have hn : Instr.bits (.inbqRoom d) = 0x100001de + putF 10 d := rfl
  have hf : Fits [(8, 222), (2, 1), (6, d.toNat), (12, 0), (4, 1), (32, 0)] := ⟨by decide, by decide, h_d, by decide, by decide, by decide, trivial⟩
  have hp : Instr.bits (.inbqRoom d) = pack [(8, 222), (2, 1), (6, d.toNat), (12, 0), (4, 1), (32, 0)] := by
    rw [hn]
    simp only [putF, pack]
    omega
  have ho : Instr.bits (.inbqRoom d) % 256 = 0xde := by
    rw [hp]
    exact seg_low hf
  have hs : Instr.bits (.inbqRoom d)  / 2 ^ 28 % 16 = 1 := seg hp hf 4 rfl rfl rfl
  refine decode_encode (pack_word hp hf rfl) (by rw [ho]; decide) ?_ hw
  rw [candidate, ho, select_inbqRoom _ hs]
  show some (Instr.inbqRoom (getF (Instr.bits (.inbqRoom d)) 10 6)) = _
  refine congrArg some ?_
  congr 1
  · exact field hp hf 2 rfl rfl
theorem select_inbqStray (w : Nat) (h : w / 2 ^ 28 % 16 = 2) :
    candidateOf 0xde w = some (Instr.inbqStray (getF w 10 6)) := by
  simp only [candidateOf, candidateD, h]
theorem inbqStray (d : BitVec 6) : Statement (.inbqStray d) := by
  refine ⟨fun _ _ hw => ?_, fun _ h => nomatch h⟩
  have h_d := d.isLt
  have hn : Instr.bits (.inbqStray d) = 0x200001de + putF 10 d := rfl
  have hf : Fits [(8, 222), (2, 1), (6, d.toNat), (12, 0), (4, 2), (32, 0)] := ⟨by decide, by decide, h_d, by decide, by decide, by decide, trivial⟩
  have hp : Instr.bits (.inbqStray d) = pack [(8, 222), (2, 1), (6, d.toNat), (12, 0), (4, 2), (32, 0)] := by
    rw [hn]
    simp only [putF, pack]
    omega
  have ho : Instr.bits (.inbqStray d) % 256 = 0xde := by
    rw [hp]
    exact seg_low hf
  have hs : Instr.bits (.inbqStray d)  / 2 ^ 28 % 16 = 2 := seg hp hf 4 rfl rfl rfl
  refine decode_encode (pack_word hp hf rfl) (by rw [ho]; decide) ?_ hw
  rw [candidate, ho, select_inbqStray _ hs]
  show some (Instr.inbqStray (getF (Instr.bits (.inbqStray d)) 10 6)) = _
  refine congrArg some ?_
  congr 1
  · exact field hp hf 2 rfl rfl
theorem launch (b : BitVec 6) (a : BitVec 6) (disp : BitVec 16) : Statement (.launch b a disp) := by
  refine ⟨fun _ _ hw => ?_, fun _ h => nomatch h⟩
  have h_b := b.isLt
  have h_a := a.isLt
  have h_disp := disp.isLt
  have hn : Instr.bits (.launch b a disp) = 0x2df + putF 22 b + putF 16 a + putF 32 disp := rfl
  have hf : Fits [(8, 223), (8, 2), (6, a.toNat), (6, b.toNat), (4, 0), (16, disp.toNat), (16, 0)] := ⟨by decide, by decide, h_a, h_b, by decide, h_disp, by decide, trivial⟩
  have hp : Instr.bits (.launch b a disp) = pack [(8, 223), (8, 2), (6, a.toNat), (6, b.toNat), (4, 0), (16, disp.toNat), (16, 0)] := by
    rw [hn]
    simp only [putF, pack]
    omega
  have ho : Instr.bits (.launch b a disp) % 256 = 0xdf := by
    rw [hp]
    exact seg_low hf
  refine decode_encode (pack_word hp hf rfl) (by rw [ho]; decide) ?_ hw
  rw [candidate, ho]
  show some (Instr.launch (getF (Instr.bits (.launch b a disp)) 22 6) (getF (Instr.bits (.launch b a disp)) 16 6) (getF (Instr.bits (.launch b a disp)) 32 16)) = _
  refine congrArg some ?_
  congr 1
  · exact field hp hf 3 rfl rfl
  · exact field hp hf 2 rfl rfl
  · exact field hp hf 5 rfl rfl
theorem select_postr (w : Nat) (h : w / 2 ^ 28 % 16 = 0) :
    candidateOf 0xe0 w = some (Instr.postr (getF w 16 6)) := by
  simp only [candidateOf, candidateE, h]
theorem postr (a : BitVec 6) : Statement (.postr a) := by
  refine ⟨fun _ _ hw => ?_, fun _ h => nomatch h⟩
  have h_a := a.isLt
  have hn : Instr.bits (.postr a) = 0x1e0 + putF 16 a := rfl
  have hf : Fits [(8, 224), (8, 1), (6, a.toNat), (6, 0), (4, 0), (32, 0)] := ⟨by decide, by decide, h_a, by decide, by decide, by decide, trivial⟩
  have hp : Instr.bits (.postr a) = pack [(8, 224), (8, 1), (6, a.toNat), (6, 0), (4, 0), (32, 0)] := by
    rw [hn]
    simp only [putF, pack]
    omega
  have ho : Instr.bits (.postr a) % 256 = 0xe0 := by
    rw [hp]
    exact seg_low hf
  have hs : Instr.bits (.postr a)  / 2 ^ 28 % 16 = 0 := seg hp hf 4 rfl rfl rfl
  refine decode_encode (pack_word hp hf rfl) (by rw [ho]; decide) ?_ hw
  rw [candidate, ho, select_postr _ hs]
  show some (Instr.postr (getF (Instr.bits (.postr a)) 16 6)) = _
  refine congrArg some ?_
  congr 1
  · exact field hp hf 2 rfl rfl
theorem select_postrOr (w : Nat) (h : w / 2 ^ 28 % 16 = 1) :
    candidateOf 0xe0 w = some (Instr.postrOr (getF w 16 6)) := by
  simp only [candidateOf, candidateE, h]
theorem postrOr (a : BitVec 6) : Statement (.postrOr a) := by
  refine ⟨fun _ _ hw => ?_, fun _ h => nomatch h⟩
  have h_a := a.isLt
  have hn : Instr.bits (.postrOr a) = 0x100001e0 + putF 16 a := rfl
  have hf : Fits [(8, 224), (8, 1), (6, a.toNat), (6, 0), (4, 1), (32, 0)] := ⟨by decide, by decide, h_a, by decide, by decide, by decide, trivial⟩
  have hp : Instr.bits (.postrOr a) = pack [(8, 224), (8, 1), (6, a.toNat), (6, 0), (4, 1), (32, 0)] := by
    rw [hn]
    simp only [putF, pack]
    omega
  have ho : Instr.bits (.postrOr a) % 256 = 0xe0 := by
    rw [hp]
    exact seg_low hf
  have hs : Instr.bits (.postrOr a)  / 2 ^ 28 % 16 = 1 := seg hp hf 4 rfl rfl rfl
  refine decode_encode (pack_word hp hf rfl) (by rw [ho]; decide) ?_ hw
  rw [candidate, ho, select_postrOr _ hs]
  show some (Instr.postrOr (getF (Instr.bits (.postrOr a)) 16 6)) = _
  refine congrArg some ?_
  congr 1
  · exact field hp hf 2 rfl rfl
theorem tstamp (d : BitVec 6) (k : BitVec 3) : Statement (.tstamp d k) := by
  refine ⟨fun _ _ hw => ?_, fun _ h => nomatch h⟩
  have h_d := d.isLt
  have h_k := k.isLt
  have hn : Instr.bits (.tstamp d k) = 0x1e1 + putF 10 d + putF 28 k := rfl
  have hf : Fits [(8, 225), (2, 1), (6, d.toNat), (12, 0), (3, k.toNat), (33, 0)] := ⟨by decide, by decide, h_d, by decide, h_k, by decide, trivial⟩
  have hp : Instr.bits (.tstamp d k) = pack [(8, 225), (2, 1), (6, d.toNat), (12, 0), (3, k.toNat), (33, 0)] := by
    rw [hn]
    simp only [putF, pack]
    omega
  have ho : Instr.bits (.tstamp d k) % 256 = 0xe1 := by
    rw [hp]
    exact seg_low hf
  refine decode_encode (pack_word hp hf rfl) (by rw [ho]; decide) ?_ hw
  rw [candidate, ho]
  show some (Instr.tstamp (getF (Instr.bits (.tstamp d k)) 10 6) (getF (Instr.bits (.tstamp d k)) 28 3)) = _
  refine congrArg some ?_
  congr 1
  · exact field hp hf 2 rfl rfl
  · exact field hp hf 4 rfl rfl
theorem bar (dom : BitVec 4) : Statement (.bar dom) := by
  refine ⟨fun _ _ hw => ?_, fun _ h => nomatch h⟩
  have h_dom := dom.isLt
  have hn : Instr.bits (.bar dom) = 0x1e4 + putF 22 dom := rfl
  have hf : Fits [(8, 228), (14, 1), (4, dom.toNat), (38, 0)] := ⟨by decide, by decide, h_dom, by decide, trivial⟩
  have hp : Instr.bits (.bar dom) = pack [(8, 228), (14, 1), (4, dom.toNat), (38, 0)] := by
    rw [hn]
    simp only [putF, pack]
    omega
  have ho : Instr.bits (.bar dom) % 256 = 0xe4 := by
    rw [hp]
    exact seg_low hf
  refine decode_encode (pack_word hp hf rfl) (by rw [ho]; decide) ?_ hw
  rw [candidate, ho]
  show some (Instr.bar (getF (Instr.bits (.bar dom)) 22 4)) = _
  refine congrArg some ?_
  congr 1
  · exact field hp hf 2 rfl rfl
theorem bardom (b : BitVec 6) (a : BitVec 6) (c : BitVec 6) (dom : BitVec 4) : Statement (.bardom b a c dom) := by
  refine ⟨fun _ _ hw => ?_, fun _ h => nomatch h⟩
  have h_b := b.isLt
  have h_a := a.isLt
  have h_c := c.isLt
  have h_dom := dom.isLt
  have hn : Instr.bits (.bardom b a c dom) = 0x3e5 + putF 22 b + putF 16 a + putF 32 c + putF 48 dom := rfl
  have hf : Fits [(8, 229), (8, 3), (6, a.toNat), (6, b.toNat), (4, 0), (6, c.toNat), (10, 0), (4, dom.toNat), (12, 0)] := ⟨by decide, by decide, h_a, h_b, by decide, h_c, by decide, h_dom, by decide, trivial⟩
  have hp : Instr.bits (.bardom b a c dom) = pack [(8, 229), (8, 3), (6, a.toNat), (6, b.toNat), (4, 0), (6, c.toNat), (10, 0), (4, dom.toNat), (12, 0)] := by
    rw [hn]
    simp only [putF, pack]
    omega
  have ho : Instr.bits (.bardom b a c dom) % 256 = 0xe5 := by
    rw [hp]
    exact seg_low hf
  refine decode_encode (pack_word hp hf rfl) (by rw [ho]; decide) ?_ hw
  rw [candidate, ho]
  show some (Instr.bardom (getF (Instr.bits (.bardom b a c dom)) 22 6) (getF (Instr.bits (.bardom b a c dom)) 16 6) (getF (Instr.bits (.bardom b a c dom)) 32 6) (getF (Instr.bits (.bardom b a c dom)) 48 4)) = _
  refine congrArg some ?_
  congr 1
  · exact field hp hf 3 rfl rfl
  · exact field hp hf 2 rfl rfl
  · exact field hp hf 5 rfl rfl
  · exact field hp hf 7 rfl rfl
theorem xph (dom : BitVec 4) (a : BitVec 6) (disp : BitVec 16) : Statement (.xph dom a disp) := by
  refine ⟨fun _ _ hw => ?_, fun _ h => nomatch h⟩
  have h_dom := dom.isLt
  have h_a := a.isLt
  have h_disp := disp.isLt
  have hn : Instr.bits (.xph dom a disp) = 0x2e6 + putF 28 dom + putF 16 a + putF 32 disp := rfl
  have hf : Fits [(8, 230), (8, 2), (6, a.toNat), (6, 0), (4, dom.toNat), (16, disp.toNat), (16, 0)] := ⟨by decide, by decide, h_a, by decide, h_dom, h_disp, by decide, trivial⟩
  have hp : Instr.bits (.xph dom a disp) = pack [(8, 230), (8, 2), (6, a.toNat), (6, 0), (4, dom.toNat), (16, disp.toNat), (16, 0)] := by
    rw [hn]
    simp only [putF, pack]
    omega
  have ho : Instr.bits (.xph dom a disp) % 256 = 0xe6 := by
    rw [hp]
    exact seg_low hf
  refine decode_encode (pack_word hp hf rfl) (by rw [ho]; decide) ?_ hw
  rw [candidate, ho]
  show some (Instr.xph (getF (Instr.bits (.xph dom a disp)) 28 4) (getF (Instr.bits (.xph dom a disp)) 16 6) (getF (Instr.bits (.xph dom a disp)) 32 16)) = _
  refine congrArg some ?_
  congr 1
  · exact field hp hf 4 rfl rfl
  · exact field hp hf 2 rfl rfl
  · exact field hp hf 5 rfl rfl
theorem xmit (b : BitVec 6) (a : BitVec 6) (rec : BitVec 16) : Statement (.xmit b a rec) := by
  refine ⟨fun _ _ hw => ?_, fun _ h => nomatch h⟩
  have h_b := b.isLt
  have h_a := a.isLt
  have h_rec := rec.isLt
  have hn : Instr.bits (.xmit b a rec) = 0x2e7 + putF 22 b + putF 16 a + putF 32 rec := rfl
  have hf : Fits [(8, 231), (8, 2), (6, a.toNat), (6, b.toNat), (4, 0), (16, rec.toNat), (16, 0)] := ⟨by decide, by decide, h_a, h_b, by decide, h_rec, by decide, trivial⟩
  have hp : Instr.bits (.xmit b a rec) = pack [(8, 231), (8, 2), (6, a.toNat), (6, b.toNat), (4, 0), (16, rec.toNat), (16, 0)] := by
    rw [hn]
    simp only [putF, pack]
    omega
  have ho : Instr.bits (.xmit b a rec) % 256 = 0xe7 := by
    rw [hp]
    exact seg_low hf
  refine decode_encode (pack_word hp hf rfl) (by rw [ho]; decide) ?_ hw
  rw [candidate, ho]
  show some (Instr.xmit (getF (Instr.bits (.xmit b a rec)) 22 6) (getF (Instr.bits (.xmit b a rec)) 16 6) (getF (Instr.bits (.xmit b a rec)) 32 16)) = _
  refine congrArg some ?_
  congr 1
  · exact field hp hf 3 rfl rfl
  · exact field hp hf 2 rfl rfl
  · exact field hp hf 5 rfl rfl
theorem xsel (b : BitVec 6) (a : BitVec 6) (rec : BitVec 16) : Statement (.xsel b a rec) := by
  refine ⟨fun _ _ hw => ?_, fun _ h => nomatch h⟩
  have h_b := b.isLt
  have h_a := a.isLt
  have h_rec := rec.isLt
  have hn : Instr.bits (.xsel b a rec) = 0x2e8 + putF 22 b + putF 16 a + putF 32 rec := rfl
  have hf : Fits [(8, 232), (8, 2), (6, a.toNat), (6, b.toNat), (4, 0), (16, rec.toNat), (16, 0)] := ⟨by decide, by decide, h_a, h_b, by decide, h_rec, by decide, trivial⟩
  have hp : Instr.bits (.xsel b a rec) = pack [(8, 232), (8, 2), (6, a.toNat), (6, b.toNat), (4, 0), (16, rec.toNat), (16, 0)] := by
    rw [hn]
    simp only [putF, pack]
    omega
  have ho : Instr.bits (.xsel b a rec) % 256 = 0xe8 := by
    rw [hp]
    exact seg_low hf
  refine decode_encode (pack_word hp hf rfl) (by rw [ho]; decide) ?_ hw
  rw [candidate, ho]
  show some (Instr.xsel (getF (Instr.bits (.xsel b a rec)) 22 6) (getF (Instr.bits (.xsel b a rec)) 16 6) (getF (Instr.bits (.xsel b a rec)) 32 16)) = _
  refine congrArg some ?_
  congr 1
  · exact field hp hf 3 rfl rfl
  · exact field hp hf 2 rfl rfl
  · exact field hp hf 5 rfl rfl
theorem xrcv (d : BitVec 5) (b : BitVec 6) (rec : BitVec 16) : Statement (.xrcv d b rec) := by
  refine ⟨fun _ _ hw => ?_, fun _ h => nomatch h⟩
  have h_d := d.isLt
  have h_b := b.isLt
  have h_rec := rec.isLt
  have hn : Instr.bits (.xrcv d b rec) = 0x2e9 + putF 10 d + putF 22 b + putF 32 rec := rfl
  have hf : Fits [(8, 233), (2, 2), (5, d.toNat), (7, 0), (6, b.toNat), (4, 0), (16, rec.toNat), (16, 0)] := ⟨by decide, by decide, h_d, by decide, h_b, by decide, h_rec, by decide, trivial⟩
  have hp : Instr.bits (.xrcv d b rec) = pack [(8, 233), (2, 2), (5, d.toNat), (7, 0), (6, b.toNat), (4, 0), (16, rec.toNat), (16, 0)] := by
    rw [hn]
    simp only [putF, pack]
    omega
  have ho : Instr.bits (.xrcv d b rec) % 256 = 0xe9 := by
    rw [hp]
    exact seg_low hf
  refine decode_encode (pack_word hp hf rfl) (by rw [ho]; decide) ?_ hw
  rw [candidate, ho]
  show some (Instr.xrcv (getF (Instr.bits (.xrcv d b rec)) 10 5) (getF (Instr.bits (.xrcv d b rec)) 22 6) (getF (Instr.bits (.xrcv d b rec)) 32 16)) = _
  refine congrArg some ?_
  congr 1
  · exact field hp hf 2 rfl rfl
  · exact field hp hf 4 rfl rfl
  · exact field hp hf 6 rfl rfl
theorem sstep (dom : BitVec 4) (b : BitVec 6) (a : BitVec 6) (disp : BitVec 16) : Statement (.sstep dom b a disp) := by
  refine ⟨fun _ _ hw => ?_, fun _ h => nomatch h⟩
  have h_dom := dom.isLt
  have h_b := b.isLt
  have h_a := a.isLt
  have h_disp := disp.isLt
  have hn : Instr.bits (.sstep dom b a disp) = 0x2eb + putF 28 dom + putF 22 b + putF 16 a + putF 32 disp := rfl
  have hf : Fits [(8, 235), (8, 2), (6, a.toNat), (6, b.toNat), (4, dom.toNat), (16, disp.toNat), (16, 0)] := ⟨by decide, by decide, h_a, h_b, h_dom, h_disp, by decide, trivial⟩
  have hp : Instr.bits (.sstep dom b a disp) = pack [(8, 235), (8, 2), (6, a.toNat), (6, b.toNat), (4, dom.toNat), (16, disp.toNat), (16, 0)] := by
    rw [hn]
    simp only [putF, pack]
    omega
  have ho : Instr.bits (.sstep dom b a disp) % 256 = 0xeb := by
    rw [hp]
    exact seg_low hf
  refine decode_encode (pack_word hp hf rfl) (by rw [ho]; decide) ?_ hw
  rw [candidate, ho]
  show some (Instr.sstep (getF (Instr.bits (.sstep dom b a disp)) 28 4) (getF (Instr.bits (.sstep dom b a disp)) 22 6) (getF (Instr.bits (.sstep dom b a disp)) 16 6) (getF (Instr.bits (.sstep dom b a disp)) 32 16)) = _
  refine congrArg some ?_
  congr 1
  · exact field hp hf 4 rfl rfl
  · exact field hp hf 3 rfl rfl
  · exact field hp hf 2 rfl rfl
  · exact field hp hf 5 rfl rfl
theorem gate (i : BitVec 10) : Statement (.gate i) := by
  refine ⟨fun _ _ hw => ?_, fun _ h => nomatch h⟩
  have h_i := i.isLt
  have hn : Instr.bits (.gate i) = 0x1ec + putF 22 i := rfl
  have hf : Fits [(8, 236), (14, 1), (10, i.toNat), (32, 0)] := ⟨by decide, by decide, h_i, by decide, trivial⟩
  have hp : Instr.bits (.gate i) = pack [(8, 236), (14, 1), (10, i.toNat), (32, 0)] := by
    rw [hn]
    simp only [putF, pack]
    omega
  have ho : Instr.bits (.gate i) % 256 = 0xec := by
    rw [hp]
    exact seg_low hf
  refine decode_encode (pack_word hp hf rfl) (by rw [ho]; decide) ?_ hw
  rw [candidate, ho]
  show some (Instr.gate (getF (Instr.bits (.gate i)) 22 10)) = _
  refine congrArg some ?_
  congr 1
  · exact field hp hf 2 rfl rfl
theorem select_gretFail (w : Nat) (h : w / 2 ^ 28 % 16 = 1) :
    candidateOf 0xed w = some (Instr.gretFail (getF w 16 6)) := by
  simp only [candidateOf, candidateE, h]
theorem gretFail (a : BitVec 6) : Statement (.gretFail a) := by
  refine ⟨fun _ _ hw => ?_, fun _ h => nomatch h⟩
  have h_a := a.isLt
  have hn : Instr.bits (.gretFail a) = 0x100001ed + putF 16 a := rfl
  have hf : Fits [(8, 237), (8, 1), (6, a.toNat), (6, 0), (4, 1), (32, 0)] := ⟨by decide, by decide, h_a, by decide, by decide, by decide, trivial⟩
  have hp : Instr.bits (.gretFail a) = pack [(8, 237), (8, 1), (6, a.toNat), (6, 0), (4, 1), (32, 0)] := by
    rw [hn]
    simp only [putF, pack]
    omega
  have ho : Instr.bits (.gretFail a) % 256 = 0xed := by
    rw [hp]
    exact seg_low hf
  have hs : Instr.bits (.gretFail a)  / 2 ^ 28 % 16 = 1 := seg hp hf 4 rfl rfl rfl
  refine decode_encode (pack_word hp hf rfl) (by rw [ho]; decide) ?_ hw
  rw [candidate, ho, select_gretFail _ hs]
  show some (Instr.gretFail (getF (Instr.bits (.gretFail a)) 16 6)) = _
  refine congrArg some ?_
  congr 1
  · exact field hp hf 2 rfl rfl
theorem trap (i : BitVec 10) : Statement (.trap i) := by
  refine ⟨fun _ _ hw => ?_, fun _ h => nomatch h⟩
  have h_i := i.isLt
  have hn : Instr.bits (.trap i) = 0x1ee + putF 22 i := rfl
  have hf : Fits [(8, 238), (14, 1), (10, i.toNat), (32, 0)] := ⟨by decide, by decide, h_i, by decide, trivial⟩
  have hp : Instr.bits (.trap i) = pack [(8, 238), (14, 1), (10, i.toNat), (32, 0)] := by
    rw [hn]
    simp only [putF, pack]
    omega
  have ho : Instr.bits (.trap i) % 256 = 0xee := by
    rw [hp]
    exact seg_low hf
  refine decode_encode (pack_word hp hf rfl) (by rw [ho]; decide) ?_ hw
  rw [candidate, ho]
  show some (Instr.trap (getF (Instr.bits (.trap i)) 22 10)) = _
  refine congrArg some ?_
  congr 1
  · exact field hp hf 2 rfl rfl
theorem gets (d : BitVec 6) (i : BitVec 10) : Statement (.gets d i) := by
  refine ⟨fun _ _ hw => ?_, fun _ h => nomatch h⟩
  have h_d := d.isLt
  have h_i := i.isLt
  have hn : Instr.bits (.gets d i) = 0x1f0 + putF 10 d + putF 22 i := rfl
  have hf : Fits [(8, 240), (2, 1), (6, d.toNat), (6, 0), (10, i.toNat), (32, 0)] := ⟨by decide, by decide, h_d, by decide, h_i, by decide, trivial⟩
  have hp : Instr.bits (.gets d i) = pack [(8, 240), (2, 1), (6, d.toNat), (6, 0), (10, i.toNat), (32, 0)] := by
    rw [hn]
    simp only [putF, pack]
    omega
  have ho : Instr.bits (.gets d i) % 256 = 0xf0 := by
    rw [hp]
    exact seg_low hf
  refine decode_encode (pack_word hp hf rfl) (by rw [ho]; decide) ?_ hw
  rw [candidate, ho]
  show some (Instr.gets (getF (Instr.bits (.gets d i)) 10 6) (getF (Instr.bits (.gets d i)) 22 10)) = _
  refine congrArg some ?_
  congr 1
  · exact field hp hf 2 rfl rfl
  · exact field hp hf 4 rfl rfl
theorem sets (i : BitVec 10) (a : BitVec 6) : Statement (.sets i a) := by
  refine ⟨fun _ _ hw => ?_, fun _ h => nomatch h⟩
  have h_i := i.isLt
  have h_a := a.isLt
  have hn : Instr.bits (.sets i a) = 0x1f1 + putF 22 i + putF 16 a := rfl
  have hf : Fits [(8, 241), (8, 1), (6, a.toNat), (10, i.toNat), (32, 0)] := ⟨by decide, by decide, h_a, h_i, by decide, trivial⟩
  have hp : Instr.bits (.sets i a) = pack [(8, 241), (8, 1), (6, a.toNat), (10, i.toNat), (32, 0)] := by
    rw [hn]
    simp only [putF, pack]
    omega
  have ho : Instr.bits (.sets i a) % 256 = 0xf1 := by
    rw [hp]
    exact seg_low hf
  refine decode_encode (pack_word hp hf rfl) (by rw [ho]; decide) ?_ hw
  rw [candidate, ho]
  show some (Instr.sets (getF (Instr.bits (.sets i a)) 22 10) (getF (Instr.bits (.sets i a)) 16 6)) = _
  refine congrArg some ?_
  congr 1
  · exact field hp hf 3 rfl rfl
  · exact field hp hf 2 rfl rfl
theorem brk (tl : BitVec 2) : Statement (.brk tl) := by
  refine ⟨fun _ _ _ => ?_, fun _ h => nomatch h⟩
  have h_tl := tl.isLt
  have hb : Instr.bits (.brk tl) = 0xF2 + tl.toNat * 2 ^ 8 := rfl
  have hn : (encode (.brk tl)).toNat = 0xF2 + tl.toNat * 2 ^ 8 := by
    rw [encode, hb, BitVec.toNat_ofNat]
    omega
  unfold decode
  rw [if_pos (by omega)]
  congr 1
  with_reducible apply getF_eq
  omega
theorem select_iflush (w : Nat) (h : w / 2 ^ 28 % 16 = 0) :
    candidateOf 0xf3 w = some (Instr.iflush (getF w 16 6)) := by
  simp only [candidateOf, candidateF, h]
theorem iflush (a : BitVec 6) : Statement (.iflush a) := by
  refine ⟨fun _ _ hw => ?_, fun _ h => nomatch h⟩
  have h_a := a.isLt
  have hn : Instr.bits (.iflush a) = 0x1f3 + putF 16 a := rfl
  have hf : Fits [(8, 243), (8, 1), (6, a.toNat), (6, 0), (4, 0), (32, 0)] := ⟨by decide, by decide, h_a, by decide, by decide, by decide, trivial⟩
  have hp : Instr.bits (.iflush a) = pack [(8, 243), (8, 1), (6, a.toNat), (6, 0), (4, 0), (32, 0)] := by
    rw [hn]
    simp only [putF, pack]
    omega
  have ho : Instr.bits (.iflush a) % 256 = 0xf3 := by
    rw [hp]
    exact seg_low hf
  have hs : Instr.bits (.iflush a)  / 2 ^ 28 % 16 = 0 := seg hp hf 4 rfl rfl rfl
  refine decode_encode (pack_word hp hf rfl) (by rw [ho]; decide) ?_ hw
  rw [candidate, ho, select_iflush _ hs]
  show some (Instr.iflush (getF (Instr.bits (.iflush a)) 16 6)) = _
  refine congrArg some ?_
  congr 1
  · exact field hp hf 2 rfl rfl
theorem select_iflushAll (w : Nat) (h : w / 2 ^ 28 % 16 = 1) :
    candidateOf 0xf3 w = some (Instr.iflushAll (getF w 16 6)) := by
  simp only [candidateOf, candidateF, h]
theorem iflushAll (a : BitVec 6) : Statement (.iflushAll a) := by
  refine ⟨fun _ _ hw => ?_, fun _ h => nomatch h⟩
  have h_a := a.isLt
  have hn : Instr.bits (.iflushAll a) = 0x100001f3 + putF 16 a := rfl
  have hf : Fits [(8, 243), (8, 1), (6, a.toNat), (6, 0), (4, 1), (32, 0)] := ⟨by decide, by decide, h_a, by decide, by decide, by decide, trivial⟩
  have hp : Instr.bits (.iflushAll a) = pack [(8, 243), (8, 1), (6, a.toNat), (6, 0), (4, 1), (32, 0)] := by
    rw [hn]
    simp only [putF, pack]
    omega
  have ho : Instr.bits (.iflushAll a) % 256 = 0xf3 := by
    rw [hp]
    exact seg_low hf
  have hs : Instr.bits (.iflushAll a)  / 2 ^ 28 % 16 = 1 := seg hp hf 4 rfl rfl rfl
  refine decode_encode (pack_word hp hf rfl) (by rw [ho]; decide) ?_ hw
  rw [candidate, ho, select_iflushAll _ hs]
  show some (Instr.iflushAll (getF (Instr.bits (.iflushAll a)) 16 6)) = _
  refine congrArg some ?_
  congr 1
  · exact field hp hf 2 rfl rfl
theorem select_tlbinvPage (w : Nat) (h : w / 2 ^ 28 % 16 = 0) :
    candidateOf 0xf4 w = some (Instr.tlbinvPage (getF w 22 6) (getF w 16 6)) := by
  simp only [candidateOf, candidateF, h]
theorem tlbinvPage (b : BitVec 6) (a : BitVec 6) : Statement (.tlbinvPage b a) := by
  refine ⟨fun _ _ hw => ?_, fun _ h => nomatch h⟩
  have h_b := b.isLt
  have h_a := a.isLt
  have hn : Instr.bits (.tlbinvPage b a) = 0x1f4 + putF 22 b + putF 16 a := rfl
  have hf : Fits [(8, 244), (8, 1), (6, a.toNat), (6, b.toNat), (4, 0), (32, 0)] := ⟨by decide, by decide, h_a, h_b, by decide, by decide, trivial⟩
  have hp : Instr.bits (.tlbinvPage b a) = pack [(8, 244), (8, 1), (6, a.toNat), (6, b.toNat), (4, 0), (32, 0)] := by
    rw [hn]
    simp only [putF, pack]
    omega
  have ho : Instr.bits (.tlbinvPage b a) % 256 = 0xf4 := by
    rw [hp]
    exact seg_low hf
  have hs : Instr.bits (.tlbinvPage b a)  / 2 ^ 28 % 16 = 0 := seg hp hf 4 rfl rfl rfl
  refine decode_encode (pack_word hp hf rfl) (by rw [ho]; decide) ?_ hw
  rw [candidate, ho, select_tlbinvPage _ hs]
  show some (Instr.tlbinvPage (getF (Instr.bits (.tlbinvPage b a)) 22 6) (getF (Instr.bits (.tlbinvPage b a)) 16 6)) = _
  refine congrArg some ?_
  congr 1
  · exact field hp hf 3 rfl rfl
  · exact field hp hf 2 rfl rfl
theorem select_tlbinvGuild (w : Nat) (h : w / 2 ^ 28 % 16 = 1) :
    candidateOf 0xf4 w = some (Instr.tlbinvGuild (getF w 22 6) (getF w 16 6)) := by
  simp only [candidateOf, candidateF, h]
theorem tlbinvGuild (b : BitVec 6) (a : BitVec 6) : Statement (.tlbinvGuild b a) := by
  refine ⟨fun _ _ hw => ?_, fun _ h => nomatch h⟩
  have h_b := b.isLt
  have h_a := a.isLt
  have hn : Instr.bits (.tlbinvGuild b a) = 0x100001f4 + putF 22 b + putF 16 a := rfl
  have hf : Fits [(8, 244), (8, 1), (6, a.toNat), (6, b.toNat), (4, 1), (32, 0)] := ⟨by decide, by decide, h_a, h_b, by decide, by decide, trivial⟩
  have hp : Instr.bits (.tlbinvGuild b a) = pack [(8, 244), (8, 1), (6, a.toNat), (6, b.toNat), (4, 1), (32, 0)] := by
    rw [hn]
    simp only [putF, pack]
    omega
  have ho : Instr.bits (.tlbinvGuild b a) % 256 = 0xf4 := by
    rw [hp]
    exact seg_low hf
  have hs : Instr.bits (.tlbinvGuild b a)  / 2 ^ 28 % 16 = 1 := seg hp hf 4 rfl rfl rfl
  refine decode_encode (pack_word hp hf rfl) (by rw [ho]; decide) ?_ hw
  rw [candidate, ho, select_tlbinvGuild _ hs]
  show some (Instr.tlbinvGuild (getF (Instr.bits (.tlbinvGuild b a)) 22 6) (getF (Instr.bits (.tlbinvGuild b a)) 16 6)) = _
  refine congrArg some ?_
  congr 1
  · exact field hp hf 3 rfl rfl
  · exact field hp hf 2 rfl rfl
theorem select_tlbinvAll (w : Nat) (h : w / 2 ^ 28 % 16 = 2) :
    candidateOf 0xf4 w = some (Instr.tlbinvAll (getF w 22 6) (getF w 16 6)) := by
  simp only [candidateOf, candidateF, h]
theorem tlbinvAll (b : BitVec 6) (a : BitVec 6) : Statement (.tlbinvAll b a) := by
  refine ⟨fun _ _ hw => ?_, fun _ h => nomatch h⟩
  have h_b := b.isLt
  have h_a := a.isLt
  have hn : Instr.bits (.tlbinvAll b a) = 0x200001f4 + putF 22 b + putF 16 a := rfl
  have hf : Fits [(8, 244), (8, 1), (6, a.toNat), (6, b.toNat), (4, 2), (32, 0)] := ⟨by decide, by decide, h_a, h_b, by decide, by decide, trivial⟩
  have hp : Instr.bits (.tlbinvAll b a) = pack [(8, 244), (8, 1), (6, a.toNat), (6, b.toNat), (4, 2), (32, 0)] := by
    rw [hn]
    simp only [putF, pack]
    omega
  have ho : Instr.bits (.tlbinvAll b a) % 256 = 0xf4 := by
    rw [hp]
    exact seg_low hf
  have hs : Instr.bits (.tlbinvAll b a)  / 2 ^ 28 % 16 = 2 := seg hp hf 4 rfl rfl rfl
  refine decode_encode (pack_word hp hf rfl) (by rw [ho]; decide) ?_ hw
  rw [candidate, ho, select_tlbinvAll _ hs]
  show some (Instr.tlbinvAll (getF (Instr.bits (.tlbinvAll b a)) 22 6) (getF (Instr.bits (.tlbinvAll b a)) 16 6)) = _
  refine congrArg some ?_
  congr 1
  · exact field hp hf 3 rfl rfl
  · exact field hp hf 2 rfl rfl
theorem mark (i : BitVec 10) : Statement (.mark i) := by
  refine ⟨fun _ _ hw => ?_, fun _ h => nomatch h⟩
  have h_i := i.isLt
  have hn : Instr.bits (.mark i) = 0x1f6 + putF 22 i := rfl
  have hf : Fits [(8, 246), (14, 1), (10, i.toNat), (32, 0)] := ⟨by decide, by decide, h_i, by decide, trivial⟩
  have hp : Instr.bits (.mark i) = pack [(8, 246), (14, 1), (10, i.toNat), (32, 0)] := by
    rw [hn]
    simp only [putF, pack]
    omega
  have ho : Instr.bits (.mark i) % 256 = 0xf6 := by
    rw [hp]
    exact seg_low hf
  refine decode_encode (pack_word hp hf rfl) (by rw [ho]; decide) ?_ hw
  rw [candidate, ho]
  show some (Instr.mark (getF (Instr.bits (.mark i)) 22 10)) = _
  refine congrArg some ?_
  congr 1
  · exact field hp hf 2 rfl rfl
theorem snap (d : BitVec 6) (a : BitVec 6) : Statement (.snap d a) := by
  refine ⟨fun _ _ hw => ?_, fun _ h => nomatch h⟩
  have h_d := d.isLt
  have h_a := a.isLt
  have hn : Instr.bits (.snap d a) = 0x1f7 + putF 10 d + putF 16 a := rfl
  have hf : Fits [(8, 247), (2, 1), (6, d.toNat), (6, a.toNat), (42, 0)] := ⟨by decide, by decide, h_d, h_a, by decide, trivial⟩
  have hp : Instr.bits (.snap d a) = pack [(8, 247), (2, 1), (6, d.toNat), (6, a.toNat), (42, 0)] := by
    rw [hn]
    simp only [putF, pack]
    omega
  have ho : Instr.bits (.snap d a) % 256 = 0xf7 := by
    rw [hp]
    exact seg_low hf
  refine decode_encode (pack_word hp hf rfl) (by rw [ho]; decide) ?_ hw
  rw [candidate, ho]
  show some (Instr.snap (getF (Instr.bits (.snap d a)) 10 6) (getF (Instr.bits (.snap d a)) 16 6)) = _
  refine congrArg some ?_
  congr 1
  · exact field hp hf 2 rfl rfl
  · exact field hp hf 3 rfl rfl
theorem select_freeze (w : Nat) (h : w / 2 ^ 22 % 2 = 1) :
    candidateOf 0xf8 w = some (Instr.freeze (getF w 23 1)) := by
  simp only [candidateOf, candidateF, h]
theorem freeze (sc : BitVec 1) : Statement (.freeze sc) := by
  refine ⟨fun _ _ hw => ?_, fun _ h => nomatch h⟩
  have h_sc := sc.isLt
  have hn : Instr.bits (.freeze sc) = 0x4001f8 + putF 23 sc := rfl
  have hf : Fits [(8, 248), (14, 1), (1, 1), (1, sc.toNat), (40, 0)] := ⟨by decide, by decide, by decide, h_sc, by decide, trivial⟩
  have hp : Instr.bits (.freeze sc) = pack [(8, 248), (14, 1), (1, 1), (1, sc.toNat), (40, 0)] := by
    rw [hn]
    simp only [putF, pack]
    omega
  have ho : Instr.bits (.freeze sc) % 256 = 0xf8 := by
    rw [hp]
    exact seg_low hf
  have hs : Instr.bits (.freeze sc)  / 2 ^ 22 % 2 = 1 := seg hp hf 2 rfl rfl rfl
  refine decode_encode (pack_word hp hf rfl) (by rw [ho]; decide) ?_ hw
  rw [candidate, ho, select_freeze _ hs]
  show some (Instr.freeze (getF (Instr.bits (.freeze sc)) 23 1)) = _
  refine congrArg some ?_
  congr 1
  · exact field hp hf 3 rfl rfl
theorem select_thaw (w : Nat) (h : w / 2 ^ 22 % 2 = 0) :
    candidateOf 0xf8 w = some (Instr.thaw (getF w 23 1)) := by
  simp only [candidateOf, candidateF, h]
theorem thaw (sc : BitVec 1) : Statement (.thaw sc) := by
  refine ⟨fun _ _ hw => ?_, fun _ h => nomatch h⟩
  have h_sc := sc.isLt
  have hn : Instr.bits (.thaw sc) = 0x1f8 + putF 23 sc := rfl
  have hf : Fits [(8, 248), (14, 1), (1, 0), (1, sc.toNat), (40, 0)] := ⟨by decide, by decide, by decide, h_sc, by decide, trivial⟩
  have hp : Instr.bits (.thaw sc) = pack [(8, 248), (14, 1), (1, 0), (1, sc.toNat), (40, 0)] := by
    rw [hn]
    simp only [putF, pack]
    omega
  have ho : Instr.bits (.thaw sc) % 256 = 0xf8 := by
    rw [hp]
    exact seg_low hf
  have hs : Instr.bits (.thaw sc)  / 2 ^ 22 % 2 = 0 := seg hp hf 2 rfl rfl rfl
  refine decode_encode (pack_word hp hf rfl) (by rw [ho]; decide) ?_ hw
  rw [candidate, ho, select_thaw _ hs]
  show some (Instr.thaw (getF (Instr.bits (.thaw sc)) 23 1)) = _
  refine congrArg some ?_
  congr 1
  · exact field hp hf 3 rfl rfl
theorem illegalOpcode (word : BitVec 64) : Statement (.illegalOpcode word) :=
  ⟨fun h _ _ => (nomatch h), fun _ h => (nomatch h)⟩
theorem benchInstruction (word : BitVec 32) : Statement (.benchInstruction word) :=
  ⟨fun _ h => absurd rfl h, fun _ h => nomatch h⟩
theorem epWaitact (b : BitVec 5) (a : BitVec 5) (d : BitVec 5) : Statement (.epWaitact b a d) := by
  refine ⟨fun _ h => absurd rfl h, fun w h => ?_⟩
  have h_b := b.isLt
  have h_a := a.isLt
  have h_d := d.isLt
  have hw : w.toNat = 11 + d.toNat * 2 ^ 7 + a.toNat * 2 ^ 15 + b.toNat * 2 ^ 20 := by
    have h1 := Option.some.inj h
    subst h1
    simp only [putF, BitVec.toNat_ofNat]
    omega
  have ho : w.toNat % 128 = 11 := by omega
  have h3 : w.toNat / 2 ^ 12 % 8 = 0 := by omega
  unfold decodeRv
  dsimp only
  rw [if_pos (by omega)]
  rw [if_pos (by omega)]
  congr 1 <;> (with_reducible apply getF_eq) <;> omega
theorem epPubobs (b : BitVec 5) (a : BitVec 5) (d : BitVec 5) : Statement (.epPubobs b a d) := by
  refine ⟨fun _ h => absurd rfl h, fun w h => ?_⟩
  have h_b := b.isLt
  have h_a := a.isLt
  have h_d := d.isLt
  have hw : w.toNat = 11 + 2 ^ 12 + d.toNat * 2 ^ 7 + a.toNat * 2 ^ 15 + b.toNat * 2 ^ 20 := by
    have h1 := Option.some.inj h
    subst h1
    simp only [putF, BitVec.toNat_ofNat]
    omega
  have ho : w.toNat % 128 = 11 := by omega
  have h3 : w.toNat / 2 ^ 12 % 8 = 1 := by omega
  unfold decodeRv
  dsimp only
  rw [if_pos (by omega)]
  rw [if_neg (by omega)]
  rw [if_pos (by omega)]
  congr 1 <;> (with_reducible apply getF_eq) <;> omega
theorem epEnd (b : BitVec 5) (a : BitVec 5) : Statement (.epEnd b a) := by
  refine ⟨fun _ h => absurd rfl h, fun w h => ?_⟩
  have h_b := b.isLt
  have h_a := a.isLt
  have hw : w.toNat = 11 + 2 ^ 12 + 2 ^ 25 + a.toNat * 2 ^ 15 + b.toNat * 2 ^ 20 := by
    have h1 := Option.some.inj h
    subst h1
    simp only [putF, BitVec.toNat_ofNat]
    omega
  have ho : w.toNat % 128 = 11 := by omega
  have h3 : w.toNat / 2 ^ 12 % 8 = 1 := by omega
  have hd : getF w.toNat 7 5 = (0 : BitVec 5) := by
    with_reducible apply getF_eq
    simp
    omega
  unfold decodeRv
  dsimp only
  rw [if_pos (by omega)]
  rw [if_neg (by omega)]
  rw [if_neg (by omega)]
  rw [if_pos ⟨by omega, by omega, hd⟩]
  congr 1 <;> (with_reducible apply getF_eq) <;> omega
theorem epInfo (item : BitVec 3) (d : BitVec 5) : Statement (.epInfo item d) := by
  refine ⟨fun _ h => absurd rfl h, fun w h => ?_⟩
  have h_item := item.isLt
  have h_d := d.isLt
  have hw : w.toNat = 11 + 2 * 2 ^ 12 + d.toNat * 2 ^ 7 + item.toNat * 2 ^ 20 := by
    have h1 := Option.some.inj h
    subst h1
    simp only [putF, BitVec.toNat_ofNat]
    omega
  have ho : w.toNat % 128 = 11 := by omega
  have h3 : w.toNat / 2 ^ 12 % 8 = 2 := by omega
  have ha : getF w.toNat 15 5 = (0 : BitVec 5) := by
    with_reducible apply getF_eq
    simp
    omega
  unfold decodeRv
  dsimp only
  rw [if_pos (by omega)]
  rw [if_neg (by omega)]
  rw [if_neg (by omega)]
  rw [if_neg (by omega)]
  rw [if_pos ⟨by omega, by omega, ha⟩]
  congr 1 <;> (with_reducible apply getF_eq) <;> omega
theorem epVer (d : BitVec 5) : Statement (.epVer d) := by
  refine ⟨fun _ h => absurd rfl h, fun w h => ?_⟩
  have h_d := d.isLt
  have hw : w.toNat = 11 + 3 * 2 ^ 12 + d.toNat * 2 ^ 7 := by
    have h1 := Option.some.inj h
    subst h1
    simp only [putF, BitVec.toNat_ofNat]
    omega
  have ho : w.toNat % 128 = 11 := by omega
  have h3 : w.toNat / 2 ^ 12 % 8 = 3 := by omega
  unfold decodeRv
  dsimp only
  rw [if_pos (by omega)]
  rw [if_neg (by omega)]
  rw [if_neg (by omega)]
  rw [if_neg (by omega)]
  rw [if_neg (by omega)]
  rw [if_pos (by omega)]
  congr 1 <;> (with_reducible apply getF_eq) <;> omega
theorem epRand (b : BitVec 5) (a : BitVec 5) (d : BitVec 5) : Statement (.epRand b a d) := by
  refine ⟨fun _ h => absurd rfl h, fun w h => ?_⟩
  have h_b := b.isLt
  have h_a := a.isLt
  have h_d := d.isLt
  have hw : w.toNat = 43 + d.toNat * 2 ^ 7 + a.toNat * 2 ^ 15 + b.toNat * 2 ^ 20 := by
    have h1 := Option.some.inj h
    subst h1
    simp only [putF, BitVec.toNat_ofNat]
    omega
  have ho : w.toNat % 128 = 43 := by omega
  have h3 : w.toNat / 2 ^ 12 % 8 = 0 := by omega
  unfold decodeRv
  dsimp only
  rw [if_neg (by omega)]
  rw [if_pos (by omega)]
  rw [if_pos (by omega)]
  congr 1 <;> (with_reducible apply getF_eq) <;> omega
theorem epRandh (b : BitVec 5) (a : BitVec 5) (d : BitVec 5) : Statement (.epRandh b a d) := by
  refine ⟨fun _ h => absurd rfl h, fun w h => ?_⟩
  have h_b := b.isLt
  have h_a := a.isLt
  have h_d := d.isLt
  have hw : w.toNat = 43 + 2 ^ 25 + d.toNat * 2 ^ 7 + a.toNat * 2 ^ 15 + b.toNat * 2 ^ 20 := by
    have h1 := Option.some.inj h
    subst h1
    simp only [putF, BitVec.toNat_ofNat]
    omega
  have ho : w.toNat % 128 = 43 := by omega
  have h3 : w.toNat / 2 ^ 12 % 8 = 0 := by omega
  unfold decodeRv
  dsimp only
  rw [if_neg (by omega)]
  rw [if_pos (by omega)]
  rw [if_neg (by omega)]
  rw [if_pos (by omega)]
  congr 1 <;> (with_reducible apply getF_eq) <;> omega
theorem start (b : Nat) : Statement (.start b) :=
  ⟨fun _ h => absurd rfl h, fun _ h => nomatch h⟩
theorem abort (b : Nat) : Statement (.abort b) :=
  ⟨fun _ h => absurd rfl h, fun _ h => nomatch h⟩
theorem action (b : Nat) : Statement (.action b) :=
  ⟨fun _ h => absurd rfl h, fun _ h => nomatch h⟩
theorem versionAdvance (part : Nat) : Statement (.versionAdvance part) :=
  ⟨fun _ h => absurd rfl h, fun _ h => nomatch h⟩
theorem lineArrival (tid : Nat) (cached : Bool) : Statement (.lineArrival tid cached) :=
  ⟨fun _ h => absurd rfl h, fun _ h => nomatch h⟩
theorem issue (core : Nat) (turn : IssueTurn) : Statement (.issue core turn) :=
  ⟨fun _ h => absurd rfl h, fun _ h => nomatch h⟩
theorem commitRequest (tid : Nat) : Statement (.commitRequest tid) :=
  ⟨fun _ h => absurd rfl h, fun _ h => nomatch h⟩
theorem commitGrant (tid : Nat) : Statement (.commitGrant tid) :=
  ⟨fun _ h => absurd rfl h, fun _ h => nomatch h⟩
theorem signatureDelivery (pkt : Nat) : Statement (.signatureDelivery pkt) :=
  ⟨fun _ h => absurd rfl h, fun _ h => nomatch h⟩
theorem commitAcknowledgement (tid : Nat) : Statement (.commitAcknowledgement tid) :=
  ⟨fun _ h => absurd rfl h, fun _ h => nomatch h⟩
theorem farAtomicApply (i : Nat) : Statement (.farAtomicApply i) :=
  ⟨fun _ h => absurd rfl h, fun _ h => nomatch h⟩
theorem widenScope (line : Nat) (core : Nat) : Statement (.widenScope line core) :=
  ⟨fun _ h => absurd rfl h, fun _ h => nomatch h⟩
theorem fillReply (pkt : Nat) : Statement (.fillReply pkt) :=
  ⟨fun _ h => absurd rfl h, fun _ h => nomatch h⟩
theorem probe (pkt : Nat) : Statement (.probe pkt) :=
  ⟨fun _ h => absurd rfl h, fun _ h => nomatch h⟩
theorem packetArrival (pkt : Nat) : Statement (.packetArrival pkt) :=
  ⟨fun _ h => absurd rfl h, fun _ h => nomatch h⟩
theorem nack (pkt : Nat) : Statement (.nack pkt) :=
  ⟨fun _ h => absurd rfl h, fun _ h => nomatch h⟩
theorem deterministicTurn (crew : Nat) : Statement (.deterministicTurn crew) :=
  ⟨fun _ h => absurd rfl h, fun _ h => nomatch h⟩
theorem waitaEvaluation (tid : Nat) : Statement (.waitaEvaluation tid) :=
  ⟨fun _ h => absurd rfl h, fun _ h => nomatch h⟩
theorem pollInterval (tid : Nat) : Statement (.pollInterval tid) :=
  ⟨fun _ h => absurd rfl h, fun _ h => nomatch h⟩
theorem watchdog (tid : Nat) : Statement (.watchdog tid) :=
  ⟨fun _ h => absurd rfl h, fun _ h => nomatch h⟩
theorem preciseReexecution (tid : Nat) : Statement (.preciseReexecution tid) :=
  ⟨fun _ h => absurd rfl h, fun _ h => nomatch h⟩
theorem trapDelivery (tid : Nat) : Statement (.trapDelivery tid) :=
  ⟨fun _ h => absurd rfl h, fun _ h => nomatch h⟩
theorem pageFaultPark (tid : Nat) : Statement (.pageFaultPark tid) :=
  ⟨fun _ h => absurd rfl h, fun _ h => nomatch h⟩
theorem machineCheck (tid : Nat) (site : ErrorSite) : Statement (.machineCheck tid site) :=
  ⟨fun _ h => absurd rfl h, fun _ h => nomatch h⟩
theorem eventRecordWrite (part : Nat) (ring : Nat) (widx : BitVec 64) (ridx : BitVec 64) : Statement (.eventRecordWrite part ring widx ridx) :=
  ⟨fun _ h => absurd rfl h, fun _ h => nomatch h⟩
theorem engineChunk (core : Nat) (i : Nat) (j : Nat) : Statement (.engineChunk core i j) :=
  ⟨fun _ h => absurd rfl h, fun _ h => nomatch h⟩
theorem linkPayloadAck (core : Nat) (i : Nat) : Statement (.linkPayloadAck core i) :=
  ⟨fun _ h => absurd rfl h, fun _ h => nomatch h⟩
theorem drainWrite (core : Nat) (i : Nat) (j : Nat) : Statement (.drainWrite core i j) :=
  ⟨fun _ h => absurd rfl h, fun _ h => nomatch h⟩
theorem loomCommand (core : Nat) : Statement (.loomCommand core) :=
  ⟨fun _ h => absurd rfl h, fun _ h => nomatch h⟩
theorem panelCommand (core : Nat) : Statement (.panelCommand core) :=
  ⟨fun _ h => absurd rfl h, fun _ h => nomatch h⟩
theorem panelReady (core : Nat) (panel : Nat) : Statement (.panelReady core panel) :=
  ⟨fun _ h => absurd rfl h, fun _ h => nomatch h⟩
theorem sfuResult (core : Nat) : Statement (.sfuResult core) :=
  ⟨fun _ h => absurd rfl h, fun _ h => nomatch h⟩
theorem matrixWaitWake (tid : Nat) : Statement (.matrixWaitWake tid) :=
  ⟨fun _ h => absurd rfl h, fun _ h => nomatch h⟩
theorem engineWaitWake (tid : Nat) : Statement (.engineWaitWake tid) :=
  ⟨fun _ h => absurd rfl h, fun _ h => nomatch h⟩
theorem reductionWaitWake (tid : Nat) : Statement (.reductionWaitWake tid) :=
  ⟨fun _ h => absurd rfl h, fun _ h => nomatch h⟩
theorem contributionArrival (i : Nat) : Statement (.contributionArrival i) :=
  ⟨fun _ h => absurd rfl h, fun _ h => nomatch h⟩
theorem reductionTimeout (block : Nat) : Statement (.reductionTimeout block) :=
  ⟨fun _ h => absurd rfl h, fun _ h => nomatch h⟩
theorem taskPop (tid : Nat) : Statement (.taskPop tid) :=
  ⟨fun _ h => absurd rfl h, fun _ h => nomatch h⟩
theorem stealRequest (tid : Nat) (victim : Nat) : Statement (.stealRequest tid victim) :=
  ⟨fun _ h => absurd rfl h, fun _ h => nomatch h⟩
theorem stealBackoff (tid : Nat) : Statement (.stealBackoff tid) :=
  ⟨fun _ h => absurd rfl h, fun _ h => nomatch h⟩
theorem taskMessageApply (pkt : Nat) : Statement (.taskMessageApply pkt) :=
  ⟨fun _ h => absurd rfl h, fun _ h => nomatch h⟩
theorem counterDecrement (pkt : Nat) : Statement (.counterDecrement pkt) :=
  ⟨fun _ h => absurd rfl h, fun _ h => nomatch h⟩
theorem doorbell (part : Nat) (q : Nat) (widx : BitVec 64) : Statement (.doorbell part q widx) :=
  ⟨fun _ h => absurd rfl h, fun _ h => nomatch h⟩
theorem quantumBoundary (part : Nat) : Statement (.quantumBoundary part) :=
  ⟨fun _ h => absurd rfl h, fun _ h => nomatch h⟩
theorem slotService (part : Nat) (q : Nat) (widx : BitVec 64) (rec : List (BitVec 64)) : Statement (.slotService part q widx rec) :=
  ⟨fun _ h => absurd rfl h, fun _ h => nomatch h⟩
theorem launchPlacement (part : Nat) (q : Nat) : Statement (.launchPlacement part q) :=
  ⟨fun _ h => absurd rfl h, fun _ h => nomatch h⟩
theorem crewEnd (crew : Nat) : Statement (.crewEnd crew) :=
  ⟨fun _ h => absurd rfl h, fun _ h => nomatch h⟩
theorem barrierRelease (crew : Nat) (dom : Nat) : Statement (.barrierRelease crew dom) :=
  ⟨fun _ h => absurd rfl h, fun _ h => nomatch h⟩
theorem startJoin (crew : Nat) (dom : Nat) : Statement (.startJoin crew dom) :=
  ⟨fun _ h => absurd rfl h, fun _ h => nomatch h⟩
theorem phaseStart (crew : Nat) (dom : Nat) : Statement (.phaseStart crew dom) :=
  ⟨fun _ h => absurd rfl h, fun _ h => nomatch h⟩
theorem phaseEnd (crew : Nat) (dom : Nat) : Statement (.phaseEnd crew dom) :=
  ⟨fun _ h => absurd rfl h, fun _ h => nomatch h⟩
theorem exchangeChunk (tid : Nat) : Statement (.exchangeChunk tid) :=
  ⟨fun _ h => absurd rfl h, fun _ h => nomatch h⟩
theorem gangStop (crew : Nat) : Statement (.gangStop crew) :=
  ⟨fun _ h => absurd rfl h, fun _ h => nomatch h⟩
theorem stopRecordWrite (part : Nat) : Statement (.stopRecordWrite part) :=
  ⟨fun _ h => absurd rfl h, fun _ h => nomatch h⟩
theorem resumption (crew : ResumedCrew) : Statement (.resumption crew) :=
  ⟨fun _ h => absurd rfl h, fun _ h => nomatch h⟩
theorem snapshotEnd (part : Nat) : Statement (.snapshotEnd part) :=
  ⟨fun _ h => absurd rfl h, fun _ h => nomatch h⟩
theorem snapshotRestore (part : Nat) (k : Nat) : Statement (.snapshotRestore part k) :=
  ⟨fun _ h => absurd rfl h, fun _ h => nomatch h⟩
theorem recorderFreeze (part : Nat) (reason : Nat) : Statement (.recorderFreeze part reason) :=
  ⟨fun _ h => absurd rfl h, fun _ h => nomatch h⟩
theorem waitactReturn (b : Nat) : Statement (.waitactReturn b) :=
  ⟨fun _ h => absurd rfl h, fun _ h => nomatch h⟩
theorem instructionBudget (b : Nat) : Statement (.instructionBudget b) :=
  ⟨fun _ h => absurd rfl h, fun _ h => nomatch h⟩
theorem timeBudget (b : Nat) : Statement (.timeBudget b) :=
  ⟨fun _ h => absurd rfl h, fun _ h => nomatch h⟩
theorem hostRead (addr : Nat) (len : Nat) (hold : Bool) : Statement (.hostRead addr len hold) :=
  ⟨fun _ h => absurd rfl h, fun _ h => nomatch h⟩
theorem hostWrite (addr : Nat) (bytes : List (BitVec 8)) : Statement (.hostWrite addr bytes) :=
  ⟨fun _ h => absurd rfl h, fun _ h => nomatch h⟩
theorem hostAtomicop (op : Nat) (addr : Nat) (size : Nat) (v : BitVec 64) (c : BitVec 64) : Statement (.hostAtomicop op addr size v c) :=
  ⟨fun _ h => absurd rfl h, fun _ h => nomatch h⟩
theorem peerRequest (op : Nat) (src : Nat) (num : PeerNumber) (addr : Nat) (bytes : List (Nat × BitVec 8)) (v : BitVec 64) (c : BitVec 64) : Statement (.peerRequest op src num addr bytes v c) :=
  ⟨fun _ h => absurd rfl h, fun _ h => nomatch h⟩
theorem linkTimeout (id : Nat) : Statement (.linkTimeout id) :=
  ⟨fun _ h => absurd rfl h, fun _ h => nomatch h⟩
theorem linkRefusal (id : Nat) : Statement (.linkRefusal id) :=
  ⟨fun _ h => absurd rfl h, fun _ h => nomatch h⟩
theorem modnumLearn (num : BitVec 8) : Statement (.modnumLearn num) :=
  ⟨fun _ h => absurd rfl h, fun _ h => nomatch h⟩
theorem stopreq (part : Nat) (serial : Nat) : Statement (.stopreq part serial) :=
  ⟨fun _ h => absurd rfl h, fun _ h => nomatch h⟩
theorem resume (part : Nat) (serial : Nat) : Statement (.resume part serial) :=
  ⟨fun _ h => absurd rfl h, fun _ h => nomatch h⟩
theorem pfdeny (part : Nat) (v : BitVec 64) : Statement (.pfdeny part v) :=
  ⟨fun _ h => absurd rfl h, fun _ h => nomatch h⟩
theorem tlbcmdPage (part : Nat) (guild : BitVec 16) : Statement (.tlbcmdPage part guild) :=
  ⟨fun _ h => absurd rfl h, fun _ h => nomatch h⟩
theorem tlbcmdGuild (part : Nat) (guild : BitVec 16) : Statement (.tlbcmdGuild part guild) :=
  ⟨fun _ h => absurd rfl h, fun _ h => nomatch h⟩
theorem tlbcmdAll (part : Nat) : Statement (.tlbcmdAll part) :=
  ⟨fun _ h => absurd rfl h, fun _ h => nomatch h⟩
theorem tlbinvComplete (part : Nat) (i : Nat) : Statement (.tlbinvComplete part i) :=
  ⟨fun _ h => absurd rfl h, fun _ h => nomatch h⟩
theorem lbrelPlace (part : Nat) (q : Nat) : Statement (.lbrelPlace part q) :=
  ⟨fun _ h => absurd rfl h, fun _ h => nomatch h⟩
theorem lbrelSkip (part : Nat) (q : Nat) : Statement (.lbrelSkip part q) :=
  ⟨fun _ h => absurd rfl h, fun _ h => nomatch h⟩
theorem modcfg (bits : BitVec 8) : Statement (.modcfg bits) :=
  ⟨fun _ h => absurd rfl h, fun _ h => nomatch h⟩
theorem foremanRegisterWrite (part : Nat) (off : Nat) (v : BitVec 64) : Statement (.foremanRegisterWrite part off v) :=
  ⟨fun _ h => absurd rfl h, fun _ h => nomatch h⟩
theorem firmwareUpdate (off : Nat) (len : Nat) : Statement (.firmwareUpdate off len) :=
  ⟨fun _ h => absurd rfl h, fun _ h => nomatch h⟩
theorem powerWindow (code : Nat) (block : Nat) : Statement (.powerWindow code block) :=
  ⟨fun _ h => absurd rfl h, fun _ h => nomatch h⟩
theorem powerHold (code : Nat) (block : BlockEnergy) : Statement (.powerHold code block) :=
  ⟨fun _ h => absurd rfl h, fun _ h => nomatch h⟩
theorem drawMeasurement (mw : Nat) : Statement (.drawMeasurement mw) :=
  ⟨fun _ h => absurd rfl h, fun _ h => nomatch h⟩
theorem thermalHold (die : Nat) : Statement (.thermalHold die) :=
  ⟨fun _ h => absurd rfl h, fun _ h => nomatch h⟩
theorem thermalStop (die : HotDies) : Statement (.thermalStop die) :=
  ⟨fun _ h => absurd rfl h, fun _ h => nomatch h⟩
theorem ageingCheck (low : List Nat) : Statement (.ageingCheck low) :=
  ⟨fun _ h => absurd rfl h, fun _ h => nomatch h⟩
theorem patrolScrub (line : Nat) (bad : Bool) : Statement (.patrolScrub line bad) :=
  ⟨fun _ h => absurd rfl h, fun _ h => nomatch h⟩
theorem lineCheckMismatch (who : LineReader) (line : CheckedLine) (again : Bool) : Statement (.lineCheckMismatch who line again) :=
  ⟨fun _ h => absurd rfl h, fun _ h => nomatch h⟩
theorem moduleReset (tests : List DieTest) : Statement (.moduleReset tests) :=
  ⟨fun _ h => absurd rfl h, fun _ h => nomatch h⟩
theorem linkCompletion (id : Nat) (bytes : List (BitVec 8)) : Statement (.linkCompletion id bytes) :=
  ⟨fun _ h => absurd rfl h, fun _ h => nomatch h⟩
theorem backInvalidateAnswer (line : Nat) : Statement (.backInvalidateAnswer line) :=
  ⟨fun _ h => absurd rfl h, fun _ h => nomatch h⟩
theorem pageWalkEnd (cluster : Nat) (i : Nat) : Statement (.pageWalkEnd cluster i) :=
  ⟨fun _ h => absurd rfl h, fun _ h => nomatch h⟩
theorem writeBack (line : Nat) : Statement (.writeBack line) :=
  ⟨fun _ h => absurd rfl h, fun _ h => nomatch h⟩
theorem snapshotLinkFailure (part : Nat) : Statement (.snapshotLinkFailure part) :=
  ⟨fun _ h => absurd rfl h, fun _ h => nomatch h⟩
theorem thermalRelease (die : Nat) : Statement (.thermalRelease die) :=
  ⟨fun _ h => absurd rfl h, fun _ h => nomatch h⟩
theorem firmwareUpdateEnd (result : Nat) : Statement (.firmwareUpdateEnd result) :=
  ⟨fun _ h => absurd rfl h, fun _ h => nomatch h⟩
theorem nop : Statement (.nop) := by
  refine ⟨fun _ _ hw => ?_, fun _ h => nomatch h⟩
  have hn : Instr.bits (.nop) = 0x1 := rfl
  have hf : Fits [(8, 1), (56, 0)] := ⟨by decide, by decide, trivial⟩
  have hp : Instr.bits (.nop) = pack [(8, 1), (56, 0)] := by decide
  have ho : Instr.bits (.nop) % 256 = 0x1 := by
    rw [hp]
    exact seg_low hf
  refine decode_encode (pack_word hp hf rfl) (by rw [ho]; decide) ?_ hw
  rw [candidate, ho]
  show some (Instr.nop) = _
  rfl
theorem cut : Statement (.cut) := by
  refine ⟨fun _ _ hw => ?_, fun _ h => nomatch h⟩
  have hn : Instr.bits (.cut) = 0x11 := rfl
  have hf : Fits [(8, 17), (56, 0)] := ⟨by decide, by decide, trivial⟩
  have hp : Instr.bits (.cut) = pack [(8, 17), (56, 0)] := by decide
  have ho : Instr.bits (.cut) % 256 = 0x11 := by
    rw [hp]
    exact seg_low hf
  refine decode_encode (pack_word hp hf rfl) (by rw [ho]; decide) ?_ hw
  rw [candidate, ho]
  show some (Instr.cut) = _
  rfl
theorem yield : Statement (.yield) := by
  refine ⟨fun _ _ hw => ?_, fun _ h => nomatch h⟩
  have hn : Instr.bits (.yield) = 0x12 := rfl
  have hf : Fits [(8, 18), (56, 0)] := ⟨by decide, by decide, trivial⟩
  have hp : Instr.bits (.yield) = pack [(8, 18), (56, 0)] := by decide
  have ho : Instr.bits (.yield) % 256 = 0x12 := by
    rw [hp]
    exact seg_low hf
  refine decode_encode (pack_word hp hf rfl) (by rw [ho]; decide) ?_ hw
  rw [candidate, ho]
  show some (Instr.yield) = _
  rfl
theorem exit : Statement (.exit) := by
  refine ⟨fun _ _ hw => ?_, fun _ h => nomatch h⟩
  have hn : Instr.bits (.exit) = 0x14 := rfl
  have hf : Fits [(8, 20), (56, 0)] := ⟨by decide, by decide, trivial⟩
  have hp : Instr.bits (.exit) = pack [(8, 20), (56, 0)] := by decide
  have ho : Instr.bits (.exit) % 256 = 0x14 := by
    rw [hp]
    exact seg_low hf
  refine decode_encode (pack_word hp hf rfl) (by rw [ho]; decide) ?_ hw
  rw [candidate, ho]
  show some (Instr.exit) = _
  rfl
theorem hsync : Statement (.hsync) := by
  refine ⟨fun _ _ hw => ?_, fun _ h => nomatch h⟩
  have hn : Instr.bits (.hsync) = 0x64 := rfl
  have hf : Fits [(8, 100), (56, 0)] := ⟨by decide, by decide, trivial⟩
  have hp : Instr.bits (.hsync) = pack [(8, 100), (56, 0)] := by decide
  have ho : Instr.bits (.hsync) % 256 = 0x64 := by
    rw [hp]
    exact seg_low hf
  refine decode_encode (pack_word hp hf rfl) (by rw [ho]; decide) ?_ hw
  rw [candidate, ho]
  show some (Instr.hsync) = _
  rfl
theorem xend : Statement (.xend) := by
  refine ⟨fun _ _ hw => ?_, fun _ h => nomatch h⟩
  have hn : Instr.bits (.xend) = 0xea := rfl
  have hf : Fits [(8, 234), (56, 0)] := ⟨by decide, by decide, trivial⟩
  have hp : Instr.bits (.xend) = pack [(8, 234), (56, 0)] := by decide
  have ho : Instr.bits (.xend) % 256 = 0xea := by
    rw [hp]
    exact seg_low hf
  refine decode_encode (pack_word hp hf rfl) (by rw [ho]; decide) ?_ hw
  rw [candidate, ho]
  show some (Instr.xend) = _
  rfl
theorem select_gret (w : Nat) (h : w / 2 ^ 28 % 16 = 0) :
    candidateOf 0xed w = some (Instr.gret) := by
  simp only [candidateOf, candidateE, h]
theorem gret : Statement (.gret) := by
  refine ⟨fun _ _ hw => ?_, fun _ h => nomatch h⟩
  have hn : Instr.bits (.gret) = 0x1ed := rfl
  have hf : Fits [(8, 237), (20, 1), (4, 0), (32, 0)] := ⟨by decide, by decide, by decide, by decide, trivial⟩
  have hp : Instr.bits (.gret) = pack [(8, 237), (20, 1), (4, 0), (32, 0)] := by decide
  have ho : Instr.bits (.gret) % 256 = 0xed := by
    rw [hp]
    exact seg_low hf
  have hs : Instr.bits (.gret)  / 2 ^ 28 % 16 = 0 := seg hp hf 2 rfl rfl rfl
  refine decode_encode (pack_word hp hf rfl) (by rw [ho]; decide) ?_ hw
  rw [candidate, ho, select_gret _ hs]
theorem tret : Statement (.tret) := by
  refine ⟨fun _ _ hw => ?_, fun _ h => nomatch h⟩
  have hn : Instr.bits (.tret) = 0xef := rfl
  have hf : Fits [(8, 239), (56, 0)] := ⟨by decide, by decide, trivial⟩
  have hp : Instr.bits (.tret) = pack [(8, 239), (56, 0)] := by decide
  have ho : Instr.bits (.tret) % 256 = 0xef := by
    rw [hp]
    exact seg_low hf
  refine decode_encode (pack_word hp hf rfl) (by rw [ho]; decide) ?_ hw
  rw [candidate, ho]
  show some (Instr.tret) = _
  rfl
theorem halt : Statement (.halt) := by
  refine ⟨fun _ _ hw => ?_, fun _ h => nomatch h⟩
  have hn : Instr.bits (.halt) = 0xf5 := rfl
  have hf : Fits [(8, 245), (56, 0)] := ⟨by decide, by decide, trivial⟩
  have hp : Instr.bits (.halt) = pack [(8, 245), (56, 0)] := by decide
  have ho : Instr.bits (.halt) % 256 = 0xf5 := by
    rw [hp]
    exact seg_low hf
  refine decode_encode (pack_word hp hf rfl) (by rw [ho]; decide) ?_ hw
  rw [candidate, ho]
  show some (Instr.halt) = _
  rfl
theorem shareRestore : Statement (.shareRestore) :=
  ⟨fun _ h => absurd rfl h, fun _ h => nomatch h⟩

end Sys2Proof.Laws.RoundTrip
end

