-- ==== Sys2Proof/Tests/Slice0.lean ====
section
/-!
SUPPORT. Sys2Proof/Tests/Slice0.lean: words written from the encoding tables of spec/, terms that `wf` refuses, the manual's worked
examples, and for every statement with hypotheses a machine that meets them.
-/

namespace Sys2Proof.Tests

open Sys2Proof Sys2Proof.Machine Sys2Proof.Claims

set_option Elab.async false

/-! ### Words by the manual's fields -/

/-- A head: D, TL and OP, as R36 lays them out. -/
def hd (d tl op : Nat) : Nat := d * 1024 + tl * 256 + op
/-- A tail halfword of fields [15:12], [11:6] and [5:0]: F, B, A of t0 and G, P, C of t1 (R43). -/
def tw (f b a : Nat) : Nat := f * 4096 + b * 64 + a
/-- A tail halfword of an immediate of ten bits and A. -/
def ti (i a : Nat) : Nat := i * 64 + a
/-- The head with its tail halfwords t0, t1 and t2 above it. -/
def wd (h : Nat) (tail : List Nat) : BitVec 64 :=
  BitVec.ofNat 64 (h + tail.getD 0 0 * 2 ^ 16 + tail.getD 1 0 * 2 ^ 32 + tail.getD 2 0 * 2 ^ 48)

/-- R68, R92, R94-R96, with the manual's examples of J, BLTU and BMALL. -/
theorem decode_control :
    decode (wd 0x0001 []) = .nop ∧
    decode (wd 0x0202 [0xFFC0, 0xFFE5]) = .j (-1) 5 ∧
    decode (wd (hd 9 2 0x03) [ti 2 0, 0x0021]) = .jl 9 0x402 1 ∧
    decode (wd (hd 0 1 0x04) [tw 0 0 7]) = .jr 7 ∧ decode (wd (hd 1 1 0x05) [tw 0 0 1]) = .jlr 1 1 ∧
    decode (wd (hd 4 2 0x06) [ti 1 9, 2]) = .beq 4 9 1 2 ∧ decode (wd (hd 4 2 0x07) [ti 1 9, 2]) = .bne 4 9 1 2 ∧
    decode (wd (hd 4 2 0x08) [ti 1 9, 2]) = .blt 4 9 1 2 ∧ decode (wd (hd 4 2 0x09) [ti 1 9, 2]) = .bge 4 9 1 2 ∧
    decode (wd 0x120A [0xFF49, 0xFFE2]) = .bltu 4 9 (-3) 2 ∧ decode (wd (hd 4 2 0x0B) [ti 1 9, 2]) = .bgeu 4 9 1 2 ∧
    decode (wd (hd 4 2 0x0C) [ti 1 0, 2]) = .bz 4 1 2 ∧ decode (wd (hd 4 2 0x0D) [ti 1 0, 2]) = .bnz 4 1 2 ∧
    decode (wd (hd 2 2 0x0E) [ti 1 3, 0]) = .bmany 2 3 1 0 ∧ decode (wd (hd 7 2 0x0F) [ti 1 0, 0]) = .bmnone 7 0 1 0 ∧
    decode (wd 0x0A10 [0x0041, 0]) = .bmall 2 1 1 0 := by decide +kernel

/-- R70, R92, R94, R95: a set field without meaning, a mask above 7 and a span above 3 are illegal. -/
theorem decode_control_illegal :
    isIllegal (decode (wd (hd 1 2 0x02) [ti 1 0, 0])) = true ∧ isIllegal (decode (wd (hd 0 2 0x02) [ti 1 1, 0])) = true ∧
    isIllegal (decode (wd (hd 4 2 0x0C) [ti 1 1, 0])) = true ∧ isIllegal (decode (wd (hd 8 2 0x0E) [ti 1 0, 0])) = true ∧
    isIllegal (decode (wd (hd 2 2 0x0E) [ti 1 4, 0])) = true ∧ isIllegal (decode (wd (hd 1 0 0x01) [])) = true ∧
    isIllegal (decode (wd (hd 0 1 0x01) [0])) = true ∧ isIllegal (decode (wd (hd 0 0 0x00) [])) = true := by decide +kernel

/-- R123-R125, R127, with the manual's example of WAITA. -/
theorem decode_chunk :
    decode 0x11 = .cut ∧ decode 0x12 = .yield ∧ decode 0x14 = .exit ∧ decode 0x64 = .hsync ∧
    decode (wd 0x1613 [0x9187, 8]) = .waita 5 1 1 6 7 8 ∧ isIllegal (decode (wd 0x1613 [0xD187, 8])) = true := by decide +kernel

/-- R77: the two-register mould. -/
theorem decode_two_register :
    decode (wd 0x3520 [0x030D]) = .add 13 0 12 13 ∧ decode (wd (hd 5 1 0x21) [tw 1 6 7]) = .sub 5 1 6 7 ∧
    decode (wd (hd 5 1 0x23) [tw 1 6 7]) = .mul 5 1 6 7 ∧ decode (wd (hd 5 1 0x24) [tw 0 6 7]) = .mulh 5 6 7 ∧
    decode (wd (hd 5 1 0x25) [tw 0 6 7]) = .mulhu 5 6 7 ∧ decode (wd (hd 5 1 0x26) [tw 0 6 7]) = .div 5 0 6 7 ∧
    decode (wd (hd 5 1 0x27) [tw 1 6 7]) = .divu 5 1 6 7 ∧ decode (wd (hd 5 1 0x28) [tw 0 6 7]) = .rem 5 0 6 7 ∧
    decode (wd (hd 5 1 0x29) [tw 1 6 7]) = .remu 5 1 6 7 ∧ decode (wd (hd 5 1 0x2A) [tw 0 6 7]) = .and 5 6 7 ∧
    decode (wd (hd 5 1 0x2B) [tw 0 6 7]) = .or 5 6 7 ∧ decode (wd (hd 5 1 0x2C) [tw 0 6 7]) = .xor 5 6 7 ∧
    decode (wd (hd 5 1 0x30) [tw 0 6 7]) = .shl 5 0 6 7 ∧ decode (wd (hd 5 1 0x31) [tw 1 6 7]) = .shr 5 1 6 7 ∧
    decode (wd (hd 5 1 0x32) [tw 0 6 7]) = .sha 5 0 6 7 ∧ decode (wd (hd 5 1 0x36) [tw 1 6 7]) = .rol 5 1 6 7 ∧
    decode (wd (hd 5 1 0x38) [tw 0 6 7]) = .slt 5 6 7 ∧ decode (wd (hd 5 1 0x39) [tw 0 6 7]) = .sltu 5 6 7 ∧
    decode (wd (hd 5 1 0x3B) [tw 0 6 7]) = .min 5 6 7 ∧ decode (wd (hd 5 1 0x3C) [tw 0 6 7]) = .max 5 6 7 ∧
    decode (wd (hd 5 1 0x3D) [tw 0 6 7]) = .minu 5 6 7 ∧ decode (wd (hd 5 1 0x3E) [tw 0 6 7]) = .maxu 5 6 7 ∧
    decode (wd (hd 5 1 0x4C) [tw 9 6 7]) = .addsh 5 9 6 7 ∧ isIllegal (decode (wd (hd 5 1 0x24) [tw 1 6 7])) = true := by decide +kernel

/-- R80-R83: the immediate mould, LI, LIH and ADDPC; 0x167_89AB_CDEF and 0x83 are the manual's immediates. -/
theorem decode_immediate :
    decode (wd 0x1522 [0xFFC5]) = .addi 5 (-1) 5 ∧ decode (wd 0x1122 [0x0204]) = .addi 4 8 4 ∧
    decode (wd (hd 5 1 0x2D) [ti 3 7]) = .andi 5 3 7 ∧ decode (wd (hd 5 1 0x2E) [ti 3 7]) = .ori 5 3 7 ∧
    decode (wd (hd 5 1 0x2F) [ti 3 7]) = .xori 5 3 7 ∧ decode (wd (hd 5 1 0x3A) [ti 0x200 7]) = .slti 5 (-512) 7 ∧
    decode (wd (hd 5 1 0x33) [tw 0 63 7]) = .shli 5 0 63 7 ∧ decode (wd (hd 5 1 0x34) [tw 1 31 7]) = .shri 5 1 31 7 ∧
    decode (wd (hd 5 1 0x35) [tw 0 1 7]) = .shai 5 0 1 7 ∧ decode (wd (hd 5 1 0x37) [tw 1 2 7]) = .roli 5 1 2 7 ∧
    decode (wd (hd 7 3 0x40) [ti 0x1EF 0, 0x6AF3, 0x59E2]) = .li 7 0x16789ABCDEF ∧
    decode (wd (hd 7 2 0x41) [tw 2 0 7, 0x4567]) = .lih 7 2 7 0x4567 ∧
    decode (wd (hd 9 3 0x42) [ti 0x83 0, 0, 0]) = .addpc 9 0x83 := by decide +kernel

/-- R84-R90, with the manual's examples of EXT and ILV. -/
theorem decode_bits :
    decode (wd (hd 5 1 0x43) [tw 3 0 7]) = .clz 5 3 7 ∧ decode (wd (hd 5 1 0x44) [tw 2 0 7]) = .ctz 5 2 7 ∧
    decode (wd (hd 5 1 0x45) [tw 1 0 7]) = .popc 5 1 7 ∧ decode (wd (hd 5 1 0x46) [tw 0 0 7]) = .brev 5 0 7 ∧
    decode (wd (hd 5 1 0x47) [tw 2 0 7]) = .bswap 5 2 7 ∧ decode (wd 0x5248 [0x1144, 6]) = .ilv 20 1 5 4 6 ∧
    decode (wd (hd 21 2 0x49) [tw 1 0 20, tw 1 0 0]) = .dilv 21 1 20 1 ∧
    decode (wd (hd 9 2 0x4A) [tw 0 0 3, 0x12E8]) = .ext 9 3 1 11 40 ∧
    decode (wd (hd 9 2 0x4B) [tw 0 4 3, 11 * 64 + 40]) = .ins 9 4 3 11 40 ∧
    decode (wd (hd 5 2 0x3F) [tw 3 6 7, tw 0 0 8]) = .sel 5 3 6 7 8 ∧
    decode (wd (hd 5 2 0x4D) [tw 1 6 7, tw 0 0 8]) = .madd 5 1 6 7 8 := by decide +kernel

/-- R146-R159, with the manual's examples of ST, STP and LDP. -/
theorem decode_memory :
    decode (wd (hd 5 2 0x50) [tw 6 0 7, 0xFFF8]) = .ld 5 1 2 7 (-8) ∧ decode (wd 0x0251 [0x3243, 8]) = .st 3 9 3 8 ∧
    decode (wd (hd 5 1 0x52) [tw 3 6 7]) = .ldx 5 0 3 6 7 ∧ decode (wd (hd 0 2 0x53) [tw 2 6 7, tw 0 0 8]) = .stx 2 6 7 8 ∧
    decode (wd 0x2254 [0x3003, 0]) = .ldp 8 0 3 3 0 ∧ decode (wd 0x0255 [0x3F82, 0x01B0]) = .stp 3 62 2 432 ∧
    decode (wd (hd 4 3 0x56) [tw 2 0 7, tw 0 13 0, 64]) = .vld 4 2 7 13 64 ∧
    decode (wd (hd 4 3 0x57) [tw 3 0 7, tw 0 1 0, 64]) = .vst 4 3 7 1 64 ∧
    decode (wd (hd 4 3 0x58) [tw 1 6 7, tw 0 1 0, 64]) = .vlds 4 1 6 7 1 64 ∧
    decode (wd (hd 4 3 0x59) [tw 0 6 7, tw 0 1 0, 64]) = .vsts 4 0 6 7 1 64 ∧
    decode (wd (hd 4 3 0x5A) [tw 2 0 7, tw 6 1 12, 64]) = .vgath 4 2 7 1 2 1 12 64 ∧
    decode (wd (hd 4 3 0x5B) [tw 3 0 7, tw 1 1 12, 64]) = .vscat 4 3 7 0 1 1 12 64 ∧
    decode (wd (hd 0 2 0x5C) [tw 2 0 7, 64]) = .pref 2 7 64 ∧ decode (wd (hd 0 1 0x5D) [tw 0 6 7]) = .discard 6 7 ∧
    decode (wd (hd 0 1 0x5E) [tw 0 6 7]) = .clean 6 7 ∧ decode (wd (hd 5 2 0x5F) [tw 2 0 7, 9]) = .bankcfg 5 2 7 9 ∧
    decode (wd (hd 5 1 0x60) [tw 0 0 7]) = .bankq 5 7 ∧ decode (wd (hd 5 2 0x61) [tw 0 6 7, 8]) = .fpush 5 6 7 8 ∧
    decode (wd (hd 5 2 0x62) [tw 0 6 7, 8]) = .fpop 5 6 7 8 ∧ decode (wd (hd 5 2 0x63) [tw 0 6 7, 8]) = .fpeek 5 6 7 8 := by
  decide +kernel

/-- R168-R181, with the manual's examples of AADD, AMIN, CAS and SWAIT. -/
theorem decode_atomics :
    decode (wd 0x0270 [0x3244, 8]) = .aadd 1 9 4 8 ∧ decode (wd (hd 0 2 0x71) [tw 2 6 7, 8]) = .aand 0 6 7 8 ∧
    decode (wd (hd 0 2 0x72) [tw 3 6 7, 8]) = .aor 1 6 7 8 ∧ decode (wd (hd 0 2 0x73) [tw 3 6 7, 8]) = .axor 1 6 7 8 ∧
    decode (wd 0x0274 [0x6085, 0]) = .amin 1 0 2 5 0 ∧ decode (wd (hd 0 2 0x75) [tw 3 6 7, 8]) = .amax 0 1 6 7 8 ∧
    decode (wd (hd 0 2 0x76) [tw 2 6 7, 8]) = .afadd 0 6 7 8 ∧ decode (wd (hd 5 2 0x77) [tw 3 6 7, 8]) = .xadd 5 1 6 7 8 ∧
    decode (wd (hd 5 2 0x78) [tw 2 6 7, 8]) = .xchg 5 0 6 7 8 ∧ decode (wd 0x1779 [0x3184, 7, 0]) = .cas 5 1 6 4 7 0 ∧
    decode (wd (hd 5 2 0x7A) [tw 3 6 7, 16]) = .swait 5 1 6 7 16 ∧ decode (wd 0x167A [0x6187, 0x10]) = .swaitTake 5 0 6 7 16 ∧
    decode (wd (hd 0 2 0x7B) [tw 3 6 7, 8]) = .spost 1 6 7 8 ∧ decode (wd (hd 5 1 0x7C) [tw 0 6 7]) = .dguard 5 6 7 ∧
    decode (wd (hd 0 1 0x7D) [tw 0 6 7]) = .dgend 6 7 ∧ isIllegal (decode (wd 0x0270 [0x7244, 8])) = true := by decide +kernel

/-- R197, R206, R221, with the manual's examples of FCVT, FPACK and REP. -/
theorem decode_conversions :
    decode (wd 0x1A80 [0x9302, 0x8040]) = .fcvt 6 9 12 2 1 0 1 ∧
    decode (wd (hd 6 2 0x81) [tw 9 0 2, tw 0xA 1 0]) = .fcvti 6 9 0 2 1 2 1 ∧
    decode (wd (hd 6 2 0x82) [tw 2 9 2, tw 1 1 0]) = .icvtf 6 2 9 2 0 1 1 ∧
    decode (wd 0x1383 [0x9002, 0x004A, 0x000E]) = .fpack 4 9 2 0 1 10 14 ∧
    decode (wd (hd 12 3 0x84) [tw 9 0 4, tw 8 1 10, 14]) = .funpk 12 9 4 1 0 1 10 14 ∧
    decode (wd (hd 6 2 0x85) [tw 9 1 2, tw 0 1 3]) = .fscl 6 9 1 2 0 0 1 3 ∧
    decode (wd (hd 6 2 0x86) [tw 15 0 2, tw 0 1 0]) = .fclass 6 15 2 1 ∧
    decode (wd (hd 6 2 0x87) [tw 9 1 2, tw 1 1 0]) = .frint 6 9 1 2 1 1 ∧
    decode (wd 0x0290 [0x0005, 0x0222]) = .rep 5 0x0222 := by decide +kernel

/-- R225-R230, with the manual's example of VSPAN. -/
theorem decode_vector :
    decode (wd 0x0A91 [0x2003, 1]) = .vspan 2 2 3 1 ∧ decode (wd (hd 2 1 0x92) [tw 0 0 3]) = .mmov 2 3 ∧
    decode (wd (hd 2 1 0x92) [tw 1 0 40]) = .mmovFx 2 40 ∧ decode (wd (hd 40 1 0x92) [tw 2 0 3]) = .mmovTx 40 3 ∧
    decode (wd (hd 2 1 0x92) [tw 3 0 1]) = .mmovSp 2 1 ∧ decode (wd (hd 2 1 0x93) [tw 1 4 3]) = .mand 2 1 4 3 ∧
    decode (wd (hd 2 1 0x94) [tw 0 4 3]) = .mor 2 0 4 3 ∧ decode (wd (hd 2 1 0x95) [tw 0 4 3]) = .mxor 2 4 3 ∧
    decode (wd (hd 2 1 0x96) [tw 0 0 3]) = .mnot 2 3 ∧ decode (wd (hd 40 1 0x97) [tw 0 1 3]) = .mpop 40 1 3 ∧
    decode (wd (hd 40 1 0x98) [tw 0 2 3]) = .mfirst 40 2 3 ∧
    decode (wd (hd 4 2 0x99) [tw 6 8 12, tw 8 45 0]) = .vadd 4 6 8 12 1 0 45 ∧
    decode (wd (hd 4 2 0x9A) [tw 1 40 12, tw 1 45 0]) = .vsub 4 1 40 12 0 1 45 ∧
    decode (wd (hd 4 2 0x9B) [tw 1 8 12, tw 0 45 0]) = .vmul 4 1 8 12 0 45 ∧
    decode (wd (hd 4 2 0x9C) [tw 1 8 12, tw 0 45 0]) = .vmulh 4 1 8 12 0 45 ∧
    decode (wd (hd 4 2 0x9D) [tw 1 8 12, tw 0 45 0]) = .vand 4 1 8 12 0 45 ∧
    decode (wd (hd 4 2 0x9E) [tw 1 8 12, tw 0 45 0]) = .vor 4 1 8 12 0 45 ∧
    decode (wd (hd 4 2 0x9F) [tw 1 8 12, tw 0 45 0]) = .vxor 4 1 8 12 0 45 ∧
    decode (wd (hd 4 2 0xA0) [tw 1 8 12, tw 0 45 0]) = .vshl 4 1 8 12 0 45 ∧
    decode (wd (hd 4 2 0xA1) [tw 1 8 12, tw 0 45 0]) = .vshr 4 1 8 12 0 45 ∧
    decode (wd (hd 4 2 0xA2) [tw 1 8 12, tw 0 45 0]) = .vmin 4 1 8 12 0 45 ∧
    decode (wd (hd 4 2 0xA3) [tw 1 8 12, tw 0 45 0]) = .vmax 4 1 8 12 0 45 ∧
    decode (wd (hd 4 2 0xA4) [tw 1 8 12, tw 0 13 5]) = .vcmp 4 1 8 12 0 13 5 ∧
    decode (wd (hd 4 2 0xA5) [tw 9 8 12, tw 0 45 3]) = .vsel 4 9 8 12 45 3 ∧
    decode (wd (hd 4 2 0xA6) [tw 9 40 0, tw 1 45 0]) = .vmov 4 9 40 0 1 45 ∧
    decode (wd (hd 4 2 0xA7) [tw 9 8 12, tw 0 45 0]) = .vperm 4 9 8 12 45 ∧
    decode (wd (hd 4 2 0xA8) [tw 9 40 12, tw 1 45 0]) = .vslide 4 9 40 12 1 45 ∧
    decode (wd (hd 40 2 0xBF) [tw 9 41 12, tw 0 13 0]) = .vext 40 9 41 12 13 := by decide +kernel

/-- R231-R243, with the manual's examples of FMA, TOPN and RNG. -/
theorem decode_float :
    decode (wd (hd 4 2 0xA9) [tw 8 8 12, tw 0 45 0]) = .fadd 4 0 8 12 0 45 ∧
    decode (wd (hd 4 2 0xAA) [tw 9 8 12, tw 1 45 0]) = .fsub 4 1 8 12 1 45 ∧
    decode (wd (hd 4 2 0xAB) [tw 10 8 12, tw 2 45 0]) = .fmul 4 2 8 12 2 45 ∧
    decode (wd 0x12AC [0x9308, 0x0B50]) = .fma 4 1 12 8 0 0 45 16 ∧
    decode (wd (hd 4 2 0xAD) [tw 11 8 12, tw 5 45 0]) = .fdiv 4 3 8 12 5 45 ∧
    decode (wd (hd 4 2 0xAE) [tw 9 0 12, tw 0 45 0]) = .fsqrt 4 1 12 0 45 ∧
    decode (wd (hd 4 2 0xAF) [tw 9 8 12, tw 0 45 0]) = .fmin 4 1 8 12 45 ∧
    decode (wd (hd 4 2 0xB0) [tw 9 8 12, tw 0 45 0]) = .fmax 4 1 8 12 45 ∧
    decode (wd (hd 4 2 0xB1) [tw 9 8 12, tw 0 13 7]) = .fcmp 4 1 8 12 13 7 ∧
    decode (wd (hd 4 2 0xB2) [tw 9 0 12, tw 3 45 0]) = .fsgn 4 1 0 12 3 45 ∧
    decode (wd (hd 40 2 0xB3) [tw 3 0 12, tw 5 13 0]) = .vred 40 3 12 5 13 ∧
    decode (wd (hd 40 2 0xB4) [tw 9 2 12, tw 1 13 0]) = .fred 40 1 2 12 1 13 ∧
    decode (wd (hd 40 2 0xB5) [tw 11 8 12, tw 1 13 0]) = .fdot 40 3 8 12 1 13 ∧
    decode (wd (hd 4 2 0xB6) [tw 9 0 12, tw 0 45 0]) = .fexp 4 1 12 0 45 ∧
    decode (wd (hd 4 2 0xB7) [tw 9 0 12, tw 0 45 0]) = .flog 4 1 12 0 45 ∧
    decode (wd (hd 4 2 0xB8) [tw 9 0 12, tw 0 45 0]) = .frcp 4 1 12 0 45 ∧
    decode (wd (hd 4 2 0xB9) [tw 9 0 12, tw 0 45 0]) = .frsq 4 1 12 0 45 ∧
    decode (wd (hd 4 2 0xBA) [tw 9 0 12, tw 0 45 0]) = .fsin 4 1 12 0 45 ∧
    decode (wd (hd 4 2 0xBB) [tw 9 0 12, tw 0 45 0]) = .fcos 4 1 12 0 45 ∧
    decode (wd (hd 4 2 0xBC) [tw 9 0 12, tw 0 45 0]) = .ftanh 4 1 12 0 45 ∧
    decode (wd 0x1BBD [0x9001, 0x0087, 0x0004]) = .topn 6 9 1 2 7 0 4 ∧ decode (wd 0x02BE [0, 0]) = .rng 0 0 0 0 0 := by
  decide +kernel

/-- R258-R268, with the manual's examples of MMA. -/
theorem decode_matrix :
    decode (wd (hd 6 3 0xC0) [tw 9 0 0, 0, 0]) = .mzero 6 1 ∧ decode (wd (hd 6 3 0xC0) [tw 8 0 0, 0, 0]) = .mzero 6 0 ∧
    decode (wd (hd 60 3 0xC1) [tw 11 6 7, 0, 64]) = .mlda 60 11 6 7 64 ∧
    decode (wd (hd 60 3 0xC2) [tw 11 6 7, tw 1 0 0, 64]) = .mldb 60 11 6 7 0 1 64 ∧
    decode (wd (hd 60 3 0xC2) [tw 11 6 7, tw 6 0 0, 64]) = .mldb 60 11 6 7 3 0 64 ∧
    decode (wd (hd 60 3 0xC3) [tw 0 0 7, tw 8 0 0, 0]) = .mseed 60 7 2 ∧
    decode (wd 0x03C4 [0xB002, 0x1000, 0]) = .mma 0 11 0 2 0 1 ∧ decode (wd 0x1BC4 [0xCA08, 0xB000, 0]) = .mma 6 12 40 8 2 3 ∧
    decode (wd (hd 6 3 0xC5) [tw 9 0 0, tw 1 0 9, 0xC00]) = .mscl 6 1 1 9 1 1 ∧
    decode (wd (hd 6 3 0xC6) [tw 9 6 7, tw 9 0 9, 0xB800]) = .mdrain 6 1 6 7 1 1 9 11 1 0 ∧
    decode (wd (hd 5 3 0xC7) [0, 0, 0]) = .mwait 5 ∧ decode (wd (hd 5 3 0xC8) [0, 0, 0]) = .mstat 5 ∧
    decode (wd (hd 5 3 0xC8) [tw 1 0 61, 0, 0]) = .mstatP 5 61 ∧
    decode (wd (hd 60 3 0xC9) [tw 11 6 8, tw 4 0 0, 0]) = .mcprs 60 11 6 8 1 ∧
    decode (wd (hd 6 3 0xCA) [tw 9 6 7, tw 10 0 0, 64]) = .macc 6 1 6 7 1 2 64 := by decide +kernel

/-- R282-R300, with the manual's example of CPY. -/
theorem decode_engine :
    decode (wd 0x13D0 [0x0185, 0x000A, 0]) = .cpy 4 6 5 10 ∧ decode (wd (hd 4 3 0xD1) [tw 0 6 5, tw 0 0 10, 0]) = .cpys 4 6 5 10 ∧
    decode (wd (hd 4 3 0xD2) [tw 2 6 5, tw 6 0 10, 1]) = .cpyg 4 2 6 5 1 2 10 1 ∧
    decode (wd (hd 4 3 0xD3) [tw 0 6 5, tw 0 0 10, 0]) = .cfill 4 6 5 10 ∧ decode (wd (hd 4 3 0xD4) [0, 0, 0]) = .cstat 4 ∧
    decode (wd (hd 4 3 0xD4) [tw 1 0 0, 0, 0]) = .cstatW 4 ∧
    decode (wd (hd 4 3 0xD5) [tw 9 6 5, tw 1 0 10, 0]) = .rdset 4 9 6 5 1 10 ∧
    decode (wd (hd 4 3 0xD6) [tw 9 6 5, tw 0 2 0, 0]) = .rdc 4 9 6 5 2 ∧
    decode (wd (hd 0 3 0xD6) [tw 9 6 5, tw 1 0 10, 0]) = .rdcMem 9 6 5 10 ∧
    decode (wd (hd 4 3 0xD7) [tw 0 0 5, 0, 0]) = .rdq 4 5 ∧ decode (wd (hd 4 3 0xD7) [tw 1 0 5, 0, 0]) = .rdqSt 4 5 ∧
    decode (wd (hd 4 3 0xD7) [tw 2 0 5, 0, 0]) = .rdqW 4 5 ∧
    isIllegal (decode (wd (hd 4 3 0xD0) [tw 0 6 5, tw 0 0 11, 0])) = true := by decide +kernel

/-- R323-R332, with the manual's examples of SPAWNR and CNTDEC. -/
theorem decode_tasks :
    decode (wd (hd 0 2 0xD8) [tw 0 0 7, 32]) = .spawn 0 0 7 32 ∧ decode (wd (hd 0 2 0xD8) [tw 1 6 7, 32]) = .spawn 1 6 7 32 ∧
    decode (wd 0x03D9 [0x0554, 3, 0]) = .spawnr 0 21 20 3 0 ∧ decode (wd 0x03D9 [0x0554, 3, 1]) = .spawnr 0 21 20 3 1 ∧
    decode (wd (hd 4 3 0xDA) [tw 0 6 5, 0, 0]) = .cntset 4 6 5 ∧ decode (wd (hd 4 3 0xDA) [0, 0, 1]) = .cntsetClr 4 ∧
    decode (wd 0x02DB [4, 0x0107]) = .cntdec 0 0 4 1 7 ∧ decode (wd 0x02DB [tw 1 6 0, 7]) = .cntdec 1 6 0 0 7 ∧
    decode (wd (hd 4 3 0xDC) [tw 0 6 5, 0, 0x107]) = .send 4 6 5 1 7 ∧ decode (wd (hd 4 1 0xDD) [tw 0 6 5]) = .recv 4 6 5 ∧
    decode (wd (hd 4 1 0xDE) [0]) = .inbqN 4 ∧ decode (wd (hd 4 1 0xDE) [tw 1 0 0]) = .inbqRoom 4 ∧
    decode (wd (hd 4 1 0xDE) [tw 2 0 0]) = .inbqStray 4 ∧ decode (wd (hd 0 2 0xDF) [tw 0 6 5, 64]) = .launch 6 5 64 ∧
    decode (wd (hd 0 1 0xE0) [tw 0 0 5]) = .postr 5 ∧ decode (wd (hd 0 1 0xE0) [tw 1 0 5]) = .postrOr 5 ∧
    decode (wd (hd 4 1 0xE1) [tw 6 0 0]) = .tstamp 4 6 ∧ isIllegal (decode (wd (hd 4 1 0xE1) [tw 7 0 0])) = true := by
  decide +kernel

/-- R343-R357, with the manual's example of BAR. -/
theorem decode_exchange :
    decode (wd 0x01E4 [0x0040]) = .bar 1 ∧ decode (wd (hd 0 3 0xE5) [tw 0 6 5, tw 0 0 8, 15]) = .bardom 6 5 8 15 ∧
    decode (wd 0x02E6 [tw 15 0 5, 64]) = .xph 15 5 64 ∧ decode (wd 0x02E7 [tw 0 6 5, 500]) = .xmit 6 5 500 ∧
    decode (wd 0x02E8 [tw 0 6 5, 500]) = .xsel 6 5 500 ∧ decode (wd (hd 4 2 0xE9) [tw 0 6 0, 500]) = .xrcv 4 6 500 ∧
    decode 0xEA = .xend ∧ decode (wd 0x02EB [tw 1 6 5, 32]) = .sstep 1 6 5 32 ∧
    isIllegal (decode (wd 0x01E4 [ti 16 0])) = true := by decide +kernel

/-- R369-R395, with the manual's example of GETS. -/
theorem decode_system :
    decode (wd 0x01EC [ti 1023 0]) = .gate 1023 ∧ decode (wd 0x01ED [0]) = .gret ∧ decode (wd 0x01ED [tw 1 0 5]) = .gretFail 5 ∧
    decode (wd 0x01EE [ti 7 0]) = .trap 7 ∧ decode 0xEF = .tret ∧ decode (wd 0x15F0 [0x0240]) = .gets 5 9 ∧
    decode (wd (hd 0 1 0xF1) [ti 20 5]) = .sets 20 5 ∧ decode (wd (hd 33 2 0xF2) [0x1234, 0x5678]) = .brk 2 ∧
    decode (wd 0x01F3 [5]) = .iflush 5 ∧ decode (wd 0x01F3 [tw 1 0 5]) = .iflushAll 5 ∧
    decode (wd (hd 0 1 0xF4) [tw 0 6 5]) = .tlbinvPage 6 5 ∧ decode (wd (hd 0 1 0xF4) [tw 1 6 5]) = .tlbinvGuild 6 5 ∧
    decode (wd (hd 0 1 0xF4) [tw 2 6 5]) = .tlbinvAll 6 5 ∧ decode 0xF5 = .halt ∧ decode (wd 0x01F6 [ti 9 0]) = .mark 9 ∧
    decode (wd (hd 4 1 0xF7) [5]) = .snap 4 5 ∧ decode (wd 0x01F8 [ti 3 0]) = .freeze 1 ∧ decode (wd 0x01F8 [ti 2 0]) = .thaw 1 ∧
    isIllegal (decode (wd 0x01F8 [ti 4 0])) = true := by decide +kernel

/-- R414: the manual's words of the EP instructions, and one word that each check of R414 refuses. -/
theorem decode_episode :
    decodeRv 0x00B4050B = .epWaitact 11 8 10 ∧ decodeRv 0x00C2900B = .epPubobs 12 5 0 ∧ decodeRv 0x02C2900B = .epEnd 12 5 ∧
    decodeRv 0x0000298B = .epInfo 0 19 ∧ decodeRv 0x0000350B = .epVer 10 ∧ decodeRv 0x00050E2B = .epRand 0 10 28 ∧
    decodeRv 0x02050E2B = .epRandh 0 10 28 ∧ decodeRv 0x0080298B = .benchInstruction 0x0080298B ∧
    decodeRv 0x02C2908B = .benchInstruction 0x02C2908B ∧ decodeRv 0x00B5053B = .benchInstruction 0x00B5053B := by decide +kernel

/-! ### Field values that an entry refuses (R48, R49, R70) -/

/-- R80, R84-R90, R152, R157, R146: scalar entries. -/
theorem illformed_scalar :
    ([.shli 5 1 32 7, .shri 5 1 32 7, .shai 5 1 32 7, .roli 5 1 32 7, .bswap 5 3 7, .ilv 5 0 6 7 8, .dilv 5 0 7 2, .dilv 5 1 7 3,
      .ext 5 7 0 32 32, .ins 5 6 7 63 1, .ld 5 1 3 7 0, .ldx 5 1 3 6 7, .ldp 5 0 3 7 0, .ldp 4 0 1 7 0, .ldp 4 1 3 7 0, .stp 3 5 7 0,
      .stp 1 6 7 0, .pref 3 7 0, .bankcfg 5 3 7 0] : List Instr).all (fun i => !i.wf) = true := by decide +kernel

/-- R197, R206, R225-R243: vector entries. -/
theorem illformed_vector :
    ([.fcvt 4 9 9 2 0 0 0, .fcvt 4 3 9 2 0 0 0, .fcvt 4 9 3 2 0 0 0, .fcvt 4 9 10 2 0 7 0, .fcvti 4 3 3 2 0 0 0, .fcvti 4 9 9 2 0 0 0,
      .fcvti 4 9 3 2 0 7 0, .icvtf 4 9 9 2 0 0 0, .icvtf 4 3 3 2 0 0 0, .icvtf 4 3 9 2 0 7 0, .fpack 4 8 2 0 0 10 14, .fpack 4 9 2 0 0 10 9,
      .fpack 4 9 2 7 0 10 14, .funpk 4 12 2 0 0 0 10 14, .funpk 4 9 2 0 0 0 10 1, .funpk 4 9 2 0 7 0 10 14, .fscl 4 3 0 2 0 0 0 3,
      .fscl 4 9 0 2 0 7 0 3, .fclass 4 3 2 0, .frint 4 3 0 2 0 0, .frint 4 9 0 2 7 0, .vspan 1 0 3 0, .vspan 1 0 3 7, .vadd 4 0 32 2 0 0 0,
      .vsub 4 0 32 2 0 0 0, .vmul 4 0 32 2 0 0, .vmulh 4 0 32 2 0 0, .vand 4 0 32 2 0 0, .vor 4 0 32 2 0 0, .vxor 4 0 32 2 0 0,
      .vshl 4 0 32 2 0 0, .vshr 4 0 32 2 0 0, .vmin 4 0 32 2 0 0, .vmax 4 0 32 2 0 0, .vcmp 4 0 32 2 0 0 0, .vcmp 4 0 3 2 0 0 6,
      .vsel 4 14 3 2 0 0, .vmov 4 14 0 2 0 0, .vmov 4 0 3 2 0 0, .vmov 4 0 3 2 1 0, .vperm 4 14 3 2 0, .vslide 4 14 3 2 0 0,
      .vext 4 14 3 2 0] : List Instr).all (fun i => !i.wf) = true := by decide +kernel

/-- R231-R241: float entries. -/
theorem illformed_float :
    ([.fadd 4 0 3 2 7 0, .fsub 4 0 3 2 7 0, .fmul 4 0 3 2 7 0, .fma 4 0 3 2 0 7 0 5, .fdiv 4 0 3 2 7 0, .fsqrt 4 0 2 7 0, .fsgn 4 0 3 2 3 0,
      .vred 4 0 2 6 0, .fred 4 0 3 2 0 0, .fred 4 0 0 2 7 0, .fdot 4 0 3 2 7 0, .fexp 4 0 2 0 0, .fexp 4 1 2 7 0, .flog 4 0 2 0 0,
      .flog 4 1 2 7 0, .frcp 4 0 2 0 0, .frcp 4 1 2 7 0, .frsq 4 0 2 0 0, .frsq 4 1 2 7 0, .fsin 4 0 2 0 0, .fsin 4 1 2 7 0, .fcos 4 0 2 0 0,
      .fcos 4 1 2 7 0, .ftanh 4 0 2 0 0, .ftanh 4 1 2 7 0, .topn 4 12 2 0 3 0 4, .topn 4 9 2 0 3 0 0, .topn 4 9 2 0 3 0 385] :
      List Instr).all (fun i => !i.wf) = true := by decide +kernel

/-- R258-R299, R323-R332: matrix, engine and task entries. -/
theorem illformed_units :
    ([.mlda 0 1 6 7 0, .mldb 0 1 6 7 0 0 0, .mldb 0 11 6 7 1 1 0, .mldb 0 9 6 7 1 0 0, .mldb 0 8 6 7 1 0 0, .mldb 0 14 6 7 0 1 0,
      .mldb 63 11 6 7 3 0 0, .mseed 0 7 0, .mma 0 1 6 2 0 3, .mma 0 11 6 2 0 0, .mma 0 11 6 2 1 2, .mma 0 9 6 2 1 3, .mma 0 8 6 2 1 3,
      .mma 0 11 6 62 0 3, .mma 0 11 62 2 0 3, .mma 0 11 63 2 3 3, .mscl 0 1 7 9 1 1, .mscl 0 1 0 9 0 0, .mdrain 0 1 6 7 0 7 0 9 0 0,
      .mdrain 0 1 6 7 0 0 9 9 0 0, .mdrain 0 1 6 7 0 0 0 7 0 0, .mdrain 0 1 6 7 0 0 0 14 0 0, .mcprs 40 1 6 8 1, .mcprs 40 9 6 8 1,
      .mcprs 40 8 6 8 1, .mcprs 40 11 6 8 0, .mcprs 0 11 6 62 1, .mcprs 63 11 6 8 3, .mcprs 9 11 6 8 1, .mcprs 7 11 6 8 3,
      .macc 0 1 6 7 0 7 0, .cpy 4 6 5 11, .cpys 4 7 5 10, .cpys 4 6 5 11, .cpyg 4 0 7 5 0 0 10 0, .cpyg 4 0 6 5 0 0 11 0, .cfill 4 6 5 11,
      .rdset 4 9 6 5 0 11, .rdset 4 0 6 5 0 10, .rdset 4 9 6 5 5 10, .rdset 4 2 6 5 1 10, .rdc 4 0 6 5 0, .rdcMem 0 6 5 10,
      .spawn 0 6 7 0, .cntdec 0 6 4 1 7, .cntdec 1 0 4 1 7, .send 4 6 5 0 7, .tstamp 4 7] : List Instr).all (fun i => !i.wf) = true := by
  decide +kernel

/-! ### Small machines

The theorems named `meets_…` show, for the statement or the statements they name, a state and operands that meet the hypotheses
together. `yields op m q` says that an operation answers, and that what it answers meets q. -/

/-- An operation answers, and its answer and the machine it leaves meet q. -/
def yields {α : Type} (p : M α) (m : Mach) (q : α → Mach → Bool) : Bool :=
  match p.run m with
  | .ok x m' => q x m'
  | .error _ _ => false

/-- The first 64 GB of virtual addresses mapped to the first stack, for guild 1, in the TLB of core 0. -/
def mapped : Core :=
  { Core.reset with tlb := [{ guild := 1, va := 0, size := 2 ^ 36, frame := 0, swz := 0, x := true, w := true, r := true }] }

/-- A thread of the sole crew at PC 0 with some scalar registers set. -/
def thread (xs : List (Nat × Nat)) : Thread :=
  { soleThread (oneHeadLine 1) with arch :=
    { Arch.reset with status := 0x10000, x := xs.foldl (fun v e => v.set! e.1 (BitVec.ofNat 64 e.2)) Arch.reset.x } }

/-- The machine that has issued it. -/
def issued (t : Thread) : State :=
  { ((State.reset.setCrew 0 soleCrew).setCore 0 mapped).setThread 0 t with issuing := some (.thread 0) }

theorem begins_issued (t : Thread) (h : wdFires t.arch = false) (hr : t.clearRep = t) : Begins (issued t) 0 t :=
  ⟨rfl, t, rfl, h, hr.symm⟩

/-- A thread with word 0x1000 in x1, 8 in x2, 64 in x3 and 0x40 in x4. -/
def plain : Thread := thread [(1, 0x1000), (2, 8), (3, 64), (4, 0x40)]

theorem plain_begins : Begins (issued plain) 0 plain :=
  begins_issued _ (by decide +kernel) (by decide +kernel)
theorem plain_free : Free plain := by unfold Free; decide +kernel
theorem plain_first : First (issued plain) plain := by unfold First; decide +kernel

/-! ### Opcodes 0x01-0x4D, vector and mask instructions -/

theorem meets_integerResults : Begins (issued plain) 0 plain ∧ intResult plain.arch (.add 5 0 1 2) = some (5, 0x1008) :=
  ⟨plain_begins, by decide +kernel⟩

theorem meets_bitResults : Begins (issued plain) 0 plain ∧ (Instr.ext 5 1 0 11 4).wf = true ∧
    (bitResult plain.arch (.ext 5 1 0 11 4)).isSome = true := ⟨plain_begins, by decide +kernel⟩

theorem meets_transferResults : Begins (issued plain) 0 plain ∧ (transfer plain.arch plain.nextHead (.jlr 5 1)).isSome = true ∧
    testsVector (.bmany 1 0 0 0) = true ∧ vecAllowed plain.arch = true := ⟨plain_begins, by decide +kernel⟩

/-- ChunkEndResults; IntegerResults and the like hold of the same state. -/
theorem meets_chunkEndResults : Begins (issued plain) 0 plain ∧ Free plain ∧ plain.arch.depth = 0 := ⟨plain_begins, plain_free, by decide +kernel⟩

/-! ### Memory -/

/-- WaitResults and WaitSleeps: WAITA, SWAIT.ge and SWAIT.take on a word of zeros against 0; all three on it against 8, where they sleep. -/
theorem meets_waitResults : Begins (issued plain) 0 plain ∧ Free plain ∧ First (issued plain) plain ∧
    yields (locate .load 0x1000) (endsAs .alone (found (issued plain) 0 plain)) (fun l m1 => yields (readAt l 0x1000 8) m1 fun bs _ =>
      waitHolds 1 8 (ofBytes bs) 0 && !waitHolds 1 8 (ofBytes bs) 8 && decide (ofBytes bs < 8)) = true ∧ plain.arch.det = false ∧
    yields (locateAtom .update 0x1000 false) (endsAs .alone (found (issued plain) 0 plain)) (fun l m1 =>
      yields (readAt l 0x1000 8) m1 fun bs m2 => decide (ofBytes bs < 8) && yields (noteWrite l) m2 fun _ _ => true) = true :=
  ⟨plain_begins, plain_free, plain_first, by decide +kernel⟩

/-- LoadResults and StoreResults: eight and sixteen bytes at 0x1000. -/
theorem meets_scalarMemory : Begins (issued plain) 0 plain ∧ Free plain ∧ inControl (addrM plain.arch 1 0) = false ∧
    yields (locateLoad 0x1000 true) (found (issued plain) 0 plain) (fun l m1 => yields (readAt l 0x1000 8) m1 fun bs _ =>
      decide (bs.length = 8)) = true ∧
    yields (locateStore 0x1000 16 false) (found (issued plain) 0 plain) (fun l m1 =>
      yields (writeAt l 0x1000 (List.replicate 16 7)) m1 fun _ _ => !l.place.beyond) = true ∧
    (found (issued plain) 0 plain).ch.fars = [] := ⟨plain_begins, plain_free, by decide +kernel⟩

/-- VectorMemoryResults: VLD.d and VST.d of one register at 0x1000. -/
theorem meets_vectorMemory : Begins (issued plain) 0 plain ∧ Free plain ∧ vecAllowed plain.arch = true ∧
    (vecAccess plain.arch (.vld 4 3 1 0 0)).isSome = true ∧ memElem plain.arch 0 3 = 8 ∧ (shapeOf plain.arch 0 64).nreg = 1 ∧
    yields (locateElems (locate .load) [(0, 0x1000), (1, 0x1008)]) (found (issued plain) 0 plain) (fun ls m1 =>
      yields (readElems 8 ls) m1 fun _ _ => true) = true ∧
    yields (locateElems (fun va => locateStore va 8 false) [(0, 0x1000), (1, 0x1008)]) (found (issued plain) 0 plain) (fun ls m1 =>
      decide (linesInSet ls (setOf 0x1000) ≤ setLimit (found (issued plain) 0 plain)) &&
      yields (writeElems 8 (fun k => plain.arch.lane 4 64 k) ls) m1 fun _ _ => true) = true := ⟨plain_begins, plain_free, by decide +kernel⟩

/-- CacheControlResults: the line at 0x1000, and a range of no bytes. -/
theorem meets_cacheControl : Begins (issued plain) 0 plain ∧ Free plain ∧ First (issued plain) plain ∧
    rangeBreak 0x1000 64 = none ∧ rangeInWindow 0x1000 64 = false ∧
    yields (rangeLines .store 0x06 0x1000 64) (endsAs .alone (found (issued plain) 0 plain)) (fun ls _ => decide (ls = [64])) = true ∧
    yields (rangeLines .load 0x05 0x1000 0) (endsAs .alone (found (issued plain) 0 plain)) (fun ls _ => decide (ls = [])) = true :=
  ⟨plain_begins, plain_free, plain_first, by decide +kernel⟩

/-- Bank 3 of cluster 0 in FIFO mode for guild 1, with one entry or none. -/
def withFifo (l : List Word) : State :=
  (issued (thread [(1, 0xFFFFFFFFFFE30000), (2, 3)])).setBank 0 3 { Bank.reset with mode := 2, owner := 1, fifo := l }

/-- BankResults: a bank that its guild owns, and FIFOs with an entry and without. -/
theorem meets_bankResults : Begins (withFifo [9]) 0 (thread [(1, 0xFFFFFFFFFFE30000), (2, 3)]) ∧
    ((withFifo [9]).bank (clusterOf 0) 3).owner = 1 ∧
    yields (noteRead (bankLine 0 3)) (endsAs .alone (found (withFifo [9]) 0 (thread [(1, 0xFFFFFFFFFFE30000), (2, 3)]))) (fun _ m1 =>
      yields (noteWrite (bankLine 0 3)) m1 fun _ _ => true) = true ∧
    yields (fifoBank 1 0) (found (withFifo [9]) 0 (thread [(1, 0xFFFFFFFFFFE30000), (2, 3)])) (fun j m1 =>
      decide (j = 3) && decide (fifoView m1 j = [9]) && yields (noteWrite (fifoTail m1.cluster j)) m1 fun _ _ => true) = true ∧
    yields (fifoBank 1 0) (found (withFifo []) 0 (thread [(1, 0xFFFFFFFFFFE30000), (2, 3)])) (fun j m1 =>
      decide (fifoView m1 j = []) && yields (noteWrite (fifoHead m1.cluster j)) m1 fun _ _ => true) = true :=
  ⟨⟨rfl, _, rfl, by decide +kernel, by decide +kernel⟩, by decide +kernel⟩

/-- AtomicResults: AADD.d to the word at 0x1000; CAS.d on it; two operations that combine. -/
theorem meets_atomicResults : Begins (issued plain) 0 plain ∧ Free plain ∧ First (issued plain) plain ∧ plain.arch.det = false ∧
    (farForm (.aadd 1 2 1 0)).isSome = true ∧ (atomForm plain.arch (.cas 5 1 2 1 3 0)).isSome = true ∧
    yields (locateAtom .store 0x1000 true) (found (issued plain) 0 plain) (fun l m1 => yields (holdLine 0x1000 (lineOf l.pa)) m1 fun _ m2 =>
      yields (noteAtomic l) m2 fun _ _ => true) = true ∧
    yields (locateAtom .store 0x1000 true) (endsAs .alone (found (issued plain) 0 plain)) (fun l m1 => yields (noteRead l) m1 fun _ m2 =>
      yields (noteWrite l) m2 fun _ _ => true) = true ∧
    (({ pa := 0x1000, n := 8, op := .add, v := 1, va := 0x1000 } : Far).combines { pa := 0x1000, n := 8, op := .add, v := 2, va := 0x1000 }) = true :=
  ⟨plain_begins, plain_free, plain_first, by decide +kernel⟩

/-- A deterministic thread. -/
def fixedThread : Thread := { plain with arch := { plain.arch with status := 0x10002 } }

/-- The deterministic machine that has issued it. -/
def fixedIssued : State := (issued fixedThread).setCrew 0 { soleCrew with det := true }

/-- GuardResults: AFADD and XADD of a deterministic thread, and a guard of 64 bytes at 0x1000 of one. -/
theorem meets_guardResults : Begins fixedIssued 0 fixedThread ∧ Free fixedThread ∧ First fixedIssued fixedThread ∧
    fixedThread.older = [] ∧ fixedThread.arch.det = true ∧ (farForm (.afadd 1 2 1 0)).isSome = true ∧
    (atomForm fixedThread.arch (.xadd 5 1 2 1 0)).isSome = true ∧
    ({ fixedThread with pending := some .turn } : Thread).pending = some .turn ∧ fixedThread.pending ≠ some .turn ∧
    yields (guardRange 3 1) (found fixedIssued 0 fixedThread) (fun g m => decide (g.crew = 0) && decide (guardView m = []) &&
      yields (noteGuardTable true) m fun _ _ => true) = true :=
  ⟨⟨rfl, _, rfl, by decide +kernel, by decide +kernel⟩, by unfold Free; decide +kernel, by unfold First; decide +kernel,
    by decide +kernel⟩

/-! ### Vectors -/

/-- The manual's spans s1 = 0x0C20 and s2 = 0x0406 (R201, R225), its six values of R241 in v1, and those of R208 in v2. -/
def vectors : Thread :=
  { plain with arch := { plain.arch with
      s := (plain.arch.s.set 1 0x0C20).set 2 0x0406
      v := (plain.arch.v.set 1 0xBF8000000000000040400000800000007FC0000040400000).set 2 0x3ECCCCCD40A00000BFB3333341200000 } }

theorem vectors_begins : Begins (issued vectors) 0 vectors := begins_issued _ (by decide +kernel) (by decide +kernel)
theorem vectors_free : VecFree vectors := by unfold VecFree; decide +kernel
theorem vectors_fit (l : List (BitVec 5 × Nat)) (h : ∀ g ∈ l, g.1.toNat + g.2 ≤ 32) : Fit (issued vectors) vectors l := h

theorem meets_maskAndCompare : Begins (issued vectors) 0 vectors ∧ VecFree vectors ∧
    ((maskResult vectors.arch (.mand 2 1 3 4)).isSome = true ∧ (maskScalar vectors.arch (.mpop 5 1 3)).isSome = true ∧
    (compareOp vectors.arch (.vcmp 2 2 1 2 0 0 3)).isSome = true) ∧ Fit (issued vectors) vectors [(2, 1), (1, 1)] :=
  ⟨vectors_begins, vectors_free, by decide +kernel, vectors_fit _ (by decide +kernel)⟩

theorem meets_elementResults : Begins (issued vectors) 0 vectors ∧ VecFree vectors ∧
    (laneOp vectors.arch (.fadd 6 1 2 1 5 0x20)).isSome = true ∧ (convOp vectors.arch (.fcvt 6 9 12 2 1 0 1)).isSome = true ∧
    Fit (issued vectors) vectors [(2, 2), (6, 1)] :=
  ⟨vectors_begins, vectors_free, by decide +kernel, by decide +kernel, vectors_fit _ (by decide +kernel)⟩

theorem meets_scalarResults : Begins (issued vectors) 0 vectors ∧ VecFree vectors ∧ (Instr.fred 7 1 0 2 0 0).wf = true ∧
    (scalarOp vectors.arch (.fred 7 1 0 2 0 0)).isSome = true ∧ Fit (issued vectors) vectors [(2, 1)] :=
  ⟨vectors_begins, vectors_free, by decide +kernel, by decide +kernel, vectors_fit _ (by decide +kernel)⟩

theorem meets_specialResults : Begins (issued vectors) 0 vectors ∧ VecFree vectors ∧
    ((sfuOp vectors.arch (.fdiv 6 1 2 2 0 0)).bind LaneOp.rm) = some 0 ∧ ((issued vectors).core 0).sfu.length + 1 ≤ 32 ∧
    Fit (issued vectors) vectors [(2, 1), (2, 1), (6, 1)] :=
  ⟨vectors_begins, vectors_free, by decide +kernel, by decide +kernel, vectors_fit _ (by decide +kernel)⟩

theorem meets_groupElements : (32 : Nat) ∣ 512 ∧ (0 : Nat) < 32 ∧ (30 : BitVec 5).toNat + 2 ≤ 32 := by decide

/-- GroupElements, of rounding: the formats; 1 lies at the encoding 0x3F800000 of f32; two numbers and a signalling NaN. -/
theorem meets_rounding : (e4m3 ∈ formats ∧ f32 ∈ formats ∧ (126 : Nat) ≤ e4m3.maxEnc ∧ f32.hasInf = true) ∧
    (unpack f32 false 0x3F800000 = .num false 1 1 ∨ (numOf (unpack f32 false 0x3F800000)).isSome = true) ∧
    (numOf (unpack f32 false 0)).isSome = true ∧ (unpack f32 false 0x7FC00000).isNan = true ∧ magOf f32 0x3F800000 ≤ 1 ∧
    1 < magOf f32 (0x3F800000 + 1) := by
  refine ⟨by decide +kernel, .inr (by decide +kernel), by decide +kernel, by decide +kernel, ?_, ?_⟩ <;>
  · simp only [magOf, f32]
    norm_num [Fmt.bias]

theorem meets_selectAndRandom : Begins (issued vectors) 0 vectors ∧ VecFree vectors ∧
    Fit (issued vectors) vectors [(1, 1), (6, 1), (7, 1)] ∧
    yields (freeOverlap 6 1 7 1) (found (issued vectors) 0 vectors) (fun _ _ => true) = true ∧
    yields (freeOverlap 6 1 6 1) (found (issued vectors) 0 vectors) (fun _ _ => true) = true ∧
    ([(5, 0), (5, 3)].map Prod.snd).Pairwise (· < · : Nat → Nat → Prop) :=
  ⟨vectors_begins, vectors_free, vectors_fit _ (by decide +kernel), by decide +kernel, by decide +kernel, by decide⟩

theorem meets_blockFormats : Begins (issued vectors) 0 vectors ∧ VecFree vectors ∧
    Fit (issued vectors) vectors [(2, 2), (4, 1), (10, 1)] ∧
    yields (freeOverlap 4 1 10 1) (found (issued vectors) 0 vectors) (fun _ _ => true) = true :=
  ⟨vectors_begins, vectors_free, vectors_fit _ (by decide +kernel), by decide +kernel⟩

/-- The manual's line of R224's kind: REP x5, 2, 2, 2 before FMA.f32 v4, v8, v12, v16 in one line (H = 2); x5 is the count. -/
def repeating (n : Nat) : Thread :=
  { thread [(5, n)] with
    fetch := some (0, BitVec.ofNat 512 (2 + 0x0290 * 2 ^ 16 + 0x12AC * 2 ^ 32 + 0x0005 * 2 ^ 496 + 0x0222 * 2 ^ 480 +
      0x9308 * 2 ^ 464 + 0x0010 * 2 ^ 448)) }

/-- RepeatResults: two iterations, one and none. -/
theorem meets_repeatResults : BeginsRep (issued (repeating 2)) 0 (repeating 2) ∧ Free (repeating 2) ∧
    ([2, 1, 0].all fun n => yields repTarget (found (issued (repeating n)) 0 (repeating n)) fun tg m1 =>
      match repFields (repeating n).arch (decode tg.1) with
      | some fs => pairOk (decode tg.1) fs 0x0222 && rangeBreach fs 0x0222 m1.vregs m1.tiles 0 n == none &&
          (n == 0 || yields (repOp (decode (repStepped tg.1 0 0x0222 (repMemory (decode tg.1)))) 0)
            (onAr (fun a => { a with repst := repWord 0 0x0222 n }) m1) fun _ _ => true)
      | none => false) = true :=
  ⟨⟨rfl, rfl, by decide +kernel⟩, by unfold Free; decide +kernel, by decide +kernel⟩

/-! ### The manual's worked results -/

/-- The thread that a step has left. -/
def after (i : Instr) (s : State) : Thread :=
  match exec i s with
  | .next s' => (s'.thread 0).getD Thread.reset
  | _ => Thread.reset

/-- R88: ILV.3 x20, x4, x5, x6 of 5, 3 and 6 is 0x173; DILV.3.c1 of it is 3. -/
theorem test_ilv : (after (.ilv 20 1 5 4 6) (issued (thread [(4, 5), (5, 3), (6, 6)]))).arch.getX 20 = 0x173 ∧
    (after (.dilv 21 1 20 1) (issued (thread [(20, 0x173)]))).arch.getX 21 = 3 := by decide +kernel

/-- R86: EXT.s x9, x3, 40, 12 of 0x000F_7A00_0000_0000. -/
theorem test_ext : (after (.ext 9 3 1 11 40) (issued (thread [(3, 0x000F7A0000000000)]))).arch.getX 9 = 0xFFFFFFFFFFFFFF7A := by
  decide +kernel

/-- R225: VSPAN.w s2, x3, 1 with x3 = 6, and with x3 = 100. -/
theorem test_vspan : (after (.vspan 2 2 3 1) (issued (thread [(3, 6)]))).arch.getS 2 = 0x0406 ∧
    (after (.vspan 2 2 3 1) (issued (thread [(3, 100)]))).arch.getS 2 = 0x0410 := by decide +kernel

/-- R241: TOPN.f32 v6, v7, v1, 4, s2. -/
theorem test_topn : (after (.topn 6 9 1 2 7 0 4) (issued vectors)).arch.getV 6 = 0x80000000000000004040000040400000 ∧
    (after (.topn 6 9 1 2 7 0 4) (issued vectors)).arch.getV 7 = 0x0002000400030000 := by decide +kernel

/-- R208: FPACK.e2m1.f32 v4, v10, v2, s1: bytes 0x96 and 0x04, and the scale 0x80. -/
theorem test_fpack : (after (.fpack 4 9 2 0 1 10 14) (issued vectors)).arch.getV 4 = 0x0496 ∧
    (after (.fpack 4 9 2 0 1 10 14) (issued vectors)).arch.getV 10 = 0x80 := by decide +kernel

/-! ### Units, engines and reductions -/

/-- Core 0 of the vector machine, its panels owned by the sole crew with a pattern of N = 16. -/
def panelCore : Core :=
  { mapped with panels := (List.range 64).map fun p => (p, { Core.reset.panel p with owner := some 0, pattern := some (5, 16) }) }

def withPanels : State := (issued vectors).setCore 0 panelCore

theorem panels_begins : Begins withPanels 0 vectors := ⟨rfl, _, rfl, by decide +kernel, by decide +kernel⟩

/-- LoomQueueResults: MZERO, dense and sparse MMA, MSCL with both factors, MACC of 16 rows at 0x1000. -/
theorem meets_loomQueue : Begins withPanels 0 vectors ∧ VecFree vectors ∧ LoomFree withPanels 0 ∧
    TileOk withPanels vectors 6 true ∧ OwnsPanels withPanels 0 vectors [0, 2, 8] ∧
    (((withPanels.core (coreOf 0)).panel 8).pattern.map Prod.snd) = some (sparseN 2) ∧ Fit withPanels vectors [(2, 2)] ∧
    yields (needRowsLowest .load 0x1000 64 16 64) (found withPanels 0 vectors) (fun rows m1 => yields (readDwords rows.flatten) m1 fun _ m2 =>
      decide ((m2.st.core m2.core).loom.length < 2)) = true :=
  ⟨panels_begins, vectors_free, by unfold LoomFree; decide +kernel, by unfold TileOk; decide +kernel,
    by unfold OwnsPanels; decide +kernel, by decide +kernel, by unfold Fit; decide +kernel, by decide +kernel⟩

/-- PanelResults: loads of 16 rows, a compression, a drain of 16 rows. -/
theorem meets_panelResults : Begins withPanels 0 vectors ∧ VecFree vectors ∧ OwnsPanels withPanels 0 vectors [8, 9, 10] ∧
    yields (needRows .load 0x1000 32 16 32) (found withPanels 0 vectors) (fun _ _ => true) = true ∧
    loadShape (geoOf 11) false 0 false = (16, 32) ∧
    yields (needRowsLowest .store 0x1000 64 16 64) (found withPanels 0 vectors) (fun rows m1 =>
      decide ((m1.st.core m1.core).drainUsed + (LoomOp.drain 6 false 0 false 9 [] [] (rowAddrs rows)).captured ≤ 8192)) = true :=
  ⟨panels_begins, vectors_free, by unfold OwnsPanels; decide +kernel, by decide +kernel⟩

/-- The status clauses: nothing out, and a committed drain, or an engine command, out. -/
def withDrain : State :=
  (issued vectors).setCore 0 { mapped with drains := [{ id := 0, tid := 0, crew := 0, guild := 1, dwords := [], committed := true }] }
def someCopy : CopyCmd :=
  { kind := .linear, src := 0x1000, dst := 0x2000, len := 64, bySrc := false, cw := none, cval := 0, tid := 0, crew := 0, guild := 1 }
def withCopy : State :=
  (issued vectors).setCore 0 { mapped with engine :=
    [{ id := 0, cmd := someCopy, done := [], asked := [], reads := [], unacked := 0, status := .done, value := 0, sent := false }] }

theorem meets_matrixStatus : Begins (issued vectors) 0 vectors ∧ First (issued vectors) vectors ∧ vectors.older = [] ∧
    matrixOut (issued vectors) 0 = 0 ∧ Begins withDrain 0 vectors ∧ First withDrain vectors ∧ matrixOut withDrain 0 ≠ 0 :=
  ⟨vectors_begins, by unfold First; decide +kernel, by decide +kernel, by decide +kernel,
    ⟨rfl, _, rfl, by decide +kernel, by decide +kernel⟩, by unfold First; decide +kernel, by decide +kernel⟩

theorem meets_engineStatus : Begins withCopy 0 vectors ∧ Free vectors ∧ First withCopy vectors ∧
    ((withCopy.core (coreOf 0)).engine.filter fun e => e.cmd.tid = 0).length ≠ 0 :=
  ⟨⟨rfl, _, rfl, by decide +kernel, by decide +kernel⟩, by unfold Free; decide +kernel, by unfold First; decide +kernel, by decide +kernel⟩

/-- A thread with addresses and parameters of engine commands: 64 bytes, one row of 64 bytes, indices at 0x3000, the completion word
0x4000 with its value, and the parameters of a reduction: two f32 elements, one contributor. -/
def engines : Thread :=
  thread [(1, 0x1000), (2, 0x2000), (3, 64), (4, 0x100000040), (5, 0x4000000040), (6, 0x3000), (7, 1), (8, 0x4000), (9, 7), (10, 0x1_0002)]

theorem engines_begins : Begins (issued engines) 0 engines := begins_issued _ (by decide +kernel) (by decide +kernel)

/-- CopyResults: CPY of x3, CPYS of x4 and CFILL of x3; CPYG of an index, and of none. -/
theorem meets_copyResults : Begins (issued engines) 0 engines ∧ Free engines ∧ CopyRoom (issued engines) engines ∧
    CwOk engines.arch 8 ∧ overlap 0x2000 0x1000 64 = false ∧
    yields (copyRanges 64 (firstByte 64 .load 0x1000) (firstByte 64 .store 0x2000) 8) (found (issued engines) 0 engines)
      (fun _ _ => true) = true ∧
    yields (copyRanges 64 [] (firstByte 64 .store 0x2000) 8) (found (issued engines) 0 engines) (fun _ _ => true) = true ∧
    yields (locate .load 0x3000) (found (issued engines) 0 engines) (fun li m1 => yields (locate .store 0x2000) m1 fun ls m2 =>
      yields (readAt li 0x3000 4) m2 fun bs m3 => yields (locate .load (0x1000 + indexOff false 4 8 (ofBytes bs))) m3 fun lf m4 =>
        yields (locateFirsts (completionRange (found (issued engines) 0 engines) 8)) m4 fun lc _ =>
          gatherPlace li.place && gatherPlace ls.place && gatherPlace lf.place && lc.all fun x => copyPlace x.2.place) = true :=
  ⟨engines_begins, by unfold Free; decide +kernel, by unfold CopyRoom; decide +kernel, by unfold CwOk; decide +kernel, by decide +kernel⟩

/-- The block at 0x1000 open for two f32 elements of one contributor. -/
def withBlock : State :=
  { issued engines with mem := Memory.writeRun (Memory.writeRun [] 0x1000 (bytesOf 8 0x0009000000010002)) 0x1020 [1] }

/-- ReductionResults: RDSET on a free block; RDC and RDQ on an open one. -/
theorem meets_reductionResults : Begins (issued engines) 0 engines ∧ Begins withBlock 0 engines ∧ declOk 0x1_0002 9 = true ∧
    yields (locate .store 0x1000) (found (issued engines) 0 engines) (fun l m1 => yields (readAt (l.within 0x1000 0x20) 0x1020 8) m1 fun st m2 =>
      decide (ofBytes st % 4 ≠ 1) && yields (locateRun .store 0x2000 4 2) m2 fun ts m3 => ts.all (fun x => decide (regionOf x.pa = 0)) &&
        yields (locateFirsts (completionRange (found (issued engines) 0 engines) 0)) m3 fun _ m4 =>
          yields (writeWords l 0x1000 0 [0x0009000000010002, 0x2000, 0, 0, 1, 0, 0, 0]) m4 fun _ _ => true) = true ∧
    yields (locateBlock 0x1000) (found withBlock 0 engines) (fun l m1 => yields (blockWord l 0x1000 0x20) m1 fun st m2 =>
      yields (blockWord l 0x1000 0) m2 fun decl m3 => decide (st.toNat % 4 = 1) && decide (declType decl = 9) && decide (0 < declNcon decl) &&
        decide (declCount decl ≤ spanRegs engines.arch 0 * 64 / 4) && decide (captureUsed m3 + declCount decl * 4 ≤ 8192) &&
        yields (locateRun .load 0x2000 4 (declCount decl)) m3 fun ls _ => ls.all fun x => decide (regionOf x.pa = 0)) = true ∧
    yields (rdBlock 1) (found withBlock 0 engines) (fun x _ => decide (x.1 = 1)) = true ∧
    yields (rdBlock 1) (endsAs .alone (found (issued engines) 0 engines)) (fun x _ => decide (x.1 ≠ 1)) = true :=
  ⟨engines_begins, ⟨rfl, _, rfl, by decide +kernel, by decide +kernel⟩, by decide +kernel⟩

/-! ### Messages, exchanges and the system -/

/-- TaskMessageResults and MessageResults: the record of zeros at 0x1000, core 0 as VCN 0, counter 0. -/
theorem meets_messages : Begins (issued engines) 0 engines ∧ MessageRoom (issued engines) engines ∧
    CounterIndex (issued engines) engines 0 ∧ crewCore (found (issued engines) 0 engines) 0 = some 0 ∧
    crewThread (found (issued engines) 0 engines) 0 = some 0 ∧ Fit (issued engines) engines [(4, 1)] ∧
    yields (readTask 0x1000 none) (found (issued engines) 0 engines) (fun _ _ => true) = true ∧
    yields (noteInbox 0 true) (found (issued engines) 0 engines) (fun _ m1 => inboxView m1 = []) = true ∧
    yields (noteInbox 0 false) (found (issued engines) 0 engines) (fun _ _ => true) = true :=
  ⟨engines_begins, by unfold MessageRoom; decide +kernel, by unfold CounterIndex; decide +kernel, by decide +kernel, by decide +kernel,
    by unfold Fit; decide +kernel, by decide +kernel⟩

/-- Queue 7 open to the device for guild 1, which has the system privilege. -/
def withSystem (t : Thread) : State :=
  (issued t).setPart 0 { Part.reset with queues := [(7, { Queue.none with ctl := 0x10C00 })], guildCache := [(1, [0xC000000000000000, 0, 0, 0, 0, 0, 0, 0])] }

theorem system_begins (t : Thread) (h : wdFires t.arch = false) (hr : t.clearRep = t) : Begins (withSystem t) 0 t :=
  ⟨rfl, t, rfl, h, hr.symm⟩

theorem meets_launch : Begins (withSystem engines) 0 engines ∧ SysGuild (withSystem engines) engines ∧
    ((withSystem engines).queue (crewPart engines.crew) 7).ctl.getLsbD 10 = true ∧
    yields (locate .load 0x1000) (found (withSystem engines) 0 engines) (fun l0 m1 => yields (locate .load 0x1040) m1 fun l1 m2 =>
      decide (regionOf l0.pa = 0) && decide (regionOf l1.pa = 0) && yields (readWords l0 0x1000 0 8) m2 fun _ m3 =>
        yields (readWords l1 0x1040 0 8) m3 fun _ _ => true) = true :=
  ⟨system_begins _ (by decide +kernel) (by decide +kernel), by unfold SysGuild; decide +kernel, by decide +kernel⟩

/-- BarrierAndExchangeResults: the only member at domain 0, one routine at 0x1000; a tablature of one record at 0x1000; a member that is
arming it. -/
def tablature : Line := 33 + 0x10000 + 1000 * 2 ^ 32
def withTablature : State := { issued engines with mem := Memory.writeRun [] 0x1000 (bytesOf 64 tablature.toNat) }
def arming : Arming := ⟨0, 0x1000, 0, 1, [tablature], [], false⟩
def armingThread : Thread := { engines with arch := { engines.arch with arming := some arming } }

theorem owners_of (s : State) (t : Thread) (x : Slot) (w : Crew) (hw : s.crew t.crew = some w) (hm : w.members = [(0, 0)])
    (h : stringPasses x.str (dieOf (coreOf 0)) (coreFret (coreOf 0)) = true) : OwnersOn s t x := by
  intro j o _ ho
  rw [hw, Option.bind_some, hm] at ho
  have : o = 0 := by
    simp only [assocGet?] at ho
    split at ho <;> simp_all
  rw [this]; exact h

theorem meets_barrierAndExchange : Begins withTablature 0 engines ∧ MayArrive withTablature engines 0 ∧ crewSize withTablature engines = 1 ∧
    yields (checkRoutines 0x2000 1) (found withTablature 0 engines) (fun _ m1 => yields (loadRoutines 0x2000 1) m1 fun _ _ => true) = true ∧
    yields (locate .load 0x1000) (endsAs .alone (found withTablature 0 engines)) (fun l m1 => yields (readLineAt l 0x1000) m1 fun x _ =>
      decide (lineField x 2 2 = 1) && tabOk [x] 1) = true ∧
    Begins (issued armingThread) 0 armingThread ∧ Arms armingThread arming ∧ slotCount [tablature] = 1 ∧
    stringPasses (slotAt [tablature] 0).str 0 0 = true ∧ OwnersOn (issued armingThread) armingThread (slotAt [tablature] 0) ∧
    yields (readLines exchangePlace 0x1000 1) (found (issued armingThread) 0 armingThread) (fun _ _ => true) = true ∧
    yields (selection arming 0 0x100 true) (found (issued armingThread) 0 armingThread) (fun q m1 =>
      yields (locateRun .store 0x1000 64 q.2.2.2.2) m1 fun ls _ => ls.all exchangePlace) = true :=
  ⟨⟨rfl, _, rfl, by decide +kernel, by decide +kernel⟩, ⟨by decide +kernel, ⟨⟨0, 1, 1⟩, by decide +kernel, by decide +kernel⟩⟩,
    by unfold crewSize; decide +kernel, by decide +kernel, by decide +kernel,
    begins_issued _ (by decide +kernel) (by decide +kernel), ⟨rfl, rfl⟩, by decide +kernel, by decide +kernel,
    owners_of _ _ _ soleCrew (by decide +kernel) (by decide +kernel) (by decide +kernel), by decide +kernel⟩

/-- SystemRegisterResults: an open register, a handler's at handler level, the system's; policyver; values that SETS admits. Its
refusals: a guild without the privilege below handler level. -/
def flagged : Thread := { engines with chunks := [{ Chunk.fresh State.reset engines with stage := .ended, flags := 1 }] }

theorem meets_systemRegisters : FlagsIn engines 0x008 ∧ ¬ FlagsIn flagged 0x008 ∧ Begins (issued flagged) 0 flagged ∧ Free flagged ∧ Begins (withSystem engines) 0 engines ∧ MayRead (withSystem engines) engines 0x040 ∧
    MayWrite (withSystem engines) engines 0x010 ∧ (srSet engines.arch 0x008 0x1F).isSome = true ∧
    yields (readAt { pa := versionPa 0, place := .bench 0 0x4000 } 0 4) (found (withSystem engines) 0 engines) (fun _ _ => true) = true ∧
    Begins (issued engines) 0 engines ∧ First (issued engines) engines ∧ ¬ SysGuild (issued engines) engines ∧
    TakesNow engines ∧ engines.arch.status.getLsbD 0 = false ∧ (0x3FF : Nat) ∉ openRegs ++ trapRegNos ++ [0x020, 0x030, 0x040, 0x042] := by
  refine ⟨by unfold FlagsIn; decide +kernel, by unfold FlagsIn; decide +kernel, begins_issued _ (by decide +kernel) (by decide +kernel),
    by unfold Free; decide +kernel, system_begins _ (by decide +kernel) (by decide +kernel), ?_, ?_, by decide +kernel, by decide +kernel, engines_begins,
    by unfold First; decide +kernel, by unfold SysGuild; decide +kernel, by unfold TakesNow; decide +kernel, by decide +kernel, by decide +kernel⟩ <;>
  · simp only [MayRead, MayWrite, SysGuild]
    decide +kernel

/-- TrapResults: a thread outside any handler; one at handler level with an admissible saved status. -/
def inTrap : Thread := { engines with arch := { engines.arch with status := 0x10001, tstat := 0x10000 } }

theorem meets_trapResults : Begins (issued engines) 0 engines ∧ Free engines ∧ First (issued engines) engines ∧ engines.older = [] ∧ TakesNow engines ∧
    Begins (issued inTrap) 0 inTrap ∧ inTrap.arch.status.getLsbD 0 = true ∧
    tstatOk inTrap.arch ((((issued inTrap).crew inTrap.crew).map Crew.det).getD false) = true :=
  ⟨engines_begins, by unfold Free; decide +kernel, by unfold First; decide +kernel, by decide +kernel, by unfold TakesNow; decide +kernel,
    begins_issued _ (by decide +kernel) (by decide +kernel), by decide +kernel⟩

/-- GateResults: a gate table at 0x4000 whose entry 0 targets guild 1 with two depths, frames of 64 KiB and no check of the caller;
a thread inside a gate. -/
def gated : Thread := { engines with arch := { engines.arch with gtb := 0x4000 } }
def gateTable : State :=
  { withSystem gated with mem := Memory.writeRun (Memory.writeRun [] 0x4000 (bytesOf 8 (2 ^ 63 + 2 * 2 ^ 26 + 1))) 0x4020 (bytesOf 8 0x10000) }
def inGate : Thread := { engines with arch := { engines.arch with status := 0x10010 } }

theorem meets_gateResults : Begins gateTable 0 gated ∧ (gated.arch.level = false ∧ gated.arch.depth = 0 ∧
    yields (readEntry 0x4000 8) (found gateTable 0 gated) (fun e m1 => match e with
      | some e => gateEntryOk e && m1.st.guildValid 0 ((e.getD 0 0).setWidth 16) &&
          decide (gated.arch.guild.toNat &&& ((e.getD 2 0).toNat / 2 ^ 16 % 2 ^ 16) = (e.getD 2 0).toNat % 2 ^ 16) &&
          decide (m1.frameSize ((e.getD 0 0).getLsbD 24) ≤ (e.getD 4 0).toNat % 2 ^ 32)
      | none => false) = true) ∧
    Begins (issued inGate) 0 inGate ∧ Free inGate ∧ inGate.arch.depth ≠ 0 :=
  ⟨⟨rfl, _, rfl, by decide +kernel, by decide +kernel⟩, by decide +kernel, begins_issued _ (by decide +kernel) (by decide +kernel), by unfold Free; decide +kernel, by decide +kernel⟩

/-- MaintenanceResults: a line with X, the system privilege, and a descriptor of a snapshot at 0x1000. -/
def withDescriptor : State := { withSystem engines with mem := Memory.writeRun [] 0x1000 [1] }

theorem meets_maintenance : Begins withDescriptor 0 engines ∧ Free engines ∧ First withDescriptor engines ∧ SysGuild withDescriptor engines ∧
    yields (locateAs .fetch 0x05 0x1000 0x1000) (found withDescriptor 0 engines) (fun _ _ => true) = true ∧
    yields (locate .load 0x1000) (endsAs .alone (found withDescriptor 0 engines)) (fun l m1 => decide (regionOf l.pa = 0) &&
      yields (readWords l 0x1000 0 8) m1 fun e m2 => snapDescOk e &&
        ((placeOf m2.st 0 (e.getD 4 0).toNat).any fun p => decide (regionOf p.pa ≤ 1))) = true :=
  ⟨⟨rfl, _, rfl, by decide +kernel, by decide +kernel⟩, by unfold Free; decide +kernel, by unfold First; decide +kernel,
    by unfold SysGuild; decide +kernel, by decide +kernel⟩

/-! ### Steps, traps and translation -/

/-- Bench core 0 running at PC 0 with the bytes of a word in its private SRAM. -/
def benchIssued (w : Nat) (e : Bench) : State :=
  { State.reset.setBench 0 { e with running := true, sram := Memory.writeRun e.sram 0 (bytesOf 4 w) } with issuing := some (.bench 0) }

/-- The first event of the agenda: a time passes. -/
def scheduled : State := { State.reset with agenda := [(5, .event .shareRestore)] }

theorem meets_stepRunsDecoded : (issued plain).due = [] ∧ (issued plain).issuing = some (.thread 0) ∧
    ((issued plain).thread 0).map (fun t => decode t.headBits) = some .nop ∧
    (benchIssued 0x0000298B Bench.reset).issuing = some (.bench 0) ∧
    decodeRv (benchWord ((benchIssued 0x0000298B Bench.reset).bench 0)) = .epInfo 0 19 ∧
    scheduled.issuing = none ∧ isEvent .shareRestore = true ∧ scheduled.upkeep.romOnly = false := by decide +kernel

/-- HeadAndTail: the manual's line of one head with a tail of three halfwords. -/
theorem meets_headAndTail : (soleThread (oneHeadLine 0x0000000611445248)).fetch.isSome = true ∧
    halfAt (oneHeadLine 0x0000000611445248) 1 / 256 % 4 = 2 ∧
    tailsBefore (oneHeadLine 0x0000000611445248) 0 + 2 ≤ 30 - 0 := by decide +kernel

/-- EncodingRoundTrip, MemCanonicalStep and ThreadsWriteNoMemory. -/
theorem meets_wholeMachine : (Instr.add 5 0 7 6).wf = true ∧ isIllegal (.add 5 0 7 6) = false ∧ (Instr.add 5 0 7 6).bits ≠ 0 ∧
    encodeRv (.epInfo 0 19) = some 0x0000298B ∧ MemCanonical (issued plain) ∧ OfThread .nop := by
  unfold MemCanonical OfThread; decide +kernel

/-- A thread whose watchdog count has reached its limit, first of a chunk and behind two heads of it. -/
def tired : Thread := { plain with arch := { plain.arch with wdlimit := 9, wdcount := 9 } }
def behind (t : Thread) : Thread := { t with chunks := [{ Chunk.fresh (issued t) t with count := 2 }] }
/-- A deterministic thread that has met a fault, and the same at its turn. -/
def turned (p : Pending) : Thread := { plain with arch := { plain.arch with status := 0x10002 }, pending := some p }
def waitingFirst : Thread := { plain with chunks := [{ Chunk.fresh (issued plain) plain with count := 2, stage := .ended }] }

/-- FaultsArePrecise: both watchdog clauses; TRAP behind two heads, first behind a chunk in flight, and in precise mode. -/
theorem meets_faultsArePrecise : ((issued tired).thread 0 = some tired ∧ tired.arch.wdlimit ≠ 0 ∧
    tired.arch.wdlimit.toNat ≤ tired.arch.wdcount ∧ (tired.current (here (issued tired))).count = 0 ∧ tired.older = [] ∧
    0 < ((behind tired).current (here (issued (behind tired)))).count ∧
    faultOf (behind plain) (.trap 3) = some (0x15, 3) ∧ ((behind plain).executing.any fun c => decide (0 < c.count)) = true) ∧
    Begins (issued (behind plain)) 0 (behind plain) ∧
    First (issued waitingFirst) waitingFirst ∧ waitingFirst.older ≠ [] ∧ ({ plain with precise := some 3 } : Thread).precise = some 3 ∧
    TakesNow tired ∧ Begins (issued (turned .turn)) 0 (turned .turn) ∧ First (issued (turned .turn)) (turned .turn) ∧ TakesNow (turned .turn) ∧
    ((turned .turn).older = [] ∧ faultOf (turned .turn) (.trap 3) = some (0x15, 3) ∧
    (turned (.trap 0x15 3)).arch.det = true ∧ (turned (.trap 0x15 3)).pending ≠ some .turn) ∧
    TakesNow (behind plain) ∧ ¬ TakesNow (behind (turned (.trap 0x15 3))) ∧ faultOf (behind (turned (.trap 0x15 3))) (.trap 3) = some (0x15, 3) ∧
    ((behind (turned (.trap 0x15 3))).executing.any fun c => decide (0 < c.count)) = true ∧
    Begins (issued (behind (turned (.trap 0x15 3)))) 0 (behind (turned (.trap 0x15 3))) :=
  ⟨by decide +kernel, begins_issued _ (by decide +kernel) (by decide +kernel), by unfold First; decide +kernel, by decide +kernel, rfl, .inl rfl, begins_issued _ (by decide +kernel) (by decide +kernel), by unfold First; decide +kernel, .inr rfl, by decide +kernel, .inl rfl, by unfold TakesNow; decide +kernel, by decide +kernel, by decide +kernel, begins_issued _ (by decide +kernel) (by decide +kernel)⟩

/-- TrapEntry: a handler, a breakpoint in a guild that is debugged, a trap inside a gate without a handler. -/
def handled : Thread := { plain with arch := { plain.arch with tvec := 0x8000 } }
def debugging : State := (issued handled).setPart 0 { Part.reset with guildCache := [(1, [0x2000000000000000, 0, 0, 0, 0, 0, 0, 0])] }

theorem meets_trapEntry : (issued handled).thread 0 = some handled ∧ handled.arch.level = false ∧ handled.arch.tvec ≠ 0 ∧
    debugged (issued handled) handled = false ∧ debugged debugging handled = true ∧
    inTrap.arch.level = true ∧ inTrap.arch.depth = 0 ∧ 0 < inGate.arch.depth ∧ inGate.arch.level = false ∧ inGate.arch.tvec = 0 ∧
    (issued handled).crew handled.crew = some soleCrew := by decide +kernel

/-- TranslationResults: an address that is not canonical, the window of an owned and of another's bank, an address that the TLB maps;
a page table of five levels with a leaf of 64 KiB, one of 2 MiB, one of 1 GiB, and entries that are neither. -/
def tables : State :=
  let put := fun (m : Memory) (a v : Nat) => Memory.writeRun m a (bytesOf 8 v)
  { (issued plain).setPart 0 { Part.reset with guildCache := [(1, [0x8000000000010000, 0, 0, 0, 0, 0, 0, 0])] } with
    mem := put (put (put (put (put (put (put [] 0x10000 0x11001) 0x11000 0x12001) 0x12000 0x13001) 0x12008 0x4000000F) 0x13000 0x14001)
      0x13008 0x20000F) 0x14000 0x50017 }

theorem meets_translation : ¬ isCanonical (2 ^ 60) ∧ windowStart ≤ (0xFFFFFFFFFFE30000 : Word).toNat ∧
    ((withFifo []).setBank 0 3 { Bank.reset with mode := 1, owner := 1 }).bank 0 3 = { Bank.reset with mode := 1, owner := 1 } ∧
    isCanonical 0x1000 ∧ (0x1000 : Word).toNat < windowStart ∧
    ((tlbFind mapped.tlb 1 0x1000).any fun e => e.grants .load && (placeOf (issued plain) 0 (swizzle e.swz (e.frame + 0x1000))).isSome) = true ∧
    ((tables.guildEntry 0 1).getD 0 0).toNat / 2 ^ 12 % 2 ^ 45 * 2 ^ 12 = 0x10000 ∧
    isPointer (pte tables 0x10000 0) ∧ isPointer (pte tables 0x11000 0) ∧ isPointer (pte tables 0x12000 0) ∧
    isLeaf 30 (pte tables 0x12000 1) ∧ isPointer (pte tables 0x13000 0) ∧ isLeaf 21 (pte tables 0x13000 1) ∧
    isLeaf 16 (pte tables 0x14000 0) ∧ ¬ isPointer (pte tables 0x10000 1) ∧ (issued plain).held 3 0 = false ∧
    ({ issued plain with upkeep := { Upkeep.reset with holds := [(3, 0, 0)] } } : State).held 3 0 = true := by
  unfold isCanonical isPointer isLeaf; decide +kernel

/-! ### Bench cores -/

/-- An episode with x10 = 0x100, x11 = 8 and x5 = 0x40. -/
def episode : Bench := ((Bench.reset.setX 10 0x100).setX 11 8).setX 5 0x40

theorem begins_bench (w n : Nat) (e : Bench) (h : ((benchIssued w e).bench 0).pc.toNat + n ≤ 65536) :
    BenchBegins (benchIssued w e) 0 n ((benchIssued w e).bench 0) := ⟨rfl, rfl, h⟩

/-- BenchInstructionResults: ADD, JAL, BEQ, LD at 0x100 and SD to it; C.ADDI, C.LI, C.MV and C.ADD; ECALL, EBREAK, an illegal
word and a PC beyond the SRAM. -/
theorem meets_benchInstructions : BenchBegins (benchIssued 0x00B50533 episode) 0 4 ((benchIssued 0x00B50533 episode).bench 0) ∧
    ((rvResult 0x00B50533 0 0x100 8).isSome = true ∧ rvField 0x0080006F 0 7 = 0x6F ∧ rvBranch 0 8 8 = some true ∧
    (episode.getX 10).toNat % 8 = 0 ∧ (episode.getX 10).toNat + 8 ≤ 65536) ∧
    BenchBegins (benchIssued 0x0505 episode) 0 2 ((benchIssued 0x0505 episode).bench 0) ∧ rvField 0x0505 13 3 = 0 ∧
    rvField 0x4505 13 3 = 2 ∧ rvField 0x852E 12 4 = 8 ∧ rvReg 0x852E 2 ≠ 0 ∧ rvField 0x952E 12 4 = 9 ∧ rvReg 0x952E 2 ≠ 0 ∧
    (0x77 : BitVec 32).toNat % 128 = 0x77 ∧ 65536 < ({ episode with pc := 65535 } : Bench).pc.toNat + 2 :=
  ⟨begins_bench _ _ _ (by decide +kernel), by decide +kernel, begins_bench _ _ _ (by decide +kernel), by decide +kernel⟩

/-- EpisodeInfoResults and EpisodeInstructionResults: EP.PUBOBS first and after an action, EP.END, EP.WAITACT without an action and
with one. -/
def answered : Bench :=
  { episode with eplast := 0, action := some { aseq := 1, aver := 0, payload := [1, 2], no := 1, vsw := false, superseded := false } }

theorem meets_episodeInstructions : BenchBegins (benchIssued 0x00C2900B episode) 0 4 ((benchIssued 0x00C2900B episode).bench 0) ∧
    PublishOk episode 10 11 ∧ (episode.eplast = BitVec.allOnes 64 ∧
    (benchIssued 0x00C2900B episode).benchBlocked 0 (published (benchIssued 0x00C2900B episode) 0 episode 10 11 0) = false ∧
    (benchIssued 0x00C2900B episode).benchBlocked 0 (published (benchIssued 0x00C2900B episode) 0 episode 10 11 1) = false) ∧
    BenchBegins (benchIssued 0x00B5050B answered) 0 4 ((benchIssued 0x00B5050B answered).bench 0) ∧ answered.eplast ≠ BitVec.allOnes 64 ∧
    answered.taken = false ∧ ({ answered with action := none } : Bench).action = none ∧ (answered.action.any fun a => !a.superseded) = true ∧
    answered.suspended = false ∧ answered.ending = none ∧
    (benchIssued 0x00B5050B answered).benchBlocked 0 ((benchIssued 0x00B5050B answered).pendCells 0) = false ∧
    (answered.getX 10).toNat + min (answered.getX 11).toNat 4080 ≤ 65536 := by
  refine ⟨begins_bench _ _ _ (by decide +kernel), by unfold PublishOk; decide +kernel, by decide +kernel, begins_bench _ _ _ (by decide +kernel), ?_⟩
  decide +kernel

/-! ### Events of threads, commits and packets -/

/-- The machine with a thread placed and nothing issued. -/
def placed (t : Thread) : State := { issued t with issuing := none }

/-- A ready thread, and one whose line is still to be fetched from memory. -/
def fetching : Thread := { plain with fetch := none }
/-- A thread whose buffered line has no head at its PC. -/
def inBuffer : Thread := { plain with fetch := some (plain.arch.pc.toNat / 64, 0) }
def withLine : State := { placed fetching with mem := Memory.writeRun [] 0 (bytesOf 64 (oneHeadLine 1).toNat) }

/-- Walks of a page that is mapped and of one that is not, for which thread 0 waits. -/
def walking : State :=
  { tables with issuing := none, clusters := [(0, { Cluster.reset with walks := [⟨1, 0, []⟩, ⟨1, 2 ^ 32, [⟨0, 5, 0⟩]⟩] })] }

def aWatch : Watch := { va := 0x1000, pa := 0x1000, n := 8, cond := 1, c := 0, d := 5, take := false, polls := true, due := 0 }

theorem meets_issueEvents : FirstReady (placed plain) 0 0 0 ∧ plain.micro = none ∧
    NeedsLine withLine 0 fetching ∧
    (yields (fetchLine (lineVa fetching)) (Mach.start withLine 0 fetching) (fun img _ => decide (lineReason img (headIndex fetching) = 0)) = true ∧
    yields (fetchLine (lineVa fetching)) (Mach.start (placed fetching) 0 fetching) (fun img _ =>
      decide (lineReason img (headIndex fetching) ≠ 0)) = true ∧
    (fetching.current withLine).count = 0 ∧ fetching.older = [] ∧ (fetching.arch.det = false ∨ fetching.pending = some .turn) ∧
    (tlbLookup withLine 0 1 0).isSome = true) ∧
    NeedsLine (placed inBuffer) 0 inBuffer ∧ inBuffer.fetch = some (inBuffer.arch.pc.toNat / 64, 0) ∧
    (inBuffer.current (placed inBuffer)).count = 0 ∧ inBuffer.older = [] ∧ TakesNow inBuffer ∧
    (∀ f, fetching.fetch = some f → f.1 ≠ fetching.arch.pc.toNat / 64) ∧ (placed plain).savedInstance 0x1000 = none ∧
    (∀ f ∈ walking.fars, walking.farReady f = true) ∧ (walk walking 0 1 0).isSome = true ∧ walk walking 0 1 (2 ^ 48) = none ∧ ((walking.cluster 0).walks[1]?).isSome = true ∧
    (∀ r ∈ (placed plain).reductions, r.block ≠ 0x1000) ∧ isDet (placed plain) plain = false ∧ aWatch.polls = true ∧ aWatch.due ≤ (placed plain).time ∧ matrixOut (placed plain) 0 = 0 ∧
    engineOut (placed plain) 0 = 0 :=
  ⟨⟨0, by decide, by decide +kernel, by decide +kernel, fun i h => absurd h (Nat.not_lt_zero i)⟩, rfl, ⟨rfl, by decide +kernel, rfl, by decide +kernel, by decide +kernel⟩, by decide +kernel, ⟨rfl, by decide +kernel, rfl, by decide +kernel, by decide +kernel⟩, rfl, by decide +kernel, by decide +kernel, .inl rfl, fun f h => (nomatch h), by decide +kernel⟩

/-- TrapEvents. -/
theorem meets_trapEvents : (placed tired).ready 0 = true ∧ tired.micro = none ∧ tired.arch.wdlimit ≠ 0 ∧
    tired.arch.wdlimit.toNat ≤ tired.arch.wdcount ∧ (tired.current (placed tired)).count = 0 ∧
    (placed (behind tired)).ready 0 = true ∧ 0 < ((behind tired).current (placed (behind tired))).count ∧
    (0x1000 : Word).toNat / 64 ∉ plain.checked ∧ (placed plain).ready 0 = true ∧
    (waitingFirst.chunks.head?.map Chunk.count) = some 2 ∧ (waitingFirst.chunks.head?.any Chunk.ungranted) = true ∧
    (({ tables with issuing := none } : State).consumed 0 0x1000).isSome = true ∧ plain.chunks = [] ∧ (tired.arch.det = false ∨ tired.pending = some .turn) ∧
    plain.arch.det = false ∧ (turned (.trap 0x15 3)).arch.det = true ∧ (turned (.trap 0x15 3)).chunks = [] ∧
    (turned (.trap 0x15 3)).pending = some (.trap 0x15 3) ∧
    ({ waitingFirst with pending := some (.precise 1) } : Thread).pending = some (.precise 1) ∧
    (placed { plain with checked := [64] }).ready 0 = true ∧ (0x1000 : Word).toNat / 64 ∈ ({ plain with checked := [64] } : Thread).checked ∧
    ({ plain with pending := some (.page 5 0x1000) } : Thread).pending = some (.page 5 0x1000) := by decide +kernel

/-- A chunk of thread 0 that has written a byte at 0x1000, at a stage of its way. -/
def written (st : Stage) : Thread :=
  { plain with chunks := [{ Chunk.fresh (placed plain) plain with count := 2, buf := [(0x1000, 7)], stage := st }] }

/-- A granted chunk whose commit has been delivered. -/
def delivered : State :=
  { placed (written (.granted 1)) with commits := [{ part := 0, no := 1, tid := some 0, sig := 0, lines := [], cores := [], fars := 0, msgs := 0, acks := 0 }] }
/-- A message to a member whose inbox has no room. -/
def aSend : TaskMsg := .send 0 0 0 0 none
def crammed : Thread := { (written .ended) with inbox := List.replicate 32 ⟨0, 0, 0⟩ }
/-- A chunk that has stored to a byte which another crew guards. -/
def guardedWrite : Thread :=
  { plain with chunks := [{ Chunk.fresh (placed plain) plain with count := 2, stores := [(1, 0x1000, 0x1000)], stage := .requested }] }
def aFar : Far := { pa := 0x1000, n := 8, op := .add, v := 5, va := 0x1000 }
def withFar : State := { placed plain with fars := [⟨0, 1, 0, aFar⟩] }
def drainOut : State :=
  (placed plain).setCore 0 { mapped with drains :=
    [{ id := 0, tid := 0, crew := 0, guild := 1, dwords := [(0x1000, 0x1000, 9)], committed := true }] }

theorem meets_commitEvents :
    MayRequest (placed (written .ended)) 0 (written .ended) ((written .ended).chunks.headD (Chunk.fresh (placed plain) plain)) [] ∧
    (placed (written .ended)).refusedMsg [] ((written .ended).chunks.headD (Chunk.fresh (placed plain) plain)).messages = none ∧
    AtArbiter (placed (written .requested)) 0 (written .requested) ((written .requested).chunks.headD (Chunk.fresh (placed plain) plain)) ∧
    Unmet (placed (written .requested)) 0 (written .requested) ((written .requested).chunks.headD (Chunk.fresh (placed plain) plain)) ∧
    (placed (written .requested)).refusal 0 (written .requested) ((written .requested).chunks.headD (Chunk.fresh (placed plain) plain)) = none ∧
    PlainBytes (placed (written .requested)) 0 ((written .requested).chunks.headD (Chunk.fresh (placed plain) plain)) ∧
    MemCanonical (placed (written .requested)) ∧
    Delivered delivered 0 (written (.granted 1)) ((written (.granted 1)).chunks.headD (Chunk.fresh (placed plain) plain)) [] 1 ∧
    MemCanonical withFar ∧ (withFar.fars[0]?).isSome = true ∧
    ((drainOut.core 0).drains[0]?).isSome = true ∧
    drainOut.agedBlocks 0 (some 0) [64] = false ∧ drainOut.commitHeld 0 (some 0) (runCells 0x1000 (bytesOf 8 9)) = false ∧ drainOut.hostHolds [64] = false ∧ drainOut.guarded 0 (some 0) 0x1000 = false ∧
    (drainOut.crew 0).any (fun w => w.stopping.isNone) = true ∧
    (∀ f ∈ (placed plain).fars, f.on [0x200] = false) ∧ (placed plain).homeHeld 64 = false ∧ (placed plain).held 5 0 = false ∧ delivered.outwardBelow 0 1 = false ∧
    (placed crammed).refusedMsg [] [aSend] = some (0, aSend) ∧ crammed.arch.det = false ∧
    ((placed guardedWrite).setPart 0 { Part.reset with guards := [⟨1, 0x1000, 0, 64⟩] }).refusal 0 guardedWrite
      (guardedWrite.chunks.headD (Chunk.fresh (placed plain) plain)) = some (1, 0x09, 0x1000) := by
  refine ⟨?_, by decide +kernel, ?_, ?_, by decide +kernel, ?_, by unfold MemCanonical; decide +kernel, ?_, by unfold MemCanonical; decide +kernel,
    by decide +kernel⟩
  · unfold MayRequest; decide +kernel
  · unfold AtArbiter; decide +kernel
  · unfold Unmet; decide +kernel
  · unfold PlainBytes; decide +kernel
  · exact ⟨rfl, rfl, rfl, by decide +kernel, ⟨_, List.mem_singleton.2 rfl, by decide +kernel⟩, by decide +kernel,
      by decide +kernel, fun a h => (nomatch h), by decide +kernel⟩

/-- A packet at its destination, and one on its way there. -/
def aPacket (p : Payload) (r : Ride) : Packet := { cls := 0, src := 100, fret := 0, dest := 0, load := p, ride := r }
def packet (p : Payload) (r : Ride) : State := { placed plain with net := [(0, aPacket p r)] }
/-- The signature of the commit of another thread, which meets a chunk of thread 0. -/
def signed : State :=
  { packet (.sig 0 1) (.buffered 0 false) with
    commits := [{ part := 0, no := 1, tid := some 5, sig := sigOf 64, lines := [64], cores := [0], fars := 0, msgs := 0, acks := 0 }] }
def reader : Thread := { plain with chunks := [{ Chunk.fresh (placed plain) plain with count := 2, rsig := sigOf 64 }] }
def detPlaced (t : Thread) : State := (placed t).setCrew 0 { soleCrew with det := true }

/-- A prefix of a fault that asks for its grant, and a fault met off the turn behind two heads. -/
def prefixOf : Thread :=
  { plain with chunks := [{ Chunk.fresh (placed plain) plain with count := 2, limit := 2, prec := true, fin := .cut, stage := .requested }] }
def offTurn : Thread := behind (turned (.trap 0x15 3))

/-- A deterministic thread that waits on a word which no directory watches. -/
def polling : Thread := { plain with run := .watch aWatch false }

theorem turn_of (t : Thread) (h : (detPlaced t).noteArrivals 0 = detPlaced t) :
    TurnOf (detPlaced t) 0 { soleCrew with det := true } 0 t :=
  ⟨⟨_, rfl, rfl, rfl, rfl, fun m h => (nomatch h)⟩, by rw [h]; rfl, by rintro ⟨-, e, he, -⟩; exact (nomatch he), rfl, rfl, rfl⟩

theorem meets_orderEvents : ((signed.arrivedPacket 0).isSome = true ∧
    (signed.commits.find? fun m => decide (m.part = 0) && decide (m.no = 1) && m.cores.contains 0).isSome = true ∧
    reader.hit (sigOf 64) = some 0 ∧ plain.hit (sigOf 64) = none) ∧
    NoneToGrant { plain with run := .xend } ∧ TurnOf (detPlaced { plain with run := .xend }) 0 { soleCrew with det := true } 0 { plain with run := .xend } ∧
    TurnOf (detPlaced (written .requested)) 0 { soleCrew with det := true } 0 (written .requested) ∧
    AtTurn ((detPlaced (written .requested)).noteArrivals 0) 0 (written .requested) ((written .requested).chunks.headD (Chunk.fresh (placed plain) plain)) ∧
    ((((detPlaced (written .requested)).noteArrivals 0).grant 0 (written .requested)
      ((written .requested).chunks.headD (Chunk.fresh (placed plain) plain))).thread 0).bind (fun u => u.chunks.head?.map Chunk.stage) = some (.granted 1) ∧
    TurnOf (detPlaced prefixOf) 0 { soleCrew with det := true } 0 prefixOf ∧
    AtTurn ((detPlaced prefixOf).noteArrivals 0) 0 prefixOf (prefixOf.chunks.headD (Chunk.fresh (placed plain) plain)) ∧
    prefixOf.chunks.any Chunk.isPrefix = true ∧
    TurnOf (detPlaced (turned (.trap 0x15 3))) 0 { soleCrew with det := true } 0 (turned (.trap 0x15 3)) ∧
    TurnOf (detPlaced offTurn) 0 { soleCrew with det := true } 0 offTurn ∧ (offTurn.older = [] ∧ offTurn.executing.isSome = true ∧
    (offTurn.executing.any fun c => !(detPlaced offTurn).undelivered 0 0 c) = true ∧
    (turned (.trap 0x15 3)).run = .running ∧ (turned (.trap 0x15 3)).chunks = []) ∧ NoneToGrant polling ∧
    TurnOf (detPlaced polling) 0 { soleCrew with det := true } 0 polling := by
  refine ⟨by decide +kernel, fun c h => (nomatch h), turn_of _ (by decide +kernel), turn_of _ (by decide +kernel), ?_, by decide +kernel, turn_of _ (by decide +kernel), ?_, by decide +kernel, turn_of _ (by decide +kernel), turn_of _ (by decide +kernel), by decide +kernel, fun c h => (nomatch h), turn_of _ (by decide +kernel)⟩ <;>
  · unfold AtTurn Unmet; decide +kernel

/-- A queue of the thread's own crew at the end of a reservation: a core that waits for the fill of a line, the first of its series; and
one that holds a probe of it too. -/
def filling : State :=
  (packet (.fill 9 1) (.buffered 0 false)).setCore 0 { mapped with fills := [⟨9, 9, some 1⟩] }
def probing : State :=
  (packet (.probe 9 2) (.buffered 0 false)).setCore 0 { mapped with fills := [⟨9, 9, some 1⟩] }
/-- A fill that a probe of its series, sent before it, is still to overtake. -/
def overtaking : State :=
  { filling with net := filling.net ++ [(1, { cls := 3, src := 100, fret := 0, dest := 0, load := .probe 9 0, ride := .riding 8 0 })] }
/-- A core all of whose ways of set 9 hold uncommitted lines of the thread's chunk. -/
def allHeld : Thread :=
  { plain with chunks := [{ Chunk.fresh (placed plain) plain with held := (List.range 16).map fun w => (9, 100 + w, w) }] }
/-- A NACK for packet 0 at its source. -/
def nacked : State :=
  { packet (.fill 9 1) .nacked with net := (packet (.fill 9 1) .nacked).net ++
      [(1, { cls := 1, src := 0, fret := 100, dest := 0, load := .nack 0, ride := .buffered 5 false })] }

/-- Thirty-two packets that their cluster holds. -/
def crowded (c : Nat) : State :=
  { placed plain with net := (0, { cls := 0, src := 100, fret := 0, dest := 0, load := .fill 9 1, ride := .riding 8 0 }) ::
    (List.range 32).map fun i => (i + 1, { cls := c, src := 100, fret := 0, dest := 0, load := .fill 9 1, ride := .buffered i false }) }
/-- An event for a ring of sixteen records at 0x8000, its index words read from 0x9000 and 0x9040. -/
def ringed : State :=
  (placed plain).setPart 0 { Part.reset with evRing := [0x8000, 4, 0x9000, 0x9040], events := [{ ring := none, words := [1, 2, 3, 4] }] }

theorem meets_networkEvents : (assocGet? 64 [(64, (⟨[0], 0, [5]⟩ : Dir))]).isSome = true ∧ (5 : Nat) ∈ (⟨[0], 0, [5]⟩ : Dir).asking ∧
    (5 : Nat) ∉ (⟨[0], 0, [5]⟩ : Dir).holders ∧ (6 : Nat) ∉ (⟨[0], 0, [5]⟩ : Dir).asking ∧
    (filling.arrivedPacket 0).isSome = true ∧ filling.probeBefore 0 9 1 = false ∧ overtaking.probeBefore 0 9 1 = true ∧
    (filling.core 0).probes = [] ∧
    ((filling.core 0).fills.find? fun f => decide (f.line = 9) && decide (f.seq = some 1)) = some ⟨9, 9, some 1⟩ ∧
    (fillWay filling 0 9).isSome = true ∧ fillWay (filling.setThread 0 allHeld) 0 9 = none ∧
    ((packet (.probe 9 1) (.buffered 0 false)).arrivedPacket 0).isSome = true ∧
    ((packet (.probe 9 1) (.buffered 0 false)).core 0).fills = [] ∧ (probing.arrivedPacket 0).isSome = true ∧ seqBefore 1 2 = true ∧
    (assocGet? 0 (packet (.fill 9 1) (.riding 8 0)).net).isSome = true ∧ ((placed plain).ejected 0).length = 0 ∧
    (packet (.fill 9 1) (.riding 8 0)).pressing 0 0 = 0 ∧ (crowded 1).pressing 0 0 = 0 ∧
    32 ≤ ((crowded 1).ejected 0).length ∧ evicted ((crowded 1).ejected 0) 0 = some 32 ∧ evicted ((crowded 0).ejected 0) 0 = none ∧
    nacked.nackArrived 0 = some 1 ∧ (assocGet? 0 nacked.net).isSome = true ∧ 1 ∈ ({ Part.reset with freezes := [1] } : Part).freezes ∧
    ringUsable (ringed.ring 0 0) = true ∧ ringed.indexWord 0x9000 0 < ringed.indexWord 0x9040 0 + 2 ^ 4 ∧
    (ringed.part 0).fwrites = [] ∧ (ringed.part 0).events.findIdx? (fun e => decide (e.ring = none)) = some 0 := by decide +kernel

/-! ### Events of units, tasks and exchanges -/

def zeroCmd : LoomCmd := { id := 0, tid := 0, op := .zero 2 false, fps := 0, srkey := 0, srctr := 0 }
/-- A panel command that has been claimed. -/
def panelCmd (op : PanelOp) (done : Bool) : PanelCmd :=
  { tid := 0, crew := 0, guild := 1, panel := 4, op := op, before := [], claimed := true, performed := done }
def panelState (op : PanelOp) (done : Bool) : State := (placed vectors).setCore 0 { mapped with panelQ := [panelCmd op done] }
/-- A copy of 64 bytes in the engine of core 0; its last step; a contribution to the block at 0x1020. -/
def copyEntry : EngEntry := { id := 0, cmd := someCopy, done := [], asked := [], reads := [], unacked := 0, status := .done, value := 0, sent := false }
def contribEntry : EngEntry := { copyEntry with cmd := { someCopy with kind := .contrib 0x1020 0 9 (some [1, 2]) } }
def engineState (e : EngEntry) : State :=
  ((placed vectors).setCore 0 { mapped with engine := [e] }).setCluster 0 { Cluster.reset with tlb := mapped.tlb }
/-- An open reduction of two elements and two contributors, with a timeout of one microsecond, and a contribution to it. -/
def aReduction : Reduction :=
  { block := 0x1020, crew := 0, tid := 0, words := [0x0009000100020002, 0x2000, 0, 0], target := [0x2000, 0x2004], record := none, opened := 0, arrived := [], nodes := [],
    guild := 1, waits := false }
def aContribution : Contribution := ⟨0x1020, 0, 1, [1, 2], none⟩
def reducing : State := { placed vectors with reductions := [aReduction], contributions := [aContribution], time := 5000 }
def early : State := { reducing with time := 1000 }
/-- The same with three contributors, the first of whose values has arrived. -/
def threefold : Reduction := { aReduction with words := [0x0009000100030002, 0x2000, 0, 0], arrived := [(0, [3, 4])] }
/-- A copy to an address that nothing maps, and a write of its payload to the host. -/
def badCopy : EngEntry := { copyEntry with cmd := { someCopy with dst := 2 ^ 40 } }
def payloadOut : State :=
  { engineState copyEntry with links := [(5, { kind := .payload 0 0 0 [(2 ^ 52, 7)], crew := some 0, part := 0, no := 0, sent := 0, guild := 1 })] }

theorem meets_unitEvents : (((((placed vectors).setCore 0 { mapped with loom := [zeroCmd] }).core 0).loom = [zeroCmd]) ∧
    ((panelState (.seed 5 16) false).core 0).panelQ = [panelCmd (.seed 5 16) false] ∧
    4 ∈ (panelCmd (.load 11 false 0 []) true).writes) ∧
    EngineAt (engineState copyEntry) 0 0 copyEntry ∧ (copyEntry.cmd.hasChunk 0 = true ∧ copyEntry.done.length < copyEntry.cmd.chunks ∧
    (engCells (engineState copyEntry) 0 copyEntry 0).isOk = true ∧ copyEntry.cmd.chunks ≤ ({ copyEntry with done := [0] } : EngEntry).done.length) ∧
    EngineAt (engineState contribEntry) 0 0 contribEntry ∧ (regionOf 0x1020 ≠ 2 ∧
    (reducing.reductions.find? fun x => decide (x.block = 0x1020)) = some aReduction ∧ 1 < declNcon (aReduction.words.headD 0) ∧
    aReduction.arrived.length + 1 < declNcon (aReduction.words.headD 0) ∧ declTimeout (aReduction.words.headD 0) ≠ 0 ∧
    aReduction.opened + 1000 * declTimeout (aReduction.words.headD 0) ≤ reducing.time ∧ reducing.rootHeld aReduction (some aReduction.tid) = false ∧ aReduction.waits = false ∧
    (reducing.crew aReduction.crew).all (fun w => w.stopping.isNone) = true ∧ (placed vectors).postHeld none (panelCmd (.seed 5 16) false).op.dwords = false ∧
    (∀ q ∈ zeroCmd.op.panels, (((placed vectors).core 0).panel q).state ≠ 1) ∧ (panelCmd (.seed 5 16) false).op.dwords = []) ∧
    TakesValues early aReduction aContribution ∧ early.contributions[0]? = some aContribution ∧
    aContribution.index < declNcon (aReduction.words.headD 0) ∧ (∀ e ∈ aReduction.arrived, e.1 ≠ aContribution.index) ∧
    early.time ≤ aReduction.opened + 1000 * declTimeout (aReduction.words.headD 0) ∧
    ({ aReduction with arrived := assocSet 1 [1, 2] aReduction.arrived } : Reduction).nodeValue 0 0 = none ∧
    (({ threefold with arrived := assocSet 1 [1, 2] threefold.arrived } : Reduction).nodeValue 0 0).isSome = true ∧
    levelCount (declFan (threefold.words.headD 0)) (declNcon (threefold.words.headD 0)) 1 ≠ 1 ∧
    (engCells (engineState badCopy).settleAll 0 badCopy 0).isOk = false ∧ badCopy.status = .done ∧
    (payloadOut.links.head?.map fun l => l.2.kind) = some (.payload 0 0 0 [(2 ^ 52, 7)]) ∧ (engineState copyEntry).links = [] ∧
    ({ placed vectors with contributions := [aContribution] } : State).savedInstance 0x1020 = none := by
  refine ⟨by decide +kernel, ⟨by decide, by decide +kernel, rfl, ?_, by decide +kernel⟩, by decide +kernel, ⟨by decide, by decide +kernel, rfl, ?_, by decide +kernel⟩, by decide +kernel, ⟨?_, by decide +kernel⟩, by decide +kernel⟩ <;>
  · intro w h
    have : some w = some soleCrew := h.symm
    rw [Option.some.inj this]; rfl

/-- A thread without a task; a deque with an entry for it; a crew of two cores, the other one with an entry to steal. -/
def seeker : Thread := { plain with run := .none }
def anEntry : DequeEntry := { record := ⟨0x40, 1, 2, 3⟩, crew := 0, bound := none, stamp := 3 }
def hunting : State := (placed seeker).setCore 0 { mapped with deque := [anEntry] }
def pairCrew : Crew := { soleCrew with members := [(0, 0), (1, 16)], k := 2 }
def preying (l : List DequeEntry) : State :=
  (((placed { seeker with sweep := 1 }).setThread 16 { seeker with l := 1 }).setCrew 0 pairCrew).setCore 1 { mapped with deque := l }
/-- A steal request that has reached core 1, and an answer that has reached the thief. -/
def steals (l : List DequeEntry) : State :=
  { preying l with net := [(0, { aPacket (.steal 0 0) (.buffered 0 false) with dest := 1 })] }
def answered' (e : Option DequeEntry) : State := { preying [] with net := [(0, aPacket (.stolen 0 0 e) (.buffered 0 false))] }
/-- The first message of commit 1. -/
def dueMsg (m : TaskMsg) : State :=
  { packet (.task 0 1 0 m) (.buffered 0 false) with
    commits := [{ part := 0, no := 1, tid := some 0, sig := 0, lines := [], cores := [], fars := 0, msgs := 1, acks := 0 }] }
def decMsg (n : Nat) : State :=
  { packet (.dec 0 0 2 1 0 1) (.buffered 0 false) with
    commits := [{ part := 0, no := 1, tid := some 0, sig := 0, lines := [], cores := [], fars := 0, msgs := 1, acks := 0 }],
    cores := [(0, { mapped with counters := [⟨0, 2, n, ⟨0x40, 1, 2, 3⟩⟩] })] }

theorem seeks_of (s : State) (t : Thread) (w : Crew) (h : s.thread 0 = some t) (hc : s.crew t.crew = some w)
    (hr : t.run = .none ∧ t.chunks = [] ∧ isDet s t = false) (hw : w.stopping = none ∧ w.stopped = none) : Seeks s 0 t :=
  ⟨h, hr.1, hr.2.1, hr.2.2, w, hc, hw.1, hw.2⟩

theorem meets_taskEvents : Seeks hunting 0 seeker ∧ seeker.sweep = 0 ∧ ((hunting.core 0).popFor 0 0).isSome = true ∧
    Seeks (placed seeker) 0 seeker ∧ (((placed seeker).dequeCore 0).popFor 0 0 = none ∧
    ((hunting.dequeCore 0).popFor 0 0).isSome = true ∧ ((preying [anEntry]).victims 0 0)[0]? = some 1 ∧
    (steals [anEntry]).stealArrived 0 1 = some (0, 0) ∧ (steals []).stealArrived 0 1 = some (0, 0) ∧ (preying []).stealArrived 0 1 = none ∧
    (((steals [anEntry]).dequeCore 1).stealFor 0).isSome = true ∧ ((steals []).dequeCore 1).stealFor 0 = none ∧
    ((answered' (some anEntry)).arrivedPacket 0).isSome = true ∧ ((answered' none).arrivedPacket 0).isSome = true ∧
    ({ seeker with run := .idle 0 } : Thread).run = .idle 0) ∧
    MessageDue (dueMsg (.push 0 ⟨1, 2, 3, 4⟩)) 0 (aPacket (.task 0 1 0 (.push 0 ⟨1, 2, 3, 4⟩)) (.buffered 0 false)) 0 1 0 (.push 0 ⟨1, 2, 3, 4⟩) ∧
    MessageDue (dueMsg (.send 0 5 6 7 none)) 0 (aPacket (.task 0 1 0 (.send 0 5 6 7 none)) (.buffered 0 false)) 0 1 0 (.send 0 5 6 7 none) ∧
    MessageDue (dueMsg (.post true 9)) 0 (aPacket (.task 0 1 0 (.post true 9)) (.buffered 0 false)) 0 1 0 (.post true 9) ∧
    ((decMsg 2).arrivedPacket 0).isSome = true ∧ (decMsg 2).msgTurn 0 0 1 0 0 (.dec 0 2 1) = true ∧
    (((decMsg 2).core 0).counters.find? fun e => decide (e.crew = 0) && decide (e.idx = 2)).isSome = true :=
  ⟨seeks_of _ _ soleCrew (by decide +kernel) (by decide +kernel) (by decide +kernel) (by decide +kernel), rfl, by decide +kernel, seeks_of _ _ soleCrew (by decide +kernel) (by decide +kernel) (by decide +kernel) (by decide +kernel), by decide +kernel, ⟨rfl, rfl, by decide +kernel⟩, ⟨rfl, rfl, by decide +kernel⟩, ⟨rfl, rfl, by decide +kernel⟩, by decide +kernel⟩

/-- Thread 0 at the barrier of domain 0, in XEND after an arming, and with exchange chunks to commit. -/
def arrived : State := placed { engines with run := .bar 0 none }
def sender : Thread := { armingThread with run := .xend, arch := { armingThread.arch with arming := some { arming with ended := true } } }
def joining : State := placed sender
/-- Two members whose armings name different tablatures. -/
def mixed : State :=
  ((placed sender).setThread 16 { sender with l := 1, arch := { sender.arch with arming := some { arming with ended := true, va := 0x2000 } } }).setCrew 0 pairCrew
def phased (st : Bool) : State := (placed sender).setCrew 0 { soleCrew with phases := [⟨0, [tablature], 0, st⟩] }
def later (st : Bool) : State := { phased st with time := 1000000 }

theorem meets_exchangeEvents : arrived.allArrived soleCrew 0 = true ∧ ReleaseDue soleCrew 0 ∧
    ((joining.joined soleCrew 0).isSome = true) ∧ ReleaseDue soleCrew 16 ∧ (∀ p ∈ soleCrew.phases, p.dom ≠ 0) ∧
    (mixed.joined pairCrew 0).map (fun l => l.map fun e => e.2.2.va) = some [0x1000, 0x2000] ∧
    ((phased false).crew 0).isSome = true ∧ (phased false).stringsFree 0 { soleCrew with phases := [⟨0, [tablature], 0, false⟩] } [tablature] 0 = true ∧
    0 + phaseLen [tablature] ≤ (later true).time ∧ (soleCrew.members.map Prod.snd).Nodup ∧ (sender.armed 0).isSome = true ∧
    isDet (placed sender) sender = false ∧ (placed sender).exchangeFree 0 0 [(0x1000, 1)] = true ∧
    (placed sender).guarded 0 (some 0) 0x1000 = false ∧ (placed sender).hostHolds [64] = false :=
  ⟨by decide +kernel, ⟨rfl, .inl rfl⟩, by decide +kernel, ⟨rfl, .inl rfl⟩, by decide +kernel⟩

/-! ### Events of the foreman, of stops, episodes, links and the module -/

/-- Queue 7: a ring of sixteen records at 0x10000, its write index at 0x20000, enabled for guild 1, with a slot. The launch has one
member, no completion word and no handle. -/
def aRecord : LaunchRec := List.replicate 16 0
def aQueue : Queue :=
  { Queue.none with base := 0x10000, ctl := 0x10804, waddr := 0x20000, windex := 1, slot := some 0, head := some aRecord, waiting := some 0 }
def queued7 (d : Queue) : State :=
  { State.reset.setPart 0 { Part.reset with
      queues := [(7, d)], spillBase := 0x100000, guildCache := [(1, [0x8000000000010000, 0, 0, 0, 0, 0, 0, 0])] } with time := 5000000 }

theorem meets_queueEvents : queueEn ((queued7 aQueue).queue 0 7).ctl = true ∧
    (queued7 aQueue).queueOk 0 ((queued7 aQueue).queue 0 7) = true ∧ (queued7 aQueue).indexWord 0x20000 0 = 0 ∧
    ((queued7 aQueue).part 0).lastQuantum + ((queued7 aQueue).part 0).quantum * 1000 ≤ (queued7 aQueue).time ∧
    State.reset.time < (State.reset.part 0).lastQuantum + (State.reset.part 0).quantum * 1000 ∧
    ((queued7 aQueue).queue 0 7).resident = true ∧ (queued7 aQueue).isTurn 0 7 = true ∧ PlacementDue (queued7 aQueue) 0 7 ∧
    HeadFree (queued7 aQueue) 0 7 aRecord ∧ ((queued7 aQueue).placeLaunch 0 7 aRecord).isSome = true ∧
    ((queued7 { aQueue with skip := 2 }).queue 0 7).skip = 1 + 1 ∧ (queued7 aQueue).formatFault 0 (aRecord.set 5 5) = some 0x28 ∧
    (queued7 aQueue).shapeFault 0 (launchShape (aRecord.set 4 0x5000000)) = true ∧ condHolds (aRecord.set 5 2) 0 = false ∧
    ((queued7 { aQueue with held := true }).queue 0 7).held = true := by
  unfold PlacementDue HeadFree HeadSound
  decide +kernel

/-- A crew whose only member has no task; one that is to stop; one stopped whose record has no room. -/
def idleCrew : State := placed seeker
def toStop : Crew := { soleCrew with stopping := some (7, some 0) }
def halting : State := (placed plain).setCrew 0 toStop
def aStop : Stopped :=
  { cause := 7, raiser := some 0, cut := 0, recordAt := none, halts := [], members := [], deques := [], counters := [], stray := [],
    panels := [], engine := [], drains := [], reductions := [], contributions := [] }
def halted : State := (placed { plain with run := .stopped }).setCrew 0 { toStop with stopped := some aStop }
/-- One whose stop has a cause, with a stop area at 0x40000. -/
def roomy : State := halting.setPart 0 { Part.reset with stopBase := 0x40000, stopSize := BitVec.ofNat 64 (2 ^ 50) }
/-- One whose record lies at 0x40000, its member's status as it was, and which is to resume; or in the host's memory. -/
def savedAt (pa : Nat) : Crew :=
  { toStop with stopped := some { aStop with recordAt := some pa, members := [(0, { plain with run := .stopped })] }, resume := true }
def resuming (v : Nat) : State :=
  { State.reset.setCrew 0 (savedAt 0x40000) with mem := Memory.writeRun [] (imageAt (savedAt 0x40000) 0x40000 0 + 8 * 65) (bytesOf 8 v) }

theorem meets_foremanEvents : idleCrew.crew 0 = some soleCrew ∧ soleCrew.stopped = none ∧ idleCrew.crewOver 0 soleCrew = true ∧
    (idleCrew.wroteHost 0 soleCrew.record && idleCrew.writesOut 0) = false ∧
    (100 : Word).toNat ≤ 100000 ∧ halting.crew (0 * 2 ^ 32 + 0) = some toStop ∧ toStop.stopping.isSome = true ∧
    (placed { plain with run := .parked 5 0 }).threadOfVcn 0 = some 0 ∧ (0 : Nat) / 2 ^ 19 = 0 ∧
    ((State.reset.setPart 0 { Part.reset with invals := [⟨0, 0, 1, none, 0⟩] }).part 0).invals[0]?.isSome = true ∧
    (placed plain).quietFor 0 ⟨0, 0, 1, none, 0⟩ = true ∧ rangesAligned ((0x11 : BitVec 8) ||| 1) = true ∧ rangesAligned ((0x80 : BitVec 8) ||| 1) = false ∧
    rangesPure 0x11 State.reset.present = true ∧ rangesPure 0x01 0x0F = false ∧ NoCrewMoves State.reset 0x11 ∧ ¬ NoCrewMoves (placed plain) 0x11 := by
  unfold NoCrewMoves
  decide +kernel

/-- No home is held where no block is. -/
theorem free_homes (s : State) (h : ∀ c b, s.held c b = false) (line : Nat) : s.homeHeld line = false := by
  unfold State.homeHeld
  split <;> simp [h]

theorem members_of (s : State) (h : (s.thread 0).map Thread.l = some 0) : Members s toStop := by
  intro m hm
  obtain ⟨t, ht, hl⟩ := Option.map_eq_some_iff.1 h
  have : m = (0, 0) := List.mem_singleton.1 hm
  exact ⟨t, by rw [this]; exact ht, by rw [this]; exact hl⟩

/-- A record fits whatever length its remainder has. -/
theorem record_fits (n : Nat) : (roomy.part 0).recordPlace (64 + (32 + (0x400 + 64 * toStop.vregs + 1024 * toStop.tiles)) *
    toStop.members.length + n % 2 ^ 48) = some 0x40000 := by
  have hb : (roomy.part 0).stopBase = 0x40000 := by decide +kernel
  have hs : (roomy.part 0).stopSize = BitVec.ofNat 64 (2 ^ 50) := by decide +kernel
  have hn : (roomy.part 0).stopNext = 0 := by decide +kernel
  have hv : toStop.vregs ≤ 32 ∧ toStop.tiles ≤ 16 ∧ toStop.members.length = 1 := by decide +kernel
  have := Nat.mod_lt n (by decide : 0 < 2 ^ 48)
  simp only [Part.recordPlace, hb, hs, hn, hv.2.2]
  rw [if_pos ⟨by decide, by decide, by
    have h1 : (0x40000 : Word).toNat = 0x40000 := by decide
    have h2 : (BitVec.ofNat 64 (2 ^ 50)).toNat = 2 ^ 50 := by decide
    rw [h1, h2]; omega⟩]
  decide

theorem fits_of (s : State) (pa : Nat) (h : statusOk (savedAt pa) ({ plain with run := .stopped } : Thread).arch
    (dwordOf (recordImage s (savedAt pa) pa [] 0) 65) = true) (n : Nat) (m : Nat × Thread)
    (hm : [(0, ({ plain with run := .stopped } : Thread))][n]? = some m) :
    statusOk (savedAt pa) m.2.arch (dwordOf (recordImage s (savedAt pa) pa [] n) 65) = true := by
  match n, hm with
  | 0, hm => rw [← Option.some.inj hm]; exact h

theorem meets_stopEvents : halting.mayHalt 0 toStop = true ∧ Members halting toStop ∧ (toStop.members.map Prod.snd).Nodup ∧
    (∀ n, (halting.part (crewPart 0)).recordPlace n = none) ∧
    ((halted.crew 0).bind Crew.stopped) = some aStop ∧ (∀ e ∈ halted.crews, e.1 ≠ 0 → e.2.stopped = none) ∧
    (∀ e ∈ halted.crews, e.1 = 0 → e.2 = { toStop with stopped := some aStop }) ∧
    halted.writeRecord 0 { toStop with stopped := some aStop } aStop = none ∧
    State.snapSettled { placed plain with snapping := some (0, ⟨0, 0, []⟩) } ⟨0, 0, []⟩ = true := by
  have hp : ∀ n, (halting.part (crewPart 0)).recordPlace n = none := fun n => by
    have h : (halting.part (crewPart 0)).stopBase = 0 := by decide +kernel
    simp [Part.recordPlace, h]
  refine ⟨by decide +kernel, members_of _ (by decide +kernel), by decide +kernel, hp, by decide +kernel, by decide +kernel, by decide +kernel, ?_,
    by decide +kernel⟩
  have h : (halted.part (crewPart 0)).stopBase = 0 := by decide +kernel
  simp only [State.writeRecord, Part.recordPlace, h]
  rfl

/-- StopEvents: a stop whose record is written, freely; two resumptions, of an image that fits and of one that does not. -/
theorem meets_stopsAndResumptions : (roomy.crew 0 = some toStop ∧ roomy.mayHalt 0 toStop = true ∧ toStop.stopping = some (7, some 0)) ∧
    Members roomy toStop ∧ (roomy.part 0).recordPlace (64 + (32 + (0x400 + 64 * toStop.vregs + 1024 * toStop.tiles)) *
      toStop.members.length + (Config.freeWord roomy.free).toNat % 2 ^ 48) = some 0x40000 ∧
    WritesFreely roomy 0 ∧ MemCanonical roomy ∧
    (resuming 0x10000).crew 0 = some (savedAt 0x40000) ∧
    (∀ n m, [(0, ({ plain with run := .stopped } : Thread))][n]? = some m →
      statusOk (savedAt 0x40000) m.2.arch (dwordOf (recordImage (resuming 0x10000) (savedAt 0x40000) 0x40000 [] n) 65) = true) ∧
    statusOk (savedAt 0x40000) ({ plain with run := .stopped } : Thread).arch
      (dwordOf (recordImage (resuming 0x20000000) (savedAt 0x40000) 0x40000 [] 0) 65) = false ∧
    (∀ k, (savedAt 0x40000).stopped = some k → (resuming 0x10000).roomAgain (savedAt 0x40000) k = true ∧
      (k.members.map fun m => seatOf ((resuming 0x10000).seats (savedAt 0x40000)) m.1).Nodup ∧ k.deques = []) := by
  refine ⟨by decide +kernel, members_of _ (by decide +kernel), record_fits _, ?_, by unfold MemCanonical; decide +kernel, by decide +kernel, fits_of _ _ (by decide +kernel), by decide +kernel, ?_⟩
  · exact ⟨by decide +kernel, by decide +kernel, by decide +kernel, free_homes roomy fun _ _ => rfl⟩
  · intro k h
    rw [← Option.some.inj h]; decide +kernel

/-- An episode that runs in slot 0, its descriptor in memory as in the bench; an answer for its EP.WAITACT; one that supersedes. -/
def waitingBench (sup : Bool) : State :=
  let a : Action := { aseq := 1, aver := 0, payload := [1, 2], no := 1, vsw := false, superseded := sup }
  State.reset.setBench 0 { answered with running := true, waiting := some (12, 0x100, 2), action := some a }
/-- One over its budgets of one instruction and one nanosecond. -/
def spent : State :=
  { State.reset.setBench 0 { episode with running := true, steps := 5, desc := [0, 0, 0, 1, 1] } with time := 100 }

theorem meets_episodeEvents : State.reset.phase 0 ≠ 1 ∧
    ({ waitingBench false with mem := Memory.writeRun [] (descPa 0 0xC0) [1] } : State).phase 0 = 1 ∧
    MayEnd ((waitingBench false).setBench 0 (((waitingBench false).bench 0).tick 0)) 0 5 [] ∧
    ((waitingBench false).bench 0).waiting = some (12, 0x100, 2) ∧ ((waitingBench false).bench 0).suspended = false ∧
    ((waitingBench false).bench 0).ending = none ∧
    (waitingBench false).benchBlocked 0 ((waitingBench false).pendCells 0) = false ∧
    MayEnd ((waitingBench true).setBench 0 (((waitingBench true).bench 0).tick 0)) 0 3 [] ∧
    (spent.bench 0).executes = true ∧ ((spent.bench 0).dword 0x18).toNat % 2 ^ 40 = 1 ∧
    ((spent.bench 0).dword 0x20).toNat % 2 ^ 40 = 1 ∧ (1 : Nat) ≤ (spent.bench 0).stepNs + (spent.time - (spent.bench 0).seen) ∧
    MayEnd (spent.setBench 0 ((spent.bench 0).tick spent.time)) 0 2 [] := by
  unfold MayEnd
  decide +kernel

/-- A thread that sleeps on link request 3, to the host or to a peer; a write of it. -/
def asking (pa : Nat) : State :=
  { placed { plain with run := .link 3 } with
    links := [(3, { kind := .read 0 pa 8 0x1000 none, crew := some 0, part := 0, no := 0, sent := 0, guild := 1 })], time := 60000000 }
def writing : State :=
  { placed plain with links := [(3, { kind := .write (some 0) (2 ^ 52) [(2 ^ 52, 1)], crew := some 0, part := 0, no := 0, sent := 0, guild := 1 }),
      (4, { kind := .write (some 0) (2 ^ 52) [(2 ^ 52, 1)], crew := some 0, part := 0, no := 0, sent := 0, guild := 1 })] }

/-- A peer's write of eight bytes at 0x1000, held for one lower-numbered request to come. -/
def peerWrite : PeerReq := ⟨1, 3, 9, 1, 0x1000, runCells 0x1000 [1], 0, 0⟩

theorem meets_hostAndLinks : MemCanonical State.reset ∧ InHbm State.reset 0x1000 0 ∧ lineOf (0x1000 + (8 - 1)) = lineOf 0x1000 ∧
    State.reset.homePart (2 ^ 36 - 64) = none ∧ State.reset.agedBlocks 0 none [lineOf 0x1000] = false ∧
    LinkFree State.reset 0x1000 [1, 2] ∧ LinkFree State.reset (2 ^ 36 - 64) [1] ∧ State.reset.held 6 0 = false ∧
    State.reset.postHeld none (runDwords 0x1000 8) = false ∧ TakesNow { plain with run := .link 3 } ∧
    State.reset.homesHeld 0x1000 8 = false ∧ 0x1000 + 8 ≤ State.reset.bar2 ∧ 2 ^ 36 - 64 < State.reset.bar2 ∧ State.reset.homeHeld (lineOf 0x1000) = false ∧
    State.reset.peerHeld = [] ∧ State.reset.hostHolds (cellLines (runCells 0x1000 [1, 2])) = false ∧
    ({ State.reset with peerHeld := [peerWrite] } : State).peerHeldUp { peerWrite with coming := 0 } = false ∧
    ({ State.reset with peerHeld := [peerWrite] } : State).hostHolds (cellLines peerWrite.cells) = false ∧ State.reset.modnum = none ∧
    (assocGet? 3 (asking (2 ^ 52)).links).isSome = true ∧ regionOf (2 ^ 52) = 1 ∧ regionOf (2 ^ 53) = 2 ∧ (plain.current (asking (2 ^ 52))).count = 0 ∧
    ((asking (2 ^ 52)).links.all fun e => decide (e.2.sent + 50000000 ≤ (asking (2 ^ 52)).time)) = true ∧
    (writing.links.all fun e => writing.linkFirst e.1 e.2 == decide (e.1 = 3)) = true := by
  unfold MemCanonical InHbm LinkFree TakesNow
  decide +kernel

/-- Block 3 of code 2 held from cycle 1,700 on, at cycle 2,100. -/
def heldBlock : State := { State.reset with upkeep := { Upkeep.reset with holds := [(2, 3, 1700)] }, time := 2100 }

theorem meets_upkeepEvents : State.reset.energyLimit 2 = 3900 ∧ (∀ h ∈ heldBlock.upkeep.holds, h.1 = 2 → h.2.1 = 3 → h.2.2 / 1000 ≠ heldBlock.time / 1000) ∧
    heldBlock.upkeep.holds = [(2, 3, 1700)] ∧ 1700 ≤ heldBlock.time ∧ heldBlock.upkeep.heat = [] ∧ 1000 ≤ heldBlock.time ∧
    (2, 3, heldBlock.time / 1000 - 1) ∉ heldBlock.upkeep.sampled ∧ heldBlock.heldCycles 2 3 1 = 300 ∧ heldBlock.heldCycles 2 4 1 = 0 ∧
    3600000 < 3700000 ∧ State.reset.upkeep.drawHigh + 1000000 ≤ ({ State.reset with time := 2000000 } : State).time ∧
    ((placed plain).crews.map Prod.fst).Nodup ∧ ((State.reset.cluster 0).supply < 10) ∧ (State.reset.cluster 0).harvest = false ∧
    (10 ≤ ((State.reset.setCluster 0 { Cluster.reset with supply := 10 }).cluster 0).supply) ∧ State.reset.upkeep.fwStat ≠ 1 ∧
    State.reset.anyPlaced = false ∧ (placed plain).anyPlaced = true ∧ 4096 ≤ State.reset.bar2 ∧
    ({ Upkeep.reset with fwStat := 1 } : Upkeep).fwStat = 1 := by decide +kernel

/-- R440: with die 3 left out MODCFG reads with bits 0, 2, 3 and 4 set. -/
theorem test_moduleReset : (match exec (.moduleReset [diePassed, diePassed, diePassed, { diePassed with benchGood := 63 }]) State.reset with
    | .next s => decide (s.modcfg = 0x1D)
    | _ => false) = true := by decide +kernel

/-- R438: the published check value of CRC-16 with polynomial 0x1021 and initial value 0xFFFF over the characters 1 to 9. -/
theorem test_crc : ([0x31, 0x32, 0x33, 0x34, 0x35, 0x36, 0x37, 0x38, 0x39] : List Byte).foldl crcByte 0xFFFF = 0x29B1 := by decide +kernel

end Sys2Proof.Tests
end

section

namespace Sys2Proof.Machine

/-! ### Tables -/

/-- A table whose values are changed one by one. -/
theorem assocGet?_map {β γ : Type} (g : Nat × β → Nat × γ) (hg : ∀ e, (g e).1 = e.1) (k : Nat) (l : List (Nat × β)) :
    assocGet? k (l.map g) = (assocGet? k l).map fun v => (g (k, v)).2 := by
  induction l with
  | nil => rfl
  | cons e l ih =>
    obtain ⟨j, v⟩ := e
    have hj : g (j, v) = (j, (g (j, v)).2) := Prod.ext (hg _) rfl
    rw [List.map_cons, hj, assocGet?, assocGet?]
    split
    next h => subst h; rfl
    next => exact ih

/-- A listed value stands in the table with its key. -/
theorem mem_of_assocGet? {β : Type} {k : Nat} {v : β} {l : List (Nat × β)} (h : assocGet? k l = some v) : (k, v) ∈ l := by
  induction l with
  | nil => cases h
  | cons e l ih =>
    rw [assocGet?] at h
    split at h
    next hk => subst hk; cases h; exact List.mem_cons_self
    next => exact List.mem_cons_of_mem _ (ih h)

/-- A value that a filter keeps is still found. -/
theorem assocGet?_filter {β : Type} {k : Nat} {v : β} {l : List (Nat × β)} (q : Nat × β → Bool) (h : assocGet? k l = some v)
    (hq : q (k, v) = true) : assocGet? k (l.filter q) = some v := by
  induction l with
  | nil => cases h
  | cons e l ih =>
    rw [assocGet?] at h
    split at h
    next hk =>
      subst hk; cases h
      simp [hq, assocGet?]
    next hk =>
      rw [List.filter_cons]
      split
      · rw [assocGet?, if_neg hk]; exact ih h
      · exact ih h

/-! ### What leaves the threads as they are -/

namespace State

@[simp] theorem noteDirty_threads (s : State) (line : Nat) : (s.noteDirty line).threads = s.threads := by
  unfold noteDirty
  split <;> rfl

@[simp] theorem writeByte_threads (s : State) (pa : Nat) (b : Byte) : (s.writeByte pa b).threads = s.threads := by
  unfold writeByte
  split
  · rfl
  · split
    · dsimp only
      split <;> rfl
    · rfl

@[simp] theorem putControl_threads (s : State) (cells : List Host.Cell) (pa : Nat) : (s.putControl cells pa).threads = s.threads := by
  unfold putControl
  split <;> rfl

@[simp] theorem putCell_threads (s : State) (cells : List Host.Cell) (c : Host.Cell) : (s.putCell cells c).threads = s.threads := by
  unfold putCell
  split <;> simp

/-- A state built step by step has the threads it began with where no step changes them. -/
theorem foldl_threads {α : Type} {f : State → α → State} (hf : ∀ s a, (f s a).threads = s.threads) (l : List α) (s : State) :
    (l.foldl f s).threads = s.threads := by
  induction l generalizing s with
  | nil => rfl
  | cons a l ih => rw [List.foldl_cons, ih, hf]

@[simp] theorem putCells_threads (s : State) (cells : List Host.Cell) : (s.putCells cells).threads = s.threads :=
  foldl_threads (fun s c => putCell_threads s cells c) cells s

@[simp] theorem setDeque_threads (s : State) (core : Nat) (c : Core) : (s.setDeque core c).threads = s.threads := by
  simp [setDeque]

@[simp] theorem forgetOn_threads (s : State) (crew core : Nat) : (s.forgetOn crew core).threads = s.threads := by
  unfold forgetOn
  dsimp only
  split <;> simp

@[simp] theorem forgetCrew_threads (s : State) (crew : Nat) : (s.forgetCrew crew).threads = s.threads :=
  foldl_threads (fun s c => by exact forgetOn_threads s crew c.1) s.cores s

@[simp] theorem setQueue_threads (s : State) (p q : Nat) (d : Queue) : (s.setQueue p q d).threads = s.threads := rfl

@[simp] theorem sendWrites_threads (s : State) (tid crew : Option Nat) (p no : Nat) (g : BitVec 16) (cells : List Host.Cell) :
    (s.sendWrites tid crew p no g cells).threads = s.threads := by
  unfold sendWrites
  exact foldl_threads (fun _ _ => by rfl) _ s

@[simp] theorem sendProbes_threads (s : State) (writer : Option Nat) (lines : List Nat) :
    (s.sendProbes writer lines).threads = s.threads := by
  unfold sendProbes
  exact foldl_threads (fun s _ => by exact foldl_threads (fun _ _ => by rfl) _ s) lines s

@[simp] theorem breakReservations_threads (s : State) (lines : List Nat) : (s.breakReservations lines).threads = s.threads := rfl

@[simp] theorem announce_threads (s : State) (p no : Nat) (tid : Option Nat) (sig : Sig) (lines : List Nat) (fars msgs acks : Nat) :
    (s.announce p no tid sig lines fars msgs acks).threads = s.threads := by
  unfold announce
  rw [sendProbes_threads]
  refine (foldl_threads (fun _ _ => by rfl) _ _).trans ?_
  split <;> rfl

@[simp] theorem newCommit_threads (s : State) (p : Nat) (tid : Option Nat) (sig : Sig) (lines : List Nat) (fars msgs acks : Nat) :
    (s.newCommit p tid sig lines fars msgs acks).threads = s.threads := by
  simp [newCommit]

@[simp] theorem askHost_threads (s : State) (p : Nat) (lines : List Nat) : (s.askHost p lines).threads = s.threads := rfl

end State

/-! ### The crews of a table of threads -/

/-- The crew of the thread with a number, if there is such a thread. -/
def crewAt (l : List (Nat × Thread)) (x : Nat) : Option Nat := (assocGet? x l).map Thread.crew

/-- Threads changed one by one, none of them leaving its crew. -/
theorem crewAt_map {g : Nat × Thread → Nat × Thread} (hk : ∀ e, (g e).1 = e.1) (hc : ∀ e, (g e).2.crew = e.2.crew)
    (l : List (Nat × Thread)) : crewAt (l.map g) = crewAt l := by
  funext x
  rw [crewAt, assocGet?_map g hk, Option.map_map, crewAt]
  exact congrArg (Option.map · _) (funext fun v => hc (x, v))

namespace State

theorem crewAt_foldl {α : Type} {f : State → α → State} (hf : ∀ s a, crewAt (f s a).threads = crewAt s.threads) (l : List α)
    (s : State) : crewAt (l.foldl f s).threads = crewAt s.threads := by
  induction l generalizing s with
  | nil => rfl
  | cons a l ih => rw [List.foldl_cons, ih, hf]

@[simp] theorem crewAt_outdateOthers (s : State) (own : Option Nat) (addrs : List Nat) :
    crewAt (s.outdateOthers own addrs).threads = crewAt s.threads := by
  refine crewAt_map (fun e => ?_) (fun e => ?_) s.threads <;> split <;> rfl

@[simp] theorem crewAt_perform (s : State) (cells : List Host.Cell) : crewAt (s.perform cells).threads = crewAt s.threads := by
  simp [perform]

@[simp] theorem crewAt_wakeWord (s : State) (p pa : Nat) : crewAt (s.wakeWord p pa).threads = crewAt s.threads := by
  refine crewAt_map (fun e => ?_) (fun e => ?_) s.threads <;> split
  · split <;> rfl
  · rfl
  · split <;> rfl
  · rfl

@[simp] theorem crewAt_performFar (s : State) (i : Nat) (f : FarPending) :
    crewAt (s.performFar i f).threads = crewAt s.threads := by
  unfold performFar
  rw [crewAt_wakeWord]
  split <;> simp

@[simp] theorem crewAt_settle (s : State) (dwords : List Nat) (n : Nat) :
    crewAt (s.settle dwords n).threads = crewAt s.threads := by
  induction n generalizing s with
  | zero => rfl
  | succ n ih =>
    rw [settle]
    split
    · rw [ih, crewAt_performFar]
    · rfl

@[simp] theorem crewAt_settled (s : State) (dwords : List Nat) : crewAt (s.settled dwords).threads = crewAt s.threads := by
  unfold settled
  split <;> simp

@[simp] theorem crewAt_commitCells (s : State) (p : Nat) (cells : List Host.Cell) :
    crewAt (s.commitCells p cells).threads = crewAt s.threads := by
  simp [commitCells]

@[simp] theorem crewAt_foremanWrite (s : State) (p pa : Nat) (bs : List Byte) :
    crewAt (s.foremanWrite p pa bs).threads = crewAt s.threads := by
  unfold foremanWrite foremanNow
  split
  · split <;> simp
  · rfl

@[simp] theorem crewAt_complete (s : State) (p : Nat) (addr : Word) (status value : Nat) :
    crewAt (s.complete p addr status value).threads = crewAt s.threads := by
  unfold complete
  split <;> simp

@[simp] theorem crewAt_finishLaunch (s : State) (p : Nat) (w : Crew) (totals : List Nat) (status value : Nat) :
    crewAt (s.finishLaunch p w totals status value).threads = crewAt s.threads := by
  unfold finishLaunch
  rw [crewAt_complete]
  split <;> simp

@[simp] theorem crewAt_benchWrite (s : State) (p : Nat) (cells : List Host.Cell) :
    crewAt (s.benchWrite p cells).threads = crewAt s.threads := by
  simp [benchWrite]

@[simp] theorem crewAt_tryEnd (s : State) (b : Nat) : crewAt (s.tryEnd b).threads = crewAt s.threads := by
  unfold tryEnd
  dsimp only
  split
  · rfl
  · split <;> simp

@[simp] theorem crewAt_abortEpisodes (s : State) (crew : Nat) : crewAt (s.abortEpisodes crew).threads = crewAt s.threads := by
  unfold abortEpisodes
  refine crewAt_foldl (fun s e => ?_) s.benches s
  split <;> simp [endEpisode]

/-- The end of a crew takes its threads away and leaves every other thread its crew (R33). -/
theorem crewAt_endCrew (s : State) (crew : Nat) (w : Crew) (status value : Nat) :
    crewAt (s.endCrew crew w status value).threads = crewAt (s.threads.filter fun e => e.2.crew ≠ crew) := by
  unfold endCrew
  rw [crewAt_finishLaunch]
  dsimp only
  split <;> simp

end State

/-! ### Bytes that memory and the banks decide -/

namespace State

/-- The banks of a table of clusters. -/
def banksOf (l : List (Nat × Cluster)) (cl b : Nat) : Bank := assocGetD b Bank.reset (assocGetD cl Cluster.reset l).banks

/-- Memory and every bank are the same. -/
@[simp] def SameStore (s s' : State) : Prop := s'.mem = s.mem ∧ banksOf s'.clusters = banksOf s.clusters

/-- A committed byte is one of memory, seen through its bank. -/
theorem SameStore.sameBytes {s s' : State} (h : SameStore s s') : Claims.SameBytes s s' := fun pa => by
  obtain ⟨hm, hb⟩ := h
  have hb' : s'.bank = s.bank := hb
  simp only [readByte, hm, hb']

end State

/-! ### The foreman's registers (R430) -/

theorem setRegister_high (s : State) (p : Nat) {off : Nat} (v : Word) (h : 0x20000 ≤ off) : s.setRegister p off v = s := by
  unfold State.setRegister
  split
  case h_18 => exact if_neg (by omega)
  all_goals omega

/-- A write that meets no whole register, or lies above the queue descriptors, changes nothing. -/
theorem foremanRegisterWrite_reserved (s : State) (p : Nat) {off : Nat} (v : Word) (h : off % 8 ≠ 0 ∨ 0x20000 ≤ off) :
    foremanRegisterWrite s p off v = s := by
  by_cases h8 : off % 8 = 0
  · have ho : 0x20000 ≤ off := h.resolve_left (by omega)
    rw [foremanRegisterWrite, if_neg (by omega), if_neg (by omega), setRegister_high s p v ho]
  · exact if_pos h8

/-- No thread of the partition is placed. -/
theorem noCrew_iff (s : State) (p : Nat) : s.noCrew p = true ↔ ∀ e ∈ s.threads, crewPart e.2.crew ≠ p := by
  simp [State.noCrew]

/-- SPILLBASE stays as it is while a crew of the partition is placed (R320). -/
theorem setRegister_spillBase (s : State) (p : Nat) (v : Word) : s.setRegister p 0x128 v =
    if s.noCrew p then s.setPart p { s.part p with spillBase := alignDown v 16 } else s := rfl

/-- QUANTUM takes 100 to 100,000 microseconds (R305). -/
theorem setRegister_quantum (s : State) (p : Nat) (v : Word) : s.setRegister p 0x48 v =
    if 100 ≤ v.toNat ∧ v.toNat ≤ 100000 then s.setPart p { s.part p with quantum := v.toNat } else s := rfl

/-! ### Stops, resumptions and denials (R373, R382, R387) -/

/-- A crew is to stop for the cause that came first. -/
theorem stopCrew_of_crew {s : State} {crew : Nat} {w : Crew} (h : s.crew crew = some w) (cause : Nat) (raiser : Option Nat) :
    s.stopCrew crew cause raiser = s.setCrew crew { w with stopping := w.stopping.or (some (cause, raiser)) } := by
  have hs : (if w.stopping.isSome then w.stopping else some (cause, raiser)) = w.stopping.or (some (cause, raiser)) := by
    cases w.stopping <;> rfl
  simp only [State.stopCrew, h, hs]

/-- A crew that has stopped, or is about to, is noted for its resumption. -/
theorem resumeRequest_of_stopping {s : State} {p serial : Nat} {w : Crew} (h : s.crew (p * 2 ^ 32 + serial) = some w)
    (hs : w.stopping.isSome = true) : resumeRequest s p serial = s.setCrew (p * 2 ^ 32 + serial) { w with resume := true } := by
  simp only [resumeRequest, h, hs, if_true]

/-- A denial that names a parked thread of the partition lets it meet its fault. -/
theorem denyFault_of_parked {s : State} {p tid cause : Nat} {v va : Word} {t : Thread} (hv : v.toNat < 2 ^ 22)
    (hp : v.toNat / 2 ^ 19 = p) (hn : s.threadOfVcn v.toNat = some tid) (ht : s.thread tid = some t) (hr : t.run = .parked cause va) :
    s.denyFault p v = s.setThread tid { t with run := .running, denied := some va } := by
  have hf : field v 19 3 = p := by unfold field; omega
  have hc : ¬ (v.toNat / 2 ^ 22 ≠ 0 ∨ field v 19 3 ≠ p) := by omega
  unfold State.denyFault
  rw [if_neg hc, hn]
  simp only [ht, hr]

/-! ### Invalidations (R375) -/

theorem part_invalidate (s : State) (p k : Nat) (va : Word) (g : BitVec 16) (tid : Option Nat) (no : Nat) :
    (s.invalidate p k va g tid no).part p = { s.part p with invals := (s.part p).invals ++ [⟨k, va, g, tid, no⟩] } :=
  State.part_setPart_self _ _ _

theorem part_tlbCommand (s : State) (p k : Nat) (g : BitVec 16) :
    (tlbCommand s p k g).part p = { s.part p with
      invals := (s.part p).invals ++ [⟨k, (s.part p).tlbAddr, g, none, s.nextId⟩], lastCmd := s.nextId } := by
  refine (State.part_setPart_self _ _ _).trans ?_
  rw [part_invalidate]
  rfl

/-- A TLBCMD begins an invalidation, which TLBSTAT goes by from then on (R430). -/
theorem tlbCommand_invalidates (s : State) (p k : Nat) (g : BitVec 16) :
    Claims.Invalidates s (tlbCommand s p k g) p k (s.part p).tlbAddr g := by
  refine ⟨?_, ?_, State.SameStore.sameBytes ⟨rfl, rfl⟩⟩ <;> rw [part_tlbCommand]

/-- What an invalidation of R375 does not drop survives it. -/
theorem survives_of_not_drops {x : Inval} {e : TlbEntry} (h : (!x.drops e) = true) : Claims.survives x e := by
  unfold Inval.drops at h
  split at h
  next hk => exact .inl ⟨hk, fun hs => by simp only [hs, decide_true, Bool.and_self, Bool.not_true, Bool.false_eq_true] at h⟩
  next hk => exact .inr ⟨hk, by simpa using h⟩
  next => cases h

/-- The entries left in a TLB of a partition after an invalidation. -/
theorem survives_of_mem_filter {x : Inval} {l : List TlbEntry} {e : TlbEntry} (h : e ∈ l.filter fun e => !x.drops e) :
    e ∈ l ∧ Claims.survives x e := by
  obtain ⟨hl, hd⟩ := List.mem_filter.mp h
  exact ⟨hl, survives_of_not_drops hd⟩

/-- An invalidation that has completed. -/
theorem tlbinvComplete_of_quiet {s : State} {p i : Nat} {x : Inval} (hx : (s.part p).invals[i]? = some x)
    (hq : s.quietFor p x = true) :
    (tlbinvComplete s p i).parts = assocSet p { s.part p with invals := (s.part p).invals.eraseIdx i,
                                                              guildCache := if 2 ≤ x.k then [] else (s.part p).guildCache } s.parts ∧
    (tlbinvComplete s p i).cores = s.cores.map (fun c =>
      if s.partOf (dieOf c.1) = p then (c.1, { c.2 with tlb := c.2.tlb.filter fun e => !x.drops e }) else c) ∧
    (tlbinvComplete s p i).clusters = s.clusters.map (fun c =>
      if s.partOf (c.1 / 100) = p then (c.1, { c.2 with tlb := c.2.tlb.filter fun e => !x.drops e }) else c) := by
  unfold tlbinvComplete
  simp only [hx, hq]
  exact ⟨rfl, rfl, rfl⟩

/-- Units of which some are changed. -/
theorem assocGetD_map_ite {β : Type} (f : β → β) (d : β) (q : Nat → Prop) [DecidablePred q] {k : Nat} (hk : q k) (hd : f d = d)
    (l : List (Nat × β)) : assocGetD k d (l.map fun c => if q c.1 then (c.1, f c.2) else c) = f (assocGetD k d l) := by
  unfold assocGetD
  rw [assocGet?_map _ (fun e => by split <;> rfl)]
  cases assocGet? k l <;> simp [hk, hd]

theorem invals_tlbinvComplete {s : State} {p i : Nat} {x : Inval} (hx : (s.part p).invals[i]? = some x)
    (hq : s.quietFor p x = true) : ((tlbinvComplete s p i).part p).invals = (s.part p).invals.eraseIdx i := by
  obtain ⟨h, -, -⟩ := tlbinvComplete_of_quiet hx hq
  rw [State.part, h, assocGetD, assocGet?_assocSet_self]
  rfl

theorem core_tlbinvComplete {s : State} {p i c : Nat} {x : Inval} (hx : (s.part p).invals[i]? = some x)
    (hq : s.quietFor p x = true) (hc : s.partOf (dieOf c) = p) :
    ((tlbinvComplete s p i).core c).tlb = (s.core c).tlb.filter fun e => !x.drops e := by
  obtain ⟨-, h, -⟩ := tlbinvComplete_of_quiet hx hq
  rw [State.core, h, assocGetD_map_ite (fun c : Core => { c with tlb := c.tlb.filter fun e => !x.drops e }) Core.reset
    (fun c => s.partOf (dieOf c) = p) hc rfl]
  rfl

theorem cluster_tlbinvComplete {s : State} {p i c : Nat} {x : Inval} (hx : (s.part p).invals[i]? = some x)
    (hq : s.quietFor p x = true) (hc : s.partOf (c / 100) = p) :
    ((tlbinvComplete s p i).cluster c).tlb = (s.cluster c).tlb.filter fun e => !x.drops e := by
  obtain ⟨-, -, h⟩ := tlbinvComplete_of_quiet hx hq
  rw [State.cluster, h, assocGetD_map_ite (fun c : Cluster => { c with tlb := c.tlb.filter fun e => !x.drops e }) Cluster.reset
    (fun c => s.partOf (c / 100) = p) hc rfl]
  rfl

/-! ### Repartitions (R17) -/

theorem modcfgRequest_of_not_aligned {s : State} {bits : BitVec 8} (ha : rangesAligned (bits ||| 1) = false) :
    modcfgRequest s bits = { s with modStatus := 2 } := by
  simp only [modcfgRequest, ha]
  rfl

theorem modcfgRequest_of_not_pure {s : State} {bits : BitVec 8} (ha : rangesAligned (bits ||| 1) = true)
    (hp : rangesPure (bits ||| 1) s.present = false) : modcfgRequest s bits = { s with modStatus := 3 } := by
  simp only [modcfgRequest, ha, hp]
  rfl

/-- Some placed crew would move. -/
theorem any_rangeChanges_iff (s : State) (bits : BitVec 8) :
    (s.threads.any fun e => rangeChanges s.modcfg bits (dieOf (coreOf e.1))) = true ↔ ¬ Claims.NoCrewMoves s bits := by
  simp [Claims.NoCrewMoves]

theorem modcfgRequest_of_admissible {s : State} {bits : BitVec 8} (ha : rangesAligned (bits ||| 1) = true)
    (hp : rangesPure (bits ||| 1) s.present = true) : modcfgRequest s bits =
      if s.threads.any fun e => rangeChanges s.modcfg (bits ||| 1) (dieOf (coreOf e.1)) then { s with modStatus := 1 }
      else { s with modcfg := bits ||| 1, modStatus := 0 } := by
  simp only [modcfgRequest, ha, hp]
  rfl

/-! ### The end of a crew (R33) -/

theorem crewEnd_of_over {s : State} {crew : Nat} {w : Crew} (h : s.crew crew = some w) (hs : w.stopped = none)
    (ho : s.crewOver crew w = true) (hw : (s.wroteHost (crewPart crew) w.record && s.writesOut crew) = false) :
    crewEnd s crew = s.endCrew crew w 0 (field (w.record.getD 8 0) 0 48) := by
  simp only [crewEnd, h, hs, ho, hw]
  rfl

/-- A crew that has ended holds no thread any more. -/
theorem endCrew_releases {s : State} {crew x status value : Nat} {w : Crew} {t : Thread}
    (h : (s.endCrew crew w status value).thread x = some t) : t.crew ≠ crew := by
  have hc : crewAt (s.endCrew crew w status value).threads x = some t.crew := congrArg (Option.map Thread.crew) h
  rw [State.crewAt_endCrew, crewAt, Option.map_eq_some_iff] at hc
  obtain ⟨u, hu, he⟩ := hc
  have hm := (List.mem_filter.mp (mem_of_assocGet? hu)).2
  simpa [he] using hm

/-- The threads of other crews stay theirs. -/
theorem endCrew_keeps {s : State} {crew x status value : Nat} {w : Crew} {t : Thread} (h : s.thread x = some t)
    (hc : t.crew ≠ crew) : ∃ t', (s.endCrew crew w status value).thread x = some t' ∧ t'.crew = t.crew := by
  refine Option.map_eq_some_iff.mp (?_ : crewAt (s.endCrew crew w status value).threads x = some t.crew)
  rw [State.crewAt_endCrew, crewAt, assocGet?_filter _ h (by simpa using hc)]
  rfl

end Sys2Proof.Machine

namespace Sys2Proof.Claims

open Sys2Proof.Machine

/-- Settles O55: each event by the lemma that says what it does to the foreman's tables. -/
theorem foremanEvents : Obligations.ForemanEvents := by
  intro s p v
  refine ⟨?crewEnds, ?registers, ?stops, ?denial, ?invalidations, ?completion, ?repartition⟩
  case crewEnds =>
    exact fun crew w h hs ho hw => ⟨_, congrArg Host.Outcome.next (crewEnd_of_over h hs ho hw),
      fun _ _ => endCrew_releases, fun _ _ => endCrew_keeps⟩
  case registers =>
    refine ⟨rfl, rfl, rfl, rfl, fun h1 h2 => ?_, fun h => ?_, rfl, fun h => ?_, fun ⟨e, he, hp⟩ => ?_,
      fun off h => congrArg Host.Outcome.next (foremanRegisterWrite_reserved s p v h)⟩
    · exact congrArg Host.Outcome.next ((setRegister_quantum s p v).trans (if_pos ⟨h1, h2⟩))
    · exact congrArg Host.Outcome.next ((setRegister_quantum s p v).trans (if_neg (by omega)))
    · exact congrArg Host.Outcome.next ((setRegister_spillBase s p v).trans (if_pos ((noCrew_iff s p).mpr h)))
    · exact congrArg Host.Outcome.next ((setRegister_spillBase s p v).trans
        (if_neg fun hn => (noCrew_iff s p).mp hn e he hp))
  case stops =>
    exact fun serial w h => ⟨congrArg Host.Outcome.next (stopCrew_of_crew h 0 none),
      fun hs => congrArg Host.Outcome.next (resumeRequest_of_stopping h hs)⟩
  case denial =>
    exact fun tid t cause va hv hp hn ht hr => congrArg Host.Outcome.next (denyFault_of_parked hv hp hn ht hr)
  case invalidations =>
    exact fun g => ⟨⟨_, rfl, tlbCommand_invalidates s p 0 g⟩, ⟨_, rfl, tlbCommand_invalidates s p 1 g⟩,
      ⟨_, rfl, tlbCommand_invalidates s p 2 0⟩⟩
  case completion =>
    exact fun i x hx hq => ⟨_, rfl, invals_tlbinvComplete hx hq,
      fun c hc e he => survives_of_mem_filter (core_tlbinvComplete hx hq hc ▸ he),
      fun c hc e he => survives_of_mem_filter (cluster_tlbinvComplete hx hq hc ▸ he)⟩
  case repartition =>
    refine fun bits => ⟨fun ha => congrArg Host.Outcome.next (modcfgRequest_of_not_aligned ha),
      fun ha hp => congrArg Host.Outcome.next (modcfgRequest_of_not_pure ha hp), fun ha hp hm => ?_, fun ha hp hm => ?_⟩
    · exact congrArg Host.Outcome.next ((modcfgRequest_of_admissible ha hp).trans
        (if_neg fun h => (any_rangeChanges_iff s _).mp h hm))
    · exact congrArg Host.Outcome.next ((modcfgRequest_of_admissible ha hp).trans
        (if_pos ((any_rangeChanges_iff s _).mpr hm)))

end Sys2Proof.Claims
end

section

namespace Sys2Proof.Machine

open State

namespace State

theorem SameStore.refl (s : State) : SameStore s s := ⟨rfl, rfl⟩

theorem SameStore.trans {s s' s'' : State} (h : SameStore s s') (h' : SameStore s' s'') : SameStore s s'' :=
  ⟨h'.1.trans h.1, h'.2.trans h.2⟩

theorem SameStore.symm {s s' : State} (h : SameStore s s') : SameStore s' s :=
  ⟨h.1.symm, h.2.symm⟩

end State

/-! ### Updates that leave memory and the banks as they are -/

namespace State

theorem banksOf_setCluster {s : State} {cl : Nat} {v : Cluster} (h : v.banks = (s.cluster cl).banks) :
    banksOf (s.setCluster cl v).clusters = banksOf s.clusters := by
  funext k b
  by_cases hk : k = cl
  · subst hk
    simp only [banksOf, setCluster, assocGetD, assocGet?_assocSet_self, Option.getD_some, h, cluster]
  · simp only [banksOf, setCluster, assocGetD, assocGet?_assocSet_ne hk]

@[simp] theorem register_mem (s : State) (core line : Nat) : (s.register core line).mem = s.mem := by
  unfold register
  dsimp only
  split <;> rfl
@[simp] theorem register_clusters (s : State) (core line : Nat) : (s.register core line).clusters = s.clusters := by
  unfold register
  dsimp only
  split <;> rfl
@[simp] theorem hold_mem (s : State) (core set line : Nat) : (s.hold core set line).mem = s.mem := by
  unfold hold
  dsimp only
  split <;> simp
@[simp] theorem hold_clusters (s : State) (core set line : Nat) : (s.hold core set line).clusters = s.clusters := by
  unfold hold
  dsimp only
  split <;> simp
@[simp] theorem freshLine_mem (s : State) : s.freshLine.2.mem = s.mem := rfl
@[simp] theorem freshLine_clusters (s : State) : s.freshLine.2.clusters = s.clusters := rfl
@[simp] theorem fresh_mem (s : State) : s.fresh.2.mem = s.mem := rfl
@[simp] theorem fresh_clusters (s : State) : s.fresh.2.clusters = s.clusters := rfl
@[simp] theorem cacheGuild_mem (s : State) (p : Nat) (g : BitVec 16) : (s.cacheGuild p g).mem = s.mem := by
  unfold cacheGuild
  split <;> rfl
@[simp] theorem cacheGuild_clusters (s : State) (p : Nat) (g : BitVec 16) : (s.cacheGuild p g).clusters = s.clusters := by
  unfold cacheGuild
  split <;> rfl
@[simp] theorem keepImage_mem (s : State) (core line : Nat) (img : Line) : (s.keepImage core line img).mem = s.mem := rfl
@[simp] theorem keepImage_clusters (s : State) (core line : Nat) (img : Line) :
    (s.keepImage core line img).clusters = s.clusters := rfl
@[simp] theorem keepClusterImage_mem (s : State) (cl line : Nat) (img : Line) :
    (s.keepClusterImage cl line img).mem = s.mem := rfl
@[simp] theorem banksOf_keepClusterImage (s : State) (cl line : Nat) (img : Line) :
    banksOf (s.keepClusterImage cl line img).clusters = banksOf s.clusters := banksOf_setCluster rfl
@[simp] theorem outdate_mem (s : State) (p core line : Nat) (img : Option Line) :
    (s.outdate p core line img).mem = s.mem := rfl
@[simp] theorem outdate_clusters (s : State) (p core line : Nat) (img : Option Line) :
    (s.outdate p core line img).clusters = s.clusters := rfl

end State

/-- A walk begun, or joined, changes the tables of its cluster that hold the walks. -/
theorem sameStore_startWalk (s : State) (tid : Nat) (g : BitVec 16) (va cause : Nat) (tval : Word) :
    SameStore s (startWalk s tid g va cause tval) := by
  unfold startWalk
  dsimp only
  split
  · exact ⟨rfl, banksOf_setCluster rfl⟩
  · split
    · exact ⟨rfl, banksOf_setCluster rfl⟩
    · exact ⟨rfl, rfl⟩

/-- A translation found refreshes the core's TLB at most. -/
theorem sameStore_of_tlbLookup {s s' : State} {core : Nat} {g : BitVec 16} {va : Nat} {e : TlbEntry}
    (h : tlbLookup s core g va = some (e, s')) : SameStore s s' := by
  unfold tlbLookup at h
  split at h
  · cases h; exact ⟨rfl, rfl⟩
  · split at h
    · cases h; exact ⟨rfl, rfl⟩
    · cases h

/-! ### Operations that leave memory and the banks as they are -/

/-- The machine that an operation leaves, whether it answers or stops. -/
def leaves {α : Type} (p : M α) (m : Mach) : Mach :=
  match p.run m with
  | .ok _ m' => m'
  | .error _ m' => m'

/-- Run where memory and the banks are those of a state, an operation leaves them so. -/
def QuietAt {α : Type} (s : State) (p : M α) (m : Mach) : Prop := SameStore s m.st → SameStore s (leaves p m).st

section
variable {α β : Type} (s : State) (m : Mach)

@[simp] theorem quiet_pure (x : α) : QuietAt s (pure x) m := id
@[simp] theorem quiet_throw (e : Stop) : QuietAt s (throw e : M α) m := id
@[simp] theorem quiet_get : QuietAt s (get : M Mach) m := id
@[simp] theorem quiet_onArch (f : Arch → Arch) : QuietAt s (onArch f) m := id
@[simp] theorem quiet_onChunk (f : Chunk → Chunk) : QuietAt s (onChunk f) m := id
@[simp] theorem quiet_onThread (f : Thread → Thread) : QuietAt s (onThread f) m := id
@[simp] theorem quiet_setX (d : BitVec 6) (v : Word) : QuietAt s (setX d v) m := id
@[simp] theorem quiet_endWith (f : Finish) : QuietAt s (endWith f) m := id
@[simp] theorem quiet_emit (e : Effect) : QuietAt s (emit e) m := id
@[simp] theorem quiet_set (m' : Mach) : QuietAt s (set m' : M PUnit) m ↔ (SameStore s m.st → SameStore s m'.st) := Iff.rfl
@[simp] theorem quiet_modify (f : Mach → Mach) :
    QuietAt s (modify f : M PUnit) m ↔ (SameStore s m.st → SameStore s (f m).st) := Iff.rfl
@[simp] theorem quiet_onState (f : State → State) :
    QuietAt s (onState f) m ↔ (SameStore s m.st → SameStore s (f m.st)) := Iff.rfl

variable {s m}

theorem leaves_of_ok {p : M α} {x : α} {m' : Mach} (h : p.run m = .ok x m') : leaves p m = m' := by
  rw [leaves, h]

theorem leaves_bind_ok {p : M α} {f : α → M β} {x : α} {m' : Mach} (h : p.run m = .ok x m') :
    leaves (p >>= f) m = leaves (f x) m' := by
  rw [leaves, run_bind_ok h, leaves]

theorem leaves_bind_error {p : M α} {f : α → M β} {e : Stop} {m' : Mach} (h : p.run m = .error e m') :
    leaves (p >>= f) m = leaves p m := by
  rw [leaves, run_bind_error h, leaves, h]

/-- What a quiet operation answers comes with the memory it found. -/
theorem sameStore_of_ok {p : M α} {x : α} {m' : Mach} (hp : ∀ s, QuietAt s p m) (h : p.run m = .ok x m') :
    SameStore m.st m'.st := leaves_of_ok h ▸ hp m.st (.refl _)

/-- One operation after another: the second is looked at wherever the first, itself quiet, may leave it. -/
@[simp] theorem quiet_bind {p : M α} {f : α → M β} (hp : ∀ s, QuietAt s p m) :
    QuietAt s (p >>= f) m ↔ ∀ x m', p.run m = .ok x m' → QuietAt s (f x) m' := by
  constructor
  · intro h x m' hx hs
    rw [← leaves_bind_ok hx]
    exact h (hs.trans (sameStore_of_ok hp hx).symm)
  · intro h hs
    cases hr : p.run m with
    | ok x m' =>
      rw [leaves_bind_ok hr]
      exact h x m' hr (hs.trans (sameStore_of_ok hp hr))
    | error e m' =>
      rw [leaves_bind_error hr]
      exact hp s hs

@[simp] theorem quiet_get_bind (f : Mach → M α) : QuietAt s (get >>= f) m ↔ QuietAt s (f m) m := Iff.rfl
@[simp] theorem quiet_throw_bind (e : Stop) (f : α → M β) : QuietAt s ((throw e : M α) >>= f) m := id

@[simp] theorem quiet_map {p : M α} {f : α → β} : QuietAt s (f <$> p) m ↔ QuietAt s p m := by
  have h : (leaves (f <$> p) m).st = (leaves p m).st := by
    change (leaves (EStateM.map f p) m).st = _
    unfold leaves EStateM.run EStateM.map
    cases p m <;> rfl
  unfold QuietAt
  rw [h]

@[simp] theorem quiet_ite (c : Prop) [Decidable c] (p q : M α) :
    QuietAt s (if c then p else q) m ↔ (c → QuietAt s p m) ∧ (¬c → QuietAt s q m) := by
  split <;> simp [*]

/-- A handler that takes up what a quiet operation has left. -/
theorem quiet_tryCatch {p : M α} {f : Stop → M α} (hp : QuietAt s p m)
    (hf : ∀ e m', p.run m = .error e m' → QuietAt s (f e) m') : QuietAt s (tryCatch p f) m := by
  intro hs
  have h := hp hs
  have hr : (tryCatch p f : M α).run m = match p.run m with
      | .ok x m' => .ok x m'
      | .error e m' => (f e).run m' := by
    change EStateM.tryCatch p f m = _
    unfold EStateM.tryCatch EStateM.run
    cases p m <;> rfl
  cases hpm : p.run m with
  | ok x m' => rwa [leaves, hr, hpm, ← leaves_of_ok hpm]
  | error e m' =>
    have hl : leaves (tryCatch p f) m = leaves (f e) m' := by rw [leaves, hr, hpm, leaves]
    rw [leaves, hpm] at h
    exact hl ▸ hf e m' hpm h

variable (s m)

@[simp] theorem setSt_st (s' : State) : (m.setSt s').st = s' := rfl

@[simp] theorem quiet_standAlone : QuietAt s standAlone m := by simp [standAlone]
@[simp] theorem quiet_need (b : Bool) (c : Nat) (v : Word) : QuietAt s (need b c v) m := by simp [need]
@[simp] theorem quiet_faultIf (b : Bool) (c : Nat) (v : Word) : QuietAt s (faultIf b c v) m := by simp [faultIf]
@[simp] theorem quiet_needBlock (c b : Nat) : QuietAt s (needBlock c b) m := by simp [needBlock]
@[simp] theorem quiet_askWiden (line : Nat) : QuietAt s (askWiden line) m := by simp [askWiden]
@[simp] theorem quiet_needScope (line : Nat) : QuietAt s (needScope line) m := by
  simp only [needScope, quiet_get_bind]
  split <;> simp

end

/-! Each rule below is about one operation of the model, in the model's order: what the operation is made of is quiet by the rules
before it, and where it branches on what it finds, each branch is. -/

section
variable (s : State) (m : Mach)

/-! ### The translation and places of addresses -/

@[simp] theorem startWalk_mem (s : State) (tid : Nat) (g : BitVec 16) (va cause : Nat) (tval : Word) :
    (startWalk s tid g va cause tval).mem = s.mem := (sameStore_startWalk s tid g va cause tval).1

@[simp] theorem banksOf_startWalk (s : State) (tid : Nat) (g : BitVec 16) (va cause : Nat) (tval : Word) :
    banksOf (startWalk s tid g va cause tval).clusters = banksOf s.clusters :=
  (sameStore_startWalk s tid g va cause tval).2

@[simp] theorem quiet_leafOf (va : Word) (cause : Nat) (tval : Word) : QuietAt s (leafOf va cause tval) m := by
  simp only [leafOf, quiet_get_bind, quiet_bind, quiet_ite, quiet_needBlock, implies_true]
  refine ⟨fun _ _ m' hb => ?_, fun _ => ?_⟩
  · obtain ⟨hmem, hbanks⟩ := sameStore_of_ok (by simp) hb
    split
    · next hl =>
      obtain ⟨hmem', hbanks'⟩ := sameStore_of_tlbLookup hl
      simp [hmem, hbanks, hmem', hbanks']
    · simp [hmem, hbanks]
  · split
    · next hl =>
      obtain ⟨hmem', hbanks'⟩ := sameStore_of_tlbLookup hl
      simp +contextual [hmem', hbanks']
    · simp +contextual

@[simp] theorem quiet_locateWindow (va : Word) : QuietAt s (locateWindow va) m := by simp [locateWindow]

@[simp] theorem quiet_locateAs (k : Access) (cause : Nat) (va tval : Word) : QuietAt s (locateAs k cause va tval) m := by
  simp only [locateAs, quiet_get_bind, quiet_throw_bind, quiet_bind, quiet_ite, quiet_locateWindow, quiet_leafOf,
    implies_true, true_and]
  intros
  split <;> simp

@[simp] theorem quiet_locate (k : Access) (va : Word) : QuietAt s (locate k va) m := by simp [locate]
@[simp] theorem quiet_takeLine (set line : Nat) : QuietAt s (takeLine set line) m := by simp [takeLine]
@[simp] theorem quiet_noteRead (l : Loc) : QuietAt s (noteRead l) m := by simp [noteRead]

/-! ### Sticky flags -/

@[simp] theorem quiet_raise (f : BitVec 5) : QuietAt s (raise f) m := by simp [raise]

/-! ### The chunk -/

@[simp] theorem quiet_waitFars (pa n : Nat) : QuietAt s (waitFars pa n) m := by simp [waitFars]

@[simp] theorem quiet_waitEach (xs : List Far) : QuietAt s (waitEach xs) m := by
  induction xs generalizing s m with
  | nil => simp [waitEach]
  | cons x xs ih => simp [waitEach, ih]

@[simp] theorem quiet_askLink (pa n : Nat) (va : Word) : QuietAt s (askLink pa n va) m := by simp [askLink]

@[simp] theorem quiet_readLink (pa n : Nat) (va : Word) : QuietAt s (readLink pa n va) m := by
  simp only [readLink, quiet_get_bind]
  split <;> simp

@[simp] theorem quiet_baseRun (pl : Place) (pa n : Nat) (va : Word) : QuietAt s (baseRun pl pa n va) m := by simp [baseRun]

@[simp] theorem quiet_foldEach (pl : Place) (xs : List Far) : QuietAt s (foldEach pl xs) m := by
  induction xs generalizing s m pl with
  | nil => simp [foldEach]
  | cons x xs ih => simp [foldEach, ih]

@[simp] theorem quiet_foldFars (l : Loc) (n : Nat) : QuietAt s (foldFars l n) m := by simp [foldFars]
@[simp] theorem quiet_needHome (l : Loc) : QuietAt s (needHome l) m := by simp [needHome]
@[simp] theorem quiet_readAt (l : Loc) (va : Word) (n : Nat) : QuietAt s (readAt l va n) m := by simp [readAt]

@[simp] theorem quiet_readWords (l : Loc) (va : Word) (o n : Nat) : QuietAt s (readWords l va o n) m := by
  induction n generalizing s m l va o with
  | zero => simp [readWords]
  | succ n ih => simp [readWords, ih]

@[simp] theorem quiet_holdLine (va : Word) (line : Nat) : QuietAt s (holdLine va line) m := by
  simp only [holdLine, pure_bind, quiet_get_bind, quiet_throw_bind, quiet_ite, quiet_pure, implies_true, true_and]
  refine fun _ => ⟨by simp, fun _ => ⟨fun _ => by split <;> simp, fun _ => ?_⟩⟩
  split <;> simp

@[simp] theorem quiet_noteWrite (l : Loc) : QuietAt s (noteWrite l) m := by simp [noteWrite]
@[simp] theorem quiet_writeAt (l : Loc) (va : Word) (bs : List Byte) : QuietAt s (writeAt l va bs) m := by simp [writeAt]

@[simp] theorem quiet_writeWords (l : Loc) (va : Word) (o : Nat) (xs : List Word) : QuietAt s (writeWords l va o xs) m := by
  induction xs generalizing s m l va o with
  | nil => simp [writeWords]
  | cons x xs ih => simp [writeWords, ih]

@[simp] theorem quiet_locateStore (va : Word) (n : Nat) (st : Bool) : QuietAt s (locateStore va n st) m := by
  simp only [locateStore, quiet_get_bind, quiet_bind, quiet_locate, implies_true]
  intros
  split <;> simp

@[simp] theorem quiet_writeMem (va : Word) (n v : Nat) (st : Bool) : QuietAt s (writeMem va n v st) m := by simp [writeMem]
@[simp] theorem quiet_needVec : QuietAt s needVec m := by simp [needVec]
@[simp] theorem quiet_notArming : QuietAt s notArming m := by simp [notArming]

/-! ### Code lines -/

@[simp] theorem quiet_needLine (img : Line) (i : Nat) : QuietAt s (needLine img i) m := by simp [needLine]
@[simp] theorem quiet_codeRun (pl : Place) (pa : Nat) (va : Word) : QuietAt s (codeRun pl pa va) m := by simp [codeRun]

@[simp] theorem quiet_fetchLine (va : Word) : QuietAt s (fetchLine va) m := by
  simp only [fetchLine, quiet_get_bind, quiet_bind, quiet_locateAs, implies_true]
  intros
  split
  · simp
  · simp only [quiet_bind, quiet_needBlock, implies_true]
    intros
    split <;> simp

/-! ### The scalar instructions -/

@[simp] theorem quiet_opBinary (d b a : BitVec 6) (f : Word → Word → Word) :
    QuietAt s (opBinary d b a f) m := by simp [opBinary]
@[simp] theorem quiet_opUnary (d a : BitVec 6) (f : Word → Word) : QuietAt s (opUnary d a f) m := by simp [opUnary]

@[simp] theorem quiet_opTernary (d b a c : BitVec 6) (f : Word → Word → Word → Word) : QuietAt s (opTernary d b a c f) m := by
  simp [opTernary]

@[simp] theorem quiet_opCount (d : BitVec 6) (z : BitVec 2) (a : BitVec 6) (f : Nat → Nat → Nat) :
    QuietAt s (opCount d z a f) m := by simp [opCount]

/-! ### Control transfer -/

@[simp] theorem quiet_jumpTo (v : Word) : QuietAt s (jumpTo v) m := by simp [jumpTo]
@[simp] theorem quiet_opJump (d : BitVec 6) (off : BitVec 21) (hi : BitVec 5) :
    QuietAt s (opJump d off hi) m := by simp [opJump]
@[simp] theorem quiet_opJumpReg (d a : BitVec 6) : QuietAt s (opJumpReg d a) m := by simp [opJumpReg]
@[simp] theorem quiet_opBranch (d a : BitVec 6) (off : BitVec 21) (hi : BitVec 5) (c : Word → Word → Bool) :
    QuietAt s (opBranch d a off hi c) m := by simp [opBranch]
@[simp] theorem quiet_opMaskBranch (d : BitVec 3) (a : BitVec 2) (off : BitVec 21) (hi : BitVec 5) (c : Nat → Nat → Bool) :
    QuietAt s (opMaskBranch d a off hi c) m := by simp [opMaskBranch]
@[simp] theorem quiet_needAligned (va : Word) (n : Nat) : QuietAt s (needAligned va n) m := by simp [needAligned]

/-! ### Vector operands -/

@[simp] theorem quiet_putGroup (v : BitVec 5) (g : Shape) (w count : Nat) (f : Nat → Nat × BitVec 5) :
    QuietAt s (putGroup v g w count f) m := by simp [putGroup]

@[simp] theorem quiet_putMask (d : BitVec 3) (g : Shape) (f : Nat → Nat × BitVec 5) : QuietAt s (putMask d g f) m := by
  simp [putMask]

@[simp] theorem quiet_needGroup (v : BitVec 5) (n : Nat) : QuietAt s (needGroup v n) m := by simp [needGroup]

@[simp] theorem quiet_needGroups (xs : List (BitVec 5 × Nat)) : QuietAt s (needGroups xs) m := by
  induction xs generalizing s m with
  | nil => simp [needGroups]
  | cons x xs ih => simp [needGroups, ih]

@[simp] theorem quiet_vecChecks (groups : List (BitVec 5 × Nat)) : QuietAt s (vecChecks groups) m := by simp [vecChecks]
@[simp] theorem quiet_opLanes (w : Nat) (p : BitVec 6) (d : BitVec 5) (srcs : List (BitVec 5))
    (f : Arch → Shape → Nat → Nat × BitVec 5) : QuietAt s (opLanes w p d srcs f) m := by simp [opLanes]
@[simp] theorem quiet_opMaskLanes (w : Nat) (p : BitVec 6) (d : BitVec 3) (srcs : List (BitVec 5))
    (f : Arch → Shape → Nat → Nat × BitVec 5) : QuietAt s (opMaskLanes w p d srcs f) m := by simp [opMaskLanes]
@[simp] theorem quiet_opScalarLanes (w : Nat) (p d : BitVec 6) (srcs : List (BitVec 5)) (f : Arch → Shape → Word × BitVec 5) :
    QuietAt s (opScalarLanes w p d srcs f) m := by simp [opScalarLanes]

@[simp] theorem quiet_freeRegs (v n : Nat) : QuietAt s (freeRegs v n) m := by
  induction n generalizing s m v with
  | zero => simp [freeRegs]
  | succ n ih => simp [freeRegs, ih]

@[simp] theorem quiet_freeOverlap (v n u k : Nat) : QuietAt s (freeOverlap v n u k) m := by simp [freeOverlap]

/-! ### Loads and stores -/

@[simp] theorem quiet_locateControl (va : Word) : QuietAt s (locateControl va) m := by simp [locateControl]
@[simp] theorem quiet_locateLoad (va : Word) (ctl : Bool) : QuietAt s (locateLoad va ctl) m := by simp [locateLoad]
@[simp] theorem quiet_loadScalar (va : Word) (n : Nat) (ctl : Bool) :
    QuietAt s (loadScalar va n ctl) m := by simp [loadScalar]
@[simp] theorem quiet_opLoad (d : BitVec 6) (sg : BitVec 1) (n : Nat) (va : Mach → Word) (ctl : Bool) :
    QuietAt s (opLoad d sg n va ctl) m := by simp [opLoad]
@[simp] theorem quiet_storeControl (va : Word) (v : Nat) : QuietAt s (storeControl va v) m := by simp [storeControl]

@[simp] theorem quiet_storeScalar (va : Word) (n v : Nat) (st : Bool) : QuietAt s (storeScalar va n v st) m := by
  simp [storeScalar]

@[simp] theorem quiet_needElemsAligned (es : List (Nat × Word)) (ew : Nat) : QuietAt s (needElemsAligned es ew) m := by
  simp only [needElemsAligned]
  split <;> simp

@[simp] theorem quiet_locateElems {f : Word → M Loc} (hf : ∀ s va m, QuietAt s (f va) m) (es : List (Nat × Word)) :
    QuietAt s (locateElems f es) m := by
  induction es generalizing s m with
  | nil => simp [locateElems]
  | cons e es ih => simp [locateElems, hf, ih]

@[simp] theorem quiet_readElems (ew : Nat) (xs : List (Nat × Word × Loc)) : QuietAt s (readElems ew xs) m := by
  induction xs generalizing s m ew with
  | nil => simp [readElems]
  | cons x xs ih => simp [readElems, ih]

@[simp] theorem quiet_writeElems (ew : Nat) (v : Nat → Nat) (xs : List (Nat × Word × Loc)) :
    QuietAt s (writeElems ew v xs) m := by
  induction xs generalizing s m ew v with
  | nil => simp [writeElems]
  | cons x xs ih => simp [writeElems, ih]

@[simp] theorem quiet_vecAddrs (p : BitVec 6) (z : BitVec 2) (groups : Shape → Nat → List (BitVec 5 × Nat))
    (addr : Arch → Nat → Nat → Word) : QuietAt s (vecAddrs p z groups addr) m := by simp [vecAddrs]
@[simp] theorem quiet_opVecLoad (d : BitVec 5) (p : BitVec 6) (z : BitVec 2) (groups : Shape → Nat → List (BitVec 5 × Nat))
    (addr : Arch → Nat → Nat → Word) : QuietAt s (opVecLoad d p z groups addr) m := by simp [opVecLoad]

@[simp] theorem quiet_captureElems (ew : Nat) (v : Nat → Nat) (xs : List (Nat × Word × Loc)) :
    QuietAt s (captureElems ew v xs) m := by
  induction xs generalizing s m ew v with
  | nil => simp [captureElems]
  | cons x xs ih => simp [captureElems, ih]

@[simp] theorem quiet_opVecStore (d : BitVec 5) (p : BitVec 6) (z : BitVec 2) (groups : Shape → Nat → List (BitVec 5 × Nat))
    (addr : Arch → Nat → Nat → Word) : QuietAt s (opVecStore d p z groups addr) m := by simp [opVecStore]
@[simp] theorem quiet_opVld (d : BitVec 5) (z : BitVec 2) (a p : BitVec 6) (disp : BitVec 16) (off : Word) :
    QuietAt s (opVld d z a p disp off) m := by simp [opVld]
@[simp] theorem quiet_opVst (d : BitVec 5) (z : BitVec 2) (a p : BitVec 6) (disp : BitVec 16) (off : Word) :
    QuietAt s (opVst d z a p disp off) m := by simp [opVst]
@[simp] theorem quiet_opVlds (d : BitVec 5) (z : BitVec 2) (b a p : BitVec 6) (disp : BitVec 16) (off : Word) :
    QuietAt s (opVlds d z b a p disp off) m := by simp [opVlds]
@[simp] theorem quiet_opVsts (d : BitVec 5) (z : BitVec 2) (b a p : BitVec 6) (disp : BitVec 16) (off : Word) :
    QuietAt s (opVsts d z b a p disp off) m := by simp [opVsts]
@[simp] theorem quiet_opVgath (d : BitVec 5) (z : BitVec 2) (a : BitVec 6) (ig : BitVec 1) (iw : BitVec 2) (p : BitVec 6)
    (c : BitVec 5) (disp : BitVec 16) (off : Word) : QuietAt s (opVgath d z a ig iw p c disp off) m := by simp [opVgath]
@[simp] theorem quiet_opVscat (d : BitVec 5) (z : BitVec 2) (a : BitVec 6) (ig : BitVec 1) (iw : BitVec 2) (p : BitVec 6)
    (c : BitVec 5) (disp : BitVec 16) (off : Word) : QuietAt s (opVscat d z a ig iw p c disp off) m := by simp [opVscat]

@[simp] theorem quiet_needRange (cause : Nat) (a n : Word) : QuietAt s (needRange cause a n) m := by
  simp only [needRange, quiet_throw_bind, quiet_ite, implies_true, true_and]
  split <;> simp

@[simp] theorem quiet_pieceLeaf (k : Access) (cause a n : Nat) : QuietAt s (pieceLeaf k cause a n) m := by
  simp only [pieceLeaf, quiet_get_bind, quiet_throw_bind, quiet_bind, quiet_ite, quiet_leafOf, quiet_onThread, implies_true,
    true_and]
  intros
  split <;> simp

@[simp] theorem quiet_piecesLines (k : Access) (cause : Nat) (xs : List (Nat × Nat)) :
    QuietAt s (piecesLines k cause xs) m := by
  induction xs generalizing s m k cause with
  | nil => simp [piecesLines]
  | cons x xs ih => simp [piecesLines, ih]

@[simp] theorem quiet_rangeLines (k : Access) (cause : Nat) (a n : Word) : QuietAt s (rangeLines k cause a n) m := by
  simp [rangeLines]

@[simp] theorem quiet_fifoBank (a : BitVec 6) (disp : BitVec 16) : QuietAt s (fifoBank a disp) m := by simp [fifoBank]

@[simp] theorem quiet_opFpop (d b a : BitVec 6) (disp : BitVec 16) : QuietAt s (opFpop d b a disp) m := by
  simp only [opFpop, quiet_get_bind, quiet_bind, quiet_fifoBank, quiet_noteWrite, implies_true]
  intros
  split <;> simp

/-! ### Atomics and guards -/

@[simp] theorem quiet_locateAtom (k : Access) (va : Word) (edge : Bool) : QuietAt s (locateAtom k va edge) m := by
  simp [locateAtom]

@[simp] theorem quiet_noteAtomic (l : Loc) : QuietAt s (noteAtomic l) m := by simp [noteAtomic]

@[simp] theorem quiet_opFar (op : FarOp) (n : Nat) (b a : BitVec 6) (disp : BitVec 16) :
    QuietAt s (opFar op n b a disp) m := by
  simp [opFar]

@[simp] theorem quiet_opAtomic (d : BitVec 6) (n : Nat) (va : Mach → Word) (op : Mach → AtomOp) :
    QuietAt s (opAtomic d n va op) m := by simp [opAtomic]
@[simp] theorem quiet_noteGuardTable (write : Bool) : QuietAt s (noteGuardTable write) m := by simp [noteGuardTable]

@[simp] theorem quiet_guardRange_leavesAt (x : Word) (ps : List (Nat × Nat)) : QuietAt s (guardRange.leavesAt x ps) m := by
  induction ps generalizing s m with
  | nil => simp [guardRange.leavesAt]
  | cons p ps ih => simp [guardRange.leavesAt, ih]

@[simp] theorem quiet_guardRange (b a : BitVec 6) : QuietAt s (guardRange b a) m := by
  simp only [guardRange, quiet_get_bind, quiet_throw_bind, quiet_bind, quiet_ite, quiet_notArming, quiet_faultIf,
    quiet_guardRange_leavesAt, implies_true, true_and]
  intros
  split <;> simp

/-! ### Copies -/

@[simp] theorem quiet_roomForCopy : QuietAt s roomForCopy m := by simp [roomForCopy]

@[simp] theorem quiet_locateFirsts (xs : List (Access × Word)) : QuietAt s (locateFirsts xs) m := by
  induction xs generalizing s m with
  | nil => simp [locateFirsts]
  | cons x xs ih => simp [locateFirsts, ih]

@[simp] theorem quiet_needPlaces (ok : Place → Bool) (xs : List (Word × Loc)) : QuietAt s (needPlaces ok xs) m := by
  induction xs generalizing s m ok with
  | nil => simp [needPlaces]
  | cons x xs ih => simp [needPlaces, ih]

@[simp] theorem quiet_needCompletion (m0 : Mach) (c : BitVec 6) :
    QuietAt s (needCompletion m0 c) m := by simp [needCompletion]

@[simp] theorem quiet_alignedCompletion (m0 : Mach) (c : BitVec 6) : QuietAt s (alignedCompletion m0 c) m := by
  simp [alignedCompletion]

@[simp] theorem quiet_copyRanges (n : Nat) (src dst : List (Access × Word)) (c : BitVec 6) :
    QuietAt s (copyRanges n src dst c) m := by
  simp only [copyRanges, quiet_get_bind, quiet_bind, quiet_locateFirsts, quiet_needPlaces, implies_true]
  split <;> simp

@[simp] theorem quiet_emitCopy (kind : CopyKind) (src dst : Word) (len : Nat) (bySrc : Bool) (c : BitVec 6) :
    QuietAt s (emitCopy kind src dst len bySrc c) m := by simp [emitCopy]

@[simp] theorem quiet_opCpyg (d : BitVec 6) (z : BitVec 2) (b a : BitVec 6) (ig : BitVec 1) (iw : BitVec 2) (c : BitVec 6)
    (sc : BitVec 1) : QuietAt s (opCpyg d z b a ig iw c sc) m := by
  simp only [opCpyg, pure_bind, quiet_get_bind, quiet_bind, quiet_notArming, quiet_roomForCopy, quiet_faultIf,
    quiet_needCompletion, quiet_alignedCompletion, quiet_needAligned, quiet_locateFirsts, implies_true]
  intros
  split <;> simp

/-! ### The vector instructions -/

@[simp] theorem quiet_opMask (d : BitVec 3) (f : Arch → Word) : QuietAt s (opMask d f) m := by simp [opMask]
@[simp] theorem quiet_opMaskTo (d : BitVec 6) (f : Arch → Word) : QuietAt s (opMaskTo d f) m := by simp [opMaskTo]
@[simp] theorem quiet_opInt (d : BitVec 5) (t : BitVec 3) (b : BitVec 6) (a : BitVec 5) (vx : BitVec 1) (p : BitVec 6)
    (f : Nat → Nat → Nat → Nat) : QuietAt s (opInt d t b a vx p f) m := by simp [opInt]
@[simp] theorem quiet_opVadd (d : BitVec 5) (t : BitVec 3) (b : BitVec 6) (a : BitVec 5) (sat vx : BitVec 1) (p : BitVec 6) :
    QuietAt s (opVadd d t b a sat vx p) m := by simp [opVadd]
@[simp] theorem quiet_opVsub (d : BitVec 5) (t : BitVec 3) (b : BitVec 6) (a : BitVec 5) (sat vx : BitVec 1) (p : BitVec 6) :
    QuietAt s (opVsub d t b a sat vx p) m := by simp [opVsub]
@[simp] theorem quiet_opVmul (d : BitVec 5) (t : BitVec 3) (b : BitVec 6) (a : BitVec 5) (vx : BitVec 1) (p : BitVec 6) :
    QuietAt s (opVmul d t b a vx p) m := by simp [opVmul]
@[simp] theorem quiet_opVmulh (d : BitVec 5) (t : BitVec 3) (b : BitVec 6) (a : BitVec 5) (vx : BitVec 1) (p : BitVec 6) :
    QuietAt s (opVmulh d t b a vx p) m := by simp [opVmulh]
@[simp] theorem quiet_opVand (d : BitVec 5) (t : BitVec 3) (b : BitVec 6) (a : BitVec 5) (vx : BitVec 1) (p : BitVec 6) :
    QuietAt s (opVand d t b a vx p) m := by simp [opVand]
@[simp] theorem quiet_opVor (d : BitVec 5) (t : BitVec 3) (b : BitVec 6) (a : BitVec 5) (vx : BitVec 1) (p : BitVec 6) :
    QuietAt s (opVor d t b a vx p) m := by simp [opVor]
@[simp] theorem quiet_opVxor (d : BitVec 5) (t : BitVec 3) (b : BitVec 6) (a : BitVec 5) (vx : BitVec 1) (p : BitVec 6) :
    QuietAt s (opVxor d t b a vx p) m := by simp [opVxor]
@[simp] theorem quiet_opVshl (d : BitVec 5) (t : BitVec 3) (b : BitVec 6) (a : BitVec 5) (vx : BitVec 1) (p : BitVec 6) :
    QuietAt s (opVshl d t b a vx p) m := by simp [opVshl]
@[simp] theorem quiet_opVshr (d : BitVec 5) (t : BitVec 3) (b : BitVec 6) (a : BitVec 5) (vx : BitVec 1) (p : BitVec 6) :
    QuietAt s (opVshr d t b a vx p) m := by simp [opVshr]
@[simp] theorem quiet_opVmin (d : BitVec 5) (t : BitVec 3) (b : BitVec 6) (a : BitVec 5) (vx : BitVec 1) (p : BitVec 6) :
    QuietAt s (opVmin d t b a vx p) m := by simp [opVmin]
@[simp] theorem quiet_opVmax (d : BitVec 5) (t : BitVec 3) (b : BitVec 6) (a : BitVec 5) (vx : BitVec 1) (p : BitVec 6) :
    QuietAt s (opVmax d t b a vx p) m := by simp [opVmax]
@[simp] theorem quiet_opVcmp (d t : BitVec 3) (b : BitVec 6) (a : BitVec 5) (vx : BitVec 1) (p : BitVec 6) (k : BitVec 3) :
    QuietAt s (opVcmp d t b a vx p k) m := by simp [opVcmp]
@[simp] theorem quiet_opVsel (d : BitVec 5) (t : BitVec 4) (b a : BitVec 5) (p : BitVec 6) (c : BitVec 3) :
    QuietAt s (opVsel d t b a p c) m := by simp [opVsel]
@[simp] theorem quiet_opVmov (d : BitVec 5) (t : BitVec 4) (b : BitVec 6) (a : BitVec 5) (vx : BitVec 1) (p : BitVec 6) :
    QuietAt s (opVmov d t b a vx p) m := by simp [opVmov]
@[simp] theorem quiet_opVperm (d : BitVec 5) (t : BitVec 4) (b a : BitVec 5) (p : BitVec 6) :
    QuietAt s (opVperm d t b a p) m := by simp [opVperm]
@[simp] theorem quiet_opVslide (d : BitVec 5) (t : BitVec 4) (b : BitVec 6) (a : BitVec 5) (up : BitVec 1) (p : BitVec 6) :
    QuietAt s (opVslide d t b a up p) m := by simp [opVslide]

@[simp] theorem quiet_opVext (d : BitVec 6) (t : BitVec 4) (b : BitVec 6) (a p : BitVec 5) :
    QuietAt s (opVext d t b a p) m := by
  simp [opVext]

@[simp] theorem quiet_opFlt (f : Fmt) (p : BitVec 6) (rm : BitVec 3) (d : BitVec 5) (srcs : List (BitVec 5))
    (op : Arch → Rnd → Nat → Nat × BitVec 5) : QuietAt s (opFlt f p rm d srcs op) m := by simp [opFlt]
@[simp] theorem quiet_opFadd (d : BitVec 5) (t : BitVec 2) (b a : BitVec 5) (rm : BitVec 3) (p : BitVec 6) :
    QuietAt s (opFadd d t b a rm p) m := by simp [opFadd]
@[simp] theorem quiet_opFsub (d : BitVec 5) (t : BitVec 2) (b a : BitVec 5) (rm : BitVec 3) (p : BitVec 6) :
    QuietAt s (opFsub d t b a rm p) m := by simp [opFsub]
@[simp] theorem quiet_opFmul (d : BitVec 5) (t : BitVec 2) (b a : BitVec 5) (rm : BitVec 3) (p : BitVec 6) :
    QuietAt s (opFmul d t b a rm p) m := by simp [opFmul]
@[simp] theorem quiet_opFma (d : BitVec 5) (t : BitVec 2) (b a : BitVec 5) (neg : BitVec 1) (rm : BitVec 3) (p : BitVec 6)
    (c : BitVec 5) : QuietAt s (opFma d t b a neg rm p c) m := by simp [opFma]

@[simp] theorem quiet_opFmin (d : BitVec 5) (t : BitVec 2) (b a : BitVec 5) (p : BitVec 6) :
    QuietAt s (opFmin d t b a p) m := by
  simp [opFmin]

@[simp] theorem quiet_opFmax (d : BitVec 5) (t : BitVec 2) (b a : BitVec 5) (p : BitVec 6) :
    QuietAt s (opFmax d t b a p) m := by
  simp [opFmax]

@[simp] theorem quiet_opFcmp (d : BitVec 3) (t : BitVec 2) (b a : BitVec 5) (p : BitVec 6) (k : BitVec 3) :
    QuietAt s (opFcmp d t b a p k) m := by simp [opFcmp]
@[simp] theorem quiet_opFsgn (d : BitVec 5) (t : BitVec 2) (b a : BitVec 5) (k : BitVec 2) (p : BitVec 6) :
    QuietAt s (opFsgn d t b a k p) m := by simp [opFsgn]
@[simp] theorem quiet_opVred (d : BitVec 6) (t : BitVec 3) (a : BitVec 5) (k : BitVec 3) (p : BitVec 5) :
    QuietAt s (opVred d t a k p) m := by simp [opVred]
@[simp] theorem quiet_opFred (d : BitVec 6) (t k : BitVec 2) (a : BitVec 5) (rm : BitVec 3) (p : BitVec 5) :
    QuietAt s (opFred d t k a rm p) m := by simp [opFred]
@[simp] theorem quiet_opFdot (d : BitVec 6) (t : BitVec 2) (b a : BitVec 5) (rm : BitVec 3) (p : BitVec 5) :
    QuietAt s (opFdot d t b a rm p) m := by simp [opFdot]
@[simp] theorem quiet_opTopn (d : BitVec 5) (t : BitVec 4) (a p c : BitVec 5) (lo : BitVec 1) (n : BitVec 9) :
    QuietAt s (opTopn d t a p c lo n) m := by simp [opTopn]

@[simp] theorem quiet_opRng (d : BitVec 5) (b a : BitVec 6) (sp : BitVec 2) (c : BitVec 6) :
    QuietAt s (opRng d b a sp c) m := by
  simp [opRng]

/-! ### Reductions over vectors and crews -/

@[simp] theorem quiet_locateRun (k : Access) (va : Word) (e n : Nat) : QuietAt s (locateRun k va e n) m := by
  induction n generalizing s m k va e with
  | zero => simp [locateRun]
  | succ n ih => simp [locateRun, ih]

@[simp] theorem quiet_needAll (ok : Loc → Bool) (va : Word) (e : Nat) (xs : List Loc) : QuietAt s (needAll ok va e xs) m := by
  induction xs generalizing s m ok va e with
  | nil => simp [needAll]
  | cons x xs ih => simp [needAll, ih]

@[simp] theorem quiet_locateBlock (va : Word) : QuietAt s (locateBlock va) m := by simp [locateBlock]
@[simp] theorem quiet_blockWord (l : Loc) (va : Word) (o : Nat) : QuietAt s (blockWord l va o) m := by simp [blockWord]

@[simp] theorem quiet_opRdc (t : BitVec 4) (b a : BitVec 6) (vec : Option (BitVec 5 × Nat)) (src : Mach → Word) :
    QuietAt s (opRdc t b a vec src) m := by
  simp only [opRdc, quiet_bind, quiet_roomForCopy, implies_true]
  split <;> simp

/-- A view draws a fresh word at most. -/
theorem sameStore_rdView (s : State) (pa st bits : Nat) : SameStore s (rdView s pa st bits).2 := by
  unfold rdView
  dsimp only
  split
  · exact .refl s
  · split <;> exact ⟨rfl, rfl⟩

@[simp] theorem rdView_mem (s : State) (pa st bits : Nat) :
    (rdView s pa st bits).2.mem = s.mem := (sameStore_rdView s pa st bits).1

@[simp] theorem banksOf_rdView (s : State) (pa st bits : Nat) :
    banksOf (rdView s pa st bits).2.clusters = banksOf s.clusters :=
  (sameStore_rdView s pa st bits).2

@[simp] theorem quiet_rdBlock (a : BitVec 6) : QuietAt s (rdBlock a) m := by
  simp +contextual [rdBlock]

/-! ### Tasks and messages -/

@[simp] theorem quiet_roomForMessage : QuietAt s roomForMessage m := by simp [roomForMessage]
@[simp] theorem quiet_faultOpen (b : Bool) (cause : Nat) : QuietAt s (faultOpen b cause) m := by simp [faultOpen]
@[simp] theorem quiet_needIndex (i : Nat) : QuietAt s (needIndex i) m := by simp [needIndex]

@[simp] theorem quiet_recordBytes (va : Word) (n : Nat) : QuietAt s (recordBytes va n) m := by
  induction n generalizing s m va with
  | zero => simp [recordBytes]
  | succ n ih => simp [recordBytes, ih]

@[simp] theorem quiet_peekTask (va : Word) : QuietAt s (peekTask va) m := by
  refine quiet_tryCatch (by simp) fun e m' _ => ?_
  cases e <;> simp

@[simp] theorem quiet_loadTask (va : Word) : QuietAt s (loadTask va) m := by simp [loadTask]

@[simp] theorem quiet_readTask (va : Word) (bad : Option Word) : QuietAt s (readTask va bad) m := by
  simp only [readTask, quiet_bind, quiet_peekTask, quiet_faultIf, implies_true]
  split <;> simp

@[simp] theorem quiet_opSpawn (atc : BitVec 1) (b a : BitVec 6) (disp : BitVec 16) : QuietAt s (opSpawn atc b a disp) m := by
  simp only [opSpawn, quiet_get_bind, quiet_bind, quiet_notArming, quiet_roomForMessage, quiet_readTask, implies_true]
  intros
  split <;> simp

@[simp] theorem quiet_opCntdec (self : BitVec 1) (b a : BitVec 6) (dec idx : BitVec 8) :
    QuietAt s (opCntdec self b a dec idx) m := by
  simp only [opCntdec, quiet_get_bind, quiet_bind, quiet_notArming, quiet_roomForMessage, quiet_needIndex, implies_true]
  intros
  split <;> simp

@[simp] theorem quiet_noteInbox (tid : Nat) (write : Bool) : QuietAt s (noteInbox tid write) m := by simp [noteInbox]

@[simp] theorem quiet_opSend (d : BitVec 5) (b a : BitVec 6) (cn : BitVec 1) (idx : BitVec 8) :
    QuietAt s (opSend d b a cn idx) m := by
  simp only [opSend, quiet_get_bind, quiet_bind, quiet_roomForMessage, quiet_needGroup, quiet_notArming, implies_true]
  intros
  split <;> simp

@[simp] theorem quiet_opRecv (d : BitVec 5) (b a : BitVec 6) : QuietAt s (opRecv d b a) m := by
  simp only [opRecv, quiet_get_bind, quiet_bind, quiet_needGroup, quiet_notArming, quiet_needVec, quiet_noteInbox, implies_true]
  intros
  split <;> simp

@[simp] theorem quiet_opPostr (a : BitVec 6) (or : Bool) : QuietAt s (opPostr a or) m := by simp [opPostr]

/-! ### Barriers, steps and exchange -/

@[simp] theorem quiet_needDomain (k : Nat) : QuietAt s (needDomain k) m := by
  simp only [needDomain, quiet_get_bind]
  split <;> simp

@[simp] theorem quiet_checkRoutines (va : Word) (n : Nat) : QuietAt s (checkRoutines va n) m := by
  induction n generalizing s m va with
  | zero => simp [checkRoutines]
  | succ n ih =>
    simp only [checkRoutines, quiet_bind, quiet_peekTask, implies_true]
    intros
    split <;> simp [ih]

@[simp] theorem quiet_loadRoutines (va : Word) (n : Nat) : QuietAt s (loadRoutines va n) m := by
  induction n generalizing s m va with
  | zero => simp [loadRoutines]
  | succ n ih => simp [loadRoutines, ih]

@[simp] theorem quiet_readLineAt (l : Loc) (va : Word) : QuietAt s (readLineAt l va) m := by simp [readLineAt]

@[simp] theorem quiet_readLines (ok : Loc → Bool) (va : Word) (n : Nat) : QuietAt s (readLines ok va n) m := by
  induction n generalizing s m ok va with
  | zero => simp [readLines]
  | succ n ih => simp [readLines, ih]

@[simp] theorem quiet_slotFault {α : Type} (reason rec' : Nat) : QuietAt s (slotFault (α := α) reason rec') m := by
  simp [slotFault]

@[simp] theorem quiet_needArming : QuietAt s needArming m := by
  simp only [needArming, quiet_get_bind]
  split <;> simp

@[simp] theorem quiet_needSlot (g : Arming) (r : Nat) (bad : Bool) : QuietAt s (needSlot g r bad) m := by simp [needSlot]
@[simp] theorem quiet_needPasses (x : Slot) (r ownerDie : Nat) : QuietAt s (needPasses x r ownerDie) m := by simp [needPasses]
@[simp] theorem quiet_arm (q : XReq) : QuietAt s (arm q) m := by simp [arm]
@[simp] theorem quiet_selection (g : Arming) (rec' : BitVec 16) (sel : Word) (one : Bool) :
    QuietAt s (selection g rec' sel one) m := by simp [selection]

/-! ### Conversions -/

@[simp] theorem quiet_opConv (t u : Nat) (p : BitVec 6) (d a : BitVec 5) (more : Shape → List (BitVec 5 × Nat))
    (f : Arch → Nat → Nat → Nat × BitVec 5) : QuietAt s (opConv t u p d a more f) m := by simp [opConv]

@[simp] theorem quiet_opConvRnd (t u : Nat) (rm : BitVec 3) (sat : BitVec 1) (p : BitVec 6) (d a : BitVec 5)
    (more : Shape → List (BitVec 5 × Nat)) (f : Arch → Rnd → Nat → Nat → Nat × BitVec 5) :
    QuietAt s (opConvRnd t u rm sat p d a more f) m := by simp [opConvRnd]

@[simp] theorem quiet_opFcvt (d : BitVec 5) (t u : BitVec 4) (a : BitVec 5) (sat : BitVec 1) (rm : BitVec 3) (p : BitVec 6) :
    QuietAt s (opFcvt d t u a sat rm p) m := by simp [opFcvt]
@[simp] theorem quiet_opFcvti (d : BitVec 5) (t u : BitVec 4) (a : BitVec 5) (sat : BitVec 1) (rm : BitVec 3) (p : BitVec 6) :
    QuietAt s (opFcvti d t u a sat rm p) m := by simp [opFcvti]
@[simp] theorem quiet_opIcvtf (d : BitVec 5) (t u : BitVec 4) (a : BitVec 5) (sat : BitVec 1) (rm : BitVec 3) (p : BitVec 6) :
    QuietAt s (opIcvtf d t u a sat rm p) m := by simp [opIcvtf]
@[simp] theorem quiet_opFrint (d : BitVec 5) (t : BitVec 4) (k : BitVec 1) (a : BitVec 5) (rm : BitVec 3) (p : BitVec 6) :
    QuietAt s (opFrint d t k a rm p) m := by simp [opFrint]

@[simp] theorem quiet_opFclass (d : BitVec 5) (t : BitVec 4) (a : BitVec 5) (p : BitVec 6) :
    QuietAt s (opFclass d t a p) m := by
  simp [opFclass]

@[simp] theorem quiet_opFscl (d : BitVec 5) (t : BitVec 4) (k : BitVec 1) (a : BitVec 5) (sat : BitVec 1) (rm : BitVec 3)
    (p : BitVec 6) (c : BitVec 5) : QuietAt s (opFscl d t k a sat rm p c) m := by simp [opFscl]
@[simp] theorem quiet_opFpack (d : BitVec 5) (t : BitVec 4) (a : BitVec 5) (rm : BitVec 3) (p c : BitVec 5) (et : BitVec 4) :
    QuietAt s (opFpack d t a rm p c et) m := by simp [opFpack]
@[simp] theorem quiet_opFunpk (d : BitVec 5) (t : BitVec 4) (a : BitVec 5) (sat : BitVec 1) (rm : BitVec 3) (p : BitVec 6)
    (c : BitVec 5) (et : BitVec 4) : QuietAt s (opFunpk d t a sat rm p c et) m := by simp [opFunpk]

/-! ### The matrix unit -/

@[simp] theorem quiet_needTile (t : Nat) (f64 : Bool) : QuietAt s (needTile t f64) m := by
  simp only [needTile, quiet_get_bind]
  split <;> simp

@[simp] theorem quiet_enqueue (op : LoomOp) : QuietAt s (enqueue op) m := by
  simp +contextual [enqueue]

@[simp] theorem quiet_needPanel (p : Nat) : QuietAt s (needPanel p) m := by simp [needPanel]

@[simp] theorem quiet_needPanels (xs : List Nat) : QuietAt s (needPanels xs) m := by
  induction xs generalizing s m with
  | nil => simp [needPanels]
  | cons x xs ih => simp [needPanels, ih]

@[simp] theorem quiet_leavePanel (p : Nat) (op : PanelOp) : QuietAt s (leavePanel p op) m := by simp [leavePanel]

@[simp] theorem quiet_locateRow (k : Access) (xs : List Word) : QuietAt s (locateRow k xs) m := by
  induction xs generalizing s m k with
  | nil => simp [locateRow]
  | cons x xs ih => simp [locateRow, ih]

@[simp] theorem quiet_locateRows (k : Access) (xs : List (List Word)) : QuietAt s (locateRows k xs) m := by
  induction xs generalizing s m k with
  | nil => simp [locateRows]
  | cons x xs ih => simp [locateRows, ih]

@[simp] theorem quiet_needRows (k : Access) (a st : Word) (count n : Nat) : QuietAt s (needRows k a st count n) m := by
  simp only [needRows, quiet_throw_bind, quiet_bind, quiet_ite, quiet_needVec, quiet_locateRows, implies_true, true_and]
  intros
  split <;> simp

@[simp] theorem quiet_locateWords (k : Access) (xs : List Word) : QuietAt s (locateWords k xs) m := by
  induction xs generalizing s m k with
  | nil => simp [locateWords]
  | cons x xs ih => simp [locateWords, ih]

@[simp] theorem quiet_needRowsLowest (k : Access) (a st : Word) (count n : Nat) :
    QuietAt s (needRowsLowest k a st count n) m := by simp [needRowsLowest]
@[simp] theorem quiet_opMzero (d : BitVec 4) (f : BitVec 1) : QuietAt s (opMzero d f) m := by simp [opMzero]
@[simp] theorem quiet_opLoadPanel (isB : Bool) (d : BitVec 6) (t : BitVec 4) (b a : BitVec 6) (nc : BitVec 2) (tr : BitVec 1)
    (disp : BitVec 16) : QuietAt s (opLoadPanel isB d t b a nc tr disp) m := by simp [opLoadPanel]

@[simp] theorem quiet_opMma (d t : BitVec 4) (b a : BitVec 6) (nc ks : BitVec 2) : QuietAt s (opMma d t b a nc ks) m := by
  simp [opMma]

@[simp] theorem quiet_stepRounding (rm : Nat) : QuietAt s (stepRounding rm) m := by simp [stepRounding]

@[simp] theorem quiet_readDwords (xs : List (Word × Loc)) : QuietAt s (readDwords xs) m := by
  induction xs generalizing s m with
  | nil => simp [readDwords]
  | cons x xs ih => simp [readDwords, ih]

/-! ### The special-function unit -/

@[simp] theorem quiet_opSfu (w : Nat) (p : BitVec 6) (rm : BitVec 3) (d : BitVec 5) (srcs : List (BitVec 5))
    (f : Arch → Rnd → Nat → Nat × BitVec 5) : QuietAt s (opSfu w p rm d srcs f) m := by simp [opSfu]
@[simp] theorem quiet_opFdiv (d : BitVec 5) (t : BitVec 2) (b a : BitVec 5) (rm : BitVec 3) (p : BitVec 6) :
    QuietAt s (opFdiv d t b a rm p) m := by simp [opFdiv]
@[simp] theorem quiet_opFsqrt (d : BitVec 5) (t : BitVec 2) (a : BitVec 5) (rm : BitVec 3) (p : BitVec 6) :
    QuietAt s (opFsqrt d t a rm p) m := by simp [opFsqrt]
@[simp] theorem quiet_opSpecial (fn : SpecialFn) (d : BitVec 5) (t : BitVec 2) (a : BitVec 5) (rm : BitVec 3) (p : BitVec 6) :
    QuietAt s (opSpecial fn d t a rm p) m := by simp [opSpecial]

/-! ### REP -/

@[simp] theorem quiet_repOp (i : Instr) (off : Word) : QuietAt s (repOp i off) m := by
  simp only [repOp]
  split <;> simp

@[simp] theorem quiet_repTarget : QuietAt s repTarget m := by
  simp only [repTarget, quiet_get_bind]
  split <;> simp

@[simp] theorem quiet_opRep (a : BitVec 6) (sts : BitVec 16) : QuietAt s (opRep a sts) m := by
  simp only [opRep, quiet_get_bind, quiet_bind, quiet_repTarget, implies_true]
  intros
  split
  · simp
  · simp only [quiet_bind, quiet_faultIf, implies_true]
    intros
    rw [quiet_ite]
    refine ⟨by simp, fun _ => ?_⟩
    split <;> simp

/-! ### Special registers, gates and commands -/

@[simp] theorem quiet_illegal : QuietAt s illegal m := by simp [illegal]
@[simp] theorem quiet_readVersion : QuietAt s readVersion m := by simp [readVersion]
@[simp] theorem quiet_needFlags (i : Nat) : QuietAt s (needFlags i) m := by simp [needFlags]

@[simp] theorem quiet_opGets (d : BitVec 6) (i : BitVec 10) : QuietAt s (opGets d i) m := by
  simp only [opGets]
  split <;> simp

@[simp] theorem quiet_opSets (i : BitVec 10) (a : BitVec 6) : QuietAt s (opSets i a) m := by
  simp only [opSets, quiet_get_bind]
  split <;> simp

@[simp] theorem quiet_readEntry (pa n : Nat) : QuietAt s (readEntry pa n) m := by
  induction n generalizing s m pa with
  | zero => simp [readEntry]
  | succ n ih =>
    simp only [readEntry, quiet_get_bind]
    split
    · simp
    · simp [ih]

@[simp] theorem quiet_opGate (i : BitVec 10) : QuietAt s (opGate i) m := by
  simp only [opGate, quiet_get_bind, quiet_bind, quiet_notArming, quiet_faultIf, quiet_readEntry, implies_true]
  intros
  split <;> simp

@[simp] theorem quiet_opGret (fail : Option (BitVec 6)) : QuietAt s (opGret fail) m := by simp [opGret]
@[simp] theorem quiet_opIflush (all : Bool) (a : BitVec 6) : QuietAt s (opIflush all a) m := by simp [opIflush]
@[simp] theorem quiet_opTlbinv (k : Nat) (b a : BitVec 6) : QuietAt s (opTlbinv k b a) m := by simp [opTlbinv]
@[simp] theorem quiet_opFreeze (on : Bool) (all : BitVec 1) : QuietAt s (opFreeze on all) m := by simp [opFreeze]

end

/-! ### What becomes of a head -/

section
variable (s : State)

@[simp] theorem record_mem (core kind slot detail no : Nat) : (s.record core kind slot detail no).mem = s.mem := by
  unfold record
  split <;> rfl
@[simp] theorem record_clusters (core kind slot detail no : Nat) :
    (s.record core kind slot detail no).clusters = s.clusters := by
  unfold record
  split <;> rfl
@[simp] theorem stopCrew_mem (crew cause : Nat) (raiser : Option Nat) : (s.stopCrew crew cause raiser).mem = s.mem := by
  unfold stopCrew
  split <;> rfl
@[simp] theorem stopCrew_clusters (crew cause : Nat) (raiser : Option Nat) :
    (s.stopCrew crew cause raiser).clusters = s.clusters := by
  unfold stopCrew
  split <;> rfl
@[simp] theorem nextOf_mem (tid : Nat) (t : Thread) : (nextOf s tid t).2.mem = s.mem := by
  unfold nextOf
  split <;> rfl
@[simp] theorem nextOf_clusters (tid : Nat) (t : Thread) : (nextOf s tid t).2.clusters = s.clusters := by
  unfold nextOf
  split <;> rfl
@[simp] theorem askFreeze_mem (p reason : Nat) : (s.askFreeze p reason).mem = s.mem := rfl
@[simp] theorem askFreeze_clusters (p reason : Nat) : (s.askFreeze p reason).clusters = s.clusters := rfl
@[simp] theorem report_mem (p : Nat) (ring : Option (BitVec 16)) (kind cause vcn l guild crew : Nat) (d2 : Word) :
    (s.report p ring kind cause vcn l guild crew d2).mem = s.mem := rfl
@[simp] theorem report_clusters (p : Nat) (ring : Option (BitVec 16)) (kind cause vcn l guild crew : Nat) (d2 : Word) :
    (s.report p ring kind cause vcn l guild crew d2).clusters = s.clusters := rfl
@[simp] theorem dropUnits_mem (tid : Nat) (cs : List Chunk) : (s.dropUnits tid cs).mem = s.mem := rfl
@[simp] theorem dropUnits_clusters (tid : Nat) (cs : List Chunk) : (s.dropUnits tid cs).clusters = s.clusters := rfl
@[simp] theorem waitedAt_mem (t : Thread) (r : Run) : (s.waitedAt t r).mem = s.mem := by
  unfold waitedAt
  split
  · split <;> rfl
  · rfl
@[simp] theorem waitedAt_clusters (t : Thread) (r : Run) : (s.waitedAt t r).clusters = s.clusters := by
  unfold waitedAt
  split
  · split <;> rfl
  · rfl

/-- Entering the handler, unwinding or stopping the crew: a trap changes the thread, its crew and the recorders. -/
theorem sameStore_takeTrap (tid : Nat) (t : Thread) (cause : Nat) (tval : Word) :
    SameStore s (takeTrap s tid t cause tval) := by
  unfold takeTrap
  dsimp only
  split <;> split <;> split <;> simp

theorem sameStore_faultAt (tid : Nat) (t : Thread) (c : Chunk) (cause : Nat) (tval : Word) :
    SameStore s (faultAt s tid t c cause tval) := by
  unfold faultAt
  dsimp only
  split
  · simp
  · split
    · exact sameStore_takeTrap s tid _ cause tval
    · simp

theorem sameStore_headFault (tid : Nat) (t : Thread) (c : Chunk) (cause : Nat) (tval : Word) :
    SameStore s (headFault s tid t c cause tval) := by
  unfold headFault
  split
  · exact sameStore_faultAt s tid t c cause tval
  · simp

theorem sameStore_stopped (tid : Nat) (t : Thread) (c : Chunk) (e : Stop) : SameStore s (stopped s tid t c e) := by
  unfold stopped
  cases e with
  | fault cause tval => exact sameStore_headFault s tid t c cause tval
  | page cause va =>
    dsimp only
    split
    · exact sameStore_headFault s tid t c cause va
    · simp
  | before =>
    dsimp only
    split <;> simp
  | wait => exact .refl s
  | sleep r => simp

theorem sameStore_unissue (tid : Nat) (e : Stop) : SameStore s (s.unissue tid e) := by
  unfold unissue
  split <;> simp

end

theorem sameStore_retire (m : Mach) (cut : Bool) : SameStore m.st (m.retire cut) := by
  unfold Mach.retire
  dsimp only
  split
  · simp
  · split <;> simp

theorem sameStore_runOp {op : M Unit} (hq : ∀ s m, QuietAt s op m) (s : State) (cut : Bool) (tid : Nat) (t : Thread) :
    SameStore s (runOp s cut tid t op) := by
  have hop : SameStore s (leaves op (Mach.start s tid t)).st := hq s _ (.refl s)
  unfold runOp
  unfold leaves at hop
  split at hop
  · next hr => rw [hr]; exact hop.trans (sameStore_retire _ cut)
  · next e m' hr =>
    rw [hr]
    exact (hop.trans (sameStore_stopped _ tid _ _ e)).trans (sameStore_unissue _ tid e)

theorem sameStore_headStep {op : M Unit} (hq : ∀ s m, QuietAt s op m) (s : State) (cut : Bool) (tid : Nat) (t : Thread)
    (rep : Bool) : SameStore s (headStep s cut tid t rep op) := by
  unfold headStep
  split
  · split
    · simp
    · exact sameStore_headFault s tid t _ 0x10 _
  · exact sameStore_runOp hq s cut tid _

/-- A head whose operation is quiet leaves memory and the banks as they are, whatever becomes of it. -/
theorem sameStore_of_runHeadAs {s s' : State} {rep : Bool} {op : M Unit} (h : runHeadAs s rep op = .next s')
    (hq : ∀ s m, QuietAt s op m) : SameStore s s' := by
  unfold runHeadAs at h
  split at h
  · next tid _ =>
    split at h
    · next t _ =>
      cases h
      exact sameStore_headStep hq { s with issuing := none, cutNow := false } s.cutNow tid t rep
    · cases h
  · cases h

/-- Every instruction but the events and those of a bench is a head, and every head's operation is quiet. -/
theorem sameStore_exec {i : Instr} {s s' : State} (hi : Claims.OfThread i) (h : exec i s = .next s') : SameStore s s' := by
  cases i
  case benchInstruction | epWaitact | epPubobs | epEnd | epInfo | epVer | epRand | epRandh | start | abort | action |
    versionAdvance | lineArrival | issue | commitRequest | commitGrant | signatureDelivery | commitAcknowledgement |
    farAtomicApply | widenScope | fillReply | probe | packetArrival | nack | deterministicTurn | waitaEvaluation |
    pollInterval | watchdog | preciseReexecution | trapDelivery | pageFaultPark | machineCheck | eventRecordWrite |
    engineChunk | linkPayloadAck | drainWrite | loomCommand | panelCommand | panelReady | sfuResult | matrixWaitWake
    | engineWaitWake | reductionWaitWake | contributionArrival | reductionTimeout | taskPop | stealRequest |
    stealBackoff | taskMessageApply | counterDecrement | doorbell | quantumBoundary | slotService | launchPlacement
    | crewEnd | barrierRelease | startJoin | phaseStart | phaseEnd | exchangeChunk | gangStop | stopRecordWrite |
    resumption | snapshotEnd | snapshotRestore | recorderFreeze | waitactReturn | instructionBudget | timeBudget |
    hostRead | hostWrite | hostAtomicop | peerRequest | linkTimeout | linkRefusal | modnumLearn | stopreq | resume |
    pfdeny | tlbcmdPage | tlbcmdGuild | tlbcmdAll | tlbinvComplete | lbrelPlace | lbrelSkip | modcfg |
    foremanRegisterWrite | firmwareUpdate | powerWindow | powerHold | drawMeasurement | thermalHold | thermalStop |
    ageingCheck | patrolScrub | lineCheckMismatch | moduleReset | linkCompletion | backInvalidateAnswer |
    pageWalkEnd | writeBack | snapshotLinkFailure | thermalRelease | firmwareUpdateEnd | shareRestore =>
    exact hi.elim (fun hb => absurd rfl hb) nofun
  all_goals
    exact sameStore_of_runHeadAs h (by simp [
      opWaita, opLd, opSt, opLdx, opStx, opLdp, opStp, opDiscard, opClean, opBankcfg, opBankq, opFpush, opFpeek, opSwait,
      opSwaitTake, opDguard, opDgend, opCpy, opCpys, opCfill, opCstat, opCstatW, opVspan, opRdset, opRdq, opRdqSt, opRdqW,
      opSpawnr, opCntset, opCntsetClr, opInbqN, opInbqRoom, opInbqStray, opLaunch, opTstamp, opBar, opBardom, opSstep, opXph,
      opXmit, opXsel, opXrcv, opXend, opMseed, opMcprs, opMscl, opMdrain, opMacc, opMwait, opMstat, opMstatP, opTret, opSnap])

end Sys2Proof.Machine

namespace Sys2Proof.Claims

/-- Settles O38: a head's operation changes neither memory nor a bank, and what becomes of the head changes neither. -/
theorem threadsWriteNoMemory : Obligations.ThreadsWriteNoMemory := by
  unfold Obligations.ThreadsWriteNoMemory
  intro i s s' hi h
  exact (Machine.sameStore_exec hi h).sameBytes

end Sys2Proof.Claims
end

section

namespace Sys2Proof.Machine

/-! ### What a step executes -/

/-- What a commit brings about at once comes before anything else. -/
theorem step_of_due {s : State} {i : Instr} {rest : List Instr} (h : s.due = i :: rest) :
    step s = exec i { s with due := rest } := by
  simp only [step, h]

/-- An issued thread executes what its fetch buffer holds at its PC. -/
theorem step_of_thread {s : State} {tid : Nat} (hd : s.due = []) (hi : s.issuing = some (.thread tid)) :
    step s = exec (threadInstr s tid) s := by
  simp only [step, hd, hi]

/-- An issued bench core executes the word at its PC. -/
theorem step_of_bench {s : State} {b : Nat} (hd : s.due = []) (hi : s.issuing = some (.bench b)) :
    step s = exec (benchInstr s b) s := by
  simp only [step, hd, hi]

/-- With nothing issued the schedule says what happens, and after which time. -/
theorem step_of_agenda {s : State} {dt : Nat} {a : Act} {rest : List (Nat × Act)} (hd : s.due = []) (hi : s.issuing = none)
    (ha : s.agenda = (dt, a) :: rest) : step s = runAct { s with time := s.time + dt, agenda := rest } a := by
  simp only [step, hd, hi, ha]

/-- With nothing scheduled a nanosecond passes. -/
theorem step_of_idle {s : State} (hd : s.due = []) (hi : s.issuing = none) (ha : s.agenda = []) :
    step s = .next { s with time := s.time + 1 } := by
  simp only [step, hd, hi, ha]

theorem threadInstr_of_thread {s : State} {tid : Nat} {t : Thread} (h : s.thread tid = some t) :
    threadInstr s tid = decode t.headBits := by
  simp only [threadInstr, h]

/-- A scheduled event of a module that runs more than its boot ROM has its own meaning. -/
theorem runAct_event {s : State} {i : Instr} (he : isEvent i = true) (hr : s.upkeep.romOnly = false) :
    runAct s (.event i) = exec i s := by
  simp only [runAct, State.allows, he, hr, Bool.not_false, Bool.true_or, Bool.and_self, if_true]

end Sys2Proof.Machine

namespace Sys2Proof.Claims

open Sys2Proof.Machine

/-- Settles O31, by the five ways a step can begin. -/
theorem stepRunsDecoded : Obligations.StepRunsDecoded := by
  intro s i
  refine ⟨fun rest hd => step_of_due hd, ?thread, ?bench, ?event, step_of_idle⟩
  case thread =>
    intro tid t hd hi ht hw
    rw [step_of_thread hd hi, threadInstr_of_thread ht, hw]
  case bench =>
    intro b hd hi hw
    rw [step_of_bench hd hi, benchInstr, hw]
  case event =>
    intro dt rest hd hi ha he hr
    exact (step_of_agenda hd hi ha).trans (runAct_event he hr)

end Sys2Proof.Claims
end

section

namespace Sys2Proof.Machine

/-! ### The head and the tail in a line -/

/-- The halfword at an even byte of a line. -/
theorem half_of_byte (img : Line) {o k : Nat} (h : 8 * o = 16 * k) : img.toNat / 2 ^ (8 * o) % 65536 = Claims.halfAt img k := by
  rw [h, Claims.halfAt]

/-- The tails before a head, as the sum that the decoder takes. -/
theorem sum_tails_eq_tailsBefore (img : Line) (i : Nat) :
    ((List.range i).map fun k => img.toNat / 2 ^ (8 * (2 + 2 * k)) % 65536 / 256 % 4).sum = Claims.tailsBefore img i := by
  induction i with
  | zero => rfl
  | succ i ih =>
    rw [List.range_succ, List.map_append, List.sum_append, ih, Claims.tailsBefore, List.map_singleton, List.sum_singleton,
      half_of_byte img (k := 1 + i) (by omega)]

/-- The tail halfword k of head i, zero beyond the head's tail length. -/
def tailHalf (img : Line) (i k : Nat) : Nat :=
  if k < Claims.halfAt img (1 + i) / 256 % 4 then Claims.halfAt img (31 - Claims.tailsBefore img i - k) else 0

theorem tailHalf_lt (img : Line) (i k : Nat) : tailHalf img i k < 65536 := by
  unfold tailHalf Claims.halfAt
  split <;> omega

/-- The word of a head: the head and the halfwords of its tail, lowest first. -/
theorem headWord_eq (img : Line) (i : Nat) : headWord img i = BitVec.ofNat 64 (Claims.halfAt img (1 + i) +
    tailHalf img i 0 * 2 ^ 16 + tailHalf img i 1 * 2 ^ 32 + tailHalf img i 2 * 2 ^ 48) := by
  have htail (k : Nat) : img.toNat / 2 ^ (8 * (64 - 2 * Claims.tailsBefore img i - 2 * (k + 1))) % 65536 =
      Claims.halfAt img (31 - Claims.tailsBefore img i - k) := half_of_byte img (by omega)
  unfold headWord
  simp only [sum_tails_eq_tailsBefore, half_of_byte img (o := 2 + 2 * i) (k := 1 + i) (by omega), htail]
  simp only [tailHalf, ite_mul, Nat.zero_mul, Nat.zero_add, Nat.reduceAdd, Nat.reduceMul]

theorem headWord_toNat (img : Line) (i : Nat) : (headWord img i).toNat = Claims.halfAt img (1 + i) +
    tailHalf img i 0 * 2 ^ 16 + tailHalf img i 1 * 2 ^ 32 + tailHalf img i 2 * 2 ^ 48 := by
  have hhead : Claims.halfAt img (1 + i) < 65536 := Nat.mod_lt _ (by decide)
  have h0 := tailHalf_lt img i 0
  have h1 := tailHalf_lt img i 1
  have h2 := tailHalf_lt img i 2
  rw [headWord_eq, BitVec.toNat_ofNat]
  exact Nat.mod_eq_of_lt (by omega)

theorem headBits_of_fetch {t : Thread} {n : Nat} {img : Line} (h : t.fetch = some (n, img)) :
    t.headBits = headWord img (t.arch.pc.toNat % 64) := by
  simp only [Thread.headBits, h]

/-- The head stands in the low halfword of its word. -/
theorem headWord_head (img : Line) (i : Nat) : (headWord img i).toNat % 65536 = Claims.halfAt img (1 + i) := by
  have hhead : Claims.halfAt img (1 + i) < 65536 := Nat.mod_lt _ (by decide)
  rw [headWord_toNat]
  omega

/-- The tail stands above it, halfword by halfword. -/
theorem headWord_tail (img : Line) (i : Nat) {k : Nat} (hk : k < 3) :
    (headWord img i).toNat / 2 ^ (16 * (k + 1)) % 65536 = tailHalf img i k := by
  have hhead : Claims.halfAt img (1 + i) < 65536 := Nat.mod_lt _ (by decide)
  have h0 := tailHalf_lt img i 0
  have h1 := tailHalf_lt img i 1
  have h2 := tailHalf_lt img i 2
  rw [headWord_toNat]
  match k, hk with
  | 0, _ => omega
  | 1, _ => omega
  | 2, _ => omega

end Sys2Proof.Machine

namespace Sys2Proof.Claims

open Sys2Proof.Machine

/-- Settles O32: the word of a head is its halfword with those of its tail above it. -/
theorem headAndTail : Obligations.HeadAndTail := by
  intro t n img hf i tl _ _
  rw [headBits_of_fetch hf]
  exact ⟨headWord_head img i, fun k hk => headWord_tail img i hk⟩

end Sys2Proof.Claims
end

section

namespace Sys2Proof.Laws.RoundTrip

/-- Every instruction's encoding, where it has one, is read back: each constructor by its own lemma. -/
theorem statement : ∀ i : Instr, Statement i
  | .j .. => j .. | .jl .. => jl .. | .jr .. => jr .. | .jlr .. => jlr .. | .beq .. => beq .. | .bne .. => bne ..
  | .blt .. => blt .. | .bge .. => bge .. | .bltu .. => bltu .. | .bgeu .. => bgeu .. | .bz .. => bz .. | .bnz .. => bnz ..
  | .bmany .. => bmany .. | .bmnone .. => bmnone .. | .bmall .. => bmall .. | .waita .. => waita .. | .add .. => add ..
  | .sub .. => sub .. | .addi .. => addi .. | .mul .. => mul .. | .mulh .. => mulh .. | .mulhu .. => mulhu ..
  | .div .. => div .. | .divu .. => divu .. | .rem .. => rem .. | .remu .. => remu .. | .and .. => and .. | .or .. => or ..
  | .xor .. => xor .. | .andi .. => andi .. | .ori .. => ori .. | .xori .. => xori .. | .shl .. => shl .. | .shr .. => shr ..
  | .sha .. => sha .. | .shli .. => shli .. | .shri .. => shri .. | .shai .. => shai .. | .rol .. => rol ..
  | .roli .. => roli .. | .slt .. => slt .. | .sltu .. => sltu .. | .slti .. => slti .. | .min .. => min .. | .max .. => max ..
  | .minu .. => minu .. | .maxu .. => maxu .. | .sel .. => sel .. | .li .. => li .. | .lih .. => lih .. | .addpc .. => addpc ..
  | .clz .. => clz .. | .ctz .. => ctz .. | .popc .. => popc .. | .brev .. => brev .. | .bswap .. => bswap ..
  | .ilv .. => ilv .. | .dilv .. => dilv .. | .ext .. => ext .. | .ins .. => ins .. | .addsh .. => addsh ..
  | .madd .. => madd .. | .ld .. => ld .. | .st .. => st .. | .ldx .. => ldx .. | .stx .. => stx .. | .ldp .. => ldp ..
  | .stp .. => stp .. | .vld .. => vld .. | .vst .. => vst .. | .vlds .. => vlds .. | .vsts .. => vsts ..
  | .vgath .. => vgath .. | .vscat .. => vscat .. | .pref .. => pref .. | .discard .. => discard .. | .clean .. => clean ..
  | .bankcfg .. => bankcfg .. | .bankq .. => bankq .. | .fpush .. => fpush .. | .fpop .. => fpop .. | .fpeek .. => fpeek ..
  | .aadd .. => aadd .. | .aand .. => aand .. | .aor .. => aor .. | .axor .. => axor .. | .amin .. => amin ..
  | .amax .. => amax .. | .afadd .. => afadd .. | .xadd .. => xadd .. | .xchg .. => xchg .. | .cas .. => cas ..
  | .swait .. => swait .. | .swaitTake .. => swaitTake .. | .spost .. => spost .. | .dguard .. => dguard ..
  | .dgend .. => dgend .. | .fcvt .. => fcvt .. | .fcvti .. => fcvti .. | .icvtf .. => icvtf .. | .fpack .. => fpack ..
  | .funpk .. => funpk .. | .fscl .. => fscl .. | .fclass .. => fclass .. | .frint .. => frint .. | .rep .. => rep ..
  | .vspan .. => vspan .. | .mmov .. => mmov .. | .mmovFx .. => mmovFx .. | .mmovTx .. => mmovTx .. | .mmovSp .. => mmovSp ..
  | .mand .. => mand .. | .mor .. => mor .. | .mxor .. => mxor .. | .mnot .. => mnot .. | .mpop .. => mpop ..
  | .mfirst .. => mfirst .. | .vadd .. => vadd .. | .vsub .. => vsub .. | .vmul .. => vmul .. | .vmulh .. => vmulh ..
  | .vand .. => vand .. | .vor .. => vor .. | .vxor .. => vxor .. | .vshl .. => vshl .. | .vshr .. => vshr ..
  | .vmin .. => vmin .. | .vmax .. => vmax .. | .vcmp .. => vcmp .. | .vsel .. => vsel .. | .vmov .. => vmov ..
  | .vperm .. => vperm .. | .vslide .. => vslide .. | .fadd .. => fadd .. | .fsub .. => fsub .. | .fmul .. => fmul ..
  | .fma .. => fma .. | .fdiv .. => fdiv .. | .fsqrt .. => fsqrt .. | .fmin .. => fmin .. | .fmax .. => fmax ..
  | .fcmp .. => fcmp .. | .fsgn .. => fsgn .. | .vred .. => vred .. | .fred .. => fred .. | .fdot .. => fdot ..
  | .fexp .. => fexp .. | .flog .. => flog .. | .frcp .. => frcp .. | .frsq .. => frsq .. | .fsin .. => fsin ..
  | .fcos .. => fcos .. | .ftanh .. => ftanh .. | .topn .. => topn .. | .rng .. => rng .. | .vext .. => vext ..
  | .mzero .. => mzero .. | .mlda .. => mlda .. | .mldb .. => mldb .. | .mseed .. => mseed .. | .mma .. => mma ..
  | .mscl .. => mscl .. | .mdrain .. => mdrain .. | .mwait .. => mwait .. | .mstat .. => mstat .. | .mstatP .. => mstatP ..
  | .mcprs .. => mcprs .. | .macc .. => macc .. | .cpy .. => cpy .. | .cpys .. => cpys .. | .cpyg .. => cpyg ..
  | .cfill .. => cfill .. | .cstat .. => cstat .. | .cstatW .. => cstatW .. | .rdset .. => rdset .. | .rdc .. => rdc ..
  | .rdcMem .. => rdcMem .. | .rdq .. => rdq .. | .rdqSt .. => rdqSt .. | .rdqW .. => rdqW .. | .spawn .. => spawn ..
  | .spawnr .. => spawnr .. | .cntset .. => cntset .. | .cntsetClr .. => cntsetClr .. | .cntdec .. => cntdec ..
  | .send .. => send .. | .recv .. => recv .. | .inbqN .. => inbqN .. | .inbqRoom .. => inbqRoom ..
  | .inbqStray .. => inbqStray .. | .launch .. => launch .. | .postr .. => postr .. | .postrOr .. => postrOr ..
  | .tstamp .. => tstamp .. | .bar .. => bar .. | .bardom .. => bardom .. | .xph .. => xph .. | .xmit .. => xmit ..
  | .xsel .. => xsel .. | .xrcv .. => xrcv .. | .sstep .. => sstep .. | .gate .. => gate .. | .gretFail .. => gretFail ..
  | .trap .. => trap .. | .gets .. => gets .. | .sets .. => sets .. | .brk .. => brk .. | .iflush .. => iflush ..
  | .iflushAll .. => iflushAll .. | .tlbinvPage .. => tlbinvPage .. | .tlbinvGuild .. => tlbinvGuild ..
  | .tlbinvAll .. => tlbinvAll .. | .mark .. => mark .. | .snap .. => snap .. | .freeze .. => freeze .. | .thaw .. => thaw ..
  | .illegalOpcode .. => illegalOpcode .. | .benchInstruction .. => benchInstruction .. | .epWaitact .. => epWaitact ..
  | .epPubobs .. => epPubobs .. | .epEnd .. => epEnd .. | .epInfo .. => epInfo .. | .epVer .. => epVer ..
  | .epRand .. => epRand .. | .epRandh .. => epRandh .. | .start .. => start .. | .abort .. => abort ..
  | .action .. => action .. | .versionAdvance .. => versionAdvance .. | .lineArrival .. => lineArrival ..
  | .issue .. => issue .. | .commitRequest .. => commitRequest .. | .commitGrant .. => commitGrant ..
  | .signatureDelivery .. => signatureDelivery .. | .commitAcknowledgement .. => commitAcknowledgement ..
  | .farAtomicApply .. => farAtomicApply .. | .widenScope .. => widenScope .. | .fillReply .. => fillReply ..
  | .probe .. => probe .. | .packetArrival .. => packetArrival .. | .nack .. => nack ..
  | .deterministicTurn .. => deterministicTurn .. | .waitaEvaluation .. => waitaEvaluation ..
  | .pollInterval .. => pollInterval .. | .watchdog .. => watchdog .. | .preciseReexecution .. => preciseReexecution ..
  | .trapDelivery .. => trapDelivery .. | .pageFaultPark .. => pageFaultPark .. | .machineCheck .. => machineCheck ..
  | .eventRecordWrite .. => eventRecordWrite .. | .engineChunk .. => engineChunk .. | .linkPayloadAck .. => linkPayloadAck ..
  | .drainWrite .. => drainWrite .. | .loomCommand .. => loomCommand .. | .panelCommand .. => panelCommand ..
  | .panelReady .. => panelReady .. | .sfuResult .. => sfuResult .. | .matrixWaitWake .. => matrixWaitWake ..
  | .engineWaitWake .. => engineWaitWake .. | .reductionWaitWake .. => reductionWaitWake ..
  | .contributionArrival .. => contributionArrival .. | .reductionTimeout .. => reductionTimeout .. | .taskPop .. => taskPop ..
  | .stealRequest .. => stealRequest .. | .stealBackoff .. => stealBackoff .. | .taskMessageApply .. => taskMessageApply ..
  | .counterDecrement .. => counterDecrement .. | .doorbell .. => doorbell .. | .quantumBoundary .. => quantumBoundary ..
  | .slotService .. => slotService .. | .launchPlacement .. => launchPlacement .. | .crewEnd .. => crewEnd ..
  | .barrierRelease .. => barrierRelease .. | .startJoin .. => startJoin .. | .phaseStart .. => phaseStart ..
  | .phaseEnd .. => phaseEnd .. | .exchangeChunk .. => exchangeChunk .. | .gangStop .. => gangStop ..
  | .stopRecordWrite .. => stopRecordWrite .. | .resumption .. => resumption .. | .snapshotEnd .. => snapshotEnd ..
  | .snapshotRestore .. => snapshotRestore .. | .recorderFreeze .. => recorderFreeze .. | .waitactReturn .. => waitactReturn ..
  | .instructionBudget .. => instructionBudget .. | .timeBudget .. => timeBudget .. | .hostRead .. => hostRead ..
  | .hostWrite .. => hostWrite .. | .hostAtomicop .. => hostAtomicop .. | .peerRequest .. => peerRequest ..
  | .linkTimeout .. => linkTimeout .. | .linkRefusal .. => linkRefusal .. | .modnumLearn .. => modnumLearn ..
  | .stopreq .. => stopreq .. | .resume .. => resume .. | .pfdeny .. => pfdeny .. | .tlbcmdPage .. => tlbcmdPage ..
  | .tlbcmdGuild .. => tlbcmdGuild .. | .tlbcmdAll .. => tlbcmdAll .. | .tlbinvComplete .. => tlbinvComplete ..
  | .lbrelPlace .. => lbrelPlace .. | .lbrelSkip .. => lbrelSkip .. | .modcfg .. => modcfg ..
  | .foremanRegisterWrite .. => foremanRegisterWrite .. | .firmwareUpdate .. => firmwareUpdate ..
  | .powerWindow .. => powerWindow .. | .powerHold .. => powerHold .. | .drawMeasurement .. => drawMeasurement ..
  | .thermalHold .. => thermalHold .. | .thermalStop .. => thermalStop .. | .ageingCheck .. => ageingCheck ..
  | .patrolScrub .. => patrolScrub .. | .lineCheckMismatch .. => lineCheckMismatch .. | .moduleReset .. => moduleReset ..
  | .linkCompletion .. => linkCompletion .. | .backInvalidateAnswer .. => backInvalidateAnswer ..
  | .pageWalkEnd .. => pageWalkEnd .. | .writeBack .. => writeBack .. | .snapshotLinkFailure .. => snapshotLinkFailure ..
  | .thermalRelease .. => thermalRelease .. | .firmwareUpdateEnd .. => firmwareUpdateEnd .. | .nop => nop | .cut => cut
  | .yield => yield | .exit => exit | .hsync => hsync | .xend => xend | .gret => gret | .tret => tret | .halt => halt
  | .shareRestore => shareRestore

end Sys2Proof.Laws.RoundTrip

namespace Sys2Proof.Claims

/-- Settles O34, by the round trip of each instruction. -/
theorem encodingRoundTrip : Obligations.EncodingRoundTrip :=
  Laws.RoundTrip.statement

end Sys2Proof.Claims
end

section

namespace Sys2Proof.Claims

open Sys2Proof.Machine

/-! ### How an issued head ends -/

section
variable {s : State} {tid : Nat} {t : Thread} {i : Instr} {op : M Unit}

/-- A head whose operation answers from what it finds retires what the operation leaves. -/
theorem Begins.retires {m : Mach} (hb : Begins s tid t) (he : exec i s = runHead s op)
    (h : op.run (found s tid t) = .ok () m) : Retires i s m := by
  obtain ⟨hi, t0, ht, hw, rfl⟩ := hb
  exact he.trans (runHead_ok hi ht hw h)

/-- A head whose operation stops with nothing done leaves what the stop makes of the thread that it found. -/
theorem Begins.stops {e : Stop} (hb : Begins s tid t) (he : exec i s = runHead s op)
    (h : op.run (found s tid t) = .error e (found s tid t)) :
    exec i s = .next ((stopped (here s) tid t (t.current (here s)) e).unissue tid e) := by
  obtain ⟨hi, t0, ht, hw, hclear⟩ := hb
  have hstop := runHead_error hi ht hw (hclear ▸ h)
  rw [← hclear] at hstop
  exact he.trans hstop

/-- A fault of the first head of a chunk, with nothing older in flight and at the thread's turn, is taken (R366). -/
theorem stopped_fault_of_first (hf : First s t) (ho : t.older = []) (hn : TakesNow t) (cause : Nat) (v : Word) :
    stopped (here s) tid t (t.current (here s)) (.fault cause v) = takeTrap (here s) tid { t with chunks := [] } cause v := by
  have hturn : t.atTurn = true := by
    obtain hd | hp := hn
    · simp [Thread.atTurn, hd]
    · simp [Thread.atTurn, hp]
  have hcount : ¬ 0 < (t.current (here s)).count := Nat.not_lt.mpr (Nat.le_of_eq hf)
  simp [stopped, headFault, faultAt, hturn, hcount, ho]

/-- Such a head traps at once where its operation faults with nothing done. -/
theorem Begins.traps (hb : Begins s tid t) (hf : First s t) (ho : t.older = []) (hn : TakesNow t) {cause : Nat} {v : Word}
    (he : exec i s = runHead s op) (h : op.run (found s tid t) = .error (.fault cause v) (found s tid t)) :
    exec i s = .next (takeTrap (here s) tid { t with chunks := [] } cause v) := by
  rw [hb.stops he h, stopped_fault_of_first hf ho hn, unissue_of_ne (by simp)]

/-- A head whose operation waits with nothing done has not issued (R71). -/
theorem Begins.waits (hb : Begins s tid t) (he : exec i s = runHead s op)
    (h : op.run (found s tid t) = .error .wait (found s tid t)) : exec i s = .next (notIssued s tid) :=
  hb.stops he h

/-- Outside an arming a head passes the check of R351. -/
theorem Free.run_notArming (h : Free t) : notArming.run (found s tid t) = .ok () (found s tid t) :=
  Machine.run_notArming h

end

/-! ### TRAP, BRK, illegal heads and TRET -/

/-- A fault behind the check of R351 is what a head that is not arming stops with. -/
theorem Free.run_throw {s : State} {tid : Nat} {t : Thread} (h : Free t) (e : Stop) :
    (notArming >>= fun _ => (throw e : M Unit)).run (found s tid t) = .error e (found s tid t) :=
  run_bind_ok h.run_notArming

theorem faultingHeads : FaultingHeads := by
  intro s tid t n tl w hb hf ho hn
  refine ⟨fun ha => ⟨?trap, ?brk⟩, ?illegal⟩
  case trap =>
    refine hb.traps hf ho hn (op := notArming >>= fun _ => throw (.fault 0x15 (BitVec.ofNat 64 n.toNat))) ?_ (ha.run_throw _)
    rw [BitVec.ofNat_toNat]
    rfl
  case brk => exact hb.traps hf ho hn rfl (ha.run_throw _)
  case illegal => exact hb.traps hf ho hn rfl rfl

/-- TRET at handler level with an admissible saved status (R370). -/
theorem run_opTret {m : Mach} (ha : m.ar.arming = none) (hl : m.ar.level = true)
    (hs : tstatOk m.ar ((m.crew.map Crew.det).getD false) = true) :
    opTret.run m = .ok () { m with
      ar := { m.ar with status := m.ar.tstat, repst := m.ar.trepst, trepst := 0 }
      npc := m.ar.tpc, th := m.th.enterLine, fin := some .tret } := by
  unfold opTret
  rw [run_bind_ok (run_notArming ha), run_bind_ok (run_get m), hl, hs]
  rfl

theorem tretResults : TretResults := fun _ _ _ hb ha hl hs =>
  hb.retires rfl (run_opTret ha hl hs)

/-- Settles O28: the faulting heads trap at once, TRET retires with the saved registers. -/
theorem trapResults : Obligations.TrapResults := ⟨faultingHeads, tretResults⟩

end Sys2Proof.Claims
end

section

namespace Sys2Proof.Machine

/-! ### What a system register admits and takes (R57, R58, R371) -/

/-- The high bits of a word are zero where the word is small. -/
theorem field_top_eq_zero_iff (v : Word) {lo len : Nat} (h : lo + len = 64) : field v lo len = 0 ↔ v.toNat < 2 ^ lo := by
  have hv : v.toNat / 2 ^ lo < 2 ^ len := by
    rw [Nat.div_lt_iff_lt_mul (Nat.two_pow_pos lo), ← Nat.pow_add, Nat.add_comm, h]
    exact v.isLt
  rw [field, Nat.mod_eq_of_lt hv, Nat.div_eq_zero_iff_lt (Nat.two_pow_pos lo)]

/-- The registers that SETS may write at all, but for pfdeny. -/
def writableRegs : List Nat := [0x006, 0x008, 0x00A, 0x00B] ++ Claims.trapRegNos ++ [0x020, 0x040]

/-- SETS writes the value where the register admits it. -/
theorem srSet_eq (a : Arch) (v : Word) {n : Nat} (h : n ∈ writableRegs) :
    Claims.srSet a n v = if srAdmits n v then some (a.srWrite n v) else none := by
  revert n
  unfold writableRegs Claims.trapRegNos
  simp only [List.cons_append, List.nil_append, List.forall_mem_cons]
  refine ⟨?repst, ?fps, rfl, rfl, rfl, ?tcause, rfl, rfl, rfl, rfl, rfl, ?gtb, ?wdlimit, List.forall_mem_nil _⟩
  case repst =>
    simp only [Claims.srSet, srAdmits, field_top_eq_zero_iff v (lo := 49) (len := 15) rfl, decide_eq_true_eq]
    rfl
  case fps =>
    have hrounding : field v 5 3 = v.toNat / 32 % 8 := rfl
    simp only [Claims.srSet, srAdmits, field_top_eq_zero_iff v (lo := 9) (len := 55) rfl, hrounding, Bool.and_eq_true,
      decide_eq_true_eq]
    rfl
  case tcause =>
    have hlow : zextN v 6 = BitVec.ofNat 64 (v.toNat % 64) := by
      apply BitVec.eq_of_toNat_eq
      simp [zextN]
    simp only [Claims.srSet, srAdmits, Arch.srWrite, hlow]
    rfl
  case gtb =>
    have hzero : field v 10 2 = v.toNat / 2 ^ 10 % 4 := rfl
    simp only [Claims.srSet, srAdmits, field_top_eq_zero_iff v (lo := 57) (len := 7) rfl, hzero, Bool.and_eq_true,
      decide_eq_true_eq]
    rfl
  case wdlimit =>
    simp only [Claims.srSet, srAdmits, field_top_eq_zero_iff v (lo := 48) (len := 16) rfl, decide_eq_true_eq]
    rfl

/-! ### The class of a system register (R57, R362) -/

theorem srClass_of_mem_openRegs : ∀ n ∈ Claims.openRegs, srClass n = some .r ∨ srClass n = some .rw := by decide
theorem srClass_of_mem_trapRegNos : ∀ n ∈ Claims.trapRegNos, srClass n = some .t := by decide
theorem srClass_of_mem_privileged : ∀ n ∈ [0x020, 0x040, 0x042], srClass n = some .p := by decide
theorem srClass_of_mem_checkpoint : ∀ n ∈ [0x006, 0x008, 0x00A, 0x00B], srClass n = some .rw := by decide
theorem srClass_of_mem_readOnly : ∀ n ∈ [0x000, 0x001, 0x002, 0x003, 0x004, 0x005, 0x007, 0x009, 0x017, 0x021, 0x030, 0x041, 0x050],
    srClass n = some .r := by decide

theorem srClass_isSome_of_mem_writableRegs : ∀ n ∈ writableRegs, (srClass n).isSome = true := by decide

/-- The registers that refuse some values are among those that SETS may write. -/
theorem restrictedRegs_subset : [0x006, 0x008, 0x020, 0x040] ⊆ writableRegs := by decide

theorem srClass_of_not_mem {n : Nat} (h : n ∉ Claims.openRegs ++ Claims.trapRegNos ++ [0x020, 0x030, 0x040, 0x042]) :
    srClass n = none := by
  simp only [Claims.openRegs, Claims.trapRegNos, List.cons_append, List.nil_append, List.mem_cons, List.not_mem_nil, or_false,
    not_or] at h
  rw [srClass, if_neg (by omega), if_neg (by omega), if_neg (by omega), if_neg (by omega), if_neg (by omega)]

/-! ### GETS and SETS, part by part -/

/-- What GETS and SETS check once the register has a class and admits the value, before what they do. -/
def srChecks (m : Mach) (c : SrClass) (n : Nat) (p : M Unit) : M Unit := do
  need (srMay m c) 0x17 m.headOnly
  notArming
  needFlags n
  p

theorem run_srChecks_denied {m : Mach} {c : SrClass} (hm : srMay m c = false) (n : Nat) (p : M Unit) :
    (srChecks m c n p).run m = .error (.fault 0x17 m.headOnly) m := by
  rw [srChecks, hm, run_bind_error (run_need_false _ _ m)]

theorem run_readVersion {m m1 : Mach} {bs : List Byte}
    (h : (readAt { pa := versionPa m.part, place := .bench 0 0x4000 } 0 4).run m = .ok bs m1) :
    readVersion.run m = .ok (ofBytes bs) m1 := by
  rw [readVersion, run_bind_ok (run_get m), run_bind_ok h]
  rfl

/-- What GETS does with a register that it may read. -/
def getsRead (d : BitVec 6) (n : Nat) (m : Mach) : M Unit := do
  if n = 0x030 then
    let v ← readVersion
    setX d (BitVec.ofNat 64 v)
  else setX d (srRead m n)

section
variable {m : Mach} {c : SrClass} {i : BitVec 10} (d a : BitVec 6)

theorem run_opGets (hc : srClass i.toNat = some c) :
    (opGets d i).run m = (srChecks m c i.toNat (getsRead d i.toNat m)).run m := by
  rw [opGets, hc]
  exact run_bind_ok (run_get m)

theorem run_opGets_illegal (hc : srClass i.toNat = none) : (opGets d i).run m = .error (.fault 0x02 m.th.headBits) m := by
  rw [opGets, hc]
  rfl

/-- What SETS does with a register that it may write. -/
def setsWrite (n : Nat) (v : Word) : M Unit := if n = 0x042 then emit (.pfdeny v) else onArch fun ar => ar.srWrite n v

theorem run_opSets (hc : srClass i.toNat = some c) (hr : c ≠ .r) (hv : srAdmits i.toNat (m.ar.getX a) = true) :
    (opSets i a).run m = (srChecks m c i.toNat (setsWrite i.toNat (m.ar.getX a))).run m := by
  rw [opSets, run_bind_ok (run_get m), hc]
  cases c with
  | r => exact absurd rfl hr
  | rw | t | p => simp only [hv]; rfl

theorem run_opSets_illegal (h : srClass i.toNat = none ∨ srClass i.toNat = some .r) :
    (opSets i a).run m = .error (.fault 0x02 m.th.headBits) m := by
  rw [opSets, run_bind_ok (run_get m)]
  obtain h | h := h <;> rw [h] <;> rfl

/-- A value that the register does not admit comes before the right to it. -/
theorem run_opSets_not_admitted (hc : srClass i.toNat = some c) (hv : srAdmits i.toNat (m.ar.getX a) = false) :
    (opSets i a).run m = .error (.fault 0x02 m.th.headBits) m := by
  rw [opSets, run_bind_ok (run_get m), hc]
  cases c with
  | r => rfl
  | rw | t | p => simp only [hv]; rfl

end

end Sys2Proof.Machine

namespace Sys2Proof.Claims

open Sys2Proof.Machine

section
variable {s : State} {tid : Nat} {t : Thread} {n : Nat}

/-! ### What a thread may read and write (R57) -/

theorem srMay_found_t : srMay (found s tid t) .t = true ↔ t.arch.status.getLsbD 0 = true ∨ SysGuild s t :=
  Bool.or_eq_true_iff

theorem srMay_found_p : srMay (found s tid t) .p = true ↔ SysGuild s t := Iff.rfl

theorem MayRead.exists_class (h : MayRead s t n) : ∃ c, srClass n = some c ∧ srMay (found s tid t) c = true := by
  obtain hopen | ⟨hmem, hright⟩ | ⟨hmem, hsys⟩ := h
  · obtain hc | hc := srClass_of_mem_openRegs n hopen
    · exact ⟨.r, hc, rfl⟩
    · exact ⟨.rw, hc, rfl⟩
  · exact ⟨.t, srClass_of_mem_trapRegNos n hmem, srMay_found_t.mpr hright⟩
  · exact ⟨.p, srClass_of_mem_privileged n (List.mem_append_left [0x042] hmem), srMay_found_p.mpr hsys⟩

theorem MayWrite.exists_class (h : MayWrite s t n) :
    ∃ c, srClass n = some c ∧ c ≠ .r ∧ srMay (found s tid t) c = true := by
  obtain hmem | ⟨hmem, hright⟩ | ⟨hmem, hsys⟩ := h
  · exact ⟨.rw, srClass_of_mem_checkpoint n hmem, by decide, rfl⟩
  · exact ⟨.t, srClass_of_mem_trapRegNos n hmem, by decide, srMay_found_t.mpr hright⟩
  · exact ⟨.p, srClass_of_mem_privileged n (List.mem_append_left [0x042] hmem), by decide, srMay_found_p.mpr hsys⟩

/-- A register of a handler or of the system that the thread has no right to. -/
theorem exists_class_denied
    (h : n ∈ trapRegNos ∧ t.arch.status.getLsbD 0 = false ∨ n ∈ [0x020, 0x040, 0x042]) (hs : ¬ SysGuild s t) :
    ∃ c, srClass n = some c ∧ c ≠ .r ∧ srMay (found s tid t) c = false := by
  obtain ⟨hmem, hlevel⟩ | hmem := h
  · refine ⟨.t, srClass_of_mem_trapRegNos n hmem, by decide, Bool.eq_false_iff.mpr fun hm => ?_⟩
    obtain hl | hsys := srMay_found_t.mp hm
    · exact absurd (hlevel.symm.trans hl) (by decide)
    · exact hs hsys
  · exact ⟨.p, srClass_of_mem_privileged n hmem, by decide, Bool.eq_false_iff.mpr fun hm => hs (srMay_found_p.mp hm)⟩

theorem MayWrite.mem_writableRegs (h : MayWrite s t n) : n ∈ writableRegs := by
  obtain hmem | ⟨hmem, -⟩ | ⟨hmem, -⟩ := h
  · exact List.mem_append_left _ (List.mem_append_left _ hmem)
  · exact List.mem_append_left _ (List.mem_append_right _ hmem)
  · exact List.mem_append_right _ hmem

/-- pfdeny is none of the registers that SETS writes in the checkpoint. -/
theorem ne_pfdeny_of_mem_writableRegs (h : n ∈ writableRegs) : n ≠ 0x042 := by
  rintro rfl
  exact absurd h (by decide)

/-! ### The checks of GETS and SETS, of a head that is not arming -/

theorem flagsIn_of_ne (h : n ≠ 0x008) : FlagsIn t n := fun hn => absurd hn h

/-- The flags of the older chunks are in fps, or the register is another (R55). -/
theorem FlagsIn.run_needFlags (h : FlagsIn t n) : (needFlags n).run (found s tid t) = .ok () (found s tid t) := by
  have hnot : ¬ (n = 0x008 ∧ (t.older.any fun c => c.flags ≠ 0) = true) := by
    rintro ⟨hn, hany⟩
    obtain ⟨c, hc, hf⟩ := List.any_eq_true.mp hany
    exact of_decide_eq_true hf (h hn c hc)
  rw [needFlags, run_bind_ok (run_get _)]
  exact congrArg (EStateM.run · (found s tid t)) (if_neg hnot)

/-- An older chunk has flags that fps is still to take. -/
theorem run_needFlags_wait (h : ¬ FlagsIn t n) : (needFlags n).run (found s tid t) = .error .wait (found s tid t) := by
  obtain ⟨hn, hall⟩ := Classical.not_imp.mp h
  have hany : (t.older.any fun c => c.flags ≠ 0) = true := by simpa using hall
  rw [needFlags, run_bind_ok (run_get _)]
  exact congrArg (EStateM.run · (found s tid t)) (if_pos ⟨hn, hany⟩)

section
variable {c : SrClass} {p : M Unit}

theorem Free.run_srChecks (ha : Free t) (hm : srMay (found s tid t) c = true) (hf : FlagsIn t n) :
    (srChecks (found s tid t) c n p).run (found s tid t) = p.run (found s tid t) := by
  rw [srChecks, hm, run_bind_ok (run_need_true _ _ _), run_bind_ok ha.run_notArming, run_bind_ok hf.run_needFlags]

theorem Free.run_srChecks_wait (ha : Free t) (hm : srMay (found s tid t) c = true) (hf : ¬ FlagsIn t n) :
    (srChecks (found s tid t) c n p).run (found s tid t) = .error .wait (found s tid t) := by
  rw [srChecks, hm, run_bind_ok (run_need_true _ _ _), run_bind_ok ha.run_notArming, run_bind_error (run_needFlags_wait hf)]

end

/-! ### What GETS reads (R56, R362) -/

/-- The guild tag is bits [31:16] of the status word. -/
theorem guild_setWidth (a : Arch) : a.guild.setWidth 64 = BitVec.ofNat 64 (a.status.toNat / 2 ^ 16 % 2 ^ 16) := by
  apply BitVec.eq_of_toNat_eq
  simp only [Arch.guild, BitVec.toNat_setWidth, BitVec.extractLsb'_toNat, Nat.shiftRight_eq_div_pow, BitVec.toNat_ofNat]

theorem srRead_found : ∀ n ∈ openRegs ++ trapRegNos ++ systemRegs, srRead (found s tid t) n = srValue s tid t n := by
  unfold openRegs trapRegNos systemRegs
  simp only [List.cons_append, List.nil_append, List.forall_mem_cons]
  exact ⟨rfl, rfl, guild_setWidth t.arch, rfl, rfl, rfl, rfl, rfl, rfl, rfl, rfl, rfl, rfl, rfl, rfl, rfl, rfl, rfl, rfl, rfl, rfl,
    rfl, rfl, rfl, rfl, List.forall_mem_nil _⟩

theorem MayRead.srRead_eq (h : MayRead s t n) : srRead (found s tid t) n = srValue s tid t n := by
  apply srRead_found
  obtain hmem | ⟨hmem, -⟩ | ⟨hmem, -⟩ := h
  · exact List.mem_append_left _ (List.mem_append_left _ hmem)
  · exact List.mem_append_left _ (List.mem_append_right _ hmem)
  · exact List.mem_append_right _ hmem

theorem MayRead.ne_policyver (h : MayRead s t n) : n ≠ 0x030 := by
  rintro rfl
  obtain hmem | ⟨hmem, -⟩ | ⟨hmem, -⟩ := h <;> exact absurd hmem (by decide)

/-! ### What SETS admits (R58) -/

theorem mem_writableRegs_of_isSome {a : Arch} {v : Word} (h : (srSet a n v).isSome = true) : n ∈ writableRegs := by
  by_contra hn
  simp only [writableRegs, trapRegNos, List.cons_append, List.nil_append, List.mem_cons, List.not_mem_nil, or_false, not_or] at hn
  simp [srSet, hn] at h

theorem srAdmits_of_isSome {a : Arch} {v : Word} (h : (srSet a n v).isSome = true) : srAdmits n v = true := by
  rw [srSet_eq a v (mem_writableRegs_of_isSome h)] at h
  by_contra hv
  rw [if_neg hv] at h
  cases h

theorem not_srAdmits_of_none {a : Arch} {v : Word} (hn : n ∈ writableRegs) (h : srSet a n v = none) : srAdmits n v = false := by
  rw [srSet_eq a v hn] at h
  by_contra hv
  rw [if_pos (Bool.eq_true_of_not_eq_false hv)] at h
  cases h

theorem srWrite_of_some {a a' : Arch} {v : Word} (h : srSet a n v = some a') : a.srWrite n v = a' := by
  have hs : (srSet a n v).isSome = true := by rw [h]; rfl
  rw [srSet_eq a v (mem_writableRegs_of_isSome hs), if_pos (srAdmits_of_isSome hs)] at h
  exact Option.some.inj h

end

section
variable {s : State} {tid : Nat} {t : Thread} {n : BitVec 10} (d ra : BitVec 6)

theorem Begins.gets_completes (hb : Begins s tid t) (ha : Free t) (hmay : MayRead s t n.toNat) (hflags : FlagsIn t n.toNat) :
    Completes (.gets d n) s tid t (putX d (srValue s tid t n.toNat)) := by
  obtain ⟨c, hc, hm⟩ := hmay.exists_class (tid := tid)
  refine hb.retires rfl ((run_opGets d hc).trans ((ha.run_srChecks hm hflags).trans ?_))
  rw [getsRead, if_neg hmay.ne_policyver, run_setX, hmay.srRead_eq]
  rfl

theorem Begins.gets_policyver (hb : Begins s tid t) (ha : Free t) {bs : List Byte} {m1 : Mach}
    (hread : Gives (readAt { pa := versionPa (crewPart t.crew), place := .bench 0 0x4000 } 0 4) (found s tid t) bs m1) :
    Retires (.gets d 0x030) s (putX d (BitVec.ofNat 64 (ofBytes bs)) m1) := by
  refine hb.retires rfl ((run_opGets d (c := .r) rfl).trans ((ha.run_srChecks rfl (flagsIn_of_ne (by decide))).trans ?_))
  rw [getsRead, if_pos (by decide), run_bind_ok (run_readVersion (m := found s tid t) hread)]
  rfl

theorem Begins.gets_pfdeny (hb : Begins s tid t) (ha : Free t) (hsys : SysGuild s t) :
    Completes (.gets d 0x042) s tid t (putX d 0) :=
  hb.retires rfl ((run_opGets d (c := .p) rfl).trans (ha.run_srChecks (srMay_found_p.mpr hsys) (flagsIn_of_ne (by decide))))

theorem Begins.sets_completes (hb : Begins s tid t) (ha : Free t) {a' : Arch} (hmay : MayWrite s t n.toNat)
    (hflags : FlagsIn t n.toNat) (hset : srSet t.arch n.toNat (t.arch.getX ra) = some a') :
    Completes (.sets n ra) s tid t (onAr fun _ => a') := by
  obtain ⟨c, hc, hr, hm⟩ := hmay.exists_class (tid := tid)
  have hv := srAdmits_of_isSome (Option.isSome_of_eq_some hset)
  refine hb.retires rfl ((run_opSets (m := found s tid t) ra hc hr hv).trans ((ha.run_srChecks hm hflags).trans ?_))
  rw [setsWrite, if_neg (ne_pfdeny_of_mem_writableRegs hmay.mem_writableRegs), run_onArch, show (found s tid t).ar = t.arch from rfl,
    srWrite_of_some hset]
  rfl

/-- Of the registers fps alone waits for flags. -/
theorem srClass_of_not_flagsIn (h : ¬ FlagsIn t n.toNat) : srClass n.toNat = some .rw := by
  obtain ⟨hn, -⟩ := Classical.not_imp.mp h
  rw [hn]
  rfl

theorem Begins.gets_waits (hb : Begins s tid t) (ha : Free t) (hflags : ¬ FlagsIn t n.toNat) :
    exec (.gets d n) s = .next (notIssued s tid) :=
  have hm : srMay (found s tid t) .rw = true := rfl
  hb.waits rfl ((run_opGets d (srClass_of_not_flagsIn hflags)).trans (ha.run_srChecks_wait hm hflags))

theorem Begins.sets_waits (hb : Begins s tid t) (ha : Free t) (hflags : ¬ FlagsIn t n.toNat)
    (hset : (srSet t.arch n.toNat (t.arch.getX ra)).isSome = true) : exec (.sets n ra) s = .next (notIssued s tid) :=
  have hm : srMay (found s tid t) .rw = true := rfl
  have hv := srAdmits_of_isSome hset
  hb.waits rfl ((run_opSets (m := found s tid t) ra (srClass_of_not_flagsIn hflags) (by decide) hv).trans
    (ha.run_srChecks_wait hm hflags))

theorem Begins.sets_pfdeny (hb : Begins s tid t) (ha : Free t) (hsys : SysGuild s t) :
    Completes (.sets 0x042 ra) s tid t (carry (.pfdeny (t.arch.getX ra))) :=
  hb.retires rfl ((run_opSets (m := found s tid t) ra (c := .p) rfl (by decide) rfl).trans
    (ha.run_srChecks (srMay_found_p.mpr hsys) (flagsIn_of_ne (by decide))))

end

theorem systemRegisterAccess : SystemRegisterAccess := fun _ _ _ d ra _ hb ha =>
  ⟨hb.gets_completes d ha, fun _ _ hread hn => hn ▸ hb.gets_policyver d ha hread, fun hsys hn => hn ▸ hb.gets_pfdeny d ha hsys,
    fun _ => hb.sets_completes ra ha, fun hflags => ⟨hb.gets_waits d ha hflags, hb.sets_waits ra ha hflags⟩,
    fun hsys hn => hn ▸ hb.sets_pfdeny ra ha hsys⟩

theorem systemRegisterRefusals : SystemRegisterRefusals := by
  intro s tid t d ra n hb hf ho hn
  refine ⟨?denied, ?notAdmitted, ?readOnly, ?noRegister⟩
  case denied =>
    intro hmem hs
    obtain ⟨c, hc, hr, hm⟩ := exists_class_denied (tid := tid) hmem hs
    refine ⟨hb.traps hf ho hn rfl ((run_opGets d hc).trans (run_srChecks_denied hm _ _)), fun hset => ?_⟩
    have hv : srAdmits n.toNat (t.arch.getX ra) = true := by
      obtain hsome | rfl := hset
      · exact srAdmits_of_isSome hsome
      · rfl
    exact hb.traps hf ho hn rfl ((run_opSets (m := found s tid t) ra hc hr hv).trans (run_srChecks_denied hm _ _))
  case notAdmitted =>
    intro hmem hset
    have hw := restrictedRegs_subset hmem
    obtain ⟨c, hc⟩ := Option.isSome_iff_exists.mp (srClass_isSome_of_mem_writableRegs _ hw)
    exact hb.traps hf ho hn rfl (run_opSets_not_admitted (m := found s tid t) ra hc (not_srAdmits_of_none hw hset))
  case readOnly =>
    exact fun hmem => hb.traps hf ho hn rfl (run_opSets_illegal ra (.inr (srClass_of_mem_readOnly _ hmem)))
  case noRegister =>
    intro hmem
    have hc := srClass_of_not_mem hmem
    exact ⟨hb.traps hf ho hn rfl (run_opGets_illegal d hc), hb.traps hf ho hn rfl (run_opSets_illegal ra (.inl hc))⟩

/-- Settles O27: GETS and SETS by what their checks answer, and by the class of the register. -/
theorem systemRegisterResults : Obligations.SystemRegisterResults := ⟨systemRegisterAccess, systemRegisterRefusals⟩

end Sys2Proof.Claims
end

section

namespace Sys2Proof.Machine

open Claims (atW uAt sAt wBits rolOf)

/-! ### Operands and results at a width (R76) -/

theorem width_cases : ∀ w : BitVec 1, w = 0 ∨ w = 1 := by decide

theorem wBits_pos : ∀ w : BitVec 1, 0 < wBits w := by decide

/-- An operation at width w works on the low w bits of its operands and extends its result. -/
theorem atWidth_eq_signExtend (w : BitVec 1) (f : {n : Nat} → BitVec n → BitVec n → BitVec n) (a b : Word) :
    atWidth w f a b = (f (a.setWidth (wBits w)) (b.setWidth (wBits w))).signExtend 64 := by
  obtain rfl | rfl := width_cases w
  · show f a b = (f (a.setWidth 64) (b.setWidth 64)).signExtend 64
    simp only [BitVec.setWidth_eq, BitVec.signExtend_eq]
  · rfl

theorem atW_eq_signExtend (w : BitVec 1) (x : Int) : atW w x = (BitVec.ofInt (wBits w) x).signExtend 64 := by
  obtain rfl | rfl := width_cases w
  · exact (BitVec.signExtend_eq _).symm
  · rfl

theorem uAt_eq_toNat (w : BitVec 1) (a : Word) : uAt w a = (a.setWidth (wBits w)).toNat := by
  obtain rfl | rfl := width_cases w
  · exact congrArg BitVec.toNat (BitVec.setWidth_eq a).symm
  · rfl

theorem sAt_eq_toInt (w : BitVec 1) (a : Word) : sAt w a = (a.setWidth (wBits w)).toInt := by
  obtain rfl | rfl := width_cases w
  · exact congrArg BitVec.toInt (BitVec.setWidth_eq a).symm
  · rfl

/-- The result at a width is that of the operation on patterns of that width. -/
theorem atWidth_eq_atW {w : BitVec 1} {f : {n : Nat} → BitVec n → BitVec n → BitVec n} {a b : Word} {r : Int}
    (h : f (a.setWidth (wBits w)) (b.setWidth (wBits w)) = BitVec.ofInt (wBits w) r) : atWidth w f a b = atW w r := by
  rw [atWidth_eq_signExtend, h, ← atW_eq_signExtend]

/-- A shift field is an amount below 64, read the same at either width. -/
theorem uAt_setWidth (w : BitVec 1) (n : BitVec 6) : uAt w (n.setWidth 64) = n.toNat := by
  have hn := n.isLt
  have h64 : (n.setWidth 64).toNat = n.toNat := BitVec.toNat_setWidth_of_le (by decide)
  unfold uAt
  split <;> omega

/-! ### The operations of R77-R79 on patterns of n bits, as integers modulo 2^n -/

section
variable {n : Nat} (x y : BitVec n)

/-- A pattern is its unsigned reading. -/
theorem ofInt_toNat : BitVec.ofInt n x.toNat = x := by
  rw [BitVec.ofInt_natCast, BitVec.ofNat_toNat, BitVec.setWidth_eq]

theorem add_eq_ofInt : x + y = BitVec.ofInt n (x.toNat + y.toNat) := by
  rw [BitVec.ofInt_add, ofInt_toNat, ofInt_toNat]

theorem sub_eq_ofInt : x - y = BitVec.ofInt n (x.toNat - y.toNat) := by
  rw [Int.sub_eq_add_neg, BitVec.ofInt_add, BitVec.ofInt_neg, ofInt_toNat, ofInt_toNat, BitVec.sub_eq_add_neg]

theorem mul_eq_ofInt : x * y = BitVec.ofInt n (x.toNat * y.toNat) := by
  rw [BitVec.ofInt_mul, ofInt_toNat, ofInt_toNat]

theorem allOnes_eq_ofInt : BitVec.allOnes n = BitVec.ofInt n (-1) := by
  rw [BitVec.ofInt_neg, ← BitVec.neg_one_eq_allOnes]
  rfl

theorem toInt_eq_zero_iff : y.toInt = 0 ↔ y = 0 := by
  rw [← BitVec.toInt_inj, BitVec.ofNat_eq_ofNat, BitVec.toInt_zero]

theorem toNat_eq_zero_iff : y.toNat = 0 ↔ y = 0 := by
  rw [BitVec.toNat_eq, BitVec.ofNat_eq_ofNat, BitVec.toNat_zero]

theorem divS_eq_ofInt : divS x y = BitVec.ofInt n (if y.toInt = 0 then -1 else x.toInt.tdiv y.toInt) := by
  simp only [divS, toInt_eq_zero_iff]
  split
  · exact allOnes_eq_ofInt
  · exact BitVec.eq_of_toInt_eq (by rw [BitVec.toInt_sdiv, BitVec.toInt_ofInt])

theorem divU_eq_ofInt : divU x y = BitVec.ofInt n (if y.toNat = 0 then -1 else (x.toNat / y.toNat : Nat)) := by
  simp only [divU, toNat_eq_zero_iff]
  split
  · exact allOnes_eq_ofInt
  · rw [← BitVec.toNat_udiv, ofInt_toNat]

theorem remS_eq_ofInt : remS x y = BitVec.ofInt n
    (if y.toInt = 0 then x.toInt else x.toInt - y.toInt * x.toInt.tdiv y.toInt) := by
  simp only [remS, toInt_eq_zero_iff]
  split
  · exact BitVec.ofInt_toInt.symm
  · rw [← Int.tmod_def, ← BitVec.toInt_srem, BitVec.ofInt_toInt]

theorem remU_eq_ofInt : remU x y = BitVec.ofInt n (x.toNat % y.toNat : Nat) := by
  unfold remU
  split
  case isTrue h => rw [h, BitVec.ofNat_eq_ofNat, BitVec.toNat_zero, Nat.mod_zero, ofInt_toNat]
  case isFalse => rw [← BitVec.toNat_umod, ofInt_toNat]

theorem shiftL_eq_ofInt : shiftL x y = BitVec.ofInt n (x.toNat * 2 ^ (y.toNat % n) : Nat) := by
  apply BitVec.eq_of_toNat_eq
  rw [shiftL, BitVec.toNat_shiftLeft, Nat.shiftLeft_eq, BitVec.ofInt_natCast, BitVec.toNat_ofNat]

theorem shiftR_eq_ofInt : shiftR x y = BitVec.ofInt n (x.toNat / 2 ^ (y.toNat % n) : Nat) := by
  rw [shiftR, ← Nat.shiftRight_eq_div_pow, ← BitVec.toNat_ushiftRight, ofInt_toNat]

theorem shiftA_eq_ofInt : shiftA x y = BitVec.ofInt n (x.toInt / 2 ^ (y.toNat % n)) := by
  rw [shiftA, BitVec.sshiftRight_eq, Int.shiftRight_eq_div_pow]
  norm_cast

/-- The two parts of a rotation share no bit. -/
theorem shiftLeft_and_ushiftRight_sub {k : Nat} (h : k ≤ n) : x <<< k &&& x >>> (n - k) = 0#n := by
  apply BitVec.eq_of_getLsbD_eq
  intro i hi
  rw [BitVec.getLsbD_and, BitVec.getLsbD_shiftLeft, BitVec.getLsbD_ushiftRight, BitVec.getLsbD_zero]
  by_cases hk : i < k
  · simp [hk]
  · rw [BitVec.getLsbD_of_ge x (n - k + i) (by omega), Bool.and_false]

theorem rotL_eq_ofInt (h : 0 < n) : rotL x y = BitVec.ofInt n
    (if y.toNat % n = 0 then x.toNat
     else (x.toNat * 2 ^ (y.toNat % n) + x.toNat / 2 ^ (n - y.toNat % n) : Nat)) := by
  have hk : y.toNat % n < n := Nat.mod_lt _ h
  have hrot : rotL x y = shiftL x y + x >>> (n - y.toNat % n) := by
    rw [rotL, BitVec.rotateLeft_def, Nat.mod_mod, shiftL,
      BitVec.add_eq_or_of_and_eq_zero _ _ (shiftLeft_and_ushiftRight_sub x hk.le)]
  split
  case isTrue h0 =>
    rw [ofInt_toNat, rotL, h0, BitVec.rotateLeft_def, Nat.zero_mod, Nat.sub_zero, BitVec.shiftLeft_zero,
      BitVec.ushiftRight_eq_zero le_rfl, BitVec.or_zero]
  case isFalse =>
    rw [hrot, Int.natCast_add, BitVec.ofInt_add, ← shiftL_eq_ofInt, ← Nat.shiftRight_eq_div_pow, ← BitVec.toNat_ushiftRight,
      ofInt_toNat]

end

/-! ### The same operations at the width of W (R76) -/

section
variable (w : BitVec 1) (a b : Word)

theorem atWidth_add : atWidth w (· + ·) a b = atW w (uAt w a + uAt w b) :=
  atWidth_eq_atW (by rw [uAt_eq_toNat, uAt_eq_toNat, add_eq_ofInt])
theorem atWidth_sub : atWidth w (· - ·) a b = atW w (uAt w a - uAt w b) :=
  atWidth_eq_atW (by rw [uAt_eq_toNat, uAt_eq_toNat, sub_eq_ofInt])
theorem atWidth_mul : atWidth w (· * ·) a b = atW w (uAt w a * uAt w b) :=
  atWidth_eq_atW (by rw [uAt_eq_toNat, uAt_eq_toNat, mul_eq_ofInt])
theorem atWidth_divS : atWidth w divS a b = atW w (if sAt w b = 0 then -1 else (sAt w a).tdiv (sAt w b)) :=
  atWidth_eq_atW (by rw [sAt_eq_toInt, sAt_eq_toInt, divS_eq_ofInt])
theorem atWidth_divU : atWidth w divU a b = atW w (if uAt w b = 0 then -1 else (uAt w a / uAt w b : Nat)) :=
  atWidth_eq_atW (by rw [uAt_eq_toNat, uAt_eq_toNat, divU_eq_ofInt])
theorem atWidth_remS : atWidth w remS a b =
    atW w (if sAt w b = 0 then sAt w a else sAt w a - sAt w b * (sAt w a).tdiv (sAt w b)) :=
  atWidth_eq_atW (by rw [sAt_eq_toInt, sAt_eq_toInt, remS_eq_ofInt])
theorem atWidth_remU : atWidth w remU a b = atW w (uAt w a % uAt w b : Nat) :=
  atWidth_eq_atW (by rw [uAt_eq_toNat, uAt_eq_toNat, remU_eq_ofInt])
theorem atWidth_shiftL : atWidth w shiftL a b = atW w (uAt w a * 2 ^ (uAt w b % wBits w) : Nat) :=
  atWidth_eq_atW (by rw [uAt_eq_toNat, uAt_eq_toNat, shiftL_eq_ofInt])
theorem atWidth_shiftR : atWidth w shiftR a b = atW w (uAt w a / 2 ^ (uAt w b % wBits w) : Nat) :=
  atWidth_eq_atW (by rw [uAt_eq_toNat, uAt_eq_toNat, shiftR_eq_ofInt])
theorem atWidth_shiftA : atWidth w shiftA a b = atW w (sAt w a / 2 ^ (uAt w b % wBits w)) :=
  atWidth_eq_atW (by rw [sAt_eq_toInt, uAt_eq_toNat, shiftA_eq_ofInt])
theorem atWidth_rotL : atWidth w rotL a b = atW w (rolOf w a (uAt w b % wBits w)) :=
  atWidth_eq_atW (by rw [rolOf, uAt_eq_toNat, uAt_eq_toNat, rotL_eq_ofInt _ _ (wBits_pos w)])

end

/-! ### The other results of R77-R90 -/

/-- The high half of a 128-bit pattern. -/
theorem ofInt_high (p : Int) : (BitVec.ofInt 128 p >>> 64).setWidth 64 = BitVec.ofInt 64 (p / 2 ^ 64) := by
  apply BitVec.eq_of_toNat_eq
  simp only [BitVec.toNat_setWidth, BitVec.toNat_ushiftRight, BitVec.toNat_ofInt, Nat.shiftRight_eq_div_pow]
  omega

theorem signExtend_eq_ofInt {v n : Nat} (x : BitVec n) (h : n ≤ v) : x.signExtend v = BitVec.ofInt v x.toInt := by
  rw [← BitVec.toInt_signExtend_of_le h, BitVec.ofInt_toInt]

theorem setWidth_eq_ofInt {v n : Nat} (x : BitVec n) : x.setWidth v = BitVec.ofInt v x.toNat := by
  rw [BitVec.ofInt_natCast, BitVec.ofNat_toNat]

section
variable (a b : Word)

theorem mulHigh_eq_ofInt : mulHigh a b = BitVec.ofInt 64 (a.toInt * b.toInt / 2 ^ 64) := by
  rw [mulHigh, signExtend_eq_ofInt a (by decide), signExtend_eq_ofInt b (by decide), ← BitVec.ofInt_mul, ofInt_high]

theorem mulHighU_eq_ofNat : mulHighU a b = BitVec.ofNat 64 (a.toNat * b.toNat / 2 ^ 64) := by
  rw [mulHighU, setWidth_eq_ofInt a, setWidth_eq_ofInt b, ← BitVec.ofInt_mul, ofInt_high, ← BitVec.ofInt_natCast]
  norm_cast

theorem min_eq_ofInt : (if a.slt b then a else b) = BitVec.ofInt 64 (min a.toInt b.toInt) := by
  by_cases h : a.toInt < b.toInt
  · rw [if_pos (BitVec.slt_iff_toInt_lt.mpr h), min_eq_left h.le, BitVec.ofInt_toInt]
  · rw [if_neg (mt BitVec.slt_iff_toInt_lt.mp h), min_eq_right (not_lt.mp h), BitVec.ofInt_toInt]

theorem max_eq_ofInt : (if a.slt b then b else a) = BitVec.ofInt 64 (max a.toInt b.toInt) := by
  by_cases h : a.toInt < b.toInt
  · rw [if_pos (BitVec.slt_iff_toInt_lt.mpr h), max_eq_right h.le, BitVec.ofInt_toInt]
  · rw [if_neg (mt BitVec.slt_iff_toInt_lt.mp h), max_eq_left (not_lt.mp h), BitVec.ofInt_toInt]

theorem minu_eq_ofNat : (if a.ult b then a else b) = BitVec.ofNat 64 (min a.toNat b.toNat) := by
  by_cases h : a.toNat < b.toNat
  · rw [if_pos (BitVec.ult_iff_toNat_lt.mpr h), min_eq_left h.le, BitVec.ofNat_toNat, BitVec.setWidth_eq]
  · rw [if_neg (mt BitVec.ult_iff_toNat_lt.mp h), min_eq_right (not_lt.mp h), BitVec.ofNat_toNat, BitVec.setWidth_eq]

theorem maxu_eq_ofNat : (if a.ult b then b else a) = BitVec.ofNat 64 (max a.toNat b.toNat) := by
  by_cases h : a.toNat < b.toNat
  · rw [if_pos (BitVec.ult_iff_toNat_lt.mpr h), max_eq_right h.le, BitVec.ofNat_toNat, BitVec.setWidth_eq]
  · rw [if_neg (mt BitVec.ult_iff_toNat_lt.mp h), max_eq_left (not_lt.mp h), BitVec.ofNat_toNat, BitVec.setWidth_eq]

theorem addsh_eq_ofNat (k : Nat) : a + b <<< k = BitVec.ofNat 64 (a.toNat + b.toNat * 2 ^ k) := by
  apply BitVec.eq_of_toNat_eq
  rw [BitVec.toNat_add, BitVec.toNat_shiftLeft, Nat.shiftLeft_eq, BitVec.toNat_ofNat, Nat.add_mod_mod]

theorem add_sx_eq_ofInt {n : Nat} (k : BitVec n) (h : n ≤ 64) : a + sx k = BitVec.ofInt 64 (a.toNat + k.toInt) := by
  rw [sx, signExtend_eq_ofInt k h, BitVec.ofInt_add, ofInt_toNat]

theorem lineAddr_add_sx_eq_ofInt {n : Nat} (k : BitVec n) (h : n ≤ 64) :
    lineAddr a + sx k = BitVec.ofInt 64 ((a.toNat / 64 * 64 : Nat) + k.toInt) := by
  rw [lineAddr, sx, signExtend_eq_ofInt k h, BitVec.ofInt_add, BitVec.ofInt_natCast]

theorem slt_sx_eq_decide {n : Nat} (k : BitVec n) (h : n ≤ 64) : a.slt (sx k) = decide (a.toInt < k.toInt) := by
  rw [BitVec.slt_eq_decide, sx, BitVec.toInt_signExtend_of_le h]

theorem selHolds_eq (k : BitVec 2) : selHolds k a =
    decide (if k = 0 then a.toInt ≠ 0 else if k = 1 then a.toInt = 0 else if k = 2 then a.toInt < 0 else 0 ≤ a.toInt) := by
  simp only [selHolds, toInt_eq_zero_iff, ne_eq, BitVec.msb_eq_toInt]
  split
  · rfl
  · split
    · rfl
    · split
      · rfl
      · exact (decide_not ..).symm.trans (decide_eq_decide.mpr not_lt)

theorem sel_eq (k : BitVec 2) (b c : Word) : (if selHolds k a then b else c) =
    if (if k = 0 then a.toInt ≠ 0 else if k = 1 then a.toInt = 0 else if k = 2 then a.toInt < 0 else 0 ≤ a.toInt) then b
    else c := by
  simp only [selHolds_eq, decide_eq_true_eq]

theorem madd_eq_ofInt (c : Word) (f : BitVec 1) : (if f = 1 then c - a * b else c + a * b) =
    BitVec.ofInt 64 (if f = 1 then c.toNat - (a.toNat * b.toNat : Int) else c.toNat + (a.toNat * b.toNat : Int)) := by
  split
  · rw [Int.sub_eq_add_neg, BitVec.ofInt_add, BitVec.ofInt_neg, ← mul_eq_ofInt, ofInt_toNat, BitVec.sub_eq_add_neg]
  · rw [BitVec.ofInt_add, ← mul_eq_ofInt, ofInt_toNat]

/-- A bit of a word one of whose fields is replaced. -/
theorem getLsbD_setField (lo len v i : Nat) (h : lo + len ≤ 64) : (setField a lo len v).getLsbD i =
    if lo ≤ i ∧ i < lo + len then v.testBit (i - lo) else a.getLsbD i := by
  have hmask : (BitVec.ofNat 64 ((2 ^ len - 1) * 2 ^ lo)).getLsbD i = decide (lo ≤ i ∧ i < lo + len) := by
    rw [BitVec.getLsbD_ofNat, Nat.testBit_mul_two_pow, Nat.testBit_two_pow_sub_one, ← Bool.decide_and, ← Bool.decide_and]
    exact decide_eq_decide.mpr (by omega)
  have hval : (BitVec.ofNat 64 (v % 2 ^ len * 2 ^ lo)).getLsbD i = (decide (lo ≤ i ∧ i < lo + len) && v.testBit (i - lo)) := by
    rw [BitVec.getLsbD_ofNat, Nat.testBit_mul_two_pow, Nat.testBit_mod_two_pow, ← Bool.and_assoc, ← Bool.and_assoc,
      ← Bool.decide_and, ← Bool.decide_and]
    exact congrArg (· && _) (decide_eq_decide.mpr (by omega))
  unfold setField
  rw [BitVec.getLsbD_or, BitVec.getLsbD_and, BitVec.getLsbD_not, hmask, hval]
  by_cases hi : lo ≤ i ∧ i < lo + len
  · simp [hi]
  · by_cases h64 : i < 64
    · simp [hi, h64]
    · simp [hi, BitVec.getLsbD_of_ge a i (not_lt.mp h64)]

theorem setField_eq_ofNat {lo len v : Nat} (h : lo + len ≤ 64) (hv : v < 2 ^ len) : setField a lo len v =
    BitVec.ofNat 64 (a.toNat - a.toNat / 2 ^ lo % 2 ^ len * 2 ^ lo + v * 2 ^ lo) := by
  have hsplit : a.toNat - a.toNat / 2 ^ lo % 2 ^ len * 2 ^ lo + v * 2 ^ lo =
      2 ^ lo * (2 ^ len * (a.toNat / 2 ^ lo / 2 ^ len) + v) + a.toNat % 2 ^ lo := by
    have ha : a.toNat = a.toNat / 2 ^ lo % 2 ^ len * 2 ^ lo +
        (2 ^ lo * (2 ^ len * (a.toNat / 2 ^ lo / 2 ^ len)) + a.toNat % 2 ^ lo) := by
      conv_lhs => rw [← Nat.div_add_mod a.toNat (2 ^ lo), ← Nat.div_add_mod (a.toNat / 2 ^ lo) (2 ^ len)]
      ring
    conv_lhs => enter [1, 1]; rw [ha]
    rw [Nat.add_sub_cancel_left]
    ring
  apply BitVec.eq_of_getLsbD_eq
  intro i hi
  rw [getLsbD_setField a _ _ _ _ h, BitVec.getLsbD_ofNat, decide_eq_true hi, Bool.true_and, hsplit,
    Nat.testBit_two_pow_mul_add _ (Nat.mod_lt _ (Nat.two_pow_pos lo)), Nat.testBit_two_pow_mul_add _ hv, Nat.testBit_mod_two_pow,
    Nat.testBit_div_two_pow, Nat.testBit_div_two_pow]
  by_cases hlo : i < lo
  · rw [if_neg (by omega), if_pos hlo, decide_eq_true hlo, Bool.true_and, BitVec.testBit_toNat]
  · by_cases hlen : i < lo + len
    · rw [if_pos (by omega), if_neg hlo, if_pos (by omega)]
    · rw [if_neg (by omega), if_neg hlo, if_neg (by omega), BitVec.testBit_toNat, show i - lo - len + len + lo = i by omega]

end

/-! ### The operations of a head that writes one register (R75) -/

section
variable (d b a c : BitVec 6) (m : Mach)

@[simp] theorem run_opUnary (f : Word → Word) :
    (opUnary d a f).run m = .ok ⟨⟩ { m with ar := m.ar.setX d (f (m.ar.getX a)) } := rfl
@[simp] theorem run_opBinary (f : Word → Word → Word) :
    (opBinary d b a f).run m = .ok ⟨⟩ { m with ar := m.ar.setX d (f (m.ar.getX a) (m.ar.getX b)) } := rfl
@[simp] theorem run_opTernary (f : Word → Word → Word → Word) :
    (opTernary d b a c f).run m = .ok ⟨⟩ { m with ar := m.ar.setX d (f (m.ar.getX a) (m.ar.getX b) (m.ar.getX c)) } := rfl

end

end Sys2Proof.Machine

namespace Sys2Proof.Claims

open Sys2Proof.Machine

/-! ### Heads that write one register and do nothing else -/

section
variable {s : State} {tid : Nat} {t : Thread} {i : Instr} {d b a c : BitVec 6} {v : Word}

/-- A head whose operation answers with one register written. -/
theorem Begins.writes {op : M Unit} {v' : Word} (hb : Begins s tid t) (he : exec i s = runHead s op)
    (h : op.run (found s tid t) = .ok () (onAr (fun ar => ar.setX d v') (found s tid t))) (hv : v' = v) :
    Completes i s tid t (onAr fun ar => ar.setX d v) :=
  hv ▸ hb.retires he h

theorem Begins.unary {f : Word → Word} (hb : Begins s tid t) (he : exec i s = runHead s (opUnary d a f))
    (hv : f (t.arch.getX a) = v) : Completes i s tid t (onAr fun ar => ar.setX d v) :=
  hb.writes he (run_opUnary ..) hv

theorem Begins.binary {f : Word → Word → Word} (hb : Begins s tid t) (he : exec i s = runHead s (opBinary d b a f))
    (hv : f (t.arch.getX a) (t.arch.getX b) = v) : Completes i s tid t (onAr fun ar => ar.setX d v) :=
  hb.writes he (run_opBinary ..) hv

theorem Begins.ternary {f : Word → Word → Word → Word} (hb : Begins s tid t)
    (he : exec i s = runHead s (opTernary d b a c f)) (hv : f (t.arch.getX a) (t.arch.getX b) (t.arch.getX c) = v) :
    Completes i s tid t (onAr fun ar => ar.setX d v) :=
  hb.writes he (run_opTernary ..) hv

end

/-- The destination and the result that the tables give are those of the head's operation. -/
theorem Begins.completes_of_intResult {s : State} {tid : Nat} {t : Thread} {i : Instr} {d : BitVec 6} {v : Word}
    (hb : Begins s tid t) (h : intResult t.arch i = some (d, v)) : Completes i s tid t (onAr fun a => a.setX d v) := by
  cases i with
  | add d w rb ra => cases h; exact hb.binary rfl (atWidth_add ..)
  | sub d w rb ra => cases h; exact hb.binary rfl (atWidth_sub ..)
  | mul d w rb ra => cases h; exact hb.binary rfl (atWidth_mul ..)
  | mulh d rb ra => cases h; exact hb.binary rfl (mulHigh_eq_ofInt ..)
  | mulhu d rb ra => cases h; exact hb.binary rfl (mulHighU_eq_ofNat ..)
  | div d w rb ra => cases h; exact hb.binary rfl (atWidth_divS ..)
  | divu d w rb ra => cases h; exact hb.binary rfl (atWidth_divU ..)
  | rem d w rb ra => cases h; exact hb.binary rfl (atWidth_remS ..)
  | remu d w rb ra => cases h; exact hb.binary rfl (atWidth_remU ..)
  | and d rb ra | or d rb ra | xor d rb ra => cases h; exact hb.binary rfl rfl
  | shl d w rb ra => cases h; exact hb.binary rfl (atWidth_shiftL ..)
  | shr d w rb ra => cases h; exact hb.binary rfl (atWidth_shiftR ..)
  | sha d w rb ra => cases h; exact hb.binary rfl (atWidth_shiftA ..)
  | rol d w rb ra => cases h; exact hb.binary rfl (atWidth_rotL ..)
  | slt d rb ra | sltu d rb ra => cases h; exact hb.binary rfl rfl
  | min d rb ra => cases h; exact hb.binary rfl (min_eq_ofInt ..)
  | max d rb ra => cases h; exact hb.binary rfl (max_eq_ofInt ..)
  | minu d rb ra => cases h; exact hb.binary rfl (minu_eq_ofNat ..)
  | maxu d rb ra => cases h; exact hb.binary rfl (maxu_eq_ofNat ..)
  | addsh d n rb ra => cases h; exact hb.binary rfl (addsh_eq_ofNat ..)
  | addi d k ra => cases h; exact hb.unary rfl (add_sx_eq_ofInt _ k (by decide))
  | andi d k ra => cases h; exact hb.unary rfl rfl
  | ori d k ra => cases h; exact hb.unary rfl rfl
  | xori d k ra => cases h; exact hb.unary rfl rfl
  | slti d k ra => cases h; exact hb.unary rfl (congrArg ofBool (slt_sx_eq_decide _ k (by decide)))
  | shli d w n ra => cases h; exact hb.unary rfl (by rw [atWidth_shiftL, uAt_setWidth])
  | shri d w n ra => cases h; exact hb.unary rfl (by rw [atWidth_shiftR, uAt_setWidth])
  | shai d w n ra => cases h; exact hb.unary rfl (by rw [atWidth_shiftA, uAt_setWidth])
  | roli d w n ra => cases h; exact hb.unary rfl (by rw [atWidth_rotL, uAt_setWidth])
  | li d k => cases h; exact hb.writes rfl rfl rfl
  | lih d k ra imm => cases h; exact hb.unary rfl (setField_eq_ofNat _ (by have := k.isLt; omega) imm.isLt)
  | addpc d k => cases h; exact hb.writes rfl rfl (lineAddr_add_sx_eq_ofInt _ k (by decide))
  | sel d k rb ra rc => cases h; exact hb.ternary rfl (sel_eq ..)
  | madd d f rb ra rc => cases h; exact hb.ternary rfl (madd_eq_ofInt ..)
  | _ => cases h

/-- Settles O1, by the table's value for each instruction. -/
theorem integerResults : Obligations.IntegerResults := fun _ _ _ _ _ _ => Begins.completes_of_intResult

end Sys2Proof.Claims
end

section

namespace Sys2Proof.Machine

open Claims (codeBits stepsUntil)

/-! ### Numbers built bit by bit, and byte by byte -/

theorem pickBits_lt (f : Nat → Bool) : ∀ n, pickBits f n < 2 ^ n
  | 0 => Nat.one_pos
  | n + 1 => by
    have ih := pickBits_lt f n
    rw [pickBits, Nat.pow_succ]
    split <;> omega

theorem testBit_pickBits (f : Nat → Bool) (n i : Nat) : (pickBits f n).testBit i = (decide (i < n) && f i) := by
  induction n with
  | zero => simp [pickBits]
  | succ n ih =>
    have hstep : pickBits f (n + 1) = 2 ^ n * (f n).toNat + pickBits f n := by
      rw [pickBits, Nat.add_comm]
      cases f n <;> simp
    rw [hstep, Nat.testBit_two_pow_mul_add _ (pickBits_lt f n), ih, Nat.testBit_bool_toNat]
    obtain h | rfl | h := Nat.lt_trichotomy i n
    · simp [h, Nat.lt_succ_of_lt h]
    · simp
    · simp [show ¬ i < n by omega, show ¬ i < n + 1 by omega, show i - n ≠ 0 by omega]

theorem testBit_ofBytes (l : List Byte) (i : Nat) : (ofBytes l).testBit i = (l[i / 8]?.getD 0).getLsbD (i % 8) := by
  induction l generalizing i with
  | nil => simp [ofBytes]
  | cons b l ih =>
    rw [ofBytes, Nat.add_comm, show 256 = 2 ^ 8 from rfl, Nat.testBit_two_pow_mul_add _ b.isLt, ih]
    split
    case isTrue h => rw [Nat.div_eq_of_lt h, Nat.mod_eq_of_lt h]; rfl
    case isFalse h =>
      rw [show i / 8 = (i - 8) / 8 + 1 by omega, show i % 8 = (i - 8) % 8 by omega, List.getElem?_cons_succ]

@[simp] theorem length_bytesOf (n v : Nat) : (bytesOf n v).length = n := by
  induction n generalizing v with
  | zero => rfl
  | succ n ih => rw [bytesOf, List.length_cons, ih]

theorem getElem?_bytesOf {n k : Nat} (v : Nat) (h : k < n) : (bytesOf n v)[k]? = some (BitVec.ofNat 8 (v / 2 ^ (8 * k))) := by
  induction n generalizing v k with
  | zero => omega
  | succ n ih =>
    cases k with
    | zero => simp [bytesOf]
    | succ k =>
      rw [bytesOf, List.getElem?_cons_succ, ih _ (by omega), Nat.div_div_eq_div_mul, Nat.mul_add, Nat.add_comm, Nat.pow_add]

/-! ### Counts (R84) -/

theorem stepsUntil_eq_findIdx (n : Nat) (f : Nat → Bool) : stepsUntil n f = (List.range n).findIdx f := by
  simp only [stepsUntil, List.takeWhile_eq_take_findIdx_not, Bool.not_not, List.length_take]
  exact min_eq_left List.findIdx_le_length

theorem stepsUntil_eq_of_first {n k : Nat} {f : Nat → Bool} (hk : k < n) (hf : f k = true) (hlt : ∀ j < k, f j = false) :
    stepsUntil n f = k := by
  rw [stepsUntil_eq_findIdx, List.findIdx_eq (by simpa using hk)]
  simpa using ⟨hf, hlt⟩

theorem stepsUntil_eq_of_none {n : Nat} {f : Nat → Bool} (h : ∀ j < n, f j = false) : stepsUntil n f = n := by
  rw [stepsUntil_eq_findIdx, List.findIdx_eq_length_of_false (by simpa using h), List.length_range]

section
variable (z : BitVec 2) (x : Word)

theorem testBit_countArg (i : Nat) : (countArg z x).testBit i = (decide (i < codeBits z) && x.getLsbD i) :=
  Nat.testBit_mod_two_pow ..

theorem testBit_countArg_of_lt {i : Nat} (h : i < codeBits z) : (countArg z x).testBit i = x.getLsbD i := by
  rw [testBit_countArg, decide_eq_true h, Bool.true_and]

theorem clzOf_countArg : clzOf (codeBits z) (countArg z x) =
    stepsUntil (codeBits z) fun i => x.getLsbD (codeBits z - 1 - i) := by
  unfold clzOf
  split
  case isTrue h0 =>
    refine (stepsUntil_eq_of_none fun j hj => ?_).symm
    rw [← testBit_countArg_of_lt z x (by omega), h0, Nat.zero_testBit]
  case isFalse h0 =>
    have htop : (countArg z x).log2 < codeBits z := (Nat.log2_lt h0).mpr (Nat.mod_lt _ (Nat.two_pow_pos _))
    refine (stepsUntil_eq_of_first (by omega) ?highest fun j hj => ?above).symm
    case highest =>
      rw [Nat.sub_sub_self (by omega), ← testBit_countArg_of_lt z x htop, Nat.testBit_log2 h0]
    case above =>
      rw [← testBit_countArg_of_lt z x (by omega), Nat.testBit_lt_two_pow ((Nat.log2_lt h0).mp (by omega))]

theorem ctzOf_countArg : ctzOf (codeBits z) (countArg z x) = stepsUntil (codeBits z) fun i => x.getLsbD i := by
  unfold ctzOf
  cases h : (List.range (codeBits z)).find? (countArg z x).testBit with
  | none =>
    refine (stepsUntil_eq_of_none fun j hj => ?_).symm
    simpa [testBit_countArg_of_lt z x hj] using List.find?_range_eq_none.mp h j hj
  | some k =>
    obtain ⟨hbit, hmem, hlow⟩ := List.find?_range_eq_some.mp h
    have hk := List.mem_range.mp hmem
    refine (stepsUntil_eq_of_first hk ?_ fun j hj => ?_).symm
    · rwa [← testBit_countArg_of_lt z x hk]
    · simpa [testBit_countArg_of_lt z x (hj.trans hk)] using hlow j hj

theorem popcOf_countArg : popcOf (codeBits z) (countArg z x) = (List.range (codeBits z)).countP fun i => x.getLsbD i :=
  List.countP_congr fun i hi => by rw [testBit_countArg_of_lt z x (List.mem_range.mp hi)]

theorem testBit_brevOf_countArg (i : Nat) : (brevOf (codeBits z) (countArg z x)).testBit i =
    (decide (i < codeBits z) && x.getLsbD (codeBits z - 1 - i)) := by
  rw [brevOf, testBit_pickBits]
  by_cases h : i < codeBits z
  · rw [testBit_countArg_of_lt z x (by omega)]
  · simp [h]

theorem codeBits_eq_bytes : ∀ z : BitVec 2, codeBits z = 8 * (codeBits z / 8) := by decide

theorem testBit_bswapOf_countArg (i : Nat) : (bswapOf (codeBits z) (countArg z x)).testBit i =
    (decide (i < codeBits z) && x.getLsbD (8 * (codeBits z / 8 - 1 - i / 8) + i % 8)) := by
  have hbytes := codeBits_eq_bytes z
  rw [bswapOf, testBit_ofBytes]
  by_cases h : i < codeBits z
  · rw [List.getElem?_reverse (by rw [length_bytesOf]; omega), length_bytesOf, getElem?_bytesOf _ (by omega), Option.getD_some,
      BitVec.getLsbD_ofNat, decide_eq_true (by omega), Bool.true_and, Nat.testBit_div_two_pow, testBit_countArg_of_lt z x (by omega),
      decide_eq_true h, Bool.true_and, Nat.add_comm]
  · rw [List.getElem?_eq_none (by rw [List.length_reverse, length_bytesOf]; omega)]
    simp [h]

end

theorem getLsbD_insert (x y : Word) {pos len : Nat} (h : pos + len + 1 ≤ 64) (k : Nat) :
    (setField x pos (len + 1) y.toNat).getLsbD k = if pos ≤ k ∧ k ≤ pos + len then y.getLsbD (k - pos) else x.getLsbD k :=
  (getLsbD_setField x pos (len + 1) y.toNat k h).trans (if_congr (by omega) (BitVec.testBit_toNat y) rfl)

/-! ### Fields and interleaved bits (R85-R88) -/

section
variable (x y c : Word) {k : Nat} (hk : k < 64)
include hk

theorem getLsbD_zextN_ushiftRight (pos len : Nat) : (zextN (x >>> pos) (len + 1)).getLsbD k =
    if k ≤ len then x.getLsbD (pos + k) else false := by
  rw [zextN, BitVec.getLsbD_setWidth, BitVec.getLsbD_setWidth, BitVec.getLsbD_ushiftRight, decide_eq_true hk, Bool.true_and]
  split
  case isTrue h => rw [decide_eq_true (Nat.lt_succ_of_le h), Bool.true_and]
  case isFalse h => rw [decide_eq_false (by omega), Bool.false_and]

theorem getLsbD_sextN_ushiftRight (pos len : Nat) : (sextN (x >>> pos) (len + 1)).getLsbD k =
    if k ≤ len then x.getLsbD (pos + k) else x.getLsbD (pos + len) := by
  rw [sextN, BitVec.getLsbD_signExtend, decide_eq_true hk, Bool.true_and, BitVec.msb_setWidth, BitVec.getLsbD_setWidth,
    BitVec.getLsbD_ushiftRight, BitVec.getLsbD_ushiftRight]
  split
  case isTrue h => rw [if_pos (by omega), decide_eq_true h, Bool.true_and]
  case isFalse h => rw [if_neg (by omega), Nat.add_sub_cancel, decide_eq_true (Nat.succ_pos len), Bool.true_and]

theorem getLsbD_extend (sg : BitVec 1) (pos len : Nat) :
    (if sg = 1 then sextN (x >>> pos) (len + 1) else zextN (x >>> pos) (len + 1)).getLsbD k =
      if k ≤ len then x.getLsbD (pos + k) else sg == 1 && x.getLsbD (pos + len) := by
  split
  case isTrue h => rw [getLsbD_sextN_ushiftRight x hk, h, beq_self_eq_true, Bool.true_and]
  case isFalse h => rw [getLsbD_zextN_ushiftRight x hk, beq_eq_false_iff_ne.mpr h, Bool.false_and]

theorem getLsbD_interleave (f : BitVec 1) : (interleave f x y c).getLsbD k =
    if f = 0 then (if k % 2 = 0 then x else y).getLsbD (k / 2)
    else decide (k < 63) && (if k % 3 = 0 then x else if k % 3 = 1 then y else c).getLsbD (k / 3) := by
  unfold interleave
  split
  · rw [BitVec.getLsbD_ofNat, testBit_pickBits, decide_eq_true hk, Bool.true_and, Bool.true_and,
      apply_ite (BitVec.getLsbD · (k / 2))]
  · rw [BitVec.getLsbD_ofNat, testBit_pickBits, decide_eq_true hk, Bool.true_and, apply_ite (BitVec.getLsbD · (k / 3)),
      apply_ite (BitVec.getLsbD · (k / 3))]

theorem getLsbD_deinterleave (f : BitVec 1) (j : Nat) : (deinterleave f j x).getLsbD k =
    if f = 0 then decide (k < 32) && x.getLsbD (2 * k + j) else decide (k < 21) && x.getLsbD (3 * k + j) := by
  unfold deinterleave
  split <;> rw [BitVec.getLsbD_ofNat, testBit_pickBits, decide_eq_true hk, Bool.true_and]

theorem getLsbD_ofNat_eq_testBit (n : Nat) : (BitVec.ofNat 64 n).getLsbD k = n.testBit k := by
  rw [BitVec.getLsbD_ofNat, decide_eq_true hk, Bool.true_and]

end

end Sys2Proof.Machine

namespace Sys2Proof.Claims

open Sys2Proof.Machine

section
variable {s : State} {tid : Nat} {t : Thread} {i : Instr} {d a : BitVec 6} {f : Nat → Bool}

/-- A count or a permutation of the low bits of a register gives a number, zero-extended (R84). -/
theorem Begins.count {z : BitVec 2} {g : Nat → Nat → Nat} (hb : Begins s tid t)
    (he : exec i s = runHead s (opCount d z a g))
    (hg : ∀ k, (g (codeBits z) (countArg z (t.arch.getX a))).testBit k = f k) :
    ∃ v : Word, (∀ k, k < 64 → v.getLsbD k = f k) ∧ Completes i s tid t (onAr fun ar => ar.setX d v) :=
  ⟨_, fun k hk => (getLsbD_ofNat_eq_testBit hk _).trans (hg k), hb.unary he rfl⟩

end

/-- Each bit that the tables give is that of the operation's result. -/
theorem Begins.exists_of_bitResult {s : State} {tid : Nat} {t : Thread} {i : Instr} {d : BitVec 6} {f : Nat → Bool}
    (hb : Begins s tid t) (hw : i.wf = true) (h : bitResult t.arch i = some (d, f)) :
    ∃ v : Word, (∀ k, k < 64 → v.getLsbD k = f k) ∧ Completes i s tid t (onAr fun a => a.setX d v) := by
  cases i with
  | clz d z ra => cases h; exact hb.count rfl fun k => congrArg (Nat.testBit · k) (clzOf_countArg ..)
  | ctz d z ra => cases h; exact hb.count rfl fun k => congrArg (Nat.testBit · k) (ctzOf_countArg ..)
  | popc d z ra => cases h; exact hb.count rfl fun k => congrArg (Nat.testBit · k) (popcOf_countArg ..)
  | brev d z ra => cases h; exact hb.count rfl (testBit_brevOf_countArg z _)
  | bswap d z ra => cases h; exact hb.count rfl (testBit_bswapOf_countArg z _)
  | ext d ra sg len pos => cases h; exact ⟨_, fun k hk => getLsbD_extend _ hk .., hb.unary rfl rfl⟩
  | ins d rb ra len pos => cases h; exact ⟨_, fun k _ => getLsbD_insert _ _ (of_decide_eq_true hw) k, hb.binary rfl rfl⟩
  | ilv d f rb ra rc => cases h; exact ⟨_, fun k hk => getLsbD_interleave _ _ _ hk .., hb.ternary rfl rfl⟩
  | dilv d f ra j => cases h; exact ⟨_, fun k hk => getLsbD_deinterleave _ hk .., hb.unary rfl rfl⟩
  | _ => cases h

/-- Settles O2, by the bits of each operation's result. -/
theorem bitResults : Obligations.BitResults := fun _ _ _ _ _ _ => Begins.exists_of_bitResult

end Sys2Proof.Claims
end

section

namespace Sys2Proof.Claims

open Sys2Proof.Machine

/-! ### Issue (R71) -/

section
variable {s : State} {core k : Nat} {late : BitVec 16} {t : Thread}

/-- The issue stage finds the first ready slot. -/
theorem FirstReady.nextSlot_eq (h : FirstReady s core k late) : s.nextSlot core late = some k := by
  obtain ⟨j, hj, rfl, ⟨hready, hlate⟩, hbefore⟩ := h
  have hfind : (List.range 16).find? (fun i => s.ready (core * 16 + ((s.core core).rr + 1 + i) % 16) &&
      !late.getLsbD (((s.core core).rr + 1 + i) % 16)) = some j := by
    refine List.find?_range_eq_some.mpr ⟨by simp [hready, hlate], List.mem_range.mpr hj, fun i hi => ?_⟩
    simpa [imp_iff_not_or] using hbefore i hi
  rw [State.nextSlot, List.find?_map]
  exact congrArg (Option.map _) hfind

theorem issue_of_head (h : FirstReady s core k late) (ht : s.thread (core * 16 + k) = some t) (hm : t.micro = none) (cut : Bool) :
    issue s core cut late = { issuedBy s core k with issuing := some (.thread (core * 16 + k)), cutNow := cut } := by
  have ht' : (issuedBy s core k).thread (core * 16 + k) = some t := ht
  unfold issuedBy at ht'
  simp only [issue, h.nextSlot_eq, ht', hm]
  rfl

theorem issue_of_micro {f : Finish} (h : FirstReady s core k late) (ht : s.thread (core * 16 + k) = some t) (hm : t.micro = some f)
    (cut : Bool) : issue s core cut late = runMicro (issuedBy s core k) (core * 16 + k) t f := by
  have ht' : (issuedBy s core k).thread (core * 16 + k) = some t := ht
  unfold issuedBy at ht'
  simp only [issue, h.nextSlot_eq, ht', hm]
  rfl

end

/-! ### The line of a thread's PC (R38, R73, R97) -/

section
variable {s : State} {tid : Nat} {t : Thread} {img : Line}

theorem current_count (s : State) (t : Thread) : (t.current s).count = (t.executing.map Chunk.count).getD 0 := by
  unfold Thread.current
  cases t.executing <;> rfl

/-- A fault at the first head of a chunk, with nothing older in flight and at the thread's turn, is taken (R366); here of any
machine, as a line is entered before a head is issued. -/
theorem stopped_fault_of_count_eq_zero {c : Chunk} (hc : c.count = 0) (ho : t.older = []) (hn : TakesNow t) (cause : Nat)
    (v : Word) : stopped s tid t c (.fault cause v) = takeTrap s tid { t with chunks := [] } cause v := by
  have hturn : t.atTurn = true := by
    obtain hd | hp := hn
    · simp [Thread.atTurn, hd]
    · simp [Thread.atTurn, hp]
  simp [stopped, headFault, faultAt, hturn, hc, ho]

theorem enterImage_of_passes (h : lineReason img (headIndex t) = 0) :
    enterImage s tid t img = s.setThread tid (withLine t img) := if_pos h

theorem enterImage_of_fails (h : lineReason img (headIndex t) ≠ 0) (hc : (t.executing.map Chunk.count).getD 0 = 0)
    (ho : t.older = []) (hn : TakesNow t) : enterImage s tid t img = takeTrap s tid { withLine t img with chunks := [] } 0x01
      (BitVec.ofNat 64 (lineReason img (headIndex t))) :=
  (if_neg h).trans (stopped_fault_of_count_eq_zero (t := withLine t img) ((current_count _ _).trans hc) ho hn _ _)

theorem NeedsLine.thread_eq (h : NeedsLine s tid t) : s.thread tid = some t := h.1

theorem NeedsLine.fetching (h : NeedsLine s tid t) : s.fetching tid t = true := by
  obtain ⟨-, hruns, hmicro, hready, hbegin⟩ := h
  simp [State.fetching, hruns, hmicro, hready, hbegin]

/-- The line that stands in the buffer is entered without a fetch. -/
theorem NeedsLine.enters_buffered (h : NeedsLine s tid t) (hf : t.fetch = some (t.arch.pc.toNat / 64, img)) (cached : Bool) :
    lineArrival s tid cached = enterImage s tid t img := by
  have hfilter : t.fetch.filter (fun f => decide (f.1 = t.arch.pc.toNat / 64)) = some (t.arch.pc.toNat / 64, img) := by
    rw [hf]
    exact if_pos (decide_eq_true rfl)
  simp only [lineArrival, h.thread_eq, h.fetching, if_true, hfilter]

theorem NeedsLine.reason_ne_zero (h : NeedsLine s tid t) (hf : t.fetch = some (t.arch.pc.toNat / 64, img)) :
    lineReason img (headIndex t) ≠ 0 := by
  obtain ⟨-, -, -, hready, -⟩ := h
  simpa [Thread.lineReady, hf, headIndex] using hready

theorem NeedsLine.enters_fetched {cached : Bool} {m : Mach} (h : NeedsLine s tid t)
    (hn : ∀ f, t.fetch = some f → f.1 ≠ t.arch.pc.toNat / 64)
    (hr : (fetchOp cached (lineAddr t.arch.pc)).run (Mach.start s tid t) = .ok img m) :
    lineArrival s tid cached = enterImage m.st tid { t with denied := m.th.denied } img := by
  have hfilter : t.fetch.filter (fun f => decide (f.1 = t.arch.pc.toNat / 64)) = none :=
    Option.filter_eq_none_iff.mpr fun f hf => by simpa using hn f hf
  simp only [lineArrival, h.thread_eq, h.fetching, if_true, hfilter, hr]

theorem run_fetchOp_dropped {m : Mach} {va : Word} {e : TlbEntry} {s1 : State}
    (h : tlbLookup m.st m.core m.ar.guild va.toNat = some (e, s1)) :
    (fetchOp false va).run m = (fetchLine va).run { m with st := forgets m.st m.core (e.pa va.toNat) } := by
  rw [fetchOp]
  simp only [Bool.not_false, if_true]
  rw [run_bind_ok (run_get m), h, run_bind_ok (run_onState _ m)]
  rfl

end

/-! ### The end of a walk (R139) -/

/-- A walk's waiter, told that the walk has found no entry of a page. -/
def tellAbsent (page : BitVec 16 × Nat) (s : State) (x : WalkWaiter) : State :=
  match s.thread x.tid with
  | some t => s.setThread x.tid { t with absent := some page }
  | none => s

section
variable (page : BitVec 16 × Nat)

theorem thread_tellAbsent (s : State) (x : WalkWaiter) (y : Nat) : (tellAbsent page s x).thread y =
    (s.thread y).map fun u => if x.tid = y then { u with absent := some page } else u := by
  unfold tellAbsent
  split
  case h_1 t ht =>
    by_cases hy : y = x.tid
    · subst hy
      simp [ht]
    · simp [State.thread_setThread_ne s hy, Ne.symm hy]
  case h_2 ht =>
    by_cases hy : x.tid = y
    · subst hy
      simp [ht]
    · simp [hy]

theorem thread_foldl_tellAbsent (l : List WalkWaiter) (s : State) (y : Nat) : (l.foldl (tellAbsent page) s).thread y =
    (s.thread y).map fun u => if ∃ x ∈ l, x.tid = y then { u with absent := some page } else u := by
  induction l generalizing s with
  | nil => simp
  | cons x l ih =>
    rw [List.foldl_cons, ih, thread_tellAbsent, Option.map_map]
    congr 1
    funext u
    by_cases hx : x.tid = y <;> by_cases hl : ∃ x ∈ l, x.tid = y <;> simp [hx, hl]

theorem thread_foldl_tellAbsent_of_waits {l : List WalkWaiter} {s : State} {y : Nat} {u : Thread} (hu : s.thread y = some u)
    (h : ∃ x ∈ l, x.tid = y) : (l.foldl (tellAbsent page) s).thread y = some { u with absent := some page } := by
  rw [thread_foldl_tellAbsent, hu, Option.map_some, if_pos h]

theorem thread_foldl_tellAbsent_of_not (l : List WalkWaiter) (s : State) {y : Nat} (h : ∀ x ∈ l, x.tid ≠ y) :
    (l.foldl (tellAbsent page) s).thread y = s.thread y := by
  have hnone : ¬ ∃ x ∈ l, x.tid = y := fun ⟨x, hx, hy⟩ => h x hx hy
  simp [thread_foldl_tellAbsent, hnone]

theorem sameStore_foldl_tellAbsent (l : List WalkWaiter) (s : State) : State.SameStore s (l.foldl (tellAbsent page) s) := by
  induction l generalizing s with
  | nil => exact State.SameStore.refl s
  | cons x l ih =>
    refine State.SameStore.trans ?_ (ih _)
    unfold tellAbsent
    split <;> exact State.SameStore.refl s

end

section
variable {s : State} {cl i : Nat} {w : Walk}

theorem postHeld_of_ready (h : ∀ f ∈ s.fars, s.farReady f = true) (own : Option Nat) (dwords : List Nat) :
    s.postHeld own dwords = false :=
  List.any_eq_false.mpr fun f hf => by simp [h f hf]

theorem partOf_setCluster (s : State) (cl d : Nat) (v : Cluster) : (s.setCluster cl v).partOf d = s.partOf d := rfl

/-- The machine once a walk of a cluster has ended. -/
def walkGone (s : State) (cl i : Nat) : State :=
  s.setCluster cl { s.cluster cl with walks := (s.cluster cl).walks.eraseIdx i }

theorem pageWalkEnd_of_leaf {e : TlbEntry} (hw : (s.cluster cl).walks[i]? = some w) (hf : ∀ f ∈ s.fars, s.farReady f = true)
    (he : walk s.settleAll (s.partOf (cl / 100)) w.guild (w.page * 2 ^ 16) = some e) :
    pageWalkEnd s cl i = (walkGone s cl i).setCluster cl
      { (walkGone s cl i).cluster cl with tlb := (e :: (s.cluster cl).tlb).take 4096 } := by
  simp only [pageWalkEnd, hw, postHeld_of_ready hf, Bool.false_eq_true, if_false, partOf_setCluster, he]
  rfl

theorem pageWalkEnd_of_absent (hw : (s.cluster cl).walks[i]? = some w) (hf : ∀ f ∈ s.fars, s.farReady f = true)
    (he : walk s.settleAll (s.partOf (cl / 100)) w.guild (w.page * 2 ^ 16) = none) :
    pageWalkEnd s cl i = w.waiters.foldl (tellAbsent (w.guild, w.page)) (walkGone s cl i) := by
  simp only [pageWalkEnd, hw, postHeld_of_ready hf, Bool.false_eq_true, if_false, partOf_setCluster, he]
  rfl

end

/-! ### Results and the ends of waits (R126, R217, R267, R288, R300) -/

section
variable {s : State} {tid : Nat} {t : Thread}

theorem sfuResult_eq {core : Nat} {e : SfuEntry} {es : List SfuEntry} (hq : (s.core core).sfu = e :: es)
    (ht : s.thread e.tid = some t) : sfuResult s core = (s.setCore core { s.core core with sfu := es }).setThread e.tid
      { t with arch := t.arch.setV e.v e.value } := by
  have ht' : (s.setCore core { s.core core with sfu := es }).thread e.tid = some t := ht
  simp only [sfuResult, hq, ht']

theorem waitaEvaluation_eq (ht : s.thread tid = some t) {w : Watch} (hr : t.run = .watch w true) (hd : isDet s t = false) :
    waitaEvaluation s tid = s.setThread tid { t with run := .running } := by
  unfold isDet at hd
  simp only [waitaEvaluation, ht, hr, hd, Bool.false_eq_true, if_false]

theorem pollInterval_eq (ht : s.thread tid = some t) {w : Watch} {b : Bool} (hr : t.run = .watch w b) (hp : w.polls = true)
    (hdue : w.due ≤ s.time) (hd : isDet s t = false) : pollInterval s tid = s.setThread tid { t with run := .running } := by
  unfold isDet at hd
  simp only [pollInterval, ht, hr, hp, decide_eq_true hdue, hd, Bool.not_false, Bool.and_self, if_true]

theorem matrixWake_eq (ht : s.thread tid = some t) {d : BitVec 6} (hr : t.run = .matrix d) (ho : matrixOut s tid = 0) :
    matrixWake s tid = s.setThread tid { t with run := .running } := by
  simp only [matrixWake, ht, hr, ho, if_true]

theorem engineWake_eq (ht : s.thread tid = some t) {d : BitVec 6} (hr : t.run = .engine d) (ho : engineOut s tid = 0) :
    engineWake s tid = s.setThread tid { t with run := .running } := by
  simp only [engineWake, ht, hr, ho, if_true]

/-- A commit to its block, the end of an interval where no directory watches, or the end of its instance wakes an RDQ.w (R300). -/
theorem reductionWake_eq (ht : s.thread tid = some t) {d : BitVec 6} {blk due : Nat} {woken polls : Bool}
    (hr : t.run = .reduction d blk woken polls due)
    (hw : woken = true ∨ polls = true ∧ due ≤ s.time ∨
      polls = false ∧ (∀ r ∈ s.reductions, r.block ≠ blk) ∧ s.savedInstance blk = none) :
    reductionWake s tid = s.setThread tid { t with run := .running } := by
  have hcond : (woken || (polls && decide (due ≤ s.time)) ||
      (!polls && !((s.reductions.any fun r => r.block = blk) || (s.savedInstance blk).isSome))) = true := by
    obtain rfl | ⟨rfl, hdue⟩ | ⟨rfl, hnone, hsaved⟩ := hw
    · rfl
    · simp [hdue]
    · have hany : (s.reductions.any fun r => r.block = blk) = false := by simpa using hnone
      simp [hsaved, hany]
  simp only [reductionWake, ht, hr, hcond, if_true]

end

/-! ### The events -/

/-- What an event makes of the machine is the state it goes to. -/
theorem goes_of_eq {i : Instr} {s s1 s' : State} (he : exec i s = .next s1) (h : s1 = s') : Goes i s s' := h ▸ he

/-- A walk that finds no entry is told to the threads that wait for it, and to no other (R139). -/
theorem goes_pageWalkEnd_absent {s : State} {cl i : Nat} {w : Walk} (hw : (s.cluster cl).walks[i]? = some w)
    (hf : ∀ f ∈ s.fars, s.farReady f = true)
    (he : walk s.settleAll (s.partOf (cl / 100)) w.guild (w.page * 2 ^ 16) = none) :
    ∃ s', Goes (.pageWalkEnd cl i) s s' ∧ SameBytes s s' ∧
      (∀ x, (∀ y ∈ w.waiters, y.tid ≠ x) → s'.thread x = s.thread x) ∧
      ∀ x u, s.thread x = some u → (∃ y ∈ w.waiters, y.tid = x) →
        s'.thread x = some { u with absent := some (w.guild, w.page) } := by
  have hgone : State.SameStore s (walkGone s cl i) := ⟨rfl, State.banksOf_setCluster rfl⟩
  exact ⟨_, goes_of_eq rfl (pageWalkEnd_of_absent hw hf he), (hgone.trans (sameStore_foldl_tellAbsent _ _ _)).sameBytes,
    fun x hx => thread_foldl_tellAbsent_of_not _ _ (walkGone s cl i) hx,
    fun x u hu hx => thread_foldl_tellAbsent_of_waits _ (s := walkGone s cl i) hu hx⟩

/-- Settles O46, event by event. -/
theorem issueEvents : Obligations.IssueEvents := by
  intro s tid core t
  refine ⟨?issue, ?buffered, ?fetched, ?walkEnd, ?sfu, ?waits⟩
  case issue =>
    intro k cut late h ht
    exact ⟨fun hm => goes_of_eq rfl (issue_of_head h ht hm cut), fun _ hm => goes_of_eq rfl (issue_of_micro h ht hm cut)⟩
  case buffered =>
    intro h img cached hf hc ho hn
    exact goes_of_eq rfl ((h.enters_buffered hf cached).trans
      (enterImage_of_fails (h.reason_ne_zero hf) ((current_count s t).symm.trans hc) ho hn))
  case fetched =>
    intro h hf
    refine ⟨fun img m hg => ⟨fun h0 => ?passes, fun h0 hc ho hn => ?fails⟩, fun e s1 img m hl hg h0 => ?dropped⟩
    case passes => exact goes_of_eq rfl ((h.enters_fetched (cached := true) hf hg).trans (enterImage_of_passes h0))
    case fails =>
      exact goes_of_eq rfl ((h.enters_fetched (cached := true) hf hg).trans
        (enterImage_of_fails h0 ((current_count s t).symm.trans hc) ho hn))
    case dropped =>
      have hrun := (run_fetchOp_dropped (m := Mach.start s tid t) hl).trans hg
      exact goes_of_eq rfl ((h.enters_fetched hf hrun).trans (enterImage_of_passes h0))
  case walkEnd =>
    intro cl i w hw hf
    exact ⟨fun e he => goes_of_eq rfl (pageWalkEnd_of_leaf hw hf he), goes_pageWalkEnd_absent hw hf⟩
  case sfu => exact fun e es hq ht => goes_of_eq rfl (sfuResult_eq hq ht)
  case waits =>
    intro ht
    exact ⟨fun _ hr hd => goes_of_eq rfl (waitaEvaluation_eq ht hr hd),
      fun _ _ hr hp hdue hd => goes_of_eq rfl (pollInterval_eq ht hr hp hdue hd),
      fun _ hr ho => goes_of_eq rfl (matrixWake_eq ht hr ho), fun _ hr ho => goes_of_eq rfl (engineWake_eq ht hr ho),
      fun _ _ _ _ _ hr hw => goes_of_eq rfl (reductionWake_eq ht hr hw)⟩

/-! ### The manual's words -/

/-- Settles O33: each of the words is decoded. -/
theorem decodeWords : Obligations.DecodeWords := by
  unfold Obligations.DecodeWords
  decide

end Sys2Proof.Claims
end

section

namespace Sys2Proof.Machine

open Claims

/-! ### Where a transfer of control goes (R44, R91-R96) -/

/-- The target of form B, as the manual writes it (R44). -/
theorem branchTarget_eq_targetB (pc : Word) (off : BitVec 21) (hi : BitVec 5) : branchTarget pc off hi = targetB pc off hi := by
  have hoff : sx off <<< 6 = BitVec.ofInt 64 (64 * off.toInt) := by
    rw [BitVec.shiftLeft_eq_mul_twoPow, sx, signExtend_eq_ofInt off (by decide), Int.mul_comm, BitVec.ofInt_mul]
    rfl
  have hline : lineAddr pc = BitVec.ofInt 64 (pc.toNat / 64 * 64 : Nat) := (BitVec.ofInt_natCast ..).symm
  have hhi : hi.setWidth 64 = BitVec.ofNat 64 hi.toNat := by
    rw [setWidth_eq_ofInt, BitVec.ofInt_natCast]
  rw [branchTarget, targetB, hoff, hline, hhi, ← BitVec.ofInt_add]

/-! ### The mask tests (R95) -/

section
variable {n x : Nat} {f : Nat → Bool}

theorem bne_zero_eq_any (h : x < 2 ^ n) (hf : ∀ k < n, x.testBit k = f k) : (x != 0) = (List.range n).any f := by
  rw [Bool.eq_iff_iff, List.any_eq_true, bne_iff_ne]
  constructor
  · intro hx
    obtain ⟨k, hk⟩ := Nat.exists_testBit_of_ne_zero hx
    have hkn : k < n := (Nat.pow_lt_pow_iff_right (by decide)).mp (Nat.lt_of_le_of_lt (Nat.ge_two_pow_of_testBit hk) h)
    exact ⟨k, List.mem_range.mpr hkn, hf k hkn ▸ hk⟩
  · rintro ⟨k, hk, hfk⟩ rfl
    rw [← hf k (List.mem_range.mp hk), Nat.zero_testBit] at hfk
    cases hfk

theorem succ_beq_two_pow_eq_all (h : x < 2 ^ n) (hf : ∀ k < n, x.testBit k = f k) :
    (x + 1 == 2 ^ n) = (List.range n).all f := by
  rw [Bool.eq_iff_iff, List.all_eq_true, beq_iff_eq]
  have hones : x + 1 = 2 ^ n ↔ x = 2 ^ n - 1 := by omega
  rw [hones]
  constructor
  · rintro rfl k hk
    rw [← hf k (List.mem_range.mp hk), Nat.testBit_two_pow_sub_one]
    exact decide_eq_true (List.mem_range.mp hk)
  · intro hall
    refine Nat.eq_of_testBit_eq fun k => ?_
    rw [Nat.testBit_two_pow_sub_one]
    by_cases hk : k < n
    · rw [hf k hk, hall k (List.mem_range.mpr hk), decide_eq_true hk]
    · rw [decide_eq_false hk]
      exact Nat.testBit_lt_two_pow (Nat.lt_of_lt_of_le h (Nat.pow_le_pow_right (by decide) (Nat.le_of_not_lt hk)))

end

section
variable (ar : Arch) (d : BitVec 3) (a : BitVec 2)

theorem testedCount_eq_testedNum : testedCount ar a = testedNum ar a := by
  simp [testedCount, testedNum, field]

theorem testBit_testedBits {k : Nat} (h : k < testedNum ar a) : (testedBits ar d a).testBit k = tested ar d k := by
  rw [testedBits, testedCount_eq_testedNum, Nat.testBit_mod_two_pow, decide_eq_true h, Bool.true_and]
  rfl

theorem testedBits_lt : testedBits ar d a < 2 ^ testedNum ar a := by
  rw [testedBits, testedCount_eq_testedNum]
  exact Nat.mod_lt _ (Nat.two_pow_pos _)

theorem testsAny_eq : (testedBits ar d a != 0) = (List.range (testedNum ar a)).any (tested ar d) :=
  bne_zero_eq_any (testedBits_lt ar d a) fun _ hk => testBit_testedBits ar d a hk

theorem testsAll_eq :
    (testedBits ar d a + 1 == 2 ^ testedCount ar a) = (List.range (testedNum ar a)).all (tested ar d) := by
  rw [testedCount_eq_testedNum]
  exact succ_beq_two_pow_eq_all (testedBits_lt ar d a) fun _ hk => testBit_testedBits ar d a hk

theorem testsNone_eq : (testedBits ar d a == 0) = (List.range (testedNum ar a)).all fun k => !tested ar d k := by
  rw [← List.not_any_eq_all_not, ← testsAny_eq, bne, Bool.not_not]

end

/-! ### The operations of the transfers -/

/-- What a transfer makes of the machine, from its target where it does not fall through. -/
def goTo (target : Option Word) (m : Mach) : Mach :=
  { m with npc := target.getD m.npc, th := if target.isSome then m.th.enterLine else m.th }

section
variable (m : Mach)

theorem run_opJump (d : BitVec 6) (off : BitVec 21) (hi : BitVec 5) : (opJump d off hi).run m =
    .ok ⟨⟩ (goTo (some (targetB m.ar.pc off hi)) { m with ar := m.ar.setX d m.npc }) := by
  rw [← branchTarget_eq_targetB]
  rfl

theorem run_opJumpReg (d a : BitVec 6) : (opJumpReg d a).run m =
    .ok ⟨⟩ (goTo (some (m.ar.getX a)) { m with ar := m.ar.setX d m.npc }) := rfl

theorem run_goTo_ite (c : Prop) [Decidable c] (v : Word) : (if c then jumpTo v else pure ()).run m =
    .ok ⟨⟩ (goTo (if c then some v else none) m) := by
  split <;> rfl

theorem run_opBranch (d a : BitVec 6) (off : BitVec 21) (hi : BitVec 5) (c : Word → Word → Bool) :
    (opBranch d a off hi c).run m =
      .ok ⟨⟩ (goTo (if c (m.ar.getX d) (m.ar.getX a) then some (targetB m.ar.pc off hi) else none) m) := by
  rw [← branchTarget_eq_targetB]
  exact run_goTo_ite m _ _

theorem run_opMaskBranch (d : BitVec 3) (a : BitVec 2) (off : BitVec 21) (hi : BitVec 5) (c : Nat → Nat → Bool)
    (hv : (d ≠ 0 || a ≠ 0) = true → vecAllowed m.ar = true) : (opMaskBranch d a off hi c).run m =
      .ok ⟨⟩ (goTo (if c (testedBits m.ar d a) (testedCount m.ar a) then some (targetB m.ar.pc off hi) else none) m) := by
  rw [← branchTarget_eq_targetB, opMaskBranch, run_ite]
  split
  next h => exact (run_bind_ok (run_needVec (hv h))).trans (run_goTo_ite m _ _)
  next => exact run_goTo_ite m _ _

end

end Sys2Proof.Machine

namespace Sys2Proof.Claims

open Sys2Proof.Machine

/-! ### The transfers of control (R91-R96) -/

section
variable {s : State} {tid : Nat} {t : Thread} {i : Instr} {op : M Unit} {d : BitVec 6} {link : Word} {target target' : Option Word}

/-- What a transfer leaves, as R41 and R92-R95 give it. -/
def transferred (next : Word) (d : BitVec 6) (link : Word) (target : Option Word) (m : Mach) : Mach :=
  { onAr (fun a => a.setX d link) m with
    npc := target.getD next
    th := if target.isSome ∧ m.th.stale = true then { m.th with fetch := none, stale := false } else m.th }

theorem goTo_found (s : State) (tid : Nat) (t : Thread) (d : BitVec 6) (link : Word) (target : Option Word) :
    goTo target (onAr (fun a => a.setX d link) (found s tid t)) = transferred t.nextHead d link target (found s tid t) := by
  cases target with
  | none => rfl
  | some v =>
    simp only [goTo, transferred, Thread.enterLine, Option.isSome_some, if_true, true_and]
    rfl

/-- A head whose operation goes to a target, having linked. -/
theorem Begins.links (hb : Begins s tid t) (he : exec i s = runHead s op)
    (h : op.run (found s tid t) = .ok () (goTo target' (onAr (fun a => a.setX d link) (found s tid t)))) (ht : target' = target) :
    Completes i s tid t (transferred t.nextHead d link target) := by
  subst ht
  exact hb.retires he (h.trans (congrArg (EStateM.Result.ok ()) (goTo_found ..)))

/-- A head whose operation goes to a target, and links nothing. -/
theorem Begins.goes (hb : Begins s tid t) (he : exec i s = runHead s op)
    (h : op.run (found s tid t) = .ok () (goTo target' (found s tid t))) (ht : target' = target) :
    Completes i s tid t (transferred t.nextHead 0 0 target) :=
  hb.links he h ht

variable {off : BitVec 21} {hi : BitVec 5}

/-- A branch taken on two registers. -/
theorem Begins.branches {d a : BitVec 6} {c : Word → Word → Bool} {p : Prop} [Decidable p] (hb : Begins s tid t)
    (he : exec i s = runHead s (opBranch d a off hi c)) (hc : c (t.arch.getX d) (t.arch.getX a) = decide p) :
    Completes i s tid t (transferred t.nextHead 0 0 (if p then some (targetB t.arch.pc off hi) else none)) := by
  refine hb.goes he (run_opBranch _ d a off hi c) ?_
  rw [show (found s tid t).ar = t.arch from rfl, hc]
  simp only [decide_eq_true_eq]

/-- A branch taken on the bits of a mask. -/
theorem Begins.tests {d : BitVec 3} {a : BitVec 2} {c : Nat → Nat → Bool} {p : Bool} (hb : Begins s tid t)
    (he : exec i s = runHead s (opMaskBranch d a off hi c)) (hv : (d ≠ 0 || a ≠ 0) = true → vecAllowed t.arch = true)
    (hc : c (testedBits t.arch d a) (testedCount t.arch a) = p) :
    Completes i s tid t (transferred t.nextHead 0 0 (if p then some (targetB t.arch.pc off hi) else none)) :=
  hb.goes he (run_opMaskBranch _ d a off hi c hv) (hc ▸ rfl)

end

/-- Each transfer goes where the table says, and links what it says. -/
theorem Begins.completes_of_transfer {s : State} {tid : Nat} {t : Thread} {i : Instr} {d : BitVec 6} {link : Word}
    {target : Option Word} (hb : Begins s tid t) (h : transfer t.arch t.nextHead i = some (d, link, target))
    (hv : testsVector i = true → vecAllowed t.arch = true) :
    Completes i s tid t (transferred t.nextHead d link target) := by
  cases i with
  | nop => cases h; exact hb.goes rfl rfl rfl
  | j off hi => cases h; exact hb.goes rfl (run_opJump _ 0 off hi) rfl
  | jl d off hi => cases h; exact hb.links rfl (run_opJump _ d off hi) rfl
  | jr a => cases h; exact hb.goes rfl (run_opJumpReg _ 0 a) rfl
  | jlr d a => cases h; exact hb.links rfl (run_opJumpReg _ d a) rfl
  | beq d a off hi => cases h; exact hb.branches rfl (beq_eq_decide ..)
  | bne d a off hi => cases h; exact hb.branches rfl decide_not.symm
  | blt d a off hi => cases h; exact hb.branches rfl rfl
  | bge d a off hi => cases h; exact hb.branches rfl (by simp [BitVec.slt, ← decide_not])
  | bltu d a off hi => cases h; exact hb.branches rfl rfl
  | bgeu d a off hi => cases h; exact hb.branches rfl (by simp [BitVec.ult, ← decide_not])
  | bz d off hi => cases h; exact hb.branches rfl (beq_eq_decide ..)
  | bnz d off hi => cases h; exact hb.branches rfl decide_not.symm
  | bmany d a off hi => cases h; exact hb.tests rfl hv (testsAny_eq ..)
  | bmnone d a off hi => cases h; exact hb.tests rfl hv (testsNone_eq ..)
  | bmall d a off hi => cases h; exact hb.tests rfl hv (testsAll_eq ..)
  | _ => cases h

/-- Settles O3, by the target and the link of each transfer. -/
theorem transferResults : Obligations.TransferResults := fun _ _ _ _ _ _ _ => Begins.completes_of_transfer

/-! ### The heads that end their chunk (R123, R124, R127, R160, R386) -/

section
variable {s : State} {tid : Nat} {t : Thread} {i : Instr}

/-- A head that ends its chunk, and does nothing else. -/
theorem Begins.ends {f : Finish} (hb : Begins s tid t) (ha : Free t)
    (he : exec i s = runHead s (do notArming; endWith f)) : Completes i s tid t (endsAs f) :=
  hb.retires he ((run_bind_ok ha.run_notArming).trans (run_endWith f _))

/-- EXIT outside a gate. -/
theorem Begins.exits (hb : Begins s tid t) (ha : Free t) (hd : t.arch.depth = 0) :
    Completes .exit s tid t (endsAs .exit) := by
  refine hb.retires rfl ((run_bind_ok ha.run_notArming).trans ((run_bind_ok (run_get _)).trans ?_))
  have hin : decide ((found s tid t).ar.depth ≠ 0) = false := decide_eq_false (not_not_intro hd)
  rw [hin]
  rfl

end

/-- Settles O4: each head ends its chunk behind the check of R351, EXIT behind that of its depth as well. -/
theorem chunkEndResults : Obligations.ChunkEndResults := fun _ _ _ hb ha =>
  ⟨hb.ends ha rfl, hb.ends ha rfl, hb.ends ha rfl, hb.ends ha rfl, hb.exits ha⟩

end Sys2Proof.Claims
end

section

namespace Sys2Proof.Machine

open Claims

/-! ### A completed head (R98, R99, R101) -/

section
variable (t : Thread)

theorem nextChunk_run : t.nextChunk.run = t.run := by
  unfold Thread.nextChunk
  split <;> rfl

theorem nextChunk_arch : t.nextChunk.arch = t.arch := by
  unfold Thread.nextChunk
  split <;> rfl

end

section
variable (m : Mach) (cut : Bool)

/-- The chunk ends behind the head: at its limit, or where the hardware cuts. -/
def Mach.ends : Bool := decide (m.ch.limit ≤ m.ch.count + m.counts) || (cut && !m.ar.det && !m.ch.prec && m.th.denied.isNone)

/-- The chunk with a completed head. -/
def Mach.chunkAfter : Chunk :=
  { m.ch with
    count := m.ch.count + m.counts
    fin := match m.fin with
      | some f => f
      | none => if m.ends cut then .cut else m.ch.fin
    stage := if m.fin.isSome || m.ends cut then .ended else m.ch.stage }

/-- The registers after a completed head. -/
def Mach.archAfter : Arch :=
  { m.ar with
    pc := m.npc
    wdcount := if m.fin = some .yield ∨ m.fin = some .waita then 0 else m.ar.wdcount + m.counts }

theorem wdAfter_eq (n counts : Nat) (fin : Option Finish) :
    wdAfter n counts fin = if fin = some .yield ∨ fin = some .waita then 0 else n + counts := by
  unfold wdAfter
  cases fin with
  | none => rfl
  | some f => cases f <;> simp [Finish.resetsCount]

/-- A completed head changes its thread alone. -/
theorem exists_thread_of_retire : ∃ t', m.retire cut = m.st.setThread m.tid t' ∧ t'.run = m.th.run ∧
    t'.arch = m.archAfter ∧ t'.chunks = m.th.chunks ++ [m.chunkAfter cut] := by
  have harch : { m.ar with pc := m.npc, wdcount := wdAfter m.ar.wdcount m.counts m.fin } = m.archAfter := by
    rw [wdAfter_eq]
    rfl
  have hends : cutsHere { m.th with arch := m.archAfter, born := none, squashes := 0, precise := none, absent := none, replies := [] }
      { m.ch with count := m.ch.count + m.counts } cut = m.ends cut := rfl
  unfold Mach.retire
  simp only [harch, hends]
  cases hf : m.fin with
  | some f =>
    refine ⟨_, rfl, nextChunk_run _, nextChunk_arch _, ?_⟩
    simp only [Mach.chunkAfter, hf, Option.isSome_some, Bool.true_or, if_true]
    rfl
  | none =>
    cases he : m.ends cut with
    | true =>
      refine ⟨_, rfl, nextChunk_run _, nextChunk_arch _, ?_⟩
      simp only [Mach.chunkAfter, hf, he, Bool.or_true, if_true]
      rfl
    | false =>
      refine ⟨_, rfl, rfl, rfl, ?_⟩
      simp only [Mach.chunkAfter, hf, he]
      rfl

end

/-! ### The thread at a fault of a head (R366) -/

theorem atTurn_iff (t : Thread) : t.atTurn = true ↔ TakesNow t := by
  simp [Thread.atTurn, TakesNow]

section
variable {t : Thread} {c : Chunk}

theorem chunks_of_executing (h : t.executing = some c) : t.chunks = t.older ++ [c] := by
  have holder : t.older = t.chunks.dropLast := by simp [Thread.older, h]
  unfold Thread.executing at h
  split at h
  next d hd =>
    split at h
    · cases h
      rw [holder, List.dropLast_append_getLast? _ hd]
    · cases h
  next => cases h

theorem older_of_not_executing (h : t.executing = none) : t.older = t.chunks := by
  simp [Thread.older, h]

theorem current_of_executing (s : State) (h : t.executing = some c) : t.current s = c := by
  simp [Thread.current, h]

theorem getElem?_older (h : t.executing = some c) : t.chunks[t.older.length]? = some c := by
  rw [chunks_of_executing h, List.getElem?_concat_length]

theorem take_older (t : Thread) : t.chunks.take t.older.length = t.older := by
  cases h : t.executing with
  | some c => rw [chunks_of_executing h, List.take_left]
  | none => rw [older_of_not_executing h, List.take_length]

/-! ### A thread back at the start of a chunk (R115, R366) -/

variable {i : Nat} (h : t.chunks[i]? = some c)
include h

theorem rewind_arch : (t.rewind i).arch = c.start := by simp [Thread.rewind, h]
theorem rewind_chunks : (t.rewind i).chunks = t.chunks.take i := by simp [Thread.rewind, h]
theorem rewind_run : (t.rewind i).run = .running := by simp [Thread.rewind, h]
theorem rewind_pending : (t.rewind i).pending = none := by simp [Thread.rewind, h]

end

section
variable {s : State} {tid : Nat} {t : Thread} {c : Chunk} {cause : Nat} {v : Word}

theorem headFault_off_turn (h : ¬ TakesNow t) : headFault s tid t c cause v = s.setThread tid
    { t with chunks := if 0 < c.count then t.older ++ [c] else t.older, pending := some (.trap cause v) } := by
  rw [headFault, if_neg (mt (atTurn_iff t).mp h)]

/-- Behind an older chunk in flight the fault of a first head waits, whether the turn has come or not. -/
theorem headFault_of_behind (hc : c.count = 0) (ho : t.older ≠ []) : headFault s tid t c cause v = s.setThread tid
    { t with chunks := t.older, pending := some (.trap cause v) } := by
  by_cases hn : TakesNow t
  · simp [headFault, (atTurn_iff t).mpr hn, faultAt, hc, ho]
  · simp [headFault_off_turn hn, hc]

/-- Behind other heads of its chunk a fault drops the chunk, which executes again up to it in precise mode. -/
theorem headFault_of_inside (he : t.executing = some c) (hc : 0 < c.count) (hn : TakesNow t) :
    headFault s tid t c cause v =
      (s.dropUnits tid [c]).setThread tid { t.rewind t.older.length with precise := some c.count } := by
  rw [headFault, if_pos ((atTurn_iff t).mpr hn), faultAt, if_pos hc, ← chunks_of_executing he]

theorem headFault_of_first (hc : c.count = 0) (ho : t.older = []) (hn : TakesNow t) :
    headFault s tid t c cause v = takeTrap s tid { t with chunks := [] } cause v :=
  stopped_fault_of_count_eq_zero hc ho hn cause v

end

/-! ### The watchdog (R129) -/

section
variable {s : State} {tid : Nat} {t : Thread}

theorem wdFires_of_reached (h0 : t.arch.wdlimit ≠ 0) (hl : t.arch.wdlimit.toNat ≤ t.arch.wdcount) : wdFires t.arch = true := by
  rw [wdFires, decide_eq_true h0, decide_eq_true hl, Bool.and_self]

theorem headStep_ends_chunk (hw : wdFires t.arch = true) (hc : 0 < (t.current s).count) (cut rep : Bool) (op : M Unit) :
    headStep s cut tid t rep op = s.setThread tid (t.endChunk t.older (t.current s)) := by
  rw [headStep, if_pos hw, if_pos hc]

theorem headStep_traps (hw : wdFires t.arch = true) (hc : (t.current s).count = 0) (ho : t.older = []) (hn : TakesNow t)
    (cut rep : Bool) (op : M Unit) :
    headStep s cut tid t rep op = takeTrap s tid { t with chunks := [] } 0x10 t.arch.wdlimit := by
  rw [headStep, if_pos hw, if_neg (by omega), headFault_of_first hc ho hn]

end

/-- Every instruction of a thread is a head of some operation. -/
theorem exists_runHeadAs {i : Instr} (hi : OfThread i) (s : State) : ∃ rep op, exec i s = runHeadAs s rep op := by
  cases i
  case benchInstruction | epWaitact | epPubobs | epEnd | epInfo | epVer | epRand | epRandh | start | abort | action |
    versionAdvance | lineArrival | issue | commitRequest | commitGrant | signatureDelivery | commitAcknowledgement |
    farAtomicApply | widenScope | fillReply | probe | packetArrival | nack | deterministicTurn | waitaEvaluation |
    pollInterval | watchdog | preciseReexecution | trapDelivery | pageFaultPark | machineCheck | eventRecordWrite |
    engineChunk | linkPayloadAck | drainWrite | loomCommand | panelCommand | panelReady | sfuResult | matrixWaitWake
    | engineWaitWake | reductionWaitWake | contributionArrival | reductionTimeout | taskPop | stealRequest |
    stealBackoff | taskMessageApply | counterDecrement | doorbell | quantumBoundary | slotService | launchPlacement
    | crewEnd | barrierRelease | startJoin | phaseStart | phaseEnd | exchangeChunk | gangStop | stopRecordWrite |
    resumption | snapshotEnd | snapshotRestore | recorderFreeze | waitactReturn | instructionBudget | timeBudget |
    hostRead | hostWrite | hostAtomicop | peerRequest | linkTimeout | linkRefusal | modnumLearn | stopreq | resume |
    pfdeny | tlbcmdPage | tlbcmdGuild | tlbcmdAll | tlbinvComplete | lbrelPlace | lbrelSkip | modcfg |
    foremanRegisterWrite | firmwareUpdate | powerWindow | powerHold | drawMeasurement | thermalHold | thermalStop |
    ageingCheck | patrolScrub | lineCheckMismatch | moduleReset | linkCompletion | backInvalidateAnswer |
    pageWalkEnd | writeBack | snapshotLinkFailure | thermalRelease | firmwareUpdateEnd | shareRestore =>
    exact hi.elim (fun hb => absurd rfl hb) nofun
  all_goals exact ⟨_, _, rfl⟩

end Sys2Proof.Machine

namespace Sys2Proof.Claims

open Sys2Proof.Machine

/-- Settles O39: a completed head changes its thread alone. -/
theorem retireFrame : Obligations.RetireFrame := by
  intro m cut
  obtain ⟨t', hretire, hrun, harch, hchunks⟩ := exists_thread_of_retire m cut
  rw [hretire]
  exact ⟨rfl, fun x hx => State.thread_setThread_ne m.st hx t',
    t', m.chunkAfter cut, State.thread_setThread_self m.st m.tid t', hchunks, hrun, harch, rfl⟩

/-! ### The watchdog and the faults of a head (R129, R366) -/

theorem watchdogResults : WatchdogResults := by
  intro s tid t hi ht h0 hl i hof
  have hw := wdFires_of_reached h0 hl
  obtain ⟨rep, op, he⟩ := exists_runHeadAs hof s
  have hstep : exec i s = .next (headStep (here s) s.cutNow tid t rep op) := by
    simp only [he, runHeadAs, hi, ht]
    rfl
  rw [hstep]
  exact ⟨fun hc => congrArg Host.Outcome.next (headStep_ends_chunk hw hc _ _ _),
    fun hc ho hn => congrArg Host.Outcome.next (headStep_traps hw hc ho hn _ _ _)⟩

section
variable {s : State} {tid : Nat} {t : Thread} {i : Instr} {cause : Nat} {v : Word}

/-- A head that does nothing but fault. -/
theorem Begins.faults (hb : Begins s tid t) (h : faultOf t i = some (cause, v)) :
    exec i s = .next (headFault (here s) tid t (t.current (here s)) cause v) := by
  cases i with
  | trap n =>
    obtain ⟨ha, hv⟩ : t.arch.arming = none ∧ (0x15, BitVec.ofNat 64 n.toNat) = (cause, v) := by simpa [faultOf] using h
    cases hv
    refine hb.stops (op := notArming >>= fun _ => throw (.fault 0x15 (BitVec.ofNat 64 n.toNat))) ?_ (Free.run_throw ha _)
    rw [BitVec.ofNat_toNat]
    rfl
  | brk n =>
    obtain ⟨ha, hv⟩ : t.arch.arming = none ∧ (0x0F, (0 : Word)) = (cause, v) := by simpa [faultOf] using h
    cases hv
    exact hb.stops (i := .brk n) (op := notArming >>= fun _ => throw (.fault 0x0F 0)) rfl (Free.run_throw ha _)
  | illegalOpcode w => cases h; exact hb.stops (i := .illegalOpcode _) (op := throw (.fault 0x02 _)) rfl rfl
  | _ => cases h

end

theorem preciseFaults : PreciseFaults := by
  intro s tid t i cause v hb hf
  rw [hb.faults hf]
  refine ⟨?offTurn, ?inside, ?behind, ?first, ?precise, fun c cut hp => ?cuts⟩
  case offTurn =>
    intro c he hc hn
    rw [current_of_executing _ he, headFault_off_turn hn, if_pos hc]
  case inside =>
    intro c he hc hn
    have hat := getElem?_older he
    rw [current_of_executing _ he, headFault_of_inside he hc hn]
    exact ⟨_, _, rfl, State.thread_setThread_self .., rewind_arch hat, (rewind_chunks hat).trans (take_older t), rfl, rewind_run hat,
      fun x hx => State.thread_setThread_ne _ hx _, rfl⟩
  case behind => exact fun hfirst ho => congrArg Host.Outcome.next (headFault_of_behind hfirst ho)
  case first =>
    refine fun hfirst ho => ⟨fun hn => congrArg Host.Outcome.next (headFault_of_first hfirst ho hn), fun hd hp => ?_⟩
    have hn : ¬ TakesNow t := by simp [TakesNow, hd, hp]
    have hc : ¬ 0 < (t.current (here s)).count := Nat.not_lt.mpr (Nat.le_of_eq hfirst)
    rw [headFault_off_turn hn, if_neg hc, ho]
  case precise =>
    intro k hp he
    simp [Thread.current, he, Chunk.fresh, Thread.nextLimit, hp]
  case cuts => simp [cutsHere, hp]

/-- Settles O41: the watchdog stands before every head, and the faults of a head are those of R366. -/
theorem faultsArePrecise : Obligations.FaultsArePrecise := ⟨watchdogResults, preciseFaults⟩

end Sys2Proof.Claims
end

section

namespace Sys2Proof.Machine

open Claims

/-! ### Operations that leave the registers as they are -/

/-- Where an operation answers from given registers, it leaves these. -/
def KeepsArch {α : Type} (a : Arch) (p : M α) (m : Mach) : Prop := m.ar = a → ∀ x m', p.run m = .ok x m' → m'.ar = a

section
variable {α β : Type} {a : Arch} {m : Mach}

theorem ar_of_ok {p : M α} {x : α} {m' : Mach} (hp : ∀ a, KeepsArch a p m) (h : p.run m = .ok x m') : m'.ar = m.ar :=
  hp m.ar rfl x m' h

@[simp] theorem keepsArch_pure (x : α) : KeepsArch a (pure x) m := fun ha _ _ h => by cases h; exact ha
@[simp] theorem keepsArch_throw (e : Stop) : KeepsArch a (throw e : M α) m := fun _ _ _ h => nomatch h
@[simp] theorem keepsArch_onChunk (f : Chunk → Chunk) : KeepsArch a (onChunk f) m := fun ha _ _ h => by cases h; exact ha
@[simp] theorem keepsArch_onState (f : State → State) : KeepsArch a (onState f) m := fun ha _ _ h => by cases h; exact ha
@[simp] theorem keepsArch_set (m' : Mach) : KeepsArch a (set m' : M PUnit) m ↔ (m.ar = a → m'.ar = a) :=
  ⟨fun h ha => h ha _ _ rfl, fun h ha _ _ hr => by cases hr; exact h ha⟩
@[simp] theorem keepsArch_modify (f : Mach → Mach) : KeepsArch a (modify f : M PUnit) m ↔ (m.ar = a → (f m).ar = a) :=
  ⟨fun h ha => h ha _ _ rfl, fun h ha _ _ hr => by cases hr; exact h ha⟩

@[simp] theorem keepsArch_get : KeepsArch a (get : M Mach) m := fun ha _ _ h => by cases h; exact ha
@[simp] theorem keepsArch_get_bind (f : Mach → M α) : KeepsArch a (get >>= f) m ↔ KeepsArch a (f m) m := Iff.rfl
@[simp] theorem keepsArch_throw_bind (e : Stop) (f : α → M β) : KeepsArch a ((throw e : M α) >>= f) m :=
  fun _ _ _ h => nomatch h

/-- One operation after another: the second is looked at wherever the first may leave it. -/
@[simp] theorem keepsArch_bind {p : M α} {f : α → M β} (hp : ∀ a, KeepsArch a p m) :
    KeepsArch a (p >>= f) m ↔ ∀ x m', p.run m = .ok x m' → KeepsArch a (f x) m' := by
  constructor
  · intro h x m' hx ha
    have hm : m.ar = a := (ar_of_ok hp hx).symm.trans ha
    intro y m'' hy
    exact h hm y m'' ((run_bind_ok hx).trans hy)
  · intro h ha y m'' hy
    obtain ⟨x, m', hx, hf⟩ := bind_ok hy
    exact h x m' hx ((ar_of_ok hp hx).trans ha) y m'' hf

@[simp] theorem keepsArch_map {p : M α} {f : α → β} : KeepsArch a (f <$> p) m ↔ KeepsArch a p m := by
  have hmap : (f <$> p).run m = match p.run m with
      | .ok x m' => .ok (f x) m'
      | .error e m' => .error e m' := by
    change EStateM.map f p m = _
    unfold EStateM.map EStateM.run
    cases p m <;> rfl
  cases hp : p.run m with
  | ok x m' => simp [KeepsArch, hmap, hp]
  | error e m' => simp [KeepsArch, hmap, hp]

@[simp] theorem keepsArch_ite (c : Prop) [Decidable c] (p q : M α) :
    KeepsArch a (if c then p else q) m ↔ (c → KeepsArch a p m) ∧ (¬c → KeepsArch a q m) := by
  split <;> simp [*]

end

/-! Each rule below is about one operation of the model, in the model's order. -/

section
variable (a : Arch) (m : Mach)

@[simp] theorem setSt_ar (s : State) : (m.setSt s).ar = m.ar := rfl

@[simp] theorem keepsArch_needBlock (code block : Nat) : KeepsArch a (needBlock code block) m := by simp [needBlock]

@[simp] theorem keepsArch_leafOf (va : Word) (cause : Nat) (tval : Word) : KeepsArch a (leafOf va cause tval) m := by
  simp only [leafOf, keepsArch_get_bind, keepsArch_bind, keepsArch_ite, keepsArch_needBlock, implies_true]
  refine ⟨fun _ _ m' hb => ?_, fun _ => ?_⟩
  · have har := ar_of_ok (by simp) hb
    split <;> simp [har]
  · split <;> simp

@[simp] theorem keepsArch_locateWindow (va : Word) : KeepsArch a (locateWindow va) m := by simp [locateWindow]

@[simp] theorem keepsArch_locateAs (k : Access) (cause : Nat) (va tval : Word) : KeepsArch a (locateAs k cause va tval) m := by
  simp only [locateAs, keepsArch_get_bind, keepsArch_throw_bind, keepsArch_bind, keepsArch_ite, keepsArch_locateWindow,
    keepsArch_leafOf, implies_true, true_and]
  intros
  split <;> simp

@[simp] theorem keepsArch_locate (k : Access) (va : Word) : KeepsArch a (locate k va) m := by simp [locate]

@[simp] theorem keepsArch_locateAtom (k : Access) (va : Word) (edge : Bool) : KeepsArch a (locateAtom k va edge) m := by
  simp [locateAtom]

@[simp] theorem keepsArch_askWiden (line : Nat) : KeepsArch a (askWiden line) m := by simp [askWiden]

@[simp] theorem keepsArch_needScope (line : Nat) : KeepsArch a (needScope line) m := by
  simp only [needScope, keepsArch_get_bind]
  split <;> simp

@[simp] theorem keepsArch_takeLine (set line : Nat) : KeepsArch a (takeLine set line) m := by simp [takeLine]
@[simp] theorem keepsArch_noteRead (l : Loc) : KeepsArch a (noteRead l) m := by simp [noteRead]
@[simp] theorem keepsArch_waitFars (pa n : Nat) : KeepsArch a (waitFars pa n) m := by simp [waitFars]

@[simp] theorem keepsArch_waitEach (xs : List Far) : KeepsArch a (waitEach xs) m := by
  induction xs generalizing a m with
  | nil => simp [waitEach]
  | cons x xs ih => simp [waitEach, ih]

@[simp] theorem keepsArch_askLink (pa n : Nat) (va : Word) : KeepsArch a (askLink pa n va) m := by simp [askLink]

@[simp] theorem keepsArch_readLink (pa n : Nat) (va : Word) : KeepsArch a (readLink pa n va) m := by
  simp only [readLink, keepsArch_get_bind]
  split <;> simp

@[simp] theorem keepsArch_baseRun (pl : Place) (pa n : Nat) (va : Word) : KeepsArch a (baseRun pl pa n va) m := by simp [baseRun]

@[simp] theorem keepsArch_foldEach (pl : Place) (xs : List Far) : KeepsArch a (foldEach pl xs) m := by
  induction xs generalizing a m with
  | nil => simp [foldEach]
  | cons x xs ih => simp [foldEach, ih]

@[simp] theorem keepsArch_foldFars (l : Loc) (n : Nat) : KeepsArch a (foldFars l n) m := by simp [foldFars]
@[simp] theorem keepsArch_needHome (l : Loc) : KeepsArch a (needHome l) m := by simp [needHome]
@[simp] theorem keepsArch_readAt (l : Loc) (va : Word) (n : Nat) : KeepsArch a (readAt l va n) m := by simp [readAt]

end

/-! ### The operations of the waits (R125, R179) -/

theorem memAddr_eq_addrM (m : Mach) (a : BitVec 6) (disp : BitVec 16) : memAddr m a disp = addrM m.ar a disp :=
  add_sx_eq_ofInt _ disp (by decide)

theorem toNat_lowBytes (m : Mach) (r : BitVec 6) (z : BitVec 1) :
    (lowBytes m r (atomSize z)).toNat = (m.ar.getX r).toNat % 2 ^ (8 * atomSize z) := by
  have hpow : 2 ^ (8 * atomSize z) ≤ 2 ^ 64 := Nat.pow_le_pow_right (by decide) (by unfold atomSize; split <;> decide)
  rw [lowBytes, BitVec.toNat_ofNat]
  exact Nat.mod_eq_of_lt (Nat.lt_of_lt_of_le (Nat.mod_lt _ (Nat.two_pow_pos _)) hpow)

theorem run_needAligned {va : Word} {n : Nat} (h : va.toNat % n = 0) (m : Mach) : (needAligned va n).run m = .ok ⟨⟩ m := by
  rw [needAligned, decide_eq_false (not_not_intro h), run_faultIf_false]

/-- A wait for a word as a head evaluates it. -/
def watchFor (m : Mach) (va : Word) (l : Loc) (n cond c : Nat) (d : BitVec 6) (take polls : Bool) : Watch where
  va := va
  pa := l.pa
  n := n
  cond := cond
  c := BitVec.ofNat 64 c
  d := d
  take := take
  polls := polls
  due := m.st.time + pollCycles

section
variable {m m1 m2 m3 : Mach} {l : Loc} {bs : List Byte}

/-- A word aligned, located and read, before a head goes on from it. -/
theorem run_evaluation {p : M Loc} {f : Loc → List Byte → Mach → M Unit} {va : Word} {n : Nat} (ha : va.toNat % n = 0)
    (hl : Gives p m l m1) (hr : Gives (readAt l va n) m1 bs m2) :
    (do
      needAligned va n
      let l ← p
      let b ← readAt l va n
      let m ← get
      f l b m : M Unit).run m = (f l bs m2).run m2 := by
  rw [run_bind_ok (run_needAligned ha m), run_bind_ok hl, run_bind_ok hr, run_bind_ok (run_get m2)]

variable (d rb ra : BitVec 6) (z : BitVec 1) (disp : BitVec 16)

theorem run_opWaita (k : BitVec 2) (ha : m.ar.arming = none) (hc : m.ch.count = 0)
    (hal : (memAddr m ra disp).toNat % (if z = 0 then 8 else 4) = 0)
    (hl : Gives (locate .load (memAddr m ra disp)) (endsAs .alone m) l m1)
    (hr : Gives (readAt l (memAddr m ra disp) (if z = 0 then 8 else 4)) m1 bs m2) :
    (opWaita d z k rb ra disp).run m =
      if waitHolds k.toNat (if z = 0 then 8 else 4) (ofBytes bs)
          ((m.ar.getX rb).toNat % 2 ^ (8 * if z = 0 then 8 else 4)) then
        .ok ⟨⟩ (endsAs .waita (putX d (BitVec.ofNat 64 (ofBytes bs)) m2))
      else .error (.sleep (.watch (watchFor m2 (memAddr m ra disp) l (if z = 0 then 8 else 4) k.toNat
        ((m.ar.getX rb).toNat % 2 ^ (8 * if z = 0 then 8 else 4)) d false l.place.beyond) false)) m2 := by
  refine (run_bind_ok (run_notArming ha)).trans ((run_bind_ok (run_get m)).trans ((run_bind_ok (run_standAlone hc)).trans
    ((run_evaluation hal hl hr).trans ?_)))
  rw [run_ite]
  rfl

theorem run_opSwait (ha : m.ar.arming = none) (hc : m.ch.count = 0) (hal : (memAddr m ra disp).toNat % atomSize z = 0)
    (hl : Gives (locate .load (memAddr m ra disp)) (endsAs .alone m) l m1)
    (hr : Gives (readAt l (memAddr m ra disp) (atomSize z)) m1 bs m2) :
    (opSwait d z rb ra disp).run m =
      if (lowBytes m rb (atomSize z)).toNat ≤ ofBytes bs then
        .ok ⟨⟩ (endsAs .waita (putX d (BitVec.ofNat 64 (ofBytes bs)) m2))
      else .error (.sleep (.watch (watchFor m2 (memAddr m ra disp) l (atomSize z) 2
        ((m.ar.getX rb).toNat % 2 ^ (8 * atomSize z)) d false l.place.beyond) false)) m2 := by
  refine (run_bind_ok (run_notArming ha)).trans ((run_bind_ok (run_standAlone hc)).trans ((run_bind_ok (run_get _)).trans
    ((run_evaluation hal hl hr).trans ?_)))
  rw [run_ite]
  rfl

/-- What SWAIT.take leaves to its grant: the word is decremented there. -/
def takesAt (l : Loc) (va : Word) (n : Nat) (c : Word) (d : BitVec 6) (m : Mach) : Mach :=
  { m with ch := { m.ch with atom := some { pa := l.pa, va, n, op := .take c, d }, stores := m.ch.stores ++ [(m.ch.count, l.pa, va)] } }

/-- SWAIT.take behind its checks and its read. -/
theorem run_opSwaitTake (ha : m.ar.arming = none) (hc : m.ch.count = 0) (hd : m.ar.det = false)
    (hal : (memAddr m ra disp).toNat % atomSize z = 0)
    (hl : Gives (locateAtom .update (memAddr m ra disp) false) (endsAs .alone m) l m1)
    (hr : Gives (readAt l (memAddr m ra disp) (atomSize z)) m1 bs m2) :
    (opSwaitTake d z rb ra disp).run m =
      if (lowBytes m rb (atomSize z)).toNat ≤ ofBytes bs then
        (do noteWrite l; modify (takesAt l (memAddr m ra disp) (atomSize z) (lowBytes m rb (atomSize z)) d); endWith .waita).run m2
      else .error (.sleep (.watch (watchFor m2 (memAddr m ra disp) l (atomSize z) 2
        ((m.ar.getX rb).toNat % 2 ^ (8 * atomSize z)) d true false) false)) m2 := by
  have hfault : (faultIf (endsAs .alone m).ar.det 0x08 0).run (endsAs .alone m) = .ok ⟨⟩ (endsAs .alone m) := by
    rw [show (endsAs .alone m).ar.det = false from hd, run_faultIf_false]
  refine (run_bind_ok (run_notArming ha)).trans ((run_bind_ok (run_standAlone hc)).trans ((run_bind_ok (run_get _)).trans
    ((run_bind_ok hfault).trans ((run_evaluation hal hl hr).trans ?_))))
  rw [run_ite]
  rfl

end

end Sys2Proof.Machine

namespace Sys2Proof.Claims

open Sys2Proof.Machine

/-! ### Waits whose condition holds, and the sleep of the others (R125, R126, R179) -/

section
variable {s : State} {tid : Nat} {t : Thread} {i : Instr} {op : M Unit}

/-- A head, the first of its chunk, whose operation falls asleep with the registers as it found them. -/
theorem Begins.sleepsAt {w : Watch} {m : Mach} (hb : Begins s tid t) (hf : First s t) (he : exec i s = runHead s op)
    (har : m.ar = t.arch) (h : op.run (found s tid t) = .error (.sleep (.watch w false)) m) :
    SleepsAt i s tid t w.va w.pa w.n w.take := by
  obtain ⟨hi, t0, ht, hw, rfl⟩ := hb
  have hc : ¬ 0 < (t0.clearRep.current { s with issuing := none, cutNow := false }).count := Nat.not_lt.mpr (Nat.le_of_eq hf)
  have hexec := he.trans (runHead_error hi ht hw h)
  simp only [unissue_of_ne (s := _) (tid := tid) (e := .sleep (.watch w false)) (by simp), stopped, hc, if_false, har] at hexec
  exact ⟨_, _, w, hexec, State.thread_setThread_self .., rfl, rfl, rfl, rfl, rfl, rfl, rfl⟩

end

section
variable {l : Loc} {va : Word} {n : Nat} {m m1 m2 : Mach} {bs : List Byte}

/-- The registers after a word has been located and read. -/
theorem ar_of_evaluation {p : M Loc} (hp : ∀ a, KeepsArch a p m) (hl : Gives p m l m1) (hr : Gives (readAt l va n) m1 bs m2) :
    m2.ar = m.ar :=
  (ar_of_ok (by simp) hr).trans (ar_of_ok hp hl)

end

theorem waitSatisfied : WaitSatisfied := by
  intro s tid t d rb ra z k disp hb ha hf n n2 va m
  have hva : memAddr (found s tid t) ra disp = va := memAddr_eq_addrM ..
  have hlow : (lowBytes (found s tid t) rb n2).toNat = (t.arch.getX rb).toNat % 2 ^ (8 * n2) := toNat_lowBytes ..
  refine ⟨fun l m1 bs m2 hal hl hr hholds => ?waita, fun l m1 bs m2 hal hl hr hholds => ?swait,
    fun l m1 bs m2 m3 hal hd hl hr hholds hw => ?take⟩
  case waita =>
    exact hb.retires rfl ((run_opWaita (m := found s tid t) d rb ra z disp k ha hf (hva ▸ hal) (hva ▸ hl) (hva ▸ hr)).trans
      (if_pos hholds))
  case swait =>
    exact hb.retires rfl ((run_opSwait (m := found s tid t) d rb ra z disp ha hf (hva ▸ hal) (hva ▸ hl) (hva ▸ hr)).trans
      (if_pos (hlow ▸ hholds)))
  case take =>
    refine hb.retires rfl ((run_opSwaitTake (m := found s tid t) d rb ra z disp ha hf hd (hva ▸ hal) (hva ▸ hl) (hva ▸ hr)).trans
      ((if_pos (hlow ▸ hholds)).trans ((run_bind_ok hw).trans ?_)))
    rw [hva]
    rfl

theorem waitSleeps : WaitSleeps := by
  intro s tid t d rb ra z k disp hb ha hf n n2 va m
  have hva : memAddr (found s tid t) ra disp = va := memAddr_eq_addrM ..
  have hlow : (lowBytes (found s tid t) rb n2).toNat = (t.arch.getX rb).toNat % 2 ^ (8 * n2) := toNat_lowBytes ..
  refine ⟨fun l m1 bs m2 hal hl hr hfails => ?waita, fun l m1 bs m2 hal hl hr hfails => ?swait,
    fun l m1 bs m2 hal hd hl hr hfails => ?take⟩
  case waita =>
    have hrun := (run_opWaita (m := found s tid t) d rb ra z disp k ha hf (hva ▸ hal) (hva ▸ hl) (hva ▸ hr)).trans 
      (if_neg (Bool.eq_false_iff.mp hfails))
    exact hva ▸ hb.sleepsAt hf rfl (ar_of_evaluation (by simp) hl hr) hrun
  case swait =>
    have hrun := (run_opSwait (m := found s tid t) d rb ra z disp ha hf (hva ▸ hal) (hva ▸ hl) (hva ▸ hr)).trans
      (if_neg (hlow ▸ Nat.not_le.mpr hfails))
    exact hva ▸ hb.sleepsAt hf rfl (ar_of_evaluation (by simp) hl hr) hrun
  case take =>
    have hrun := (run_opSwaitTake (m := found s tid t) d rb ra z disp ha hf hd (hva ▸ hal) (hva ▸ hl) (hva ▸ hr)).trans
      (if_neg (hlow ▸ Nat.not_le.mpr hfails))
    exact hva ▸ hb.sleepsAt hf rfl (ar_of_evaluation (by simp) hl hr) hrun

/-- Settles O8: the word read decides whether the head completes or its thread sleeps at the word. -/
theorem waitResults : Obligations.WaitResults := ⟨waitSatisfied, waitSleeps⟩

end Sys2Proof.Claims
end

section

namespace Sys2Proof.Machine

open Claims

/-! ### What the recorders, the reports and a squash leave alone -/

namespace State

section
variable (s : State)

theorem record_threads (core kind slot detail no : Nat) : (s.record core kind slot detail no).threads = s.threads := by
  unfold record
  split <;> rfl

theorem record_parts (core kind slot detail no : Nat) : (s.record core kind slot detail no).parts = s.parts := by
  unfold record
  split <;> rfl

theorem record_net (core kind slot detail no : Nat) : (s.record core kind slot detail no).net = s.net := by
  unfold record
  split <;> rfl

theorem record_time (core kind slot detail no : Nat) : (s.record core kind slot detail no).time = s.time := by
  unfold record
  split <;> rfl

theorem record_modcfg (core kind slot detail no : Nat) : (s.record core kind slot detail no).modcfg = s.modcfg := by
  unfold record
  split <;> rfl

theorem mem_freezes_askFreeze (p reason : Nat) : reason ∈ ((s.askFreeze p reason).part p).freezes := by
  rw [askFreeze, part_setPart_self]
  dsimp only
  split
  next h => exact List.contains_iff_mem.mp h
  next => exact List.mem_append_right _ List.mem_cons_self

end

section
variable {s s' : State}

theorem SameBytes.readRun (h : SameBytes s s') (pa n : Nat) : s'.readRun pa n = s.readRun pa n := by
  induction n generalizing pa with
  | zero => rfl
  | succ n ih => rw [State.readRun, State.readRun, h pa, ih]

/-- A guild's entry is what the partition's table and memory make it. -/
theorem guildEntry_congr (hb : SameBytes s s') (p : Nat) (hc : (s'.part p).guildCache = (s.part p).guildCache)
    (ht : (s'.part p).guildTab = (s.part p).guildTab) (g : BitVec 16) : s'.guildEntry p g = s.guildEntry p g := by
  simp only [guildEntry, hc, ht, readWord, readVal, SameBytes.readRun hb]

end

section
variable {s : State} {tid i : Nat} {t : Thread} {c : Chunk}

/-- A squash puts its thread back at the start of the chunk. -/
theorem squash_eq (ht : s.thread tid = some t) (hc : t.chunks[i]? = some c) : s.squash tid i =
    ((s.dropUnits tid (t.chunks.drop i)).setThread tid { t.rewind i with
      limit := if t.arch.det || c.prec then t.limit else halfLimit c.limit, squashes := c.squashed + 1 }).record
        (coreOf tid) 2 (slotOf tid) 0 t.commitno := by
  simp only [squash, ht, hc]

theorem sameStore_squash (s : State) (tid i : Nat) : SameStore s (s.squash tid i) := by
  unfold squash
  split
  · exact .refl s
  · split
    · exact .refl s
    · exact ⟨(record_mem ..).trans rfl, congrArg banksOf ((record_clusters ..).trans rfl)⟩

theorem exists_thread_squash (ht : s.thread tid = some t) (hc : t.chunks[i]? = some c) : ∃ u, (s.squash tid i).thread tid = some u ∧
    u.arch = c.start ∧ u.chunks = t.chunks.take i := by
  rw [squash_eq ht hc, thread, record_threads]
  exact ⟨_, assocGet?_assocSet_self .., rewind_arch hc, rewind_chunks hc⟩

end

end State

/-! ### Parking on a page fault (R372) -/

/-- The machine once a page fault has squashed the executing chunk of its thread. -/
def parkSquash (s : State) (tid : Nat) (t : Thread) : State :=
  if t.executing.isSome then s.squash tid t.older.length else s

section
variable {s : State} {tid : Nat} {t : Thread}

theorem parkSquash_frame (s : State) (tid : Nat) (t : Thread) : State.SameStore s (parkSquash s tid t) ∧
    (parkSquash s tid t).parts = s.parts ∧ (parkSquash s tid t).time = s.time ∧ (parkSquash s tid t).modcfg = s.modcfg := by
  unfold parkSquash
  split
  · refine ⟨State.sameStore_squash .., ?_⟩
    unfold State.squash
    split
    · exact ⟨rfl, rfl, rfl⟩
    · split
      · exact ⟨rfl, rfl, rfl⟩
      · exact ⟨(State.record_parts ..).trans rfl, (State.record_time ..).trans rfl, (State.record_modcfg ..).trans rfl⟩
  · exact ⟨.refl s, rfl, rfl, rfl⟩

theorem exists_thread_parkSquash (ht : s.thread tid = some t) : ∃ u, (parkSquash s tid t).thread tid = some u ∧
    u.chunks = t.older ∧ ∀ c, t.executing = some c → u.arch = c.start := by
  unfold parkSquash
  cases he : t.executing with
  | none => exact ⟨t, ht, (older_of_not_executing he).symm, fun _ h => by cases h⟩
  | some c =>
    obtain ⟨u, hu, harch, hchunks⟩ := State.exists_thread_squash ht (getElem?_older he)
    refine ⟨u, hu, hchunks.trans (take_older t), fun d hd => ?_⟩
    cases hd
    exact harch

theorem accessGuild_eq_accessesAs (t : Thread) : t.accessGuild = accessesAs t := rfl

/-- The report of a page fault, its entry in the recorder and the freeze it asks for. -/
def parkReport (s : State) (tid : Nat) (t : Thread) (cause : Nat) (va : Word) : State :=
  let p := crewPart t.crew
  let s := (s.record (coreOf tid) 4 (slotOf tid) cause t.commitno).askFreeze p 2
  let ring := if ((s.guildEntry p t.accessGuild).getD 0 0).getLsbD 60 then some t.accessGuild else none
  s.report p ring 1 cause (s.vcnReg tid) t.l t.accessGuild.toNat t.crew va

theorem pageFaultPark_eq {cause : Nat} {va : Word} {u : Thread} (ht : s.thread tid = some t) (hp : t.pending = some (.page cause va))
    (hu : (parkSquash s tid t).thread tid = some u) : pageFaultPark s tid = (parkReport (parkSquash s tid t) tid t cause va).setThread tid
      { u with run := .parked cause va, pending := none, absent := none, micro := t.micro } := by
  have hu' : (parkReport (parkSquash s tid t) tid t cause va).thread tid = some u :=
    (congrArg (assocGet? tid) (State.record_threads (parkSquash s tid t) ..)).trans hu
  simp only [pageFaultPark, ht, hp]
  unfold parkReport parkSquash at *
  simp only [hu']

/-- The report of a page fault, its entry in the recorder and the freeze leave memory and the banks alone. -/
theorem sameStore_parkReport (s : State) (tid : Nat) (t : Thread) (cause : Nat) (va : Word) :
    State.SameStore s (parkReport s tid t cause va) :=
  ⟨record_mem s .., congrArg State.banksOf (record_clusters s ..)⟩

end

/-! ### Reports (R374) -/

/-- A report names its thread by the numbers that the partition ranges and the clock give. -/
theorem reportOf_congr {s s' : State} (h : s'.time = s.time) : reportOf s' = reportOf s := by
  funext
  simp only [reportOf, h]

theorem vcnReg_congr {s s' : State} (h : s'.modcfg = s.modcfg) (tid : Nat) : s'.vcnReg tid = s.vcnReg tid := by
  simp only [State.vcnReg, State.vcnOf, State.partOf, h]

theorem part_congr {s s' : State} (h : s'.parts = s.parts) (p : Nat) : s'.part p = s.part p := by
  simp only [State.part, h]

theorem events_askFreeze (s : State) (p reason : Nat) : ((s.askFreeze p reason).part p).events = (s.part p).events := by
  rw [State.askFreeze, State.part_setPart_self]

theorem guildCache_askFreeze (s : State) (p reason : Nat) : ((s.askFreeze p reason).part p).guildCache = (s.part p).guildCache := by
  rw [State.askFreeze, State.part_setPart_self]

theorem guildTab_askFreeze (s : State) (p reason : Nat) : ((s.askFreeze p reason).part p).guildTab = (s.part p).guildTab := by
  rw [State.askFreeze, State.part_setPart_self]

theorem sameStore_recordFreeze (s : State) (core kind slot detail no p reason : Nat) :
    State.SameStore s ((s.record core kind slot detail no).askFreeze p reason) :=
  ⟨record_mem s .., congrArg State.banksOf (record_clusters s ..)⟩

theorem events_report (s : State) (p : Nat) (ring : Option (BitVec 16)) (kind cause vcn l guild crew : Nat) (d2 : Word) :
    ((s.report p ring kind cause vcn l guild crew d2).part p).events =
      (s.part p).events ++ [reportOf s p ring kind cause vcn l guild crew d2] := by
  rw [State.report, State.part_setPart_self]
  rfl

section
variable {s s1 : State} {tid : Nat} {t : Thread}

/-- The report of a page fault names the thread as it was before the squash, and goes to the ring of the guild that its next access
is made under, where that has one. -/
theorem reports_parkReport (hb : State.SameStore s s1) (hparts : s1.parts = s.parts) (htime : s1.time = s.time)
    (hmod : s1.modcfg = s.modcfg) (cause : Nat) (va : Word) : Reports s (parkReport s1 tid t cause va) tid t (accessesAs t)
      (if ((s.guildEntry (crewPart t.crew) (accessesAs t)).getD 0 0).getLsbD 60 then some (accessesAs t) else none) 1 cause va := by
  have hrec := part_congr (State.record_parts s1 (coreOf tid) 4 (slotOf tid) cause t.commitno) (crewPart t.crew)
  have hpart := part_congr hparts (crewPart t.crew)
  have hentry : ((s1.record (coreOf tid) 4 (slotOf tid) cause t.commitno).askFreeze (crewPart t.crew) 2).guildEntry (crewPart t.crew)
      (accessesAs t) = s.guildEntry (crewPart t.crew) (accessesAs t) :=
    State.guildEntry_congr (hb.trans (sameStore_recordFreeze ..)).sameBytes _
      ((guildCache_askFreeze ..).trans (by rw [hrec, hpart])) ((guildTab_askFreeze ..).trans (by rw [hrec, hpart])) _
  have htime' : ((s1.record (coreOf tid) 4 (slotOf tid) cause t.commitno).askFreeze (crewPart t.crew) 2).time = s.time :=
    (State.record_time s1 ..).trans htime
  have hmod' : ((s1.record (coreOf tid) 4 (slotOf tid) cause t.commitno).askFreeze (crewPart t.crew) 2).modcfg = s.modcfg :=
    (State.record_modcfg s1 ..).trans hmod
  simp only [Reports, parkReport, accessGuild_eq_accessesAs, events_report, events_askFreeze, hentry, reportOf_congr htime',
    vcnReg_congr hmod', hrec, hpart]

/-- A page fault parks its thread with its chunk dropped. -/
theorem exists_pageFaultPark {cause : Nat} {va : Word} (ht : s.thread tid = some t) (hp : t.pending = some (.page cause va)) :
    ∃ t', (pageFaultPark s tid).thread tid = some t' ∧ t'.run = .parked cause va ∧ t'.pending = none ∧ t'.chunks = t.older ∧
      (∀ c, t.executing = some c → t'.arch = c.start) ∧ SameBytes s (pageFaultPark s tid) ∧
      Reports s (pageFaultPark s tid) tid t (accessesAs t)
        (if ((s.guildEntry (crewPart t.crew) (accessesAs t)).getD 0 0).getLsbD 60 then some (accessesAs t) else none) 1 cause va := by
  obtain ⟨u, hu, hchunks, harch⟩ := exists_thread_parkSquash ht
  obtain ⟨hstore, hparts, htime, hmod⟩ := parkSquash_frame s tid t
  rw [pageFaultPark_eq ht hp hu]
  exact ⟨_, State.thread_setThread_self .., rfl, rfl, hchunks, harch,
    (hstore.trans (sameStore_parkReport (parkSquash s tid t) tid t cause va)).sameBytes,
    reports_parkReport hstore hparts htime hmod cause va⟩

end

/-! ### Errors in what a thread consumes (R376, R437, R438) -/

section
variable {s : State} {tid : Nat} {t : Thread} {va : Word}

/-- A thread that consumes something: its next head is ready, or waits for its line. -/
theorem consumes_of_ready_or_needsLine (h : s.ready tid = true ∨ NeedsLine s tid t) :
    (!s.ready tid && !s.fetching tid t) = false := by
  obtain hr | hn := h
  · simp [hr]
  · simp [hn.fetching]

theorem sameStore_reportCheck (s : State) (tid : Nat) (t : Thread) (va : Word) : State.SameStore s (s.reportCheck tid t va) :=
  ⟨(record_mem ..).trans rfl, congrArg State.banksOf ((record_clusters ..).trans rfl)⟩

theorem reports_reportCheck (hm : t.micro = none) :
    Reports s (s.reportCheck tid t va) tid t t.arch.guild none 5 0x11 va := by
  have hguild : t.accessGuild = t.arch.guild := by simp only [Thread.accessGuild, hm]
  have hpart : ((s.askFreeze (crewPart t.crew) 1).part (crewPart t.crew)).events = (s.part (crewPart t.crew)).events :=
    events_askFreeze ..
  rw [Reports, State.reportCheck, hguild, part_congr (State.record_parts ..), events_report, hpart]
  rfl

/-- The first error on a line discards the chunk that consumes it, and is reported. -/
theorem exists_dataCheck_of_new (ht : s.thread tid = some t) (hr : s.ready tid = true ∨ NeedsLine s tid t) (hm : t.micro = none)
    (hv : va.toNat / 64 ∉ t.checked) : ∃ t', (s.dataCheck tid va).thread tid = some t' ∧
      t'.checked = t.checked ++ [va.toNat / 64] ∧ t'.chunks = t.older ∧ SameBytes s (s.dataCheck tid va) ∧
      Reports s (s.dataCheck tid va) tid t t.arch.guild none 5 0x11 va := by
  have hnew : ¬ t.checked.contains (va.toNat / 64) = true := mt List.contains_iff_mem.mp hv
  simp only [State.dataCheck, ht, consumes_of_ready_or_needsLine hr, hm, hnew, Bool.false_eq_true, if_false]
  have hbytes := (sameStore_reportCheck s tid t va).sameBytes
  cases he : t.executing with
  | some c =>
    exact ⟨_, State.thread_setThread_self .., rfl, (rewind_chunks (getElem?_older he)).trans (take_older t), hbytes,
      reports_reportCheck hm⟩
  | none =>
    exact ⟨_, State.thread_setThread_self .., rfl, (older_of_not_executing he).symm, hbytes, reports_reportCheck hm⟩

/-- A second error on a line is a fault of the head that consumes it. -/
theorem dataCheck_of_checked (ht : s.thread tid = some t) (hr : s.ready tid = true ∨ NeedsLine s tid t) (hm : t.micro = none)
    (hv : va.toNat / 64 ∈ t.checked) : s.dataCheck tid va = headFault s tid t (t.current s) 0x11 va := by
  have hold : t.checked.contains (va.toNat / 64) = true := List.contains_iff_mem.mpr hv
  simp only [State.dataCheck, ht, consumes_of_ready_or_needsLine hr, hm, hold, Bool.false_eq_true, if_false, if_true]

/-- The next head of a ready slot has its line, unless a frame or return chunk is to run. -/
theorem lineReady_of_ready (ht : s.thread tid = some t) (hm : t.micro = none) (h : s.ready tid = true) : t.lineReady = true := by
  simp only [State.ready, ht, hm, Bool.and_eq_true] at h
  exact h.2.1.1.1

/-- A thread that consumes data has its line, one that consumes code has not. -/
theorem fetching_eq (ht : s.thread tid = some t) (hr : s.ready tid = true ∨ NeedsLine s tid t) (hm : t.micro = none) :
    s.fetching tid t = !s.ready tid := by
  cases hready : s.ready tid with
  | true => simp [State.fetching, lineReady_of_ready ht hm hready]
  | false => exact (hr.resolve_left (by simp [hready])).fetching

/-- What reads a line for a thread: its data, or its code (R438). -/
def readerOf (s : State) (tid : Nat) : Nat := if s.ready tid then 0 else 1

theorem readerOf_le (s : State) (tid : Nat) : readerOf s tid ≤ 1 := by
  unfold readerOf
  split <;> decide

theorem readerOf_eq_one (s : State) (tid : Nat) : decide (readerOf s tid = 1) = !s.ready tid := by
  unfold readerOf
  cases s.ready tid <;> rfl

variable {pa : Nat} (img : Line) (check : BitVec 16)

theorem lineCheckMismatch_of_fits (hc : s.consumed tid va = some pa) {again : Bool} (h : lineCheck pa img = check ∨ again = false) :
    lineCheckMismatch s (readerOf s tid) tid va img check again = s := by
  have hfits : lineCheck pa img = check ∨ (!again) = true := h.imp_right fun ha => by rw [ha]; rfl
  simp only [lineCheckMismatch, readerOf_le, if_true, hc, hfits]

theorem lineCheckMismatch_of_differs (ht : s.thread tid = some t) (hr : s.ready tid = true ∨ NeedsLine s tid t) (hm : t.micro = none)
    (hc : s.consumed tid va = some pa) (h : lineCheck pa img ≠ check) :
    lineCheckMismatch s (readerOf s tid) tid va img check true = s.dataCheck tid va := by
  simp [lineCheckMismatch, readerOf_le, hc, h, ht, readerOf_eq_one, fetching_eq ht hr hm]

end

section
variable {s : State} {tid : Nat} {t : Thread}

/-- A parity error puts its thread back at the start of the chunk. -/
theorem parityCheck_eq {i : Nat} {c : Chunk} (ht : s.thread tid = some t) (hc : t.chunks[i]? = some c) (hu : c.ungranted = true) :
    s.parityCheck tid i = (s.dropUnits tid (t.chunks.drop i)).setThread tid (t.rewind i) := by
  simp only [State.parityCheck, ht, hc, hu, if_true]

theorem machineCheck_of_corrected (s : State) (tid : Nat) (va : Word) {k : Nat} (h : 2 ≤ k) :
    machineCheck s tid va k = s.askFreeze (s.partOf (dieOf (coreOf tid))) 1 := by
  obtain ⟨j, rfl⟩ := Nat.exists_eq_add_of_le' h
  rfl

theorem watchdog_eq (ht : s.thread tid = some t) (hr : s.ready tid = true) (hm : t.micro = none) (hw : wdFires t.arch = true) :
    watchdog s tid = headStep s false tid t false (pure ()) := by
  simp only [watchdog, ht, hr, hm, hw, Option.isNone_none, Bool.and_self, if_true]

theorem preciseReexecution_eq {k : Nat} (ht : s.thread tid = some t) (hp : t.pending = some (.precise k)) :
    preciseReexecution s tid = (s.dropUnits tid t.chunks).setThread tid { t.rewind 0 with precise := some k } := by
  simp only [preciseReexecution, ht, hp]

theorem trapDelivery_eq {cause : Nat} {v : Word} (ht : s.thread tid = some t) (hp : t.pending = some (.trap cause v))
    (hc : t.chunks = []) : trapDelivery s tid = if t.arch.det then s else s.setThread tid { t with pending := none } := by
  simp only [trapDelivery, ht, hp, hc, List.isEmpty_nil, Bool.true_and]
  cases t.arch.det <;> rfl

end

end Sys2Proof.Machine

namespace Sys2Proof.Claims

open Sys2Proof.Machine

/-- Settles O47, event by event. -/
theorem trapEvents : Obligations.TrapEvents := by
  intro s tid t ht
  refine ⟨?watchdog, ?precise, ?delivery, ?park, ?data, ?parity, ?corrected⟩
  case watchdog =>
    intro hr hm h0 hl
    have hw := wdFires_of_reached h0 hl
    exact ⟨fun hc => goes_of_eq rfl ((watchdog_eq ht hr hm hw).trans (headStep_ends_chunk hw hc _ _ _)),
      fun hc ho hn => goes_of_eq rfl ((watchdog_eq ht hr hm hw).trans (headStep_traps hw hc ho hn _ _ _))⟩
  case precise =>
    intro k c more hp hc
    have hat : t.chunks[0]? = some c := by rw [hc]; rfl
    exact ⟨_, _, goes_of_eq rfl (preciseReexecution_eq ht hp), State.thread_setThread_self .., rewind_arch hat,
      rewind_chunks hat, rfl, rewind_pending hat, rewind_run hat, State.SameStore.sameBytes ⟨rfl, rfl⟩,
      fun x hx => State.thread_setThread_ne _ hx _⟩
  case delivery =>
    intro cause v hp hc
    exact ⟨fun hd => goes_of_eq rfl ((trapDelivery_eq ht hp hc).trans (if_neg (by simp [hd]))),
      fun hd => goes_of_eq rfl ((trapDelivery_eq ht hp hc).trans (if_pos hd))⟩
  case park =>
    intro cause va hp
    obtain ⟨t', h⟩ := exists_pageFaultPark ht hp
    exact ⟨_, t', rfl, h⟩
  case data =>
    intro va hr hm
    refine ⟨fun hv => ?first, fun hv hc ho hn => ?again, fun pa img check hpa => ⟨?once, fun hf => ?fits, fun hf => ?differs⟩⟩
    case first =>
      obtain ⟨t', h⟩ := exists_dataCheck_of_new ht hr hm hv
      exact ⟨_, t', rfl, h⟩
    case again => exact goes_of_eq rfl ((dataCheck_of_checked ht hr hm hv).trans (headFault_of_first hc ho hn))
    case once => exact goes_of_eq rfl (lineCheckMismatch_of_fits img check hpa (.inr rfl))
    case fits => exact goes_of_eq rfl (lineCheckMismatch_of_fits img check hpa (.inl hf))
    case differs => exact congrArg Host.Outcome.next (lineCheckMismatch_of_differs img check ht hr hm hpa hf)
  case parity =>
    intro i c hc hu hi
    have hi' : (BitVec.ofNat 64 i).toNat = i := by rw [BitVec.toNat_ofNat, Nat.mod_eq_of_lt hi]
    refine ⟨_, _, goes_of_eq rfl ((congrArg (s.parityCheck tid) hi').trans (parityCheck_eq ht hc hu)),
      State.thread_setThread_self .., rewind_arch hc, rewind_chunks hc, rewind_run hc, State.SameStore.sameBytes ⟨rfl, rfl⟩, rfl⟩
  case corrected =>
    intro va k hk
    exact ⟨_, goes_of_eq rfl (machineCheck_of_corrected s tid va hk), rfl, State.SameStore.sameBytes ⟨rfl, rfl⟩,
      State.mem_freezes_askFreeze ..⟩

end Sys2Proof.Claims
end

section

namespace Sys2Proof.Machine

open Claims

/-! ### Bytes of HBM (R135) -/

section
variable {s : State} {pa : Nat}

theorem regionOf_of_lt (h : pa < 2 ^ 52) : regionOf pa = 0 := Nat.div_eq_of_lt h

theorem isControl_of_lt (h : pa < 2 ^ 52) : isControl pa = false := by
  simp [isControl, regionOf_of_lt h]

/-- A byte of HBM is the memory's own. -/
theorem readByte_of_lt (h : pa < 2 ^ 52) : s.readByte pa = s.mem.read pa := by
  simp [State.readByte, isControl_of_lt h, regionOf_of_lt h]

theorem writeByte_of_lt (h : pa < 2 ^ 52) (b : Byte) : s.writeByte pa b = { s with mem := s.mem.write pa b } := by
  simp [State.writeByte, isControl_of_lt h, regionOf_of_lt h]

theorem mailWord_of_lt (h : pa < 2 ^ 52) : mailWord pa = none := by
  simp [mailWord, regionOf_of_lt h]

end

/-- Cells written one after the other, each at an address of its own. -/
theorem read_foldl_write {cells : List Host.Cell} (hn : (cells.map Prod.fst).Nodup) {m : Memory} (hm : m.wf = true) (pa : Nat) :
    (cells.foldl (fun m c => m.write c.1 c.2) m).read pa = (assocGet? pa cells).getD (m.read pa) := by
  induction cells generalizing m with
  | nil => rfl
  | cons c cells ih =>
    obtain ⟨hc, hn⟩ := List.nodup_cons.mp hn
    rw [List.foldl_cons, ih hn (Memory.wf_write m c.1 c.2 hm), Memory.read_write m c.1 pa c.2 hm, assocGet?]
    by_cases h : pa = c.1
    · subst h
      have hnone : assocGet? c.1 cells = none := by
        cases hg : assocGet? c.1 cells with
        | none => rfl
        | some b => exact absurd (List.mem_map_of_mem (f := Prod.fst) (mem_of_assocGet? hg)) hc
      simp [hnone]
    · simp [h]

/-! ### Runs of bytes -/

theorem runCells_cons (pa : Nat) (b : Byte) (bs : List Byte) : runCells pa (b :: bs) = (pa, b) :: runCells (pa + 1) bs := by
  simp only [runCells, List.zipIdx_cons, List.map_cons, Nat.add_zero, Nat.zero_add]
  rw [List.zipIdx_succ, List.map_map]
  exact congrArg _ (List.map_congr_left fun e _ => by simp only [Function.comp]; rw [Nat.add_assoc, Nat.add_comm 1])

theorem le_of_mem_runCells {pa : Nat} {bs : List Byte} {c : Host.Cell} (h : c ∈ runCells pa bs) :
    pa ≤ c.1 ∧ c.1 < pa + bs.length := by
  obtain ⟨e, he, rfl⟩ := List.mem_map.mp h
  have := List.snd_lt_of_mem_zipIdx he
  exact ⟨Nat.le_add_right .., by simpa using this⟩

theorem nodup_runCells (pa : Nat) (bs : List Byte) : ((runCells pa bs).map Prod.fst).Nodup := by
  induction bs generalizing pa with
  | nil => exact List.nodup_nil
  | cons b bs ih =>
    rw [runCells_cons, List.map_cons, List.nodup_cons]
    refine ⟨fun hmem => ?_, ih (pa + 1)⟩
    obtain ⟨c, hc, hpa⟩ := List.mem_map.mp hmem
    have := (le_of_mem_runCells hc).1
    omega

/-- A byte of a run, by its address; none elsewhere. -/
theorem assocGet?_runCells (pa : Nat) (bs : List Byte) (a : Nat) :
    assocGet? a (runCells pa bs) = if a < pa then none else bs[a - pa]? := by
  induction bs generalizing pa with
  | nil => simp [runCells, assocGet?]
  | cons b bs ih =>
    rw [runCells_cons, assocGet?, ih]
    by_cases h : a = pa
    · subst h; simp
    · by_cases hl : a < pa
      · simp [h, hl, Nat.lt_succ_of_lt hl]
      · have hs : a - pa = (a - (pa + 1)) + 1 := by omega
        simp [h, hl, show ¬ a < pa + 1 by omega, hs]

/-- The value of n bytes is that of its low 8n bits (R2). -/
theorem ofBytes_bytesOf (n v : Nat) : ofBytes (bytesOf n v) = v % 2 ^ (8 * n) := by
  induction n generalizing v with
  | zero => simp [bytesOf, ofBytes, Nat.mod_one]
  | succ n ih =>
    have hpow : 2 ^ (8 * (n + 1)) = 256 * 2 ^ (8 * n) := by rw [Nat.mul_succ, Nat.pow_add]; omega
    rw [bytesOf, ofBytes, ih, hpow, Nat.mod_mul, BitVec.toNat_ofNat]

theorem readRun_eq_of_readByte {s : State} {pa : Nat} {bs : List Byte} (h : ∀ i b, bs[i]? = some b → s.readByte (pa + i) = b) :
    s.readRun pa bs.length = bs := by
  induction bs generalizing pa with
  | nil => rfl
  | cons b bs ih =>
    rw [List.length_cons, State.readRun]
    congr 1
    · exact h 0 b rfl
    · exact ih fun i c hi => by rw [Nat.add_assoc, Nat.add_comm 1]; exact h (i + 1) c hi

/-! ### What a commit writes inside the package -/

/-- All but memory, the banks and the notes of changed lines is the same. -/
def State.OnlyStored (s s' : State) : Prop := ∃ m cl d, s' = { s with mem := m, clusters := cl, dirty := d }

/-- All but the records of commits, the network and the reservations is the same. -/
def State.OnlyTold (s s' : State) : Prop :=
  ∃ bn cm nt id sq, s' = { s with benches := bn, commits := cm, net := nt, nextId := id, seqs := sq }

namespace State

section
variable {s s' s'' : State}

theorem OnlyStored.refl (s : State) : OnlyStored s s := ⟨_, _, _, rfl⟩

theorem OnlyStored.trans (h : OnlyStored s s') (h' : OnlyStored s' s'') : OnlyStored s s'' := by
  obtain ⟨m, cl, d, rfl⟩ := h
  obtain ⟨m', cl', d', rfl⟩ := h'
  exact ⟨m', cl', d', rfl⟩

theorem OnlyTold.refl (s : State) : OnlyTold s s := ⟨_, _, _, _, _, rfl⟩

theorem OnlyTold.trans (h : OnlyTold s s') (h' : OnlyTold s' s'') : OnlyTold s s'' := by
  obtain ⟨bn, cm, nt, id, sq, rfl⟩ := h
  obtain ⟨bn', cm', nt', id', sq', rfl⟩ := h'
  exact ⟨bn', cm', nt', id', sq', rfl⟩

/-- A relation between states that each step of a fold meets holds of the whole. -/
theorem foldl_rel {α : Type} {R : State → State → Prop} (hr : ∀ s, R s s) (ht : ∀ {a b c}, R a b → R b c → R a c)
    {f : State → α → State} {l : List α} (hf : ∀ s, ∀ a ∈ l, R s (f s a)) (s : State) : R s (l.foldl f s) := by
  induction l generalizing s with
  | nil => exact hr s
  | cons a l ih => exact ht (hf s a List.mem_cons_self) (ih (fun s b hb => hf s b (List.mem_cons_of_mem a hb)) _)

end

section
variable (s : State)

theorem onlyStored_noteDirty (line : Nat) : OnlyStored s (s.noteDirty line) := by
  unfold noteDirty
  split
  · exact ⟨_, _, _, rfl⟩
  · exact .refl s

theorem onlyStored_writeByte (pa : Nat) (b : Byte) : OnlyStored s (s.writeByte pa b) := by
  unfold writeByte
  split
  · exact .refl s
  · split
    · dsimp only
      split <;> exact ⟨_, _, _, rfl⟩
    · exact ⟨_, _, _, rfl⟩

theorem onlyStored_putCell (cells : List Host.Cell) (c : Host.Cell) : OnlyStored s (s.putCell cells c) := by
  unfold putCell
  split
  · unfold putControl
    split
    · exact ⟨_, _, _, rfl⟩
    · exact .refl s
  · exact (onlyStored_noteDirty s _).trans (onlyStored_writeByte ..)

theorem onlyStored_putCells (cells : List Host.Cell) : OnlyStored s (s.putCells cells) :=
  foldl_rel OnlyStored.refl OnlyStored.trans (fun s c _ => onlyStored_putCell s cells c) s

theorem onlyTold_send (cls src fret dest : Nat) (x : Payload) : OnlyTold s (s.send cls src fret dest x) := ⟨_, _, _, _, _, rfl⟩

theorem onlyTold_sendProbes (writer : Option Nat) (lines : List Nat) : OnlyTold s (s.sendProbes writer lines) :=
  foldl_rel OnlyTold.refl OnlyTold.trans (fun s _ _ => foldl_rel OnlyTold.refl OnlyTold.trans (fun _ _ _ => ⟨_, _, _, _, _, rfl⟩) s) s

theorem onlyTold_breakReservations (lines : List Nat) : OnlyTold s (s.breakReservations lines) := ⟨_, _, _, _, _, rfl⟩

theorem onlyTold_announce (p no : Nat) (tid : Option Nat) (sig : Sig) (lines : List Nat) (fars msgs acks : Nat) :
    OnlyTold s (s.announce p no tid sig lines fars msgs acks) := by
  unfold announce
  dsimp only
  refine ((onlyTold_breakReservations s lines).trans ?_).trans
    ((foldl_rel OnlyTold.refl OnlyTold.trans (fun s core _ => onlyTold_send s ..) _).trans (onlyTold_sendProbes ..))
  split
  · exact ⟨_, _, _, _, _, rfl⟩
  · exact .refl _

end

end State

/-! ### Writes to HBM -/

namespace State

theorem noteDirty_mem (s : State) (line : Nat) : (s.noteDirty line).mem = s.mem := by
  unfold noteDirty
  split <;> rfl

theorem noteDirty_clusters (s : State) (line : Nat) : (s.noteDirty line).clusters = s.clusters := by
  unfold noteDirty
  split <;> rfl

section
variable {s : State} {cells : List Host.Cell}

/-- Cells of HBM are written to memory in their order, and to no bank. -/
theorem foldl_putCell_of_lt (all : List Host.Cell) (h : ∀ x ∈ cells, x.1 < 2 ^ 52) :
    (cells.foldl (fun s c => s.putCell all c) s).mem = cells.foldl (fun m c => m.write c.1 c.2) s.mem ∧
    (cells.foldl (fun s c => s.putCell all c) s).clusters = s.clusters := by
  induction cells generalizing s with
  | nil => exact ⟨rfl, rfl⟩
  | cons c cells ih =>
    obtain ⟨hc, hcells⟩ := List.forall_mem_cons.mp h
    have hput : s.putCell all c = { s.noteDirty (lineOf c.1) with mem := (s.noteDirty (lineOf c.1)).mem.write c.1 c.2 } := by
      simp [putCell, isControl_of_lt hc, writeByte_of_lt hc]
    obtain ⟨hmem, hclusters⟩ := ih (s := s.putCell all c) hcells
    rw [List.foldl_cons, List.foldl_cons, hmem, hclusters, hput]
    exact ⟨by rw [noteDirty_mem], noteDirty_clusters ..⟩

theorem putCells_mem_of_lt (h : ∀ x ∈ cells, x.1 < 2 ^ 52) :
    (s.putCells cells).mem = cells.foldl (fun m c => m.write c.1 c.2) s.mem := (foldl_putCell_of_lt cells h).1

theorem putCells_clusters_of_lt (h : ∀ x ∈ cells, x.1 < 2 ^ 52) : (s.putCells cells).clusters = s.clusters :=
  (foldl_putCell_of_lt cells h).2

theorem wf_writeByte (pa : Nat) (b : Byte) (h : s.mem.wf = true) : (s.writeByte pa b).mem.wf = true := by
  unfold writeByte
  split
  · exact h
  · split
    · dsimp only
      split
      · exact h
      · exact Memory.wf_write _ _ _ h
    · exact Memory.wf_write _ _ _ h

theorem wf_putCell (c : Host.Cell) (h : s.mem.wf = true) : (s.putCell cells c).mem.wf = true := by
  unfold putCell
  split
  · unfold putControl
    split <;> exact h
  · exact wf_writeByte _ _ (by rw [noteDirty_mem]; exact h)

theorem wf_putCells (h : s.mem.wf = true) : (s.putCells cells).mem.wf = true :=
  List.foldlRecOn (motive := fun s : State => s.mem.wf = true) cells _ h fun _ hs c _ => wf_putCell c hs

end

end State

/-! ### Released far atomics (R171) -/

/-- The bytes that a home writes for a far atomic. -/
def farCellsOf (s : State) (f : FarPending) : List Host.Cell :=
  runCells f.far.pa (bytesOf f.far.n (farResult f.far.op f.far.n (s.readVal f.far.pa f.far.n) f.far.v.toNat))

/-- A far atomic taken from those released, and counted as applied for its commit. -/
def unreleased (s : State) (i : Nat) (f : FarPending) : State :=
  { s with fars := s.fars.eraseIdx i,
           commits := s.commits.map fun c => if c.part = f.part ∧ c.no = f.no ∧ c.tid.isSome then { c with fars := c.fars - 1 } else c }

namespace State

/-- The ranges, the partitions and the stacks are the same. -/
def SameSite (s s' : State) : Prop :=
  s'.parts = s.parts ∧ s'.modcfg = s.modcfg ∧ s'.present = s.present ∧ s'.modnum = s.modnum

section
variable {s s' : State}

theorem SameSite.refl (s : State) : SameSite s s := ⟨rfl, rfl, rfl, rfl⟩

theorem SameSite.trans {s'' : State} (h : SameSite s s') (h' : SameSite s' s'') : SameSite s s'' :=
  ⟨h'.1.trans h.1, h'.2.1.trans h.2.1, h'.2.2.1.trans h.2.2.1, h'.2.2.2.trans h.2.2.2⟩

/-- Where an address leads is what the ranges and the stacks make it. -/
theorem SameSite.beyond (h : SameSite s s') (p pa : Nat) : s'.beyond p pa = s.beyond p pa := by
  obtain ⟨-, hcfg, hpresent, hnum⟩ := h
  simp only [State.beyond, placeOf, partOf, partDies, hcfg, hpresent, hnum]
  rfl

theorem SameSite.part (h : SameSite s s') (p : Nat) : s'.part p = s.part p := part_congr h.1 p

end

section
variable (s : State) (i : Nat) (f : FarPending)

/-- A far atomic applied to its word: what is kept, and what memory and the released far atomics become. -/
theorem performFar_frame : SameSite s (s.performFar i f) ∧ (s.performFar i f).fars = s.fars.eraseIdx i ∧
    (s.performFar i f).mem = ((unreleased s i f).putCells (farCellsOf s f)).mem := by
  have hput := onlyStored_putCells (unreleased s i f) (farCellsOf s f)
  have htold : OnlyTold (((unreleased s i f).perform (farCellsOf s f)).breakReservations [lineOf f.far.pa])
      (if f.far.op = .post then (((unreleased s i f).perform (farCellsOf s f)).breakReservations [lineOf f.far.pa]).announce f.part f.no
          none (sigOfLines f.part [lineOf f.far.pa]) [lineOf f.far.pa] 0 0 0
        else ((unreleased s i f).perform (farCellsOf s f)).breakReservations [lineOf f.far.pa]) := by
    split
    · exact onlyTold_announce ..
    · exact .refl _
  have heq : s.performFar i f = (if f.far.op = .post then (((unreleased s i f).perform (farCellsOf s f)).breakReservations
      [lineOf f.far.pa]).announce f.part f.no none (sigOfLines f.part [lineOf f.far.pa]) [lineOf f.far.pa] 0 0 0
    else ((unreleased s i f).perform (farCellsOf s f)).breakReservations [lineOf f.far.pa]).wakeWord f.part f.far.pa := rfl
  obtain ⟨_, _, _, _, _, htold⟩ := htold
  obtain ⟨_, _, _, hput⟩ := hput
  rw [heq, htold]
  simp only [perform, hput]
  exact ⟨⟨rfl, rfl, rfl, rfl⟩, rfl, rfl⟩

theorem wf_performFar (h : s.mem.wf = true) : (s.performFar i f).mem.wf = true := by
  rw [(performFar_frame s i f).2.2]
  exact wf_putCells (s := unreleased s i f) h

/-- The far atomics that stand before a commit leave the ranges and the partitions as they are, and memory canonical. -/
theorem settle_frame (dwords : List Nat) (n : Nat) :
    SameSite s (s.settle dwords n) ∧ (s.mem.wf = true → (s.settle dwords n).mem.wf = true) := by
  induction n generalizing s with
  | zero => exact ⟨.refl s, id⟩
  | succ n ih =>
    rw [settle]
    split
    next g _ =>
      obtain ⟨hsite, hwf⟩ := ih (s.performFar g.2 g.1)
      exact ⟨(performFar_frame s g.2 g.1).1.trans hsite, fun h => hwf (wf_performFar s g.2 g.1 h)⟩
    next => exact ⟨.refl s, id⟩

theorem settled_frame (dwords : List Nat) : SameSite s (s.settled dwords) ∧ (s.mem.wf = true → (s.settled dwords).mem.wf = true) := by
  unfold settled
  split
  · exact ⟨.refl s, id⟩
  · exact settle_frame ..

end

/-- No far atomic is applied where none is on the words. -/
theorem settled_of_none {s : State} {ds : List Nat} (h : ∀ f ∈ s.fars, f.on ds = false) : s.settled ds = s := by
  have hsettle : ∀ n, s.settle ds n = s := by
    intro n
    cases n with
    | zero => rfl
    | succ n =>
      have hnone : s.fars.zipIdx.find? (fun g => g.1.on ds && s.farFirst g.2 g.1 && s.farReady g.1) = none :=
        List.find?_eq_none.mpr fun g hg => by simp [h g.1 (List.fst_mem_of_mem_zipIdx hg)]
      rw [settle, hnone]
  unfold settled
  split
  · rfl
  · exact hsettle _

end State

/-! ### The home's part of a far atomic -/

section
variable {s : State} {i : Nat} {f : FarPending}

theorem farCellsOf_lt (hpa : f.far.pa + f.far.n ≤ 2 ^ 52) {c : Host.Cell} (h : c ∈ farCellsOf s f) : c.1 < 2 ^ 52 := by
  have := (le_of_mem_runCells h).2
  rw [length_bytesOf] at this
  omega

/-- What memory holds once a far atomic on a word of HBM is applied. -/
theorem readByte_performFar (hm : MemCanonical s) (hpa : f.far.pa + f.far.n ≤ 2 ^ 52) {a : Nat} (ha : a < 2 ^ 52) :
    (s.performFar i f).readByte a = (assocGet? a (farCellsOf s f)).getD (s.readByte a) := by
  rw [readByte_of_lt ha, readByte_of_lt ha, (State.performFar_frame s i f).2.2,
    State.putCells_mem_of_lt fun x hx => farCellsOf_lt hpa hx]
  exact read_foldl_write (nodup_runCells ..) hm a

theorem readVal_performFar (hm : MemCanonical s) (hpa : f.far.pa + f.far.n ≤ 2 ^ 52) : (s.performFar i f).readVal f.far.pa f.far.n =
    farResult f.far.op f.far.n (s.readVal f.far.pa f.far.n) f.far.v.toNat % 2 ^ (8 * f.far.n) := by
  rw [← ofBytes_bytesOf, State.readVal]
  congr 1
  generalize hbs : bytesOf f.far.n (farResult f.far.op f.far.n (s.readVal f.far.pa f.far.n) f.far.v.toNat) = bs
  have hn : f.far.n = bs.length := by rw [← hbs, length_bytesOf]
  have hcells : farCellsOf s f = runCells f.far.pa bs := congrArg (runCells f.far.pa) hbs
  rw [hn]
  refine readRun_eq_of_readByte fun k b hk => ?_
  have hlt : k < bs.length := (List.getElem?_eq_some_iff.mp hk).1
  rw [readByte_performFar hm hpa (by omega), hcells, assocGet?_runCells, if_neg (by omega), Nat.add_sub_cancel_left, hk]
  rfl

theorem readByte_performFar_off (hm : MemCanonical s) (hpa : f.far.pa + f.far.n ≤ 2 ^ 52) {a : Nat} (ha : a < 2 ^ 52)
    (hoff : a < f.far.pa ∨ f.far.pa + f.far.n ≤ a) : (s.performFar i f).readByte a = s.readByte a := by
  rw [readByte_performFar hm hpa ha, farCellsOf, assocGet?_runCells]
  split
  · rfl
  · rw [List.getElem?_eq_none (by rw [length_bytesOf]; omega)]
    rfl

/-- The first far atomic on its word, ready and at a home that is not held, is applied. -/
theorem farAtomicApply_eq (hf : s.fars[i]? = some f) (hr : f.far.op ≠ .post ∨ s.postReady f.tid = true)
    (hh : s.homeHeld (f.far.pa / 64) = false)
    (hfirst : ∀ j g, s.fars[j]? = some g → g.part = f.part → g.far.meets f.far.pa f.far.n = true →
      f.no < g.no ∨ f.no = g.no ∧ i ≤ j) :
    farAtomicApply s i = s.performFar i f := by
  have hready : s.farReady f = true := by simpa [State.farReady] using hr
  have hfar : s.farFirst i f = true := by
    refine List.all_eq_true.mpr fun g hg => ?_
    obtain ⟨g, j⟩ := g
    have hj : s.fars[j]? = some g := by simpa using List.mem_zipIdx_iff_getElem?.mp hg
    have := hfirst j g hj
    by_cases hp : g.part = f.part
    · cases hmeets : g.far.meets f.far.pa f.far.n with
      | false => simp
      | true => simpa [hp, hmeets] using this hp hmeets
    · simp [hp]
  simp [farAtomicApply, hf, hready, hfar, lineOf, hh]

end

end Sys2Proof.Machine
end

section

namespace Sys2Proof.Machine

open Claims

/-! ### The grant of plain bytes (R114) -/

section
variable {s : State} {tid : Nat} {t : Thread} {c : Chunk} {p : Nat}

theorem mailWords_of_lt (h : ∀ x ∈ c.buf, x.1 < 2 ^ 52) : c.mailWords = [] := by
  have : c.buf.filterMap (fun x => mailWord x.1) = [] := List.filterMap_eq_nil_iff.mpr fun x hx => mailWord_of_lt (h x hx)
  rw [Chunk.mailWords, this]
  rfl

/-- A chunk of plain bytes performs those and no others. -/
theorem nearCells_of_plain (h : PlainBytes s p c) {b : State} (hb : State.SameSite s b) : b.nearCells p c = c.buf := by
  obtain ⟨hatom, -, hbanked, -, -, hbuf⟩ := h
  simp only [State.nearCells, State.atomCells, hatom, List.append_nil]
  refine List.filter_eq_self.mpr fun x hx => ?_
  obtain ⟨hlt, hin⟩ := hbuf x hx
  simp [mailWord_of_lt hlt, hb.beyond, hin, hbanked]

theorem finish_chunks (t : Thread) (now : Nat) (f : Finish) : (t.finish now f).chunks = t.chunks := by
  cases f <;> rfl

theorem nameCaller_of_lt (h : ∀ x ∈ c.buf, x.1 < 2 ^ 52) (s : State) (crew no : Nat) : s.nameCaller crew no c = s := by
  rw [State.nameCaller, mailWords_of_lt h]
  rfl

theorem performAtom_of_none (h : c.atom = none) (s b : State) (tid p no : Nat) (t : Thread) : s.performAtom b tid p no t c = s := by
  rw [State.performAtom, h]

/-- A thread with the number of its oldest chunk's grant. -/
def withNumber (t : Thread) (c : Chunk) (no : Nat) : Thread := { t with chunks := { c with stage := .granted no } :: t.chunks.drop 1 }

/-- The chunk with its number at the head of its thread, and its bytes at their homes. -/
def granted (s : State) (tid : Nat) (t : Thread) (c : Chunk) (no : Nat) : State :=
  let cells := s.nearCells (crewPart t.crew) c
  (c.banked.foldl State.putBanked (((s.setThread tid ((withNumber t c no).finish s.time c.fin)).nameCaller t.crew no c).putCells
    cells)).outdateOthers (some tid) (c.buf.map Prod.fst ++ cells.map Prod.fst)

theorem granted_frame (hn : s.nearCells (crewPart t.crew) c = c.buf) (hb : c.banked = []) (hbuf : ∀ x ∈ c.buf, x.1 < 2 ^ 52) (no : Nat) :
    (granted s tid t c no).parts = s.parts ∧ (granted s tid t c no).clusters = s.clusters ∧
    (granted s tid t c no).mem = c.buf.foldl (fun m c => m.write c.1 c.2) s.mem ∧
    ∃ t', (granted s tid t c no).thread tid = some t' ∧ t'.chunks = { c with stage := .granted no } :: t.chunks.drop 1 := by
  let u := (withNumber t c no).finish s.time c.fin
  have hgranted : granted s tid t c no =
      ((s.setThread tid u).putCells c.buf).outdateOthers (some tid) (c.buf.map Prod.fst ++ c.buf.map Prod.fst) := by
    rw [granted, hn, hb, nameCaller_of_lt hbuf]
    rfl
  obtain ⟨_, _, _, hput⟩ := State.onlyStored_putCells (s.setThread tid u) c.buf
  rw [hgranted]
  refine ⟨?_, (State.putCells_clusters_of_lt hbuf :), (State.putCells_mem_of_lt hbuf :), u, ?_, finish_chunks ..⟩
  · rw [hput]
    rfl
  · simp only [State.outdateOthers, State.thread, State.putCells_threads]
    rw [assocGet?_map _ (fun e => by split <;> rfl)]
    simp [State.setThread]

theorem settings_congr {s s' : State} (h : s'.clusters = s.clusters) (cl : Nat) : (s'.cluster cl).settings = (s.cluster cl).settings := by
  simp only [State.cluster, h]

/-- What follows the bytes of a grant: its number, announced to the holders, the host asked, its far atomics and its events. -/
def grantTold (s b : State) (tid p : Nat) (c : Chunk) : State :=
  let fars := c.fars.filter fun f => !b.beyond p f.pa
  let s := (s.newCommit p (some tid) c.writes (b.writtenLines p c) fars.length (messageCount c.effects) 0).askHost p (b.writtenLines p c)
  let s := s.setPart p { s.part p with version := (b.nextVersion p c).or (s.part p).version }
  { s with due := s.due ++ b.mailEvents p c,
           fars := s.fars ++ fars.map fun f => (⟨p, (b.part p).commitNo + 1, tid, f⟩ : FarPending) }

theorem grantTold_frame (s b : State) (tid p : Nat) (c : Chunk) : (grantTold s b tid p c).threads = s.threads ∧
    (grantTold s b tid p c).mem = s.mem ∧ (grantTold s b tid p c).clusters = s.clusters ∧
    ((grantTold s b tid p c).part p).commitNo = (s.part p).commitNo + 1 := by
  have htold := State.onlyTold_announce (s.setPart p { s.part p with commitNo := (s.part p).commitNo + 1 }) p ((s.part p).commitNo + 1)
    (some tid) c.writes (b.writtenLines p c) (c.fars.filter fun f => !b.beyond p f.pa).length (messageCount c.effects) 0
  obtain ⟨_, _, _, _, _, htold⟩ := htold
  simp only [grantTold, State.newCommit, htold]
  refine ⟨rfl, rfl, rfl, ?_⟩
  simp [State.askHost, State.part, State.setPart, assocGetD]

/-- The grant, in its order: the bytes, what is told of them, the atomic's reply, the banks' windows, the effects, the recorder and a
stop. -/
theorem grant_eq (s : State) (tid : Nat) (t : Thread) (c : Chunk) : s.grant tid t c =
    (let b := s.settled c.dwords
     let p := crewPart t.crew
     let no := (b.part p).commitNo + 1
     let s := (grantTold (granted b tid t c no) b tid p c).performAtom b tid p no (withNumber t c no) c
     let s := if (s.cluster (clusterOf (coreOf tid))).settings = (b.cluster (clusterOf (coreOf tid))).settings then s
       else s.squashWindow (clusterOf (coreOf tid))
     let s := (c.effects.foldl (fun s e => s.release tid p no t.crew e) s).record (coreOf tid) 1 (slotOf tid) 0 no
     if c.fin = .halt then s.stopCrew t.crew 0 (some t.l) else s) := rfl

/-- The grant of plain bytes takes the next number, and writes them. -/
theorem grant_of_plain (h : PlainBytes s (crewPart t.crew) c) (hm : MemCanonical s) :
    ((s.grant tid t c).part (crewPart t.crew)).commitNo = (s.part (crewPart t.crew)).commitNo + 1 ∧
    (∃ t', (s.grant tid t c).thread tid = some t' ∧
      t'.chunks = { c with stage := .granted ((s.part (crewPart t.crew)).commitNo + 1) } :: t.chunks.drop 1) ∧
    ∀ pa, pa < 2 ^ 52 → (s.grant tid t c).readByte pa = (assocGet? pa c.buf).getD ((s.settled c.dwords).readByte pa) := by
  obtain ⟨hsite, hwf⟩ := State.settled_frame s c.dwords
  have hcells := nearCells_of_plain h hsite
  obtain ⟨hatom, heffects, hbanked, hfin, hnodup, hbuf⟩ := h
  have hno : ((s.settled c.dwords).part (crewPart t.crew)).commitNo = (s.part (crewPart t.crew)).commitNo := by rw [hsite.part]
  rw [grant_eq]
  generalize s.settled c.dwords = b at *
  dsimp only
  rw [hno]
  obtain ⟨hparts, hclusters, hmem, hthread⟩ :=
    granted_frame (tid := tid) hcells hbanked (fun x hx => (hbuf x hx).1) ((s.part (crewPart t.crew)).commitNo + 1)
  generalize granted b tid t c ((s.part (crewPart t.crew)).commitNo + 1) = g at *
  obtain ⟨htthreads, htmem, htclusters, htno⟩ := grantTold_frame g b tid (crewPart t.crew) c
  have hrelease : ∀ y : State, c.effects.foldl (fun x e => x.release tid (crewPart t.crew)
      ((s.part (crewPart t.crew)).commitNo + 1) t.crew e) y = y := fun y => by rw [heffects]; rfl
  rw [performAtom_of_none hatom, if_pos (settings_congr (htclusters.trans hclusters) _), hrelease, if_neg hfin]
  refine ⟨?number, ?chunks, fun pa hpa => ?bytes⟩
  case number => rw [part_congr (State.record_parts ..), htno, part_congr hparts, hno]
  case chunks =>
    rw [State.thread, State.record_threads, htthreads]
    exact hthread
  case bytes =>
    rw [readByte_of_lt hpa, readByte_of_lt hpa, record_mem, htmem, hmem]
    exact read_foldl_write hnodup (hwf hm) pa

end

/-! ### Requests and the arbiter (R103, R111, R114, R117) -/

section
variable {s : State} {tid : Nat} {t : Thread} {c : Chunk} {more : List Chunk}

/-- What a chunk that may ask for its grant waits for is done. -/
theorem asks_of_mayRequest (h : MayRequest s tid t c more) : s.thread tid = some t ∧ t.chunks = c :: more ∧ c.stage = .ended ∧
    (decide (Stage.ended = .ended) && !t.refused && s.mayGrant t c && (!more.isEmpty || !(s.core (coreOf tid)).busy tid)
      && !((s.core (coreOf tid)).fills.any fun f => c.lines.contains f.line)) = true := by
  obtain ⟨ht, hchunks, hstage, hrefused, hgrant, hbusy, hfills⟩ := h
  have hidle : (!more.isEmpty || !(s.core (coreOf tid)).busy tid) = true := by
    cases more with
    | nil => simp [hbusy rfl]
    | cons d ds => rfl
  have hfilled : ((s.core (coreOf tid)).fills.any fun f => c.lines.contains f.line) = false :=
    List.any_eq_false.mpr fun f hf => mt List.contains_iff_mem.mp (hfills f hf)
  exact ⟨ht, hchunks, hstage, by simp only [hrefused, hgrant, hidle, hfilled, decide_true, Bool.not_false, Bool.and_self]⟩

/-- A chunk that may ask for its grant asks where its task messages have their places. -/
theorem commitRequest_of_room (h : MayRequest s tid t c more)
    (hr : (if t.arch.det then none else s.refusedMsg [] c.messages) = none) : commitRequest s tid =
      sends (s.setThread tid { t with chunks := { c with stage := .requested } :: more }) 1 (coreFret (coreOf tid))
        (s.arbiterOf (coreOf tid) c) (coreOf tid) (.request tid) := by
  obtain ⟨ht, hchunks, hstage, hasks⟩ := asks_of_mayRequest h
  simp only [commitRequest, ht, hchunks, hstage, hr]
  exact if_pos hasks

/-- A task message that finds no place is refused. -/
theorem commitRequest_of_refused (h : MayRequest s tid t c more) {m : Nat × TaskMsg}
    (hr : (if t.arch.det then none else s.refusedMsg [] c.messages) = some m) :
    commitRequest s tid = s.refuse tid t c (c.messageAt m.1) 0x0C (s.inboxVal tid m.2) := by
  obtain ⟨ht, hchunks, hstage, hasks⟩ := asks_of_mayRequest h
  simp only [commitRequest, ht, hchunks, hstage, hr]
  exact if_pos hasks

theorem commitGrant_eq (h : AtArbiter s tid t c) : commitGrant s tid = s.arbitrate tid t c := by
  obtain ⟨ht, hwaiting, hgrant, hdet, hfirst, hpost, hout⟩ := h
  have hfree : (s.crew t.crew).any Crew.det = false := hdet
  have hgrantable : s.grantable tid t c = true := by
    cases hw : s.crew t.crew with
    | none => simp [State.grantable, hgrant, hpost, hout, hw]
    | some w =>
      have hd : w.det = false := by simpa [hw] using hfree
      simp [State.grantable, hgrant, hpost, hout, hw, hd]
  simp [commitGrant, ht, hwaiting, hgrantable, hfree, hfirst]

theorem arbitrate_of_granted (h : Unmet s tid t c) (hr : s.refusal (crewPart t.crew) t c = none) :
    s.arbitrate tid t c = s.grant tid t c := by
  obtain ⟨hdelivered, haged⟩ := h
  simp only [State.arbitrate, hdelivered, haged, hr, Bool.or_self, Bool.false_eq_true, if_false]

theorem arbitrate_of_refused (h : Unmet s tid t c) {k cause : Nat} {v : Word}
    (hr : s.refusal (crewPart t.crew) t c = some (k, cause, v)) : s.arbitrate tid t c = s.refuse tid t c k cause v := by
  obtain ⟨hdelivered, haged⟩ := h
  simp only [State.arbitrate, hdelivered, haged, hr, Bool.or_self, Bool.false_eq_true, if_false]

theorem arbitrate_of_met (h : ¬ Unmet s tid t c) : s.arbitrate tid t c = s.squash tid 0 := by
  have hmet : (s.undelivered (coreOf tid) (crewPart t.crew) c || s.agedMeets (crewPart t.crew) c.born tid c.writes) = true := by
    by_contra hnone
    rw [Bool.not_eq_true, Bool.or_eq_false_iff] at hnone
    exact h hnone
  simp only [State.arbitrate, hmet, if_true]

end

/-! ### The acknowledgement (R114 steps 4 and 5, R160, R165) -/

/-- All but the requests on the links is the same, those that join them being of a kind. -/
def State.OnlyLinked (q : LinkReq → Prop) (s s' : State) : Prop :=
  ∃ add id, s' = { s with links := s.links ++ add, nextId := id } ∧ ∀ e ∈ add, q e.2

namespace State

section
variable {q : LinkReq → Prop} {s s' s'' : State}

theorem OnlyLinked.refl (s : State) : OnlyLinked q s s := ⟨[], s.nextId, by rw [List.append_nil], fun _ h => nomatch h⟩

theorem OnlyLinked.trans (h : OnlyLinked q s s') (h' : OnlyLinked q s' s'') : OnlyLinked q s s'' := by
  obtain ⟨add, id, rfl, hq⟩ := h
  obtain ⟨add', id', rfl, hq'⟩ := h'
  exact ⟨add ++ add', id', by rw [← List.append_assoc], fun e he => (List.mem_append.mp he).elim (hq e) (hq' e)⟩

theorem onlyLinked_sendLink (s : State) {k : LinkKind} {crew : Option Nat} {p no : Nat} {g : BitVec 16}
    (h : q { kind := k, crew, part := p, no, sent := s.time, guild := g }) : OnlyLinked q s (s.sendLink k crew p no g) :=
  ⟨_, _, rfl, fun _ he => by rw [List.mem_singleton.mp he]; exact h⟩

end

end State

/-- A run of bytes sent over a link holds none but the bytes to be sent. -/
theorem mem_of_mem_splitRuns {cells : List Host.Cell} : ∀ {r : List Host.Cell} {x : Host.Cell}, r ∈ splitRuns cells → x ∈ r → x ∈ cells := by
  induction cells with
  | nil => exact fun hr => nomatch hr
  | cons c cs ih =>
    intro r x hr hx
    rw [splitRuns] at hr
    split at hr
    next d l rs hs =>
      have hold : ∀ r' ∈ (d :: l) :: rs, x ∈ r' → x ∈ cs := fun r' hr' => ih (hs ▸ hr')
      split at hr
      · obtain rfl | hr := List.mem_cons.mp hr
        · obtain rfl | hx := List.mem_cons.mp hx
          · exact List.mem_cons_self
          · exact List.mem_cons_of_mem _ (hold _ List.mem_cons_self hx)
        · exact List.mem_cons_of_mem _ (hold _ (List.mem_cons_of_mem _ hr) hx)
      · obtain rfl | hr := List.mem_cons.mp hr
        · exact List.mem_singleton.mp hx ▸ List.mem_cons_self
        · exact List.mem_cons_of_mem _ (hold _ hr hx)
    next =>
      obtain rfl | hr := List.mem_cons.mp hr
      · exact List.mem_singleton.mp hx ▸ List.mem_cons_self
      · exact List.mem_cons_of_mem _ (ih hr hx)

theorem mem_of_mem_linkRuns {cells r : List Host.Cell} {x : Host.Cell} (hr : r ∈ linkRuns cells) (hx : x ∈ r) : x ∈ cells := by
  obtain hr | hr := List.mem_append.mp hr
  · exact List.mem_of_mem_filter (mem_of_mem_splitRuns hr hx)
  · obtain ⟨l, -, rfl⟩ := List.mem_map.mp hr
    exact List.mem_of_mem_filter (List.mem_of_mem_filter hx)

/-- The address is of region 0x01 or 0x02: the host's or a peer's. -/
def outside (pa : Nat) : Bool := decide (regionOf pa = 1 ∨ regionOf pa = 2)

/-- A granted chunk numbered at or below a number that has writes for the host or a peer (R165). -/
def outwardChunk (no : Nat) (c : Chunk) : Bool :=
  match c.stage with
  | .granted n => decide (n ≤ no) && ((c.buf.any fun x => outside x.1) || c.fars.any fun f => outside f.pa)
  | _ => false

theorem outwardBelow_eq (s : State) (p no : Nat) : s.outwardBelow p no =
    ((s.links.any fun e => e.2.outward && decide (e.2.part = p) && decide (e.2.no ≤ no)) ||
      s.threads.any fun e => decide (crewPart e.2.crew = p) && e.2.chunks.any (outwardChunk no)) := rfl

section
variable {s : State} {tid : Nat} {t : Thread} {c : Chunk} {more : List Chunk}

/-- A chunk's writes beyond the edge become requests on the links; none for the host or a peer where the chunk has none there. -/
theorem onlyLinked_sendOut (s : State) (tid crew p no : Nat) (g : BitVec 16) (c : Chunk) :
    State.OnlyLinked (fun r => (c.buf.any fun x => outside x.1) = false → (c.fars.any fun f => outside f.pa) = false →
      r.outward = false) s (s.sendOut tid crew p no g c) := by
  have hwrites : State.OnlyLinked (fun r => (c.buf.any fun x => outside x.1) = false → (c.fars.any fun f => outside f.pa) = false →
      r.outward = false) s (s.sendWrites (some tid) (some crew) p no g (s.farCells p c)) := by
    refine State.foldl_rel State.OnlyLinked.refl State.OnlyLinked.trans (fun s r hr => ?_) s
    refine State.onlyLinked_sendLink s fun hbuf _ => ?_
    cases r with
    | nil => rfl
    | cons x xs =>
      have hx : x ∈ c.buf := List.mem_of_mem_filter (mem_of_mem_linkRuns hr List.mem_cons_self)
      exact Bool.eq_false_iff.mpr (List.any_eq_false.mp hbuf x hx)
  refine hwrites.trans (State.foldl_rel State.OnlyLinked.refl State.OnlyLinked.trans (fun s f hf => ?_) _)
  refine State.onlyLinked_sendLink s fun _ hfars => ?_
  exact Bool.eq_false_iff.mpr (List.any_eq_false.mp hfars f (List.mem_of_mem_filter hf))

/-- A chunk as its thread keeps it once its writes beyond the edge are sent. -/
def sentOut (s : State) (p : Nat) (c : Chunk) : Chunk :=
  { c with buf := c.buf.filter fun x => !s.beyond p x.1, fars := c.fars.filter fun f => !s.beyond p f.pa }

theorem mem_of_mem_assocSet {β : Type} {k : Nat} {v : β} {e : Nat × β} {l : List (Nat × β)} (h : e ∈ assocSet k v l) :
    e = (k, v) ∨ e ∈ l := by
  induction l with
  | nil => exact .inl (List.mem_singleton.mp h)
  | cons x l ih =>
    rw [assocSet] at h
    split at h
    · exact (List.mem_cons.mp h).imp_right id
    · split at h
      · exact (List.mem_cons.mp h).imp_right (List.mem_cons_of_mem _)
      · obtain rfl | h := List.mem_cons.mp h
        · exact .inr List.mem_cons_self
        · exact (ih h).imp_right (List.mem_cons_of_mem _)

theorem outwardChunk_sentOut {b : State} {p no : Nat} (h : outwardChunk no c = false) : outwardChunk no (sentOut b p c) = false := by
  have hle : ∀ {α : Type} (l : List α) (q r : α → Bool), l.any q = false → (l.filter r).any q = false := fun l q r hl =>
    List.any_eq_false.mpr fun x hx => List.any_eq_false.mp hl x (List.mem_of_mem_filter hx)
  cases hs : c.stage with
  | granted n =>
    simp only [outwardChunk, sentOut, hs, Bool.and_eq_false_iff, Bool.or_eq_false_iff] at h ⊢
    exact h.imp_right fun ⟨hbuf, hfars⟩ => ⟨hle _ _ _ hbuf, hle _ _ _ hfars⟩
  | executing => simp [outwardChunk, sentOut, hs]
  | ended => simp [outwardChunk, sentOut, hs]
  | requested => simp [outwardChunk, sentOut, hs]

/-- A chunk without writes for the host or a peer sends none: nothing numbered at or below it is on its way to them (R165). -/
theorem outwardBelow_sendOut {p no : Nat} (g : BitVec 16) (ht : s.thread tid = some t) (hp : crewPart t.crew = p)
    (hc : t.chunks = c :: more) (hstage : c.stage = .granted no) (h : s.outwardBelow p no = false) (b : State) :
    ((s.sendOut tid t.crew p no g c).setThread tid { t with chunks := sentOut b p c :: more }).outwardBelow p no = false := by
  rw [outwardBelow_eq, Bool.or_eq_false_iff] at h ⊢
  obtain ⟨hlinks, hthreads⟩ := h
  have hchunks : ∀ d ∈ c :: more, outwardChunk no d = false := by
    have := List.any_eq_false.mp hthreads _ (mem_of_assocGet? ht)
    simpa [hp, hc] using this
  have hnone : (c.buf.any fun x => outside x.1) = false ∧ (c.fars.any fun f => outside f.pa) = false := by
    simpa [outwardChunk, hstage] using hchunks c List.mem_cons_self
  obtain ⟨add, id, hsent, hq⟩ := onlyLinked_sendOut s tid t.crew p no g c
  rw [hsent]
  constructor
  · refine List.any_eq_false.mpr fun e he => ?_
    obtain he | he := List.mem_append.mp he
    · exact List.any_eq_false.mp hlinks e he
    · simp [hq e he hnone.1 hnone.2]
  · refine List.any_eq_false.mpr fun e he => ?_
    obtain rfl | he := mem_of_mem_assocSet he
    · have hmore := (List.forall_mem_cons.mp hchunks).2
      simpa [hp, outwardChunk_sentOut (hchunks c List.mem_cons_self)] using fun d hd => hmore d hd
    · exact List.any_eq_false.mp hthreads e he

/-- A thread whose oldest chunk is acknowledged. -/
def ackThread (s : State) (p no : Nat) (t : Thread) (c : Chunk) (more : List Chunk) : Thread :=
  { t with chunks := more.map fun d => d.flagged c.flags, arch := (s.ackValue p no t c).mergeFlags c.flags, commitno := no,
           replies := [], checked := [], limit := if t.squashes = 0 ∧ t.later = none then Config.maxChunk else t.limit }

/-- The machine once a chunk is acknowledged, its writes beyond the edge sent. -/
def acknowledged (s : State) (tid p no : Nat) (t : Thread) (c : Chunk) (more : List Chunk) : State :=
  let k := s.setCore (coreOf tid) ((s.core (coreOf tid)).keepLines s p c.held)
  { k.setThread tid (ackThread s p no t c more) with
    commits := k.commits.filter fun m => !(decide (m.part = p) && decide (m.no = no) && decide (m.tid = some tid)) }

theorem claimAll_of_none (h : (s.core (coreOf tid)).unclaimed tid = none) (n : Nat) : s.claimAll tid n = s := by
  cases n with
  | zero => rfl
  | succ n => rw [State.claimAll, h]

theorem hostOwes_of_ne {p no : Nat} (h : ∀ b ∈ s.backInv, b.2.1 = p → b.2.2 ≠ no) : s.hostOwes p no = false :=
  List.any_eq_false.mpr fun b hb => by simpa using h b hb

theorem homes_free (h : ∀ x ∈ c.buf, s.homeHeld (x.1 / 64) = false) : (cellLines c.buf).any s.homeHeld = false := by
  refine List.any_eq_false.mpr fun l hl => ?_
  obtain ⟨x, hx, rfl⟩ := List.mem_map.mp (List.mem_dedup.mp hl)
  exact Bool.eq_false_iff.mp (h x hx)

/-- A granted chunk that waits for nothing any more is acknowledged. -/
theorem commitAcknowledgement_eq {no : Nat} (h : Delivered s tid t c more no)
    (hout : c.fin ≠ .hsync ∨ s.outwardBelow (crewPart t.crew) no = false) : commitAcknowledgement s tid =
      acknowledged (s.sendOut tid t.crew (crewPart t.crew) no t.arch.guild c) tid (crewPart t.crew) no t c more := by
  obtain ⟨ht, hchunks, hstage, hclaim, hcommit, hhost, hhomes, hreply, heffects, hposts⟩ := h
  have hdelivered : (s.commits.any fun m => decide (m.part = crewPart t.crew) && decide (m.no = no) && decide (m.tid = some tid) &&
      m.cores.isEmpty && decide (m.fars = 0) && decide (m.msgs = 0)) = true := by
    obtain ⟨m, hm, hpart, hno, htid, hcores, hfars, hmsgs⟩ := hcommit
    exact List.any_eq_true.mpr ⟨m, hm, by simp [hpart, hno, htid, hcores, hfars, hmsgs]⟩
  have hreplied : (c.atom.all fun a => (replyOf t a.pa a.n).isSome) = true := by
    cases ha : c.atom with
    | none => rfl
    | some a => exact hreply a ha
  have hdone : (c.effects.all fun e => s.effectDone tid (crewPart t.crew) no e) = true := List.all_eq_true.mpr heffects
  have hsync : ¬ (c.fin = .hsync ∧ ((s.sendOut tid t.crew (crewPart t.crew) no t.arch.guild c).setThread tid { t with
      chunks := sentOut (s.sendOut tid t.crew (crewPart t.crew) no t.arch.guild c) (crewPart t.crew) c :: more }).outwardBelow
        (crewPart t.crew) no = true) := by
    rintro ⟨hfin, hbelow⟩
    rw [outwardBelow_sendOut t.arch.guild ht rfl hchunks hstage (hout.resolve_left (not_not_intro hfin))] at hbelow
    cases hbelow
  simp only [commitAcknowledgement, claimAll_of_none hclaim, ht, hchunks, hstage, hdelivered, hostOwes_of_ne hhost, homes_free hhomes,
    hreplied, hclaim, hposts, hdone, Option.isNone_none, Bool.not_false, Bool.and_self, if_true]
  simp only [sentOut, hstage] at hsync
  exact if_neg hsync

theorem acknowledged_frame (s : State) (tid p no : Nat) (t : Thread) (c : Chunk) (more : List Chunk) :
    (acknowledged s tid p no t c more).thread tid = some (ackThread s p no t c more) ∧
      SameBytes s (acknowledged s tid p no t c more) :=
  ⟨State.thread_setThread_self .., State.SameStore.sameBytes ⟨rfl, rfl⟩⟩

theorem ackValue_of_none (ha : c.atom = none) (he : c.effects = []) (s : State) (p no : Nat) (t : Thread) : s.ackValue p no t c = t.arch := by
  simp only [State.ackValue, ha, he, List.foldl_nil]

theorem ackValue_of_atom {a : Atom} {bs : List Byte} (ha : c.atom = some a) (hr : replyOf t a.pa a.n = some bs) (s : State) (p no : Nat) :
    s.ackValue p no t c = t.arch.setX a.d (BitVec.ofNat 64 (ofBytes bs)) := by
  simp only [State.ackValue, ha, hr, Option.getD_some]

end

/-! ### Drains (R264, R265) -/

/-- The rows of a drain in a 4 KiB block, and the others. -/
def drainCells (d : Drain) (b : Nat) : List Host.Cell :=
  (d.dwords.filter fun x => decide (x.1 / 4096 = b)).flatMap fun x => runCells x.2.1 (bytesOf 8 x.2.2)
def drainRest (d : Drain) (b : Nat) : List (Nat × Nat × Nat) := d.dwords.filter fun x => decide (x.1 / 4096 ≠ b)

/-- A block of a committed drain is written where no guard, aged chunk, held home or host stands against it. -/
theorem drainWrite_eq {s : State} {core i j b : Nat} {d : Drain} (hd : (s.core core).drains[i]? = some d) (hc : d.committed = true)
    (hw : ∃ w, s.crew d.crew = some w ∧ w.stopping = none) (hb : ((d.dwords.map fun x => x.1 / 4096).dedup)[j]? = some b)
    (hg : ∀ x ∈ drainCells d b, s.guarded (crewPart d.crew) (some d.crew) x.1 = false)
    (hheld : s.commitHeld (crewPart d.crew) (some d.tid) (drainCells d b) = false) (hhost : s.hostHolds (cellLines (drainCells d b)) = false) :
    drainWrite s core i j =
      (let s1 := (s.unitWrite (crewPart d.crew) d.crew d.guild (drainCells d b)).sendBulk core (cellLines (drainCells d b))
       if (drainRest d b).isEmpty then
         s1.setCore core { s1.core core with drains := (s1.core core).drains.filter fun e => decide (e.id ≠ d.id) }
       else s1.setCore core { s1.core core with
         drains := (s1.core core).drains.map fun e => if e.id = d.id then { e with dwords := drainRest d b } else e }) := by
  obtain ⟨w, hw, hstop⟩ := hw
  have hopen : (d.committed && (s.crew d.crew).any fun w => w.stopping.isNone) = true := by simp [hc, hw, hstop]
  have hfree : ((drainCells d b).any fun x => s.guarded (crewPart d.crew) (some d.crew) x.1) = false :=
    List.any_eq_false.mpr fun x hx => Bool.eq_false_iff.mp (hg x hx)
  unfold drainCells at hfree hheld hhost
  simp only [drainWrite, hd, hb, hopen, hfree, hheld, hhost, if_true, Bool.false_eq_true, if_false]
  rfl

end Sys2Proof.Machine

namespace Sys2Proof.Claims

open Sys2Proof.Machine

/-- Settles O48, event by event. -/
theorem commitEvents : Obligations.CommitEvents := by
  intro s tid t c more
  refine ⟨?request, ?grant, fun ds h => State.settled_of_none h, ?met, ?acknowledge, ?far, ?drain, ?back⟩
  case request =>
    refine fun h => ⟨fun hfree => goes_of_eq rfl (commitRequest_of_room h ?_),
      fun k m hd hr => goes_of_eq rfl (commitRequest_of_refused h (by rw [hd, hr]; rfl))⟩
    obtain hd | hr := hfree
    · exact if_pos hd
    · rw [hr, ite_self]
  case grant =>
    intro ha hu
    have hgo := commitGrant_eq ha
    exact ⟨fun k cause v hr => goes_of_eq rfl (hgo.trans (arbitrate_of_refused hu hr)),
      fun hr => ⟨goes_of_eq rfl (hgo.trans (arbitrate_of_granted hu hr)), fun hm hp => grant_of_plain hp hm⟩⟩
  case met => exact fun ha hu => goes_of_eq rfl ((commitGrant_eq ha).trans (arbitrate_of_met hu))
  case acknowledge =>
    intro no hd hout
    have hgo := commitAcknowledgement_eq hd hout
    obtain ⟨_, _, hsent, -⟩ := onlyLinked_sendOut s tid t.crew (crewPart t.crew) no t.arch.guild c
    obtain ⟨hthread, hbytes⟩ :=
      acknowledged_frame (s.sendOut tid t.crew (crewPart t.crew) no t.arch.guild c) tid (crewPart t.crew) no t c more
    refine ⟨_, _, goes_of_eq rfl hgo, hthread, rfl, rfl, fun pa => (hbytes pa).trans ?_, fun hatom heff => ?_, fun a bs hatom hr => ?_⟩
    · rw [hsent]
      rfl
    · exact congrArg (flagsIn c.flags) (ackValue_of_none hatom heff ..)
    · exact congrArg (flagsIn c.flags) (ackValue_of_atom hatom hr ..)
  case far =>
    intro i f hm hf hpa hready hhome hfirst
    exact ⟨_, goes_of_eq rfl (farAtomicApply_eq hf hready hhome hfirst), (State.performFar_frame s i f).2.1, readVal_performFar hm hpa,
      fun a ha hoff => readByte_performFar_off hm hpa ha hoff⟩
  case drain =>
    intro core i j d b hd hc hw hb cells left s1 hg hheld hhost
    have hgo := drainWrite_eq hd hc hw hb hg hheld hhost
    exact ⟨fun hl => goes_of_eq rfl (hgo.trans (if_pos (List.isEmpty_iff.mpr hl))),
      fun hl => goes_of_eq rfl (hgo.trans (if_neg (mt List.isEmpty_iff.mp hl)))⟩
  case back =>
    intro line hheld
    exact ⟨_, goes_of_eq rfl (if_neg (Bool.eq_false_iff.mp hheld)), rfl, State.SameStore.sameBytes ⟨rfl, rfl⟩⟩

end Sys2Proof.Claims
end

section

namespace Sys2Proof.Machine

open Claims

/-! ### A signature at its holder (R114, R115, R126) -/

section
variable {s : State} {tid y i : Nat} {t : Thread}

theorem squash_thread_ne (h : y ≠ tid) : (s.squash tid i).thread y = s.thread y := by
  cases ht : s.thread tid with
  | none => simp only [State.squash, ht]
  | some t =>
    cases hc : t.chunks[i]? with
    | none => simp only [State.squash, ht, hc]
    | some c =>
      rw [State.squash_eq ht hc, State.thread, State.record_threads]
      exact State.thread_setThread_ne _ h _

theorem squash_net : (s.squash tid i).net = s.net := by
  cases ht : s.thread tid with
  | none => simp only [State.squash, ht]
  | some t =>
    cases hc : t.chunks[i]? with
    | none => simp only [State.squash, ht, hc]
    | some c =>
      rw [State.squash_eq ht hc, State.record_net]
      rfl

variable {c : Commit}

/-- What the test of a thread can do: nothing, a squash, or the end of its sleep. -/
theorem testThread_cases (s : State) (c : Commit) (tid : Nat) : s.testThread c tid = s ∨ (∃ i, s.testThread c tid = s.squash tid i) ∨
    ∃ u, s.testThread c tid = s.setThread tid u := by
  unfold State.testThread
  split
  · exact .inl rfl
  · split
    · exact .inl rfl
    · split
      · exact .inr (.inr ⟨_, rfl⟩)
      · split
        · exact .inr (.inl ⟨_, rfl⟩)
        · exact .inr (.inr ⟨_, rfl⟩)

theorem testThread_thread_ne (h : y ≠ tid) : (s.testThread c tid).thread y = s.thread y := by
  obtain h' | ⟨i, h'⟩ | ⟨u, h'⟩ := testThread_cases s c tid <;> rw [h']
  · exact squash_thread_ne h
  · exact State.thread_setThread_ne _ h _

theorem testThread_net (s : State) (c : Commit) (tid : Nat) : (s.testThread c tid).net = s.net := by
  obtain h | ⟨i, h⟩ | ⟨u, h⟩ := testThread_cases s c tid <;> rw [h]
  · exact squash_net
  · rfl

theorem sameStore_testThread (s : State) (c : Commit) (tid : Nat) : State.SameStore s (s.testThread c tid) := by
  obtain h | ⟨i, h⟩ | ⟨u, h⟩ := testThread_cases s c tid <;> rw [h]
  · exact .refl s
  · exact State.sameStore_squash ..
  · exact ⟨rfl, rfl⟩

/-- A thread of the partition that the signature meets is squashed from there on. -/
theorem testThread_of_hit (ht : s.thread tid = some t) (hp : crewPart t.crew = c.part) (hc : c.tid ≠ some tid)
    (hi : t.hit c.sig = some i) : s.testThread c tid = s.squash tid i := by
  simp only [State.testThread, ht, hp, hc, hi, ne_eq, not_true_eq_false, if_false]

/-- A thread that it does not meet is woken where it sleeps on one of its lines. -/
theorem testThread_of_missed (ht : s.thread tid = some t) (hp : crewPart t.crew = c.part) (hc : c.tid ≠ some tid)
    (hi : t.hit c.sig = none) : s.testThread c tid = s.setThread tid (t.wakeBy c.sig c.part) := by
  simp only [State.testThread, ht, hp, hc, hi, ne_eq, not_true_eq_false, if_false]

theorem exists_chunk_of_hit {g : Sig} (h : t.hit g = some i) : ∃ c, t.chunks[i]? = some c := by
  obtain ⟨hlt, -⟩ := List.findIdx?_eq_some_iff_getElem.mp h
  exact ⟨_, List.getElem?_eq_getElem hlt⟩

theorem foldl_testThread_thread_of_notMem {l : List Nat} (h : y ∉ l) (s : State) :
    (l.foldl (fun s x => s.testThread c x) s).thread y = s.thread y := by
  induction l generalizing s with
  | nil => rfl
  | cons x l ih =>
    obtain ⟨hx, hl⟩ := not_or.mp (mt List.mem_cons.mpr h)
    rw [List.foldl_cons, ih hl, testThread_thread_ne hx]

/-- Threads tested one after the other: each as if it were tested alone. -/
theorem foldl_testThread_thread_of_mem {l : List Nat} (hl : l.Nodup) (h : y ∈ l) (s : State) : ∃ s0 : State, s0.thread y = s.thread y ∧
    (l.foldl (fun s x => s.testThread c x) s).thread y = (s0.testThread c y).thread y := by
  induction l generalizing s with
  | nil => cases h
  | cons x l ih =>
    obtain ⟨hx, hl⟩ := List.nodup_cons.mp hl
    by_cases hy : y = x
    · subst hy
      exact ⟨s, rfl, foldl_testThread_thread_of_notMem hx _⟩
    · obtain ⟨s0, h0, htest⟩ := ih hl (List.mem_of_ne_of_mem hy h) (s.testThread c x)
      exact ⟨s0, h0.trans (testThread_thread_ne hy), htest⟩

/-- The threads of a core. -/
def slotsOf (core : Nat) : List Nat := (List.range 16).map fun k => core * 16 + k

theorem nodup_slotsOf (core : Nat) : (slotsOf core).Nodup :=
  List.nodup_range.map fun _ _ h => Nat.add_left_cancel h

theorem mem_slotsOf {core x : Nat} : x ∈ slotsOf core ↔ x / 16 = core := by
  simp only [slotsOf, List.mem_map, List.mem_range]
  constructor
  · rintro ⟨k, hk, rfl⟩
    omega
  · intro h
    exact ⟨x % 16, Nat.mod_lt _ (by decide), by omega⟩

theorem deliver_eq (s : State) (c : Commit) (core : Nat) :
    s.deliver c core = (slotsOf core).foldl (fun s x => s.testThread c x) s := by
  rw [slotsOf, List.foldl_map]
  rfl

theorem deliver_net (s : State) (c : Commit) (core : Nat) : (s.deliver c core).net = s.net := by
  rw [deliver_eq]
  exact State.foldl_rel (R := fun s s' => s'.net = s.net) (fun _ => rfl) (fun h h' => h'.trans h) (fun s x _ => testThread_net s c x) s

theorem sameStore_deliver (s : State) (c : Commit) (core : Nat) : State.SameStore s (s.deliver c core) := by
  rw [deliver_eq]
  exact State.foldl_rel State.SameStore.refl State.SameStore.trans (fun s x _ => sameStore_testThread s c x) s

theorem deliver_thread_off {core : Nat} (h : y / 16 ≠ core) (s : State) (c : Commit) : (s.deliver c core).thread y = s.thread y := by
  rw [deliver_eq]
  exact foldl_testThread_thread_of_notMem (mt mem_slotsOf.mp h) s

theorem deliver_thread_on {core : Nat} (h : y / 16 = core) (s : State) (c : Commit) :
    ∃ s0 : State, s0.thread y = s.thread y ∧ (s.deliver c core).thread y = (s0.testThread c y).thread y := by
  rw [deliver_eq]
  exact foldl_testThread_thread_of_mem (nodup_slotsOf core) (mem_slotsOf.mpr h) s

/-- A delivered signature squashes what it meets, and wakes the others. -/
theorem deliver_thread (s : State) {core : Nat} (hy : y / 16 = core) (ht : s.thread y = some t) (hp : crewPart t.crew = c.part)
    (hc : c.tid ≠ some y) :
    (∀ i, t.hit c.sig = some i → ∃ t', (s.deliver c core).thread y = some t' ∧ t'.chunks = t.chunks.take i ∧
      (t.chunks[i]?).map Chunk.start = some t'.arch) ∧
    (t.hit c.sig = none → (s.deliver c core).thread y = some (t.wakeBy c.sig c.part)) := by
  obtain ⟨s0, h0, htest⟩ := deliver_thread_on hy s c
  rw [htest]
  have ht0 := h0.trans ht
  refine ⟨fun i hi => ?_, fun hi => ?_⟩
  · obtain ⟨d, hd⟩ := exists_chunk_of_hit hi
    obtain ⟨u, hu, harch, hchunks⟩ := State.exists_thread_squash ht0 hd
    rw [testThread_of_hit ht0 hp hc hi]
    exact ⟨u, hu, hchunks, by rw [hd, harch]; rfl⟩
  · rw [testThread_of_missed ht0 hp hc hi]
    exact State.thread_setThread_self ..

end

/-! ### Packets taken (R337) -/

section
variable {s : State} {pkt : Nat} {k : Packet}

theorem takePacket_eq (h : s.arrivedPacket pkt = some k) : s.takePacket pkt = taken s pkt k := by
  have hnet : assocGet? pkt s.net = some k := (Option.filter_eq_some_iff.mp h).1
  rw [State.takePacket, hnet]
  rfl

/-- A commit with a holder that has acknowledged it, and the commits that wait for something more. -/
def acknowledgedBy (p no core : Nat) (l : List Commit) : List Commit :=
  (l.map fun c => if c.part = p ∧ c.no = no then { c with cores := c.cores.filter fun x => x ≠ core } else c).filter fun c => !c.over

theorem signatureDelivery_eq {p no : Nat} {c : Commit} (h : s.arrivedPacket pkt = some k) (hl : k.load = .sig p no)
    (hc : s.commits.find? (fun m => decide (m.part = p) && decide (m.no = no) && m.cores.contains k.dest) = some c) :
    signatureDelivery s pkt = { (taken s pkt k).deliver c k.dest with
      commits := acknowledgedBy p no k.dest ((taken s pkt k).deliver c k.dest).commits } := by
  have hc' : (taken s pkt k).commits.find? (fun m => decide (m.part = p) && decide (m.no = no) && m.cores.contains k.dest) = some c := hc
  simp only [signatureDelivery, h, hl, takePacket_eq h, hc']
  rfl

end

/-! ### Deterministic turns (R119, R120, R126, R342, R366) -/

section
variable {s : State} {crew tid : Nat} {w : Crew} {t : Thread}

/-- All but a crew is the same. -/
theorem noteArrivals_eq (s : State) (crew : Nat) : ∃ cs, s.noteArrivals crew = { s with crews := cs } := by
  refine State.foldl_rel (R := fun s s' => ∃ cs, s' = { s with crews := cs }) (fun s => ⟨s.crews, rfl⟩) ?trans (fun s k _ => ?step) s
  case trans =>
    rintro _ _ _ ⟨_, rfl⟩ ⟨cs, rfl⟩
    exact ⟨cs, rfl⟩
  case step =>
    dsimp only
    split
    · exact ⟨s.crews, rfl⟩
    · exact ⟨_, rfl⟩

theorem noteArrivals_thread (s : State) (crew x : Nat) : (s.noteArrivals crew).thread x = s.thread x := by
  obtain ⟨_, h⟩ := noteArrivals_eq s crew
  rw [h]
  rfl

theorem sameStore_noteArrivals (s : State) (crew : Nat) : State.SameStore s (s.noteArrivals crew) := by
  obtain ⟨_, h⟩ := noteArrivals_eq s crew
  rw [h]
  exact ⟨rfl, rfl⟩

theorem sameStore_rewound (s : State) (tid : Nat) (cs : List Chunk) (u : Thread) :
    State.SameStore s ((s.dropUnits tid cs).setThread tid u) := ⟨rfl, rfl⟩

/-- A crew whose turn may be taken takes it. -/
theorem deterministicTurn_eq (h : TurnOf s crew w tid t) :
    deterministicTurn s crew = (s.noteArrivals crew).takeTurn crew w tid t := by
  obtain ⟨⟨w0, hw0, hdet, hstopped, hstopping, hmsgs⟩, hw, hrelease, -, htid, ht⟩ := h
  have hout : s.messagesOut w0 = false := by
    refine List.any_eq_false.mpr fun m hm => ?_
    by_cases hpos : 0 < m.msgs
    · cases hmt : m.tid with
      | none => simp
      | some x => simpa [hmt] using fun _ a hab => hmsgs m hm hpos x hmt (a, x) hab rfl
    · simp [hpos]
  have hopen : s.turnOpen w0 = true := by simp [State.turnOpen, hdet, hstopped, hstopping, hout]
  have hdue : w.releaseDue = false := by
    rw [Crew.releaseDue, Bool.and_assoc, Bool.and_eq_false_iff]
    refine .inr (Bool.eq_false_iff.mpr fun hd => hrelease ?_)
    obtain ⟨hturn, hany⟩ := Bool.and_eq_true_iff.mp hd
    obtain ⟨e, he, hle⟩ := List.any_eq_true.mp hany
    exact ⟨of_decide_eq_true hturn, e, he, of_decide_eq_true hle⟩
  simp only [deterministicTurn, hw0, hopen, hstopping, hw, hdue, htid, noteArrivals_thread, ht, Bool.not_true, Option.isSome_none,
    Bool.false_eq_true, if_false]

theorem nextTurn_eq (h : s.crew crew = some w) : s.nextTurn crew = passOn s crew w := by
  simp only [State.nextTurn, h, passOn]
  split <;> rfl

/-- A member with no chunk to be granted takes its turn otherwise. -/
theorem takeTurn_of_none (hs : w.spent = false) (h : NoneToGrant t) : s.takeTurn crew w tid t = s.waitTurn crew w tid t := by
  have hnone : (t.chunks.head?.filter fun c => c.ungranted && decide (c.stage ≠ .executing)) = none := by
    cases hh : t.chunks.head? with
    | none => rfl
    | some c =>
      refine if_neg fun hc => ?_
      obtain ⟨hu, hx⟩ := Bool.and_eq_true_iff.mp hc
      exact of_decide_eq_true hx (h c hh hu)
  simp only [State.takeTurn, hs, hnone, Bool.false_eq_true, if_false]

theorem waitTurn_asleep (h : (∃ d r, t.run = .bar d r) ∨ t.run = .xend) : s.waitTurn crew w tid t = s.nextTurn crew := by
  obtain ⟨d, r, h⟩ | h := h <;> simp only [State.waitTurn, h]

theorem waitTurn_polled {x : Watch} {b : Bool} (h : t.run = .watch x b) (hp : x.polls = true) :
    s.waitTurn crew w tid t = s.setThread tid { t with run := .running, pending := some .turn } := by
  simp only [State.waitTurn, h, hp, if_true]

theorem waitTurn_faulted {cause : Nat} {v : Word} (h : t.run = .running) (hp : t.pending = some (.trap cause v)) (ho : t.older = []) :
    s.waitTurn crew w tid t = s.faultTurn tid t := by
  simp [State.waitTurn, h, Thread.faulted, hp, ho]

theorem faultTurn_of_idle (he : t.executing = none) : s.faultTurn tid t = s.setThread tid { t with pending := some .turn } := by
  simp only [State.faultTurn, he]

theorem faultTurn_of_inside {c : Chunk} (he : t.executing = some c) (h : s.undelivered (coreOf tid) (crewPart t.crew) c = false) :
    s.faultTurn tid t = (s.dropUnits tid [c]).setThread tid { t.rewind 0 with precise := some c.count } := by
  simp only [State.faultTurn, he, h, Bool.false_eq_true, if_false]

theorem stage_of_executing {c : Chunk} (h : t.executing = some c) : c.stage = .executing := by
  rw [Thread.executing] at h
  split at h
  · exact (Option.ite_none_right_eq_some.mp h).elim fun hs hc => by cases hc; exact hs
  · cases h

/-- A thread with no older chunk in flight has none to be granted but one that executes. -/
theorem noneToGrant_of_older (ho : t.older = []) : NoneToGrant t := by
  intro c hc _
  cases he : t.executing with
  | none => rw [← older_of_not_executing he, ho] at hc; cases hc
  | some d =>
    rw [chunks_of_executing he, ho] at hc
    cases hc
    exact stage_of_executing he

/-- At its turn a chunk that asks for its grant is granted; the turn passes, but after the chunk that stands before a fault. -/
theorem takeTurn_of_granted {c : Chunk} {u : Thread} {no : Nat} (hs : w.spent = false) (h : AtTurn s tid t c)
    (hu : (s.grant tid t c).thread tid = some u) (hg : u.chunks.head?.map Chunk.stage = some (.granted no)) :
    s.takeTurn crew w tid t = if c.isPrefix then
      ((s.grant tid t c).setThread tid { u with pending := some .turn }).setCrew crew
        { ((s.grant tid t c).crew crew).getD w with spent := true }
      else (s.grant tid t c).nextTurn crew := by
  obtain ⟨hhead, hstage, hgrantable, hfirst, hmsg, hunmet, hrefusal⟩ := h
  have hasks : (t.chunks.head?.filter fun c => c.ungranted && decide (c.stage ≠ .executing)) = some c := by
    rw [hhead]
    exact if_pos (by simp [Chunk.ungranted, hstage])
  have harb : s.arbitrate tid t c = s.grant tid t c := arbitrate_of_granted hunmet hrefusal
  simp only [State.takeTurn, hs, hasks, State.grantTurn, hstage, hgrantable, hfirst, hmsg, harb, hu, hg, Bool.false_eq_true, if_false,
    and_self, if_true]

end

end Sys2Proof.Machine

namespace Sys2Proof.Claims

open Sys2Proof.Machine

/-- Settles O49, event by event. -/
theorem orderEvents : Obligations.OrderEvents := by
  intro s
  refine ⟨?signature, fun crew w tid t h => ?turn⟩
  case signature =>
    intro pkt k p no c hk hl hc
    have hpart : c.part = p := by
      have := List.find?_some hc
      simp only [Bool.and_eq_true, decide_eq_true_eq] at this
      exact this.1.1
    subst hpart
    have hgo := signatureDelivery_eq hk hl hc
    have hnet := deliver_net (taken s pkt k) c k.dest
    have hstore : State.SameStore s ((taken s pkt k).deliver c k.dest) := .trans ⟨rfl, rfl⟩ (sameStore_deliver (taken s pkt k) c k.dest)
    have hoff := fun x hx => deliver_thread_off (y := x) (core := k.dest) hx (taken s pkt k) c
    have hon := fun x t hx ht hp hxc => deliver_thread (y := x) (t := t) (c := c) (taken s pkt k) (core := k.dest) hx ht hp hxc
    generalize (taken s pkt k).deliver c k.dest = d at hgo hnet hstore hoff hon
    exact ⟨_, goes_of_eq rfl hgo, hnet, State.SameStore.sameBytes hstore, hoff, hon⟩
  case turn =>
    have hgo := deterministicTurn_eq h
    have hnoted := sameStore_noteArrivals s crew
    obtain ⟨-, hw, -, hspent, -, -⟩ := h
    dsimp only
    generalize s.noteArrivals crew = s1 at hgo hw hnoted ⊢
    refine ⟨fun hrun hnone => ?asleep, fun x b hrun hp hnone => ?polled, fun cause v hrun hp ho => ?faulted,
      fun c u no hc hu hg => ?granted⟩
    case asleep =>
      exact goes_of_eq rfl (hgo.trans ((takeTurn_of_none hspent hnone).trans ((waitTurn_asleep hrun).trans (nextTurn_eq hw))))
    case polled => exact goes_of_eq rfl (hgo.trans ((takeTurn_of_none hspent hnone).trans (waitTurn_polled hrun hp)))
    case faulted =>
      have hfault := hgo.trans ((takeTurn_of_none hspent (noneToGrant_of_older ho)).trans (waitTurn_faulted hrun hp ho))
      refine ⟨fun he => goes_of_eq rfl (hfault.trans (faultTurn_of_idle he)), fun c he hdel => ?_⟩
      have hc : t.chunks[0]? = some c := by rw [chunks_of_executing he, ho]; rfl
      refine ⟨_, _, goes_of_eq rfl (hfault.trans (faultTurn_of_inside he hdel)),
        State.thread_setThread_self .., rewind_arch hc, rewind_chunks hc, rfl, rewind_run hc,
        (hnoted.trans (sameStore_rewound s1 tid [c] { t.rewind 0 with precise := some c.count })).sameBytes⟩
    case granted =>
      have hturn := hgo.trans (takeTurn_of_granted hspent hc hu hg)
      generalize s1.grant tid t c = g at hturn ⊢
      refine ⟨fun hpre => goes_of_eq rfl (hturn.trans (if_neg (Bool.eq_false_iff.mp hpre))), fun hpre =>
        ⟨_, goes_of_eq rfl (hturn.trans (if_pos hpre)), State.thread_setThread_self .., rfl⟩⟩

end Sys2Proof.Claims
end

section

namespace Sys2Proof.Machine

open Claims

/-! ### Scopes (R112) -/

section
variable {s : State} {line core : Nat} {d : Dir}

theorem widenScope_of_notAsking (hd : assocGet? line s.dir = some d) (h : core ∉ d.asking) : widenScope s line core = s := by
  simp only [widenScope, hd]
  exact if_neg (mt List.contains_iff_mem.mp h)

theorem widenScope_of_asking (hd : assocGet? line s.dir = some d) (h : core ∈ d.asking) (hh : core ∉ d.holders) :
    widenScope s line core = { s with dir := assocSet line (joined d core) s.dir } := by
  have hnew : ¬ d.holders.contains core = true := mt List.contains_iff_mem.mp hh
  simp only [widenScope, hd, List.contains_iff_mem.mpr h, if_true, State.register, assocGetD, Option.getD_some, hnew]
  rfl

end

/-! ### Fills and probes (R106, R339) -/

section
variable {c : Core} {line q : Nat}

/-- A probe behind no fill of its line takes the line from L1, and is over. -/
theorem heldProbes_of_noFill (hp : ∃ x ∈ c.probes, x.1 = line) (hf : ∀ f ∈ c.fills, f.line ≠ line) :
    (c.heldProbes line).l1 = c.l1.filter (fun x => x.line ≠ line) ∧ ∀ x ∈ (c.heldProbes line).probes, x.1 ≠ line := by
  have hnone : ∀ q, c.fillBefore line q = false := fun q => List.any_eq_false.mpr fun f h => by simp [hf f h]
  have hheld : (c.probes.any fun p => decide (p.1 = line) && !c.fillBefore line p.2) = true := by
    obtain ⟨x, hx, hl⟩ := hp
    exact List.any_eq_true.mpr ⟨x, hx, by simp [hl, hnone]⟩
  rw [Core.heldProbes, if_pos hheld]
  exact ⟨rfl, fun x hx => by simpa [hnone] using (List.mem_filter.mp hx).2⟩

/-- Probes of a line that all stand behind a fill of it are held. -/
theorem heldProbes_of_fills (h : ∀ x ∈ c.probes, x.1 = line → c.fillBefore line x.2 = true) : c.heldProbes line = c := by
  refine if_neg (Bool.eq_false_iff.mp (List.any_eq_false.mpr fun x hx => ?_))
  by_cases hl : x.1 = line
  · simp [h x hx hl]
  · simp [hl]

end

/-- A core's L1 once a fill is performed: the line stands in the way that its set gives it, if it gives one. -/
def filledBy (c : Core) (f : Fill) (way : Option Nat) : Core :=
  match way with
  | some w => { c with fills := c.fills.erase f,
                       l1 := (c.l1.filter fun x => decide (x.set ≠ f.set) || decide (x.way ≠ w)) ++ [⟨f.line, f.set, w⟩] }
  | none => { c with fills := c.fills.erase f }

section
variable {s : State} {pkt line q : Nat} {k : Packet}

theorem performFill_eq {core : Nat} {f : Fill} (h : ∀ x ∈ (s.core core).probes, x.1 ≠ f.line) :
    s.performFill core f = s.setCore core (filledBy (s.core core) f (fillWay s core f.set)) := by
  have hprobes : (filledBy (s.core core) f (fillWay s core f.set)).probes = (s.core core).probes := by
    unfold filledBy
    split <;> rfl
  have hheld : (filledBy (s.core core) f (fillWay s core f.set)).heldProbes f.line = filledBy (s.core core) f (fillWay s core f.set) :=
    heldProbes_of_fills fun x hx hl => absurd hl (h x (hprobes ▸ hx))
  rw [← hheld, State.performFill]
  cases fillWay s core f.set <;> rfl

theorem fillReply_of_probeBefore (h : s.arrivedPacket pkt = some k) (hl : k.load = .fill line q) (hp : s.probeBefore k.dest line q = true) :
    fillReply s pkt = s := by
  simp only [fillReply, h, hl, hp, if_true]

theorem fillReply_of_fill {f : Fill} (h : s.arrivedPacket pkt = some k) (hl : k.load = .fill line q)
    (hp : s.probeBefore k.dest line q = false)
    (hf : (s.core k.dest).fills.find? (fun f => decide (f.line = line) && decide (f.seq = some q)) = some f) :
    fillReply s pkt = (taken s pkt k).performFill k.dest f := by
  have hf' : ((taken s pkt k).core k.dest).fills.find? (fun f => decide (f.line = line) && decide (f.seq = some q)) = some f := hf
  simp only [fillReply, h, hl, hp, takePacket_eq h, hf', Bool.false_eq_true, if_false]

/-- A core with one probe more. -/
def probed (s : State) (core line q : Nat) : Core := { s.core core with probes := (s.core core).probes ++ [(line, q)] }

theorem probe_eq (h : s.arrivedPacket pkt = some k) (hl : k.load = .probe line q) :
    probe s pkt = (taken s pkt k).setCore k.dest ((probed s k.dest line q).heldProbes line) := by
  simp only [probe, h, hl, takePacket_eq h]
  rfl

end

/-! ### Packets at their frets (R336, R337) -/

theorem assocGet?_append_of_some {β : Type} {k : Nat} {v : β} {l : List (Nat × β)} (h : assocGet? k l = some v) (l' : List (Nat × β)) :
    assocGet? k (l ++ l') = some v := by
  induction l with
  | nil => cases h
  | cons e l ih =>
    rw [assocGet?] at h
    rw [List.cons_append, assocGet?]
    split at h
    next hk => rw [if_pos hk, h]
    next hk => rw [if_neg hk, ih h]

section
variable {s : State} {pkt v n : Nat} {k y : Packet}

theorem setRide_eq_rides (s : State) (pkt : Nat) (r : Ride) : s.setRide pkt r = rides s pkt r := rfl

theorem assocGet?_rides (s : State) (pkt x : Nat) (r : Ride) : assocGet? x (rides s pkt r).net =
    (assocGet? x s.net).map fun k => if x = pkt then { k with ride := r } else k := by
  rw [rides, assocGet?_map _ (fun e => by split <;> rfl)]
  congr 1
  funext k
  split <;> rfl

theorem assocGet?_rides_self (h : assocGet? pkt s.net = some k) (r : Ride) : assocGet? pkt (rides s pkt r).net = some { k with ride := r } := by
  rw [assocGet?_rides, h, Option.map_some, if_pos rfl]

theorem assocGet?_rides_ne (hne : v ≠ pkt) (h : assocGet? v s.net = some y) (r : Ride) : assocGet? v (rides s pkt r).net = some y := by
  rw [assocGet?_rides, h, Option.map_some, if_neg hne]

/-- The packet takes an entry of its fret's buffer. -/
def buffers (s : State) (pkt n : Nat) : State :=
  { rides s pkt (.buffered s.nextId (decide (4 ≤ n))) with nextId := s.nextId + 1 }

/-- The fret has no entry for an arriving packet: its buffer is full, or the rest of it is held for pressing ones. -/
def NoEntry (s : State) (pkt : Nat) (k : Packet) (n : Nat) : Prop :=
  ¬ (s.ejected k.fret).length + (if 4 ≤ n then 0 else s.pressing k.fret pkt) < 32

theorem entry_iff (s : State) (pkt : Nat) (k : Packet) (n : Nat) :
    (s.ejected k.fret).length + (if decide (4 ≤ n) = true then 0 else s.pressing k.fret pkt) < 32 ↔ ¬ NoEntry s pkt k n := by
  simp only [NoEntry, not_not, decide_eq_true_eq]

theorem packetArrival_of_entry (h : assocGet? pkt s.net = some k) (hn : k.ride.passes = some n) (hf : ¬ NoEntry s pkt k n) :
    packetArrival s pkt = buffers s pkt n := by
  simp only [packetArrival, h, hn]
  exact if_pos ((entry_iff s pkt k n).mpr hf)

theorem packetArrival_of_again (h : assocGet? pkt s.net = some k) (hn : k.ride.passes = some n) (hf : NoEntry s pkt k n)
    (he : (s.ejected k.fret).length < 32 ∨ evicted (s.ejected k.fret) k.cls = none) : packetArrival s pkt = rides s pkt k.ride.again := by
  have hnone : (if (s.ejected k.fret).length < ejectSize then none else evicted (s.ejected k.fret) k.cls) = none := by
    obtain hlt | hev := he
    · exact if_pos hlt
    · rw [hev, ite_self]
  simp only [packetArrival, h, hn, hnone, setRide_eq_rides]
  exact if_neg (mt (entry_iff s pkt k n).mp (not_not_intro hf))

theorem packetArrival_of_evicted (h : assocGet? pkt s.net = some k) (hn : k.ride.passes = some n) (hf : NoEntry s pkt k n)
    (hfull : 32 ≤ (s.ejected k.fret).length) (he : evicted (s.ejected k.fret) k.cls = some v) (hy : assocGet? v s.net = some y) :
    packetArrival s pkt = buffers ((rides s v .nacked).send 1 k.fret y.src 0 (.nack v)) pkt n := by
  have hsome : (if (s.ejected k.fret).length < ejectSize then none else evicted (s.ejected k.fret) k.cls) = some v := by
    rw [← he]
    exact if_neg (Nat.not_lt.mpr hfull)
  simp only [packetArrival, h, hn, hsome, hy, setRide_eq_rides]
  exact if_neg (mt (entry_iff s pkt k n).mp (not_not_intro hf))

/-- A packet that takes another's entry: that one is dropped, and its source told. -/
theorem evicted_frame (h : assocGet? pkt s.net = some k) (hv : v ≠ pkt) (hy : assocGet? v s.net = some y) (n : Nat) :
    let s' := buffers ((rides s v .nacked).send 1 k.fret y.src 0 (.nack v)) pkt n
    assocGet? v s'.net = some { y with ride := .nacked } ∧
    assocGet? pkt s'.net = some { k with ride := .buffered (s.nextId + 1) (decide (4 ≤ n)) } ∧
    ∃ a ∈ s'.net, a.2.load = .nack v ∧ a.2.cls = 1 ∧ a.2.src = k.fret ∧ a.2.fret = y.src := by
  refine ⟨?dropped, ?entered, ?told⟩
  case dropped => exact assocGet?_rides_ne hv (assocGet?_append_of_some (assocGet?_rides_self hy _) _) _
  case entered => exact assocGet?_rides_self (assocGet?_append_of_some (assocGet?_rides_ne hv.symm h _) _) _
  case told =>
    refine ⟨_, List.mem_map_of_mem (List.mem_append_right _ List.mem_cons_self), ?_⟩
    split <;> exact ⟨rfl, rfl, rfl, rfl⟩

/-- A NACK puts the copy of its packet before its source fret again. -/
def renewed (s : State) (pkt n : Nat) (k : Packet) : State :=
  { (rides (s.dropPacket n) pkt (.waiting s.nextId)).setPart (s.partOf (k.src / dieFrets))
      { s.part (s.partOf (k.src / dieFrets)) with
        nacks := ((s.part (s.partOf (k.src / dieFrets))).nacks.filter fun e => decide (s.time < e.2 + stormTime)) ++ [(k.src, s.time)] }
    with nextId := s.nextId + 1 }

theorem nack_cases (h : assocGet? pkt s.net = some k) (hn : s.nackArrived pkt = some n) :
    nack s pkt = (renewed s pkt n k).record (fretCore k.src) 6 0 k.src 0 ∨
    nack s pkt = ((renewed s pkt n k).record (fretCore k.src) 6 0 k.src 0).askFreeze (s.partOf (k.src / dieFrets)) 4 := by
  simp only [nack, h, hn]
  split
  · exact .inr rfl
  · exact .inl rfl

theorem renewed_net (h : assocGet? pkt s.net = some k) (hne : n ≠ pkt) :
    assocGet? pkt (renewed s pkt n k).net = some { k with ride := .waiting s.nextId } :=
  assocGet?_rides_self (s := s.dropPacket n) (assocGet?_filter _ h (by simpa using hne.symm)) _

end

/-! ### Recorders and rings (R374, R393) -/

section
variable {s : State} {p reason : Nat}

/-- A partition's recorders frozen for a reason that is no more to be served. -/
def frozenFor (s : State) (p reason : Nat) : State :=
  (s.setPart p { s.part p with freezes := (s.part p).freezes.erase reason }).setFrozen p 0 true true

theorem recorderFreeze_eq (h : reason ∈ (s.part p).freezes) :
    recorderFreeze s p reason = (frozenFor s p reason).report p none 7 reason 0 0 0 0 0 := by
  simp only [recorderFreeze, List.contains_iff_mem.mpr h, if_true]
  rfl

theorem part_frozenFor (s : State) (p reason : Nat) : (frozenFor s p reason).part p =
    { s.part p with freezes := (s.part p).freezes.erase reason, frozen := true } := by
  simp [frozenFor, State.setFrozen, State.part, State.setPart, assocGetD]

theorem events_recorderFreeze (h : reason ∈ (s.part p).freezes) : ((recorderFreeze s p reason).part p).events =
    (s.part p).events ++ [reportOf s p none 7 reason 0 0 0 0 0] := by
  rw [recorderFreeze_eq h, events_report, part_frozenFor]
  rfl

/-- No recorder of the partition goes on. -/
theorem frozen_recorderFreeze (h : reason ∈ (s.part p).freezes) {core : Nat} (hc : s.partOf (dieOf core) = p) :
    (recorderFreeze s p reason).frozen core = true := by
  have hpart : ((recorderFreeze s p reason).part p).frozen = true := by
    rw [recorderFreeze_eq h, State.report, State.part_setPart_self, part_frozenFor]
  have hcore : (recorderFreeze s p reason).core core = { s.core core with frozen := none } := by
    rw [recorderFreeze_eq h]
    exact assocGetD_map_ite (fun c : Core => { c with frozen := none }) Core.reset (fun x => s.partOf (dieOf x) = p) hc rfl s.cores
  have hmodcfg : (recorderFreeze s p reason).modcfg = s.modcfg := by rw [recorderFreeze_eq h]; rfl
  have hrange : (recorderFreeze s p reason).partOf (dieOf core) = p := by simpa only [State.partOf, hmodcfg] using hc
  rw [State.frozen, hcore, hrange, hpart]
  rfl

theorem eventRecordWrite_eq {ring i : Nat} {widx ridx : Word} {ev : EventRec}
    (hi : (s.part p).events.findIdx? (fun e => decide (e.ring = if ring = 0 then none else some (BitVec.ofNat 16 ring))) = some i)
    (hev : (s.part p).events[i]? = some ev) (hu : ringUsable (s.ring p ring) = true) (hf : (s.part p).fwrites = [])
    (hw : s.indexWord (s.ring p ring).2.2.1 widx < s.indexWord (s.ring p ring).2.2.2 ridx + 2 ^ (s.ring p ring).2.1) :
    eventRecordWrite s p ring widx ridx =
      ((s.setPart p { s.part p with events := (s.part p).events.eraseIdx i }).foremanWrite p
        ((s.ring p ring).1.toNat + 32 * (s.indexWord (s.ring p ring).2.2.1 widx % 2 ^ (s.ring p ring).2.1))
        (ev.words.flatMap fun x => bytesOf 8 x.toNat)).foremanWrite p (s.ring p ring).2.2.1.toNat
        (bytesOf 8 (s.indexWord (s.ring p ring).2.2.1 widx + 1)) := by
  simp only [eventRecordWrite, hi, hev, hu, hf, hw, List.isEmpty_nil, decide_true, Bool.and_self, if_true]
  rfl

end

end Sys2Proof.Machine

namespace Sys2Proof.Claims

open Sys2Proof.Machine

/-- Settles O50, event by event. -/
theorem networkEvents : Obligations.NetworkEvents := by
  intro s pkt k
  refine ⟨?scope, ?fill, ?probe, ?arrival, ?nack, ?freeze, ?ring⟩
  case scope =>
    exact fun line core d hd => ⟨fun h => goes_of_eq rfl (widenScope_of_notAsking hd h),
      fun h hh => goes_of_eq rfl (widenScope_of_asking hd h hh)⟩
  case fill =>
    intro line q f hk hl
    refine ⟨fun hp => goes_of_eq rfl (fillReply_of_probeBefore hk hl hp), fun hp hprobes hf => ?_⟩
    have hline : f.line = line := by
      have := List.find?_some hf
      simp only [Bool.and_eq_true, decide_eq_true_eq] at this
      exact this.1
    subst hline
    have hfill := performFill_eq (s := taken s pkt k) (core := k.dest) (f := f) hprobes
    refine ⟨_, goes_of_eq rfl ((fillReply_of_fill hk hl hp hf).trans hfill), rfl, ?_, fun hw => ?_, fun w hw => ?_,
      State.SameStore.sameBytes ⟨rfl, rfl⟩⟩
    all_goals rw [State.core_setCore_self]
    · unfold filledBy
      split <;> rfl
    · rw [show fillWay (taken s pkt k) k.dest f.set = none from hw]
      rfl
    · rw [show fillWay (taken s pkt k) k.dest f.set = some w from hw]
      rfl
  case probe =>
    intro line q hk hl
    have hgo := goes_of_eq (i := .probe pkt) rfl (probe_eq hk hl)
    refine ⟨fun hf => ?_, fun hf => ?_⟩
    · have hheld := heldProbes_of_noFill (c := probed s k.dest line q) (line := line)
        ⟨_, List.mem_append_right _ List.mem_cons_self, rfl⟩ hf
      exact ⟨_, hgo, rfl, by rw [State.core_setCore_self]; exact hheld.1, by rw [State.core_setCore_self]; exact hheld.2⟩
    · have hheld : (probed s k.dest line q).heldProbes line = probed s k.dest line q := by
        refine heldProbes_of_fills fun x hx hx1 => ?_
        obtain ⟨f, hmem, hline, n, hn, hbefore⟩ := hf x hx hx1
        exact List.any_eq_true.mpr ⟨f, hmem, by simp [hline, hn, hbefore]⟩
      rw [hheld] at hgo
      exact ⟨_, hgo, by rw [State.core_setCore_self]; rfl, by rw [State.core_setCore_self]; rfl⟩
  case arrival =>
    intro n h hn
    refine ⟨fun hf => goes_of_eq rfl (packetArrival_of_entry h hn hf), fun hf he => ?_, fun v y hf hfull he hv hy => ?_⟩
    · refine goes_of_eq rfl ((packetArrival_of_again h hn hf he).trans ?_)
      generalize k.ride = r at hn ⊢
      cases r with
      | riding x m => cases hn; rfl
      | waiting _ => rfl
      | transit _ => rfl
      | buffered _ _ => rfl
      | nacked => rfl
      | taken => rfl
    · exact ⟨_, goes_of_eq rfl (packetArrival_of_evicted h hn hf hfull he hy), evicted_frame h hv hy n⟩
  case nack =>
    intro n h hn hne
    have hstore : State.SameStore s ((renewed s pkt n k).record (fretCore k.src) 6 0 k.src 0) :=
      ⟨(record_mem ..).trans rfl, congrArg State.banksOf ((record_clusters ..).trans rfl)⟩
    have hnet := (congrArg (assocGet? pkt) (State.record_net (renewed s pkt n k) (fretCore k.src) 6 0 k.src 0)).trans (renewed_net h hne)
    have hthreads : ((renewed s pkt n k).record (fretCore k.src) 6 0 k.src 0).threads = s.threads := (State.record_threads ..).trans rfl
    obtain hgo | hgo := nack_cases h hn
    · exact ⟨_, goes_of_eq rfl hgo, hnet, hthreads, hstore.sameBytes⟩
    · exact ⟨_, goes_of_eq rfl hgo, hnet, hthreads, (hstore.trans ⟨rfl, rfl⟩).sameBytes⟩
  case freeze =>
    exact fun p reason h => ⟨_, rfl, fun core hc => frozen_recorderFreeze h hc, events_recorderFreeze h⟩
  case ring =>
    intro p ring widx ridx i ev hi hev r w s1 hu hf hw
    exact goes_of_eq rfl (eventRecordWrite_eq hi hev hu hf hw)

end Sys2Proof.Claims
end

section

namespace Sys2Proof.Machine

open State Claims

/-! ## What keeps memory in its canonical form (R130-R132)

A function of the model either leaves the memory's cells as they are, which an equation `f_mem` says, or writes some, and then keeps the
canonical form they had: `canonical_f`. The lemmas come in the order of the model, each from those of the functions it calls. -/

theorem foldl_mem {α : Type} {f : State → α → State} (hf : ∀ s a, (f s a).mem = s.mem) (l : List α) (s : State) :
    (l.foldl f s).mem = s.mem := by
  induction l generalizing s with
  | nil => rfl
  | cons a l ih => rw [List.foldl_cons, ih, hf]

@[simp] theorem ite_mem {c : Prop} [Decidable c] (a b : State) : (if c then a else b).mem = if c then a.mem else b.mem := by
  split <;> rfl

theorem canonical_foldl {α : Type} {f : State → α → State} (hf : ∀ (s : State) (a : α), s.mem.wf = true → (f s a).mem.wf = true)
    (l : List α) {s : State} (h : s.mem.wf = true) : (l.foldl f s).mem.wf = true :=
  List.foldlRecOn (motive := fun s : State => s.mem.wf = true) l _ h fun _ hs a _ => hf _ a hs

@[simp] theorem wf_ite {c : Prop} [Decidable c] {a b : Memory} :
    (if c then a else b).wf = true ↔ (c → a.wf = true) ∧ (¬c → b.wf = true) := by split <;> simp [*]

section

variable {s : State} (h : s.mem.wf = true)

/-! ### Memory, chunks and commits (R5, R100-R118) -/

include h in
@[simp] theorem canonical_writeByte (pa : Nat) (v : Byte) : (s.writeByte pa v).mem.wf = true := wf_writeByte pa v h

@[simp] theorem canonical_writeRun (pa : Nat) (bs : List Byte) (h : s.mem.wf = true) : (s.writeRun pa bs).mem.wf = true := by
  induction bs generalizing s pa with
  | nil => exact h
  | cons b bs ih => exact ih (pa + 1) (canonical_writeByte h pa b)

@[simp] theorem unitCheck_mem (p guild crew : Nat) (va : Word) : (s.unitCheck p guild crew va).mem = s.mem := rfl

@[simp] theorem squash_mem (tid i : Nat) : (s.squash tid i).mem = s.mem := (sameStore_squash s tid i).1

@[simp] theorem takeTrap_mem (tid : Nat) (t : Thread) (cause : Nat) (tval : Word) : (takeTrap s tid t cause tval).mem = s.mem :=
  (sameStore_takeTrap s tid t cause tval).1

@[simp] theorem headFault_mem (tid : Nat) (t : Thread) (c : Chunk) (cause : Nat) (tval : Word) :
    (headFault s tid t c cause tval).mem = s.mem := (sameStore_headFault s tid t c cause tval).1

@[simp] theorem stopped_mem (tid : Nat) (t : Thread) (c : Chunk) (e : Stop) : (stopped s tid t c e).mem = s.mem :=
  (sameStore_stopped s tid t c e).1

@[simp] theorem unissue_mem (tid : Nat) (e : Stop) : (s.unissue tid e).mem = s.mem := by
  simp [State.unissue]

@[simp] theorem clearStrings_mem : s.clearStrings.mem = s.mem := rfl

@[simp] theorem putControl_mem (cells : List Host.Cell) (pa : Nat) : (s.putControl cells pa).mem = s.mem := by
  simp [State.putControl]

include h in
@[simp] theorem canonical_putCells (cells : List Host.Cell) : (s.putCells cells).mem.wf = true := wf_putCells h

@[simp] theorem outdateOthers_mem (own : Option Nat) (addrs : List Nat) : (s.outdateOthers own addrs).mem = s.mem := rfl

include h in
@[simp] theorem canonical_perform (cells : List Host.Cell) : (s.perform cells).mem.wf = true := by
  simp [State.perform, h]

include h in
@[simp] theorem canonical_putBanked (x : Nat × List Byte) : (s.putBanked x).mem.wf = true := by
  unfold putBanked
  split
  · exact h
  · exact canonical_writeRun _ _ h

@[simp] theorem sendProbes_mem (writer : Option Nat) (lines : List Nat) : (s.sendProbes writer lines).mem = s.mem :=
  foldl_mem (fun s _ => by exact foldl_mem (fun _ _ => by rfl) _ s) lines s

@[simp] theorem breakReservations_mem (lines : List Nat) : (s.breakReservations lines).mem = s.mem := rfl

@[simp] theorem announce_mem (p no : Nat) (tid : Option Nat) (sig : Sig) (lines : List Nat) (fars msgs acks : Nat) :
    (s.announce p no tid sig lines fars msgs acks).mem = s.mem := by
  obtain ⟨_, _, _, _, _, htold⟩ := onlyTold_announce s p no tid sig lines fars msgs acks
  rw [htold]

@[simp] theorem newCommit_mem (p : Nat) (tid : Option Nat) (sig : Sig) (lines : List Nat) (fars msgs acks : Nat) :
    (s.newCommit p tid sig lines fars msgs acks).mem = s.mem := by
  simp [State.newCommit]

@[simp] theorem wakeWord_mem (p pa : Nat) : (s.wakeWord p pa).mem = s.mem := rfl

include h in
@[simp] theorem canonical_performFar (i : Nat) (f : FarPending) : (s.performFar i f).mem.wf = true := wf_performFar s i f h

include h in
@[simp] theorem canonical_settled (dwords : List Nat) : (s.settled dwords).mem.wf = true := (settled_frame s dwords).2 h

include h in
@[simp] theorem canonical_settleAll : s.settleAll.mem.wf = true := by
  simp [State.settleAll, h]

@[simp] theorem askFirst_mem (p : Nat) (lines : List Nat) : (s.askFirst p lines).mem = s.mem := rfl

@[simp] theorem askHost_mem (p : Nat) (lines : List Nat) : (s.askHost p lines).mem = s.mem := rfl

include h in
@[simp] theorem canonical_commitCells (p : Nat) (cells : List Host.Cell) : (s.commitCells p cells).mem.wf = true := by
  simp [State.commitCells, h]

include h in
@[simp] theorem canonical_effectCells (p no : Nat) (cells : List Host.Cell) : (s.effectCells p no cells).mem.wf = true := by
  simp [State.effectCells, h]

@[simp] theorem noteNo_mem (crew : Nat) : (s.noteNo crew).mem = s.mem := by
  unfold State.noteNo
  split <;> rfl

include h in
@[simp] theorem canonical_commitWord (p pa : Nat) (v : Word) : (s.commitWord p pa v).mem.wf = true := by
  simp [State.commitWord, h]

@[simp] theorem setRide_mem (pkt : Nat) (r : Ride) : (s.setRide pkt r).mem = s.mem := rfl

@[simp] theorem dropPacket_mem (pkt : Nat) : (s.dropPacket pkt).mem = s.mem := rfl

@[simp] theorem takePacket_mem (pkt : Nat) : (s.takePacket pkt).mem = s.mem := by
  unfold State.takePacket
  split <;> rfl

@[simp] theorem deliver_mem (c : Commit) (core : Nat) : (s.deliver c core).mem = s.mem := (sameStore_deliver s c core).1

@[simp] theorem sendLink_mem (k : LinkKind) (crew : Option Nat) (p no : Nat) (g : BitVec 16) : (s.sendLink k crew p no g).mem = s.mem := rfl

@[simp] theorem sendWrites_mem (tid crew : Option Nat) (p no : Nat) (g : BitVec 16) (cells : List Host.Cell) :
    (s.sendWrites tid crew p no g cells).mem = s.mem :=
  foldl_mem (fun _ _ => by rfl) _ s

include h in
@[simp] theorem canonical_foremanNow (p pa : Nat) (bs : List Byte) : (s.foremanNow p pa bs).mem.wf = true := by
  simp [State.foremanNow, h]

include h in
@[simp] theorem canonical_foremanWrite (p pa : Nat) (bs : List Byte) : (s.foremanWrite p pa bs).mem.wf = true := by
  simp [State.foremanWrite, h]

include h in
@[simp] theorem canonical_foremanGoesOn (p : Nat) : (foremanGoesOn s p).mem.wf = true := by
  unfold foremanGoesOn
  split <;> simp [h]

@[simp] theorem setFrozen_mem (p core : Nat) (all on : Bool) : (s.setFrozen p core all on).mem = s.mem := by
  simp [State.setFrozen]

@[simp] theorem nameCaller_mem (crew no : Nat) (c : Chunk) : (s.nameCaller crew no c).mem = s.mem :=
  foldl_mem (fun s w => by cases w <;> rfl) c.mailWords s

/-! ### The events of episodes (R403-R415) -/

include h in
@[simp] theorem canonical_benchWrite (p : Nat) (cells : List Host.Cell) : (s.benchWrite p cells).mem.wf = true := by
  simp [State.benchWrite, h]

include h in
@[simp] theorem canonical_tryEnd (b : Nat) : (s.tryEnd b).mem.wf = true := by
  unfold State.tryEnd
  dsimp only
  repeat' split
  all_goals simp [h]

include h in
@[simp] theorem canonical_endEpisode (b : Nat) (status : Nat) (payload : List Byte) : (s.endEpisode b status payload).mem.wf = true := by
  simp [State.endEpisode, h]

include h in
@[simp] theorem canonical_faultEpisode (b : Nat) (code : Nat) (v : Word) : (s.faultEpisode b code v).mem.wf = true := by
  simp [State.faultEpisode, h]

include h in
@[simp] theorem canonical_abortEpisodes (crew : Nat) : (s.abortEpisodes crew).mem.wf = true :=
  canonical_foldl (fun s e h => by simp [h]) s.benches h

@[simp] theorem suspendEpisodes_mem (crew : Nat) (on : Bool) : (s.suspendEpisodes crew on).mem = s.mem := rfl

include h in
@[simp] theorem canonical_startEpisode (b : Nat) : (startEpisode s b).mem.wf = true := by
  simp [startEpisode, h]

include h in
@[simp] theorem canonical_abortEpisode (b : Nat) : (abortEpisode s b).mem.wf = true := by
  simp [abortEpisode, h]

include h in
@[simp] theorem canonical_acceptAction (b : Nat) : (acceptAction s b).mem.wf = true := by
  simp [acceptAction, h]

include h in
@[simp] theorem canonical_advanceVersion (p : Nat) : (advanceVersion s p).mem.wf = true := by
  unfold advanceVersion
  split <;> simp [h]

include h in
@[simp] theorem canonical_loadEpisode (b : Nat) : (s.loadEpisode b).mem.wf = true := by
  unfold State.loadEpisode
  dsimp only
  repeat' split
  all_goals simp [h]

include h in
@[simp] theorem canonical_instructionBudget (b : Nat) : (instructionBudget s b).mem.wf = true := by
  simp [instructionBudget, h]

include h in
@[simp] theorem canonical_timeBudget (b : Nat) : (timeBudget s b).mem.wf = true := by
  simp [timeBudget, h]

include h in
@[simp] theorem canonical_benchAct (b : Nat) : (benchAct s b).mem.wf = true := by
  simp [benchAct, h]

include h in
@[simp] theorem canonical_waitactReturn (b : Nat) : (waitactReturn s b).mem.wf = true := by
  unfold waitactReturn
  dsimp only
  repeat' split
  all_goals simp [h]

include h in
@[simp] theorem canonical_epWaitact (b : Nat) (rs2 rs1 d : BitVec 5) : (epWaitact s b rs2 rs1 d).mem.wf = true := by
  simp [epWaitact, h]

/-! ### Copy engines, reductions, tasks and barriers (R270-R357) -/

@[simp] theorem setEngine_mem (core : Nat) (e : EngEntry) : (s.setEngine core e).mem = s.mem := rfl

@[simp] theorem setFail_mem (crew tid : Nat) : (s.setFail crew tid).mem = s.mem := by
  unfold State.setFail
  dsimp only
  repeat' split
  all_goals simp

@[simp] theorem endEngine_mem (core : Nat) (e : EngEntry) (lost : Bool) : (s.endEngine core e lost).mem = s.mem := by
  simp [State.endEngine]

@[simp] theorem engineNow_mem (core : Nat) (e : EngEntry) : (s.engineNow core e).mem = s.mem := by
  simp [State.engineNow]

@[simp] theorem sendBulk_mem (core : Nat) (lines : List Nat) : (s.sendBulk core lines).mem = s.mem :=
  foldl_mem (fun _ _ => by rfl) _ s

include h in
@[simp] theorem canonical_engineWrite (core : Nat) (e : EngEntry) (cells : List EngCell) (j : Nat) :
    (s.engineWrite core e cells j).1.mem.wf = true := by
  have hcommit (b : State) (p crew : Nat) (near : List Host.Cell) (hb : b.mem.wf = true) :
      (if near.isEmpty then b else ((b.commitCells p near).noteNo crew).sendBulk core (cellLines near)).mem.wf = true := by
    simp [hb]
  unfold engineWrite
  dsimp only
  split
  · exact h
  · split
    · exact h
    · rw [engineNow_mem, foldl_mem (fun _ _ => by rfl)]
      exact hcommit s _ _ _ h

@[simp] theorem engineStopped_mem (core : Nat) (e : EngEntry) (x : EngStop) : (s.engineStopped core e x).1.mem = s.mem := by
  unfold State.engineStopped
  repeat' split
  all_goals simp

include h in
@[simp] theorem canonical_enginePayload (core : Nat) (e : EngEntry) (j : Nat) : (s.enginePayload core e j).1.mem.wf = true := by
  unfold State.enginePayload
  dsimp only
  repeat' split
  all_goals simp [h]

include h in
@[simp] theorem canonical_engineFinal (core : Nat) (e : EngEntry) : (s.engineFinal core e).1.mem.wf = true := by
  unfold State.engineFinal
  dsimp only
  repeat' split
  all_goals simp [h]

@[simp] theorem ackPayload_mem (core id : Nat) : (s.ackPayload core id).mem = s.mem := by
  unfold State.ackPayload
  split <;> simp

@[simp] theorem engineTook_mem (core id : Nat) : (s.engineTook core id).mem = s.mem := rfl

@[simp] theorem engineWake_mem (tid : Nat) : (engineWake s tid).mem = s.mem := by
  unfold engineWake
  repeat' split
  all_goals simp

include h in
@[simp] theorem canonical_unitWrite (p crew : Nat) (g : BitVec 16) (cells : List Host.Cell) :
    (s.unitWrite p crew g cells).mem.wf = true := by
  simp [State.unitWrite, h]

@[simp] theorem openNext_mem (die : Nat) : (s.openNext die).mem = s.mem := by
  unfold State.openNext
  split <;> simp

include h in
@[simp] theorem canonical_endReduction (r : Reduction) (st : EngStatus) (value missing : Nat) :
    (s.endReduction r st value missing).mem.wf = true := by
  simp [State.endReduction, h]

theorem canonical_writeTarget (r : Reduction) (w fuel i : Nat) (vs : List Nat) (h : s.mem.wf = true) :
    (s.writeTarget r w fuel i vs).mem.wf = true := by
  induction fuel generalizing s i vs with
  | zero => exact canonical_endReduction h ..
  | succ fuel ih =>
    rw [writeTarget]
    split
    · exact canonical_endReduction h ..
    · dsimp only
      split
      · exact canonical_endReduction h ..
      · exact ih _ _ (canonical_unitWrite h ..)

include h in
@[simp] theorem canonical_finishReduction (r : Reduction) (v : List Nat) : (s.finishReduction r v).mem.wf = true :=
  canonical_writeTarget _ _ _ _ _ h

@[simp] theorem endSaved_mem (id : Nat) (lost : Bool) : (s.endSaved id lost).mem = s.mem := rfl

@[simp] theorem contributed_mem (source : Option (Nat × Nat)) (lost : Bool) : (s.contributed source lost).mem = s.mem := by
  unfold State.contributed
  repeat' split
  all_goals simp

@[simp] theorem contributionDone_mem (c : Contribution) (lost : Bool) : (s.contributionDone c lost).mem = s.mem := by
  simp [State.contributionDone]

include h in
@[simp] theorem canonical_nodeDone (r : Reduction) (l i : Nat) : (s.nodeDone r l i).mem.wf = true := by
  unfold State.nodeDone
  dsimp only
  repeat' split
  all_goals simp [h]

include h in
@[simp] theorem canonical_contributionArrives (i : Nat) : (contributionArrives s i).mem.wf = true := by
  unfold contributionArrives
  dsimp only
  repeat' split
  all_goals simp [h]

include h in
@[simp] theorem canonical_reductionTimesOut (block : Nat) : (reductionTimesOut s block).mem.wf = true := by
  unfold reductionTimesOut
  split <;> simp [h]

@[simp] theorem reductionWake_mem (tid : Nat) : (reductionWake s tid).mem = s.mem := by
  unfold reductionWake
  repeat' split
  all_goals simp

include h in
@[simp] theorem canonical_engineContrib (core : Nat) (e : EngEntry) (block index ty : Nat) (vals : Option (List Nat)) :
    (s.engineContrib core e block index ty vals).1.mem.wf = true := by
  unfold State.engineContrib
  dsimp only
  repeat' split
  all_goals simp [h]

include h in
@[simp] theorem canonical_engineChunk (core : Nat) (e : EngEntry) (j : Nat) : (s.engineChunk core e j).1.mem.wf = true := by
  unfold engineChunk
  split
  · exact canonical_engineContrib h ..
  · split
    · split
      · exact canonical_enginePayload h ..
      · exact h
    · exact canonical_engineFinal h ..

include h in
@[simp] theorem canonical_engineStep (core i j : Nat) : (engineStep s core i j).mem.wf = true := by
  unfold engineStep
  dsimp only
  repeat' split
  all_goals simp [h]

include h in
@[simp] theorem canonical_remoteCommit (pa : Nat) (bytes : List Host.Cell) : (s.remoteCommit pa bytes).mem.wf = true := by
  simp [State.remoteCommit, h]

include h in
@[simp] theorem canonical_payloadAck (core i : Nat) : (payloadAck s core i).mem.wf = true := by
  unfold payloadAck
  split
  · exact h
  · split
    · exact h
    · next l _ =>
      dsimp only
      split
      · next bytes _ =>
        split
        · exact h
        · rw [ackPayload_mem]
          cases bytes with
          | nil => exact h
          | cons b bs => exact canonical_remoteCommit (s := { s with links := s.links.filter fun x => x.1 ≠ l.1 }) h ..
      · exact h

include h in
@[simp] theorem canonical_setOverflow (tid : Nat) (t : Thread) : (s.setOverflow tid t).mem.wf = true := by
  simp [State.setOverflow, h]

@[simp] theorem setQueue_mem (p q : Nat) (v : Queue) : (s.setQueue p q v).mem = s.mem := rfl

@[simp] theorem queueEvent_mem (p q : Nat) (v : Word) : (s.queueEvent p q v).mem = s.mem := rfl

@[simp] theorem disable_mem (p q : Nat) : (s.disable p q).mem = s.mem := rfl

@[simp] theorem readQueue_mem (p q : Nat) (widx : Word) : (s.readQueue p q widx).mem = s.mem := by
  simp [State.readQueue]

include h in
@[simp] theorem canonical_setDeque (core : Nat) (c : Core) : (s.setDeque core c).mem.wf = true := by
  simp [State.setDeque, h]

include h in
@[simp] theorem canonical_push (core : Nat) (e : DequeEntry) : (s.push core e).mem.wf = true := by
  simp [State.push, h]

include h in
@[simp] theorem canonical_pushTask (core crew : Nat) (t : TaskRec) : (s.pushTask core crew t).mem.wf = true := by
  simp [State.pushTask, h]

@[simp] theorem startTask_mem (tid : Nat) (e : DequeEntry) : (s.startTask tid e).mem = s.mem := by
  unfold State.startTask
  split <;> simp

include h in
theorem canonical_of_popTask {tid : Nat} {s' : State} (hp : s.popTask tid = some s') : s'.mem.wf = true := by
  unfold popTask at hp
  split at hp
  · cases hp
  · obtain ⟨r, -, rfl⟩ := Option.map_eq_some_iff.mp hp
    simp [h]

@[simp] theorem askSteal_mem (tid : Nat) (t : Thread) : (s.askSteal tid t).mem = s.mem := by
  unfold State.askSteal
  split <;> rfl

include h in
@[simp] theorem canonical_taskPop (tid : Nat) : (taskPop s tid).mem.wf = true := by
  unfold taskPop
  split
  · exact h
  · split
    · split
      · next hp => exact canonical_of_popTask h hp
      · simpa using h
    · exact h

include h in
@[simp] theorem canonical_stealRequest (tid victim : Nat) : (stealRequest s tid victim).mem.wf = true := by
  unfold stealRequest
  dsimp only
  repeat' split
  all_goals simp [h]

@[simp] theorem stealAnswer_mem (tid crew : Nat) (e : Option DequeEntry) : (s.stealAnswer tid crew e).mem = s.mem := by
  unfold State.stealAnswer
  repeat' split
  all_goals simp

@[simp] theorem stealBackoff_mem (tid : Nat) : (stealBackoff s tid).mem = s.mem := by
  unfold stealBackoff
  repeat' split
  all_goals simp

@[simp] theorem appliedMsg_mem (p no : Nat) : (s.appliedMsg p no).mem = s.mem := rfl

include h in
@[simp] theorem canonical_decrement (crew core idx d : Nat) : (s.decrement crew core idx d).mem.wf = true := by
  unfold State.decrement
  dsimp only
  repeat' split
  all_goals simp [h]

include h in
@[simp] theorem canonical_removeMessages (tid n : Nat) : (s.removeMessages tid n).mem.wf = true := by
  unfold State.removeMessages
  split <;> simp [h]

include h in
@[simp] theorem canonical_placeMessage (tid : Nat) (t : Thread) (x : Message) : (s.placeMessage tid t x).mem.wf = true := by
  unfold State.placeMessage
  split <;> simp [h]

include h in
@[simp] theorem canonical_foremanEffect (p no crew : Nat) (g : BitVec 16) (pa : Nat) (bs : List Byte) :
    (s.foremanEffect p no crew g pa bs).mem.wf = true := by
  simp [State.foremanEffect, h]

@[simp] theorem launchIndex_mem (p q : Nat) : (s.launchIndex p q).2.mem = s.mem := by
  unfold launchIndex
  split <;> simp

include h in
@[simp] theorem canonical_applyLaunch (p no crew q : Nat) (g : BitVec 16) (r : List Word) :
    (s.applyLaunch p no crew q g r).mem.wf = true := by
  have hread : ((s.launchIndex p q).2.readQueue p q (s.launchIndex p q).1).mem.wf = true := by simp [h]
  unfold applyLaunch
  dsimp only
  split
  · exact hread
  · split
    · exact canonical_foremanEffect (canonical_foremanEffect hread ..) ..
    · split
      · exact canonical_foremanWrite hread ..
      · exact hread

include h in
@[simp] theorem canonical_applyMsg (p no crew : Nat) (m : TaskMsg) : (s.applyMsg p no crew m).mem.wf = true := by
  unfold State.applyMsg
  dsimp only
  repeat' split
  all_goals simp [h]

include h in
@[simp] theorem canonical_taskMessageApply (pkt : Nat) : (taskMessageApply s pkt).mem.wf = true := by
  have htaken : (s.takePacket pkt).mem.wf = true := by simp [h]
  unfold taskMessageApply
  split
  · split
    · split
      · simpa using canonical_applyMsg htaken ..
      · exact h
    · exact h
  · exact h

include h in
@[simp] theorem canonical_counterDecrement (pkt : Nat) : (counterDecrement s pkt).mem.wf = true := by
  have htaken : (s.takePacket pkt).mem.wf = true := by simp [h]
  unfold counterDecrement
  split
  · split
    · split
      · simpa using canonical_decrement htaken ..
      · exact h
    · exact h
  · exact h

@[simp] theorem defineDomain_mem (crew k : Nat) (d : Domain) : (s.defineDomain crew k d).mem = s.mem := by
  unfold State.defineDomain
  split <;> rfl

theorem canonical_pushAll (tid crew : Nat) (rs : List TaskRec) (h : s.mem.wf = true) :
    (releaseMember.pushAll s tid crew rs).mem.wf = true := by
  induction rs generalizing s with
  | nil => exact h
  | cons r rs ih => exact ih (canonical_pushTask h ..)

include h in
@[simp] theorem canonical_releaseMember (k : Nat) (det : Bool) (tid : Nat) : (s.releaseMember k det tid).mem.wf = true := by
  unfold releaseMember
  split
  · exact h
  · split
    · split
      · exact h
      · split
        · exact h
        · dsimp only
          split
          · exact h
          · exact canonical_pushAll _ _ _ h
    · exact h

include h in
@[simp] theorem canonical_barrierRelease (crew dom : Nat) : (barrierRelease s crew dom).mem.wf = true := by
  unfold barrierRelease
  split
  · exact h
  · split
    · exact canonical_foldl (fun _ _ hs => canonical_releaseMember hs ..) _ h
    · exact h

@[simp] theorem startJoin_mem (crew dom : Nat) : (startJoin s crew dom).mem = s.mem := by
  unfold startJoin
  repeat' split
  all_goals simp

@[simp] theorem phaseStart_mem (crew dom : Nat) : (phaseStart s crew dom).mem = s.mem := by
  unfold phaseStart
  repeat' split
  all_goals simp

@[simp] theorem phaseEnd_mem (crew dom : Nat) : (phaseEnd s crew dom).mem = s.mem := by
  unfold phaseEnd
  split
  · rfl
  · split
    · dsimp only
      split
      · refine foldl_mem (fun s e => ?_) _ s
        split
        · split <;> rfl
        · rfl
      · rfl
    · rfl

include h in
@[simp] theorem canonical_exchangeNext (tid : Nat) : (s.exchangeNext tid).mem.wf = true := by
  unfold State.exchangeNext
  dsimp only
  repeat' split
  all_goals simp [h]

theorem canonical_repeat {f : State → State} (hf : ∀ s, s.mem.wf = true → (f s).mem.wf = true) (n : Nat) (h : s.mem.wf = true) :
    (Nat.repeat f n s).mem.wf = true := by
  induction n with
  | zero => exact h
  | succ n ih => exact hf _ ih

include h in
@[simp] theorem canonical_exchangeTurn (tid : Nat) : (s.exchangeTurn tid).mem.wf = true := by
  unfold exchangeTurn
  split
  · exact canonical_repeat (fun _ hs => canonical_exchangeNext hs _) _ h
  · exact h

include h in
@[simp] theorem canonical_exchangeChunk (tid : Nat) : (exchangeChunk s tid).mem.wf = true := by
  unfold exchangeChunk
  split <;> simp [h]

/-! ### The loom, special functions, issue and traps (R217, R245-R267, R364-R381) -/

@[simp] theorem sparseSeed_mem (c : Core) (op : LoomOp) : (sparseSeed s c op).2.mem = s.mem := by
  unfold sparseSeed
  split
  · split
    · rfl
    · split <;> rfl
  · rfl

@[simp] theorem performLoom_mem (core : Nat) (k : LoomCmd) : (s.performLoom core k).mem = s.mem := by
  unfold performLoom
  split
  · rfl
  · dsimp only
    split
    · exact sparseSeed_mem ..
    · split <;> rfl

@[simp] theorem loomStep_mem (core : Nat) : (loomStep s core).mem = s.mem := by
  unfold loomStep
  split <;> simp

@[simp] theorem panelChecks_mem (core : Nat) (k : PanelCmd) : (s.panelChecks core k).mem = s.mem := by
  unfold panelChecks
  dsimp only
  split
  · rfl
  · exact foldl_mem (fun _ _ => by rfl) _ _

@[simp] theorem panelStep_mem (core : Nat) : (panelStep s core).mem = s.mem := by
  unfold panelStep
  dsimp only
  repeat' split
  all_goals simp

@[simp] theorem panelReadyStep_mem (core panel : Nat) : (panelReadyStep s core panel).mem = s.mem := by
  unfold panelReadyStep
  dsimp only
  repeat' split
  all_goals simp

@[simp] theorem leavePanel_mem (tid p : Nat) (op : PanelOp) : (s.leavePanel tid p op).mem = s.mem := by
  unfold State.leavePanel
  split <;> rfl

@[simp] theorem claimPanels_mem (core i : Nat) : (s.claimPanels core i).mem = s.mem := by
  unfold State.claimPanels
  dsimp only
  repeat' split
  all_goals simp

@[simp] theorem matrixWake_mem (tid : Nat) : (matrixWake s tid).mem = s.mem := by
  unfold matrixWake
  repeat' split
  all_goals simp

@[simp] theorem microFault_mem (tid : Nat) (t : Thread) (f : Finish) (cause : Nat) (tval : Word) :
    (microFault s tid t f cause tval).mem = s.mem := by
  unfold microFault
  split <;> simp

@[simp] theorem reportCheck_mem (tid : Nat) (t : Thread) (va : Word) : (s.reportCheck tid t va).mem = s.mem := by
  simp [State.reportCheck]

@[simp] theorem microStop_mem (tid : Nat) (t : Thread) (f : Finish) (cause : Nat) (tval : Word) :
    (microStop s tid t f cause tval).mem = s.mem := by
  simp [microStop]

@[simp] theorem microMarked_mem (tid : Nat) (t : Thread) (f : Finish) (cause : Nat) (tval : Word) :
    (microMarked s tid t f cause tval).mem = s.mem := by
  simp [microMarked]

/-! ### The operations of frame and return chunks and of a fetch are quiet -/

@[simp] theorem quiet_readMem (m : Mach) (va : Word) (n : Nat) : QuietAt s (readMem va n) m := by simp [readMem]

@[simp] theorem quiet_holdFrame (m : Mach) (va : Word) (line : Nat) : QuietAt s (holdFrame va line) m := by
  simp only [holdFrame, quiet_get_bind]
  repeat' split
  all_goals simp

@[simp] theorem quiet_framePut (m : Mach) (va v : Word) : QuietAt s (framePut va v) m := by simp [framePut]

@[simp] theorem quiet_framePuts (m : Mach) (fb : Word) (o : Nat) (ws : List Word) : QuietAt s (framePuts fb o ws) m := by
  induction ws generalizing s m o with
  | nil => exact quiet_pure s m _
  | cons w ws ih => simp [framePuts, ih]

@[simp] theorem quiet_frameOp (m : Mach) (i : Nat) (e : List Word) : QuietAt s (frameOp i e) m := by
  simp only [frameOp, quiet_get_bind]
  split
  · exact quiet_throw s m _
  · simp

@[simp] theorem quiet_frameGets (m : Mach) (fb : Word) (o n : Nat) : QuietAt s (frameGets fb o n) m := by
  induction n generalizing s m o with
  | zero => exact quiet_pure s m _
  | succ n ih => simp [frameGets, ih]

@[simp] theorem quiet_restoreFrame (m : Mach) (l : GateLink) (nv nt : Nat) : QuietAt s (restoreFrame l nv nt) m := by
  simp [restoreFrame, fresh3]

@[simp] theorem quiet_returnOp (m : Mach) (fail code : Option Word) : QuietAt s (returnOp fail code) m := by
  simp only [returnOp, quiet_get_bind]
  split
  · exact quiet_throw s m _
  · simp

@[simp] theorem quiet_microOp (m : Mach) (f : Finish) : QuietAt s (microOp f) m := by
  unfold microOp
  split <;> simp

@[simp] theorem quiet_fetchOp (m : Mach) (cached : Bool) (va : Word) : QuietAt s (fetchOp cached va) m := by
  unfold fetchOp
  simp
  split <;> simp

/-! ### What the commit unit's events of one thread leave of memory -/

@[simp] theorem headStep_mem {op : M Unit} (hq : ∀ s m, QuietAt s op m) (cut : Bool) (tid : Nat) (t : Thread) (rep : Bool) :
    (headStep s cut tid t rep op).mem = s.mem := (sameStore_headStep hq ..).1

@[simp] theorem retire_mem (m : Mach) (cut : Bool) : (m.retire cut).mem = m.st.mem := (sameStore_retire ..).1

@[simp] theorem runMicro_mem (tid : Nat) (t : Thread) (f : Finish) : (runMicro s tid t f).mem = s.mem := by
  have hop := quiet_microOp (s := s) (Mach.start s tid { t with micro := none }) f (.refl s)
  unfold leaves at hop
  unfold runMicro
  split at hop
  · next hr => rw [hr]; exact (retire_mem ..).trans hop.1
  · next e m hr =>
    rw [hr]
    refine Eq.trans ?_ hop.1
    cases e <;> simp

@[simp] theorem issue_mem (core : Nat) (cut : Bool) (late : BitVec 16) : (issue s core cut late).mem = s.mem := by
  unfold issue
  dsimp only
  repeat' split
  all_goals simp

@[simp] theorem enterImage_mem (tid : Nat) (t : Thread) (img : Line) : (enterImage s tid t img).mem = s.mem := by
  simp [enterImage]

@[simp] theorem lineArrival_mem (tid : Nat) (cached : Bool) : (lineArrival s tid cached).mem = s.mem := by
  unfold lineArrival
  split
  · rfl
  · next t _ =>
    split
    · split
      · exact enterImage_mem ..
      · have hop := quiet_fetchOp (s := s) (Mach.start s tid t) cached (lineAddr t.arch.pc) (.refl s)
        unfold leaves at hop
        split at hop
        · next hr => rw [hr]; exact (enterImage_mem ..).trans hop.1
        · next hr => rw [hr]; exact (stopped_mem ..).trans hop.1
    · rfl

@[simp] theorem pageWalkEnd_mem (cluster i : Nat) : (pageWalkEnd s cluster i).mem = s.mem := by
  unfold pageWalkEnd
  dsimp only
  split
  · rfl
  · split
    · rfl
    · split
      · rfl
      · exact (sameStore_foldl_tellAbsent ..).1

@[simp] theorem waitaEvaluation_mem (tid : Nat) : (waitaEvaluation s tid).mem = s.mem := by
  unfold waitaEvaluation
  repeat' split
  all_goals simp

@[simp] theorem pollInterval_mem (tid : Nat) : (pollInterval s tid).mem = s.mem := by
  unfold pollInterval
  repeat' split
  all_goals simp

@[simp] theorem sfuResult_mem (core : Nat) : (sfuResult s core).mem = s.mem := by
  unfold sfuResult
  dsimp only
  repeat' split
  all_goals simp

@[simp] theorem watchdog_mem (tid : Nat) : (watchdog s tid).mem = s.mem := by
  unfold watchdog
  split
  · split
    · exact headStep_mem (fun s m => quiet_pure s m _) ..
    · rfl
  · rfl

@[simp] theorem preciseReexecution_mem (tid : Nat) : (preciseReexecution s tid).mem = s.mem := by
  unfold preciseReexecution
  dsimp only
  repeat' split
  all_goals simp

@[simp] theorem trapDelivery_mem (tid : Nat) : (trapDelivery s tid).mem = s.mem := by
  unfold trapDelivery
  repeat' split
  all_goals simp

@[simp] theorem pageFaultPark_mem (tid : Nat) : (pageFaultPark s tid).mem = s.mem := by
  unfold pageFaultPark
  dsimp only
  repeat' split
  all_goals simp

@[simp] theorem dataCheck_mem (tid : Nat) (va : Word) : (s.dataCheck tid va).mem = s.mem := by
  unfold State.dataCheck
  dsimp only
  repeat' split
  all_goals simp

@[simp] theorem parityCheck_mem (tid i : Nat) : (s.parityCheck tid i).mem = s.mem := by
  unfold State.parityCheck
  repeat' split
  all_goals simp

@[simp] theorem machineCheck_mem (tid : Nat) (va : Word) (kind : Nat) : (machineCheck s tid va kind).mem = s.mem := by
  unfold machineCheck
  split <;> simp

/-! ### Grants and acknowledgements (R114-R122, R158, R264) -/

@[simp] theorem refuse_mem (tid : Nat) (t : Thread) (c : Chunk) (k cause : Nat) (tval : Word) :
    (s.refuse tid t c k cause tval).mem = s.mem := by
  unfold State.refuse
  split <;> simp

@[simp] theorem commitRequest_mem (tid : Nat) : (commitRequest s tid).mem = s.mem := by
  unfold commitRequest
  dsimp only
  repeat' split
  all_goals simp

@[simp] theorem squashWhere_mem (who : Nat → Thread → Bool) (what : Chunk → Bool) : (s.squashWhere who what).mem = s.mem := by
  refine foldl_mem (fun s e => ?_) _ s
  split
  · split
    · split <;> simp
    · rfl
  · rfl

@[simp] theorem squashWindow_mem (cl : Nat) : (s.squashWindow cl).mem = s.mem := squashWhere_mem ..

include h in
@[simp] theorem canonical_sampleWrite (p : Nat) (pa : Nat) (l : List Nat) : (s.sampleWrite p pa l).mem.wf = true := by
  simp [State.sampleWrite, h]

include h in
@[simp] theorem canonical_sample (p core kind : Nat) (payload : List Nat) : (s.sample p core kind payload).mem.wf = true := by
  simp [State.sample, h]

@[simp] theorem startSnap_mem (tid p no : Nat) (desc : List Word) : (s.startSnap tid p no desc).mem = s.mem := by
  simp [State.startSnap]

@[simp] theorem denyFault_mem (p : Nat) (v : Word) : (s.denyFault p v).mem = s.mem := by
  unfold State.denyFault
  repeat' split
  all_goals simp

@[simp] theorem invalidate_mem (p k : Nat) (va : Word) (guild : BitVec 16) (tid : Option Nat) (no : Nat) :
    (s.invalidate p k va guild tid no).mem = s.mem := rfl

include h in
@[simp] theorem canonical_configBank (cl b mode : Nat) (owner : BitVec 16) : (s.configBank cl b mode owner).mem.wf = true := by
  unfold configBank
  dsimp only
  split
  · exact h
  · rw [squashWindow_mem]
    exact Memory.wf_filter _ _ h

include h in
@[simp] theorem canonical_discardLine (line : Nat) : (s.discardLine line).mem.wf = true := by
  unfold State.discardLine
  split <;> simp [h]

@[simp] theorem dropCopies_mem (lines : List Nat) : (s.dropCopies lines).mem = s.mem := rfl

@[simp] theorem flushCode_mem (p core line : Nat) : (s.flushCode p core line).mem = s.mem := rfl

@[simp] theorem flushClusters_mem (p line : Nat) : (s.flushClusters p line).mem = s.mem := rfl

include h in
@[simp] theorem canonical_release (tid p no crew : Nat) (e : Effect) : (s.release tid p no crew e).mem.wf = true := by
  cases e
  case discard lines =>
    rw [release, squashWhere_mem, dropCopies_mem]
    exact canonical_foldl (fun _ _ hs => canonical_discardLine hs _) _ h
  case iflush all line =>
    rw [release, ite_mem, foldl_mem (fun s l => flushCode_mem ..)]
    simp [h]
  all_goals
    simp only [release]
    repeat' split
  all_goals simp [h]

@[simp] theorem performAtom_mem (before : State) (tid p no : Nat) (t : Thread) (c : Chunk) :
    (s.performAtom before tid p no t c).mem = s.mem := by
  unfold State.performAtom
  repeat' split
  all_goals simp

theorem grantTold_mem (b : State) (tid p : Nat) (c : Chunk) : (grantTold s b tid p c).mem = s.mem := (grantTold_frame ..).2.1

include h in
theorem canonical_granted (tid : Nat) (t : Thread) (c : Chunk) (no : Nat) : (granted s tid t c no).mem.wf = true := by
  refine canonical_foldl (fun _ _ hs => canonical_putBanked hs _) _ (canonical_putCells ?_ _)
  rwa [nameCaller_mem]

include h in
theorem canonical_releases (tid p no crew : Nat) (es : List Effect) :
    (es.foldl (fun s e => s.release tid p no crew e) s).mem.wf = true :=
  canonical_foldl (fun _ _ hs => canonical_release hs ..) _ h

include h in
@[simp] theorem canonical_grant (tid : Nat) (t : Thread) (c : Chunk) : (s.grant tid t c).mem.wf = true := by
  rw [grant_eq]
  dsimp only
  rw [ite_mem, stopCrew_mem, record_mem, ite_self]
  refine canonical_releases ?_ ..
  rw [ite_mem, squashWindow_mem, ite_self, performAtom_mem, grantTold_mem]
  exact canonical_granted (canonical_settled h _) ..

include h in
@[simp] theorem canonical_arbitrate (tid : Nat) (t : Thread) (c : Chunk) : (s.arbitrate tid t c).mem.wf = true := by
  unfold State.arbitrate
  dsimp only
  repeat' split
  all_goals simp [h]

include h in
@[simp] theorem canonical_commitGrant (tid : Nat) : (commitGrant s tid).mem.wf = true := by
  unfold commitGrant
  split
  · exact h
  · split
    · simp [h]
    · exact h

@[simp] theorem noteArrivals_mem (crew : Nat) : (s.noteArrivals crew).mem = s.mem := (sameStore_noteArrivals ..).1

@[simp] theorem nextTurn_mem (crew : Nat) : (s.nextTurn crew).mem = s.mem := by
  unfold State.nextTurn
  split <;> simp

include h in
@[simp] theorem canonical_pushRoutines (tid : Nat) (t : Thread) (rs : List TaskRec) : (s.pushRoutines tid t rs).mem.wf = true :=
  canonical_pushAll _ _ _ h

include h in
@[simp] theorem canonical_popTurn (tid crew : Nat) : (s.popTurn tid crew).mem.wf = true := by
  unfold popTurn
  rw [nextTurn_mem]
  cases hp : s.popTask tid with
  | none => exact h
  | some s' => exact canonical_of_popTask h hp

include h in
@[simp] theorem canonical_grantTurn (crew : Nat) (w : Crew) (tid : Nat) (t : Thread) (c : Chunk) :
    (s.grantTurn crew w tid t c).mem.wf = true := by
  unfold State.grantTurn
  dsimp only
  repeat' split
  all_goals simp [h]

@[simp] theorem faultTurn_mem (tid : Nat) (t : Thread) : (s.faultTurn tid t).mem = s.mem := by
  unfold State.faultTurn
  split <;> simp

include h in
@[simp] theorem canonical_waitTurn (crew : Nat) (w : Crew) (tid : Nat) (t : Thread) : (s.waitTurn crew w tid t).mem.wf = true := by
  unfold State.waitTurn
  split <;> simp [h]

include h in
@[simp] theorem canonical_takeTurn (crew : Nat) (w : Crew) (tid : Nat) (t : Thread) : (s.takeTurn crew w tid t).mem.wf = true := by
  unfold takeTurn
  split
  · simp [h]
  · split
    · exact canonical_grantTurn h ..
    · exact canonical_waitTurn h ..

include h in
@[simp] theorem canonical_deterministicTurn (crew : Nat) : (deterministicTurn s crew).mem.wf = true := by
  unfold deterministicTurn
  dsimp only
  repeat' split
  all_goals simp [h]

@[simp] theorem signatureDelivery_mem (pkt : Nat) : (signatureDelivery s pkt).mem = s.mem := by
  unfold signatureDelivery
  dsimp only
  repeat' split
  all_goals simp

include h in
@[simp] theorem canonical_farAtomicApply (i : Nat) : (farAtomicApply s i).mem.wf = true := by
  unfold farAtomicApply
  split <;> simp [h]

include h in
@[simp] theorem canonical_drainWrite (core i j : Nat) : (drainWrite s core i j).mem.wf = true := by
  unfold drainWrite
  dsimp only
  repeat' split
  all_goals simp [h]

@[simp] theorem writeBack_mem (line : Nat) : (writeBack s line).mem = s.mem := by
  simp [writeBack]

@[simp] theorem claimAll_mem (tid n : Nat) : (s.claimAll tid n).mem = s.mem := by
  induction n generalizing s with
  | zero => rfl
  | succ n ih =>
    rw [claimAll]
    split
    · split
      · rw [ih, claimPanels_mem]
      · rfl
    · rfl

@[simp] theorem sendOut_mem (tid crew p no : Nat) (g : BitVec 16) (c : Chunk) : (s.sendOut tid crew p no g c).mem = s.mem := by
  unfold sendOut
  rw [foldl_mem (fun _ _ => by simp), sendWrites_mem]

@[simp] theorem commitAcknowledgement_mem (tid : Nat) : (commitAcknowledgement s tid).mem = s.mem := by
  unfold commitAcknowledgement
  dsimp only
  repeat' split
  all_goals simp

/-! ### Packets and event records (R335-R339, R374, R393) -/

@[simp] theorem widenScope_mem (line core : Nat) : (widenScope s line core).mem = s.mem := by
  unfold widenScope
  split <;> simp

@[simp] theorem evictionNotice_mem (core line : Nat) : (evictionNotice s core line).mem = s.mem := by
  unfold evictionNotice
  split <;> simp

@[simp] theorem performFill_mem (core : Nat) (f : Fill) : (s.performFill core f).mem = s.mem := rfl

@[simp] theorem fillReply_mem (pkt : Nat) : (fillReply s pkt).mem = s.mem := by
  unfold fillReply
  dsimp only
  repeat' split
  all_goals simp

@[simp] theorem probe_mem (pkt : Nat) : (probe s pkt).mem = s.mem := by
  unfold probe
  dsimp only
  repeat' split
  all_goals simp

@[simp] theorem injectPacket_mem (pkt : Nat) : (injectPacket s pkt).mem = s.mem := by
  unfold injectPacket
  repeat' split
  all_goals simp

@[simp] theorem packetArrival_mem (pkt : Nat) : (packetArrival s pkt).mem = s.mem := by
  unfold packetArrival
  dsimp only
  repeat' split
  all_goals simp

@[simp] theorem nack_mem (pkt : Nat) : (nack s pkt).mem = s.mem := by
  unfold nack
  split <;> simp

@[simp] theorem serveLine_mem (pkt core line : Nat) : (s.serveLine pkt core line).mem = s.mem := by
  simp [State.serveLine]

@[simp] theorem unitTakes_mem (pkt : Nat) : (unitTakes s pkt).mem = s.mem := by
  unfold unitTakes
  repeat' split
  all_goals simp

@[simp] theorem takeClusterCode_mem (cl line : Nat) : (takeClusterCode s cl line).mem = s.mem := by
  unfold takeClusterCode
  split <;> simp

@[simp] theorem dropClusterCode_mem (cl line : Nat) : (dropClusterCode s cl line).mem = s.mem := rfl

@[simp] theorem recorderFreeze_mem (p reason : Nat) : (recorderFreeze s p reason).mem = s.mem := by
  simp [recorderFreeze]

include h in
@[simp] theorem canonical_eventRecordWrite (p ring : Nat) (widx ridx : Word) : (eventRecordWrite s p ring widx ridx).mem.wf = true := by
  unfold eventRecordWrite
  dsimp only
  repeat' split
  all_goals simp [h]

/-! ### Queues, launches and the foreman window (R303-R322, R430) -/

@[simp] theorem doorbell_mem (p q : Nat) (widx : Word) : (doorbell s p q widx).mem = s.mem := by
  simp [doorbell]

@[simp] theorem quantumBoundary_mem (p : Nat) : (quantumBoundary s p).mem = s.mem := by
  simp [quantumBoundary]

include h in
@[simp] theorem canonical_seedMember (crew : Nat) (guild : BitVec 16) (det : Bool) (r : LaunchRec) (l tid : Nat) :
    (s.seedMember crew guild det r l tid).mem.wf = true := by
  simp [State.seedMember, h]

theorem canonical_foldl_seedMember (crew : Nat) (guild : BitVec 16) (det : Bool) (r : LaunchRec) (members : List (Nat × Nat))
    (h : s.mem.wf = true) : (members.foldl (fun s m => s.seedMember crew guild det r m.1 m.2) s).mem.wf = true :=
  canonical_foldl (fun _ _ hs => canonical_seedMember hs ..) _ h

include h in
theorem canonical_of_placeLaunch {p q : Nat} {r : LaunchRec} {s' : State} (hp : s.placeLaunch p q r = some s') : s'.mem.wf = true := by
  unfold placeLaunch at hp
  dsimp only at hp
  split at hp
  · cases hp
    exact canonical_foldl_seedMember _ _ _ _ _ h
  · cases hp

@[simp] theorem takeHead_mem (p q : Nat) : (s.takeHead p q).mem = s.mem := rfl

include h in
@[simp] theorem canonical_complete (p : Nat) (addr : Word) (status value : Nat) : (s.complete p addr status value).mem.wf = true := by
  simp [State.complete, h]

include h in
@[simp] theorem canonical_refuseHead (p q : Nat) (r : LaunchRec) (status value : Nat) :
    (s.refuseHead p q r status value).mem.wf = true := by
  simp [State.refuseHead, h]

include h in
@[simp] theorem canonical_skipHead (p q n : Nat) (r : LaunchRec) : (s.skipHead p q n r).mem.wf = true := by
  simp [State.skipHead, h]

include h in
theorem canonical_of_serveHead {p q : Nat} {s' : State} (hp : s.serveHead p q = .acts s') : s'.mem.wf = true := by
  unfold serveHead at hp
  dsimp only at hp
  repeat' split at hp
  all_goals cases hp
  all_goals simp [h]
  exact canonical_of_placeLaunch h ‹_›

include h in
@[simp] theorem canonical_tryHead (p q : Nat) : (s.tryHead p q).mem.wf = true := by
  unfold tryHead
  split
  · next hp => exact canonical_of_serveHead h hp
  · exact h
  · exact h

include h in
@[simp] theorem canonical_slotService (p q : Nat) (widx : Word) (rec' : List Word) : (slotService s p q widx rec').mem.wf = true := by
  simp [slotService, h]

include h in
@[simp] theorem canonical_launchPlacement (p q : Nat) : (launchPlacement s p q).mem.wf = true := by
  simp [launchPlacement, h]

include h in
@[simp] theorem canonical_forgetOn (crew core : Nat) : (s.forgetOn crew core).mem.wf = true := by
  simp [State.forgetOn, h]

include h in
@[simp] theorem canonical_forgetCrew (crew : Nat) : (s.forgetCrew crew).mem.wf = true :=
  canonical_foldl (fun _ _ hs => canonical_forgetOn hs ..) _ h

include h in
@[simp] theorem canonical_finishLaunch (p : Nat) (w : Crew) (totals : List Nat) (status value : Nat) :
    (s.finishLaunch p w totals status value).mem.wf = true := by
  simp [State.finishLaunch, h]

include h in
@[simp] theorem canonical_endCrew (crew : Nat) (w : Crew) (status value : Nat) : (s.endCrew crew w status value).mem.wf = true := by
  unfold endCrew
  dsimp only
  refine canonical_finishLaunch ?_ ..
  dsimp only
  rw [ite_mem, setQueue_mem, ite_self]
  refine canonical_abortEpisodes ?_ _
  rw [setPart_mem]
  exact canonical_forgetCrew (by exact h) crew

include h in
@[simp] theorem canonical_crewEnd (crew : Nat) : (crewEnd s crew).mem.wf = true := by
  unfold crewEnd
  split <;> simp [h]

@[simp] theorem lbrelPlace_mem (p q : Nat) : (lbrelPlace s p q).mem = s.mem := by
  simp [lbrelPlace]

include h in
@[simp] theorem canonical_lbrelSkip (p q : Nat) : (lbrelSkip s p q).mem.wf = true := by
  unfold lbrelSkip
  dsimp only
  repeat' split
  all_goals simp [h]

@[simp] theorem setRegister_mem (p off : Nat) (v : Word) : (s.setRegister p off v).mem = s.mem := by
  unfold State.setRegister
  dsimp only
  repeat' split
  all_goals simp

@[simp] theorem foremanRegisterWrite_mem (p off : Nat) (v : Word) : (foremanRegisterWrite s p off v).mem = s.mem := by
  simp [foremanRegisterWrite]

@[simp] theorem readWindow_mem (off size : Nat) : (readWindow s off size).mem = s.mem := rfl

@[simp] theorem stopreq_mem (p serial : Nat) : (stopreq s p serial).mem = s.mem := by
  simp [stopreq]

@[simp] theorem resumeRequest_mem (p serial : Nat) : (resumeRequest s p serial).mem = s.mem := by
  unfold resumeRequest
  split <;> simp

@[simp] theorem tlbCommand_mem (p k : Nat) (guild : BitVec 16) : (tlbCommand s p k guild).mem = s.mem := rfl

@[simp] theorem tlbinvComplete_mem (p i : Nat) : (tlbinvComplete s p i).mem = s.mem := by
  unfold tlbinvComplete
  dsimp only
  repeat' split
  all_goals simp

@[simp] theorem modcfgRequest_mem (bits : BitVec 8) : (modcfgRequest s bits).mem = s.mem := by
  simp [modcfgRequest]

/-! ### Links (R165, R424-R428) -/

@[simp] theorem mcheck_mem (p cause : Nat) (addr : Word) : (s.mcheck p cause addr).mem = s.mem := rfl

include h in
@[simp] theorem canonical_edgeCommit (p : Nat) (cells : List Host.Cell) (byHost : Bool) : (s.edgeCommit p cells byHost).mem.wf = true := by
  simp [State.edgeCommit, h]

@[simp] theorem answer_mem (addr : Nat) (bs : List Byte) : (s.answer addr bs).mem = s.mem := rfl

@[simp] theorem resizeBar_mem (size : Nat) : (resizeBar s size).mem = s.mem := by
  simp [resizeBar]

@[simp] theorem hostRead_mem (addr len : Nat) (hold : Bool) : (hostRead s addr len hold).mem = s.mem := by
  simp [hostRead]

include h in
@[simp] theorem canonical_hostLine (cells : List Host.Cell) : (s.hostLine cells).mem.wf = true := by
  unfold hostLine
  split
  · exact h
  · split <;> simp [h]

include h in
@[simp] theorem canonical_hostWrite (addr : Nat) (bytes : List Byte) : (hostWrite s addr bytes).mem.wf = true := by
  unfold hostWrite
  dsimp only
  split
  · exact h
  · exact canonical_foldl (fun _ _ hs => canonical_hostLine hs _) _ h

include h in
@[simp] theorem canonical_edgeAtomic (p pa n : Nat) (op : AtomOp) (byHost : Bool) : (s.edgeAtomic p pa n op byHost).1.mem.wf = true :=
  canonical_edgeCommit h ..

include h in
@[simp] theorem canonical_hostAtomic (op addr size : Nat) (v c : Word) : (hostAtomic s op addr size v c).mem.wf = true := by
  unfold hostAtomic
  split
  · exact h
  · split
    · simp [h]
    · exact h

@[simp] theorem peerContrib_mem (block index : Nat) (bs : List Byte) : (s.peerContrib block index bs).mem = s.mem := rfl

include h in
theorem canonical_edgeCommits (p : Nat) (byHost : Bool) (ls : List (List Host.Cell)) :
    (ls.foldl (fun s l => s.edgeCommit p l byHost) s).mem.wf = true :=
  canonical_foldl (fun _ _ hs => canonical_edgeCommit hs ..) _ h

include h in
@[simp] theorem canonical_peerAccess (op p addr : Nat) (cells : List Host.Cell) (v c : Word) :
    (s.peerAccess op p addr cells v c).mem.wf = true := by
  have hput := canonical_edgeCommits h p false (splitLines cells)
  unfold peerAccess
  split
  · exact h
  · rw [answer_mem]
    exact hput
  · simp [h]
  · rw [answer_mem]
    exact hput
  · split
    · simp [h]
    · exact h

include h in
@[simp] theorem canonical_peerPerform (r : PeerReq) : (s.peerPerform r).mem.wf = true := by
  unfold peerPerform
  split
  · exact h
  · split <;> simp [h]

theorem canonical_servePeers (n : Nat) (h : s.mem.wf = true) : (s.servePeers n).mem.wf = true := by
  induction n generalizing s with
  | zero => exact h
  | succ n ih =>
    rw [servePeers]
    split
    · split
      · exact ih (canonical_peerPerform (by exact h) _)
      · exact h
    · exact h

@[simp] theorem peerCame_mem (src num : Nat) : (s.peerCame src num).mem = s.mem := rfl

@[simp] theorem peersAsk_mem : s.peersAsk.mem = s.mem := by
  refine foldl_mem (fun s r => ?_) _ s
  split
  · refine foldl_mem (fun s l => ?_) _ s
    cases s.homePart (l * 64) <;> simp
  · rfl

include h in
@[simp] theorem canonical_peersGoOn : (peersGoOn s).mem.wf = true :=
  canonical_servePeers _ ((peersAsk_mem (s := s)).symm ▸ h)

include h in
@[simp] theorem canonical_peerRequest (op src num coming addr : Nat) (cells : List Host.Cell) (v c : Word) :
    (peerRequest s op src num coming addr cells v c).mem.wf = true := by
  unfold peerRequest
  dsimp only
  repeat' split
  · exact canonical_peersGoOn (by exact h)
  · exact h
  · exact canonical_peersGoOn (by exact h)
  · exact h
  · cases s.homePart addr <;> exact h
  · exact canonical_peerPerform h _

@[simp] theorem giveReply_mem (tid id pa : Nat) (atomic : Bool) (bs : List Byte) : (s.giveReply tid id pa atomic bs).mem = s.mem := by
  unfold State.giveReply
  split <;> simp

include h in
@[simp] theorem canonical_performLink (id : Nat) (k : LinkKind) (bytes : List Byte) : (s.performLink id k bytes).mem.wf = true := by
  unfold performLink
  dsimp only
  split
  case h_2 => split <;> simp [h]
  case h_4 => split <;> simp [h]
  case h_5 => split <;> simp [h]
  all_goals simp [h]

include h in
@[simp] theorem canonical_linkCompletion (id : Nat) (bytes : List Byte) : (linkCompletion s id bytes).mem.wf = true := by
  unfold linkCompletion
  split
  · exact h
  · simp [h]

@[simp] theorem readLost_mem (tid id : Nat) (va : Word) : (s.readLost tid id va).mem = s.mem := by
  unfold State.readLost
  split <;> simp

@[simp] theorem atomicLost_mem (tid no : Nat) (va : Word) : (s.atomicLost tid no va).mem = s.mem := by
  unfold State.atomicLost
  split <;> simp

@[simp] theorem peerFail_mem (core id : Nat) (dest : Bool) (va : Word) : (s.peerFail core id dest va).mem = s.mem := by
  unfold State.peerFail
  split <;> simp

@[simp] theorem loseLink_mem (id : Nat) (r : LinkReq) : (s.loseLink id r).mem = s.mem := by
  unfold State.loseLink
  split <;> simp

@[simp] theorem linkTimeout_mem (id : Nat) : (linkTimeout s id).mem = s.mem := by
  unfold linkTimeout
  split <;> simp

@[simp] theorem linkRefusal_mem (id : Nat) : (linkRefusal s id).mem = s.mem := by
  unfold linkRefusal
  split <;> simp

@[simp] theorem modnumLearn_mem (num : BitVec 8) : (modnumLearn s num).mem = s.mem := by
  simp [modnumLearn]

@[simp] theorem backInvalidateAnswer_mem (line : Nat) : (backInvalidateAnswer s line).mem = s.mem := rfl

/-! ### Stops, snapshots, power and the module reset (R384-R388, R432-R440) -/

@[simp] theorem haltMember_mem (tid : Nat) : (s.haltMember tid).mem = s.mem := by
  unfold State.haltMember
  split <;> rfl

include h in
@[simp] theorem canonical_dropWork (crew : Nat) : (s.dropWork crew).mem.wf = true := canonical_forgetCrew (by exact h) crew

include h in
@[simp] theorem canonical_saveCrew (crew : Nat) (w : Crew) (k : Stopped) (pa : Nat) : (s.saveCrew crew w k pa).mem.wf = true := by
  unfold saveCrew
  dsimp only
  rw [setCrew_mem]
  exact canonical_dropWork (by exact h) crew

include h in
@[simp] theorem canonical_endStopped (crew : Nat) (w : Crew) : (s.endStopped crew w).mem.wf = true := by
  unfold endStopped
  exact canonical_endCrew (by exact canonical_dropWork h crew) ..

include h in
theorem canonical_of_writeRecord {crew : Nat} {w : Crew} {k : Stopped} {s' : State} (hw : s.writeRecord crew w k = some s') :
    s'.mem.wf = true := by
  have hput (p pa : Nat) (bs : List Byte) (n : Nat) : ({ s with free := n }.foremanWrite p pa bs).mem.wf = true :=
    canonical_foremanWrite (by exact h) ..
  unfold writeRecord at hw
  dsimp only at hw
  split at hw
  · cases hw
  · obtain ⟨pa, -, rfl⟩ := Option.map_eq_some_iff.mp hw
    rw [report_mem]
    split
    · refine canonical_endStopped ?_ ..
      rw [setPart_mem]
      exact hput ..
    · refine canonical_saveCrew ?_ ..
      rw [setPart_mem]
      exact hput ..

include h in
@[simp] theorem canonical_gangStop (crew : Nat) : (gangStop s crew).mem.wf = true := by
  unfold gangStop
  split
  · exact h
  · next w _ =>
    split
    · dsimp only
      have hhalt (s : State) (l : List (Nat × Nat × Thread)) (hs : s.mem.wf = true) :
          ((l.foldl (fun s m => s.haltMember m.2.1) s).suspendEpisodes crew true).mem.wf = true := by
        rw [suspendEpisodes_mem, foldl_mem (fun _ _ => haltMember_mem ..)]
        exact hs
      generalize hx : State.suspendEpisodes _ crew true = x
      have hwf : x.mem.wf = true := hx ▸ hhalt _ _ h
      cases hr : x.writeRecord crew _ _ with
      | none => exact hwf
      | some s' => exact canonical_of_writeRecord hwf hr
    · exact h

include h in
@[simp] theorem canonical_stopRecordWrite (p : Nat) : (stopRecordWrite s p).mem.wf = true := by
  unfold stopRecordWrite
  cases hr : s.crews.findSome? _ with
  | none => exact h
  | some s' =>
    obtain ⟨e, -, he⟩ := List.exists_of_findSome?_eq_some hr
    split at he
    · split at he
      · exact canonical_of_writeRecord h he
      · cases he
    · cases he

include h in
@[simp] theorem canonical_restoreUnits (crew : Nat) (k : Stopped) : (s.restoreUnits crew k).mem.wf = true := by
  unfold restoreUnits
  refine canonical_foldl (fun s d hs => canonical_foldl (fun s e hs => canonical_push hs ..) _ hs) _ ?_
  rw [foldl_mem (fun _ _ => by rfl), foldl_mem (fun _ _ => by rfl), foldl_mem (fun _ _ => by rfl)]
  dsimp only
  rw [foldl_mem (fun _ _ => by rfl), foldl_mem (fun _ _ => by rfl)]
  exact h

include h in
@[simp] theorem canonical_restoreThreads (w : Crew) (k : Stopped) (imgs : List (List Byte)) :
    (s.restoreThreads w k imgs).mem.wf = true := by
  refine canonical_foldl (fun s m hs => canonical_setOverflow ?_ ..) _ h
  split <;> exact hs

include h in
@[simp] theorem canonical_resumption (crew : Nat) (host : List Byte) : (resumption s crew host).mem.wf = true := by
  unfold resumption
  dsimp only
  repeat' split
  all_goals simp [h]

include h in
@[simp] theorem canonical_endSnapshot (p : Nat) (status : Nat) : (s.endSnapshot p status).mem.wf = true := by
  unfold State.endSnapshot
  split <;> simp [h]

include h in
@[simp] theorem canonical_snapshotRestore (p k : Nat) : (snapshotRestore s p k).mem.wf = true := by
  unfold snapshotRestore
  split
  · exact h
  · split
    · exact Memory.wf_foldl_write _ _ (Memory.wf_filter _ _ h)
    · exact h

@[simp] theorem powerHold_mem (code block energy : Nat) : (powerHold s code block energy).mem = s.mem := by
  simp [powerHold]

include h in
@[simp] theorem canonical_powerSample (code block till cycles : Nat) : (s.powerSample code block till cycles).mem.wf = true := by
  simp [State.powerSample, h]

include h in
@[simp] theorem canonical_powerWindow (code block : Nat) : (powerWindow s code block).mem.wf = true := by
  simp [powerWindow, h]

@[simp] theorem drawMeasurement_mem (mw : Nat) : (drawMeasurement s mw).mem = s.mem := rfl

@[simp] theorem shareRestore_mem : (shareRestore s).mem = s.mem := by
  simp [shareRestore]

@[simp] theorem thermalHold_mem (die : Nat) : (thermalHold s die).mem = s.mem := by
  simp [thermalHold]

@[simp] theorem thermalStop_mem (die : Nat) (warm : List Nat) : (thermalStop s die warm).mem = s.mem := by
  unfold thermalStop
  dsimp only
  split
  · refine foldl_mem (fun s e => ?_) _ _
    split <;> simp
  · rfl

@[simp] theorem thermalRelease_mem (die : Nat) : (thermalRelease s die).mem = s.mem := rfl

@[simp] theorem raiseSupply_mem (cl : Nat) : (s.raiseSupply cl).mem = s.mem := by
  simp [State.raiseSupply]

@[simp] theorem ageingCheck_mem (low : List Nat) : (ageingCheck s low).mem = s.mem := foldl_mem (fun _ _ => raiseSupply_mem ..) _ s

@[simp] theorem patrolScrub_mem (line : Nat) (bad : Bool) : (patrolScrub s line bad).mem = s.mem := by
  simp [patrolScrub]

@[simp] theorem lineCheckMismatch_mem (who unit : Nat) (va : Word) (img : Line) (check : BitVec 16) (again : Bool) :
    (lineCheckMismatch s who unit va img check again).mem = s.mem := by
  unfold lineCheckMismatch
  split <;> simp

@[simp] theorem firmwareUpdate_mem (off len : Nat) : (firmwareUpdate s off len).mem = s.mem := by
  simp [firmwareUpdate]

@[simp] theorem firmwareUpdateEnd_mem (result : Nat) : (firmwareUpdateEnd s result).mem = s.mem := by
  simp [firmwareUpdateEnd]

@[simp] theorem canonical_moduleReset (tests : List DieTest) : (moduleReset s tests).mem.wf = true := by
  unfold moduleReset
  dsimp only
  rw [foldl_mem (fun _ _ => by rfl)]
  rfl

end

/-! ### The instructions of bench cores (R396-R400) -/

/-- Where the operation of a bench core completes, it leaves memory in its canonical form. -/
def KeepsForm {α : Type} (p : BM α) (m : BMach) : Prop :=
  m.st.mem.wf = true → ∀ x m', p.run m = .ok x m' → m'.st.mem.wf = true

section
variable {α β : Type} (m : BMach)

@[simp] theorem keepsForm_get : KeepsForm (get : BM BMach) m := fun h _ _ hr => by cases hr; exact h

@[simp] theorem keepsForm_pure (x : α) : KeepsForm (pure x) m := fun h _ _ hr => by cases hr; exact h
@[simp] theorem keepsForm_throw (e : BStop) : KeepsForm (throw e : BM α) m := fun _ _ _ hr => by cases hr

@[simp] theorem keepsForm_set (m' : BMach) :
    KeepsForm (set m' : BM PUnit) m ↔ (m.st.mem.wf = true → m'.st.mem.wf = true) :=
  ⟨fun hk h => hk h _ _ rfl, fun hk h _ _ hr => by cases hr; exact hk h⟩

@[simp] theorem keepsForm_modify (f : BMach → BMach) :
    KeepsForm (modify f : BM PUnit) m ↔ (m.st.mem.wf = true → (f m).st.mem.wf = true) :=
  ⟨fun hk h => hk h _ _ rfl, fun hk h _ _ hr => by cases hr; exact hk h⟩

variable {m}

/-- One operation after another: the second is looked at wherever the first may leave the machine. -/
@[simp] theorem keepsForm_bind {p : BM α} {f : α → BM β} (hp : KeepsForm p m) :
    KeepsForm (p >>= f) m ↔ (m.st.mem.wf = true → ∀ x m', p.run m = .ok x m' → KeepsForm (f x) m') := by
  have hrun : (p >>= f).run m = match p.run m with
      | .ok x m' => (f x).run m'
      | .error e m' => .error e m' := by
    change EStateM.bind p f m = _
    unfold EStateM.bind EStateM.run
    cases p m <;> rfl
  unfold KeepsForm at hp ⊢
  rw [hrun]
  cases hx : p.run m with
  | error e m' => simp
  | ok x m' =>
    constructor
    · rintro hk h _ _ ⟨⟩ -
      exact hk h
    · exact fun hk h => hk h _ _ rfl (hp h _ _ hx)

@[simp] theorem keepsForm_get_bind (f : BMach → BM α) : KeepsForm (get >>= f) m ↔ KeepsForm (f m) m := Iff.rfl

@[simp] theorem keepsForm_throw_bind (e : BStop) (f : α → BM β) : KeepsForm ((throw e : BM α) >>= f) m :=
  fun _ _ _ hr => by cases hr

@[simp] theorem keepsForm_map {p : BM α} {f : α → β} : KeepsForm (f <$> p) m ↔ KeepsForm p m := by
  have hrun : (f <$> p).run m = match p.run m with
      | .ok x m' => .ok (f x) m'
      | .error e m' => .error e m' := by
    change EStateM.map f p m = _
    unfold EStateM.map EStateM.run
    cases p m <;> rfl
  unfold KeepsForm
  rw [hrun]
  cases p.run m <;> simp

@[simp] theorem keepsForm_ite (c : Prop) [Decidable c] (p q : BM α) :
    KeepsForm (if c then p else q) m ↔ (c → KeepsForm p m) ∧ (¬c → KeepsForm q m) := by
  split <;> simp [*]

end

section
variable (m : BMach)

@[simp] theorem keepsForm_setRd (d : BitVec 5) (v : Word) : KeepsForm (setRd d v) m := by simp [setRd]

@[simp] theorem keepsForm_bneed (c : Bool) (code : Nat) (v : Word) : KeepsForm (bneed c code v) m := by simp [bneed]

@[simp] theorem keepsForm_illegalIf (c : Bool) : KeepsForm (illegalIf c) m := by simp [illegalIf]

@[simp] theorem keepsForm_benchCommit (cells : List Host.Cell) : KeepsForm (benchCommit cells) m := by
  simp +contextual [benchCommit]

@[simp] theorem keepsForm_opPublish (rs2 rs1 : BitVec 5) (term : Bool) : KeepsForm (opPublish rs2 rs1 term) m := by simp [opPublish]

@[simp] theorem keepsForm_opPubobs (rs2 rs1 d : BitVec 5) : KeepsForm (opPubobs rs2 rs1 d) m := by simp [opPubobs]

@[simp] theorem keepsForm_opEnd (rs2 rs1 : BitVec 5) : KeepsForm (opEnd rs2 rs1) m := by simp [opEnd]

@[simp] theorem keepsForm_opInfo (item : BitVec 3) (d : BitVec 5) : KeepsForm (opInfo item d) m := by simp [opInfo]

@[simp] theorem keepsForm_bplace (a : Word) (n mis acc : Nat) (store : Bool) : KeepsForm (bplace a n mis acc store) m := by
  simp only [bplace, keepsForm_bind, keepsForm_bneed, keepsForm_get_bind]
  intros
  split <;> simp

@[simp] theorem keepsForm_bread (p : BPlace) (n : Nat) : KeepsForm (bread p n) m := by
  cases p <;> simp [bread]

@[simp] theorem keepsForm_bwrite (p : BPlace) (a : Word) (n v : Nat) : KeepsForm (bwrite p a n v) m := by
  cases p <;> simp [bwrite]

@[simp] theorem keepsForm_bupdate (p : BPlace) (a : Word) (n v : Nat) : KeepsForm (bupdate p a n v) m := by
  cases p <;> simp +contextual [bupdate]

@[simp] theorem keepsForm_settleLine (p : BPlace) : KeepsForm (settleLine p) m := by
  cases p <;> simp +contextual [settleLine]

@[simp] theorem keepsForm_opAmo (w : Nat) : KeepsForm (opAmo w) m := by
  simp only [opAmo, keepsForm_get_bind, keepsForm_bind, keepsForm_illegalIf, keepsForm_ite, keepsForm_bplace, keepsForm_bread]
  intros
  refine ⟨fun _ => by simp, fun _ => ⟨fun _ => by simp, fun _ => ?_⟩⟩
  intros
  split <;> simp

@[simp] theorem keepsForm_opCsr (w : Nat) : KeepsForm (opCsr w) m := by
  simp only [opCsr, keepsForm_get_bind]
  split <;> simp

@[simp] theorem keepsForm_bflags (fl : BitVec 5) : KeepsForm (bflags fl) m := by simp [bflags]

@[simp] theorem keepsForm_brnd (w : Nat) : KeepsForm (brnd w) m := by simp [brnd]

@[simp] theorem keepsForm_opFp (w : Nat) : KeepsForm (opFp w) m := by
  simp only [opFp, keepsForm_get_bind]
  split
  · simp
  · split
    case h_8 => split <;> simp
    all_goals simp

@[simp] theorem keepsForm_opRvFma (w : Nat) : KeepsForm (opRvFma w) m := by
  simp only [opRvFma, keepsForm_get_bind]
  split <;> simp

@[simp] theorem keepsForm_rvLoad (w : Nat) (fp : Bool) : KeepsForm (rvLoad w fp) m := by simp [rvLoad]

@[simp] theorem keepsForm_rvStore (w : Nat) (fp : Bool) : KeepsForm (rvStore w fp) m := by simp [rvStore]

@[simp] theorem keepsForm_opSystem (w : Nat) : KeepsForm (opSystem w) m := by simp [opSystem]

@[simp] theorem keepsForm_putOr (w : Nat) (v : Option Word) : KeepsForm (putOr w v) m := by
  cases v <;> simp [putOr]

@[simp] theorem keepsForm_opRv (w : Nat) : KeepsForm (opRv w) m := by
  simp only [opRv, keepsForm_get_bind]
  split
  case h_5 =>
    split <;> simp
  all_goals simp

end

/-- Whatever becomes of a bench core's instruction, memory keeps its canonical form. -/
theorem canonical_of_runBench {s s' : State} {n : Nat} {r : Bench → Word → Bench} {op : BM Unit} (hop : ∀ m, KeepsForm op m)
    (h : s.mem.wf = true) (hr : runBench s n r op = .next s') : s'.mem.wf = true := by
  unfold runBench at hr
  dsimp only at hr
  split at hr
  · have hi : { s with issuing := none }.mem.wf = true := h
    split at hr
    · cases hr
      exact canonical_faultEpisode hi ..
    · split at hr
      · cases hr
        exact canonical_faultEpisode hi ..
      · split at hr
        · next hx => cases hr; exact hop _ hi _ _ hx
        · cases hr; exact canonical_faultEpisode hi ..
        · cases hr; exact hi
        · cases hr
          refine canonical_faultEpisode ?_ ..
          rw [unitCheck_mem]
          exact hi
  · cases hr

theorem canonical_of_benchInstruction {s s' : State} {w : Nat} (h : s.mem.wf = true) (hr : benchInstruction s w = .next s') :
    s'.mem.wf = true := by
  unfold benchInstruction at hr
  split at hr
  · exact canonical_of_runBench (keepsForm_opRv · w) h hr
  · refine canonical_of_runBench (fun m => ?_) h hr
    split <;> simp

/-! ### Every step -/

/-- An outcome that is a state as it stands. -/
theorem canonical_of_next {x s' : State} (he : (Host.Outcome.next x : Host.Outcome State Fault Refusal) = .next s')
    (h : x.mem.wf = true) : s'.mem.wf = true := by
  cases he
  exact h

/-- A thread's instruction changes no memory; of the events and the bench cores' instructions each keeps the form. -/
theorem canonical_of_exec {s s' : State} {i : Instr} (h : s.mem.wf = true) (he : exec i s = .next s') : s'.mem.wf = true := by
  by_cases hi : OfThread i
  · rw [(sameStore_exec hi he).1]
    exact h
  cases i
  case benchInstruction w => exact canonical_of_benchInstruction h he
  case epPubobs b a d => exact canonical_of_runBench (keepsForm_opPubobs · b a d) h he
  case epEnd b a => exact canonical_of_runBench (keepsForm_opEnd · b a) h he
  case epInfo item d => exact canonical_of_runBench (keepsForm_opInfo · item d) h he
  case epVer d => exact canonical_of_runBench (fun _ => by simp) h (show execEpVer d s = .next s' from he)
  case epRand b a d => exact canonical_of_runBench (fun _ => by simp) h (show execEpRand b a d s = .next s' from he)
  case epRandh b a d => exact canonical_of_runBench (fun _ => by simp) h (show execEpRandh b a d s = .next s' from he)
  case epWaitact b a d =>
    change execEpWaitact b a d s = _ at he
    unfold execEpWaitact at he
    split at he
    · exact canonical_of_next he (canonical_epWaitact (by exact h) ..)
    · cases he
  case start | abort | action |
    versionAdvance | lineArrival | issue | commitRequest | commitGrant | signatureDelivery | commitAcknowledgement |
    farAtomicApply | widenScope | fillReply | probe | packetArrival | nack | deterministicTurn | waitaEvaluation |
    pollInterval | watchdog | preciseReexecution | trapDelivery | pageFaultPark | machineCheck | eventRecordWrite |
    engineChunk | linkPayloadAck | drainWrite | loomCommand | panelCommand | panelReady | sfuResult | matrixWaitWake
    | engineWaitWake | reductionWaitWake | contributionArrival | reductionTimeout | taskPop | stealRequest |
    stealBackoff | taskMessageApply | counterDecrement | doorbell | quantumBoundary | slotService | launchPlacement
    | crewEnd | barrierRelease | startJoin | phaseStart | phaseEnd | exchangeChunk | gangStop | stopRecordWrite |
    resumption | snapshotEnd | snapshotRestore | recorderFreeze | waitactReturn | instructionBudget | timeBudget |
    hostRead | hostWrite | hostAtomicop | peerRequest | linkTimeout | linkRefusal | modnumLearn | stopreq | resume |
    pfdeny | tlbcmdPage | tlbcmdGuild | tlbcmdAll | tlbinvComplete | lbrelPlace | lbrelSkip | modcfg |
    foremanRegisterWrite | firmwareUpdate | powerWindow | powerHold | drawMeasurement | thermalHold | thermalStop |
    ageingCheck | patrolScrub | lineCheckMismatch | moduleReset | linkCompletion | backInvalidateAnswer |
    pageWalkEnd | writeBack | snapshotLinkFailure | thermalRelease | firmwareUpdateEnd | shareRestore =>
    exact canonical_of_next he (by simp [h])
  all_goals exact absurd (by simp [OfThread, Instr.bits, isIllegal]) hi

theorem canonical_of_runAct {s s' : State} {a : Act} (h : s.mem.wf = true) (hr : runAct s a = .next s') : s'.mem.wf = true := by
  cases a
  case event i =>
    unfold runAct at hr
    dsimp only at hr
    split at hr
    · exact canonical_of_exec h hr
    · exact canonical_of_next hr h
  all_goals exact canonical_of_next hr (by simp [h])

theorem canonical_of_step {s s' : State} (h : s.mem.wf = true) (hs : step s = .next s') : s'.mem.wf = true := by
  cases hd : s.due with
  | cons i rest => exact canonical_of_exec (by exact h) (step_of_due hd ▸ hs)
  | nil =>
    cases hi : s.issuing with
    | some w =>
      cases w with
      | thread tid => exact canonical_of_exec h (step_of_thread hd hi ▸ hs)
      | bench b => exact canonical_of_exec h (step_of_bench hd hi ▸ hs)
    | none =>
      cases ha : s.agenda with
      | nil => exact canonical_of_next ((step_of_idle hd hi ha).symm.trans hs) h
      | cons e rest => exact canonical_of_runAct (by exact h) (step_of_agenda hd hi ha ▸ hs)

end Sys2Proof.Machine

namespace Sys2Proof.Claims

open Sys2Proof.Machine

/-- Settles O36: at reset memory holds no cell. -/
theorem memCanonicalReset : Obligations.MemCanonicalReset := by
  unfold Obligations.MemCanonicalReset MemCanonical
  rfl

/-- Settles O37, by the ways a step can begin. -/
theorem memCanonicalStep : Obligations.MemCanonicalStep := by
  unfold Obligations.MemCanonicalStep
  exact fun s s' h hs => canonical_of_step h hs

end Sys2Proof.Claims
end

section

namespace Sys2Proof.Machine

open Claims

/-! ### Where an access goes (R133, R134, R138, R139, R143) -/

section
variable {m : Mach} {k : Access} {va : Word}

theorem windowBase_eq : Config.windowBase = windowStart := rfl

theorem canonical_iff (va : Word) : canonical va = true ↔ isCanonical va := by
  simp [canonical, isCanonical]

/-- The local window lies at the top of the canonical addresses. -/
theorem isCanonical_of_window (h : windowStart ≤ va.toNat) : isCanonical va :=
  .inr (le_trans (by decide) h)

theorem run_needBlock_of_held {code block : Nat} (h : m.st.held code block = true) : (needBlock code block).run m = .error .wait m := by
  simp [needBlock, h]

theorem run_needBlock_of_free {code block : Nat} (h : m.st.held code block = false) : (needBlock code block).run m = .ok () m := by
  simp [needBlock, h]

theorem run_locate_of_notCanonical (h : ¬ isCanonical va) : (locate k va).run m = .error (.page k.cause va) m := by
  have hc : canonical va = false := by simpa using mt (canonical_iff va).mp h
  simp [locate, locateAs, hc]

theorem run_locate_of_window (h : windowStart ≤ va.toNat) : (locate k va).run m = (locateWindow va).run m := by
  have hc : canonical va = true := (canonical_iff va).mpr (isCanonical_of_window h)
  have hw : Config.windowBase ≤ va.toNat := windowBase_eq ▸ h
  simp [locate, locateAs, hc, hw]

theorem ownsBank_iff (m : Mach) (b : Nat) : ownsBank m b = true ↔ (m.st.bank m.cluster b).owner = m.ar.guild ∨ m.sys = true := by
  simp [ownsBank]

/-- Scratch of its owner, once the cluster takes commands. -/
theorem run_locateWindow : (locateWindow va).run m =
    (let b := (va.toNat - Config.windowBase) / 2 ^ 16
     if m.st.held 3 m.cluster then .error .wait m
     else if b < 16 ∧ (m.st.bank m.cluster b).mode = 1 ∧ ownsBank m b then
       .ok { pa := scratchPa m.cluster b ((va.toNat - Config.windowBase) % 2 ^ 16), place := .scratch b } m
     else .error (.fault 0x07 va) m) := by
  rw [locateWindow, run_bind_ok (run_get m)]
  dsimp only
  cases hh : m.st.held 3 m.cluster with
  | true => exact run_bind_error (run_needBlock_of_held hh)
  | false =>
    rw [run_bind_ok (run_needBlock_of_free hh), run_ite, if_neg Bool.false_ne_true]
    simp only [run_pure, run_throw]

/-- A TLB that holds the leaf answers without waiting for its cluster. -/
theorem run_leafOf_of_hit {e : TlbEntry} {cause : Nat} {tval : Word}
    (h : tlbFind (m.st.core m.core).tlb m.ar.guild va.toNat = some e) : (leafOf va cause tval).run m = .ok e m := by
  simp only [leafOf, tlbLookup, h, Option.isNone_some, Bool.false_eq_true, if_false, run_bind, run_get, run_pure]
  rfl

theorem run_locate_of_hit {e : TlbEntry} (hc : isCanonical va) (hw : ¬ Config.windowBase ≤ va.toNat)
    (h : tlbFind (m.st.core m.core).tlb m.ar.guild va.toNat = some e) :
    (locate k va).run m = if e.grants k then
      match placeOf m.st m.part (e.pa va.toNat) with
      | some l => .ok { l with set := setOf va } { m with th := m.th.served va }
      | none => .error (.fault 0x07 va) m
    else .error (.fault 0x07 va) m := by
  have hc := (canonical_iff va).mpr hc
  rw [locate, locateAs, hc, if_neg (by decide), if_neg hw, run_bind_ok (run_leafOf_of_hit h)]
  cases hg : e.grants k with
  | false => simp
  | true =>
    rw [if_neg (by decide), run_bind_ok (run_get m)]
    cases placeOf m.st m.part (e.pa va.toNat) <;> rfl

end

/-! ### The page-table walk (R136, R137) -/

section
variable {s : State} {g : BitVec 16} {va table lo w n leaf : Nat} {rest : List (Nat × Nat × Nat)}

theorem getLsbD_eq_decide (e : Word) (i : Nat) : e.getLsbD i = decide (e.toNat / 2 ^ i % 2 = 1) :=
  Nat.testBit_eq_decide_div_mod_eq

/-- An entry that may be used and is no leaf is a pointer. -/
theorem isPointer_iff (e : Word) (n : Nat) : isPointer e ↔ pteOk e n = true ∧ e.getLsbD 1 = false := by
  have htop := field_top_eq_zero_iff e (show 57 + 7 = 64 from rfl)
  rw [isPointer, pteOk, getLsbD_eq_decide e 0, getLsbD_eq_decide e 1]
  by_cases h1 : e.toNat / 2 ^ 1 % 2 = 1
  · simp only [h1, decide_true, Bool.true_eq_false, and_false, iff_false]
    omega
  · simp only [h1, decide_false, Bool.false_eq_true, if_false, Bool.and_eq_true, decide_eq_true_eq, htop, and_true]
    simp only [field]
    omega

/-- An entry that may be used and has its leaf bit set is a leaf that its level allows. -/
theorem isLeaf_iff (e : Word) {n : Nat} (hn : 0 < n) : isLeaf n e ↔ pteOk e n = true ∧ e.getLsbD 1 = true := by
  have htop := field_top_eq_zero_iff e (show 57 + 7 = 64 from rfl)
  rw [isLeaf, pteOk, getLsbD_eq_decide e 0, getLsbD_eq_decide e 1]
  by_cases h1 : e.toNat / 2 ^ 1 % 2 = 1
  · simp only [h1, decide_true, if_true, Bool.and_eq_true, decide_eq_true_eq, htop, and_true, hn, getLsbD_eq_decide, Bool.or_eq_true,
      Bool.not_eq_true', decide_eq_false_iff_not]
    simp only [field]
    omega
  · simp only [h1, decide_false, Bool.false_eq_true, and_false, iff_false]
    omega

/-- No leaf stands at a level that maps none. -/
theorem not_pteOk_zero {e : Word} (h : e.getLsbD 1 = true) : pteOk e 0 = false := by
  simp [pteOk, h]

theorem walkFrom_of_pointer (h : isPointer (pte s table (va / 2 ^ lo % n))) (hn : 2 ^ w = n) :
    walkFrom s g va table ((lo, w, leaf) :: rest) = walkFrom s g va (pointee (pte s table (va / 2 ^ lo % n))) rest := by
  obtain ⟨hok, hbit⟩ := (isPointer_iff _ leaf).mp h
  have htable (e : Word) (he : isPointer e) : field e 12 45 * 4096 = pointee e := by
    have := he.2
    simp only [field, pointee]
    omega
  subst hn
  rw [walkFrom, ← htable _ h]
  rw [show s.readWord _ = pte s table (va / 2 ^ lo % 2 ^ w) from rfl, if_pos hok, hbit]
  rfl

theorem walkFrom_of_leaf (h : isLeaf leaf (pte s table (va / 2 ^ lo % n))) (hn : 2 ^ w = n) (hpos : 0 < leaf) :
    walkFrom s g va table ((lo, w, leaf) :: rest) = some (leafEntry g va leaf (pte s table (va / 2 ^ lo % n))) := by
  obtain ⟨hok, hbit⟩ := (isLeaf_iff _ hpos).mp h
  subst hn
  rw [walkFrom]
  rw [show s.readWord _ = pte s table (va / 2 ^ lo % 2 ^ w) from rfl, if_pos hok, if_pos hbit]
  rfl

theorem walkFrom_of_neither (hn : 2 ^ w = n) (hp : ¬ isPointer (pte s table (va / 2 ^ lo % n)))
    (hl : leaf = 0 ∨ ¬ isLeaf leaf (pte s table (va / 2 ^ lo % n))) : walkFrom s g va table ((lo, w, leaf) :: rest) = none := by
  subst hn
  rw [walkFrom]
  rw [show s.readWord _ = pte s table (va / 2 ^ lo % 2 ^ w) from rfl]
  split
  · next hok =>
    exfalso
    cases hbit : (pte s table (va / 2 ^ lo % 2 ^ w)).getLsbD 1 with
    | false => exact hp ((isPointer_iff _ leaf).mpr ⟨hok, hbit⟩)
    | true =>
      obtain rfl | hl := hl
      · exact absurd hok (by simp [not_pteOk_zero hbit])
      · cases leaf with
        | zero => exact absurd hok (by simp [not_pteOk_zero hbit])
        | succ k => exact hl ((isLeaf_iff _ k.succ_pos).mpr ⟨hok, hbit⟩)
  · rfl

/-- The last level is no pointer's. -/
theorem walkFrom_last (hn : 2 ^ w = n) (hl : ¬ isLeaf leaf (pte s table (va / 2 ^ lo % n))) :
    walkFrom s g va table [(lo, w, leaf)] = none := by
  by_cases hp : isPointer (pte s table (va / 2 ^ lo % n))
  · exact walkFrom_of_pointer hp hn
  · exact walkFrom_of_neither hn hp (.inr hl)

theorem walk_eq (p : Nat) : walk s p g va =
    walkFrom s g (va % 2 ^ 57) (((s.guildEntry p g).getD 0 0).toNat / 2 ^ 12 % 2 ^ 45 * 2 ^ 12) walkLevels := rfl

end

end Sys2Proof.Machine

namespace Sys2Proof.Claims

open Sys2Proof.Machine

theorem accessTranslation : AccessTranslation := by
  intro m k va
  refine ⟨run_locate_of_notCanonical, fun hw => ?_, fun hc hw e he => ?_, fun _ => ⟨rfl, rfl, rfl⟩⟩
  · have hrun := run_locateWindow (m := m) (va := va)
    rw [run_locate_of_window hw]
    refine ⟨fun hh => ?_, fun hh hb hmode howner => ?_, fun hh hno => ?_⟩
    · rw [hrun, if_pos hh]
    · rw [hrun, if_neg (by simp [hh]), if_pos ⟨hb, hmode, (ownsBank_iff m _).mpr howner⟩]
      rfl
    · rw [hrun, if_neg (by simp [hh]), if_neg]
      rintro ⟨hb, hmode, howner⟩
      obtain hb' | hmode' | ⟨hown, hsys⟩ := hno
      · exact absurd hb (Nat.not_lt.mpr hb')
      · exact hmode' hmode
      · exact ((ownsBank_iff m _).mp howner).elim hown (by simp [hsys])
  · rw [run_locate_of_hit hc (Nat.not_le.mpr hw) he]
    refine ⟨fun l hg hl => ?_, fun hno => ?_⟩
    · rw [if_pos hg, show placeOf m.st m.part (e.pa va.toNat) = some l from hl]
      rfl
    · obtain hg | hl := hno
      · simp [hg]
      · rw [show placeOf m.st m.part (e.pa va.toNat) = none from hl, ite_self]

theorem walkResults : WalkResults := by
  intro s p g addr
  rw [walk_eq, walkLevels]
  refine ⟨fun h0 h1 h2 => ?_, fun h0 h1 h2 h3 => ?_, fun h0 h1 h2 h3 h4 => ?_, fun h => ?_⟩
  · rw [walkFrom_of_pointer h0 rfl, walkFrom_of_pointer h1 rfl, walkFrom_of_leaf h2 rfl (by decide)]
  · rw [walkFrom_of_pointer h0 rfl, walkFrom_of_pointer h1 rfl, walkFrom_of_pointer h2 rfl, walkFrom_of_leaf h3 rfl (by decide)]
  · rw [walkFrom_of_pointer h0 rfl, walkFrom_of_pointer h1 rfl, walkFrom_of_pointer h2 rfl, walkFrom_of_pointer h3 rfl,
      walkFrom_of_leaf h4 rfl (by decide)]
  · obtain h0 | ⟨h0, h1⟩ | ⟨h0, h1, h2, hl⟩ | ⟨h0, h1, h2, h3, hl⟩ | ⟨h0, h1, h2, h3, hl⟩ := h
    · exact walkFrom_of_neither (w := 9) rfl h0 (.inl rfl)
    · rw [walkFrom_of_pointer h0 rfl]
      exact walkFrom_of_neither (w := 9) rfl h1 (.inl rfl)
    · rw [walkFrom_of_pointer h0 rfl, walkFrom_of_pointer h1 rfl]
      exact walkFrom_of_neither (w := 9) rfl h2 (.inr hl)
    · rw [walkFrom_of_pointer h0 rfl, walkFrom_of_pointer h1 rfl, walkFrom_of_pointer h2 rfl]
      exact walkFrom_of_neither (w := 9) rfl h3 (.inr hl)
    · rw [walkFrom_of_pointer h0 rfl, walkFrom_of_pointer h1 rfl, walkFrom_of_pointer h2 rfl, walkFrom_of_pointer h3 rfl]
      exact walkFrom_last (w := 5) rfl hl

/-- Settles O42: where an access goes, and the walk level by level. -/
theorem translationResults : Obligations.TranslationResults := ⟨accessTranslation, walkResults⟩

end Sys2Proof.Claims
end

section

namespace Sys2Proof.Machine

open Claims

/-! ### Operations that answer with the machine as they found it -/

/-- Where an operation answers, it leaves the machine as it found it. -/
def AsFound {α : Type} (p : M α) (m : Mach) : Prop := ∀ x m', p.run m = .ok x m' → m' = m

section
variable {α β : Type} {m : Mach}

@[simp] theorem asFound_pure (x : α) : AsFound (pure x) m := fun _ _ h => by cases h; rfl
@[simp] theorem asFound_throw (e : Stop) : AsFound (throw e : M α) m := fun _ _ h => nomatch h
@[simp] theorem asFound_throw_bind (e : Stop) (f : α → M β) : AsFound ((throw e : M α) >>= f) m := fun _ _ h => nomatch h
@[simp] theorem asFound_get_bind (f : Mach → M α) : AsFound (get >>= f) m ↔ AsFound (f m) m := Iff.rfl

@[simp] theorem asFound_ite (c : Prop) [Decidable c] (p q : M α) :
    AsFound (if c then p else q) m ↔ (c → AsFound p m) ∧ (¬c → AsFound q m) := by
  split <;> simp [*]

@[simp] theorem asFound_needScope (line : Nat) : AsFound (needScope line) m := by
  simp only [needScope, askWiden, asFound_get_bind]
  split
  · simp only [asFound_ite, asFound_pure, implies_true, true_and]
    exact fun _ _ _ h => nomatch h
  · simp

@[simp] theorem asFound_needHome (l : Loc) : AsFound (needHome l) m := by simp [needHome]

@[simp] theorem asFound_waitFars (pa n : Nat) : AsFound (waitFars pa n) m := by simp [waitFars]

end

/-! ### A read of a chunk (R5, R102, R109, R173) -/

section
variable {m m' : Mach} {l : Loc} {va : Word} {n : Nat} {bs : List Byte}

/-- A line noted as read enters the read signature; no byte of the chunk, and no committed one, changes. -/
theorem noteRead_frame (h : (noteRead l).run m = .ok () m') : State.SameStore m.st m'.st ∧
    m' = { m with st := m'.st, ch := { m.ch with
      rsig := m.ch.rsig ||| sigOf (sigLine m.part l.pa), lines := m'.ch.lines, window := m'.ch.window } } := by
  refine ⟨sameStore_of_ok (fun s => quiet_noteRead s m l) h, ?_⟩
  rw [noteRead, run_bind_ok (run_get m)] at h
  split at h
  · dsimp only at h
    obtain ⟨⟨⟩, m1, htake, h⟩ := bind_ok h
    obtain ⟨⟨⟩, m2, hscope, htake⟩ := bind_ok htake
    rw [asFound_needScope _ _ _ hscope] at htake
    cases htake
    cases h
    rfl
  · cases h
    rfl

/-- With no far atomic of the chunk on the bytes there is nothing to fold. -/
theorem run_foldFars_of_apart (h : (m.ch.fars.all fun f => !runsMeet f.pa f.n l.pa n) = true) :
    (foldFars l n).run m = .ok () m := by
  have hfirst : (m.ch.fars.filter fun f => f.meets l.pa n) = [] :=
    List.filter_eq_nil_iff.mpr fun f hf => by simpa [Far.meets] using List.all_eq_true.mp h f hf
  have hset : foldSet m.ch.fars l.pa n = [] := by simp [foldSet, hfirst]
  rw [foldFars, run_bind_ok (run_get m), if_pos hset]
  rfl

/-- What a chunk sees depends on its own bytes and its predecessor's. -/
theorem seenByte_congr (hbuf : m'.ch.buf = m.ch.buf) (hth : m'.th = m.th) (b : Byte) (pa : Nat) :
    seenByte m' b pa = seenByte m b pa := by
  rw [seenByte, seenByte, hbuf, hth]

theorem seenRun_congr (hbuf : m'.ch.buf = m.ch.buf) (hth : m'.th = m.th) (pa : Nat) (bs : List Byte) :
    seenRun m' pa bs = seenRun m pa bs := by
  induction bs generalizing pa with
  | nil => rfl
  | cons b bs ih => rw [seenRun, seenRun, seenByte_congr hbuf hth, ih]

theorem length_seenRun (m : Mach) (pa : Nat) (bs : List Byte) : (seenRun m pa bs).length = bs.length := by
  induction bs generalizing pa with
  | nil => rfl
  | cons b bs ih => simp [seenRun, ih]

theorem length_readRun (s : State) (pa n : Nat) : (s.readRun pa n).length = n := by
  induction n generalizing pa with
  | zero => rfl
  | succ n ih => simp [State.readRun, ih]

theorem readRun_congr {s s' : State} (h : SameBytes s s') (pa n : Nat) : s'.readRun pa n = s.readRun pa n := by
  induction n generalizing pa with
  | zero => rfl
  | succ n ih => rw [State.readRun, State.readRun, h, ih]

/-- The bytes under a chunk's own are as many as it asks for, from memory or over a link. -/
theorem length_baseRun {pl : Place} {pa : Nat} (h : (baseRun pl pa n va).run m = .ok bs m') : bs.length = n := by
  rw [baseRun] at h
  split at h
  · rw [readLink, run_bind_ok (run_get m)] at h
    split at h
    · next w hw =>
      cases h
      obtain ⟨r, hr, rfl⟩ := Option.map_eq_some_iff.mp hw
      have := List.find?_some hr
      simp only [Bool.and_eq_true, decide_eq_true_eq] at this
      exact this.2
    · exact nomatch h
  · cases h
    exact length_readRun ..

/-- A read answers the bytes that the chunk sees over those at their home. -/
theorem readAt_ok (h : (readAt l va n).run m = .ok bs m') : ∃ m1 m2 base,
    (noteRead l).run m = .ok () m1 ∧ (foldFars l n).run m1 = .ok () m2 ∧ (baseRun l.place l.pa n va).run m2 = .ok base m' ∧
      bs = seenRun m' l.pa base := by
  rw [readAt, run_bind_ok (run_get m)] at h
  split at h
  · exact nomatch h
  · dsimp only at h
    obtain ⟨⟨⟩, m0, hhome, h⟩ := bind_ok h
    rw [asFound_needHome _ _ _ hhome] at h
    obtain ⟨⟨⟩, m1, hnote, h⟩ := bind_ok h
    obtain ⟨⟨⟩, m1', hwait, h⟩ := bind_ok h
    rw [asFound_waitFars _ _ _ _ hwait] at h
    obtain ⟨⟨⟩, m2, hfold, h⟩ := bind_ok h
    obtain ⟨base, m3, hbase, h⟩ := bind_ok h
    cases h
    exact ⟨m1, m2, base, hnote, hfold, hbase, rfl⟩

theorem length_of_readAt (h : (readAt l va n).run m = .ok bs m') : bs.length = n := by
  obtain ⟨m1, m2, base, -, -, hbase, rfl⟩ := readAt_ok h
  rw [length_seenRun, length_baseRun hbase]

end

/-! ### The scalar loads (R150-R152) -/

theorem ofBytes_lt (bs : List Byte) : ofBytes bs < 2 ^ (8 * bs.length) := by
  induction bs with
  | nil => exact Nat.one_pos
  | cons b bs ih =>
    have hb := b.isLt
    rw [ofBytes, List.length_cons, Nat.mul_add, Nat.pow_add]
    omega

/-- A value of n bytes extended to a register. -/
theorem extend_eq_loaded (sg : BitVec 1) {n v : Nat} (hn : 0 < n) (h8 : n ≤ 8) (hv : v < 2 ^ (8 * n)) :
    extend sg n v = loaded sg n v := by
  have hk : 2 ^ (8 * n) ≤ 2 ^ 64 := Nat.pow_le_pow_right (by decide) (by omega)
  have hhalf : 2 ^ (8 * n) = 2 * 2 ^ (8 * n - 1) := by
    rw [← Nat.pow_succ']
    congr 1
    omega
  by_cases hs : sg = 1
  · have hnat : ((BitVec.ofNat 64 v).setWidth (8 * n)).toNat = v := by
      rw [BitVec.toNat_setWidth, BitVec.toNat_ofNat, Nat.mod_eq_of_lt (Nat.lt_of_lt_of_le hv hk), Nat.mod_eq_of_lt hv]
    rw [extend, if_pos hs, sextN, signExtend_eq_ofInt _ (by omega), BitVec.toInt_eq_toNat_cond, hnat, loaded]
    split
    · rw [if_neg (by omega), BitVec.ofInt_natCast]
    · rw [if_pos ⟨hs, by omega⟩]
  · rw [extend, if_neg hs, loaded, if_neg fun h => hs h.1]

section
variable {m m' : Mach} {va : Word} {n v : Nat} {ctl : Bool}

/-- A load that is aligned, translated and read answers its value. -/
theorem run_loadScalar (ha : m.ar.arming = none) (h : Loads m va n ctl v m') : (loadScalar va n ctl).run m = .ok v m' := by
  obtain ⟨hal, l, m1, bs, hl, hr, rfl⟩ := h
  refine (run_bind_ok (run_notArming ha)).trans ((run_bind_ok (run_needAligned hal m)).trans
    ((run_bind_ok hl).trans ((run_bind_ok hr).trans ?_)))
  rfl

theorem lt_of_loads (h : Loads m va n ctl v m') : v < 2 ^ (8 * n) := by
  obtain ⟨-, l, m1, bs, -, hr, rfl⟩ := h
  exact length_of_readAt hr ▸ ofBytes_lt bs

/-- A register load puts the extended value. -/
theorem run_opLoad (ha : m.ar.arming = none) (hn : 0 < n) (h8 : n ≤ 8) (d : BitVec 6) (sg : BitVec 1) (f : Mach → Word)
    (h : Loads m (f m) n ctl v m') : (opLoad d sg n f ctl).run m = .ok () (putX d (loaded sg n v) m') := by
  rw [← extend_eq_loaded sg hn h8 (lt_of_loads h)]
  exact (run_bind_ok (run_get m)).trans ((run_bind_ok (run_loadScalar ha h)).trans (run_setX ..))

end

/-- The bytes of a size code. -/
theorem sizeOf2_pos (z : BitVec 2) : 0 < sizeOf2 z := Nat.two_pow_pos _

theorem sizeOf2_le (z : BitVec 2) : sizeOf2 z ≤ 8 := Nat.pow_le_pow_right (by decide) (Nat.le_of_lt_succ z.isLt)

end Sys2Proof.Machine

namespace Sys2Proof.Claims

open Sys2Proof.Machine

theorem readBytes : ReadBytes := by
  intro m m' l va n bs h hplace hfars
  obtain ⟨m1, m2, base, hnote, hfold, hbase, rfl⟩ := readAt_ok h
  obtain ⟨hstore, hframe⟩ := noteRead_frame hnote
  have hfars1 : (m1.ch.fars.all fun f => !runsMeet f.pa f.n l.pa n) = true := by rwa [hframe]
  rw [run_foldFars_of_apart hfars1] at hfold
  cases hfold
  rw [baseRun, hplace] at hbase
  cases hbase
  have hbytes : ∀ a, m'.st.readByte a = m.st.readByte a := hstore.sameBytes
  have hbuf : m'.ch.buf = m.ch.buf := by rw [hframe]
  have hth : m'.th = m.th := by rw [hframe]
  refine ⟨?_, by rw [hframe], hth, hstore.1, hbytes, hbuf, by rw [hframe], by rw [hframe], by rw [hframe]⟩
  rw [seenRun_congr hbuf hth, readRun_congr hbytes]

theorem scalarLoads : ScalarLoads := by
  intro s tid t d rb ra sg z disp v m hb ha n
  have ha : (found s tid t).ar.arming = none := ha
  have hpos : 0 < n := sizeOf2_pos z
  have h8 : n ≤ 8 := sizeOf2_le z
  have hva : memAddr (found s tid t) ra disp = addrM t.arch ra disp := memAddr_eq_addrM ..
  refine ⟨fun h => ?ld, fun h => ?ldx, fun h => ?ldp⟩
  case ld => exact hb.retires rfl (run_opLoad ha hpos h8 d sg (fun m => memAddr m ra disp) (hva ▸ h))
  case ldx => exact hb.retires rfl (run_opLoad ha hpos h8 d sg (fun m => indexAddr m ra rb n) h)
  case ldp =>
    have hv := lt_of_loads h
    have hhigh : v / 2 ^ (8 * n) < 2 ^ (8 * n) := by
      rw [Nat.div_lt_iff_lt_mul (Nat.two_pow_pos _), ← Nat.pow_add]
      exact hv.trans_eq (by congr 1; omega)
    rw [← extend_eq_loaded sg hpos h8 hhigh, ← extend_eq_loaded sg hpos h8 (Nat.mod_lt v (Nat.two_pow_pos _))]
    refine hb.retires rfl ((run_bind_ok (run_get _)).trans ((run_bind_ok (run_loadScalar ha (hva ▸ h))).trans ?_))
    rfl

/-- Settles O6: the scalar loads over the reads of their chunk. -/
theorem loadResults : Obligations.LoadResults := ⟨scalarLoads, readBytes⟩

end Sys2Proof.Claims
end

section

namespace Sys2Proof.Machine

open Claims

/-! ### A write of a chunk (R5, R102, R109) -/

section
variable {m m' : Mach} {l : Loc} {va : Word} {bs : List Byte}

/-- Where an operation answers, it changes the machine beside the thread, and of the chunk the ways that its lines take. -/
def OnlyHeld (p : M Unit) (m : Mach) : Prop :=
  ∀ m', p.run m = .ok () m' → m' = { m with st := m'.st, ch := { m.ch with held := m'.ch.held } }

@[simp] theorem onlyHeld_pure : OnlyHeld (pure ()) m := fun _ h => by cases h; rfl
@[simp] theorem onlyHeld_throw_bind {α : Type} (e : Stop) (f : α → M Unit) : OnlyHeld ((throw e : M α) >>= f) m :=
  fun _ h => nomatch h
@[simp] theorem onlyHeld_get_bind (f : Mach → M Unit) : OnlyHeld (get >>= f) m ↔ OnlyHeld (f m) m := Iff.rfl
@[simp] theorem onlyHeld_throw (e : Stop) : OnlyHeld (throw e) m := fun _ h => nomatch h

@[simp] theorem onlyHeld_ite (c : Prop) [Decidable c] (p q : M Unit) :
    OnlyHeld (if c then p else q) m ↔ (c → OnlyHeld p m) ∧ (¬c → OnlyHeld q m) := by
  split <;> simp [*]

@[simp] theorem onlyHeld_stop_bind {α : Type} (c : Prop) [Decidable c] (e e' : Stop) (f : α → M Unit) :
    OnlyHeld ((if c then (throw e : M α) else throw e') >>= f) m := by
  split <;> exact onlyHeld_throw_bind _ _

theorem onlyHeld_take (f : State → State) (x : Nat × Nat × Nat) :
    OnlyHeld (do onState f; onChunk fun c => { c with held := c.held ++ [x] }) m := fun _ h => by cases h; rfl

/-- The way that an uncommitted line takes is looked for before anything changes. -/
theorem onlyHeld_holdLine (va : Word) (line : Nat) : OnlyHeld (holdLine va line) m := by
  simp only [holdLine, onlyHeld_get_bind, onlyHeld_ite, onlyHeld_pure, pure_bind, onlyHeld_throw_bind, onlyHeld_stop_bind,
    implies_true, true_and, onlyHeld_take]
  refine fun _ _ _ => ?_
  split
  · exact onlyHeld_take _ _
  · simp

theorem holdLine_frame {line : Nat} (h : (holdLine va line).run m = .ok () m') : State.SameStore m.st m'.st ∧
    m' = { m with st := m'.st, ch := { m.ch with held := m'.ch.held } } :=
  ⟨sameStore_of_ok (fun s => quiet_holdLine s m va line) h, onlyHeld_holdLine va line m' h⟩

/-- A line noted as written enters the write signature; no byte changes. -/
theorem noteWrite_frame (h : (noteWrite l).run m = .ok () m') : State.SameStore m.st m'.st ∧
    m' = { m with st := m'.st, ch := { m.ch with
      wsig := m.ch.wsig ||| sigOf (sigLine m.part l.pa), lines := m'.ch.lines, window := m'.ch.window } } := by
  refine ⟨sameStore_of_ok (fun s => quiet_noteWrite s m l) h, ?_⟩
  rw [noteWrite, run_bind_ok (run_get m)] at h
  split at h
  · dsimp only at h
    obtain ⟨⟨⟩, m1, hscope, h⟩ := bind_ok h
    rw [asFound_needScope _ _ _ hscope] at h
    cases h
    rfl
  · cases h
    rfl

/-- The bytes of a run put among others are found where they were put. -/
theorem assocGet?_bufPut (buf : List Host.Cell) (pa : Nat) (bs : List Byte) (a : Nat) : assocGet? a (bufPut buf pa bs) =
    if pa ≤ a ∧ a < pa + bs.length then bs[a - pa]? else assocGet? a buf := by
  induction bs generalizing buf pa with
  | nil =>
    rw [bufPut, if_neg]
    simp
  | cons b bs ih =>
    rw [bufPut, ih, List.length_cons, assocGet?_assocSet]
    by_cases h : a = pa
    · subst h
      rw [if_neg (by omega), if_pos rfl, if_pos (by omega), Nat.sub_self]
      rfl
    · rw [if_neg h]
      by_cases hin : pa + 1 ≤ a ∧ a < pa + 1 + bs.length
      · rw [if_pos hin, if_pos (by omega), show a - pa = (a - (pa + 1)) + 1 by omega]
        rfl
      · rw [if_neg hin, if_neg (by omega)]

/-- A write that meets no far atomic of its chunk puts its bytes there. -/
theorem writeAt_ok (h : (writeAt l va bs).run m = .ok () m')
    (hfars : (m.ch.fars.all fun f => !runsMeet f.pa f.n l.pa bs.length) = true) : ∃ m1 m2,
    (holdLine va (lineOf l.pa)).run m = .ok () m1 ∧ (noteWrite l).run m1 = .ok () m2 ∧
      m' = { m2 with ch := { m2.ch.put l.pa bs with stores := m2.ch.stores ++ [(m2.ch.count, l.pa, va)] } } := by
  rw [writeAt] at h
  obtain ⟨⟨⟩, m0, hwait, h⟩ := bind_ok h
  rw [asFound_waitFars _ _ _ _ hwait, run_bind_ok (run_foldFars_of_apart hfars)] at h
  obtain ⟨⟨⟩, m1, hhold, h⟩ := bind_ok h
  obtain ⟨⟨⟩, m2, hnote, h⟩ := bind_ok h
  cases h
  exact ⟨m1, m2, hhold, hnote, rfl⟩

end

/-! ### The scalar stores (R150-R152) -/

/-- A store outside the control blocks that is aligned, translated and buffered. -/
theorem run_storeScalar {m m' : Mach} {va : Word} {n v : Nat} {st : Bool} (ha : m.ar.arming = none)
    (hctl : (st && decide (n = 8) && inControl va) = false) (h : Stores m va n v st m') : (storeScalar va n v st).run m = .ok () m' := by
  obtain ⟨hal, l, m1, hl, hw⟩ := h
  refine (run_bind_ok (run_notArming ha)).trans ((run_bind_ok (run_needAligned hal m)).trans ?_)
  rw [hctl]
  exact (run_bind_ok hl).trans hw

theorem sizeOf2_eq_eight {z : BitVec 2} (h : sizeOf2 z = 8) : z = 3 := by
  revert h
  revert z
  decide

end Sys2Proof.Machine

namespace Sys2Proof.Claims

open Sys2Proof.Machine

theorem writtenBytes : WrittenBytes := by
  intro m m' l va bs h hfars
  obtain ⟨m1, m2, hhold, hnote, hput⟩ := writeAt_ok h hfars
  obtain ⟨hstore1, hframe1⟩ := holdLine_frame hhold
  obtain ⟨hstore2, hframe2⟩ := noteWrite_frame hnote
  have hbuf : m'.ch.buf = bufPut m.ch.buf l.pa bs := by rw [hput, hframe2, hframe1]; rfl
  have hth : m'.th = m.th := by rw [hput, hframe2, hframe1]
  have hst : m'.st = m2.st := by rw [hput]
  have hseen (b : Byte) (a : Nat) : seenByte m' b a =
      if l.pa ≤ a ∧ a < l.pa + bs.length then (bs[a - l.pa]?).getD 0 else seenByte m b a := by
    rw [seenByte, seenByte, hbuf, hth, assocGet?_bufPut]
    by_cases hin : l.pa ≤ a ∧ a < l.pa + bs.length
    · rw [if_pos hin, if_pos hin, List.getElem?_eq_getElem (show a - l.pa < bs.length by omega)]
      rfl
    · rw [if_neg hin, if_neg hin]
  refine ⟨fun b a ha => ?_, fun b k hk => ?_, ?_, hth, fun a => ?_, ?_, ?_, ?_⟩
  · rw [hseen, if_neg (by omega)]
  · rw [hseen, if_pos (by omega), Nat.add_sub_cancel_left, List.getElem?_eq_getElem hk]
    rfl
  · rw [hput, hframe2, hframe1]
  · rw [hst]
    exact (hstore1.trans hstore2).sameBytes a
  all_goals
    rw [hput, hframe2, hframe1]
    rfl

theorem scalarStores : ScalarStores := by
  intro s tid t rb ra rc z disp m hb ha n
  have ha : (found s tid t).ar.arming = none := ha
  have hva : memAddr (found s tid t) ra disp = addrM t.arch ra disp := memAddr_eq_addrM ..
  refine ⟨fun hz h => ?st, fun h => ?stx, fun h => ?stp⟩
  case st =>
    have hctl : (true && decide (n = 8) && inControl (memAddr (found s tid t) ra disp)) = false := by
      rw [hva]
      obtain hz | hz := hz
      · rw [decide_eq_false (p := n = 8) fun h8 => hz (sizeOf2_eq_eight h8)]
        rfl
      · rw [hz, Bool.and_false]
    exact hb.retires rfl ((run_bind_ok (run_get _)).trans (run_storeScalar ha hctl (hva ▸ h)))
  case stx => exact hb.retires rfl ((run_bind_ok (run_get _)).trans (run_storeScalar ha rfl h))
  case stp => exact hb.retires rfl ((run_bind_ok (run_get _)).trans (run_storeScalar ha rfl (hva ▸ h)))

/-- Settles O7: the scalar stores over the writes of their chunk. -/
theorem storeResults : Obligations.StoreResults := ⟨scalarStores, writtenBytes⟩

end Sys2Proof.Claims
end

section

namespace Sys2Proof.Machine

open Claims

/-! ### Groups, their addresses and their results (R52, R153-R155, R211, R212) -/

section
variable {m : Mach}

/-- Groups within the thread's allotment pass the check of R52. -/
theorem run_needGroups {gs : List (BitVec 5 × Nat)} (h : ∀ g ∈ gs, g.1.toNat + g.2 ≤ m.vregs) :
    (needGroups gs).run m = .ok () m := by
  induction gs with
  | nil => rfl
  | cons g gs ih =>
    obtain ⟨hg, hgs⟩ := List.forall_mem_cons.mp h
    have hone : (needGroup g.1 g.2).run m = .ok () m := by
      refine (run_bind_ok (run_get m)).trans ?_
      rw [decide_eq_false (Nat.not_lt.mpr hg)]
      rfl
    exact (run_bind_ok hone).trans (ih hgs)

theorem run_needElemsAligned {es : List (Nat × Word)} {ew : Nat} (h : ∀ e ∈ es, e.2.toNat % ew = 0) :
    (needElemsAligned es ew).run m = .ok () m := by
  have hnone : (es.filter fun e => decide (e.2.toNat % ew ≠ 0)) = [] := List.filter_eq_nil_iff.mpr fun e he => by simp [h e he]
  rw [needElemsAligned, hnone]
  rfl

/-- The active elements, as the predicate selects them. -/
theorem elemAddrs_eq_actives (g : Shape) (addr : Nat → Word) : elemAddrs g addr = actives g addr := by
  have hsel (l : List Nat) (hl : ∀ k ∈ l, k < g.n) : (l.filterMap fun k => if g.active k then some (k, addr k) else none) =
      (l.filter fun k => g.mask.getLsbD (k % 64)).map fun k => (k, addr k) := by
    induction l with
    | nil => rfl
    | cons k l ih =>
      obtain ⟨hk, hl⟩ := List.forall_mem_cons.mp hl
      rw [List.filterMap_cons, List.filter_cons, ih hl, Shape.active, decide_eq_true hk, Bool.true_and]
      cases g.mask.getLsbD (k % 64) <;> rfl
  exact hsel _ fun k hk => List.mem_range.mp hk

/-- Behind its checks a vector access has the addresses of its active elements. -/
theorem run_vecAddrs {p : BitVec 6} {z : BitVec 2} {groups : Shape → Nat → List (BitVec 5 × Nat)}
    {addr : Arch → Nat → Nat → Word} {ew : Nat} {g : Shape} {es : List (Nat × Word)}
    (hew : ew = memElem m.ar p z) (hg : g = shapeOf m.ar p (8 * ew))
    (hes : es = actives g (addr m.ar ew)) (ha : m.ar.arming = none) (hv : vecAllowed m.ar = true)
    (hfit : ∀ x ∈ groups g ew, x.1.toNat + x.2 ≤ m.vregs) (hal : ∀ e ∈ es, e.2.toNat % ew = 0) :
    (vecAddrs p z groups addr).run m = .ok es m := by
  subst hew hg
  rw [← elemAddrs_eq_actives] at hes
  subst hes
  exact (run_bind_ok (run_get m)).trans ((run_bind_ok (run_needGroups hfit)).trans ((run_bind_ok (run_notArming ha)).trans
    ((run_bind_ok (run_needElemsAligned hal)).trans (run_bind_ok (run_needVec hv)))))

end

/-- Results that carry no flag raise none. -/
theorem flagsOf_results (g : Shape) (w count : Nat) (f : Nat → Nat) : flagsOf (g.results w count fun k => (f k, 0)) = 0 := by
  rw [flagsOf, Shape.results, List.foldl_map]
  generalize List.range (count * 512 / w) = l
  induction l with
  | nil => rfl
  | cons k l ih =>
    rw [List.foldl_cons]
    cases g.active k <;> simpa using ih

/-- The elements of a destination: those of its active elements, and what the others keep. -/
theorem merge_results (g : Shape) (a : Arch) (v w count : Nat) (f : Nat → Nat) : g.merge a v w (g.results w count fun k => (f k, 0)) =
    (List.range (count * 512 / w)).map fun k => if g.active k then f k else if g.zero then 0 else a.lane v w k := by
  rw [Shape.merge, Shape.results]
  refine List.ext_getElem (by simp) fun k h _ => ?_
  simp only [List.getElem_map, List.getElem_zipIdx, List.getElem_range, Nat.zero_add]
  cases g.active k <;> rfl

theorem raise_zero (m : Mach) : (raise 0).run m = .ok () m := by
  have hflags : m.ch.flags ||| 0 = m.ch.flags := BitVec.or_zero
  change EStateM.Result.ok () { m with ch := { m.ch with flags := m.ch.flags ||| 0 } } = _
  rw [hflags]

theorem run_putGroup (m : Mach) (d : BitVec 5) (g : Shape) (w count : Nat) (f : Nat → Nat) :
    (putGroup d g w count fun k => (f k, 0)).run m = .ok () (onAr (fun a => groupWith a g d w count f) m) := by
  refine (run_bind_ok (run_get m)).trans ((run_bind_ok (run_onArch _ m)).trans ?_)
  rw [flagsOf_results, merge_results]
  exact raise_zero _

/-! ### The vector loads and stores -/

section
variable {m m1 m2 : Mach} {d : BitVec 5} {p : BitVec 6} {z : BitVec 2} {groups : Shape → Nat → List (BitVec 5 × Nat)}
  {addr : Arch → Nat → Nat → Word} {ew : Nat} {g : Shape} {es : List (Nat × Word)} {ls : List (Nat × Word × Loc)}

theorem run_opVecLoad {vs : List (Nat × Nat)} (hew : ew = memElem m.ar p z) (hg : g = shapeOf m.ar p (8 * ew))
    (hes : es = actives g (addr m.ar ew)) (ha : m.ar.arming = none) (hv : vecAllowed m.ar = true)
    (hfit : ∀ x ∈ (d, g.nreg) :: groups g ew, x.1.toNat + x.2 ≤ m.vregs) (hal : ∀ e ∈ es, e.2.toNat % ew = 0)
    (hl : Gives (locateElems (locate .load) es) m ls m1) (hr : Gives (readElems ew ls) m1 vs m2) :
    (opVecLoad d p z groups addr).run m =
      .ok () (onAr (fun a => groupWith a g d (8 * ew) g.nreg fun k => assocGetD k 0 vs) m2) := by
  have haddrs := run_vecAddrs (groups := fun g ew => (d, g.nreg) :: groups g ew) hew hg hes ha hv hfit hal
  subst hew hg
  exact (run_bind_ok haddrs).trans ((run_bind_ok (run_get m)).trans ((run_bind_ok hl).trans ((run_bind_ok hr).trans
    (run_putGroup ..))))

theorem run_opVecStore (hew : ew = memElem m.ar p z) (hg : g = shapeOf m.ar p (8 * ew))
    (hes : es = actives g (addr m.ar ew)) (ha : m.ar.arming = none) (hv : vecAllowed m.ar = true)
    (hfit : ∀ x ∈ (d, g.nreg) :: groups g ew, x.1.toNat + x.2 ≤ m.vregs) (hal : ∀ e ∈ es, e.2.toNat % ew = 0)
    (hl : Gives (locateElems (fun va => locateStore va ew false) es) m ls m1)
    (hset : ∀ e ∈ ls, linesInSet ls (setOf e.2.1) ≤ setLimit m)
    (hw : Gives (writeElems ew (fun k => m.ar.lane d.toNat (8 * ew) k) ls) m1 () m2) :
    (opVecStore d p z groups addr).run m = .ok () m2 := by
  have haddrs := run_vecAddrs (groups := fun g ew => (d, g.nreg) :: groups g ew) hew hg hes ha hv hfit hal
  have hfew : (ls.any fun e => decide (setLimit m < linesInSet ls (setOf e.2.1))) = false :=
    List.any_eq_false.mpr fun e he => by simpa using hset e he
  subst hew hg
  refine (run_bind_ok haddrs).trans ((run_bind_ok (run_get m)).trans ((run_bind_ok hl).trans ?_))
  rw [hfew]
  exact hw

end

/-! Element addresses as the manual writes them (R154); outside REP nothing is added. -/

theorem base_eq_addrM (a : BitVec 6) (disp : BitVec 16) (ar : Arch) : ar.getX a + sx disp + 0 = addrM ar a disp :=
  (BitVec.add_zero _).trans (add_sx_eq_ofInt _ disp (by decide))

theorem unitAddr_zero (a : BitVec 6) (disp : BitVec 16) (ar : Arch) (ew k : Nat) :
    unitAddr a disp 0 ar ew k = addrM ar a disp + BitVec.ofNat 64 (k * ew) := by
  rw [unitAddr, base_eq_addrM]

theorem strideAddr_zero (a b : BitVec 6) (disp : BitVec 16) (ar : Arch) (ew k : Nat) :
    strideAddr a b disp 0 ar ew k = addrM ar a disp + ar.getX b * BitVec.ofNat 64 k := by
  rw [strideAddr, base_eq_addrM]

theorem gatherAddr_zero (a : BitVec 6) (ig : BitVec 1) (iw : BitVec 2) (c : BitVec 5) (disp : BitVec 16) (ar : Arch) (ew k : Nat) :
    gatherAddr a ig iw c disp 0 ar ew k = addrM ar a disp + BitVec.ofInt 64 (indexOf ar ig iw c k * ew) := by
  rw [gatherAddr, base_eq_addrM]
  rfl

end Sys2Proof.Machine

namespace Sys2Proof.Claims

open Sys2Proof.Machine

/-- The operation that an access stands for, its element addresses those of R154. -/
def VecAccess.runs (x : VecAccess) (i : Instr) (s : State) (a : Arch) : Prop :=
  ∃ addr : Arch → Nat → Nat → Word, (∀ ew, addr a ew = x.addr ew) ∧
    exec i s = runHead s (if x.load then opVecLoad x.d x.p x.z x.more addr else opVecStore x.d x.p x.z x.more addr)

theorem vecAccess_runs {a : Arch} {i : Instr} {x : VecAccess} (h : vecAccess a i = some x) (s : State) : x.runs i s a := by
  unfold vecAccess at h
  split at h
  case h_7 => cases h
  all_goals
    cases h
    refine ⟨_, fun ew => funext fun k => ?_, rfl⟩
  · exact unitAddr_zero ..
  · exact unitAddr_zero ..
  · exact strideAddr_zero ..
  · exact strideAddr_zero ..
  · exact gatherAddr_zero ..
  · exact gatherAddr_zero ..

/-- Settles O5: behind the common checks, each access by its element addresses. -/
theorem vectorMemoryResults : Obligations.VectorMemoryResults := by
  intro s tid t i x hb ha hv hx ew g es hfit hal
  obtain ⟨addr, haddr, hexec⟩ := vecAccess_runs hx s
  have hes : es = actives g (addr t.arch ew) := by rw [haddr]
  refine ⟨fun hload ls m1 vs m2 hl hr => ?_, fun hload ls m1 m2 hl hset hw => ?_⟩
  · rw [hload] at hexec
    exact hb.retires hexec (run_opVecLoad (m := found s tid t) rfl rfl hes ha hv hfit hal hl hr)
  · rw [hload] at hexec
    exact hb.retires hexec (run_opVecStore (m := found s tid t) rfl rfl hes ha hv hfit hal hl hset hw)

end Sys2Proof.Claims
end

section

namespace Sys2Proof.Machine

open Claims

/-! ### Ranges (R157-R159) -/

section
variable {m m1 m2 : Mach} {a n : Word}

/-- A range of whole lines in canonical space below the local window. -/
theorem run_needRange {cause : Nat} (ha : a.toNat % 64 = 0) (hn : n.toNat % 64 = 0) (hb : rangeBreak a.toNat n.toNat = none)
    (hw : rangeInWindow a.toNat n.toNat = false) : (needRange cause a n).run m = .ok () m := by
  simp [needRange, ha, hn, hb, hw]

/-- What DISCARD and CLEAN begin with. -/
theorem run_beginAlone {op : M Unit} (hf : m.ar.arming = none) (hc : m.ch.count = 0) :
    (do notArming; standAlone; op).run m = op.run (endsAs .alone m) :=
  (run_bind_ok (run_notArming hf)).trans (run_bind_ok (run_standAlone hc))

theorem run_opDiscard {rb ra : BitVec 6} {ls : List Nat} (hf : m.ar.arming = none) (hc : m.ch.count = 0)
    (ha : (m.ar.getX ra).toNat % 64 = 0) (hn : (m.ar.getX rb).toNat % 64 = 0)
    (hb : rangeBreak (m.ar.getX ra).toNat (m.ar.getX rb).toNat = none)
    (hw : rangeInWindow (m.ar.getX ra).toNat (m.ar.getX rb).toNat = false)
    (h : (rangeLines .store 0x06 (m.ar.getX ra) (m.ar.getX rb)).run (endsAs .alone m) = .ok ls m1) :
    (opDiscard rb ra).run m = .ok () (if ls = [] then m1 else
      carry (.discard ls) { m1 with ch := { m1.ch with stores := m1.ch.stores ++ ls.map fun l => (0, l * 64, m.ar.getX ra) } }) := by
  refine (run_beginAlone hf hc).trans ((run_bind_ok (run_get _)).trans ((run_bind_ok (run_needRange ha hn hb hw)).trans
    ((run_bind_ok h).trans ?_)))
  by_cases hls : ls = []
  · rw [if_neg (not_not_intro hls), if_pos hls]
    rfl
  · rw [if_pos hls, if_neg hls]
    rfl

theorem run_opClean {rb ra : BitVec 6} {ls : List Nat} (hf : m.ar.arming = none) (hc : m.ch.count = 0)
    (ha : (m.ar.getX ra).toNat % 64 = 0) (hn : (m.ar.getX rb).toNat % 64 = 0)
    (hb : rangeBreak (m.ar.getX ra).toNat (m.ar.getX rb).toNat = none)
    (hw : rangeInWindow (m.ar.getX ra).toNat (m.ar.getX rb).toNat = false)
    (h : (rangeLines .load 0x05 (m.ar.getX ra) (m.ar.getX rb)).run (endsAs .alone m) = .ok ls m1) :
    (opClean rb ra).run m = .ok () (if ls = [] then m1 else carry (.clean ls) m1) := by
  refine (run_beginAlone hf hc).trans ((run_bind_ok (run_get _)).trans ((run_bind_ok (run_needRange ha hn hb hw)).trans
    ((run_bind_ok h).trans ?_)))
  by_cases hls : ls = []
  · rw [if_neg (not_not_intro hls), if_pos hls]
    rfl
  · rw [if_pos hls, if_neg hls]
    rfl

/-! ### Banks and FIFOs (R146-R149) -/

/-- BANKCFG asks for the system privilege or a bank of its guild that is in use. -/
theorem run_opBankcfg {d ra : BitVec 6} {z : BitVec 2} {k : BitVec 4} (hf : m.ar.arming = none) (hc : m.ch.count = 0)
    (how : m.sys = true ∨ (m.st.bank m.cluster k.toNat).mode ≠ 0 ∧ (m.st.bank m.cluster k.toNat).owner = m.ar.guild)
    (hfree : m.st.held 3 m.cluster = false)
    (h1 : (noteRead (bankLine m.cluster k.toNat)).run (endsAs .alone m) = .ok () m1)
    (h2 : (noteWrite (bankLine m.cluster k.toNat)).run m1 = .ok () m2) :
    (opBankcfg d z ra k).run m =
      .ok () (carry (.bank k.toNat z.toNat ((m.ar.getX ra).setWidth 16)) (putX d (m.st.bank m.cluster k.toNat).status m2)) := by
  have hown : (m.sys || (decide ((m.st.bank m.cluster k.toNat).mode ≠ 0) &&
      decide ((m.st.bank m.cluster k.toNat).owner = m.ar.guild))) = true := by simpa using how
  have hneed (c : Nat) (v : Word) : (need (m.sys || (decide ((m.st.bank m.cluster k.toNat).mode ≠ 0) &&
      decide ((m.st.bank m.cluster k.toNat).owner = m.ar.guild))) c v).run (endsAs .alone m) = .ok () (endsAs .alone m) := by
    rw [hown]
    rfl
  refine (run_bind_ok (run_standAlone hc)).trans ((run_bind_ok (run_get _)).trans ((run_bind_ok (hneed _ _)).trans ?_))
  refine (run_bind_ok (run_notArming (m := endsAs .alone m) hf)).trans ?_
  refine (run_bind_ok (run_needBlock_of_free (m := endsAs .alone m) hfree)).trans ?_
  exact (run_bind_ok h1).trans ((run_bind_ok h2).trans ((run_bind_ok (run_setX ..)).trans (run_emit ..)))

theorem run_opBankq {d ra : BitVec 6} (hf : m.ar.arming = none) (hfree : m.st.held 3 m.cluster = false)
    (h : (noteRead (bankLine m.cluster ((m.ar.getX ra).toNat % 16))).run m = .ok () m1) :
    (opBankq d ra).run m = .ok () (putX d (m.st.bank m.cluster ((m.ar.getX ra).toNat % 16)).status m1) :=
  (run_bind_ok (run_notArming hf)).trans ((run_bind_ok (run_get _)).trans ((run_bind_ok (run_needBlock_of_free hfree)).trans
    ((run_bind_ok h).trans (run_setX ..))))

/-- Naming a FIFO changes no register. -/
theorem keepsArch_fifoBank (b : Arch) (ra : BitVec 6) (disp : BitVec 16) : KeepsArch b (fifoBank ra disp) m := by
  simp [fifoBank, notArming, faultIf, need]

variable {d rb ra : BitVec 6} {disp : BitVec 16} {j : Nat}

theorem run_opFpush (h : (fifoBank ra disp).run m = .ok j m1) (h2 : (noteWrite (fifoTail m1.cluster j)).run m1 = .ok () m2) :
    (opFpush d rb ra disp).run m =
      .ok () (if 8192 ≤ (fifoView m1 j).length then putX d 0 (carry (.fifo j .peek) m2)
        else putX d 1 (carry (.fifo j (.push (m.ar.getX rb))) m2)) := by
  rw [← ar_of_ok (fun b => keepsArch_fifoBank b ra disp) h]
  refine (run_bind_ok h).trans ((run_bind_ok (run_get _)).trans ((run_bind_ok h2).trans ?_))
  by_cases hfull : 8192 ≤ (fifoView m1 j).length
  · rw [if_pos hfull, decide_eq_true (p := fifoSize ≤ (fifoView m1 j).length) hfull]
    rfl
  · rw [if_neg hfull, decide_eq_false (p := fifoSize ≤ (fifoView m1 j).length) hfull]
    rfl

theorem run_opFpop (h : (fifoBank ra disp).run m = .ok j m1) (h2 : (noteWrite (fifoHead m1.cluster j)).run m1 = .ok () m2) :
    (opFpop d rb ra disp).run m =
      .ok () (match fifoView m1 j with
        | [] => putX rb 0 (putX d 0 (carry (.fifo j .peek) m2))
        | w :: _ => putX rb 1 (putX d w (carry (.fifo j .pop) m2))) := by
  refine (run_bind_ok h).trans ((run_bind_ok (run_get _)).trans ((run_bind_ok h2).trans ?_))
  cases fifoView m1 j <;> rfl

theorem run_opFpeek (h : (fifoBank ra disp).run m = .ok j m1) : (opFpeek d rb ra disp).run m =
    .ok () (putX rb (BitVec.ofNat 64 (fifoView m1 j).length) (putX d ((fifoView m1 j).headD 0) (carry (.fifo j .peek) m1))) :=
  run_bind_ok h

end

end Sys2Proof.Machine

namespace Sys2Proof.Claims

open Sys2Proof.Machine

theorem cacheControlResults : CacheControlResults := by
  intro s tid t z ra rb disp hb hf a n m
  refine ⟨hb.retires rfl (run_notArming hf), fun h1 ha hn hbr hw => ⟨fun ls m1 h => ?_, fun ls m1 h => ?_⟩⟩
  · exact hb.retires rfl (run_opDiscard hf h1 ha hn hbr hw h)
  · exact hb.retires rfl (run_opClean hf h1 ha hn hbr hw h)

theorem bankResults : BankResults := by
  intro s tid t d rb ra z k disp hb hf m b q
  refine ⟨fun h1 how hfree m1 m2 hr hw => ?_, fun hfree m1 hr => ?_, fun j m1 hj => ⟨fun m2 hw => ?_, fun m2 hw => ?_, ?_⟩⟩
  · exact hb.retires rfl (run_opBankcfg hf h1 how hfree hr hw)
  · exact hb.retires rfl (run_opBankq hf hfree hr)
  · exact hb.retires rfl (run_opFpush hj hw)
  · exact hb.retires rfl (run_opFpop hj hw)
  · exact hb.retires rfl (run_opFpeek hj)

/-- Settles O9: the checks of each instruction passed, what is left of it is its effect. -/
theorem cacheAndBankResults : Obligations.CacheAndBankResults := ⟨cacheControlResults, bankResults⟩

end Sys2Proof.Claims
end

section

namespace Sys2Proof.Machine

open Claims

/-! ### Requests over a link (R165, R425, R428) -/

section
variable {s : State} {id tid pa n : Nat} {va : Word} {t : Thread} {r : LinkReq} {bytes : List Byte}

/-- A thread that asks has its answer, and goes on. -/
theorem giveReply_of_asks (ht : s.thread tid = some t) (hr : t.run = .link id) :
    s.giveReply tid id pa false bytes = s.setThread tid { t with run := .running, replies := t.replies ++ [(pa, bytes)] } := by
  simp [State.giveReply, ht, hr]

theorem performLink_read (hpa : regionOf pa ≠ 0) (ht : s.thread tid = some t) (hr : t.run = .link id) :
    s.performLink id (.read tid pa n va none) bytes =
      s.setThread tid { t with run := .running, replies := t.replies ++ [(pa, bytes)] } := by
  have hfar : ¬ regionOf (LinkKind.read tid pa n va none).pa = 0 := hpa
  rw [State.performLink, if_neg hfar, giveReply_of_asks ht hr]

/-- Bytes for a destination beyond the module are written there. -/
theorem remoteCommit_of_beyond {cells : List Host.Cell} (h : regionOf pa ≠ 0) : s.remoteCommit pa cells = s := if_neg h

/-- A request beyond the module is performed with the bytes it brings, once it is its turn and the I/O die takes commands. -/
theorem linkCompletion_of_first (hl : assocGet? id s.links = some r) (hpa : regionOf r.kind.pa ≠ 0) (hfirst : s.linkFirst id r = true)
    (hlen : bytes.length = r.kind.answerSize) (hheld : s.held 6 0 = false) :
    linkCompletion s id bytes = ({ s with links := assocDrop id s.links } : State).performLink id r.kind bytes := by
  simp [linkCompletion, hl, hpa, hfirst, hlen, hheld]

theorem linkCompletion_of_notFirst (hl : assocGet? id s.links = some r) (hfirst : s.linkFirst id r = false) :
    linkCompletion s id bytes = s := by
  simp [linkCompletion, hl, hfirst]

/-- A fault of a first head with no older chunk, at the thread's turn, is taken. -/
theorem headFault_of_takesNow {c : Chunk} {cause : Nat} (hc : c.count = 0) (ho : t.older = []) (ht : TakesNow t) :
    headFault s tid t c cause va = takeTrap s tid { t with chunks := [] } cause va := by
  have hturn : t.atTurn = true := by simpa [Thread.atTurn, TakesNow] using ht
  rw [headFault, if_pos hturn, faultAt, if_neg (by omega), if_pos ho]

/-- What a read that is lost makes of its thread. -/
theorem loseLink_read (hk : r.kind = .read tid pa n va none) (ht : s.thread tid = some t) (hr : t.run = .link id)
    (hc : (t.current s).count = 0) (ho : t.older = []) (hnow : TakesNow t) : s.loseLink id r =
      takeTrap { s with links := assocDrop id s.links } tid { t with run := .running, chunks := [] } 0x11 va := by
  have hthread : ({ s with links := assocDrop id s.links } : State).thread tid = some t := ht
  simp only [State.loseLink, hk, State.readLost, hthread, hr, if_true]
  exact headFault_of_takesNow hc ho hnow

theorem loseLink_write {writer : Option Nat} {cells : List Host.Cell} (hk : r.kind = .write writer pa cells) : s.loseLink id r =
    ({ s with links := assocDrop id s.links } : State).mcheck r.part 0x11 (BitVec.ofNat 64 pa) := by
  simp [State.loseLink, hk]

theorem linkRefusal_eq (hl : assocGet? id s.links = some r) (hpa : regionOf r.kind.pa = 1 ∨ regionOf r.kind.pa = 2) :
    linkRefusal s id = s.loseLink id r := by
  simp [linkRefusal, hl, hpa]

theorem linkTimeout_late (hl : assocGet? id s.links = some r) (hpa : regionOf r.kind.pa = 1 ∨ regionOf r.kind.pa = 2)
    (htime : r.sent + linkLimit (regionOf r.kind.pa) ≤ s.time) : linkTimeout s id = s.loseLink id r := by
  simp [linkTimeout, hl, hpa, htime]

theorem linkTimeout_early (hl : assocGet? id s.links = some r) (htime : s.time < r.sent + linkLimit (regionOf r.kind.pa)) :
    linkTimeout s id = s := by
  simp [linkTimeout, hl, htime]

end

/-- A machine check joins the events of its partition, and nothing else changes. -/
theorem mcheck_frame (s : State) (p cause : Nat) (addr : Word) : (s.mcheck p cause addr).links = s.links ∧
    SameBytes s (s.mcheck p cause addr) ∧
    ((s.mcheck p cause addr).part p).events = (s.part p).events ++ [reportOf s p none 5 cause 0 0 0 0 addr] :=
  ⟨rfl, fun _ => rfl, events_report ..⟩

end Sys2Proof.Machine

namespace Sys2Proof.Claims

open Sys2Proof.Machine

/-- Settles O59, request by request. -/
theorem linkEvents : Obligations.LinkEvents := by
  intro s id
  refine ⟨?answered, ?written, ?waits, ?lost, ?unwritten⟩
  case answered =>
    rintro tid pa n va t r bytes ⟨hl, hk, ht, hr⟩ hpa hlen hheld
    have hkpa : regionOf r.kind.pa ≠ 0 := by rw [hk]; exact hpa
    have hfirst : s.linkFirst id r = true := by rw [State.linkFirst, hk]; rfl
    refine goes_of_eq rfl ((linkCompletion_of_first hl hkpa hfirst (by rw [hk]; exact hlen) hheld).trans ?_)
    rw [hk]
    exact performLink_read (s := { s with links := assocDrop id s.links }) hpa ht hr
  case written =>
    intro r tid pa cells hl hk hpa hfirst hheld
    have hbeyond : regionOf pa ≠ 0 := by omega
    have hkpa : regionOf r.kind.pa ≠ 0 := by rw [hk]; exact hbeyond
    refine goes_of_eq rfl ((linkCompletion_of_first hl hkpa hfirst (by rw [hk]; rfl) hheld).trans ?_)
    rw [hk]
    exact remoteCommit_of_beyond hbeyond
  case waits => exact fun r bytes hl hfirst => goes_of_eq rfl (linkCompletion_of_notFirst hl hfirst)
  case lost =>
    rintro tid pa n va t r ⟨hl, hk, ht, hr⟩ hc ho hnow lost
    have hlost : s.loseLink id r = lost := loseLink_read hk ht hr hc ho hnow
    have hkpa : r.kind.pa = pa := by rw [hk]; rfl
    rw [← hkpa]
    refine ⟨fun hpa => ?_, fun hpa htime => ?_, fun hpa htime => ?_, fun hpa htime => ?_⟩
    · exact goes_of_eq rfl ((linkRefusal_eq hl hpa).trans hlost)
    · exact goes_of_eq rfl ((linkTimeout_late hl (.inl hpa) (by rw [hpa]; exact htime)).trans hlost)
    · exact goes_of_eq rfl ((linkTimeout_late hl (.inr hpa) (by rw [hpa]; exact htime)).trans hlost)
    · exact goes_of_eq rfl (linkTimeout_early hl (by rw [hpa]; exact htime))
  case unwritten =>
    intro r tid pa cells hl hk hpa
    have hkpa : r.kind.pa = pa := by rw [hk]; rfl
    obtain ⟨hlinks, hbytes, hevents⟩ :=
      mcheck_frame { s with links := assocDrop id s.links } r.part 0x11 (BitVec.ofNat 64 pa)
    exact ⟨_, goes_of_eq rfl ((linkRefusal_eq hl (hkpa.symm ▸ hpa)).trans (loseLink_write hk)), hlinks, hbytes, hevents⟩

end Sys2Proof.Claims
end

section

namespace Sys2Proof.Machine

open Claims

/-! ### What a commit of another source leaves as it was (R161) -/

namespace State

/-- All is the same but what the released far atomics of some words change when they are applied. -/
def OnlyApplied (s s' : State) : Prop := ∃ m cl d bn cm nt id sq fs th,
  s' = { s with mem := m, clusters := cl, dirty := d, benches := bn, commits := cm, net := nt, nextId := id, seqs := sq, fars := fs,
                threads := th }

section
variable {s s' s'' : State}

theorem OnlyApplied.refl (s : State) : OnlyApplied s s := ⟨_, _, _, _, _, _, _, _, _, _, rfl⟩

theorem OnlyApplied.trans (h : OnlyApplied s s') (h' : OnlyApplied s' s'') : OnlyApplied s s'' := by
  obtain ⟨_, _, _, _, _, _, _, _, _, _, rfl⟩ := h
  obtain ⟨_, _, _, _, _, _, _, _, _, _, rfl⟩ := h'
  exact ⟨_, _, _, _, _, _, _, _, _, _, rfl⟩

theorem OnlyStored.applied (h : OnlyStored s s') : OnlyApplied s s' := by
  obtain ⟨_, _, _, rfl⟩ := h
  exact ⟨_, _, _, _, _, _, _, _, _, _, rfl⟩

theorem OnlyTold.applied (h : OnlyTold s s') : OnlyApplied s s' := by
  obtain ⟨_, _, _, _, _, rfl⟩ := h
  exact ⟨_, _, _, _, _, _, _, _, _, _, rfl⟩

end

section
variable (s : State)

theorem onlyApplied_perform (cells : List Host.Cell) : OnlyApplied s (s.perform cells) :=
  (onlyStored_putCells s cells).applied.trans ⟨_, _, _, _, _, _, _, _, _, _, rfl⟩

theorem onlyApplied_performFar (i : Nat) (f : FarPending) : OnlyApplied s (s.performFar i f) := by
  have hbegin : OnlyApplied s (unreleased s i f) := ⟨_, _, _, _, _, _, _, _, _, _, rfl⟩
  have hcells := (hbegin.trans (onlyApplied_perform _ (farCellsOf s f))).trans (onlyTold_breakReservations _ [lineOf f.far.pa]).applied
  refine OnlyApplied.trans ?_ (⟨_, _, _, _, _, _, _, _, _, _, rfl⟩ : OnlyApplied _ (wakeWord _ f.part f.far.pa))
  split
  · exact hcells.trans (onlyTold_announce ..).applied
  · exact hcells

theorem onlyApplied_settle (ds : List Nat) (n : Nat) : OnlyApplied s (s.settle ds n) := by
  induction n generalizing s with
  | zero => exact .refl s
  | succ n ih =>
    rw [settle]
    split
    next g _ => exact (onlyApplied_performFar s g.2 g.1).trans (ih _)
    next => exact .refl s

theorem onlyApplied_settled (ds : List Nat) : OnlyApplied s (s.settled ds) := by
  unfold settled
  split
  · exact .refl s
  · exact onlyApplied_settle ..

end

/-! ### What the far atomics of a word depend on -/

/-- Memory, the clusters, the far atomics and the cores are the same: on these alone it depends what a commit stores. -/
def Alike (s s' : State) : Prop := s'.mem = s.mem ∧ s'.clusters = s.clusters ∧ s'.fars = s.fars ∧ s'.cores = s.cores

section
variable {s s' s'' : State}

theorem Alike.refl (s : State) : Alike s s := ⟨rfl, rfl, rfl, rfl⟩

theorem Alike.symm (h : Alike s s') : Alike s' s := by
  obtain ⟨hm, hc, hf, hk⟩ := h
  exact ⟨hm.symm, hc.symm, hf.symm, hk.symm⟩

theorem Alike.trans (h : Alike s s') (h' : Alike s' s'') : Alike s s'' := by
  obtain ⟨hm, hc, hf, hk⟩ := h
  obtain ⟨hm', hc', hf', hk'⟩ := h'
  exact ⟨hm'.trans hm, hc'.trans hc, hf'.trans hf, hk'.trans hk⟩

theorem Alike.sameBytes (h : Alike s s') : SameBytes s s' := by
  obtain ⟨hm, hc, -, -⟩ := h
  exact SameStore.sameBytes ⟨hm, by rw [hc]⟩

theorem Alike.readVal (h : Alike s s') (pa n : Nat) : s'.readVal pa n = s.readVal pa n := by
  rw [State.readVal, State.readVal, readRun_congr h.sameBytes]

theorem OnlyTold.alike (h : OnlyTold s s') : Alike s s' := by
  obtain ⟨_, _, _, _, _, rfl⟩ := h
  exact ⟨rfl, rfl, rfl, rfl⟩

theorem Alike.bank (h : Alike s s') : s'.bank = s.bank := by
  obtain ⟨-, hc, -, -⟩ := h
  funext c b
  simp only [State.bank, State.cluster, hc]

theorem Alike.setBank (h : Alike s s') (c b : Nat) (v : Bank) : Alike (s.setBank c b v) (s'.setBank c b v) := by
  obtain ⟨hm, hc, hf, hk⟩ := h
  exact ⟨hm, by simp only [State.setBank, State.setCluster, State.cluster, hc], hf, hk⟩

theorem alike_noteDirty (s : State) (line : Nat) : Alike s (s.noteDirty line) := by
  unfold noteDirty
  split <;> exact ⟨rfl, rfl, rfl, rfl⟩

theorem Alike.write (h : Alike s s') (pa : Nat) (v : Byte) :
    Alike { s with mem := s.mem.write pa v } { s' with mem := s'.mem.write pa v } := by
  obtain ⟨hm, hc, hf, hk⟩ := h
  exact ⟨by rw [hm], hc, hf, hk⟩

theorem Alike.writeByte (h : Alike s s') (pa : Nat) (v : Byte) : Alike (s.writeByte pa v) (s'.writeByte pa v) := by
  simp only [State.writeByte, h.bank]
  split
  · exact h
  · split
    · split
      · exact h.setBank ..
      · exact h.write pa v
    · exact h.write pa v

theorem Alike.putCell (h : Alike s s') (cells : List Host.Cell) (c : Host.Cell) : Alike (s.putCell cells c) (s'.putCell cells c) := by
  simp only [State.putCell, putControl, h.bank]
  split
  · split
    · exact h.setBank ..
    · exact h
  · exact (((alike_noteDirty s _).symm.trans h).trans (alike_noteDirty s' _)).writeByte ..

/-- Two folds of steps that keep states alike. -/
theorem Alike.foldl {α : Type} {f : State → α → State} (hf : ∀ {s s' : State} a, Alike s s' → Alike (f s a) (f s' a))
    (l : List α) (h : Alike s s') : Alike (l.foldl f s) (l.foldl f s') := by
  induction l generalizing s s' with
  | nil => exact h
  | cons a l ih => exact ih (hf a h)

theorem Alike.putCells (h : Alike s s') (cells : List Host.Cell) : Alike (s.putCells cells) (s'.putCells cells) :=
  h.foldl (fun c h => h.putCell cells c) cells

/-- What applying a far atomic makes of memory is what its bytes make of it. -/
theorem alike_performFar (s : State) (i : Nat) (f : FarPending) :
    Alike ((unreleased s i f).putCells (farCellsOf s f)) (s.performFar i f) := by
  have hbegin : Alike ((unreleased s i f).putCells (farCellsOf s f))
      (((unreleased s i f).perform (farCellsOf s f)).breakReservations [lineOf f.far.pa]) := ⟨rfl, rfl, rfl, rfl⟩
  refine Alike.trans ?_ (⟨rfl, rfl, rfl, rfl⟩ : Alike _ (wakeWord _ f.part f.far.pa))
  split
  · exact hbegin.trans (onlyTold_announce ..).alike
  · exact hbegin

theorem Alike.performFar (h : Alike s s') (i : Nat) (f : FarPending) : Alike (s.performFar i f) (s'.performFar i f) := by
  have hcells : farCellsOf s' f = farCellsOf s f := by rw [farCellsOf, farCellsOf, h.readVal]
  have hbegin : Alike (unreleased s i f) (unreleased s' i f) := by
    obtain ⟨hm, hc, hf, hk⟩ := h
    exact ⟨hm, hc, by rw [unreleased, unreleased, hf], hk⟩
  have hput := hbegin.putCells (farCellsOf s f)
  exact ((alike_performFar s i f).symm.trans hput).trans (hcells ▸ alike_performFar s' i f)

/-- The next far atomic on some dwords to be applied, with its place. -/
def nextFar (s : State) (ds : List Nat) : Option (FarPending × Nat) :=
  s.fars.zipIdx.find? fun g => g.1.on ds && s.farFirst g.2 g.1 && s.farReady g.1

theorem settle_succ (s : State) (ds : List Nat) (n : Nat) : s.settle ds (n + 1) =
    match s.nextFar ds with
    | some g => (s.performFar g.2 g.1).settle ds n
    | none => s := by
  rfl

theorem Alike.nextFar (h : Alike s s') (ds : List Nat) : s'.nextFar ds = s.nextFar ds := by
  obtain ⟨-, -, hf, hk⟩ := h
  simp only [State.nextFar, farFirst, farReady, postReady, State.core, hf, hk]

theorem Alike.settle (h : Alike s s') (ds : List Nat) (n : Nat) : Alike (s.settle ds n) (s'.settle ds n) := by
  induction n generalizing s s' with
  | zero => exact h
  | succ n ih =>
    rw [settle_succ, settle_succ, h.nextFar]
    split
    next g _ => exact ih (h.performFar g.2 g.1)
    next => exact h

theorem Alike.settled (h : Alike s s') (ds : List Nat) : Alike (s.settled ds) (s'.settled ds) := by
  have hfars : s'.fars = s.fars := h.2.2.1
  simp only [State.settled, hfars]
  split
  · exact h
  · exact h.settle ..

theorem Alike.settledVal (h : Alike s s') (pa n : Nat) : s'.settledVal pa n = s.settledVal pa n := by
  rw [State.settledVal, State.settledVal, (h.settled _).readVal]

/-! ### Far atomics applied once -/

/-- Where there are steps enough, none is left that could be applied. -/
theorem nextFar_settle (ds : List Nat) {n : Nat} (h : s.fars.length ≤ n) : (s.settle ds n).nextFar ds = none := by
  induction n generalizing s with
  | zero =>
    rw [settle, State.nextFar, List.length_eq_zero_iff.mp (Nat.le_zero.mp h)]
    rfl
  | succ n ih =>
    rw [settle_succ]
    cases hg : s.nextFar ds with
    | none => exact hg
    | some g =>
      have hlt : g.2 < s.fars.length := List.snd_lt_of_mem_zipIdx (List.mem_of_find?_eq_some hg)
      refine ih ?_
      rw [(performFar_frame s g.2 g.1).2.1, List.length_eraseIdx_of_lt hlt]
      omega

theorem nextFar_settled (s : State) (ds : List Nat) : (s.settled ds).nextFar ds = none := by
  unfold settled
  split
  next h =>
    rw [State.nextFar, h]
    rfl
  next => exact nextFar_settle ds le_rfl

theorem settled_of_nextFar (ds : List Nat) (h : s.nextFar ds = none) : s.settled ds = s := by
  unfold settled
  split
  · rfl
  · cases s.fars.length with
    | zero => rfl
    | succ n => rw [settle_succ, h]

end

/-! ### Edge commits (R166) -/

section
variable (s : State) (p : Nat) (cells : List Host.Cell)

/-- A commit of another source takes the next number of its partition; it leaves answers and held requests as they are. -/
theorem commitCells_frame : Alike ((s.settled (cellDwords cells)).putCells cells) (s.commitCells p cells) ∧
    (s.commitCells p cells).answers = s.answers ∧ (s.commitCells p cells).peerHeld = s.peerHeld ∧
    ((s.commitCells p cells).part p).commitNo = (s.part p).commitNo + 1 := by
  obtain ⟨_, _, _, _, _, _, _, _, _, _, hsettled⟩ := onlyApplied_settled s (cellDwords cells)
  generalize hr : s.settled (cellDwords cells) = r at hsettled ⊢
  have hpart : r.part p = s.part p := by rw [hsettled]; rfl
  obtain ⟨_, _, _, hput⟩ := onlyStored_putCells r cells
  generalize hb : (r.perform cells).setPart p { (r.perform cells).part p with commitNo := ((r.perform cells).part p).commitNo + 1 } = b
  have hbpart : (b.part p).commitNo = (s.part p).commitNo + 1 := by
    rw [← hb, part_setPart_self, ← hpart, perform, hput]
    rfl
  have hbframe : Alike (r.putCells cells) b ∧ b.answers = s.answers ∧ b.peerHeld = s.peerHeld := by
    rw [← hb, perform, hput, hsettled]
    exact ⟨⟨rfl, rfl, rfl, rfl⟩, rfl, rfl⟩
  have htold := onlyTold_announce b p (((r.perform cells).part p).commitNo + 1) none (sigOfLines p (cellLines cells))
    (cellLines cells) 0 0 0
  have heq : s.commitCells p cells = (b.announce p (((r.perform cells).part p).commitNo + 1) none (sigOfLines p (cellLines cells))
      (cellLines cells) 0 0 0).askHost p (cellLines cells) := by
    rw [← hb, ← hr]
    rfl
  obtain ⟨_, _, _, _, _, htold⟩ := htold
  obtain ⟨halike, hanswers, hheld⟩ := hbframe
  rw [heq, htold]
  exact ⟨halike.trans ⟨rfl, rfl, rfl, rfl⟩, hanswers, hheld, hbpart⟩

theorem edgeCommit_frame (byHost : Bool) : Alike ((s.settled (cellDwords cells)).putCells cells) (s.edgeCommit p cells byHost) ∧
    (s.edgeCommit p cells byHost).answers = s.answers ∧ (s.edgeCommit p cells byHost).peerHeld = s.peerHeld ∧
    ((s.edgeCommit p cells byHost).part p).commitNo = (s.part p).commitNo + 1 := by
  unfold edgeCommit
  generalize hgiven : (if byHost then { s with hostHeld := s.hostHeld.filter fun l => !(cellLines cells).contains l } else s) = s1
  have hsame : Alike s s1 ∧ s1.answers = s.answers ∧ s1.peerHeld = s.peerHeld ∧ s1.part p = s.part p := by
    rw [← hgiven]
    split <;> exact ⟨⟨rfl, rfl, rfl, rfl⟩, rfl, rfl, rfl⟩
  obtain ⟨halike, hanswers, hheld, hpart⟩ := hsame
  obtain ⟨halike', hanswers', hheld', hno⟩ := commitCells_frame s1 p cells
  exact ⟨((halike.settled _).putCells cells).trans halike', hanswers'.trans hanswers, hheld'.trans hheld, by rw [hno, hpart]⟩

end

end State

end Sys2Proof.Machine
end

section

namespace Sys2Proof.Machine

open Claims

/-! ### Runs of one line -/

theorem dedup_of_forall_eq {l : List Nat} {a : Nat} (hne : l ≠ []) (h : ∀ x ∈ l, x = a) : l.dedup = [a] := by
  rw [List.eq_replicate_of_mem h]
  exact List.replicate_dedup (fun h0 => hne (List.length_eq_zero_iff.mp h0))

section
variable {s : State} {p addr : Nat} {bs : List Byte}

theorem length_runCells (pa : Nat) (bs : List Byte) : (runCells pa bs).length = bs.length := by simp [runCells]

theorem runCells_ne_nil (hne : bs ≠ []) : runCells addr bs ≠ [] := by
  rw [← List.length_pos_iff, length_runCells]
  exact List.length_pos_iff.mpr hne

/-- A run that ends in the line where it begins lies in that line. -/
theorem lineOf_of_mem_runCells (hline : lineOf (addr + (bs.length - 1)) = lineOf addr) {c : Host.Cell} (h : c ∈ runCells addr bs) :
    lineOf c.1 = lineOf addr := by
  have := le_of_mem_runCells h
  unfold lineOf at *
  omega

theorem cellLines_runCells (hne : bs ≠ []) (hline : lineOf (addr + (bs.length - 1)) = lineOf addr) :
    cellLines (runCells addr bs) = [lineOf addr] := by
  refine dedup_of_forall_eq (by simpa using runCells_ne_nil hne) fun x hx => ?_
  obtain ⟨c, hc, rfl⟩ := List.mem_map.mp hx
  exact lineOf_of_mem_runCells hline hc

theorem splitLines_runCells (hne : bs ≠ []) (hline : lineOf (addr + (bs.length - 1)) = lineOf addr) :
    splitLines (runCells addr bs) = [runCells addr bs] := by
  rw [splitLines, cellLines_runCells hne hline, List.map_singleton, List.filter_eq_self.mpr fun c hc => ?_]
  simpa using lineOf_of_mem_runCells hline hc

/-! ### Homes in HBM (R135) -/

theorem homePart_of_inHbm (h : InHbm s addr p) : s.homePart addr = some p := by
  obtain ⟨hstack, hsize, hpresent, rfl⟩ := h
  exact if_pos ⟨hstack, hsize, hpresent⟩

/-- The HBM of a stack ends with a line. -/
theorem inHbm_of_lineOf_eq (h : InHbm s addr p) {a : Nat} (ha : lineOf a = lineOf addr) : InHbm s a p := by
  obtain ⟨hstack, hsize, hpresent, hp⟩ := h
  unfold lineOf at ha
  have hdie : a / 2 ^ 36 = addr / 2 ^ 36 := by omega
  exact ⟨hdie ▸ hstack, by omega, hdie ▸ hpresent, hdie ▸ hp⟩

theorem homePart_of_line (h : InHbm s addr p) {len : Nat} (hline : lineOf (addr + (len - 1)) = lineOf addr) {i : Nat} (hi : i < len) :
    s.homePart (addr + i) = some p := by
  refine homePart_of_inHbm (inHbm_of_lineOf_eq h ?_)
  unfold lineOf at *
  omega

/-! ### An edge commit of a line (R166) -/

variable {cells : List Host.Cell} {byHost : Bool}

/-- After an edge commit a byte of HBM is the one written, or the one that stood there once the far atomics released before were
applied. -/
theorem readByte_edgeCommit (hm : MemCanonical s) (hn : (cells.map Prod.fst).Nodup) (hlt : ∀ c ∈ cells, c.1 < 2 ^ 52) {a : Nat}
    (ha : a < 2 ^ 52) : (s.edgeCommit p cells byHost).readByte a =
      (assocGet? a cells).getD ((s.settled (cellDwords cells)).readByte a) := by
  rw [(State.edgeCommit_frame s p cells byHost).1.sameBytes, readByte_of_lt ha, readByte_of_lt ha, State.putCells_mem_of_lt hlt]
  exact read_foldl_write hn ((State.settled_frame s _).2 hm) a

theorem edgeWritten_edgeCommit (hm : MemCanonical s) (hlt : addr + bs.length ≤ 2 ^ 52) :
    EdgeWritten s (s.edgeCommit p (runCells addr bs) byHost) p addr bs := by
  have hcells : ∀ c ∈ runCells addr bs, c.1 < 2 ^ 52 := fun c hc => lt_of_lt_of_le (le_of_mem_runCells hc).2 hlt
  refine ⟨(State.edgeCommit_frame ..).2.2.2, fun k hk => ?_, fun a ha hoff => ?_⟩
  · rw [readByte_edgeCommit hm (nodup_runCells ..) hcells (by omega), assocGet?_runCells, if_neg (by omega), Nat.add_sub_cancel_left,
      List.getElem?_eq_getElem hk, List.getD_eq_getElem _ _ hk]
    rfl
  · rw [readByte_edgeCommit hm (nodup_runCells ..) hcells ha, assocGet?_runCells]
    split
    · rfl
    · rw [List.getElem?_eq_none (by omega)]
      rfl

end

/-- An answer that leaves changes nothing else. -/
theorem settledVal_answer (s : State) (dest : Nat) (bs : List Byte) (pa n : Nat) :
    (s.answer dest bs).settledVal pa n = s.settledVal pa n :=
  State.Alike.settledVal (s := s) (s' := s.answer dest bs) ⟨rfl, rfl, rfl, rfl⟩ pa n

theorem edgeWritten_answer {s s' : State} {p addr : Nat} {bs : List Byte} (h : EdgeWritten s s' p addr bs) (dest : Nat)
    (as : List Byte) : EdgeWritten s (s'.answer dest as) p addr bs := h

/-! ### Requests of the host (R426) -/

section
variable {s : State} {p addr len : Nat} {bs : List Byte}

theorem hostRead_of_free (hheld : s.held 6 0 = false) (hpost : s.postHeld none (runDwords addr len) = false)
    (hhomes : s.homesHeld addr len = false) (hbar : addr + len ≤ s.bar2) : hostRead s addr len false =
      s.answer addr (if (List.range len).all (fun i => (s.homePart (addr + i)).isSome) then
        (s.settled (runDwords addr len)).readRun addr len else []) := by
  rw [hostRead, if_neg (by simp [hheld, hpost, hhomes, hbar])]
  simp

theorem hostWrite_of_free (hbar : addr + bs.length ≤ s.bar2) (hfree : LinkFree s addr bs) (hne : bs ≠ [])
    (hline : lineOf (addr + (bs.length - 1)) = lineOf addr) : hostWrite s addr bs = s.hostLine (runCells addr bs) := by
  obtain ⟨hheld, hedge, -⟩ := hfree
  rw [hostWrite, if_neg (by simp [hheld, hedge, hbar]), splitLines_runCells hne hline]
  rfl

theorem hostLine_of_home (hne : bs ≠ []) (h : s.homePart addr = some p) :
    s.hostLine (runCells addr bs) = s.edgeCommit p (runCells addr bs) true := by
  obtain ⟨b, bs, rfl⟩ := List.exists_cons_of_ne_nil hne
  rw [runCells_cons, State.hostLine, h]

theorem hostLine_of_hole (hne : bs ≠ []) (h : s.homePart addr = none) :
    s.hostLine (runCells addr bs) = s.mcheck s.firstPart 0 (BitVec.ofNat 64 addr) := by
  obtain ⟨b, bs, rfl⟩ := List.exists_cons_of_ne_nil hne
  rw [runCells_cons, State.hostLine, h]

end

/-! ### Edge atomics (R177, R426) -/

section
variable {s : State} {p addr n : Nat} {op : AtomOp} {byHost : Bool}

/-- An aligned word of four or eight bytes lies in one dword, and in one line. -/
theorem runDwords_of_aligned (hn : n = 4 ∨ n = 8) (ha : addr % n = 0) : runDwords addr n = [addr / 8] := by
  have hone : (addr % 8 + n + 7) / 8 = 1 := by obtain rfl | rfl := hn <;> omega
  rw [runDwords, hone]
  rfl

theorem cellDwords_of_aligned (hn : n = 4 ∨ n = 8) (ha : addr % n = 0) (v : Nat) :
    cellDwords (runCells addr (bytesOf n v)) = [addr / 8] := by
  have hlen := length_bytesOf n v
  have hne : bytesOf n v ≠ [] := List.ne_nil_of_length_pos (by omega)
  refine dedup_of_forall_eq (by simpa using runCells_ne_nil hne) fun x hx => ?_
  obtain ⟨c, hc, rfl⟩ := List.mem_map.mp hx
  have := le_of_mem_runCells hc
  obtain rfl | rfl := hn <;> omega

/-- No far atomic is left to be applied to a word that an edge commit has just written. -/
theorem nextFar_edgeCommit (cells : List Host.Cell) : (s.edgeCommit p cells byHost).nextFar (cellDwords cells) = none := by
  rw [(State.edgeCommit_frame s p cells byHost).1.nextFar]
  obtain ⟨_, _, _, hput⟩ := State.onlyStored_putCells (s.settled (cellDwords cells)) cells
  rw [hput]
  exact State.nextFar_settled s (cellDwords cells)

theorem settledVal_edgeCommit (hm : MemCanonical s) (hlt : addr + n ≤ 2 ^ 52) (hn : n = 4 ∨ n = 8) (ha : addr % n = 0) (v : Nat) :
    (s.edgeCommit p (runCells addr (bytesOf n v)) byHost).settledVal addr n = v % 2 ^ (8 * n) := by
  have hdwords : runDwords addr n = cellDwords (runCells addr (bytesOf n v)) :=
    (runDwords_of_aligned hn ha).trans (cellDwords_of_aligned hn ha v).symm
  rw [State.settledVal, hdwords, State.settled_of_nextFar _ (nextFar_edgeCommit _), ← ofBytes_bytesOf, State.readVal]
  congr 1
  generalize hbs : bytesOf n v = bs
  have hlen : n = bs.length := by rw [← hbs, length_bytesOf]
  rw [hlen] at hlt ⊢
  obtain ⟨-, hwritten, -⟩ := edgeWritten_edgeCommit (p := p) (byHost := byHost) hm hlt
  refine readRun_eq_of_readByte fun i b hi => ?_
  rw [hwritten i (List.getElem?_eq_some_iff.mp hi).1, List.getD_eq_getElem?_getD, hi]
  rfl

theorem edgeAtomic_of_some {v : Nat} (h : op.newWord n (s.settledVal addr n) = some v) :
    (s.edgeAtomic p addr n op byHost).1 = s.edgeCommit p (runCells addr (bytesOf n v)) byHost := by
  simp only [State.edgeAtomic, h]

theorem edgeAtomic_of_none (h : op.newWord n (s.settledVal addr n) = none) :
    (s.edgeAtomic p addr n op byHost).1 = s.edgeCommit p [] byHost := by
  simp only [State.edgeAtomic, h]

/-- The word after an edge atomic is the new one, or the old one where the operation writes none. -/
theorem settledVal_edgeAtomic (hm : MemCanonical s) (hlt : addr + n ≤ 2 ^ 52) (hn : n = 4 ∨ n = 8) (ha : addr % n = 0) :
    (s.edgeAtomic p addr n op byHost).1.settledVal addr n =
      ((op.newWord n (s.settledVal addr n)).map (· % 2 ^ (8 * n))).getD (s.settledVal addr n) := by
  cases hw : op.newWord n (s.settledVal addr n) with
  | none =>
    have hnone : s.settled (cellDwords []) = s := State.settled_of_none fun f _ => rfl
    obtain ⟨halike, -⟩ := State.edgeCommit_frame s p [] byHost
    rw [hnone] at halike
    rw [edgeAtomic_of_none hw, Option.map_none, Option.getD_none]
    exact halike.settledVal addr n
  | some v =>
    rw [edgeAtomic_of_some hw, Option.map_some, Option.getD_some]
    exact settledVal_edgeCommit hm hlt hn ha v

theorem edgeAtomic_answers : (s.edgeAtomic p addr n op byHost).1.answers = s.answers := by
  unfold State.edgeAtomic
  exact (State.edgeCommit_frame ..).2.1

/-- The new word of an operation of a link fits the word; a compare-and-swap that fails leaves it. -/
theorem newWord_link {code w : Nat} {v c : Word} (hop : linkOp code v c = some op) :
    (code = 0 → ((op.newWord n w).map (· % 2 ^ (8 * n))).getD w = (w + v.toNat) % 2 ^ (8 * n)) ∧
    (code = 1 → ((op.newWord n w).map (· % 2 ^ (8 * n))).getD w = v.toNat % 2 ^ (8 * n)) ∧
    (code = 2 → ((op.newWord n w).map (· % 2 ^ (8 * n))).getD w = if w = c.toNat then v.toNat % 2 ^ (8 * n) else w) := by
  refine ⟨?_, ?_, ?_⟩
  all_goals
    rintro rfl
    cases hop
  · simp only [AtomOp.newWord, Option.map_some, Option.getD_some, Nat.mod_mod]
  · simp only [AtomOp.newWord, Option.map_some, Option.getD_some, Nat.mod_mod]
  · rw [AtomOp.newWord]
    split <;> simp only [Option.map_some, Option.map_none, Option.getD_some, Option.getD_none, Nat.mod_mod]

/-- An AtomicOp of the host on an aligned word of HBM, with nothing to wait for. -/
theorem hostAtomic_of_free {code : Nat} {v c : Word} (hhome : InHbm s addr p) (hop : linkOp code v c = some op) (hn : n = 4 ∨ n = 8)
    (ha : addr % n = 0) (hbar : addr + n ≤ s.bar2) (hheld : s.held 6 0 = false) (haged : s.agedBlocks p none [lineOf addr] = false)
    (hpost : s.postHeld none (runDwords addr n) = false) (hslice : s.homeHeld (lineOf addr) = false) :
    hostAtomic s code addr n v c = (s.edgeAtomic p addr n op true).1.answer addr (s.edgeAtomic p addr n op true).2 := by
  have hsize : ¬ (n ≠ 4 ∧ n ≠ 8 ∨ addr % n ≠ 0) := by omega
  simp only [hostAtomic, homePart_of_inHbm hhome, hop, hheld, haged, hpost, hslice, if_neg hsize]
  simp [hbar]

/-- Operations beyond the three are unsupported. -/
theorem hostAtomic_unsupported {code : Nat} {v c : Word} (hop : 3 ≤ code) (hbar : addr + n ≤ s.bar2) (hheld : s.held 6 0 = false) :
    hostAtomic s code addr n v c = s.answer addr [] := by
  have hnone : linkOp code v c = none := by
    obtain ⟨k, rfl⟩ := Nat.exists_eq_add_of_le' hop
    rfl
  rw [hostAtomic, if_neg (by simp [hheld, hbar]), hnone]
  split
  · next h => cases h
  · rfl

end

/-! ### Requests of peers (R428) -/

section
variable {s : State} {p addr src num : Nat} {bs : List Byte} {x : PeerReq} {v c : Word}

theorem peerCame_of_empty (h : s.peerHeld = []) : s.peerCame src num = s := by
  rw [State.peerCame, h, List.map_nil, ← h]

/-- The host is asked for no line that it does not hold. -/
theorem askFirst_of_free {lines : List Nat} (h : s.hostHolds lines = false) : s.askFirst p lines = s := by
  have hnone : lines.filter (fun l => s.hostHeld.contains l && !(s.backInv.any fun b => decide (b.1 = l))) = [] := by
    refine List.filter_eq_nil_iff.mpr fun l hl => ?_
    rw [Bool.eq_false_iff.mpr (List.any_eq_false.mp h l hl), Bool.false_and]
    exact Bool.false_ne_true
  unfold State.askFirst
  dsimp only
  rw [hnone, List.map_nil, List.append_nil]

theorem peersAsk_of_one (hheld : s.peerHeld = [x]) (hhost : s.hostHolds (cellLines x.cells) = false) : s.peersAsk = s := by
  have hline (l : Nat) (hl : l ∈ cellLines x.cells) (q : Nat) : s.askFirst q [l] = s :=
    askFirst_of_free (by simpa [State.hostHolds] using List.any_eq_false.mp hhost l hl)
  rw [State.peersAsk, hheld, List.foldl_cons, List.foldl_nil]
  split
  · refine List.foldlRecOn (motive := fun s' => s' = s) _ _ rfl fun s' hs l hl => ?_
    rw [hs]
    cases s.homePart (l * 64) with
    | none => rfl
    | some q => exact hline l hl q
  · rfl

theorem servePeers_one (hheld : s.peerHeld = [x]) : s.servePeers 1 =
    if s.peerFirst x && !s.peerHeldUp x && !s.hostHolds (cellLines x.cells) then
      ({ s with peerHeld := [] } : State).peerPerform x else s := by
  by_cases h : (s.peerFirst x && !s.peerHeldUp x && !s.hostHolds (cellLines x.cells)) = true
  · simp [State.servePeers, hheld, h]
  · simp [State.servePeers, hheld, h]

/-- The one request held is performed once all that were to come have come. -/
theorem peersGoOn_of_come (hcome : x.coming = 0) (hup : s.peerHeldUp x = false) (hhost : s.hostHolds (cellLines x.cells) = false) :
    peersGoOn { s with peerHeld := [x] } = ({ s with peerHeld := [] } : State).peerPerform x := by
  generalize hs : ({ s with peerHeld := [x] } : State) = s1
  have hheld : s1.peerHeld = [x] := by rw [← hs]
  have hup1 : s1.peerHeldUp x = false := by rw [← hup, ← hs]; rfl
  have hhost1 : s1.hostHolds (cellLines x.cells) = false := by rw [← hhost, ← hs]; rfl
  have hfirst : s1.peerFirst x = true := by simp [State.peerFirst, hcome, hheld]
  rw [peersGoOn, peersAsk_of_one hheld hhost1, hheld, List.length_singleton, servePeers_one hheld,
    if_pos (by simp [hfirst, hup1, hhost1]), ← hs]

theorem peersGoOn_of_coming (hheld : s.peerHeld = [x]) (hcome : x.coming ≠ 0) : peersGoOn s = s := by
  have hfirst : s.peerFirst x = false := by simp [State.peerFirst, hcome]
  have hask : s.peersAsk = s := by simp [State.peersAsk, hheld, hfirst]
  rw [peersGoOn, hask, hheld]
  exact (servePeers_one hheld).trans (if_neg (by simp [hfirst]))

/-- Nothing holds up a peer's read or write that meets nothing. -/
theorem peerHeldUp_of_free (hcells : x.cells = runCells x.addr bs) (hfree : LinkFree s x.addr bs)
    (hhomes : s.homesHeld x.addr bs.length = false) : s.peerHeldUp x = false := by
  obtain ⟨hheld, hedge, hpost⟩ := hfree
  simp [State.peerHeldUp, PeerReq.dwords, hcells, length_runCells, hheld, hedge, hpost, hhomes]

/-- A peer's read is answered with the bytes as they stand once the far atomics released before are applied. -/
theorem peerRequest_read (hhome : InHbm s addr p) (hfree : LinkFree s addr bs) (hhomes : s.homesHeld addr bs.length = false) :
    peerRequest s 0 src num 0 addr (runCells addr bs) v c =
      s.answer addr ((s.settled (runDwords addr bs.length)).readRun addr bs.length) := by
  have hup := peerHeldUp_of_free (x := ⟨0, src, num, 0, addr, runCells addr bs, v, c⟩) rfl hfree hhomes
  have hperform : s.peerPerform ⟨0, src, num, 0, addr, runCells addr bs, v, c⟩ =
      s.answer addr ((s.settled (runDwords addr bs.length)).readRun addr bs.length) := by
    simp [State.peerPerform, homePart_of_inHbm hhome, State.peerAccess, length_runCells]
  simp [peerRequest, numbered, hup, PeerReq.writes, hperform]

/-- A numbered request is held first. -/
theorem peerRequest_of_numbered {op coming : Nat} {cells : List Host.Cell} (h1 : 1 ≤ op) (h5 : op ≤ 5) (hheld : s.peerHeld = []) :
    peerRequest s op src num coming addr cells v c =
      peersGoOn { s with peerHeld := [⟨op, src, num, coming, addr, cells, v, c⟩] } := by
  have hnum : numbered op = true := by simp [numbered, h1, h5]
  rw [peerRequest, if_neg (by omega), if_neg (by omega), if_pos hnum, peerCame_of_empty hheld]
  dsimp only
  rw [hheld, List.nil_append]

/-- A peer's write of a line of HBM is one edge commit. -/
theorem peerRequest_write (hhome : InHbm s addr p) (hheld : s.peerHeld = []) (hne : bs ≠ [])
    (hline : lineOf (addr + (bs.length - 1)) = lineOf addr) (hfree : LinkFree s addr bs) (hhomes : s.homesHeld addr bs.length = false)
    (hhost : s.hostHolds (cellLines (runCells addr bs)) = false) :
    peerRequest s 1 src num 0 addr (runCells addr bs) v c = (s.edgeCommit p (runCells addr bs) false).answer addr [] := by
  have hempty : ({ s with peerHeld := [] } : State) = s := by rw [← hheld]
  rw [peerRequest_of_numbered le_rfl (by omega) hheld]
  have hup := peerHeldUp_of_free (x := ⟨1, src, num, 0, addr, runCells addr bs, v, c⟩) rfl hfree hhomes
  rw [peersGoOn_of_come rfl hup hhost, hempty]
  simp [State.peerPerform, homePart_of_inHbm hhome, State.peerAccess, splitLines_runCells hne hline]

/-- The last request that was waited for is reported lost: the one held is performed. -/
theorem peerRequest_lost (hheld : s.peerHeld = [x]) (hcome : x.coming = 1) (hnum : num < x.num)
    (hup : s.peerHeldUp { x with coming := 0 } = false) (hhost : s.hostHolds (cellLines x.cells) = false) :
    peerRequest s 8 x.src num 0 0 [] 0 0 = ({ s with peerHeld := [] } : State).peerPerform { x with coming := 0 } := by
  have hcame : s.peerCame x.src num = { s with peerHeld := [{ x with coming := 0 }] } := by
    simp [State.peerCame, hheld, hnum, hcome]
  rw [peerRequest, if_pos rfl, hcame]
  exact peersGoOn_of_come rfl hup hhost

end

end Sys2Proof.Machine

namespace Sys2Proof.Claims

open Sys2Proof.Machine

/-- Settles O58, request by request. -/
theorem hostAndPeerEvents : Obligations.HostAndPeerEvents := by
  intro s p addr hm haddr
  refine ⟨?reads, ?writes, ?hole, ?atomics, ?unsupported, ?peers, ?early, ?lost, ?modnum, ?givesUp⟩
  case reads =>
    intro len hheld hpost hhomes hbar
    have hread := hostRead_of_free hheld hpost hhomes hbar
    refine ⟨fun hhome hline hlen => ?_, fun hhole hlen => ?_⟩
    · have hall : (List.range len).all (fun i => (s.homePart (addr + i)).isSome) = true :=
        List.all_eq_true.mpr fun i hi => by rw [homePart_of_line hhome hline (List.mem_range.mp hi)]; rfl
      rw [if_pos hall] at hread
      exact ⟨_, goes_of_eq rfl hread, rfl, fun _ => rfl⟩
    · have hall : ¬ (List.range len).all (fun i => (s.homePart (addr + i)).isSome) = true := fun h => by
        simpa [hhole] using List.all_eq_true.mp h 0 (List.mem_range.mpr hlen)
      rw [if_neg hall] at hread
      exact goes_of_eq rfl hread
  case writes =>
    intro bs hne hhome hline hbar hfree
    have hwrite := (hostWrite_of_free hbar hfree hne hline).trans (hostLine_of_home hne (homePart_of_inHbm hhome))
    have hlt : addr + bs.length ≤ 2 ^ 52 := by unfold lineOf at hline; omega
    exact ⟨_, goes_of_eq rfl hwrite, edgeWritten_edgeCommit hm hlt⟩
  case hole =>
    intro v hhole hfree hbar
    have hne : [v] ≠ [] := List.cons_ne_nil v []
    have hwrite := (hostWrite_of_free (bs := [v]) hbar hfree hne rfl).trans (hostLine_of_hole hne hhole)
    obtain ⟨-, hbytes, hevents⟩ := mcheck_frame s s.firstPart 0 (BitVec.ofNat 64 addr)
    exact ⟨_, goes_of_eq rfl hwrite, hbytes, hevents⟩
  case atomics =>
    intro op n v c hhome hn ha hbar hheld haged hpost hslice hop
    obtain ⟨o, ho⟩ : ∃ o, linkOp op v c = some o := by
      obtain rfl | rfl | rfl : op = 0 ∨ op = 1 ∨ op = 2 := by omega
      all_goals exact ⟨_, rfl⟩
    have hlt : addr + n ≤ 2 ^ 52 := by omega
    have hnew := (settledVal_answer (s.edgeAtomic p addr n o true).1 addr (s.edgeAtomic p addr n o true).2 addr n).trans
      (settledVal_edgeAtomic hm hlt hn ha)
    obtain ⟨hadd, hswap, hcas⟩ := newWord_link (n := n) (w := s.settledVal addr n) ho
    exact ⟨_, goes_of_eq rfl (hostAtomic_of_free hhome ho hn ha hbar hheld haged hpost hslice), congrArg (· ++ _) edgeAtomic_answers,
      fun h => hnew.trans (hadd h), fun h => hnew.trans (hswap h), fun h => hnew.trans (hcas h)⟩
  case unsupported =>
    exact fun op n v c hop hbar hheld => goes_of_eq rfl (hostAtomic_unsupported hop hbar hheld)
  case peers =>
    intro src num bs v c hhome hheld hne hline hfree hhomes hhost
    have hlt : addr + bs.length ≤ 2 ^ 52 := by unfold lineOf at hline; omega
    refine ⟨⟨_, goes_of_eq rfl (peerRequest_read hhome hfree hhomes), fun _ => rfl, rfl⟩,
      ⟨_, goes_of_eq rfl (peerRequest_write hhome hheld hne hline hfree hhomes hhost), ?_, ?_, ?_⟩⟩
    · exact edgeWritten_answer (edgeWritten_edgeCommit hm hlt) ..
    · exact (State.edgeCommit_frame ..).2.2.1.trans hheld
    · exact congrArg (· ++ _) (State.edgeCommit_frame ..).2.1
  case early =>
    intro op src num coming bs v c h1 h5 hheld hcome
    exact goes_of_eq rfl ((peerRequest_of_numbered h1 h5 hheld).trans (peersGoOn_of_coming rfl hcome))
  case lost =>
    exact fun x num hheld hcome hnum hup hhost => goes_of_eq rfl (peerRequest_lost hheld hcome hnum hup hhost)
  case modnum =>
    refine fun n => ⟨fun hnone hn => goes_of_eq rfl (if_pos ⟨hnone, hn⟩), fun h => goes_of_eq rfl (if_neg fun h' => h h'.1)⟩
  case givesUp =>
    refine fun line => ⟨_, rfl, fun x hx => ?_, fun h => ?_, fun _ => rfl⟩
    · simpa using (List.mem_filter.mp hx).2
    · simpa using (List.mem_filter.mp h).2

end Sys2Proof.Claims
end

section

namespace Sys2Proof.Machine

open Claims

/-! ### The words of far atomics (R169) -/

section
variable {op : FarOp} {n u v w : Nat}

/-- A word of n bytes is known by its signed value. -/
theorem eq_of_signedOf_eq (hu : u < 2 ^ n) (hv : v < 2 ^ n) (h : signedOf n u = signedOf n v) : u = v := by
  unfold signedOf at h
  rw [Nat.mod_eq_of_lt hu, Nat.mod_eq_of_lt hv] at h
  split at h <;> split at h <;> omega

/-- A far atomic's new word fits the word. -/
theorem farInt_lt (hw : w < 2 ^ (8 * n)) (hv : v < 2 ^ (8 * n)) : farInt op n w v < 2 ^ (8 * n) := by
  cases op with
  | add | post => exact Nat.mod_lt _ (Nat.two_pow_pos _)
  | and => exact Nat.and_lt_two_pow _ hv
  | or => exact Nat.or_lt_two_pow hw hv
  | xor => exact Nat.xor_lt_two_pow hw hv
  | minU => exact Nat.lt_of_le_of_lt (Nat.min_le_left w v) hw
  | maxU => exact Nat.max_lt.mpr ⟨hw, hv⟩
  | minS | maxS => dsimp only [farInt]; split <;> assumption
  | fadd => exact hw

theorem farInt_comm (hop : op ≠ .fadd) (hu : u < 2 ^ (8 * n)) (hv : v < 2 ^ (8 * n)) : farInt op n u v = farInt op n v u := by
  have hties (h : signedOf (8 * n) u = signedOf (8 * n) v) : u = v := eq_of_signedOf_eq hu hv h
  cases op with
  | add | post => simp only [farInt, Nat.add_comm]
  | and => exact Nat.and_comm u v
  | or => exact Nat.or_comm u v
  | xor => exact Nat.xor_comm u v
  | minU => exact Nat.min_comm u v
  | maxU => exact Nat.max_comm u v
  | minS | maxS => dsimp only [farInt]; split <;> split <;> omega
  | fadd => exact absurd rfl hop

theorem farInt_assoc (hop : op ≠ .fadd) :
    farInt op n (farInt op n w u) v = farInt op n w (farInt op n u v) := by
  cases op with
  | add | post => simp only [farInt, Nat.mod_add_mod, Nat.add_mod_mod, Nat.add_assoc]
  | and => exact Nat.and_assoc w u v
  | or => exact Nat.or_assoc w u v
  | xor => exact Nat.xor_assoc w u v
  | minU => exact Nat.min_assoc w u v
  | maxU => exact Nat.max_assoc w u v
  | minS | maxS => grind [farInt]
  | fadd => exact absurd rfl hop

/-- Two operations of one kind on a word may change places. -/
theorem farInt_right_comm (hop : op ≠ .fadd) (hu : u < 2 ^ (8 * n)) (hv : v < 2 ^ (8 * n)) :
    farInt op n (farInt op n w u) v = farInt op n (farInt op n w v) u := by
  rw [farInt_assoc hop, farInt_assoc hop, farInt_comm hop hu hv]

end

/-! ### Combining (R173) -/

section
variable {f g : Far} {fs : List Far} {w : Nat}

theorem combines_iff : f.combines g = true ↔ f.pa = g.pa ∧ f.n = g.n ∧ f.op = g.op ∧ f.op ≠ .fadd := by
  simp [Far.combines, and_assoc]

/-- The operand of two combined is what the one makes of the other. -/
theorem toNat_combine (hf : FarFits f) (hg : g.v.toNat < 2 ^ (8 * f.n)) :
    (f.combine g).v.toNat = farInt f.op f.n f.v.toNat g.v.toNat := by
  obtain ⟨hv, -, hn⟩ := hf
  have hword : 2 ^ (8 * f.n) ≤ 2 ^ 64 := Nat.pow_le_pow_right (by decide) (by omega)
  exact Nat.mod_eq_of_lt (Nat.lt_of_lt_of_le (farInt_lt hv hg) hword)

/-- Operations on one word meet. -/
theorem meets_of_same_word (hn : f.n = 4 ∨ f.n = 8) (hpa : f.pa = g.pa) (hfn : f.n = g.n) : f.meets g.pa g.n = true := by
  rw [Far.meets, runsMeet, hpa, hfn, Bool.and_self, decide_eq_true]
  omega

theorem wordAfter_cons (pa n : Nat) (f : Far) (fs : List Far) (w : Nat) : wordAfter pa n (f :: fs) w =
    wordAfter pa n fs (if f.pa = pa ∧ f.n = n then farInt f.op n w f.v.toNat else w) := rfl

/-- What a far atomic makes of the word before those held makes the same of it behind them. -/
theorem wordAfter_farInt (hfs : ∀ f ∈ fs, FarFits f ∧ (f.meets g.pa g.n = true → f.combines g = true)) (hg : FarFits g) :
    wordAfter g.pa g.n fs (farInt g.op g.n w g.v.toNat) = farInt g.op g.n (wordAfter g.pa g.n fs w) g.v.toNat := by
  obtain ⟨hgv, hgop, -⟩ := hg
  induction fs generalizing w with
  | nil => rfl
  | cons f fs ih =>
    obtain ⟨⟨⟨hfv, -, hfn⟩, hmeet⟩, hfs⟩ := List.forall_mem_cons.mp hfs
    rw [wordAfter_cons, wordAfter_cons]
    by_cases hsame : f.pa = g.pa ∧ f.n = g.n
    · obtain ⟨-, -, hop, -⟩ := combines_iff.mp (hmeet (meets_of_same_word hfn hsame.1 hsame.2))
      rw [if_pos hsame, if_pos hsame, hop, farInt_right_comm hgop hgv (hsame.2 ▸ hfv)]
      exact ih hfs
    · rw [if_neg hsame, if_neg hsame]
      exact ih hfs

/-- Where each operation on the word combines with a new one, the new one comes behind them all. -/
theorem wordAfter_farPut (hfs : ∀ f ∈ fs, FarFits f ∧ (f.meets g.pa g.n = true → f.combines g = true)) (hg : FarFits g) :
    wordAfter g.pa g.n (farPut g fs) w = farInt g.op g.n (wordAfter g.pa g.n fs w) g.v.toNat := by
  induction fs generalizing w with
  | nil => simp [farPut, wordAfter]
  | cons f fs ih =>
    obtain ⟨⟨hf, hmeet⟩, htail⟩ := List.forall_mem_cons.mp hfs
    rw [farPut]
    split
    case isTrue hc =>
      obtain ⟨hpa, hn, hop, -⟩ := combines_iff.mp hc
      have ⟨hgv, hgop, _⟩ := hg
      have hword : farInt (f.combine g).op g.n w (f.combine g).v.toNat =
          farInt g.op g.n (farInt f.op g.n w f.v.toNat) g.v.toNat := by
        rw [toNat_combine hf (hn ▸ hgv), hop, hn, farInt_assoc hgop, Far.combine, hop]
      rw [wordAfter_cons, wordAfter_cons, if_pos ⟨hpa, hn⟩, if_pos ⟨hpa, hn⟩, hword, wordAfter_farInt htail hg]
    case isFalse hc =>
      exact ih htail

end

/-! ### The operations of the far atomics (R168-R173, R178) -/

section
variable {m m1 m2 m3 m4 : Mach} {l : Loc} {op : FarOp} {n : Nat} {rb ra : BitVec 6} {disp : BitVec 16}

/-- AFADD in deterministic mode is refused behind the check of R351. -/
theorem run_opFar_refused (ha : m.ar.arming = none) (hdet : m.ar.det = true) :
    (opFar .fadd n rb ra disp).run m = .error (.fault 0x08 0) m := by
  refine (run_bind_ok (run_notArming ha)).trans ((run_bind_ok (run_get m)).trans (run_bind_error ?_))
  rw [hdet]
  rfl

/-- Two parts that run unless a condition holds, before the rest. -/
theorem run_unless {b : Bool} {p q rest : M Unit} (h : if b then m2 = m1 else Gives (do p; q) m1 () m2) :
    (if !b then do p; q; rest else rest).run m1 = rest.run m2 := by
  cases b with
  | true => cases h; rfl
  | false =>
    obtain ⟨⟨⟩, m', hp, hq⟩ := bind_ok h
    exact (run_bind_ok hp).trans (run_bind_ok hq)

/-- The far atomic that an instruction puts into its chunk. -/
def farOf (m : Mach) (l : Loc) (op : FarOp) (n : Nat) (rb : BitVec 6) (va : Word) : Far where
  pa := l.pa
  n := n
  op := op
  v := lowOf m.ar rb n
  va := va

/-- A far atomic joins those of its chunk. -/
def joinFar (g : Far) (m : Mach) : Mach :=
  { m with ch := { m.ch with fars := farPut g m.ch.fars, stores := m.ch.stores ++ [(m.ch.count, g.pa, g.va)] } }

theorem run_opFar (ha : m.ar.arming = none) (hdet : op = .fadd → m.ar.det = false) (hal : (memAddr m ra disp).toNat % n = 0)
    (hl : Gives (locateAtom .store (memAddr m ra disp) (decide (op = .add) || decide (op = .post))) m l m1)
    (hfold : if (m.ch.fars.filter fun f => f.meets l.pa n).all fun f => f.combines (farOf m l op n rb (memAddr m ra disp)) then m2 = m1
      else Gives (do waitFars l.pa n; foldFars l n) m1 () m2)
    (hh : Gives (holdLine (memAddr m ra disp) (lineOf l.pa)) m2 () m3) (hn : Gives (noteAtomic l) m3 () m4) :
    (opFar op n rb ra disp).run m = .ok () (joinFar (farOf m l op n rb (memAddr m ra disp)) m4) := by
  have hmay : (decide (op = .fadd) && m.ar.det) = false := by
    by_cases hop : op = .fadd
    · rw [hdet hop, Bool.and_false]
    · rw [decide_eq_false hop, Bool.false_and]
  have hfault : (faultIf (decide (op = .fadd) && m.ar.det) 0x08 0).run m = .ok ⟨⟩ m := by rw [hmay, run_faultIf_false]
  have hrest : (do
      holdLine (memAddr m ra disp) (lineOf l.pa)
      noteAtomic l
      modify (joinFar (farOf m l op n rb (memAddr m ra disp))) : M Unit).run m2 =
        .ok () (joinFar (farOf m l op n rb (memAddr m ra disp)) m4) :=
    (run_bind_ok hh).trans ((run_bind_ok hn).trans (run_modify ..))
  refine (run_bind_ok (run_notArming ha)).trans ((run_bind_ok (run_get m)).trans ((run_bind_ok hfault).trans
    ((run_bind_ok (run_needAligned hal m)).trans ((run_bind_ok hl).trans ?_))))
  exact (run_unless hfold).trans hrest

end

/-! ### The operations of the value-returning atomics (R175-R177) -/

section
variable {m m1 m2 m3 : Mach} {l : Loc} {d : BitVec 6} {n : Nat} {va : Mach → Word} {op : Mach → AtomOp}

/-- What a value-returning atomic leaves to its home. -/
def leavesAtom (l : Loc) (va : Word) (n : Nat) (op : AtomOp) (d : BitVec 6) (m : Mach) : Mach :=
  { m with ch := { m.ch with atom := some { pa := l.pa, va, n, op, d }, stores := m.ch.stores ++ [(m.ch.count, l.pa, va)] } }

theorem run_opAtomic (ha : m.ar.arming = none) (hc : m.ch.count = 0) (hdet : m.ar.det = false)
    (hal : (va (endsAs .alone m)).toNat % n = 0)
    (hl : Gives (locateAtom .store (va (endsAs .alone m)) true) (endsAs .alone m) l m1) (hr : Gives (noteRead l) m1 () m2)
    (hw : Gives (noteWrite l) m2 () m3) :
    (opAtomic d n va op).run m = .ok () (leavesAtom l (va (endsAs .alone m)) n (op (endsAs .alone m)) d m3) := by
  have hfault : (faultIf (endsAs .alone m).ar.det 0x08 0).run (endsAs .alone m) = .ok ⟨⟩ (endsAs .alone m) := by
    rw [show (endsAs .alone m).ar.det = false from hdet, run_faultIf_false]
  refine (run_beginAlone ha hc).trans ((run_bind_ok (run_get _)).trans ((run_bind_ok hfault).trans
    ((run_bind_ok (run_needAligned hal _)).trans ((run_bind_ok hl).trans ((run_bind_ok hr).trans ((run_bind_ok hw).trans ?_))))))
  exact run_onChunk ..

/-- A value-returning atomic in deterministic mode is refused behind the checks of R351 and R99. -/
theorem run_opAtomic_refused (ha : m.ar.arming = none) (hc : m.ch.count = 0) (hdet : m.ar.det = true) :
    (opAtomic d n va op).run m = .error (.fault 0x08 0) (endsAs .alone m) := by
  refine (run_beginAlone ha hc).trans ((run_bind_ok (run_get _)).trans (run_bind_error ?_))
  rw [show (endsAs .alone m).ar.det = true from hdet, run_faultIf_true]

end

/-! ### The guard commands (R180, R181) -/

/-- What DGUARD answers for a guard, over the guards that its chunk sees (R180). -/
def guardAnswer (l : List Guard) (g : Guard) : Nat :=
  if guardMax ≤ l.length || guardCrewMax ≤ (l.filter fun h => h.crew = g.crew).length then 0
  else if l.any fun h => h.crew ≠ g.crew && g.meets h then 2 else 1

section
variable {l : List Guard} {g : Guard}

/-- The guard table, or the crew's share of it, is full (R180). -/
theorem guardsFull_iff : (decide (guardMax ≤ l.length) || decide (guardCrewMax ≤ (l.filter fun h => h.crew = g.crew).length)) = true ↔
    256 ≤ l.length ∨ 16 ≤ (l.filter fun h => h.crew = g.crew).length := by
  rw [Bool.or_eq_true, decide_eq_true_iff, decide_eq_true_iff]
  rfl

theorem guardAnswer_full (h : 256 ≤ l.length ∨ 16 ≤ (l.filter fun h => h.crew = g.crew).length) : guardAnswer l g = 0 :=
  if_pos (guardsFull_iff.mpr h)

theorem guardAnswer_other (hroom : ¬ (256 ≤ l.length ∨ 16 ≤ (l.filter fun h => h.crew = g.crew).length))
    (h : ∃ h ∈ l, h.crew ≠ g.crew ∧ g.meets h = true) : guardAnswer l g = 2 :=
  (if_neg (mt guardsFull_iff.mp hroom)).trans (if_pos (by simpa using h))

theorem guardAnswer_recorded (hroom : ¬ (256 ≤ l.length ∨ 16 ≤ (l.filter fun h => h.crew = g.crew).length))
    (h : ¬ ∃ h ∈ l, h.crew ≠ g.crew ∧ g.meets h = true) : guardAnswer l g = 1 :=
  (if_neg (mt guardsFull_iff.mp hroom)).trans (if_neg (by simpa using h))

end

section
variable {m m1 m2 : Mach} {g : Guard} {d rb ra : BitVec 6}

/-- DGUARD puts its answer, and carries its guard where that is recorded. -/
theorem run_opDguard {a : Nat} (hg : Gives (guardRange rb ra) m g m1) (ha : guardAnswer (guardView m1) g = a)
    (hn : Gives (noteGuardTable (decide (a = 1))) m1 () m2) :
    (opDguard d rb ra).run m = .ok () (putX d (BitVec.ofNat 64 a) (if a = 1 then carry (.guardAdd g) m2 else m2)) := by
  subst ha
  refine (run_bind_ok hg).trans ((run_bind_ok (run_get m1)).trans ((run_bind_ok hn).trans ?_))
  change (if guardAnswer (guardView m1) g = 1 then _ else _ : M Unit).run m2 = _
  split <;> rfl

theorem run_opDgend (hg : Gives (guardRange rb ra) m g m1) (hn : Gives (noteGuardTable true) m1 () m2) :
    (opDgend rb ra).run m = .ok () (carry (.guardDel g) m2) :=
  (run_bind_ok hg).trans ((run_bind_ok hn).trans (run_emit ..))

end

end Sys2Proof.Machine

namespace Sys2Proof.Claims

open Sys2Proof.Machine

/-! ### Far atomics and value-returning atomics (R168-R178) -/

theorem exec_of_farForm {i : Instr} {op : FarOp} {n : Nat} {rb ra : BitVec 6} {disp : BitVec 16}
    (h : farForm i = some (op, n, rb, ra, disp)) (s : State) : exec i s = runHead s (opFar op n rb ra disp) := by
  cases i with
  | aadd | aand | aor | axor | amin | amax | afadd | spost => cases h; rfl
  | _ => cases h

/-- The operation that a value-returning atomic stands for, its request that of its registers. -/
theorem exec_of_atomForm {ar : Arch} {i : Instr} {d : BitVec 6} {n : Nat} {ra : BitVec 6} {disp : BitVec 16} {op : AtomOp}
    (h : atomForm ar i = some (d, n, ra, disp, op)) (s : State) : ∃ f : Mach → AtomOp, (∀ m, m.ar = ar → f m = op) ∧
      exec i s = runHead s (opAtomic d n (fun m => memAddr m ra disp) f) := by
  cases i with
  | xadd | xchg | cas => cases h; exact ⟨_, fun m hm => hm ▸ rfl, rfl⟩
  | _ => cases h

theorem farAtomicResults : FarAtomicResults := by
  intro s tid t i op n rb ra disp hb ha hform hdet va hal l m1 m2 m3 m4 hl g hfold hh hn
  have hva : memAddr (found s tid t) ra disp = va := memAddr_eq_addrM ..
  rw [← hva] at hal hl hh
  have hrun := run_opFar (m := found s tid t) (rb := rb) ha hdet hal hl (by rw [hva]; exact hfold) hh hn
  rw [hva] at hrun
  exact hb.retires (exec_of_farForm hform s) hrun

theorem farCombining : FarCombining := fun _ _ _ hfs hg _ => wordAfter_farPut hfs hg

theorem valueAtomicResults : ValueAtomicResults := by
  intro s tid t i d n ra disp op hb ha hf hdet hform va hal l m1 m2 m3 hl hr hw
  obtain ⟨f, hop, hexec⟩ := exec_of_atomForm hform s
  have hva : memAddr (endsAs .alone (found s tid t)) ra disp = va := memAddr_eq_addrM ..
  have hrun := run_opAtomic (m := found s tid t) (d := d) (va := fun m => memAddr m ra disp) (op := f) ha hf hdet
    (hva ▸ hal) (hva ▸ hl) hr hw
  rw [hva, hop _ rfl] at hrun
  exact hb.retires hexec hrun

/-- Settles O10: each form by its operation behind the checks, and combining by the algebra of the operations on a word. -/
theorem atomicResults : Obligations.AtomicResults := ⟨farAtomicResults, farCombining, valueAtomicResults⟩

/-! ### What a deterministic thread may not execute, and guards (R168, R175, R180, R181) -/

section
variable {s : State} {tid : Nat} {t : Thread} {i : Instr} {op : M Unit}

/-- A fault of a deterministic thread's first head, with nothing older in flight, is taken at its turn and waits before (R366). -/
theorem Begins.faults_at_turn {m : Mach} {cause : Nat} {v : Word} (hb : Begins s tid t) (hf : First s t) (ho : t.older = [])
    (hdet : t.arch.det = true) (he : exec i s = runHead s op) (hst : m.st = here s) (har : m.ar = t.arch)
    (h : op.run (found s tid t) = .error (.fault cause v) m) :
    exec i s = .next (if t.pending = some .turn then takeTrap (here s) tid { t with chunks := [] } cause v
      else (here s).setThread tid { t with chunks := [], pending := some (.trap cause v) }) := by
  have hstop : exec i s = .next (headFault (here s) tid t (t.current (here s)) cause v) := by
    obtain ⟨hi, t0, ht, hw, rfl⟩ := hb
    have hexec := he.trans (runHead_error hi ht hw h)
    rw [unissue_of_ne (by simp), hst, har] at hexec
    exact hexec
  rw [hstop]
  split
  case isTrue hturn => rw [headFault_of_first hf ho (.inr hturn)]
  case isFalse hturn =>
    have hn : ¬ TakesNow t := by simp [TakesNow, hdet, hturn]
    have hc : ¬ 0 < (t.current (here s)).count := Nat.not_lt.mpr (Nat.le_of_eq hf)
    rw [headFault_off_turn hn, if_neg hc, ho]

end

theorem deterministicRefusals : DeterministicRefusals := by
  intro s tid t i hb ha hf ho hdet hform
  obtain ⟨n, rb, ra, disp, hfar⟩ | hatom := hform
  · exact hb.faults_at_turn hf ho hdet (exec_of_farForm hfar s) rfl rfl (run_opFar_refused ha hdet)
  · obtain ⟨⟨d, n, ra, disp, op⟩, hatom⟩ := Option.isSome_iff_exists.mp hatom
    obtain ⟨f, -, hexec⟩ := exec_of_atomForm hatom s
    exact hb.faults_at_turn hf ho hdet hexec rfl rfl (run_opAtomic_refused ha hf hdet)

theorem guardCommands : GuardCommands := by
  intro s tid t d rb ra g m hb hg l full other
  refine ⟨fun m1 hroom hfree hn => ?recorded, fun m1 hfull hn => ?full, fun m1 hroom hmeet hn => ?other, fun m1 hn => ?release⟩
  case recorded => exact hb.retires rfl (run_opDguard hg (guardAnswer_recorded hroom hfree) hn)
  case full => exact hb.retires rfl (run_opDguard hg (guardAnswer_full hfull) hn)
  case other => exact hb.retires rfl (run_opDguard hg (guardAnswer_other hroom hmeet) hn)
  case release => exact hb.retires rfl (run_opDgend hg hn)

/-- Settles O11: the refused heads stop with their fault at the check of their mode, and a guard command does what its answer
says. -/
theorem guardResults : Obligations.GuardResults := ⟨deterministicRefusals, guardCommands⟩

end Sys2Proof.Claims
end

section

namespace Sys2Proof.Machine

open Claims

/-! ### The results of a group, with their flags (R190, R212, R214) -/

section
variable (g : Shape) (w count : Nat) (f : Nat → Nat × BitVec 5)

/-- The flags of the results are those that the active elements raise. -/
theorem flagsOf_results_eq_flagsRaised : flagsOf (g.results w count f) = flagsRaised g (count * 512 / w) f := by
  rw [flagsOf, Shape.results, flagsRaised, List.foldl_map, List.foldl_filter]
  congr 1
  funext acc k
  cases g.active k <;> rfl

/-- What merging writes depends on the values of the results alone. -/
theorem merge_results_fst (a : Arch) (v : Nat) :
    g.merge a v w (g.results w count f) = g.merge a v w (g.results w count fun k => ((f k).1, 0)) := by
  refine List.ext_getElem (by simp [Shape.merge, Shape.results]) fun k _ _ => ?_
  simp only [Shape.merge, Shape.results, List.getElem_map, List.getElem_zipIdx, List.getElem_range]
  cases g.active k <;> rfl

theorem run_putGroup_raising (m : Mach) (d : BitVec 5) : (putGroup d g w count f).run m =
    .ok () (raising (flagsRaised g (count * 512 / w) f) (onAr (fun a => groupWith a g d w count fun k => (f k).1) m)) := by
  refine (run_bind_ok (run_get m)).trans ((run_bind_ok (run_onArch _ m)).trans ?_)
  rw [flagsOf_results_eq_flagsRaised, merge_results_fst, merge_results]
  rfl

end

/-! ### Operations on groups -/

theorem stepSr_eq_steppedSr (a : Arch) (rm : BitVec 3) : a.stepSr rm.toNat = steppedSr rm a := by
  have hdyn : rm.toNat = 6 ↔ rm = 6 := BitVec.toNat_inj (y := 6)
  simp only [Arch.stepSr, Arch.mode, Arch.rmDyn, steppedSr, hdyn]

/-- An operation that steps srctr where it has a rounding field (R189). -/
def steppingSr (rm : Option (BitVec 3)) (op : M Unit) : M Unit :=
  match rm with
  | none => op
  | some rm => do
    op
    onArch fun ar => ar.stepSr rm.toNat

section
variable {m : Mach}

theorem run_steppingSr {rm : Option (BitVec 3)} {op : M Unit} {m' : Mach} (h : op.run m = .ok () m') :
    (steppingSr rm op).run m = .ok () (onAr (rm.elim id steppedSr) m') := by
  cases rm with
  | none => exact h
  | some rm =>
    refine (run_bind_ok h).trans ?_
    rw [run_onArch, stepSr_eq_steppedSr]
    rfl

variable (ha : m.ar.arming = none) (hv : vecAllowed m.ar = true)
include ha hv

/-- A vector instruction outside an arming, with vector state granted and its groups in the allotment, passes its checks. -/
theorem run_vecChecks {gs : List (BitVec 5 × Nat)} (hfit : ∀ g ∈ gs, g.1.toNat + g.2 ≤ m.vregs) :
    (vecChecks gs).run m = .ok () m :=
  (run_bind_ok (run_needGroups hfit)).trans ((run_bind_ok (run_notArming ha)).trans (run_needVec hv))

theorem run_opLanes {w : Nat} {p : BitVec 6} {d : BitVec 5} {srcs : List (BitVec 5)} {f : Arch → Shape → Nat → Nat × BitVec 5}
    {g : Shape} {val : Nat → Nat × BitVec 5} (hg : g = shapeOf m.ar p w) (hval : f m.ar g = val)
    (hfit : ∀ x ∈ (srcs ++ [d]).map fun v => (v, g.nreg), x.1.toNat + x.2 ≤ m.vregs) :
    (opLanes w p d srcs f).run m = .ok () (raising (flagsRaised g (g.nreg * 512 / w) val)
      (onAr (fun a => groupWith a g d w g.nreg fun k => (val k).1) m)) := by
  subst hg hval
  exact (run_bind_ok (run_get m)).trans ((run_bind_ok (run_vecChecks ha hv hfit)).trans (run_putGroup_raising ..))

theorem run_opConv {t u : Nat} {p : BitVec 6} {d a : BitVec 5} {more : Shape → List (BitVec 5 × Nat)}
    {f : Arch → Nat → Nat → Nat × BitVec 5} {g : Shape} {ww nd : Nat} {val : Nat → Nat × BitVec 5}
    (hw : ww = max (typeBits t) (typeBits u)) (hg : g = shapeOf m.ar p ww) (hn : nd = narrowRegs g.nreg (typeBits u) ww)
    (hval : (fun k => f m.ar k (m.ar.lane a.toNat (typeBits t) k)) = val)
    (hfit : ∀ x ∈ (a, narrowRegs g.nreg (typeBits t) ww) :: (d, nd) :: more g, x.1.toNat + x.2 ≤ m.vregs) :
    (opConv t u p d a more f).run m = .ok () (raising (flagsRaised g (nd * 512 / typeBits u) val)
      (onAr (fun a => groupWith a g d (typeBits u) nd fun k => (val k).1) m)) := by
  subst hw hg hn hval
  exact (run_bind_ok (run_get m)).trans ((run_bind_ok (run_vecChecks ha hv hfit)).trans (run_putGroup_raising ..))

theorem run_opFpack {d a p c : BitVec 5} {t et : BitVec 4} {rm : BitVec 3} {f : Fmt} {we nb : Nat} {g : Shape}
    {bs : List (Nat × List Nat × BitVec 5)} {m' : Mach} (hf : f = fmtOf t.toNat) (hwe : we = typeBits et.toNat)
    (hg : g = shapeOf m.ar (p.setWidth 6) f.bits) (hnb : nb = scaleBlocks g.nreg f.bits)
    (hbs : bs = (List.range nb).map (packBlock et.toNat (m.ar.rnd rm.toNat false) fun k =>
      if g.active k then some (m.ar.fval f a k) else none))
    (hfit : ∀ x ∈ [(a, g.nreg), (d, packedRegs nb we), (c, 1)], x.1.toNat + x.2 ≤ m.vregs)
    (hm : Gives (freeOverlap d.toNat (packedRegs nb we) c.toNat 1)
      (raising (bs.foldl (fun acc b => acc ||| b.2.2) 0) (onAr (fun ar => steppedSr rm
        ((ar.putElems d.toNat we (bs.flatMap fun b => b.2.1) (packedRegs nb we)).putElems c.toNat 8 (bs.map Prod.fst) 1)) m)) () m') :
    (opFpack d t a rm p c et).run m = .ok () m' := by
  subst hf hwe hg hnb hbs
  simp only [← stepSr_eq_steppedSr] at hm
  exact (run_bind_ok (run_get m)).trans ((run_bind_ok (run_vecChecks ha hv hfit)).trans ((run_bind_ok (run_onArch _ m)).trans
    ((run_bind_ok (run_onChunk ..)).trans hm)))

theorem run_opFunpk {d a c : BitVec 5} {t et : BitVec 4} {sat : BitVec 1} {rm : BitVec 3} {p : BitVec 6} {f : Fmt} {we : Nat}
    {g : Shape} {val : Nat → Nat × BitVec 5} (hf : f = fmtOf t.toNat) (hwe : we = typeBits et.toNat)
    (hg : g = shapeOf m.ar p f.bits)
    (hval : val = fun k => blockScaled f (m.ar.rnd rm.toNat (sat == 1) k) (m.ar.lane c.toNat 8 (k / 32))
      (unpackElem et.toNat (m.ar.lane a.toNat we k)))
    (hfit : ∀ x ∈ [(a, packedRegs (scaleBlocks g.nreg f.bits) we), (d, g.nreg), (c, 1)], x.1.toNat + x.2 ≤ m.vregs) :
    (opFunpk d t a sat rm p c et).run m = .ok () (raising (flagsRaised g (g.nreg * 512 / f.bits) val)
      (onAr (fun ar => steppedSr rm (groupWith ar g d f.bits g.nreg fun k => (val k).1)) m)) := by
  subst hf hwe hg hval
  exact (run_bind_ok (run_get m)).trans ((run_bind_ok (run_vecChecks ha hv hfit)).trans
    (run_steppingSr (rm := some rm) (run_putGroup_raising ..)))

end

/-! ### Elements of the integer mould, as the manual writes them (R227, R228, R230) -/

section
variable (t : BitVec 3)

theorem typeBits_eq_two_pow : typeBits t.toNat = 8 * 2 ^ (t.toNat % 4) := by decide +revert

theorem wrapOr_eq_clampTo (sat : BitVec 1) (x : Int) : wrapOr sat t.toNat x = clampTo sat t.toNat x := by
  simp only [wrapOr, clampTo, patternOf, intMin, intMax, typeSigned, typeBits_eq_two_pow, decide_eq_true_eq]

end

/-- The quotient by m of a number modulo m². -/
theorem emod_mul_self_ediv {m : Int} (hm : 0 < m) (x : Int) : x % (m * m) / m = x / m % m := by
  have hsplit : x % (m * m) = x + m * -(m * (x / m / m)) := by
    rw [Int.emod_def, ← Int.ediv_ediv_of_nonneg hm.le]
    ring
  rw [hsplit, Int.add_mul_ediv_left _ _ hm.ne', Int.emod_def, Int.sub_eq_add_neg]

/-- The high half of a pattern of twice n bits (R228, VMULH). -/
theorem patternOf_two_mul_div (n : Nat) (x : Int) :
    patternOf (2 * n) x / 2 ^ n = (x / (2 ^ n : Nat) % (2 ^ n : Nat)).toNat := by
  have hpos : (0 : Int) < (2 ^ n : Nat) := Int.natCast_pos.mpr (Nat.two_pow_pos n)
  obtain ⟨y, hy⟩ := Int.eq_ofNat_of_zero_le (Int.emod_nonneg x (Int.mul_pos hpos hpos).ne')
  rw [← emod_mul_self_ediv hpos, hy, patternOf, two_mul, pow_add, Nat.cast_mul, hy]
  rfl

/-- The place that VSLIDE reads, where it lies in the group (R230). -/
theorem slide_eq (lane : Nat → Nat) (n k sh : Nat) (up : BitVec 1) :
    (if up = 1 then (if sh ≤ k ∧ k - sh < n then lane (k - sh) else 0) else (if k + sh < n then lane (k + sh) else 0)) =
      (let j : Int := if up = 1 then (k : Int) - sh else k + sh
       if 0 ≤ j ∧ j < n then lane j.toNat else 0) := by
  by_cases hup : up = 1
  · simp only [if_pos hup]
    by_cases hle : sh ≤ k
    · obtain ⟨j, rfl⟩ := Nat.exists_eq_add_of_le hle
      simp
    · rw [if_neg (by omega), if_neg (by omega)]
  · have hj : (0 ≤ ((k + sh : Nat) : Int) ∧ ((k + sh : Nat) : Int) < n) ↔ k + sh < n := by omega
    simp only [if_neg hup, ← Nat.cast_add, hj, Int.toNat_natCast]

end Sys2Proof.Machine

namespace Sys2Proof.Claims

open Sys2Proof.Machine

/-- The operation that an element instruction stands for, with the results of its elements. -/
def LaneOp.runs (x : LaneOp) (i : Instr) (s : State) (a : Arch) : Prop :=
  ∃ f : Arch → Shape → Nat → Nat × BitVec 5, (∀ g, f a g = x.val g) ∧
    exec i s = runHead s (steppingSr x.rm (opLanes x.w x.p x.d x.srcs f))

/-- The operation that a conversion stands for, with the results of its elements. -/
def ConvOp.runs (x : ConvOp) (i : Instr) (s : State) (a : Arch) : Prop :=
  ∃ f : Arch → Nat → Nat → Nat × BitVec 5, (fun k => f a k (a.lane x.a.toNat (typeBits x.t) k)) = x.val ∧
    exec i s = runHead s (steppingSr x.rm (opConv x.t x.u x.p x.d x.a x.more f))

section
variable {s : State} {a : Arch} {i : Instr} {d ra : BitVec 5} {p : BitVec 6} {x : LaneOp}

/-- An instruction of the integer mould, from the result of two elements. -/
theorem intLane_runs {t : BitVec 3} {b : BitVec 6} {vx : BitVec 1} {op : Nat → Nat → Nat → Nat} {f : Nat → Nat → Nat}
    (h : laneOp a i = some x) (hl : laneOp a i = intLane a d t b ra vx p f) (he : exec i s = runHead s (opInt d t b ra vx p op))
    (hf : ∀ u v, op t.toNat u v = f u v) : x.runs i s a := by
  cases hl.symm.trans h
  obtain rfl : op t.toNat = f := funext₂ hf
  unfold LaneOp.runs
  simp only [← typeBits_eq_two_pow]
  exact ⟨_, fun _ => rfl, he⟩

end

theorem laneOp_runs {a : Arch} {i : Instr} {x : LaneOp} (h : laneOp a i = some x) (s : State) : x.runs i s a := by
  cases i with
  | vadd | vsub => exact intLane_runs h rfl rfl fun _ _ => wrapOr_eq_clampTo ..
  | vmul d t b ra vx p => exact intLane_runs h rfl rfl fun _ _ => by rw [typeBits_eq_two_pow]
  | vmulh d t b ra vx p => exact intLane_runs h rfl rfl fun _ _ => by rw [patternOf_two_mul_div, typeBits_eq_two_pow]
  | vand | vor | vxor => exact intLane_runs h rfl rfl fun _ _ => rfl
  | vshl d t b ra vx p => exact intLane_runs h rfl rfl fun _ _ => by rw [typeBits_eq_two_pow]
  | vshr d t b ra vx p =>
    have hl : laneOp a (.vshr d t b ra vx p) = intLane a d t b ra vx p fun x y =>
      clampTo 0 t.toNat (intOf t.toNat x / (2 ^ (y % (8 * 2 ^ (t.toNat % 4))) : Nat)) := rfl
    exact intLane_runs h hl rfl fun _ _ => by rw [← typeBits_eq_two_pow, ← wrapOr_eq_clampTo]; rfl
  | vmin | vmax => exact intLane_runs h rfl rfl fun _ _ => rfl
  | vslide d t b ra up p =>
    cases h
    exact ⟨_, fun g => funext fun k => congrArg (·, 0) (slide_eq ..), rfl⟩
  | vsel d t b ra p c =>
    cases h
    have hlane (k : Nat) := apply_ite (fun v : BitVec 5 => a.lane v.toNat (typeBits t.toNat) k) ((a.getM c).getLsbD (k % 64)) ra b
    exact ⟨_, fun g => funext fun k => congrArg (·, 0) (hlane k).symm, rfl⟩
  | vmov | vperm => cases h; exact ⟨_, fun _ => rfl, rfl⟩
  | fadd | fsub | fmul | fma => cases h; exact ⟨_, fun _ => rfl, rfl⟩
  | fmin | fmax | fsgn => cases h; exact ⟨_, fun _ => rfl, rfl⟩
  | _ => cases h

theorem convOp_runs {a : Arch} {i : Instr} {x : ConvOp} (h : convOp a i = some x) (s : State) : x.runs i s a := by
  cases i with
  | fcvt | fcvti | icvtf | frint | fclass | fscl => cases h; exact ⟨_, rfl, rfl⟩
  | _ => cases h

theorem vectorElements : VectorElements := by
  intro s tid t i x hb hfree hx g hfit
  obtain ⟨ha, hv⟩ := hfree
  obtain ⟨f, hval, hexec⟩ := laneOp_runs hx s
  exact hb.retires hexec (run_steppingSr (run_opLanes (m := found s tid t) ha hv rfl (hval g) hfit))

theorem conversionResults : ConversionResults := by
  intro s tid t i x hb hfree hx ww g na nd hfit
  obtain ⟨ha, hv⟩ := hfree
  obtain ⟨f, hval, hexec⟩ := convOp_runs hx s
  exact hb.retires hexec (run_steppingSr (run_opConv (m := found s tid t) ha hv rfl rfl rfl hval hfit))

/-- Settles O16: each element instruction and conversion is one operation on groups, with the results that the tables give. -/
theorem elementResults : Obligations.ElementResults := ⟨vectorElements, conversionResults⟩

/-- Settles O17: behind the common checks, each block by its elements and its scale. -/
theorem blockFormatResults : Obligations.BlockFormatResults := by
  intro s tid t d ty a sat rm p5 c p et hb hfree f we
  obtain ⟨ha, hv⟩ := hfree
  refine ⟨fun hfit m hm => ?pack, fun hfit => ?unpack⟩
  case pack => exact hb.retires rfl (run_opFpack (m := found s tid t) ha hv rfl rfl rfl rfl rfl hfit hm)
  case unpack => exact hb.retires rfl (run_opFunpk (m := found s tid t) ha hv rfl rfl rfl rfl hfit)

end Sys2Proof.Claims
end

section

namespace Sys2Proof.Machine

open Claims

/-! ### Spans and masks (R225, R226) -/

section
variable {m : Mach} (ha : m.ar.arming = none) (hv : vecAllowed m.ar = true)
include ha hv

theorem run_opMask (d : BitVec 3) (f : Arch → Word) :
    (opMask d f).run m = .ok () (onAr (fun a => a.setM d (f m.ar)) m) :=
  (run_bind_ok (run_notArming ha)).trans (run_bind_ok (run_needVec hv))

theorem run_opMaskTo (d : BitVec 6) (f : Arch → Word) : (opMaskTo d f).run m = .ok () (putX d (f m.ar) m) :=
  (run_bind_ok (run_notArming ha)).trans ((run_bind_ok (run_needVec hv)).trans (run_bind_ok (run_get m)))

theorem run_opVspan (d z : BitVec 2) (a : BitVec 6) (n : BitVec 3) : (opVspan d z a n).run m =
    .ok () (onAr (fun ar => ar.setS d (BitVec.ofNat 64 ((n.toNat - 1) * 2 ^ 11 + z.toNat * 2 ^ 9 +
      min (m.ar.getX a).toNat (n.toNat * 64 / 2 ^ z.toNat)))) m) :=
  (run_bind_ok (run_notArming ha)).trans ((run_bind_ok (run_needVec hv)).trans (run_bind_ok (run_get m)))

end

/-- The elements of a width code that a span's registers hold (R225). -/
theorem spanElems_eq (n z : Nat) : n * 64 / 2 ^ z = 512 * n / (8 * 2 ^ z) := by
  rw [show 512 * n = 8 * (n * 64) by ring, Nat.mul_div_mul_left _ _ (by norm_num)]

section
variable (ar : Arch) (d : BitVec 3) (j : BitVec 2)

theorem testedNum_le : testedNum ar j ≤ 64 := by
  unfold testedNum
  split
  · exact le_rfl
  · exact min_le_right ..

theorem popcOf_testedBits : popcOf 64 (testedBits ar d j) = (List.range (testedNum ar j)).countP (tested ar d) := by
  obtain ⟨k, hk⟩ := Nat.exists_eq_add_of_le (testedNum_le ar j)
  have hlow : (List.range (testedNum ar j)).countP (testedBits ar d j).testBit =
      (List.range (testedNum ar j)).countP (tested ar d) :=
    List.countP_congr fun i hi => by rw [testBit_testedBits ar d j (List.mem_range.mp hi)]
  have hhigh : ((List.range k).map (testedNum ar j + ·)).countP (testedBits ar d j).testBit = 0 := by
    refine List.countP_eq_zero.mpr fun i hi => ?_
    obtain ⟨l, -, rfl⟩ := List.mem_map.mp hi
    rw [Nat.testBit_lt_two_pow ((testedBits_lt ar d j).trans_le (Nat.pow_le_pow_right (by decide) (Nat.le_add_right ..)))]
    exact Bool.false_ne_true
  unfold popcOf
  rw [hk, List.range_add, List.countP_append, hlow, hhigh, Nat.add_zero]

theorem firstOf_testedBits : firstOf (testedBits ar d j) (testedCount ar j) = stepsUntil (testedNum ar j) (tested ar d) := by
  rw [testedCount_eq_testedNum, firstOf]
  cases h : (List.range (testedNum ar j)).find? (testedBits ar d j).testBit with
  | none =>
    refine (stepsUntil_eq_of_none fun i hi => ?_).symm
    rw [← testBit_testedBits ar d j hi]
    simpa using List.find?_range_eq_none.mp h i hi
  | some k =>
    obtain ⟨hbit, hmem, hlow⟩ := List.find?_range_eq_some.mp h
    have hk := List.mem_range.mp hmem
    refine (stepsUntil_eq_of_first hk ?_ fun i hi => ?_).symm
    · rwa [← testBit_testedBits ar d j hk]
    · rw [← testBit_testedBits ar d j (hi.trans hk)]
      simpa using hlow i hi

end

/-! ### Results in a mask register (R213) -/

theorem flagsOf_map_active (g : Shape) (l : List Nat) (f : Nat → Nat × BitVec 5) :
    flagsOf (l.map fun k => if g.active k then some (f k) else none) =
      (l.filter g.active).foldl (fun acc k => acc ||| (f k).2) 0 := by
  rw [flagsOf, List.foldl_map, List.foldl_filter]
  congr 1
  funext acc k
  cases g.active k <;> rfl

/-- The bit of a mask register, as a number. -/
theorem toNat_div_two_pow_mod_two (x : Word) (k : Nat) : x.toNat / 2 ^ k % 2 = (x.getLsbD k).toNat := by
  rw [← BitVec.testBit_toNat, Nat.toNat_testBit]

theorem run_putMask (m : Mach) (d : BitVec 3) (g : Shape) (f : Nat → Bool × BitVec 5) :
    (putMask d g fun k => ((f k).1.toNat, (f k).2)).run m =
      .ok () (raising (((List.range 64).filter g.active).foldl (fun acc k => acc ||| (f k).2) 0)
        (onAr (fun a => maskWith a g d fun k => (f k).1) m)) := by
  refine (run_bind_ok (run_get m)).trans ((run_bind_ok (run_onArch _ m)).trans ?_)
  rw [flagsOf_map_active]
  refine congrArg (fun l => EStateM.Result.ok () (raising (((List.range 64).filter g.active).foldl (fun acc k => acc ||| (f k).2) 0)
    { m with ar := m.ar.setM d (BitVec.ofNat 64 (packElems 1 l)) })) (List.ext_getElem (by simp) fun k _ _ => ?_)
  simp only [List.getElem_map, List.getElem_zipIdx, List.getElem_range, Nat.zero_add]
  cases g.active k with
  | true => exact Nat.mod_eq_of_lt (Bool.toNat_lt _)
  | false =>
    cases g.zero with
    | true => simp
    | false => exact toNat_div_two_pow_mod_two ..

theorem run_opMaskLanes {m : Mach} {w : Nat} {p : BitVec 6} {d : BitVec 3} {srcs : List (BitVec 5)}
    {f : Arch → Shape → Nat → Nat × BitVec 5} {g : Shape} {val : Nat → Bool × BitVec 5} (ha : m.ar.arming = none)
    (hv : vecAllowed m.ar = true) (hg : g = shapeOf m.ar p w) (hval : f m.ar g = fun k => ((val k).1.toNat, (val k).2))
    (hfit : ∀ x ∈ srcs.map fun v => (v, g.nreg), x.1.toNat + x.2 ≤ m.vregs) :
    (opMaskLanes w p d srcs f).run m =
      .ok () (raising (((List.range 64).filter g.active).foldl (fun acc k => acc ||| (val k).2) 0)
        (onAr (fun a => maskWith a g d fun k => (val k).1) m)) := by
  subst hg
  refine (run_bind_ok (run_get m)).trans ((run_bind_ok (run_vecChecks ha hv hfit)).trans ?_)
  rw [hval]
  exact run_putMask ..

/-- The conditions of VCMP as the manual lists them (R229). -/
theorem cmpHolds_eq (k : BitVec 3) (x y : Int) : cmpHolds k.toNat x y =
    if k = 0 then decide (x = y) else if k = 1 then decide (x ≠ y) else if k = 2 then decide (x < y)
    else if k = 3 then decide (x ≤ y) else if k = 4 then decide (y < x) else decide (y ≤ x) := by
  obtain ⟨⟨k, hk⟩⟩ := k
  interval_cases k <;> simp [cmpHolds]

end Sys2Proof.Machine

namespace Sys2Proof.Claims

open Sys2Proof.Machine

theorem maskResults : MaskResults := by
  intro s tid t hb hfree
  obtain ⟨ha, hv⟩ := hfree
  refine ⟨fun i d v h => ?masks, fun i d v h => ?scalars, fun d z ra n => ?spans⟩
  case masks =>
    obtain ⟨f, hval, hexec⟩ : ∃ f : Arch → Word, f t.arch = v ∧ exec i s = runHead s (opMask d f) := by
      cases i with
      | mmov | mmovFx | mand | mor | mxor | mnot => cases h; exact ⟨_, rfl, rfl⟩
      | mmovSp d j =>
        cases h
        exact ⟨_, by rw [← testedCount_eq_testedNum], rfl⟩
      | _ => cases h
    subst hval
    exact hb.retires hexec (run_opMask (m := found s tid t) ha hv d f)
  case scalars =>
    obtain ⟨f, hval, hexec⟩ : ∃ f : Arch → Word, f t.arch = v ∧ exec i s = runHead s (opMaskTo d f) := by
      cases i with
      | mmovTx => cases h; exact ⟨_, rfl, rfl⟩
      | mpop d j m =>
        cases h
        exact ⟨_, by rw [← popcOf_testedBits], rfl⟩
      | mfirst d j m =>
        cases h
        exact ⟨_, by rw [← firstOf_testedBits], rfl⟩
      | _ => cases h
    subst hval
    exact hb.retires hexec (run_opMaskTo (m := found s tid t) ha hv d f)
  case spans =>
    rw [← spanElems_eq]
    exact hb.retires rfl (run_opVspan (m := found s tid t) ha hv d z ra n)

/-- The operation that a comparison stands for, with the truth and the flags of its elements. -/
theorem compareOp_runs {a : Arch} {i : Instr} {w : Nat} {p : BitVec 6} {d : BitVec 3} {srcs : List (BitVec 5)}
    {val : Nat → Bool × BitVec 5} (h : compareOp a i = some (w, p, d, srcs, val)) (s : State) :
    ∃ f : Arch → Shape → Nat → Nat × BitVec 5, exec i s = runHead s (opMaskLanes w p d srcs f) ∧
      ∀ g, f a g = fun k => ((val k).1.toNat, (val k).2) := by
  cases i with
  | vcmp d t b ra vx p k =>
    have hop : compareOp a (.vcmp d t b ra vx p k) = some (typeBits t.toNat, p, d, intSrcs ra vx b, fun i =>
        (cmpHolds k.toNat (intOf t.toNat (a.lane ra.toNat (typeBits t.toNat) i))
          (intOf t.toNat (secondOf a vx b (typeBits t.toNat) i)), 0)) := by
      simp only [cmpHolds_eq, typeBits_eq_two_pow]
      rfl
    cases hop.symm.trans h
    exact ⟨fun ar _ i => ((cmpHolds k.toNat (intOf t.toNat (ar.lane ra.toNat (typeBits t.toNat) i))
      (intOf t.toNat (secondOf ar vx b (typeBits t.toNat) i))).toNat, 0), rfl, fun _ => rfl⟩
  | fcmp => cases h; exact ⟨_, rfl, fun _ => rfl⟩
  | _ => cases h

theorem compareResults : CompareResults := by
  intro s tid t i w p d srcs val hb hfree h g hfit
  obtain ⟨ha, hv⟩ := hfree
  obtain ⟨f, hexec, hval⟩ := compareOp_runs h s
  exact hb.retires hexec (run_opMaskLanes (m := found s tid t) ha hv rfl (hval g) hfit)

/-- Settles O15: a mask instruction is one write behind the common checks, a comparison one written mask. -/
theorem maskAndCompareResults : Obligations.MaskAndCompareResults := ⟨maskResults, compareResults⟩

end Sys2Proof.Claims
end

section

namespace Sys2Proof.Machine

open Claims

/-! ### The special-function unit (R217, R218) -/

/-- The state when a head of thread tid has put the registers of a group into the queue of its core. -/
def sfuTaken (s : State) (core tid : Nat) (a : Arch) (d : BitVec 5) (n : Nat) : State :=
  { s.setCore core { s.core core with sfu := (s.core core).sfu ++ (List.range n).map fun i =>
    { id := s.nextId, tid, v := BitVec.ofNat 5 (d.toNat + i), value := a.vreg (d.toNat + i) } } with nextId := s.nextId + 1 }

theorem run_opSfu {m : Mach} {w : Nat} {p : BitVec 6} {rm : BitVec 3} {d : BitVec 5} {srcs : List (BitVec 5)}
    {f : Arch → Rnd → Nat → Nat × BitVec 5} {g : Shape} {val : Nat → Nat × BitVec 5} (ha : m.ar.arming = none)
    (hv : vecAllowed m.ar = true) (hg : g = shapeOf m.ar p w) (hval : (fun k => f m.ar (m.ar.rnd rm.toNat false k) k) = val)
    (hfit : ∀ x ∈ (srcs ++ [d]).map fun v => (v, g.nreg), x.1.toNat + x.2 ≤ m.vregs)
    (hroom : (m.st.core m.core).sfu.length + g.nreg ≤ 32) :
    (opSfu w p rm d srcs f).run m = .ok () (raising (flagsRaised g (g.nreg * 512 / w) val) (onAr (steppedSr rm)
      { m with st := sfuTaken m.st m.core m.tid (groupWith m.ar g d w g.nreg fun k => (val k).1) d g.nreg })) := by
  subst hg hval
  refine (run_bind_ok (run_get m)).trans ((run_bind_ok (run_vecChecks ha hv hfit)).trans ?_)
  refine (congrArg (EStateM.run · m) (if_neg (Nat.not_lt.mpr hroom))).trans ?_
  refine (run_bind_ok (run_onState _ m)).trans ((run_bind_ok (run_onChunk ..)).trans ?_)
  rw [run_onArch, flagsOf_results_eq_flagsRaised, merge_results_fst, merge_results, stepSr_eq_steppedSr]
  rfl

end Sys2Proof.Machine

namespace Sys2Proof.Claims

open Sys2Proof.Machine

/-- The operation that an instruction of the special-function unit stands for, with the values of its elements. -/
theorem sfuOp_runs {a : Arch} {i : Instr} {x : LaneOp} {rm : BitVec 3} (h : sfuOp a i = some x) (hrm : x.rm = some rm) (s : State) :
    ∃ f : Arch → Rnd → Nat → Nat × BitVec 5, exec i s = runHead s (opSfu x.w x.p rm x.d x.srcs f) ∧
      ∀ g, (fun k => f a (a.rnd rm.toNat false k) k) = x.val g := by
  cases i with
  | fdiv | fsqrt | fexp | flog | frcp | frsq | fsin | fcos | ftanh =>
    cases h
    cases hrm
    exact ⟨_, rfl, fun _ => rfl⟩
  | _ => cases h

/-- Settles O13: behind the common checks and with room in the queue, the entries are those of the group as it would be written. -/
theorem specialResults : Obligations.SpecialResults := by
  intro s tid t i x rm hb hfree h hrm g c hfit hroom
  obtain ⟨ha, hv⟩ := hfree
  obtain ⟨f, hexec, hval⟩ := sfuOp_runs h hrm s
  exact hb.retires hexec (run_opSfu (m := found s tid t) ha hv rfl (hval g) hfit hroom)

end Sys2Proof.Claims
end

section

namespace Sys2Proof.Machine

open Claims

/-! ### The tree of a reduction (R192, R194) -/

section
variable {α : Type} {op : α → α → α}

theorem length_treeLevel (c : Nat → α → α → α × BitVec 5) (j : Nat) (v : List (Option α)) :
    (treeLevel c j v).1.length = (v.length + 1) / 2 := by
  fun_induction treeLevel c j v with
  | case1 | case2 => simp
  | case3 _ _ _ _ _ _ ih | case4 _ _ _ _ ih | case5 _ _ _ _ ih =>
    rw [List.length_cons, ih, List.length_cons, List.length_cons]
    omega

variable [Std.Associative op]

/-- A level of the tree of an associative operation keeps what its values come to, in order. -/
theorem foldl_treeLevel {c : Nat → α → α → α × BitVec 5} (hc : ∀ j x y, (c j x y).1 = op x y) (j : Nat) (v : List (Option α))
    (acc : Option α) : (treeLevel c j v).1.foldl (Option.merge op) acc = v.foldl (Option.merge op) acc := by
  fun_induction treeLevel c j v generalizing acc with
  | case1 | case2 => rfl
  | case3 j x y l r q ih =>
    have hxy : some r.1 = Option.merge op (some x) (some y) := congrArg some (hc j x y)
    rw [List.foldl_cons, ih, hxy, ← Std.Associative.assoc (op := Option.merge op)]
    rfl
  | case4 j x l q ih => rw [List.foldl_cons, ih, List.foldl_cons, List.foldl_cons, Option.merge_none_right]
  | case5 j y l q ih => rw [List.foldl_cons, ih, List.foldl_cons, List.foldl_cons, Option.merge_none_right]

/-- The tree of an associative operation, with levels enough, is the operation over the values in order. -/
theorem treeOf_fst_eq_foldl {c : Nat → Nat → α → α → α × BitVec 5} (hc : ∀ l j x y, (c l j x y).1 = op x y) (l levels : Nat)
    (v : List (Option α)) (hv : v.length ≤ 2 ^ levels) : (treeOf c l levels v).1 = v.foldl (Option.merge op) none := by
  have hshort {v : List (Option α)} (h : v.length ≤ 1) : v.headD none = v.foldl (Option.merge op) none := by
    match v, h with
    | [], _ => rfl
    | [x], _ => exact Option.merge_none_left.symm
  induction levels generalizing l v with
  | zero => exact hshort hv
  | succ n ih =>
    unfold treeOf
    split
    case isTrue h => exact hshort h
    case isFalse h =>
      refine (ih (l + 1) _ ?_).trans (foldl_treeLevel (hc l) 0 v none)
      rw [length_treeLevel]
      omega

end

/-- An operation over the values of a list in order; none of no value. -/
def foldFirst {α : Type} (op : α → α → α) : List α → Option α
  | [] => none
  | x :: l => some (l.foldl op x)

/-- Padding is passed over. -/
theorem foldl_merge_leaves {α : Type} {op : α → α → α} (g : Shape) (f : Nat → α) : (g.leaves f).foldl (Option.merge op) none =
    foldFirst op (((List.range g.n).filter g.active).map f) := by
  have hsome (l : List Nat) (x : α) : (l.map fun k => if g.active k then some (f k) else none).foldl (Option.merge op) (some x) =
      some (((l.filter g.active).map f).foldl op x) := by
    induction l generalizing x with
    | nil => rfl
    | cons k l ih =>
      rw [List.map_cons, List.foldl_cons, List.filter_cons]
      split
      · exact ih (op x (f k))
      · exact ih x
  unfold Shape.leaves
  generalize List.range g.n = l
  induction l with
  | nil => rfl
  | cons k l ih =>
    rw [List.map_cons, List.foldl_cons, List.filter_cons]
    split
    · exact hsome l (f k)
    · exact ih

/-! ### The operations of VRED (R235) -/

theorem patternOf_lt (n : Nat) (x : Int) : patternOf n x < 2 ^ n := by
  have hpos : (0 : Int) < (2 ^ n : Nat) := Int.natCast_pos.mpr (Nat.two_pow_pos n)
  have h := Int.emod_lt_of_pos x hpos
  have h0 := Int.emod_nonneg x hpos.ne'
  unfold patternOf
  omega

theorem patternOf_natCast {n k : Nat} (h : k < 2 ^ n) : patternOf n k = k := by
  rw [patternOf, ← Int.natCast_emod, Int.toNat_natCast, Nat.mod_eq_of_lt h]

theorem redOp_associative (k : Nat) : Std.Associative (redOp k) where
  assoc x y z := by
    have hx := patternOf_lt 64 x
    have hy := patternOf_lt 64 y
    have hz := patternOf_lt 64 z
    match k with
    | 0 => exact add_assoc x y z
    | 1 => exact min_assoc x y z
    | 2 => exact max_assoc x y z
    | 3 => simp only [redOp, patternOf_natCast (Nat.and_lt_two_pow _ hy), patternOf_natCast (Nat.and_lt_two_pow _ hz), Nat.and_assoc]
    | 4 => simp only [redOp, patternOf_natCast (Nat.or_lt_two_pow hx hy), patternOf_natCast (Nat.or_lt_two_pow hy hz), Nat.or_assoc]
    | _ + 5 =>
      simp only [redOp, patternOf_natCast (Nat.xor_lt_two_pow hx hy), patternOf_natCast (Nat.xor_lt_two_pow hy hz), Nat.xor_assoc]

/-- A group has at most 512 elements of a byte or more (R53). -/
theorem shapeOf_n_le (a : Arch) (p : BitVec 6) {w : Nat} (hw : 8 ≤ w) : (shapeOf a p w).n ≤ 512 := by
  have hregs : spanRegs a (p.extractLsb' 0 2) ≤ 8 := by
    unfold spanRegs field
    split <;> omega
  calc (shapeOf a p w).n ≤ spanRegs a (p.extractLsb' 0 2) * 512 / w := min_le_right ..
    _ ≤ 8 * 512 / 8 := Nat.div_le_div (Nat.mul_le_mul_right _ hregs) hw (by decide)

theorem eight_le_typeBits (t : BitVec 3) : 8 ≤ typeBits t.toNat := by
  rw [typeBits_eq_two_pow]
  exact Nat.le_mul_of_pos_right 8 (Nat.two_pow_pos _)

/-- VRED is its operation over the active elements in order (R235). -/
theorem vredTree_eq (a : Arch) (p : BitVec 6) {w : Nat} (hw : 8 ≤ w) (k : Nat) (f : Nat → Int) :
    (treeOf (fun _ _ x y => (redOp k x y, 0)) 1 10 ((shapeOf a p w).leaves f)).1 =
      foldFirst (redOp k) (((List.range (shapeOf a p w).n).filter (shapeOf a p w).active).map f) := by
  have := redOp_associative k
  refine (treeOf_fst_eq_foldl (op := redOp k) (fun _ _ _ _ => rfl) 1 10 _ ?_).trans (foldl_merge_leaves ..)
  have := shapeOf_n_le a p hw
  simp only [Shape.leaves, List.length_map, List.length_range]
  omega

/-! ### Scalar destinations (R214) -/

theorem run_opScalarLanes {m : Mach} {w : Nat} {p d : BitVec 6} {srcs : List (BitVec 5)} {f : Arch → Shape → Word × BitVec 5}
    {g : Shape} {val : Word × BitVec 5} (ha : m.ar.arming = none) (hv : vecAllowed m.ar = true) (hg : g = shapeOf m.ar p w)
    (hval : f m.ar g = val) (hfit : ∀ x ∈ srcs.map fun v => (v, g.nreg), x.1.toNat + x.2 ≤ m.vregs) :
    (opScalarLanes w p d srcs f).run m = .ok () (raising val.2 (onAr (fun a => a.setX d val.1) m)) := by
  subst hg hval
  exact (run_bind_ok (run_get m)).trans ((run_bind_ok (run_vecChecks ha hv hfit)).trans (run_bind_ok (run_setX ..)))

end Sys2Proof.Machine

namespace Sys2Proof.Claims

open Sys2Proof.Machine

/-- The operation that an instruction with a scalar destination stands for, with its result. -/
theorem scalarOp_runs {a : Arch} {i : Instr} {w : Nat} {p d : BitVec 6} {srcs : List (BitVec 5)} {val : Shape → Word × BitVec 5}
    {rm : Option (BitVec 3)} (h : scalarOp a i = some (w, p, d, srcs, val, rm)) (s : State) :
    ∃ f : Arch → Shape → Word × BitVec 5, exec i s = runHead s (steppingSr rm (opScalarLanes w p d srcs f)) ∧
      f a (shapeOf a p w) = val (shapeOf a p w) := by
  cases i with
  | vext d t b ra p =>
    cases h
    refine ⟨_, rfl, ?_⟩
    simp only [typeSigned, decide_eq_true_eq, apply_ite (BitVec.ofInt 64), BitVec.ofInt_natCast]
  | vred d t ra k p =>
    simp only [scalarOp, ← typeBits_eq_two_pow] at h
    cases h
    refine ⟨_, rfl, ?_⟩
    dsimp only
    rw [vredTree_eq _ _ (eight_le_typeBits t)]
    generalize ((List.range _).filter _).map _ = xs
    cases xs <;> rfl
  | fred | fdot => cases h; exact ⟨_, rfl, rfl⟩
  | _ => cases h

/-- Settles O12: behind the common checks, one write of the result of each instruction. -/
theorem scalarResults : Obligations.ScalarResults := by
  intro s tid t i w p d srcs val rm hb hfree _ h g hfit
  obtain ⟨ha, hv⟩ := hfree
  obtain ⟨f, hexec, hval⟩ := scalarOp_runs h s
  exact hb.retires hexec (run_steppingSr (run_opScalarLanes (m := found s tid t) ha hv rfl hval hfit))

end Sys2Proof.Claims
end

section

namespace Sys2Proof.Machine

open Claims

/-! ### Looking up the target of a REP (R219, R220) -/

section
variable (a : Arch) (m : Mach)

@[simp] theorem keepsArch_codeRun (pl : Place) (pa : Nat) (va : Word) : KeepsArch a (codeRun pl pa va) m := by simp [codeRun]
@[simp] theorem keepsArch_needLine (img : Line) (i : Nat) : KeepsArch a (needLine img i) m := by simp [needLine]

@[simp] theorem keepsArch_fetchLine (va : Word) : KeepsArch a (fetchLine va) m := by
  simp only [fetchLine, keepsArch_get_bind, keepsArch_bind, keepsArch_locateAs, implies_true]
  intros
  split
  · simp
  · simp only [keepsArch_bind, keepsArch_needBlock, implies_true]
    intros
    split <;> simp

@[simp] theorem keepsArch_repTarget : KeepsArch a repTarget m := by
  simp only [repTarget, keepsArch_get_bind]
  split <;> simp

end

/-! ### REP (R219-R224) -/

/-- The iteration, the count and the strides that a REP goes by. -/
theorem repStart_eq (a : Arch) (ra : BitVec 6) (sts : BitVec 16) : repStart a ra sts =
    (if a.repst.getLsbD 48 then field a.repst 32 16 else 0,
     if a.repst.getLsbD 48 then (if a.repst.getLsbD 48 then field a.repst 32 16 else 0) + field a.repst 0 16
     else field (a.getX ra) 0 16,
     if a.repst.getLsbD 48 then a.repst.extractLsb' 16 16 else sts) := by
  unfold repStart field
  split <;> simp

/-- The bits of a target, stepped by its strides (R220). -/
theorem repStepped_eq (bits : Word) (i : Nat) (st : BitVec 16) (mem : Bool) : repStepped bits i st mem =
    BitVec.ofNat 64 (bits.toNat + i * (strideOf st 0 * 2 ^ 10 + (if mem then 0 else strideOf st 1 * 2 ^ 16)
      + strideOf st 2 * 2 ^ 22 + strideOf st 3 * 2 ^ 32)) := by
  have htop : st.toNat / 4096 % 16 = st.toNat / 4096 := Nat.mod_eq_of_lt (by omega)
  simp [repStepped, strideOf, htop]

theorem run_modify_ar_npc (f : Arch → Arch) (pc : Mach → Word) (m : Mach) :
    (modify fun m => { m with ar := f m.ar, npc := pc m } : M PUnit).run m = .ok ⟨⟩ { onAr f m with npc := pc m } := rfl

section
variable {m m1 : Mach} {ra : BitVec 6} {sts : BitVec 16} {bits npc : Word} {fs : List RepField} {i c : Nat} {st : BitVec 16}
  (htg : Gives repTarget m (bits, npc) m1) (hs : repStart m1.ar ra sts = (i, c, st)) (hfs : repFields m1.ar (decode bits) = some fs)
  (hpair : pairOk (decode bits) fs st = true) (ha : m1.ar.arming = none) (hv : vecAllowed m1.ar = true)
include htg hs hfs hpair ha hv

theorem run_opRep_empty (hci : c ≤ i) :
    (opRep ra sts).run m = .ok () { onAr (fun a => { a with repst := 0 }) m1 with npc := npc, counts := 2 } := by
  rw [repStart_eq, Prod.mk.injEq, Prod.mk.injEq] at hs
  obtain ⟨rfl, rfl, rfl⟩ := hs
  unfold opRep
  rw [run_bind_ok htg, run_bind_ok (run_get m1)]
  simp only [hfs, hpair]
  rw [Bool.not_true, run_bind_ok (run_faultIf_false ..), if_pos hci, run_bind_ok (run_notArming ha), run_bind_ok (run_needVec hv)]
  rfl

theorem run_opRep_iterates {m2 : Mach} (hic : i < c) (hrange : rangeBreach fs st m1.vregs m1.tiles i c = none)
    (hop : Gives (repOp (decode (repStepped bits i st (repMemory (decode bits))))
      (BitVec.ofNat 64 (if repMemory (decode bits) then 64 * i * strideOf st 1 else 0)))
        (onAr (fun a => { a with repst := repWord i st (c - i) }) m1) () m2) :
    (opRep ra sts).run m = .ok ()
      (if i + 1 < c then { onAr (fun a => { a with repst := repWord (i + 1) st (c - i - 1) }) m2 with npc := m2.ar.pc }
       else { onAr (fun a => { a with repst := 0 }) m2 with npc := npc }) := by
  rw [repStart_eq, Prod.mk.injEq, Prod.mk.injEq] at hs
  obtain ⟨hi, hc, hst⟩ := hs
  rw [hi] at hc
  unfold opRep
  rw [run_bind_ok htg, run_bind_ok (run_get m1)]
  simp only [hi, hc, hst, hfs, hpair]
  rw [Bool.not_true, run_bind_ok (run_faultIf_false ..), if_neg (Nat.not_le.mpr hic), hrange]
  rw [repStepped_eq] at hop
  refine (run_bind_ok (run_notArming ha)).trans ((run_bind_ok (run_needVec hv)).trans
    ((run_bind_ok (run_onArch _ m1)).trans ((run_bind_ok hop).trans ?_)))
  by_cases hlast : i + 1 < c
  · rw [if_pos hlast, if_pos hlast]
    exact run_modify_ar_npc (fun a => { a with repst := repWord (i + 1) st (c - i - 1) }) (fun m => m.ar.pc) m2
  · rw [if_neg hlast, if_neg hlast]
    exact run_modify_ar_npc (fun a => { a with repst := 0 }) (fun _ => npc) m2

end

end Sys2Proof.Machine

namespace Sys2Proof.Claims

open Sys2Proof.Machine

/-- A REP whose operation answers retires what it leaves; repst is as the thread has it (R224). -/
theorem BeginsRep.retires {s : State} {tid : Nat} {t : Thread} {i : Instr} {op : M Unit} {m : Mach} (hb : BeginsRep s tid t)
    (he : exec i s = runHeadAs s true op) (h : op.run (found s tid t) = .ok () m) : Retires i s m := by
  obtain ⟨hi, ht, hw⟩ := hb
  refine he.trans ?_
  simp only [runHeadAs, hi, ht, headStep, hw, runOp]
  unfold found here at h
  simp [h]

/-- Settles O18: behind the checks of the target, no iteration or one. -/
theorem repeatResults : Obligations.RepeatResults := by
  intro s tid t ra sts bits npc m1 fs hb hfree htg hfs i c st mem hpair hv
  have har : m1.ar = t.arch := ar_of_ok (by simp) htg
  have ha : m1.ar.arming = none := har ▸ hfree
  rw [← har] at hfs hv
  have hs : repStart m1.ar ra sts = (i, c, st) := by rw [har]
  refine ⟨fun hci => ?empty, fun hic hrange m2 hop => ?iterates⟩
  case empty => exact hb.retires rfl (run_opRep_empty htg hs hfs hpair ha hv hci)
  case iterates => exact hb.retires rfl (run_opRep_iterates htg hs hfs hpair ha hv hic hrange hop)

end Sys2Proof.Claims
end

section

namespace Sys2Proof.Machine

open Claims

/-! ### The order of values (R241) -/

/-- A value that stands in an order: no NaN, and no fraction over zero. -/
def FVal.Proper : FVal → Prop
  | .nan _ => False
  | .inf _ => True
  | .num _ _ d => 0 < d

/-- The place of a value: below the numbers, among them or above them; the number; and the sign, which tells -0 from +0. -/
def FVal.place : FVal → ℤ ×ₗ ℚ ×ₗ Bool
  | .nan _ => toLex (0, toLex (0, false))
  | .inf neg => toLex (if neg then -1 else 1, toLex (0, false))
  | .num neg n d => toLex (0, toLex (if neg then -(n / d : ℚ) else n / d, !neg))

/-- The place of a key. -/
def keyPlace (x : FVal × Int) : ℤ ×ₗ ℤ ×ₗ ℚ ×ₗ Bool := toLex (x.2, x.1.place)

/-- x below y as values, or as zeros of different signs. -/
def belowVal (x y : FVal) : Bool := ltVal x y || (x.isZero && y.isZero && x.isNeg && !y.isNeg)

theorem belowVal_num_iff {s t : Bool} {n d m e : Nat} (hd : 0 < d) (he : 0 < e) :
    belowVal (.num s n d) (.num t m e) = true ↔ (FVal.num s n d).place < (FVal.num t m e).place := by
  have hd' : (0 : ℚ) < d := Nat.cast_pos.mpr hd
  have he' : (0 : ℚ) < e := Nat.cast_pos.mpr he
  have hlt : (n / d : ℚ) < m / e ↔ n * e < m * d := by rw [div_lt_div_iff₀ hd' he']; exact_mod_cast Iff.rfl
  have hgt : (m / e : ℚ) < n / d ↔ m * d < n * e := by rw [div_lt_div_iff₀ he' hd']; exact_mod_cast Iff.rfl
  have hn : (0 : ℚ) ≤ n / d := by positivity
  have hm : (0 : ℚ) ≤ m / e := by positivity
  have hzeros : (n / d : ℚ) = 0 ∧ (m / e : ℚ) = 0 ↔ n = 0 ∧ m = 0 := by simp [hd.ne', he.ne']
  simp only [FVal.place, Prod.Lex.toLex_lt_toLex, lt_irrefl, true_and, false_or]
  by_cases h0 : n = 0 ∧ m = 0
  · obtain ⟨rfl, rfl⟩ := h0
    cases s <;> cases t <;> simp [belowVal, ltVal, FVal.isNeg, FVal.isZero]
  · cases s <;> cases t
    case false.false => simp [belowVal, ltVal, FVal.isNeg, h0, hlt]
    case true.true => simp [belowVal, ltVal, FVal.isNeg, h0, hgt]
    case true.false =>
      have hne : ¬ ((n / d : ℚ) = 0 ∧ (m / e : ℚ) = 0) := mt hzeros.mp h0
      have : -(n / d : ℚ) < m / e := by
        by_contra hle
        exact hne ⟨by linarith, by linarith⟩
      simp [belowVal, ltVal, h0, this]
    case false.true =>
      have : ¬ (n / d : ℚ) < -(m / e) := by linarith
      simp [belowVal, ltVal, FVal.isNeg, h0, this]

theorem belowVal_iff {x y : FVal} (hx : x.Proper) (hy : y.Proper) : belowVal x y = true ↔ x.place < y.place := by
  match x, y, hx, hy with
  | .num s n d, .num t m e, hd, he => exact belowVal_num_iff hd he
  | .inf s, .num t m e, _, _ => cases s <;> simp [belowVal, ltVal, FVal.isZero, FVal.place, Prod.Lex.toLex_lt_toLex]
  | .num s n d, .inf t, _, _ => cases t <;> simp [belowVal, ltVal, FVal.isZero, FVal.place, Prod.Lex.toLex_lt_toLex]
  | .inf s, .inf t, _, _ => cases s <;> cases t <;> simp [belowVal, ltVal, FVal.isZero, FVal.place, Prod.Lex.toLex_lt_toLex]

theorem belowKey_iff {x y : FVal × Int} (hx : x.1.Proper) (hy : y.1.Proper) :
    belowKey x y = true ↔ keyPlace x < keyPlace y := by
  rw [keyPlace, keyPlace, Prod.Lex.toLex_lt_toLex, ← belowVal_iff hx hy]
  simp only [belowKey, belowVal, Bool.or_eq_true, Bool.and_eq_true, decide_eq_true_eq]

/-! ### The rank order (R241) -/

/-- An element that may be ranked. -/
def Ranked.Proper (x : Ranked) : Prop := ∀ k, x.key = some k → k.1.Proper

section
variable {lo : Bool} {x y z : Ranked}

/-- One key ranks before another where it is not below it, or not above it. -/
theorem ranksFirst_some_iff {a b : FVal × Int} (hx : x.Proper) (hy : y.Proper) (ha : x.key = some a) (hb : y.key = some b) :
    ranksFirst lo x y = true ↔ if lo then keyPlace a ≤ keyPlace b else keyPlace b ≤ keyPlace a := by
  have hab := belowKey_iff (hx a ha) (hy b hb)
  have hba := belowKey_iff (hy b hb) (hx a ha)
  cases lo <;> simp [ranksFirst, ha, hb, ← not_lt, ← hab, ← hba]

/-- One of two elements ranks first, as though it came first. -/
theorem ranksFirst_total (hx : x.Proper) (hy : y.Proper) : ranksFirst lo x y = true ∨ ranksFirst lo y x = true := by
  cases ha : x.key with
  | none => cases hb : y.key <;> simp [ranksFirst, ha, hb]
  | some a =>
    cases hb : y.key with
    | none => simp [ranksFirst, ha, hb]
    | some b =>
      rw [ranksFirst_some_iff hx hy ha hb, ranksFirst_some_iff hy hx hb ha]
      cases lo
      · exact le_total ..
      · exact le_total ..

theorem ranksFirst_trans (hx : x.Proper) (hy : y.Proper) (hz : z.Proper) (hxy : ranksFirst lo x y = true)
    (hyz : ranksFirst lo y z = true) : ranksFirst lo x z = true := by
  cases hc : z.key with
  | none => cases ha : x.key <;> simp [ranksFirst, ha, hc]
  | some c =>
    cases hb : y.key with
    | none => simp [ranksFirst, hb, hc] at hyz
    | some b =>
      cases ha : x.key with
      | none => simp [ranksFirst, ha, hb] at hxy
      | some a =>
        rw [ranksFirst_some_iff hx hy ha hb] at hxy
        rw [ranksFirst_some_iff hy hz hb hc] at hyz
        rw [ranksFirst_some_iff hx hz ha hc]
        cases lo
        · exact le_trans hyz hxy
        · exact le_trans hxy hyz

end

/-- x may stand before y in rank order: it ranks first, by the order of their indices (R241). -/
def InRank (lo : Bool) (x y : Ranked) : Prop := if x.idx < y.idx then ranksFirst lo x y = true else ranksFirst lo y x = false

theorem InRank.ranksFirst {lo : Bool} {x y : Ranked} (h : InRank lo x y) (hx : x.Proper) (hy : y.Proper) :
    ranksFirst lo x y = true := by
  unfold InRank at h
  split at h
  · exact h
  · exact (ranksFirst_total hx hy).resolve_right (by simp [h])

theorem rankInsert_perm (lo : Bool) (y : Ranked) (l : List Ranked) : (rankInsert lo y l).Perm (y :: l) := by
  induction l with
  | nil => exact .refl _
  | cons x l ih =>
    unfold rankInsert
    split
    · exact (ih.cons x).trans (.swap y x l)
    · exact .refl _

/-- An element of a higher index finds its place. -/
theorem rankInsert_pairwise {lo : Bool} {y : Ranked} {l : List Ranked} (hl : l.Pairwise (InRank lo)) (hp : ∀ x ∈ l, x.Proper)
    (hy : y.Proper) (hidx : ∀ x ∈ l, x.idx < y.idx) : (rankInsert lo y l).Pairwise (InRank lo) := by
  induction l with
  | nil => exact List.pairwise_singleton ..
  | cons x l ih =>
    obtain ⟨hxl, hl⟩ := List.pairwise_cons.mp hl
    obtain ⟨hx, hpl⟩ := List.forall_mem_cons.mp hp
    obtain ⟨hlt, hidxl⟩ := List.forall_mem_cons.mp hidx
    unfold rankInsert
    split
    case isTrue hxy =>
      refine List.pairwise_cons.mpr ⟨fun z hz => ?_, ih hl hpl hidxl⟩
      obtain rfl | hz := List.mem_cons.mp ((rankInsert_perm lo y l).mem_iff.mp hz)
      · exact (if_pos hlt).mpr hxy
      · exact hxl z hz
    case isFalse hxy =>
      refine List.pairwise_cons.mpr ⟨fun z hz => ?_, List.pairwise_cons.mpr ⟨hxl, hl⟩⟩
      have hzidx : ¬ y.idx < z.idx := Nat.lt_asymm (hidx z hz)
      refine (if_neg hzidx).mpr (Bool.eq_false_iff.mpr fun hzy => hxy ?_)
      obtain rfl | hz := List.mem_cons.mp hz
      · exact hzy
      · exact ranksFirst_trans hx (hpl z hz) hy ((hxl z hz).ranksFirst hx (hpl z hz)) hzy

/-- The elements put in one by one, by rising index. -/
theorem foldl_rankInsert (lo : Bool) (l acc : List Ranked) (hacc : acc.Pairwise (InRank lo)) (hp : ∀ x ∈ acc ++ l, x.Proper)
    (hidx : (l.map Ranked.idx).Pairwise (· < ·)) (hlt : ∀ x ∈ acc, ∀ y ∈ l, x.idx < y.idx) :
    (l.foldl (fun acc y => rankInsert lo y acc) acc).Perm (acc ++ l) ∧
      (l.foldl (fun acc y => rankInsert lo y acc) acc).Pairwise (InRank lo) := by
  induction l generalizing acc with
  | nil => exact ⟨by simp, hacc⟩
  | cons y l ih =>
    have hperm : (rankInsert lo y acc ++ l).Perm (acc ++ y :: l) :=
      ((rankInsert_perm lo y acc).append_right l).trans List.perm_middle.symm
    rw [List.map_cons, List.pairwise_cons] at hidx
    obtain ⟨hyl, hidx⟩ := hidx
    have hins := rankInsert_pairwise hacc (fun x hx => hp x (by simp [hx])) (hp y (by simp)) fun x hx => hlt x hx y (by simp)
    obtain ⟨hp', hpw⟩ := ih _ hins (fun x hx => hp x (hperm.mem_iff.mp hx)) hidx fun x hx z hz => by
      obtain rfl | hx := List.mem_cons.mp ((rankInsert_perm lo y acc).mem_iff.mp hx)
      · exact hyl _ (List.mem_map_of_mem hz)
      · exact hlt x hx z (by simp [hz])
    exact ⟨hp'.trans hperm, hpw⟩

/-! ### Elements of registers are proper (R184, R241) -/

theorem unpack_proper {f : Fmt} {flush : Bool} {w : Nat} (h : (unpack f flush w).isNan = false) : (unpack f flush w).Proper := by
  unfold unpack at h ⊢
  dsimp only at h ⊢
  split
  case isTrue hall =>
    rw [if_pos hall] at h
    split
    · trivial
    case isFalse hm => simp [if_neg hm, FVal.isNan] at h
  case isFalse hall =>
    rw [if_neg hall] at h
    split
    case isTrue hnan => simp [if_pos hnan, FVal.isNan] at h
    case isFalse =>
      split
      · split
        · exact Nat.one_pos
        · exact Nat.two_pow_pos _
      · exact Nat.two_pow_pos _

theorem rankOf_idx (t v k : Nat) : (rankOf t v k).idx = k := by
  unfold rankOf
  split
  · rfl
  · dsimp only
    split <;> rfl

theorem rankOf_proper (t v k : Nat) : (rankOf t v k).Proper := by
  intro a ha
  unfold rankOf at ha
  split at ha
  · cases ha
    exact Nat.one_pos
  · dsimp only at ha
    split at ha
    · cases ha
    case isFalse hnan =>
      cases ha
      exact unpack_proper (Bool.eq_false_iff.mpr hnan)

/-! ### TOPN and RNG (R240, R241, R243) -/

section
variable {m : Mach} (ha : m.ar.arming = none) (hv : vecAllowed m.ar = true)
include ha hv

theorem run_opTopn {d a p c : BitVec 5} {t : BitVec 4} {lo : BitVec 1} {n : BitVec 9} {w dn cn : Nat} {g : Shape} {best : List Ranked}
    {m' : Mach} (hw : w = typeBits t.toNat) (hg : g = shapeOf m.ar (p.setWidth 6) w) (hdn : dn = (n.toNat * w + 511) / 512)
    (hcn : cn = (n.toNat + 31) / 32) (hbest : best = (ranked (lo == 1) (((List.range g.n).filter g.active).map fun k =>
      rankOf t.toNat (m.ar.lane a.toNat w k) k)).take n.toNat)
    (hfit : ∀ x ∈ [(a, g.nreg), (d, dn), (c, cn)], x.1.toNat + x.2 ≤ m.vregs)
    (hm : Gives (freeOverlap d.toNat dn c.toNat cn) (onAr (fun ar => (ar.putElems d.toNat w (best.map Ranked.enc) dn).putElems
      c.toNat 16 (best.map Ranked.idx ++ List.replicate (n.toNat - best.length) 0xFFFF) cn) m) () m') :
    (opTopn d t a p c lo n).run m = .ok () m' := by
  rw [← List.filterMap_eq_map, List.filterMap_filter] at hbest
  subst hw hg hdn hcn hbest
  exact (run_bind_ok (run_get m)).trans ((run_bind_ok (run_vecChecks ha hv hfit)).trans ((run_bind_ok (run_onArch _ m)).trans hm))

theorem run_opRng {d : BitVec 5} {b a c : BitVec 6} {sp : BitVec 2}
    (hfit : ∀ x ∈ [(d, spanRegs m.ar sp)], x.1.toNat + x.2 ≤ m.vregs) :
    (opRng d b a sp c).run m = .ok () (onAr (fun ar => ar.putElems d.toNat 128 ((List.range (4 * spanRegs m.ar sp)).map
      (rngBlock (m.ar.getX a) (m.ar.getX b) (m.ar.getX c))) (spanRegs m.ar sp)) m) :=
  (run_bind_ok (run_get m)).trans (run_bind_ok (run_vecChecks ha hv hfit))

end

/-- The counter words of a block, as halves of its words (R243). -/
theorem rngBlock_eq (key ctr c : Word) : rngBlock key ctr c = fun j =>
    phiBits key (ctr.setWidth 32) ((ctr >>> 32).setWidth 32) ((c + BitVec.ofNat 64 j).setWidth 32)
      (((c + BitVec.ofNat 64 j) >>> 32).setWidth 32) := by
  have hlow (x : Word) : x.extractLsb' 0 32 = x.setWidth 32 := BitVec.eq_of_getLsbD_eq fun i hi => by simp [hi]
  have hhigh (x : Word) : x.extractLsb' 32 32 = (x >>> 32).setWidth 32 := BitVec.eq_of_getLsbD_eq fun i hi => by simp [hi]
  funext j
  rw [rngBlock, hlow, hhigh, hlow, hhigh]

end Sys2Proof.Machine

namespace Sys2Proof.Claims

open Sys2Proof.Machine

theorem selectAndRandom : SelectAndRandom := by
  intro s tid t d ty a p c lo n rb ra rc sp hb hfree w g dn cn best
  obtain ⟨ha, hv⟩ := hfree
  refine ⟨fun hfit m hm => ?top, fun hfit => ?random⟩
  case top => exact hb.retires rfl (run_opTopn (m := found s tid t) ha hv rfl rfl rfl rfl rfl hfit hm)
  case random =>
    have hrun := run_opRng (m := found s tid t) (b := rb) (a := ra) (c := rc) ha hv hfit
    simp only [rngBlock_eq] at hrun
    exact hb.retires rfl hrun

theorem rankOrder : RankOrder := by
  intro lo ty l hl r
  have hidx : ((l.map fun e => rankOf ty e.1 e.2).map Ranked.idx) = l.map Prod.snd := by simp [rankOf_idx]
  refine foldl_rankInsert lo _ [] .nil (fun x hx => ?_) (hidx ▸ hl) (by simp)
  obtain ⟨e, -, rfl⟩ := List.mem_map.mp hx
  exact rankOf_proper _ _ _

/-- Settles O20: what the two instructions write behind the common checks, and what the order of the elements is. -/
theorem selectAndRandomResults : Obligations.SelectAndRandomResults := ⟨selectAndRandom, rankOrder⟩

end Sys2Proof.Claims
end

section

namespace Sys2Proof.Machine

open Claims

/-! ### Elements laid side by side (R5, R196) -/

theorem packElems_lt (w : Nat) (l : List Nat) : packElems w l < 2 ^ (w * l.length) := by
  induction l with
  | nil => exact Nat.one_pos
  | cons e l ih =>
    have he : e % 2 ^ w < 2 ^ w := Nat.mod_lt _ (Nat.two_pow_pos w)
    calc packElems w (e :: l) < 2 ^ w * (packElems w l + 1) := by rw [packElems, Nat.mul_add]; omega
      _ ≤ 2 ^ w * 2 ^ (w * l.length) := Nat.mul_le_mul_left _ ih
      _ = 2 ^ (w * (e :: l).length) := by rw [← Nat.pow_add, List.length_cons]; ring_nf

/-- An element is read back where it was laid. -/
theorem packElems_div_mod (w : Nat) (l : List Nat) (i : Nat) : packElems w l / 2 ^ (i * w) % 2 ^ w = l.getD i 0 % 2 ^ w := by
  have hpos := Nat.two_pow_pos w
  induction l generalizing i with
  | nil => simp [packElems]
  | cons e l ih =>
    cases i with
    | zero => simp [packElems, Nat.add_mul_mod_self_left]
    | succ i =>
      have htail : packElems w (e :: l) / 2 ^ w = packElems w l := by
        rw [packElems, Nat.add_mul_div_left _ _ hpos, Nat.div_eq_of_lt (Nat.mod_lt _ hpos), Nat.zero_add]
      rw [Nat.succ_mul, Nat.add_comm, Nat.pow_add, ← Nat.div_div_eq_div_mul, htail, ih]
      rfl

/-! ### Written groups (R196, R211, R212) -/

theorem vreg_setVreg (a : Arch) (i : Nat) (l : Line) (j : Nat) : (a.setVreg i l).vreg j = if j = i ∧ i < 32 then l else a.vreg j := by
  unfold Arch.setVreg Arch.vreg
  by_cases hi : i < 32
  · by_cases hj : j < 32
    · simp only [hi, hj, dite_true, Vector.getElem_set, and_true, eq_comm]
    · have : j ≠ i := by omega
      simp [hi, hj, this]
  · rw [dif_neg hi, if_neg fun h => hi h.2]

theorem vreg_toNat (a : Arch) (v : BitVec 5) : a.vreg v.toNat = a.getV v := dif_pos v.isLt

/-- Beside its vector registers a write of one leaves everything. -/
theorem setVreg_frame (a : Arch) (i : Nat) (l : Line) : ∃ v, a.setVreg i l = { a with v := v } := by
  unfold Arch.setVreg
  split
  · exact ⟨_, rfl⟩
  · exact ⟨a.v, rfl⟩

theorem putElems_frame (a : Arch) (v w : Nat) (l : List Nat) (n : Nat) : ∃ v', a.putElems v w l n = { a with v := v' } := by
  induction n generalizing a v l with
  | zero => exact ⟨a.v, rfl⟩
  | succ n ih =>
    obtain ⟨v1, h1⟩ := setVreg_frame a v (BitVec.ofNat 512 (packElems w (l.take (512 / w))))
    obtain ⟨v2, h2⟩ := ih (a.setVreg v (BitVec.ofNat 512 (packElems w (l.take (512 / w))))) (v + 1) (l.drop (512 / w))
    exact ⟨v2, h2.trans (by rw [h1])⟩

/-- The registers of a written group hold its elements, a register's worth each; the others are as they were. -/
theorem vreg_putElems (a : Arch) (v w : Nat) (l : List Nat) {n : Nat} (hn : v + n ≤ 32) (j : Nat) :
    (a.putElems v w l n).vreg j = if v ≤ j ∧ j < v + n then
      BitVec.ofNat 512 (packElems w ((l.drop ((j - v) * (512 / w))).take (512 / w))) else a.vreg j := by
  induction n generalizing a v l with
  | zero => rw [Arch.putElems, if_neg (by omega)]
  | succ n ih =>
    rw [Arch.putElems, ih _ _ _ (by omega), vreg_setVreg]
    obtain h | rfl | h := Nat.lt_trichotomy j v
    · rw [if_neg (by omega), if_neg (by omega), if_neg (by omega)]
    · rw [if_neg (by omega), if_pos (by omega), if_pos (by omega), Nat.sub_self, Nat.zero_mul, List.drop_zero]
    · by_cases hlt : j < v + (n + 1)
      · have hstep : 512 / w + (j - (v + 1)) * (512 / w) = (j - v) * (512 / w) := by
          rw [show j - v = j - (v + 1) + 1 by omega, Nat.succ_mul, Nat.add_comm]
        rw [if_pos (by omega), if_pos (by omega), List.drop_drop, hstep]
      · rw [if_neg (by omega), if_neg (by omega), if_neg (by omega)]

section
variable {w : Nat} (hw : w ∣ 512) (h0 : 0 < w)
include hw h0

theorem mul_div_512 (k : Nat) : k * w / 512 = k / (512 / w) := by
  obtain ⟨q, hq⟩ := hw
  rw [hq, Nat.mul_div_cancel_left q h0, Nat.mul_comm k, Nat.mul_div_mul_left _ _ h0]

theorem mul_mod_512 (k : Nat) : k * w % 512 = k % (512 / w) * w := by
  obtain ⟨q, hq⟩ := hw
  rw [hq, Nat.mul_div_cancel_left q h0, Nat.mul_comm k, Nat.mul_mod_mul_left, Nat.mul_comm]

/-- An element of a written group is the low bits of the value laid there. -/
theorem lane_putElems (a : Arch) (v : Nat) (l : List Nat) {n k : Nat} (hn : v + n ≤ 32) (hk : k < n * (512 / w)) :
    (a.putElems v w l n).lane v w k = l.getD k 0 % 2 ^ w := by
  have hq : 0 < 512 / w := Nat.div_pos (Nat.le_of_dvd (by decide) hw) h0
  have hreg : k / (512 / w) < n := (Nat.div_lt_iff_lt_mul hq).mpr hk
  have hin : v ≤ v + k / (512 / w) ∧ v + k / (512 / w) < v + n := ⟨Nat.le_add_right .., Nat.add_lt_add_left hreg v⟩
  have hlen : w * ((l.drop (k / (512 / w) * (512 / w))).take (512 / w)).length ≤ 512 :=
    (Nat.mul_le_mul_left _ (List.length_take_le ..)).trans_eq (Nat.mul_div_cancel' hw)
  have hfits := (packElems_lt w _).trans_le (Nat.pow_le_pow_right Nat.two_pos hlen)
  rw [Arch.lane, mul_div_512 hw h0, mul_mod_512 hw h0, vreg_putElems a v w l hn, if_pos hin, Nat.add_sub_cancel_left,
    BitVec.toNat_ofNat, Nat.mod_eq_of_lt hfits, packElems_div_mod]
  congr 1
  rw [List.getD_eq_getElem?_getD, List.getD_eq_getElem?_getD, List.getElem?_take_of_lt (Nat.mod_lt _ hq), List.getElem?_drop,
    Nat.div_add_mod']

end

end Sys2Proof.Machine

namespace Sys2Proof.Claims

open Sys2Proof.Machine

theorem groupPlaces : GroupPlaces := by
  intro a g d w n f hw h0 hn
  obtain ⟨v, hframe⟩ := putElems_frame a d.toNat w ((List.range (n * 512 / w)).map fun k =>
    if g.active k then f k else if g.zero then 0 else a.lane d.toNat w k) n
  refine ⟨fun k hk => ?elements, fun u hu => ?others, ?_, ?_, ?_⟩
  case elements =>
    have hk' : k < n * (512 / w) := by rwa [← Nat.mul_div_assoc n hw]
    have hlane : a.lane d.toNat w k % 2 ^ w = a.lane d.toNat w k := Nat.mod_mod ..
    rw [groupWith, lane_putElems hw h0 a d.toNat _ hn hk', List.getD_eq_getElem _ _ (by simpa using hk), List.getElem_map,
      List.getElem_range, apply_ite (· % 2 ^ w), apply_ite (· % 2 ^ w), Nat.zero_mod, hlane]
  case others =>
    have hout : ¬ (d.toNat ≤ u.toNat ∧ u.toNat < d.toNat + n) := by omega
    rw [← vreg_toNat, groupWith, vreg_putElems a d.toNat w _ hn, if_neg hout, vreg_toNat]
  all_goals rw [groupWith, hframe]

end Sys2Proof.Claims
end

section

namespace Sys2Proof.Machine

open Claims

/-! ### Fractions scaled by powers of two -/

section
variable {K : Type} [Field K] [CharZero K]

theorem two_zpow_eq_div (e : ℤ) : (2 : K) ^ e = 2 ^ e.toNat / 2 ^ (-e).toNat := by
  conv_lhs => rw [← Int.toNat_sub_toNat_neg e]
  rw [zpow_sub₀ two_ne_zero, zpow_natCast, zpow_natCast]

theorem scaled_div (m : Nat) (e : ℤ) : ((scaled m e).1 / (scaled m e).2 : K) = m * 2 ^ e := by
  rw [two_zpow_eq_div, scaled]
  push_cast
  ring

end

theorem scaled_den_pos (m : Nat) (e : ℤ) : 0 < (scaled m e).2 := Nat.two_pow_pos _

section
variable {n d : Nat}

theorem two_zpow_le_div_iff (hd : 0 < d) (e : ℤ) : (2 : ℝ) ^ e ≤ n / d ↔ d * 2 ^ e.toNat ≤ n * 2 ^ (-e).toNat := by
  rw [two_zpow_eq_div, div_le_div_iff₀ (by positivity) (by positivity), mul_comm]
  exact_mod_cast Iff.rfl

/-- The binary exponent of a fraction. -/
theorem log2Frac_spec (hn : 0 < n) (hd : 0 < d) : (2 : ℝ) ^ log2Frac n d ≤ n / d ∧ (n / d : ℝ) < 2 ^ (log2Frac n d + 1) := by
  have hd' : (0 : ℝ) < d := Nat.cast_pos.mpr hd
  have hnl : (2 : ℝ) ^ (n.log2 : ℤ) ≤ n := by rw [zpow_natCast]; exact_mod_cast Nat.log2_self_le hn.ne'
  have hnu : (n : ℝ) < 2 ^ ((n.log2 : ℤ) + 1) := by exact_mod_cast Nat.lt_log2_self
  have hdl : (2 : ℝ) ^ (d.log2 : ℤ) ≤ d := by rw [zpow_natCast]; exact_mod_cast Nat.log2_self_le hd.ne'
  have hdu : (d : ℝ) < 2 ^ ((d.log2 : ℤ) + 1) := by exact_mod_cast Nat.lt_log2_self
  have hlow : (2 : ℝ) ^ ((n.log2 : ℤ) - d.log2 - 1) ≤ n / d := by
    rw [le_div_iff₀ hd']
    calc (2 : ℝ) ^ ((n.log2 : ℤ) - d.log2 - 1) * d ≤ 2 ^ ((n.log2 : ℤ) - d.log2 - 1) * 2 ^ ((d.log2 : ℤ) + 1) := by gcongr
      _ = 2 ^ (n.log2 : ℤ) := by rw [← zpow_add₀ two_ne_zero]; congr 1; ring
      _ ≤ n := hnl
  have hhigh : (n / d : ℝ) < 2 ^ ((n.log2 : ℤ) - d.log2 + 1) := by
    rw [div_lt_iff₀ hd']
    calc (n : ℝ) < 2 ^ ((n.log2 : ℤ) + 1) := hnu
      _ = 2 ^ ((n.log2 : ℤ) - d.log2 + 1) * 2 ^ (d.log2 : ℤ) := by rw [← zpow_add₀ two_ne_zero]; congr 1; ring
      _ ≤ 2 ^ ((n.log2 : ℤ) - d.log2 + 1) * d := by gcongr
  unfold log2Frac
  dsimp only
  split
  case isTrue h => exact ⟨(two_zpow_le_div_iff hd _).mpr h, hhigh⟩
  case isFalse h =>
    rw [← two_zpow_le_div_iff hd, not_le] at h
    exact ⟨hlow, by rwa [sub_add_cancel]⟩

/-- A fraction as a multiple of 2^q and what is left of it. -/
theorem quoAt_spec (hd : 0 < d) (q : ℤ) : 0 < (quoAt n d q).2.2 ∧ (quoAt n d q).2.1 < (quoAt n d q).2.2 ∧
    (n / d : ℝ) = ((quoAt n d q).1 + (quoAt n d q).2.1 / (quoAt n d q).2.2) * 2 ^ q := by
  have hb : 0 < d * 2 ^ q.toNat := Nat.mul_pos hd (Nat.two_pow_pos _)
  refine ⟨hb, Nat.mod_lt _ hb, ?_⟩
  have hb' : ((d * 2 ^ q.toNat : ℕ) : ℝ) ≠ 0 := Nat.cast_ne_zero.mpr hb.ne'
  have hd' : (d : ℝ) ≠ 0 := Nat.cast_ne_zero.mpr hd.ne'
  have hsplit : ((quoAt n d q).1 + (quoAt n d q).2.1 / (quoAt n d q).2.2 : ℝ) =
      (n * 2 ^ (-q).toNat : ℕ) / (d * 2 ^ q.toNat : ℕ) := by
    rw [eq_div_iff hb', add_mul]
    unfold quoAt
    dsimp only
    rw [div_mul_cancel₀ _ hb']
    exact_mod_cast Nat.div_add_mod' (n * 2 ^ (-q).toNat) (d * 2 ^ q.toNat)
  rw [hsplit, two_zpow_eq_div]
  push_cast
  field_simp

end

/-- What is left of a fraction at the exponent q, in units of 2^q. -/
noncomputable def partAt (n d : Nat) (q : ℤ) : ℝ := (quoAt n d q).2.1 / (quoAt n d q).2.2

theorem partAt_nonneg (n d : Nat) (q : ℤ) : 0 ≤ partAt n d q := by unfold partAt; positivity

section
variable {n d : Nat} (hd : 0 < d) (q : ℤ)
include hd

theorem div_eq_partAt : (n / d : ℝ) = ((quoAt n d q).1 + partAt n d q) * 2 ^ q := (quoAt_spec hd q).2.2

theorem partAt_lt_one : partAt n d q < 1 := by
  obtain ⟨hb, hr, -⟩ := quoAt_spec (n := n) hd q
  exact (div_lt_one (Nat.cast_pos.mpr hb)).mpr (Nat.cast_lt.mpr hr)

end

/-! ### Encodings as numbers (R184) -/

section
variable (f : Fmt)

/-- The number of the encoding that has significand N and stands i binades above the lowest; a significand of 2^(p+1) is the next
binade's first. -/
theorem magOf_enc {i N : Nat} (hN : N ≤ 2 ^ (f.p + 1)) (hi : i = 0 ∨ 2 ^ f.p ≤ N) :
    magOf f (i * 2 ^ f.p + N) = N * 2 ^ ((i : ℤ) + 1 - f.bias - f.p) := by
  have hpos := Nat.two_pow_pos f.p
  rw [pow_succ] at hN
  obtain hlow | hhigh := lt_or_ge N (2 ^ f.p)
  · obtain rfl : i = 0 := hi.resolve_right (not_le.mpr hlow)
    rw [magOf, if_pos (by omega)]
    simp
  · obtain ⟨r, rfl⟩ := Nat.exists_eq_add_of_le hhigh
    have hk : i * 2 ^ f.p + (2 ^ f.p + r) = r + 2 ^ f.p * (i + 1) := by ring
    rw [magOf, if_neg (by omega), hk, Nat.add_mul_mod_self_left, Nat.add_mul_div_left _ _ hpos]
    obtain hr | hr := lt_or_eq_of_le (show r ≤ 2 ^ f.p by omega)
    · rw [Nat.mod_eq_of_lt hr, Nat.div_eq_of_lt hr]
      push_cast
      ring_nf
    · subst hr
      rw [Nat.mod_self, Nat.div_self hpos, add_zero]
      push_cast
      rw [show (1 + (i + 1) - f.bias - f.p : ℤ) = (i + 1 - f.bias - f.p) + 1 by ring, zpow_add_one₀ two_ne_zero]
      ring

variable (k : Nat)

/-- The significand that an encoding stands for. -/
def encSig : Nat := k - (k / 2 ^ f.p - 1) * 2 ^ f.p

/-- The exponent of the last place of an encoding. -/
def encExp : ℤ := ((k / 2 ^ f.p - 1 : ℕ) : ℤ) + 1 - f.bias - f.p

theorem encSig_spec : (k / 2 ^ f.p - 1) * 2 ^ f.p + encSig f k = k ∧ encSig f k < 2 ^ (f.p + 1) ∧
    (k / 2 ^ f.p - 1 = 0 ∨ 2 ^ f.p ≤ encSig f k) := by
  have hmod := Nat.mod_lt k (Nat.two_pow_pos f.p)
  have hdiv := Nat.div_add_mod' k (2 ^ f.p)
  unfold encSig
  rw [pow_succ]
  cases h : k / 2 ^ f.p with
  | zero => simp only [h] at hdiv; omega
  | succ i =>
    rw [h, Nat.succ_mul] at hdiv
    rw [Nat.succ_sub_one]
    omega

theorem magOf_eq : magOf f k = encSig f k * 2 ^ encExp f k := by
  obtain ⟨hk, hlt, hi⟩ := encSig_spec f k
  conv_lhs => rw [← hk]
  exact magOf_enc f hlt.le hi

theorem magOf_succ : magOf f (k + 1) = (encSig f k + 1) * 2 ^ encExp f k := by
  obtain ⟨hk, hlt, hi⟩ := encSig_spec f k
  conv_lhs => rw [← hk, add_assoc]
  rw [magOf_enc f hlt (hi.imp_right Nat.le_succ_of_le), Nat.cast_succ]
  rfl

theorem magOf_strictMono : StrictMono (magOf f) := strictMono_nat_of_lt_succ fun k => by
  rw [magOf_succ, magOf_eq]
  gcongr
  exact lt_add_one _

end

/-! ### Directions of rounding (R49, R186, R188) -/

/-- Whether a significand of N and a part ρ of its last place moves away from zero. -/
def RoundsAway (rm rb : Nat) (neg : Bool) (N : Nat) (ρ : ℝ) : Prop :=
  rm = 0 ∧ (1 / 2 < ρ ∨ ρ = 1 / 2 ∧ N % 2 = 1) ∨ rm = 2 ∧ neg = true ∧ 0 < ρ ∨ rm = 3 ∧ neg = false ∧ 0 < ρ ∨
    rm = 4 ∧ 1 / 2 ≤ ρ ∨ rm = 5 ∧ (rb + 1 : ℕ) ≤ ρ * 2 ^ 32

/-- Only what is between two values moves. -/
theorem RoundsAway.part_pos {rm rb : Nat} {neg : Bool} {N : Nat} {ρ : ℝ} (h : RoundsAway rm rb neg N ρ) : 0 < ρ := by
  obtain ⟨-, h | ⟨h, -⟩⟩ | ⟨-, -, h⟩ | ⟨-, -, h⟩ | ⟨-, h⟩ | ⟨-, h⟩ := h
  · linarith
  · linarith
  · exact h
  · exact h
  · linarith
  · have : (0 : ℝ) < (rb + 1 : ℕ) := Nat.cast_pos.mpr (Nat.succ_pos _)
    exact pos_of_mul_pos_left (this.trans_le h) (by positivity)

theorem roundsUp_iff {rm : Nat} (hrm : rm ≤ 5) (rb : Nat) (neg : Bool) (N r : Nat) {b : Nat} (hb : 0 < b) :
    roundsUp rm rb neg N r b = true ↔ RoundsAway rm rb neg N (r / b) := by
  have hb' : (0 : ℝ) < b := Nat.cast_pos.mpr hb
  have hhalf : 1 / 2 < (r / b : ℝ) ↔ b < 2 * r := by
    rw [div_lt_div_iff₀ two_pos hb', one_mul, mul_comm]; exact_mod_cast Iff.rfl
  have hhalf' : 1 / 2 ≤ (r / b : ℝ) ↔ b ≤ 2 * r := by
    rw [div_le_div_iff₀ two_pos hb', one_mul, mul_comm]; exact_mod_cast Iff.rfl
  have htie : (r / b : ℝ) = 1 / 2 ↔ 2 * r = b := by
    rw [div_eq_div_iff hb'.ne' two_ne_zero, one_mul, mul_comm]; exact_mod_cast Iff.rfl
  have hpos : 0 < (r / b : ℝ) ↔ r ≠ 0 := by
    rw [div_pos_iff_of_pos_right hb', Nat.cast_pos, Nat.pos_iff_ne_zero]
  have hrb : ((rb + 1 : ℕ) : ℝ) ≤ r / b * 2 ^ 32 ↔ rb < r * 2 ^ 32 / b := by
    rw [← Nat.succ_le_iff, Nat.le_div_iff_mul_le hb, div_mul_eq_mul_div, le_div_iff₀ hb']; exact_mod_cast Iff.rfl
  unfold RoundsAway
  rw [hhalf, hhalf', htie, hpos, hrb]
  interval_cases rm <;> simp [roundsUp]

section
variable {rm rb : Nat} {neg : Bool} {n d : Nat} {q : ℤ}

theorem roundAt_of_roundsAway (hrm : rm ≤ 5) (hd : 0 < d) (h : RoundsAway rm rb neg (quoAt n d q).1 (partAt n d q)) :
    (roundAt rm rb neg n d q).1 = (quoAt n d q).1 + 1 :=
  if_pos ((roundsUp_iff hrm rb neg _ _ (quoAt_spec hd q).1).mpr h)

theorem roundAt_of_not_roundsAway (hrm : rm ≤ 5) (hd : 0 < d) (h : ¬ RoundsAway rm rb neg (quoAt n d q).1 (partAt n d q)) :
    (roundAt rm rb neg n d q).1 = (quoAt n d q).1 :=
  if_neg fun hup => h ((roundsUp_iff hrm rb neg _ _ (quoAt_spec hd q).1).mp hup)

/-- A rounding says whether it has changed the magnitude. -/
theorem roundAt_snd_iff (hrm : rm ≤ 5) (hd : 0 < d) :
    (roundAt rm rb neg n d q).2 = true ↔ (n / d : ℝ) ≠ (roundAt rm rb neg n d q).1 * 2 ^ q := by
  have hu : (2 : ℝ) ^ q ≠ 0 := zpow_ne_zero _ two_ne_zero
  have hb : ((quoAt n d q).2.2 : ℝ) ≠ 0 := Nat.cast_ne_zero.mpr (quoAt_spec hd q).1.ne'
  have hsnd : (roundAt rm rb neg n d q).2 = true ↔ partAt n d q ≠ 0 := by simp [roundAt, partAt, hb]
  rw [hsnd, div_eq_partAt hd q, Ne, Ne, mul_left_inj' hu]
  by_cases h : RoundsAway rm rb neg (quoAt n d q).1 (partAt n d q)
  · have hlt := partAt_lt_one (n := n) hd q
    have hpos := h.part_pos
    rw [roundAt_of_roundsAway hrm hd h, Nat.cast_succ, add_right_inj]
    exact iff_of_true hpos.ne' hlt.ne
  · rw [roundAt_of_not_roundsAway hrm hd h, add_eq_left]

end

/-- The thresholds of a step from N u to (N + 1) u, as multiples of parts of u. -/
theorem movesUp_iff {f : Fmt} {r : Rnd} {neg : Bool} {k N : Nat} {u x : ℝ} (hu : 0 < u) :
    MovesUp f r neg k (N * u) x ((N + 1) * u) ↔ N * u < x ∧
      ((r.rm = 0 ∨ r.rm = 5 ∧ (magOf f f.maxEnc : ℝ) < x) ∧
          ((2 * N + 1 : ℕ) * (u / 2) < x ∨ (2 * N + 1 : ℕ) * (u / 2) = x ∧ k % 2 = 1) ∨
        r.rm = 2 ∧ neg = true ∨ r.rm = 3 ∧ neg = false ∨ r.rm = 4 ∧ (2 * N + 1 : ℕ) * (u / 2) ≤ x ∨
        r.rm = 5 ∧ x ≤ (magOf f f.maxEnc : ℝ) ∧ (N * 2 ^ 32 + r.rb + 1 : ℕ) * (u / 2 ^ 32) ≤ x) := by
  have h1 : (N + 1) * u - x < x - N * u ↔ (2 * N + 1 : ℕ) * (u / 2) < x := by
    push_cast; constructor <;> intro h <;> linarith
  have h2 : (N + 1) * u - x = x - N * u ↔ (2 * N + 1 : ℕ) * (u / 2) = x := by
    push_cast; constructor <;> intro h <;> linarith
  have h3 : (N + 1) * u - x ≤ x - N * u ↔ (2 * N + 1 : ℕ) * (u / 2) ≤ x := by
    push_cast; constructor <;> intro h <;> linarith
  have h4 : (r.rb : ℤ) < ⌊(x - N * u) / ((N + 1) * u - N * u) * 2 ^ 32⌋ ↔ (N * 2 ^ 32 + r.rb + 1 : ℕ) * (u / 2 ^ 32) ≤ x := by
    have hwidth : (N + 1) * u - N * u = u := by ring
    rw [← Int.add_one_le_iff, Int.le_floor, hwidth, div_mul_eq_mul_div, le_div_iff₀ hu]
    push_cast
    constructor <;> intro h <;> linarith
  rw [MovesUp, h1, h2, h3, h4]

/-- The step of a number that is known by its significand and the part of a last place. -/
theorem movesUp_iff_roundsAway {f : Fmt} {r : Rnd} {neg large : Bool} {k N : Nat} {u ρ : ℝ} (hrm : r.rm ≤ 5) (hu : 0 < u)
    (hk : k % 2 = N % 2) (hlarge : large = true ↔ (magOf f f.maxEnc : ℝ) < (N + ρ) * u) :
    MovesUp f r neg k (N * u) ((N + ρ) * u) ((N + 1) * u) ↔
      RoundsAway (if r.rm = 5 ∧ large = true then 0 else r.rm) r.rb neg N ρ := by
  have h0 : N * u < (N + ρ) * u ↔ 0 < ρ := by rw [mul_lt_mul_iff_left₀ hu, lt_add_iff_pos_right]
  have h1 : (2 * N + 1 : ℕ) * (u / 2) < (N + ρ) * u ↔ 1 / 2 < ρ := by
    have : ((2 * N + 1 : ℕ) : ℝ) * (u / 2) = (N + 1 / 2) * u := by push_cast; ring
    rw [this, mul_lt_mul_iff_left₀ hu, add_lt_add_iff_left]
  have h2 : (2 * N + 1 : ℕ) * (u / 2) = (N + ρ) * u ↔ ρ = 1 / 2 := by
    have : ((2 * N + 1 : ℕ) : ℝ) * (u / 2) = (N + 1 / 2) * u := by push_cast; ring
    rw [this, mul_left_inj' hu.ne', add_right_inj, eq_comm]
  have h3 : (2 * N + 1 : ℕ) * (u / 2) ≤ (N + ρ) * u ↔ 1 / 2 ≤ ρ := by
    have : ((2 * N + 1 : ℕ) : ℝ) * (u / 2) = (N + 1 / 2) * u := by push_cast; ring
    rw [this, mul_le_mul_iff_left₀ hu, add_le_add_iff_left]
  have h4 : (N * 2 ^ 32 + r.rb + 1 : ℕ) * (u / 2 ^ 32) ≤ (N + ρ) * u ↔ (r.rb + 1 : ℕ) ≤ ρ * 2 ^ 32 := by
    have : ((N * 2 ^ 32 + r.rb + 1 : ℕ) : ℝ) * (u / 2 ^ 32) = (N + (r.rb + 1 : ℕ) / 2 ^ 32) * u := by push_cast; ring
    rw [this, mul_le_mul_iff_left₀ hu, add_le_add_iff_left, div_le_iff₀ (by positivity)]
  rw [movesUp_iff hu, h0, h1, h2, h3, h4, hk, ← not_lt (b := (N + ρ) * u), ← hlarge]
  refine Iff.trans (and_congr_right fun hpos => ?_) (and_iff_right_of_imp RoundsAway.part_pos)
  unfold RoundsAway
  generalize r.rm = rm at hrm ⊢
  obtain rfl | rfl | rfl | rfl | rfl | rfl : rm = 0 ∨ rm = 1 ∨ rm = 2 ∨ rm = 3 ∨ rm = 4 ∨ rm = 5 := by omega
  all_goals cases large <;> simp [hpos]

end Sys2Proof.Machine
end

section

namespace Sys2Proof.Machine

open Claims

/-! ### Facts of the formats (R183) -/

theorem formats_p : ∀ f ∈ formats, 0 < f.p ∧ f.p ≤ 52 := by decide

theorem formats_bits : ∀ f ∈ formats, f.bits - 1 = f.eb + f.p ∧ 0 < f.eb := by decide

/-- MAXF as a significand and an exponent is the number of its encoding. -/
theorem formats_max : ∀ f ∈ formats, (f.maxExp - (1 - f.bias - f.p)).toNat * 2 ^ f.p + f.maxMant = f.maxEnc ∧
    1 - (f.bias : ℤ) - f.p ≤ f.maxExp ∧ 2 ^ f.p ≤ f.maxMant ∧ f.maxMant ≤ 2 ^ (f.p + 1) := by decide

theorem magOf_maxEnc {f : Fmt} (hf : f ∈ formats) : magOf f f.maxEnc = f.maxMant * 2 ^ f.maxExp := by
  obtain ⟨henc, hlow, hmin, hmax⟩ := formats_max f hf
  rw [← henc, magOf_enc f hmax (.inr hmin)]
  congr 2
  omega

theorem exceeds_iff {f : Fmt} (hf : f ∈ formats) (n : Nat) {d : Nat} (hd : 0 < d) :
    f.exceeds n d = true ↔ (magOf f f.maxEnc : ℝ) < n / d := by
  rw [magOf_maxEnc hf, Fmt.exceeds, decide_eq_true_eq]
  push_cast
  rw [two_zpow_eq_div, mul_div_assoc', div_lt_div_iff₀ (by positivity) (by positivity)]
  exact_mod_cast Iff.rfl

/-- The table of R187, as the model has it. -/
theorem overflow_eq_overflowOf {f : Fmt} (hf : f ∈ formats) (r : Rnd) (hrm : r.rm ≤ 5) (neg : Bool) :
    f.overflow r neg = overflowOf f r neg := by
  have hall : ∀ f ∈ formats, ∀ sat neg : Bool, ∀ rm : Fin 6,
      f.overflow ⟨rm, sat, false, 0⟩ neg = overflowOf f ⟨rm, sat, false, 0⟩ neg := by decide
  exact hall f hf r.sat neg ⟨r.rm, Nat.lt_succ_of_le hrm⟩

/-! ### Round (R186), part by part -/

section
variable (f : Fmt) (r : Rnd) (neg : Bool) (n d : Nat)

/-- The exponent of the last place that a magnitude is rounded to. -/
def placeExp : ℤ := max (log2Frac n d - f.p) (1 - f.bias - f.p)

/-- The mode that a magnitude is rounded in: sr beyond MAXF is rne (R188). -/
def roundMode : Nat := if r.rm = 5 ∧ f.exceeds n d then 0 else r.rm

theorem roundMode_le {r : Rnd} (hrm : r.rm ≤ 5) : roundMode f r n d ≤ 5 := by
  unfold roundMode
  split <;> omega

/-- The rounded significand, and whether it differs from the magnitude. -/
def roundSig : Nat × Bool := roundAt (roundMode f r n d) r.rb neg n d (placeExp f n d)

/-- The encoding of the rounded magnitude, without its sign. -/
def roundEnc : Nat := (placeExp f n d - (1 - f.bias - f.p)).toNat * 2 ^ f.p + (roundSig f r neg n d).1

/-- The operation is tiny (R186 step 4). -/
def roundTiny : Bool :=
  decide (log2Frac n d < 1 - (f.bias : ℤ)) && !(decide (log2Frac n d = -(f.bias : ℤ)) &&
    decide ((roundAt (if r.rm = 5 then 0 else r.rm) 0 neg n d (log2Frac n d - f.p)).1 = 2 ^ (f.p + 1)))

/-- The flags of a result that is not beyond MAXF. -/
def roundFlags : BitVec 5 :=
  if (roundSig f r neg n d).2 then (if roundTiny f r neg n d then flagUF ||| flagNX else flagNX) else 0

theorem roundMag_eq : roundMag f r neg n d =
    if f.exceeds (scaled (roundSig f r neg n d).1 (placeExp f n d)).1 (scaled (roundSig f r neg n d).1 (placeExp f n d)).2 then
      (f.overflow r neg, flagOF ||| flagNX)
    else if r.ftz ∧ f.flushes ∧ 0 < roundEnc f r neg n d ∧ roundEnc f r neg n d < 2 ^ f.p then
      (f.withSign neg 0, roundFlags f r neg n d ||| flagUF ||| flagNX)
    else (f.withSign neg (roundEnc f r neg n d), roundFlags f r neg n d) := rfl

/-- A flushed result raises UF and NX, whatever it has raised. -/
theorem roundFlags_or : roundFlags f r neg n d ||| flagUF ||| flagNX = flagUF ||| flagNX := by
  unfold roundFlags
  split
  · split <;> decide
  · decide

end

section
variable {f : Fmt} {r : Rnd} {neg : Bool} {n d : Nat} (hn : 0 < n) (hd : 0 < d)
include hn hd

/-- Where a magnitude stands: its significand at the last place that it is rounded to. -/
theorem place_spec : (quoAt n d (placeExp f n d)).1 < 2 ^ (f.p + 1) ∧
    ((placeExp f n d - (1 - f.bias - f.p)).toNat = 0 ∨ 2 ^ f.p ≤ (quoAt n d (placeExp f n d)).1) := by
  obtain ⟨hlow, hhigh⟩ := log2Frac_spec hn hd
  have hx := div_eq_partAt (n := n) hd (placeExp f n d)
  have hρ0 := partAt_nonneg n d (placeExp f n d)
  have hρ1 := partAt_lt_one (n := n) hd (placeExp f n d)
  have hu : (0 : ℝ) < 2 ^ placeExp f n d := by positivity
  have hle : log2Frac n d - f.p ≤ placeExp f n d := le_max_left ..
  constructor
  · have : ((quoAt n d (placeExp f n d)).1 : ℝ) * 2 ^ placeExp f n d < 2 ^ (f.p + 1) * 2 ^ placeExp f n d :=
      calc ((quoAt n d (placeExp f n d)).1 : ℝ) * 2 ^ placeExp f n d ≤ n / d := by rw [hx]; gcongr; linarith
        _ < 2 ^ (log2Frac n d + 1) := hhigh
        _ ≤ 2 ^ ((f.p + 1 : ℕ) + placeExp f n d) := zpow_le_zpow_right₀ one_le_two (by push_cast; linarith)
        _ = 2 ^ (f.p + 1) * 2 ^ placeExp f n d := by rw [zpow_add₀ two_ne_zero, zpow_natCast]
    exact_mod_cast lt_of_mul_lt_mul_right this hu.le
  · obtain h | h := le_or_gt (placeExp f n d) (1 - f.bias - f.p)
    · exact .inl (by omega)
    · have heq : placeExp f n d = log2Frac n d - f.p := by
        unfold placeExp at h ⊢
        omega
      have : (2 : ℝ) ^ f.p * 2 ^ placeExp f n d < ((quoAt n d (placeExp f n d)).1 + 1) * 2 ^ placeExp f n d :=
        calc (2 : ℝ) ^ f.p * 2 ^ placeExp f n d = 2 ^ log2Frac n d := by
              rw [← zpow_natCast, ← zpow_add₀ two_ne_zero, heq]; congr 1; ring
          _ ≤ n / d := hlow
          _ < _ := by rw [hx]; gcongr
      have := lt_of_mul_lt_mul_right this hu.le
      exact .inr (Nat.lt_succ_iff.mp (by exact_mod_cast this))

/-- The encoding whose number stands just below a magnitude, or on it. -/
theorem bracket_eq {k : Nat} (hlo : (magOf f k : ℝ) ≤ n / d) (hhi : (n / d : ℝ) < magOf f (k + 1)) :
    k = (placeExp f n d - (1 - f.bias - f.p)).toNat * 2 ^ f.p + (quoAt n d (placeExp f n d)).1 ∧
    (magOf f k : ℝ) = (quoAt n d (placeExp f n d)).1 * 2 ^ placeExp f n d ∧
    (magOf f (k + 1) : ℝ) = ((quoAt n d (placeExp f n d)).1 + 1) * 2 ^ placeExp f n d := by
  obtain ⟨hN, hi⟩ := place_spec (f := f) hn hd
  have hx := div_eq_partAt (n := n) hd (placeExp f n d)
  have hρ0 := partAt_nonneg n d (placeExp f n d)
  have hρ1 := partAt_lt_one (n := n) hd (placeExp f n d)
  have hu : (0 : ℝ) < 2 ^ placeExp f n d := by positivity
  have hexp : ((placeExp f n d - (1 - f.bias - f.p)).toNat : ℤ) + 1 - f.bias - f.p = placeExp f n d := by
    have : 1 - (f.bias : ℤ) - f.p ≤ placeExp f n d := le_max_right ..
    omega
  generalize (placeExp f n d - (1 - f.bias - f.p)).toNat = i at *
  generalize (quoAt n d (placeExp f n d)).1 = N at *
  have hK : (magOf f (i * 2 ^ f.p + N) : ℝ) = N * 2 ^ placeExp f n d := by
    rw [magOf_enc f hN.le hi, hexp]; push_cast; rfl
  have hK1 : (magOf f (i * 2 ^ f.p + N + 1) : ℝ) = (N + 1) * 2 ^ placeExp f n d := by
    rw [add_assoc, magOf_enc f hN (hi.imp_right Nat.le_succ_of_le), hexp]; push_cast; rfl
  have hbelow : (magOf f (i * 2 ^ f.p + N) : ℝ) ≤ n / d := by
    rw [hK, hx]; gcongr; linarith
  have habove : (n / d : ℝ) < magOf f (i * 2 ^ f.p + N + 1) := by
    rw [hK1, hx]; gcongr
  have hmono {a b : Nat} : (magOf f a : ℝ) < magOf f b ↔ a < b := by
    rw [Rat.cast_lt, (magOf_strictMono f).lt_iff_lt]
  have hkK := hmono.mp (hlo.trans_lt habove)
  have hKk := hmono.mp (hbelow.trans_lt hhi)
  obtain rfl : k = i * 2 ^ f.p + N := by omega
  exact ⟨rfl, hK, hK1⟩

variable (hf : f ∈ formats) (hrm : r.rm ≤ 5)
include hf hrm

/-- The encoding that Round arrives at is the one that R186 step 2 picks. -/
theorem roundEnc_eq {k y : Nat} (hlo : (magOf f k : ℝ) ≤ n / d) (hhi : (n / d : ℝ) < magOf f (k + 1))
    (hup : MovesUp f r neg k (magOf f k) (n / d) (magOf f (k + 1)) → y = k + 1)
    (hdown : ¬ MovesUp f r neg k (magOf f k) (n / d) (magOf f (k + 1)) → y = k) :
    roundEnc f r neg n d = y ∧ (magOf f y : ℝ) = (roundSig f r neg n d).1 * 2 ^ placeExp f n d := by
  obtain ⟨hk, hmag, hmag'⟩ := bracket_eq hn hd hlo hhi
  obtain ⟨p, hp⟩ := Nat.exists_eq_add_of_lt (formats_p f hf).1
  have hpar : k % 2 = (quoAt n d (placeExp f n d)).1 % 2 := by
    rw [hk, hp, pow_succ, ← mul_assoc, Nat.add_mod, Nat.mul_mod_left, zero_add, Nat.mod_mod]
  have hmoves : MovesUp f r neg k (magOf f k) (n / d) (magOf f (k + 1)) ↔
      RoundsAway (roundMode f r n d) r.rb neg (quoAt n d (placeExp f n d)).1 (partAt n d (placeExp f n d)) := by
    rw [hmag, hmag', div_eq_partAt hd (placeExp f n d)]
    refine movesUp_iff_roundsAway hrm (by positivity) hpar ?_
    rw [← div_eq_partAt hd (placeExp f n d)]
    exact exceeds_iff hf n hd
  have hmode := roundMode_le f n d hrm
  unfold roundEnc roundSig
  by_cases hmv : RoundsAway (roundMode f r n d) r.rb neg (quoAt n d (placeExp f n d)).1 (partAt n d (placeExp f n d))
  · rw [roundAt_of_roundsAway hmode hd hmv, hup (hmoves.mpr hmv), hmag', ← add_assoc, ← hk]
    exact ⟨rfl, by push_cast; rfl⟩
  · rw [roundAt_of_not_roundsAway hmode hd hmv, hdown (mt hmoves.mp hmv), hmag, ← hk]
    exact ⟨rfl, rfl⟩

end

/-! ### Tiny results (R186 step 4) -/

section
variable {f : Fmt} {r : Rnd} {neg : Bool} {n d : Nat}

theorem magOf_least (f : Fmt) : magOf f (2 ^ f.p) = 2 ^ (1 - f.bias : ℤ) := by
  have h := magOf_enc f (i := 0) (N := 2 ^ f.p) (Nat.pow_le_pow_right Nat.two_pos (Nat.le_succ _)) (.inl rfl)
  rw [Nat.zero_mul, Nat.zero_add] at h
  rw [h, Nat.cast_pow, Nat.cast_ofNat, ← zpow_natCast, ← zpow_add₀ two_ne_zero]
  congr 1
  push_cast
  ring

theorem magOf_one {f : Fmt} (hp : 0 < f.p) : magOf f 1 = 2 ^ (1 - f.bias - f.p : ℤ) := by
  rw [magOf, if_pos (Nat.one_lt_two_pow hp.ne')]
  simp

/-- Values just below the least normal are half a subnormal apart. -/
theorem magOf_one_half {f : Fmt} (hp : 0 < f.p) : (magOf f 1 : ℝ) / 2 = 2 ^ (-f.bias - f.p : ℤ) := by
  rw [magOf_one hp, show (1 - f.bias - f.p : ℤ) = (-f.bias - f.p) + 1 by ring]
  push_cast
  rw [zpow_add_one₀ two_ne_zero, mul_div_cancel_right₀ _ two_ne_zero]

theorem two_zpow_least (f : Fmt) : (2 : ℝ) ^ (1 - f.bias : ℤ) = (2 ^ (f.p + 1) : ℕ) * 2 ^ (-f.bias - f.p : ℤ) := by
  rw [Nat.cast_pow, Nat.cast_ofNat, ← zpow_natCast, ← zpow_add₀ two_ne_zero]
  congr 1
  push_cast
  ring

/-- A significand of the binade below the least normal rounds up to that one. -/
def RoundsToLeast (r : Rnd) (neg : Bool) (top N : Nat) (ρ : ℝ) : Prop :=
  N + 1 = top ∧ RoundsAway (if r.rm = 5 then 0 else r.rm) 0 neg N ρ

theorem roundsToLeast_iff {top N : Nat} {ρ : ℝ} (hrm : r.rm ≤ 5) (htop : top % 2 = 0) (hN : N < top) (hρ : ρ < 1) :
    RoundsToLeast r neg top N ρ ↔ (r.rm = 0 ∨ r.rm = 4 ∨ r.rm = 5) ∧ (top : ℝ) - 1 / 2 ≤ N + ρ ∨
      (r.rm = 2 ∧ neg = true ∨ r.rm = 3 ∧ neg = false) ∧ (top : ℝ) - 1 < N + ρ := by
  unfold RoundsToLeast
  by_cases hlast : N + 1 = top
  · have hodd : N % 2 = 1 := by omega
    have htop' : (top : ℝ) = N + 1 := by rw [← hlast]; push_cast; rfl
    have hhalf : (top : ℝ) - 1 / 2 ≤ N + ρ ↔ 1 / 2 ≤ ρ := by rw [htop']; constructor <;> intro h <;> linarith
    have hsome : (top : ℝ) - 1 < N + ρ ↔ 0 < ρ := by rw [htop']; constructor <;> intro h <;> linarith
    have hnearest : 1 / 2 < ρ ∨ ρ = 1 / 2 ∧ N % 2 = 1 ↔ 1 / 2 ≤ ρ := by rw [le_iff_lt_or_eq, and_iff_left hodd, eq_comm]
    rw [hhalf, hsome, and_iff_right hlast, RoundsAway, hnearest]
    generalize r.rm = rm at hrm ⊢
    obtain rfl | rfl | rfl | rfl | rfl | rfl : rm = 0 ∨ rm = 1 ∨ rm = 2 ∨ rm = 3 ∨ rm = 4 ∨ rm = 5 := by omega
    all_goals simp
  · have hgap : (N + 2 : ℝ) ≤ top := by exact_mod_cast (show N + 2 ≤ top by omega)
    have h1 : ¬ (top : ℝ) - 1 / 2 ≤ N + ρ := by linarith
    have h2 : ¬ (top : ℝ) - 1 < N + ρ := by linarith
    simp only [hlast, h1, h2, false_and, and_false, or_false]

theorem roundTiny_iff (hn : 0 < n) (hd : 0 < d) (hp : 0 < f.p) (hrm : r.rm ≤ 5) :
    roundTiny f r neg n d = true ↔ Tiny f r neg (n / d) := by
  obtain ⟨hlow, hhigh⟩ := log2Frac_spec hn hd
  generalize he : log2Frac n d = e at hlow hhigh
  have hleast : (magOf f (2 ^ f.p) : ℝ) = 2 ^ (1 - f.bias : ℤ) := by rw [magOf_least]; push_cast; rfl
  have hless : (n / d : ℝ) < 2 ^ (1 - f.bias : ℤ) ↔ e < 1 - f.bias := by
    constructor
    · intro h
      exact (zpow_lt_zpow_iff_right₀ one_lt_two).mp (hlow.trans_lt h)
    · intro h
      exact hhigh.trans_le (zpow_le_zpow_right₀ one_le_two (by omega))
  unfold roundTiny Tiny
  dsimp only
  rw [he, magOf_one_half hp, hleast, hless, Bool.and_eq_true, decide_eq_true_eq, Bool.not_eq_true', Bool.and_eq_false_iff,
    decide_eq_false_iff_not, decide_eq_false_iff_not]
  refine and_congr_right fun hlt => ?_
  rw [← not_and_or]
  refine not_congr ?_
  have hu : (0 : ℝ) < 2 ^ (-f.bias - f.p : ℤ) := by positivity
  by_cases hbinade : e = -f.bias
  case pos =>
    subst hbinade
    have hx := div_eq_partAt (n := n) hd (-f.bias - f.p)
    have hρ0 := partAt_nonneg n d (-f.bias - f.p)
    have hρ1 := partAt_lt_one (n := n) hd (-f.bias - f.p)
    have hmode : (if r.rm = 5 then 0 else r.rm) ≤ 5 := by split <;> omega
    have hN : (quoAt n d (-f.bias - f.p)).1 < 2 ^ (f.p + 1) := by
      have h := hless.mpr hlt
      rw [hx, two_zpow_least, mul_lt_mul_iff_left₀ hu] at h
      exact_mod_cast (le_add_of_nonneg_right hρ0).trans_lt h
    have hhalf : (2 ^ (f.p + 1) : ℕ) * 2 ^ (-f.bias - f.p : ℤ) - 2 ^ (-f.bias - f.p : ℤ) / 2 =
        (((2 ^ (f.p + 1) : ℕ) : ℝ) - 1 / 2) * 2 ^ (-f.bias - f.p : ℤ) := by ring
    have hone : (2 ^ (f.p + 1) : ℕ) * 2 ^ (-f.bias - f.p : ℤ) - 2 ^ (-f.bias - f.p : ℤ) =
        (((2 ^ (f.p + 1) : ℕ) : ℝ) - 1) * 2 ^ (-f.bias - f.p : ℤ) := by ring
    rw [and_iff_right rfl, hx, two_zpow_least, hhalf, hone, mul_le_mul_iff_left₀ hu, mul_lt_mul_iff_left₀ hu,
      ← roundsToLeast_iff hrm (by rw [pow_succ]; exact Nat.mul_mod_left ..) hN hρ1, RoundsToLeast]
    by_cases haway : RoundsAway (if r.rm = 5 then 0 else r.rm) 0 neg (quoAt n d (-f.bias - f.p)).1 (partAt n d (-f.bias - f.p))
    · rw [roundAt_of_roundsAway hmode hd haway, and_iff_left haway]
    · rw [roundAt_of_not_roundsAway hmode hd haway]
      simp only [haway, and_false, iff_false]
      exact hN.ne
  case neg =>
    have hfar : (n / d : ℝ) < 2 ^ f.p * 2 ^ (-f.bias - f.p : ℤ) := by
      refine hhigh.trans_le ?_
      rw [← zpow_natCast, ← zpow_add₀ two_ne_zero]
      exact zpow_le_zpow_right₀ one_le_two (by omega)
    have htwo : (1 : ℝ) ≤ 2 ^ f.p := one_le_pow₀ one_le_two
    have hfar' : (n / d : ℝ) < 2 ^ (1 - f.bias : ℤ) - 2 ^ (-f.bias - f.p : ℤ) := by
      rw [two_zpow_least, pow_succ]
      push_cast
      nlinarith
    have h1 : ¬ (2 : ℝ) ^ (1 - f.bias : ℤ) - 2 ^ (-f.bias - f.p : ℤ) / 2 ≤ n / d := by linarith
    simp only [hbinade, h1, not_lt.mpr hfar'.le, false_and, and_false, or_false]

/-! ### Round is the rounding of R186 -/

theorem isRounded_roundMag (hf : f ∈ formats) (hrm : r.rm ≤ 5) (hn : 0 < n) (hd : 0 < d) :
    IsRounded f r neg (n / d) (roundMag f r neg n d) := by
  intro k y hlo hhi hup hdown
  obtain ⟨henc, hmag⟩ := roundEnc_eq hn hd hf hrm hlo hhi hup hdown
  obtain ⟨hp, -⟩ := formats_p f hf
  have hlarge : f.exceeds (scaled (roundSig f r neg n d).1 (placeExp f n d)).1
      (scaled (roundSig f r neg n d).1 (placeExp f n d)).2 = true ↔
      f.maxEnc < y := by
    rw [exceeds_iff hf _ (scaled_den_pos ..), scaled_div, ← hmag, Rat.cast_lt, (magOf_strictMono f).lt_iff_lt]
  have hchanged : (roundSig f r neg n d).2 = true ↔ (n / d : ℝ) ≠ magOf f y := by
    rw [hmag]
    exact roundAt_snd_iff (roundMode_le f n d hrm) hd
  rw [roundMag_eq, roundFlags_or, henc, overflow_eq_overflowOf hf r hrm]
  refine ⟨fun hbig => ?_, fun hsmall hftz hfl hpos hlt => ?_, fun hsmall hkept => ?_⟩
  · rw [if_pos (hlarge.mpr hbig)]
  · rw [if_neg (mt hlarge.mp (not_lt.mpr hsmall)), if_pos ⟨hftz, hfl, hpos, hlt⟩]
  · rw [if_neg (mt hlarge.mp (not_lt.mpr hsmall)), if_neg hkept]
    unfold roundFlags
    refine ⟨rfl, fun hx => ?_, fun hx htiny => ?_, fun hx htiny => ?_⟩
    · exact if_neg fun h => hchanged.mp h hx
    · rw [if_pos (hchanged.mpr hx), if_pos ((roundTiny_iff hn hd hp hrm).mpr htiny)]
    · rw [if_pos (hchanged.mpr hx), if_neg (mt (roundTiny_iff hn hd hp hrm).mp htiny)]

end

end Sys2Proof.Machine
end

section

namespace Sys2Proof.Machine

open Claims

/-! ### Magnitudes that every rounding treats alike -/

/-- No number of a significand of 93 bits tells x from x'. -/
def Agree (x x' : ℝ) : Prop :=
  ∀ (j : ℕ) (e : ℤ), j ≤ 2 ^ 93 → ((j * 2 ^ e : ℝ) < x ↔ (j * 2 ^ e : ℝ) < x') ∧
    ((j * 2 ^ e : ℝ) ≤ x ↔ (j * 2 ^ e : ℝ) ≤ x')

section
variable {f : Fmt} {x x' : ℝ} (h : Agree x x')

section
include h

theorem Agree.lt_iff {j : ℕ} {T : ℝ} (e : ℤ) (hT : T = j * 2 ^ e) (hj : j ≤ 2 ^ 93) : T < x ↔ T < x' := hT ▸ (h j e hj).1
theorem Agree.le_iff {j : ℕ} {T : ℝ} (e : ℤ) (hT : T = j * 2 ^ e) (hj : j ≤ 2 ^ 93) : T ≤ x ↔ T ≤ x' := hT ▸ (h j e hj).2

theorem Agree.eq_iff {j : ℕ} {T : ℝ} (e : ℤ) (hT : T = j * 2 ^ e) (hj : j ≤ 2 ^ 93) : T = x ↔ T = x' := by
  rw [eq_iff_le_not_lt, eq_iff_le_not_lt, h.lt_iff e hT hj, h.le_iff e hT hj]

end

theorem encSig_le (hf : f ∈ formats) (k : Nat) : encSig f k < 2 ^ 53 := by
  obtain ⟨-, hp⟩ := formats_p f hf
  exact (encSig_spec f k).2.1.trans_le (Nat.pow_le_pow_right Nat.two_pos (by omega))

theorem magOf_real (f : Fmt) (k : Nat) : (magOf f k : ℝ) = encSig f k * 2 ^ encExp f k := by
  rw [magOf_eq]; push_cast; rfl

theorem magOf_succ_real (f : Fmt) (k : Nat) : (magOf f (k + 1) : ℝ) = (encSig f k + 1) * 2 ^ encExp f k := by
  rw [magOf_succ]; push_cast; rfl

section
variable (hf : f ∈ formats)
include h hf

theorem Agree.magOf_le_iff (k : Nat) : (magOf f k : ℝ) ≤ x ↔ (magOf f k : ℝ) ≤ x' :=
  h.le_iff _ (magOf_real f k) ((encSig_le hf k).le.trans (by norm_num))

theorem Agree.magOf_lt_iff (k : Nat) : (magOf f k : ℝ) < x ↔ (magOf f k : ℝ) < x' :=
  h.lt_iff _ (magOf_real f k) ((encSig_le hf k).le.trans (by norm_num))

theorem Agree.magOf_gt_iff (k : Nat) : x < (magOf f k : ℝ) ↔ x' < (magOf f k : ℝ) := by
  rw [← not_le, h.magOf_le_iff hf, not_le]

theorem Agree.eq_magOf_iff (k : Nat) : x = (magOf f k : ℝ) ↔ x' = (magOf f k : ℝ) := by
  rw [eq_comm, h.eq_iff _ (magOf_real f k) ((encSig_le hf k).le.trans (by norm_num)), eq_comm]

theorem Agree.movesUp_iff {r : Rnd} (hrb : r.rb < 2 ^ 32) {neg : Bool} (k : Nat) :
    MovesUp f r neg k (magOf f k) x (magOf f (k + 1)) ↔ MovesUp f r neg k (magOf f k) x' (magOf f (k + 1)) := by
  have hu : (0 : ℝ) < 2 ^ encExp f k := by positivity
  have hN := encSig_le hf k
  have hhalf : ((2 * encSig f k + 1 : ℕ) : ℝ) * (2 ^ encExp f k / 2) = (2 * encSig f k + 1 : ℕ) * 2 ^ (encExp f k - 1) := by
    rw [zpow_sub_one₀ two_ne_zero]; rfl
  have hdraw : ((encSig f k * 2 ^ 32 + r.rb + 1 : ℕ) : ℝ) * (2 ^ encExp f k / 2 ^ 32) =
      (encSig f k * 2 ^ 32 + r.rb + 1 : ℕ) * 2 ^ (encExp f k - 32) := by
    rw [zpow_sub₀ two_ne_zero]; norm_cast
  have hhalf_le : 2 * encSig f k + 1 ≤ 2 ^ 93 := by norm_num at hN ⊢; omega
  have hdraw_le : encSig f k * 2 ^ 32 + r.rb + 1 ≤ 2 ^ 93 := by norm_num at hN hrb ⊢; omega
  have hmax := h.magOf_lt_iff hf f.maxEnc
  have hlow := h.magOf_lt_iff hf k
  rw [magOf_real f k] at hlow ⊢
  rw [magOf_succ_real, Machine.movesUp_iff hu, Machine.movesUp_iff hu, hlow, h.lt_iff _ hhalf hhalf_le, h.le_iff _ hhalf hhalf_le,
    h.eq_iff _ hhalf hhalf_le, h.le_iff _ hdraw hdraw_le, hmax, ← not_lt (b := x), ← not_lt (b := x'), hmax]

theorem Agree.tiny_iff (r : Rnd) (neg : Bool) : Tiny f r neg x ↔ Tiny f r neg x' := by
  obtain ⟨hp, hp52⟩ := formats_p f hf
  have hleast : (magOf f (2 ^ f.p) : ℝ) = (2 ^ (f.p + 1) : ℕ) * 2 ^ (-f.bias - f.p : ℤ) := by
    rw [magOf_least, ← two_zpow_least]
    push_cast
    rfl
  have hhalf : (magOf f (2 ^ f.p) : ℝ) - (magOf f 1 : ℝ) / 2 / 2 = (2 ^ (f.p + 2) - 1 : ℕ) * 2 ^ (-f.bias - f.p - 1 : ℤ) := by
    rw [hleast, magOf_one_half hp, zpow_sub_one₀ two_ne_zero, Nat.cast_sub Nat.one_le_two_pow, pow_succ _ (f.p + 1)]
    push_cast
    ring
  have hone : (magOf f (2 ^ f.p) : ℝ) - (magOf f 1 : ℝ) / 2 = (2 ^ (f.p + 1) - 1 : ℕ) * 2 ^ (-f.bias - f.p : ℤ) := by
    rw [hleast, magOf_one_half hp, Nat.cast_sub Nat.one_le_two_pow]
    push_cast
    ring
  have hhalf_le : 2 ^ (f.p + 2) - 1 ≤ 2 ^ 93 :=
    (Nat.sub_le ..).trans (Nat.pow_le_pow_right Nat.two_pos (by omega))
  have hone_le : 2 ^ (f.p + 1) - 1 ≤ 2 ^ 93 :=
    (Nat.sub_le ..).trans (Nat.pow_le_pow_right Nat.two_pos (by omega))
  unfold Tiny
  dsimp only
  rw [h.magOf_gt_iff hf, h.le_iff _ hhalf hhalf_le, h.lt_iff _ hone hone_le]

/-- What rounds one of two such magnitudes rounds the other. -/
theorem Agree.isRounded {r : Rnd} (hrb : r.rb < 2 ^ 32) {neg : Bool} {out : Nat × BitVec 5} (hout : IsRounded f r neg x' out) :
    IsRounded f r neg x out := by
  intro k y hlo hhi
  rw [h.magOf_le_iff hf] at hlo
  rw [h.magOf_gt_iff hf] at hhi
  rw [h.movesUp_iff hf hrb, h.tiny_iff hf, Ne, h.eq_magOf_iff hf]
  exact hout k y hlo hhi

end

end

/-! ### Square roots (R232) -/

section
variable {n d k : Nat}

/-- A natural number against a root and against the middle between its neighbours. -/
theorem natCast_lt_sqrt_iff {t : Nat} (ht : t.sqrt * t.sqrt ≠ t) (z : Nat) :
    ((z : ℝ) < √t ↔ (z : ℝ) < t.sqrt + 1 / 2) ∧ ((z : ℝ) ≤ √t ↔ (z : ℝ) ≤ t.sqrt + 1 / 2) := by
  have hlow : (t.sqrt : ℝ) < √t := by
    refine Real.lt_sqrt_of_sq_lt ?_
    exact_mod_cast lt_of_le_of_ne (sq t.sqrt ▸ Nat.sqrt_le t) (sq t.sqrt ▸ ht)
  have hhigh : √(t : ℝ) < t.sqrt + 1 := Real.real_sqrt_lt_nat_sqrt_succ
  obtain h | h := le_or_gt z t.sqrt
  · have h' : (z : ℝ) ≤ t.sqrt := Nat.cast_le.mpr h
    exact ⟨iff_of_true (by linarith) (by linarith), iff_of_true (by linarith) (by linarith)⟩
  · have h' : (t.sqrt + 1 : ℝ) ≤ z := by exact_mod_cast h
    exact ⟨iff_of_false (by linarith) (by linarith), iff_of_false (by linarith) (by linarith)⟩

theorem sqrt_div_eq (hd : 0 < d) : √(n / d : ℝ) = √(n * d * 4 ^ k : ℕ) / (d * 2 ^ k : ℕ) := by
  have hd' : (d : ℝ) ≠ 0 := Nat.cast_ne_zero.mpr hd.ne'
  have hfour : (4 : ℝ) ^ k = (2 ^ k) ^ 2 := by rw [← pow_mul, mul_comm, pow_mul]; norm_num
  have hsq : (n / d : ℝ) = (n * d * 4 ^ k : ℕ) / ((d * 2 ^ k : ℕ) : ℝ) ^ 2 := by
    push_cast
    rw [hfour]
    field_simp
  rw [hsq, Real.sqrt_div (Nat.cast_nonneg _), Real.sqrt_sq (Nat.cast_nonneg _)]

/-- A number of a significand of 93 bits, in steps of a fine enough grid, is a whole number of them or lies far below the root. -/
theorem grid_cases (hn : 0 < n) (hd : 0 < d) (hk : d.log2 + 129 ≤ k) {j : ℕ} (hj : j ≤ 2 ^ 93) (e : ℤ) :
    (∃ z : ℕ, (j * 2 ^ e * (d * 2 ^ k : ℕ) : ℝ) = z) ∨ (j * 2 ^ e * (d * 2 ^ k : ℕ) : ℝ) < (n * d * 4 ^ k).sqrt := by
  have hstep : (j * 2 ^ e * (d * 2 ^ k : ℕ) : ℝ) = (j * d : ℕ) * 2 ^ (e + k) := by
    rw [zpow_add₀ two_ne_zero, zpow_natCast]
    push_cast
    ring
  obtain he | he := le_or_gt 0 (e + k)
  · obtain ⟨i, hi⟩ := Int.eq_ofNat_of_zero_le he
    exact .inl ⟨j * d * 2 ^ i, by rw [hstep, hi]; push_cast; rfl⟩
  · right
    have hroot : 2 ^ k ≤ (n * d * 4 ^ k).sqrt := by
      rw [Nat.le_sqrt, ← mul_pow]
      exact Nat.le_mul_of_pos_left _ (Nat.mul_pos hn hd)
    have hbelow : j * d < 2 ^ k :=
      calc j * d ≤ 2 ^ 93 * d := Nat.mul_le_mul_right d hj
        _ < 2 ^ 93 * 2 ^ (d.log2 + 1) := Nat.mul_lt_mul_of_pos_left Nat.lt_log2_self (Nat.two_pow_pos _)
        _ = 2 ^ (d.log2 + 94) := by ring
        _ ≤ 2 ^ k := Nat.pow_le_pow_right Nat.two_pos (by omega)
    calc (j * 2 ^ e * (d * 2 ^ k : ℕ) : ℝ) = (j * d : ℕ) * 2 ^ (e + k) := hstep
      _ ≤ (j * d : ℕ) * 1 := mul_le_mul_of_nonneg_left (zpow_le_one_of_nonpos₀ one_le_two he.le) (Nat.cast_nonneg _)
      _ < (n * d * 4 ^ k).sqrt := by rw [mul_one]; exact_mod_cast hbelow.trans_le hroot

/-- The fraction that a root is replaced by agrees with the root. -/
theorem agree_sqrtFrac (hn : 0 < n) (hd : 0 < d) (hk : d.log2 + 129 ≤ k) :
    Agree (√(n / d : ℝ)) ((sqrtFrac n d k).1 / (sqrtFrac n d k).2) := by
  have hW : (0 : ℝ) < (d * 2 ^ k : ℕ) := Nat.cast_pos.mpr (by positivity)
  intro j e hj
  rw [sqrt_div_eq (k := k) hd]
  unfold sqrtFrac
  dsimp only
  split
  case isTrue hexact =>
    have hroot : √(n * d * 4 ^ k : ℕ) = (n * d * 4 ^ k).sqrt := by
      conv_lhs => rw [← hexact]
      rw [Nat.cast_mul, Real.sqrt_mul_self (Nat.cast_nonneg _)]
    rw [hroot]
    exact ⟨Iff.rfl, Iff.rfl⟩
  case isFalse hexact =>
    have hmid : ((2 * (n * d * 4 ^ k).sqrt + 1 : ℕ) / (d * 2 ^ (k + 1) : ℕ) : ℝ) =
        ((n * d * 4 ^ k).sqrt + 1 / 2) / (d * 2 ^ k : ℕ) := by
      push_cast
      rw [pow_succ]
      field_simp
    rw [hmid, lt_div_iff₀ hW, lt_div_iff₀ hW, le_div_iff₀ hW, le_div_iff₀ hW]
    obtain ⟨z, hz⟩ | hfar := grid_cases hn hd hk hj e
    · rw [hz]
      exact natCast_lt_sqrt_iff hexact z
    · have hroot : ((n * d * 4 ^ k).sqrt : ℝ) ≤ √(n * d * 4 ^ k : ℕ) := Real.nat_sqrt_le_real_sqrt
      exact ⟨iff_of_true (by linarith) (by linarith), iff_of_true (by linarith) (by linarith)⟩

theorem sqrtFrac_pos (hn : 0 < n) (hd : 0 < d) : 0 < (sqrtFrac n d k).1 ∧ 0 < (sqrtFrac n d k).2 := by
  have hq : 0 < Nat.sqrt (n * d * 4 ^ k) := Nat.sqrt_pos.mpr (by positivity)
  unfold sqrtFrac
  dsimp only
  split
  · exact ⟨hq, by positivity⟩
  · exact ⟨by positivity, by positivity⟩

end

end Sys2Proof.Machine
end

section

namespace Sys2Proof.Machine

open Claims

/-! ### The numbers that encodings stand for (R183, R184) -/

theorem formats_enc : ∀ f ∈ formats, f.maxEnc < 2 ^ (f.eb + f.p) ∧ (f.hasInf = true → f.maxEnc < (2 ^ f.eb - 1) * 2 ^ f.p) ∧
    (f.code = 12 → f.p = 3 ∧ f.maxEnc = 0x7E) := by decide

/-- The parts of a signed encoding. -/
theorem withSign_parts {f : Fmt} (hf : f ∈ formats) (neg : Bool) {e : Nat} (he : e < 2 ^ (f.eb + f.p)) :
    decide (f.withSign neg e / 2 ^ (f.bits - 1) % 2 = 1) = neg ∧ f.withSign neg e / 2 ^ f.p % 2 ^ f.eb = e / 2 ^ f.p ∧
      f.withSign neg e % 2 ^ f.p = e % 2 ^ f.p := by
  obtain ⟨hbits, -⟩ := formats_bits f hf
  have hexp : e / 2 ^ f.p < 2 ^ f.eb := by rwa [Nat.div_lt_iff_lt_mul (Nat.two_pow_pos _), ← pow_add]
  unfold Fmt.withSign
  rw [hbits]
  cases neg with
  | false => simp [Nat.div_eq_of_lt he, Nat.mod_eq_of_lt hexp]
  | true =>
    have hpow : 2 ^ (f.eb + f.p) = 2 ^ f.p * 2 ^ f.eb := by rw [pow_add, mul_comm]
    refine ⟨?_, ?_, ?_⟩
    · simp [Nat.add_div_right _ (Nat.two_pow_pos (f.eb + f.p)), Nat.div_eq_of_lt he]
    · rw [if_pos rfl, hpow, Nat.add_mul_div_left _ _ (Nat.two_pow_pos _), Nat.add_mod_right, Nat.mod_eq_of_lt hexp]
    · rw [if_pos rfl, hpow, Nat.add_mul_mod_self_left]

theorem unpack_withSign {f : Fmt} (hf : f ∈ formats) (neg : Bool) {e : Nat} (he : e ≤ f.maxEnc) :
    ∃ n d, unpack f false (f.withSign neg e) = .num neg n d ∧ 0 < d ∧ (n / d : ℚ) = magOf f e := by
  obtain ⟨hmax, hinf, hnan⟩ := formats_enc f hf
  obtain ⟨hsign, hexp, hsig⟩ := withSign_parts hf neg (he.trans_lt hmax)
  have hdiv := Nat.div_add_mod' e (2 ^ f.p)
  have hfinite : ¬ (e / 2 ^ f.p = 2 ^ f.eb - 1 ∧ f.hasInf = true) := by
    rintro ⟨htop, h⟩
    have := hinf h
    rw [htop] at hdiv
    omega
  have hnumber : ¬ (f.code = 12 ∧ e / 2 ^ f.p = 15 ∧ e % 2 ^ f.p = 7) := by
    rintro ⟨h, htop, hlow⟩
    obtain ⟨hp, hmax⟩ := hnan h
    rw [htop, hlow, hp] at hdiv
    omega
  unfold unpack magOf
  dsimp only
  rw [hsign, hexp, hsig, if_neg hfinite, if_neg hnumber]
  by_cases hsub : e < 2 ^ f.p
  · rw [if_pos (Nat.div_eq_of_lt hsub), if_pos hsub, Nat.mod_eq_of_lt hsub]
    simp only [Bool.false_eq_true, false_and, if_false]
    exact ⟨_, _, rfl, scaled_den_pos .., scaled_div ..⟩
  · have hpos : e / 2 ^ f.p ≠ 0 := Nat.div_ne_zero_iff.mpr ⟨(Nat.two_pow_pos _).ne', not_lt.mp hsub⟩
    rw [if_neg hpos, if_neg hsub]
    exact ⟨_, _, rfl, scaled_den_pos .., scaled_div ..⟩

/-! ### Results as roundings (R191, R232) -/

/-- A magnitude with a sign. -/
def signedRat (neg : Bool) (x : ℚ) : ℚ := if neg then -x else x

section
variable {s t : Bool} {x y : ℚ}

theorem signedRat_mul : signedRat (s != t) (x * y) = signedRat s x * signedRat t y := by
  cases s <;> cases t <;> simp [signedRat]

theorem signedRat_div : signedRat (s != t) (x / y) = signedRat s x / signedRat t y := by
  cases s <;> cases t <;> simp [signedRat, neg_div, div_neg]

theorem signedRat_not : signedRat (!s) x = -signedRat s x := by cases s <;> simp [signedRat]

theorem signedRat_eq_zero_iff : signedRat s x = 0 ↔ x = 0 := by cases s <;> simp [signedRat]

end

/-- A finite value is a fraction with a sign. -/
theorem numOf_eq_some {a : FVal} {p : ℚ} (h : numOf a = some p) :
    ∃ neg n d, a = .num neg n d ∧ 0 < d ∧ p = signedRat neg (n / d) := by
  cases a with
  | nan | inf => cases h
  | num neg n d =>
    by_cases hd : d = 0
    · rw [numOf, if_pos hd] at h
      cases h
    · rw [numOf, if_neg hd] at h
      cases h
      exact ⟨neg, n, d, rfl, Nat.pos_of_ne_zero hd, rfl⟩

theorem numOf_num {neg : Bool} {n d : Nat} (hd : 0 < d) : numOf (.num neg n d) = some (signedRat neg (n / d)) := if_neg hd.ne'

/-- The exact sum of two numbers, with its sign where it is zero (R191). -/
theorem sumNum_spec (rm : Nat) (s t : Bool) (n m : Nat) {d e : Nat} (hd : 0 < d) (he : 0 < e) :
    0 < (sumNum rm s n d t m e).2.2 ∧
    signedRat s (n / d) + signedRat t (m / e) =
      signedRat (sumNum rm s n d t m e).1 ((sumNum rm s n d t m e).2.1 / (sumNum rm s n d t m e).2.2) ∧
    ((sumNum rm s n d t m e).2.1 = 0 → (sumNum rm s n d t m e).1 = if n = 0 ∧ s = t then s else decide (rm = 2)) := by
  have hD : 0 < d * e := Nat.mul_pos hd he
  have hd' : (d : ℚ) ≠ 0 := Nat.cast_ne_zero.mpr hd.ne'
  have he' : (e : ℚ) ≠ 0 := Nat.cast_ne_zero.mpr he.ne'
  have hn : (n / d : ℚ) = (n * e : ℕ) / (d * e : ℕ) := by push_cast; rw [mul_div_mul_right _ _ he']
  have hm : (m / e : ℚ) = (m * d : ℕ) / (d * e : ℕ) := by push_cast; rw [mul_comm (d : ℚ), mul_div_mul_right _ _ hd']
  have hn0 : n = 0 ↔ n * e = 0 := by simp [he.ne']
  rw [hn, hm]
  simp only [hn0]
  unfold sumNum
  dsimp only
  generalize n * e = a
  generalize m * d = b
  generalize d * e = D at hD
  by_cases hzero : a = 0 ∧ b = 0
  · obtain ⟨rfl, rfl⟩ := hzero
    simp [signedRat, hD]
  rw [if_neg hzero]
  by_cases hsame : s = t
  · subst hsame
    rw [if_pos rfl]
    refine ⟨hD, ?_, fun h => absurd h (by dsimp only; omega)⟩
    cases s <;> simp only [signedRat, Bool.false_eq_true, if_true, if_false] <;> push_cast <;> ring
  rw [if_neg hsame]
  obtain rfl : t = !s := by cases s <;> cases t <;> simp_all
  obtain h | rfl | h := Nat.lt_trichotomy a b
  · rw [if_neg h.ne, if_neg (Nat.lt_asymm h)]
    refine ⟨hD, ?_, fun h => absurd h (by dsimp only; omega)⟩
    cases s <;> simp only [signedRat, Bool.not_true, Bool.not_false, Bool.false_eq_true, if_true, if_false, Nat.cast_sub h.le] <;> ring
  · rw [if_pos rfl]
    refine ⟨hD, ?_, fun _ => by rw [if_neg fun h => hsame h.2]⟩
    rw [signedRat_not, add_neg_cancel]
    simp [signedRat]
  · rw [if_neg h.ne', if_pos h]
    refine ⟨hD, ?_, fun h => absurd h (by dsimp only; omega)⟩
    cases s <;> simp only [signedRat, Bool.not_true, Bool.not_false, Bool.false_eq_true, if_true, if_false, Nat.cast_sub h.le] <;> ring

/-- The exact product of two numbers. -/
theorem mulExact_of_numOf {a b : FVal} {p q : ℚ} (ha : numOf a = some p) (hb : numOf b = some q) :
    ∃ n d, mulExact a b = some (.num (a.isNeg != b.isNeg) n d) ∧ 0 < d ∧ p * q = signedRat (a.isNeg != b.isNeg) (n / d) := by
  obtain ⟨s, n, d, rfl, hd, rfl⟩ := numOf_eq_some ha
  obtain ⟨t, m, e, rfl, he, rfl⟩ := numOf_eq_some hb
  refine ⟨n * m, d * e, rfl, Nat.mul_pos hd he, ?_⟩
  rw [← signedRat_mul, div_mul_div_comm, Nat.cast_mul, Nat.cast_mul]
  rfl

theorem isNan_of_numOf {a : FVal} {p : ℚ} (ha : numOf a = some p) : a.isNan = false := by
  obtain ⟨s, n, d, rfl, -⟩ := numOf_eq_some ha
  rfl

/-- A rounded zero keeps its sign (R193). -/
theorem roundNum_zero (f : Fmt) (r : Rnd) (neg : Bool) (d : Nat) : roundNum f r neg 0 d = (f.withSign neg 0, 0) := if_pos rfl

theorem addVal_of_zero {f : Fmt} {r : Rnd} {a b : FVal} {p q : ℚ} (ha : numOf a = some p) (hb : numOf b = some q) (h0 : p + q = 0) :
    addVal f r a b = (f.withSign (if p = 0 ∧ a.isNeg = b.isNeg then a.isNeg else decide (r.rm = 2)) 0, 0) := by
  obtain ⟨s, n, d, rfl, hd, rfl⟩ := numOf_eq_some ha
  obtain ⟨t, m, e, rfl, he, rfl⟩ := numOf_eq_some hb
  obtain ⟨hpos, hsum, hsign⟩ := sumNum_spec r.rm s t n m hd he
  rw [hsum, signedRat_eq_zero_iff] at h0
  have hn : (sumNum r.rm s n d t m e).2.1 = 0 := by simpa [hpos.ne'] using h0
  have hp : signedRat s (n / d) = 0 ↔ n = 0 := by simp [signedRat_eq_zero_iff, hd.ne']
  have hround : addVal f r (.num s n d) (.num t m e) =
      roundNum f r (sumNum r.rm s n d t m e).1 (sumNum r.rm s n d t m e).2.1 (sumNum r.rm s n d t m e).2.2 := rfl
  rw [hround, hn, roundNum_zero, hsign hn]
  simp only [hp, FVal.isNeg]

theorem mulVal_of_zero {f : Fmt} {r : Rnd} {a b : FVal} {p q : ℚ} (ha : numOf a = some p) (hb : numOf b = some q) (h0 : p * q = 0) :
    mulVal f r a b = (f.withSign (a.isNeg != b.isNeg) 0, 0) := by
  obtain ⟨n, d, hmul, hd, hpq⟩ := mulExact_of_numOf ha hb
  rw [hpq, signedRat_eq_zero_iff] at h0
  obtain rfl : n = 0 := by simpa [hd.ne'] using h0
  simp only [mulVal, isNan_of_numOf ha, isNan_of_numOf hb, hmul, Bool.or_self, Bool.false_eq_true, if_false]
  exact roundNum_zero ..

theorem divVal_of_zero {f : Fmt} {r : Rnd} {a b : FVal} {p q : ℚ} (ha : numOf a = some p) (hb : numOf b = some q) (hq : q = 0)
    (hp : p ≠ 0) : divVal f r a b = (f.withSign (a.isNeg != b.isNeg) f.infEnc, flagDZ) := by
  obtain ⟨s, n, d, rfl, hd, rfl⟩ := numOf_eq_some ha
  obtain ⟨t, m, e, rfl, he, rfl⟩ := numOf_eq_some hb
  obtain rfl : m = 0 := by simpa [signedRat_eq_zero_iff, he.ne'] using hq
  have hn : n ≠ 0 := by simpa [signedRat_eq_zero_iff, hd.ne'] using hp
  simp [divVal, FVal.isNan, FVal.isNeg, hn]

/-- Of a NaN comes the canonical one, with NV for a signalling operand (R185). -/
theorem nan_results {f : Fmt} {r : Rnd} {a b : FVal} (h : a.isNan = true ∨ b.isNan = true) :
    let out := (f.nanEnc, if a.isSig = true ∨ b.isSig = true then flagNV else 0)
    addVal f r a b = out ∧ mulVal f r a b = out ∧ divVal f r a b = out := by
  have hnan : (a.isNan || b.isNan) = true := by simpa using h
  have hflags : nanWith f (nvOf [a, b]) = (f.nanEnc, if a.isSig = true ∨ b.isSig = true then flagNV else 0) := by
    simp [nanWith, nvOf]
  refine ⟨?_, ?_, ?_⟩
  · rw [← hflags]
    cases a with
    | nan => rfl
    | inf | num =>
      cases b with
      | nan => rfl
      | inf | num => cases hnan
  · exact (if_pos hnan).trans hflags
  · exact (if_pos hnan).trans hflags

section
variable {f : Fmt} {r : Rnd} (hf : f ∈ formats) (hrm : r.rm ≤ 5)
include hf hrm

theorem isRounded_roundNum {neg : Bool} {n d : Nat} (hn : 0 < n) (hd : 0 < d) : IsRounded f r neg (n / d) (roundNum f r neg n d) := by
  rw [roundNum, if_neg hn.ne']
  exact isRounded_roundMag hf hrm hn hd

theorem resultOf_roundNum {neg : Bool} {n d : Nat} {q : ℚ} (hd : 0 < d) (hq : q = signedRat neg (n / d)) (h0 : q ≠ 0) :
    ResultOf f r q (roundNum f r neg n d) := by
  have hne : (n / d : ℚ) ≠ 0 := fun h => h0 (hq.trans (signedRat_eq_zero_iff.mpr h))
  have hn : 0 < n := Nat.pos_of_ne_zero fun h => hne (by rw [h]; simp)
  have hpos : (0 : ℚ) < n / d := lt_of_le_of_ne (by positivity) hne.symm
  have hsign : decide (q < 0) = neg := by
    cases neg with
    | false => simpa [hq, signedRat] using hpos.le
    | true => simpa [hq, signedRat] using hpos
  have habs : ((|q| : ℚ) : ℝ) = n / d := by
    rw [hq, signedRat, apply_ite abs, abs_neg, ite_self, abs_of_pos hpos]
    push_cast
    rfl
  rw [ResultOf, hsign, habs]
  exact isRounded_roundNum hf hrm hn hd

theorem resultOf_addVal {a b : FVal} {p q : ℚ} (ha : numOf a = some p) (hb : numOf b = some q) (h0 : p + q ≠ 0) :
    ResultOf f r (p + q) (addVal f r a b) := by
  obtain ⟨s, n, d, rfl, hd, rfl⟩ := numOf_eq_some ha
  obtain ⟨t, m, e, rfl, he, rfl⟩ := numOf_eq_some hb
  obtain ⟨hpos, hsum, -⟩ := sumNum_spec r.rm s t n m hd he
  exact resultOf_roundNum hf hrm hpos hsum h0

theorem resultOf_mulVal {a b : FVal} {p q : ℚ} (ha : numOf a = some p) (hb : numOf b = some q) (h0 : p * q ≠ 0) :
    ResultOf f r (p * q) (mulVal f r a b) := by
  obtain ⟨n, d, hmul, hd, hpq⟩ := mulExact_of_numOf ha hb
  simp only [mulVal, isNan_of_numOf ha, isNan_of_numOf hb, hmul, Bool.or_self, Bool.false_eq_true, if_false]
  exact resultOf_roundNum hf hrm hd hpq h0

theorem resultOf_divVal {a b : FVal} {p q : ℚ} (ha : numOf a = some p) (hb : numOf b = some q) (hq : q ≠ 0) (hp : p ≠ 0) :
    ResultOf f r (p / q) (divVal f r a b) := by
  obtain ⟨s, n, d, rfl, hd, rfl⟩ := numOf_eq_some ha
  obtain ⟨t, m, e, rfl, he, rfl⟩ := numOf_eq_some hb
  have hm : m ≠ 0 := fun h => hq (by rw [h]; simp [signedRat])
  simp only [divVal, FVal.isNan, Bool.or_self, Bool.false_eq_true, if_false, if_neg hm]
  refine resultOf_roundNum hf hrm (Nat.mul_pos hd (Nat.pos_of_ne_zero hm)) ?_ (div_ne_zero hp hq)
  rw [← signedRat_div, div_div_div_eq, Nat.cast_mul, Nat.cast_mul]

theorem resultOf_fmaVal {ng : Bool} {a b c : FVal} {p q z : ℚ} (ha : numOf a = some p) (hb : numOf b = some q) (hc : numOf c = some z)
    (h0 : (if ng then -(p * q) else p * q) + z ≠ 0) :
    ResultOf f r ((if ng then -(p * q) else p * q) + z) (fmaVal f r ng a b c) := by
  obtain ⟨n, d, hmul, hd, hpq⟩ := mulExact_of_numOf ha hb
  simp only [fmaVal, isNan_of_numOf ha, isNan_of_numOf hb, isNan_of_numOf hc, hmul, Bool.or_self, Bool.false_eq_true, if_false]
  refine resultOf_addVal hf hrm ?_ hc h0
  cases ng with
  | false => exact (numOf_num hd).trans (congrArg some hpq.symm)
  | true => exact (numOf_num hd).trans (congrArg some (by rw [signedRat_not, ← hpq]; rfl))

theorem isRounded_sqrtVal (hrb : r.rb < 2 ^ 32) {n d : Nat} (hn : 0 < n) (hd : 0 < d) :
    IsRounded f r false (√(n / d : ℝ)) (sqrtVal f r (.num false n d)) := by
  obtain ⟨hnum, hden⟩ := sqrtFrac_pos (k := Nat.log2 d + 1 + 128) hn hd
  rw [sqrtVal, if_neg hn.ne', if_neg Bool.false_ne_true]
  exact (agree_sqrtFrac hn hd le_rfl).isRounded hf hrb (isRounded_roundNum hf hrm hnum hden)

end

end Sys2Proof.Machine

namespace Sys2Proof.Claims

open Sys2Proof.Machine

theorem roundedResults : RoundedResults := by
  intro f r hf hrm hrb
  refine ⟨fun neg e he => unpack_withSign hf neg he, fun neg n d hn hd => isRounded_roundNum hf hrm hn hd, roundNum_zero f r,
    fun a b p q ha hb => ⟨?add, ?addZero, ?mul, ?mulZero, ?div, ?divZero, ?fma⟩, fun n d hn hd => isRounded_sqrtVal hf hrm hrb hn hd,
    fun a b h => nan_results h⟩
  case add => exact resultOf_addVal hf hrm ha hb
  case addZero => exact addVal_of_zero ha hb
  case mul => exact resultOf_mulVal hf hrm ha hb
  case mulZero => exact mulVal_of_zero ha hb
  case div => exact resultOf_divVal hf hrm ha hb
  case divZero => exact fun _ => divVal_of_zero ha hb
  case fma => exact fun ng c z hc => resultOf_fmaVal hf hrm ha hb hc

/-- Settles O14: a written group register by register; and Round by the place of a magnitude between two encodings, on which the exact
results of the operations, roots among them, then rest. -/
theorem groupElements : Obligations.GroupElements := ⟨groupPlaces, roundedResults⟩

end Sys2Proof.Claims
end

section

namespace Sys2Proof.Machine

open Claims

/-! ### The checks of the matrix unit (R52, R54, R246) -/

/-- A tile operand lies within n tile slots, and is even where it is f64 (R54). -/
def TileWithin (n k : Nat) (f64 : Bool) : Prop := if f64 then k % 2 = 0 ∧ k + 1 < n else k < n

section
variable {m : Mach} {k : Nat} {f64 : Bool}

theorem tileWithin_of_tileOk {s : State} {t : Thread} (h : TileOk s t k f64) (tid : Nat) :
    TileWithin (found s tid t).tiles k f64 := h

theorem tileBreach_of_within {n : Nat} (h : TileWithin n k f64) : tileBreach n k f64 = none := by
  cases f64 with
  | false => simpa [tileBreach, TileWithin] using h
  | true =>
    obtain ⟨heven, hlt⟩ := h
    have hodd : ¬ k % 2 = 1 := by omega
    have hfirst : ¬ n ≤ k := by omega
    have hsecond : ¬ n ≤ k + 1 := by omega
    simp [tileBreach, hodd, hfirst, hsecond]

theorem run_needTile (h : TileWithin m.tiles k f64) : (needTile k f64).run m = .ok () m := by
  refine (run_bind_ok (run_get m)).trans ?_
  rw [tileBreach_of_within h]
  rfl

theorem run_needGroup {v : BitVec 5} {n : Nat} (h : v.toNat + n ≤ m.vregs) : (needGroup v n).run m = .ok () m := by
  refine (run_bind_ok (run_get m)).trans ?_
  rw [decide_eq_false (Nat.not_lt.mpr h), run_faultIf_false]

theorem run_needPanels {ps : List Nat} (h : ∀ p ∈ ps, ((m.st.core m.core).panel p).owner = some m.th.crew) :
    (needPanels ps).run m = .ok () m := by
  induction ps with
  | nil => rfl
  | cons p ps ih =>
    obtain ⟨hp, hps⟩ := List.forall_mem_cons.mp h
    have hone : (needPanel p).run m = .ok () m := by
      refine (run_bind_ok (run_get m)).trans ?_
      rw [decide_eq_false (not_not.mpr hp), run_faultIf_false]
    exact (run_bind_ok hone).trans (ih hps)

end

/-! ### The queue of the loom (R255) -/

section
variable {m : Mach}

theorem run_enqueue {op : LoomOp} (h : (m.st.core m.core).loom.length < 2) : (enqueue op).run m = .ok () (queued op m) := by
  refine (run_bind_ok (run_get m)).trans ((congrArg (EStateM.run · m) (if_neg ?_)).trans (run_set ..))
  exact Nat.not_le.mpr h

/-- A command queued by an instruction with a rounding field (R189, R255). -/
theorem run_enqueue_stepping {op : LoomOp} (rm : BitVec 3) (h : (m.st.core m.core).loom.length < 2) :
    (do enqueue op; stepRounding rm.toNat : M Unit).run m = .ok () (onAr (steppedSr rm) (queued op m)) := by
  refine (run_bind_ok (run_enqueue h)).trans ?_
  rw [stepRounding, run_onArch, stepSr_eq_steppedSr]
  rfl

end

/-! ### Scale factors (R263) -/

section
variable (a : Arch) (f64 : Bool) (c : BitVec 5) (rs cs : BitVec 1)

theorem factorsOf_eq_factorsAt (v : Nat) : factorsOf a f64 v = factorsAt a f64 v := by cases f64 <;> rfl

theorem rowFactors_eq : rowFactors a f64 c rs = if rs = 1 then factorsAt a f64 c.toNat else [] := by
  rw [rowFactors, factorsOf_eq_factorsAt]

theorem colFactors_eq : colFactors a f64 c rs cs =
    if cs = 1 then factorsAt a f64 (c.toNat + (if f64 then 2 else 1) * rs.toNat) else [] := by
  rw [colFactors, factorsOf_eq_factorsAt]

end

/-! ### The compute instructions of the loom (R258, R262, R263, R266) -/

section
variable {m m1 m2 : Mach} {d t : BitVec 4} {f set rs cs : BitVec 1} {rb ra : BitVec 6} {nc ks : BitVec 2} {rm : BitVec 3}
  {c : BitVec 5} {disp : BitVec 16} {rows : List (List (Word × Loc))} {vs : List Nat}
variable (ha : m.ar.arming = none)
include ha

theorem run_opMacc (htile : TileWithin m.tiles d.toNat (f == 0))
    (hrows : Gives (needRowsLowest .load (addrM m.ar ra disp) (if rb = 0 then (if f == 0 then 128 else 64) else m.ar.getX rb) 16
      (if f == 0 then 128 else 64)) m rows m1)
    (hread : Gives (readDwords rows.flatten) m1 vs m2) (hroom : (m2.st.core m2.core).loom.length < 2) :
    (opMacc d f rb ra set rm disp).run m = .ok () (onAr (steppedSr rm)
      (queued (.acc d.toNat (f == 0) (set == 1) rm.toNat (splitDwords (if f == 0 then 64 else 32) vs)) m2)) := by
  have hbits : (tileFmt (f == 0)).bits = if f == 0 then 64 else 32 := by cases f == 0 <;> rfl
  have hlen : 2 * (if f == 0 then 64 else 32) = if f == 0 then 128 else 64 := by cases f == 0 <;> rfl
  have hword : BitVec.ofNat 64 (if f == 0 then 128 else 64) = if f == 0 then 128 else 64 := by cases f == 0 <;> rfl
  refine (run_bind_ok (run_needTile htile)).trans ((run_bind_ok (run_notArming ha)).trans ((run_bind_ok (run_get m)).trans ?_))
  dsimp only
  rw [hbits, hlen, hword, memAddr_eq_addrM]
  exact (run_bind_ok hrows).trans ((run_bind_ok hread).trans (run_enqueue_stepping rm hroom))

variable (hv : vecAllowed m.ar = true) (hroom : (m.st.core m.core).loom.length < 2)
include hv hroom

theorem run_opMzero (htile : TileWithin m.tiles d.toNat (f == 0)) :
    (opMzero d f).run m = .ok () (queued (.zero d.toNat (f == 0)) m) :=
  (run_bind_ok (run_needTile htile)).trans ((run_bind_ok (run_notArming ha)).trans
    ((run_bind_ok (run_needVec hv)).trans (run_enqueue hroom)))

theorem run_opMma {op : LoomOp} (hop : op = .mma t.toNat d.toNat ra.toNat rb.toNat nc.toNat ks.toNat)
    (htile : TileWithin m.tiles d.toNat (t == 8))
    (hown : ∀ p ∈ op.panels, ((m.st.core m.core).panel p).owner = some m.th.crew)
    (hpat : nc ≠ 0 → ((m.st.core m.core).panel rb.toNat).pattern.map Prod.snd = some (sparseN nc.toNat)) :
    (opMma d t rb ra nc ks).run m = .ok () (queued op m) := by
  subst hop
  have hfits : (nc != 0 && decide (((m.st.core m.core).panel rb.toNat).pattern.map Prod.snd ≠ some (sparseN nc.toNat))) = false := by
    by_cases hnc : nc = 0
    · simp [hnc]
    · simp [hpat hnc]
  refine (run_bind_ok (run_needTile htile)).trans ((run_bind_ok (run_notArming ha)).trans
    ((run_bind_ok (run_needPanels hown)).trans ((run_bind_ok (run_get m)).trans ?_)))
  dsimp only
  rw [hfits]
  exact (run_bind_ok (run_faultIf_false ..)).trans ((run_bind_ok (run_needVec hv)).trans (run_enqueue hroom))

theorem run_opMscl (htile : TileWithin m.tiles d.toNat (f == 0))
    (hfit : c.toNat + (if f == 0 then 2 else 1) * (rs.toNat + cs.toNat) ≤ m.vregs) :
    (opMscl d f rm c rs cs).run m = .ok () (onAr (steppedSr rm) (queued (.scale d.toNat (f == 0) rm.toNat
      (if rs = 1 then factorsAt m.ar (f == 0) c.toNat else [])
      (if cs = 1 then factorsAt m.ar (f == 0) (c.toNat + (if f == 0 then 2 else 1) * rs.toNat) else [])) m)) := by
  rw [← rowFactors_eq, ← colFactors_eq]
  exact (run_bind_ok (run_needTile htile)).trans ((run_bind_ok (run_needGroup hfit)).trans ((run_bind_ok (run_notArming ha)).trans
    ((run_bind_ok (run_needVec hv)).trans ((run_bind_ok (run_get m)).trans (run_enqueue_stepping rm hroom)))))

end

end Sys2Proof.Machine

namespace Sys2Proof.Claims

open Sys2Proof.Machine

/-- Settles O19: each compute instruction passes its checks, reads its operands and enters the queue. -/
theorem loomQueueResults : Obligations.LoomQueueResults := by
  intro s tid t d ty f set rb ra nc ks rm c rs cs disp hb hfree hroom w per
  obtain ⟨ha, hv⟩ := hfree
  refine ⟨fun htile => ?mzero, fun htile hown hpat => ?mma, fun htile hfit => ?mscl,
    fun htile rows m1 vs m2 hrows hread hroom2 => ?macc⟩
  case mzero => exact hb.retires rfl (run_opMzero (m := found s tid t) ha hv hroom (tileWithin_of_tileOk htile tid))
  case mma => exact hb.retires rfl (run_opMma (m := found s tid t) ha hv hroom rfl (tileWithin_of_tileOk htile tid) hown hpat)
  case mscl =>
    exact hb.retires rfl (run_opMscl (m := found s tid t) ha hv hroom (tileWithin_of_tileOk htile tid)
      (hfit (c, per * (rs.toNat + cs.toNat)) (by simp)))
  case macc => exact hb.retires rfl (run_opMacc (m := found s tid t) ha (tileWithin_of_tileOk htile tid) hrows hread hroom2)

end Sys2Proof.Claims
end

section

namespace Sys2Proof.Machine

open Claims

/-! ### The rows of a drain leave the registers as they are (R138, R264) -/

section
variable {a : Arch} {m : Mach}

@[simp] theorem keepsArch_faultIf (b : Bool) (c : Nat) (v : Word) : KeepsArch a (faultIf b c v) m := by simp [faultIf]
@[simp] theorem keepsArch_needVec : KeepsArch a needVec m := by simp [needVec]

@[simp] theorem keepsArch_locateWords (k : Access) (vas : List Word) : KeepsArch a (locateWords k vas) m := by
  induction vas generalizing a m with
  | nil => simp [locateWords]
  | cons va vas ih => simp [locateWords, ih]

@[simp] theorem keepsArch_needRowsLowest (k : Access) (b s : Word) (count n : Nat) :
    KeepsArch a (needRowsLowest k b s count n) m := by simp [needRowsLowest]

end

/-! ### The panel commands and MDRAIN (R248, R259-R261, R264) -/

section
variable {m m1 : Mach} {d rb ra : BitVec 6} {t dt ot : BitVec 4} {nc : BitVec 2} {f tr sat rs cs : BitVec 1} {rm : BitVec 3}
  {c : BitVec 5} {disp : BitVec 16} {rows : List (List (Word × Loc))}

theorem run_leavePanel (m : Mach) (p : Nat) (op : PanelOp) :
    (leavePanel p op).run m = .ok () (endsAs .cut (carry (.panel p op) m)) := rfl

/-- A check that is made under a condition, and passed. -/
theorem run_check_of {b : Prop} [Decidable b] {p : M Unit} {q : Unit → M Unit} (h : b → p.run m = .ok () m) :
    (if b then p >>= q else q ()).run m = (q ()).run m := by
  split
  · next hb => exact run_bind_ok (h hb)
  · rfl

variable (ha : m.ar.arming = none)
include ha

theorem run_opLoadPanel {isB : Bool} {sh : Nat × Nat} (hsh : sh = loadShape (geoOf t.toNat) isB (sparseN nc.toNat) (tr == 1))
    (hrows : Gives (needRows .load (addrM m.ar ra disp) (if rb = 0 then BitVec.ofNat 64 sh.2 else m.ar.getX rb) sh.1 sh.2) m rows m1) :
    (opLoadPanel isB d t rb ra nc tr disp).run m =
      .ok () (endsAs .cut (carry (.panel d.toNat (.load t.toNat (tr == 1) (sparseN nc.toNat) (rowAddrs rows))) m1)) := by
  subst hsh
  refine (run_bind_ok (run_notArming ha)).trans ((run_bind_ok (run_get m)).trans ?_)
  dsimp only
  rw [memAddr_eq_addrM]
  exact (run_bind_ok hrows).trans (run_leavePanel ..)

theorem run_opMdrain {len : Nat} {op : LoomOp} (hlen : len = 2 * (fmtOf ot.toNat).bits)
    (hop : op = .drain dt.toNat (f == 0) rm.toNat (sat == 1) ot.toNat (if rs = 1 then factorsAt m.ar (f == 0) c.toNat else [])
      (if cs = 1 then factorsAt m.ar (f == 0) (c.toNat + (if f == 0 then 2 else 1) * rs.toNat) else []) (rowAddrs rows))
    (htile : TileWithin m.tiles dt.toNat (f == 0))
    (hfit : rs = 1 ∨ cs = 1 → c.toNat + (if f == 0 then 2 else 1) * (rs.toNat + cs.toNat) ≤ m.vregs)
    (hrows : Gives (needRowsLowest .store (m.ar.getX ra) (if rb = 0 then BitVec.ofNat 64 len else m.ar.getX rb) 16 len) m rows m1)
    (hbuffer : (m1.st.core m1.core).drainUsed + op.captured ≤ 8192) (hroom : (m1.st.core m1.core).loom.length < 2) :
    (opMdrain dt f rb ra sat rm c ot rs cs).run m =
      .ok () (onAr (steppedSr rm) (carry (.drain m1.st.nextId) (queued op m1))) := by
  have har : m1.ar = m.ar := ar_of_ok (by simp) hrows
  rw [← har, ← rowFactors_eq, ← colFactors_eq] at hop
  subst hlen hop
  refine (run_bind_ok (run_needTile htile)).trans ((run_check_of (fun h => run_needGroup (hfit h))).trans
    ((run_bind_ok (run_notArming ha)).trans ((run_bind_ok (run_get m)).trans ((run_bind_ok hrows).trans
      ((run_bind_ok (run_get m1)).trans ?_)))))
  refine (congrArg (EStateM.run · m1) (if_neg (Nat.not_lt.mpr hbuffer))).trans ((run_bind_ok (run_enqueue hroom)).trans
    ((run_bind_ok (run_emit ..)).trans ?_))
  rw [stepRounding, run_onArch, stepSr_eq_steppedSr]
  rfl

variable (hv : vecAllowed m.ar = true)
include hv

theorem run_opMseed : (opMseed d ra nc).run m =
    .ok () (endsAs .cut (carry (.panel d.toNat (.seed (m.ar.getX ra) (sparseN nc.toNat))) m)) :=
  (run_bind_ok (run_notArming ha)).trans ((run_bind_ok (run_needVec hv)).trans ((run_bind_ok (run_get m)).trans (run_leavePanel ..)))

theorem run_opMcprs (hown : ∀ p ∈ [ra.toNat, ra.toNat + 1, ra.toNat + 2], ((m.st.core m.core).panel p).owner = some m.th.crew) :
    (opMcprs d t rb ra nc).run m =
      .ok () (endsAs .cut (carry (.panel d.toNat (.compress t.toNat ra.toNat (m.ar.getX rb) (sparseN nc.toNat))) m)) :=
  (run_bind_ok (run_notArming ha)).trans ((run_bind_ok (run_needPanels hown)).trans ((run_bind_ok (run_needVec hv)).trans
    ((run_bind_ok (run_get m)).trans (run_leavePanel ..))))

/-! ### The status of the matrix unit (R267, R268) -/

/-- MWAIT behind its checks. -/
theorem run_opMwait (hc : m.ch.count = 0) (ho : m.th.chunks = []) : (opMwait d).run m =
    if matrixOut m.st m.tid = 0 then .ok () (carry .matrixSeen
      (putX d (BitVec.ofNat 64 (m.th.owned.toNat + 2 * m.th.guard.toNat)) (endsAs .alone m)))
    else .error (.sleep (.matrix d)) (endsAs .alone m) := by
  refine (run_bind_ok (run_notArming ha)).trans ((run_bind_ok (run_needVec hv)).trans ((run_bind_ok (run_standAlone hc)).trans
    ((run_bind_ok (run_get _)).trans ?_)))
  refine (congrArg (EStateM.run · _) (if_neg (not_not.mpr ho))).trans ?_
  by_cases h : matrixOut m.st m.tid = 0
  · exact (congrArg (EStateM.run · _) (if_neg (not_not.mpr h))).trans (if_pos h).symm
  · exact (congrArg (EStateM.run · _) (if_pos h)).trans (if_neg h).symm

end

end Sys2Proof.Machine

namespace Sys2Proof.Claims

open Sys2Proof.Machine

/-- A head, the first of its chunk, whose operation falls asleep with nothing done but the end of its chunk noted, and not at a word
that a deterministic turn waits for. -/
theorem Begins.sleeps {s : State} {tid : Nat} {t : Thread} {i : Instr} {op : M Unit} {m : Mach} {r : Run} (hb : Begins s tid t)
    (hf : First s t) (he : exec i s = runHead s op) (hst : m.st = here s) (har : m.ar = t.arch) (hr : (here s).waitedAt t r = here s)
    (h : op.run (found s tid t) = .error (.sleep r) m) :
    exec i s = .next ((here s).setThread tid
      { t with chunks := t.older, run := r, pending := pendingAsleep t r, replies := repliesAsleep t r }) := by
  obtain ⟨hi, t0, ht, hw, rfl⟩ := hb
  have hc : ¬ 0 < (t0.clearRep.current { s with issuing := none, cutNow := false }).count := Nat.not_lt.mpr (Nat.le_of_eq hf)
  have hexec := he.trans (runHead_error hi ht hw h)
  rw [unissue_of_ne (by simp), hst, har] at hexec
  simp only [stopped, if_neg hc] at hexec
  rw [hexec]
  exact congrArg _ (congrArg (State.setThread · _ _) hr)

theorem panelAndDrainResults : PanelAndDrainResults := by
  intro s tid t d ty ot dt rb ra nc tr f sat rm c rs cs disp hb hfree
  obtain ⟨ha, hv⟩ := hfree
  refine ⟨fun n rows m1 hn hrows => ?mlda, fun sh rows m1 hsh hrows => ?mldb, ?mseed, fun hown => ?mcprs, ?mdrain⟩
  case mlda =>
    subst hn
    exact hb.retires rfl (run_opLoadPanel (m := found s tid t) (nc := 0) (tr := 0) ha rfl hrows)
  case mldb => exact hb.retires rfl (run_opLoadPanel (m := found s tid t) ha hsh hrows)
  case mseed => exact hb.retires rfl (run_opMseed (m := found s tid t) ha hv)
  case mcprs => exact hb.retires rfl (run_opMcprs (m := found s tid t) ha hv hown)
  case mdrain =>
    intro w per len htile hfit rows m1 hrows op hbuffer hroom
    exact hb.retires rfl (run_opMdrain (m := found s tid t) ha rfl rfl (tileWithin_of_tileOk htile tid)
      (fun h => hfit h (c, per * (rs.toNat + cs.toNat)) (by simp)) hrows hbuffer hroom)

theorem matrixStatusResults : MatrixStatusResults := by
  intro s tid t d ra hb hfree busy p
  obtain ⟨ha, hv⟩ := hfree
  refine ⟨?mstat, ?mstatP, fun hf ho hout => ?answers, fun hf ho hout => ?sleeps⟩
  case mstat =>
    exact hb.retires rfl ((run_bind_ok (run_notArming (m := found s tid t) ha)).trans (run_bind_ok (run_needVec hv)))
  case mstatP =>
    exact hb.retires rfl ((run_bind_ok (run_notArming (m := found s tid t) ha)).trans (run_bind_ok (run_needVec hv)))
  case answers => exact hb.retires rfl ((run_opMwait (m := found s tid t) ha hv hf ho).trans (if_pos hout))
  case sleeps =>
    rw [hb.sleeps hf rfl rfl rfl rfl ((run_opMwait (m := found s tid t) ha hv hf ho).trans (if_neg hout)), ho]
    rfl

/-- Settles O21: each panel command leaves with its chunk behind its checks and its rows, a drain also enters the queue, and the status
instructions read what the thread has out. -/
theorem panelResults : Obligations.PanelResults := ⟨panelAndDrainResults, matrixStatusResults⟩

end Sys2Proof.Claims
end

section

namespace Sys2Proof.Machine

open Claims

/-! ### Tiles (R54, R258) -/

section
variable (a : Arch) (r : BitVec 4) (v : Tile)

theorem getA_setA_self : (a.setA r v).getA r = v := Vector.getElem_set_self ..

theorem getA_setA_ne {q : BitVec 4} (h : q ≠ r) : (a.setA r v).getA q = a.getA q :=
  Vector.getElem_set_ne r.isLt q.isLt fun hn => h (BitVec.eq_of_toNat_eq hn.symm)

end

theorem packElems_replicate_zero (w n : Nat) : packElems w (List.replicate n 0) = 0 := by
  induction n with
  | zero => rfl
  | succ n ih => simp [List.replicate_succ, packElems, ih]

@[simp] theorem raiseLast_arch (t : Thread) (f : BitVec 5) : (t.raiseLast f).arch = t.arch := by
  unfold Thread.raiseLast
  split <;> rfl

/-! ### The loom's command at the head of its queue (R255, R258) -/

section
variable {s : State} {core : Nat} {k : LoomCmd} {ks : List LoomCmd}

/-- The loom performs its command where no panel that it names is loading. -/
theorem loomStep_of_ready (hq : (s.core core).loom = k :: ks) (h : ∀ q ∈ k.op.panels, ((s.core core).panel q).state ≠ 1) :
    loomStep s core = (s.setCore core { s.core core with loom := ks }).performLoom core k := by
  have hnone : (k.op.panels.any fun p => (s.core core).loading k.id p) = false :=
    List.any_eq_false.mpr fun q hq => by simp [Core.loading, h q hq]
  simp [loomStep, hq, hnone]

/-- MZERO leaves a tile of zeros and raises no flag. -/
theorem performLoom_zero {t : Thread} {a : Nat} (ht : s.thread k.tid = some t) (hk : k.op = .zero a false) :
    s.performLoom core k = s.setThread k.tid (Thread.raiseLast { t with arch := t.arch.setA (BitVec.ofNat 4 a) 0 } 0) := by
  have htile (c : Core) (v : Word) : loomTile c v t.arch k = some (a, false, List.replicate 256 0, 0) := by rw [loomTile, hk]
  have hseed (c : Core) : sparseSeed s c k.op = (0, s) := by rw [hk]; rfl
  have hput : t.arch.putTile a false (List.replicate 256 0) = t.arch.setA (BitVec.ofNat 4 a) 0 := by
    rw [Arch.putTile, if_neg Bool.false_ne_true, packElems_replicate_zero]
    rfl
  simp only [State.performLoom, ht, htile, hseed, hput]

end

/-! ### Panels (R246, R248) -/

section
variable (c : Core) (p q : Nat) (v : Panel)

theorem panel_setPanel : (c.setPanel p v).panel q = if q = p then v else c.panel q := by
  by_cases h : q = p
  · simp [Core.panel, Core.setPanel, assocGetD, h]
  · simp [Core.panel, Core.setPanel, assocGetD, assocGet?_assocSet_ne h, h]

@[simp] theorem panel_setPanel_self : (c.setPanel p v).panel p = v := by rw [panel_setPanel, if_pos rfl]

end

/-- Panels brought to the ready state. -/
def readied (ps : List Nat) (c : Core) : Core := ps.foldl (fun c p => c.setPanel p { c.panel p with state := 2 }) c

theorem state_readied_of_ready {ps : List Nat} {c : Core} {q : Nat} (h : q ∈ ps ∨ (c.panel q).state = 2) :
    ((readied ps c).panel q).state = 2 := by
  induction ps generalizing c with
  | nil => exact h.resolve_left List.not_mem_nil
  | cons p ps ih =>
    refine ih ?_
    by_cases hq : q ∈ ps
    · exact .inl hq
    · right
      rw [panel_setPanel]
      split
      · rfl
      · next hne => exact h.resolve_left (by simp [hne, hq])

section
variable {s : State} {core : Nat} {k : PanelCmd} {ks : List PanelCmd}

/-- What a panel command reads is checked without a byte being changed (R376, R437). -/
theorem sameStore_panelChecks (s : State) (core : Nat) (k : PanelCmd) : State.SameStore s (s.panelChecks core k) := by
  unfold State.panelChecks
  dsimp only
  split
  · exact .refl s
  · have hcounted : State.SameStore s { s with free := s.free + k.op.dwords.length } := ⟨rfl, rfl⟩
    exact hcounted.trans (State.foldl_rel State.SameStore.refl State.SameStore.trans
      (fun s l _ => (⟨rfl, rfl⟩ : State.SameStore s (s.unitCheck ..))) _)

theorem panelReadyStep_of_performed {q : Nat} (hq : (s.core core).panelQ = k :: ks) (hp : k.performed = true) (hw : q ∈ k.writes)
    (hks : ∀ x ∈ ks, x.claimed = false) :
    panelReadyStep s core q = s.setCore core { readied k.writes (s.core core) with panelQ := ks } := by
  have hcond : (k.performed && k.writes.contains q) = true := by simp [hp, hw]
  have hall : (k.writes.filter fun p => !([] : List Nat).contains p) = k.writes := by simp
  simp only [panelReadyStep, hq, hcond, if_true]
  rw [(List.filter_eq_nil_iff (l := ks)).mpr, List.flatMap_nil, hall]
  · rfl
  · intro x hx
    split <;> simp [hks x hx]

variable (hq : (s.core core).panelQ = k :: ks) (hc : k.claimed = true) (hp : k.performed = false)
  (hb : ∀ l ∈ (s.core core).loom, l.id ∉ k.before) (hpost : s.postHeld none k.op.dwords = false)
  (hhome : ∀ d ∈ k.op.dwords, s.homeHeld (d / 8) = false)

include hc hp hb hpost hhome in
/-- Nothing holds up a claimed command at the head of the panel queue. -/
theorem panelHeld_eq_false : (!k.claimed || k.performed || ((s.core core).loom.any fun l => k.before.contains l.id) ||
    s.postHeld none k.op.dwords || (k.op.dwords.any fun d => s.homeHeld (d / 8))) = false := by
  have hloom : ((s.core core).loom.any fun l => k.before.contains l.id) = false :=
    List.any_eq_false.mpr fun l hl => by simpa using hb l hl
  have hhomes : (k.op.dwords.any fun d => s.homeHeld (d / 8)) = false :=
    List.any_eq_false.mpr fun d hd => by simp [hhome d hd]
  simp only [hc, hp, hloom, hpost, hhomes, Bool.not_true, Bool.or_self]

include hq hc hp hb hpost hhome

/-- A pattern alone completes at once. -/
theorem panelStep_of_seed {v : Word} {n : Nat} (hop : k.op = .seed v n) : panelStep s core =
    s.setCore core { (s.core core).setPanel k.panel { (s.core core).panel k.panel with pattern := some (v, n) } with panelQ := ks } := by
  have hchecks : s.panelChecks core k = s := by rw [State.panelChecks, hop]; rfl
  have hguard := panelHeld_eq_false hc hp hb hpost hhome
  simp only [panelStep, hq, hguard, hchecks, Bool.false_eq_true, if_false]
  simp only [hop, Core.performPanel]

/-- Another command stays at the head, performed. -/
theorem panelStep_of_load (hop : ∀ v n, k.op ≠ .seed v n) : panelStep s core = (s.panelChecks core k).setCore core
    { Core.performPanel s (s.core core) k with panelQ := { k with performed := true } :: ks } := by
  have hguard := panelHeld_eq_false hc hp hb hpost hhome
  rw [panelStep, hq]
  dsimp only
  rw [hguard, if_neg Bool.false_ne_true]
  split
  · next v n h => exact absurd h (hop v n)
  · rfl

end

end Sys2Proof.Machine
end

section

namespace Sys2Proof.Machine

open Claims

/-- A crew that is not being stopped holds up none of its units. -/
theorem any_stopping_eq_false {s : State} {crew : Nat} (h : ∀ w, s.crew crew = some w → w.stopping = none) :
    (s.crew crew).any (fun w => w.stopping.isSome) = false := by
  cases hw : s.crew crew with
  | none => rfl
  | some w => simp [h w hw]

/-! ### Engine chunks (R272-R277) -/

section
variable {s : State} {core i j : Nat} {e : EngEntry}

/-- The engine performs a chunk of a command that it works on, at the command's turn. -/
theorem engineStep_of_turn (h : EngineAt s core i e) (j : Nat) : engineStep s core i j = took (s.engineChunk core e j) core e := by
  obtain ⟨hi, hheld, he, hw, hturn⟩ := h
  have hbegins : ¬ (engineWindow ≤ i ∨ s.held 2 core = true) := by
    rw [hheld]
    exact not_or.mpr ⟨Nat.not_le.mpr hi, Bool.false_ne_true⟩
  have hruns := any_stopping_eq_false hw
  simp only [engineStep, if_neg hbegins, he, hruns, hturn, Bool.not_true, Bool.or_self, Bool.false_eq_true, if_false]
  rfl

section
variable (hk : ∀ b x y v, e.cmd.kind ≠ .contrib b x y v)
include hk

theorem engineChunk_of_payload (hs : e.status = .done) (hlen : e.done.length < e.cmd.chunks) (hj : e.cmd.hasChunk j = true)
    (hnew : j ∉ e.done) : s.engineChunk core e j = s.enginePayload core e j := by
  have hdue : (e.cmd.hasChunk j && !e.done.contains j) = true := by simp [hj, hnew]
  unfold State.engineChunk
  split
  · next b x y v h => exact absurd h (hk b x y v)
  · rw [if_pos ⟨hs, hlen⟩, if_pos hdue]

theorem engineChunk_of_final (h : e.status ≠ .done ∨ e.cmd.chunks ≤ e.done.length) : s.engineChunk core e j = s.engineFinal core e := by
  have hover : ¬ (e.status = .done ∧ e.done.length < e.cmd.chunks) := by
    rintro ⟨hs, hlen⟩
    exact h.elim (· hs) (Nat.not_le.mpr hlen)
  unfold State.engineChunk
  split
  · next b x y v h => exact absurd h (hk b x y v)
  · rw [if_neg hover]

end

theorem enginePayload_of_cells {cells : List EngCell} (h : engCells s.settleAll core e j = .ok cells) :
    s.enginePayload core e j = State.engineWrite { s.settleAll with free := s.settleAll.free + 64 } core e cells j := by
  simp only [State.enginePayload, h]
  rfl

/-- A failed check ends a command that had not failed (R276, R278). -/
theorem enginePayload_of_fault {d : Bool} {va : Word} (hs : e.status = .done)
    (h : engCells s.settleAll core e j = .error (.fault d va)) : s.enginePayload core e j =
      (failed s.settleAll core { e with status := .fault, value := (if d then 2 ^ 47 else 0) + va.toNat % 2 ^ 47 }, true) := by
  have hvalue : failValue d va = (if d then 2 ^ 47 else 0) + va.toNat % 2 ^ 47 := by cases d <;> simp [failValue]
  have hfail : e.fail .fault (failValue d va) =
      { e with status := .fault, value := (if d then 2 ^ 47 else 0) + va.toNat % 2 ^ 47 } := by rw [EngEntry.fail, if_pos hs, hvalue]
  simp only [State.enginePayload, h, State.engineStopped, hfail]
  simp [State.engineNow, EngEntry.over, failed]

/-- A contribution whose elements have been captured leaves for a node of its module (R294, R296). -/
theorem engineChunk_of_captured {b x y : Nat} {v : List Nat} (hk : e.cmd.kind = .contrib b x y (some v)) (hsent : e.sent = false)
    (hs : e.status = .done) (hb : regionOf b ≠ 2) : s.engineChunk core e j =
      (State.setEngine { s.settleAll with contributions := s.settleAll.contributions ++ [⟨b, 0, x, v, some (core, e.id)⟩] } core
        { e with sent := true }, true) := by
  simp [State.engineChunk, hk, State.engineContrib, hsent, hs, hb]

theorem contributions_settleAll (s : State) : s.settleAll.contributions = s.contributions := by
  obtain ⟨_, _, _, _, _, _, _, _, _, _, h⟩ := State.onlyApplied_settled s (s.fars.map fun f => f.far.pa / 8)
  rw [State.settleAll, h]

end

/-! ### Acknowledged payload writes (R280) -/

section
variable {s : State} {core i : Nat} {e : EngEntry}

theorem payloadAck_of_none (he : (s.core core).engine[i]? = some e)
    (h : ∀ l ∈ s.links, ∀ va bytes, l.2.kind ≠ .payload core e.id va bytes) : payloadAck s core i = s := by
  simp only [payloadAck, he]
  split
  · rfl
  · next l hl =>
    have hkind := List.find?_some hl
    split at hkind
    · next c id va bytes hk =>
      obtain ⟨rfl, rfl⟩ : c = core ∧ id = e.id := by simpa using hkind
      exact absurd hk (h l (List.mem_of_find?_eq_some hl) va bytes)
    · cases hkind

theorem payloadAck_of_first {id : Nat} {va : Word} {bytes : List Host.Cell} {more : List (Nat × LinkReq)} {r : LinkReq}
    (he : (s.core core).engine[i]? = some e) (hl : s.links = (id, r) :: more) (hr : r.kind = .payload core e.id va bytes)
    (hout : ∀ x ∈ bytes, regionOf x.1 ≠ 0) : payloadAck s core i =
      ({ s with links := more.filter fun x => decide (x.1 ≠ id) } : State).ackPayload core e.id := by
  have hheld : s.remoteHeld bytes = false := by
    cases bytes with
    | nil => rfl
    | cons b bs => simp [State.remoteHeld, hout b List.mem_cons_self]
  have hstays (s' : State) : (bytes.head?.map fun b => s'.remoteCommit b.1 bytes).getD s' = s' := by
    cases bytes with
    | nil => rfl
    | cons b bs => exact remoteCommit_of_beyond (hout b List.mem_cons_self)
  simp [payloadAck, he, hl, hr, hheld, hstays]

end

/-! ### Contributions and timeouts of reductions (R292-R295) -/

section
variable {s : State} {i : Nat} {c : Contribution} {r : Reduction}

/-- A reduction with one more contribution of its members. -/
def Reduction.withValues (r : Reduction) (c : Contribution) : Reduction := { r with arrived := assocSet c.index c.values r.arrived }

/-- What has become of the machine once a peer's contribution is accepted. -/
def accepted (s : State) (i : Nat) (c : Contribution) (r : Reduction) : State :=
  { s with contributions := s.contributions.eraseIdx i,
           reductions := s.reductions.map (fun x => if x.block = r.block then r.withValues c else x),
           answers := s.answers ++ [(c.block, [0])] }

theorem contributionArrives_of_gone (hc : s.contributions[i]? = some c) (hr : ∀ r ∈ s.reductions, r.block ≠ c.block)
    (hs : s.savedInstance c.block = none) (hsrc : c.source = none) (hl : c.level = 0) : contributionArrives s i =
      { s with contributions := s.contributions.eraseIdx i, answers := s.answers ++ [(c.block, [1])] } := by
  have hfind : (s.reductions.find? fun r => r.block = c.block) = none := List.find?_eq_none.mpr fun r h => by simpa using hr r h
  simp [contributionArrives, hc, hfind, hs, State.contributionDone, hsrc, hl]

theorem contributionArrives_of_taken (hc : s.contributions[i]? = some c)
    (hr : (s.reductions.find? fun x => decide (x.block = c.block)) = some r) (ht : TakesValues s r c)
    (hi : c.index < declNcon (r.words.headD 0)) (hnew : ∀ e ∈ r.arrived, e.1 ≠ c.index)
    (htime : declTimeout (r.words.headD 0) = 0 ∨ s.time ≤ r.opened + 1000 * declTimeout (r.words.headD 0))
    (hsrc : c.source = none) (hl : c.level = 0) :
    contributionArrives s i = (accepted s i c r).nodeDone (r.withValues c) 0 c.index := by
  obtain ⟨hw, hroot, hwait, hheld⟩ := ht
  have hruns := any_stopping_eq_false hw
  have htakes : r.discards c s.time = false := by
    have hlate : r.late s.time = false := by
      rw [Reduction.late, Bool.and_eq_false_iff, decide_eq_false_iff_not, decide_eq_false_iff_not, not_not, Nat.not_lt]
      exact htime
    have hany : (r.arrived.any fun e => decide (e.1 = c.index)) = false :=
      List.any_eq_false.mpr fun e he => by simpa using hnew e he
    rw [Reduction.discards, hlate, hany, decide_eq_false (Nat.not_le.mpr hi), Bool.or_self, Bool.or_self, Bool.and_false]
  have haccept : r.accept c = r.withValues c := by rw [Reduction.accept, if_pos hl, Reduction.withValues]
  simp only [contributionArrives, hc, hr, hsrc, hl, Option.bind_none, Option.map_none, Nat.zero_add, hruns, hheld, hroot, hwait,
    Bool.or_self, Bool.false_eq_true, if_false, htakes, haccept, State.contributionDone, and_self, if_true]
  rfl

/-- The reduction found for a block holds the accepted value. -/
theorem find_accepted (hr : (s.reductions.find? fun x => decide (x.block = c.block)) = some r) :
    ((accepted s i c r).reductions.find? fun x => decide (x.block = c.block)) = some (r.withValues c) := by
  have hsame : ((fun x : Reduction => decide (x.block = c.block)) ∘ fun x => if x.block = r.block then r.withValues c else x) =
      fun x => decide (x.block = c.block) := by
    funext x
    by_cases h : x.block = r.block <;> simp [h, Reduction.withValues]
  rw [accepted, List.find?_map, hsame, hr, Option.map_some, if_pos rfl]

theorem nodeDone_of_waiting {l : Nat} (hn : levelCount (declFan (r.words.headD 0)) (declNcon (r.words.headD 0)) l ≠ 1)
    (hv : r.nodeValue l (i / declFan (r.words.headD 0)) = none) : s.nodeDone r l i = s := by
  simp only [State.nodeDone, if_neg hn, hv]

theorem nodeDone_of_inner {l : Nat} {v : List Nat} (hn : levelCount (declFan (r.words.headD 0)) (declNcon (r.words.headD 0)) l ≠ 1)
    (hv : r.nodeValue l (i / declFan (r.words.headD 0)) = some v)
    (hup : levelCount (declFan (r.words.headD 0)) (declNcon (r.words.headD 0)) (l + 1) ≠ 1) : s.nodeDone r l i =
      { s with contributions := s.contributions ++ [⟨r.block, l + 1, i / declFan (r.words.headD 0), v, none⟩] } := by
  simp only [State.nodeDone, if_neg hn, hv, if_neg hup]

theorem reductionTimesOut_of_late (hr : (s.reductions.find? fun x => decide (x.block = r.block)) = some r)
    (hw : ∀ w, s.crew r.crew = some w → w.stopping = none) (hroot : s.rootHeld r (some r.tid) = false) (hwait : r.waits = false)
    (hleft : r.arrived.length < declNcon (r.words.headD 0)) (hlimit : declTimeout (r.words.headD 0) ≠ 0)
    (hdue : r.opened + 1000 * declTimeout (r.words.headD 0) ≤ s.time) : reductionTimesOut s r.block =
      s.endReduction r .timeout (declNcon (r.words.headD 0) - r.arrived.length) r.missing := by
  have hruns := any_stopping_eq_false hw
  simp only [reductionTimesOut, hr, hruns, hroot, hwait, Bool.or_self, Bool.false_eq_true, if_false]
  exact if_pos ⟨hlimit, hdue, hleft⟩

end

end Sys2Proof.Machine

namespace Sys2Proof.Claims

open Sys2Proof.Machine

/-- A loom's MZERO at the head of its queue: its tile is zero, the others stay. -/
theorem goes_loomCommand_zero {s : State} {core a : Nat} {k : LoomCmd} {ks : List LoomCmd} {t : Thread} (ht : s.thread k.tid = some t)
    (hk : k.op = .zero a false)
    (hstep : Goes (.loomCommand core) s ((s.setCore core { s.core core with loom := ks }).performLoom core k)) :
    ∃ s' t', Goes (.loomCommand core) s s' ∧ (s'.core core).loom = ks ∧ s'.thread k.tid = some t' ∧
      t'.arch.getA (BitVec.ofNat 4 a) = 0 ∧ ∀ r, r ≠ BitVec.ofNat 4 a → t'.arch.getA r = t.arch.getA r := by
  rw [performLoom_zero (s := s.setCore core _) ht hk] at hstep
  refine ⟨_, _, hstep, ?_, State.thread_setThread_self .., ?_, fun r hr => ?_⟩
  · exact congrArg Core.loom (State.core_setCore_self ..)
  · rw [raiseLast_arch, getA_setA_self]
  · rw [raiseLast_arch, getA_setA_ne _ _ _ hr]

/-- Settles O51: each unit performs its command, chunk or value once nothing holds it up, as the lemma of its event says. -/
theorem unitEvents : Obligations.UnitEvents := by
  intro s core
  refine ⟨fun k ks hq hready => ?loom, fun k ks hq hc hp hb hpost hhome => ⟨fun v n hop => ?seed, fun hop => ?panel⟩,
    fun k ks q hq hp hw hks => ?ready, fun i j e hat hk => ⟨fun hs hlen hj hnew => ⟨fun cells hcells => ?cells, fun d va hva => ?fault⟩,
      fun hover => ?final⟩, fun i j e b x y v hat hk hsent hs hb => ?contrib, fun i e he hnone => ?unasked,
    fun i e id va bytes more r he hl hr hout => ?ack, fun i c r hc hr htakes hi hnew hncon htime hsrc hl => ?arrives,
    fun i c hc hr hs hsrc hl => ?gone, fun r hr hw hroot hwait hleft hlimit hdue => ?late⟩
  case loom =>
    have hstep := goes_of_eq (i := .loomCommand core) rfl (loomStep_of_ready hq hready)
    exact ⟨hstep, fun t a ht _ hk => goes_loomCommand_zero ht hk hstep⟩
  case seed =>
    refine ⟨_, goes_of_eq (i := .panelCommand core) rfl (panelStep_of_seed hq hc hp hb hpost hhome hop), ?_⟩
    have hpanel := panel_setPanel_self (s.core core) k.panel { (s.core core).panel k.panel with pattern := some (v, n) }
    rw [State.core_setCore_self]
    exact ⟨rfl, congrArg Panel.pattern hpanel, (congrArg Panel.data hpanel).trans rfl⟩
  case panel =>
    refine ⟨_, goes_of_eq (i := .panelCommand core) rfl (panelStep_of_load hq hc hp hb hpost hhome hop), ?_, ?_⟩
    · rw [State.core_setCore_self]
    · exact ((sameStore_panelChecks s core k).trans ⟨rfl, rfl⟩).sameBytes
  case ready =>
    refine ⟨_, goes_of_eq (i := .panelReady core q) rfl (panelReadyStep_of_performed hq hp hw hks), ?_⟩
    rw [State.core_setCore_self]
    exact ⟨rfl, fun p hp => state_readied_of_ready (.inl hp)⟩
  case cells =>
    refine goes_of_eq rfl ((engineStep_of_turn hat j).trans ?_)
    rw [engineChunk_of_payload hk hs hlen hj hnew, enginePayload_of_cells hcells]
  case fault =>
    refine goes_of_eq rfl ((engineStep_of_turn hat j).trans ?_)
    rw [engineChunk_of_payload hk hs hlen hj hnew, enginePayload_of_fault hs hva]
    rfl
  case final =>
    refine goes_of_eq rfl ((engineStep_of_turn hat j).trans ?_)
    rw [engineChunk_of_final hk hover]
  case contrib =>
    refine ⟨_, goes_of_eq rfl (engineStep_of_turn hat j), ?_⟩
    rw [engineChunk_of_captured hk hsent hs hb]
    exact congrArg (· ++ _) (contributions_settleAll s)
  case unasked => exact goes_of_eq rfl (payloadAck_of_none he hnone)
  case ack => exact goes_of_eq rfl (payloadAck_of_first he hl hr hout)
  case arrives =>
    intro r' node
    have hblock : r.block = c.block := by simpa using List.find?_some hr
    have harrives := contributionArrives_of_taken hc hr htakes hi hnew htime hsrc hl
    refine ⟨fun hv => ?waiting, fun v hv hup => ?inner⟩
    case waiting =>
      exact ⟨_, goes_of_eq rfl (harrives.trans (nodeDone_of_waiting hncon hv)), rfl, find_accepted hr, rfl⟩
    case inner =>
      refine ⟨_, goes_of_eq rfl (harrives.trans (nodeDone_of_inner hncon hv hup)), ?_⟩
      rw [← hblock]
      rfl
  case gone => exact goes_of_eq rfl (contributionArrives_of_gone hc hr hs hsrc hl)
  case late => exact goes_of_eq rfl (reductionTimesOut_of_late hr hw hroot hwait hleft hlimit hdue)

end Sys2Proof.Claims
end

section

namespace Sys2Proof.Machine

open Claims

/-! ### The parts of the engine instructions that leave the registers as they are (R283, R299) -/

section
variable (a : Arch) (m : Mach)

@[simp] theorem keepsArch_needAligned (va : Word) (n : Nat) : KeepsArch a (needAligned va n) m := by simp [needAligned]

@[simp] theorem keepsArch_locateFirsts (rs : List (Access × Word)) : KeepsArch a (locateFirsts rs) m := by
  induction rs generalizing a m with
  | nil => simp [locateFirsts]
  | cons r rs ih => simp [locateFirsts, ih]

@[simp] theorem keepsArch_needPlaces (ok : Place → Bool) (ls : List (Word × Loc)) : KeepsArch a (needPlaces ok ls) m := by
  induction ls generalizing a m with
  | nil => simp [needPlaces]
  | cons l ls ih => simp [needPlaces, ih]

@[simp] theorem keepsArch_copyRanges (n : Nat) (src dst : List (Access × Word)) (c : BitVec 6) :
    KeepsArch a (copyRanges n src dst c) m := by
  simp only [copyRanges, keepsArch_get_bind, keepsArch_bind, keepsArch_locateFirsts, keepsArch_needPlaces, implies_true]
  intros
  cases dst <;> simp

@[simp] theorem keepsArch_locateBlock (va : Word) : KeepsArch a (locateBlock va) m := by simp [locateBlock]
@[simp] theorem keepsArch_blockWord (l : Loc) (va : Word) (o : Nat) : KeepsArch a (blockWord l va o) m := by simp [blockWord]

end

/-! ### Fields of the parameter words (R285) -/

theorem signedOf_toNat {n : Nat} (x : BitVec n) (h : 0 < n) : signedOf n x.toNat = x.toInt := by
  have hpow := Nat.two_pow_pred_add_two_pow_pred h
  have hlt : x.toNat < 2 ^ (n - 1) ↔ 2 * x.toNat < 2 ^ n := by omega
  simp only [signedOf, Nat.mod_eq_of_lt x.isLt, BitVec.toInt_eq_toNat_cond, hlt]

/-- The field of a word from bit lo on is what is left of it above the bits below. -/
theorem field_eq_toNat_setWidth (v : Word) (lo len : Nat) : field v lo len = ((v >>> lo).setWidth len).toNat := by
  rw [BitVec.toNat_setWidth, BitVec.toNat_ushiftRight, Nat.shiftRight_eq_div_pow, field]

theorem strideAbs_field (v : Word) : strideAbs (field v 32 32) = ((v >>> 32).setWidth 32).toInt.natAbs := by
  rw [strideAbs, field_eq_toNat_setWidth, signedOf_toNat _ (by decide)]

theorem field_low (v : Word) (len : Nat) : field v 0 len = v.toNat % 2 ^ len := by rw [field, Nat.pow_zero, Nat.div_one]

/-! ### The common parts of the engine instructions (R271, R275, R283) -/

section
variable {m m1 : Mach} {c : BitVec 6}

/-- A check whose condition for a fault does not hold passes. -/
theorem run_faultIf_of_not {p : Prop} [Decidable p] (h : ¬ p) (cause : Nat) (v : Word) :
    (faultIf (decide p) cause v).run m = .ok () m := by rw [decide_eq_false h, run_faultIf_false]

theorem run_roomForCopy (h : copyCount m.ch.effects < 8) : roomForCopy.run m = .ok () m :=
  (run_bind_ok (run_get m)).trans (congrArg (EStateM.run · m) (if_neg (Nat.not_le.mpr h)))

theorem run_needCompletion {m0 : Mach} (h : c = 0 ∨ (m0.ar.getX (c + 1)).toNat < 2 ^ 48) :
    (needCompletion m0 c).run m = .ok () m := by
  rw [needCompletion]
  split
  · rfl
  · next hc => exact run_faultIf_of_not (not_not.mpr ((field_top_eq_zero_iff _ rfl).mpr (h.resolve_left hc))) ..

theorem run_alignedCompletion {m0 : Mach} (h : c = 0 ∨ (m0.ar.getX c).toNat % 8 = 0) : (alignedCompletion m0 c).run m = .ok () m := by
  rw [alignedCompletion]
  split
  · rfl
  · next hc => exact run_needAligned (h.resolve_left hc) m

/-- The checks of a completion word, passed. -/
theorem run_completionChecks {m0 : Mach} (hcw : CwOk m0.ar c) (p : M Unit) :
    (do needCompletion m0 c; alignedCompletion m0 c; p).run m = p.run m :=
  (run_bind_ok (run_needCompletion (hcw.imp_right And.left))).trans (run_bind_ok (run_alignedCompletion (hcw.imp_right And.right)))

/-- The first checks of an engine instruction, passed. -/
theorem run_beginCopy (ha : m.ar.arming = none) (hroom : copyCount m.ch.effects < 8) (f : Mach → M Unit) :
    (do notArming; roomForCopy; let m ← get; f m).run m = (f m).run m :=
  (run_bind_ok (run_notArming ha)).trans ((run_bind_ok (run_roomForCopy hroom)).trans (run_bind_ok (run_get m)))

theorem run_needPlaces {ok : Place → Bool} {ls : List (Word × Loc)} (h : ∀ l ∈ ls, ok l.2.place = true) :
    (needPlaces ok ls).run m = .ok () m := by
  induction ls with
  | nil => rfl
  | cons l ls ih =>
    obtain ⟨hl, hls⟩ := List.forall_mem_cons.mp h
    have hone : (faultIf (!ok l.2.place) 0x07 l.1).run m = .ok () m := by rw [hl]; rfl
    exact (run_bind_ok hone).trans (ih hls)

theorem run_locateFirsts_one {k : Access} {va : Word} {l : Loc} (h : Gives (locate k va) m l m1) :
    (locateFirsts [(k, va)]).run m = .ok [(va, l)] m1 := run_bind_ok h

theorem run_emitCopy {a : Arch} (har : m.ar = a) (kind : CopyKind) (src dst : Word) (len : Nat) (bySrc : Bool) :
    (emitCopy kind src dst len bySrc c).run m = .ok () (carryCopy kind src dst len bySrc (cwOf a c) m) := by
  subst har
  rfl

/-- A copy whose ranges have been checked is carried with its chunk. -/
theorem run_copyRanges_emitCopy {n : Nat} {rs ds : List (Access × Word)} {out : Bool}
    (h : Gives (copyRanges n rs ds c) m out m1) (kind : CopyKind) (src dst : Word) :
    (do let out ← copyRanges n rs ds c; emitCopy kind src dst n out c).run m =
      .ok () (carryCopy kind src dst n out (cwOf m.ar c) m1) :=
  (run_bind_ok h).trans (run_emitCopy (ar_of_ok (by simp) h) ..)

end

/-! ### Gathers and scatters (R286) -/

section
variable {m m1 m2 m3 m4 m5 : Mach} {d rb ra c : BitVec 6} {z iw : BitVec 2} {ig sc : BitVec 1} {dst src idx q : Word}
  {li ls lf : Loc} {bs : List Byte} {lc : List (Word × Loc)}

/-- The checks of CPYG's operands, passed. -/
theorem run_gatherChecks {m0 : Mach} {e w : Nat} (hq : q.toNat < 2 ^ 32) (hcw : CwOk m0.ar c) (hdst : dst.toNat % e = 0)
    (hsrc : src.toNat % e = 0) (hidx : idx.toNat % w = 0) (p : M Unit) :
    (do faultIf (decide (field q 32 32 ≠ 0)) 0x0A q; needCompletion m0 c; alignedCompletion m0 c
        needAligned dst e; needAligned src e; needAligned idx w; p).run m = p.run m :=
  (run_bind_ok (run_faultIf_of_not (not_not.mpr ((field_top_eq_zero_iff q rfl).mpr hq)) ..)).trans
    ((run_completionChecks hcw _).trans ((run_bind_ok (run_needAligned hdst m)).trans ((run_bind_ok (run_needAligned hsrc m)).trans
      (run_bind_ok (run_needAligned hidx m)))))

/-- CPYG once its index, the side that it walks along and the element that the index names have been looked up. -/
theorem run_gatherPlaces {m0 : Mach} {first : List (Access × Word)} {known far : List (Word × Loc)}
    (hfar : (locateFirsts first).run m = .ok far m1) (hlc : Gives (locateFirsts (completionRange m0 c)) m1 lc m2)
    (hknown : ∀ l ∈ known ++ far, gatherPlace l.2.place = true) (hplaces : ∀ l ∈ lc, copyPlace l.2.place = true)
    (kind : CopyKind) (n : Nat) :
    (do let far ← locateFirsts first; let lc ← locateFirsts (completionRange m0 c); needPlaces gatherPlace (known ++ far)
        needPlaces copyPlace lc; emitCopy kind src dst n false c).run m = .ok () (carryCopy kind src dst n false (cwOf m.ar c) m2) := by
  have har : m2.ar = m.ar := (ar_of_ok (by simp) hlc).trans (ar_of_ok (by simp) hfar)
  exact (run_bind_ok hfar).trans ((run_bind_ok hlc).trans ((run_bind_ok (run_needPlaces hknown)).trans
    ((run_bind_ok (run_needPlaces hplaces)).trans (run_emitCopy har ..))))

variable (ha : m.ar.arming = none) (hroom : copyCount m.ch.effects < 8) (hcw : CwOk m.ar c)
variable (hdst : dst = m.ar.getX d) (hsrc : src = m.ar.getX ra) (hidx : idx = m.ar.getX rb) (hq : q = m.ar.getX (rb + 1))
variable (hsmall : q.toNat < 2 ^ 32) (hdal : dst.toNat % 2 ^ z.toNat = 0) (hsal : src.toNat % 2 ^ z.toNat = 0)
  (hial : idx.toNat % 2 ^ iw.toNat = 0) (hplaces : ∀ l ∈ lc, copyPlace l.2.place = true)
include ha hroom hcw hdst hsrc hidx hq hsmall hdal hsal hial hplaces

theorem run_opCpyg_empty (hn : q.toNat = 0) (hlc : Gives (locateFirsts (completionRange m c)) m lc m1) :
    (opCpyg d z rb ra ig iw c sc).run m =
      .ok () (carryCopy (.gather (2 ^ z.toNat) (2 ^ iw.toNat) (ig == 1) (sc == 1) idx) src dst q.toNat false (cwOf m.ar c) m1) := by
  have hcount : field q 0 32 = q.toNat := by rw [field_low, Nat.mod_eq_of_lt hsmall]
  have hnone (k : Access) (va : Word) : firstByte (field q 0 32) k va = [] := by rw [hcount]; exact if_pos hn
  have hnowhere : (locateFirsts []).run m = .ok [] m := rfl
  rw [← hcount]
  subst hdst hsrc hidx hq
  refine (run_beginCopy ha hroom _).trans ((run_gatherChecks hsmall hcw hdal hsal hial _).trans ?_)
  simp only [hnone, ite_self]
  exact (run_bind_ok hnowhere).trans ((run_bind_ok hnowhere).trans
    (run_gatherPlaces (known := []) hnowhere hlc (List.forall_mem_nil _) hplaces _ _))

theorem run_opCpyg_indexed (hn : q.toNat ≠ 0) (hli : Gives (locate .load idx) m li m1)
    (hls : Gives (locate (if sc = 1 then .load else .store) (if sc = 1 then src else dst)) m1 ls m2)
    (hbs : Gives (readAt li idx (2 ^ iw.toNat)) m2 bs m3)
    (hlf : Gives (locate (if sc = 1 then .store else .load)
      ((if sc = 1 then dst else src) + indexOff (ig == 1) (2 ^ iw.toNat) (2 ^ z.toNat) (ofBytes bs))) m3 lf m4)
    (hlc : Gives (locateFirsts (completionRange m c)) m4 lc m5) (hpi : gatherPlace li.place = true)
    (hps : gatherPlace ls.place = true) (hpf : gatherPlace lf.place = true) :
    (opCpyg d z rb ra ig iw c sc).run m =
      .ok () (carryCopy (.gather (2 ^ z.toNat) (2 ^ iw.toNat) (ig == 1) (sc == 1) idx) src dst q.toNat false (cwOf m.ar c) m5) := by
  have hcount : field q 0 32 = q.toNat := by rw [field_low, Nat.mod_eq_of_lt hsmall]
  have hone (k : Access) (va : Word) : firstByte (field q 0 32) k va = [(k, va)] := by rw [hcount]; exact if_neg hn
  have hside : (if sc = 1 then [(Access.load, src)] else [(Access.store, dst)]) =
      [(if sc = 1 then .load else .store, if sc = 1 then src else dst)] := by split <;> rfl
  have hnamed (off : Word) : (if sc = 1 then [(Access.store, dst + off)] else [(Access.load, src + off)]) =
      [(if sc = 1 then .store else .load, (if sc = 1 then dst else src) + off)] := by split <;> rfl
  have har : m3.ar = m.ar :=
    (ar_of_ok (by simp) hbs).trans ((ar_of_ok (by simp) hls).trans (ar_of_ok (by simp) hli))
  rw [← hcount, ← har]
  subst hdst hsrc hidx hq
  refine (run_beginCopy ha hroom _).trans ((run_gatherChecks hsmall hcw hdal hsal hial _).trans ?_)
  simp only [hone, hside]
  refine (run_bind_ok (run_locateFirsts_one hli)).trans ((run_bind_ok (run_locateFirsts_one hls)).trans ((run_bind_ok hbs).trans ?_))
  simp only [hnamed, pure_bind]
  exact run_gatherPlaces (run_locateFirsts_one hlf) hlc (by simp [hpi, hps, hpf]) hplaces _ _

end

/-! ### The status of the copy engines (R288) -/

section
variable {m : Mach} {d : BitVec 6}

/-- CSTAT.w behind its checks. -/
theorem run_opCstatW (ha : m.ar.arming = none) (hc : m.ch.count = 0) (ho : m.th.chunks = []) : (opCstatW d).run m =
    if engineOut m.st m.tid = 0 then
      .ok () (carry (.failSeen d) (putX d (engineWord m.st m.tid m.th.fail) (endsAs .alone m)))
    else .error (.sleep (.engine d)) (endsAs .alone m) := by
  refine (run_bind_ok (run_notArming ha)).trans ((run_bind_ok (run_standAlone hc)).trans ((run_bind_ok (run_get _)).trans
    ((congrArg (EStateM.run · _) (if_neg (not_not.mpr ho))).trans ?_)))
  by_cases h : engineOut m.st m.tid = 0
  · exact (congrArg (EStateM.run · _) (if_neg (not_not.mpr h))).trans (if_pos h).symm
  · exact (congrArg (EStateM.run · _) (if_pos h)).trans (if_neg h).symm

end

end Sys2Proof.Machine

namespace Sys2Proof.Claims

open Sys2Proof.Machine

theorem copyCommands : CopyCommands := by
  intro s tid t d rb ra c hb ha hroom hcw dst src x q m
  have hbegin (f : Mach → M Unit) : (do notArming; roomForCopy; let m ← get; f m).run m = (f m).run m :=
    run_beginCopy (m := m) ha hroom f
  refine ⟨fun hlen hapart out m1 hranges => ?cpy, ?cpys, fun hlen hal hxal out m1 hranges => ?cfill⟩
  case cpy =>
    have hover : (faultIf (overlap dst src x.toNat) 0x0A dst).run m = .ok () m := by rw [hapart]; rfl
    exact hb.retires rfl ((hbegin _).trans ((run_bind_ok (run_faultIf_of_not (Nat.not_lt.mpr hlen) ..)).trans
      ((run_bind_ok hover).trans ((run_completionChecks (m0 := m) hcw _).trans (run_copyRanges_emitCopy hranges ..)))))
  case cpys =>
    intro len
    have hlen : len = field x 0 32 := (field_low x 32).symm
    clear_value len
    subst hlen
    intro rows htop hsize hstride out m1 hranges
    have hfits : (faultIf (decide (1 < rows) && decide (strideAbs (field q 32 32) < field x 0 32)) 0x0A q).run m = .ok () m := by
      rw [strideAbs_field, ← Bool.decide_and]
      exact run_faultIf_of_not (fun h => Nat.not_lt.mpr (hstride h.1) h.2) ..
    exact hb.retires rfl ((hbegin _).trans
      ((run_bind_ok (run_faultIf_of_not (not_not.mpr ((field_top_eq_zero_iff x rfl).mpr htop)) ..)).trans
        ((run_bind_ok (run_faultIf_of_not (Nat.not_lt.mpr hsize) ..)).trans ((run_bind_ok hfits).trans
          ((run_completionChecks (m0 := m) hcw _).trans (run_copyRanges_emitCopy hranges ..))))))
  case cfill =>
    exact hb.retires rfl ((hbegin _).trans ((run_bind_ok (run_faultIf_of_not (Nat.not_lt.mpr hlen) ..)).trans
      ((run_completionChecks (m0 := m) hcw _).trans ((run_bind_ok (run_needAligned hal m)).trans
        ((run_bind_ok (run_needAligned hxal m)).trans (run_copyRanges_emitCopy hranges ..))))))

theorem gatherCopyResults : GatherCopyResults := by
  intro s tid t d rb ra c z iw ig sc hb ha hroom hcw dst src idx q e w hsmall hdal hsal hial cmd
  refine ⟨fun hn lc m1 hlc hplaces => ?empty,
    fun hn li m1 ls m2 bs m3 lf m4 lc m5 hli hls hbs hlf hlc hpi hps hpf hplaces => ?indexed⟩
  case empty =>
    exact hb.retires rfl (run_opCpyg_empty (m := found s tid t) ha hroom hcw rfl rfl rfl rfl hsmall hdal hsal hial hplaces hn hlc)
  case indexed =>
    exact hb.retires rfl (run_opCpyg_indexed (m := found s tid t) ha hroom hcw rfl rfl rfl rfl hsmall hdal hsal hial hplaces hn
      hli hls hbs hlf hlc hpi hps hpf)

theorem engineStatusResults : EngineStatusResults := by
  intro s tid t d hb ha own word
  refine ⟨?cstat, fun hf ho hout => ?answers, fun hf ho hout => ?sleeps⟩
  case cstat => exact hb.retires rfl (run_bind_ok (run_notArming (m := found s tid t) ha))
  case answers => exact hb.retires rfl ((run_opCstatW (m := found s tid t) ha hf ho).trans (if_pos hout))
  case sleeps =>
    rw [hb.sleeps hf rfl rfl rfl rfl ((run_opCstatW (m := found s tid t) ha hf ho).trans (if_neg hout)), ho]
    rfl

/-- Settles O22: behind the common checks, each copy by its ranges, a gather or scatter by its first element, and CSTAT by the commands
that the thread has out. -/
theorem copyResults : Obligations.CopyResults := ⟨copyCommands, gatherCopyResults, engineStatusResults⟩

end Sys2Proof.Claims
end

section

namespace Sys2Proof.Machine

open Claims

/-! ### The elements of a target or a source (R298, R299) -/

theorem run_needAll {m : Mach} {ok : Loc → Bool} {va : Word} {e : Nat} {ls : List Loc} (h : ∀ l ∈ ls, ok l = true) :
    (needAll ok va e ls).run m = .ok () m := by
  induction ls generalizing va with
  | nil => rfl
  | cons l ls ih =>
    obtain ⟨hl, hls⟩ := List.forall_mem_cons.mp h
    have hone : (faultIf (!ok l) 0x07 va).run m = .ok () m := by rw [hl]; rfl
    exact (run_bind_ok hone).trans (ih hls)

/-! ### Contributions (R299) -/

section
variable {m m1 m2 m3 m4 : Mach} {l : Loc} {st decl blk : Word} {t : BitVec 4} {rb ra rc : BitVec 6}

/-- The look at the block of a contribution, which finds it open, of the contribution's type and with room for its index. -/
theorem run_openBlock {index : Nat} {long : Word → Bool} (hl : Gives (locateBlock blk) m l m1)
    (hst : Gives (blockWord l blk 0x20) m1 st m2) (hdecl : Gives (blockWord l blk 0) m2 decl m3) (hopen : st.toNat % 4 = 1)
    (htype : declType decl = t.toNat) (hindex : index < declNcon decl) (hlong : long decl = false) (f : Loc → Word → M Unit) :
    (do let l ← locateBlock blk; let st ← blockWord l blk 0x20; let decl ← blockWord l blk 0
        faultIf (decide (st.toNat % 4 = 0) || decide (st.toNat % 4 = 2) || decide (t.toNat ≠ declType decl) ||
          decide (declNcon decl ≤ index) || long decl) 0x0A blk
        faultIf (decide (st.toNat % 4 = 3)) 0x12 blk
        f l decl).run m = (f l decl).run m3 := by
  refine (run_bind_ok hl).trans ((run_bind_ok hst).trans ((run_bind_ok hdecl).trans ?_))
  simp [hopen, htype, hlong, Nat.not_le.mpr hindex]

variable (ha : m.ar.arming = none) (hroom : copyCount m.ch.effects < 8) (hblk : blk = m.ar.getX ra)
  (hl : Gives (locateBlock blk) m l m1) (hst : Gives (blockWord l blk 0x20) m1 st m2) (hdecl : Gives (blockWord l blk 0) m2 decl m3)
  (hopen : st.toNat % 4 = 1) (htype : declType decl = t.toNat) (hindex : (m.ar.getX rb).toNat < declNcon decl)
include ha hroom hblk hl hst hdecl hopen htype hindex

theorem run_opRdc_group {d : BitVec 5} {r : Nat} (hfit : d.toNat + r ≤ m.vregs)
    (hshort : declCount decl ≤ r * 64 / (typeBits t.toNat / 8)) (hv : vecAllowed m.ar = true)
    (hbuffer : captureUsed m3 + declCount decl * (typeBits t.toNat / 8) ≤ 8192) (src : Mach → Word) :
    (opRdc t rb ra (some (d, r)) src).run m = .ok () (carryCopy (.contrib (l.within blk 0x20).pa (m.ar.getX rb).toNat t.toNat
      (some ((List.range (declCount decl)).map fun i => m.ar.lane d.toNat (8 * (typeBits t.toNat / 8)) i)))
        0 0 (declCount decl) false (none, 0) m3) := by
  have har : m3.ar = m.ar :=
    (ar_of_ok (by simp) hdecl).trans ((ar_of_ok (by simp) hst).trans (ar_of_ok (by simp) hl))
  have hlong : decide (r * 64 / typeBytes t.toNat < declCount decl) = false := decide_eq_false (Nat.not_lt.mpr hshort)
  subst hblk
  refine (run_bind_ok (run_roomForCopy hroom)).trans ((run_bind_ok (run_needGroup hfit)).trans ((run_bind_ok (run_notArming ha)).trans
    ((run_bind_ok (run_get m)).trans ((run_openBlock (long := fun w => decide (r * 64 / typeBytes t.toNat < declCount w))
      hl hst hdecl hopen htype hindex hlong _).trans ?_))))
  rw [← har]
  refine (run_bind_ok (run_needVec (har ▸ hv))).trans ((run_bind_ok (run_get m3)).trans ?_)
  exact (congrArg (EStateM.run · m3) (if_neg (Nat.not_lt.mpr hbuffer))).trans (run_emitCopy (c := 0) rfl ..)

theorem run_opRdc_memory {src : Word} {ls : List Loc} (hsrc : src = m.ar.getX rc) (hal : src.toNat % (typeBits t.toNat / 8) = 0)
    (hls : Gives (locateRun .load src (typeBits t.toNat / 8) (declCount decl)) m3 ls m4)
    (hplaces : ∀ x ∈ ls, regionOf x.pa = 0 ∨ ∃ b, x.place = .scratch b) :
    (opRdc t rb ra none fun m => m.ar.getX rc).run m = .ok () (carryCopy (.contrib (l.within blk 0x20).pa (m.ar.getX rb).toNat t.toNat
      none) src 0 (declCount decl) false (none, 0) m4) := by
  subst hblk hsrc
  refine (run_bind_ok (run_roomForCopy hroom)).trans ((run_bind_ok (run_notArming ha)).trans ((run_bind_ok (run_get m)).trans
    ((run_openBlock (long := fun _ => false) hl hst hdecl hopen htype hindex rfl _).trans ?_)))
  refine (run_bind_ok (run_needAligned hal m3)).trans ((run_bind_ok hls).trans ((run_bind_ok (run_needAll fun x hx => ?_)).trans
    (run_emitCopy (c := 0) rfl ..)))
  obtain hin | ⟨b, hb⟩ := hplaces x hx
  · simp [inHbm, hin]
  · simp [hb]

end

/-! ### Queries (R300) -/

/-- RDQ.w, behind its checks, of a block that does not read open or whose root holds it no longer. -/
theorem run_opRdqW {m m1 : Mach} {d ra : BitVec 6} {st : Nat} {v : RdView} (ha : m.ar.arming = none) (hc : m.ch.count = 0)
    (hblk : Gives (rdBlock ra) (endsAs .alone m) (st, v) m1) (hended : st ≠ 1 ∨ v.isOpen = false) :
    (opRdqW d ra).run m = .ok () (putX d (rdWord st v) m1) := by
  have hawake : ¬ (st = 1 ∧ v.isOpen = true) := fun h => hended.elim (absurd h.1) (by simp [h.2])
  exact (run_bind_ok (run_notArming ha)).trans ((run_bind_ok (run_standAlone hc)).trans ((run_bind_ok hblk).trans
    ((run_bind_ok (run_get m1)).trans (congrArg (EStateM.run · m1) (if_neg hawake)))))

end Sys2Proof.Machine

namespace Sys2Proof.Claims

open Sys2Proof.Machine

theorem reductionDeclareResults : ReductionDeclareResults := by
  intro s tid t d ty rb ra rm c hb ha par blk tgt w words hdecl hcw hbal htal l m1 st m2 ts m3 cs m4 m5 hl hhbm hst hshut hts htin
    hcs hcin hw
  have hgood : (faultIf (!declOk par ty.toNat) 0x0A par).run (found s tid t) = .ok () (found s tid t) := by rw [hdecl]; rfl
  have hlin : (faultIf (!inHbm l) 0x07 blk).run m1 = .ok () m1 := by rw [inHbm, decide_eq_true hhbm]; rfl
  have hrecord (h : c ≠ 0) : (needAligned (t.arch.getX c) 16).run m2 = .ok () m2 := run_needAligned (hcw.resolve_left h).2 m2
  rw [← field_low] at hts
  refine hb.retires rfl ?_
  refine (run_bind_ok (run_notArming (m := found s tid t) ha)).trans ((run_bind_ok (run_get _)).trans ((run_bind_ok hgood).trans
    ((run_bind_ok (run_needCompletion (hcw.imp_right And.left))).trans ((run_bind_ok (run_needAligned hbal _)).trans ?_))))
  refine (run_bind_ok hl).trans ((run_bind_ok hlin).trans ((run_bind_ok hst).trans ((run_bind_ok (run_faultIf_of_not hshut ..)).trans
    ((run_bind_ok (run_needAligned htal m2)).trans ((run_check_of hrecord).trans ?_)))))
  exact (run_bind_ok hts).trans ((run_bind_ok hcs).trans ((run_bind_ok (run_needAll (by simpa [inHbm] using htin))).trans
    ((run_bind_ok (run_needPlaces (by simpa [or_assoc] using hcin))).trans ((run_bind_ok hw).trans (run_emit ..)))))

theorem contributionResults : ContributionResults := by
  intro s tid t d ty rb ra rc sp hb ha hroom blk w r l m1 st m2 decl m3 hl hst hdecl hopen htype hindex n cmd
  refine ⟨fun hfit hshort hv hbuffer => ?group, fun hal ls m4 hls hplaces => ?memory⟩
  case group =>
    exact hb.retires rfl ((run_bind_ok (run_get _)).trans (run_opRdc_group (m := found s tid t) ha hroom rfl hl hst hdecl hopen htype
      hindex (hfit (d, r) (by simp)) hshort hv hbuffer _))
  case memory =>
    exact hb.retires rfl (run_opRdc_memory (m := found s tid t) ha hroom rfl hl hst hdecl hopen htype hindex rfl hal hls hplaces)

theorem reductionQueryResults : ReductionQueryResults := by
  intro s tid t d ra st v m1 hb ha word
  refine ⟨fun hblk => ⟨?rdq, ?rdqSt⟩, fun hf hblk hended => ?rdqW⟩
  case rdq => exact hb.retires rfl (run_bind_ok hblk)
  case rdqSt => exact hb.retires rfl (run_bind_ok hblk)
  case rdqW => exact hb.retires rfl (run_opRdqW (m := found s tid t) ha hf hblk hended)

/-- Settles O23: RDSET passes its checks and writes its block, RDC finds its block open and is carried, and RDQ answers what the block
shows. -/
theorem reductionResults : Obligations.ReductionResults := ⟨reductionDeclareResults, contributionResults, reductionQueryResults⟩

end Sys2Proof.Claims
end

section

namespace Sys2Proof.Machine

open Claims

/-! ### The checks of the task messages (R315, R325-R327) -/

section
variable {m m1 : Mach}

theorem run_roomForMessage (h : messageCount m.ch.effects < 16) : roomForMessage.run m = .ok () m :=
  (run_bind_ok (run_get m)).trans (congrArg (EStateM.run · m) (if_neg (Nat.not_le.mpr h)))

/-- The first checks of a task message, passed. -/
theorem run_beginMessage (ha : m.ar.arming = none) (hroom : messageCount m.ch.effects < 16) (f : Mach → M Unit) :
    (do notArming; roomForMessage; let m ← get; f m).run m = (f m).run m :=
  (run_bind_ok (run_notArming ha)).trans ((run_bind_ok (run_roomForMessage hroom)).trans (run_bind_ok (run_get m)))

theorem run_faultOpen_of_not {p : Prop} [Decidable p] (h : ¬ p) (cause : Nat) : (faultOpen (decide p) cause).run m = .ok () m := by
  rw [decide_eq_false h]
  rfl

theorem run_needIndex {i : Nat} (h : i < (m.crew.map Crew.cnt).getD 0) : (needIndex i).run m = .ok () m :=
  (run_bind_ok (run_get m)).trans (run_faultOpen_of_not (Nat.not_le.mpr h) _)

@[simp] theorem keepsArch_noteInbox (a : Arch) (tid : Nat) (write : Bool) : KeepsArch a (noteInbox tid write) m := by simp [noteInbox]

theorem tid_of_noteInbox {tid : Nat} {write : Bool} (h : Gives (noteInbox tid write) m () m1) : m1.tid = m.tid := by
  cases h
  rfl

/-! ### The task messages (R323-R331) -/

variable (ha : m.ar.arming = none) (hroom : messageCount m.ch.effects < 16)
include ha hroom

theorem run_opSpawn {atc : BitVec 1} {rb ra : BitVec 6} {disp : BitVec 16} {r : TaskRec} {core : Nat}
    (hc : (if atc = 1 then crewCore m (m.ar.getX rb) else some m.core) = some core)
    (hr : Gives (readTask (addrM m.ar ra disp) none) m r m1) :
    (opSpawn atc rb ra disp).run m = .ok () (carry (.task (.push core r)) m1) := by
  refine (run_beginMessage ha hroom _).trans ?_
  rw [hc, memAddr_eq_addrM]
  exact run_bind_ok hr

theorem run_opSpawnr {d rb ra rc : BitVec 6} {pin : BitVec 1} : (opSpawnr d rb ra rc pin).run m =
    .ok () (carry (.task (.push m.core (recordOf (m.ar.getX ra) pin (m.ar.getX rb) (m.ar.getX rc) (m.ar.getX d)))) m) := by
  rw [recordOf, ← field_low]
  exact run_beginMessage ha hroom _

theorem run_opCntset {d rb ra : BitVec 6} {r : TaskRec} (hi : (m.ar.getX d).toNat < (m.crew.map Crew.cnt).getD 0)
    (hpos : 0 < (m.ar.getX rb).toNat) (hlt : (m.ar.getX rb).toNat < 2 ^ 32) (hr : Gives (readTask (m.ar.getX ra) none) m r m1) :
    (opCntset d rb ra).run m = .ok () (carry (.task (.cntSet m.core (m.ar.getX d).toNat (m.ar.getX rb).toNat r)) m1) := by
  have hcount : (faultOpen (decide ((m.ar.getX rb).toNat = 0) || decide (2 ^ 32 ≤ (m.ar.getX rb).toNat)) 0x0A).run m = .ok () m := by
    rw [← Bool.decide_or]
    exact run_faultOpen_of_not (by omega) _
  exact (run_beginMessage ha hroom _).trans ((run_bind_ok (run_needIndex hi)).trans ((run_bind_ok hcount).trans (run_bind_ok hr)))

theorem run_opCntsetClr {d : BitVec 6} (hi : (m.ar.getX d).toNat < (m.crew.map Crew.cnt).getD 0) :
    (opCntsetClr d).run m = .ok () (carry (.task (.cntClr m.core (m.ar.getX d).toNat)) m) :=
  (run_beginMessage ha hroom _).trans (run_bind_ok (run_needIndex hi))

theorem run_opCntdec {self : BitVec 1} {rb ra : BitVec 6} {dec idx : BitVec 8} {core : Nat}
    (hi : idx.toNat < (m.crew.map Crew.cnt).getD 0) (hc : (if self = 1 then some m.core else crewCore m (m.ar.getX ra)) = some core) :
    (opCntdec self rb ra dec idx).run m = .ok () (carry (.task (.dec core idx.toNat
      (if dec = 0 then (m.ar.getX rb).toNat % 2 ^ 32 else dec.toNat))) m) := by
  refine (run_beginMessage ha hroom _).trans ((run_bind_ok (run_needIndex hi)).trans ?_)
  rw [hc, field_low]
  rfl

theorem run_opPostr {ra : BitVec 6} (or : Bool) : (opPostr ra or).run m = .ok () (carry (.task (.post or (m.ar.getX ra))) m) :=
  run_beginMessage ha hroom _

theorem run_opLaunch {rb ra : BitVec 6} {disp : BitVec 16} {l0 l1 : Loc} {r0 r1 : List Word} {m2 m3 m4 : Mach} {q : Word}
    (hq : q = m.ar.getX rb) (hlt : q.toNat < 1024) (hdev : queueDev (m.st.queue m.part q.toNat).ctl = true)
    (hen : queueEn (m.st.queue m.part q.toNat).ctl = true)
    (hguild : queueGuild (m.st.queue m.part q.toNat).ctl = m.ar.guild ∨ m.sys = true)
    (hal : (addrM m.ar ra disp).toNat % 64 = 0) (h0 : Gives (locate .load (addrM m.ar ra disp)) m l0 m1)
    (h1 : Gives (locateAs .load 0x05 (addrM m.ar ra disp + 64) (addrM m.ar ra disp)) m1 l1 m2) (hp0 : regionOf l0.pa = 0)
    (hp1 : regionOf l1.pa = 0) (hr0 : Gives (readWords l0 (addrM m.ar ra disp) 0 8) m2 r0 m3)
    (hr1 : Gives (readWords l1 (addrM m.ar ra disp + 64) 0 8) m3 r1 m4) :
    (opLaunch rb ra disp).run m = .ok () (carry (.task (.launch q.toNat (r0 ++ r1) m.ar.guild)) m4) := by
  subst hq
  have hqueue : (faultIf (decide (1024 ≤ (m.ar.getX rb).toNat) || !queueDev (m.st.queue m.part (m.ar.getX rb).toNat).ctl ||
      !queueEn (m.st.queue m.part (m.ar.getX rb).toNat).ctl) 0x07 (m.ar.getX rb)).run m = .ok () m := by
    rw [decide_eq_false (Nat.not_le.mpr hlt), hdev, hen]
    rfl
  have hmine : (faultIf (decide (queueGuild (m.st.queue m.part (m.ar.getX rb).toNat).ctl ≠ m.ar.guild) && !m.sys) 0x07
      (m.ar.getX rb)).run m = .ok () m := by
    obtain h | h := hguild <;> simp [h]
  have hin0 : (faultIf (!inHbm l0) 0x07 (addrM m.ar ra disp)).run m2 = .ok () m2 := by rw [inHbm, decide_eq_true hp0]; rfl
  have hin1 : (faultIf (!inHbm l1) 0x07 (addrM m.ar ra disp)).run m2 = .ok () m2 := by rw [inHbm, decide_eq_true hp1]; rfl
  rw [← memAddr_eq_addrM] at hal h0 h1 hr0 hr1 hin0 hin1
  refine (run_beginMessage ha hroom _).trans ((run_bind_ok hqueue).trans ((run_bind_ok hmine).trans
    ((run_bind_ok (run_needAligned hal m)).trans ((run_bind_ok h0).trans ((run_bind_ok h1).trans ?_)))))
  exact (run_bind_ok hin0).trans ((run_bind_ok hin1).trans ((run_bind_ok hr0).trans (run_bind_ok hr1)))

end

/-! ### Messages between members, and stamps (R327-R329, R332) -/

section
variable {m m1 : Mach} (ha : m.ar.arming = none)
include ha

theorem run_opSend {d : BitVec 5} {rb ra : BitVec 6} {cn : BitVec 1} {idx : BitVec 8} {dest : Nat}
    (hroom : messageCount m.ch.effects < 16) (hv : vecAllowed m.ar = true) (hfit : d.toNat + 1 ≤ m.vregs)
    (hi : cn = 1 → idx.toNat < (m.crew.map Crew.cnt).getD 0) (hdest : crewThread m (m.ar.getX ra) = some dest)
    (hnote : Gives (noteInbox dest true) m () m1) :
    (opSend d rb ra cn idx).run m = .ok () (carry (.task (.send dest (m.ar.getV d) (m.ar.getX rb)
      (BitVec.ofNat 64 (2 ^ 63 + m1.st.vcnReg m.tid)) (if cn = 1 then some idx.toNat else none))) m1) := by
  refine (run_bind_ok (run_roomForMessage hroom)).trans ((run_bind_ok (run_needGroup hfit)).trans
    ((run_bind_ok (run_notArming ha)).trans ((run_bind_ok (run_get m)).trans ?_)))
  rw [hdest, ← ar_of_ok (by simp) hnote, ← tid_of_noteInbox hnote]
  exact (run_check_of fun hc => run_needIndex (hi hc)).trans ((run_bind_ok (run_needVec hv)).trans (run_bind_ok hnote))

/-- RECV of the messages that the chunk sees. -/
theorem run_opRecv {d : BitVec 5} {rb ra : BitVec 6} (hv : vecAllowed m.ar = true) (hfit : d.toNat + 1 ≤ m.vregs)
    (hnote : Gives (noteInbox m.tid false) m () m1) : (opRecv d rb ra).run m = .ok () (match inboxView m with
      | [] => putX rb 0 (putX ra 0 m1)
      | y :: _ => putX rb y.sender (putX ra y.tag (onAr (fun a => a.setV d y.payload) (carry .recv m1)))) := by
  refine (run_bind_ok (run_needGroup hfit)).trans ((run_bind_ok (run_notArming ha)).trans ((run_bind_ok (run_needVec hv)).trans
    ((run_bind_ok (run_get m)).trans ((run_bind_ok hnote).trans ?_))))
  cases inboxView m <;> rfl

theorem run_opInbqN {x : BitVec 6} (hnote : Gives (noteInbox m.tid false) m () m1) :
    (opInbqN x).run m = .ok () (putX x (BitVec.ofNat 64 (inboxView m).length) m1) :=
  (run_bind_ok (run_notArming ha)).trans ((run_bind_ok (run_get m)).trans (run_bind_ok hnote))

theorem run_opInbqRoom {x : BitVec 6} : (opInbqRoom x).run m =
    .ok () (putX x (BitVec.ofNat 64 (32 * (m.crew.map Crew.ovf).getD 0 - ((inboxView m).length - 32))) m) :=
  run_bind_ok (run_notArming ha)

theorem run_opInbqStray {x : BitVec 6} : (opInbqStray x).run m =
    .ok () (putX x (BitVec.ofNat 64 (assocGetD m.th.crew 0 (m.st.core m.core).stray)) m) :=
  run_bind_ok (run_notArming ha)

theorem run_opTstamp {x : BitVec 6} {k : BitVec 3} : (opTstamp x k).run m = .ok () (putX x (BitVec.ofNat 64
    (if k = 0 then m.th.enq else if k = 1 then m.th.deq else if k = 2 then m.th.waitTotal else if k = 3 then m.th.searchTotal
      else if k = 4 then m.th.runTotal else if k = 5 then m.th.failSteals else m.th.tasks)) m) := by
  refine (run_bind_ok (run_notArming ha)).trans ((run_bind_ok (run_get m)).trans ?_)
  fin_cases k <;> rfl

end

end Sys2Proof.Machine

namespace Sys2Proof.Claims

open Sys2Proof.Machine

theorem taskMessages : TaskMessages := by
  intro s tid t d rb ra rc pin self dec idx disp hb ha hroom m
  refine ⟨fun r m1 hr => ⟨?spawn, fun core hc => ?spawnAt⟩, ?spawnr, fun hi hpos hlt r m1 hr => ?cntset, fun hi => ?clear,
    fun hi core hc => ?decrement, ?post, ?postOr⟩
  case spawn => exact hb.retires rfl (run_opSpawn (m := m) ha hroom rfl hr)
  case spawnAt => exact hb.retires rfl (run_opSpawn (m := m) ha hroom hc hr)
  case spawnr => exact hb.retires rfl (run_opSpawnr (m := m) ha hroom)
  case cntset => exact hb.retires rfl (run_opCntset (m := m) ha hroom hi hpos hlt hr)
  case clear => exact hb.retires rfl (run_opCntsetClr (m := m) ha hroom hi)
  case decrement => exact hb.retires rfl (run_opCntdec (m := m) ha hroom hi hc)
  case post => exact hb.retires rfl (run_opPostr (m := m) ha hroom false)
  case postOr => exact hb.retires rfl (run_opPostr (m := m) ha hroom true)

theorem launchResults : LaunchResults := by
  intro s tid t rb ra disp hb ha hroom q va ctl hlt hdev hen hguild hal l0 m1 l1 m2 r0 m3 r1 m4 h0 h1 hp0 hp1 hr0 hr1
  exact hb.retires rfl (run_opLaunch (m := found s tid t) ha hroom rfl hlt hdev hen hguild hal h0 h1 hp0 hp1 hr0 hr1)

/-- Settles O26: behind its checks each task or counter message, and LAUNCH with the record that it has read, is carried with its
chunk. -/
theorem taskMessageResults : Obligations.TaskMessageResults := ⟨taskMessages, launchResults⟩

/-- Settles O24: a message leaves behind its checks, and the queries answer what the chunk sees of the inbox. -/
theorem messageResults : Obligations.MessageResults := by
  intro s tid t d x rb ra cn idx k hb ha m
  refine ⟨fun hroom hv hfit hi dest m1 hdest hnote => ?send, fun hv hfit m1 hnote => ?recv, fun m1 hnote => ?count, ?room, ?stray,
    ?stamp⟩
  case send => exact hb.retires rfl (run_opSend (m := m) ha hroom hv (hfit (d, 1) (by simp)) hi hdest hnote)
  case recv => exact hb.retires rfl (run_opRecv (m := m) ha hv (hfit (d, 1) (by simp)) hnote)
  case count => exact hb.retires rfl (run_opInbqN (m := m) ha hnote)
  case room => exact hb.retires rfl (run_opInbqRoom (m := m) ha)
  case stray => exact hb.retires rfl (run_opInbqStray (m := m) ha)
  case stamp => exact hb.retires rfl (run_opTstamp (m := m) ha)

end Sys2Proof.Claims
end

section

namespace Sys2Proof.Machine

open Claims

/-! ### Deques and overflow regions as memory holds them (R312, R319) -/

namespace State

section
variable {s s' : State}

theorem OnlyStored.units (h : OnlyStored s s') :
    s'.cores = s.cores ∧ s'.crews = s.crews ∧ s'.threads = s.threads ∧ s'.time = s.time := by
  obtain ⟨_, _, _, rfl⟩ := h
  exact ⟨rfl, rfl, rfl, rfl⟩

theorem SameBytes.readVal (h : SameBytes s s') (pa n : Nat) : s'.readVal pa n = s.readVal pa n :=
  congrArg ofBytes (SameBytes.readRun h pa n)

theorem SameBytes.readWord (h : SameBytes s s') (pa : Nat) : s'.readWord pa = s.readWord pa :=
  congrArg (BitVec.ofNat 64) (SameBytes.readVal h pa 8)

/-- A core with its spilled records depends on the cores, on where the spill region lies, and on the committed bytes. -/
theorem dequeCore_congr (hb : SameBytes s s') (hc : s'.cores = s.cores) (hp : s'.parts = s.parts) (hm : s'.modcfg = s.modcfg)
    (core : Nat) : s'.dequeCore core = s.dequeCore core := by
  simp only [dequeCore, recordAt, spillPa, SameBytes.readWord hb, State.core, State.part, State.partOf, hc, hp, hm]

theorem overflowOf_congr (hb : SameBytes s s') (hp : s'.parts = s.parts) (t : Thread) : s'.overflowOf t = s.overflowOf t := by
  simp only [overflowOf, overflowPa, SameBytes.readVal hb, SameBytes.readWord hb, State.part, hp]

end

section
variable (s : State) (core : Nat)

theorem onlyStored_setDeque (c : Core) : OnlyStored (s.setCore core c) (s.setDeque core c) := onlyStored_putCells ..

theorem core_setDeque_self (c : Core) : (s.setDeque core c).core core = c := by
  obtain ⟨hcores, -⟩ := (onlyStored_setDeque s core c).units
  rw [State.core, hcores]
  exact core_setCore_self s core c

/-- A push leaves on its core the deque with the record on it. -/
theorem core_push_self (e : DequeEntry) : (s.push core e).core core = (s.dequeCore core).push e := core_setDeque_self ..

/-- The counters of a core are none of its deque's business. -/
theorem dequeCore_setCore_counters (ks : List Counter) :
    (s.setCore core { s.core core with counters := ks }).dequeCore core = { s.dequeCore core with counters := ks } := by
  have hb : SameBytes s (s.setCore core { s.core core with counters := ks }) := fun _ => rfl
  simp only [dequeCore, core_setCore_self, recordAt, SameBytes.readWord hb]
  rfl

theorem record_crews (kind slot detail no : Nat) : (s.record core kind slot detail no).crews = s.crews := by
  unfold record
  split <;> rfl

end

end State

@[simp] theorem counters_push (c : Core) (e : DequeEntry) : (c.push e).counters = c.counters := by
  unfold Core.push
  split <;> rfl

/-! ### The start of a task (R302, R313, R322) -/

section
variable {s s0 : State} {tid : Nat} {t : Thread} {e : DequeEntry} {w : Crew}

theorem cacheGuild_units (s : State) (p : Nat) (g : BitVec 16) :
    (s.cacheGuild p g).time = s.time ∧ (s.cacheGuild p g).cores = s.cores := by
  unfold State.cacheGuild
  split <;> exact ⟨rfl, rfl⟩

theorem startTask_arch (a : Arch) (r : TaskRec) (w : Crew) (tvec gtb : Word) :
    a.startTask r w.guild w.det tvec gtb = taskRegs a r w tvec gtb := by
  have hmode : w.det.toNat * 2 = if w.det = true then 2 else 0 := by cases w.det <;> rfl
  rw [taskRegs, ← hmode]
  rfl

/-- A thread that takes a record begins its task, at the time of its machine. -/
theorem begun_startTask (ht : s.thread tid = some t) (hw : s.crew e.crew = some w) (htime : s.time = s0.time) :
    Begun s0 (s.startTask tid e) tid t e w := by
  simp only [State.startTask, ht, hw, startTask_arch]
  exact ⟨_, _, _, State.thread_setThread_self .., rfl, rfl, rfl, (cacheGuild_units ..).1.trans htime, rfl⟩

theorem startTask_cores (s : State) (tid : Nat) (e : DequeEntry) : (s.startTask tid e).cores = s.cores := by
  unfold State.startTask
  split
  · exact (cacheGuild_units ..).2
  · rfl

theorem mayFetch_of_seeks (h : Seeks s tid t) : s.mayFetch t = true := by
  obtain ⟨-, hrun, hchunks, -, w, hw, hstop, hstopped⟩ := h
  simp [State.mayFetch, hrun, hchunks, hw, hstop, hstopped]

/-- A thread that has nothing to do, and no sweep begun, takes a record of its core's deque or begins a sweep. -/
theorem taskPop_of_seeks (h : Seeks s tid t) (hs : t.sweep = 0) :
    taskPop s tid = (s.popTask tid).getD (asks s tid { t with sweep := 1 }) := by
  have hfetch := mayFetch_of_seeks h
  obtain ⟨ht, -, -, hdet, -⟩ := h
  have hdyn : (s.crew t.crew).any Crew.det = false := hdet
  simp only [taskPop, ht, hfetch, hs, hdyn, decide_true, Bool.not_false, Bool.and_self, if_true]
  cases s.popTask tid <;> rfl

theorem popTask_of_thread (ht : s.thread tid = some t) : s.popTask tid =
    ((s.dequeCore (coreOf tid)).popFor tid t.crew).map fun r => (s.setDeque (coreOf tid) r.2).startTask tid r.1 := by
  rw [State.popTask, ht]

theorem askSteal_eq (s : State) (tid : Nat) (t : Thread) : s.askSteal tid t = asks s tid t := rfl

/-- A record of the own deque, begun. -/
theorem popped_startTask {c : Core} (ht : s.thread tid = some t) (hw : s.crew e.crew = some w) :
    ((s.setDeque (coreOf tid) c).startTask tid e).core (coreOf tid) = c ∧
      Begun s ((s.setDeque (coreOf tid) c).startTask tid e) tid t e w := by
  obtain ⟨-, hcrews, hthreads, htime⟩ := (State.onlyStored_setDeque s (coreOf tid) c).units
  refine ⟨?_, begun_startTask ?_ ?_ htime⟩
  · rw [State.core, startTask_cores]
    exact State.core_setDeque_self ..
  · rw [State.thread, hthreads]
    exact ht
  · rw [State.crew, hcrews]
    exact hw

end

/-! ### Steals (R313) -/

section
variable {s : State} {tid victim pkt crew : Nat} {k : Packet}

theorem takePacket_of_listed (hk : assocGet? pkt s.net = some k) : s.takePacket pkt = taken s pkt k := by
  rw [State.takePacket, hk]
  rfl

theorem dequeCore_taken (s : State) (pkt : Nat) (k : Packet) (core : Nat) : (taken s pkt k).dequeCore core = s.dequeCore core :=
  State.dequeCore_congr (fun _ => rfl) rfl rfl rfl core

theorem stealRequest_of_arrived (h : s.stealArrived tid victim = some (pkt, crew)) (hk : assocGet? pkt s.net = some k) :
    stealRequest s tid victim =
      ((s.dequeCore victim).stealFor crew).elim (answers (taken s pkt k) victim tid crew none) fun g =>
        answers ((taken s pkt k).setDeque victim g.2) victim tid crew (some g.1) := by
  simp only [stealRequest, h, takePacket_of_listed hk, dequeCore_taken]
  cases (s.dequeCore victim).stealFor crew <;> rfl

theorem stealRequest_of_none (h : s.stealArrived tid victim = none) : stealRequest s tid victim = s := by
  rw [stealRequest, h]

theorem unitTakes_of_stolen {e : Option DequeEntry} (h : s.arrivedPacket pkt = some k) (hl : k.load = .stolen tid crew e) :
    unitTakes s pkt = (taken s pkt k).stealAnswer tid crew e := by
  simp only [unitTakes, h, hl, takePacket_eq h]

theorem stealAnswer_record {t : Thread} (ht : s.thread tid = some t) (e : DequeEntry) : s.stealAnswer tid t.crew (some e) =
    (s.record (coreOf tid) 5 (slotOf tid) 0 t.commitno).startTask tid e := by
  simp [State.stealAnswer, ht, Option.filter]

theorem stealAnswer_refused {t : Thread} (ht : s.thread tid = some t) : s.stealAnswer tid t.crew none =
    asks s tid { t with failSteals := t.failSteals + 1, sweep := t.sweep + 1 } := by
  simp [State.stealAnswer, ht, Option.filter, askSteal_eq]

theorem stealBackoff_of_due {t : Thread} {due : Nat} (ht : s.thread tid = some t) (hr : t.run = .idle due) (hd : due ≤ s.time) :
    stealBackoff s tid = s.setThread tid { t with run := .none, sweep := 0 } := by
  simp only [stealBackoff, ht, hr, if_pos hd]

end

/-! ### Messages at their destinations (R315, R317-R319) -/

section
variable {s : State} {t : Thread}

theorem place_messages (t : Thread) (x : Message) : (t.place x).inbox ++ (t.place x).overflow = t.inbox ++ t.overflow ++ [x] := by
  unfold Thread.place
  split
  next h => simp [List.isEmpty_iff.mp h.1]
  next => simp

theorem rewind_messages (t : Thread) (i : Nat) : (t.rewind i).inbox = t.inbox ∧ (t.rewind i).overflow = t.overflow := by
  unfold Thread.rewind
  split <;> exact ⟨rfl, rfl⟩

/-- A squash leaves the messages of its thread as they are. -/
theorem exists_messages_squash {tid : Nat} (ht : s.thread tid = some t) (i : Nat) : ∃ u, (s.squash tid i).thread tid = some u ∧
    u.inbox ++ u.overflow = t.inbox ++ t.overflow := by
  cases hc : t.chunks[i]? with
  | none => exact ⟨t, by simp only [State.squash, ht, hc], rfl⟩
  | some c =>
    obtain ⟨hin, hover⟩ := rewind_messages t i
    rw [State.squash_eq ht hc, State.thread, State.record_threads]
    exact ⟨_, assocGet?_assocSet_self .., congrArg₂ (· ++ ·) hin hover⟩

theorem thread_setOverflow (s : State) (tid : Nat) (t : Thread) : (s.setOverflow tid t).thread tid = some t := by
  rw [State.setOverflow, State.thread, State.putCells_threads]
  exact State.thread_setThread_self s tid t

/-- A message placed stands behind those of the inbox and of the overflow region, as memory holds them. -/
theorem exists_messages_placeMessage (s : State) (tid : Nat) (t : Thread) (x : Message) :
    ∃ u, (s.placeMessage tid t x).thread tid = some u ∧ u.inbox ++ u.overflow = t.inbox ++ s.overflowOf t ++ [x] := by
  have hplaced := place_messages { t with overflow := s.overflowOf t } x
  unfold State.placeMessage
  dsimp only
  split
  · obtain ⟨u, hu, hmessages⟩ := exists_messages_squash (thread_setOverflow s tid _) _
    exact ⟨u, hu, hmessages.trans hplaced⟩
  · exact ⟨_, thread_setOverflow .., hplaced⟩

variable {pkt p no crew : Nat} {k : Packet} {m : TaskMsg}

theorem taskMessageApply_of_due (h : MessageDue s pkt k p no crew m) :
    taskMessageApply s pkt = ((taken s pkt k).applyMsg p no crew m).appliedMsg p no := by
  obtain ⟨harr, hload, hturn, hheld⟩ := h
  simp only [taskMessageApply, harr, hload, hturn, hheld, takePacket_eq harr, Bool.not_false, Bool.and_self, if_true]

theorem applyMsg_send {dest : Nat} (ht : s.thread dest = some t) (pl : BitVec 512) (tag sender : Word) (cn : Option Nat) :
    s.applyMsg p no crew (.send dest pl tag sender cn) =
      cn.elim (s.placeMessage dest t ⟨pl, tag, sender⟩) fun x =>
        (s.placeMessage dest t ⟨pl, tag, sender⟩).decrement crew (dest / 16) x 1 := by
  simp only [State.applyMsg, ht]
  cases cn <;> rfl

theorem applyMsg_post {w : Crew} (hw : s.crew crew = some w) (or : Bool) (v : Word) :
    s.applyMsg p no crew (.post or v) = s.setCrew crew { w with result := if or then w.result ||| v else v } := by
  simp only [State.applyMsg, hw]

end

/-! ### Counters (R317, R318, R326) -/

section
variable {s : State} {crew core idx d : Nat}

theorem core_appliedMsg (s : State) (p no core : Nat) : (s.appliedMsg p no).core core = s.core core := rfl

theorem counterDecrement_of_turn {pkt p no : Nat} {k : Packet} (h : s.arrivedPacket pkt = some k)
    (hl : k.load = .dec crew core idx d p no) (ht : s.msgTurn pkt p no k.dest crew (.dec core idx d) = true) :
    counterDecrement s pkt = ((taken s pkt k).decrement crew core idx d).appliedMsg p no := by
  simp only [counterDecrement, h, hl, ht, takePacket_eq h, if_true]

theorem decrement_zero (s : State) (crew core idx : Nat) : s.decrement crew core idx 0 = s := if_pos rfl

/-- A decrement that meets no counter is counted as stray. -/
theorem decrement_of_stray (hd : d ≠ 0) (h : ∀ e ∈ (s.core core).counters, ¬ (e.crew = crew ∧ e.idx = idx)) :
    s.decrement crew core idx d = s.setCore core
      { s.core core with stray := assocSet crew (assocGetD crew 0 (s.core core).stray + 1) (s.core core).stray } := by
  have hnone : (s.core core).counters.find? (fun e => decide (e.crew = crew) && decide (e.idx = idx)) = none :=
    List.find?_eq_none.mpr fun e he => by simpa using h e he
  simp only [State.decrement, if_neg hd, hnone]

variable {e : Counter} (hd : d ≠ 0)
  (he : (s.core core).counters.find? (fun e => decide (e.crew = crew) && decide (e.idx = idx)) = some e)
include hd he

theorem decrement_of_lt (h : d < e.count) : s.decrement crew core idx d = s.setCore core { s.core core with
    counters := (s.core core).counters.map fun y => if y = e then { e with count := e.count - d } else y } := by
  simp only [State.decrement, if_neg hd, he, if_pos h]

/-- A counter that has come to its end goes, and its record is pushed. -/
theorem core_decrement_of_le (h : e.count ≤ d) : (s.decrement crew core idx d).core core =
    Core.push { s.dequeCore core with counters := (s.core core).counters.filter fun y => decide (y ≠ e) }
      { record := e.record, crew, bound := none, stamp := s.time } := by
  simp only [State.decrement, if_neg hd, he, if_neg (Nat.not_lt.mpr h), State.pushTask, State.core_push_self,
    State.dequeCore_setCore_counters]
  rfl

end

end Sys2Proof.Machine

namespace Sys2Proof.Claims

open Sys2Proof.Machine

/-- Settles O52: each event by the lemma that says what it makes of the deques, the messages and the counters. -/
theorem taskEvents : Obligations.TaskEvents := by
  intro s tid t
  refine ⟨fun x y => ⟨⟨_, rfl⟩, ⟨_, rfl⟩, ⟨_, rfl⟩, ⟨_, rfl⟩, _, rfl⟩,
    fun hseek hsweep => ⟨fun e c w hpop hcrew hw => ?pops, fun hpop => ?asks⟩,
    fun victim pkt k crew harr hk => ⟨fun e c hsteal => ?gives, fun hsteal => ?refuses⟩, fun victim harr => ?unasked,
    fun pkt k e harr hl ht => ⟨fun r w hr hcrew hw => ?stolen, fun hr => ?refused⟩, fun due ht hrun hdue => ?waited,
    fun pkt k p no crew m hdue => ⟨(taken s pkt k).applyMsg p no crew m, ?applied, ?push, ?set, ?clear, ?send, ?sendCounted,
      ?launch, ?post⟩,
    fun pkt k crew core x d p no harr hl hturn => ⟨fun hd => ?nothing, fun hd hnone => ?stray,
      fun e hd he => ⟨fun hlt => ?lowered, fun hle => ?ended⟩⟩⟩
  case pops =>
    have ht : s.thread tid = some t := hseek.1
    obtain ⟨hcore, hbegun⟩ := popped_startTask (c := c) ht (hcrew ▸ hw)
    refine ⟨_, congrArg Host.Outcome.next ?_, hcore, hbegun⟩
    rw [taskPop_of_seeks hseek hsweep, popTask_of_thread ht, hpop]
    rfl
  case asks =>
    refine congrArg Host.Outcome.next ?_
    rw [taskPop_of_seeks hseek hsweep, popTask_of_thread hseek.1, hpop]
    rfl
  case gives => exact congrArg Host.Outcome.next ((stealRequest_of_arrived harr hk).trans (by rw [hsteal]; rfl))
  case refuses => exact congrArg Host.Outcome.next ((stealRequest_of_arrived harr hk).trans (by rw [hsteal]; rfl))
  case unasked => exact congrArg Host.Outcome.next (stealRequest_of_none harr)
  case stolen =>
    subst hr
    rw [unitTakes_of_stolen harr hl, stealAnswer_record (s := taken s pkt k) ht]
    refine begun_startTask ?_ ?_ ?_
    · rw [State.thread, State.record_threads]
      exact ht
    · rw [State.crew, State.record_crews, hcrew]
      exact hw
    · exact State.record_time ..
  case refused =>
    subst hr
    rw [unitTakes_of_stolen harr hl, stealAnswer_refused (s := taken s pkt k) ht]
  case waited => exact congrArg Host.Outcome.next (stealBackoff_of_due ht hrun hdue)
  case applied => exact congrArg Host.Outcome.next (taskMessageApply_of_due hdue)
  case push =>
    rintro core r rfl
    exact (State.core_push_self ..).trans (by rw [dequeCore_taken]; rfl)
  case set =>
    rintro core x n r rfl
    exact congrArg Core.counters (State.core_setCore_self ..)
  case clear =>
    rintro core x rfl
    exact congrArg Core.counters (State.core_setCore_self ..)
  case send =>
    rintro dest pl tag sender u rfl hu
    rw [applyMsg_send (s := taken s pkt k) hu]
    exact exists_messages_placeMessage ..
  case sendCounted =>
    rintro dest pl tag sender x u rfl hu
    exact applyMsg_send (s := taken s pkt k) hu ..
  case launch =>
    rintro q r g rfl
    rfl
  case post =>
    rintro or v w rfl hw
    exact applyMsg_post (s := taken s pkt k) hw ..
  case nothing =>
    subst hd
    exact congrArg Host.Outcome.next ((counterDecrement_of_turn harr hl hturn).trans (by rw [decrement_zero]; rfl))
  case stray =>
    refine congrArg Host.Outcome.next ((counterDecrement_of_turn harr hl hturn).trans ?_)
    rw [decrement_of_stray (s := taken s pkt k) hd hnone]
    rfl
  case lowered =>
    refine ⟨_, congrArg Host.Outcome.next (counterDecrement_of_turn harr hl hturn), ?_⟩
    rw [decrement_of_lt (s := taken s pkt k) hd he hlt]
    rw [core_appliedMsg, State.core_setCore_self]
    exact ⟨rfl, rfl⟩
  case ended =>
    have hcore := core_decrement_of_le (s := taken s pkt k) hd he hle
    rw [dequeCore_taken] at hcore
    refine ⟨_, congrArg Host.Outcome.next (counterDecrement_of_turn harr hl hturn), fun hmem => ?_, hcore⟩
    rw [core_appliedMsg, hcore, counters_push] at hmem
    simp at hmem

end Sys2Proof.Claims
end

section

namespace Sys2Proof.Machine

open Claims

/-! ### The queues of a partition (R303) -/

@[simp] theorem rested_ctl (d : Queue) : d.rested.ctl = d.ctl := by
  unfold Queue.rested
  split <;> rfl

@[simp] theorem rested_rindex (d : Queue) : d.rested.rindex = d.rindex := by
  unfold Queue.rested
  split <;> rfl

@[simp] theorem rested_head (d : Queue) : d.rested.head = d.head := by
  unfold Queue.rested
  split <;> rfl

namespace State

section
variable (s : State) (p q : Nat)

@[simp] theorem queue_setQueue_self (d : Queue) : (s.setQueue p q d).queue p q = d := by
  simp [queue, setQueue, assocGetD]

theorem parts_announce (no : Nat) (tid : Option Nat) (sig : Sig) (lines : List Nat) (fars msgs acks : Nat) :
    (s.announce p no tid sig lines fars msgs acks).parts = s.parts := by
  obtain ⟨_, _, _, _, _, h⟩ := onlyTold_announce s p no tid sig lines fars msgs acks
  rw [h]

theorem parts_perform_settled (ds : List Nat) (cells : List Host.Cell) : ((s.settled ds).perform cells).parts = s.parts := by
  obtain ⟨_, _, _, _, _, _, _, _, _, _, h⟩ := (onlyApplied_settled s ds).trans (onlyApplied_perform _ cells)
  rw [h]

theorem parts_sendWrites (tid crew : Option Nat) (no : Nat) (g : BitVec 16) (cells : List Host.Cell) :
    (s.sendWrites tid crew p no g cells).parts = s.parts := by
  unfold sendWrites
  exact foldl_rel (R := fun s s' => s'.parts = s.parts) (fun _ => rfl) (fun h h' => h'.trans h) (fun _ _ _ => by rfl) s

/-- A number that a commit takes is none of the queues' business. -/
theorem queues_newCommit (tid : Option Nat) (sig : Sig) (lines : List Nat) (fars msgs acks : Nat) :
    ((s.newCommit p tid sig lines fars msgs acks).part p).queues = (s.part p).queues := by
  rw [newCommit, part_congr (parts_announce ..), part_setPart_self]

theorem queues_foremanWrite (pa : Nat) (bs : List Byte) : ((s.foremanWrite p pa bs).part p).queues = (s.part p).queues := by
  unfold foremanWrite foremanNow
  split
  · split
    · rw [part_congr (parts_sendWrites ..)]
    · exact (queues_newCommit ..).trans (congrArg Part.queues (part_congr (parts_perform_settled ..) p))
  · rw [part_setPart_self]

theorem queue_complete (addr : Word) (status value : Nat) : (s.complete p addr status value).queue p q = s.queue p q := by
  unfold complete
  split
  · rw [queue, queues_foremanWrite, queue]
  · rfl

/-- The head of a queue skipped (R309). -/
theorem queue_skipHead (n : Nat) (r : LaunchRec) : (s.skipHead p q n r).queue p q = { (s.takeHead p q).queue p q with skip := n } := by
  rw [skipHead, queue_complete, queue_setQueue_self]

theorem queue_takeHead : (s.takeHead p q).queue p q = Queue.rested
    { s.queue p q with rindex := (s.queue p q).rindex + 1, head := none, waiting := none, held := false, passed := false } :=
  queue_setQueue_self ..

/-- A queue that the foreman disables (R303). -/
theorem queueEn_disable : queueEn ((s.disable p q).queue p q).ctl = false := by
  rw [disable, queue_setQueue_self, rested_ctl, queueEn, getLsbD_setField _ _ _ _ _ (by omega)]
  rfl

end

end State

/-! ### The write index (R303, R304) -/

section
variable {s : State} {p q : Nat} {widx : Word}

/-- DOORBELL of a queue with a valid descriptor, by the write index that is read. -/
theorem doorbell_of_ok (hq : q < 1024) (hen : queueEn (s.queue p q).ctl = true) (hok : s.queueOk p (s.queue p q) = true) :
    doorbell s p q widx =
      if s.indexWord (s.queue p q).waddr widx < (s.queue p q).rindex.toNat ∨
          (s.queue p q).rindex.toNat + 2 ^ queueExp (s.queue p q).ctl < s.indexWord (s.queue p q).waddr widx then s.disable p q
      else s.setQueue p q (Queue.rested { s.queue p q with windex := BitVec.ofNat 64 (s.indexWord (s.queue p q).waddr widx) }) := by
  rw [doorbell, queueMax, if_pos hq, State.readQueue, hen, hok]
  rfl

end

/-! ### Quanta and slots (R305, R306) -/

/-- Slots given out to queues of a table leave its queues in number. -/
theorem length_giveSlots (now n : Nat) (last : List (Nat × Nat)) (l : List (Nat × Queue)) :
    (giveSlots now n last l).2.length = l.length := by
  induction n generalizing last l with
  | zero => rfl
  | succ n ih =>
    rw [giveSlots]
    split
    · rw [ih, List.length_map]
    · rfl

section
variable {s : State} {p q : Nat}

theorem quantumBoundary_of_early (h : s.time < (s.part p).lastQuantum + (s.part p).quantum * 1000) : quantumBoundary s p = s := if_pos h

/-- A quantum boundary changes its partition's queues one by one and gives out slots. -/
theorem quantumBoundary_of_due (h : (s.part p).lastQuantum + (s.part p).quantum * 1000 ≤ s.time) : ∃ given queues,
    quantumBoundary s p = s.setPart p { s.part p with lastQuantum := s.time, lastGiven := given, queues := queues } ∧
      queues.length = (s.part p).queues.length := by
  refine ⟨_, _, if_neg (Nat.not_lt.mpr h), ?_⟩
  rw [List.length_map, length_giveSlots, List.length_map, List.length_map]

/-- The service of a slot at its turn: the write index is read, and the head served where there is work. -/
theorem slotService_of_turn {widx : Word} {rec' : List Word} {s1 : State} (hr : (s.queue p q).resident = true) (ht : s.isTurn p q = true)
    (hs : s1 = (s.setPart p { s.part p with lastServed := assocSet (s.queue p q).level q (s.part p).lastServed }).readQueue p q widx) :
    slotService s p q widx rec' = if (s1.queue p q).hasWork then
      (s1.setQueue p q { s1.queue p q with head := (s1.queue p q).head.or (some (s1.readRecord (s1.queue p q) rec')) }).tryHead p q
    else s1 := by
  subst hs
  simp only [slotService, hr, ht, Bool.not_true, Bool.or_self, Bool.false_eq_true, if_false, Bool.not_eq_true', ← Bool.not_eq_true,
    ite_not]

end

/-! ### What becomes of a head (R305, R307-R311, R392) -/

section
variable {s : State} {p q : Nat} {r : LaunchRec}

theorem serveHead_of_skip {n : Nat} (hh : (s.queue p q).head = some r) (hk : (s.queue p q).skip = n + 1) :
    s.serveHead p q = .acts (s.skipHead p q n r) := by
  simp [State.serveHead, hh, hk]

theorem serveHead_of_formatFault {v : Nat} (hh : (s.queue p q).head = some r) (hk : (s.queue p q).skip = 0)
    (hf : s.formatFault p r = some v) : s.serveHead p q = .acts (s.refuseHead p q r 0x0102 v) := by
  simp [State.serveHead, hh, hk, hf]

theorem serveHead_of_shapeFault (hh : (s.queue p q).head = some r) (hk : (s.queue p q).skip = 0)
    (hf : s.formatFault p r = none) (hs : s.shapeFault p (launchShape r) = true) :
    s.serveHead p q = .acts (s.refuseHead p q r 0x0101 0) := by
  simp [State.serveHead, hh, hk, hf, hs]

/-- A sound head is not kept waiting for the result that its condition is about. -/
theorem not_awaitsPrevious (h : HeadSound s p q r) : ¬ (field (r.getD 5 0) 0 3 ≠ 0 ∧ (!(s.queue p q).prevDone) = true) := by
  obtain ⟨-, -, -, -, hprev⟩ := h
  rintro ⟨hn, hd⟩
  rw [hprev.resolve_left hn] at hd
  cases hd

theorem serveHead_of_condition (h : HeadSound s p q r) (hc : condHolds r (s.queue p q).prevResult = false) :
    s.serveHead p q = .acts (s.skipHead p q (field (r.getD 5 0) 8 8) r) := by
  have hwait := not_awaitsPrevious h
  obtain ⟨hh, hk, hf, hs, -⟩ := h
  simp only [State.serveHead, hh, hk, hf, hs, if_neg hwait, hc, Nat.lt_irrefl, Bool.false_eq_true, if_false, Bool.not_false, if_true]

/-- A head that nothing holds up is placed, if there is room. -/
theorem serveHead_of_free (h : HeadFree s p q r) : s.serveHead p q =
    (s.placeLaunch p q r).elim .noRoom fun s' => .acts (s'.takeHead p q) := by
  obtain ⟨hsound, hc, hheld, hbreak, hhandles, hpress, hcool⟩ := h
  have hwait := not_awaitsPrevious hsound
  obtain ⟨hh, hk, hf, hs, -⟩ := hsound
  have hpass : (!(s.queue p q).passed && (s.part p).breaks q r) = false := by
    obtain h | h := hbreak <;> simp [h]
  simp only [State.serveHead, hh, hk, hf, hs, if_neg hwait, hc, hheld, hpass, hhandles, hpress, hcool, Nat.lt_irrefl, Bool.false_eq_true,
    if_false, Bool.not_true, Bool.or_self, List.isEmpty_nil]
  cases s.placeLaunch p q r <;> rfl

theorem launchPlacement_of_due (h : PlacementDue s p q) : launchPlacement s p q = s.tryHead p q := by
  obtain ⟨hen, hw, hp⟩ := h
  simp only [launchPlacement, hen, hw, hp, Bool.and_self, Bool.true_or, if_true]

theorem launchPlacement_of_acts {s' : State} (hdue : PlacementDue s p q) (h : s.serveHead p q = .acts s') :
    launchPlacement s p q = s' := by
  rw [launchPlacement_of_due hdue, State.tryHead, h]

/-- A head that waits for placement goes on waiting, since when it did, where it still finds no room. -/
theorem launchPlacement_of_noRoom (hdue : PlacementDue s p q) (h : s.serveHead p q = .noRoom) :
    launchPlacement s p q = s.setQueue p q (s.queue p q) := by
  rw [launchPlacement_of_due hdue, State.tryHead, h]
  obtain ⟨-, hw, -⟩ := hdue
  simp only [Option.or_of_isSome hw]

theorem lbrelPlace_of_held (h : (s.queue p q).held = true) :
    lbrelPlace s p q = s.setQueue p q { s.queue p q with held := false, passed := true } := if_pos h

theorem lbrelSkip_of_held (h : (s.queue p q).held = true) (hh : (s.queue p q).head = some r) : lbrelSkip s p q = s.skipHead p q 0 r := by
  simp only [lbrelSkip, h, hh]

end

end Sys2Proof.Machine

namespace Sys2Proof.Claims

open Sys2Proof.Machine

/-- Settles O54: each event of a queue by the lemma that says what becomes of its write index, its slot or its head. -/
theorem queueEvents : Obligations.QueueEvents := by
  intro s p q widx
  refine ⟨fun hq hen hok => ⟨fun hlo hhi => ?within, fun hout => ?beyond⟩, fun hdue => ?quantum, fun hearly => ?early,
    fun rec' hres hturn => ⟨fun hwork => ?idle, fun hwork => ?serves⟩,
    fun r hdue => ⟨fun n hh hk => ?skips, fun v hh hk hf => ?format, fun hh hk hf hs => ?shape, fun hsound hc => ?condition,
      fun hfree => ⟨fun s1 hs1 => ?places, fun hnone => ?noRoom⟩⟩,
    fun r hheld => ⟨?release, fun hh => ?drop⟩, fun n r => ?skipped⟩
  case within =>
    have hwithin := not_or.mpr ⟨Nat.not_lt.mpr hlo, Nat.not_lt.mpr hhi⟩
    exact goes_of_eq rfl ((doorbell_of_ok hq hen hok).trans (if_neg hwithin))
  case beyond => exact ⟨_, goes_of_eq rfl ((doorbell_of_ok hq hen hok).trans (if_pos hout)), State.queueEn_disable s p q⟩
  case quantum =>
    obtain ⟨given, queues, heq, hlen⟩ := quantumBoundary_of_due hdue
    refine ⟨_, goes_of_eq rfl heq, ?_, ?_, rfl, fun _ => rfl⟩ <;> rw [State.part_setPart_self]
    exact hlen
  case early => exact goes_of_eq rfl (quantumBoundary_of_early hearly)
  case idle => exact goes_of_eq rfl ((slotService_of_turn hres hturn rfl).trans (if_neg (Bool.not_eq_true _ ▸ hwork)))
  case serves => exact goes_of_eq rfl ((slotService_of_turn hres hturn rfl).trans (if_pos hwork))
  case skips => exact goes_of_eq rfl (launchPlacement_of_acts hdue (serveHead_of_skip hh hk))
  case format => exact goes_of_eq rfl (launchPlacement_of_acts hdue (serveHead_of_formatFault hh hk hf))
  case shape => exact goes_of_eq rfl (launchPlacement_of_acts hdue (serveHead_of_shapeFault hh hk hf hs))
  case condition => exact goes_of_eq rfl (launchPlacement_of_acts hdue (serveHead_of_condition hsound hc))
  case places => exact goes_of_eq rfl (launchPlacement_of_acts hdue ((serveHead_of_free hfree).trans (by rw [hs1]; rfl)))
  case noRoom => exact goes_of_eq rfl (launchPlacement_of_noRoom hdue ((serveHead_of_free hfree).trans (by rw [hnone]; rfl)))
  case release => exact goes_of_eq rfl (lbrelPlace_of_held hheld)
  case drop => exact goes_of_eq rfl (lbrelSkip_of_held hheld hh)
  case skipped =>
    rw [State.queue_skipHead, State.queue_takeHead]
    exact ⟨rested_rindex _, rested_head _, rfl⟩

end Sys2Proof.Claims
end

section

/-! ### The state after a reset (R440) -/

namespace Sys2Proof.Machine

theorem spareOf_reset (row : Nat) : Bank.reset.spareOf row = none := by
  simp [Bank.spareOf, Bank.reset, List.find?_eq_none, Vector.get]

/-- A bank of reset serves what is stored. -/
theorem Bank.readByte_reset (stored : Byte) (o : Nat) : Bank.reset.readByte stored o = stored := by
  rw [Bank.readByte, spareOf_reset]
  simp [Bank.reset]

theorem Bank.control_reset (off : Nat) : Bank.reset.control off = 0 := by
  unfold Bank.control
  split <;> simp [Bank.reset, Bank.status]

theorem bank_reset (cl b : Nat) : State.reset.bank cl b = Bank.reset := rfl

/-- Every byte of the machine is zero after a reset. -/
theorem readByte_reset (pa : Nat) : State.reset.readByte pa = 0 := by
  simp only [State.readByte, bank_reset, Bank.control_reset, Bank.readByte_reset]
  simp [State.reset, Memory.read, assocGetD, assocGet?]

theorem readWord_reset (pa : Nat) : State.reset.readWord pa = 0 := by
  simp [State.readWord, State.readVal, State.readRun, readByte_reset, ofBytes]

end Sys2Proof.Machine

namespace Sys2Proof.Claims

open Sys2Proof.Machine

/-- Settles O35: the words of a reset are read from its zero bytes, the rest from its fields. -/
theorem resetState : Obligations.ResetState := by
  refine ⟨rfl, by decide, by decide, rfl, ?version, fun pa _ => readByte_reset pa, fun _ _ => rfl, fun b => ?phase, fun _ => rfl,
    fun _ => rfl, rfl, rfl, fun _ => rfl⟩
  case version => simp [State.policyver, readWord_reset, field]
  case phase => simp [State.phase, readWord_reset, field]

end Sys2Proof.Claims

end

section

/-! ### One instruction of a bench core (R396, R413) -/

namespace Sys2Proof.Machine

open Claims

variable {s : State} {b n : Nat} {e : Bench} {m : BMach} {retire : Bench → Word → Bench} {op : BM Unit}

/-- What an instruction of n bytes finds. -/
def benchMach (s : State) (b n : Nat) : BMach :=
  { st := hereB s, b, e := s.bench b, npc := (s.bench b).pc + BitVec.ofNat 64 n }

theorem leavesSram_of_le {a : Word} {n : Nat} (h : a.toNat + n ≤ 65536) : Bench.leavesSram a n = false := by
  exact decide_eq_false (by simpa [Bench.sramSize] using h)

theorem leavesSram_of_lt {a : Word} {n : Nat} (h : 65536 < a.toNat + n) : Bench.leavesSram a n = true := by
  exact decide_eq_true (by simpa [Bench.sramSize] using h)

/-- An instruction whose bytes lie in its SRAM does what its operation does. -/
theorem runBench_of_begins (h : BenchBegins s b n e) (h2 : 2 ≤ n) :
    runBench s n retire op = .next (match op.run (benchMach s b n) with
      | .ok _ m => m.st.setBench b (retire m.e m.npc)
      | .error (.fault code v) _ => (hereB s).faultEpisode b code v
      | .error .wait _ => hereB s
      | .error (.check l) _ => ((hereB s).unitCheck ((hereB s).benchPart b) 0 e.crew l).faultEpisode b 5 l) := by
  obtain ⟨hi, rfl, hpc⟩ := h
  simp only [runBench, hi, leavesSram_of_le hpc, leavesSram_of_le (show (s.bench b).pc.toNat + 2 ≤ 65536 by omega)]
  rfl

/-- It retires where its operation comes to an end. -/
theorem runBench_of_ok (h : BenchBegins s b n e) (h2 : 2 ≤ n) (hr : op.run (benchMach s b n) = .ok () m) :
    runBench s n retire op = .next (m.st.setBench b (retire m.e m.npc)) := by
  rw [runBench_of_begins h h2, hr]

/-- Its exception ends the episode (R397). -/
theorem runBench_of_fault (h : BenchBegins s b n e) (h2 : 2 ≤ n) {code : Nat} {v : Word}
    (hr : op.run (benchMach s b n) = .error (.fault code v) m) :
    runBench s n retire op = .next ((hereB s).faultEpisode b code v) := by
  rw [runBench_of_begins h h2, hr]

/-- An instruction that writes one register and goes on. -/
theorem runBench_of_setX (h : BenchBegins s b n e) (h2 : 2 ≤ n) {d : BitVec 5} {v pc : Word}
    (hr : op.run (benchMach s b n) = .ok () { benchMach s b n with e := e.setX d v, npc := pc }) :
    runBench s n Bench.retire op = .next ((hereB s).setBench b
      { e.setX d v with pc := pc, steps := (e.setX d v).steps + 1, retired := (e.setX d v).retired + 1 }) := by
  rw [runBench_of_ok h h2 hr]
  rfl

@[simp] theorem run_setRd (d : BitVec 5) (v : Word) (m : BMach) : (setRd d v).run m = .ok () { m with e := m.e.setX d v } := rfl

@[simp] theorem setX_steps (e : Bench) (d : BitVec 5) (v : Word) : (e.setX d v).steps = e.steps := by
  unfold Bench.setX
  split <;> rfl

@[simp] theorem setX_retired (e : Bench) (d : BitVec 5) (v : Word) : (e.setX d v).retired = e.retired := by
  unfold Bench.setX
  split <;> rfl

end Sys2Proof.Machine

/-! ### EP.INFO and EP.VER (R417, R418) -/

namespace Sys2Proof.Claims

open Sys2Proof.Machine

variable {s : State} {b n : Nat} {e : Bench}

/-- Where the rest of an instruction leaves one register written, it retires so. -/
theorem BenchBegins.retires {i : Instr} {op : BM Unit} (h : BenchBegins s b n e) (h2 : 2 ≤ n)
    (hi : exec i s = runBench s n Bench.retire op) {d : BitVec 5} {v pc : Word}
    (hr : op.run (benchMach s b n) = .ok () { benchMach s b n with e := e.setX d v, npc := pc }) :
    RetiresB i s b (e.setX d v) pc := by
  rw [RetiresB, hi, runBench_of_setX h h2 hr, setX_steps, setX_retired]

/-- The windows in use, as a mask: bit w counts where w is used. -/
theorem sum_used (p : Nat → Bool) (l : List Nat) :
    (l.map fun w => if p w then 2 ^ w else 0).sum = ((l.filter p).map fun w => 2 ^ w).sum := by
  induction l with
  | nil => rfl
  | cons w l ih => by_cases h : p w <;> simp [h, ih]

theorem isSome_window (e : Bench) (w : Nat) :
    (e.window w).isSome = decide ((e.desc.getD ((0x88 + 16 * w) / 8) 0).toNat % 2 ^ 25 ≠ 0) := by
  simp only [Bench.window, Bench.dword, field, pow_zero, Nat.div_one]
  split <;> simp_all

theorem toNat_div_32 (w : Word) : w.toNat / 2 ^ 32 = field w 32 32 := by
  unfold field
  omega

/-- The items of EP.INFO. -/
theorem run_opInfo (item : BitVec 3) (d : BitVec 5) (m : BMach) :
    (opInfo item d).run m = .ok () { m with e := m.e.setX d (infoItem m.e item.toNat) } := by
  have hserial := toNat_div_32 (m.e.desc.getD (0xC0 / 8) 0)
  unfold opInfo infoItem
  generalize item.toNat = k
  match k with
  | 0 | 1 | 4 => rfl
  | 2 => rfl
  | 3 => simp only [hserial]; rfl
  | 5 => simp only [Bench.ibud, field_low]; rfl
  | 6 => simp only [Bench.tbud, field_low]; rfl
  | k + 7 =>
    simp only [isSome_window, sum_used, Nat.reduceEqDiff, if_false]
    rfl

/-- Settles O43: the items of the descriptor, and the version of the partition. -/
theorem episodeInfoResults : Obligations.EpisodeInfoResults := by
  intro s b e item d h
  have he : (benchMach s b 4).e = e := h.2.1.symm
  have hpc : (benchMach s b 4).npc = e.pc + 4 := by rw [h.2.1]; rfl
  refine ⟨h.retires (op := opInfo item d) (by decide) rfl ?info, h.retires (op := do
    let m ← get
    setRd d (BitVec.ofNat 64 (m.st.policyver (m.st.benchPart m.b)))) (by decide) rfl ?version⟩
  case info => rw [run_opInfo, he, ← hpc]
  case version =>
    rw [← hpc, ← he]
    rfl

end Sys2Proof.Claims

end

section

/-! ### What a commit of a bench or the foreman leaves as it was (R161, R399) -/

namespace Sys2Proof.Machine.State

open Claims

/-- All is the same but what a commit of another source than a chunk changes: what is stored and told, the partitions, and what is
sent beyond the edge. -/
def OnlyCommitted (s s' : State) : Prop := ∃ m cl d bn cm nt id sq fs th pt bi lk,
  s' = { s with mem := m, clusters := cl, dirty := d, benches := bn, commits := cm, net := nt, nextId := id, seqs := sq, fars := fs,
                threads := th, parts := pt, backInv := bi, links := lk }

section
variable {s s' s'' : State}

theorem OnlyCommitted.refl (s : State) : OnlyCommitted s s := ⟨_, _, _, _, _, _, _, _, _, _, _, _, _, rfl⟩

theorem OnlyCommitted.trans (h : OnlyCommitted s s') (h' : OnlyCommitted s' s'') : OnlyCommitted s s'' := by
  obtain ⟨_, _, _, _, _, _, _, _, _, _, _, _, _, rfl⟩ := h
  obtain ⟨_, _, _, _, _, _, _, _, _, _, _, _, _, rfl⟩ := h'
  exact ⟨_, _, _, _, _, _, _, _, _, _, _, _, _, rfl⟩

theorem OnlyApplied.committed (h : OnlyApplied s s') : OnlyCommitted s s' := by
  obtain ⟨_, _, _, _, _, _, _, _, _, _, rfl⟩ := h
  exact ⟨_, _, _, _, _, _, _, _, _, _, _, _, _, rfl⟩

theorem OnlyCommitted.modcfg (h : OnlyCommitted s s') : s'.modcfg = s.modcfg := by
  obtain ⟨_, _, _, _, _, _, _, _, _, _, _, _, _, rfl⟩ := h
  rfl

theorem OnlyCommitted.time (h : OnlyCommitted s s') : s'.time = s.time := by
  obtain ⟨_, _, _, _, _, _, _, _, _, _, _, _, _, rfl⟩ := h
  rfl

theorem OnlyCommitted.benchPart (h : OnlyCommitted s s') (b : Nat) : s'.benchPart b = s.benchPart b := by
  simp only [State.benchPart, partOf, h.modcfg]

end

section
variable (s : State) (p : Nat) (cells : List Host.Cell)

theorem onlyCommitted_newCommit (tid : Option Nat) (sig : Sig) (lines : List Nat) (fars msgs acks : Nat) :
    OnlyCommitted s (s.newCommit p tid sig lines fars msgs acks) :=
  .trans ⟨_, _, _, _, _, _, _, _, _, _, _, _, _, rfl⟩ (onlyTold_announce ..).applied.committed

theorem onlyCommitted_commitCells : OnlyCommitted s (s.commitCells p cells) :=
  ((((onlyApplied_settled s _).trans (onlyApplied_perform _ cells)).committed).trans (onlyCommitted_newCommit ..)).trans
    ⟨_, _, _, _, _, _, _, _, _, _, _, _, _, rfl⟩

theorem onlyCommitted_effectCells (no : Nat) : OnlyCommitted s (s.effectCells p no cells) :=
  (((onlyApplied_settled s _).trans (onlyApplied_perform _ cells)).trans (onlyTold_announce ..).applied).committed

theorem onlyCommitted_sendWrites (tid crew : Option Nat) (no : Nat) (g : BitVec 16) :
    OnlyCommitted s (s.sendWrites tid crew p no g cells) :=
  foldl_rel OnlyCommitted.refl OnlyCommitted.trans (fun _ _ _ => ⟨_, _, _, _, _, _, _, _, _, _, _, _, _, rfl⟩) s

theorem onlyCommitted_benchWrite : OnlyCommitted s (s.benchWrite p cells) :=
  (onlyCommitted_commitCells ..).trans (onlyCommitted_sendWrites ..)

end

end Sys2Proof.Machine.State

/-! ### The publications of EP.PUBOBS and EP.END (R416) -/

namespace Sys2Proof.Machine

open Claims

variable {s : State} {b : Nat} {e : Bench} {rs1 rs2 d : BitVec 5}

/-- A machine and an episode after the bench's commit of some bytes (R161, R399). -/
def afterCommit (m : BMach) (cells : List Host.Cell) : BMach :=
  let st := m.st.benchWrite (m.st.benchPart m.b) cells
  { m with st, e := { m.e with resv := (st.bench m.b).resv,
                               unacked := m.e.unacked ++ [((st.part (m.st.benchPart m.b)).commitNo, false)] } }

theorem run_bind_bench {α β : Type} (p : BM α) (f : α → BM β) (m : BMach) :
    (p >>= f).run m = match p.run m with
      | .ok x m' => (f x).run m'
      | .error e m' => .error e m' := by
  show EStateM.bind p f m = _
  unfold EStateM.bind EStateM.run
  cases p m <;> rfl

theorem run_bind_bench_ok {α β : Type} {p : BM α} {f : α → BM β} {m m' : BMach} {x : α} (h : p.run m = .ok x m') :
    (p >>= f).run m = (f x).run m' := by rw [run_bind_bench, h]

theorem run_get_bench (m : BMach) : (get : BM BMach).run m = .ok m m := rfl

theorem run_benchCommit {m : BMach} {cells : List Host.Cell} (h : m.st.benchBlocked (m.st.benchPart m.b) cells = false) :
    (benchCommit cells).run m = .ok () (afterCommit m cells) := by
  unfold benchCommit
  refine (run_bind_bench_ok (run_get_bench m)).trans ?_
  show (ite (m.st.benchBlocked (m.st.benchPart m.b) cells = true) _ _ : BM Unit).run m = _
  rw [if_neg (by rw [h]; decide)]
  rfl

theorem run_illegalIf_false {c : Bool} (h : c = false) (m : BMach) : (illegalIf c).run m = .ok () m := by
  rw [h]
  rfl

theorem run_bneed_true {c : Bool} (h : c = true) (code : Nat) (v : Word) (m : BMach) : (bneed c code v).run m = .ok () m := by
  rw [h]
  rfl

/-- What is published of a machine by a checked EP.PUBOBS or EP.END. -/
def published (m : BMach) (rs1 rs2 : BitVec 5) (status : Nat) : List Host.Cell :=
  m.st.publication m.b status (m.e.getX rs2) (m.e.steps + 1)
    (Memory.readRun m.e.sram (m.e.getX rs1).toNat ((m.e.getX rs2).toNat % 2 ^ 12))

/-- A publication that passes its checks is committed. -/
theorem run_opPublish {m : BMach} {term : Bool} (hok : PublishOk m.e rs1 rs2)
    (hturn : term = true ∨ m.e.eplast = BitVec.allOnes 64 ∨ m.e.taken = true)
    (hfree : m.st.benchBlocked (m.st.benchPart m.b) (published m rs1 rs2 (if term then 1 else 0)) = false) :
    (opPublish rs2 rs1 term).run m = .ok () (afterCommit m (published m rs1 rs2 (if term then 1 else 0))) := by
  obtain ⟨hreserved, hlength, hrange⟩ := hok
  have hfield : field (m.e.getX rs2) 0 12 = (m.e.getX rs2).toNat % 2 ^ 12 := field_low ..
  have hcontrol : (decide (field (m.e.getX rs2) 12 20 ≠ 0) || decide (4064 < field (m.e.getX rs2) 0 12)) = false := by
    exact Bool.or_eq_false_iff.2 ⟨decide_eq_false (not_not.2 hreserved), decide_eq_false (hfield ▸ not_lt.2 hlength)⟩
  have hpayload : (decide (field (m.e.getX rs2) 0 12 = 0) ||
      !Bench.leavesSram (m.e.getX rs1) (field (m.e.getX rs2) 0 12)) = true := by
    rw [hfield, Bool.or_eq_true]
    exact hrange.imp decide_eq_true fun h => by rw [leavesSram_of_le h]; rfl
  have hanswer : (!term && decide (m.e.eplast ≠ BitVec.allOnes 64) && !m.e.taken) = false := by
    rcases hturn with h | h | h <;> simp [h]
  unfold opPublish
  refine (run_bind_bench_ok (run_get_bench m)).trans ?_
  refine (run_bind_bench_ok (run_illegalIf_false hcontrol m)).trans ?_
  refine (run_bind_bench_ok (run_bneed_true hpayload _ _ m)).trans ?_
  refine (run_bind_bench_ok (run_illegalIf_false hanswer m)).trans ?_
  rw [hfield]
  exact run_benchCommit hfree

/-- What EP.PUBOBS leaves of a machine. -/
def afterPubobs (m : BMach) (d : BitVec 5) (cells : List Host.Cell) : BMach :=
  let m' := afterCommit m cells
  { m' with e := { (m'.e.published m'.st.time false).setX d m'.e.nextOseq with
      unacked := m'.e.unacked.map fun u => (u.1, u.2 || decide (u.1 = (m'.st.part (m'.st.benchPart m'.b)).commitNo)) } }

/-- The episode that it leaves: its step begins again, and its commit is to be acknowledged first (R416). -/
theorem afterPubobs_retired (m : BMach) (d : BitVec 5) (cells : List Host.Cell) (pc : Word) :
    let st := m.st.benchWrite (m.st.benchPart m.b) cells
    let no := (st.part (m.st.benchPart m.b)).commitNo
    Bench.retirePub (afterPubobs m d cells).e pc =
      { (({ m.e with eplast := m.e.eplast + 1, pubs := m.e.pubs + 1, steps := 0, stepNs := 0, seen := st.time, taken := false,
                     vsw := false, resv := (st.bench m.b).resv } : Bench).setX d (m.e.eplast + 1))
        with pc := pc, retired := m.e.retired + 1,
             unacked := (m.e.unacked.map fun u => (u.1, u.2 || decide (u.1 = no))) ++ [(no, true)] } := by
  intro st no
  have hmarks : (m.e.unacked ++ [(no, false)]).map (fun u => (u.1, u.2 || decide (u.1 = (st.part (st.benchPart m.b)).commitNo))) =
      (m.e.unacked.map fun u => (u.1, u.2 || decide (u.1 = no))) ++ [(no, true)] := by
    rw [(State.onlyCommitted_benchWrite ..).benchPart m.b, List.map_append]
    simp [no, st]
  rw [← hmarks]
  simp only [afterPubobs, afterCommit, Bench.retirePub, setX_retired]
  unfold Bench.setX
  split <;> rfl

theorem run_opPubobs {m : BMach} (hok : PublishOk m.e rs1 rs2) (hturn : m.e.eplast = BitVec.allOnes 64 ∨ m.e.taken = true)
    (hfree : m.st.benchBlocked (m.st.benchPart m.b) (published m rs1 rs2 0) = false) :
    (opPubobs rs2 rs1 d).run m = .ok () (afterPubobs m d (published m rs1 rs2 0)) :=
  run_bind_bench_ok (run_opPublish (term := false) hok (.inr hturn) hfree)

/-- What EP.END leaves of a machine. -/
def afterEnd (m : BMach) (cells : List Host.Cell) : BMach :=
  let m' := afterCommit m cells
  { m' with e := m'.e.published m'.st.time true }

/-- The episode that it leaves has ended, its registers and its SRAM as they were. -/
theorem endedBy_afterEnd (m : BMach) (cells : List Host.Cell) (pc : Word) :
    let e' := Bench.retirePub (afterEnd m cells).e pc
    e'.running = false ∧ e'.eplast = m.e.eplast + 1 ∧ e'.pubs = m.e.pubs + 1 ∧ e'.action = none ∧ e'.x = m.e.x ∧ e'.sram = m.e.sram :=
  ⟨rfl, rfl, rfl, rfl, rfl, rfl⟩

theorem run_opEnd {m : BMach} (hok : PublishOk m.e rs1 rs2)
    (hfree : m.st.benchBlocked (m.st.benchPart m.b) (published m rs1 rs2 1) = false) :
    (opEnd rs2 rs1).run m = .ok () (afterEnd m (published m rs1 rs2 1)) :=
  run_bind_bench_ok (run_opPublish (term := true) hok (.inl rfl) hfree)

end Sys2Proof.Machine

namespace Sys2Proof.Claims

open Sys2Proof.Machine

variable {s : State} {b : Nat} {e : Bench} {rs1 rs2 d : BitVec 5}

theorem BenchBegins.published (h : BenchBegins s b 4 e) (status : Nat) :
    Machine.published (benchMach s b 4) rs1 rs2 status = published s b e rs1 rs2 status := by
  rw [h.2.1]
  rfl

/-- EP.PUBOBS publishes, and begins the next step (R416). -/
theorem BenchBegins.pubobs (h : BenchBegins s b 4 e) (hok : PublishOk e rs1 rs2)
    (hturn : e.eplast = BitVec.allOnes 64 ∨ e.taken = true)
    (hfree : s.benchBlocked (s.benchPart b) (Claims.published s b e rs1 rs2 0) = false) :
    let s2 := (hereB s).benchWrite (s.benchPart b) (Claims.published s b e rs1 rs2 0)
    let no := (s2.part (s.benchPart b)).commitNo
    exec (.epPubobs rs2 rs1 d) s = .next (s2.setBench b
      { (({ e with eplast := e.eplast + 1, pubs := e.pubs + 1, steps := 0, stepNs := 0, seen := s2.time, taken := false, vsw := false,
                   resv := (s2.bench b).resv } : Bench).setX d (e.eplast + 1))
        with pc := e.pc + 4, retired := e.retired + 1,
             unacked := (e.unacked.map fun u => (u.1, u.2 || decide (u.1 = no))) ++ [(no, true)] }) := by
  intro s2 no
  have he : (benchMach s b 4).e = e := h.2.1.symm
  have hrun := run_opPubobs (d := d) (m := benchMach s b 4) (rs1 := rs1) (rs2 := rs2) (by rwa [he]) (by rwa [he])
    (by rw [h.published]; exact hfree)
  refine (runBench_of_ok h (by decide) hrun).trans ?_
  rw [h.published]
  rw [afterPubobs_retired]
  obtain ⟨-, rfl, -⟩ := h
  rfl

/-- EP.END publishes the last observation, and the core runs no more (R416). -/
theorem BenchBegins.epEnd (h : BenchBegins s b 4 e) (hok : PublishOk e rs1 rs2)
    (hfree : s.benchBlocked (s.benchPart b) (Claims.published s b e rs1 rs2 1) = false) :
    ∃ e', exec (.epEnd rs2 rs1) s =
        .next (((hereB s).benchWrite (s.benchPart b) (Claims.published s b e rs1 rs2 1)).setBench b e') ∧
      e'.running = false ∧ e'.eplast = e.eplast + 1 ∧ e'.pubs = e.pubs + 1 ∧ e'.action = none ∧ e'.x = e.x ∧ e'.sram = e.sram := by
  have he : (benchMach s b 4).e = e := h.2.1.symm
  have hrun := run_opEnd (m := benchMach s b 4) (rs1 := rs1) (rs2 := rs2) (by rwa [he]) (by rw [h.published]; exact hfree)
  have hexec := runBench_of_ok (retire := Bench.retirePub) h (by decide) hrun
  rw [h.published] at hexec
  obtain ⟨hstops, heplast, hpubs, haction, hx, hsram⟩ :=
    endedBy_afterEnd (benchMach s b 4) (Claims.published s b e rs1 rs2 1) (benchMach s b 4).npc
  exact ⟨_, hexec, hstops, heplast.trans (by rw [he]), hpubs.trans (by rw [he]), haction, hx.trans (by rw [he]), hsram.trans (by rw [he])⟩

end Sys2Proof.Claims

/-! ### EP.WAITACT (R415) -/

namespace Sys2Proof.Machine

open Claims

theorem assocSet_assocSet {α : Type} (k : Nat) (v w : α) (l : List (Nat × α)) : assocSet k w (assocSet k v l) = assocSet k w l := by
  induction l with
  | nil => simp [assocSet]
  | cons x l ih =>
    rcases lt_trichotomy k x.1 with h | h | h
    · simp [assocSet, h]
    · simp [assocSet, h]
    · simp [assocSet, not_lt.2 h.le, h.ne', ih]

theorem State.setBench_setBench (s : State) (b : Nat) (v w : Bench) : (s.setBench b v).setBench b w = s.setBench b w := by
  simp only [State.setBench, assocSet_assocSet]

variable {s : State} {b : Nat} {e : Bench} {rs1 rs2 d : BitVec 5}

/-- The time that passes changes the counts of time alone (R413). -/
theorem tick_eq (e : Bench) (now : Nat) : ∃ ns, e.tick now = { e with stepNs := ns, seen := now } := by
  unfold Bench.tick
  split
  · exact ⟨_, rfl⟩
  · exact ⟨_, rfl⟩

/-- EP.WAITACT that passes its checks begins its wait. -/
theorem epWaitact_waits (hpc : e.pc.toNat + 4 ≤ 65536) (he : s.bench b = e) (hlast : e.eplast ≠ BitVec.allOnes 64) (htaken : e.taken = false)
    (hrange : min (e.getX rs2).toNat 4080 = 0 ∨ (e.getX rs1).toNat + min (e.getX rs2).toNat 4080 ≤ 65536) :
    epWaitact s b rs2 rs1 d = waitactReturn (s.setBench b
      { e.tick s.time with waiting := some (d, (e.getX rs1).toNat, min (e.getX rs2).toNat 4080) }) b := by
  have hin : ¬ (0 < min (e.getX rs2).toNat 4080 ∧ Bench.leavesSram (e.getX rs1) (min (e.getX rs2).toNat 4080) = true) := by
    rintro ⟨hpos, hleaves⟩
    rw [leavesSram_of_le (hrange.resolve_left hpos.ne')] at hleaves
    cases hleaves
  have hwaits : ¬ (e.eplast = BitVec.allOnes 64 ∨ e.taken = true) := not_or.2 ⟨hlast, by rw [htaken]; decide⟩
  simp only [epWaitact, he, leavesSram_of_le hpc, if_neg hwaits, if_neg hin]
  rfl

theorem waitactReturn_of_none (h : (s.bench b).action = none) : waitactReturn s b = s := by
  simp only [waitactReturn, h]
  cases (s.bench b).waiting <;> rfl

/-- An EP.WAITACT that has taken an action: its payload in SRAM, its number in xd. -/
def taking (e : Bench) (now : Nat) (a : Action) (d : BitVec 5) (dst n : Nat) : Bench :=
  (Bench.setX { e with sram := Memory.writeRun e.sram dst (a.payload.take n), action := none, waiting := none, taken := true,
                       vsw := a.vsw, seen := now } d a.aseq).retire (e.pc + 4)

theorem waitactReturn_takes {a : Action} {dst n : Nat} (hw : (s.bench b).waiting = some (d, dst, n)) (ha : (s.bench b).action = some a)
    (hs : a.superseded = false) (hsusp : (s.bench b).suspended = false) (hend : (s.bench b).ending = none)
    (hfree : s.benchBlocked (s.benchPart b) (s.pendCells b) = false) :
    waitactReturn s b = (s.setBench b (taking (s.bench b) s.time a d dst n)).commitCells (s.benchPart b) (s.pendCells b) := by
  simp only [waitactReturn, hw, ha, hs, hsusp, hend, hfree, Option.isSome_none, Bool.or_false, Bool.false_eq_true, if_false, taking]

theorem getX_setX (e : Bench) (d : BitVec 5) (v : Word) : (e.setX d v).getX d = if d = 0 then 0 else v := by
  unfold Bench.getX Bench.setX
  split
  · rfl
  · exact Vector.getElem_set_self d.isLt

theorem taking_effect (e : Bench) (now : Nat) (a : Action) (d : BitVec 5) (dst n : Nat) :
    let e' := taking e now a d dst n
    e'.sram = Memory.writeRun e.sram dst (a.payload.take n) ∧ e'.getX d = (if d = 0 then 0 else a.aseq) ∧
      e'.action = none ∧ e'.taken = true ∧ e'.vsw = a.vsw ∧ e'.pc = e.pc + 4 ∧ e'.steps = e.steps + 1 := by
  refine ⟨?_, getX_setX .., ?_⟩ <;> simp only [taking, Bench.retire, Bench.setX] <;> split <;> simp

end Sys2Proof.Machine

namespace Sys2Proof.Claims

open Sys2Proof.Machine

variable {s : State} {b : Nat} {e : Bench} {rs1 rs2 d : BitVec 5}

theorem exec_epWaitact (hi : s.issuing = some (.bench b)) :
    exec (.epWaitact rs2 rs1 d) s = .next (epWaitact (hereB s) b rs2 rs1 d) := by
  show execEpWaitact rs2 rs1 d s = _
  simp only [execEpWaitact, hi]
  rfl

/-- EP.WAITACT without an action that it could take waits (R415). -/
theorem BenchBegins.waits (h : BenchBegins s b 4 e) (hlast : e.eplast ≠ BitVec.allOnes 64) (htaken : e.taken = false)
    (hrange : min (e.getX rs2).toNat 4080 = 0 ∨ (e.getX rs1).toNat + min (e.getX rs2).toNat 4080 ≤ 65536) :
    exec (.epWaitact rs2 rs1 d) s = .next (waitactReturn ((hereB s).setBench b
      { e.tick s.time with waiting := some (d, (e.getX rs1).toNat, min (e.getX rs2).toNat 4080) }) b) := by
  obtain ⟨hi, he, hpc⟩ := h
  rw [exec_epWaitact hi, epWaitact_waits (s := hereB s) hpc he.symm hlast htaken hrange]
  rfl

theorem waitactReturn_waiting {s1 : State} {w : Bench} (h : w.action = none) :
    waitactReturn (s1.setBench b w) b = s1.setBench b w :=
  waitactReturn_of_none (by rw [State.bench_setBench_self, h])

/-- One that finds an action takes it, clears PEND, and goes on (R415). -/
theorem waitactReturn_found {a : Action} {dst n : Nat} (ha : e.action = some a) (hs : a.superseded = false) (hsusp : e.suspended = false)
    (hend : e.ending = none) (hfree : s.benchBlocked (s.benchPart b) (s.pendCells b) = false) (now : Nat) :
    ∃ e' s', waitactReturn ((hereB s).setBench b { e.tick now with waiting := some (d, dst, n) }) b =
        s'.commitCells (s.benchPart b) (s.pendCells b) ∧ s' = (hereB s).setBench b e' ∧
      e'.sram = Memory.writeRun e.sram dst (a.payload.take n) ∧ e'.getX d = (if d = 0 then 0 else a.aseq) ∧
      e'.action = none ∧ e'.taken = true ∧ e'.vsw = a.vsw ∧ e'.pc = e.pc + 4 ∧ e'.steps = e.steps + 1 := by
  obtain ⟨ns, htick⟩ := tick_eq e now
  have htakes := waitactReturn_takes (s := (hereB s).setBench b { e.tick now with waiting := some (d, dst, n) }) (b := b)
    (d := d) (dst := dst) (n := n) (a := a) (by simp) (by simp [htick, ha]) hs (by simp [htick, hsusp]) (by simp [htick, hend]) hfree
  rw [State.bench_setBench_self, State.setBench_setBench] at htakes
  refine ⟨_, _, htakes, rfl, ?_⟩
  rw [htick]
  exact taking_effect ..

/-- Settles O44: each EP instruction from what its operation answers. -/
theorem episodeInstructionResults : Obligations.EpisodeInstructionResults := by
  intro s b e rs2 rs1 d h s1 p next
  have he : (benchMach s b 4).e = e := h.2.1.symm
  have hpc : (benchMach s b 4).npc = next := by rw [show next = e.pc + 4 from rfl, h.2.1]; rfl
  refine ⟨?rand, ?randh, h.pubobs, h.epEnd, fun hlast htaken hrange => ⟨fun ha => ?waits, fun a ha hs hsusp hend hfree => ?takes⟩⟩
  case rand =>
    have hlow : BitVec.ofNat 64 (epRandom e rs2 rs1 % 2 ^ 64) = BitVec.ofNat 64 (epRandom e rs2 rs1) :=
      BitVec.eq_of_toNat_eq (by rw [BitVec.toNat_ofNat, BitVec.toNat_ofNat, Nat.mod_mod])
    rw [hlow]
    refine h.retires (op := do
      let m ← get
      setRd d (BitVec.ofNat 64 (epRandom m.e rs2 rs1))) (by decide) rfl ?_
    rw [← he, ← hpc]
    rfl
  case randh =>
    refine h.retires (op := do
      let m ← get
      setRd d (BitVec.ofNat 64 (epRandom m.e rs2 rs1 / 2 ^ 64))) (by decide) rfl ?_
    rw [← he, ← hpc]
    rfl
  case waits =>
    obtain ⟨ns, htick⟩ := tick_eq e s.time
    rw [h.waits hlast htaken hrange, waitactReturn_waiting (by rw [htick]; exact ha)]
  case takes =>
    obtain ⟨e', s', hreturn, heffect⟩ := waitactReturn_found (s := s) (b := b) (d := d) (dst := (e.getX rs1).toNat)
      (n := min (e.getX rs2).toNat 4080) ha hs hsusp hend hfree s.time
    exact ⟨e', s', (h.waits hlast htaken hrange).trans (congrArg _ hreturn), heffect⟩

end Sys2Proof.Claims

end

section

namespace Sys2Proof.Machine

open Claims

/-! ### Operations that leave the seat of a head as it is -/

/-- Whose head it is: the thread, its crew, and the PC that follows. -/
def Mach.seat (m : Mach) : Nat × Nat × Word := (m.tid, m.th.crew, m.npc)

/-- Where an operation answers, the head is still the same thread's, and goes on at the same PC. -/
def KeepsSeat {α : Type} (a : Nat × Nat × Word) (p : M α) (m : Mach) : Prop :=
  m.seat = a → ∀ x m', p.run m = .ok x m' → m'.seat = a

section
variable {α β : Type} {a : Nat × Nat × Word} {m : Mach}

theorem seat_of_ok {p : M α} {x : α} {m' : Mach} (hp : ∀ a, KeepsSeat a p m) (h : p.run m = .ok x m') : m'.seat = m.seat :=
  hp m.seat rfl x m' h

@[simp] theorem keepsSeat_pure (x : α) : KeepsSeat a (pure x) m := fun ha _ _ h => by cases h; exact ha
@[simp] theorem keepsSeat_throw (e : Stop) : KeepsSeat a (throw e : M α) m := fun _ _ _ h => nomatch h
@[simp] theorem keepsSeat_throw_bind (e : Stop) (f : α → M β) : KeepsSeat a ((throw e : M α) >>= f) m := fun _ _ _ h => nomatch h
@[simp] theorem keepsSeat_onChunk (f : Chunk → Chunk) : KeepsSeat a (onChunk f) m := fun ha _ _ h => by cases h; exact ha
@[simp] theorem keepsSeat_set (m' : Mach) : KeepsSeat a (set m' : M PUnit) m ↔ (m.seat = a → m'.seat = a) :=
  ⟨fun h ha => h ha _ _ rfl, fun h ha _ _ hr => by cases hr; exact h ha⟩
@[simp] theorem keepsSeat_modify (f : Mach → Mach) : KeepsSeat a (modify f : M PUnit) m ↔ (m.seat = a → (f m).seat = a) :=
  ⟨fun h ha => h ha _ _ rfl, fun h ha _ _ hr => by cases hr; exact h ha⟩
@[simp] theorem keepsSeat_get_bind (f : Mach → M α) : KeepsSeat a (get >>= f) m ↔ KeepsSeat a (f m) m := Iff.rfl

/-- One operation after another: the second is looked at wherever the first may leave it. -/
@[simp] theorem keepsSeat_bind {p : M α} {f : α → M β} (hp : ∀ a, KeepsSeat a p m) :
    KeepsSeat a (p >>= f) m ↔ ∀ x m', p.run m = .ok x m' → KeepsSeat a (f x) m' := by
  constructor
  · intro h x m' hx ha y m'' hy
    exact h ((seat_of_ok hp hx).symm.trans ha) y m'' ((run_bind_ok hx).trans hy)
  · intro h ha y m'' hy
    obtain ⟨x, m', hx, hf⟩ := bind_ok hy
    exact h x m' hx ((seat_of_ok hp hx).trans ha) y m'' hf

@[simp] theorem keepsSeat_get : KeepsSeat a (get : M Mach) m := fun ha _ _ h => by cases h; exact ha

@[simp] theorem keepsSeat_map {p : M α} {f : α → β} (hp : ∀ a, KeepsSeat a p m) : KeepsSeat a (f <$> p) m := by
  rw [map_eq_pure_bind, keepsSeat_bind hp]
  exact fun _ _ _ => keepsSeat_pure _

@[simp] theorem keepsSeat_ite (c : Prop) [Decidable c] (p q : M α) :
    KeepsSeat a (if c then p else q) m ↔ (c → KeepsSeat a p m) ∧ (¬c → KeepsSeat a q m) := by
  split <;> simp [*]

end

section
variable (a : Nat × Nat × Word) (m : Mach)

@[simp] theorem setSt_seat (s : State) : (m.setSt s).seat = m.seat := rfl

@[simp] theorem keepsSeat_needBlock (code block : Nat) : KeepsSeat a (needBlock code block) m := by simp [needBlock]

@[simp] theorem keepsSeat_leafOf (va : Word) (cause : Nat) (tval : Word) : KeepsSeat a (leafOf va cause tval) m := by
  simp only [leafOf, keepsSeat_get_bind, keepsSeat_bind, keepsSeat_ite, keepsSeat_needBlock, implies_true]
  refine ⟨fun _ _ m' hb => ?_, fun _ => ?_⟩
  · have hseat := seat_of_ok (by simp) hb
    split <;> simp [hseat]
  · split <;> simp

@[simp] theorem keepsSeat_locateWindow (va : Word) : KeepsSeat a (locateWindow va) m := by simp [locateWindow]

theorem served_seat (va : Word) : ({ m with th := m.th.served va } : Mach).seat = m.seat := by
  unfold Mach.seat Thread.served
  split <;> rfl

@[simp] theorem keepsSeat_locateAs (k : Access) (cause : Nat) (va tval : Word) : KeepsSeat a (locateAs k cause va tval) m := by
  simp only [locateAs, keepsSeat_get_bind, keepsSeat_throw_bind, keepsSeat_bind, keepsSeat_ite, keepsSeat_locateWindow,
    keepsSeat_leafOf, implies_true, true_and]
  intros
  split <;> simp [served_seat]

@[simp] theorem keepsSeat_locate (k : Access) (va : Word) : KeepsSeat a (locate k va) m := by simp [locate]

@[simp] theorem keepsSeat_askWiden (line : Nat) : KeepsSeat a (askWiden line) m := by simp [askWiden]

@[simp] theorem keepsSeat_takeLine (set line : Nat) : KeepsSeat a (takeLine set line) m := by
  have hscope : ∀ a, KeepsSeat a (needScope line) m := by
    intro a
    simp only [needScope, keepsSeat_get_bind]
    split <;> simp
  simp [takeLine, hscope]

@[simp] theorem keepsSeat_noteRead (l : Loc) : KeepsSeat a (noteRead l) m := by simp [noteRead]
@[simp] theorem keepsSeat_waitFars (pa n : Nat) : KeepsSeat a (waitFars pa n) m := by simp [waitFars]

@[simp] theorem keepsSeat_waitEach (xs : List Far) : KeepsSeat a (waitEach xs) m := by
  induction xs generalizing a m with
  | nil => simp [waitEach]
  | cons x xs ih => simp [waitEach, ih]

@[simp] theorem keepsSeat_baseRun (pl : Place) (pa n : Nat) (va : Word) : KeepsSeat a (baseRun pl pa n va) m := by
  have hlink : KeepsSeat a (readLink pa n va) m := by
    simp only [readLink, keepsSeat_get_bind]
    split <;> simp [askLink]
  simp [baseRun, hlink]

@[simp] theorem keepsSeat_foldEach (pl : Place) (xs : List Far) : KeepsSeat a (foldEach pl xs) m := by
  induction xs generalizing a m with
  | nil => simp [foldEach]
  | cons x xs ih =>
    simp [foldEach, ih, Mach.seat]

@[simp] theorem keepsSeat_foldFars (l : Loc) (n : Nat) : KeepsSeat a (foldFars l n) m := by simp [foldFars]

@[simp] theorem keepsSeat_readAt (l : Loc) (va : Word) (n : Nat) : KeepsSeat a (readAt l va n) m := by simp [readAt, needHome]

@[simp] theorem keepsSeat_readWords (l : Loc) (va : Word) (o n : Nat) : KeepsSeat a (readWords l va o n) m := by
  induction n generalizing o m a with
  | zero => simp [readWords]
  | succ n ih => simp [readWords, ih]

@[simp] theorem keepsSeat_readEntry (pa n : Nat) : KeepsSeat a (readEntry pa n) m := by
  induction n generalizing pa m a with
  | zero => simp [readEntry]
  | succ n ih =>
    simp only [readEntry, keepsSeat_get_bind]
    split <;> simp [ih]

end

end Sys2Proof.Machine

end
section

/-! ### Gate calls (R377-R380) -/

namespace Sys2Proof.Machine

open Claims

section
variable {m m1 : Mach} {i : BitVec 10} {e : List Word}

@[simp] theorem keepsArch_readEntry (a : Arch) (pa n : Nat) : KeepsArch a (readEntry pa n) m := by
  induction n generalizing pa m a with
  | zero => simp [readEntry]
  | succ n ih =>
    simp only [readEntry, keepsArch_get_bind]
    split <;> simp [ih]

theorem part_of_seat {m m1 : Mach} (h : m1.seat = m.seat) : m1.part = m.part := by
  simp only [Mach.part, show m1.th.crew = m.th.crew from congrArg (·.2.1) h]

/-- What a gate entry asks of its caller, in the order of the reasons of cause 0x0D (R378). -/
structure Admits (m : Mach) (e : List Word) : Prop where
  entry : gateEntryOk e = true
  guild : m.st.guildValid m.part ((e.getD 0 0).setWidth 16) = true
  rights : m.ar.guild.toNat &&& field (e.getD 2 0) 16 16 = field (e.getD 2 0) 0 16
  depth : m.ar.depth < field (e.getD 0 0) 26 3
  level : m.ar.level = false
  base : (e.getD 3 0).toNat % 64 = 0
  aligned : field (e.getD 4 0) 0 32 % 64 = 0
  fits : m.frameSize ((e.getD 0 0).getLsbD 24) ≤ field (e.getD 4 0) 0 32

/-- The link entry that a gate call pushes (R379). -/
def linkOf (m : Mach) (e : List Word) : GateLink where
  retPc := m.npc
  gatePc := m.ar.pc
  guild := m.ar.guild
  tvec := m.ar.tvec
  gtb := m.ar.gtb
  vpol := (e.getD 0 0).getLsbD 24
  nres := field (e.getD 0 0) 20 4
  fb := frameBase (e.getD 3 0) (field (e.getD 4 0) 0 32) (m.st.vcnReg m.tid % 2 ^ 19) (m.ar.depth + 1)
    (m.frameSize ((e.getD 0 0).getLsbD 24))

/-- GATE at an entry that admits it (R378, R379). -/
theorem run_opGate (ha : m.ar.arming = none) (hbase : field m.ar.gtb 12 45 * 4096 ≠ 0) (hi : i.toNat ≤ field m.ar.gtb 0 10)
    (hr : Gives (readEntry (field m.ar.gtb 12 45 * 4096 + 64 * i.toNat) 8) m (some e) m1) (h : Admits m1 e) :
    (opGate i).run m = .ok () (endsAs (.gate i.toNat e) (onAr (fun a => { a with links := a.links ++ [linkOf m1 e] })
      { m1 with st := m1.st.cacheGuild m1.part ((e.getD 0 0).setWidth 16) })) := by
  have hbegin : (decide (field m.ar.gtb 12 45 * 4096 = 0) || decide (field m.ar.gtb 0 10 < i.toNat)) = false :=
    Bool.or_eq_false_iff.2 ⟨decide_eq_false hbase, decide_eq_false (not_lt.2 hi)⟩
  have hplace : (decide ((e.getD 3 0).toNat % 64 ≠ 0) || decide (field (e.getD 4 0) 0 32 % 64 ≠ 0) ||
      decide (field (e.getD 4 0) 0 32 < m1.frameSize ((e.getD 0 0).getLsbD 24))) = false := by
    rw [decide_eq_false (not_not_intro h.base), decide_eq_false (not_not_intro h.aligned), decide_eq_false (not_lt.2 h.fits)]
    rfl
  unfold opGate
  refine (run_bind_ok (run_notArming ha)).trans ((run_bind_ok (run_get m)).trans ?_)
  simp only [hbegin]
  refine (run_bind_ok (run_faultIf_false _ _ m)).trans ((run_bind_ok hr).trans ((run_bind_ok (run_get m1)).trans
    ((run_bind_ok (run_onState _ m1)).trans ?_)))
  simp only [h.entry, h.guild, h.level, hplace, decide_eq_false (not_le.2 h.depth), decide_eq_false (not_not_intro h.rights)]
  rfl

theorem run_opGret (ha : m.ar.arming = none) (hd : m.ar.depth ≠ 0) (fail : Option (BitVec 6)) :
    (opGret fail).run m = .ok () (endsAs (.gret (fail.map m.ar.getX)) m) := by
  unfold opGret
  refine (run_bind_ok (run_notArming ha)).trans ((run_bind_ok (run_get m)).trans ?_)
  rw [decide_eq_false hd]
  rfl

end

end Sys2Proof.Machine

namespace Sys2Proof.Claims

open Sys2Proof.Machine

/-- Settles O25: behind the checks of its entry a gate call pushes its link and ends its chunk; a return ends its chunk. -/
theorem gateResults : Obligations.GateResults := by
  intro s tid t k ra hb ha base p
  refine ⟨?gate, fun hd => ⟨hb.retires rfl (run_opGret (m := found s tid t) ha hd none),
    hb.retires rfl (run_opGret (m := found s tid t) ha hd (some ra))⟩⟩
  case gate =>
    intro hbase hk e m1 hr w stride fs hentry hvalid hrights hdepth hlevel hsb hstride hfits
    have har : m1.ar = t.arch := ar_of_ok (by simp) hr
    have hseat : m1.seat = (found s tid t).seat := seat_of_ok (by simp) hr
    have hpart : m1.part = p := part_of_seat hseat
    have htid : m1.tid = tid := congrArg (·.1) hseat
    have hnpc : m1.npc = t.nextHead := congrArg (·.2.2) hseat
    have hstride' : field (e.getD 4 0) 0 32 = stride := field_low ..
    have hadmits : Admits m1 e := {
      entry := hentry
      guild := by rw [hpart]; exact hvalid
      rights := by rw [har, field_low]; exact hrights
      depth := by rw [har]; exact hdepth
      level := by rw [har]; exact hlevel
      base := hsb
      aligned := by rw [hstride']; exact hstride
      fits := by rw [hstride']; exact hfits }
    have hlink : linkOf m1 e =
        { retPc := t.nextHead, gatePc := t.arch.pc, guild := t.arch.guild, tvec := t.arch.tvec,
          gtb := t.arch.gtb, vpol := w.getLsbD 24, nres := w.toNat / 2 ^ 20 % 16,
          fb := frameBase (e.getD 3 0) stride (m1.st.vcnReg tid % 2 ^ 19) (t.arch.depth + 1) fs } := by
      rw [linkOf, har, hnpc, htid, hstride']
      rfl
    have hrun := run_opGate (i := k) (m := found s tid t) ha hbase (by rw [field_low]; exact hk) hr hadmits
    rw [hlink, hpart] at hrun
    exact hb.retires rfl hrun

end Sys2Proof.Claims

end

section

/-! ### Maintenance instructions and SNAP (R375, R388, R390, R393, R395) -/

namespace Sys2Proof.Machine

open Claims

section
variable {m m1 m2 : Mach} {l : Loc}

theorem run_opIflush {ra : BitVec 6} (ha : m.ar.arming = none) (all : Bool)
    (hl : Gives (locateAs .fetch 0x05 (m.ar.getX ra) (m.ar.getX ra)) m l m1) :
    (opIflush all ra).run m = .ok () (endsAs .cut (carry (.iflush all (lineOf l.pa)) m1)) :=
  (run_bind_ok (run_notArming ha)).trans ((run_bind_ok (run_get m)).trans (run_bind_ok hl))

/-- The checks of a privileged head, passed (R371). -/
theorem run_privileged (ha : m.ar.arming = none) (hsys : m.sys = true) (f : Mach → M Unit) :
    (do let m ← get; need m.sys 0x17 m.headOnly; notArming; f m).run m = (f m).run m := by
  refine (run_bind_ok (run_get m)).trans ?_
  rw [hsys]
  exact (run_bind_ok (run_need_true _ _ m)).trans (run_bind_ok (run_notArming ha))

theorem run_opTlbinv {rb ra : BitVec 6} (ha : m.ar.arming = none) (hsys : m.sys = true) (hg : (m.ar.getX rb).toNat < 2 ^ 16) (k : Nat) :
    (opTlbinv k rb ra).run m = .ok () (endsAs .cut (carry (.tlbinv k (m.ar.getX ra) ((m.ar.getX rb).setWidth 16)) m)) := by
  have hhigh : field (m.ar.getX rb) 16 48 = 0 := by
    rw [field, Nat.div_eq_of_lt hg, Nat.zero_mod]
  refine (run_privileged ha hsys _).trans ?_
  rw [decide_eq_false (not_not_intro hhigh)]
  rfl

theorem run_opFreeze {sc : BitVec 1} (ha : m.ar.arming = none) (hsys : m.sys = true) (on : Bool) :
    (opFreeze on sc).run m = .ok () (carry (.freeze on (sc == 1)) m) :=
  run_privileged ha hsys _

theorem run_opSnap {d ra : BitVec 6} {e : List Word} {p : Loc} (ha : m.ar.arming = none) (hc : m.ch.count = 0) (hsys : m.sys = true)
    (hal : (m.ar.getX ra).toNat % 64 = 0) (hl : Gives (locate .load (m.ar.getX ra)) (endsAs .alone m) l m1)
    (hin : regionOf l.pa = 0) (hr : Gives (readWords l (m.ar.getX ra) 0 8) m1 e m2) (hok : snapDescOk e = true)
    (hword : (e.getD 4 0).toNat % 8 = 0) (hp : placeOf m2.st m.part (e.getD 4 0).toNat = some p) (hreach : regionOf p.pa ≤ 1) :
    (opSnap d ra).run m = .ok () (carry (.snap d e) m2) := by
  have hpart : m2.part = m.part :=
    part_of_seat ((seat_of_ok (by simp) hr).trans (seat_of_ok (m := endsAs .alone m) (by simp) hl))
  have hplace : (!(placeOf m2.st m2.part (e.getD 4 0).toNat).any fun p => decide (regionOf p.pa ≤ 1)) = false := by
    rw [hpart, hp, Option.any_some, decide_eq_true hreach]
    rfl
  unfold opSnap
  refine (run_bind_ok (run_standAlone hc)).trans ((run_privileged (m := endsAs .alone m) ha hsys _).trans
    ((run_bind_ok (run_needAligned hal _)).trans ((run_bind_ok hl).trans ?_)))
  rw [decide_eq_false (not_not_intro hin)]
  refine (run_bind_ok (run_faultIf_false _ _ m1)).trans ((run_bind_ok hr).trans ?_)
  rw [hok]
  refine (run_bind_ok (run_needAligned hword m2)).trans ((run_bind_ok (run_get m2)).trans ?_)
  dsimp only
  rw [hplace]
  rfl

end

end Sys2Proof.Machine

namespace Sys2Proof.Claims

open Sys2Proof.Machine

theorem maintenanceCommands : MaintenanceCommands := by
  intro s tid t rb ra n sc hb ha va g
  refine ⟨fun l m1 hl => ⟨?line, ?all⟩, ?mark, fun hsys hg => ⟨?page, ?guild, ?every⟩, fun hsys => ⟨?freeze, ?thaw⟩⟩
  case line => exact hb.retires rfl (run_opIflush (m := found s tid t) ha false hl)
  case all => exact hb.retires rfl (run_opIflush (m := found s tid t) ha true hl)
  case mark => exact hb.retires rfl (run_bind_ok ha.run_notArming)
  case page => exact hb.retires rfl (run_opTlbinv (m := found s tid t) ha hsys hg 0)
  case guild => exact hb.retires rfl (run_opTlbinv (m := found s tid t) ha hsys hg 1)
  case every => exact hb.retires rfl (run_opTlbinv (m := found s tid t) ha hsys hg 2)
  case freeze => exact hb.retires rfl (run_opFreeze (m := found s tid t) ha hsys true)
  case thaw => exact hb.retires rfl (run_opFreeze (m := found s tid t) ha hsys false)

theorem snapshotRequestResults : SnapshotRequestResults := by
  intro s tid t d ra hb ha hf hsys va hal l m1 e m2 p hl hin hr hok hword hp hreach
  exact hb.retires rfl (run_opSnap (m := found s tid t) ha hf hsys hal hl hin hr hok hword hp hreach)

/-- Settles O30: behind its checks each command is carried with its chunk, and SNAP with the descriptor that it has read. -/
theorem maintenanceResults : Obligations.MaintenanceResults := ⟨maintenanceCommands, snapshotRequestResults⟩

end Sys2Proof.Claims

end

section

namespace Sys2Proof.Machine

open Claims

/-! ### Barriers and steps (R341-R346) -/

section
variable {m m1 m2 : Mach}

/-- The member belongs to the domain, and stands outside a gate (R343). -/
def Arrives (m : Mach) (k : Nat) : Prop :=
  m.ar.depth = 0 ∧ ∃ d, (m.crew.bind fun w => w.domain k) = some d ∧ d.has m.th.l = true

theorem run_needDomain {k : Nat} (h : Arrives m k) : (needDomain k).run m = .ok () m := by
  obtain ⟨hdepth, d, hd, hhas⟩ := h
  refine (run_bind_ok (run_get m)).trans ?_
  rw [hd]
  refine (run_bind_ok (by rw [hhas]; rfl : (faultIf (!d.has m.th.l) 0x16 2).run m = .ok () m)).trans ?_
  rw [hdepth]
  rfl

theorem run_opBar (ha : m.ar.arming = none) {k : Nat} (h : Arrives m k) : (opBar k).run m = .ok () (endsAs (.bar k) m) :=
  (run_bind_ok (run_notArming ha)).trans (run_bind_ok (run_needDomain h))

theorem run_opBardom {rb ra rc : BitVec 6} {dom : BitVec 4} (ha : m.ar.arming = none) (hdepth : m.ar.depth = 0) (hdom : dom ≠ 0)
    (hrange : (m.ar.getX rb).toNat = 0 ∨ (m.ar.getX rc).toNat ≠ 0 ∧
      (m.ar.getX ra).toNat + ((m.ar.getX rb).toNat - 1) * (m.ar.getX rc).toNat < (m.crew.map fun w => w.members.length).getD 0) :
    (opBardom rb ra rc dom).run m =
      .ok () (carry (.bardom dom.toNat ⟨(m.ar.getX ra).toNat, (m.ar.getX rb).toNat, (m.ar.getX rc).toNat⟩) m) := by
  have hin : (decide ((m.ar.getX rb).toNat ≠ 0) && (decide ((m.ar.getX rc).toNat = 0) ||
      decide ((m.crew.map fun w => w.members.length).getD 0 ≤ (m.ar.getX ra).toNat + ((m.ar.getX rb).toNat - 1) * (m.ar.getX rc).toNat))) =
      false := by
    obtain h | ⟨hstride, hlast⟩ := hrange
    · rw [decide_eq_false (not_not_intro h)]
      rfl
    · rw [decide_eq_false hstride, decide_eq_false (not_le.2 hlast), Bool.or_self, Bool.and_false]
  refine (run_bind_ok (run_notArming ha)).trans ((run_bind_ok (run_get m)).trans ?_)
  dsimp only
  rw [hdepth, decide_eq_false hdom, hin]
  rfl

theorem run_opSstep {dom : BitVec 4} {rb ra : BitVec 6} {disp : BitVec 16} {rs : List TaskRec} (ha : m.ar.arming = none)
    (h : Arrives m dom.toNat) (hn : (m.ar.getX rb).toNat ≤ 32) (hal : (addrM m.ar ra disp).toNat % 32 = 0)
    (hcheck : Gives (checkRoutines (addrM m.ar ra disp) (m.ar.getX rb).toNat) m () m1)
    (hload : Gives (loadRoutines (addrM m.ar ra disp) (m.ar.getX rb).toNat) m1 rs m2) :
    (opSstep dom rb ra disp).run m = .ok () (endsAs (.sstep dom.toNat rs) m2) := by
  refine (run_bind_ok (run_notArming ha)).trans ((run_bind_ok (run_needDomain h)).trans ((run_bind_ok (run_get m)).trans ?_))
  dsimp only
  rw [memAddr_eq_addrM, decide_eq_false (show ¬ stepMax < _ from not_lt.2 hn)]
  exact (run_bind_ok (run_faultIf_false _ _ m)).trans ((run_bind_ok hcheck).trans ((run_bind_ok (run_needAligned hal m1)).trans
    (run_bind_ok hload)))

end

/-! ### The heads of an arming (R350-R357) -/

section
variable {m m1 m2 m3 : Mach} {g : Arming}

theorem run_needArming (h : m.ar.arming = some g) (he : g.ended = false) : needArming.run m = .ok g m := by
  refine (run_bind_ok (run_get m)).trans ?_
  rw [h]
  dsimp only
  rw [he]
  rfl

theorem run_needSlot {r : Nat} {bad : Bool} (hbad : bad = false) (hr : r < slotCount g.tab) :
    (needSlot g r bad).run m = .ok (slotAt g.tab r) m := by
  rw [needSlot, hbad, decide_eq_false (not_le.2 hr)]
  rfl

/-- The owners of a record stand on its string (R347). -/
theorem run_needPasses {x : Slot} {r die : Nat} (howners : ∀ j o, j < x.m →
      (m.crew.bind fun w => assocGet? (x.own + j) w.members) = some o → stringPasses x.str (dieOf (coreOf o)) (coreFret (coreOf o)) = true)
    (hself : stringPasses x.str die (coreFret m.core) = true) : (needPasses x r die).run m = .ok () m := by
  have hall : ((List.range x.m).all fun j => (m.crew.bind fun w => assocGet? (x.own + j) w.members).all fun t =>
      stringPasses x.str (dieOf (coreOf t)) (coreFret (coreOf t))) = true := by
    refine List.all_eq_true.2 fun j hj => ?_
    cases ho : m.crew.bind fun w => assocGet? (x.own + j) w.members with
    | none => rfl
    | some o => exact howners j o (List.mem_range.1 hj) ho
  refine (run_bind_ok (run_get m)).trans ?_
  dsimp only
  rw [hall, hself]
  rfl

theorem run_opXph {dom : BitVec 4} {ra : BitVec 6} {disp : BitVec 16} {l : Loc} {x : Line} {rest : List Line}
    (ha : m.ar.arming = none) (hc : m.ch.count = 0) (h : Arrives m dom.toNat) (hal : (addrM m.ar ra disp).toNat % 64 = 0)
    (hl : Gives (locate .load (addrM m.ar ra disp)) (endsAs .alone m) l m1) (hin : regionOf l.pa = 0)
    (hx : Gives (readLineAt l (addrM m.ar ra disp)) m1 x m2) (hlo : 1 ≤ lineField x 2 2) (hhi : lineField x 2 2 ≤ 64)
    (hrest : Gives (readLines inHbm (addrM m.ar ra disp + 64) (lineField x 2 2 - 1)) m2 rest m3)
    (htab : tabOk (x :: rest) ((m.crew.map fun w => w.members.length).getD 0) = true) :
    (opXph dom ra disp).run m = .ok () (onAr (fun b => { b with
      arming := some ⟨dom.toNat, addrM m.ar ra disp, m3.ar.pc, m.npc, x :: rest, [], false⟩ }) m3) := by
  have hhbm : (faultIf (!inHbm l) 0x07 (addrM m.ar ra disp)).run m1 = .ok () m1 := by rw [inHbm, decide_eq_true hin]; rfl
  refine (run_bind_ok (run_standAlone hc)).trans ((run_bind_ok (run_needDomain (m := endsAs .alone m) h)).trans
    ((run_bind_ok (run_get _)).trans ?_))
  refine (run_check_of fun hs => absurd hs (by rw [show (endsAs .alone m).ar.arming = none from ha]; decide)).trans ?_
  dsimp only
  rw [memAddr_eq_addrM]
  refine (run_bind_ok (run_needAligned hal _)).trans ((run_bind_ok hl).trans ((run_bind_ok hhbm).trans ((run_bind_ok hx).trans ?_)))
  refine (run_check_of fun hs => absurd hs (by omega)).trans ((run_bind_ok hrest).trans ?_)
  refine (run_check_of fun hs => absurd hs (by simp only [Bool.not_eq_true', Bool.not_eq_false]; exact htab)).trans rfl

/-- What XMIT asks of its record and its member (R354). -/
structure Sends (m : Mach) (g : Arming) (r : Nat) : Prop where
  record : r < slotCount g.tab
  owner : (slotAt g.tab r).own ≤ m.th.l ∧ m.th.l < (slotAt g.tab r).own + (slotAt g.tab r).m
  room : sentLines g.reqs + (slotAt g.tab r).n ≤ 128
  once : ∀ k ls, XReq.xmit k ls ∈ g.reqs → k ≠ r
  owners : ∀ j o, j < (slotAt g.tab r).m → (m.crew.bind fun w => assocGet? ((slotAt g.tab r).own + j) w.members) = some o →
    stringPasses (slotAt g.tab r).str (dieOf (coreOf o)) (coreFret (coreOf o)) = true
  self : stringPasses (slotAt g.tab r).str (dieOf m.core) (coreFret m.core) = true

theorem run_opXmit {rb ra : BitVec 6} {rec' : BitVec 16} {r : Nat} {ls : List Line} (h : m.ar.arming = some g) (he : g.ended = false)
    (hsel : (m.ar.getX rb).toNat < 2 ^ 9) (hr : r = rec'.toNat + (m.ar.getX rb).toNat) (hsends : Sends m g r)
    (hal : (m.ar.getX ra).toNat % 64 = 0) (hls : Gives (readLines exchangePlace (m.ar.getX ra) (slotAt g.tab r).n) m ls m1) :
    (opXmit rb ra rec').run m = .ok () (onAr (armed (.xmit r ls)) m1) := by
  have hlow : field (m.ar.getX rb) 0 9 = (m.ar.getX rb).toNat := by rw [field_low, Nat.mod_eq_of_lt hsel]
  have hhigh : field (m.ar.getX rb) 9 55 = 0 := by rw [field, Nat.div_eq_of_lt hsel, Nat.zero_mod]
  subst hr
  refine (run_bind_ok (run_needArming h he)).trans ((run_bind_ok (run_get m)).trans ?_)
  dsimp only
  rw [hlow]
  refine (run_bind_ok (run_needSlot (decide_eq_false (not_not_intro hhigh)) hsends.record)).trans ?_
  refine (run_check_of fun hs => absurd hs (by have := hsends.owner; omega)).trans ?_
  refine (run_check_of fun hs => absurd hs (by have := hsends.room; unfold sendMax; omega)).trans ?_
  refine (run_check_of fun hs => absurd hs ?once).trans ?_
  case once =>
    rw [List.any_eq_true]
    rintro ⟨q, hq, hk⟩
    cases q with
    | xmit k ls => exact hsends.once k ls hq (of_decide_eq_true hk)
    | xsel | xrcv => cases hk
  exact (run_bind_ok (run_needPasses hsends.owners hsends.self)).trans ((run_bind_ok (run_needAligned hal m)).trans (run_bind_ok hls))

theorem run_opXsel {rb ra : BitVec 6} {rec' : BitVec 16} {q : Nat × Slot × Nat × Nat × Nat} {ls : List Loc}
    (h : m.ar.arming = some g) (he : g.ended = false) (hq : Gives (selection g rec' (m.ar.getX rb) false) m q m1)
    (hal : (m.ar.getX ra).toNat % 64 = 0) (hls : Gives (locateRun .store (m.ar.getX ra) 64 q.2.2.2.2) m1 ls m2)
    (hplace : ∀ l ∈ ls, exchangePlace l = true) : (opXsel rb ra rec').run m =
      .ok () (onAr (armed (.xsel q.1 q.2.2.1 q.2.2.2.1 q.2.2.2.2 (m.ar.getX ra) (ls.map Loc.pa))) m2) :=
  (run_bind_ok (run_needArming h he)).trans ((run_bind_ok (run_get m)).trans ((run_bind_ok hq).trans
    ((run_bind_ok (run_needAligned hal m1)).trans ((run_bind_ok hls).trans (run_bind_ok (run_needAll hplace))))))

theorem run_opXrcv {d : BitVec 5} {rb : BitVec 6} {rec' : BitVec 16} {q : Nat × Slot × Nat × Nat × Nat}
    (h : m.ar.arming = some g) (he : g.ended = false) (hfit : d.toNat + 1 ≤ m.vregs) (hv : vecAllowed m1.ar = true)
    (hq : Gives (selection g rec' (m.ar.getX rb) true) m q m1) :
    (opXrcv d rb rec').run m = .ok () (onAr (armed (.xrcv q.1 q.2.2.1 q.2.2.2.1 d)) m1) :=
  (run_bind_ok (run_needGroup hfit)).trans ((run_bind_ok (run_needArming h he)).trans ((run_bind_ok (run_get m)).trans
    ((run_bind_ok hq).trans (run_bind_ok (run_needVec hv)))))

theorem run_opXend (h : m.ar.arming = some g) (he : g.ended = false) :
    opXend.run m = .ok () (endsAs .xend (onAr (fun b => { b with arming := some { g with ended := true } }) m)) := by
  refine (run_bind_ok (run_needArming h he)).trans ?_
  show EStateM.Result.ok () (endsAs .xend (onAr (fun b => { b with arming := b.arming.map fun g => { g with ended := true } }) m)) = _
  simp only [onAr, h]
  rfl

@[simp] theorem keepsArch_selection (a : Arch) (rec' : BitVec 16) (sel : Word) (one : Bool) :
    KeepsArch a (selection g rec' sel one) m := by
  simp [selection, needSlot, needPasses, slotFault]

@[simp] theorem keepsArch_readWords (a : Arch) (l : Loc) (va : Word) (o n : Nat) : KeepsArch a (readWords l va o n) m := by
  induction n generalizing o m a with
  | zero => simp [readWords]
  | succ n ih => simp [readWords, ih]

@[simp] theorem keepsArch_readLineAt (a : Arch) (l : Loc) (va : Word) : KeepsArch a (readLineAt l va) m := by simp [readLineAt]

@[simp] theorem keepsArch_readLines (a : Arch) (ok : Loc → Bool) (va : Word) (n : Nat) : KeepsArch a (readLines ok va n) m := by
  induction n generalizing va m a with
  | zero => simp [readLines]
  | succ n ih => simp [readLines, ih]

end

end Sys2Proof.Machine

namespace Sys2Proof.Claims

open Sys2Proof.Machine

theorem barrierResults : BarrierResults := by
  intro s tid t rb ra rc dom disp hb ha
  refine ⟨fun h => hb.retires rfl (run_opBar (m := found s tid t) ha h), fun hd hdom hrange => ?bardom,
    fun h hn hal m1 rs m2 hcheck hload => ?sstep⟩
  case bardom => exact hb.retires rfl (run_opBardom (m := found s tid t) ha hd hdom hrange)
  case sstep => exact hb.retires rfl (run_opSstep (m := found s tid t) ha h hn hal hcheck hload)

theorem exchangeResults : ExchangeResults := by
  intro s tid t d rb ra dom rec' disp hb va a m
  refine ⟨fun ha hf h hal l m1 x m2 rest m3 hl hin hx hlo hhi hrest htab => ?xph, fun g hg => ?_⟩
  case xph =>
    have har : m3.ar = t.arch := (ar_of_ok (by simp) hrest).trans ((ar_of_ok (by simp) hx).trans
      (ar_of_ok (m := endsAs .alone m) (by simp) hl))
    have hrun := run_opXph (m := m) ha hf h hal hl hin hx hlo hhi hrest htab
    rw [har] at hrun
    exact hb.retires rfl hrun
  obtain ⟨harm, hopen⟩ := hg
  refine ⟨?xmit, fun q m1 hq hal ls m2 hls hplace => ?xsel, fun hfit hv q m1 hq => ?xrcv, ?xend⟩
  case xmit =>
    intro r x hsel hr hlo hhi hroom honce howners hself hal ls m1 hls
    exact hb.retires rfl (run_opXmit (m := m) harm hopen hsel rfl ⟨hr, ⟨hlo, hhi⟩, hroom, honce, howners, hself⟩ hal hls)
  case xsel => exact hb.retires rfl (run_opXsel (m := m) harm hopen hq hal hls hplace)
  case xrcv =>
    have har : m1.ar = m.ar := ar_of_ok (by simp) hq
    exact hb.retires rfl (run_opXrcv (m := m) harm hopen (hfit (d, 1) (by simp)) (by rw [har]; exact hv) hq)
  case xend => exact hb.retires rfl (run_opXend (m := m) harm hopen)

/-- Settles O29: barriers and steps end their chunk behind their checks, the heads of an arming add to it. -/
theorem barrierAndExchangeResults : Obligations.BarrierAndExchangeResults := ⟨barrierResults, exchangeResults⟩

end Sys2Proof.Claims

end

section

/-! ### Taking a trap (R367, R368, R380) -/

namespace Sys2Proof.Machine

open Claims State

/-- What reports and records leave as it was: memory, the banks, the crews, and all that a guild's entry is read from. -/
def OnlyNoted (s s' : State) : Prop :=
  SameStore s s' ∧ s'.crews = s.crews ∧ ∀ p, (s'.part p).guildCache = (s.part p).guildCache ∧ (s'.part p).guildTab = (s.part p).guildTab

namespace OnlyNoted

variable {s s' s'' : State}

theorem refl (s : State) : OnlyNoted s s := ⟨.refl s, rfl, fun _ => ⟨rfl, rfl⟩⟩

theorem trans (h : OnlyNoted s s') (h' : OnlyNoted s' s'') : OnlyNoted s s'' := by
  obtain ⟨hstore, hcrews, hguilds⟩ := h
  obtain ⟨hstore', hcrews', hguilds'⟩ := h'
  exact ⟨hstore.trans hstore', hcrews'.trans hcrews, fun p => ⟨(hguilds' p).1.trans (hguilds p).1, (hguilds' p).2.trans (hguilds p).2⟩⟩

theorem guildEntry (h : OnlyNoted s s') (p : Nat) (g : BitVec 16) : s'.guildEntry p g = s.guildEntry p g :=
  guildEntry_congr h.1.sameBytes p (h.2.2 p).1 (h.2.2 p).2 g

theorem crew (h : OnlyNoted s s') (c : Nat) : s'.crew c = s.crew c := by rw [State.crew, State.crew, h.2.1]

/-- A partition changed, but for its guilds. -/
theorem setPart {p : Nat} {q : Part} (hc : q.guildCache = (s.part p).guildCache) (ht : q.guildTab = (s.part p).guildTab) :
    OnlyNoted s (s.setPart p q) := by
  refine ⟨⟨rfl, rfl⟩, rfl, fun k => ?_⟩
  by_cases hk : k = p
  · subst hk
    rw [part_setPart_self]
    exact ⟨hc, ht⟩
  · rw [part_setPart_ne s hk]
    exact ⟨rfl, rfl⟩

theorem askFreeze (s : State) (p reason : Nat) : OnlyNoted s (s.askFreeze p reason) := setPart rfl rfl

theorem report (s : State) (p : Nat) (ring : Option (BitVec 16)) (kind cause vcn l guild crew : Nat) (d2 : Word) :
    OnlyNoted s (s.report p ring kind cause vcn l guild crew d2) := setPart rfl rfl

theorem record (s : State) (core kind slot detail no : Nat) : OnlyNoted s (s.record core kind slot detail no) := by
  unfold State.record
  split
  · exact refl s
  · exact ⟨⟨rfl, rfl⟩, rfl, fun _ => ⟨rfl, rfl⟩⟩

theorem nextOf (s : State) (tid : Nat) (t : Thread) : OnlyNoted s (nextOf s tid t).2 := by
  unfold Machine.nextOf
  split
  · exact refl s
  · exact ⟨⟨rfl, rfl⟩, rfl, fun _ => ⟨rfl, rfl⟩⟩

end OnlyNoted

section
variable (s : State) (tid : Nat) (t : Thread) (cause : Nat) (v : Word)

/-- The state once the watchdog's trap has asked for a freeze (R393). -/
def trapAsked : State :=
  if cause = 0x10 then (nextOf s tid t).2.askFreeze (crewPart t.crew) 3 else (nextOf s tid t).2

/-- The state once a trap is reported and recorded (R374, R376, R393). -/
def trapNoted : State :=
  let p := crewPart t.crew
  let s1 := trapAsked s tid t cause
  let far := ((walk s1 p t.arch.guild v.toNat).bind fun e => placeOf s1 p (e.pa v.toNat)).any fun l => l.place.beyond
  (if cause = 0x11 ∧ !far then
    (s1.report p none 5 cause (s1.vcnReg tid) t.l t.arch.guild.toNat t.crew v).record (coreOf tid) 7 (slotOf tid) 0 t.commitno
  else s1).record (coreOf tid) 3 (slotOf tid) cause t.commitno

/-- The thread as a trap leaves it, but for what the trap makes of its registers. -/
def trapped : Thread :=
  { t with pending := none, precise := none, denied := none, absent := none, born := none, squashes := 0, later := none,
           run := .running, replies := [] }

theorem onlyNoted_trapAsked : OnlyNoted s (trapAsked s tid t cause) := by
  unfold trapAsked
  split
  · exact (OnlyNoted.nextOf s tid t).trans (.askFreeze ..)
  · exact .nextOf s tid t

theorem onlyNoted_trap : OnlyNoted s (trapNoted s tid t cause v) := by
  have hasked := onlyNoted_trapAsked s tid t cause
  unfold trapNoted
  refine OnlyNoted.trans ?_ (.record ..)
  split
  · exact (hasked.trans (.report ..)).trans (.record ..)
  · exact hasked

theorem debugged_trapNoted : debugged (trapNoted s tid t cause v) t = debugged s t := by
  rw [debugged, debugged, (onlyNoted_trap s tid t cause v).guildEntry]

theorem takeTrap_eq : takeTrap s tid t cause v =
    match if alwaysStops cause then .stop else trapFate t.arch cause (debugged s t) with
    | .stop => ((trapNoted s tid t cause v).setThread tid { trapped t with
        arch := if cause = 0x14 then t.arch else t.arch.trapRegs t.arch.pc (nextOf s tid t).1 cause v }).stopCrew t.crew cause (some t.l)
    | .unwind => (trapNoted s tid t cause v).setThread tid
        { trapped t with micro := some (.unwind (unwindCode cause t.arch.depth)), fetch := none }
    | .enter => (trapNoted s tid t cause v).setThread tid
        { trapped t with arch := t.arch.enterTrap (nextOf s tid t).1 cause v, fetch := none } := by
  rw [← debugged_trapNoted s tid t cause v]
  rfl

variable {s tid t cause v}

theorem thread_stopCrew (s : State) (crew cause : Nat) (raiser : Option Nat) (tid : Nat) :
    (s.stopCrew crew cause raiser).thread tid = s.thread tid := by
  unfold State.stopCrew
  split <;> rfl

/-- R367: the handler is entered below handler level, where there is one and no debugger stands before it. -/
theorem takeTrap_enters (hkind : alwaysStops cause = false) (hlevel : t.arch.level = false)
    (hdbg : ¬ (cause = 0x0F ∧ debugged s t = true)) (htvec : t.arch.tvec ≠ 0) :
    takeTrap s tid t cause v = (trapNoted s tid t cause v).setThread tid
      { trapped t with arch := t.arch.enterTrap (nextOf s tid t).1 cause v, fetch := none } := by
  have hfate : trapFate t.arch cause (debugged s t) = .enter := by simp only [trapFate, hlevel, if_neg hdbg, if_neg htvec]; rfl
  rw [takeTrap_eq, hkind, hfate]
  rfl

/-- R368: the crew stops. -/
theorem takeTrap_stops (hkind : alwaysStops cause = false) (hrefused : cause ≠ 0x14)
    (h : (t.arch.level = true ∧ t.arch.depth = 0) ∨
      (t.arch.level = false ∧ ((cause = 0x0F ∧ debugged s t = true) ∨ t.arch.tvec = 0 ∧ t.arch.depth = 0))) :
    takeTrap s tid t cause v = ((trapNoted s tid t cause v).setThread tid { trapped t with
      arch := t.arch.trapRegs t.arch.pc (nextOf s tid t).1 cause v }).stopCrew t.crew cause (some t.l) := by
  have hfate : trapFate t.arch cause (debugged s t) = .stop := by
    obtain ⟨hlevel, hdepth⟩ | ⟨hlevel, hdbg | ⟨htvec, hdepth⟩⟩ := h
    · simp [trapFate, hlevel, hdepth]
    · simp [trapFate, hlevel, hdbg]
    · simp [trapFate, hlevel, htvec, hdepth]
  rw [takeTrap_eq, hkind, hfate, if_neg hrefused]
  rfl

/-- R380: the call unwinds. -/
theorem takeTrap_unwinds (hkind : alwaysStops cause = false) (hdepth : 0 < t.arch.depth)
    (h : t.arch.level = true ∨ (t.arch.level = false ∧ ¬ (cause = 0x0F ∧ debugged s t = true) ∧ t.arch.tvec = 0)) :
    takeTrap s tid t cause v = (trapNoted s tid t cause v).setThread tid
      { trapped t with micro := some (.unwind (unwindCode cause t.arch.depth)), fetch := none } := by
  have hfate : trapFate t.arch cause (debugged s t) = .unwind := by
    obtain hlevel | ⟨hlevel, hdbg, htvec⟩ := h
    · simp [trapFate, hlevel, hdepth.ne']
    · simp only [trapFate, hlevel, if_neg hdbg, htvec, if_pos hdepth]
      rfl
  rw [takeTrap_eq, hkind, hfate]
  rfl

/-- The registers on entry to a handler (R367). -/
theorem enterTrap_eq (a : Arch) (next : Word) (cause : Nat) (v : Word) :
    a.enterTrap next cause v = inHandler a next cause v := by
  have hstatus : setField a.status 0 1 1 = a.status ||| 1 := by
    refine BitVec.eq_of_getLsbD_eq fun i hi => ?_
    rw [getLsbD_setField _ _ _ _ _ (by decide)]
    by_cases h : i = 0 <;> simp [h]
  rw [inHandler, ← hstatus]
  rfl

end

end Sys2Proof.Machine

namespace Sys2Proof.Claims

open Sys2Proof.Machine

/-- Settles O40, by the choice of R367 between the handler, the stop of the crew and the unwinding of the call. -/
theorem trapEntry : Obligations.TrapEntry := by
  intro s tid t cause v hslot hrefused next s' dbg
  have hkind : alwaysStops cause = false := by simp [alwaysStops, hslot, hrefused]
  have hnoted := onlyNoted_trap s tid t cause v
  refine ⟨?enters, fun h => ⟨?named, ?stops⟩, ?unwinds, (sameStore_takeTrap s tid t cause v).sameBytes⟩
  case enters =>
    intro hlevel hdbg htvec
    exact ⟨_, (congrArg (·.thread tid) (takeTrap_enters hkind hlevel hdbg htvec)).trans (State.thread_setThread_self ..),
      enterTrap_eq t.arch next cause v, rfl⟩
  case named =>
    exact ⟨_, (congrArg (·.thread tid) (takeTrap_stops hkind hrefused h)).trans
      ((thread_stopCrew ..).trans (State.thread_setThread_self ..)), rfl⟩
  case stops =>
    intro w hw
    have hcrew : ((trapNoted s tid t cause v).setThread tid { trapped t with
        arch := t.arch.trapRegs t.arch.pc (nextOf s tid t).1 cause v }).crew t.crew = some w := (hnoted.crew t.crew).trans hw
    refine ⟨_, (congrArg (·.crew t.crew) ((takeTrap_stops hkind hrefused h).trans (stopCrew_of_crew hcrew _ _))).trans
      (State.crew_setCrew_self ..), rfl⟩
  case unwinds =>
    intro hdepth h
    have hthread := (congrArg (·.thread tid) (takeTrap_unwinds (s := s) (tid := tid) (v := v) hkind hdepth h)).trans
      (State.thread_setThread_self ..)
    exact ⟨_, hthread, rfl, rfl⟩

end Sys2Proof.Claims

end

section

/-! ### A START that meets bytes of a granted chunk (R103, R403) -/

namespace Sys2Proof.Machine

open Claims

/-- A chunk granted with number 1, which has stored a byte of PHASE of slot 0. -/
def grantedStore : Chunk :=
  { Chunk.fresh State.reset Thread.reset with stage := .granted 1, buf := [(descPa 0 0xC0, 1)] }

/-- The machine after a reset, but for a thread with that chunk. -/
def beforeStart : State := { State.reset with threads := [(0, { Thread.reset with chunks := [grantedStore] })] }

/-- The START writes the descriptor of its slot: the granted chunk's byte there is its thread's view no longer. -/
theorem buf_after_start :
    ((startEpisode beforeStart 0).thread 0).map (fun t => t.chunks.map fun c => c.buf.map Prod.fst) = some [[]] := by
  rfl

end Sys2Proof.Machine

namespace Sys2Proof.Claims

open Sys2Proof.Machine

/-- Refutes O57: a START changes more of a thread than the statement allows. What it writes into the descriptor leaves the buffer of a
granted chunk that has stored there (R5, R103), so that the thread's chunks are not as they were. -/
theorem not_episodeEvents : ¬ Obligations.EpisodeEvents := by
  intro h
  obtain ⟨⟨s', hgoes, -, -, -, -, -, -, -, -, -, hthreads⟩, -⟩ := h beforeStart 0
  have hs' : startEpisode beforeStart 0 = s' := Host.Outcome.next.inj hgoes
  obtain ⟨t', ht', -, hchunks⟩ := hthreads 0 { Thread.reset with chunks := [grantedStore] } rfl
  have hbuf := buf_after_start
  rw [hs', ht', Option.map_some, hchunks] at hbuf
  exact absurd hbuf (by decide)

end Sys2Proof.Claims

end

section

/-! ### A resumption of a crew with 33 vector registers to a member (R385, R387) -/

namespace Sys2Proof.Machine

open Claims

/-- The member as it stopped. -/
def wideMember : Thread := { soleThread 0 with run := .stopped }

/-- What the stop has saved of it. -/
def wideSaved : Stopped :=
  { cause := 7, raiser := some 0, cut := 0, recordAt := some 0x40000, halts := [], members := [(0, wideMember)], deques := [],
    counters := [], stray := [], panels := [], engine := [], drains := [], reductions := [], contributions := [] }

/-- A stopped crew whose shape names 33 vector registers and no tile, to be resumed from its record at 0x40000. -/
def wideCrew : Crew :=
  { soleCrew with vregs := 33, tiles := 0, stopping := some (7, some 0), stopped := some wideSaved, resume := true }

/-- Its record in memory: the status word of its member's image, and a byte of the 33rd register. -/
def wideStop : State :=
  { State.reset.setCrew 0 wideCrew with
      mem := Memory.writeRun (Memory.writeRun [] (imageAt wideCrew 0x40000 0 + 8 * 65) (bytesOf 8 0x10000))
        (imageAt wideCrew 0x40000 0 + 0x400 + 64 * 32) [1] }

/-- What its member's V0 holds afterwards: the image's 33rd register comes last, and register numbers have five bits. -/
theorem v0_after_resumption : ((resumption wideStop 0 []).thread 0).map (fun t => t.arch.getV 0) = some 1 := by
  decide +kernel

/-- What its image holds of V0. -/
theorem v0_of_wideStop : BitVec.ofNat 512 (ofBytes (((recordImage wideStop wideCrew 0x40000 [] 0).drop (0x400 + 64 * (0 : BitVec 5).toNat)).take 64)) = 0 := by
  decide +kernel

theorem statusOk_wideStop (n : Nat) (m : Nat × Thread) (hm : wideSaved.members[n]? = some m) :
    statusOk wideCrew m.2.arch (dwordOf (recordImage wideStop wideCrew 0x40000 [] n) 65) = true := by
  match n, hm with
  | 0, hm =>
    rw [← Option.some.inj hm]
    decide +kernel

end Sys2Proof.Machine

namespace Sys2Proof.Claims

open Sys2Proof.Machine

/-- The vector registers of an image that lie within the crew's allotment (R385). -/
theorem HasImage.getV {w : Crew} {img : List Byte} {a : Arch} (h : HasImage w img a) {v : BitVec 5} (hv : v.toNat < w.vregs) :
    a.getV v = BitVec.ofNat 512 (ofBytes ((img.drop (0x400 + 64 * v.toNat)).take 64)) := by
  obtain ⟨-, -, -, -, -, -, -, -, -, -, -, -, -, -, -, -, -, -, hvectors, -⟩ := h
  exact hvectors v hv

/-- Refutes O56: the registers of a resumed member are not those of its image where its crew's shape names a 33rd vector register, which
the resumption restores last, into V0. -/
theorem not_stopEvents : ¬ Obligations.StopEvents := by
  intro h
  obtain ⟨-, -, -, hresumes, -⟩ := h wideStop
  obtain ⟨-, hruns⟩ := hresumes 0 wideCrew wideSaved 0x40000 [] rfl rfl rfl rfl
  obtain ⟨s', w', hgoes, -, -, -, -, -, -, hthreads, -⟩ := hruns statusOk_wideStop rfl (List.nodup_singleton _)
  have hs' : resumption wideStop 0 [] = s' := Host.Outcome.next.inj hgoes
  obtain ⟨t', ht', -, -, -, himage⟩ := hthreads 0 (0, wideMember) rfl
  have hv0 := v0_after_resumption
  have hseat : seatOf (wideStop.seats wideCrew) 0 = 0 := rfl
  rw [hseat] at ht'
  rw [hs', ht', Option.map_some, himage.getV (v := 0) (by decide)] at hv0
  rw [v0_of_wideStop] at hv0
  exact absurd (Option.some.inj hv0) (by decide +kernel)

end Sys2Proof.Claims

end

section

namespace Sys2Proof.Machine

open Claims

/-! ### Power (R432, R434) -/

section
variable {s : State} {code block : Nat}

theorem energyLimit_eq (s : State) (code : Nat) : s.energyLimit code =
    [62500, 23400, 3900, 800000, 620000, 45000000, 140000000].getD code 0 * s.upkeep.share / 1000000 := rfl

/-- A hold of a block in a window, among those that are noted. -/
theorem holdIn_eq_none {u : Upkeep} {window : Nat} (h : ∀ h ∈ u.holds, h.1 = code → h.2.1 = block → h.2.2 / 1000 ≠ window) :
    u.holdIn code block window = none := by
  have hnone : u.holds.find? (fun h => decide (h.1 = code) && decide (h.2.1 = block) && decide (h.2.2 / windowCycles = window)) = none := by
    refine List.find?_eq_none.2 fun x hx hm => ?_
    simp only [Bool.and_eq_true, decide_eq_true_eq] at hm
    obtain ⟨⟨hcode, hblock⟩, hwindow⟩ := hm
    exact h x hx hcode hblock hwindow
  rw [Upkeep.holdIn, hnone]
  rfl

theorem powerHold_below {energy : Nat} (h : energy < s.energyLimit code) : powerHold s code block energy = s :=
  if_pos (.inr (.inl h))

/-- A block that uses up its share of a window for the first time is held. -/
theorem powerHold_reached {energy : Nat} (hcode : code ≤ 6) (h : s.energyLimit code ≤ energy)
    (hfirst : ∀ h ∈ s.upkeep.holds, h.1 = code → h.2.1 = block → h.2.2 / 1000 ≠ s.time / 1000) : powerHold s code block energy =
      { s with upkeep := { s.upkeep with holds := s.upkeep.holds ++ [(code, block, s.time)] } } := by
  refine if_neg ?_
  rw [show s.upkeep.holdIn code block (s.time / windowCycles) = none from holdIn_eq_none hfirst]
  simp only [Option.isSome_none, Bool.false_eq_true, or_false, not_or]
  omega

/-- A sole hold for energy holds its block for 750 cycles of its window at most. -/
theorem held_of_sole {since : Nat} (hholds : s.upkeep.holds = [(code, block, since)]) (hle : since ≤ s.time) (hcool : s.upkeep.heat = []) :
    s.held code block = decide (s.time / 1000 = since / 1000 ∧ s.time < since + 750) := by
  have hin : s.upkeep.holdIn code block (s.time / windowCycles) = if since / 1000 = s.time / 1000 then some since else none := by
    rw [Upkeep.holdIn, hholds]
    by_cases h : since / 1000 = s.time / 1000 <;> simp [windowCycles, h]
  simp only [State.held, Upkeep.cause, Upkeep.causeCycles, hin, hcool]
  by_cases h : since / 1000 = s.time / 1000
  · simp [h, Nat.min_eq_left hle, holdCycles]
    omega
  · simp [h, Ne.symm h]

/-! ### Samples (R434) -/

theorem sampleWrite_upkeep (s : State) (p pa : Nat) (l : List Nat) : (s.sampleWrite p pa l).upkeep = s.upkeep := by
  unfold State.sampleWrite
  split
  · obtain ⟨_, _, _, _, _, _, _, _, _, _, _, _, _, h⟩ := State.onlyCommitted_sendWrites s p (runCells pa (halfBytes l)) none none
      (s.part p).commitNo 0
    rw [h]
  · obtain ⟨_, _, _, h⟩ := State.onlyStored_putCells s (runCells pa (halfBytes l))
    rw [h]

theorem sample_upkeep (s : State) (p core kind : Nat) (payload : List Nat) : (s.sample p core kind payload).upkeep = s.upkeep := by
  unfold State.sample
  dsimp only
  split
  · rfl
  · split
    · exact sampleWrite_upkeep ..
    · have hmark : (if (s.core core).sampPos + 6 ≤ field (s.core core).sampCtl 0 32 then
          s.sampleWrite p ((s.core core).sampBase.toNat + (s.core core).sampPos) [0xA5C3, 3, 0x5A3A] else s).upkeep = s.upkeep := by
        split
        · exact sampleWrite_upkeep ..
        · rfl
      split
      · exact (sampleWrite_upkeep ..).trans hmark
      · exact hmark

theorem powerWindow_again (h : (code, block, s.time / 1000 - 1) ∈ s.upkeep.sampled) : powerWindow s code block = s :=
  if_pos (.inr (.inr (List.contains_iff_mem.2 h)))

/-- The end of a window: its holds are forgotten, and where the block has been held in it, that is sampled. -/
theorem powerWindow_ends (hcode : code ≤ 6) (htime : 1000 ≤ s.time) (h : (code, block, s.time / 1000 - 1) ∉ s.upkeep.sampled) :
    (powerWindow s code block).upkeep = s.upkeep.windowDone code block (s.time / 1000 - 1) ∧
      (s.heldCycles code block (s.time / 1000 - 1) = 0 →
        powerWindow s code block = { s with upkeep := s.upkeep.windowDone code block (s.time / 1000 - 1) }) := by
  have hends : ¬ (6 < code ∨ s.time / windowCycles = 0 ∨
      s.upkeep.sampled.contains (code, block, s.time / windowCycles - 1) = true) := by
    rw [List.contains_iff_mem]
    rintro (hc | ht | hs)
    · omega
    · exact absurd ht (by unfold windowCycles; omega)
    · exact h hs
  unfold powerWindow
  dsimp only
  rw [if_neg hends]
  refine ⟨?_, fun hn => if_pos hn⟩
  split
  · rfl
  · exact sample_upkeep ..

theorem windowDone_sampled (u : Upkeep) (window : Nat) : (code, block, window) ∈ (u.windowDone code block window).sampled :=
  List.mem_append_right _ List.mem_cons_self

theorem windowDone_holds {u : Upkeep} {window : Nat} {x : Nat × Nat × Nat} (hx : x ∈ (u.windowDone code block window).holds)
    (hcode : x.1 = code) (hblock : x.2.1 = block) : window < x.2.2 / 1000 := by
  have hkept := (List.mem_filter.1 hx).2
  have hlater : window < x.2.2 / windowCycles := by simpa [hcode, hblock] using hkept
  exact hlater

end

/-! ### Draw and temperature (R432, R435) -/

section
variable {s : State} {die : Nat}

theorem drawMeasurement_above {mw : Nat} (h : 3600000 < mw) : drawMeasurement s mw =
    { s with upkeep := { s.upkeep with drawHigh := s.time, share := s.upkeep.share * 3600000 / mw } } := by
  rw [drawMeasurement, if_pos (show powerLow ≤ mw by unfold powerLow; omega), if_pos (show powerMax < mw from h)]
  rfl

theorem drawMeasurement_between {mw : Nat} (hlo : 3400000 ≤ mw) (hhi : mw ≤ 3600000) : drawMeasurement s mw =
    { s with upkeep := { s.upkeep with drawHigh := s.time } } := by
  rw [drawMeasurement, if_pos (show powerLow ≤ mw from hlo), if_neg (show ¬ powerMax < mw from not_lt.2 hhi)]

theorem drawMeasurement_below {mw : Nat} (h : mw < 3400000) : drawMeasurement s mw = s := by
  rw [drawMeasurement, if_neg (show ¬ powerLow ≤ mw from not_le.2 h), if_neg (show ¬ powerMax < mw by unfold powerMax; omega)]

theorem mem_joinList {n k : Nat} {l : List Nat} : k ∈ joinList n l ↔ k = n ∨ k ∈ l := by
  unfold joinList
  split
  next h =>
    rw [List.contains_iff_mem] at h
    exact ⟨.inr, fun hk => hk.elim (fun he => he ▸ h) id⟩
  next => rw [List.mem_append, List.mem_singleton, or_comm]

theorem mem_foldl_joinList {k : Nat} (l acc : List Nat) : k ∈ l.foldl (fun l d => joinList d l) acc ↔ k ∈ acc ∨ k ∈ l := by
  induction l generalizing acc with
  | nil => simp
  | cons d l ih =>
    rw [List.foldl_cons, ih, mem_joinList, List.mem_cons]
    tauto

theorem mem_hot {u : Upkeep} {d : Nat} : d ∈ u.hot ↔ ∃ h ∈ u.heat, h.2.2 = none ∧ h.1 = d := by
  simp only [Upkeep.hot, List.mem_map, List.mem_filter, Option.isNone_iff_eq_none, and_assoc]

/-- A die that has reached a temperature is hot, and the others that were are still. -/
theorem mem_hot_heats {u : Upkeep} {now d : Nat} : d ∈ (u.heats die now).hot ↔ d = die ∨ d ∈ u.hot := by
  unfold Upkeep.heats
  split
  next h =>
    refine ⟨.inr, fun hd => hd.elim (fun he => ?_) id⟩
    obtain ⟨x, hx, hxd⟩ := List.any_eq_true.1 h
    rw [Bool.and_eq_true, decide_eq_true_eq, Option.isNone_iff_eq_none] at hxd
    exact mem_hot.2 ⟨x, hx, hxd.2, hxd.1.trans he.symm⟩
  next =>
    simp only [mem_hot, List.mem_append, List.mem_filter, List.mem_singleton]
    constructor
    · rintro ⟨x, hx | rfl, hnone, rfl⟩
      · exact .inr ⟨x, hx.1, hnone, rfl⟩
      · exact .inl rfl
    · rintro (rfl | ⟨x, hx, hnone, rfl⟩)
      · exact ⟨_, .inr rfl, rfl, rfl⟩
      · exact ⟨x, .inl ⟨hx, by rw [hnone]; rfl⟩, hnone, rfl⟩

theorem thermalHold_eq (h : die ≤ 8) : thermalHold s die = { s with upkeep := { s.upkeep.heats die s.time with
    stopHot := if s.upkeep.stopHot.isEmpty then [] else joinList die s.upkeep.stopHot } } := if_pos h

/-- The crews' part of a thermal stop. -/
def stopHeated (s : State) (e : Nat × Crew) : State :=
  if e.2.stopped.isNone then (s.stopCrew e.1 0x11 none).report (crewPart e.1) none 5 0x11 0 0 e.2.guild.toNat e.1 0 else s

theorem stopHeated_upkeep (s : State) (e : Nat × Crew) : (stopHeated s e).upkeep = s.upkeep := by
  unfold stopHeated
  split
  · show (s.stopCrew e.1 0x11 none).upkeep = _
    unfold State.stopCrew
    split <;> rfl
  · rfl

theorem crew_stopHeated_ne {s : State} {e : Nat × Crew} {c : Nat} (h : c ≠ e.1) : (stopHeated s e).crew c = s.crew c := by
  unfold stopHeated
  split
  · show (s.stopCrew e.1 0x11 none).crew c = _
    unfold State.stopCrew
    split
    · rfl
    · exact State.crew_setCrew_ne _ h _
  · rfl

theorem crew_stopHeated_self {s : State} {e : Nat × Crew} {w : Crew} (hw : s.crew e.1 = some w) (h : e.2.stopped = none) :
    (stopHeated s e).crew e.1 = some { w with stopping := w.stopping.or (some (0x11, none)) } := by
  rw [stopHeated, if_pos (by rw [h]; rfl)]
  show (s.stopCrew e.1 0x11 none).crew e.1 = _
  rw [stopCrew_of_crew hw, State.crew_setCrew_self]

theorem foldl_stopHeated_upkeep (l : List (Nat × Crew)) (s : State) : (l.foldl stopHeated s).upkeep = s.upkeep := by
  induction l generalizing s with
  | nil => rfl
  | cons e l ih => rw [List.foldl_cons, ih, stopHeated_upkeep]

theorem assocGet?_of_mem {β : Type} {l : List (Nat × β)} {e : Nat × β} (hn : (l.map Prod.fst).Nodup) (he : e ∈ l) :
    assocGet? e.1 l = some e.2 := by
  induction l with
  | nil => cases he
  | cons f l ih =>
    rw [List.map_cons, List.nodup_cons] at hn
    obtain ⟨hf, hn⟩ := hn
    rcases List.mem_cons.1 he with rfl | he
    · exact if_pos rfl
    · exact (if_neg fun h : e.1 = f.1 => hf (h ▸ List.mem_map_of_mem he)).trans (ih hn he)

/-- Each crew of a list without doubles is stopped once. -/
theorem crew_foldl_stopHeated {l : List (Nat × Crew)} (hn : (l.map Prod.fst).Nodup) {e : Nat × Crew} (he : e ∈ l) {w : Crew}
    (hstopped : e.2.stopped = none) {s : State} (hw : s.crew e.1 = some w) :
    (l.foldl stopHeated s).crew e.1 = some { w with stopping := w.stopping.or (some (0x11, none)) } := by
  have hother : ∀ (l : List (Nat × Crew)) (s : State), e.1 ∉ l.map Prod.fst → (l.foldl stopHeated s).crew e.1 = s.crew e.1 := by
    intro l
    induction l with
    | nil => exact fun _ _ => rfl
    | cons f l ih =>
      intro s hf
      rw [List.map_cons, List.mem_cons, not_or] at hf
      rw [List.foldl_cons, ih _ hf.2, crew_stopHeated_ne hf.1]
  induction l generalizing s with
  | nil => cases he
  | cons f l ih =>
    obtain ⟨hf, hn⟩ := List.nodup_cons.1 hn
    rw [List.foldl_cons]
    obtain rfl | he := List.mem_cons.1 he
    · rw [hother l _ hf, crew_stopHeated_self hw hstopped]
    · have hne : e.1 ≠ f.1 := fun h : e.1 = f.1 => hf (h ▸ List.mem_map_of_mem he)
      exact ih hn he ((crew_stopHeated_ne hne).trans hw)

/-- A thermal stop: the dies that are not cool, and the crews, which are to stop. -/
theorem thermalStop_eq (h : die ≤ 8) (warm : List Nat) : thermalStop s die warm = s.crews.foldl stopHeated { s with upkeep :=
    { s.upkeep.heats die s.time with
      stopHot := ((warm.filter fun d => d ≤ 8) ++ (s.upkeep.heats die s.time).hot).foldl (fun l d => joinList d l)
        (s.upkeep.heats die s.time).stopHot } } := if_pos h

theorem not_mem_hot_thermalRelease : die ∉ (thermalRelease s die).upkeep.hot := by
  rw [mem_hot]
  rintro ⟨x, hx, hnone, hdie⟩
  obtain ⟨y, -, rfl⟩ := List.mem_map.1 hx
  by_cases h : y.1 = die ∧ y.2.2.isNone = true
  · rw [if_pos h] at hnone
    cases hnone
  · rw [if_neg h] at hnone hdie
    exact h ⟨hdie, by rw [hnone]; rfl⟩

theorem not_mem_stopHot_thermalRelease : die ∉ (thermalRelease s die).upkeep.stopHot := by
  intro h
  simpa using (List.mem_filter.1 h).2

end

/-! ### Ageing, scrubs and firmware (R436, R437, R439) -/

section
variable {s : State}

theorem raiseSupply_harvested {cl : Nat} (h : (s.cluster cl).harvest = true) : s.raiseSupply cl = s := if_pos h

theorem raiseSupply_steps {cl : Nat} (h : (s.cluster cl).harvest = false) (hlt : (s.cluster cl).supply < 10) : s.raiseSupply cl =
    { s.setCluster cl { s.cluster cl with supply := (s.cluster cl).supply + 1 } with
      upkeep := { s.upkeep with ageing := assocSet (s.upkeep.physOf cl) ((s.cluster cl).supply + 1) s.upkeep.ageing } } :=
  (if_neg (by rw [h]; decide)).trans (if_pos hlt)

theorem raiseSupply_marks {cl : Nat} (h : (s.cluster cl).harvest = false) (hle : 10 ≤ (s.cluster cl).supply) : s.raiseSupply cl =
    State.report { s.setCluster cl { s.cluster cl with harvest := true } with
      upkeep := { s.upkeep with toHarvest := joinList (s.upkeep.physOf cl) s.upkeep.toHarvest } }
      (s.partOf (cl / 100)) none 5 0 (s.vcnReg (cl * 512)) 0 0 0 0 :=
  (if_neg (by rw [h]; decide)).trans (if_neg (not_lt.2 hle))

/-- A scrub changes what is marked, and asks for a freeze of recorders. -/
theorem patrolScrub_frame (line : Nat) (bad : Bool) : State.SameStore s (patrolScrub s line bad) ∧
    (patrolScrub s line bad).marked = if bad then joinList line s.marked else s.marked := by
  unfold patrolScrub
  cases bad <;> dsimp only <;> split <;> exact ⟨⟨rfl, rfl⟩, rfl⟩

theorem firmwareUpdate_begins {off len : Nat} (h : s.upkeep.fwStat ≠ 1) (hlen : len ≤ 2 ^ 24) (hoff : off + len ≤ s.bar2)
    (hplaced : s.anyPlaced = false) : firmwareUpdate s off len = { s with upkeep := { s.upkeep with
      fwOff := off, fwLen := len, fwStat := 1, fwBuf := s.settleAll.readRun off len, fwNew := true } } := by
  have hok : ¬ (imageMax < len ∨ s.bar2 < off + len ∨ s.anyPlaced = true) := by
    rw [hplaced]
    simp only [Bool.false_eq_true, or_false, not_or, not_lt]
    exact ⟨hlen, hoff⟩
  exact (if_neg h).trans (if_neg hok)

theorem firmwareUpdate_refused {off len : Nat} (h : s.upkeep.fwStat ≠ 1) (hbad : 2 ^ 24 < len ∨ s.anyPlaced = true) :
    firmwareUpdate s off len = { s with upkeep := { s.upkeep with fwOff := off, fwLen := len, fwStat := 3 } } :=
  (if_neg h).trans (if_pos (hbad.imp id .inr))

theorem firmwareUpdateEnd_done (h : s.upkeep.fwStat = 1) : firmwareUpdateEnd s 0 =
    { s with upkeep := { s.upkeep with fwStat := 2, fwImage := s.upkeep.fwBuf, fwBuf := [] } } :=
  (if_neg (not_not_intro h)).trans (if_pos rfl)

theorem firmwareUpdateEnd_failed {result : Nat} (h : s.upkeep.fwStat = 1) (hr : result ≠ 0) : ∃ n,
    (firmwareUpdateEnd s result).upkeep =
      { s.upkeep with fwStat := 4, fwImage := s.upkeep.fwBuf.take n ++ s.upkeep.fwImage.drop n, fwBuf := [] } :=
  ⟨_, congrArg State.upkeep ((if_neg (not_not_intro h)).trans (if_neg hr))⟩

end

/-! ### The module reset (R440) -/

/-- Events are reported, and nothing else happens. -/
def OnlyReported (s s' : State) : Prop :=
  (∃ ps, s' = { s with parts := ps }) ∧ ∀ p, (s'.part p).commitNo = (s.part p).commitNo

namespace OnlyReported

variable {s s' s'' : State}

theorem refl (s : State) : OnlyReported s s := ⟨⟨_, rfl⟩, fun _ => rfl⟩

theorem trans (h : OnlyReported s s') (h' : OnlyReported s' s'') : OnlyReported s s'' := by
  obtain ⟨⟨_, rfl⟩, hno⟩ := h
  obtain ⟨⟨_, rfl⟩, hno'⟩ := h'
  exact ⟨⟨_, rfl⟩, fun p => (hno' p).trans (hno p)⟩

theorem mcheck (s : State) (p cause : Nat) (addr : Word) : OnlyReported s (s.mcheck p cause addr) := by
  refine ⟨⟨_, rfl⟩, fun q => ?_⟩
  by_cases hq : q = p
  · subst hq
    rw [State.mcheck, State.report, State.part_setPart_self]
  · rw [State.mcheck, State.report, State.part_setPart_ne _ hq]

end OnlyReported

/-- The dies as the bits of a mask. -/
theorem foldl_two_pow_eq_pickBits (f : Nat → Bool) (n : Nat) :
    ((List.range n).filter f).foldl (fun n d => n + 2 ^ d) 0 = pickBits f n := by
  induction n with
  | zero => rfl
  | succ n ih =>
    rw [List.range_succ, List.filter_append, List.foldl_append, ih, pickBits]
    cases h : f n <;> simp [h]

theorem getLsbD_presentOf (absent : List Nat) {d : Nat} (h : d < 8) : (presentOf absent).getLsbD d = !absent.contains d := by
  rw [presentOf, foldl_two_pow_eq_pickBits, BitVec.getLsbD_ofNat, testBit_pickBits, decide_eq_true h]
  rfl

/-- A table with one value throughout holds nothing else. -/
theorem assocGetD_map_const {α : Type} (v : α) (l : List Nat) (k : Nat) : assocGetD k v (l.map fun d => (d, v)) = v := by
  induction l with
  | nil => rfl
  | cons d l ih =>
    rw [assocGetD, List.map_cons, assocGet?]
    split
    · rfl
    · exact ih

/-- The dies that a reset leaves out. -/
def absentDies (s : State) (tests : List DieTest) : List Nat := (List.range 8).filter (leftOut tests s.upkeep.toHarvest)

/-- A reset leaves a state in which nothing is placed, and then reports the dies that it leaves out. -/
theorem moduleReset_frame (s : State) (tests : List DieTest) : ∃ r, OnlyReported r (moduleReset s tests) ∧
    (absentDies s tests = [] → moduleReset s tests = r) ∧ r.mem = [] ∧ r.threads = [] ∧ r.crews = [] ∧ r.commits = [] ∧
    (∀ p, r.part p = Part.reset) ∧ r.present = presentOf (absentDies s tests) ∧ r.modcfg = resetModcfg (absentDies s tests) := by
  refine ⟨_, State.foldl_rel OnlyReported.refl OnlyReported.trans (fun r d _ => .mcheck r ..) _, fun h => ?_, rfl, rfl, rfl, rfl,
    fun p => assocGetD_map_const .., rfl, rfl⟩
  unfold moduleReset
  dsimp only
  rw [show (List.range 8).filter (leftOut tests s.upkeep.toHarvest) = [] from h]
  rfl

/-- Where every die has passed, and none of its clusters is to be harvested, no die is left out. -/
theorem absentDies_eq_nil {s : State} (h : s.upkeep.toHarvest = []) : absentDies s [] = [] := by
  rw [absentDies, h]
  rfl

theorem present_moduleReset (s : State) (tests : List DieTest) {d : Nat} (hd : d < 8) :
    (moduleReset s tests).present.getLsbD d =
      decide (100 ≤ (dieKept (testOf tests d) d s.upkeep.toHarvest).length ∧ 64 ≤ (testOf tests d).benchGood) := by
  obtain ⟨r, ⟨⟨ps, hr⟩, -⟩, -, -, -, -, -, -, hpresent, -⟩ := moduleReset_frame s tests
  have hleft : (absentDies s tests).contains d = leftOut tests s.upkeep.toHarvest d := by
    rw [Bool.eq_iff_iff, List.contains_iff_mem, absentDies, List.mem_filter, List.mem_range]
    exact and_iff_right hd
  rw [hr]
  show r.present.getLsbD d = _
  rw [hpresent, getLsbD_presentOf _ hd, hleft, leftOut, ← Bool.decide_or, ← decide_not]
  exact decide_eq_decide.2 (by omega)

end Sys2Proof.Machine

namespace Sys2Proof.Claims

open Sys2Proof.Machine

/-- Settles O60, event by event. -/
theorem upkeepEvents : Obligations.UpkeepEvents := by
  intro s die u
  refine ⟨fun code _ => rfl, fun code blk energy hcode => ⟨fun h => ?below, fun h hfirst => ?reached⟩,
    fun code blk since hholds hle hcool => held_of_sole hholds hle hcool,
    fun code blk hcode htime => ⟨fun h => ?again, fun h => ?window⟩,
    fun mw => ⟨fun h => ?above, fun hlo hhi => ?between, fun h => ?under⟩, fun h => ?restore, fun h => ?early, fun h => ?hold, ?stop, ?release,
    fun cl => ⟨fun h => ?harvested, fun h hlt => ?step, fun h hle => ?mark⟩, fun line => ?bad, fun line => ?good,
    fun off len hstat => ⟨fun hlen hoff hplaced => ?begin, fun hbad => ?refused⟩, fun hstat => ⟨?done, fun result hr => ?failed⟩, ?reset⟩
  case below => exact congrArg Host.Outcome.next (powerHold_below h)
  case reached => exact congrArg Host.Outcome.next (powerHold_reached hcode h hfirst)
  case again => exact congrArg Host.Outcome.next (powerWindow_again h)
  case window =>
    obtain ⟨hupkeep, hidle⟩ := powerWindow_ends hcode htime h
    refine ⟨_, rfl, ?_, fun x hx => ?_, fun hn => ?_⟩
    · rw [hupkeep]
      exact windowDone_sampled ..
    · rw [hupkeep] at hx
      exact windowDone_holds hx
    · rw [hidle hn]
      exact ⟨rfl, fun _ => rfl⟩
  case above => exact congrArg Host.Outcome.next (drawMeasurement_above h)
  case between => exact congrArg Host.Outcome.next (drawMeasurement_between hlo hhi)
  case under => exact congrArg Host.Outcome.next (drawMeasurement_below h)
  case restore => exact congrArg Host.Outcome.next (if_pos h)
  case early => exact congrArg Host.Outcome.next (if_neg (not_le.2 h))
  case hold => exact ⟨_, congrArg Host.Outcome.next (thermalHold_eq h), mem_hot_heats.2 (.inl rfl), rfl, rfl⟩
  case stop =>
    intro warm h hn
    refine ⟨_, congrArg Host.Outcome.next (thermalStop_eq h warm), ?_, fun d hd => ?_, fun e he hstopped => ?_⟩
    · rw [foldl_stopHeated_upkeep]
      exact mem_hot_heats.2 (.inl rfl)
    · rw [foldl_stopHeated_upkeep]
      refine (mem_foldl_joinList ..).2 (.inr (List.mem_append.2 ?_))
      rcases hd with hd | hd | ⟨hwarm, hle⟩
      · exact .inr (mem_hot_heats.2 (.inl hd))
      · exact .inr (mem_hot_heats.2 (.inr hd))
      · exact .inl (List.mem_filter.2 ⟨hwarm, decide_eq_true hle⟩)
    · exact ⟨_, crew_foldl_stopHeated hn he hstopped (assocGet?_of_mem hn he), rfl⟩
  case release => exact ⟨_, rfl, not_mem_hot_thermalRelease, not_mem_stopHot_thermalRelease, rfl⟩
  case harvested => exact congrArg Host.Outcome.next (raiseSupply_harvested h)
  case step =>
    refine ⟨_, congrArg Host.Outcome.next (raiseSupply_steps h hlt), ?_, assocGet?_assocSet_self ..⟩
    exact congrArg Cluster.supply (State.cluster_setCluster_self ..)
  case mark =>
    refine ⟨_, congrArg Host.Outcome.next (raiseSupply_marks h hle), ?_, ?_, mem_joinList.2 (.inl rfl)⟩
    · exact congrArg Cluster.harvest (State.cluster_setCluster_self ..)
    · exact (congrArg Cluster.supply (State.cluster_setCluster_self s cl { s.cluster cl with harvest := true }) :)
  case bad =>
    obtain ⟨hstore, hmarked⟩ := patrolScrub_frame (s := s) line true
    exact ⟨_, rfl, by rw [hmarked]; exact mem_joinList.2 (.inl rfl), hstore.sameBytes⟩
  case good =>
    obtain ⟨hstore, hmarked⟩ := patrolScrub_frame (s := s) line false
    exact ⟨_, rfl, hmarked, hstore.sameBytes⟩
  case begin => exact congrArg Host.Outcome.next (firmwareUpdate_begins hstat hlen hoff hplaced)
  case refused => exact congrArg Host.Outcome.next (firmwareUpdate_refused hstat hbad)
  case done => exact congrArg Host.Outcome.next (firmwareUpdateEnd_done hstat)
  case failed =>
    obtain ⟨n, hn⟩ := firmwareUpdateEnd_failed hstat hr
    exact ⟨_, n, rfl, hn⟩
  case reset =>
    intro tests
    obtain ⟨r, ⟨⟨ps, hr⟩, hno⟩, hall, hmem, hthreads, hcrews, hcommits, hparts, -, hmodcfg⟩ := moduleReset_frame s tests
    have hpresent : ∀ d, d < 8 → _ := fun d hd => present_moduleReset s tests hd
    refine ⟨_, rfl, ?_, ?_, ?_, ?_, fun p => (hno p).trans (by rw [hparts]; rfl), hpresent, ?_⟩
    · rw [hr]; exact hmem
    · rw [hr]; exact hthreads
    · rw [hr]; exact hcrews
    · rw [hr]; exact hcommits
    · rintro rfl hh
      have habsent := absentDies_eq_nil hh
      rw [hall habsent, hparts, hmodcfg, habsent]
      exact ⟨rfl, rfl⟩

end Sys2Proof.Claims

end

section

/-! ### Releases, joins, phases and exchange chunks (R341, R350, R358) -/

namespace Sys2Proof.Machine

open Claims

theorem mayRelease_of_due {w : Crew} {key : Nat} (h : ReleaseDue w key) : w.mayRelease key = true ∧ w.stopping = none := by
  obtain ⟨hstop, hdet | ⟨hturn, r, hr, hle⟩⟩ := h
  · exact ⟨by simp [Crew.mayRelease, hdet], hstop⟩
  · exact ⟨by simp [Crew.mayRelease, hturn, hr, hle], hstop⟩

/-! #### Barriers -/

/-- A thread is no idle one, which a push would wake. -/
def Thread.Awake (t : Thread) : Prop := ∀ n, t.run ≠ .idle n

variable {s : State} {t : Thread} {tid : Nat}

theorem thread_push_of_awake (core : Nat) (e : DequeEntry) (ht : s.thread tid = some t) (hrun : t.Awake) :
    (s.push core e).thread tid = some t := by
  have hkeep : (s.setDeque core ((s.dequeCore core).push e)).thread tid = some t := by
    rw [State.thread, State.setDeque_threads]
    exact ht
  refine (assocGet?_map _ (fun x => ?_) tid _).trans ?_
  · split
    · split <;> rfl
    · rfl
  · rw [show assocGet? tid (s.setDeque core ((s.dequeCore core).push e)).threads = some t from hkeep, Option.map_some]
    split
    · split
      · exact absurd ‹_› (hrun _)
      · rfl
    · rfl

theorem thread_pushAll_of_awake (by' crew : Nat) (rs : List TaskRec) (ht : s.thread tid = some t) (hrun : t.Awake) :
    (State.releaseMember.pushAll s by' crew rs).thread tid = some t := by
  induction rs generalizing s with
  | nil => exact ht
  | cons r rs ih => exact ih (thread_push_of_awake _ _ ht hrun)

/-- The release of another member leaves a thread that is not idle as it is. -/
theorem thread_releaseMember_ne {u : Nat} (h : tid ≠ u) (k : Nat) (det : Bool) (ht : s.thread tid = some t) (hrun : t.Awake) :
    (s.releaseMember k det u).thread tid = some t := by
  have hset (v : Thread) : (s.setThread u v).thread tid = some t := (State.thread_setThread_ne s h v).trans ht
  unfold State.releaseMember
  split
  · exact ht
  · split
    · split
      · exact ht
      · split
        · exact hset _
        · dsimp only
          split
          · exact hset _
          · exact thread_pushAll_of_awake _ _ _ (hset _) hrun
    · exact ht

theorem releaseMember_running (k : Nat) (det : Bool) (ht : s.thread tid = some t) (hrun : t.run = .running) :
    s.releaseMember k det tid = s := by
  simp only [State.releaseMember, ht, hrun]

theorem releaseMember_at_barrier {k : Nat} (det : Bool) (ht : s.thread tid = some t) (hrun : t.run = .bar k none) :
    s.releaseMember k det tid = s.setThread tid { t with run := .running, arch := { t.arch with wdcount := 0 } } := by
  simp [State.releaseMember, ht, hrun]

/-- A thread that runs stays as it is. -/
theorem thread_foldl_release_running (k : Nat) (det : Bool) (l : List Nat) (ht : s.thread tid = some t) (hrun : t.run = .running) :
    (l.foldl (fun s u => s.releaseMember k det u) s).thread tid = some t := by
  induction l generalizing s with
  | nil => exact ht
  | cons u l ih =>
    refine ih ?_
    by_cases hu : tid = u
    · subst hu
      exact (congrArg (State.thread · tid) (releaseMember_running k det ht hrun)).trans ht
    · exact thread_releaseMember_ne hu k det ht fun n h => nomatch hrun.symm.trans h

/-- A member that sleeps at the barrier runs once all have been released. -/
theorem thread_foldl_release {k : Nat} (det : Bool) {l : List Nat} (hl : tid ∈ l) (ht : s.thread tid = some t)
    (hrun : t.run = .bar k none) : (l.foldl (fun s u => s.releaseMember k det u) s).thread tid =
      some { t with run := .running, arch := { t.arch with wdcount := 0 } } := by
  induction l generalizing s with
  | nil => cases hl
  | cons u l ih =>
    rw [List.foldl_cons]
    by_cases hu : tid = u
    · rw [← hu, releaseMember_at_barrier det ht hrun]
      exact thread_foldl_release_running k det l (State.thread_setThread_self ..) rfl
    · exact ih (List.mem_of_ne_of_mem hu hl) (thread_releaseMember_ne hu k det ht fun n h => nomatch hrun.symm.trans h)

variable {crew dom : Nat} {w : Crew}

theorem barrierRelease_of_due (hw : s.crew crew = some w) (harrived : w.det = true ∨ s.allArrived w dom = true)
    (hdue : ReleaseDue w dom) : barrierRelease s crew dom =
      (w.domainThreads dom).foldl (fun s t => s.releaseMember dom w.det t)
        (s.setCrew crew { w with releaseAt := assocDrop dom w.releaseAt }) := by
  obtain ⟨hmay, hstop⟩ := mayRelease_of_due hdue
  have hready : (w.det || s.allArrived w dom) = true := by rwa [Bool.or_eq_true]
  simp only [barrierRelease, hw, barKey, hready, hmay, hstop, Option.isNone_none, Bool.and_self, if_true]

/-! #### Start joins -/

variable {l u : Nat} {g : Arming} {more : List (Nat × Nat × Arming)}

theorem startJoin_begins (hw : s.crew crew = some w) (hjoined : s.joined w dom = some ((l, u, g) :: more))
    (hdue : ReleaseDue w (16 + dom)) (hnone : ∀ p ∈ w.phases, p.dom ≠ dom) (hsame : ∀ e ∈ more, e.2.2.va = g.va) :
    startJoin s crew dom = (s.setCrew crew { w with
      releaseAt := assocDrop (16 + dom) w.releaseAt, phases := w.phases ++ [⟨dom, g.tab, 0, false⟩] }).clearStrings := by
  obtain ⟨hmay, hstop⟩ := mayRelease_of_due hdue
  have hany : (w.phases.any fun p => decide (p.dom = dom)) = false := by simpa using hnone
  have hfind : ((l, u, g) :: more).find? (fun e => decide (e.2.2.va ≠ g.va)) = none := by simpa using hsame
  simp only [startJoin, hw, hjoined, joinKey, hmay, hstop, hany, hfind, Option.isNone_none, Bool.not_false, Bool.and_self, if_true]

theorem startJoin_stops {e : Nat × Nat × Arming} (hw : s.crew crew = some w)
    (hjoined : s.joined w dom = some ((l, u, g) :: more)) (hdue : ReleaseDue w (16 + dom)) (hnone : ∀ p ∈ w.phases, p.dom ≠ dom)
    (hfind : more.find? (fun e => decide (e.2.2.va ≠ g.va)) = some e) (ht : s.thread e.2.1 = some t) : startJoin s crew dom =
      (s.setThread e.2.1 { t with arch := t.arch.trapRegs e.2.2.xphPc e.2.2.xphNext 0x0B 7 }).setCrew crew
        { w with stopping := some (0x0B, some e.1) } := by
  obtain ⟨hmay, hstop⟩ := mayRelease_of_due hdue
  have hw' (v : Thread) : (s.setThread e.2.1 v).crew crew = some w := hw
  have hany : (w.phases.any fun p => decide (p.dom = dom)) = false := by simpa using hnone
  have hfind : ((l, u, g) :: more).find? (fun e => decide (e.2.2.va ≠ g.va)) = some e := by
    rw [List.find?_cons_of_neg (by simp), hfind]
  simp only [startJoin, hw, hjoined, joinKey, hmay, hstop, hany, hfind, ht, stopCrew_of_crew (hw' _), Option.isNone_none,
    Option.none_or, Bool.not_false, Bool.and_self, if_true]

/-! #### Phases -/

variable {p : Phase}

theorem phaseStart_of_free (hw : s.crew crew = some w)
    (hp : w.phases.find? (fun p => decide (p.dom = dom) && !p.started) = some p) (hfree : s.stringsFree crew w p.tab dom = true) :
    phaseStart s crew dom = s.setCrew crew { w with phases := w.phases.map fun q =>
      if q.dom = dom then { q with started := true, zero := s.time + phaseLead p.tab } else q } := by
  simp only [phaseStart, hw, hp, hfree, if_true]

/-- The captured lines of a member at its phase's end. -/
def endedWith (s : State) (w : Crew) (tab : List Line) (e : Nat × Nat) (t : Thread) (g : Arming) : Thread :=
  { t with
    run := .captured (w.round + 1) (exchangeChunks (s.captures w g e.2).1) (s.captures w g e.2).2
    ltx := t.ltx + ownedLines tab e.1
    lrx := t.lrx + capturedLines g.reqs }

/-- What a phase's end does to a member (R358), the captures as s0 holds them. -/
def endMember (s0 : State) (w : Crew) (dom : Nat) (tab : List Line) (s : State) (e : Nat × Nat) : State :=
  match s.thread e.2 with
  | some t =>
    match t.armed dom with
    | some g => s.setThread e.2 (endedWith s0 w tab e t g)
    | none => s
  | none => s

theorem phaseEnd_of_over (hw : s.crew crew = some w) (hp : w.phases.find? (fun p => decide (p.dom = dom) && p.started) = some p)
    (hover : p.zero + phaseLen p.tab ≤ s.time) : phaseEnd s crew dom =
      (w.members.foldl (endMember s w dom p.tab) s).setCrew crew { w with phases := w.phases.filter fun q => q.dom ≠ dom } := by
  simp only [phaseEnd, hw, hp, if_pos hover]
  rfl

theorem thread_endMember_ne {s0 : State} {tab : List Line} {e : Nat × Nat} (h : tid ≠ e.2) :
    (endMember s0 w dom tab s e).thread tid = s.thread tid := by
  unfold endMember
  split
  · split
    · exact State.thread_setThread_ne s h _
    · rfl
  · rfl

theorem thread_foldl_endMember_of_not_mem {s0 : State} {tab : List Line} {l : List (Nat × Nat)} (h : tid ∉ l.map Prod.snd) :
    (l.foldl (endMember s0 w dom tab) s).thread tid = s.thread tid := by
  induction l generalizing s with
  | nil => rfl
  | cons e l ih =>
    rw [List.map_cons, List.mem_cons, not_or] at h
    obtain ⟨hne, hl⟩ := h
    exact (ih hl).trans (thread_endMember_ne hne)

theorem thread_foldl_endMember {s0 : State} {tab : List Line} {l : List (Nat × Nat)} (hn : (l.map Prod.snd).Nodup)
    {e : Nat × Nat} (he : e ∈ l) {g : Arming} (ht : s.thread e.2 = some t) (hg : t.armed dom = some g) :
    (l.foldl (endMember s0 w dom tab) s).thread e.2 = some (endedWith s0 w tab e t g) := by
  induction l generalizing s with
  | nil => cases he
  | cons f l ih =>
    rw [List.map_cons, List.nodup_cons] at hn
    obtain ⟨hf, hn⟩ := hn
    rw [List.foldl_cons]
    rcases List.mem_cons.1 he with rfl | he
    · rw [thread_foldl_endMember_of_not_mem hf]
      simp only [endMember, ht, hg, State.thread_setThread_self]
    · have hne : e.2 ≠ f.2 := fun h => hf (h ▸ List.mem_map_of_mem he)
      exact ih hn he ((thread_endMember_ne hne).trans ht)

/-! #### Exchange chunks -/

theorem exchangeChunk_of_dynamic (ht : s.thread tid = some t) (hdyn : isDet s t = false) : exchangeChunk s tid = s.exchangeNext tid := by
  simp only [exchangeChunk, ht]
  exact if_neg (by rw [show (s.crew t.crew).any Crew.det = false from hdyn]; decide)

variable {r : Nat} {c : List Host.Cell} {cs : List (List Host.Cell)} {regs : List (BitVec 5 × Line)}

theorem exchangeNext_resumes (ht : s.thread tid = some t) (hrun : t.run = .captured r [] regs) :
    s.exchangeNext tid = s.setThread tid (t.resumeExchange regs) := by
  simp only [State.exchangeNext, ht, hrun]

theorem exchangeNext_commits (ht : s.thread tid = some t) (hrun : t.run = .captured r (c :: cs) regs)
    (hguard : ∀ x ∈ c, s.guarded (crewPart t.crew) (some t.crew) x.1 = false)
    (hfree : s.exchangeFree tid (crewPart t.crew) c = true) (hhost : s.hostHolds (cellLines c) = false) :
    s.exchangeNext tid = (s.unitWrite (crewPart t.crew) t.crew t.arch.guild c).setThread tid { t with run := .captured r cs regs } := by
  have hany : (c.any fun x => s.guarded (crewPart t.crew) (some t.crew) x.1) = false := by simpa using hguard
  simp only [State.exchangeNext, ht, hrun, hany, hfree, hhost, Bool.false_eq_true, if_false, if_true]

end Sys2Proof.Machine

namespace Sys2Proof.Claims

open Sys2Proof.Machine

/-- Settles O53: a release runs through the members of the domain, a phase's end through those of the crew, and each member that
sleeps there is reached once. -/
theorem exchangeEvents : Obligations.ExchangeEvents := by
  intro s crew dom w hw
  refine ⟨fun harrived hdue => ?barrier, fun l u g more hjoined hdue hnone => ⟨fun hsame => ?join, fun e t hfind ht => ?stop⟩,
    fun p hp hfree => ?start, fun p hp hover hn => ?ended, fun tid t r regs ht hdyn => ⟨fun hrun => ?resume, fun c cs hrun hguard hfree hhost => ?chunk⟩⟩
  case barrier =>
    exact ⟨_, congrArg Host.Outcome.next (barrierRelease_of_due hw harrived hdue), fun tid t htid ht hrun =>
      thread_foldl_release w.det htid ht hrun⟩
  case join => exact congrArg Host.Outcome.next (startJoin_begins hw hjoined hdue hnone hsame)
  case stop =>
    exact ⟨_, _, congrArg Host.Outcome.next (startJoin_stops hw hjoined hdue hnone hfind ht), State.crew_setCrew_self .., rfl,
      State.thread_setThread_self s e.2.1 _⟩
  case start =>
    refine ⟨_, _, congrArg Host.Outcome.next (phaseStart_of_free hw hp hfree), State.crew_setCrew_self .., rfl, fun q hq hdom => ?_⟩
    obtain ⟨q₀, -, rfl⟩ := List.mem_map.1 hq
    by_cases h : q₀.dom = dom
    · rw [if_pos h]
      exact ⟨rfl, rfl⟩
    · rw [if_neg h] at hdom
      exact absurd hdom h
  case ended =>
    exact ⟨_, _, congrArg Host.Outcome.next (phaseEnd_of_over hw hp hover), State.crew_setCrew_self .., rfl, fun e t g he ht hg =>
      ⟨_, thread_foldl_endMember hn he ht hg, rfl, rfl, rfl⟩⟩
  case resume => exact congrArg Host.Outcome.next ((exchangeChunk_of_dynamic ht hdyn).trans (exchangeNext_resumes ht hrun))
  case chunk =>
    exact congrArg Host.Outcome.next ((exchangeChunk_of_dynamic ht hdyn).trans (exchangeNext_commits ht hrun hguard hfree hhost))

end Sys2Proof.Claims

end

section

/-! ### Integer operations of a bench core on patterns (R396) -/

namespace Sys2Proof.Machine

open Claims

section
variable {n : Nat} (x y : BitVec n)

theorem add_eq_ofInt_toInt : x + y = BitVec.ofInt n (x.toInt + y.toInt) := by
  rw [BitVec.ofInt_add, BitVec.ofInt_toInt, BitVec.ofInt_toInt]

theorem sub_eq_ofInt_toInt : x - y = BitVec.ofInt n (x.toInt - y.toInt) := by
  rw [Int.sub_eq_add_neg, BitVec.ofInt_add, BitVec.ofInt_neg, BitVec.ofInt_toInt, BitVec.ofInt_toInt, BitVec.sub_eq_add_neg]

theorem mul_eq_ofInt_toInt : x * y = BitVec.ofInt n (x.toInt * y.toInt) := by
  rw [BitVec.ofInt_mul, BitVec.ofInt_toInt, BitVec.ofInt_toInt]

theorem shiftLeft_eq_ofNat (k : Nat) : x <<< k = BitVec.ofNat n (x.toNat * 2 ^ k) := by
  apply BitVec.eq_of_toNat_eq
  rw [BitVec.toNat_shiftLeft, Nat.shiftLeft_eq, BitVec.toNat_ofNat]

theorem ushiftRight_eq_ofNat (k : Nat) : x >>> k = BitVec.ofNat n (x.toNat / 2 ^ k) := by
  rw [← Nat.shiftRight_eq_div_pow, ← BitVec.toNat_ushiftRight, BitVec.ofNat_toNat, BitVec.setWidth_eq]

theorem sshiftRight_eq_ofInt (k : Nat) : x.sshiftRight k = BitVec.ofInt n (x.toInt / 2 ^ k) := by
  rw [BitVec.sshiftRight_eq, Int.shiftRight_eq_div_pow]
  norm_cast

theorem not_eq_ofInt : ~~~x = BitVec.ofInt n (-1 - x.toInt) := by
  rw [Int.sub_eq_add_neg, BitVec.ofInt_add, ← allOnes_eq_ofInt, BitVec.ofInt_neg, BitVec.ofInt_toInt, ← BitVec.sub_eq_add_neg,
    BitVec.allOnes_sub_eq_not]

theorem divS_eq_quot : divS x y = BitVec.ofInt n (quot x.toInt y.toInt) := divS_eq_ofInt x y

theorem remS_eq_rest : remS x y = BitVec.ofInt n (rest x.toInt y.toInt) := remS_eq_ofInt x y

theorem quot_natCast (a b : Nat) : quot a b = if b = 0 then -1 else ((a / b : Nat) : Int) := by
  simp only [quot, Int.natCast_eq_zero, Int.ofNat_tdiv]

theorem rest_natCast (a b : Nat) : rest a b = (a % b : Nat) := by
  simp only [rest, ← Int.tmod_def]
  split
  case isTrue h => rw [Int.natCast_eq_zero.1 h, Nat.mod_zero]
  case isFalse => exact (Int.ofNat_tmod a b).symm

theorem divU_eq_quot : divU x y = BitVec.ofInt n (quot x.toNat y.toNat) := by rw [divU_eq_ofInt, quot_natCast]

theorem remU_eq_rest : remU x y = BitVec.ofInt n (rest x.toNat y.toNat) := by rw [remU_eq_ofInt, rest_natCast]

end

section
variable (a b : Word)

theorem slt_eq_bit : (if a.slt b then (1 : Word) else 0) = bit (decide (a.toInt < b.toInt)) := by rw [BitVec.slt_eq_decide, bit]

theorem ult_eq_bit : (if a.ult b then (1 : Word) else 0) = bit (decide (a.toNat < b.toNat)) := by rw [BitVec.ult_eq_decide, bit]

theorem mul_eq_ofNat : a * b = BitVec.ofNat 64 (a.toNat * b.toNat) := BitVec.eq_of_toNat_eq (BitVec.toNat_mul ..)

/-- An addition to a multiple, as SH1ADD, SH2ADD and SH3ADD make it. -/
theorem mul_add_eq_ofNat (k : Nat) : a * BitVec.ofNat 64 k + b = BitVec.ofNat 64 (a.toNat * k + b.toNat) := by
  apply BitVec.eq_of_toNat_eq
  rw [BitVec.toNat_add, BitVec.toNat_mul, BitVec.toNat_ofNat, BitVec.toNat_ofNat, Nat.mod_add_mod, Nat.add_mod, Nat.mul_mod,
    Nat.mod_mod, ← Nat.mul_mod, ← Nat.add_mod]

theorem u32_eq_toNat : u32 a = (lo32 a).toNat := (BitVec.toNat_setWidth ..).symm

theorem zextN_32 : zextN a 32 = BitVec.ofNat 64 (u32 a) := by
  rw [u32_eq_toNat, BitVec.ofNat_toNat]
  rfl

theorem zextN_32_add : zextN a 32 + b = BitVec.ofNat 64 (u32 a + b.toNat) := by
  rw [zextN_32, BitVec.ofNat_add, BitVec.ofNat_toNat, BitVec.setWidth_eq]

end

/-- Results of 32 bits from patterns of 32 bits. -/
theorem w32_ofNat (x : Nat) : w32 (BitVec.ofNat 32 x) = low32 x := by rw [low32, BitVec.ofInt_natCast]; rfl

section
variable {f7 f3 : Nat} {a b v : Word}

/-- OP (R396). -/
theorem alu64_of_rvOp (h : rvOp f7 f3 a b = some v) : alu64 f7 f3 a b = some v := by
  unfold rvOp at h
  split at h <;> cases h
  case h_1 => exact congrArg some (add_eq_ofInt_toInt a b)
  case h_2 => exact congrArg some (sub_eq_ofInt_toInt a b)
  case h_3 => exact congrArg some (shiftLeft_eq_ofNat a _)
  case h_4 => exact congrArg some (slt_eq_bit a b)
  case h_5 => exact congrArg some (ult_eq_bit a b)
  case h_7 => exact congrArg some (ushiftRight_eq_ofNat a _)
  case h_8 => exact congrArg some (sshiftRight_eq_ofInt a _)
  case h_11 => exact congrArg some (mul_eq_ofNat a b)
  case h_15 => exact congrArg some (divS_eq_quot a b)
  case h_16 => exact congrArg some (divU_eq_quot a b)
  case h_17 => exact congrArg some (remS_eq_rest a b)
  case h_18 => exact congrArg some (remU_eq_rest a b)
  case h_19 | h_20 | h_21 => exact congrArg some (mul_add_eq_ofNat a b _)
  case h_22 => exact congrArg some (min_eq_ofInt a b)
  case h_23 => exact congrArg some (minu_eq_ofNat a b)
  case h_24 => exact congrArg some (max_eq_ofInt a b)
  case h_25 => exact congrArg some (maxu_eq_ofNat a b)
  case h_26 => exact congrArg (fun c => some (a ^^^ c)) (not_eq_ofInt b)
  case h_27 => exact congrArg (fun c => some (a ||| c)) (not_eq_ofInt b)
  case h_28 => exact congrArg (fun c => some (a &&& c)) (not_eq_ofInt b)
  all_goals rfl

/-- OP-32 (R396). -/
theorem alu32_of_rvOpW {rs2 : Nat} (h : rvOpW f7 f3 a b = some v) : alu32 f7 f3 rs2 a b = some v := by
  unfold rvOpW at h
  simp only [u32_eq_toNat, ← w32_ofNat] at h
  split at h <;> cases h
  case h_1 => exact congrArg (fun c => some (w32 c)) (add_eq_ofInt_toInt (lo32 a) (lo32 b))
  case h_2 => exact congrArg (fun c => some (w32 c)) (sub_eq_ofInt_toInt (lo32 a) (lo32 b))
  case h_3 => exact congrArg (fun c => some (w32 c)) (shiftLeft_eq_ofNat (lo32 a) _)
  case h_4 => exact congrArg (fun c => some (w32 c)) (ushiftRight_eq_ofNat (lo32 a) _)
  case h_5 => exact congrArg (fun c => some (w32 c)) (sshiftRight_eq_ofInt (lo32 a) _)
  case h_6 => exact congrArg (fun c => some (w32 c)) (mul_eq_ofInt_toInt (lo32 a) (lo32 b))
  case h_7 => exact congrArg (fun c => some (w32 c)) (divS_eq_quot (lo32 a) (lo32 b))
  case h_8 => exact congrArg (fun c => some (w32 c)) (divU_eq_quot (lo32 a) (lo32 b))
  case h_9 => exact congrArg (fun c => some (w32 c)) (remS_eq_rest (lo32 a) (lo32 b))
  case h_10 => exact congrArg (fun c => some (w32 c)) (remU_eq_rest (lo32 a) (lo32 b))
  case h_11 => exact congrArg some ((zextN_32_add a b).trans (by rw [u32_eq_toNat]))

/-- The branches' conditions (R396). -/
theorem branchTaken_of_rvBranch {t : Bool} (h : rvBranch f3 a b = some t) : branchTaken f3 a b = some t := by
  unfold rvBranch at h
  split at h <;> cases h
  case h_3 => exact congrArg some BitVec.slt_eq_decide
  case h_4 => exact congrArg some ((congrArg (! ·) BitVec.slt_eq_decide).trans (by rw [← decide_not, decide_eq_decide, not_lt]))
  case h_5 => exact congrArg some BitVec.ult_eq_decide
  case h_6 => exact congrArg some ((congrArg (! ·) BitVec.ult_eq_decide).trans (by rw [← decide_not, decide_eq_decide, not_lt]))
  all_goals rfl

end

end Sys2Proof.Machine

/-! ### Fields and immediates (R396) -/

namespace Sys2Proof.Machine

open Claims

/-- A signed field of n bits, extended to k. -/
theorem ofNat_rsx {n k : Nat} (h : n ≤ k) (hn : 0 < n) (v : Nat) : BitVec.ofNat k (rsx n k v) = BitVec.ofInt k (BitVec.ofNat n v).toInt := by
  have hpow : 2 ^ n ≤ 2 ^ k := Nat.pow_le_pow_right (by decide) h
  have hhalf : 2 ^ n = 2 * 2 ^ (n - 1) := by rw [← Nat.pow_succ', Nat.succ_eq_add_one, Nat.sub_add_cancel hn]
  rw [rsx, BitVec.toInt_eq_toNat_cond, BitVec.toNat_ofNat]
  by_cases hlt : v % 2 ^ n < 2 ^ (n - 1)
  · rw [if_pos hlt, if_pos (by omega), BitVec.ofInt_natCast]
  · rw [if_neg hlt, if_neg (by omega), ← BitVec.ofInt_natCast]
    apply BitVec.eq_of_toNat_eq
    rw [BitVec.toNat_ofInt, BitVec.toNat_ofInt]
    have hsum : ((2 ^ k - 2 ^ n + v % 2 ^ n : Nat) : Int) = ((v % 2 ^ n : Nat) : Int) - (2 ^ n : Nat) + (2 ^ k : Nat) := by omega
    rw [hsum, Int.add_emod_right]

/-- A pattern below k zeros reads as the product. -/
theorem toInt_ofNat_mul_two_pow (n k v : Nat) : (BitVec.ofNat (n + k) (v * 2 ^ k)).toInt = (BitVec.ofNat n v).toInt * 2 ^ k := by
  have hpos : 0 < 2 ^ k := Nat.two_pow_pos k
  have hiff : 2 * (v % 2 ^ n * 2 ^ k) < 2 ^ n * 2 ^ k ↔ 2 * (v % 2 ^ n) < 2 ^ n := by
    rw [← Nat.mul_assoc]
    exact Nat.mul_lt_mul_right hpos
  rw [BitVec.toInt_eq_toNat_cond, BitVec.toInt_eq_toNat_cond, BitVec.toNat_ofNat, BitVec.toNat_ofNat, Nat.pow_add,
    Nat.mul_mod_mul_right]
  simp only [hiff]
  split
  · push_cast; rfl
  · push_cast; ring

theorem ofNat_append {n k : Nat} (a : Nat) {b : Nat} (hb : b < 2 ^ k) :
    BitVec.ofNat n a ++ BitVec.ofNat k b = BitVec.ofNat (n + k) (2 ^ k * a + b) := by
  apply BitVec.eq_of_toNat_eq
  have hmod : (2 ^ k * a + b) % 2 ^ (n + k) = 2 ^ k * (a % 2 ^ n) + b := by
    rw [Nat.add_comm n k, Nat.pow_add, Nat.mod_mul, Nat.mul_add_mod, Nat.mod_eq_of_lt hb, Nat.mul_add_div (Nat.two_pow_pos k),
      Nat.div_eq_of_lt hb, Nat.add_zero, Nat.add_comm]
  rw [BitVec.toNat_append, BitVec.toNat_ofNat, BitVec.toNat_ofNat, BitVec.toNat_ofNat, Nat.mod_eq_of_lt hb, Nat.shiftLeft_eq,
    Nat.mul_comm, ← Nat.two_pow_add_eq_or_of_lt hb, hmod]

theorem extract_eq_ofNat (w : BitVec 32) (lo n : Nat) : w.extractLsb' lo n = BitVec.ofNat n (rb w.toNat lo n) := by
  apply BitVec.eq_of_toNat_eq
  rw [BitVec.extractLsb'_toNat, BitVec.toNat_ofNat, Nat.shiftRight_eq_div_pow, rb, Nat.mod_mod]

theorem rb_lt (w lo n : Nat) : rb w lo n < 2 ^ n := Nat.mod_lt _ (Nat.two_pow_pos n)

section
variable (w : BitVec 32)

theorem ofNat_immI {k : Nat} (h : 12 ≤ k) : BitVec.ofNat k (rsx 12 k (rb w.toNat 20 12)) = BitVec.ofInt k (immI w) := by
  rw [ofNat_rsx h (by decide), immI, extract_eq_ofNat]

theorem ofNat_immS : BitVec.ofNat 64 (rsx 12 64 (rb w.toNat 7 5 + rb w.toNat 25 7 * 32)) = BitVec.ofInt 64 (immS w) := by
  rw [ofNat_rsx (by decide) (by decide), immS, extract_eq_ofNat, extract_eq_ofNat, ofNat_append _ (rb_lt ..)]
  simp only [Nat.add_comm, Nat.mul_comm, Nat.reducePow, Nat.reduceAdd]

theorem ofNat_immB : BitVec.ofNat 64 (rsx 13 64 (rb w.toNat 31 1 * 2 ^ 12 + rb w.toNat 7 1 * 2 ^ 11 + rb w.toNat 25 6 * 2 ^ 5 +
    rb w.toNat 8 4 * 2)) = BitVec.ofInt 64 (immB w) := by
  have hsum : rb w.toNat 31 1 * 2 ^ 12 + rb w.toNat 7 1 * 2 ^ 11 + rb w.toNat 25 6 * 2 ^ 5 + rb w.toNat 8 4 * 2 =
      (2 ^ 4 * (2 ^ 6 * (2 ^ 1 * rb w.toNat 31 1 + rb w.toNat 7 1) + rb w.toNat 25 6) + rb w.toNat 8 4) * 2 ^ 1 := by ring
  rw [ofNat_rsx (by decide) (by decide), hsum, toInt_ofNat_mul_two_pow 12 1, immB]
  simp only [extract_eq_ofNat, ofNat_append _ (rb_lt ..)]
  rw [mul_comm, pow_one]

theorem ofNat_immJ : BitVec.ofNat 64 (rsx 21 64 (rb w.toNat 31 1 * 2 ^ 20 + rb w.toNat 12 8 * 2 ^ 12 + rb w.toNat 20 1 * 2 ^ 11 +
    rb w.toNat 21 10 * 2)) = BitVec.ofInt 64 (immJ w) := by
  have hsum : rb w.toNat 31 1 * 2 ^ 20 + rb w.toNat 12 8 * 2 ^ 12 + rb w.toNat 20 1 * 2 ^ 11 + rb w.toNat 21 10 * 2 =
      (2 ^ 10 * (2 ^ 1 * (2 ^ 8 * rb w.toNat 31 1 + rb w.toNat 12 8) + rb w.toNat 20 1) + rb w.toNat 21 10) * 2 ^ 1 := by ring
  rw [ofNat_rsx (by decide) (by decide), hsum, toInt_ofNat_mul_two_pow 20 1, immJ]
  simp only [extract_eq_ofNat, ofNat_append _ (rb_lt ..)]
  rw [mul_comm, pow_one]

theorem sextN_immU : sextN (BitVec.ofNat 64 (rb w.toNat 12 20 * 4096)) 32 = BitVec.ofInt 64 (immU w) := by
  have hlow : (BitVec.ofNat 64 (rb w.toNat 12 20 * 4096)).setWidth 32 = BitVec.ofNat (20 + 12) (rb w.toNat 12 20 * 2 ^ 12) := by
    apply BitVec.eq_of_toNat_eq
    simp only [BitVec.toNat_setWidth, BitVec.toNat_ofNat]
    omega
  rw [sextN, hlow, signExtend_eq_ofInt _ (by decide), toInt_ofNat_mul_two_pow, immU, extract_eq_ofNat, mul_comm]
  rfl

end

end Sys2Proof.Machine

/-! ### The operations of words of 32 bits (R396) -/

namespace Sys2Proof.Machine

open Claims

section
variable {w : BitVec 32} {a v : Word}

theorem rvImm_imm64 {f3 : Nat} (hf3 : rb w.toNat 12 3 = f3) (h : rvImm f3 a (immI w) = some v) : imm64 w.toNat a = some v := by
  have hsx : BitVec.ofNat 64 (rsx 12 64 (rb w.toNat 20 12)) = BitVec.ofInt 64 (immI w) := ofNat_immI w (by decide)
  have hrange : (BitVec.ofInt 64 (immI w)).toInt = immI w := by
    rw [immI, ← signExtend_eq_ofInt _ (by decide), BitVec.toInt_signExtend_of_le (by decide)]
  unfold rvImm at h
  split at h <;> cases h <;> simp only [imm64, hf3, hsx]
  case h_1 => rw [BitVec.ofInt_add, BitVec.ofInt_toInt]
  case h_2 => rw [slt_eq_bit, hrange]
  case h_3 => rw [ult_eq_bit]

/-- The field of twelve bits is the one of six, and the six bits below it. -/
theorem rb_20_12_of_26 (x : Nat) : rb x 20 12 = rb x 26 6 * 64 + rb x 20 6 := by
  unfold rb
  omega

/-- The shifts of OP-IMM by an immediate amount. -/
theorem imm64_slli (hf3 : rb w.toNat 12 3 = 1) (hf6 : rb w.toNat 26 6 = 0) :
    imm64 w.toNat a = some (BitVec.ofNat 64 (a.toNat * 2 ^ rb w.toNat 20 6)) := by
  have hlt : rb w.toNat 20 6 < 64 := rb_lt ..
  have hf12 := rb_20_12_of_26 w.toNat
  rw [hf6] at hf12
  simp only [imm64, hf3]
  split
  case h_6 => rw [if_pos hf6, shiftLeft_eq_ofNat]
  all_goals omega

theorem imm64_srli (hf3 : rb w.toNat 12 3 = 5) (hf6 : rb w.toNat 26 6 = 0) :
    imm64 w.toNat a = some (BitVec.ofNat 64 (a.toNat / 2 ^ rb w.toNat 20 6)) := by
  have hlt : rb w.toNat 20 6 < 64 := rb_lt ..
  have hf12 := rb_20_12_of_26 w.toNat
  rw [hf6] at hf12
  simp only [imm64, hf3, hf6]
  split
  case h_3 => rw [ushiftRight_eq_ofNat]
  all_goals omega

theorem imm64_srai (hf3 : rb w.toNat 12 3 = 5) (hf6 : rb w.toNat 26 6 = 0x10) :
    imm64 w.toNat a = some (BitVec.ofInt 64 (a.toInt / 2 ^ rb w.toNat 20 6)) := by
  have hlt : rb w.toNat 20 6 < 64 := rb_lt ..
  have hf12 := rb_20_12_of_26 w.toNat
  rw [hf6] at hf12
  simp only [imm64, hf3, hf6]
  split
  case h_3 => rw [sshiftRight_eq_ofInt]
  all_goals omega

theorem imm32_addiw (hf3 : rb w.toNat 12 3 = 0) : imm32 w.toNat a = some (low32 (s32 a + immI w)) := by
  simp only [imm32, hf3, ofNat_immI w (show 12 ≤ 32 by decide)]
  rw [low32, BitVec.ofInt_add, s32, BitVec.ofInt_toInt]
  rfl

theorem rb_20_12_of_25 (x : Nat) : rb x 20 12 = rb x 25 7 * 32 + rb x 20 5 := by
  unfold rb
  omega

theorem imm32_slliw (hf3 : rb w.toNat 12 3 = 1) (hf7 : rb w.toNat 25 7 = 0) :
    imm32 w.toNat a = some (low32 (u32 a * 2 ^ rb w.toNat 20 5 : Nat)) := by
  have hlt : rb w.toNat 20 5 < 32 := rb_lt ..
  have hf12 := rb_20_12_of_25 w.toNat
  have hf6 : rb w.toNat 26 6 ≠ 2 := by
    unfold rb at hf7 ⊢
    omega
  rw [hf7] at hf12
  simp only [imm32, hf3]
  split
  case h_4 => rw [if_neg hf6, if_pos hf7, shiftLeft_eq_ofNat, w32_ofNat, u32_eq_toNat]
  all_goals omega

theorem imm32_srliw (hf3 : rb w.toNat 12 3 = 5) (hf7 : rb w.toNat 25 7 = 0) :
    imm32 w.toNat a = some (low32 (u32 a / 2 ^ rb w.toNat 20 5 : Nat)) := by
  simp only [imm32, hf3, hf7]
  rw [ushiftRight_eq_ofNat, w32_ofNat, u32_eq_toNat]

theorem imm32_sraiw (hf3 : rb w.toNat 12 3 = 5) (hf7 : rb w.toNat 25 7 = 0x20) :
    imm32 w.toNat a = some (low32 (s32 a / 2 ^ rb w.toNat 20 5)) := by
  simp only [imm32, hf3, hf7]
  rw [sshiftRight_eq_ofInt]
  rfl

end

/-- The register result of an instruction of 32 bits, as the model computes it. -/
def resultOf (w : Nat) (pc a b : Word) : Option Word :=
  match w % 128 with
  | 0x37 => some (sextN (BitVec.ofNat 64 (rb w 12 20 * 4096)) 32)
  | 0x17 => some (pc + sextN (BitVec.ofNat 64 (rb w 12 20 * 4096)) 32)
  | 0x13 => imm64 w a
  | 0x1B => imm32 w a
  | 0x33 => alu64 (rb w 25 7) (rb w 12 3) a b
  | 0x3B => alu32 (rb w 25 7) (rb w 12 3) (rb w 20 5) a b
  | _ => none

theorem opcode_eq (w : BitVec 32) : rvField w 0 7 = w.toNat % 128 := by simp [rvField]

/-- The results of R396 are the model's. -/
theorem resultOf_of_rvResult {w : BitVec 32} {pc a b v : Word} (h : rvResult w pc a b = some v) : resultOf w.toNat pc a b = some v := by
  unfold rvResult at h
  rw [opcode_eq] at h
  unfold resultOf
  split at h
  case h_1 hop =>
    cases h
    simp only [hop, sextN_immU]
  case h_2 hop =>
    cases h
    simp only [hop, sextN_immU]
    rw [BitVec.ofInt_add, BitVec.ofInt_toInt]
  case h_3 hop =>
    simp only [hop]
    exact alu64_of_rvOp h
  case h_4 hop =>
    simp only [hop]
    exact alu32_of_rvOpW h
  case h_5 hop =>
    simp only [hop]
    split at h
    case h_1 hf3 hf6 => exact (imm64_slli hf3 hf6).trans h
    case h_2 hf3 hf6 => exact (imm64_srli hf3 hf6).trans h
    case h_3 hf3 hf6 => exact (imm64_srai hf3 hf6).trans h
    case h_4 => exact rvImm_imm64 rfl h
  case h_6 hop =>
    simp only [hop]
    split at h
    case h_1 hf3 => exact (imm32_addiw hf3).trans h
    case h_2 hf3 hf7 => exact (imm32_slliw hf3 hf7).trans h
    case h_3 hf3 hf7 => exact (imm32_srliw hf3 hf7).trans h
    case h_4 hf3 hf7 => exact (imm32_sraiw hf3 hf7).trans h
    case h_5 => cases h
  case h_7 => cases h

/-! ### One instruction run (R396, R397) -/

section
variable {w : Nat} {m : BMach}

theorem run_putOr {v : Word} {o : Option Word} (h : o = some v) (m : BMach) :
    (putOr w o).run m = .ok () { m with e := m.e.setX (BitVec.ofNat 5 (rb w 7 5)) v } := by
  rw [h]
  rfl

/-- An instruction with a register result writes it, and nothing else. -/
theorem run_opRv_result {v : Word}
    (h : resultOf w m.e.pc (m.e.getX (BitVec.ofNat 5 (rb w 15 5))) (m.e.getX (BitVec.ofNat 5 (rb w 20 5))) = some v) :
    (opRv w).run m = .ok () { m with e := m.e.setX (BitVec.ofNat 5 (rb w 7 5)) v } := by
  unfold opRv
  refine (run_bind_bench_ok (run_get_bench m)).trans ?_
  unfold resultOf at h
  split at h
  case h_1 hop =>
    cases h
    simp only [hop]
    rfl
  case h_2 hop =>
    cases h
    simp only [hop]
    rfl
  case h_3 hop | h_4 hop | h_5 hop | h_6 hop =>
    simp only [hop]
    exact run_putOr h m
  case h_7 => cases h

theorem run_opRv_jal (hop : w % 128 = 0x6F) : (opRv w).run m = .ok () { m with
    e := m.e.setX (BitVec.ofNat 5 (rb w 7 5)) m.npc
    npc := m.e.pc + BitVec.ofNat 64 (rsx 21 64 (rb w 31 1 * 2 ^ 20 + rb w 12 8 * 2 ^ 12 + rb w 20 1 * 2 ^ 11 + rb w 21 10 * 2)) } := by
  unfold opRv
  refine (run_bind_bench_ok (run_get_bench m)).trans ?_
  simp only [hop]
  rfl

theorem run_opRv_jalr (hop : w % 128 = 0x67) (hf3 : rb w 12 3 = 0) : (opRv w).run m = .ok () { m with
    e := m.e.setX (BitVec.ofNat 5 (rb w 7 5)) m.npc
    npc := (m.e.getX (BitVec.ofNat 5 (rb w 15 5)) + BitVec.ofNat 64 (rsx 12 64 (rb w 20 12))) &&& ~~~1 } := by
  unfold opRv
  refine (run_bind_bench_ok (run_get_bench m)).trans ?_
  simp only [hop, hf3]
  rfl

theorem run_opRv_branch {t : Bool} (hop : w % 128 = 0x63)
    (ht : branchTaken (rb w 12 3) (m.e.getX (BitVec.ofNat 5 (rb w 15 5))) (m.e.getX (BitVec.ofNat 5 (rb w 20 5))) = some t) :
    (opRv w).run m = .ok () { m with
      npc := if t then m.e.pc + BitVec.ofNat 64
          (rsx 13 64 (rb w 31 1 * 2 ^ 12 + rb w 7 1 * 2 ^ 11 + rb w 25 6 * 2 ^ 5 + rb w 8 4 * 2))
        else m.npc } := by
  unfold opRv
  refine (run_bind_bench_ok (run_get_bench m)).trans ?_
  simp only [hop, ht]
  cases t <;> rfl

theorem run_opRv_fence (hop : w % 128 = 0x0F) (hf3 : rb w 12 3 ≤ 1) : (opRv w).run m = .ok () m := by
  unfold opRv
  refine (run_bind_bench_ok (run_get_bench m)).trans ?_
  simp only [hop]
  exact run_illegalIf_false (decide_eq_false (not_lt.2 hf3)) m

/-- An aligned address of SRAM. -/
theorem run_bplace_sram {a : Word} {n : Nat} (mis acc : Nat) (store : Bool) (halign : a.toNat % n = 0) (hin : a.toNat + n ≤ 65536)
    (m : BMach) : (bplace a n mis acc store).run m = .ok (.sram a.toNat) m := by
  have hplace : m.place a n store = some (.sram a.toNat) := by
    simp only [BMach.place, leavesSram_of_le hin, Bool.not_false, if_true]
  unfold bplace
  refine (run_bind_bench_ok (run_bneed_true (decide_eq_true halign) mis a m)).trans ?_
  refine (run_bind_bench_ok (run_get_bench m)).trans ?_
  rw [hplace]
  rfl

/-- A load's address, and the value that it reads of SRAM. -/
def loadAddr (w : Nat) (m : BMach) : Word := m.e.getX (BitVec.ofNat 5 (rb w 15 5)) + BitVec.ofNat 64 (rsx 12 64 (rb w 20 12))
def sramLoaded (w : Nat) (m : BMach) : Nat := ofBytes (Memory.readRun m.e.sram (loadAddr w m).toNat (2 ^ (rb w 12 3 % 4)))

theorem run_opRv_load (hop : w % 128 = 0x03) (hf3 : rb w 12 3 ≠ 7) (halign : (loadAddr w m).toNat % 2 ^ (rb w 12 3 % 4) = 0)
    (hin : (loadAddr w m).toNat + 2 ^ (rb w 12 3 % 4) ≤ 65536) : (opRv w).run m = .ok () { m with
      e := m.e.setX (BitVec.ofNat 5 (rb w 7 5))
        (if 4 ≤ rb w 12 3 then BitVec.ofNat 64 (sramLoaded w m) else sextN (BitVec.ofNat 64 (sramLoaded w m)) (8 * 2 ^ (rb w 12 3 % 4))) } := by
  unfold opRv
  refine (run_bind_bench_ok (run_get_bench m)).trans ?_
  simp only [hop]
  unfold rvLoad
  refine (run_bind_bench_ok (run_get_bench m)).trans ?_
  refine (run_bind_bench_ok (run_illegalIf_false (decide_eq_false hf3) m)).trans ?_
  refine (run_bind_bench_ok (run_bplace_sram 4 5 false halign hin m)).trans ?_
  rfl

/-- A store's address. -/
def storeAddr (w : Nat) (m : BMach) : Word :=
  m.e.getX (BitVec.ofNat 5 (rb w 15 5)) + BitVec.ofNat 64 (rsx 12 64 (rb w 7 5 + rb w 25 7 * 32))

theorem run_opRv_store (hop : w % 128 = 0x23) (hf3 : rb w 12 3 ≤ 3) (halign : (storeAddr w m).toNat % 2 ^ rb w 12 3 = 0)
    (hin : (storeAddr w m).toNat + 2 ^ rb w 12 3 ≤ 65536) : (opRv w).run m = .ok () { m with e := { m.e with
      sram := Memory.writeRun m.e.sram (storeAddr w m).toNat
        (bytesOf (2 ^ rb w 12 3) ((m.e.getX (BitVec.ofNat 5 (rb w 20 5))).toNat % 2 ^ (8 * 2 ^ rb w 12 3))) } } := by
  unfold opRv
  refine (run_bind_bench_ok (run_get_bench m)).trans ?_
  simp only [hop]
  unfold rvStore
  refine (run_bind_bench_ok (run_get_bench m)).trans ?_
  refine (run_bind_bench_ok (run_illegalIf_false (by simpa using hf3) m)).trans ?_
  refine (run_bind_bench_ok (run_bplace_sram 6 7 true halign hin m)).trans ?_
  rfl

theorem run_opRv_illegal (hop : w % 128 = 0x77) : (opRv w).run m = .error (.fault 2 (sramWord m.e)) m := by
  unfold opRv
  refine (run_bind_bench_ok (run_get_bench m)).trans ?_
  simp only [hop]
  rfl

end

end Sys2Proof.Machine

/-! ### Compressed forms (R396) -/

namespace Sys2Proof.Machine

open Claims

section
variable {w : BitVec 32}

/-- A field of a halfword. -/
theorem rb_halfword (x : Nat) {lo n : Nat} (h : lo + n ≤ 16) : rb (x % 65536) lo n = rb x lo n := by
  have hpow : 65536 = 2 ^ lo * 2 ^ (16 - lo) := by rw [← Nat.pow_add, Nat.add_sub_cancel' (by omega)]
  rw [rb, rb, hpow, Nat.mod_mul_right_div_self, Nat.mod_mod_of_dvd _ (Nat.pow_dvd_pow 2 (by omega))]

/-- The immediate of a compressed form, in the word that it stands for. -/
theorem ofNat_rsx_rsx (v : Nat) : BitVec.ofNat 64 (rsx 12 64 (rsx 6 12 v % 4096)) = BitVec.ofInt 64 (BitVec.ofNat 6 v).toInt := by
  have hlow : BitVec.ofNat 12 (rsx 6 12 v % 4096) = BitVec.ofNat 12 (rsx 6 12 v) :=
    BitVec.eq_of_toNat_eq (by rw [BitVec.toNat_ofNat, BitVec.toNat_ofNat, Nat.mod_mod])
  rw [ofNat_rsx (by decide) (by decide), hlow, ofNat_rsx (by decide) (by decide), ← signExtend_eq_ofInt (v := 12) _ (by decide),
    BitVec.toInt_signExtend_of_le (by decide)]

theorem ofNat_immCI : BitVec.ofNat 64 (rsx 12 64 (rsx 6 12 (rb w.toNat 12 1 * 32 + rb w.toNat 2 5) % 4096)) =
    BitVec.ofInt 64 ((w.extractLsb' 12 1) ++ (w.extractLsb' 2 5)).toInt := by
  rw [ofNat_rsx_rsx, extract_eq_ofNat, extract_eq_ofNat, ofNat_append _ (rb_lt ..), Nat.mul_comm]
  rfl

variable {rd rs imm : Nat} {m : BMach}

/-- ADDI, as the word of its fields. -/
theorem run_opRv_addi (hd : rd < 32) (hs : rs < 32) : (opRv (iWord 0x13 rd 0 rs imm)).run m = .ok () { m with
    e := m.e.setX (BitVec.ofNat 5 rd) (m.e.getX (BitVec.ofNat 5 rs) + BitVec.ofNat 64 (rsx 12 64 (imm % 4096))) } := by
  have hop : iWord 0x13 rd 0 rs imm % 128 = 0x13 := by unfold iWord; omega
  have hrd : rb (iWord 0x13 rd 0 rs imm) 7 5 = rd := by unfold iWord rb; omega
  have hf3 : rb (iWord 0x13 rd 0 rs imm) 12 3 = 0 := by unfold iWord rb; omega
  have hrs : rb (iWord 0x13 rd 0 rs imm) 15 5 = rs := by unfold iWord rb; omega
  have himm : rb (iWord 0x13 rd 0 rs imm) 20 12 = imm % 4096 := by unfold iWord rb; omega
  refine (run_opRv_result (w := iWord 0x13 rd 0 rs imm) ?_).trans (by rw [hrd])
  simp only [resultOf, hop, imm64, hf3, hrs, himm]

/-- ADD, as the word of its fields. -/
theorem run_opRv_add {rs' : Nat} (hd : rd < 32) (hs : rs < 32) (hs' : rs' < 32) : (opRv (rWord 0x33 rd 0 rs rs' 0)).run m = .ok () { m with
    e := m.e.setX (BitVec.ofNat 5 rd) (m.e.getX (BitVec.ofNat 5 rs) + m.e.getX (BitVec.ofNat 5 rs')) } := by
  have hop : rWord 0x33 rd 0 rs rs' 0 % 128 = 0x33 := by unfold rWord; omega
  have hrd : rb (rWord 0x33 rd 0 rs rs' 0) 7 5 = rd := by unfold rWord rb; omega
  have hf3 : rb (rWord 0x33 rd 0 rs rs' 0) 12 3 = 0 := by unfold rWord rb; omega
  have hf7 : rb (rWord 0x33 rd 0 rs rs' 0) 25 7 = 0 := by unfold rWord rb; omega
  have hrs : rb (rWord 0x33 rd 0 rs rs' 0) 15 5 = rs := by unfold rWord rb; omega
  have hrs' : rb (rWord 0x33 rd 0 rs rs' 0) 20 5 = rs' := by unfold rWord rb; omega
  refine (run_opRv_result (w := rWord 0x33 rd 0 rs rs' 0) ?_).trans (by rw [hrd])
  simp only [resultOf, hop, hf7, hf3, hrs, hrs', alu64]

theorem getX_zero (e : Bench) : e.getX (BitVec.ofNat 5 0) = 0 := rfl

/-! The words of four compressed forms. -/

theorem expandC_addi (hq : w.toNat % 4 = 1) (hf : rvField w 13 3 = 0) : expandC (w.toNat % 65536) =
    some (iWord 0x13 (rb w.toNat 7 5) 0 (rb w.toNat 7 5) (rsx 6 12 (rb w.toNat 12 1 * 32 + rb w.toNat 2 5))) := by
  have hq' : w.toNat % 65536 % 4 = 1 := by omega
  simp only [expandC, hq', expand1, rb_halfword w.toNat (show 13 + 3 ≤ 16 by decide), rb_halfword w.toNat (show 7 + 5 ≤ 16 by decide),
    rb_halfword w.toNat (show 12 + 1 ≤ 16 by decide), rb_halfword w.toNat (show 2 + 5 ≤ 16 by decide),
    show rb w.toNat 13 3 = 0 from hf]

theorem expandC_li (hq : w.toNat % 4 = 1) (hf : rvField w 13 3 = 2) : expandC (w.toNat % 65536) =
    some (iWord 0x13 (rb w.toNat 7 5) 0 0 (rsx 6 12 (rb w.toNat 12 1 * 32 + rb w.toNat 2 5))) := by
  have hq' : w.toNat % 65536 % 4 = 1 := by omega
  simp only [expandC, hq', expand1, rb_halfword w.toNat (show 13 + 3 ≤ 16 by decide), rb_halfword w.toNat (show 7 + 5 ≤ 16 by decide),
    rb_halfword w.toNat (show 12 + 1 ≤ 16 by decide), rb_halfword w.toNat (show 2 + 5 ≤ 16 by decide),
    show rb w.toNat 13 3 = 2 from hf]

theorem rb_2_5_ne_zero (h : rvReg w 2 ≠ 0) : rb w.toNat 2 5 ≠ 0 := fun h0 => h (congrArg (BitVec.ofNat 5) h0)

theorem expandC_mv (hq : w.toNat % 4 = 2) (hrs : rvReg w 2 ≠ 0) (hf : rvField w 12 4 = 8) :
    expandC (w.toNat % 65536) = some (rWord 0x33 (rb w.toNat 7 5) 0 0 (rb w.toNat 2 5) 0) := by
  have hq' : w.toNat % 65536 % 4 = 2 := by omega
  have hf3 : rb w.toNat 13 3 = 4 := by unfold rvField at hf; unfold rb; omega
  have hbit : rb w.toNat 12 1 = 0 := by unfold rvField at hf; unfold rb; omega
  simp only [expandC, hq', expand2, rb_halfword w.toNat (show 13 + 3 ≤ 16 by decide), rb_halfword w.toNat (show 7 + 5 ≤ 16 by decide),
    rb_halfword w.toNat (show 12 + 1 ≤ 16 by decide), rb_halfword w.toNat (show 2 + 5 ≤ 16 by decide), hf3, hbit, if_true,
    if_neg (rb_2_5_ne_zero hrs)]

theorem expandC_add (hq : w.toNat % 4 = 2) (hrs : rvReg w 2 ≠ 0) (hf : rvField w 12 4 = 9) :
    expandC (w.toNat % 65536) = some (rWord 0x33 (rb w.toNat 7 5) 0 (rb w.toNat 7 5) (rb w.toNat 2 5) 0) := by
  have hq' : w.toNat % 65536 % 4 = 2 := by omega
  have hf3 : rb w.toNat 13 3 = 4 := by unfold rvField at hf; unfold rb; omega
  have hbit : rb w.toNat 12 1 = 1 := by unfold rvField at hf; unfold rb; omega
  simp only [expandC, hq', expand2, rb_halfword w.toNat (show 13 + 3 ≤ 16 by decide), rb_halfword w.toNat (show 7 + 5 ≤ 16 by decide),
    rb_halfword w.toNat (show 12 + 1 ≤ 16 by decide), rb_halfword w.toNat (show 2 + 5 ≤ 16 by decide), hf3, hbit,
    Nat.one_ne_zero, if_false, if_neg (rb_2_5_ne_zero hrs)]

end

/-! ### Loaded values and targets -/

/-- A value of n bits, sign-extended. -/
theorem sextN_ofNat {n v : Nat} (hn : 0 < n) (h : n ≤ 64) (hv : v < 2 ^ n) : sextN (BitVec.ofNat 64 v) n =
    if 2 ^ (n - 1) ≤ v then BitVec.ofInt 64 ((v : Int) - (2 ^ n : Nat)) else BitVec.ofNat 64 v := by
  have hhalf : 2 ^ n = 2 * 2 ^ (n - 1) := by rw [← Nat.pow_succ', Nat.succ_eq_add_one, Nat.sub_add_cancel hn]
  have hv64 : v < 2 ^ 64 := hv.trans_le (Nat.pow_le_pow_right (by decide) h)
  rw [sextN, signExtend_eq_ofInt _ h, BitVec.toInt_eq_toNat_cond, BitVec.toNat_setWidth, BitVec.toNat_ofNat, Nat.mod_eq_of_lt hv64,
    Nat.mod_eq_of_lt hv]
  by_cases hneg : 2 ^ (n - 1) ≤ v
  · rw [if_neg (by omega), if_pos hneg]
  · rw [if_pos (by omega), if_neg hneg, BitVec.ofInt_natCast]

/-- What a load puts into its register: f3 below 4 extends the sign. -/
theorem loadValue_eq {f3 v : Nat} (hv : v < 2 ^ (8 * 2 ^ (f3 % 4))) :
    (if 4 ≤ f3 then BitVec.ofNat 64 v else sextN (BitVec.ofNat 64 v) (8 * 2 ^ (f3 % 4))) =
      if f3 < 4 ∧ 2 ^ (8 * 2 ^ (f3 % 4) - 1) ≤ v then BitVec.ofInt 64 ((v : Int) - (2 ^ (8 * 2 ^ (f3 % 4)) : Nat))
      else BitVec.ofNat 64 v := by
  by_cases hwide : 4 ≤ f3
  · rw [if_pos hwide, if_neg (by omega)]
  · have hbytes : 2 ^ (f3 % 4) ≤ 2 ^ 3 := Nat.pow_le_pow_right (by decide) (by omega)
    rw [if_neg hwide, sextN_ofNat (Nat.mul_pos (by decide) (Nat.two_pow_pos _)) (by omega) hv]
    simp only [not_le.1 hwide, true_and]

theorem Memory.length_readRun (m : Memory) (a n : Nat) : (Memory.readRun m a n).length = n := by
  induction n generalizing a with
  | zero => rfl
  | succ n ih => exact congrArg Nat.succ (ih (a + 1))

theorem and_not_one_eq_ofNat (x : Word) : x &&& ~~~1 = BitVec.ofNat 64 (x.toNat / 2 * 2) := by
  apply BitVec.eq_of_getLsbD_eq
  intro i hi
  rw [BitVec.getLsbD_ofNat, decide_eq_true hi, Bool.true_and, ← pow_one 2, Nat.testBit_mul_two_pow, Nat.testBit_div_two_pow,
    BitVec.getLsbD_and, BitVec.getLsbD_not, decide_eq_true hi, Bool.true_and]
  cases i with
  | zero => simp
  | succ i => simp [BitVec.testBit_toNat]

end Sys2Proof.Machine

namespace Sys2Proof.Claims

open Sys2Proof.Machine

variable {s : State} {b n : Nat} {e : Bench} {w : BitVec 32}

/-! ### The instructions of a bench core (R396, R398, R413) -/

theorem exec_wide (hw : w.toNat % 4 = 3) : exec (.benchInstruction w) s = runBench s 4 Bench.retire (opRv w.toNat) := if_pos hw

theorem exec_compressed {x : Nat} (hw : w.toNat % 4 ≠ 3) (hx : expandC (w.toNat % 65536) = some x) :
    exec (.benchInstruction w) s = runBench s 2 Bench.retire (opRv x) := (if_neg hw).trans (by rw [hx])

/-- The instruction whose operation comes to an end retires, with the episode and the PC that it leaves. -/
theorem BenchBegins.retires_of_ok {i : Instr} {op : BM Unit} (h : BenchBegins s b n e) (h2 : 2 ≤ n)
    (hi : exec i s = runBench s n Bench.retire op) {e' : Bench} {pc : Word}
    (hr : op.run (benchMach s b n) = .ok () { benchMach s b n with e := e', npc := pc }) : RetiresB i s b e' pc := by
  rw [RetiresB, hi, runBench_of_ok h h2 hr]
  rfl

/-- C.ADDI and C.LI. -/
theorem BenchBegins.compressed_addi {rs : Nat} (h : BenchBegins s b 2 e) (hq : w.toNat % 4 ≠ 3) (hs : rs < 32)
    (hx : expandC (w.toNat % 65536) = some (iWord 0x13 (rb w.toNat 7 5) 0 rs (rsx 6 12 (rb w.toNat 12 1 * 32 + rb w.toNat 2 5)))) :
    RetiresB (.benchInstruction w) s b (e.setX (rvReg w 7) (BitVec.ofInt 64 ((e.getX (BitVec.ofNat 5 rs)).toInt +
      ((w.extractLsb' 12 1) ++ (w.extractLsb' 2 5)).toInt))) (e.pc + 2) := by
  rw [BitVec.ofInt_add, BitVec.ofInt_toInt, ← ofNat_immCI]
  have he := h.2.1
  subst he
  exact h.retires (by decide) (exec_compressed hq hx) (run_opRv_addi (rb_lt ..) hs)

/-- C.MV and C.ADD. -/
theorem BenchBegins.compressed_add {rs : Nat} (h : BenchBegins s b 2 e) (hq : w.toNat % 4 ≠ 3) (hs : rs < 32)
    (hx : expandC (w.toNat % 65536) = some (rWord 0x33 (rb w.toNat 7 5) 0 rs (rb w.toNat 2 5) 0)) :
    RetiresB (.benchInstruction w) s b (e.setX (rvReg w 7) (e.getX (BitVec.ofNat 5 rs) + e.getX (rvReg w 2))) (e.pc + 2) := by
  have he := h.2.1
  subst he
  exact h.retires (by decide) (exec_compressed hq hx) (run_opRv_add (rb_lt ..) hs (rb_lt ..))

theorem BenchBegins.result (h : BenchBegins s b 4 e) (hw : w.toNat % 4 = 3) {v : Word}
    (hv : rvResult w e.pc (e.getX (rvReg w 15)) (e.getX (rvReg w 20)) = some v) :
    RetiresB (.benchInstruction w) s b (e.setX (rvReg w 7) v) (e.pc + 4) := by
  have he := h.2.1
  subst he
  exact h.retires (by decide) (exec_wide hw) (run_opRv_result (resultOf_of_rvResult hv))

theorem BenchBegins.jal (h : BenchBegins s b 4 e) (hw : w.toNat % 4 = 3) (hop : rvField w 0 7 = 0x6F) :
    RetiresB (.benchInstruction w) s b (e.setX (rvReg w 7) (e.pc + 4)) (BitVec.ofInt 64 (e.pc.toInt + immJ w)) := by
  rw [BitVec.ofInt_add, BitVec.ofInt_toInt, ← ofNat_immJ]
  have he := h.2.1
  subst he
  exact h.retires (by decide) (exec_wide hw) (run_opRv_jal ((opcode_eq w).symm.trans hop))

theorem BenchBegins.jalr (h : BenchBegins s b 4 e) (hw : w.toNat % 4 = 3) (hop : rvField w 0 7 = 0x67) (hf3 : rvField w 12 3 = 0) :
    RetiresB (.benchInstruction w) s b (e.setX (rvReg w 7) (e.pc + 4))
      (BitVec.ofNat 64 ((BitVec.ofInt 64 ((e.getX (rvReg w 15)).toInt + immI w)).toNat / 2 * 2)) := by
  rw [← and_not_one_eq_ofNat, BitVec.ofInt_add, BitVec.ofInt_toInt, ← ofNat_immI w (by decide)]
  have he := h.2.1
  subst he
  exact h.retires (by decide) (exec_wide hw) (run_opRv_jalr ((opcode_eq w).symm.trans hop) hf3)

theorem BenchBegins.branch (h : BenchBegins s b 4 e) (hw : w.toNat % 4 = 3) {t : Bool} (hop : rvField w 0 7 = 0x63)
    (ht : rvBranch (rvField w 12 3) (e.getX (rvReg w 15)) (e.getX (rvReg w 20)) = some t) :
    RetiresB (.benchInstruction w) s b e (if t then BitVec.ofInt 64 (e.pc.toInt + immB w) else e.pc + 4) := by
  rw [BitVec.ofInt_add, BitVec.ofInt_toInt, ← ofNat_immB]
  have he := h.2.1
  subst he
  exact h.retires_of_ok (by decide) (exec_wide hw)
    (run_opRv_branch ((opcode_eq w).symm.trans hop) (branchTaken_of_rvBranch ht))

theorem BenchBegins.fence (h : BenchBegins s b 4 e) (hw : w.toNat % 4 = 3) (hop : rvField w 0 7 = 0x0F) (hf3 : rvField w 12 3 ≤ 1) :
    RetiresB (.benchInstruction w) s b e (e.pc + 4) := by
  have he := h.2.1
  subst he
  exact h.retires_of_ok (by decide) (exec_wide hw) (run_opRv_fence ((opcode_eq w).symm.trans hop) hf3)

theorem BenchBegins.load (h : BenchBegins s b 4 e) (hw : w.toNat % 4 = 3) :
    let f3 := rvField w 12 3
    let va := BitVec.ofInt 64 ((e.getX (rvReg w 15)).toInt + immI w)
    let n := 2 ^ (f3 % 4)
    let v := ofBytes (Memory.readRun e.sram va.toNat n)
    rvField w 0 7 = 0x03 → f3 ≠ 7 → va.toNat % n = 0 → va.toNat + n ≤ 65536 → RetiresB (.benchInstruction w) s b
      (e.setX (rvReg w 7) (if f3 < 4 ∧ 2 ^ (8 * n - 1) ≤ v then BitVec.ofInt 64 ((v : Int) - (2 ^ (8 * n) : Nat))
        else BitVec.ofNat 64 v)) (e.pc + 4) := by
  intro f3 va n v hop hf3 halign hin
  have he := h.2.1
  subst he
  have haddr : loadAddr w.toNat (benchMach s b 4) = va := by
    rw [loadAddr, ofNat_immI w (by decide), show va = _ from BitVec.ofInt_add .., BitVec.ofInt_toInt]
    rfl
  have hv : sramLoaded w.toNat (benchMach s b 4) = v := by
    rw [sramLoaded, haddr]
    rfl
  have hlt : v < 2 ^ (8 * n) := (ofBytes_lt _).trans_eq (by rw [Memory.length_readRun])
  have hrun := run_opRv_load (w := w.toNat) (m := benchMach s b 4) ((opcode_eq w).symm.trans hop) hf3 (by rw [haddr]; exact halign)
    (by rw [haddr]; exact hin)
  rw [hv, loadValue_eq (f3 := rb w.toNat 12 3) hlt] at hrun
  exact h.retires (by decide) (exec_wide hw) hrun

theorem BenchBegins.store (h : BenchBegins s b 4 e) (hw : w.toNat % 4 = 3) :
    let f3 := rvField w 12 3
    let va := BitVec.ofInt 64 ((e.getX (rvReg w 15)).toInt + immS w)
    rvField w 0 7 = 0x23 → f3 ≤ 3 → va.toNat % 2 ^ f3 = 0 → va.toNat + 2 ^ f3 ≤ 65536 → RetiresB (.benchInstruction w) s b
      { e with sram := Memory.writeRun e.sram va.toNat (bytesOf (2 ^ f3) ((e.getX (rvReg w 20)).toNat % 2 ^ (8 * 2 ^ f3))) }
      (e.pc + 4) := by
  intro f3 va hop hf3 halign hin
  have he := h.2.1
  subst he
  have haddr : storeAddr w.toNat (benchMach s b 4) = va := by
    rw [storeAddr, ofNat_immS, show va = _ from BitVec.ofInt_add .., BitVec.ofInt_toInt]
    rfl
  have hrun := run_opRv_store (w := w.toNat) (m := benchMach s b 4) ((opcode_eq w).symm.trans hop) hf3 (by rw [haddr]; exact halign)
    (by rw [haddr]; exact hin)
  rw [haddr] at hrun
  exact h.retires_of_ok (by decide) (exec_wide hw) hrun

theorem benchIntegerResults : BenchIntegerResults := by
  refine ⟨fun s b e w h => ?_, fun s b e w h hw => ?_⟩
  · intro rd next k
    refine ⟨fun hq hf => ?_, fun hq hf => ?_, fun hq hrs => ⟨fun hf => ?_, fun hf => ?_⟩⟩
    · exact h.compressed_addi (by omega) (rb_lt ..) (expandC_addi hq hf)
    · have hli := h.compressed_addi (by omega) (by decide) (expandC_li hq hf)
      rwa [getX_zero, show (0 : Word).toInt = 0 from rfl, zero_add] at hli
    · have hmv := h.compressed_add (by omega) (by decide) (expandC_mv hq hrs hf)
      rwa [getX_zero, zero_add] at hmv
    · exact h.compressed_add (by omega) (rb_lt ..) (expandC_add hq hrs hf)
  · exact ⟨fun _ => h.result hw, h.jal hw, h.jalr hw, fun _ => h.branch hw, h.fence hw, h.load hw, h.store hw⟩

/-! ### Exceptions (R397) -/

/-- A wide instruction that raises an exception ends its episode. -/
theorem exec_wide_of_fault (hi : s.issuing = some (.bench b)) (hw : w.toNat % 4 = 3) (hpc : (s.bench b).pc.toNat + 4 ≤ 65536) {code : Nat}
    {v : Word} {m : BMach} (hr : (opRv w.toNat).run (benchMach s b 4) = .error (.fault code v) m) :
    exec (.benchInstruction w) s = .next ((hereB s).faultEpisode b code v) :=
  (exec_wide hw).trans (runBench_of_fault ⟨hi, rfl, hpc⟩ (by decide) hr)

theorem runBench_of_leaves {retire : Bench → Word → Bench} {op : BM Unit} (hi : s.issuing = some (.bench b))
    (hpc : 65536 < (s.bench b).pc.toNat + 2) :
    runBench s n retire op = .next ((hereB s).faultEpisode b 1 (s.bench b).pc) := by
  simp only [runBench, hi, leavesSram_of_lt hpc, if_true]
  rfl

theorem benchFaults : BenchFaults := by
  intro s b w hi e ends
  refine ⟨fun hop hpc => ?_, fun hop hpc => ?_, fun hop hpc => ?_, fun hpc => ?_⟩
  · exact exec_wide_of_fault hi (by omega) hpc (run_opRv_illegal hop)
  · subst hop
    exact exec_wide_of_fault hi rfl hpc rfl
  · subst hop
    exact exec_wide_of_fault hi rfl hpc rfl
  · by_cases hw : w.toNat % 4 = 3
    · exact (exec_wide hw).trans (runBench_of_leaves hi hpc)
    · exact (if_neg hw).trans (runBench_of_leaves hi hpc)

/-- Settles O45: the results of R396 instruction by instruction, and the exceptions of R397. -/
theorem benchInstructionResults : Obligations.BenchInstructionResults := ⟨benchIntegerResults, benchFaults⟩

end Sys2Proof.Claims

end
